-- ==== Sys2Proof/Word.lean ====
section
/-!
DEFINITION. The plain number and byte types of the model.
Identifiers of the part (tiles, ports, slots, contexts, partitions, bindings, device extents) are naturals:
the manual counts them and never masks them. What the manual treats as bits is a bit vector.
-/

namespace Sys2Proof

/-- A byte, as memory, tile stores and messages carry it (R7, R8). -/
abbrev Byte := BitVec 8

/-- A 64-bit word: a scalar register of a context or a reel instruction word (ch. 13, 14). -/
abbrev Word := BitVec 64

/-- A finite table: what a key that is not listed holds is said by each table's accessor.
Tables are kept sorted by key by their one update operation, `Tab.set` (Machine/Tab.lean). -/
abbrev Tab (α : Type) := List (Nat × α)

end Sys2Proof
end

