-- ==== Sys2Proof/Machine/Messages.lean ====
section
/-!
DEFINITION. What SPDM messages, Fligifer payloads and packets of the mesh carry, as operands of commands (18 R398 to R401,
19 R417, R418, 05 R121 to R133). Verdicts
of signature and MAC checks come as operands (log entry 5); `tr` is the part of the DSP0274 transcript that precedes the
response whose signature covers it.
-/

namespace Sys2Proof

/-- An SPDM request in the clear, to the part as responder, or FINISH. -/
inductive SpdmReq where
  /-- GET_VERSION. -/
  | getVersion
  /-- GET_CAPABILITIES; the requester advertises MUT_AUTH_CAP. -/
  | getCapabilities (mutAuth : Bool)
  /-- NEGOTIATE_ALGORITHMS; the offer holds the algorithms of R398. -/
  | negotiate (offered : Bool)
  /-- GET_DIGESTS. -/
  | getDigests
  /-- GET_CERTIFICATE: `len` bytes at `off` of the chain of `slot`. -/
  | getCertificate (slot off len : Nat)
  /-- CHALLENGE; `summary` asks for a measurement summary hash. -/
  | challenge (slot : Nat) (summary : Bool) (tr : List Byte)
  /-- GET_MEASUREMENTS of `index`: 0 for the number of blocks, 0xFF for all. -/
  | getMeasurements (index : Nat) (sign : Bool) (slot : Nat) (tr : List Byte)
  /-- KEY_EXCHANGE: the requester's session identifier half, its ECDH public value, and MLKEM_EK, empty when missing. -/
  | keyExchange (reqId : Nat) (summary : Bool) (pub ek tr : List Byte)
  /-- FINISH: its verdict, and the SHA-384 of the requester's chain and of its root, 0 when it presented none. -/
  | finish (ok : Bool) (chain root : Nat)
deriving DecidableEq, Repr

/-- An SPDM message within a session (R418). -/
inductive SessReq where
  /-- HEARTBEAT. -/
  | heartbeat
  /-- KEY_UPDATE: operation 1 UpdateKey, 2 UpdateAllKeys, 3 VerifyNewKey. -/
  | keyUpdate (op : Nat)
  /-- END_SESSION. -/
  | endSession
deriving DecidableEq, Repr

/-- Application data of a secured message (R418). -/
inductive App where
  /-- APP_KIND 0x05: an SPDM message within the session. -/
  | spdm (m : SessReq)
  /-- APP_KIND 0x46: a Fligifer message. -/
  | flig (m : List Byte)
  /-- Any other APP_KIND. -/
  | other
deriving DecidableEq, Repr

/-- What follows a binding header (R417), by its KIND. -/
inductive Payload where
  /-- KIND 0: an SPDM message in the clear. -/
  | clear (m : SpdmReq)
  /-- KIND 1: a secured message of session `sess` with sequence number `sq`; its MAC checks. -/
  | secured (sess sq : Nat) (macOk : Bool) (app : App)
  /-- KIND 2: a Fligifer message in the clear. -/
  | flig (m : List Byte)
  /-- A reserved KIND. -/
  | other (kind : Nat)
deriving DecidableEq, Repr

/-- An SPDM response to the part as requester of a link session (R401). -/
inductive SpdmResp where
  /-- VERSION; it offers 1.3. -/
  | version (has13 : Bool)
  /-- CAPABILITIES. -/
  | capabilities
  /-- ALGORITHMS; it selects those of R398. -/
  | algorithms (ok : Bool)
  /-- DIGESTS; there is a chain in slot 0. -/
  | digests (slot0 : Bool)
  /-- CERTIFICATE: a portion of `len` bytes; with the last one, the SHA-384 of the whole chain. -/
  | certificate (len : Nat) (last : Bool) (digest : Nat)
  /-- KEY_EXCHANGE_RSP: the verdict of its signatures, MLKEM_CT (empty when missing), the responder's public value, its half of
  the session identifier, and whether it asks for mutual authentication; the transcript that FINISH signs. -/
  | keyExchangeRsp (ok : Bool) (ct pub : List Byte) (rspId : Nat) (mutAuth : Bool) (tr : List Byte)
  /-- An encapsulated request: 1 GET_DIGESTS, 2 GET_CERTIFICATE of `len` bytes at `off`, 0 no more; the transcript that FINISH
  signs. -/
  | encapsulated (kind off len : Nat) (tr : List Byte)
  /-- FINISH_RSP; its verdict. -/
  | finishRsp (ok : Bool)
  /-- ERROR, or any other message. -/
  | error
deriving DecidableEq, Repr

/-! ### Packets of the tile mesh (05 R121 to R133) -/

/-- Traffic classes (05 R123). -/
inductive MeshClass where
  /-- Contributions, mover data, relocation copies. -/
  | bulk
  /-- Transport requests from port engines to home tiles. -/
  | req
  /-- Forwards, back-invalidations and notifications from homes to port engines. -/
  | fwd
  /-- Mirror writes, dual writes at a relocation target, pair writes. -/
  | mirror
  /-- Every response, and the data of forwards to port engines. -/
  | rsp
  /-- Row and column multicasts. -/
  | mcast
deriving DecidableEq, Repr

/-- The blocks of a tile that receive packets (05 R124). -/
inductive MeshBlock where
  /-- Port engine. -/
  | port
  /-- Extent unit. -/
  | extent
  /-- Stack controller. -/
  | stack
  /-- Directory slice. -/
  | directory
  /-- Mover. -/
  | mover
  /-- Sequencers. -/
  | sequencer
  /-- Compositor. -/
  | compositor
  /-- Coordinator of pool operations. -/
  | coordinator
deriving DecidableEq, Repr

/-- Inputs and outputs of a router on each plane (05 R121, R122). -/
inductive MeshDir where
  /-- Row ring, rising X. -/
  | xPlus
  /-- Row ring, falling X. -/
  | xMinus
  /-- Column ring, rising Y. -/
  | yPlus
  /-- Column ring, falling Y. -/
  | yMinus
  /-- The local injection port. -/
  | inject
  /-- The local ejection port. -/
  | eject
deriving DecidableEq, Repr

/-- Virtual channels of a class (05 R123, R126). -/
inductive MeshVC where
  /-- Open traffic in order YX or XY (MCAST: always XY) on dateline VC 0 or 1. -/
  | open_ (yx dateline : Bool)
  /-- Sealed traffic of one phase on dateline VC 0 or 1. -/
  | phased (phase : Nat) (dateline : Bool)
deriving DecidableEq, Repr

/-- One buffer of a router: an input or the ejection port, a class and a virtual channel. -/
structure MeshBuf where
  /-- The input whose buffer it is, or `eject`. -/
  inp : MeshDir
  /-- Class. -/
  cls : MeshClass
  /-- Virtual channel. -/
  vc : MeshVC
deriving DecidableEq, Repr

/-- A packet of a message, as its source gives it to its router (05 R122 to R132). -/
structure MeshPkt where
  /-- Class. -/
  cls : MeshClass
  /-- Class whose consumption generated it, if any (05 R124). -/
  cause : Option MeshClass
  /-- Partition it is made for. -/
  part : Nat
  /-- Source tile: with `num`, MSG_ID. -/
  src : Nat
  /-- Destinations, one bit per tile; a unicast packet has one. -/
  mask : Nat
  /-- Receiving block at each destination. -/
  block : MeshBlock
  /-- 12-bit message number. -/
  num : Nat
  /-- TOTAL. -/
  total : Nat
  /-- OFFSET. -/
  offset : Nat
  /-- COUNT. -/
  count : Nat
  /-- LAST. -/
  last : Bool
  /-- Its data bytes, 128 to a flit. -/
  data : List Byte
  /-- Physical line of its first data flit, where its data are lines of pool memory. -/
  line : Option Nat
  /-- Tiles whose routers corrected a single-bit error of it. -/
  fixed : List Nat
  /-- Data flits that met a double-bit error, by number. -/
  bad : List Nat
deriving DecidableEq, Repr

end Sys2Proof
end

