-- ==== Sys2Proof/Syntax.lean ====
section
/-!
DEFINITION. The commands of the block: one constructor per row of spec/opcode_table.json, with the operands a row
needs and the table leaves unlisted (log entry 5). Ports, tiles, slots, contexts, partitions and bindings are naturals;
`t` is nanoseconds since the slate of the current frame; `sess` is a Fligifer session number; `seq` a request's SEQ.
-/

namespace Sys2Proof

/-- A transport message header, less the OPCODE (04 R94). -/
structure Hdr where
  /-- [7] RETRY, [6] FENCE, [5:0] reserved. -/
  flags : Nat
  /-- Total message bytes. -/
  len : Nat
  /-- Sender's endpoint identifier. -/
  src : Nat
  /-- Receiver's endpoint identifier. -/
  dst : Nat
  /-- [15:10] partition, [9:0] incarnation. -/
  handle : Nat
  /-- Transaction tag. -/
  tag : Nat
  /-- Tag epoch, [1:0]. -/
  epoch : Nat
  /-- Outcome in responses. -/
  status : Nat
deriving DecidableEq, Repr

/-- A command, as the opcode table lists it. -/
inductive Instr where
  /-- SLATE (R46): At each frame boundary every tile applies the armed take, handles the lease, quarantine and throttle ends due, and starts the new call sheet. `ptp` is the PTP time in ns at this slate. -/
  | slate (ptp : Nat)
  /-- SLATE_GUARD (R31): At 248 µs into a frame the slate guard opens: blocks only finish work already begun, and the next call sheet is prepared. `uj` is the package energy measured over the frame, in uJ (log entry 30). -/
  | slateGuard (uj : Nat)
  /-- SLATE_TREE_SILENT (R29): The slate tree stays silent for 10 ticks past an expected slate, and each tile then generates its slates from its own counter. -/
  | slateTreeSilent
  /-- SLATE_IN_EDGE (R34): A rising edge on SLATE_IN either marks the slate, when it falls inside the window, or is ignored and counted as missed. `off` is the edge's distance in ns from the expected slate, `spacing` the time in ns since the edge before. -/
  | slateInEdge (off : Int) (spacing : Nat)
  /-- SLATE_IN_SOURCE_LOST (R34): After 16 consecutive slates with no edge in the window, the source is reported lost and the part runs as in FREE mode. -/
  | slateInSourceLost
  /-- SLATE_IN_REACQUIRE (R34): Four consecutive edges spaced correctly re-acquire the SLATE_IN source and start phase alignment. `phase` is the phase error in ns. -/
  | slateInReacquire (phase : Int)
  /-- PTP_SYNC (R33): A PTP Sync message is taken and the frame logic corrects its offset from the master. `port` is the management port, `dom` the PTP domain, `best`: the sender is the best master, by the Announce messages of both ports (log entry 122), `offset` the offset from the master in ns, measured with the delay request-response mechanism. -/
  | ptpSync (port dom : Nat) (best : Bool) (offset : Int)
  /-- PTP_LOCKED (R33): After 16 consecutive Syncs with an offset below 1 µs, the frame logic reports itself locked. -/
  | ptpLocked
  /-- PTP_HOLDOVER (R33): Sync messages stop, and the part holds over on its frame clock and reports HOLDOVER. -/
  | ptpHoldover
  /-- SLATE_SOURCE_WRITE (R35): A write of SLATE_SOURCE selects FREE, PTP or SLATE_IN mode and starts phase alignment to the new source. -/
  | slateSourceWrite (sess seq v t : Nat)
  /-- FRAME_NUMBER_LOAD (R36): A write of FRAME_NUMBER_LOAD replaces any pending value that will be compared at the next slate. -/
  | frameNumberLoad (sess seq v t : Nat)
  /-- TAKE_STAGE_OPEN (R39): A write of the base take opens a staging, copying every live half into its shadow, or is refused with BUSY or TAKE_STALE_BASE. -/
  | takeStageOpen (sess seq v t : Nat)
  /-- TAKE_STAGE_CLOSE (R496): A write of 1 from the staging session discards the staging and returns the take state to IDLE. -/
  | takeStageClose (sess seq v t : Nat)
  /-- TAKE_COMMIT (R40): A write of 1 validates the whole shadow, then either moves the take to PENDING and distributes it or refuses with the code of the first fault. -/
  | takeCommit (sess seq v t : Nat)
  /-- TAKE_ABORT (R41): A write of 1 discards a pending take before its arm point, or is refused with TAKE_ARMED or BUSY. -/
  | takeAbort (sess seq v t : Nat)
  /-- TAKE_ARM_POINT (R41): 20 µs before the target slate the pending take is armed if every tile has acknowledged it, and fails with TAKE_FAILED otherwise. `acked`: every in-service tile has acknowledged the distributed shadow. -/
  | takeArmPoint (acked : Bool)
  /-- CONTINUITY_TAKE_COMMIT (R44): Once the take state is IDLE, the lead core commits a slot-map-only take for a relocation at the minimum lead. -/
  | continuityTakeCommit (t : Nat)
  /-- FEC_BLOCK_DECODE (R64): The receiver decodes the four codewords of an FEC block and drops every cell that has a bit in an uncorrectable block. `bad` lists the symbols of the block, by transmission order, that are received wrong. -/
  | fecBlockDecode (p : Nat) (bad : List Nat)
  /-- LOSS_OF_LOCK (R64): Eight consecutive uncorrectable blocks, or four consecutive CRC failures, report loss of lock and start a recovery splice. -/
  | lossOfLock (p : Nat)
  /-- RX_TRANSPORT_CELL (R76): A TRANSPORT cell is classified by its sequence number, then delivered to its channel's stream, dropped with a replay request, or discarded as a duplicate. The payload is given deciphered; `crcOk` and `tagOk` say whether the cell's CRC and tag verify. -/
  | rxTransportCell (p hdr : Nat) (payload : List Byte) (crcOk tagOk : Bool) (noise : List (Nat × Nat)) (t : Nat)
  /-- RX_KEY_MARK (R72): A KEY_MARK cell marks the first sequenced cell of a new key phase, and the receiver discards the previous key and derives the next. -/
  | rxKeyMark (p hdr : Nat) (crcOk tagOk : Bool)
  /-- RX_IDLE_CELL (R76): An IDLE link-control cell is authenticated by its CCOUNT, and its acknowledgement and credit are acted on. -/
  | rxIdleCell (p hdr : Nat) (payload : List Byte) (crcOk tagOk : Bool)
  /-- RX_REPLAY_REQ (R75): A REPLAY_REQ makes the transmitter resend from the requested outstanding cell, or is ignored. -/
  | rxReplayReq (p hdr : Nat) (payload : List Byte) (crcOk tagOk : Bool)
  /-- RX_CREDIT_SYNC (R82): A CREDIT_SYNC cell sets the credit limits as given and resolves the credit mode between the two ends. -/
  | rxCreditSync (p hdr : Nat) (payload : List Byte) (crcOk tagOk : Bool)
  /-- RX_SPLICE_REQ (R87): A SPLICE_REQ is answered with SPLICE_ACK, or the two ends resolve simultaneous requests by LINK_ID. -/
  | rxSpliceReq (p hdr : Nat) (payload : List Byte) (crcOk tagOk : Bool)
  /-- RX_SPLICE_ACK (R85): A SPLICE_ACK fixes the agreed target, and the end pauses sequenced traffic and sends SPLICE_PAUSE. -/
  | rxSpliceAck (p hdr : Nat) (payload : List Byte) (crcOk tagOk : Bool)
  /-- RX_SPLICE_PAUSE (R85): A SPLICE_PAUSE records the far end's last sequenced cell for comparison after the splice. -/
  | rxSplicePause (p hdr : Nat) (payload : List Byte) (crcOk tagOk : Bool)
  /-- RX_RESERVED_CTYPE (R68): A cell with a reserved CTYPE is dropped whole without a tag check and counted as a protocol error. -/
  | rxReservedCtype (p hdr : Nat) (crcOk : Bool)
  /-- TAG_FAILURE_LIMIT (R74): The fourth tag failure in a link session ends the session and logs a security event. -/
  | tagFailureLimit (p : Nat)
  /-- RESERVED_CTYPE_LIMIT (R68): The sixteenth cell with a reserved CTYPE in a link session ends the session. -/
  | reservedCtypeLimit (p : Nat)
  /-- TX_SEQUENCED_CELL (R75): A ready sequenced cell, with credit held, is assigned its SEQ and count, encrypted, kept for replay and sent. The cell slot is offered to channel `vc`. -/
  | txSequencedCell (p vc : Nat)
  /-- REPLAY_TIMEOUT (R75): The oldest outstanding cell passes REPLAY_TIMEOUT with no ACK progress, and the transmitter resends from it. -/
  | replayTimeout (p : Nat)
  /-- REPLAY_RESEND_LIMIT (R78): The same oldest cell has been resent 16 times without the ACK advancing, and a recalibration splice begins. -/
  | replayResendLimit (p : Nat)
  /-- REPLAY_REQ_HOLDOFF (R77): The holdoff expires, and the receiver may send a further REPLAY_REQ. -/
  | replayReqHoldoff (p : Nat)
  /-- CREDIT_REFRESH (R79): The refresh timer of a virtual channel expires, and its credit counter is sent in the next cell. -/
  | creditRefresh (p vc : Nat)
  /-- KEY_PHASE_FLIP (R72): The transmitter flips KPH to the next key phase once it has been allowed to and the cell count requires it. -/
  | keyPhaseFlip (p : Nat)
  /-- REKEY_LIMIT (R73): A key reaches REKEY_CELLS cells without a permitted flip, and the transmitter stops and the session ends. -/
  | rekeyLimit (p : Nat)
  /-- LANE_MARKED_BAD (R65): A lane exceeds LANE_ERR_LIMIT in two consecutive frames, is marked bad, and a degrade splice begins. -/
  | laneMarkedBad (p lane : Nat)
  /-- UNCORR_LIMIT_EXCEEDED (R65): The uncorrectable codewords of a frame exceed UNCORR_LIMIT, and a recalibration splice begins at the slate. -/
  | uncorrLimitExceeded (p : Nat)
  /-- SPLICE_CMD_WIDTH (R85): A SPLICE_CMD write of KIND width starts a width splice. -/
  | spliceCmdWidth (sess seq p width speed mask t : Nat)
  /-- SPLICE_CMD_RECALIBRATE (R85): A SPLICE_CMD write of KIND recalibrate starts a recalibration splice. -/
  | spliceCmdRecalibrate (sess seq p width speed mask t : Nat)
  /-- SPLICE_CMD_SPEED (R85): A SPLICE_CMD write of KIND speed starts a speed splice. -/
  | spliceCmdSpeed (sess seq p width speed mask t : Nat)
  /-- SPLICE_CMD_DEGRADE (R85): A SPLICE_CMD write of KIND degrade starts a degrade splice. -/
  | spliceCmdDegrade (sess seq p width speed mask t : Nat)
  /-- TRAINING_STATE_ADVANCE (R85): After 8 consecutive valid training words of the current state from the far end, the end advances to the next training state. `words` are the 128-bit training words received eight times in a row, one on each incoming lane in ascending order; `ask`: this receiver asks for precoding. -/
  | trainingStateAdvance (p : Nat) (words : List Nat) (ask : Bool)
  /-- TS4_COUNTDOWN_END (R85): The TS4 COUNTDOWN reaches 0 and superblock 0 starts on the next bit. `word` is the last training word received, `polarity` the lanes that arrive inverted at the die, `us` the splice's duration, `peer` the identity that the far end presents at a link-up. -/
  | ts4CountdownEnd (p word polarity us peer t : Nat)
  /-- SPLICE_RESPONSE_TIMEOUT (R88): An unanswered SPLICE_REQ is resent, and after three resends the port falls to full link-up. -/
  | spliceResponseTimeout (p : Nat)
  /-- SPLICE_BOUND_EXCEEDED (R88): A splice exceeds its bound, and the port falls to full link-up. `us` microseconds have passed since the SPLICE_ACK, or since the splice or link-up began. -/
  | spliceBoundExceeded (p us : Nat)
  /-- LOCK_HOLD_EXPIRY (R89): LOCK_HOLD expires without a fast splice, and the port falls to full link-up. -/
  | lockHoldExpiry (p : Nat)
  /-- LINK_UP_FAILED (R83): A third link-up fails in a row, and the port enters FAILED. -/
  | linkUpFailed (p : Nat)
  /-- FAILED_PORT_RETRY (R83): Each second a FAILED port tries a new link-up. -/
  | failedPortRetry (p : Nat)
  /-- RX_RESERVED_OPCODE (R93): A message with a reserved OPCODE is skipped by its LENGTH, then answered with UNSUPPORTED as a request or discarded as a response. -/
  | rxReservedOpcode (port op : Nat) (h : Hdr) (t : Nat)
  /-- READ (R98): A host READ passes the port checks and is served at the home with data, DATA_ERROR or POISONED. `noise` are the transient errors that its reads meet, (line * 288 + symbol, xor), the symbols of a retry 144 higher. -/
  | read (port : Nat) (h : Hdr) (addr len : Nat) (noise : List (Nat × Nat)) (t : Nat)
  /-- WRITE (R106): A host WRITE passes the port checks and is applied at the home, writing every line of a multi-line write that can be written. -/
  | write (port : Nat) (h : Hdr) (addr : Nat) (data : List Byte) (noise : List (Nat × Nat)) (t : Nat)
  /-- ATOMIC (R100): A host ATOMIC performs its operation at the line's home and returns the old value. -/
  | atomic (port : Nat) (h : Hdr) (addr op size a b : Nat) (noise : List (Nat × Nat)) (t : Nat)
  /-- FENCE (R111): A FENCE is held until every earlier request of its binding on the port has a response, and is then answered. -/
  | fence (port : Nat) (h : Hdr) (t : Nat)
  /-- FENCE_RELEASE (R111): The last earlier response of the binding is generated, and the held FENCE request is released. Request `id` of the port. -/
  | fenceRelease (port id : Nat) (noise : List (Nat × Nat)) (t : Nat)
  /-- HEARTBEAT (R150): A HEARTBEAT renews the binding's lease to the frame plus EXPIRY_FRAMES, or is answered with LEASE_EXPIRED. -/
  | heartbeat (port : Nat) (h : Hdr) (t : Nat)
  /-- POOL_OP_FILL (R292): A POOL_OP FILL writes the pattern over the range, or sets fresh bits for an all-zero pattern. -/
  | poolOpFill (port : Nat) (h : Hdr) (addr len plen pat t : Nat)
  /-- POOL_OP_COPY (R291): A POOL_OP COPY copies the source range to the destination in staged windows, under the prefix rule. -/
  | poolOpCopy (port : Nat) (h : Hdr) (dst src len t : Nat)
  /-- POOL_OP_COMPARE (R292): A POOL_OP COMPARE finds the lowest offset at which the two ranges differ. -/
  | poolOpCompare (port : Nat) (h : Hdr) (a b len t : Nat)
  /-- POOL_OP_REDUCE (R292): A POOL_OP REDUCE computes an exact SUM, or MIN, MAX or ARGMAX, over the range. -/
  | poolOpReduce (port : Nat) (h : Hdr) (fmt func addr len t : Nat)
  /-- POOL_OP_DEQUEUE (R288): A queued pool operation of a partition starts at a slot once fewer than two of that partition's operations are in progress there. -/
  | poolOpDequeue (slot p : Nat)
  /-- STAGING_BUFFER_GRANT (R291): A freed staging buffer, or a released sealed-partition claim, is granted to a waiting pool-operation window. -/
  | stagingBufferGrant (slot : Nat)
  /-- POOL_OP_WINDOW_COMPLETE (R291): A window's lines at a slot have been written or compared, and its buffer or claim is released. -/
  | poolOpWindowComplete (port id w slot : Nat)
  /-- POOL_OP_COMPLETE (R293): The coordinator sends POOL_OP_RESP with the result block once every slot has finished. -/
  | poolOpComplete (port id : Nat)
  /-- PUBLISH (R155): A PUBLISH is checked at the region's home in arrival order and then flipped, or answered with a conflict or refusal. -/
  | publish (port : Nat) (h : Hdr) (region staging base t : Nat)
  /-- PUBLISH_DEFERRED_START (R156): A PUBLISH that reached the head of its queue inside the last 2 µs before the guard starts after the slate, under the take then in force. Region `g` of partition `p`. -/
  | publishDeferredStart (p g t : Nat)
  /-- PUBLISH_FLIP_COMPLETE (R156): Every tile has acknowledged the view update, and the home advances the version and answers OK. -/
  | publishFlipComplete (p g : Nat)
  /-- PUBLISH_QUERY (R155): A PUBLISH_QUERY returns the region's current version, view and publisher. -/
  | publishQuery (port : Nat) (h : Hdr) (region t : Nat)
  /-- CONTRIB (R351): A contribution is checked at the chunk's home and added into the accumulators, or refused. -/
  | contrib (port : Nat) (h : Hdr) (comp contributor count offset fmt : Nat) (data : List Byte) (t : Nat)
  /-- RD_SHARED (R173): A shared read request is served from memory or forwarded to the line's responder of record. -/
  | rdShared (port : Nat) (h : Hdr) (addr t : Nat)
  /-- RD_OWN (R173): An ownership read invalidates the other copies where needed and forwards to the responder, or is served from memory. -/
  | rdOwn (port : Nat) (h : Hdr) (addr t : Nat)
  /-- UPGRADE (R173): A recorded sharer's UPGRADE back-invalidates the other sharers and is granted Modified. -/
  | upgrade (port : Nat) (h : Hdr) (addr t : Nat)
  /-- DIRTY_NOTIFY (R173): The owner of an Exclusive line moves it to Modified, or the request is answered with NOT_OWNER. -/
  | dirtyNotify (port : Nat) (h : Hdr) (addr t : Nat)
  /-- WRITEBACK (R173): The owner writes the line back to memory and the entry becomes uncached, or the data is discarded with NOT_OWNER. -/
  | writeback (port : Nat) (h : Hdr) (addr : Nat) (line : List Byte) (t : Nat)
  /-- EVICT_CLEAN (R173): A holder is removed from the directory entry. -/
  | evictClean (port : Nat) (h : Hdr) (addr t : Nat)
  /-- FWD_ACK (R174): A holder's acknowledgement of a forward is applied in forward order and updates the directory entry. `line` is the line that follows with HAS_DATA 1. -/
  | fwdAck (port : Nat) (h : Hdr) (outcome kept : Nat) (line : Option (List Byte)) (t : Nat)
  /-- BACK_INVAL_ACK (R172): A back-invalidation acknowledgement is counted, and any Modified data it carries is written to memory. -/
  | backInvalAck (port : Nat) (h : Hdr) (line : Option (List Byte)) (t : Nat)
  /-- UNCACHED_RECALL_COMPLETE (R163): The recalls of an uncached access to a coherent line have been acknowledged, and the access proceeds. -/
  | uncachedRecallComplete (ln t : Nat)
  /-- DIR_EVICTION_COMPLETE (R169): An eviction-buffer entry has all its acknowledgements, frees its slot, and releases the requests waiting on it. -/
  | dirEvictionComplete (ln t : Nat)
  /-- COH_GRACE_EXPIRY (R178): A holder's grace time expires without an answer or a return to SECURE, and the holder is lost. -/
  | cohGraceExpiry (b : Nat)
  /-- AWAITED_WRITEBACK_TIMEOUT (R176): No awaited WRITEBACK arrives within COH_GRACE_FRAMES after OUTCOME 1 from a Modified owner, and the line is lost. -/
  | awaitedWritebackTimeout (ln : Nat)
  /-- INVALIDATE_REQ (R258): A translation agent's invalidation is multicast to every mover, and the affected slab entries lose VALID. -/
  | invalidateReq (port : Nat) (h : Hdr) (ctx start len t : Nat)
  /-- INVALIDATE_DRAIN_COMPLETE (R258): Every mover has drained its bursts on invalidated pages, and INVALIDATE_CPL is sent. -/
  | invalidateDrainComplete (port id : Nat)
  /-- PAIR_WRITE (R236): The peer checks a PAIR_WRITE and applies it at the secondary's home. -/
  | pairWrite (port : Nat) (h : Hdr) (pair offset : Nat) (data : List Byte) (t : Nat)
  /-- PAIR_WRITE_RESP (R238): A pair-write response completes the primary's write, or degrades the pair. -/
  | pairWriteResp (port : Nat) (h : Hdr) (t : Nat)
  /-- PAIR_RESYNC_SEND (R239): In RESYNC each tile sends the granules of its dirty regions and clears each region's bit once it is answered. -/
  | pairResyncSend (n tile : Nat) (t : Nat)
  /-- DOORBELL (R440): A DOORBELL to the part is dispatched by INDEX to a ring doorbell, the management mailbox or a context mailbox. -/
  | doorbell (port : Nat) (h : Hdr) (index value t : Nat)
  /-- DOORBELL_RESP (R312): The response to a doorbell that the part sent is matched, and a given-up context doorbell is recorded as a reel event. -/
  | doorbellResp (port : Nat) (h : Hdr) (t : Nat)
  /-- NOTIFY_ACK (R116): An endpoint acknowledges a NOTIFY that the part sent. -/
  | notifyAck (port : Nat) (h : Hdr) (t : Nat)
  /-- WINDOW_READ (R436): A WINDOW_READ returns the window registers it covers, in ascending offset order. -/
  | windowRead (port : Nat) (h : Hdr) (off len t : Nat)
  /-- WINDOW_WRITE (R436): A WINDOW_WRITE to window registers that have no behaviour of their own stores the value, or records the refusal in ERR_STATUS. -/
  | windowWrite (port : Nat) (h : Hdr) (off : Nat) (data : List Byte) (t : Nat)
  /-- MGMT (R104): An in-band MGMT message carries a Fligifer payload and is answered with exactly one MGMT_RESP. -/
  | mgmt (port : Nat) (h : Hdr) (magic ver : Nat) (p : Payload) (ecdsaOk mldsaOk : Bool) (t : Nat)
  /-- MGMT_RESP (R104): An endpoint's MGMT_RESP answers a MGMT request that the part originated. -/
  | mgmtResp (port : Nat) (h : Hdr) (t : Nat)
  /-- HOME_RECHECK (R106): A request that reaches its home tile is checked again under the take then in force before it executes. -/
  | homeRecheck (port id : Nat) (noise : List (Nat × Nat)) (t : Nat)
  /-- INBOUND_QUEUE_DISPATCH (R107): A request held in a partition's inbound queue is injected once the partition's port share permits. -/
  | inboundQueueDispatch (port p t : Nat)
  /-- PART_REQ_TIMEOUT (R116): A request that the part originated times out and is resent, or given up after PART_REQ_RETRIES resends. -/
  | partReqTimeout (port dst tag epoch t : Nat)
  /-- COMPLETION_CACHE_EXPIRY (R115): A cached class C completion reaches RETRY_CACHE_FRAMES and leaves the completion cache. -/
  | completionCacheExpiry (port : Nat)
  /-- MESH_MESSAGE_COMPLETE (R132): The accumulated COUNT of a multi-packet message equals its TOTAL, and the message completes. A packet of a message enters the mesh at time `t`, while other traffic holds these flits of the routers' buffers. -/
  | meshMessageComplete (k : MeshPkt) (bufs : List (Nat × MeshBuf × Nat)) (t : Nat)
  /-- THROTTLE_ENTER (R131): Open traffic in an injection queue reaches THROTTLE_HIGH, and the tile enters throttle. Open, then sealed, flits of other traffic in the two injection queues at time `t`. -/
  | throttleEnter (tile req rsp sreq srsp t : Nat)
  /-- THROTTLE_LEAVE (R131): Open occupancy falls to THROTTLE_LOW, and the tile leaves throttle. -/
  | throttleLeave (tile req rsp sreq srsp t : Nat)
  /-- MESH_HEADER_DOUBLE_ERROR (R122): A double-bit error in a header flit counts as a critical-state error and triggers a tile reset. -/
  | meshHeaderDoubleError (tile : Nat)
  /-- CRYPTO_ERASE (R144): After the queued writes drain, the extent's fresh bits are set, its key is zeroised and its tags are rewritten. -/
  | cryptoErase (dxn : Nat)
  /-- KEY_DRAW (R382): The key home draws a new extent key from its DRBG, multicasts it, and releases the writes waiting on it. -/
  | keyDraw (dxn : Nat)
  /-- LEASE_LATE (R151): 2 × H frames pass without a heartbeat, and the lease goes LATE and sends one NOTIFY. -/
  | leaseLate (b : Nat)
  /-- LEASE_EXPIRY (R150): The slate of the expiry frame arrives, the lease goes EXPIRED, and the reclaim begins. -/
  | leaseExpiry (b : Nat)
  /-- LEASE_RECLAIM_COMPLETE (R152): The binding's holdings have been reclaimed, the lease is marked DEAD, and its completion cache is emptied. -/
  | leaseReclaimComplete (b : Nat)
  /-- DEVICE_EXTENT_QUARANTINE_END (R145): A device extent's 8-frame quarantine ends and it may be mapped again. -/
  | deviceExtentQuarantineEnd (dxn : Nat)
  /-- DIR_PROBE (R182): A write of DIR_PROBE looks up a line's directory entry into DIR_PROBE_RESULT. -/
  | dirProbe (sess seq part va t : Nat)
  /-- STACK_BURST_PICK (R191): In each burst slot, each pseudo-channel picks one burst for the slot's user. Slot `k` of pseudo-channel `pc`; `ready` lists the banks whose next command meets the timing parameters for it. -/
  | stackBurstPick (tile pc k : Nat) (ready : List Nat)
  /-- PER_BANK_REFRESH (R195): A bank's refresh interval falls due and a per-bank refresh of 8 rows is issued, within the postponement limits. -/
  | perBankRefresh (tile pc bank t : Nat)
  /-- TARGETED_REFRESH (R197): An aggressor row reaches a multiple of the threshold, and its neighbours are refreshed in the bank's next permitted slot or window. -/
  | targetedRefresh (tile pc bank t : Nat)
  /-- HAMMER_THROTTLE_START (R198): A partition's hammer events on a stack reach HAMMER_EVENT_LIMIT in a frame, and its activation budget is throttled. -/
  | hammerThrottleStart (tile p : Nat)
  /-- HAMMER_THROTTLE_END (R198): A hammer throttle ends at the slate after the throttled frame. -/
  | hammerThrottleEnd (tile p : Nat)
  /-- POWER_DOWN_ENTRY (R199): An idle pseudo-channel enters power-down once PD_TIMER has run out. -/
  | powerDownEntry (tile pc t : Nat)
  /-- TRAIN_READ_EYE (R200): A TRAIN_CTRL write with MODE 0 and GO sweeps the read eye and records the errors per DQ. -/
  | trainReadEye (sess seq tile v t : Nat)
  /-- TRAIN_WRITE_EYE (R200): A TRAIN_CTRL write with MODE 1 and GO sweeps the write eye. -/
  | trainWriteEye (sess seq tile v t : Nat)
  /-- TRAIN_COMMAND_ADDRESS (R200): A TRAIN_CTRL write with MODE 2 and GO sweeps the command and address delay and sets it to the midpoint. -/
  | trainCommandAddress (sess seq tile v t : Nat)
  /-- TRAIN_VERIFY (R200): A TRAIN_CTRL write with MODE 3 and GO writes and reads 2^20 bursts of PRBS31. -/
  | trainVerify (sess seq tile v t : Nat)
  /-- TRAIN_STEP_COMPLETE (R200): A training step ends: GO clears and TRAIN_STATUS shows done or failed. `errs` are the mismatched bits of the 72 DQ lines, `mid` the midpoint of the widest passing window, `dur` the duration in 100 ns. -/
  | trainStepComplete (tile : Nat) (errs : List Nat) (mid : Option Nat) (dur : Nat)
  /-- RETRAIN_REQ (R201): A write of a pseudo-channel number asks for a retraining during service, or is refused with BUSY. -/
  | retrainReq (sess seq tile v t : Nat)
  /-- RETRAIN_START (R201): At the maintenance window or the next slate, the helper holds the pseudo-channel's requests and starts the retraining. -/
  | retrainStart (tile t : Nat)
  /-- RETRAIN_COMPLETE (R201): The retraining sets new delays or restores the old ones, and releases the held requests within 20 µs. `taps` are the new centres of the 72 read and 72 write delays. -/
  | retrainComplete (tile : Nat) (ok : Bool) (taps : List Nat) (dur : Nat)
  /-- UNCORRECTABLE_RETRY (R209): An uncorrectable line is re-read once in the next usable slot, and is then delivered or declared uncorrectable. -/
  | uncorrectableRetry (ln : Nat) (noise : List (Nat × Nat)) (t : Nat)
  /-- POISON_SIGNATURE_WRITE (R209): The poison signature is written to the line as a system write, unless a partition write has overtaken it. `ln` is the line's device physical address / 128. -/
  | poisonSignatureWrite (ln t : Nat)
  /-- SCRUB_READ (R214): The patrol scrubber reads its next eligible line, writes back corrections, and hands uncorrectable lines to repair or poisoning. `noise` are transient errors of the read, (symbol, xor). -/
  | scrubRead (tile : Nat) (noise : List (Nat × Nat)) (t : Nat)
  /-- SCRUB_ENABLE_WRITE (R214): A write of SCRUB_ENABLE stops the scrubber at its position or resumes it from there. -/
  | scrubEnableWrite (sess seq v t : Nat)
  /-- DIE_RETIRE_WRITE (R207): A write of DIE_RETIRE retires a die from the next slate, or is refused with RETIRE_LIMIT. -/
  | dieRetireWrite (sess seq tile v t : Nat)
  /-- DIE_ALERT_CHECK (R218): At the one-second check, the die alerts and the row spread are evaluated for retirement. -/
  | dieAlertCheck (tile : Nat)
  /-- TEST_WRITE_RAW (R216): A TEST_CTRL GO with OP 0 latches the registers for a raw write of data and check symbols to a free-extent line. -/
  | testWriteRaw (sess seq v t : Nat)
  /-- TEST_WRITE_ENCODED (R216): A TEST_CTRL GO with OP 1 latches the registers for an encoded write with its check symbols XORed by the mask. -/
  | testWriteEncoded (sess seq v t : Nat)
  /-- TEST_READ (R216): A TEST_CTRL GO with OP 2 latches the registers for a raw read of a line and its decode outcome. -/
  | testRead (sess seq v t : Nat)
  /-- TEST_OP_EXECUTE (R216): Within 1 µs, the latched test operation rechecks the extent and is performed, or reports OUTCOME 7. -/
  | testOpExecute (noise : List (Nat × Nat)) (t : Nat)
  /-- FILL_START (R217): Once the stack runs at 4 GT/s on the fused seeds, the fill engine starts writing zero lines to the whole stack. -/
  | fillStart (tile : Nat)
  /-- FILL_COMPLETE (R217): The fill ends: fresh bits and tags are set, keys are zeroised, and FILL_STATUS reads done. -/
  | fillComplete (tile ms : Nat)
  /-- FILL_TIMEOUT (R217): 400 ms after RESET_N release some fill is unfinished, and the lead core is released with FAULT_CODE 3. -/
  | fillTimeout
  /-- RELOC_RELOCATE (R224): A RELOC_CTRL write with OP 0 starts a relocation of a slot to a qualifying standby tile, or is refused with BUSY. -/
  | relocRelocate (sess seq v t : Nat)
  /-- RELOC_SELFTEST (R231): A RELOC_CTRL write with OP 1 relocates the slot and then self-tests the source. -/
  | relocSelftest (sess seq v t : Nat)
  /-- RELOC_RETURN (R225): A RELOC_CTRL write with OP 2 moves the slot back to its return tile. -/
  | relocReturn (sess seq v t : Nat)
  /-- RELOC_AUTO_START (R224): Firmware starts a relocation on a trigger once no relocation runs and a target qualifies. -/
  | relocAutoStart (slot : Nat)
  /-- RELOC_PREPARE_COMPLETE (R226): The target has been powered, filled and trained, and the copy begins. `ok`: powering, fill and training succeeded. -/
  | relocPrepareComplete (ok : Bool)
  /-- RELOC_COPY_COMPLETE (R227): The copy of lines and retention state to the target has finished, and composite chunks are copied next. -/
  | relocCopyComplete
  /-- RELOC_DRAIN_COMPLETE (R27): The old tile has drained the requests that reached it before the swap, and enters STANDBY, TESTING or FAILED. -/
  | relocDrainComplete
  /-- SELFTEST_COMPLETE (R231): The self-test ends: the tile enters STANDBY or FAILED, and a return relocation starts if RETURN was set. `code` is the failing block code, 0 for a pass. -/
  | selftestComplete (code : Nat)
  /-- STACK_LOST (R234): 64 uncorrectable reads in a frame mark the stack lost, and mirrored lines are served from the mirror copies. -/
  | stackLost (tile : Nat)
  /-- RING_DOORBELL (R250): A ring doorbell records the new TAIL and starts fetching, or is refused. A DOORBELL request for the doorbell of ring `r`. -/
  | ringDoorbell (port : Nat) (h : Hdr) (r v t : Nat)
  /-- DESCRIPTOR_FETCH (R253): A ring fetches its next descriptor, checks it, and sends TRANSLATE_REQ for the remote pages. -/
  | descriptorFetch (p r : Nat)
  /-- TRANSLATE_RESP (R254): Returned translations fill slab entries, with tainted entries discarded and requested again. -/
  | translateResp (port : Nat) (h : Hdr) (body : List Byte) (t : Nat)
  /-- PAGE_RESP (R260): A page-fault answer resumes every waiter of the fault entry, or completes each of them with PAGE_FAULT. -/
  | pageResp (port : Nat) (h : Hdr) (t : Nat)
  /-- MOVER_CHUNK_START (R256): An engine starts a chunk when the budget covers it and it can end before the guard. -/
  | moverChunkStart (slot engine t : Nat)
  /-- MOVE_WRITE_RESP (R255): A PUSH burst's commit succeeds or fails, and BYTES_DONE advances over the committed prefix. -/
  | moveWriteResp (port : Nat) (h : Hdr) (t : Nat)
  /-- MOVE_READ_RESP (R255): PULL data is staged and written to pool memory in burst order. -/
  | moveReadResp (port : Nat) (h : Hdr) (data : List Byte) (t : Nat)
  /-- MOVER_TASK_COMPLETE (R262): With its bursts finished, a task writes its completion record. -/
  | moverTaskComplete (p r slab : Nat)
  /-- COMPLETION_RECORD_ACK (R262): The record write is acknowledged, COMPLETED advances, and NOTIFY and DOORBELL are sent. -/
  | completionRecordAck (p r slab : Nat)
  /-- RING_HALT_COMPLETE (R264): The halting ring's tasks have drained, and the ring reads HALTED. -/
  | ringHaltComplete (p r : Nat)
  /-- RING_RESTART (R264): A restart write resumes a halted ring at the given count, or is refused. A WINDOW_WRITE of ring `r`'s restart register. -/
  | ringRestart (port : Nat) (h : Hdr) (r v t : Nat)
  /-- SLAB_PROBE (R267): A write of SLAB_PROBE copies the named translation slab into SLAB_PROBE_RESULT. -/
  | slabProbe (sess seq v t : Nat)
  /-- GO (R303): A write of 1 to GO checks the launch at the launch home and moves its contexts to PENDING, or refuses it. -/
  | go (port : Nat) (h : Hdr) (v t : Nat)
  /-- CYCLE_BUDGET_EXHAUSTED (R306): A context's budget runs out outside a cut, and it moves to STOPPED. -/
  | cycleBudgetExhausted (slot ctx t : Nat)
  /-- BARRIER_ARRIVAL (R310): The coordinator counts an arrival, and once every rank has arrived it advances the generation and multicasts the release. -/
  | barrierArrival (slot ctx : Nat)
  /-- BARRIER_RELEASE (R310): A context receives the release, discards its prefetch, and returns to RUNNING. -/
  | barrierRelease (slot ctx : Nat)
  /-- POSTED_STORE_REFUSAL (R327): A home refuses a posted store, and the context takes STORE_REFUSED at its next instruction. -/
  | postedStoreRefusal (slot ctx : Nat)
  /-- CONTEXT_CLEAR (R311): A write to CONTEXT_CLEAR zeroises a FAULTED context and returns it to IDLE, or is refused. -/
  | contextClear (port : Nat) (h : Hdr) (v t : Nat)
  /-- EVENT_CONSUMED (R438): A write of EVENT_CONSUMED advances the consumed count of the reel event queue, or is refused with BAD_REQUEST. -/
  | eventConsumed (port : Nat) (h : Hdr) (v t : Nat)
  /-- ILLEGAL_INSTRUCTION (R319): A word with a reserved opcode or field takes ILLEGAL_INSTRUCTION before it has any effect. -/
  | illegalInstruction (slot ctx stall t : Nat)
  /-- ADD (R322): Scalar add. -/
  | add (slot ctx stall t : Nat)
  /-- SUB (R322): Scalar subtract. -/
  | sub (slot ctx stall t : Nat)
  /-- MUL (R322): Scalar multiply, low 64 bits. -/
  | mul (slot ctx stall t : Nat)
  /-- MULHU (R322): Scalar unsigned multiply, high 64 bits. -/
  | mulhu (slot ctx stall t : Nat)
  /-- AND (R322): Scalar bitwise AND. -/
  | and (slot ctx stall t : Nat)
  /-- OR (R322): Scalar bitwise OR. -/
  | or (slot ctx stall t : Nat)
  /-- XOR (R322): Scalar bitwise XOR. -/
  | xor (slot ctx stall t : Nat)
  /-- SHL (R322): Scalar shift left. -/
  | shl (slot ctx stall t : Nat)
  /-- SHR (R322): Scalar logical shift right. -/
  | shr (slot ctx stall t : Nat)
  /-- SAR (R322): Scalar arithmetic shift right. -/
  | sar (slot ctx stall t : Nat)
  /-- SLT (R322): Scalar signed less-than. -/
  | slt (slot ctx stall t : Nat)
  /-- SLTU (R322): Scalar unsigned less-than. -/
  | sltu (slot ctx stall t : Nat)
  /-- LI (R322): Loads a sign-extended 32-bit immediate. -/
  | li (slot ctx stall t : Nat)
  /-- LIH (R322): Loads the high 32 bits. -/
  | lih (slot ctx stall t : Nat)
  /-- BR (R323): Conditional branch on COND. -/
  | br (slot ctx stall t : Nat)
  /-- JAL (R323): Jump and link. -/
  | jal (slot ctx stall t : Nat)
  /-- JR (R323): Jump to a register plus an offset. -/
  | jr (slot ctx stall t : Nat)
  /-- SOPEN (R325): Opens a stream port on a range in local or global order. -/
  | sopen (slot ctx stall t : Nat)
  /-- SCLOSE (R325): Closes a stream port and discards its prefetch. -/
  | sclose (slot ctx stall t : Nat)
  /-- SPOS (R325): Returns the consumption point of a stream. -/
  | spos (slot ctx stall t : Nat)
  /-- SRD (R325): Delivers the next elements of an unscaled stream into a vector register. -/
  | srd (slot ctx stall t : Nat)
  /-- SRDX (R325): Delivers stream elements dequantised exactly to binary32. -/
  | srdx (slot ctx stall t : Nat)
  /-- TLDG (R326): Tile-store load of 8 bytes into a scalar register. `dbl` counts the 64-bit words read that hold a double-bit error. -/
  | tldg (slot ctx stall dbl t : Nat)
  /-- TSTG (R326): Tile-store store of a scalar register. -/
  | tstg (slot ctx stall t : Nat)
  /-- TLDV (R326): Tile-store load of a vector register. `dbl` counts the 64-bit words read that hold a double-bit error. -/
  | tldv (slot ctx stall dbl t : Nat)
  /-- TSTV (R326): Tile-store store of a vector register. -/
  | tstv (slot ctx stall t : Nat)
  /-- TLDQ (R326): Tile-store load of an accumulator. `dbl` counts the 64-bit words read that hold a double-bit error. -/
  | tldq (slot ctx stall dbl t : Nat)
  /-- TSTQ (R326): Tile-store store of an accumulator. -/
  | tstq (slot ctx stall t : Nat)
  /-- TLDM (R326): Tile-store load of a mask. `dbl` counts the 64-bit words read that hold a double-bit error. -/
  | tldm (slot ctx stall dbl t : Nat)
  /-- TSTM (R326): Tile-store store of a mask. -/
  | tstm (slot ctx stall t : Nat)
  /-- PLDG (R327): Pool load of 8 bytes in global order. -/
  | pldg (slot ctx stall t : Nat)
  /-- PSTG (R327): Posted pool store of a scalar register. -/
  | pstg (slot ctx stall t : Nat)
  /-- PSTV (R327): Posted pool store of the low bytes of a vector register. -/
  | pstv (slot ctx stall t : Nat)
  /-- VADD (R329): Vector add. -/
  | vadd (slot ctx stall t : Nat)
  /-- VSUB (R329): Vector subtract. -/
  | vsub (slot ctx stall t : Nat)
  /-- VMUL (R329): Vector multiply. -/
  | vmul (slot ctx stall t : Nat)
  /-- VFMA (R329): Vector fused multiply-add, rounded once. -/
  | vfma (slot ctx stall t : Nat)
  /-- VMIN (R329): Elementwise minimum. -/
  | vmin (slot ctx stall t : Nat)
  /-- VMAX (R329): Elementwise maximum. -/
  | vmax (slot ctx stall t : Nat)
  /-- VAND (R329): Vector bitwise AND. -/
  | vand (slot ctx stall t : Nat)
  /-- VOR (R329): Vector bitwise OR. -/
  | vor (slot ctx stall t : Nat)
  /-- VXOR (R329): Vector bitwise XOR. -/
  | vxor (slot ctx stall t : Nat)
  /-- VCMP_EQ (R329): Elementwise equal comparison into a mask. -/
  | vcmpEq (slot ctx stall t : Nat)
  /-- VCMP_NE (R329): Elementwise not-equal comparison into a mask. -/
  | vcmpNe (slot ctx stall t : Nat)
  /-- VCMP_LT (R329): Elementwise less-than comparison into a mask. -/
  | vcmpLt (slot ctx stall t : Nat)
  /-- VCMP_LE (R329): Elementwise less-or-equal comparison into a mask. -/
  | vcmpLe (slot ctx stall t : Nat)
  /-- VSEL (R329): Elementwise select by mask. -/
  | vsel (slot ctx stall t : Nat)
  /-- VBCAST (R329): Broadcasts a scalar into every element. -/
  | vbcast (slot ctx stall t : Nat)
  /-- VMOV (R329): Vector move. -/
  | vmov (slot ctx stall t : Nat)
  /-- QRD (R329): Reads 128 accumulator values into a vector register. -/
  | qrd (slot ctx stall t : Nat)
  /-- QWR (R329): Writes 128 accumulator values from a vector register. -/
  | qwr (slot ctx stall t : Nat)
  /-- QZERO (R329): Clears an accumulator. -/
  | qzero (slot ctx stall t : Nat)
  /-- MOP_AND (R329): Mask AND. -/
  | mopAnd (slot ctx stall t : Nat)
  /-- MOP_OR (R329): Mask OR. -/
  | mopOr (slot ctx stall t : Nat)
  /-- MOP_XOR (R329): Mask XOR. -/
  | mopXor (slot ctx stall t : Nat)
  /-- MOP_AND_NOT (R329): Mask AND-NOT. -/
  | mopAndNot (slot ctx stall t : Nat)
  /-- MSET (R329): Sets the low bits of a mask from a count. -/
  | mset (slot ctx stall t : Nat)
  /-- MFS (R331): Matrix-from-stream, plain form: streamed rows times register vectors, added into an accumulator. `rows` is how many rows complete before the slate guard. -/
  | mfs (slot ctx stall rows t : Nat)
  /-- MFS_TRANSPOSED (R332): Matrix-from-stream, transposed form, accumulated in runs of 32 rows. `rows` is how many rows complete before the slate guard. -/
  | mfsTransposed (slot ctx stall rows t : Nat)
  /-- SFN_EXP2 (R334): Special function exp2 on 128 binary32 elements. -/
  | sfnExp2 (slot ctx stall t : Nat)
  /-- SFN_LOG2 (R334): Special function log2. -/
  | sfnLog2 (slot ctx stall t : Nat)
  /-- SFN_RECIPROCAL (R334): Special function reciprocal. -/
  | sfnReciprocal (slot ctx stall t : Nat)
  /-- SFN_RSQRT (R334): Special function reciprocal square root. -/
  | sfnRsqrt (slot ctx stall t : Nat)
  /-- SFN_TANH (R334): Special function tanh. -/
  | sfnTanh (slot ctx stall t : Nat)
  /-- VCVT (R335): Converts elements between unscaled formats under RM and SAT. -/
  | vcvt (slot ctx stall t : Nat)
  /-- VQNT (R335): Quantises binary32 values into a scaled format with scales. -/
  | vqnt (slot ctx stall t : Nat)
  /-- VDQ (R335): Dequantises a scaled format exactly to binary32. -/
  | vdq (slot ctx stall t : Nat)
  /-- VRED_SUM (R336): Exact lane sum into a scalar register. -/
  | vredSum (slot ctx stall t : Nat)
  /-- VRED_MIN (R336): Lane minimum into a scalar register. -/
  | vredMin (slot ctx stall t : Nat)
  /-- VRED_MAX (R336): Lane maximum into a scalar register. -/
  | vredMax (slot ctx stall t : Nat)
  /-- VRED_ARGMAX (R336): Lane argmax into a scalar register. -/
  | vredArgmax (slot ctx stall t : Nat)
  /-- TOPK (R337): Selects the k largest values with their indices, optionally merging an earlier list. -/
  | topk (slot ctx stall t : Nat)
  /-- REEL_CONTRIB (R338): The CONTRIB instruction sends one contribution and places the compositor's answer in Gd. `cut`: the slate guard falls between the message and its answer. -/
  | reelContrib (slot ctx stall : Nat) (cut : Bool) (t : Nat)
  /-- BAR (R339): Waits for earlier stores, arrives at the barrier, and waits for the release. -/
  | bar (slot ctx stall t : Nat)
  /-- CUT (R340): Marks a cut point and yields when budget or time before the guard is below NEED. -/
  | cut (slot ctx stall t : Nat)
  /-- SYSR_FRAME (R341): Returns the frame number. -/
  | sysrFrame (slot ctx stall t : Nat)
  /-- SYSR_BUDGET (R341): Returns the budget cycles left in this frame. -/
  | sysrBudget (slot ctx stall t : Nat)
  /-- SYSR_GUARD_CYCLES (R341): Returns the engine cycles until the slate guard. -/
  | sysrGuardCycles (slot ctx stall t : Nat)
  /-- SYSR_FP_FLAGS (R341): Returns FP_FLAGS. -/
  | sysrFpFlags (slot ctx stall t : Nat)
  /-- SYSR_SLOT (R341): Returns the context's logical slot. -/
  | sysrSlot (slot ctx stall t : Nat)
  /-- SYSR_CONTEXT (R341): Returns the context number. -/
  | sysrContext (slot ctx stall t : Nat)
  /-- SYSR_SR_COUNTER (R341): Returns SR_COUNTER. -/
  | sysrSrCounter (slot ctx stall t : Nat)
  /-- SYSR_LAUNCH_TAG (R341): Returns LAUNCH_TAG. -/
  | sysrLaunchTag (slot ctx stall t : Nat)
  /-- SYSR_SPLIT_MODE (R341): Returns 1 in split mode and 0 otherwise. -/
  | sysrSplitMode (slot ctx stall t : Nat)
  /-- CLRF (R341): Clears the selected sticky flags. -/
  | clrf (slot ctx stall t : Nat)
  /-- NOP (R341): No effect. -/
  | nop (slot ctx stall t : Nat)
  /-- DBELL (R342): Sends a DOORBELL with the partition's handle, or returns NOT_BOUND. -/
  | dbell (slot ctx stall t : Nat)
  /-- MBXRECV (R343): Takes the oldest inbound mailbox message, or waits for one. -/
  | mbxrecv (slot ctx stall t : Nat)
  /-- MBXACK (R343): Writes the return code of the message taken last. -/
  | mbxack (slot ctx stall t : Nat)
  /-- MBXSEND (R343): Posts a message to the outbound mailbox, or returns BUSY. -/
  | mbxsend (slot ctx stall t : Nat)
  /-- END (R344): Waits for earlier stores, then closes streams, zeroes registers and returns the context to IDLE. -/
  | endReel (slot ctx stall t : Nat)
  /-- COMP_CREATE (R346): A write of 1 checks the composite descriptor and opens a composite with its reservations, or refuses. -/
  | compCreate (port : Nat) (h : Hdr) (v t : Nat)
  /-- COMP_EXCUSE (R359): Excuses a contributor of an open composite at every home, or refuses. -/
  | compExcuse (port : Nat) (h : Hdr) (v t : Nat)
  /-- COMP_CLOSE (R360): Aborts an open composite of the partition, which notifies CLOSED_BY_HOST. -/
  | compClose (port : Nat) (h : Hdr) (v t : Nat)
  /-- CHUNK_COMPLETE (R355): A chunk's count reaches completion, and it rounds each element once and writes the results to TARGET. -/
  | chunkComplete (n chunk : Nat)
  /-- COMPOSITE_COMPLETE (R358): Every chunk's result writes have been taken, and the coordinator ends the composite and notifies. -/
  | compositeComplete (n : Nat)
  /-- COMPOSITE_STALL (R358): No chunk completes for STALL_FRAMES frames, and COMPOSITE_STALLED is notified. -/
  | compositeStall (n : Nat)
  /-- PARTITION_QUARANTINE_END (R371): A freed partition's quarantine ends, and it becomes FREE or ACTIVE. -/
  | partitionQuarantineEnd (p : Nat)
  /-- LOCK_REQUEST (R375): The tenant's lock request is checked, then LOCK_SEQ advances, the partition key is derived, and the lock is pending. -/
  | lockRequest (sess seq p inc digest t : Nat)
  /-- UNLOCK_REQUEST (R380): A correct kind 2 token ends the lock at the next slate and zeroises the key. -/
  | unlockRequest (sess seq p : Nat) (token : List Byte) (t : Nat)
  /-- DRBG_RESEED (R389): Each 4,000 frames every tile's DRBG is reseeded. -/
  | drbgReseed
  /-- DRBG_HEALTH_FAILURE (R389): An entropy health test fails: the DRBG stops, the event is logged, and key draws move to another tile. -/
  | drbgHealthFailure (tile : Nat)
  /-- SPDM_GET_VERSION (R398): The responder offers version 1.3 only. -/
  | spdmGetVersion (via source : Nat) (h : Hdr) (t : Nat)
  /-- SPDM_GET_CAPABILITIES (R398): The responder reports its capabilities. -/
  | spdmGetCapabilities (via source : Nat) (h : Hdr) (mutAuth : Bool) (t : Nat)
  /-- SPDM_NEGOTIATE_ALGORITHMS (R398): The responder negotiates the fixed algorithm set. -/
  | spdmNegotiateAlgorithms (via source : Nat) (h : Hdr) (offered : Bool) (t : Nat)
  /-- SPDM_GET_DIGESTS (R397): The responder returns the digests of its certificate chains. -/
  | spdmGetDigests (via source : Nat) (h : Hdr) (t : Nat)
  /-- SPDM_GET_CERTIFICATE (R397): The responder returns a certificate chain, or ERROR for a withheld slot. -/
  | spdmGetCertificate (via source : Nat) (h : Hdr) (slot off len t : Nat)
  /-- SPDM_CHALLENGE (R399): The responder answers CHALLENGE_AUTH with hybrid signatures. -/
  | spdmChallenge (via source : Nat) (h : Hdr) (slot : Nat) (summary : Bool) (tr : List Byte) (t : Nat)
  /-- SPDM_GET_MEASUREMENTS (R402): The responder returns measurement blocks taken from one slate, signed. -/
  | spdmGetMeasurements (via source : Nat) (h : Hdr) (index : Nat) (sign : Bool) (slot : Nat) (tr : List Byte) (t : Nat)
  /-- SPDM_KEY_EXCHANGE (R399): The responder performs the hybrid ECDH and ML-KEM key exchange, or refuses. -/
  | spdmKeyExchange (via source : Nat) (h : Hdr) (reqId : Nat) (summary : Bool) (pub ek tr : List Byte) (t : Nat)
  /-- SPDM_FINISH (R398): The responder completes session establishment. -/
  | spdmFinish (via source : Nat) (h : Hdr) (ok : Bool) (chain root t : Nat)
  /-- SPDM_HEARTBEAT (R422): An SPDM heartbeat keeps a secured session alive. -/
  | spdmHeartbeat (via source : Nat) (h : Hdr) (sess sq : Nat) (macOk : Bool) (t : Nat)
  /-- SPDM_KEY_UPDATE (R398): An SPDM key update rekeys the session. -/
  | spdmKeyUpdate (via source : Nat) (h : Hdr) (sess sq : Nat) (macOk : Bool) (op t : Nat)
  /-- SPDM_END_SESSION (R422): END_SESSION ends the secured session. -/
  | spdmEndSession (via source : Nat) (h : Hdr) (sess sq : Nat) (macOk : Bool) (t : Nat)
  /-- LINK_SPDM_ATTEMPT (R401): As link requester, the port's root of trust starts the SPDM sequence toward a hybrid-keyed link session. -/
  | linkSpdmAttempt (p t : Nat)
  /-- SPDM_RESPONSE_RECEIVED (R401): A peer's SPDM response advances the requester sequence, ending with the port moving to SECURE. -/
  | spdmResponseReceived (p : Nat) (h : Hdr) (r : SpdmResp) (t : Nat)
  /-- SPDM_ATTEMPT_RETRY (R401): A failed or unanswered attempt is retried after 1 ms, at most three times, then once per second. -/
  | spdmAttemptRetry (p t : Nat)
  /-- SEAL_REQUEST (R406): A seal request is checked, and the extent becomes sealing from the next slate. -/
  | sealRequest (sess seq p : Nat) (data : List Byte) (t : Nat)
  /-- SEAL_HASH_COMPLETE (R407): Leaves, group digests and the seal digest are done, and SEALED is set at the next slate. -/
  | sealHashComplete (p : Nat)
  /-- DEBUG_BSCAN (R411): Setting BSCAN opens the boundary-scan instructions from the next slate. -/
  | debugBscan (sess seq v t : Nat)
  /-- DEBUG_CORE_DEBUG (R411): Setting CORE_DEBUG opens lead-core halting through the TAP. -/
  | debugCoreDebug (sess seq v t : Nat)
  /-- DEBUG_INTERNAL_SCAN (R411): Setting INTERNAL_SCAN, accepted only while every partition is FREE, opens internal scan chains. -/
  | debugInternalScan (sess seq v t : Nat)
  /-- MGMT_DATAGRAM (R417): A management-port datagram's binding header is checked, and its payload dispatched or discarded. -/
  | mgmtDatagram (n source magic ver : Nat) (p : Payload) (ecdsaOk mldsaOk : Bool) (t : Nat)
  /-- SECURED_MESSAGE (R418): A DSP0277 secured message is authenticated, checked for replay, and its application data dispatched. -/
  | securedMessage (via source : Nat) (h : Hdr) (sess sq : Nat) (macOk : Bool) (app : App) (ecdsaOk mldsaOk : Bool) (t : Nat)
  /-- MGMT_NETWORK_PACKET (R419): NDP, ARP, ICMP and echo packets on a management port are answered. -/
  | mgmtNetworkPacket (n kind target : Nat) (data : List Byte)
  /-- FLIGIFER_READ (R425): A Fligifer READ returns an entry or range, live or shadow. -/
  | fligiferRead (sess seq idx sub off n : Nat) (shadow : Bool) (t : Nat)
  /-- FLIGIFER_WRITE (R416): A Fligifer WRITE to an entry with no behaviour of its own is checked and stored. -/
  | fligiferWrite (sess seq idx sub off : Nat) (data : List Byte) (t : Nat)
  /-- BLOCK_OPEN (R428): Opens a read or write block on an entry, or refuses. -/
  | blockOpen (sess seq idx sub off size : Nat) (rd : Bool) (t : Nat)
  /-- BLOCK_DATA (R428): Moves one chunk of block data, in any order. -/
  | blockData (sess seq id pos len : Nat) (data : List Byte) (t : Nat)
  /-- BLOCK_COMMIT (R429): Checks the whole block and its digest, and applies it as one write. -/
  | blockCommit (sess seq id digest : Nat) (ecdsaOk mldsaOk : Bool) (t : Nat)
  /-- BLOCK_CANCEL (R429): Frees a block without applying it. -/
  | blockCancel (sess seq id t : Nat)
  /-- FIRMWARE_ACTIVATE (R431): Activates the pending image and requests a warm reset, or is refused with BUSY. -/
  | firmwareActivate (sess seq v t : Nat)
  /-- MANAGER_ANCHORS_WRITE (R421): Claims or changes the manager trust anchors, and sessions' classes are re-evaluated. -/
  | managerAnchorsWrite (sess seq off : Nat) (data : List Byte) (t : Nat)
  /-- SUBSCRIBE (R432): Opens or replaces a dailies subscription. -/
  | subscribe (sess seq id parts start t : Nat)
  /-- UNSUBSCRIBE (R432): Ends a dailies subscription. -/
  | unsubscribe (sess seq id t : Nat)
  /-- DAILIES_DATA_SEND (R433): The part sends DAILIES_DATA in frame order, within 32 unacknowledged messages, skipping with GAP where it must. -/
  | dailiesDataSend (id n : Nat)
  /-- DAILIES_ACK (R433): A cumulative acknowledgement frees acknowledged DAILIES_DATA messages. -/
  | dailiesAck (sess seq id t : Nat)
  /-- DAILIES_RESEND (R433): The oldest unacknowledged message is resent after 2 ms. -/
  | dailiesResend (id : Nat)
  /-- SESSION_IDLE_TIMEOUT (R420): An unsecured session ends after 60 s without a message. -/
  | sessionIdleTimeout (sess : Nat)
  /-- SESSION_HEARTBEAT_TIMEOUT (R422): A secured session ends after two heartbeat periods with no message. -/
  | sessionHeartbeatTimeout (sess : Nat)
  /-- ERR_CLEAR (R437): Clears CODE and OFFSET of ERR_STATUS. -/
  | errClear (port : Nat) (h : Hdr) (v t : Nat)
  /-- MGMT_CMD_PING (R446): The management core serves PING with the frame number. -/
  | mgmtCmdPing (b : Nat)
  /-- MGMT_CMD_LEASE (R446): The management core returns the binding's lease state and expiry. -/
  | mgmtCmdLease (b : Nat)
  /-- MGMT_CMD_TAKE (R446): The management core returns the take number in force. -/
  | mgmtCmdTake (b : Nat)
  /-- PUB_STATE_READ (R439): A read of PUB_STATE runs a PUBLISH_QUERY for the selected region and returns its answer. -/
  | pubStateRead (port : Nat) (h : Hdr) (t : Nat)
  /-- MBX_IN (R443): Posts a message to a context's inbound mailbox and raises its wake event, or refuses. -/
  | mbxIn (port : Nat) (h : Hdr) (slot ctx v t : Nat)
  /-- MBX_OUT_STATE (R445): Removes the oldest outbound message if its OUT_SEQ matches the value written. -/
  | mbxOutState (port : Nat) (h : Hdr) (slot ctx v t : Nat)
  /-- ROLLUP_SIGN (R452): After each minute, signed roll-ups are produced per partition and for the system. Minute `m`. -/
  | rollupSign (m : Nat)
  /-- SENSOR_SAMPLE (R454): Every 10 µs each sensor is sampled, and failed sensors are detected. `vals` are the six readings of the tile, 1/8 C. -/
  | sensorSample (tile : Nat) (vals : List Int) (t : Nat)
  /-- ALLOWANCE_REACHED (R456): A partition's governed energy reaches its allowance, and its governed work holds until the slate. -/
  | allowanceReached (slot p : Nat)
  /-- SHARED_BUDGET_HALVING (R461): The package cut stays at 224 for 4 frames, and shared partitions' burst and activation budgets are halved. -/
  | sharedBudgetHalving
  /-- PEAK_WINDOW_ARM (R459): 4,000 consecutive frames below 2,000 W arm the peak window. -/
  | peakWindowArm
  /-- PEAK_WINDOW_EXPIRY (R459): After 160 frames, or when R458 fails, the window enters CLOSING and steps down. -/
  | peakWindowExpiry
  /-- COOLANT_REPORT (R458): A coolant report written over SMBus or the dictionary replaces the value and restarts its age. -/
  | coolantReport (sess seq v t : Nat)
  /-- COOLANT_REPORT_STALE (R458): The coolant report passes 400 frames of age and is no longer valid. -/
  | coolantReportStale
  /-- POWER_ON (R465): VAUX rises through 2.9 V and the part enters cold reset. -/
  | powerOn
  /-- BROWN_OUT (R465): A rail stays below its brown-out level for more than 1 µs while PWRGD is high, causing a cold reset. -/
  | brownOut
  /-- RESET_N_ASSERT (R466): A recognised low pulse on RESET_N holds the part in cold reset. -/
  | resetNAssert (ns : Nat) (seen : Bool)
  /-- COLD_BOOT (R475): On release of RESET_N the fuses are read and the boot sequence starts. -/
  | coldBoot
  /-- FUSE_READ_COMPLETE (R475): The option bytes have been read, and the lead tile and default slot map are formed. -/
  | fuseReadComplete
  /-- PLL_LOCK (R473): The PLLs lock and the stacks begin bring-up. -/
  | pllLock
  /-- PLL_LOCK_TIMEOUT (R473): A PLL has not locked within 500 µs, and the boot stops with FAULT_CODE 2. -/
  | pllLockTimeout
  /-- REFCLK_FAILURE (R465): A missing or off-frequency reference clock causes a cold reset. -/
  | refclkFailure
  /-- PWRGD_LOW (R471): PWRGD falls and the part enters cold reset within 1 µs. -/
  | pwrgdLow
  /-- WRESET_N (R466): A recognised falling edge on WRESET_N starts one warm reset. -/
  | wresetN (ns : Nat) (seen : Bool) (t : Nat)
  /-- WATCHDOG_EXPIRY (R465): The lead core's watchdog runs out, starting a warm reset. -/
  | watchdogExpiry (t : Nat)
  /-- WARM_RESET_REQ (R465): A write of 1 requests a warm reset. -/
  | warmResetReq (sess seq v t : Nat)
  /-- TAP_WARM_RESET (R465): The TAP's warm-reset instruction, while CORE_DEBUG is set, starts a warm reset. -/
  | tapWarmReset (t : Nat)
  /-- CORE_LOCKUP (R465): A double fault or a 1 ms bus hang of the lead core starts a warm reset. -/
  | coreLockup (t : Nat)
  /-- LEAD_HEARTBEAT_MISSING (R476): The lead heartbeat is missing at 4 consecutive slates, and a takeover warm reset starts. -/
  | leadHeartbeatMissing (t : Nat)
  /-- TILE_RESET (R470): A critical-state error restarts the tile's service domain and ends its port's link session. -/
  | tileReset (tile cause : Nat)
  /-- RESET_NOTICE (R470): A port engine resends its unanswered requests once, and homes answer them from their records. -/
  | resetNotice (tile : Nat)
  /-- PARTITION_RESET (R474): A partition number written to PARTITION_RESET ends that partition's work at the next slate. -/
  | partitionReset (sess seq p t : Nat)
  /-- RESET_CAUSE_WRITE (R468): Writing 1 to a RESET_CAUSE bit clears it. -/
  | resetCauseWrite (sess seq v t : Nat)
  /-- SMBUS_TRANSACTION (R489): An SMBus block transfer to a listed command code is executed, with PEC checked. -/
  | smbusTransaction (addr code : Nat) (wr : Bool) (data : List Byte) (pecOk : Bool) (t : Nat)
  /-- VAUX_LOST (R482): VAUX falls below 2.7 V, the part loses all power and the VAUX domain of R468 is cleared. -/
  | vauxLost
  /-- MGMT_PORT_LINK_CHANGE (R434): A management port's 10GBASE-R link comes up or goes down, MGMT_LINK follows it, and a written MGMT_MAC takes effect at the link-up. -/
  | mgmtPortLinkChange (n : Nat) (up : Bool)
  /-- UNMATCHED_RESPONSE (R108): A transport response that matches none of the part's outstanding requests, or is not a legal answer to the matched one, is discarded and counted. -/
  | unmatchedResponse (port op : Nat) (h : Hdr) (t : Nat)
  /-- UNRECEIVABLE_REQUEST (R96): A request whose type the part only sends, such as NOTIFY or TRANSLATE_REQ, arrives and is answered with UNSUPPORTED at step 3 of R105. -/
  | unreceivableRequest (port op : Nat) (h : Hdr) (t : Nat)
  /-- TILE_STORE_MOVE_COMPLETE (R229): 64 µs into a relocation swap frame the tile store has moved, so the slot's contexts resume on the target with capped budget, mover tasks continue, and held mailbox posts complete. -/
  | tileStoreMoveComplete (t : Nat)
  /-- BOOT_ROM_IMAGE_START (R469): After a warm reset the boot ROM finishes checking the active or fallback buffer and starts the image: service domains restart, BOOT_STATUS reads 7, and outstanding management commands are acknowledged. -/
  | bootRomImageStart (okA okB : Bool)
  /-- SLATE_OUT_FALL (R37): SLATE_OUT_WIDTH after a slate, SLATE_OUT returns low. -/
  | slateOutFall
  /-- TAP_INSTRUCTION (R411): An IEEE 1149.1 TAP instruction (IDCODE, BYPASS, boundary scan, or core halt and step) is executed as the debug policy permits. -/
  | tapInstruction (op : Nat)
  /-- REBIND_SCRUB_COMPLETE (R52): The drain and zeroising of a rebound context, tile-store quota, ring slab or binding finishes, the resource is ready for its new owner, and the requests that waited at it are served. -/
  | rebindScrubComplete (kind a b t : Nat)
deriving DecidableEq, Repr

end Sys2Proof
end

