-- ==== Sys2Proof/Decode.lean ====
section
/-!
DEFINITION. Decoding. The opcode table gives no row any bits: a command of this block is an event, a message or a register
access, not a word. No word spells a command.
-/

namespace Sys2Proof

/-- The command that a word of `nbits` bits spells by the table's bits: none does. -/
def decodeTableWord (_nbits _w : Nat) : Option Instr := none

end Sys2Proof
end

