-- ==== Sys2Proof/Machine/Bits.lean ====
section
/-!
DEFINITION. Bit fields (R7), byte orders (R8) and two's complement readings of naturals.
-/

namespace Sys2Proof.Machine

/-- Field [hi:lo] of `v`, both ends included (R7). -/
def fld (v hi lo : Nat) : Nat := (v / 2 ^ lo) % 2 ^ (hi + 1 - lo)

/-- Bit `b` of `v`. -/
def bit (v b : Nat) : Bool := fld v b b = 1

/-- `v` with field [hi:lo] replaced by the low bits of `x`. -/
def setFld (v hi lo x : Nat) : Nat :=
  v - fld v hi lo * 2 ^ lo + (x % 2 ^ (hi + 1 - lo)) * 2 ^ lo

/-- 1 for true, 0 for false. -/
def b2n (b : Bool) : Nat := if b then 1 else 0

/-- The low `n` bytes of `v`, least significant byte first (R8). -/
def toLE : Nat → Nat → List Byte
  | 0, _ => []
  | n + 1, v => BitVec.ofNat 8 v :: toLE n (v / 256)

/-- The number a byte string spells, least significant byte first. -/
def ofLE : List Byte → Nat
  | [] => 0
  | b :: t => b.toNat + 256 * ofLE t

/-- The low `n` bytes of `v`, most significant byte first (network byte order, R8). -/
def toBE (n v : Nat) : List Byte := (toLE n v).reverse

/-- The number a byte string spells, most significant byte first. -/
def ofBE (l : List Byte) : Nat := l.foldl (fun a b => a * 256 + b.toNat) 0

/-- `n` bytes of `l` from position `i`, zeros beyond its end. -/
def slice (l : List Byte) (i n : Nat) : List Byte :=
  let t := (l.drop i).take n
  t ++ List.replicate (n - t.length) 0#8

/-- A little-endian field of a byte string. -/
def leAt (l : List Byte) (i n : Nat) : Nat := ofLE (slice l i n)

/-- A big-endian field of a byte string. -/
def beAt (l : List Byte) (i n : Nat) : Nat := ofBE (slice l i n)

/-- Replace the bytes of `l` from position `i` by `d`; nothing is written beyond the end of `l`. -/
def splice (l : List Byte) (i : Nat) (d : List Byte) : List Byte :=
  l.take i ++ (d.take (l.length - i)) ++ l.drop (i + d.length)

/-- The two's complement reading of the low `w` bits of `v`. -/
def toSigned (w v : Nat) : Int :=
  let m := v % 2 ^ w
  if m < 2 ^ (w - 1) then (m : Int) else (m : Int) - (2 ^ w : Nat)

/-- The low `w` bits of the two's complement form of `i`. -/
def ofSigned (w : Nat) (i : Int) : Nat := (i % (2 ^ w : Nat)).toNat

/-- Division rounding up. -/
def ceilDiv (a b : Nat) : Nat := (a + b - 1) / b

/-- The string's ASCII bytes. -/
def ascii (s : String) : List Byte := s.toList.map (fun c => BitVec.ofNat 8 c.toNat)

/-- Bytes padded with zeros to `n`. -/
def padTo (n : Nat) (l : List Byte) : List Byte := (l ++ List.replicate (n - l.length) 0#8).take n

end Sys2Proof.Machine
end

