-- ==== Sys2Proof/Machine/Num.lean ====
section
/-!
DEFINITION. Numbers in the formats of R274, held exactly as signed fractions, and the one rounding of R278 to R280.
-/

namespace Sys2Proof.Machine

/-- An exact number: the value is (-1)^neg * n / d, with a sign on zero. -/
inductive Num where
  /-- Not a number. -/
  | nan
  /-- An infinity. -/
  | inf (neg : Bool)
  /-- A finite value; `d` is positive. -/
  | fin (neg : Bool) (n d : Nat)
deriving DecidableEq, Repr

/-- The sticky flags an operation raises (R283): bit 0 INVALID, 1 OVERFLOW, 2 SATURATED, 3 UNDERFLOW, the bit order of FP_FLAGS (R309). -/
abbrev Flags := Nat

/-- INVALID. -/
abbrev fInvalid : Flags := 1
/-- OVERFLOW. -/
abbrev fOverflow : Flags := 2
/-- SATURATED. -/
abbrev fSaturated : Flags := 4
/-- UNDERFLOW. -/
abbrev fUnderflow : Flags := 8

/-- A binary floating-point format: exponent and fraction bits, bias, and how its top codes are used
(0: infinity and NaN as IEEE 754; 1: E4M3, NaN only; 2: neither). -/
structure FFmt where
  /-- Exponent bits. -/
  eb : Nat
  /-- Fraction bits. -/
  mb : Nat
  /-- Exponent bias. -/
  bias : Nat
  /-- Use of the top codes. -/
  top : Nat
deriving DecidableEq, Repr

/-- binary32. -/
def fmt32 : FFmt := ⟨8, 23, 127, 0⟩
/-- binary16. -/
def fmt16 : FFmt := ⟨5, 10, 15, 0⟩
/-- bfloat16. -/
def fmtBf16 : FFmt := ⟨8, 7, 127, 0⟩
/-- E4M3. -/
def fmtE4M3 : FFmt := ⟨4, 3, 7, 1⟩
/-- E5M2. -/
def fmtE5M2 : FFmt := ⟨5, 2, 15, 0⟩
/-- E3M2. -/
def fmtE3M2 : FFmt := ⟨3, 2, 3, 2⟩
/-- E2M3. -/
def fmtE2M3 : FFmt := ⟨2, 3, 1, 2⟩
/-- E2M1. -/
def fmtE2M1 : FFmt := ⟨2, 1, 1, 2⟩

/-- Bits of an element. -/
def FFmt.width (f : FFmt) : Nat := 1 + f.eb + f.mb

/-- The code, without sign, of the largest finite value. -/
def FFmt.maxCode (f : FFmt) : Nat :=
  if f.top = 0 then (2 ^ f.eb - 1) * 2 ^ f.mb - 1
  else if f.top = 1 then 2 ^ (f.eb + f.mb) - 2
  else 2 ^ (f.eb + f.mb) - 1

/-- `m * 2^e` as a fraction. -/
def dyadic (neg : Bool) (m : Nat) (e : Int) : Num :=
  if 0 ≤ e then .fin neg (m * 2 ^ e.toNat) 1 else .fin neg m (2 ^ (-e).toNat)

/-- The value a code spells. -/
def FFmt.decode (f : FFmt) (v : Nat) : Num :=
  let neg := bit v (f.eb + f.mb)
  let ex := fld v (f.eb + f.mb - 1) f.mb
  let man := v % 2 ^ f.mb
  if f.top = 0 ∧ ex = 2 ^ f.eb - 1 then (if man = 0 then .inf neg else .nan)
  else if f.top = 1 ∧ v % 2 ^ (f.eb + f.mb) = 2 ^ (f.eb + f.mb) - 1 then .nan
  else if ex = 0 then dyadic neg man (1 - (f.bias : Int) - f.mb)
  else dyadic neg (man + 2 ^ f.mb) ((ex : Int) - f.bias - f.mb)

/-- floor(log2(n/d)) for positive n and d. -/
def floorLog2 (n d : Nat) : Int :=
  let e := (Nat.log2 n : Int) - Nat.log2 d
  -- 2^(e-1) < n/d < 2^(e+1)
  if 0 ≤ e then (if d * 2 ^ e.toNat ≤ n then e else e - 1)
  else (if d ≤ n * 2 ^ (-e).toNat then e else e - 1)

/-- Quotient and remainder fraction of n/d by 2^u: (q, rem, den). -/
def scaleDiv (n d : Nat) (u : Int) : Nat × Nat × Nat :=
  let n' := if 0 ≤ u then n else n * 2 ^ (-u).toNat
  let d' := if 0 ≤ u then d * 2 ^ u.toNat else d
  (n' / d', n' % d', d')

/-- Rounding modes of R278: 0 nearest even, 1 toward zero, 2 stochastic with the draw `r` of R279; 3 stands for rounding
toward +infinity of a magnitude (R282). -/
def roundUp (rm r q rem den : Nat) : Bool :=
  if rem = 0 then false
  else if rm = 0 then 2 * rem > den || (2 * rem = den && q % 2 = 1)
  else if rm = 1 then false
  else if rm = 2 then 2 ^ 24 * rem / den + r % 2 ^ 24 ≥ 2 ^ 24
  else true

/-- Round a positive n/d to a multiple of 2^u. -/
def roundTo (rm r n d : Nat) (u : Int) : Nat × Bool :=
  let x := scaleDiv n d u
  (x.1 + b2n (roundUp rm r x.1 x.2.1 x.2.2), x.2.1 ≠ 0)

/-- The code of a NaN in a format (R278). -/
def FFmt.nanCode (f : FFmt) : Nat :=
  if f.top = 0 then (2 ^ f.eb - 1) * 2 ^ f.mb + 2 ^ (f.mb - 1)
  else if f.top = 1 then 2 ^ (f.eb + f.mb) - 1 else 0

/-- Round a number once into a format under RM and SAT (R278): its code and the flags raised (R283). -/
def FFmt.round (f : FFmt) (rm r : Nat) (sat : Bool) (x : Num) : Nat × Flags :=
  let sgn := fun (neg : Bool) => if neg then 2 ^ (f.eb + f.mb) else 0
  match x with
  | .nan => if f.top = 2 then (0, fInvalid) else (if f.top = 0 ∧ f.mb = 2 then 0x7E else f.nanCode, 0)
  | .inf neg =>
    if f.top = 0 then
      if sat then (sgn neg + f.maxCode, fSaturated) else (sgn neg + (2 ^ f.eb - 1) * 2 ^ f.mb, 0)
    else if f.top = 1 then
      if sat then (sgn neg + f.maxCode, fSaturated) else (f.nanCode, fInvalid)
    else (sgn neg + f.maxCode, fInvalid)
  | .fin neg n d =>
    if n = 0 then (sgn neg, 0)
    else
      let e := floorLog2 n d
      let emin := 1 - (f.bias : Int)
      let u := (if e < emin then emin else e) - f.mb
      let q := roundTo rm r n d u
      -- the code is the grid index: a carry out of the fraction moves into the exponent by itself
      let code := ((u + f.mb - emin).toNat) * 2 ^ f.mb + q.1
      if f.maxCode < code then
        if f.top = 2 ∨ sat then (sgn neg + f.maxCode, fSaturated)
        else if f.top = 0 then (sgn neg + (2 ^ f.eb - 1) * 2 ^ f.mb, fOverflow)
        else (f.nanCode, fOverflow)
      else (sgn neg + code, if q.2 ∧ code < 2 ^ f.mb then fUnderflow else 0)

/-- Round to an integer and saturate to `w`-bit two's complement, or to [-lim, lim] where `lim` is given (R278, R282). -/
def roundInt (w : Nat) (lim : Option Nat) (rm r : Nat) (x : Num) : Nat × Flags :=
  let hi := match lim with | some l => l | none => 2 ^ (w - 1) - 1
  let lo := match lim with | some l => l | none => 2 ^ (w - 1)
  match x with
  | .nan => (0, fInvalid)
  | .inf neg => (if neg then ofSigned w (-(lo : Int)) else hi, fInvalid)
  | .fin neg n d =>
    let q := roundTo rm r n d 0
    if neg then
      if lo < q.1 then (ofSigned w (-(lo : Int)), fSaturated)
      else (ofSigned w (-(q.1 : Int)), if q.1 = 0 ∧ q.2 then fUnderflow else 0)
    else if hi < q.1 then (hi, fSaturated)
    else (q.1, if q.1 = 0 ∧ q.2 then fUnderflow else 0)

/-! ### Exact arithmetic -/

/-- Negate. -/
def Num.neg : Num → Num
  | .nan => .nan
  | .inf s => .inf (!s)
  | .fin s n d => .fin (!s) n d

/-- The signed numerator over a denominator. -/
def signedN (neg : Bool) (n : Nat) : Int := if neg then -(n : Int) else n

/-- Exact sum; the sign of an exact zero sum is negative only when both operands are (IEEE 754, round to nearest). -/
def Num.add : Num → Num → Num
  | .nan, _ => .nan
  | _, .nan => .nan
  | .inf a, .inf b => if a = b then .inf a else .nan
  | .inf a, .fin _ _ _ => .inf a
  | .fin _ _ _, .inf b => .inf b
  | .fin a n d, .fin b m e =>
    let z : Int := signedN a n * e + signedN b m * d
    if z = 0 then .fin (if n = 0 ∧ m = 0 then a && b else false) 0 1
    else .fin (z < 0) z.natAbs (d * e)

/-- Exact product. -/
def Num.mul : Num → Num → Num
  | .nan, _ => .nan
  | _, .nan => .nan
  | .inf a, .inf b => .inf (xor a b)
  | .inf a, .fin b n _ => if n = 0 then .nan else .inf (xor a b)
  | .fin a n _, .inf b => if n = 0 then .nan else .inf (xor a b)
  | .fin a n d, .fin b m e => .fin (xor a b) (n * m) (d * e)

/-- Exact quotient by a finite non-zero value. -/
def Num.divFin : Num → Num → Num
  | .fin a n d, .fin b m e => if m = 0 then .nan else .fin (xor a b) (n * e) (d * m)
  | x, _ => x

/-- `a < b` for numbers that are not NaN. -/
def Num.lt : Num → Num → Bool
  | .nan, _ => false
  | _, .nan => false
  | .inf a, .inf b => a && !b
  | .inf a, .fin _ _ _ => a
  | .fin _ _ _, .inf b => !b
  | .fin a n d, .fin b m e => signedN a n * e < signedN b m * d

/-- Equal values (zeros of either sign are equal); NaN equals nothing. -/
def Num.eqv (a b : Num) : Bool := a ≠ .nan && b ≠ .nan && !a.lt b && !b.lt a

/-- The value is NaN. -/
def Num.isNan (a : Num) : Bool := a = .nan

/-- The sign bit. -/
def Num.isNeg : Num → Bool
  | .nan => false
  | .inf s => s
  | .fin s _ _ => s

/-- An integer as a number. -/
def numOfInt (i : Int) : Num := .fin (i < 0) i.natAbs 1

/-- binary32 sum of two codes, round to nearest even (R100 FADD). -/
def fadd32 (a b : Nat) : Nat := (fmt32.round 0 0 false ((fmt32.decode a).add (fmt32.decode b))).1

/-- The stochastic bits of R280. -/
def srBits (seed ctr lane : Nat) : Nat :=
  let m := 2 ^ 64
  let x := (seed + ctr * 0x9E3779B97F4A7C15 + lane * 2 ^ 32) % m
  let x := ((x ^^^ (x / 2 ^ 30)) * 0xBF58476D1CE4E5B9) % m
  let x := ((x ^^^ (x / 2 ^ 27)) * 0x94D049BB133111EB) % m
  (x ^^^ (x / 2 ^ 31)) % 2 ^ 32

end Sys2Proof.Machine
end

