-- ==== Sys2Proof/Machine/Dict.lean ====
section
/-!
DEFINITION. The object dictionary's entries (R11, R414, R415): one descriptor per entry family, as the owning
chapters table them, and a name for the key under which each live element is kept in `State.regs`.
-/

namespace Sys2Proof.Machine

/-- One family of dictionary entries: `n` entries at indexes `base`, `base`+1, ... under one subindex.
`ty` is the type code of R414, `acc` the access code of R415 (0 CONST, 1 RO, 2 RW, 3 RWT, 4 WO); the value has
`count` elements of `esz` bytes (`esz` 0: bytes computed by rule, of no fixed size); `lsb` where an OCTET element goes
least significant byte first; `dflt` the default of every element; `[lo, hi]` the stated range of an element (`hi` 0: none). -/
structure Desc where
  base : Nat
  n : Nat
  sub : Nat
  ty : Nat
  acc : Nat
  count : Nat
  esz : Nat
  lsb : Bool
  dflt : Nat
  lo : Nat
  hi : Nat
deriving DecidableEq, Repr

/-- The key of element `el` of entry `idx`:`sub` in `State.regs`. -/
def ek (idx sub el : Nat) : Nat := (idx * 256 + sub) * 16777216 + el

/-- 0x1000:01 DEVICE_SERIAL (R478). -/
abbrev K.deviceSerial : Nat := ek 0x1000 0x01 0
/-- 0x1000:02 PART_NUMBER (R478). -/
abbrev K.partNumber : Nat := ek 0x1000 0x02 0
/-- 0x1000:03 SPEED_BIN (R478). -/
abbrev K.speedBin : Nat := ek 0x1000 0x03 0
/-- 0x1000:04 TILE_DEFECTS (R478). -/
abbrev K.tileDefects : Nat := ek 0x1000 0x04 0
/-- 0x1000:05 IDENTITY_VERIFIED (R478). -/
abbrev K.identityVerified : Nat := ek 0x1000 0x05 0
/-- 0x1000:06 OPTION_BYTES (R478). -/
abbrev K.optionBytes : Nat := ek 0x1000 0x06 0
/-- 0x1000:07 MIN_SECURITY_VERSION (R478). -/
abbrev K.minSecurityVersion : Nat := ek 0x1000 0x07 0
/-- 0x1000:08 SIGNER_REVOKED (R478). -/
abbrev K.signerRevoked : Nat := ek 0x1000 0x08 0
/-- 0x1000:09 LANE_POLARITY (R478). -/
abbrev K.lanePolarity (el : Nat) : Nat := ek 0x1000 0x09 el
/-- 0x1800:01 RESET_CAUSE (R478). -/
abbrev K.resetCause : Nat := ek 0x1800 0x01 0
/-- 0x1800:02 RESET_COUNTS (R478). -/
abbrev K.resetCounts (el : Nat) : Nat := ek 0x1800 0x02 el
/-- 0x1800:03 LAST_RESET_FRAME (R478). -/
abbrev K.lastResetFrame : Nat := ek 0x1800 0x03 0
/-- 0x1800:04 BOOT_STATUS (R478). -/
abbrev K.bootStatus : Nat := ek 0x1800 0x04 0
/-- 0x1800:05 LEAD_TILE (R478). -/
abbrev K.leadTile : Nat := ek 0x1800 0x05 0
/-- 0x1800:06 LEAD_INELIGIBLE (R478). -/
abbrev K.leadIneligible : Nat := ek 0x1800 0x06 0
/-- 0x1800:07 WARM_RESET_REQ (R478). -/
abbrev K.warmResetReq : Nat := ek 0x1800 0x07 0
/-- 0x1800:08 WDT_TIMEOUT (R478). -/
abbrev K.wdtTimeout : Nat := ek 0x1800 0x08 0
/-- 0x1801:01 PARTITION_RESET (R478). -/
abbrev K.partitionReset : Nat := ek 0x1801 0x01 0
/-- 0x1801:02 TILE_RESET_LOG (R478). -/
abbrev K.tileResetLog (el : Nat) : Nat := ek 0x1801 0x02 el
/-- 0x2000:01 FRAME_NUMBER (R55). -/
abbrev K.frameNumber : Nat := ek 0x2000 0x01 0
/-- 0x2000:02 TAKE_NUMBER (R55). -/
abbrev K.takeNumber : Nat := ek 0x2000 0x02 0
/-- 0x2000:03 FRAME_STATUS (R55). -/
abbrev K.frameStatus : Nat := ek 0x2000 0x03 0
/-- 0x2001:01 SLATE_SOURCE (R55). -/
abbrev K.slateSource : Nat := ek 0x2001 0x01 0
/-- 0x2001:02 FRAME_EPOCH (R55). -/
abbrev K.frameEpoch : Nat := ek 0x2001 0x02 0
/-- 0x2001:03 PTP_PORT (R55). -/
abbrev K.ptpPort : Nat := ek 0x2001 0x03 0
/-- 0x2001:04 PTP_DOMAIN (R55). -/
abbrev K.ptpDomain : Nat := ek 0x2001 0x04 0
/-- 0x2001:05 SLATE_IN_WINDOW (R55). -/
abbrev K.slateInWindow : Nat := ek 0x2001 0x05 0
/-- 0x2001:06 FRAME_NUMBER_LOAD (R55). -/
abbrev K.frameNumberLoad : Nat := ek 0x2001 0x06 0
/-- 0x2001:07 SLATE_OUT_WIDTH (R55). -/
abbrev K.slateOutWidth : Nat := ek 0x2001 0x07 0
/-- 0x2001:08 MISSED_SLATE_COUNT (R55). -/
abbrev K.missedSlateCount : Nat := ek 0x2001 0x08 0
/-- 0x2001:09 FRAME_OFFSET (R55). -/
abbrev K.frameOffset : Nat := ek 0x2001 0x09 0
/-- 0x2010:01 TAKE_STAGE_OPEN (R55). -/
abbrev K.takeStageOpen : Nat := ek 0x2010 0x01 0
/-- 0x2010:02 TAKE_STAGE_CLOSE (R55). -/
abbrev K.takeStageClose : Nat := ek 0x2010 0x02 0
/-- 0x2010:04 TAKE_TARGET_FRAME (R55). -/
abbrev K.takeTargetFrame : Nat := ek 0x2010 0x04 0
/-- 0x2010:05 TAKE_COMMIT (R55). -/
abbrev K.takeCommit : Nat := ek 0x2010 0x05 0
/-- 0x2010:06 TAKE_ABORT (R55). -/
abbrev K.takeAbort : Nat := ek 0x2010 0x06 0
/-- 0x2011:01 TAKE_STATE (R55). -/
abbrev K.takeState : Nat := ek 0x2011 0x01 0
/-- 0x2011:02 TAKE_PENDING_FRAME (R55). -/
abbrev K.takePendingFrame : Nat := ek 0x2011 0x02 0
/-- 0x2011:03 TAKE_LAST_RESULT (R55). -/
abbrev K.takeLastResult : Nat := ek 0x2011 0x03 0
/-- 0x2011:04 TAKE_REJECT_ENTRY (R55). -/
abbrev K.takeRejectEntry : Nat := ek 0x2011 0x04 0
/-- 0x2011:05 TAKE_DIGEST (R55). -/
abbrev K.takeDigest : Nat := ek 0x2011 0x05 0
/-- 0x2011:06 TAKE_APPLIED_FRAME (R55). -/
abbrev K.takeAppliedFrame : Nat := ek 0x2011 0x06 0
/-- 0x2012:01 TAKE_MIN_LEAD (R55). -/
abbrev K.takeMinLead : Nat := ek 0x2012 0x01 0
/-- 0x2012:02 TAKE_ARM_LEAD (R55). -/
abbrev K.takeArmLead : Nat := ek 0x2012 0x02 0
/-- 0x2100:01 PARTITION_CLASS (R55). -/
abbrev K.partitionClass (n : Nat) : Nat := ek (0x2100 + n) 0x01 0
/-- 0x2100:02 PORT_SHARES_IN (R55). -/
abbrev K.portSharesIn (n : Nat) (el : Nat) : Nat := ek (0x2100 + n) 0x02 el
/-- 0x2100:03 PORT_SHARES_OUT (R55). -/
abbrev K.portSharesOut (n : Nat) (el : Nat) : Nat := ek (0x2100 + n) 0x03 el
/-- 0x2100:04 ACT_SHARES (R55). -/
abbrev K.actShares (n : Nat) (el : Nat) : Nat := ek (0x2100 + n) 0x04 el
/-- 0x2100:05 BW_SHARES (R55). -/
abbrev K.bwShares (n : Nat) (el : Nat) : Nat := ek (0x2100 + n) 0x05 el
/-- 0x2100:06 CYCLE_BUDGET (R55). -/
abbrev K.cycleBudget (n : Nat) : Nat := ek (0x2100 + n) 0x06 0
/-- 0x2100:07 STORE_QUOTAS (R55). -/
abbrev K.storeQuotas (n : Nat) (el : Nat) : Nat := ek (0x2100 + n) 0x07 el
/-- 0x2100:08 MOVER_SHARES (R55). -/
abbrev K.moverShares (n : Nat) (el : Nat) : Nat := ek (0x2100 + n) 0x08 el
/-- 0x2100:09 CHUNK_QUOTAS (R55). -/
abbrev K.chunkQuotas (n : Nat) (el : Nat) : Nat := ek (0x2100 + n) 0x09 el
/-- 0x2400:01 PORT_STATE (R90). -/
abbrev K.portState (n : Nat) : Nat := ek (0x2400 + n) 0x01 0
/-- 0x2400:02 LINK_ID (R90). -/
abbrev K.linkId (n : Nat) : Nat := ek (0x2400 + n) 0x02 0
/-- 0x2400:03 PEER_LINK_ID (R90). -/
abbrev K.peerLinkId (n : Nat) : Nat := ek (0x2400 + n) 0x03 0
/-- 0x2400:04 REACH_CLASS (R90). -/
abbrev K.reachClass (n : Nat) : Nat := ek (0x2400 + n) 0x04 0
/-- 0x2400:05 MAX_WIDTH (R90). -/
abbrev K.maxWidth (n : Nat) : Nat := ek (0x2400 + n) 0x05 0
/-- 0x2400:06 MAX_SPEED (R90). -/
abbrev K.maxSpeed (n : Nat) : Nat := ek (0x2400 + n) 0x06 0
/-- 0x2400:07 LANE_ENABLE (R90). -/
abbrev K.laneEnable (n : Nat) : Nat := ek (0x2400 + n) 0x07 0
/-- 0x2400:08 TRAINED_CONFIG (R90). -/
abbrev K.trainedConfig (n : Nat) : Nat := ek (0x2400 + n) 0x08 0
/-- 0x2400:09 CREDIT_MODE (R90). -/
abbrev K.creditMode (n : Nat) : Nat := ek (0x2400 + n) 0x09 0
/-- 0x2400:0A RX_WINDOWS (R90). -/
abbrev K.rxWindows (n : Nat) (el : Nat) : Nat := ek (0x2400 + n) 0x0A el
/-- 0x2400:0B REPLAY_TIMEOUT (R90). -/
abbrev K.replayTimeout (n : Nat) : Nat := ek (0x2400 + n) 0x0B 0
/-- 0x2400:0C REPLAY_REQ_HOLDOFF (R90). -/
abbrev K.replayReqHoldoff (n : Nat) : Nat := ek (0x2400 + n) 0x0C 0
/-- 0x2400:0D CREDIT_REFRESH (R90). -/
abbrev K.creditRefresh (n : Nat) : Nat := ek (0x2400 + n) 0x0D 0
/-- 0x2400:0E SPLICE_RESPONSE_TIMEOUT (R90). -/
abbrev K.spliceResponseTimeout (n : Nat) : Nat := ek (0x2400 + n) 0x0E 0
/-- 0x2400:0F REKEY_CELLS (R90). -/
abbrev K.rekeyCells (n : Nat) : Nat := ek (0x2400 + n) 0x0F 0
/-- 0x2400:10 LANE_ERR_LIMIT (R90). -/
abbrev K.laneErrLimit (n : Nat) : Nat := ek (0x2400 + n) 0x10 0
/-- 0x2400:11 UNCORR_LIMIT (R90). -/
abbrev K.uncorrLimit (n : Nat) : Nat := ek (0x2400 + n) 0x11 0
/-- 0x2400:12 SPLICE_CMD (R90). -/
abbrev K.spliceCmd (n : Nat) : Nat := ek (0x2400 + n) 0x12 0
/-- 0x2400:13 SPLICE_STATUS (R90). -/
abbrev K.spliceStatus (n : Nat) : Nat := ek (0x2400 + n) 0x13 0
/-- 0x2400:14 LANE_SYMBOL_ERRORS (R90). -/
abbrev K.laneSymbolErrors (n : Nat) (el : Nat) : Nat := ek (0x2400 + n) 0x14 el
/-- 0x2400:15 FEC_COUNTS (R90). -/
abbrev K.fecCounts (n : Nat) (el : Nat) : Nat := ek (0x2400 + n) 0x15 el
/-- 0x2400:16 LINK_EVENTS (R90). -/
abbrev K.linkEvents (n : Nat) (el : Nat) : Nat := ek (0x2400 + n) 0x16 el
/-- 0x2400:17 CREDIT_STATE (R90). -/
abbrev K.creditState (n : Nat) (el : Nat) : Nat := ek (0x2400 + n) 0x17 el
/-- 0x2400:18 KEY_STATE (R90). -/
abbrev K.portKeyState (n : Nat) : Nat := ek (0x2400 + n) 0x18 0
/-- 0x2400:20 PORT_EID (R120). -/
abbrev K.portEid (n : Nat) : Nat := ek (0x2400 + n) 0x20 0
/-- 0x2400:21 PORT_ADMITTED (R120). -/
abbrev K.portAdmitted (n : Nat) : Nat := ek (0x2400 + n) 0x21 0
/-- 0x2400:22 ADMIT_PEER_ID (R120). -/
abbrev K.admitPeerId (n : Nat) : Nat := ek (0x2400 + n) 0x22 0
/-- 0x2400:23 PART_REQ_TIMEOUT (R120). -/
abbrev K.partReqTimeout (n : Nat) : Nat := ek (0x2400 + n) 0x23 0
/-- 0x2400:24 PART_REQ_RETRIES (R120). -/
abbrev K.partReqRetries (n : Nat) : Nat := ek (0x2400 + n) 0x24 0
/-- 0x2400:25 INBOUND_QUEUE_CELLS (R120). -/
abbrev K.inboundQueueCells (n : Nat) : Nat := ek (0x2400 + n) 0x25 0
/-- 0x2400:26 TRANSPORT_COUNTS (R120). -/
abbrev K.transportCounts (n : Nat) (el : Nat) : Nat := ek (0x2400 + n) 0x26 el
/-- 0x2400:27 MAX_OUTSTANDING (R120). -/
abbrev K.maxOutstanding (n : Nat) : Nat := ek (0x2400 + n) 0x27 0
/-- 0x2400:28 RETRY_CACHE_DEPTH (R120). -/
abbrev K.retryCacheDepth (n : Nat) : Nat := ek (0x2400 + n) 0x28 0
/-- 0x2400:29 RETRY_CACHE_FRAMES (R120). -/
abbrev K.retryCacheFrames (n : Nat) : Nat := ek (0x2400 + n) 0x29 0
/-- 0x2800:01 MESH_PHASE_MAP (R134). -/
abbrev K.meshPhaseMap (el : Nat) : Nat := ek 0x2800 0x01 el
/-- 0x2800:02 THROTTLE_HIGH (R134). -/
abbrev K.throttleHigh : Nat := ek 0x2800 0x02 0
/-- 0x2800:03 THROTTLE_LOW (R134). -/
abbrev K.throttleLow : Nat := ek 0x2800 0x03 0
/-- 0x2800:04 THROTTLE_RATE (R134). -/
abbrev K.throttleRate : Nat := ek 0x2800 0x04 0
/-- 0x2800:05 ADAPTIVE_ENABLE (R134). -/
abbrev K.adaptiveEnable : Nat := ek 0x2800 0x05 0
/-- 0x2800:06 INJECT_QUEUE_FLITS (R134). -/
abbrev K.injectQueueFlits : Nat := ek 0x2800 0x06 0
/-- 0x2800:07 MSG_RECORDS (R134). -/
abbrev K.msgRecords : Nat := ek 0x2800 0x07 0
/-- 0x2840:01 MESH_COUNTS (R134). -/
abbrev K.meshCounts (n : Nat) (el : Nat) : Nat := ek (0x2840 + n) 0x01 el
/-- 0x2840:02 INJECT_PEAK (R134). -/
abbrev K.injectPeak (n : Nat) : Nat := ek (0x2840 + n) 0x02 0
/-- 0x3000:01 PARTITION_STATE (R392). -/
abbrev K.partitionState (n : Nat) : Nat := ek (0x3000 + n) 0x01 0
/-- 0x3000:02 PARTITION_STATUS (R392). -/
abbrev K.partitionStatus (n : Nat) : Nat := ek (0x3000 + n) 0x02 0
/-- 0x3000:03 INCARNATION (R392). -/
abbrev K.incarnation (n : Nat) : Nat := ek (0x3000 + n) 0x03 0
/-- 0x3000:04 QUARANTINE_END (R392). -/
abbrev K.quarantineEnd (n : Nat) : Nat := ek (0x3000 + n) 0x04 0
/-- 0x3000:05 LOCK_ENABLE (R392). -/
abbrev K.lockEnable (n : Nat) : Nat := ek (0x3000 + n) 0x05 0
/-- 0x3000:06 LOCK_STATE (R392). -/
abbrev K.lockState (n : Nat) : Nat := ek (0x3000 + n) 0x06 0
/-- 0x3000:07 AUTH_TOKEN (R392). -/
abbrev K.authToken (n : Nat) : Nat := ek (0x3000 + n) 0x07 0
/-- 0x3000:08 STAGED_AUTH_DIGEST (R392). -/
abbrev K.stagedAuthDigest (n : Nat) : Nat := ek (0x3000 + n) 0x08 0
/-- 0x3000:09 INCARNATION_ADVANCE (R392). -/
abbrev K.incarnationAdvance (n : Nat) : Nat := ek (0x3000 + n) 0x09 0
/-- 0x3000:0A LOCK_REQUEST (R392). -/
abbrev K.lockRequest (n : Nat) : Nat := ek (0x3000 + n) 0x0A 0
/-- 0x3000:0B UNLOCK_REQUEST (R392). -/
abbrev K.unlockRequest (n : Nat) : Nat := ek (0x3000 + n) 0x0B 0
/-- 0x3000:0C LOCK_TENANT_ANCHOR (R392). -/
abbrev K.lockTenantAnchor (n : Nat) : Nat := ek (0x3000 + n) 0x0C 0
/-- 0x3400:01 EXTENT_MAP (R160). -/
abbrev K.extentMap (n : Nat) (el : Nat) : Nat := ek (0x3400 + n) 0x01 el
/-- 0x3440:01 PUBLISH_REGIONS (R160). -/
abbrev K.publishRegions (n : Nat) (el : Nat) : Nat := ek (0x3440 + n) 0x01 el
/-- 0x3480:01 PUBLISH_VERSIONS (R160). -/
abbrev K.publishVersions (n : Nat) (el : Nat) : Nat := ek (0x3480 + n) 0x01 el
/-- 0x3480:02 PUBLISH_VIEWS (R160). -/
abbrev K.publishViews (n : Nat) (el : Nat) : Nat := ek (0x3480 + n) 0x02 el
/-- 0x3500:01 BINDINGS (R160). -/
abbrev K.bindings (el : Nat) : Nat := ek 0x3500 0x01 el
/-- 0x3500:02 LEASE_PARAMS (R160). -/
abbrev K.leaseParams (el : Nat) : Nat := ek 0x3500 0x02 el
/-- 0x3500:03 LEASE_EXPIRY (R160). -/
abbrev K.leaseExpiry (el : Nat) : Nat := ek 0x3500 0x03 el
/-- 0x3500:04 LEASE_STATE (R160). -/
abbrev K.leaseState (el : Nat) : Nat := ek 0x3500 0x04 el
/-- 0x3501:01 DXN_STATE (R160). -/
abbrev K.dxnState (el : Nat) : Nat := ek 0x3501 0x01 el
/-- 0x3501:02 QUARANTINE_FRAMES (R160). -/
abbrev K.quarantineFrames : Nat := ek 0x3501 0x02 0
/-- 0x3501:03 RECLAIM_COUNTS (R160). -/
abbrev K.reclaimCounts (el : Nat) : Nat := ek 0x3501 0x03 el
/-- 0x3800:01 COH_GRACE_FRAMES (R182). -/
abbrev K.cohGraceFrames : Nat := ek 0x3800 0x01 0
/-- 0x3800:02 DIR_ENTRIES (R182). -/
abbrev K.dirEntries : Nat := ek 0x3800 0x02 0
/-- 0x3800:03 DIR_WAYS (R182). -/
abbrev K.dirWays : Nat := ek 0x3800 0x03 0
/-- 0x3800:04 PENDING_RECORDS (R182). -/
abbrev K.pendingRecords : Nat := ek 0x3800 0x04 0
/-- 0x3800:05 FWD_PER_LINE (R182). -/
abbrev K.fwdPerLine : Nat := ek 0x3800 0x05 0
/-- 0x3800:06 EVICT_BUFFER (R182). -/
abbrev K.evictBuffer (el : Nat) : Nat := ek 0x3800 0x06 el
/-- 0x3801:01 DIR_PROBE (R182). -/
abbrev K.dirProbe : Nat := ek 0x3801 0x01 0
/-- 0x3801:02 DIR_PROBE_RESULT (R182). -/
abbrev K.dirProbeResult : Nat := ek 0x3801 0x02 0
/-- 0x3802:01 COH_HOLDER_STATE (R182). -/
abbrev K.cohHolderState (el : Nat) : Nat := ek 0x3802 0x01 el
/-- 0x3810:01 COH_COUNTS (R182). -/
abbrev K.cohCounts (n : Nat) (el : Nat) : Nat := ek (0x3810 + n) 0x01 el
/-- 0x3810:02 DIR_OCCUPANCY (R182). -/
abbrev K.dirOccupancy (n : Nat) : Nat := ek (0x3810 + n) 0x02 0
/-- 0x3840:01 LOST_LINES (R182). -/
abbrev K.lostLines (n : Nat) (el : Nat) : Nat := ek (0x3840 + n) 0x01 el
/-- 0x3840:02 LOST_LINE_COUNT (R182). -/
abbrev K.lostLineCount (n : Nat) : Nat := ek (0x3840 + n) 0x02 0
/-- 0x4000:01 STACK_STATE (R202). -/
abbrev K.stackState (n : Nat) : Nat := ek (0x4000 + n) 0x01 0
/-- 0x4000:02 RETENTION (R202). -/
abbrev K.retention (n : Nat) : Nat := ek (0x4000 + n) 0x02 0
/-- 0x4000:03 PD_TIMER (R202). -/
abbrev K.pdTimer (n : Nat) : Nat := ek (0x4000 + n) 0x03 0
/-- 0x4000:04 ROW_HIT_CAP (R202). -/
abbrev K.rowHitCap (n : Nat) : Nat := ek (0x4000 + n) 0x04 0
/-- 0x4000:05 WQ_HIGH (R202). -/
abbrev K.wqHigh (n : Nat) : Nat := ek (0x4000 + n) 0x05 0
/-- 0x4000:06 WQ_LOW (R202). -/
abbrev K.wqLow (n : Nat) : Nat := ek (0x4000 + n) 0x06 0
/-- 0x4000:07 HAMMER_THRESHOLD (R202). -/
abbrev K.hammerThreshold (n : Nat) : Nat := ek (0x4000 + n) 0x07 0
/-- 0x4000:08 HAMMER_DISTANCE (R202). -/
abbrev K.hammerDistance (n : Nat) : Nat := ek (0x4000 + n) 0x08 0
/-- 0x4000:09 HAMMER_EVENT_LIMIT (R202). -/
abbrev K.hammerEventLimit (n : Nat) : Nat := ek (0x4000 + n) 0x09 0
/-- 0x4000:0A HAMMER_THROTTLE (R202). -/
abbrev K.hammerThrottle (n : Nat) : Nat := ek (0x4000 + n) 0x0A 0
/-- 0x4000:0B RETRAIN_REQ (R202). -/
abbrev K.retrainReq (n : Nat) : Nat := ek (0x4000 + n) 0x0B 0
/-- 0x4000:0C TRAIN_CTRL (R202). -/
abbrev K.trainCtrl (n : Nat) : Nat := ek (0x4000 + n) 0x0C 0
/-- 0x4000:0D TRAIN_STATUS (R202). -/
abbrev K.trainStatus (n : Nat) : Nat := ek (0x4000 + n) 0x0D 0
/-- 0x4000:0E TRAIN_SEED (R202). -/
abbrev K.trainSeed (n : Nat) : Nat := ek (0x4000 + n) 0x0E 0
/-- 0x4000:0F TRAIN_ERRORS (R202). -/
abbrev K.trainErrors (n : Nat) (el : Nat) : Nat := ek (0x4000 + n) 0x0F el
/-- 0x4000:10 DQ_DELAYS (R202). -/
abbrev K.dqDelays (n : Nat) (el : Nat) : Nat := ek (0x4000 + n) 0x10 el
/-- 0x4000:11 TIMING (R202). -/
abbrev K.timing (n : Nat) (el : Nat) : Nat := ek (0x4000 + n) 0x11 el
/-- 0x4000:12 STACK_COUNTS (R202). -/
abbrev K.stackCounts (n : Nat) (el : Nat) : Nat := ek (0x4000 + n) 0x12 el
/-- 0x4000:13 HAMMER_LOG (R202). -/
abbrev K.hammerLog (n : Nat) (el : Nat) : Nat := ek (0x4000 + n) 0x13 el
/-- 0x4000:14 THROTTLED (R202). -/
abbrev K.throttled (n : Nat) (el : Nat) : Nat := ek (0x4000 + n) 0x14 el
/-- 0x4400:01 POISON_MODE (R220). -/
abbrev K.poisonMode (el : Nat) : Nat := ek 0x4400 0x01 el
/-- 0x4400:02 POISON_SIGNATURE (R220). -/
abbrev K.poisonSignature : Nat := ek 0x4400 0x02 0
/-- 0x4401:01 SCRUB_PASS_SECONDS (R220). -/
abbrev K.scrubPassSeconds : Nat := ek 0x4401 0x01 0
/-- 0x4401:02 SCRUB_ENABLE (R220). -/
abbrev K.scrubEnable : Nat := ek 0x4401 0x02 0
/-- 0x4401:03 DIE_ALERT_LIMIT (R220). -/
abbrev K.dieAlertLimit : Nat := ek 0x4401 0x03 0
/-- 0x4410:01 SCRUB_POSITION (R220). -/
abbrev K.scrubPosition (n : Nat) : Nat := ek (0x4410 + n) 0x01 0
/-- 0x4410:02 DIE_RETIRE (R220). -/
abbrev K.dieRetire (n : Nat) : Nat := ek (0x4410 + n) 0x02 0
/-- 0x4410:03 DIE_ALERT (R220). -/
abbrev K.dieAlert (n : Nat) : Nat := ek (0x4410 + n) 0x03 0
/-- 0x4410:04 DIE_CORRECTIONS (R220). -/
abbrev K.dieCorrections (n : Nat) (el : Nat) : Nat := ek (0x4410 + n) 0x04 el
/-- 0x4410:05 INTEGRITY_COUNTS (R220). -/
abbrev K.integrityCounts (n : Nat) (el : Nat) : Nat := ek (0x4410 + n) 0x05 el
/-- 0x4410:06 ERROR_LOG (R220). -/
abbrev K.errorLog (n : Nat) (el : Nat) : Nat := ek (0x4410 + n) 0x06 el
/-- 0x4410:07 FILL_STATUS (R220). -/
abbrev K.fillStatus (n : Nat) : Nat := ek (0x4410 + n) 0x07 0
/-- 0x4480:01 TEST_CTRL (R220). -/
abbrev K.testCtrl : Nat := ek 0x4480 0x01 0
/-- 0x4480:02 TEST_ADDR (R220). -/
abbrev K.testAddr : Nat := ek 0x4480 0x02 0
/-- 0x4480:03 TEST_DATA (R220). -/
abbrev K.testData : Nat := ek 0x4480 0x03 0
/-- 0x4480:04 TEST_CHECK (R220). -/
abbrev K.testCheck : Nat := ek 0x4480 0x04 0
/-- 0x4480:05 TEST_RESULT (R220). -/
abbrev K.testResult : Nat := ek 0x4480 0x05 0
/-- 0x4600:01 SLOT_MAP (R244). -/
abbrev K.slotMap (el : Nat) : Nat := ek 0x4600 0x01 el
/-- 0x4600:02 MIRROR_PAIRS (R244). -/
abbrev K.mirrorPairs (el : Nat) : Nat := ek 0x4600 0x02 el
/-- 0x4600:03 TILE_STATE (R244). -/
abbrev K.tileState (el : Nat) : Nat := ek 0x4600 0x03 el
/-- 0x4600:04 SLOT_STATE (R244). -/
abbrev K.slotState (el : Nat) : Nat := ek 0x4600 0x04 el
/-- 0x4600:05 CONTINUITY_STATE (R244). -/
abbrev K.continuityState (el : Nat) : Nat := ek 0x4600 0x05 el
/-- 0x4601:01 RELOC_CTRL (R244). -/
abbrev K.relocCtrl : Nat := ek 0x4601 0x01 0
/-- 0x4601:02 RELOC_STATUS (R244). -/
abbrev K.relocStatus : Nat := ek 0x4601 0x02 0
/-- 0x4601:03 RELOC_RATE (R244). -/
abbrev K.relocRate : Nat := ek 0x4601 0x03 0
/-- 0x4601:04 RELOC_AUTO (R244). -/
abbrev K.relocAuto : Nat := ek 0x4601 0x04 0
/-- 0x4601:05 SELFTEST_RESULT (R244). -/
abbrev K.selftestResult (el : Nat) : Nat := ek 0x4601 0x05 el
/-- 0x4601:06 CONTINUITY_COUNTS (R244). -/
abbrev K.continuityCounts (el : Nat) : Nat := ek 0x4601 0x06 el
/-- 0x4602:01 PAIRS (R244). -/
abbrev K.pairs (el : Nat) : Nat := ek 0x4602 0x01 el
/-- 0x4602:02 PAIR_STATE (R244). -/
abbrev K.pairState (el : Nat) : Nat := ek 0x4602 0x02 el
/-- 0x4602:03 PAIR_DIRTY (R244). -/
abbrev K.pairDirty (el : Nat) : Nat := ek 0x4602 0x03 el
/-- 0x4800:01 ENGINE_OWNER (R267). -/
abbrev K.engineOwner (el : Nat) : Nat := ek 0x4800 0x01 el
/-- 0x4800:02 AGENTS (R267). -/
abbrev K.agents (el : Nat) : Nat := ek 0x4800 0x02 el
/-- 0x4800:03 FAULT_RETRIES (R267). -/
abbrev K.faultRetries : Nat := ek 0x4800 0x03 0
/-- 0x4800:04 RINGS_PER_PARTITION (R267). -/
abbrev K.ringsPerPartition : Nat := ek 0x4800 0x04 0
/-- 0x4800:05 TASKS_PER_RING (R267). -/
abbrev K.tasksPerRing : Nat := ek 0x4800 0x05 0
/-- 0x4800:06 FAULT_ENTRIES (R267). -/
abbrev K.faultEntries : Nat := ek 0x4800 0x06 0
/-- 0x4800:07 MAX_DESCRIPTOR_BYTES (R267). -/
abbrev K.maxDescriptorBytes : Nat := ek 0x4800 0x07 0
/-- 0x4801:01 SLAB_PROBE (R267). -/
abbrev K.slabProbe : Nat := ek 0x4801 0x01 0
/-- 0x4801:02 SLAB_PROBE_RESULT (R267). -/
abbrev K.slabProbeResult : Nat := ek 0x4801 0x02 0
/-- 0x4840:01 RINGS (R267). -/
abbrev K.rings (n : Nat) (el : Nat) : Nat := ek (0x4840 + n) 0x01 el
/-- 0x4840:02 RING_STATE (R267). -/
abbrev K.ringState (n : Nat) (el : Nat) : Nat := ek (0x4840 + n) 0x02 el
/-- 0x4880:01 MOVER_COUNTS (R267). -/
abbrev K.moverCounts (n : Nat) (el : Nat) : Nat := ek (0x4880 + n) 0x01 el
/-- 0x4880:02 FAULT_PEAK (R267). -/
abbrev K.faultPeak (n : Nat) : Nat := ek (0x4880 + n) 0x02 0
/-- 0x5000:01 RUNAHEAD_KIB (R295). -/
abbrev K.runaheadKib : Nat := ek 0x5000 0x01 0
/-- 0x5000:02 MAC_RATES (R295). -/
abbrev K.macRates (el : Nat) : Nat := ek 0x5000 0x02 el
/-- 0x5000:03 POOL_OP_MAX_LENGTH (R295). -/
abbrev K.poolOpMaxLength : Nat := ek 0x5000 0x03 0
/-- 0x5000:04 POOL_OP_WINDOW (R295). -/
abbrev K.poolOpWindow : Nat := ek 0x5000 0x04 0
/-- 0x5000:05 POOL_OPS_PER_PARTITION (R295). -/
abbrev K.poolOpsPerPartition : Nat := ek 0x5000 0x05 0
/-- 0x5001:01 CONTEXT_OWNER (R315). -/
abbrev K.contextOwner (el : Nat) : Nat := ek 0x5001 0x01 el
/-- 0x5001:02 SAVE_BYTES (R315). -/
abbrev K.saveBytes : Nat := ek 0x5001 0x02 0
/-- 0x5001:03 CUT_SAVE_BYTES (R315). -/
abbrev K.cutSaveBytes : Nat := ek 0x5001 0x03 0
/-- 0x5001:04 REEL_EVENT_DEPTH (R315). -/
abbrev K.reelEventDepth : Nat := ek 0x5001 0x04 0
/-- 0x5001:05 ICACHE_KIB (R315). -/
abbrev K.icacheKib : Nat := ek 0x5001 0x05 0
/-- 0x5001:06 BARRIERS_PER_LAUNCH (R315). -/
abbrev K.barriersPerLaunch : Nat := ek 0x5001 0x06 0
/-- 0x5001:07 SPLIT_MODE (R315). -/
abbrev K.splitMode (el : Nat) : Nat := ek 0x5001 0x07 el
/-- 0x5040:01 ENGINE_COUNTS (R295). -/
abbrev K.engineCounts (n : Nat) (el : Nat) : Nat := ek (0x5040 + n) 0x01 el
/-- 0x5040:02 POOL_OP_ACTIVE (R295). -/
abbrev K.poolOpActive (n : Nat) (el : Nat) : Nat := ek (0x5040 + n) 0x02 el
/-- 0x5080:01 CONTEXT_STATE (R315). -/
abbrev K.contextState (n : Nat) (el : Nat) : Nat := ek (0x5080 + n) 0x01 el
/-- 0x5080:02 REEL_COUNTS (R315). -/
abbrev K.reelCounts (n : Nat) (el : Nat) : Nat := ek (0x5080 + n) 0x02 el
/-- 0x5400:01 COMPOSITES (R364). -/
abbrev K.composites (el : Nat) : Nat := ek 0x5400 0x01 el
/-- 0x5400:02 COMPOSITE_NUMBERS (R364). -/
abbrev K.compositeNumbers : Nat := ek 0x5400 0x02 0
/-- 0x5400:03 CHUNK_ELEMENTS (R364). -/
abbrev K.chunkElements : Nat := ek 0x5400 0x03 0
/-- 0x5400:04 SEGMENT_ELEMENTS (R364). -/
abbrev K.segmentElements : Nat := ek 0x5400 0x04 0
/-- 0x5400:05 EXACT_CHUNK_BYTES (R364). -/
abbrev K.exactChunkBytes : Nat := ek 0x5400 0x05 0
/-- 0x5400:06 OTHER_CHUNK_BYTES (R364). -/
abbrev K.otherChunkBytes : Nat := ek 0x5400 0x06 0
/-- 0x5400:07 EXCUSE_LIMIT (R364). -/
abbrev K.excuseLimit : Nat := ek 0x5400 0x07 0
/-- 0x5440:01 COMPOSITOR_COUNTS (R364). -/
abbrev K.compositorCounts (n : Nat) (el : Nat) : Nat := ek (0x5440 + n) 0x01 el
/-- 0x5440:02 OPEN_CHUNKS (R364). -/
abbrev K.openChunks (n : Nat) : Nat := ek (0x5440 + n) 0x02 0
/-- 0x6000:01 KEY_STATE (R394). -/
abbrev K.keyState (el : Nat) : Nat := ek 0x6000 0x01 el
/-- 0x6000:02 XTS_DATA_UNIT (R394). -/
abbrev K.xtsDataUnit : Nat := ek 0x6000 0x02 0
/-- 0x6001:01 DRBG_STATUS (R394). -/
abbrev K.drbgStatus (el : Nat) : Nat := ek 0x6001 0x01 el
/-- 0x6001:02 DRBG_RESEED_FRAMES (R394). -/
abbrev K.drbgReseedFrames : Nat := ek 0x6001 0x02 0
/-- 0x6001:03 PARTITION_QUARANTINE (R394). -/
abbrev K.partitionQuarantine : Nat := ek 0x6001 0x03 0
/-- 0x6002:01 SECURITY_COUNTS (R394). -/
abbrev K.securityCounts (el : Nat) : Nat := ek 0x6002 0x01 el
/-- 0x6002:02 SECURITY_LOG (R394). -/
abbrev K.securityLog (el : Nat) : Nat := ek 0x6002 0x02 el
/-- 0x6400:01 IDENTITY_ECDSA (R412). -/
abbrev K.identityEcdsa : Nat := ek 0x6400 0x01 0
/-- 0x6400:02 IDENTITY_MLDSA (R412). -/
abbrev K.identityMldsa : Nat := ek 0x6400 0x02 0
/-- 0x6400:03 CERT_CHAIN_0 (R412). -/
abbrev K.certChain0 : Nat := ek 0x6400 0x03 0
/-- 0x6400:04 CERT_CHAIN_1 (R412). -/
abbrev K.certChain1 : Nat := ek 0x6400 0x04 0
/-- 0x6400:05 MEASUREMENT_BLOCKS (R412). -/
abbrev K.measurementBlocks : Nat := ek 0x6400 0x05 0
/-- 0x6400:06 ATTEST_STATUS (R412). -/
abbrev K.attestStatus : Nat := ek 0x6400 0x06 0
/-- 0x6400:07 SPDM_SESSIONS (R412). -/
abbrev K.spdmSessions : Nat := ek 0x6400 0x07 0
/-- 0x6400:08 SEALS_PER_PARTITION (R412). -/
abbrev K.sealsPerPartition : Nat := ek 0x6400 0x08 0
/-- 0x6400:09 SPDM_VENDOR_ID (R412). -/
abbrev K.spdmVendorId : Nat := ek 0x6400 0x09 0
/-- 0x6401:01 PEER_CERT_DIGESTS (R412). -/
abbrev K.peerCertDigests (el : Nat) : Nat := ek 0x6401 0x01 el
/-- 0x6401:02 ATTEST_COUNTS (R412). -/
abbrev K.attestCounts (el : Nat) : Nat := ek 0x6401 0x02 el
/-- 0x6440:01 SEAL_REQUEST (R412). -/
abbrev K.sealRequest (n : Nat) : Nat := ek (0x6440 + n) 0x01 0
/-- 0x6440:02 SEAL_STATUS (R412). -/
abbrev K.sealStatus (n : Nat) : Nat := ek (0x6440 + n) 0x02 0
/-- 0x6440:03 PARTITION_REPORT (R412). -/
abbrev K.partitionReport (n : Nat) : Nat := ek (0x6440 + n) 0x03 0
/-- 0x6440:04 CONFIG_RECORDS (R412). -/
abbrev K.configRecords (n : Nat) : Nat := ek (0x6440 + n) 0x04 0
/-- 0x7000:01 RECORD_BYTES (R463). -/
abbrev K.recordBytes : Nat := ek 0x7000 0x01 0
/-- 0x7000:02 ROLLUP_FRAMES (R463). -/
abbrev K.rollupFrames : Nat := ek 0x7000 0x02 0
/-- 0x7000:03 ENERGY_COEFFS (R463). -/
abbrev K.energyCoeffs (el : Nat) : Nat := ek 0x7000 0x03 el
/-- 0x7000:04 LAST_RECORD_FRAME (R463). -/
abbrev K.lastRecordFrame : Nat := ek 0x7000 0x04 0
/-- 0x7000:05 DAILIES_COUNTS (R463). -/
abbrev K.dailiesCounts (el : Nat) : Nat := ek 0x7000 0x05 el
/-- 0x7040:01 ROLLUP_LAST (R463). -/
abbrev K.rollupLast (n : Nat) : Nat := ek (0x7040 + n) 0x01 0
/-- 0x7080:01 ROLLUP_SYSTEM (R463). -/
abbrev K.rollupSystem : Nat := ek 0x7080 0x01 0
/-- 0x7400:01 POWER_SHARES (R463). -/
abbrev K.powerShares (el : Nat) : Nat := ek 0x7400 0x01 el
/-- 0x7400:02 SYSTEM_RESERVE_W (R463). -/
abbrev K.systemReserveW : Nat := ek 0x7400 0x02 0
/-- 0x7400:03 PEAK_ENABLE (R463). -/
abbrev K.peakEnable : Nat := ek 0x7400 0x03 0
/-- 0x7400:04 DRAM_TARGET (R463). -/
abbrev K.dramTarget : Nat := ek 0x7400 0x04 0
/-- 0x7400:05 DIE_TARGET (R463). -/
abbrev K.dieTarget : Nat := ek 0x7400 0x05 0
/-- 0x7400:06 COOLANT_REPORT (R463). -/
abbrev K.coolantReport : Nat := ek 0x7400 0x06 0
/-- 0x7400:07 GAFFER_STATE (R463). -/
abbrev K.gafferState : Nat := ek 0x7400 0x07 0
/-- 0x7400:08 PACKAGE_POWER (R463). -/
abbrev K.packagePower : Nat := ek 0x7400 0x08 0
/-- 0x7400:09 POWER_LIMITS (R463). -/
abbrev K.powerLimits (el : Nat) : Nat := ek 0x7400 0x09 el
/-- 0x7400:0A GAFFER_COUNTS (R463). -/
abbrev K.gafferCounts (el : Nat) : Nat := ek 0x7400 0x0A el
/-- 0x7440:01 TILE_TEMPS (R463). -/
abbrev K.tileTemps (n : Nat) (el : Nat) : Nat := ek (0x7440 + n) 0x01 el
/-- 0x7440:02 TILE_CUT (R463). -/
abbrev K.tileCut (n : Nat) : Nat := ek (0x7440 + n) 0x02 0
/-- 0x7440:03 SENSOR_STATUS (R463). -/
abbrev K.sensorStatus (n : Nat) : Nat := ek (0x7440 + n) 0x03 0
/-- 0x7800:01 DICTIONARY_DIRECTORY (R434). -/
abbrev K.dictionaryDirectory : Nat := ek 0x7800 0x01 0
/-- 0x7800:02 FLIGIFER_UDP_PORT (R434). -/
abbrev K.fligiferUdpPort : Nat := ek 0x7800 0x02 0
/-- 0x7800:03 MAX_MESSAGE_BYTES (R434). -/
abbrev K.maxMessageBytes : Nat := ek 0x7800 0x03 0
/-- 0x7800:04 BLOCK_BUFFER_BYTES (R434). -/
abbrev K.blockBufferBytes : Nat := ek 0x7800 0x04 0
/-- 0x7801:01 MANAGER_ANCHORS (R434). -/
abbrev K.managerAnchors (el : Nat) : Nat := ek 0x7801 0x01 el
/-- 0x7801:02 SESSION_TABLE (R434). -/
abbrev K.sessionTable (el : Nat) : Nat := ek 0x7801 0x02 el
/-- 0x7802:01 MGMT_MAC (R434). -/
abbrev K.mgmtMac (n : Nat) : Nat := ek (0x7802 + n) 0x01 0
/-- 0x7802:02 MGMT_IPV6 (R434). -/
abbrev K.mgmtIpv6 (n : Nat) : Nat := ek (0x7802 + n) 0x02 0
/-- 0x7802:03 MGMT_IPV4 (R434). -/
abbrev K.mgmtIpv4 (n : Nat) : Nat := ek (0x7802 + n) 0x03 0
/-- 0x7802:04 MGMT_GATEWAY (R434). -/
abbrev K.mgmtGateway (n : Nat) : Nat := ek (0x7802 + n) 0x04 0
/-- 0x7802:05 MGMT_MTU (R434). -/
abbrev K.mgmtMtu (n : Nat) : Nat := ek (0x7802 + n) 0x05 0
/-- 0x7802:06 MGMT_LINK (R434). -/
abbrev K.mgmtLink (n : Nat) : Nat := ek (0x7802 + n) 0x06 0
/-- 0x7810:01 FIRMWARE_IMAGE (R434). -/
abbrev K.firmwareImage : Nat := ek 0x7810 0x01 0
/-- 0x7810:02 FIRMWARE_STATUS (R434). -/
abbrev K.firmwareStatus : Nat := ek 0x7810 0x02 0
/-- 0x7810:03 FIRMWARE_ACTIVATE (R434). -/
abbrev K.firmwareActivate : Nat := ek 0x7810 0x03 0
/-- 0x7810:04 FIRMWARE_MAX_BYTES (R434). -/
abbrev K.firmwareMaxBytes : Nat := ek 0x7810 0x04 0
/-- 0x7811:01 SUBSCRIPTION_STATE (R434). -/
abbrev K.subscriptionState (el : Nat) : Nat := ek 0x7811 0x01 el
/-- 0x7811:02 DAILIES_RING_FRAMES (R434). -/
abbrev K.dailiesRingFrames : Nat := ek 0x7811 0x02 0
/-- 0x7812:01 FLIGIFER_COUNTS (R434). -/
abbrev K.fligiferCounts (el : Nat) : Nat := ek 0x7812 0x01 el
/-- 0x7C00:01 DEBUG_POLICY (R412). -/
abbrev K.debugPolicy : Nat := ek 0x7C00 0x01 0
/-- 0x7C00:02 JTAG_IDCODE (R412). -/
abbrev K.jtagIdcode : Nat := ek 0x7C00 0x02 0

/-- Dictionary entries, part 0, in ascending index and subindex. -/
def Dict.part0 : List Desc := [
  ⟨0x1000, 1, 0x01, 5, 0, 1, 8, false, 0, 0, 0⟩,
  ⟨0x1000, 1, 0x02, 8, 0, 1, 16, false, 0, 0, 0⟩,
  ⟨0x1000, 1, 0x03, 2, 0, 1, 1, false, 0, 0, 0⟩,
  ⟨0x1000, 1, 0x04, 5, 0, 1, 8, false, 0, 0, 0⟩,
  ⟨0x1000, 1, 0x05, 5, 0, 1, 8, false, 0, 0, 0⟩,
  ⟨0x1000, 1, 0x06, 9, 0, 1, 0, false, 0, 0, 0⟩,
  ⟨0x1000, 1, 0x07, 4, 0, 1, 4, false, 0, 0, 0⟩,
  ⟨0x1000, 1, 0x08, 2, 0, 1, 1, false, 0, 0, 0⟩,
  ⟨0x1000, 1, 0x09, 9, 0, 12, 4, false, 0, 0, 0⟩,
  ⟨0x1800, 1, 0x01, 4, 2, 1, 4, false, 1, 0, 0⟩,
  ⟨0x1800, 1, 0x02, 9, 1, 11, 4, false, 0, 0, 0⟩,
  ⟨0x1800, 1, 0x03, 5, 1, 1, 8, false, 0, 0, 0⟩,
  ⟨0x1800, 1, 0x04, 4, 1, 1, 4, false, 0, 0, 0⟩,
  ⟨0x1800, 1, 0x05, 2, 1, 1, 1, false, 0, 0, 0⟩,
  ⟨0x1800, 1, 0x06, 5, 1, 1, 8, false, 0, 0, 0⟩,
  ⟨0x1800, 1, 0x07, 1, 4, 1, 1, false, 0, 0, 0⟩,
  ⟨0x1800, 1, 0x08, 4, 2, 1, 4, false, 1000, 10, 60000⟩,
  ⟨0x1801, 1, 0x01, 2, 4, 1, 1, false, 0, 0, 63⟩,
  ⟨0x1801, 1, 0x02, 9, 1, 16, 8, false, 0, 0, 0⟩,
  ⟨0x2000, 1, 0x01, 5, 1, 1, 8, false, 0, 0, 0⟩,
  ⟨0x2000, 1, 0x02, 4, 1, 1, 4, false, 0, 0, 0⟩,
  ⟨0x2000, 1, 0x03, 4, 1, 1, 4, false, 0, 0, 0⟩,
  ⟨0x2001, 1, 0x01, 2, 2, 1, 1, false, 0, 0, 0⟩,
  ⟨0x2001, 1, 0x02, 5, 2, 1, 8, false, 0, 0, 0⟩,
  ⟨0x2001, 1, 0x03, 2, 2, 1, 1, false, 0, 0, 0⟩,
  ⟨0x2001, 1, 0x04, 2, 2, 1, 1, false, 0, 0, 0⟩,
  ⟨0x2001, 1, 0x05, 3, 2, 1, 2, false, 250, 50, 500⟩,
  ⟨0x2001, 1, 0x06, 5, 4, 1, 8, false, 0, 0, 0⟩,
  ⟨0x2001, 1, 0x07, 3, 2, 1, 2, false, 1000, 100, 10000⟩,
  ⟨0x2001, 1, 0x08, 4, 1, 1, 4, false, 0, 0, 0⟩,
  ⟨0x2001, 1, 0x09, 5, 1, 1, 8, false, 0, 0, 0⟩,
  ⟨0x2010, 1, 0x01, 4, 4, 1, 4, false, 0, 0, 0⟩]

/-- Dictionary entries, part 1, in ascending index and subindex. -/
def Dict.part1 : List Desc := [
  ⟨0x2010, 1, 0x02, 1, 4, 1, 1, false, 0, 0, 0⟩,
  ⟨0x2010, 1, 0x04, 5, 2, 1, 8, false, 0, 0, 0⟩,
  ⟨0x2010, 1, 0x05, 1, 4, 1, 1, false, 0, 0, 0⟩,
  ⟨0x2010, 1, 0x06, 1, 4, 1, 1, false, 0, 0, 0⟩,
  ⟨0x2011, 1, 0x01, 2, 1, 1, 1, false, 0, 0, 0⟩,
  ⟨0x2011, 1, 0x02, 5, 1, 1, 8, false, 0, 0, 0⟩,
  ⟨0x2011, 1, 0x03, 3, 1, 1, 2, false, 0, 0, 0⟩,
  ⟨0x2011, 1, 0x04, 4, 1, 1, 4, false, 0, 0, 0⟩,
  ⟨0x2011, 1, 0x05, 8, 1, 1, 48, false, 0, 0, 0⟩,
  ⟨0x2011, 1, 0x06, 5, 1, 1, 8, false, 0, 0, 0⟩,
  ⟨0x2012, 1, 0x01, 4, 0, 1, 4, false, 50000, 0, 0⟩,
  ⟨0x2012, 1, 0x02, 4, 0, 1, 4, false, 20000, 0, 0⟩,
  ⟨0x2100, 64, 0x01, 2, 3, 1, 1, false, 0, 0, 0⟩,
  ⟨0x2100, 64, 0x02, 9, 3, 36, 2, false, 0, 0, 0⟩,
  ⟨0x2100, 64, 0x03, 9, 3, 36, 2, false, 0, 0, 0⟩,
  ⟨0x2100, 64, 0x04, 9, 3, 32, 2, false, 0, 0, 0⟩,
  ⟨0x2100, 64, 0x05, 9, 3, 32, 2, false, 0, 0, 0⟩,
  ⟨0x2100, 64, 0x06, 4, 3, 1, 4, false, 0, 0, 0⟩,
  ⟨0x2100, 64, 0x07, 9, 3, 32, 4, false, 0, 0, 0⟩,
  ⟨0x2100, 64, 0x08, 9, 3, 32, 2, false, 0, 0, 0⟩,
  ⟨0x2100, 64, 0x09, 9, 3, 32, 1, false, 0, 0, 0⟩,
  ⟨0x2400, 36, 0x01, 2, 1, 1, 1, false, 0, 0, 0⟩,
  ⟨0x2400, 36, 0x02, 5, 1, 1, 8, false, 0, 0, 0⟩,
  ⟨0x2400, 36, 0x03, 5, 1, 1, 8, false, 0, 0, 0⟩,
  ⟨0x2400, 36, 0x04, 2, 2, 1, 1, false, 0, 0, 0⟩,
  ⟨0x2400, 36, 0x05, 2, 2, 1, 1, false, 3, 0, 0⟩,
  ⟨0x2400, 36, 0x06, 2, 2, 1, 1, false, 2, 0, 0⟩,
  ⟨0x2400, 36, 0x07, 2, 2, 1, 1, false, 255, 0, 0⟩,
  ⟨0x2400, 36, 0x08, 4, 1, 1, 4, false, 0, 0, 0⟩,
  ⟨0x2400, 36, 0x09, 2, 2, 1, 1, false, 1, 0, 0⟩,
  ⟨0x2400, 36, 0x0A, 9, 2, 4, 2, false, 0, 16, 32768⟩,
  ⟨0x2400, 36, 0x0B, 4, 2, 1, 4, false, 8000, 2000, 64000⟩]

/-- Dictionary entries, part 2, in ascending index and subindex. -/
def Dict.part2 : List Desc := [
  ⟨0x2400, 36, 0x0C, 4, 2, 1, 4, false, 3000, 1000, 32000⟩,
  ⟨0x2400, 36, 0x0D, 4, 2, 1, 4, false, 1000, 250, 8000⟩,
  ⟨0x2400, 36, 0x0E, 4, 2, 1, 4, false, 10000, 2000, 100000⟩,
  ⟨0x2400, 36, 0x0F, 5, 2, 1, 8, false, 1099511627776, 16777216, 1099511627776⟩,
  ⟨0x2400, 36, 0x10, 4, 2, 1, 4, false, 28000, 1000, 1000000⟩,
  ⟨0x2400, 36, 0x11, 3, 2, 1, 2, false, 16, 1, 65535⟩,
  ⟨0x2400, 36, 0x12, 4, 4, 1, 4, false, 0, 0, 0⟩,
  ⟨0x2400, 36, 0x13, 4, 1, 1, 4, false, 0, 0, 0⟩,
  ⟨0x2400, 36, 0x14, 9, 1, 8, 4, false, 0, 0, 0⟩,
  ⟨0x2400, 36, 0x15, 9, 1, 3, 8, false, 0, 0, 0⟩,
  ⟨0x2400, 36, 0x16, 9, 1, 10, 4, false, 0, 0, 0⟩,
  ⟨0x2400, 36, 0x17, 9, 1, 8, 4, false, 0, 0, 0⟩,
  ⟨0x2400, 36, 0x18, 4, 1, 1, 4, false, 0, 0, 0⟩,
  ⟨0x2400, 36, 0x20, 3, 3, 1, 2, false, 65535, 0, 0⟩,
  ⟨0x2400, 36, 0x21, 1, 3, 1, 1, false, 0, 0, 0⟩,
  ⟨0x2400, 36, 0x22, 5, 3, 1, 8, false, 0, 0, 0⟩,
  ⟨0x2400, 36, 0x23, 4, 2, 1, 4, false, 50000, 10000, 1000000⟩,
  ⟨0x2400, 36, 0x24, 2, 2, 1, 1, false, 3, 0, 7⟩,
  ⟨0x2400, 36, 0x25, 3, 2, 1, 2, false, 256, 64, 1024⟩,
  ⟨0x2400, 36, 0x26, 9, 1, 10, 4, false, 0, 0, 0⟩,
  ⟨0x2400, 36, 0x27, 3, 0, 1, 2, false, 2048, 0, 0⟩,
  ⟨0x2400, 36, 0x28, 3, 0, 1, 2, false, 256, 0, 0⟩,
  ⟨0x2400, 36, 0x29, 3, 0, 1, 2, false, 8, 0, 0⟩,
  ⟨0x2800, 1, 0x01, 9, 3, 10, 1, false, 255, 0, 0⟩,
  ⟨0x2800, 1, 0x02, 3, 2, 1, 2, false, 192, 64, 255⟩,
  ⟨0x2800, 1, 0x03, 3, 2, 1, 2, false, 96, 0, 0⟩,
  ⟨0x2800, 1, 0x04, 2, 2, 1, 1, false, 128, 16, 255⟩,
  ⟨0x2800, 1, 0x05, 1, 2, 1, 1, false, 1, 0, 0⟩,
  ⟨0x2800, 1, 0x06, 3, 0, 1, 2, false, 256, 0, 0⟩,
  ⟨0x2800, 1, 0x07, 3, 0, 1, 2, false, 64, 0, 0⟩,
  ⟨0x2840, 36, 0x01, 9, 1, 8, 8, false, 0, 0, 0⟩,
  ⟨0x2840, 36, 0x02, 3, 1, 1, 2, false, 0, 0, 0⟩]

/-- Dictionary entries, part 3, in ascending index and subindex. -/
def Dict.part3 : List Desc := [
  ⟨0x3000, 64, 0x01, 2, 3, 1, 1, false, 0, 0, 0⟩,
  ⟨0x3000, 64, 0x02, 2, 1, 1, 1, false, 0, 0, 0⟩,
  ⟨0x3000, 64, 0x03, 3, 1, 1, 2, false, 1, 0, 0⟩,
  ⟨0x3000, 64, 0x04, 5, 1, 1, 8, false, 0, 0, 0⟩,
  ⟨0x3000, 64, 0x05, 1, 3, 1, 1, false, 0, 0, 0⟩,
  ⟨0x3000, 64, 0x06, 5, 1, 1, 8, false, 0, 0, 0⟩,
  ⟨0x3000, 64, 0x07, 8, 4, 1, 48, false, 0, 0, 0⟩,
  ⟨0x3000, 64, 0x08, 8, 1, 1, 48, false, 0, 0, 0⟩,
  ⟨0x3000, 64, 0x09, 3, 3, 1, 2, false, 0, 0, 0⟩,
  ⟨0x3000, 64, 0x0A, 8, 4, 1, 52, false, 0, 0, 0⟩,
  ⟨0x3000, 64, 0x0B, 8, 4, 1, 48, false, 0, 0, 0⟩,
  ⟨0x3000, 64, 0x0C, 8, 3, 1, 48, false, 0, 0, 0⟩,
  ⟨0x3400, 64, 0x01, 9, 3, 16384, 8, false, 0, 0, 0⟩,
  ⟨0x3440, 64, 0x01, 9, 3, 4096, 2, false, 0, 0, 0⟩,
  ⟨0x3480, 64, 0x01, 9, 1, 4096, 8, false, 0, 0, 0⟩,
  ⟨0x3480, 64, 0x02, 9, 1, 4096, 2, false, 0, 0, 0⟩,
  ⟨0x3500, 1, 0x01, 9, 3, 4096, 8, false, 0, 0, 0⟩,
  ⟨0x3500, 1, 0x02, 9, 3, 4096, 4, false, 0, 0, 0⟩,
  ⟨0x3500, 1, 0x03, 9, 1, 4096, 8, false, 0, 0, 0⟩,
  ⟨0x3500, 1, 0x04, 9, 1, 4096, 1, false, 0, 0, 0⟩,
  ⟨0x3501, 1, 0x01, 9, 1, 16256, 1, false, 0, 0, 0⟩,
  ⟨0x3501, 1, 0x02, 3, 0, 1, 2, false, 8, 0, 0⟩,
  ⟨0x3501, 1, 0x03, 9, 1, 6, 8, false, 0, 0, 0⟩,
  ⟨0x3800, 1, 0x01, 3, 2, 1, 2, false, 16, 2, 400⟩,
  ⟨0x3800, 1, 0x02, 4, 0, 1, 4, false, 2097152, 0, 0⟩,
  ⟨0x3800, 1, 0x03, 2, 0, 1, 1, false, 16, 0, 0⟩,
  ⟨0x3800, 1, 0x04, 3, 0, 1, 2, false, 4096, 0, 0⟩,
  ⟨0x3800, 1, 0x05, 2, 0, 1, 1, false, 16, 0, 0⟩,
  ⟨0x3800, 1, 0x06, 9, 0, 2, 4, false, 0, 0, 0⟩,
  ⟨0x3801, 1, 0x01, 5, 4, 1, 8, false, 0, 0, 0⟩,
  ⟨0x3801, 1, 0x02, 8, 1, 1, 10, true, 0, 0, 0⟩,
  ⟨0x3802, 1, 0x01, 9, 1, 4096, 1, false, 0, 0, 0⟩]

/-- Dictionary entries, part 4, in ascending index and subindex. -/
def Dict.part4 : List Desc := [
  ⟨0x3810, 36, 0x01, 9, 1, 10, 8, false, 0, 0, 0⟩,
  ⟨0x3810, 36, 0x02, 4, 1, 1, 4, false, 0, 0, 0⟩,
  ⟨0x3840, 64, 0x01, 9, 1, 256, 8, false, 0, 0, 0⟩,
  ⟨0x3840, 64, 0x02, 4, 1, 1, 4, false, 0, 0, 0⟩,
  ⟨0x4000, 36, 0x01, 2, 1, 1, 1, false, 0, 0, 0⟩,
  ⟨0x4000, 36, 0x02, 2, 1, 1, 1, false, 0, 0, 0⟩,
  ⟨0x4000, 36, 0x03, 4, 2, 1, 4, false, 200, 50, 100000⟩,
  ⟨0x4000, 36, 0x04, 2, 2, 1, 1, false, 32, 1, 32⟩,
  ⟨0x4000, 36, 0x05, 2, 2, 1, 1, false, 48, 17, 64⟩,
  ⟨0x4000, 36, 0x06, 2, 2, 1, 1, false, 16, 0, 0⟩,
  ⟨0x4000, 36, 0x07, 3, 2, 1, 2, false, 4096, 3584, 8192⟩,
  ⟨0x4000, 36, 0x08, 2, 2, 1, 1, false, 2, 1, 2⟩,
  ⟨0x4000, 36, 0x09, 2, 2, 1, 1, false, 3, 1, 15⟩,
  ⟨0x4000, 36, 0x0A, 2, 2, 1, 1, false, 64, 0, 0⟩,
  ⟨0x4000, 36, 0x0B, 2, 4, 1, 1, false, 0, 0, 31⟩,
  ⟨0x4000, 36, 0x0C, 4, 2, 1, 4, false, 0, 0, 0⟩,
  ⟨0x4000, 36, 0x0D, 4, 1, 1, 4, false, 0, 0, 0⟩,
  ⟨0x4000, 36, 0x0E, 5, 2, 1, 8, false, 1, 1, 18446744073709551615⟩,
  ⟨0x4000, 36, 0x0F, 9, 1, 72, 4, false, 0, 0, 0⟩,
  ⟨0x4000, 36, 0x10, 9, 2, 4608, 1, false, 0, 0, 0⟩,
  ⟨0x4000, 36, 0x11, 9, 0, 16, 4, false, 0, 0, 0⟩,
  ⟨0x4000, 36, 0x12, 9, 1, 10, 8, false, 0, 0, 0⟩,
  ⟨0x4000, 36, 0x13, 9, 1, 64, 8, false, 0, 0, 0⟩,
  ⟨0x4000, 36, 0x14, 9, 1, 64, 1, false, 0, 0, 0⟩,
  ⟨0x4400, 1, 0x01, 9, 3, 64, 1, false, 0, 0, 0⟩,
  ⟨0x4400, 1, 0x02, 8, 0, 1, 16, false, 0, 0, 0⟩,
  ⟨0x4401, 1, 0x01, 4, 2, 1, 4, false, 86400, 3600, 604800⟩,
  ⟨0x4401, 1, 0x02, 1, 2, 1, 1, false, 1, 0, 0⟩,
  ⟨0x4401, 1, 0x03, 4, 2, 1, 4, false, 4096, 16, 1000000⟩,
  ⟨0x4410, 36, 0x01, 5, 1, 1, 8, false, 0, 0, 0⟩,
  ⟨0x4410, 36, 0x02, 2, 2, 1, 1, false, 255, 0, 0⟩,
  ⟨0x4410, 36, 0x03, 4, 1, 1, 4, false, 0, 0, 0⟩]

/-- Dictionary entries, part 5, in ascending index and subindex. -/
def Dict.part5 : List Desc := [
  ⟨0x4410, 36, 0x04, 9, 1, 18, 8, false, 0, 0, 0⟩,
  ⟨0x4410, 36, 0x05, 9, 1, 8, 8, false, 0, 0, 0⟩,
  ⟨0x4410, 36, 0x06, 9, 1, 64, 16, true, 0, 0, 0⟩,
  ⟨0x4410, 36, 0x07, 2, 1, 1, 1, false, 0, 0, 0⟩,
  ⟨0x4480, 1, 0x01, 4, 2, 1, 4, false, 0, 0, 0⟩,
  ⟨0x4480, 1, 0x02, 5, 2, 1, 8, false, 0, 0, 0⟩,
  ⟨0x4480, 1, 0x03, 8, 2, 1, 128, false, 0, 0, 0⟩,
  ⟨0x4480, 1, 0x04, 8, 2, 1, 16, false, 0, 0, 0⟩,
  ⟨0x4480, 1, 0x05, 4, 1, 1, 4, false, 0, 0, 0⟩,
  ⟨0x4600, 1, 0x01, 9, 1, 32, 1, false, 0, 0, 0⟩,
  ⟨0x4600, 1, 0x02, 9, 3, 32, 1, false, 0, 0, 0⟩,
  ⟨0x4600, 1, 0x03, 9, 1, 36, 1, false, 0, 0, 0⟩,
  ⟨0x4600, 1, 0x04, 9, 1, 32, 1, false, 0, 0, 0⟩,
  ⟨0x4600, 1, 0x05, 9, 1, 64, 4, false, 0, 0, 0⟩,
  ⟨0x4601, 1, 0x01, 4, 4, 1, 4, false, 0, 0, 0⟩,
  ⟨0x4601, 1, 0x02, 4, 1, 1, 4, false, 0, 0, 0⟩,
  ⟨0x4601, 1, 0x03, 3, 2, 1, 2, false, 1000, 100, 1000⟩,
  ⟨0x4601, 1, 0x04, 1, 2, 1, 1, false, 1, 0, 0⟩,
  ⟨0x4601, 1, 0x05, 9, 1, 36, 4, false, 0, 0, 0⟩,
  ⟨0x4601, 1, 0x06, 9, 1, 8, 8, false, 0, 0, 0⟩,
  ⟨0x4602, 1, 0x01, 9, 3, 1024, 16, true, 0, 0, 0⟩,
  ⟨0x4602, 1, 0x02, 9, 1, 1024, 1, false, 0, 0, 0⟩,
  ⟨0x4602, 1, 0x03, 9, 1, 1024, 32, false, 0, 0, 0⟩,
  ⟨0x4800, 1, 0x01, 9, 3, 128, 1, false, 255, 0, 0⟩,
  ⟨0x4800, 1, 0x02, 9, 3, 1024, 8, false, 0, 0, 0⟩,
  ⟨0x4800, 1, 0x03, 2, 2, 1, 1, false, 2, 0, 7⟩,
  ⟨0x4800, 1, 0x04, 2, 0, 1, 1, false, 16, 0, 0⟩,
  ⟨0x4800, 1, 0x05, 2, 0, 1, 1, false, 4, 0, 0⟩,
  ⟨0x4800, 1, 0x06, 3, 0, 1, 2, false, 256, 0, 0⟩,
  ⟨0x4800, 1, 0x07, 4, 0, 1, 4, false, 67108864, 0, 0⟩,
  ⟨0x4801, 1, 0x01, 4, 4, 1, 4, false, 0, 0, 0⟩,
  ⟨0x4801, 1, 0x02, 8, 1, 1, 8264, false, 0, 0, 0⟩]

/-- Dictionary entries, part 6, in ascending index and subindex. -/
def Dict.part6 : List Desc := [
  ⟨0x4840, 64, 0x01, 9, 3, 16, 16, true, 0, 0, 0⟩,
  ⟨0x4840, 64, 0x02, 9, 1, 16, 24, true, 0, 0, 0⟩,
  ⟨0x4880, 36, 0x01, 9, 1, 10, 8, false, 0, 0, 0⟩,
  ⟨0x4880, 36, 0x02, 3, 1, 1, 2, false, 0, 0, 0⟩,
  ⟨0x5000, 1, 0x01, 2, 2, 1, 1, false, 64, 4, 64⟩,
  ⟨0x5000, 1, 0x02, 9, 0, 20, 4, false, 0, 0, 0⟩,
  ⟨0x5000, 1, 0x03, 5, 0, 1, 8, false, 68719476736, 0, 0⟩,
  ⟨0x5000, 1, 0x04, 4, 0, 1, 4, false, 8388608, 0, 0⟩,
  ⟨0x5000, 1, 0x05, 2, 0, 1, 1, false, 2, 0, 0⟩,
  ⟨0x5001, 1, 0x01, 9, 3, 512, 1, false, 255, 0, 0⟩,
  ⟨0x5001, 1, 0x02, 4, 0, 1, 4, false, 40960, 0, 0⟩,
  ⟨0x5001, 1, 0x03, 4, 0, 1, 4, false, 512, 0, 0⟩,
  ⟨0x5001, 1, 0x04, 3, 0, 1, 2, false, 256, 0, 0⟩,
  ⟨0x5001, 1, 0x05, 3, 0, 1, 2, false, 32, 0, 0⟩,
  ⟨0x5001, 1, 0x06, 2, 0, 1, 1, false, 4, 0, 0⟩,
  ⟨0x5001, 1, 0x07, 9, 1, 32, 1, false, 0, 0, 0⟩,
  ⟨0x5040, 36, 0x01, 9, 1, 10, 8, false, 0, 0, 0⟩,
  ⟨0x5040, 36, 0x02, 9, 1, 64, 1, false, 0, 0, 0⟩,
  ⟨0x5080, 64, 0x01, 9, 1, 512, 1, false, 0, 0, 0⟩,
  ⟨0x5080, 64, 0x02, 9, 1, 8, 8, false, 0, 0, 0⟩,
  ⟨0x5400, 1, 0x01, 9, 1, 1024, 16, true, 0, 0, 0⟩,
  ⟨0x5400, 1, 0x02, 3, 0, 1, 2, false, 1024, 0, 0⟩,
  ⟨0x5400, 1, 0x03, 3, 0, 1, 2, false, 4096, 0, 0⟩,
  ⟨0x5400, 1, 0x04, 3, 0, 1, 2, false, 512, 0, 0⟩,
  ⟨0x5400, 1, 0x05, 4, 0, 1, 4, false, 163840, 0, 0⟩,
  ⟨0x5400, 1, 0x06, 4, 0, 1, 4, false, 16384, 0, 0⟩,
  ⟨0x5400, 1, 0x07, 2, 0, 1, 1, false, 16, 0, 0⟩,
  ⟨0x5440, 36, 0x01, 9, 1, 10, 8, false, 0, 0, 0⟩,
  ⟨0x5440, 36, 0x02, 3, 1, 1, 2, false, 0, 0, 0⟩,
  ⟨0x6000, 1, 0x01, 9, 1, 16256, 1, false, 0, 0, 0⟩,
  ⟨0x6000, 1, 0x02, 3, 0, 1, 2, false, 128, 0, 0⟩,
  ⟨0x6001, 1, 0x01, 9, 1, 36, 1, false, 0, 0, 0⟩]

/-- Dictionary entries, part 7, in ascending index and subindex. -/
def Dict.part7 : List Desc := [
  ⟨0x6001, 1, 0x02, 4, 0, 1, 4, false, 4000, 0, 0⟩,
  ⟨0x6001, 1, 0x03, 3, 0, 1, 2, false, 8, 0, 0⟩,
  ⟨0x6002, 1, 0x01, 9, 1, 9, 8, false, 0, 0, 0⟩,
  ⟨0x6002, 1, 0x02, 9, 1, 64, 16, true, 0, 0, 0⟩,
  ⟨0x6400, 1, 0x01, 8, 1, 1, 97, false, 0, 0, 0⟩,
  ⟨0x6400, 1, 0x02, 8, 1, 1, 1952, false, 0, 0, 0⟩,
  ⟨0x6400, 1, 0x03, 9, 1, 1, 0, false, 0, 0, 0⟩,
  ⟨0x6400, 1, 0x04, 9, 1, 1, 0, false, 0, 0, 0⟩,
  ⟨0x6400, 1, 0x05, 9, 1, 1, 0, false, 0, 0, 0⟩,
  ⟨0x6400, 1, 0x06, 2, 1, 1, 1, false, 0, 0, 0⟩,
  ⟨0x6400, 1, 0x07, 2, 0, 1, 1, false, 16, 0, 0⟩,
  ⟨0x6400, 1, 0x08, 3, 0, 1, 2, false, 1024, 0, 0⟩,
  ⟨0x6400, 1, 0x09, 8, 0, 1, 4, false, 0, 0, 0⟩,
  ⟨0x6401, 1, 0x01, 9, 1, 36, 48, false, 0, 0, 0⟩,
  ⟨0x6401, 1, 0x02, 9, 1, 6, 8, false, 0, 0, 0⟩,
  ⟨0x6440, 64, 0x01, 8, 4, 1, 52, false, 0, 0, 0⟩,
  ⟨0x6440, 64, 0x02, 5, 1, 1, 8, false, 0, 0, 0⟩,
  ⟨0x6440, 64, 0x03, 9, 1, 1, 72, false, 0, 0, 0⟩,
  ⟨0x6440, 64, 0x04, 9, 1, 1, 0, false, 0, 0, 0⟩,
  ⟨0x7000, 1, 0x01, 3, 0, 1, 2, false, 96, 0, 0⟩,
  ⟨0x7000, 1, 0x02, 4, 0, 1, 4, false, 240000, 0, 0⟩,
  ⟨0x7000, 1, 0x03, 9, 0, 14, 4, false, 0, 0, 0⟩,
  ⟨0x7000, 1, 0x04, 5, 1, 1, 8, false, 0, 0, 0⟩,
  ⟨0x7000, 1, 0x05, 9, 1, 5, 8, false, 0, 0, 0⟩,
  ⟨0x7040, 64, 0x01, 8, 1, 1, 3589, false, 0, 0, 0⟩,
  ⟨0x7080, 1, 0x01, 8, 1, 1, 3589, false, 0, 0, 0⟩,
  ⟨0x7400, 1, 0x01, 9, 3, 64, 2, false, 0, 0, 0⟩,
  ⟨0x7400, 1, 0x02, 3, 3, 1, 2, false, 1200, 800, 2000⟩,
  ⟨0x7400, 1, 0x03, 1, 3, 1, 1, false, 0, 0, 0⟩,
  ⟨0x7400, 1, 0x04, 2, 2, 1, 1, false, 83, 75, 84⟩,
  ⟨0x7400, 1, 0x05, 2, 2, 1, 1, false, 95, 85, 100⟩,
  ⟨0x7400, 1, 0x06, 4, 2, 1, 4, false, 0, 0, 0⟩]

/-- Dictionary entries, part 8, in ascending index and subindex. -/
def Dict.part8 : List Desc := [
  ⟨0x7400, 1, 0x07, 5, 1, 1, 8, false, 0, 0, 0⟩,
  ⟨0x7400, 1, 0x08, 4, 1, 1, 4, false, 0, 0, 0⟩,
  ⟨0x7400, 1, 0x09, 9, 0, 5, 4, false, 0, 0, 0⟩,
  ⟨0x7400, 1, 0x0A, 9, 1, 8, 8, false, 0, 0, 0⟩,
  ⟨0x7440, 36, 0x01, 9, 1, 6, 2, false, 0, 0, 0⟩,
  ⟨0x7440, 36, 0x02, 2, 1, 1, 1, false, 0, 0, 0⟩,
  ⟨0x7440, 36, 0x03, 2, 1, 1, 1, false, 0, 0, 0⟩,
  ⟨0x7800, 1, 0x01, 9, 0, 1, 0, false, 0, 0, 0⟩,
  ⟨0x7800, 1, 0x02, 3, 0, 1, 2, false, 47810, 0, 0⟩,
  ⟨0x7800, 1, 0x03, 3, 0, 1, 2, false, 4000, 0, 0⟩,
  ⟨0x7800, 1, 0x04, 4, 0, 1, 4, false, 16777216, 0, 0⟩,
  ⟨0x7801, 1, 0x01, 9, 2, 4, 48, false, 0, 0, 0⟩,
  ⟨0x7801, 1, 0x02, 9, 1, 16, 8, false, 0, 0, 0⟩,
  ⟨0x7802, 2, 0x01, 8, 2, 1, 6, false, 0, 0, 0⟩,
  ⟨0x7802, 2, 0x02, 8, 2, 1, 17, false, 0, 0, 0⟩,
  ⟨0x7802, 2, 0x03, 8, 2, 1, 9, false, 0, 0, 0⟩,
  ⟨0x7802, 2, 0x04, 8, 2, 1, 20, false, 0, 0, 0⟩,
  ⟨0x7802, 2, 0x05, 3, 2, 1, 2, false, 1500, 1280, 9000⟩,
  ⟨0x7802, 2, 0x06, 2, 1, 1, 1, false, 0, 0, 0⟩,
  ⟨0x7810, 1, 0x01, 9, 4, 1, 0, false, 0, 0, 0⟩,
  ⟨0x7810, 1, 0x02, 4, 1, 1, 4, false, 0, 0, 0⟩,
  ⟨0x7810, 1, 0x03, 1, 4, 1, 1, false, 0, 0, 0⟩,
  ⟨0x7810, 1, 0x04, 4, 0, 1, 4, false, 8388608, 0, 0⟩,
  ⟨0x7811, 1, 0x01, 9, 1, 4, 8, false, 0, 0, 0⟩,
  ⟨0x7811, 1, 0x02, 3, 0, 1, 2, false, 4000, 0, 0⟩,
  ⟨0x7812, 1, 0x01, 9, 1, 10, 8, false, 0, 0, 0⟩,
  ⟨0x7C00, 1, 0x01, 4, 2, 1, 4, false, 0, 0, 0⟩,
  ⟨0x7C00, 1, 0x02, 4, 0, 1, 4, false, 0, 0, 0⟩]

/-- Every entry family of the dictionary. -/
def Dict.all : List Desc :=
  Dict.part0 ++ Dict.part1 ++ Dict.part2 ++ Dict.part3 ++ Dict.part4 ++ Dict.part5 ++ Dict.part6 ++ Dict.part7 ++ Dict.part8

/-- The family that lists index `idx` and subindex `sub`, if any does (R11). -/
def Dict.find (idx sub : Nat) : Option Desc :=
  Dict.all.find? (fun d => d.sub = sub ∧ d.base ≤ idx ∧ idx < d.base + d.n)

/-- MAC per cycle by format code 0x00 to 0x13 (R270), the value of MAC_RATES. -/
def Dict.macRates : List Nat :=
  [2048, 8192, 8192, 16384, 16384, 16384, 16384, 16384, 16384, 32768, 16384, 16384, 32768, 16384, 16384, 16384, 32768, 32768, 32768,
    0]

/-- TIMING in ps, in the order R202 lists (R185). -/
def Dict.timing : List Nat :=
  [2000, 8000, 8000, 4000, 16000, 8000, 24000, 500, 2000, 2000, 4000, 10000, 6000, 0, 48000, 4000]

/-- The 16 check symbols of the poison signature (R208). -/
def Dict.poison : List Nat :=
  [0x8E, 0x3B, 0xD1, 0x47, 0xA9, 0x16, 0xF2, 0x6C, 0x5D, 0xE0, 0x83, 0x2A, 0xB7, 0x19, 0xC4, 0x7F]

/-- The number an OCTET value holds, first byte most significant. -/
def Dict.octets (l : List Nat) : Nat := l.foldl (fun a b => a * 256 + b) 0

/-- The listed default of element `el` of entry `idx`:`sub` (R2), where the tables give it by a number or by a rule of
constants; defaults from fuses are `regDefault`'s (Machine/Ops.lean). -/
def Dict.dflt (idx sub el : Nat) : Nat :=
  match Dict.find idx sub with
  | none => 0
  | some d =>
    if d.base = 0x2400 ∧ sub = 0x0A then [1024, 1024, 512, 1536].getD el 0
    else if d.base = 0x3800 ∧ sub = 0x06 then [256, 65536].getD el 0
    else if d.base = 0x4000 ∧ sub = 0x11 then Dict.timing.getD el 0
    else if d.base = 0x4400 ∧ sub = 0x02 then Dict.octets Dict.poison
    else if d.base = 0x4600 ∧ sub = 0x02 then el ^^^ 16
    else if d.base = 0x5000 ∧ sub = 0x02 then Dict.macRates.getD el 0
    else if d.base = 0x7400 ∧ sub = 0x09 then [2200, 2800, 160, 4000, 2000].getD el 0
    else d.dflt

end Sys2Proof.Machine
end

