-- ==== Sys2Proof/Machine/Ecc.lean ====
section
/-!
DEFINITION. The line code of ch. 09: Reed-Solomon (144, 128) over GF(2^8), its encoder and its decoder. A stored line is
a codeword XOR an error pattern, and the syndromes depend on the error pattern alone (the code is linear), so the decoder
works on the pattern: a list of (symbol, error) with symbols 0 to 127 for d0 to d127 and 128 to 143 for q0 to q15.
-/

namespace Sys2Proof.Machine

/-! ### The field (R204) -/

/-- Multiply by alpha = 2 modulo 0x11D. -/
def gfDouble (a : Nat) : Nat := if a < 128 then 2 * a else (2 * a) ^^^ 0x11D

/-- Field product. -/
def gfMulAux : Nat → Nat → Nat → Nat
  | 0, _, _ => 0
  | n + 1, a, b => (if b % 2 = 1 then a else 0) ^^^ gfMulAux n (gfDouble a) (b / 2)

/-- Field product of two bytes. -/
def gfMul (a b : Nat) : Nat := gfMulAux 8 a b

/-- Power of a field element, square by square. -/
def gfPowAux : Nat → Nat → Nat → Nat
  | 0, _, _ => 1
  | n + 1, a, e => gfMul (if e % 2 = 1 then a else 1) (gfPowAux n (gfMul a a) (e / 2))

/-- `a` to the power `e` (`e` below 4,096). -/
def gfPow (a e : Nat) : Nat := gfPowAux 12 a e

/-- Inverse of a non-zero element. -/
def gfInv (a : Nat) : Nat := gfPow a 254

/-! ### Encoder (R204) -/

/-- Multiply a polynomial (lowest coefficient first) by (x - alpha^i). -/
def polyMulRoot (p : List Nat) (i : Nat) : List Nat :=
  List.zipWith (· ^^^ ·) (0 :: p) (p.map (gfMul (gfPow 2 i)) ++ [0])

/-- g(x), lowest coefficient first: 17 coefficients, the last 1. -/
def rsGenerator : List Nat := (List.range 16).foldl polyMulRoot [1]

/-- One step of the division by g: the next data symbol, highest coefficient first. -/
def rsStep (g : List Nat) (r : List Nat) (d : Nat) : List Nat :=
  let f := d ^^^ r.getD 15 0
  List.zipWith (fun a b => a ^^^ gfMul f b) (0 :: r.take 15) (g.take 16)

/-- The 16 check symbols q0 to q15 of data symbols d0 to d127. -/
def rsCheck (d : List Nat) : List Nat := d.reverse.foldl (rsStep rsGenerator) (List.replicate 16 0)

/-! ### Decoder (R206) -/

/-- The exponent of a symbol in c(x): d_k is the coefficient of x^(k+16), q_j of x^j. -/
def symPos (sym : Nat) : Nat := if sym < 128 then sym + 16 else sym - 128

/-- The symbol at an exponent. -/
def posSym (pos : Nat) : Nat := if pos < 16 then pos + 128 else pos - 16

/-- Die that carries a symbol (R205). -/
def symDie (sym : Nat) : Nat := sym / 8

/-- The DQ line and the beat of the burst that carry bit `b` of symbol `sym` (R205). -/
def symbolDq (sym b : Nat) : Nat × Nat := (4 * symDie sym + b % 4, 2 * (sym % 8) + b / 4)

/-- The 72 bits that the DQ lines carry in one beat of a line of 144 symbols, line 0 the least significant (R205). -/
def beatBits (syms : List Nat) (beat : Nat) : Nat :=
  (List.range 72).foldl (fun a dq => a + fld (syms.getD (8 * (dq / 4) + beat / 2) 0) (4 * (beat % 2) + dq % 4) (4 * (beat % 2) + dq % 4) * 2 ^ dq) 0

/-- Syndrome `i` of an error pattern. -/
def syndrome (e : List (Nat × Nat)) (i : Nat) : Nat :=
  e.foldl (fun a x => a ^^^ gfMul x.2 (gfPow 2 (i * symPos x.1 % 255))) 0

/-- The 16 syndromes. -/
def syndromes (e : List (Nat × Nat)) : List Nat := (List.range 16).map (syndrome e)

/-- Take a row with a non-zero head to the front, if there is one. -/
def pivotRow : List (List Nat) → Option (List Nat × List (List Nat))
  | [] => none
  | r :: t =>
    if r.headD 0 ≠ 0 then some (r, t)
    else (pivotRow t).map (fun p => (p.1, r :: p.2))

/-- Solve a linear system over GF(2^8) with `n` unknowns by elimination; rows are coefficients then the right side.
`none` when it has no solution, or no unique one. -/
def gfSolve : Nat → List (List Nat) → Option (List Nat)
  | 0, rows => if rows.all (fun r => r.headD 0 = 0) then some [] else none
  | n + 1, rows =>
    match pivotRow rows with
    | none => none
    | some (p, rest) =>
      let pi := gfInv (p.headD 1)
      let pn := p.map (gfMul pi)
      let red := rest.map (fun r => (List.zipWith (fun a b => a ^^^ gfMul (r.headD 0) b) r pn).drop 1)
      match gfSolve n red with
      | none => none
      | some xs =>
        let rhs := pn.getLastD 0
        let sum := (List.zipWith gfMul ((pn.drop 1).take n) xs).foldl (· ^^^ ·) 0
        some ((rhs ^^^ sum) :: xs)

/-- The error values at given symbols that explain all 16 syndromes, if there are such. -/
def solveAt (syms : List Nat) (syn : List Nat) : Option (List (Nat × Nat)) :=
  (gfSolve syms.length ((List.range 16).map (fun i =>
    syms.map (fun y => gfPow 2 (i * symPos y % 255)) ++ [syn.getD i 0]))).map
    (fun v => (syms.zip v).filter (fun e => e.2 ≠ 0))

/-- Exponents 0 to 143 at which the polynomial 1 + l1 x + ... has alpha^-pos as a root. -/
def locatorRoots (l : List Nat) : List Nat :=
  (List.range 144).filter (fun pos =>
    let x := gfPow 2 ((255 - pos) % 255)
    (l.zip (List.range l.length)).foldl (fun a c => a ^^^ gfMul c.1 (gfPow x (c.2 + 1))) 1 = 0)

/-- `t` error symbols located from consecutive syndromes `syn`, if their recurrence has exactly `t` roots. -/
def locate (t : Nat) (syn : List Nat) : Option (List Nat) :=
  let rows := (List.range (syn.length - t)).map (fun i =>
    ((List.range t).map (fun j => syn.getD (i + t - 1 - j) 0)) ++ [syn.getD (i + t) 0])
  match gfSolve t rows with
  | none => none
  | some l =>
    let r := locatorRoots l
    if r.length = t then some (r.map posSym) else none

/-- Syndromes with the symbols of `syms` erased: each symbol's root removed in turn. -/
def eraseSyn (syms : List Nat) (syn : List Nat) : List Nat :=
  syms.foldl (fun s y =>
    let x := gfPow 2 (symPos y)
    List.zipWith (fun a b => b ^^^ gfMul x a) s (s.drop 1)) syn

/-- The symbols of a die (R205). -/
def dieSyms (die : Nat) : List Nat := (List.range 8).map (fun i => 8 * die + i)

/-- The accepted error pattern that explains the syndromes, if there is one (R206). -/
def acceptedPattern (retired : Option Nat) (syn : List Nat) : Option (List (Nat × Nat)) :=
  match retired with
  | none =>
    match (List.range 18).findSome? (fun d => solveAt (dieSyms d) syn) with
    | some e => some e
    | none => [1, 2, 3, 4].findSome? (fun t => (locate t syn).bind (fun y => solveAt y syn))
  | some d =>
    let er := dieSyms d
    match solveAt er syn with
    | some e => some e
    | none =>
      [1, 2, 3, 4].findSome? (fun t =>
        (locate t (eraseSyn er syn)).bind (fun y => solveAt (er ++ y.filter (fun z => !er.contains z)) syn))

/-- The decode outcomes of R206. -/
inductive LineState where
  /-- All syndromes are 0. -/
  | clean
  /-- The signature, with the corrections made to it. -/
  | poisoned (fix : List (Nat × Nat))
  /-- Corrected by the pattern. -/
  | corrected (fix : List (Nat × Nat))
  /-- None of the above. -/
  | uncorrectable
deriving DecidableEq, Repr

/-- The error pattern of the poison signature against the zero codeword (R208). -/
def poisonErrs : List (Nat × Nat) := (List.range 16).map (fun j => (128 + j, Dict.poison.getD j 0))

/-- Classify a line by its error pattern (R206); the line's data is that of its codeword, zero for a poisoned line. -/
def classify (retired : Option Nat) (e : List (Nat × Nat)) : LineState :=
  let syn := syndromes e
  let pois := List.zipWith (· ^^^ ·) syn (syndromes poisonErrs)
  if syn.all (· = 0) then .clean
  else if pois.all (· = 0) then .poisoned []
  else
    match acceptedPattern retired syn with
    | some f => .corrected f
    | none =>
      match acceptedPattern retired pois with
      | some f => .poisoned f
      | none => .uncorrectable

/-- The sole die of a correction, if all its symbols lie in one (R218). -/
def soleDie (fix : List (Nat × Nat)) : Option Nat :=
  match fix with
  | [] => none
  | (y, _) :: t => if t.all (fun z => symDie z.1 = symDie y) then some (symDie y) else none

end Sys2Proof.Machine
end

