-- ==== Sys2Proof/Config.lean ====
section
/-!
DEFINITION. What the manual leaves open or takes from a standard the model does not write out: constants with no body,
so that no proof can see their values. A claim is true whatever they are.
-/

namespace Sys2Proof.Config

/-- A value the manual does not state, fresh for each use: applied to `State.free` (log entry 2). -/
opaque freeValue : Nat → Nat

/-- What a counter entry holds once its count no longer fits its type: by element key and true count (log entry 6). -/
opaque counterOver : Nat → Nat → Nat

/-- Line ciphertext under AES-256-XTS (17 R381): key number, data unit number, 128 bytes of plaintext. -/
opaque xts : Nat → Nat → List (BitVec 8) → List (BitVec 8)

/-- Deciphering of a line whose code was miscorrected (09 R206): key number, data unit, 128 bytes. -/
opaque unxts : Nat → Nat → List (BitVec 8) → List (BitVec 8)

/-- The draws of a tile's DRBG: tile, draw number, bytes (17 R389). -/
opaque drbg : Nat → Nat → Nat → List (BitVec 8)

/-- AES-256-GCM (03 R70): key, IV, additional data, plaintext; the ciphertext followed by the 12-byte tag. -/
opaque gcm : List (BitVec 8) → List (BitVec 8) → List (BitVec 8) → List (BitVec 8) → List (BitVec 8)

/-- The table of the special-function unit (12 R273), as an offset within the error that the manual allows: function, input. -/
opaque specialFn : Nat → Nat → Nat

/-- Uncompressed public point of a P-384 private key d (18 R396, R412): 97 bytes. -/
opaque ecdsaPublic : Nat → List (BitVec 8)

/-- ML-DSA.KeyGen_internal of FIPS 204: the public key of the seed ξ (18 R396): 1,952 bytes. -/
opaque mldsaPublic : List (BitVec 8) → List (BitVec 8)

/-- ECDSA P-384 signature (18 R399): private key d, hash; 96 bytes. -/
opaque ecdsaSign : Nat → List (BitVec 8) → List (BitVec 8)

/-- ML-DSA-65 signature, hedged (18 R399): seed ξ, hash, random input; 3,309 bytes. -/
opaque mldsaSign : List (BitVec 8) → List (BitVec 8) → Nat → List (BitVec 8)

/-- The certificate chain of an SPDM slot (18 R397): the root and intermediate of the boot ROM, and the device certificate rebuilt
from its template: slot, serial number, notBefore, fused signature, public key, part number and speed bin. -/
opaque certChain : Nat → Nat → List (BitVec 8) → List (BitVec 8) → List (BitVec 8) → List (BitVec 8) → List (BitVec 8)

/-- What the root of trust presents from the boot ROM (18 R402, R412): item. -/
opaque identity : Nat → List (BitVec 8)

/-- The part's public values of a key exchange (18 R398, R399): draw number; an ECDH P-384 point and an ML-KEM-768 ciphertext
or encapsulation key. -/
opaque exchange : Nat → Nat → List (BitVec 8)

/-- Export master secret of an SPDM session (18 R399, 17 R376): the peer's public values and the part's draw. -/
opaque exportSecret : List (BitVec 8) → List (BitVec 8) → Nat → List (BitVec 8)

/-- Verify data of an SPDM session, the HMAC over its transcript (18 R398): its secret, which side. -/
opaque verifyData : List (BitVec 8) → Nat → List (BitVec 8)

/-- Enciphered application data and MAC of a secured message (19 R418): session secret, sequence number, application data. -/
opaque secured : List (BitVec 8) → Nat → List (BitVec 8) → List (BitVec 8)

end Sys2Proof.Config
end

