-- ==== Sys2Proof/Machine/Codes.lean ====
section
/-!
DEFINITION. The status and fault codes of R494: one value and one name in every field that carries it (R492).
-/

namespace Sys2Proof.Machine

/-- OK: Every field; success. -/
abbrev Code.ok : Nat := 0x0000
/-- UNSUPPORTED: Reserved opcode or MTYPE (R93, R424). -/
abbrev Code.unsupported : Nat := 0x0101
/-- BAD_REQUEST: Malformed request or window write (R105, R101, R348, R416); restart count out of range (R264). -/
abbrev Code.badRequest : Nat := 0x0102
/-- STALE_HANDLE: Old incarnation (R105, R106, R371); LOCK_REQUEST (R375). -/
abbrev Code.staleHandle : Nat := 0x0103
/-- NOT_BOUND: No binding (R105); unbound DBELL target (R342); NOTIFY entry (R346). -/
abbrev Code.notBound : Nat := 0x0104
/-- LEASE_EXPIRED: Lease not live (R105, R150). -/
abbrev Code.leaseExpired : Nat := 0x0105
/-- NO_ACCESS: Missing right (R105, R148); agent direction (R252); session class (R420). -/
abbrev Code.noAccess : Nat := 0x0106
/-- TAG_IN_USE: TAG and EPOCH already pending (R105). -/
abbrev Code.tagInUse : Nat := 0x0107
/-- BUSY: Queue or resource occupied (R107, R39, R224, R303, R314, R428, R446, R474). -/
abbrev Code.busy : Nat := 0x0108
/-- NOT_ADMITTED: Port not admitted (R117). -/
abbrev Code.notAdmitted : Nat := 0x0109
/-- NOT_MAPPED: Unmapped address or tag refusal (R106, R142); rebound resource (R52). -/
abbrev Code.notMapped : Nat := 0x010A
/-- READ_ONLY: Sealed, publish view or secondary pair (R106, R157, R237); RO entry (R415). -/
abbrev Code.readOnly : Nat := 0x010B
/-- NOT_COHERENT: Coherence request outside a coherent extent (R102). -/
abbrev Code.notCoherent : Nat := 0x010C
/-- NO_SUCH_OBJECT: Region, ring, composite, doorbell or pair absent (R106, R250, R351, R236, R440). -/
abbrev Code.noSuchObject : Nat := 0x010D
/-- OFFLINE: Domain off or context not bound (R104, R216, R443). -/
abbrev Code.offline : Nat := 0x010E
/-- NOT_OWNER: WRITEBACK or DIRTY_NOTIFY without ownership (R173). -/
abbrev Code.notOwner : Nat := 0x010F
/-- QUOTA_EXCEEDED: Composite reservation, excuse limit, block buffer, seal limit, sealed pool-operation staging (R346, R359, R428, R406, R290). -/
abbrev Code.quotaExceeded : Nat := 0x0110
/-- NOT_SEALED: Launch from an unsealed extent (R303). -/
abbrev Code.notSealed : Nat := 0x0111
/-- CONTEXT_UNBOUND: Launch context not bound (R303). -/
abbrev Code.contextUnbound : Nat := 0x0112
/-- BAD_COMMAND: Pool-operation command (R290). -/
abbrev Code.badCommand : Nat := 0x0113
/-- BAD_DESCRIPTOR: Mover descriptor (R252). -/
abbrev Code.badDescriptor : Nat := 0x0114
/-- DATA_ERROR: Uncorrectable line, native mode (R99, R212). -/
abbrev Code.dataError : Nat := 0x0201
/-- POISONED: Bad line in poison mode (R99, R212). -/
abbrev Code.poisoned : Nat := 0x0202
/-- PUBLISH_CONFLICT: BASE_VERSION out of date (R155). -/
abbrev Code.publishConflict : Nat := 0x0203
/-- WINDOW_CLOSED: Chunk outside the open window; aborted composite (R351, R352). -/
abbrev Code.windowClosed : Nat := 0x0204
/-- DUPLICATE_CONTRIBUTION: Segment already taken (R351, R352, R363). -/
abbrev Code.duplicateContribution : Nat := 0x0205
/-- CONTRIBUTOR_EXCUSED: Contributor excused (R359). -/
abbrev Code.contributorExcused : Nat := 0x0206
/-- NOT_PRESENT: Remote page absent (R103). -/
abbrev Code.notPresent : Nat := 0x0207
/-- ABORTED_BY_TAKE: Work ended by a take (R52, R263, R304, R360, R372, R407). -/
abbrev Code.abortedByTake : Nat := 0x0301
/-- ABORTED_BY_RESET: Work ended by a warm, tile or partition reset (R266, R314, R362, R444, R474, R294, R409). -/
abbrev Code.abortedByReset : Nat := 0x0302
/-- CLOSED_BY_HOST: Composite closed through COMP_CLOSE (R360). -/
abbrev Code.closedByHost : Nat := 0x0303
/-- COMPOSITE_STALLED: Stall notification (R358). -/
abbrev Code.compositeStalled : Nat := 0x0304
/-- RING_HALTED: Later task of a halting ring (R264). -/
abbrev Code.ringHalted : Nat := 0x0305
/-- PAGE_FAULT: Fault not resolved (R260, R261). -/
abbrev Code.pageFault : Nat := 0x0306
/-- REMOTE_ERROR: Remote response with a failing status (R254, R263). -/
abbrev Code.remoteError : Nat := 0x0307
/-- REMOTE_TIMEOUT: Remote request given up (R116, R260). -/
abbrev Code.remoteTimeout : Nat := 0x0308
/-- NO_SUCH_ENTRY: Unassigned index or subindex (R11). -/
abbrev Code.noSuchEntry : Nat := 0x0401
/-- RESERVED_NONZERO: Reserved bit or encoding (R10). -/
abbrev Code.reservedNonzero : Nat := 0x0402
/-- OUT_OF_RANGE: Value outside its stated range (R416). -/
abbrev Code.outOfRange : Nat := 0x0403
/-- AUTH_REQUIRED: Missing token or unsecured session (R40, R377, R380, R416). -/
abbrev Code.authRequired : Nat := 0x0404
/-- TAKE_INVALID: Commit validation (R40 and each chapter's added checks). -/
abbrev Code.takeInvalid : Nat := 0x0405
/-- TAKE_STALE_BASE: Base take no longer in force (R39, R40, R153). -/
abbrev Code.takeStaleBase : Nat := 0x0406
/-- TAKE_TOO_LATE: Target inside the minimum lead (R40). -/
abbrev Code.takeTooLate : Nat := 0x0407
/-- TAKE_TOO_EARLY: Target beyond 240,000 frames (R40). -/
abbrev Code.takeTooEarly : Nat := 0x0408
/-- TAKE_ARMED: Abort after the arm point (R41). -/
abbrev Code.takeArmed : Nat := 0x0409
/-- TAKE_FAILED: Tile did not acknowledge, or warm reset (R41, R43). -/
abbrev Code.takeFailed : Nat := 0x040A
/-- BLOCK_DIGEST: Block digest mismatch (R429). -/
abbrev Code.blockDigest : Nat := 0x040B
/-- FIRMWARE_REJECTED: Firmware image check (R431). -/
abbrev Code.firmwareRejected : Nat := 0x040C
/-- LOCK_MISMATCH: Configuration digest differs (R375). -/
abbrev Code.lockMismatch : Nat := 0x040D
/-- RETIRE_LIMIT: Second die retirement (R207). -/
abbrev Code.retireLimit : Nat := 0x040E
/-- ILLEGAL_INSTRUCTION: Reel fault (R319). -/
abbrev Code.illegalInstruction : Nat := 0x0601
/-- FETCH_OUT_OF_RANGE: Reel fault (R297). -/
abbrev Code.fetchOutOfRange : Nat := 0x0602
/-- FETCH_DATA_ERROR: Reel fault (R212). -/
abbrev Code.fetchDataError : Nat := 0x0603
/-- CODE_UNSEALED: Reel fault (R298). -/
abbrev Code.codeUnsealed : Nat := 0x0604
/-- STREAM_DATA_ERROR: Reel fault, native mode (R212). -/
abbrev Code.streamDataError : Nat := 0x0605
/-- POISON_CONSUMED: Reel fault, poison mode (R212). -/
abbrev Code.poisonConsumed : Nat := 0x0606
/-- STREAM_NOT_MAPPED: Reel fault (R325, R327). -/
abbrev Code.streamNotMapped : Nat := 0x0607
/-- STORE_REFUSED: Reel fault; DETAIL holds the refusing status (R327). -/
abbrev Code.storeRefused : Nat := 0x0608
/-- TILE_STORE_BOUNDS: Reel fault (R326, R350). -/
abbrev Code.tileStoreBounds : Nat := 0x0609
/-- BARRIER_BROKEN: Reel fault (R310). -/
abbrev Code.barrierBroken : Nat := 0x060A

end Sys2Proof.Machine
end

