-- ==== Sys2Proof/Machine/Sha.lean ====
section
/-!
DEFINITION. SHA-384 (FIPS 180-4), HMAC-SHA-384 and the KDF in counter mode of R388, written out from their
standards: the manual names them for digests, tokens, keys and measurements.
-/

namespace Sys2Proof.Machine

/-! ### Constants

The standard takes its constants from the fractional parts of roots of the first primes; they are computed here. -/

/-- The first eighty primes: no divisor from 2 to 20 but the number itself. -/
def firstPrimes : List Nat :=
  (List.range 410).filter (fun n => 2 ≤ n && (List.range 19).all (fun d => n ≤ d + 2 || n % (d + 2) ≠ 0))

/-- The greatest number whose `k`th power is at most `n`, found bit by bit from bit `b - 1` down, above `r`. -/
def rootFrom (k n : Nat) : Nat → Nat → Nat
  | 0, r => r
  | b + 1, r => rootFrom k n b (if (r + 2 ^ b) ^ k ≤ n then r + 2 ^ b else r)

/-- The first 64 bits of the fractional part of the `k`th root of `n`. -/
def rootBits (k n : Nat) : Word := BitVec.ofNat 64 (rootFrom k (n * 2 ^ (64 * k)) 70 0)

/-- Constants of the eighty rounds: cube roots of the first eighty primes. -/
def shaK : List Word := firstPrimes.map (rootBits 3)

/-- What SHA-384 starts from: square roots of the ninth to sixteenth primes. -/
def shaStart : List Word := ((firstPrimes.drop 8).take 8).map (rootBits 2)

/-! ### The hash -/

/-- XOR of a word turned right by each of `l`. -/
def turns (l : List Nat) (x : Word) : Word := l.foldl (fun y n => y ^^^ x.rotateRight n) 0

/-- Word `i` of the schedule, from the words before it. -/
def shaNext (w : List Word) (i : Nat) : Word :=
  let old := fun (n : Nat) => w.getD (i - n) 0
  old 16 + old 7 + (turns [1, 8] (old 15) ^^^ (old 15 >>> 7)) + (turns [19, 61] (old 2) ^^^ (old 2 >>> 6))

/-- The schedule of a 128-byte block: its sixteen words, then sixty-four more. -/
def shaSchedule (blk : List Byte) : List Word :=
  (List.range 64).foldl (fun w i => w ++ [shaNext w (i + 16)]) ((List.range 16).map (fun i => BitVec.ofNat 64 (beAt blk (8 * i) 8)))

/-- Round `i` on the eight working words `v` with the schedule `w`. -/
def shaRound (w : List Word) (v : List Word) (i : Nat) : List Word :=
  let x := fun (n : Nat) => v.getD n 0
  let pick := x 6 ^^^ (x 4 &&& (x 5 ^^^ x 6))
  let most := (x 0 &&& (x 1 ||| x 2)) ||| (x 1 &&& x 2)
  let u := x 7 + pick + turns [14, 18, 41] (x 4) + shaK.getD i 0 + w.getD i 0
  (u + most + turns [28, 34, 39] (x 0)) :: (v.take 7).set 3 (x 3 + u)

/-- The compression of one block into the hash `h`. -/
def shaBlock (h : List Word) (blk : List Byte) : List Word :=
  List.zipWith (· + ·) h ((List.range 80).foldl (shaRound (shaSchedule blk)) h)

/-- The message padded to whole blocks: a one bit, zeros, and its length in bits as 128 bits. -/
def shaPad (m : List Byte) : List Byte :=
  let whole := (m.length + 17 + 127) / 128 * 128
  padTo (whole - 16) (m ++ [0x80#8]) ++ toBE 16 (8 * m.length)

/-- SHA-384 of a byte string, 48 bytes. -/
def sha384 (m : List Byte) : List Byte :=
  let p := shaPad m
  let h := (List.range (p.length / 128)).foldl (fun h i => shaBlock h (slice p (128 * i) 128)) shaStart
  (h.take 6).flatMap (fun w => toBE 8 w.toNat)

/-- HMAC-SHA-384. -/
def hmac384 (key m : List Byte) : List Byte :=
  let k := padTo 128 (if key.length > 128 then sha384 key else key)
  sha384 (k.map (· ^^^ 0x5c#8) ++ sha384 (k.map (· ^^^ 0x36#8) ++ m))

/-- KDF(K, Label, Context, L) of R388, L in bits (a multiple of 8 here). -/
def kdf (key label ctx : List Byte) (bits : Nat) : List Byte :=
  ((List.range ((bits + 383) / 384)).flatMap (fun i =>
    hmac384 key (toBE 4 (i + 1) ++ label ++ 0#8 :: ctx ++ toBE 4 bits))).take (bits / 8)

/-- SHA-384 as the number an OCTET[48] entry holds, first byte most significant. -/
def sha384n (m : List Byte) : Nat := ofBE (sha384 m)

end Sys2Proof.Machine
end

