-- ==== Sys2Proof/Machine/State.lean ====
section
/-!
DEFINITION. The state of the PY-3640 as plain data. Each field's docstring names the chapter and rule that give it
the field; its default is its value at reset. The live values of dictionary entries are in `State.regs`, except those
that a field here says it holds.
-/

namespace Sys2Proof.Machine

/-- What the fuses of the part hold (R2, R18, R21, R387, R415): fixed for the life of the part, read by
FUSE_READ_COMPLETE. A device with no fused defects and every identity verified is the model's part (log entry 3). -/
structure Fuses where
  /-- 56-bit device serial number (22 R478); no value given: DESIGN CHOICE 0 (log 3). -/
  serial : Nat := 0
  /-- Device seed, 256 bits, the same in every tile's fuse bank (17 R387, 18 R396); DESIGN CHOICE zeros (log 3). -/
  seed : List Byte := List.replicate 32 0#8
  /-- notBefore of the device certificates: the date of manufacture (18 R397); DESIGN CHOICE empty (log 3). -/
  made : List Byte := []
  /-- The intermediates' signatures of the two device certificates (18 R397), 96 and 3,309 bytes; DESIGN CHOICE zeros (log 3). -/
  certSigs : List Byte × List Byte := (List.replicate 96 0#8, List.replicate 3309 0#8)
  /-- Slots whose fused signature fits the certificate that the part rebuilds, one bit each (18 R397); DESIGN CHOICE both (log 3). -/
  certsOk : Nat := 3
  /-- Not a fuse but as fixed: the straps SMB_ADDR1 and SMB_ADDR0 as a number; their pull-downs make it 0 where the board leaves them open (23 R484). -/
  straps : Nat := 0
  /-- Tiles fused defective, one bit per tile, at most two set (22 R478); DESIGN CHOICE 0 (log 3). -/
  defects : Nat := 0
  /-- Tiles whose identity fuses verify, one bit per tile (22 R478); DESIGN CHOICE all 36 (log 3). -/
  verified : Nat := 0xFFFFFFFFF
  /-- Speed bin (22 R478); DESIGN CHOICE 0 (log 3). -/
  speedBin : Nat := 0
  /-- Minimum firmware security version (22 R478, 19 R431); DESIGN CHOICE 0 (log 3). -/
  minSecVersion : Nat := 0
  /-- Revoked firmware signer keys, one bit per key index (22 R478, 19 R431); DESIGN CHOICE 0 (log 3). -/
  signerRevoked : Nat := 0
  /-- IEEE 1149.1 IDCODE (18 R412); DESIGN CHOICE 0 (log 3). -/
  idcode : Nat := 0
  /-- Inverted lanes of each of the 12 chiplets, 24 bits each (22 R478, 03 R59); DESIGN CHOICE none (log 3). -/
  polarity : List Nat := []
  /-- Fourteen energy coefficients in pJ, in the order of R447 (21 R447, R463): the table's values. -/
  energy : List Nat := [1500, 1700, 800, 12, 150, 400, 220, 140, 3, 32, 24, 6, 6, 4]
  /-- The remaining fuse option bytes measured in block 4 (22 R478, 18 R402); DESIGN CHOICE empty (log 3). -/
  options : List Byte := []
  /-- Fused starting taps of every stack's DQ lines (08 R202), by tile*4608 + element; DESIGN CHOICE none, read as 0 (log 3). -/
  dqSeeds : Tab Nat := []
deriving DecidableEq, Repr

/-- The frame logic of the package (ch. 02): the part of every tile's frame logic that is the same at all of them. -/
structure FrameLogic where
  /-- Nanoseconds since the slate of the current frame, as the last command that carries a time gave it (02 R28). -/
  now : Nat := 0
  /-- The slate guard is open (02 R31). -/
  inGuard : Bool := false
  /-- The slate tree is silent and tiles generate slates from their own counters (02 R29). -/
  treeSilent : Bool := false
  /-- FRAME_NUMBER_LOAD value written and not yet compared (02 R36); none at reset. -/
  loadPending : Option Nat := none
  /-- Consecutive Sync messages whose offset stayed below 1 us (02 R33). -/
  ptpGood : Nat := 0
  /-- PTP messages are arriving: the PTP time is a source of frame numbers (02 R33, R36). -/
  ptpTime : Bool := false
  /-- An edge has fallen in the window of the coming slate (02 R34). -/
  edgeSeen : Bool := false
  /-- An edge outside the window has been counted since the last slate (02 R34). -/
  edgeOut : Bool := false
  /-- Consecutive slates with no SLATE_IN edge in the window (02 R34). -/
  missed : Nat := 0
  /-- Consecutive edges spaced 250 us within the window while the source is lost (02 R34). -/
  regained : Nat := 0
  /-- Phase error in ns still to be slewed away, at most 0.5 us each frame boundary (02 R28, R35). -/
  slew : Int := 0
  /-- The phase of the source selected has yet to be aligned (02 R35). -/
  aligning : Bool := false
  /-- A stretched frame is in progress and ends on the source's slate, this many ns after a nominal one would (02 R35). -/
  stretching : Option Nat := none
  /-- Level of the SLATE_OUT pin (02 R37); low at reset, DESIGN CHOICE (log 4). -/
  slateOut : Bool := false
  /-- The slate just begun came early or late by this many frame-clock ticks of the nominal 78,125 (02 R28). -/
  lastFrameTicks : Nat := 78125
deriving DecidableEq, Repr

/-- Staging and pending takes beyond what the take entries of the dictionary show (02 R38 to R45). -/
structure TakeCtl where
  /-- Session that opened the staging (02 R38, R39). -/
  session : Option Nat := none
  /-- Base take given at TAKE_STAGE_OPEN (02 R39). -/
  base : Nat := 0
  /-- Target frame of the pending or armed take, as accepted at commit (02 R40, R42). -/
  target : Nat := 0
  /-- The elements written in the staging that is open or frozen, by element key; every other shadow element
  equals its live half (02 R38, 06 R153). -/
  staged : Tab Nat := []
  /-- A part-made change met an element written in this staging: the entry it names, index*256 + subindex (06 R153). -/
  stale : Option Nat := none
  /-- The pending or armed take is the part's own slot-map take: (slot, target tile) (02 R44). -/
  cont : Option (Nat × Nat) := none
  /-- Kind 1 tokens written in this staging, by partition (17 R378). -/
  tokens : Tab (List Byte) := []
  /-- The dictionary's live half changed without a take, so TAKE_DIGEST is recomputed at the next slate (06 R153). -/
  digestDue : Bool := false
  /-- The live elements as TAKE_DIGEST was last computed over them (02 R45); none is take 0, every element at its default. -/
  digested : Tab Nat := []
deriving DecidableEq, Repr


/-- A transport message the part has formed and not yet put into cells (04 R92, R94). -/
structure Msg where
  /-- Virtual channel of the message's stream, 0 to 3 (04 R96). -/
  vc : Nat
  /-- OPCODE (04 R94). -/
  op : Nat
  /-- FLAGS (04 R94). -/
  flags : Nat
  /-- SRC_EID (04 R94). -/
  src : Nat
  /-- DST_EID (04 R94). -/
  dst : Nat
  /-- HANDLE (04 R94). -/
  handle : Nat
  /-- TAG (04 R94). -/
  tag : Nat
  /-- EPOCH (04 R94). -/
  epoch : Nat
  /-- STATUS (04 R94). -/
  status : Nat
  /-- The bytes from offset 16 on, before padding (04 R97 to R104). -/
  body : List Byte
deriving DecidableEq, Repr

/-- A request that a port engine has accepted (04 R105), kept until its response is formed. -/
structure Req where
  /-- Number the port engine gave the request, rising in order of arrival. -/
  id : Nat
  /-- Port it arrived on. -/
  port : Nat
  /-- Link session of the port it was accepted in (04 R113). -/
  link : Nat
  /-- Binding number it was accepted under; 4096 where the request carries no binding (04 R105). -/
  bind : Nat
  /-- OPCODE (04 R96). -/
  op : Nat
  /-- The header's other fields (04 R94). -/
  h : Hdr
  /-- The bytes from offset 16 on (04 R97 to R104). -/
  body : List Byte
  /-- Lines, by physical address / 128, whose one retry has been made (09 R209). -/
  retried : List Nat
deriving DecidableEq, Repr

/-- What a request that waits inside the part waits for. -/
inductive Wait where
  /-- Its turn behind earlier requests of the binding: FENCE or the FENCE flag (04 R111). -/
  | fence
  /-- Port share, in the inbound queue of its partition (04 R107). -/
  | share
  /-- Its home: it has been injected and not yet reached the home tile (02 R47). -/
  | home
  /-- The key of device extent `dxn` is being drawn (17 R382). -/
  | key (dxn : Nat)
  /-- Device extent `dxn` is being crypto-erased for its new owner (02 R52, 06 R144). -/
  | erase (dxn : Nat)
  /-- The stack of tile `t` is halted above 105 C and holds its requests (08 R196). -/
  | halted (t : Nat)
  /-- The acknowledgements of recalls of coherent line `ln` (07 R163). -/
  | recalling (ln : Nat)
  /-- Its turn at the directory entry or pending record of line `ln` (07 R170, R172). -/
  | line (ln : Nat)
  /-- The eviction buffer entry of line `ln`, or a free slot of its slice (07 R169). -/
  | evict (ln : Nat)
  /-- The one retry of uncorrectable line `ln` (09 R209). -/
  | retry (ln : Nat)
  /-- The answer of the peer to the pair write of pair `n`; then the response goes out with this status and body (10 R236). -/
  | pair (n st : Nat) (body : List (BitVec 8))
  /-- The answer to an earlier pair write of pair `n` to the same line or granule (04 R103, 10 R239). -/
  | pairTurn (n : Nat)
  /-- A retry of a class C request whose first response is not yet formed (04 R114). -/
  | firstResp
  /-- The flip of publish region `r` of partition `p` in progress, or the slate for a deferred start (06 R156). -/
  | region (p r : Nat)
  /-- The pool operation at its coordinator (12 R288). -/
  | poolOp
  /-- Every mover's drain after an invalidation (11 R258). -/
  | invalDrain
  /-- A tile store or context that is moving with its slot, or a rebound resource being scrubbed (10 R229, 02 R52). -/
  | slotMove (slot : Nat)
  /-- Acceptance by the compositor's window or a result not yet stored (15 R352). -/
  | composite (n : Nat)
  /-- The next slate: the partition's governed energy at slot `slot` has reached its allowance (21 R456). -/
  | allowance (slot : Nat)
  /-- The management core: a doorbell's command is outstanding (20 R446). -/
  | mgmt
deriving DecidableEq, Repr

/-- What a request that the part originated is for (04 R110, R116). -/
inductive Purpose where
  /-- FWD_SHARED or FWD_OWN number `k` of line `ln` to holder `b` (07 R170). -/
  | fwd (ln k b : Nat)
  /-- BACK_INVAL of line `ln` to holder `b` (07 R172). -/
  | backInval (ln b : Nat)
  /-- FWD_SHARED or FWD_OWN to holder `b` for request `id` at port `port`, of a line whose extent has since been rebound
  (02 R52). -/
  | oldFwd (b port id : Nat)
  /-- BACK_INVAL to holder `b` of a line whose extent has been rebound (02 R52). -/
  | oldInval (b : Nat)
  /-- NOTIFY (04 R103). -/
  | notify
  /-- TRANSLATE_REQ of task `id` (11 R254). -/
  | translate (id : Nat)
  /-- PAGE_REQ of fault entry `id` (11 R260). -/
  | page (id : Nat)
  /-- MOVE_WRITE burst at byte `pos` of task `id`, `n` bytes (11 R255). -/
  | moveWrite (id pos n : Nat)
  /-- MOVE_READ burst at byte `pos` of task `id`, `n` bytes (11 R255). -/
  | moveRead (id pos n : Nat)
  /-- PAIR_WRITE of pair `n` for request `id` at port `port` (10 R236). -/
  | pairWrite (n port id : Nat)
  /-- PAIR_WRITE of granule `g` of the resync of pair `n` from tile `tile` (10 R239). -/
  | pairResync (n tile g : Nat)
  /-- DOORBELL of context `ctx` of slot `slot` of partition `p` to index `idx`; 16 for the mover (13 R312, 14 R342). -/
  | doorbell (p slot ctx idx : Nat)
  /-- MGMT request of Fligifer session `sess` (04 R104). -/
  | mgmt (sess : Nat)
  /-- SPDM request of the port's own session (18 R401). -/
  | spdm
deriving DecidableEq, Repr

/-- A request that the part has sent and whose response it awaits (04 R110). -/
structure PartReq where
  /-- Port it was sent on. -/
  port : Nat
  /-- The message as first sent. -/
  msg : Msg
  /-- Resends made so far (04 R116). -/
  resends : Nat
  /-- What it is for. -/
  purpose : Purpose
  /-- It has been given up (04 R116). -/
  gone : Bool := false
deriving DecidableEq, Repr

/-- A completion kept for retries of class C requests (04 R115). -/
structure CacheEnt where
  /-- Binding of the request. -/
  bind : Nat
  /-- TAG of the request. -/
  tag : Nat
  /-- EPOCH of the request. -/
  epoch : Nat
  /-- The response as sent. -/
  resp : Msg
  /-- Frame in which it entered the cache. -/
  frame : Nat
  /-- Number of the request (04 R115). -/
  no : Nat := 0
deriving DecidableEq, Repr

/-- The port engine of one port (ch. 04). -/
structure Port where
  /-- Requests accepted whose response is not yet formed, oldest first (04 R113). -/
  pending : List Req := []
  /-- Number given to the next request accepted. -/
  nextId : Nat := 0
  /-- Cells of each partition's requests served this frame, by partition (02 R48, R51). -/
  usedIn : Tab Nat := []
  /-- Cells of each partition's messages sent this frame, by partition (02 R48, R51). -/
  usedOut : Tab Nat := []
  /-- Completion cache, oldest first (04 R115). -/
  cache : List CacheEnt := []
  /-- Messages formed and not yet put into cells, oldest first (04 R92). -/
  out : List Msg := []
  /-- Requests of the part awaiting a response (04 R110). -/
  outReq : List PartReq := []
  /-- Next tag and epoch for each destination endpoint, epoch*65536 + tag (04 R109, R110). -/
  tagCtr : Tab Nat := []
  /-- Bytes of the message being assembled on each virtual channel (04 R92). -/
  rxPart : Tab (List Byte) := []
  /-- Bytes of messages already serialised for transmission and not yet carried, by virtual channel (04 R92). -/
  txBytes : Tab (List Byte) := []
  /-- SPDM and MGMT messages handed to the root of trust and the management core, oldest first (04 R104). -/
  handed : List (List Byte) := []
  /-- Link sessions this port has ended, which numbers the present one (04 R113). -/
  linkNo : Nat := 0
  /-- Numbers of the most recent class C requests of each binding, at most RETRY_CACHE_DEPTH, newest last (04 R115). -/
  recent : Tab (List Nat) := []
  /-- Trained configuration that the frame's capacity follows, as of the last slate; none before the first (02 R49, 03 R88). -/
  capCfg : Option Nat := none
  /-- Inbound cells by which replays and pauses have reduced the frame's capacity (02 R49, 03 R88). -/
  lostIn : Nat := 0
  /-- Outbound cells by which replays and pauses have reduced the frame's capacity. -/
  lostOut : Nat := 0
  /-- Inbound cells of the frame that the system reserve has carried (02 R49). -/
  resIn : Nat := 0
  /-- Outbound cells of the frame that the system reserve has carried. -/
  resOut : Nat := 0
deriving DecidableEq, Repr

/-- A block's record of an open multi-packet message (05 R132, R133). -/
structure MeshRec where
  /-- Receiving block. -/
  block : MeshBlock
  /-- MSG_ID: source tile * 4096 + number. -/
  id : Nat
  /-- Partition. -/
  part : Nat
  /-- TOTAL. -/
  total : Nat
  /-- COUNT accumulated. -/
  got : Nat
  /-- Content placed so far, by OFFSET. -/
  content : Tab (List Byte)
  /-- Places of the content, OFFSET and byte within it, of data flits that the mesh marked uncorrectable (05 R122). -/
  bad : List (Nat × Nat)
deriving DecidableEq, Repr

/-- A message that is complete, as handed to its block (05 R132). -/
structure MeshMsg where
  /-- MSG_ID. -/
  id : Nat
  /-- Partition. -/
  part : Nat
  /-- Its content, in order of OFFSET. -/
  content : List Byte
  /-- Places of the content that the mesh marked uncorrectable. -/
  bad : List (Nat × Nat)
  /-- Mesh cycle of the frame at which its last packet came. -/
  cycle : Nat
deriving DecidableEq, Repr

/-- A packet, or one branch of a multicast packet, in a router (05 R125, R126, R129). -/
structure Flight where
  /-- The packet. -/
  pkt : MeshPkt
  /-- Tile of the router. -/
  at_ : Nat
  /-- The input at which it stands. -/
  inp : MeshDir
  /-- The virtual channel in whose buffer it stands. -/
  vc : MeshVC
  /-- Direction in which it leaves. -/
  out : MeshDir
  /-- Tiles still ahead on its ring. -/
  left : List Nat
  /-- It is in its first dimension: a turn, or a multicast's column stage, may follow. -/
  first : Bool
  /-- Mesh cycle of the frame at which its header came here. -/
  cycle : Nat
  /-- Flits of it that travel in phases owned by a sealed partition other than its own (05 R127). -/
  idle : Nat
deriving DecidableEq, Repr

/-- One tile's router and the message records of its blocks (ch. 05). -/
structure MeshTile where
  /-- The tile injects open traffic at the reduced rate (05 R131). -/
  throttled : Bool := false
  /-- It was throttled at some time in this frame (05 R134). -/
  throttledFrame : Bool := false
  /-- Open flits in the request-plane injection queue (05 R131). -/
  injReq : Nat := 0
  /-- Open flits in the response-plane injection queue (05 R131). -/
  injRsp : Nat := 0
  /-- Sealed flits in the two injection queues, request plane first (05 R131). -/
  injSealed : Nat × Nat := (0, 0)
  /-- Mesh cycle of the frame from which the reduced rate is reckoned (05 R131). -/
  since : Nat := 0
  /-- Open flits injected at the reduced rate since then (05 R131). -/
  slow : Nat := 0
  /-- Flits of other traffic in its buffers (05 R123). -/
  bufs : List (MeshBuf × Nat) := []
  /-- Open message records (05 R132, R133). -/
  records : List MeshRec := []
  /-- The message that each block was handed last (05 R132). -/
  handed : List (MeshBlock × MeshMsg) := []
deriving DecidableEq, Repr


/-- A cell as the link layer forms it (03 R66 to R70). -/
structure Cell where
  /-- The 64-bit header. -/
  hdr : Nat
  /-- Payload, of at most 232 bytes, before the link cipher. -/
  payload : List Byte
  /-- The 64-bit count of its IV: bit 63 set in a link-control cell. -/
  count : Nat
  /-- Key phase it is enciphered under; 0 is the bootstrap key. -/
  phase : Nat
deriving DecidableEq, Repr

/-- A splice asked for or in progress (03 R85). -/
structure Splice where
  /-- SPLICE_NO. -/
  no : Nat
  /-- 0 width, 1 recalibrate, 2 speed, 3 degrade, 4 fast splice after loss of lock or warm reset, 5 full link-up. -/
  kind : Nat
  /-- Width code asked for or agreed. -/
  width : Nat
  /-- Speed code asked for or agreed. -/
  speed : Nat
  /-- Physical lanes asked for or agreed. -/
  mask : Nat
  /-- This end asked for it. -/
  mine : Bool
  /-- This end withdrew a request of its own and follows (03 R87). -/
  followed : Bool
  /-- SPLICE_ACK has been sent or received. -/
  agreed : Bool
  /-- SPLICE_REQ resends made (03 R88). -/
  resends : Nat
  /-- LAST_SEQ of the far end's SPLICE_PAUSE. -/
  farLast : Option Nat
  /-- Port state it returns to: 2 BOOTSTRAP or 3 SECURE. -/
  back : Nat
deriving DecidableEq, Repr

/-- The link and lane layers of one port (ch. 03). -/
structure Link where
  /-- Sequenced cells first transmitted in the session: the next one's count (R70). -/
  sent : Nat := 0
  /-- Count up to which sequenced cells are acknowledged; those from here to `sent` are outstanding (R75). -/
  acked : Nat := 0
  /-- Replay buffer: the outstanding cells, oldest first (R75, R78). -/
  buffer : List Cell := []
  /-- The transmitter is REPLAYING (R75). -/
  replaying : Bool := false
  /-- Count of the next cell to resend. -/
  resend : Nat := 0
  /-- Times the oldest outstanding cell has been resent without ACK progress (R78). -/
  oldestResends : Nat := 0
  /-- Link-control cells transmitted in the session (R70). -/
  ctlSent : Nat := 0
  /-- Cells sent on each virtual channel, S of R80. -/
  txS : List Nat := [0, 0, 0, 0]
  /-- Limit held for each virtual channel, L of R80. -/
  txL : List Nat := [0, 0, 0, 0]
  /-- Credit mode in force: 1 cumulative, 0 incremental (R82). -/
  mode : Nat := 1
  /-- Mode that this end's last CREDIT_SYNC carried (R82). -/
  sentMode : Nat := 1
  /-- Mode that the far end's CREDIT_SYNC carried since the last splice or link-up began (R82). -/
  farMode : Option Nat := none
  /-- Windows in force: RX_WINDOWS as of the last splice or link-up (R82, R90). -/
  win : List Nat := [1024, 1024, 512, 1536]
  /-- Transmit key phase; 0 is the bootstrap key (R72, R386). -/
  txPhase : Nat := 0
  /-- Cells sent under the current transmit key (R72, R73). -/
  txCells : Nat := 0
  /-- Count of the first sequenced cell of the transmit phase (R72). -/
  phaseStart : Nat := 0
  /-- No sequenced cell of the transmit phase has been sent yet (R72). -/
  flipDue : Bool := false
  /-- The link session's keys are there, and the flip to them waits for an acknowledgement of the old phase (R71, R72). -/
  flipWait : Bool := false
  /-- Full-width E, the count of the sequenced cell expected next (R76). -/
  expect : Nat := 0
  /-- The receiver is in GAP (R76). -/
  gap : Bool := false
  /-- The replay-request holdoff runs (R77). -/
  holdoff : Bool := false
  /-- Last CCOUNT accepted (R70). -/
  lastCcount : Option Nat := none
  /-- Receive key phase (R72). -/
  rxPhase : Nat := 0
  /-- Tag failures of the session (R74). -/
  tagFails : Nat := 0
  /-- Cells of reserved CTYPE in the session (R68). -/
  reserved : Nat := 0
  /-- Limit granted on each virtual channel (R80). -/
  rxL : List Nat := [0, 0, 0, 0]
  /-- Cells of each virtual channel whose buffers have been released (R79). -/
  rxDone : List Nat := [0, 0, 0, 0]
  /-- Cells of each channel that came while the port's tile was throttled and whose buffers are not released yet (05 R131). -/
  rxHeld : List Nat := [0, 0, 0, 0]
  /-- Credits released on each channel and not yet carried (R81). -/
  rxOwed : List Nat := [0, 0, 0, 0]
  /-- Channel whose credit was carried last (R79). -/
  cvc : Nat := 3
  /-- Limits as last carried on each channel: a channel whose limit differs has changed (R79). -/
  carried : List Nat := [0, 0, 0, 0]
  /-- Channels whose refresh timers have expired (R79). -/
  refresh : List Nat := []
  /-- Consecutive blocks with uncorrectable codewords (R64). -/
  uncorrRun : Nat := 0
  /-- Consecutive cells that failed their CRC (R64). -/
  crcRun : Nat := 0
  /-- Corrected symbols of each physical lane this frame (R65). -/
  laneErr : List Nat := [0, 0, 0, 0, 0, 0, 0, 0]
  /-- Consecutive frames in which each lane passed LANE_ERR_LIMIT (R65). -/
  laneOver : List Nat := [0, 0, 0, 0, 0, 0, 0, 0]
  /-- Lanes marked bad, one bit each (R65). -/
  bad : Nat := 0
  /-- Uncorrectable codewords of this frame (R65). -/
  uncorr : Nat := 0
  /-- Uncorrectable codewords of the last frame (R65). -/
  uncorrLast : Nat := 0
  /-- Splice asked for or in progress (R85). -/
  splice : Option Splice := none
  /-- Last splice number used (R85). -/
  spliceNo : Nat := 0
  /-- Training state, 1 TS1 to 4 TS4 (R85). -/
  ts : Nat := 1
  /-- Far end's configuration as its training words carry it: CONFIG*256 + LANE_MASK (R86). -/
  farCfg : Nat := 0
  /-- The far end asked for precoding on the lanes it receives: this transmitter applies it (R62, R86). -/
  farPrecode : Bool := false
  /-- This receiver asks for precoding on its incoming lanes (R62, R86). -/
  askPrecode : Bool := false
  /-- The far end's physical lane number found on each incoming lane, in ascending order of this end's lanes (R59). -/
  laneOrder : List Nat := []
  /-- The training words that this end sends, on its lanes in ascending order: one to a lane, or the sixteen of TS4 (R85, R86). -/
  train : List Nat := []
  /-- Cells of `wire` that were sent before superblock 0 of the present training began (R63). -/
  start : Nat := 0
  /-- FEC blocks received since superblock 0 (R63, R64). -/
  rxBlocks : Nat := 0
  /-- Cells received since superblock 0 (R63, R64). -/
  rxCells : Nat := 0
  /-- Uncorrectable blocks that still reach a cell to come, by number (R64). -/
  badBlocks : List Nat := []
  /-- A splice of this end's own that waits to be asked for: (kind, width, speed, mask) (R65, R78, R87). -/
  due : Option (Nat × Nat × Nat × Nat) := none
  /-- Frame in which the port became FAILED, or last tried a link-up from there (R83). -/
  failedAt : Option Nat := none
  /-- This end lost its link session and sets FRESH in its training words (R89). -/
  fresh : Bool := false
  /-- LOCK_HOLD runs (R77, R89). -/
  lockHold : Bool := false
  /-- Full link-ups failed in a row (R83). -/
  upFails : Nat := 0
  /-- Export master secret of the link's SPDM session (17 R386); empty when there is none. -/
  ems : List Byte := []
  /-- Cells this end has sent, oldest first. -/
  wire : List Cell := []
deriving DecidableEq, Repr

/-- An 80-bit directory entry, unpacked (07 R167). -/
structure DirEnt where
  /-- 1 SHARED, 2 EXCLUSIVE, 3 MODIFIED. -/
  st : Nat
  /-- HOLDERS is in coarse form. -/
  coarse : Bool
  /-- A designated sharer exists. -/
  dsgValid : Bool
  /-- Pointer index of the designated sharer (pointer form). -/
  dsg : Nat
  /-- Holders in pointer form, P0 first; in coarse form the designated sharer alone, if there is one. -/
  ptrs : List Nat
  /-- Coarse form: one bit per port. -/
  ports : Nat
  /-- When the entry was last used, in directory lookups (07 R169). -/
  stamp : Nat
deriving DecidableEq, Repr

/-- A forward listed in a line's pending record (07 R170, R171). -/
structure Fwd where
  /-- Number of the forward within the record. -/
  k : Nat
  /-- Holder it was sent to. -/
  holder : Nat
  /-- The request it answers. -/
  req : Req
  /-- FWD_OWN rather than FWD_SHARED. -/
  own : Bool
  /-- GRANT: the state the requester receives. -/
  grant : Nat
  /-- The acknowledgement, held until every earlier one is applied: (OUTCOME, KEPT, line if HAS_DATA). -/
  ack : Option (Nat × Nat × Option (List Byte))
deriving DecidableEq, Repr

/-- What a line's pending record is collecting BACK_INVAL_ACKs for (07 R163, R172). -/
inductive Collect where
  /-- Nothing is being collected. -/
  | none
  /-- RD_OWN or UPGRADE of `req`: first earlier forwards, then BACK_INVALs, then the forward or grant (R172). -/
  | own (req : Req)
  /-- An uncached access recalls the line (R163). -/
  | recalling
deriving DecidableEq, Repr

/-- A line's pending record (07 R170). -/
structure Pend where
  /-- Forwards in the order sent. -/
  fwds : List Fwd := []
  /-- Number of the next forward. -/
  nextK : Nat := 0
  /-- The collection of back-invalidations in progress. -/
  collect : Collect := .none
  /-- Number kept for the collecting request in the line's order: forwards below it come first (R172). -/
  at_ : Nat := 0
  /-- The BACK_INVALs of the collection have been sent. -/
  sent : Bool := false
  /-- Holders whose BACK_INVAL_ACK is owed. -/
  owed : List Nat := []
  /-- Requester of the latest pending ownership transfer (R170). -/
  transfer : Option Nat := none
  /-- Requests that wait with their place in the line's order, served from the entry recorded then: (number, request) (R170). -/
  bars : List (Nat × Req) := []
  /-- An uncached access has its place behind all that the record lists: the recall begins then (R163). -/
  due : Bool := false
  /-- Owner whose WRITEBACK is awaited after OUTCOME 1, with the requests served after it and the frame it began (R176). -/
  awaited : Option (Nat × Nat) := none
  /-- Requests to be served from memory once the awaited WRITEBACK arrives or is given up (R176): request and grant. -/
  after : List (Req × Nat) := []
deriving DecidableEq, Repr

/-- An eviction buffer entry (07 R169). -/
structure Evict where
  /-- The entry as it was in the slice. -/
  ent : DirEnt
  /-- Holders whose BACK_INVAL_ACK is owed. -/
  owed : List Nat
deriving DecidableEq, Repr

/-- A publish flip in progress (06 R156). -/
structure Flip where
  /-- Partition of the region. -/
  part : Nat
  /-- Region. -/
  region : Nat
  /-- The request being carried out. -/
  req : Req
deriving DecidableEq, Repr

/-- One burst of the stack's queues (08 R191); its data effect is already in memory (log entry 12). -/
structure Burst where
  /-- Line, by local address / 128. -/
  line : Nat
  /-- Handle it is made for; 0 for the system (06 R142). -/
  handle : Nat
  /-- A write rather than a read. -/
  wr : Bool
deriving DecidableEq, Repr

/-- One bank's open row and hammer table (08 R191, R197). -/
structure Bank where
  /-- Open row. -/
  row : Option Nat := none
  /-- Hits served in a row since the activation. -/
  hits : Nat := 0
  /-- Aggressor table: (row, estimated count), at most 384. -/
  table : List (Nat × Nat) := []
  /-- Spill counter. -/
  spill : Nat := 0
  /-- Per-bank refreshes done in the pass in progress, of 2,752 (08 R195). -/
  pass : Nat := 0
  /-- Per-bank refreshes issued since the stack was last filled (08 R195). -/
  issued : Nat := 0
  /-- Rows whose targeted refresh is due (08 R197). -/
  targets : List Nat := []
deriving DecidableEq, Repr

/-- One tile's stack controller and integrity unit (ch. 08, 09). -/
structure Stack where
  /-- Bursts queued, oldest first (08 R191). -/
  queue : List Burst := []
  /-- Banks by pseudo-channel*48 + bank. -/
  banks : Tab Bank := []
  /-- Bank last picked by each pseudo-channel (08 R191). -/
  lastBank : Tab Nat := []
  /-- Pseudo-channels in power-down (08 R199). -/
  down : List Nat := []
  /-- Burst budget spent this frame, by partition*32 + pseudo-channel (08 R191). -/
  burstUsed : Tab Nat := []
  /-- Activation budget spent this frame, by partition*32 + pseudo-channel (08 R191, R193). -/
  actUsed : Tab Nat := []
  /-- Burst and activation budgets in force, by partition: (bursts, activations) per pseudo-channel (02 R48, 08 R187). -/
  budget : Tab (Nat × Nat) := []
  /-- Hammer events of each partition this frame (08 R198). -/
  hammered : Tab Nat := []
  /-- Open write queues that are draining to WQ_LOW, by pseudo-channel (08 R191). -/
  draining : List Nat := []
  /-- Halves of per-bank refresh intervals that have fallen due since the stack was filled, up to the last slate, by bank
  group (08 R195). -/
  refDue : List Nat := [0, 0, 0, 0, 0, 0, 0, 0, 0, 0, 0, 0]
  /-- Hammer throttles in force: partition -> frame number of the slate that ends it (08 R198). -/
  throttleEnd : Tab Nat := []
  /-- Retraining asked for and not yet started: (pseudo-channel, frame of the request) (08 R201). -/
  retrainAsk : Option (Nat × Nat) := none
  /-- Last retraining started: (pseudo-channel, frame) (08 R201). -/
  retrained : Option (Nat × Nat) := none
  /-- Retraining in progress: pseudo-channel whose requests are held (08 R201). -/
  retraining : Option Nat := none
  /-- Successive failed retrainings of each pseudo-channel (10 R234). -/
  retrainFails : Tab Nat := []
  /-- Pseudo-channels whose training is complete (08 R200). -/
  trained : List Nat := []
  /-- Verifications of each pseudo-channel that failed (08 R200). -/
  verifyFails : Tab Nat := []
  /-- Training delays of the command and address lines, by pseudo-channel (08 R200). -/
  caDelay : Tab Nat := []
  /-- The stack is lost (10 R234). -/
  lost : Bool := false
  /-- Reads that decoded as uncorrectable after retry this frame (10 R234). -/
  badReads : Nat := 0
  /-- Lines whose signature write waits, unless a write overtakes it (09 R209, R210). -/
  signWait : List Nat := []
  /-- Scrub corrections that wait in the write queue, unless a write overtakes them: the line and its correction (09 R210). -/
  fixWait : Tab (List (Nat × Nat)) := []
  /-- DIE_RETIRE accepted and not yet in force (09 R207). -/
  retireWait : Option Nat := none
  /-- Corrections attributed to a die in the last 4,000 frames: (frame, die, row key) (09 R218). -/
  corrections : List (Nat × Nat × Nat) := []
  /-- Consecutive one-second checks with the die's alert set, by die (09 R218). -/
  alertRun : Tab Nat := []
  /-- Integrity events, oldest first, at most 64 (09 R219). -/
  errLog : List Nat := []
  /-- Hammer events, oldest first, at most 64 (08 R203). -/
  hammerLog : List Nat := []
  /-- Frame index of the scrub pass (09 R215). -/
  scrubFrame : Nat := 0
  /-- Scrub lines left of this frame's quota (02 R48, 09 R215). -/
  scrubLeft : Nat := 0
  /-- Frame since which the stack's temperature has stayed 3 degrees below the threshold of its period (08 R195). -/
  coolSince : Option Nat := none
  /-- Frame of the last one-second check of the die alerts (09 R218). -/
  alertChecked : Option Nat := none
  /-- Protective throttling is in force (08 R196). -/
  protective : Bool := false
  /-- The stack is halted above 105 C (08 R196). -/
  halted : Bool := false
  /-- Protective throttling halved the remaining budgets this frame (08 R196). -/
  halved : Bool := false
deriving DecidableEq, Repr

/-- The latched operation of the check-bit test registers (09 R216). -/
structure TestOp where
  /-- OP, ERASE_VALID and ERASE_DIE as latched. -/
  ctrl : Nat
  /-- TEST_ADDR as latched. -/
  addr : Nat
  /-- TEST_DATA as latched. -/
  data : Nat
  /-- TEST_CHECK as latched. -/
  check : Nat
deriving DecidableEq, Repr

/-- A relocation or rebuild in progress (10 R226). -/
structure Reloc where
  /-- Slot that moves. -/
  slot : Nat
  /-- Tile it leaves. -/
  source : Nat
  /-- Tile it moves to. -/
  target : Nat
  /-- 0 fabric manager's relocate, 1 self-test, 2 return, 3 firmware trigger of degradation, 4 rebuild of a lost stack. -/
  kind : Nat
  /-- RETURN of an OP 1 write (10 R231). -/
  ret : Bool
  /-- Step of R226 in progress: 1 preparing, 4 copying, 5 chunks, 6 waiting for the take, 8 draining, 9 testing. -/
  step : Nat
  /-- The source stack was lost while it was copied: the copy has become a rebuild (10 R230). -/
  conv : Bool := false
  /-- Lines of the source, by physical address / 128, written at the target since then (10 R230). -/
  excess : List Nat := []
  /-- Copy cursor: the granules of the source, by local address / 4096, below it are copied (10 R227). -/
  cursor : Nat := 0
  /-- Frame of the swap slate (10 R226, 01 R27). -/
  swapped : Nat := 0
deriving DecidableEq, Repr

/-- The continuity subsystem (ch. 10). -/
structure Continuity where
  /-- The relocation in progress. -/
  reloc : Option Reloc := none
  /-- Return tile of each slot (10 R224). -/
  returnTile : Tab Nat := []
  /-- Firmware triggers waiting to start: (slot, kind as in Reloc) (10 R224). -/
  triggers : List (Nat × Nat) := []
  /-- The tile that holds each in-service tile's duplicate of its key table, extent-map state, fresh map and, where it has it, the
  lease table (01 R19, R20). -/
  dups : Tab Nat := []
  /-- The same as rebuilt for the layout of the relocation in progress (01 R19, 10 R226). -/
  dupsNext : Tab Nat := []
  /-- Dirty bitmaps of 256 bits, by pair*64 + tile (10 R238). -/
  dirty : Tab Nat := []
  /-- Resync of a tile's dirty region in progress, by pair*64 + tile: (region, granules sent of 8) (10 R239). -/
  resync : Tab (Nat × Nat) := []
  /-- Lines of a pair, (pair, line of the extent), written by the part's own agents while a pair write of the line was
  outstanding, to be sent again (04 R103). -/
  pairAgain : List (Nat × Nat) := []
  /-- Slot whose tile store is moving in this swap frame (10 R229). -/
  moving : Option Nat := none
deriving DecidableEq, Repr

/-- Leases and bindings beyond what the dictionary shows (06 R149 to R152). -/
structure LeaseCtl where
  /-- Frame of the last heartbeat recorded, or of the binding's creation, by binding. -/
  lastBeat : Tab Nat := []
  /-- Endings being reclaimed: (binding, its descriptor, cause as in R183) (06 R152). -/
  reclaiming : List (Nat × Nat × Nat) := []
  /-- Ports out of SECURE: port -> frame at which each left it (07 R178). -/
  portOut : Tab Nat := []
  /-- Holders whose port is out of SECURE: binding -> frame at which the grace time ends (07 R178). -/
  grace : Tab Nat := []
  /-- Holders with a forward or BACK_INVAL given up: binding -> frame at which the grace time ends (07 R178). -/
  silent : Tab Nat := []
deriving DecidableEq, Repr

/-- A seal in progress (18 R406, R407). -/
structure Seal where
  /-- Extent index. -/
  idx : Nat
  /-- The slate from which the extent is sealing has come (R407 step 1). -/
  started : Bool
  /-- The seal digest, once computed (R407 step 4). -/
  digest : Option Nat
  /-- The status with which the seal has failed; the extent stops being sealing at the next slate (R407, R409). -/
  failed : Option Nat
deriving DecidableEq, Repr

/-- A partition's lock and incarnation beyond what the dictionary shows (17 R369 to R380). -/
structure PartCtl where
  /-- Frame of the incarnation's last advance (17 R372). -/
  lastAdvance : Option Nat := none
  /-- Partition key while a lock is pending or in force (17 R376). -/
  key : Option (List Byte) := none
  /-- A kind 2 token has been accepted: the lock ends at the next slate (17 R380). -/
  unlocking : Bool := false
  /-- The seal in progress (18 R406). -/
  sealJob : Option Seal := none
  /-- Sealed extents, by extent index: (frame at which SEALED was set, seal digest) (18 R405). -/
  seals : Tab (Nat × Nat) := []
  /-- The partition's configuration records as of the last slate (18 R403, R404). -/
  records : List Byte := []
  /-- Frame at which the configuration measurement last changed (18 R405). -/
  measured : Nat := 0
  /-- The partition report as of the last slate; none before any recomputation (18 R403, R405). -/
  report : Option (List Byte) := none
deriving DecidableEq, Repr

/-- A Fligifer write or read block (19 R428). -/
structure Block where
  /-- BLOCK_ID. -/
  id : Nat
  /-- Read direction. -/
  rd : Bool
  /-- Entry index. -/
  idx : Nat
  /-- Entry subindex. -/
  sub : Nat
  /-- OFFSET in the entry. -/
  off : Nat
  /-- SIZE in bytes. -/
  size : Nat
  /-- Bytes: the snapshot of a read block, the bytes written so far of a write block (zeros elsewhere). -/
  data : List Byte
  /-- Ranges written so far, (position, length). -/
  got : List (Nat × Nat)
deriving DecidableEq, Repr

/-- A Fligifer session (19 R420); sessions 0 to 15 are the secured ones, by SPDM session index. -/
structure Sess where
  /-- 0 UNSECURED, 1 TENANT, 2 MANAGER. -/
  cls : Nat := 0
  /-- 0 MGMT0, 1 MGMT1, 2 in band. -/
  carrier : Nat := 0
  /-- Fabric port when in band. -/
  port : Nat := 0
  /-- Source address and UDP port, or endpoint identifier in band, as one number. -/
  source : Nat := 0
  /-- SPDM session identifier. -/
  spdmId : Nat := 0
  /-- The SPDM session was established with mutual authentication. -/
  mutualAuth : Bool := false
  /-- SHA-384 of the root certificate of the requester's chain. -/
  rootDigest : Nat := 0
  /-- Export master secret of the SPDM session (17 R376). -/
  ems : List Byte := []
  /-- Highest secured sequence number accepted (R418). -/
  hiSeq : Option Nat := none
  /-- The secured sequence numbers accepted among the last 64 (R418). -/
  seen : List Nat := []
  /-- Next expected SEQ, E (R426). -/
  expect : Option Nat := none
  /-- Held requests: (SEQ, message) (R426). -/
  held : List (Nat × List Byte) := []
  /-- Cached responses of the last 32 executed requests: (SEQ, message) (R426). -/
  cached : List (Nat × List Byte) := []
  /-- Blocks open, at most two (R428). -/
  blocks : List Block := []
  /-- Next sequence number of the secured messages that the part sends (R418). -/
  txSeq : Nat := 0
  /-- Times the part's sending key has been updated by KEY_UPDATE (18 R398). -/
  keyGen : Nat := 0
  /-- Order of its last message among those of every session (R420). -/
  stamp : Nat := 0
  /-- Frame of its last message (R420, R422). -/
  lastFrame : Nat := 0
deriving DecidableEq, Repr

/-- One burst of a mover task (11 R255). -/
structure MBurst where
  /-- Position of its first byte in the transfer. -/
  pos : Nat
  /-- Bytes. -/
  len : Nat
  /-- The status with which its remote request ended; none while it is outstanding. -/
  res : Option Nat
  /-- PULL: the data returned, until it is written. -/
  data : List Byte
  /-- Its commit succeeded. -/
  done : Bool
  /-- Invalidations, by port and request number, that wait for it to finish (11 R258). -/
  inv : List (Nat × Nat)
deriving DecidableEq, Repr

/-- A mover task with its translation slab (11 R253 to R262). -/
structure MTask where
  /-- Number of the task. -/
  id : Nat
  /-- Partition. -/
  part : Nat
  /-- Ring. -/
  ring : Nat
  /-- Slot of the engine. -/
  slot : Nat
  /-- Engine. -/
  engine : Nat
  /-- Slab 0 to 3. -/
  slab : Nat
  /-- Free-running count of its descriptor. -/
  count : Nat
  /-- Handle its pool accesses carry. -/
  handle : Nat
  /-- Pool address of its descriptor. -/
  addr : Nat
  /-- The descriptor's 64 bytes as fetched. -/
  desc : List Byte
  /-- The agent entry it uses. -/
  agent : Nat
  /-- The ring was rebound under it (R265). -/
  detached : Bool
  /-- STATE of R257. -/
  state : Nat
  /-- FAULT_TRIES. -/
  tries : Nat
  /-- Fault-table entry while parked. -/
  fault : Option Nat
  /-- Page that the last answer reported absent. -/
  absent : Option Nat
  /-- ENTRY[i] of R257. -/
  pages : Tab Nat
  /-- BYTES_DONE. -/
  bytesDone : Nat
  /-- BYTES_ISSUED. -/
  bytesIssued : Nat
  /-- Bursts issued, in ascending order. -/
  bursts : List MBurst
  /-- The status it will complete with, once it stops issuing (R263). -/
  final : Option Nat
  /-- Its completion record has been written and is to be acknowledged (R262). -/
  written : Bool
deriving DecidableEq, Repr

/-- A ring's control state (11 R268). -/
structure Ring where
  /-- INCARNATION. -/
  inc : Nat := 0
  /-- STATE: 0 disabled, 1 running, 2 halting, 3 halted. -/
  state : Nat := 0
  /-- HALT_STATUS. -/
  haltStatus : Nat := 0
  /-- HALT_INDEX. -/
  haltIndex : Nat := 0
  /-- TAIL. -/
  tail : Nat := 0
  /-- FETCHED. -/
  fetched : Nat := 0
  /-- COMPLETED. -/
  completed : Nat := 0
  /-- Descriptors above COMPLETED whose records are written, by count (R262). -/
  recorded : List Nat := []
deriving DecidableEq, Repr

/-- An entry of a tile's fault table (11 R260). -/
structure FaultEnt where
  /-- Slot of the tile. -/
  slot : Nat
  /-- Number of the entry, 0 to 255. -/
  n : Nat
  /-- Agent's endpoint. -/
  eid : Nat
  /-- Agent's port. -/
  port : Nat
  /-- CONTEXT. -/
  ctx : Nat
  /-- Page, by address / 65536. -/
  page : Nat
  /-- ACCESS. -/
  access : Nat
  /-- Tasks that wait, by number. -/
  waiters : List Nat
deriving DecidableEq, Repr

/-- The movers (ch. 11). -/
structure Mover where
  /-- Active tasks, oldest first. -/
  tasks : List MTask := []
  /-- Number of the next task. -/
  nextId : Nat := 0
  /-- Rings by partition*16 + ring. -/
  rings : Tab Ring := []
  /-- Fault tables. -/
  faults : List FaultEnt := []
  /-- Tasks that wait for a fault-table entry to free, in order (R260 step 3). -/
  tableWait : List Nat := []
  /-- Mover budgets in force, in engine cycles, by slot*64 + partition (R256). -/
  budget : Tab Nat := []
  /-- Cycles charged this frame, by slot*64 + partition. -/
  used : Tab Nat := []
  /-- Partition served last by each engine, by slot*4 + engine. -/
  lastPart : Tab Nat := []
  /-- Ring served last, by (slot*4 + engine)*64 + partition. -/
  lastRing : Tab Nat := []
deriving DecidableEq, Repr


/-- A stream port of a context (14 R324). -/
structure Strm where
  /-- ELEM_BASE. -/
  base : Nat := 0
  /-- ELEM_LENGTH. -/
  len : Nat := 0
  /-- SCALE_BASE. -/
  scale : Nat := 0
  /-- CONSUMED. -/
  consumed : Nat := 0
  /-- FMT. -/
  fmt : Nat := 0
  /-- FLAGS: OPEN. -/
  opened : Bool := false
  /-- FLAGS: GLOBAL. -/
  global : Bool := false
  /-- FLAGS: ENDED. -/
  ended : Bool := false
  /-- Lines fetched and not yet consumed, by VA; a bad line holds nothing (12 R285, R212). -/
  buf : Tab (Option (List Byte)) := []
  /-- Lines of the buffer that were poisoned when fetched and are not logged yet (09 R221). -/
  marked : List Nat := []
deriving DecidableEq, Repr

/-- What a WAITING context waits for (13 R301). -/
inductive CtxWait where
  /-- Nothing. -/
  | none
  /-- The release of barrier `b` (R310). -/
  | barrier (b : Nat)
  /-- A message in its inbound mailbox (14 R343). -/
  | mailbox
deriving DecidableEq, Repr

/-- A hardware context (13 R301, 14 R316). Registers that are not listed hold zero. -/
structure Ctx where
  /-- State of R301 of a bound context: 1 IDLE to 7 FAULTED. -/
  st : Nat := 1
  /-- Number of the launch it runs or last ran. -/
  launch : Nat := 0
  /-- Rank in the launch (13 R304). -/
  rank : Nat := 0
  /-- G1 to G31. -/
  g : Tab Word := []
  /-- V0 to V31. -/
  v : Tab (BitVec 4096) := []
  /-- Q0 to Q7. -/
  q : Tab (BitVec 16384) := []
  /-- M0 to M7. -/
  m : Tab (BitVec 1024) := []
  /-- ST0 to ST7. -/
  strm : Tab Strm := []
  /-- PC. -/
  pc : Nat := 0
  /-- FP_FLAGS (13 R309). -/
  fp : Nat := 0
  /-- SR_SEED (12 R280). -/
  seed : Word := 0
  /-- SR_COUNTER (12 R280). -/
  ctr : Word := 0
  /-- BARRIER_GEN. -/
  gen : Tab Nat := []
  /-- AT_CUT: CUT is the last instruction retired (13 R308). -/
  atCut : Bool := false
  /-- RESUME: (OPCODE, KIND, PROGRESS) (14 R321). -/
  resume : Option (Nat × Nat × Nat) := none
  /-- What a WAITING context waits for. -/
  wait : CtxWait := .none
  /-- Its registers are in the saved-context area (13 R308). -/
  saved : Bool := false
  /-- Its wait was released while it was saved (13 R308, R310). -/
  woken : Bool := false
  /-- Cycles of its budget left in this frame (13 R306). -/
  budget : Nat := 0
  /-- Posted stores that their home refused, and whose refusal is on its way (14 R327). -/
  refusals : List Nat := []
  /-- A refusal that has arrived: the fault is taken at the next instruction (14 R327). -/
  refused : Option Nat := none
  /-- Inbound mailbox, oldest first: (binding, number of the post, message); no number once the binding has ended (20 R442). -/
  inbox : List (Nat × Option Nat × Word) := []
  /-- Binding and number of the message that was taken last and is not acknowledged (20 R444). -/
  taken : Option (Nat × Option Nat) := none
  /-- Outbound mailbox, oldest first (20 R445). -/
  outbox : List Word := []
  /-- Messages posted by MBXSEND since the context was bound (20 R445). -/
  sent : Nat := 0
deriving DecidableEq, Repr

/-- A launch that was accepted and has not ended (13 R302 to R311). -/
structure Launch where
  /-- Number of the launch in the model. -/
  id : Nat
  /-- Partition. -/
  part : Nat
  /-- Binding. -/
  bind : Nat
  /-- LAUNCH_SEQ. -/
  seq : Nat
  /-- The launch block, 96 bytes (R302). -/
  block : List Byte
  /-- Slates still to come before the one at which it starts; none once started (R304). -/
  due : Option Nat
  /-- Code of the first fault recorded for it (R311). -/
  fault : Option Nat := none
  /-- Its barriers are broken (R310). -/
  broken : Bool := false
  /-- Generation of each barrier at the coordinator. -/
  gens : Tab Nat := []
  /-- Ranks that have arrived in the current generation: (barrier, rank). -/
  arrived : List (Nat × Nat) := []
  /-- Arrivals sent by contexts and not yet counted: (barrier, rank, generation). -/
  coming : List (Nat × Nat × Nat) := []
  /-- Releases multicast and not yet received: (barrier, slot). -/
  releases : List (Nat × Nat) := []
deriving DecidableEq, Repr

/-- A partition's reel event queue (13 R312). -/
structure Events where
  /-- Records queued since the partition was activated. -/
  written : Nat := 0
  /-- Records consumed (20 R437). -/
  consumed : Nat := 0
  /-- Records dropped because the queue was full. -/
  lost : Nat := 0
  /-- Records not yet consumed, oldest first, 32 bytes each. -/
  recs : List (List Byte) := []
deriving DecidableEq, Repr

/-- A binding's messages to one context (20 R442). -/
structure Post where
  /-- POST_SEQ. -/
  post : Nat := 0
  /-- ACK_SEQ. -/
  ack : Nat := 0
  /-- RETURN. -/
  ret : Nat := 0
deriving DecidableEq, Repr

/-- The window registers of one binding (20 R437). -/
structure Window where
  /-- LAUNCH_BLOCK. -/
  block : List Byte := []
  /-- LAUNCH_STATUS: RESULT (13 R305). -/
  result : Nat := 0
  /-- LAUNCH_STATUS: LAUNCH_SEQ. -/
  seq : Nat := 0
  /-- LAUNCH_STATUS: STATE. -/
  state : Nat := 0
  /-- COMP_DESC (15 R345). -/
  desc : List Byte := []
  /-- COMP_RESULT (15 R346). -/
  comp : Nat := 0
  /-- PUB_SELECT. -/
  pubSel : Nat := 0
  /-- ERR_STATUS: CODE (R438). -/
  errCode : Nat := 0
  /-- ERR_STATUS: OFFSET. -/
  errOff : Nat := 0
  /-- ERR_STATUS: COUNT. -/
  errCount : Nat := 0
  /-- Messages to contexts, by slot*16 + context. -/
  posts : Tab Post := []
  /-- Management mailbox: POST_SEQ, ACK_SEQ and RETURN (R446). -/
  mgmt : Post := {}
  /-- MGMT_MBX_RESULT. -/
  mgmtResult : Nat := 0
  /-- The management command outstanding: CMD*2^48 + ARG. -/
  cmd : Option Nat := none
  /-- The outstanding command is discarded, and acknowledged once firmware runs again (R446). -/
  cmdLost : Bool := false
deriving DecidableEq, Repr

/-- An exact accumulator of one element (15 R354). -/
structure Acc where
  /-- NAN. -/
  nan : Bool := false
  /-- PINF. -/
  pinf : Bool := false
  /-- NINF. -/
  ninf : Bool := false
  /-- NONNEG. -/
  nonneg : Bool := false
  /-- A, in units of 2^-149; of 1 for integer formats. -/
  a : Int := 0
deriving DecidableEq, Repr

/-- An open chunk that has taken a contribution or an excuse (15 R349, R351). -/
structure Chunk where
  /-- Exact accumulators by element of the chunk. -/
  accs : Tab Acc := []
  /-- FAST SUM, MIN and MAX: the value kept, as the element's code in binary32 or INT32. -/
  vals : Tab Nat := []
  /-- Segments taken from each contributor, one bit per segment. -/
  took : Tab Nat := []
deriving DecidableEq, Repr

/-- A composite's record, and the composite while it is open (15 R345 to R365). -/
structure Comp where
  /-- STATE of R365. -/
  st : Nat := 0
  /-- PARTITION. -/
  part : Nat := 0
  /-- INCARNATION. -/
  inc : Nat := 0
  /-- The descriptor (R345). -/
  desc : List Byte := []
  /-- BASE. -/
  base : Nat := 0
  /-- Completed chunks at or above BASE. -/
  done : List Nat := []
  /-- Excused contributors. -/
  excused : List Nat := []
  /-- STALL. -/
  stall : Nat := 0
  /-- Frames since a chunk last completed, or since the last stall notification (R358). -/
  idle : Nat := 0
  /-- OVERFLOW_COUNT (R356). -/
  excess : Nat := 0
  /-- Order of creation. -/
  order : Nat := 0
  /-- Open chunks that hold something. -/
  chunks : Tab Chunk := []
deriving DecidableEq, Repr

/-- A pool operation in progress or queued (12 R288 to R293). -/
structure PoolJob where
  /-- The request that asked for it. -/
  req : Req
  /-- Progress at each slot: 0 queued, 1 in progress, 2 finished. -/
  slots : Tab Nat := []
  /-- COPY and COMPARE: each window at each slot, by window*32 + slot: 1 waits for a buffer, 2 holds one, 3 done. -/
  wins : Tab Nat := []
  /-- Windows whose source lines have been read. -/
  scanned : Nat := 0
  /-- Lowest offset of a line that failed. -/
  bad : Option Nat := none
  /-- COMPARE: lowest offset at which the bytes differ. -/
  diff : Option Nat := none
  /-- It ended early with this status (R290, R142). -/
  stop : Option Nat := none
  /-- Lowest offset refused under R142. -/
  stopAt : Nat := 0
  /-- REDUCE SUM: the exact sum. -/
  acc : Acc := {}
  /-- REDUCE MIN, MAX, ARGMAX: the element chosen so far, (index, code). -/
  best : Option (Nat × Nat) := none
  /-- REDUCE: a NaN was met. -/
  nan : Bool := false
deriving DecidableEq, Repr

/-- Reels, windows, composites and pool operations (ch. 12 to 15, 20). -/
structure Reels where
  /-- Contexts by slot*16 + context. -/
  ctxs : Tab Ctx := []
  /-- Partitions' tile-store quota bytes, by (slot*64 + partition)*2^26 + offset; unlisted bytes are zero (12 R272, 02 R53). -/
  store : List Host.Cell := []
  /-- Instruction caches: lines held by each sequencer, newest first, by slot*4 + sequencer: (partition*2^48 + VA, bytes) (13 R297). -/
  icache : Tab (List (Nat × List Byte)) := []
  /-- Launches accepted and not ended. -/
  launches : List Launch := []
  /-- Number of the next launch. -/
  nextLaunch : Nat := 1
  /-- Reel event queues by partition. -/
  events : Tab Events := []
  /-- Windows by binding. -/
  windows : Tab Window := []
  /-- Composite records by number. -/
  comps : Tab Comp := []
  /-- Composite number allocated most recently (15 R347); DESIGN CHOICE 1023 at reset, so that number 0 comes first (log 1). -/
  lastComp : Nat := 1023
  /-- Composites created so far. -/
  compOrder : Nat := 0
  /-- Pool operations, in order of arrival. -/
  jobs : List PoolJob := []
  /-- Partition served last by each slot's staging buffers (12 R291). -/
  lastStage : Tab Nat := []
  /-- Rebound contexts that are being zeroised, by slot*16 + context (02 R52). -/
  scrubCtx : List Nat := []
  /-- Rebound tile-store quotas that are being zeroised, by slot*64 + partition (02 R52). -/
  scrubStore : List Nat := []
deriving DecidableEq, Repr


/-- One temperature sensor (21 R454); readings in 1/8 of a degree C. -/
structure Sensor where
  /-- The last reading. -/
  last : Int := 0
  /-- Frame since which it has repeated that reading. -/
  since : Nat := 0
  /-- Lowest reading of its neighbours since then. -/
  lo : Int := 0
  /-- Highest reading of its neighbours since then. -/
  hi : Int := 0
  /-- Highest reading of this frame; none before its first sample. -/
  peak : Option Int := none
deriving DecidableEq, Repr

/-- The gaffer (ch. 21), beyond what TILE_CUT, SENSOR_STATUS, TILE_TEMPS and the counts of the dictionary hold. -/
structure Gaffer where
  /-- Governed units of this frame (R447), by (slot*64 + partition)*16 + unit: 4 context cycles, 5 MACs of a 16-bit operand,
  6 of an 8-bit one, 7 of a 6- or 4-bit one, 8 special-function elements, 9 tile-store bytes, 10 elements of an exact SUM,
  11 other elements, 12 mover bytes, 13 pool-operation bytes. -/
  units : Tab Nat := []
  /-- The units already in the records of the frame in progress, in the same order (R449). -/
  told : Tab Nat := []
  /-- Governed energy of the last frame in uJ, by slot*64 + partition: last_draw of R460. -/
  last : Tab Nat := []
  /-- cut_pkg of R460. -/
  cutPkg : Nat := 0
  /-- Consecutive frames with cut_pkg at 224 (R461). -/
  cutRun : Nat := 0
  /-- Shared partitions' burst and activation budgets are halved (R461). -/
  halved : Bool := false
  /-- Partitions whose governed work was held in this frame, by slot*64 + partition (R456). -/
  held : List Nat := []
  /-- State of the peak window: 0 DISARMED, 1 ARMED, 2 OPEN, 3 CLOSING (R459, R464). -/
  peak : Nat := 0
  /-- Frames left in an open window. -/
  peakLeft : Nat := 0
  /-- Frames of CLOSING passed. -/
  closing : Nat := 0
  /-- Consecutive frames below 2,000 W. -/
  rearm : Nat := 0
  /-- Frame from which the coolant report in force counts its age; none before any report (R458). -/
  coolant : Option Nat := none
  /-- The report in force has been counted stale. -/
  stale : Bool := false
  /-- A stack has passed 95 C and not every stack has come back to 92 C: THERM_ALERT_N is asserted (R462). -/
  thermStack : Bool := false
  /-- A die has passed 105 C and not every die has come back to 100 C: THERM_ALERT_N is asserted (R462). -/
  thermDie : Bool := false
  /-- The critical stop of R462. -/
  critical : Bool := false
  /-- Sensors, by tile*8 + position in TILE_TEMPS. -/
  sensors : Tab Sensor := []
  /-- Hottest stack of the last frame, 1/8 C; none before the first sample. -/
  hotStack : Option Int := none
  /-- Hottest die of the last frame, 1/8 C. -/
  hotDie : Option Int := none
deriving DecidableEq, Repr

/-- A dailies subscription (19 R432, R433). -/
structure Sub where
  /-- Fligifer session. -/
  sess : Nat
  /-- PARTITIONS. -/
  parts : Nat
  /-- Next frame to send. -/
  next : Nat
  /-- Records of that frame already sent. -/
  pos : Nat
  /-- Next STREAM_SEQ. -/
  seq : Nat
  /-- Unacknowledged messages, oldest first: (STREAM_SEQ, message). -/
  sent : List (Nat × List Byte)
  /-- GAP is to be set in the next message. -/
  gap : Bool
  /-- Roll-ups to be sent. -/
  rolls : List (List Byte)
deriving DecidableEq, Repr

/-- The dailies engine (ch. 21). -/
structure Dailies where
  /-- The ring: (frame, records), oldest first, at most 4,000 frames (19 R432, 21 R451). -/
  ring : List (Nat × List (List Byte)) := []
  /-- Records of minutes not yet signed, in frame order, by minute*65 + partition, 64 the system (R452). -/
  minutes : Tab (List Byte) := []
  /-- Energy of each partition below 1 uJ carried into the next frame, in 1/1024 pJ (R448). -/
  carry : Tab Nat := []
  /-- A warm or tile reset fell in the frame (R450). -/
  reset : Bool := false
  /-- A take applied at the slate that opened the frame (R450). -/
  took : Bool := false
  /-- Subscriptions by SUB_ID (19 R432). -/
  subs : Tab Sub := []
deriving DecidableEq, Repr

/-- One SPDM connection with its negotiation (18 R398 to R401). Connection `p` below 36 is the link's own exchange on port
`p`; the others are those of requesters by management port or in band. -/
structure Spdm where
  /-- Requests answered so far: 1 GET_VERSION, 2 GET_CAPABILITIES, 3 NEGOTIATE_ALGORITHMS. -/
  stage : Nat := 0
  /-- The requester has advertised MUT_AUTH_CAP. -/
  mutCap : Bool := false
  /-- KEY_EXCHANGE has been answered and FINISH has not: the session index, or 512 + port, that it opens. -/
  opening : Option Nat := none
  /-- Export master secret of the session being opened. -/
  ems : List Byte := []
  /-- Identifier of the session being opened: the requester's half low. -/
  id : Nat := 0
  /-- As requester: the request whose response is awaited: 1 GET_VERSION, 2 GET_CAPABILITIES, 3 NEGOTIATE_ALGORITHMS,
  4 GET_DIGESTS, 5 GET_CERTIFICATE, 6 KEY_EXCHANGE, 7 an encapsulated response, 8 FINISH; 0 when no attempt runs (R401). -/
  asked : Nat := 0
  /-- As requester: bytes of the peer's chain read so far. -/
  got : Nat := 0
  /-- As requester: secured messages sent in the handshake. -/
  hsSeq : Nat := 0
  /-- As requester: SHA-384 of the peer's chain. -/
  peerChain : Nat := 0
  /-- As requester: the draw of the part's exchange values. -/
  draw : Nat := 0
  /-- As requester: attempts that have failed in a row. -/
  fails : Nat := 0
  /-- As requester: the attempt has ended and a retry is due. -/
  retry : Bool := false
deriving DecidableEq, Repr

/-- Reset, boot and the package (ch. 22, 23). -/
structure Boot where
  /-- VAUX is up. -/
  powered : Bool := true
  /-- The part is held in cold reset. -/
  held : Bool := true
  /-- The PLLs have locked. -/
  locked : Bool := false
  /-- The option bytes have been read. -/
  fused : Bool := false
  /-- The lead core has been released into the boot ROM. -/
  released : Bool := false
  /-- Service domains run. -/
  service : Bool := false
  /-- Frame and time of the trigger of the last warm reset (R467). -/
  warmAt : Option (Nat × Nat) := none
  /-- The boot ROM is checking a buffer after a warm reset (R469). -/
  checking : Bool := false
  /-- Frames of the lead watchdog's warm resets, newest first (R476). -/
  bites : List Nat := []
  /-- Partition resets due at the next slate (R474). -/
  partResets : List Nat := []
  /-- Firmware image buffers A (0) and B (1) (19 R431). -/
  images : Tab (List Byte) := []
  /-- The buffer that the boot ROM starts first (19 R431). -/
  active : Nat := 0
  /-- The image last started, which the measurements describe (18 R402). -/
  image : List Byte := []
  /-- Frame at which DEBUG_POLICY last changed (18 R402). -/
  policyFrame : Nat := 0
  /-- Value of DEBUG_POLICY at the last slate. -/
  policy : Nat := 0
  /-- MAC address in force on each management port, where it has been written (19 R434). -/
  macs : Tab Nat := []
  /-- Cores halted through the TAP: the lead core (18 R411). -/
  coreHalted : Bool := false
  /-- Instructions stepped through the TAP. -/
  steps : Nat := 0
  /-- Value that the selected TAP data register captured. -/
  tapOut : Nat := 0
  /-- Last SMBus block read: none when the code was not acknowledged (23 R489). -/
  smb : Option (List Byte) := none
  /-- SMBus code of the last transfer that was acknowledged. -/
  smbCode : Nat := 0
  /-- Packets that the management ports have answered: (port, kind, bytes) (19 R419). -/
  netOut : List (Nat × Nat × List Byte) := []
  /-- Datagrams that answer SPDM messages on management ports, binding header included: (port, source, bytes) (18 R400). -/
  spdmOut : List (Nat × Nat × List Byte) := []
  /-- SPDM connections. -/
  spdm : Tab Spdm := []
  /-- Measurement blocks 5 and 7 as of the last slate: raw values (18 R402, R403). -/
  blocks : Tab (List Byte) := []
  /-- SPDM and MGMT requests accepted before the lead core ran: (port, request number) (04 R117, 22 R475). -/
  early : List (Nat × Nat) := []
  /-- Index counter of blocks opened (19 R428). -/
  nextBlock : Nat := 0
deriving DecidableEq, Repr

/-- The whole state of the part: plain data, every field at its reset value by default. -/
structure State where
  /-- Commands waiting, first in, first out; empty at reset. -/
  pending : List Instr := []
  /-- Live dictionary elements that differ from their defaults by a write, by element key (19 R415). -/
  regs : Tab Nat := []
  /-- Entries written since the last slate whose new values apply at the next one, with the value still in force. -/
  lag : Tab Nat := []
  /-- Fuses. -/
  fuses : Fuses := {}
  /-- Frame logic. -/
  fl : FrameLogic := {}
  /-- Take control. -/
  take : TakeCtl := {}
  /-- Port engines by port number (ch. 04). -/
  ports : Tab Port := []
  /-- Link and lane layers by port number (ch. 03). -/
  links : Tab Link := []
  /-- Routers by tile number (ch. 05). -/
  mesh : Tab MeshTile := []
  /-- Packets standing in routers for want of buffer space, oldest first (05 R123, R130). -/
  flights : List Flight := []
  /-- Packets that wait at their sources to be injected, oldest first (05 R131, R133). -/
  meshWait : List MeshPkt := []
  /-- Waiting requests, in order of arrival, with what each waits for. -/
  waiting : List (Wait × Req) := []
  /-- Pool memory: deciphered bytes by device physical address (06 R139); an unlisted byte reads 0, the fill (09 R217). -/
  mem : List Host.Cell := []
  /-- Errors of stored symbols against the line's codeword, by line*144 + symbol, as the XOR of the two (09 R204). -/
  errs : Tab Nat := []
  /-- Key and data unit a line was last enciphered under, key*2^35 + unit; unlisted: raw (17 R381). -/
  lineKey : Tab Nat := []
  /-- Granules, by device physical address / 4096, whose fresh bit is clear, in rising order (06 R143). -/
  written : List Nat := []
  /-- Ownership tag of the four device frames of each device extent, by DXN (06 R140); unlisted: unowned. -/
  tags : Tab Nat := []
  /-- Draw number of the key in force of each device extent, by DXN (17 R382). -/
  keyIds : Tab Nat := []
  /-- Keys drawn so far. -/
  keysDrawn : Nat := 0
  /-- Device extents waiting for their crypto-erase: DXN -> handle of the new owner, 0 if freed (06 R144). -/
  erasing : Tab Nat := []
  /-- Device extents in quarantine: DXN -> frame at which it ends (06 R145). -/
  quarantine : Tab Nat := []
  /-- Lease control. -/
  lease : LeaseCtl := {}
  /-- Publisher EID of each region's version, by partition*4096 + region (06 R154). -/
  pubBy : Tab Nat := []
  /-- Publish flips in progress (06 R156). -/
  flips : List Flip := []
  /-- Directory entries by line (device physical address / 128) (07 R167). -/
  dir : Tab DirEnt := []
  /-- Directory lookups made, the clock of least recent use (07 R169). -/
  dirClock : Nat := 0
  /-- Pending records by line (07 R170). -/
  pends : Tab Pend := []
  /-- Eviction buffers by line (07 R169). -/
  evicts : Tab Evict := []
  /-- Lost-line logs by partition, oldest first, at most 256 (07 R181). -/
  lostLog : Tab (List Nat) := []
  /-- Stack controllers and integrity units by tile. -/
  stackTab : Tab Stack := []
  /-- Latched test operation (09 R216). -/
  test : Option TestOp := none
  /-- Continuity. -/
  cont : Continuity := {}
  /-- Partition control by partition. -/
  parts : Tab PartCtl := []
  /-- The movers. -/
  mover : Mover := {}
  /-- Reels, windows, composites and pool operations. -/
  reels : Reels := {}
  /-- Reseedings of each tile's DRBG since it was instantiated, by tile (17 R389). -/
  reseeds : Tab Nat := []
  /-- SECURITY_LOG, oldest first, at most 64 (17 R395). -/
  secLog : List Nat := []
  /-- Fligifer sessions (19 R420). -/
  sess : Tab Sess := []
  /-- Fligifer messages the part has sent: (session, message) (19 R427). -/
  fligOut : List (Nat × List Byte) := []
  /-- The gaffer. -/
  gaff : Gaffer := {}
  /-- The dailies. -/
  dailies : Dailies := {}
  /-- Reset, boot and package. -/
  boot : Boot := {}
  /-- Meters of the frame in progress, by partition*32 + field; partition 64 is the system (21 R447, R450). -/
  meter : Tab Nat := []
  /-- The model's own counter of free values drawn; no statement rests on it (log entry 2). -/
  free : Nat := 0
deriving DecidableEq, Repr

/-- Reasons the part could stop. No rule of the manual stops the part: every failure it names is a status, a log entry,
an ended session, a reset or a reel fault, and so a next state. -/
inductive Fault where
  /-- Raised by no command: kept so that the type is not empty. Safe. -/
  | none
deriving DecidableEq, Repr

/-- Reasons a command is not given a meaning. -/
inductive Refusal where
  /-- Raised by an arm of `exec` for a command whose meaning is not written. Safe. -/
  | notModelled (mnemonic : String)
  /-- Raised by a command on a unit whose behaviour the manual does not give. Safe. -/
  | notInSpec (what : String)
deriving DecidableEq, Repr

/-- The machine right after reset: every field at its default (log entry 1 for the values the manual does not give). -/
def State.reset : State := {}

end Sys2Proof.Machine
end

