-- ==== Sys2Proof/Machine/Tab.lean ====
section
/-!
DEFINITION. Finite tables as sorted association lists: look up, set, erase, and update by a function.
-/

namespace Sys2Proof

/-- What the table lists for key `k`. -/
def Tab.find {α : Type} : Tab α → Nat → Option α
  | [], _ => none
  | (a, x) :: t, k => if a = k then some x else Tab.find t k

/-- Write `v` at key `k`, keeping the keys in rising order. -/
def Tab.set {α : Type} : Tab α → Nat → α → Tab α
  | [], k, v => [(k, v)]
  | (a, x) :: t, k, v =>
    if k < a then (k, v) :: (a, x) :: t
    else if k = a then (k, v) :: t
    else (a, x) :: Tab.set t k v

/-- Remove key `k`. -/
def Tab.erase {α : Type} (t : Tab α) (k : Nat) : Tab α := t.filter (fun e => e.1 ≠ k)

/-- Remove every key that satisfies `p`. -/
def Tab.eraseIf {α : Type} (t : Tab α) (p : Nat → Bool) : Tab α := t.filter (fun e => !p e.1)

/-- What key `k` holds, with `d` for a key that is not listed. -/
def Tab.getD {α : Type} (t : Tab α) (k : Nat) (d : α) : α := (Tab.find t k).getD d

/-- The keys in rising order, as the table lists them. -/
def Tab.keys {α : Type} (t : Tab α) : List Nat := t.map (·.1)

/-- The keys are strictly rising. -/
abbrev Tab.sorted {α : Type} (t : Tab α) : Prop := (t.map (·.1)).Pairwise (· < ·)

/-- Apply `f` to the element at position `i` of a list, when there is one. -/
def modifyAt {α : Type} (l : List α) (i : Nat) (f : α → α) : List α := l.modify i f

/-- Keep the last `n` elements of a list: a log that overwrites its oldest entry. -/
def keepLast {α : Type} (n : Nat) (l : List α) : List α := l.drop (l.length - n)

end Sys2Proof
end

