-- ==== Sys2Proof/Machine/Ops.lean ====
section
/-!
DEFINITION. The named operations over the state that every family shares: reading and writing live dictionary
elements, counters and logs, the tables of ports, stacks, sessions and partitions, the slot map and handles.
-/

namespace Sys2Proof.Machine

/-- What a command answers. -/
abbrev Out := Host.Outcome State Fault Refusal

/-! ### The default slot map (R18) -/

/-- Tiles in ascending order that the fuses do not mark defective. -/
def goodTiles (f : Fuses) : List Nat := (List.range 36).filter (fun t => !bit f.defects t)

/-- The in-service set of R18: the good tiles but the centre four, then centre tiles until there are 32. -/
def defaultInService (f : Fuses) : List Nat :=
  let centre := [14, 15, 20, 21]
  let outer := (goodTiles f).filter (fun t => !centre.contains t)
  let add := (centre.filter (fun t => !bit f.defects t)).take (32 - outer.length)
  (List.range 36).filter (fun t => outer.contains t || add.contains t)

/-- The default slot map (R18): slot `s` is the `s`-th tile of the in-service set. -/
def defaultSlotMap (f : Fuses) (slot : Nat) : Nat := (defaultInService f).getD slot 0

/-- The state of R222 that the fuses and R18 give a tile. -/
def defaultTileState (f : Fuses) (t : Nat) : Nat :=
  if bit f.defects t then 2 else if (defaultInService f).contains t then 0 else 1

/-- The lead tile elected at a cold reset (R21): the lowest-numbered good tile whose identity fuses verify. -/
def electLead (f : Fuses) (barred : Nat) : Nat :=
  ((goodTiles f).find? (fun t => bit f.verified t && !bit barred t)).getD 0

/-- LINK_ID of port `p` (R87): the serial number and the port. -/
def linkId (f : Fuses) (p : Nat) : Nat := (f.serial % 2 ^ 56) * 256 + p

/-! ### Live dictionary elements -/

/-- The default of the element with key `k` (R2, R415): the tables' number, or what the fuses make of it. TAKE_DIGEST is no
element of its own: `State.takeDigest` computes it where it is read. -/
def regDefault (f : Fuses) (k : Nat) : Nat :=
  let idx := k / 4294967296
  let sub := k / 16777216 % 256
  let el := k % 16777216
  if idx = 0x4600 ∧ sub = 1 then defaultSlotMap f el
  else if idx = 0x4600 ∧ sub = 3 then defaultTileState f el
  else if idx = 0x1800 ∧ sub = 5 then electLead f 0
  else if 0x2400 ≤ idx ∧ idx < 0x2424 ∧ sub = 2 then linkId f (idx - 0x2400)
  else if 0x4000 ≤ idx ∧ idx < 0x4024 ∧ sub = 0x10 then Tab.getD f.dqSeeds ((idx - 0x4000) * 4608 + el) 0
  else if idx = 0x7802 ∧ sub = 1 then 0x02 * 2 ^ 40 + f.serial % 2 ^ 40
  else if idx = 0x7803 ∧ sub = 1 then 0x06 * 2 ^ 40 + f.serial % 2 ^ 40
  else if idx = 0x1000 then
    if sub = 1 then f.serial
    else if sub = 2 then ofBE (padTo 16 (ascii "PY-3640"))
    else if sub = 3 then f.speedBin
    else if sub = 4 then f.defects
    else if sub = 5 then f.verified
    else if sub = 7 then f.minSecVersion
    else if sub = 8 then f.signerRevoked
    else if sub = 9 then f.polarity.getD el 0
    else 0
  else if idx = 0x7000 ∧ sub = 3 then f.energy.getD el 0
  else if idx = 0x7C00 ∧ sub = 2 then f.idcode
  else if 0x3000 ≤ idx ∧ idx < 0x3040 ∧ sub = 8 then sha384n []
  else Dict.dflt idx sub el

/-- Every RWT entry, in ascending index and subindex order (R45): (index*256 + subindex, descriptor). -/
def rwtEntries : List (Nat × Desc) :=
  ((Dict.all.filter (fun d => d.acc = 3)).map (fun d => (List.range d.n).map (fun i => ((d.base + i) * 256 + d.sub, d)))).flatten.mergeSort
    (fun a b => a.1 ≤ b.1)

/-- One element's bytes as a Fligifer value carries them (R8, R414). -/
def elemBytes (d : Desc) (v : Nat) : List Byte := if d.lsb then toLE d.esz v else toBE d.esz v

/-- The value of entry `e` (index*256 + subindex) in network byte order, elements read by `rd`. -/
def entryBytes (rd : Nat → Nat) (e : Nat) (d : Desc) : List Byte :=
  ((List.range d.count).map (fun i => elemBytes d (rd (e * 16777216 + i)))).flatten

/-- TAKE_DIGEST of the values `rd` (R45). -/
def digestOf (rd : Nat → Nat) : Nat :=
  sha384n ((rwtEntries.map (fun e => toBE 3 e.1 ++ entryBytes rd e.1 e.2)).flatten)

/-- The live value of the element with key `k` (R415). -/
def State.rd (s : State) (k : Nat) : Nat := (Tab.find s.regs k).getD (regDefault s.fuses k)

/-- TAKE_DIGEST: of the live elements as they were when it was last computed (R45, R55). -/
def State.takeDigest (s : State) : Nat := digestOf (fun k => (Tab.find s.take.digested k).getD (regDefault s.fuses k))

/-- The value in force of an entry whose writes apply at the next slate. -/
def State.eff (s : State) (k : Nat) : Nat := (Tab.find s.lag k).getD (s.rd k)

/-- Make `v` the live value of the element with key `k`. -/
def State.wr (s : State) (k v : Nat) : State := { s with regs := Tab.set s.regs k v }

/-- Write an element that applies at the next slate: the value in force until then is kept in `lag`. -/
def State.wrLag (s : State) (k v : Nat) : State :=
  { s with lag := if (Tab.find s.lag k).isSome then s.lag else Tab.set s.lag k (s.rd k), regs := Tab.set s.regs k v }

/-- Write several live elements. -/
def State.wrs (s : State) (l : List (Nat × Nat)) : State := l.foldl (fun s e => s.wr e.1 e.2) s

/-- Bytes of the type of the element with key `k`. -/
def keyBytes (k : Nat) : Nat :=
  match Dict.find (k / 4294967296) (k / 16777216 % 256) with
  | some d => d.esz
  | none => 0

/-- Add `n` to a counter. A count that no longer fits the entry's type is a value the manual does not state. -/
def State.count (s : State) (k n : Nat) : State :=
  let v := s.rd k + n
  s.wr k (if v < 2 ^ (8 * keyBytes k) then v else Config.counterOver k v)

/-- Draw a fresh value that the manual leaves open, below `bound` where a bound is stated (0: none). -/
def State.draw (s : State) (bound : Nat) : Nat × State :=
  let v := Config.freeValue s.free
  (if bound = 0 then v else v % bound, { s with free := s.free + 1 })

/-- The time since the slate at which the command happens (R28). -/
def State.at (s : State) (t : Nat) : State := { s with fl := { s.fl with now := t } }

/-- Ticks by which a frame is longer or shorter than 78,125, and the phase error left (R28, R35): an error is worked off by at
most 156 ticks of 3.2 ns a frame. -/
def slewTicks (e : Int) : Int × Int :=
  let k := e * 10 / 32
  let k := if 156 < k then 156 else if k < -156 then -156 else k
  (k, if -156 < k ∧ k < 156 then 0 else e - k * 32 / 10)

/-- Ticks of the frame in progress (R28, R35): stretched to the source's slate, or with this frame's share of the phase error. -/
def FrameLogic.ticks (f : FrameLogic) : Nat :=
  match f.stretching with
  | some e => 78125 + e * 10 / 32
  | none => (78125 + (slewTicks f.slew).1).toNat

/-- Length in ns of the frame in progress: a tick is 3.2 ns. -/
def State.frameNs (s : State) : Nat := s.fl.ticks * 16 / 5

/-- Time in the frame at which the slate guard begins: 2 us before the slate that ends it (R28, R31). -/
def State.guardAt (s : State) : Nat := s.frameNs - 2000

/-- The serial number as seven bytes. -/
def State.serial7 (s : State) : List Byte := toBE 7 s.fuses.serial

/-- Order of the P-384 group (FIPS 186-5). -/
def p384Order : Nat :=
  0xFFFFFFFFFFFFFFFFFFFFFFFFFFFFFFFFFFFFFFFFFFFFFFFFC7634D81F4372DDF581A0DB248B0A77AECEC196ACCC52973

/-- The private key d of the ECDSA identity (18 R396), derived from the device seed. -/
def State.ecdsaKey (s : State) : Nat :=
  ofBE (kdf s.fuses.seed (ascii "PY IDENTITY ECDSA P384") s.serial7 448) % (p384Order - 1) + 1

/-- The seed ξ of the ML-DSA identity (18 R396), derived from the device seed. -/
def State.mldsaKey (s : State) : List Byte := kdf s.fuses.seed (ascii "PY IDENTITY MLDSA65") s.serial7 256

/-- The frame number (R30). -/
def State.frame (s : State) : Nat := s.rd K.frameNumber

/-! ### Tables of the part's blocks -/

/-- Port engine of port `p`. -/
def State.port (s : State) (p : Nat) : Port := Tab.getD s.ports p {}
/-- Replace the port engine of port `p`. -/
def State.setPort (s : State) (p : Nat) (v : Port) : State := { s with ports := Tab.set s.ports p v }
/-- Update the port engine of port `p`. -/
def State.updPort (s : State) (p : Nat) (f : Port → Port) : State := s.setPort p (f (s.port p))

/-- Stack controller and integrity unit of tile `t`. -/
def State.stack (s : State) (t : Nat) : Stack := Tab.getD s.stackTab t {}
/-- Replace them. -/
def State.setStack (s : State) (t : Nat) (v : Stack) : State := { s with stackTab := Tab.set s.stackTab t v }
/-- Update them. -/
def State.updStack (s : State) (t : Nat) (f : Stack → Stack) : State := s.setStack t (f (s.stack t))

/-- Router of tile `t`. -/
def State.router (s : State) (t : Nat) : MeshTile := Tab.getD s.mesh t {}
/-- Replace it. -/
def State.setRouter (s : State) (t : Nat) (v : MeshTile) : State := { s with mesh := Tab.set s.mesh t v }

/-- The mesh cycle of the frame: the mesh runs at 2.5 GHz (05 R122, R127). -/
def State.meshNow (s : State) : Nat := s.fl.now * 5 / 2

/-- Flits of a packet of `n` data bytes: a header flit and 128 bytes to each data flit (05 R122). -/
def meshFlits (n : Nat) : Nat := 1 + (n + 127) / 128

/-- Mesh cycle from which a throttled tile may inject its open flit number `k`, at THROTTLE_RATE/256 of the port (05 R131). -/
def State.slowAt (s : State) (t k : Nat) : Nat :=
  let r := max (s.eff K.throttleRate) 1
  (s.router t).since + (k * 256 + r - 1) / r

/-- Tile `t` may inject open traffic now (05 R131). -/
def State.slowMay (s : State) (t : Nat) : Bool :=
  !(s.router t).throttled || decide (s.slowAt t (s.router t).slow ≤ s.meshNow)

/-- Tile `t` has injected `n` flits of open traffic (05 R131). -/
def State.slowUse (s : State) (t n : Nat) : State :=
  let m := s.router t
  if m.throttled then s.setRouter t { m with slow := m.slow + n } else s

/-- Control of partition `p`. -/
def State.part (s : State) (p : Nat) : PartCtl := Tab.getD s.parts p {}
/-- Replace it. -/
def State.setPart (s : State) (p : Nat) (v : PartCtl) : State := { s with parts := Tab.set s.parts p v }

/-- Pending record of line `ln`. -/
def State.pend (s : State) (ln : Nat) : Pend := Tab.getD s.pends ln {}
/-- Replace it. -/
def State.setPend (s : State) (ln : Nat) (v : Pend) : State := { s with pends := Tab.set s.pends ln v }

/-- Fligifer session `i`, if it exists. -/
def State.session (s : State) (i : Nat) : Option Sess := Tab.find s.sess i
/-- Replace it. -/
def State.setSess (s : State) (i : Nat) (v : Sess) : State := { s with sess := Tab.set s.sess i v }

/-- Relocation and continuity state replaced. -/
def State.setCont (s : State) (c : Continuity) : State := { s with cont := c }

/-! ### Slots, tiles and partitions -/

/-- Tile that homes slot `slot` (R17). -/
def State.tileAt (s : State) (slot : Nat) : Nat := s.rd (K.slotMap slot)

/-- Slot that tile `t` homes, if the slot map names it. -/
def State.slotOfTile (s : State) (t : Nat) : Option Nat := (List.range 32).find? (fun sl => s.tileAt sl = t)

/-- The tiles in service, by slot. -/
def State.serviceTiles (s : State) : List Nat := (List.range 32).map s.tileAt

/-- Tile `t` is in service (R14). -/
def State.inService (s : State) (t : Nat) : Bool := s.serviceTiles.contains t

/-- The retention and service domains of tile `t` are powered: TILE_STATE in service, preparing or testing (R13, 10 R222). -/
def State.domainsOn (s : State) (t : Nat) : Bool :=
  s.boot.powered && [0, 3, 4].contains (s.rd (K.tileState t))

/-- The quadrant of a tile (R15): 0 south-west, 1 south-east, 2 north-west, 3 north-east. -/
def quadrant (t : Nat) : Nat := (if t / 6 < 3 then 0 else 2) + (if t % 6 < 3 then 0 else 1)

/-- The ports of each chiplet, in the order of R16. -/
def chipletPorts : List (List Nat) :=
  [[0, 1, 7], [2, 8, 14], [3, 4, 9], [5, 10, 11], [15, 16, 17], [22, 23, 29], [28, 34, 35], [21, 27, 33],
    [26, 31, 32], [24, 25, 30], [18, 19, 20], [6, 12, 13]]

/-- Chiplet of a port (R16). -/
def chipletOf (p : Nat) : Nat := (chipletPorts.findIdx? (·.contains p)).getD 0

/-- Chiplet lane of physical lane `l` of a port: 8 lanes to each of the chiplet's ports, in the order of its list (03 R59). -/
def chipletLane (p l : Nat) : Nat := 8 * ((chipletPorts.getD (chipletOf p) []).findIdx (· = p)) + l

/-- The lanes of a port that its chiplet's fuse lane map records as inverted in the package, one bit each (03 R59). -/
def fusedPolarity (f : Fuses) (p : Nat) : Nat :=
  (List.range 8).foldl (fun a l => if bit (f.polarity.getD (chipletOf p) 0) (chipletLane p l) then a + 2 ^ l else a) 0

/-- The nearest tile eastward of `t` along its row, wrapping from column 5 to column 0, that is among `l` (R19). -/
def eastward (l : List Nat) (t : Nat) : Option Nat :=
  ((List.range 5).map (fun i => t / 6 * 6 + (t + i + 1) % 6)).find? l.contains

/-- Where the duplicates of the tiles `l` in service stand (R19). -/
def duplicates (l : List Nat) : Tab Nat :=
  l.foldl (fun (d : Tab Nat) t => match eastward l t with
    | some u => Tab.set d t u
    | none => d) []

/-- The tile that keeps a tile's duplicate (R19). -/
def State.duplicateOf (s : State) (t : Nat) : Option Nat := Tab.find s.cont.dups t

/-- The tile that holds the lease table (R20). -/
def State.leaseTile (s : State) : Nat := s.tileAt 0

/-- The tile that holds the duplicate of the lease table (R19, R20). -/
def State.leaseDuplicate (s : State) : Option Nat := s.duplicateOf s.leaseTile

/-- Current incarnation of partition `p` (R369). -/
def State.incarnation (s : State) (p : Nat) : Nat := s.rd (K.incarnation p)

/-- Current handle of partition `p` (R140). -/
def State.handleOf (s : State) (p : Nat) : Nat := p * 1024 + s.incarnation p

/-- Partition of a handle. -/
def handlePart (h : Nat) : Nat := fld h 15 10

/-- Partition `p` is ACTIVE (R369). -/
def State.active (s : State) (p : Nat) : Bool := s.rd (K.partitionStatus p) = 1

/-- Partition `p` counts as sealed: ACTIVE with PARTITION_CLASS 1 (R128). -/
def State.isSealed (s : State) (p : Nat) : Bool := s.active p && s.rd (K.partitionClass p) = 1

/-- Some sealed partition is in the take. -/
def State.anySealed (s : State) : Bool := (List.range 64).any s.isSealed

/-- A handle bears its partition's current incarnation, and the partition is ACTIVE (R105 step 5, R369). -/
def State.handleLive (s : State) (h : Nat) : Bool :=
  s.active (handlePart h) && s.incarnation (handlePart h) = fld h 9 0

/-- Poison mode of partition `p` (R211). -/
def State.poisonMode (s : State) (p : Nat) : Bool := s.rd (K.poisonMode p) = 1

/-- The status a bad line gives a request of partition `p` (R212). -/
def State.badStatus (s : State) (p : Nat) : Nat := if s.poisonMode p then Code.poisoned else Code.dataError

/-! ### Bindings (R146) -/

/-- Descriptor of binding `b`. -/
def State.binding (s : State) (b : Nat) : Nat := s.rd (K.bindings b)
/-- The binding exists. -/
def bValid (d : Nat) : Bool := bit d 63
/-- Its port. -/
def bPort (d : Nat) : Nat := fld d 55 50
/-- Its partition. -/
def bPart (d : Nat) : Nat := fld d 49 44
/-- Its endpoint. -/
def bEid (d : Nat) : Nat := fld d 31 16

/-- The valid binding of endpoint `eid` to partition `p` on port `port`. -/
def State.findBinding (s : State) (port p eid : Nat) : Option Nat :=
  (List.range 4096).find? (fun b =>
    let d := s.binding b
    bValid d && bPort d = port && bPart d = p && bEid d = eid)

/-! ### Logs -/

/-- Add an entry to SECURITY_LOG and count it under its KIND (R395): counter `kind` - 1. -/
def State.security (s : State) (kind handle tile port dxn : Nat) : State :=
  let e := kind * 2 ^ 124 + handle * 2 ^ 108 + tile * 2 ^ 102 + port * 2 ^ 96 + dxn * 2 ^ 82 + s.frame % 2 ^ 64
  ({ s with secLog := keepLast 64 (s.secLog ++ [e]) } : State).count (K.securityCounts (kind - 1)) 1

/-! ### Meters of the frame (R447, R450): fields by number, partitions 0 to 63 and 64 for the system -/

/-- Read bursts charged. -/
abbrev Mt.reads : Nat := 0
/-- Write bursts charged. -/
abbrev Mt.writes : Nat := 1
/-- Mover bytes committed. -/
abbrev Mt.mover : Nat := 2
/-- Transport bytes received under the partition's handle. -/
abbrev Mt.portIn : Nat := 3
/-- Transport bytes sent under the partition's handle. -/
abbrev Mt.portOut : Nat := 4
/-- Composite elements added. -/
abbrev Mt.elements : Nat := 5
/-- Activations charged. -/
abbrev Mt.acts : Nat := 6
/-- Context cycles charged. -/
abbrev Mt.cycles : Nat := 7
/-- Redistributed turns received beyond budget. -/
abbrev Mt.redist : Nat := 8
/-- Turns withheld by the gaffer. -/
abbrev Mt.withheld : Nat := 9
/-- Hammer events. -/
abbrev Mt.hammer : Nat := 10
/-- Faults. -/
abbrev Mt.faults : Nat := 11
/-- FLAGS of the record, as bits. -/
abbrev Mt.flags : Nat := 12
/-- Energy carried below 1 uJ, in pJ (R448). -/
abbrev Mt.carry : Nat := 13
/-- Governed allowance of the frame in uJ. -/
abbrev Mt.budget : Nat := 14
/-- Counts of the energy formula of R447 begin here. -/
abbrev Mt.energy : Nat := 16

/-- A meter's count. -/
def State.meterOf (s : State) (p f : Nat) : Nat := Tab.getD s.meter (p * 32 + f) 0
/-- Set a meter. -/
def State.setMeter (s : State) (p f v : Nat) : State := { s with meter := Tab.set s.meter (p * 32 + f) v }
/-- Add to a meter. -/
def State.meterAdd (s : State) (p f n : Nat) : State := s.setMeter p f (s.meterOf p f + n)
/-- Set a flag bit of the frame's record. -/
def State.meterFlag (s : State) (p b : Nat) : State := s.setMeter p Mt.flags (s.meterOf p Mt.flags ||| 2 ^ b)

/-- Record a fault of partition `p` in its dailies of this frame (R181, R212). -/
def State.noteFault (s : State) (p : Nat) : State := s.meterAdd p Mt.faults 1

/-! ### Waiting requests -/

/-- Make a request wait, behind those that wait already. -/
def State.hold (s : State) (w : Wait) (r : Req) : State := { s with waiting := s.waiting ++ [(w, r)] }

/-- The requests that wait for `w`, in order. -/
def State.waitersOf (s : State) (w : Wait) : List Req := (s.waiting.filter (fun e => e.1 = w)).map (·.2)

/-- Take the requests that wait for `w` off the list. -/
def State.dropWaiters (s : State) (w : Wait) : State := { s with waiting := s.waiting.filter (fun e => e.1 ≠ w) }

/-- A waiting request is taken off the list. -/
def State.takeWaiter (s : State) (w : Wait) (r : Req) : State :=
  { s with waiting := s.waiting.filter (fun e => !(e.1 = w ∧ e.2.port = r.port ∧ e.2.id = r.id)) }

/-- Send the requests that wait for `w` back to their home: HOME_RECHECK serves them. -/
def State.wake (s : State) (w : Wait) : State :=
  { s with waiting := s.waiting.map (fun e => if e.1 = w then (Wait.home, e.2) else e) }

/-- The requests that wait for `w`, each served by `f` in order, once taken off the list. -/
def State.release (s : State) (w : Wait) (f : State → Req → State) : State :=
  (s.waitersOf w).foldl f (s.dropWaiters w)

end Sys2Proof.Machine
end

