-- ==== Sys2Proof/Machine/Energy.lean ====
section
/-!
DEFINITION. Attributed energy, power budgets and allowances (21 R447, R455 to R457, R459, R460): what each slot counts for
each partition, and when governed work holds.
-/

namespace Sys2Proof.Machine

/-- The gaffer replaced. -/
def State.setGaff (s : State) (g : Gaffer) : State := { s with gaff := g }

/-- Count `n` units of kind `u` of R447's order for a partition at a slot. -/
def State.spend (s : State) (slot p u n : Nat) : State :=
  let k := (slot * 64 + p) * 16 + u
  s.setGaff { s.gaff with units := Tab.set s.gaff.units k (Tab.getD s.gaff.units k 0 + n) }

/-- Energy of `n` units of kind `u`, in 1/1024 pJ: units 5 to 7 are counted in MACs, unit 9 in bytes (R447). -/
def State.unitEnergy (s : State) (u n : Nat) : Nat :=
  s.rd (K.energyCoeffs u) * n * (if 5 ≤ u ∧ u ≤ 7 then 1 else if u = 9 then 16 else 1024)

/-- Governed energy of a partition at a slot in a table of units, in 1/1024 pJ. -/
def State.governedIn (s : State) (units : Tab Nat) (slot p : Nat) : Nat :=
  ((units.filter (fun e => e.1 / 16 = slot * 64 + p)).map (fun e => s.unitEnergy (e.1 % 16) e.2)).sum

/-- Governed energy of a partition at a slot in this frame, in 1/1024 pJ. -/
def State.drawn (s : State) (slot p : Nat) : Nat := s.governedIn s.gaff.units slot p

/-- 1 uJ in 1/1024 pJ. -/
abbrev microJ : Nat := 1024000000

/-- slot_budget_uj of R455. -/
def slotBudget (su reserve : Nat) : Nat := su * ((2200 - reserve) * 1000) * 250 / 4096 / 1000 / 32

/-- Power budget of a partition at each slot, uJ per frame. -/
def State.powerBudget (s : State) (p : Nat) : Nat := slotBudget (s.rd (K.powerShares p)) (s.rd K.systemReserveW)

/-- Package limit L of the window's state, in W (R459). -/
def Gaffer.limit (g : Gaffer) : Nat :=
  if g.peak = 2 then 2800 else if g.peak = 3 then [2650, 2500, 2350, 2200].getD g.closing 2200 else 2200

/-- The cut in force at a slot (R460). -/
def State.cutAt (s : State) (slot : Nat) : Nat := max s.gaff.cutPkg (s.rd (K.tileCut (s.tileAt slot)))

/-- Allowance of a partition at a slot before redistribution, in uJ (R460). -/
def State.allowance (s : State) (slot p : Nat) : Nat :=
  let c := s.cutAt slot
  let b := s.powerBudget p
  if c = 0 then b else min b (Tab.getD s.gaff.last (slot * 64 + p) 0 * (256 - c) / 256)

/-- What shared partitions may draw together at a slot, in uJ: their own allowances, the budget of unallocated shares, and
the headroom of an open window (R457, R459). -/
def State.sharedPool (s : State) (slot : Nat) : Nat :=
  let shared := (List.range 64).filter (fun p => !s.isSealed p)
  let free := 4096 - ((List.range 64).map (fun p => s.rd (K.powerShares p))).sum
  (shared.map (s.allowance slot)).sum + slotBudget free (s.rd K.systemReserveW) + (s.gaff.limit - 2200) * 250 / 32

/-- The governed work of `p` at the slot would hold but for redistribution: it has drawn its own allowance. -/
def State.pastAllowance (s : State) (slot p : Nat) : Bool :=
  !s.isSealed p && s.allowance slot p * microJ ≤ s.drawn slot p && (s.drawn slot p ≠ 0 || s.gaff.held.contains (slot * 64 + p))

/-- What redistribution adds to the allowance of `p` at a slot, in 1/1024 pJ: what the shared partitions leave of their pool,
in proportion to the shares of those whose work would hold; evenly where none of these has a share; nothing while a cut
stands there, or for a sealed partition (R51, R457, R461). -/
def State.lent (s : State) (slot p : Nat) : Nat :=
  if s.isSealed p || s.cutAt slot ≠ 0 then 0
  else
    let shared := (List.range 64).filter (fun q => !s.isSealed q)
    let wants := fun (q : Nat) => q = p || s.pastAllowance slot q
    let own := (shared.map (fun q => if wants q then s.allowance slot q * microJ else s.drawn slot q)).sum
    let shares := ((shared.filter (fun q => wants q)).map (fun q => s.rd (K.powerShares q))).sum
    let n := (shared.filter (fun q => wants q)).length
    let spare := s.sharedPool slot * microJ - own
    if shares = 0 then spare / n else spare * s.rd (K.powerShares p) / shares

/-- Governed energy of a partition at a slot has reached its allowance, redistribution included: its governed work holds until
the slate (R456, R457). -/
def State.reached (s : State) (slot p : Nat) : Bool := s.allowance slot p * microJ + s.lent slot p ≤ s.drawn slot p

/-- Note that governed work of a partition at a slot has been held in this frame. -/
def State.noteHeld (s : State) (slot p : Nat) : State :=
  let k := slot * 64 + p
  if s.gaff.held.contains k then s else s.setGaff { s.gaff with held := s.gaff.held ++ [k] }

/-- ALLOWANCE_REACHED: the event at slot `slot` for partition `p`. -/
def execAllowanceReached (slot p : Nat) (s : State) : Out :=
  .next (if slot < 32 ∧ p < 64 ∧ s.reached slot p = true then s.noteHeld slot p else s)

end Sys2Proof.Machine
end

