-- ==== Sys2Proof/Machine/Pool.lean ====
section
/-!
DEFINITION. Pool memory: the way from a pool virtual address to stored lines (ch. 06), the lines' code and key
(ch. 09, 17), fresh granules, ownership tags, and the accesses that every agent makes through them.
-/

namespace Sys2Proof.Machine

/-! ### Addresses (R135, R139, R184) -/

/-- Extent index VA[41:28]. -/
def vaIndex (va : Nat) : Nat := fld va 41 28
/-- VA_TAG VA[47:42]. -/
def vaTag (va : Nat) : Nat := fld va 47 42
/-- Granule of the extent VA[27:12]. -/
def vaGranule (va : Nat) : Nat := fld va 27 12
/-- Granule row in each slot's 8 MiB. -/
def vaRow (va : Nat) : Nat := vaGranule va / 32

/-- The hash of R139 for granule row `row` of extent number `ext`: its low five bits. -/
def slotHash (ext row : Nat) : Nat :=
  (row ^^^ (row / 2 ^ 5) ^^^ (row / 2 ^ 10) ^^^ ext ^^^ (ext / 2 ^ 5) ^^^ (ext / 2 ^ 10) ^^^ (ext / 2 ^ 15)) % 32

/-- slot_of (R139). -/
def slotOf (va : Nat) : Nat := (vaGranule va % 32) ^^^ slotHash (fld va 47 28) (vaRow va)

/-- Local address of a VA in device extent `dxn` (R139). -/
def localOf (va dxn : Nat) : Nat := dxn * 0x800000 + vaRow va * 0x1000 + va % 0x1000

/-- dpa_of (R139). -/
def dpaOf (va dxn tile : Nat) : Nat := tile * 2 ^ 37 + localOf va dxn

/-- Tile of a device physical address. -/
def dpaTile (dpa : Nat) : Nat := dpa / 2 ^ 37
/-- Local address of a device physical address. -/
def dpaLocal (dpa : Nat) : Nat := dpa % 2 ^ 37
/-- Device extent position of a local address (R184). -/
def dpos (a : Nat) : Nat := a / 2 ^ 23
/-- Pseudo-channel (R184). -/
def pcOf (a : Nat) : Nat := a / 2 ^ 12 % 32
/-- Line within the row (R184). -/
def colOf (a : Nat) : Nat := a / 2 ^ 7 % 32
/-- Bank group (R184). -/
def grpOf (a : Nat) : Nat := dpos a % 12
/-- Bank (R184). -/
def bankOf (a : Nat) : Nat := 4 * grpOf a + (a / 2 ^ 17 % 64) % 4
/-- Row of the bank (R184). -/
def rowOf (a : Nat) : Nat := dpos a / 12 * 16 + (a / 2 ^ 17 % 64) / 4

/-- The VA's bits [27:12] from the slot, the row and the extent number: slot_of inverted. -/
def vaOfSlot (ext row slot off : Nat) : Nat :=
  ext * 2 ^ 28 + (row * 32 + (slot ^^^ slotHash ext row)) * 2 ^ 12 + off

/-! ### Extent map entries (R137) -/

/-- Live extent map entry `i` of partition `p`. -/
def State.entry (s : State) (p i : Nat) : Nat := s.rd (K.extentMap p i)
/-- VALID. -/
def eValid (e : Nat) : Bool := bit e 63
/-- KIND: 0 PLAIN, 1 COHERENT, 2 REEL, 3 PUBLISH. -/
def eKind (e : Nat) : Nat := fld e 62 60
/-- SEALED. -/
def eSealed (e : Nat) : Bool := bit e 59
/-- RETAINED. -/
def eRetained (e : Nat) : Bool := bit e 58
/-- MIRRORED. -/
def eMirrored (e : Nat) : Bool := bit e 57
/-- PAIRED. -/
def ePaired (e : Nat) : Bool := bit e 56
/-- VA_TAG. -/
def eTag (e : Nat) : Nat := fld e 55 50
/-- DXN. -/
def eDxn (e : Nat) : Nat := fld e 49 36
/-- MIRROR_DXN. -/
def eMirror (e : Nat) : Nat := fld e 35 22
/-- HELD. -/
def eHeld (e : Nat) : Bool := bit e 12
/-- HOLDER. -/
def eHolder (e : Nat) : Nat := fld e 11 0

/-- The entry that maps an address of partition `p`, if one does (R135). -/
def State.mapped (s : State) (p va : Nat) : Option Nat :=
  let e := s.entry p (vaIndex va)
  if eValid e && eTag e = vaTag va && va < 2 ^ 48 then some e else none

/-- Home tile of an address (R139). -/
def State.homeTile (s : State) (va : Nat) : Nat := s.tileAt (slotOf va)

/-- Home physical address of a mapped address. -/
def State.homeDpa (s : State) (e va : Nat) : Nat := dpaOf va (eDxn e) (s.homeTile va)

/-- Tile of the mirror copy (R232). -/
def State.mirrorTile (s : State) (va : Nat) : Nat := s.tileAt (s.rd (K.mirrorPairs (slotOf va)))

/-- Physical address of the mirror copy (R232). -/
def State.mirrorDpa (s : State) (e va : Nat) : Nat := dpaOf va (eMirror e) (s.mirrorTile va)

/-- The extent-map element that names device extent `d`, as home or mirror copy: (partition, extent index, entry). -/
def State.extentOf (s : State) (d : Nat) : Option (Nat × Nat × Nat) :=
  s.regs.findSome? (fun kv =>
    let idx := kv.1 / 4294967296
    if 0x3400 ≤ idx && idx < 0x3440 && kv.1 / 16777216 % 256 = 1 && eValid kv.2
        && (eDxn kv.2 = d || (eMirrored kv.2 && eMirror kv.2 = d))
    then some (idx - 0x3400, kv.1 % 16777216, kv.2) else none)

/-! ### Ownership tags and fresh granules (R140, R143) -/

/-- Tag of a device frame at local address `a` (R140): the reserved area is unowned. -/
def State.tagOf (s : State) (a : Nat) : Nat := Tab.getD s.tags (dpos a) 0

/-- The granule at a physical address is fresh (R143). -/
def State.isFresh (s : State) (dpa : Nat) : Bool := !s.written.contains (dpa / 4096)

/-- Insert into a rising list. -/
def insertRising (l : List Nat) (x : Nat) : List Nat :=
  match l with
  | [] => [x]
  | a :: t => if x < a then x :: a :: t else if x = a then a :: t else a :: insertRising t x

/-- Clear a granule's fresh bit. -/
def State.clearFresh (s : State) (dpa : Nat) : State := { s with written := insertRising s.written (dpa / 4096) }

/-- Device extent `d` owns granule `g` (physical address / 4096) on some tile. -/
def granuleIn (d g : Nat) : Bool := (g % 2 ^ 25) / 2048 = d

/-- Set every fresh bit of a device extent (R144 step 2). -/
def State.setFresh (s : State) (d : Nat) : State := { s with written := s.written.filter (fun g => !granuleIn d g) }

/-! ### Stored bytes, errors and lines (R204) -/

/-- A byte of pool memory: an unlisted byte reads 0, the fill of R217. -/
def State.byteAt (s : State) (dpa : Nat) : Byte := (Tab.find s.mem dpa).getD 0#8

/-- Memory with one byte written, in canonical form: a zero byte is not listed. -/
def memPut (m : List Host.Cell) (a : Nat) (b : Byte) : List Host.Cell :=
  if b = 0#8 then Tab.erase m a else Tab.set m a b

/-- Memory with consecutive bytes written. -/
def memPuts (m : List Host.Cell) (a : Nat) : List Byte → List Host.Cell
  | [] => m
  | b :: t => memPuts (memPut m a b) (a + 1) t

/-- The canonical form: addresses strictly rising, no listed byte zero. -/
abbrev Memory.wf (m : List Host.Cell) : Prop :=
  (m.map (·.1)).Pairwise (· < ·) ∧ ∀ c ∈ m, c.2 ≠ 0#8

/-- Bytes of memory from an address. -/
def State.bytesAt (s : State) (dpa n : Nat) : List Byte := (List.range n).map (fun i => s.byteAt (dpa + i))

/-- The error pattern of line `ln` (physical address / 128) that memory holds. -/
def State.errsOf (s : State) (ln : Nat) : List (Nat × Nat) :=
  (s.errs.filter (fun e => e.1 / 144 = ln)).map (fun e => (e.1 % 144, e.2))

/-- Replace the error pattern of a line. -/
def State.setErrs (s : State) (ln : Nat) (e : List (Nat × Nat)) : State :=
  let base := Tab.eraseIf s.errs (fun k => k / 144 = ln)
  { s with errs := e.foldl (fun t y => if y.2 = 0 then t else Tab.set t (ln * 144 + y.1) y.2) base }

/-- Combine two error patterns. -/
def addErrs (a b : List (Nat × Nat)) : List (Nat × Nat) :=
  (b.foldl (fun t y => Tab.set t y.1 (Tab.getD t y.1 0 ^^^ y.2)) (a.foldl (fun t y => Tab.set t y.1 y.2) ([] : Tab Nat))).filter
    (fun y => y.2 ≠ 0)

/-- The retired die in force at a tile's stack (R207). -/
def State.retiredDie (s : State) (t : Nat) : Option Nat :=
  let v := s.rd (K.dieRetire t)
  if v < 18 ∧ (s.stack t).retireWait = none then some v else none

/-- Key state of a device extent (R382): 0 EMPTY, 1 LIVE, 2 ERASING, 3 LOST. -/
def State.keySt (s : State) (d : Nat) : Nat := s.rd (K.keyState d)

/-- Decode line `ln` with transient errors `noise` (R206); a lost key (R384) or a lost stack (R234) reads as uncorrectable. -/
def State.decode (s : State) (ln : Nat) (noise : List (Nat × Nat)) : LineState :=
  let t := ln / 2 ^ 30
  let d := dpos (dpaLocal (ln * 128))
  if (s.stack t).lost then .uncorrectable
  else if d < 16256 ∧ s.keySt d = 3 then .uncorrectable
  else classify (s.retiredDie t) (addErrs (s.errsOf ln) noise)

/-- Line bytes with the errors `e` of data symbols 0 to 127 added: symbol d_k is byte k (R204). -/
def addToBytes (d : List Byte) (e : List (Nat × Nat)) : List Byte :=
  e.foldl (fun d y => modifyAt d y.1 (fun b => b ^^^ BitVec.ofNat 8 y.2)) d

/-- The deciphered data of a decoded line. Where the accepted pattern is not the true error, what is deciphered is the line as
stored with what is left of the error (R206). -/
def State.lineData (s : State) (ln : Nat) (noise : List (Nat × Nat)) (st : LineState) : List Byte :=
  let d := s.bytesAt (ln * 128) 128
  let read := addErrs (s.errsOf ln) noise
  let give := fun (left : List (Nat × Nat)) =>
    let k := Tab.getD s.lineKey ln 0
    if (left.filter (fun y => y.1 < 128)).isEmpty then d
    else if k / 2 ^ 35 = 0 then addToBytes d left
    else Config.unxts (k / 2 ^ 35) (k % 2 ^ 35) (addToBytes (Config.xts (k / 2 ^ 35) (k % 2 ^ 35) d) left)
  match st with
  | .clean => give read
  | .corrected f => give (addErrs read f)
  | _ => List.replicate 128 0#8

/-- Log an integrity event of a line and, when it is a correction, attribute it to its die (R218, R219, R221). -/
def State.errEvent (s : State) (kind ln : Nat) (fix : List (Nat × Nat)) : State :=
  let t := ln / 2 ^ 30
  let a := dpaLocal (ln * 128)
  let die := (soleDie fix).getD 31
  let e := kind * 2 ^ 124 + s.tagOf a * 2 ^ 108 + pcOf a * 2 ^ 103 + bankOf a * 2 ^ 97 + rowOf a % 2 ^ 15 * 2 ^ 82
    + colOf a * 2 ^ 77 + die * 2 ^ 72 + min fix.length 15 * 2 ^ 68 + s.frame % 2 ^ 64
  let s := s.updStack t (fun k => { k with
    errLog := keepLast 64 (k.errLog ++ [e])
    corrections := if die < 18 then k.corrections ++ [(s.frame, die, (pcOf a * 48 + bankOf a) * 32768 + rowOf a)]
      else k.corrections })
  if die < 18 then s.count (K.dieCorrections t die) 1 else s

/-- Queue a burst at a stack and charge it (R191, R193); handle 0 is the system. A read of a line with a write queued is
held behind it and counted (R192). A lost stack takes none. -/
def State.burst (s : State) (ln handle : Nat) (wr : Bool) : State :=
  let t := ln / 2 ^ 30
  let p := if handle = 0 then 64 else handlePart handle
  let k := s.stack t
  let held := !wr && k.queue.any (fun c => c.wr && c.line = ln % 2 ^ 30)
  let s1 := if k.lost then s else s.setStack t { k with queue := k.queue ++ [⟨ln % 2 ^ 30, handle, wr⟩] }
  let s2 := s1.meterAdd p (if wr then Mt.writes else Mt.reads) 1
  if held then s2.count (K.stackCounts t 6) 1 else s2

/-- A write of the line has entered the queues: a signature write or a scrub correction of it that waits is dropped and counted
(R210). -/
def State.overtake (s : State) (ln : Nat) : State :=
  let t := ln / 2 ^ 30
  let k := s.stack t
  let n := b2n (k.signWait.contains ln) + b2n (Tab.find k.fixWait ln).isSome
  if n = 0 then s
  else (s.setStack t { k with signWait := k.signWait.filter (· ≠ ln), fixWait := Tab.erase k.fixWait ln }).count
    (K.integrityCounts t 7) n

/-- Store a whole line, clean, under key `key` and data unit `unit` (key 0: raw); a system write-back of the line that waits is
overtaken (R210). -/
def State.putLine (s : State) (ln : Nat) (d : List Byte) (key unit : Nat) : State :=
  let s := { s with
    mem := memPuts s.mem (ln * 128) (slice d 0 128)
    lineKey := if key = 0 then Tab.erase s.lineKey ln else Tab.set s.lineKey ln (key * 2 ^ 35 + unit) }
  (s.setErrs ln []).overtake ln

/-- A line as the poison signature leaves it (R208). -/
def State.signLine (s : State) (ln : Nat) : State :=
  let s := { s with
    mem := memPuts s.mem (ln * 128) (List.replicate 128 0#8)
    lineKey := Tab.erase s.lineKey ln }
  (s.setErrs ln poisonErrs).count (K.integrityCounts (ln / 2 ^ 30) 6) 1

/-- Write the poison signature to a line as a system write (R208, R209). -/
def State.poisonLine (s : State) (ln : Nat) : State := (s.signLine ln).burst ln 0 true

/-- The data unit number of a line (R381). -/
def dataUnit (dxn va : Nat) : Nat := dxn * 2 ^ 21 + fld va 27 7

/-! ### Keys (R382) -/

/-- The tile that draws the key of device extent `d`: its key home, or the next in-service tile whose DRBG is healthy. -/
def State.keyDrawer (s : State) (d : Nat) : Option Nat :=
  let k := s.tileAt (d % 32)
  if s.rd (K.drbgStatus k) = 1 then some k
  else ((List.range 36).map (fun i => (k + 1 + i) % 36)).find? (fun t => s.inService t && s.rd (K.drbgStatus t) = 1)

/-- Draw a new key for a device extent and make it LIVE (R382). -/
def State.drawKey (s : State) (d : Nat) : State :=
  match s.keyDrawer d with
  | none => s
  | some _ => ({ s with keysDrawn := s.keysDrawn + 1, keyIds := Tab.set s.keyIds d (s.keysDrawn + 1) } : State).wr (K.keyState d) 1

/-- The key number of a device extent. -/
def State.keyOf (s : State) (d : Nat) : Nat := Tab.getD s.keyIds d 0

/-! ### Reading lines -/

/-- What a consumer is given for a line (R212). -/
inductive LineGot where
  /-- 128 bytes. -/
  | data (d : List Byte)
  /-- Uncorrectable or poisoned after any recovery; `first` when an uncorrectable line's one retry is still to be made. -/
  | bad (first : Bool)
deriving DecidableEq, Repr

/-- The transient errors that one read of a line meets: of those given, symbols 0 to 143 for the first read, and 144 higher for its
retry (R209). -/
def readNoise (noise : List (Nat × Nat)) (retry : Bool) : List (Nat × Nat) :=
  (noise.filter (fun e => decide (144 ≤ e.1) = retry)).map (fun e => (e.1 % 144, e.2))

/-- Outcome of one decode on demand, with its counts and log entries (R209, R219); `retry` for the second read. -/
def State.demand (s : State) (ln handle : Nat) (noise : List (Nat × Nat)) (retry : Bool) : LineGot × State :=
  let t := ln / 2 ^ 30
  let noise := readNoise noise retry
  let st := s.decode ln noise
  let s1 := (s.burst ln handle false).count (K.integrityCounts t 0) 1
  match st with
  | .clean =>
    (.data (s.lineData ln noise st), if retry then (s1.count (K.integrityCounts t 2) 1).errEvent 2 ln [] else s1)
  | .corrected f =>
    (.data (s.lineData ln noise st),
      if retry then (s1.count (K.integrityCounts t 2) 1).errEvent 2 ln f
      else (s1.count (K.integrityCounts t 1) 1).errEvent 1 ln f)
  | .poisoned f => (.bad false, s1.errEvent 6 ln f)
  | .uncorrectable =>
    if retry || (s.stack t).lost then
      let s2 := (s1.count (K.integrityCounts t 3) 1).errEvent 3 ln []
      (.bad false, if (s.stack t).lost then s2
        else s2.updStack t (fun k => { k with signWait := k.signWait ++ [ln], badReads := k.badReads + 1 }))
    else (.bad true, s1)

/-- The stack that homes an address is halted and holds every request (08 R196). -/
def State.halts (s : State) (va : Nat) : Bool := s.rd (K.stackState (s.homeTile va)) = 5

/-- Rewrite a home line from its mirror copy (R213, R233). -/
def State.repairFrom (s : State) (ln : Nat) (d : List Byte) (key unit : Nat) : State :=
  (((s.putLine ln d key unit).burst ln 0 true).errEvent 8 ln [])

/-- Read line `m`, the other copy of a line, under the system handle: its data, if it decodes (R142, R213). -/
def State.readOther (s : State) (m : Nat) : Option (List Byte) × State :=
  let t := m / 2 ^ 30
  if (s.stack t).lost then (none, s)
  else
    let s1 := (s.burst m 0 false).count (K.integrityCounts t 0) 1
    match s.decode m [] with
    | .clean => (some (s.lineData m [] .clean), s1)
    | .corrected f => (some (s.lineData m [] (.corrected f)), (s1.count (K.integrityCounts t 1) 1).errEvent 1 m f)
    | _ => (none, s1)

/-- Read one line of a mapped extent for a consumer: zeros from a fresh granule, the mirror copy where the home stack is
lost or the home line is bad, else the home line (R143, R213, R234). `retried` says the line's retry has been made. -/
def State.readLine (s : State) (e va handle : Nat) (noise : List (Nat × Nat)) (retried : Bool) : LineGot × State :=
  let dpa := s.homeDpa e va
  let ln := dpa / 128
  let key := s.keyOf (eDxn e)
  let unit := dataUnit (eDxn e) va
  if s.isFresh dpa then (.data (List.replicate 128 0#8), s)
  else
    let r := if (s.stack (dpaTile dpa)).lost && eMirrored e then (LineGot.bad false, s) else s.demand ln handle noise retried
    match r.1 with
    | .data d => (.data d, r.2)
    | .bad first =>
      if eMirrored e && s.decode ln (readNoise noise retried) = .uncorrectable then
        let o := r.2.readOther (s.mirrorDpa e va / 128)
        match o.1 with
        | some d => (.data d, if (s.stack (dpaTile dpa)).lost then o.2 else o.2.repairFrom ln d key unit)
        | none => (.bad first, o.2)
      else (.bad first, r.2)

/-- Read one line with its retry made at once, as the part's own agents do (log entry 13). -/
def State.readFinal (s : State) (e va handle : Nat) (noise : List (Nat × Nat)) : LineGot × State :=
  let r := s.readLine e va handle noise false
  match r.1 with
  | .bad true => r.2.readLine e va handle noise true
  | _ => r

/-- The addresses of the lines that [va, va+len) touches. -/
def linesOf (va len : Nat) : List Nat :=
  if len = 0 then [] else (List.range ((va + len - 1) / 128 + 1 - va / 128)).map (fun i => (va / 128 + i) * 128)

/-! ### Writing lines -/

/-- Write the whole granule that holds `dpa` under the extent key, line `d` at `dpa` and zeros elsewhere, and clear its fresh bit;
its 32 lines are charged to the handle (R143). `va` is an address of the granule. -/
def State.firstWrite (s : State) (dpa key dxn va handle : Nat) (d : List Byte) : State :=
  let g := dpa / 4096 * 4096
  let gv := va / 4096 * 4096
  ((List.range 32).foldl (fun s i =>
    let l := if g / 128 + i = dpa / 128 then d else List.replicate 128 0#8
    (s.putLine (g / 128 + i) l key (dataUnit dxn (gv + 128 * i))).burst (g / 128 + i) handle true) s).clearFresh dpa

/-- The copy of slot `slot`'s granule `g` (local address / 4096) that a relocation keeps beside the one in service: at the target
once the copy has passed the granule, and at the source while it drains (01 R27, R227). -/
def Reloc.twin (r : Reloc) (slot g : Nat) : Option Nat :=
  if r.slot ≠ slot then none
  else if r.step = 8 then some r.source
  else if (5 ≤ r.step ∧ r.step < 8) ∨ (r.step = 4 ∧ g < r.cursor) then some r.target
  else none

/-- The copies of a home line that a write for `handle` goes to: (physical address, device extent, handle), home first. A lost
stack takes no write of a mirrored extent (R234); a relocation's other tile takes every write that concerns it (R27, R227).
Mirror and relocation copies carry the system handle (R142). -/
def State.copies (s : State) (e va handle : Nat) : List (Nat × Nat × Nat) :=
  let home := (s.homeDpa e va, eDxn e, handle)
  let mir := (s.mirrorDpa e va, eMirror e, 0)
  let twin := fun (slot : Nat) (c : Nat × Nat × Nat) =>
    match s.cont.reloc.bind (fun r => r.twin slot (dpaLocal c.1 / 4096)) with
    | some t => [(t * 2 ^ 37 + dpaLocal c.1, c.2.1, 0)]
    | none => []
  let base := (if eMirrored e then
      (if (s.stack (dpaTile home.1)).lost then [] else [home]) ++
      (if (s.stack (dpaTile mir.1)).lost then [] else [mir])
    else [home])
  base ++ twin (slotOf va) home ++ (if eMirrored e then twin (s.rd (K.mirrorPairs (slotOf va))) mir else [])

/-- A first write clears the fresh bits of both copies of a mirrored extent, one on a lost stack too (R233). -/
def State.bothFresh (s : State) (e va : Nat) : State :=
  if eMirrored e then (s.clearFresh (s.homeDpa e va)).clearFresh (s.mirrorDpa e va) else s

/-- The whole line that a piece makes (R192): itself, or the line read under R213 with the piece merged. -/
def State.merged (s : State) (e va : Nat) (d : List Byte) (handle : Nat) (noise : List (Nat × Nat)) : LineGot × State :=
  if d.length = 128 then (.data d, s)
  else
    let r := s.readFinal e (va / 128 * 128) handle noise
    match r.1 with
    | .data old => (.data (splice old (va % 128) d), r.2)
    | .bad b => (.bad b, r.2)

/-- Write a whole line to one copy: a fresh granule is written whole (R143). `paid` lists the granules, by physical address / 4096,
that this access has already written and been charged for whole. -/
def State.putCopy (s : State) (dpa va dxn handle : Nat) (paid : List Nat) (d : List Byte) : State :=
  let key := s.keyOf dxn
  if s.isFresh dpa then s.firstWrite dpa key dxn va handle d
  else
    let s := s.putLine (dpa / 128) d key (dataUnit dxn va)
    if paid.contains (dpa / 4096) then s else s.burst (dpa / 128) handle true

/-- Write the poison signature to one copy of a line, in place of a write's data: a fresh granule is zero-filled first,
since the write of the signature is its first write (R143, R208). It overtakes a system write-back of the line (R210). -/
def State.poisonCopy (s : State) (dpa va dxn handle : Nat) : State :=
  let s := s.overtake (dpa / 128)
  if s.isFresh dpa then
    let k := if s.keySt dxn = 0 then s.drawKey dxn else s
    (k.firstWrite dpa (k.keyOf dxn) dxn va handle (List.replicate 128 0#8)).signLine (dpa / 128)
  else (s.signLine (dpa / 128)).burst (dpa / 128) handle true

/-- Write the poison signature to every copy of the line at `va` whose stack is not lost (R208, R233). -/
def State.poisonCopies (s : State) (e va handle : Nat) : State :=
  ((s.copies e va handle).foldl (fun s c =>
    if (s.stack (dpaTile c.1)).lost then s else s.poisonCopy c.1 va c.2.1 c.2.2) s).bothFresh e va

/-- A write to a line whose home stack is lost and that has no mirror copy stores nothing (R234), unless a rebuild has passed
it or the stack was lost while it was being copied: then the target takes the write as a write to a poisoned line (R227, R230). -/
def State.lostPiece (s : State) (e va : Nat) (d : List Byte) : Bool × State :=
  match s.cont.reloc with
  | none => (false, s)
  | some r =>
    let a := r.target * 2 ^ 37 + dpaLocal (s.homeDpa e va)
    let passed := decide ((5 ≤ r.step ∧ r.step < 8) ∨ (r.step = 4 ∧ dpaLocal a / 4096 < r.cursor))
    if r.slot ≠ slotOf va ∨ !(passed || (r.conv && r.step = 4)) then (false, s)
    else if d.length = 128 then
      ((true, (s.setCont { s.cont with reloc := some { r with excess := r.excess ++ [a / 128] } }).putCopy a (va / 128 * 128) (eDxn e)
        0 [] d))
    else if (passed || r.excess.contains (a / 128)) && s.decode (a / 128) [] = .clean then
      (true, s.putCopy a (va / 128 * 128) (eDxn e) 0 [] (splice (s.bytesAt (a / 128 * 128) 128) (va % 128) d))
    else (false, s)

/-- Write one line-bounded piece `d` at `va` to every copy of its line (R143, R233, R227); `paid` as in `putCopy`. `false` when the
line to merge with is bad, or when the home stack is lost and the extent has no mirror copy (R212, R234). -/
def State.writePiece (s : State) (e va : Nat) (d : List Byte) (handle : Nat) (paid : List Nat) (noise : List (Nat × Nat)) :
    Bool × State :=
  if (s.stack (s.homeTile va)).lost && !eMirrored e then s.lostPiece e va d
  else
    let m := s.merged e va d handle noise
    match m.1 with
    | .bad _ => (false, m.2)
    | .data l => (true, ((s.copies e va handle).foldl (fun s c =>
        s.putCopy c.1 (va / 128 * 128) (eDxn e) c.2.2 paid l) m.2).bothFresh e va)

/-- The line-bounded pieces of bytes `d` at `va`: (address, bytes). -/
def pieces (va : Nat) (d : List Byte) : List (Nat × List Byte) :=
  (linesOf va d.length).map (fun l =>
    let a := max l va
    (a, (d.drop (a - va)).take (l + 128 - a)))

/-- The errors that reads of the `i`-th line of an access meet, of those that an operand lists as (i*288 + symbol, xor); the symbols
of the line's retry are 144 higher. -/
def noiseOf (noise : List (Nat × Nat)) (i : Nat) : List (Nat × Nat) :=
  (noise.filter (fun e => e.1 / 288 = i)).map (fun e => (e.1 % 288, e.2))

/-- Write bytes of one granule, every line that can be written (R106): for each line touched, whether it was. -/
def State.writeBytes (s : State) (e va : Nat) (d : List Byte) (handle : Nat) (noise : List (Nat × Nat)) : List Bool × State :=
  let paid := ((s.copies e va handle).map (fun c => c.1)).filter s.isFresh |>.map (· / 4096)
  (pieces va d).foldl (fun r q =>
    let w := r.2.writePiece e q.1 q.2 handle paid (noiseOf noise (q.1 / 128 - va / 128))
    (r.1 ++ [w.1], w.2)) ([], s)

/-! ### The tag check (R142) -/

/-- The ownership tag of the frame that holds an address equals the handle (R106 step 14). -/
def State.tagOk (s : State) (e va handle : Nat) : Bool := s.tagOf (localOf va (eDxn e)) = handle

/-- Log a tag refusal at the home's stack controller (R142, R202). -/
def State.tagRefusal (s : State) (e va handle port : Nat) : State :=
  (s.security 1 handle (s.homeTile va) port (eDxn e)).count (K.stackCounts (s.homeTile va) 9) 1

end Sys2Proof.Machine
end

