-- ==== Sys2Proof/Machine/Transport.lean ====
section
/-!
DEFINITION. The Stohar transport (ch. 04): messages out, responses with the completion cache, the port engine's checks on
arrival (R105), tags of the part's own requests, fences and shares.
-/

namespace Sys2Proof.Machine

/-! ### Opcodes (R96) -/

/-- Virtual channel of a message type. -/
def vcOf (op : Nat) : Nat :=
  if 128 ≤ op then 1 else if [0x38, 0x39, 0x3A].contains op then 2
  else if [0x20, 0x53, 0x54, 0x58].contains op then 3 else 0

/-- Opcode of the response to a request whose status alone is sent (DEDUCED, log entry 14). -/
def respOp (op : Nat) : Nat :=
  if op = 0x30 ∨ op = 0x31 then 0xB0 else if op = 0x32 then 0xB1
  else if op = 0x33 ∨ op = 0x34 ∨ op = 0x35 then 0xB3 else (op % 128) + 128

/-- Requests that the part receives and executes. -/
def receivedOps : List Nat :=
  [0x01, 0x02, 0x03, 0x04, 0x05, 0x10, 0x11, 0x12, 0x20, 0x30, 0x31, 0x32, 0x33, 0x34, 0x35, 0x51, 0x58, 0x60, 0x62, 0x63,
   0x70, 0x71]

/-- Every opcode that the catalogue lists. -/
def listedOps : List Nat :=
  receivedOps ++ [0x38, 0x39, 0x3A, 0x40, 0x50, 0x52, 0x53, 0x54] ++
  [0x81, 0x82, 0x83, 0x84, 0x85, 0x90, 0x91, 0x92, 0xA0, 0xB0, 0xB1, 0xB3, 0xB8, 0xB9, 0xBA, 0xC0, 0xD0, 0xD1, 0xD2, 0xD3,
   0xD4, 0xD8, 0xE0, 0xE2, 0xE3, 0xF0, 0xF1]

/-- Class C: answered from the completion cache. -/
def classC (op : Nat) : Bool := [0x03, 0x10, 0x11, 0x20, 0x60, 0x63].contains op

/-- Requests that carry no binding handle and skip checks 5 to 8 (R105). -/
def noBinding (op : Nat) : Bool := [0x70, 0x71, 0x51, 0x58].contains op

/-- The binding right bits of R146 that a request needs. -/
def rightsOf (op : Nat) : List Nat :=
  if op = 0x01 then [32] else if op = 0x02 then [33] else if op = 0x03 then [34]
  else if op = 0x10 then [35] else if op = 0x11 ∨ op = 0x12 then [36] else if op = 0x20 then [37]
  else if op = 0x30 then [38, 32] else if op = 0x31 ∨ op = 0x32 ∨ op = 0x33 ∨ op = 0x34 then [38, 33]
  else if op = 0x35 then [38] else if op = 0x60 ∨ op = 0x62 ∨ op = 0x63 then [39] else []

/-! ### Lengths and encodings (R98 to R104, step 4 of R105) -/

/-- Round up to a multiple of 8 (R93). -/
def pad8 (n : Nat) : Nat := (n + 7) / 8 * 8

/-- An address and a length of a memory access: a pool VA, 1 to 4,096 bytes, within one granule (R98). -/
def rangeOk (addr len : Nat) : Bool :=
  addr < 2 ^ 48 && 1 ≤ len && len ≤ 4096 && addr / 4096 = (addr + len - 1) / 4096

/-- OP and SIZE of an ATOMIC are a row of R100. -/
def atomicOk (op size : Nat) : Bool :=
  if op = 1 ∨ op = 2 then size = 4 || size = 8 || size = 16
  else if op = 10 then size = 4
  else op ≤ 9 && (size = 4 || size = 8)

/-- Data bytes of `count` elements of a format that a composite may have (R347): FP32 and INT32 take four bytes, FP16 and
BF16 two, the others one. -/
def contribDataLen (fmt count : Nat) : Nat :=
  if fmt = 0x00 ∨ fmt = 0x13 then 4 * count else if fmt = 0x01 ∨ fmt = 0x02 then 2 * count else count

/-- LENGTH fits the opcode, no reserved encoding, lengths, alignment and granule rule met (R105 step 4). -/
def formOk (op len : Nat) (b : List Byte) : Bool :=
  let a := leAt b 0 8
  if op = 0x01 then len = 32 && rangeOk a (leAt b 8 2)
  else if op = 0x02 then len = 32 + pad8 (leAt b 8 2) && rangeOk a (leAt b 8 2)
  else if op = 0x03 then
    len = 64 && a < 2 ^ 48 && atomicOk (leAt b 8 1) (leAt b 9 1) && a % leAt b 9 1 = 0
  else if op = 0x04 ∨ op = 0x05 then len = 16
  else if op = 0x10 then len = 80
  else if op = 0x11 then len = 32
  else if op = 0x12 then len = 24
  else if op = 0x20 then
    let c := leAt b 6 2
    let o := leAt b 8 4
    1 ≤ c && leAt b 12 1 ≤ 0x13 && o / 4096 = (o + c - 1) / 4096 && contribDataLen (leAt b 12 1) c ≤ 4096
      && len = 32 + pad8 (contribDataLen (leAt b 12 1) c)
  else if op = 0x34 then len = 160 && a < 2 ^ 48 && a % 128 = 0
  else if 0x30 ≤ op ∧ op ≤ 0x35 then len = 32 && a < 2 ^ 48 && a % 128 = 0
  else if op = 0x51 then len = 40
  else if op = 0x58 then
    let l := leAt b 16 2
    len = 40 + l && 128 ≤ l && l ≤ 4096 && l % 128 = 0
  else if op = 0x60 then len = 32
  else if op = 0x62 ∨ op = 0x63 then
    let o := leAt b 0 4
    let l := leAt b 4 2
    o % 8 = 0 && 8 ≤ l && l ≤ 256 && l % 8 = 0 && o + l ≤ 65536 && len = if op = 0x62 then 24 else 24 + l
  else if op = 0x70 ∨ op = 0x71 then
    let l := leAt b 0 2
    1 ≤ l && l ≤ 4096 && len = 24 + pad8 l
  else false

/-! ### Messages out -/

/-- A payload in the body of SPDM, MGMT and their responses (04 R104). -/
def mgmtBody (m : List Byte) : List Byte := toLE 2 m.length ++ toLE 6 0 ++ padTo (pad8 m.length) m

/-- Bytes of a message, header and padding included (R93). -/
def Msg.bytes (m : Msg) : Nat := 16 + pad8 m.body.length

/-- The message as carried: the header of R94, the body, and zero padding. -/
def Msg.encode (m : Msg) : List Byte :=
  toLE 1 m.op ++ toLE 1 m.flags ++ toLE 2 m.bytes ++ toLE 2 m.src ++ toLE 2 m.dst ++ toLE 2 m.handle ++ toLE 2 m.tag
    ++ toLE 1 (m.epoch % 4) ++ toLE 1 0 ++ toLE 2 m.status ++ padTo (pad8 m.body.length) m.body

/-- Put a message in a port's outgoing order, metered to its handle's partition (R450). -/
def State.send (s : State) (port : Nat) (m : Msg) : State :=
  let s := s.updPort port (fun q => { q with out := q.out ++ [m] })
  if m.handle = 0 then s else s.meterAdd (handlePart m.handle) Mt.portOut m.bytes

/-- Send a response (R95, R97): header alone unless its body goes with its status. -/
def State.sendResp (s : State) (port : Nat) (m : Msg) : State := (s.send port m).count (K.transportCounts port 1) 1

/-- Answer a request that is not accepted, from its header alone. -/
def State.refuse (s : State) (port op : Nat) (h : Hdr) (st : Nat) : State :=
  let s := if st = Code.unsupported then s.count (K.transportCounts port 3) 1
    else if st = Code.busy then s.count (K.transportCounts port 4) 1 else s
  s.sendResp port ⟨1, respOp op, 0, h.dst, h.src, h.handle, h.tag, h.epoch, st, []⟩

/-- Answer an accepted request: it stops being pending; a class C result enters the completion cache in place of one of the same
TAG and EPOCH, while the request is among its binding's most recent (R115); and the response of a request whose link session
has ended is dropped and counted (R113). Retries that waited for it are answered from the cache, unless their own session
has ended (R113, R114). -/
def State.answer (s : State) (r : Req) (op st : Nat) (body : List Byte) : State :=
  let q := s.port r.port
  let m : Msg := ⟨1, op, 0, r.h.dst, r.h.src, r.h.handle, r.h.tag, r.h.epoch, st, body⟩
  let cache := if classC r.op ∧ r.bind < 4096 then
      let ent : CacheEnt := ⟨r.bind, r.h.tag, r.h.epoch, m, s.frame, r.id⟩
      let other := q.cache.filter (fun c => !(c.bind = r.bind && c.tag = r.h.tag && c.epoch % 4 = r.h.epoch % 4))
      if (Tab.getD q.recent r.bind []).contains r.id then other ++ [ent] else other
    else q.cache
  let s1 := s.setPort r.port { q with pending := q.pending.filter (fun x => x.id ≠ r.id), cache := cache }
  let s2 := if r.link = q.linkNo then s1.sendResp r.port m else s1.count (K.transportCounts r.port 7) 1
  let twins := (s2.waitersOf .firstResp).filter (fun x =>
    x.port = r.port ∧ x.bind = r.bind ∧ x.h.tag = r.h.tag ∧ x.h.epoch = r.h.epoch)
  if classC r.op then
    twins.foldl (fun s x =>
      let s := { s with waiting := s.waiting.filter (fun e => !(e.1 = Wait.firstResp ∧ e.2.id = x.id ∧ e.2.port = x.port)) }
      let s := s.updPort r.port (fun q => { q with pending := q.pending.filter (fun y => y.id ≠ x.id) })
      if x.link = q.linkNo then (s.sendResp r.port m).count (K.transportCounts r.port 5) 1
      else s.count (K.transportCounts r.port 7) 1) s2
  else s2

/-- Answer with a status alone. -/
def State.answerSt (s : State) (r : Req) (st : Nat) : State := s.answer r (respOp r.op) st []

/-! ### Admission (R117) -/

/-- The port is admitted. -/
def State.admitted (s : State) (port : Nat) : Bool :=
  s.rd (K.portAdmitted port) = 1 && s.rd (K.portEid port) ≠ 0xFFFF
    && (s.rd (K.admitPeerId port) = 0 || s.rd (K.admitPeerId port) = s.rd (K.peerLinkId port))

/-- What a port's link is good for: its PORT_STATE, or, in a splice that keeps the link session, the state that it returns to
(R83, R85; log entry 19). -/
def State.linkState (s : State) (port : Nat) : Nat :=
  let st := s.rd (K.portState port)
  if st = 4 then
    match (Tab.getD s.links port {}).splice with
    | some x => if x.kind < 4 then x.back else 4
    | none => 4
  else st

/-- The port's link is SECURE. -/
def State.secure (s : State) (port : Nat) : Bool := s.linkState port = 3

/-- The port passes a request through its link and admission (R71, R117). -/
def State.passes (s : State) (port op : Nat) : Bool :=
  if op = 0x70 then s.linkState port = 2 || s.secure port
  else if op = 0x71 then s.secure port
  else s.secure port && s.admitted port

/-! ### Requests that the part originates (R109, R110, R116) -/

/-- Send a request of the part's own: on a port that is not admitted, only SPDM and MGMT leave (R117), and on one that is not
SECURE, SPDM alone in BOOTSTRAP (R71). -/
def State.sendOwn (s : State) (port : Nat) (m : Msg) : State := if s.passes port m.op then s.send port m else s

/-- The first tag counter from `c` on whose TAG and EPOCH none of `l` has pending (R109). -/
def freeTag (l : List Nat) : Nat → Nat → Nat
  | 0, c => c
  | n + 1, c => if l.contains c then freeTag l n ((c + 1) % 262144) else c

/-- The next TAG and EPOCH toward an endpoint on a port, and the counter advanced past them: a pair that a request still has
pending is not used again (R109). -/
def State.nextTag (s : State) (port dst : Nat) : (Nat × Nat) × State :=
  let busy := ((s.port port).outReq.filter (fun x => x.msg.dst = dst)).map (fun x => x.msg.epoch % 4 * 65536 + x.msg.tag % 65536)
  let c := freeTag busy busy.length (Tab.getD (s.port port).tagCtr dst 0)
  ((c % 65536, c / 65536 % 4), s.updPort port (fun q => { q with tagCtr := Tab.set q.tagCtr dst ((c + 1) % 262144) }))

/-- Originate a request: it is sent, as far as the port's admission lets it leave, and awaited (R116, R117). -/
def State.originate (s : State) (port dst op handle : Nat) (body : List Byte) (why : Purpose) : State :=
  let n := s.nextTag port dst
  let m : Msg := ⟨vcOf op, op, 0, s.rd (K.portEid port), dst, handle, n.1.1, n.1.2, 0, body⟩
  (n.2.sendOwn port m).updPort port (fun q => { q with outReq := q.outReq ++ [⟨port, m, 0, why, false⟩] })

/-- The part's outstanding request that a response matches: by SRC_EID, TAG and EPOCH on that port (R108). -/
def State.matchResp (s : State) (port : Nat) (h : Hdr) : Option PartReq :=
  (s.port port).outReq.find? (fun x => x.msg.dst = h.src ∧ x.msg.tag = h.tag ∧ x.msg.epoch = h.epoch)

/-- Take an outstanding request off a port's list. -/
def State.settle (s : State) (x : PartReq) : State :=
  s.updPort x.port (fun q => { q with outReq := q.outReq.filter (fun y =>
    !(y.msg.dst = x.msg.dst ∧ y.msg.tag = x.msg.tag ∧ y.msg.epoch = x.msg.epoch)) })

/-- Count a protocol error of the transport (R93, R108). -/
def State.protoError (s : State) (port : Nat) : State := s.count (K.transportCounts port 9) 1

/-- Send NOTIFY on a port to an endpoint (R103). -/
def State.notify (s : State) (port dst handle kind obj value st : Nat) : State :=
  let n := s.nextTag port dst
  let m : Msg := ⟨0, 0x40, 0, s.rd (K.portEid port), dst, handle, n.1.1, n.1.2, st,
    toLE 2 kind ++ toLE 2 0 ++ toLE 4 obj ++ toLE 8 value⟩
  (n.2.sendOwn port m).updPort port (fun q => { q with outReq := q.outReq ++ [⟨port, m, 0, .notify, false⟩] })

/-! ### Port shares (R48, R49, R51) -/

/-- Cells per frame of a port at `lanes` lanes of `gbps` Gb/s (R49, R58). -/
def cellsPerFrame (lanes gbps : Nat) : Nat := lanes * gbps * 250000 * 514 / (544 * 2048)

/-- Lanes of a width code and Gb/s of a speed code (R69). -/
def widthLanes (c : Nat) : Nat := 2 ^ c
/-- Gb/s of a speed code. -/
def speedGbps (c : Nat) : Nat := 56 * 2 ^ c

/-- Cells of a port's frame before the system reserve: of the configuration in force at the last slate (R49, 03 R88). -/
def State.frameCells (s : State) (port : Nat) : Nat :=
  let c := (s.port port).capCfg.getD (s.rd (K.trainedConfig port))
  cellsPerFrame (widthLanes (fld c 1 0)) (speedGbps (fld c 3 2))

/-- Distributable cells of a port's frame: 4,032 of 4,096 units (R48, R49). -/
def State.portCells (s : State) (port : Nat) : Nat := s.frameCells port * 4032 / 4096

/-- Cells of a port's frame in the system reserve of 64 units (R49). -/
def State.reserveCells (s : State) (port : Nat) : Nat := s.frameCells port * 64 / 4096

/-- Inbound cells that the partitions share this frame: replays beyond the reserve and pauses take theirs off (R49, 03 R88). -/
def State.cellsIn (s : State) (port : Nat) : Nat := s.portCells port - (s.port port).lostIn

/-- Outbound cells that the partitions share this frame. -/
def State.cellsOut (s : State) (port : Nat) : Nat := s.portCells port - (s.port port).lostOut

/-- An outbound cell of the system: replays beyond the reserve reduce the frame's capacity (R49). -/
def State.reserveOut (s : State) (port : Nat) (replay : Bool) : State :=
  s.updPort port (fun q =>
    if replay && decide (s.reserveCells port ≤ q.resOut) then { q with lostOut := q.lostOut + 1 }
    else { q with resOut := q.resOut + 1 })

/-- An inbound cell of the system, or a replayed one. -/
def State.reserveIn (s : State) (port : Nat) (replay : Bool) : State :=
  s.updPort port (fun q =>
    if replay && decide (s.reserveCells port ≤ q.resIn) then { q with lostIn := q.lostIn + 1 }
    else { q with resIn := q.resIn + 1 })

/-- Both directions pause for `ns` of the frame (03 R88): the cells lost reduce its capacity. -/
def State.pauseCells (s : State) (port ns : Nat) : State :=
  let n := s.frameCells port * ns / 250000
  s.updPort port (fun q => { q with lostIn := q.lostIn + n, lostOut := q.lostOut + n })

/-- Inbound cells a partition's share of a port is worth (R48): its part of what the frame has to share. -/
def State.shareCells (s : State) (port p : Nat) : Nat := s.cellsIn port * s.rd (K.portSharesIn p port) / 4096

/-- Cells a message occupies (R67). -/
def msgCells (len : Nat) : Nat := ceilDiv len 232

/-- Inbound cells a partition has used this frame. -/
def State.usedIn (s : State) (port p : Nat) : Nat := Tab.getD (s.port port).usedIn p 0

/-- The partition's requests that wait for its share at a port. -/
def State.queued (s : State) (port p : Nat) : List Req :=
  (s.waitersOf .share).filter (fun r => r.port = port ∧ handlePart r.h.handle = p)

/-- The order of R50 and R51 at one scheduling decision: partition `p` may have `n` more units of a capacity `cap`, where
`share`, `used` and `ready` give each partition's share and use this frame and whether it has work ready. A sealed partition
has exactly its share, whatever the others do; an item larger than its whole share goes alone (log entry 124). A shared one
never takes what the sealed ones hold. Step 1 serves those below their shares, step 2 those beyond them once nobody waits below,
each in proportion to the shares; step 3 those with no share, in equal turns, once nobody else waits. -/
def State.servedNext (s : State) (share used : Nat → Nat) (ready : Nat → Bool) (cap p n : Nat) : Bool :=
  if s.isSealed p then used p + n ≤ share p || (used p = 0 && decide (0 < share p) && decide (share p < n))
  else
    let sealedUnits := (((List.range 64).filter s.isSealed).map share).sum
    let shared := (List.range 64).filter (fun q => !s.isSealed q)
    let others := shared.filter (fun q => q ≠ p && ready q)
    let below := others.filter (fun q => used q < share q)
    let beyond := others.filter (fun q => 0 < share q && share q ≤ used q)
    decide ((shared.map used).sum + n ≤ cap - sealedUnits) && (
      if used p < share p then below.all (fun q => used p * share q ≤ used q * share p)
      else if 0 < share p then
        below.isEmpty && beyond.all (fun q => (used p - share p) * share q ≤ (used q - share q) * share p)
      else below.isEmpty && beyond.isEmpty && others.all (fun q => used p ≤ used q))

/-- What a sealed partition used beyond its share for an item larger than it counts against the next frame; every other use
starts again at 0 (R50, log entry 124). -/
def State.carryUse (s : State) (share : Nat → Nat) (used : Tab Nat) : Tab Nat :=
  (used.filter (fun e => s.isSealed e.1 && decide (share e.1 < e.2))).map (fun e => (e.1, e.2 - share e.1))

/-- A request of `cells` cells of partition `p` may be injected now (R50, R51): as its share and the other partitions' requests
that wait decide. While the port's tile is throttled, no capacity beyond the shares is given, and the mesh takes open requests at the reduced
rate (05 R131). -/
def State.mayInject (s : State) (port p cells : Nat) : Bool :=
  s.servedNext (s.shareCells port) (s.usedIn port) (fun q => !(s.queued port q).isEmpty) (s.cellsIn port) p cells
    && (s.isSealed p || ((decide (s.usedIn port p < s.shareCells port p) || !(s.router port).throttled) && s.slowMay port))

/-- Charge cells to a partition's outbound use of a port (R48, R256). -/
def State.chargeOut (s : State) (port p cells : Nat) : State :=
  s.updPort port (fun q => { q with usedOut := Tab.set q.usedOut p (Tab.getD q.usedOut p 0 + cells) })

/-- Charge a request of `len` bytes to a partition's use of a port; its flits enter the mesh (05 R131). -/
def State.useCells (s : State) (port p len : Nat) : State :=
  let s := s.updPort port (fun q => { q with usedIn := Tab.set q.usedIn p (Tab.getD q.usedIn p 0 + msgCells len) })
  if s.isSealed p then s else s.slowUse port (meshFlits (len - 24))

/-! ### Arrival (R105) -/

/-- What the port engine decides about a request that arrives. -/
inductive Arrival where
  /-- Discarded with no response: misrouted. -/
  | misrouted
  /-- Answered with a status. -/
  | refused (st : Nat)
  /-- A retry of a request still pending: discarded and counted. -/
  | dropRetry
  /-- A retry answered from the completion cache. -/
  | cached (m : Msg)
  /-- A retry of a class C request of an ended session whose response is not yet formed. -/
  | waitFirst (b : Nat)
  /-- Accepted under binding `b` (4096 for none). -/
  | accepted (b : Nat)
deriving DecidableEq, Repr

/-- An accepted request of the same binding, or source endpoint, with the same TAG and EPOCH. -/
def sameTag (op b : Nat) (h : Hdr) (x : Req) : Bool :=
  x.bind = b && x.h.tag = h.tag && x.h.epoch % 4 = h.epoch % 4 && (!noBinding op || x.h.src = h.src)

/-- Checks 9 and 10 of R105 with the retry rules of R114. -/
def State.tagChecks (s : State) (port op b : Nat) (h : Hdr) : Arrival :=
  let q := s.port port
  let mine := q.pending.filter (sameTag op b h)
  if mine.any (fun x => x.link = q.linkNo) then
    if bit h.flags 7 then .dropRetry else .refused Code.tagInUse
  else if bit h.flags 7 ∧ classC op ∧ mine.any (fun x => x.op = op) then .waitFirst b
  else
    match if bit h.flags 7 && classC op then
        q.cache.find? (fun c => c.bind = b ∧ c.tag = h.tag ∧ c.epoch % 4 = h.epoch % 4) else none with
    | some c => .cached c.resp
    | none =>
      let live := q.pending.filter (fun x => x.bind = b && (!noBinding op || x.h.src = h.src))
      let p := handlePart h.handle
      let room := (s.queued port p).map (fun r => msgCells r.h.len) |>.sum
      let waits : Bool := !s.mayInject port p (msgCells h.len) || !(s.queued port p).isEmpty
      if 2048 ≤ live.length then .refused Code.busy
      else if !noBinding op && waits && s.eff (K.inboundQueueCells port) < room + msgCells h.len then .refused Code.busy
      else .accepted b

/-- A translation agent registered on a port under this endpoint (R105, R249). -/
def State.isAgent (s : State) (port eid : Nat) : Bool :=
  (List.range 1024).any (fun i =>
    let a := s.rd (K.agents i)
    bit a 63 && fld a 56 51 = port && fld a 34 19 = eid)

/-- A CONTRIB whose FORMAT is not that of the composite it names, a composite of the handle's partition (R101). -/
def State.otherFormat (s : State) (h : Hdr) (b : List Byte) : Bool :=
  let c := Tab.getD s.reels.comps (leAt b 0 4 % 1024) {}
  c.st ≠ 0 && c.part = handlePart h.handle && c.inc = leAt b 0 4 / 1024 && leAt c.desc 14 1 ≠ leAt b 12 1

/-- The checks of R105 in order; the first that fails decides. -/
def State.checkArrival (s : State) (port op : Nat) (h : Hdr) (b : List Byte) : Arrival :=
  let eid := s.rd (K.portEid port)
  if h.dst ≠ eid ∧ ¬ ((op = 0x70 ∨ op = 0x71) ∧ eid = 0xFFFF) then .misrouted
  else if !s.passes port op then .refused Code.notAdmitted
  else if !receivedOps.contains op then .refused Code.unsupported
  else if !formOk op h.len b || (op = 0x20 && s.otherFormat h b) then .refused Code.badRequest
  else if op = 0x51 ∧ !s.isAgent port h.src then .refused Code.notBound
  else if noBinding op then s.tagChecks port op 4096 h
  else if !s.handleLive h.handle then .refused Code.staleHandle
  else
    match s.findBinding port (handlePart h.handle) h.src with
    | none => .refused Code.notBound
    | some n =>
      let st := s.rd (K.leaseState n)
      if st ≠ 1 ∧ st ≠ 2 then .refused Code.leaseExpired
      else if !(rightsOf op).all (fun i => bit (s.binding n) i) then .refused Code.noAccess
      else s.tagChecks port op n h

/-- An earlier request of the same binding on that port has no response yet (R111). -/
def State.earlier (s : State) (r : Req) : Bool :=
  (s.port r.port).pending.any (fun x => x.bind = r.bind ∧ x.id < r.id)

/-- Accept a request: number it, make it pending, count and meter it. A class C request is now among the most recent of its
binding, whose completion cache keeps no older ones (R115). -/
def State.accept (s : State) (port op b : Nat) (h : Hdr) (body : List Byte) : Req × State :=
  let q := s.port port
  let r : Req := ⟨q.nextId, port, q.linkNo, b, op, h, body, []⟩
  let recent := if classC op ∧ b < 4096 then Tab.set q.recent b (keepLast 256 (Tab.getD q.recent b [] ++ [q.nextId])) else q.recent
  let s := s.setPort port { q with
    pending := q.pending ++ [r], nextId := q.nextId + 1, recent := recent
    cache := q.cache.filter (fun c => c.bind ≠ b || (Tab.getD recent b []).contains c.no) }
  let s := s.count (K.transportCounts port 0) 1
  (r, if h.handle = 0 then s else s.meterAdd (handlePart h.handle) Mt.portIn h.len)

end Sys2Proof.Machine
end

