-- ==== Sys2Proof/Machine/Coherence.lean ====
section
/-!
DEFINITION. The coherence directory (ch. 07): entries, eviction, forwards and back-invalidations in the line's order, and
the loss of a holder.
-/

namespace Sys2Proof.Machine

/-! ### Entries (R167, R168) -/

/-- Directory slice of a line: the tile that homes it. -/
def lineTile (ln : Nat) : Nat := ln / 2 ^ 30
/-- Set of a line in its slice. -/
def lineSet (ln : Nat) : Nat := ln % 2 ^ 17
/-- The line's pool VA and partition, through the extent map entry that names its device extent. -/
def State.vaOfLine (s : State) (ln : Nat) : Option (Nat × Nat) :=
  let a := dpaLocal (ln * 128)
  match s.extentOf (dpos a), s.slotOfTile (lineTile ln) with
  | some (p, i, e), some slot => some (p, vaOfSlot (eTag e * 2 ^ 14 + i) (a / 4096 % 2048) slot (a % 4096))
  | _, _ => none

/-- The entry of a line. -/
def State.dirEnt (s : State) (ln : Nat) : Option DirEnt := Tab.find s.dir ln

/-- The partition of a line's extent. -/
def State.partOfLine (s : State) (ln : Nat) : Nat := match s.vaOfLine ln with | some x => x.1 | none => 0

/-- The directory changed. -/
def State.setDir (s : State) (d : Tab DirEnt) : State := { s with dir := d }

/-- The entry as the 80 bits of R167. -/
def DirEnt.pack (e : DirEnt) (ln : Nat) (evicting : Bool) : Nat :=
  let hold := if e.coarse then (if e.dsgValid then e.ptrs.headD 0 else 0) * 2 ^ 36 + e.ports
    else (e.ptrs.getD 0 0) + e.ptrs.getD 1 0 * 2 ^ 12 + e.ptrs.getD 2 0 * 2 ^ 24 + e.ptrs.getD 3 0 * 2 ^ 36
  2 ^ 79 + e.st * 2 ^ 77 + b2n e.coarse * 2 ^ 76 + b2n e.dsgValid * 2 ^ 75 + (if e.coarse then 0 else e.dsg) * 2 ^ 73
    + (if e.coarse then 0 else e.ptrs.length) * 2 ^ 70 + b2n evicting * 2 ^ 69 + fld (dpaLocal (ln * 128)) 36 24 * 2 ^ 48 + hold

/-- The designated sharer of a shared entry. -/
def DirEnt.designated (e : DirEnt) : Option Nat :=
  if e.st = 1 ∧ e.dsgValid then (if e.coarse then e.ptrs.head? else e.ptrs[e.dsg]?) else none

/-- The owner of an owned entry. -/
def DirEnt.owner (e : DirEnt) : Option Nat := if e.st = 1 then none else e.ptrs.head?

/-- The binding is a recorded holder of the entry (R168: in coarse form only the designated sharer is). -/
def DirEnt.records (e : DirEnt) (b : Nat) : Bool := e.ptrs.contains b

/-- Every binding that may hold a copy: the pointers, and in coarse form each valid binding of the partition on a marked
port (R168). -/
def State.holdersOf (s : State) (e : DirEnt) (p : Nat) : List Nat :=
  if e.coarse then
    e.ptrs ++ (List.range 4096).filter (fun b =>
      let d := s.binding b
      !e.ptrs.contains b && bValid d && bPart d = p && bit e.ports (bPort d))
  else e.ptrs

/-- Add a sharer to a shared entry, going to coarse form with the fifth (R168). -/
def State.addSharer (s : State) (e : DirEnt) (b : Nat) (designate : Bool) : DirEnt :=
  let portBit := fun c => 2 ^ bPort (s.binding c)
  if e.coarse then
    if designate then { e with ptrs := [b], dsgValid := true, ports := (e.ptrs.filter (· ≠ b)).foldl (fun a c => a ||| portBit c) e.ports }
    else if e.ptrs.contains b then e else { e with ports := e.ports ||| portBit b }
  else if e.ptrs.contains b then
    if designate then { e with dsg := (e.ptrs.findIdx? (· = b)).getD 0, dsgValid := true } else e
  else if e.ptrs.length < 4 then
    { e with ptrs := e.ptrs ++ [b], dsg := if designate then e.ptrs.length else e.dsg, dsgValid := designate || e.dsgValid }
  else
    let keep := if designate then some b else (if e.dsgValid then e.ptrs[e.dsg]? else none)
    let rest := (e.ptrs ++ [b]).filter (fun c => some c ≠ keep)
    { e with coarse := true, ptrs := keep.toList, dsgValid := keep.isSome, dsg := 0,
             ports := rest.foldl (fun a c => a ||| portBit c) 0 }

/-- Remove a holder; the designation passes to the lowest remaining pointer, or is cleared in coarse form (R171). `none`
when the entry becomes uncached. -/
def DirEnt.remove (e : DirEnt) (b : Nat) : Option DirEnt :=
  if !e.ptrs.contains b then some e
  else if e.st ≠ 1 then none
  else if e.coarse then some { e with ptrs := [], dsgValid := false }
  else
    let was := e.ptrs[e.dsg]?
    let rest := e.ptrs.filter (· ≠ b)
    if rest.isEmpty then none
    else if was = some b then some { e with ptrs := rest, dsg := 0, dsgValid := e.dsgValid }
    else some { e with ptrs := rest, dsg := (rest.findIdx? (fun c => some c = was)).getD 0 }

/-- Put an entry in the slice, stamped as the latest used; DIR_OCCUPANCY follows. -/
def State.putEnt (s : State) (ln : Nat) (e : DirEnt) : State :=
  let t := lineTile ln
  let fresh := (s.dirEnt ln).isNone
  let s := { s with dir := Tab.set s.dir ln { e with stamp := s.dirClock + 1 }, dirClock := s.dirClock + 1 }
  if fresh then s.wr (K.dirOccupancy t) (s.rd (K.dirOccupancy t) + 1) else s

/-- Remove an entry: the line is uncached. -/
def State.dropEnt (s : State) (ln : Nat) : State :=
  let t := lineTile ln
  if (s.dirEnt ln).isSome then
    (s.setDir (Tab.erase s.dir ln)).wr (K.dirOccupancy t) (s.rd (K.dirOccupancy t) - 1)
  else s

/-- Put or remove. -/
def State.putOpt (s : State) (ln : Nat) : Option DirEnt → State
  | some e => s.putEnt ln e
  | none => s.dropEnt ln

/-- A new owned or shared entry. -/
def mkEnt (st b : Nat) (dsg : Bool) : DirEnt := ⟨st, false, dsg, 0, [b], 0, 0⟩

/-! ### Messages to holders (R102, R178) -/

/-- A binding that can still be sent forwards: it has not ended. -/
def State.bindingLives (s : State) (b : Nat) : Bool :=
  bValid (s.binding b) && (s.rd (K.leaseState b) = 1 || s.rd (K.leaseState b) = 2)

/-- Send BACK_INVAL of a line to a holder, under the holder's handle; a holder whose binding has ended is not sent to. -/
def State.backInval (s : State) (ln b : Nat) : State :=
  let d := s.binding b
  let va := match s.vaOfLine ln with | some x => x.2 | none => 0
  (s.originate (bPort d) (bEid d) 0x3A (s.handleOf (bPart d)) (toLE 8 va ++ toLE 8 0) (.backInval ln b)).count
    (K.cohCounts (lineTile ln) 3) 1

/-- Send BACK_INVALs to those of `l` that live; the answers owed. -/
def State.backInvals (s : State) (ln : Nat) (l : List Nat) : List Nat × State :=
  let live := l.filter s.bindingLives
  (live, live.foldl (fun s b => s.backInval ln b) s)

/-- Free slots of a slice's eviction buffer: 256 on die and 65,536 spilled (R169). -/
def State.evictRoom (s : State) (t : Nat) : Bool :=
  ((s.evicts.filter (fun e => lineTile e.1 = t)).length) < 65792

/-- Rank of a victim (R169): SHARED by sharers, then EXCLUSIVE, then MODIFIED, then least recent use. -/
def State.victimRank (s : State) (ln : Nat) (e : DirEnt) : Nat :=
  ((if e.st = 1 then (s.holdersOf e (s.partOfLine ln)).length else 10000 * e.st) * 2 ^ 64) + e.stamp

/-- Make a way free for a new entry of line `ln`: nothing when the set has room, else the victim moves to
the eviction buffer and its holders are back-invalidated. `none` when no victim or no buffer slot is free (R169). -/
def State.makeRoom (s : State) (ln : Nat) : Option State :=
  let t := lineTile ln
  let mates := s.dir.filter (fun e => lineTile e.1 = t ∧ lineSet e.1 = lineSet ln)
  if (s.dirEnt ln).isSome ∨ mates.length < 16 then some s
  else
    let able := mates.filter (fun e => (Tab.find s.pends e.1).isNone)
    match able with
    | [] => none
    | a :: rest =>
      if !s.evictRoom t then none
      else
        let v := rest.foldl (fun m e => if s.victimRank e.1 e.2 < s.victimRank m.1 m.2 then e else m) a
        let r := s.backInvals v.1 (s.holdersOf v.2 (s.partOfLine v.1))
        let s := r.2.dropEnt v.1
        some (({ s with evicts := Tab.set s.evicts v.1 ⟨v.2, r.1⟩ } : State).count (K.cohCounts t 4) 1)

/-! ### Memory side -/

/-- The home's read of a line for the directory, under the system handle with the requester charged (R25, R142): data, or
the bad outcome of R212. -/
def State.cohRead (s : State) (ln handle : Nat) : LineGot × State :=
  if s.isFresh (ln * 128) then (.data (List.replicate 128 0#8), s)
  else
    let r := s.demand ln handle [] false
    match r.1 with
    | .bad true => r.2.demand ln handle [] true
    | _ => r

/-- Write a line that a holder returned, through the extent unit (R143, R227). -/
def State.cohWrite (s : State) (ln : Nat) (d : List Byte) (handle : Nat) : State :=
  match s.vaOfLine ln with
  | none => s
  | some (p, va) =>
    match s.mapped p va with
    | none => s
    | some e =>
      let s := if s.keySt (eDxn e) = 0 then s.drawKey (eDxn e) else s
      (s.writePiece e va d handle [] []).2

/-- Record the loss of a Modified line (R181, R183) and leave the poison signature in memory (R208). -/
def State.loseLine (s : State) (ln b cause : Nat) : State :=
  let t := lineTile ln
  match s.vaOfLine ln with
  | none => (if (s.stack t).lost then s else s.poisonLine ln).count (K.cohCounts t 9) 1
  | some (p, va) =>
    let s := (match s.mapped p va with
      | some e => s.poisonCopies e (va / 128 * 128) 0
      | none => if (s.stack t).lost then s else s.poisonLine ln).count (K.cohCounts t 9) 1
    let e := cause * 2 ^ 60 + b * 2 ^ 48 + va / 128 * 128
    let s := { s with lostLog := Tab.set s.lostLog p (Sys2Proof.keepLast 256 (Tab.getD s.lostLog p [] ++ [e])) }
    (s.count (K.lostLineCount p) 1).noteFault p

/-- A holder stops being one: a sharer is removed, an EXCLUSIVE line is uncached, a MODIFIED one is lost (R179). -/
def State.loseHolding (s : State) (ln b cause : Nat) : State :=
  match s.dirEnt ln with
  | none => s
  | some e =>
    if !e.records b then s
    else if e.st = 1 then (s.putOpt ln (e.remove b)).count (K.cohCounts (lineTile ln) 8) 1
    else if e.st = 2 then (s.dropEnt ln).count (K.cohCounts (lineTile ln) 8) 1
    else (s.loseLine ln b cause).dropEnt ln

/-- Frame at which the grace time of a holder whose port is out of SECURE ends (R178). -/
def State.graceEnds (s : State) (b : Nat) : Nat :=
  Tab.getD s.lease.portOut (bPort (s.binding b)) s.frame + s.eff K.cohGraceFrames

/-- A holder's port is out of SECURE: its grace time runs (R178). -/
def State.startGrace (s : State) (b : Nat) : State :=
  if (Tab.find s.lease.grace b).isSome then s
  else ({ s with lease := { s.lease with grace := Tab.set s.lease.grace b (s.graceEnds b) } } : State).wr (K.cohHolderState b) 1

/-- A binding has been recorded as a holder of the line: one that has ended, or whose grace time is over, is lost at once, and one
whose port is out of SECURE is in its grace time (R178, R179). -/
def State.recorded (s : State) (ln b : Nat) : State :=
  if !s.bindingLives b then s.loseHolding ln b (if bValid (s.binding b) then 1 else 4)
  else if s.secure (bPort (s.binding b)) then s
  else if s.graceEnds b ≤ s.frame then s.loseHolding ln b 2
  else s.startGrace b

/-- Answer a request from memory, granting `grant` and recording the requester (R173, R176); a bad line is answered with
its status, records nobody and leaves the entry as it was. A new entry that finds no room waits for it (R169). -/
def State.fromMemory (s : State) (ln : Nat) (r : Req) (grant : Nat) : State :=
  let p := handlePart r.h.handle
  let m := s.cohRead ln r.h.handle
  match m.1 with
  | .bad _ => (m.2.answer r 0xB0 (s.badStatus p) []).noteFault p
  | .data d =>
    match m.2.makeRoom ln with
    | none => m.2.hold (.evict ln) r
    | some s =>
      let ent := if grant = 3 then mkEnt 2 r.bind false else if grant = 4 then mkEnt 3 r.bind false
        else match s.dirEnt ln with
          | some e => s.addSharer { e with st := 1 } r.bind (grant = 2)
          | none => mkEnt 1 r.bind (grant = 2)
      ((s.putEnt ln ent).answer r 0xB0 Code.ok (toLE 8 grant ++ d)).recorded ln r.bind

/-! ### The line's order (R170 to R172) -/

/-- Put a pending record back, or drop it when nothing is outstanding. -/
def State.putPend (s : State) (ln : Nat) (q : Pend) : State :=
  if q.fwds.isEmpty && q.collect = .none && q.awaited = none && q.after.isEmpty && q.bars.isEmpty && !q.due then
    { s with pends := Tab.erase s.pends ln }
  else s.setPend ln q

/-- The responder of record (R170). -/
def State.responder (s : State) (ln : Nat) : Option Nat :=
  match (s.pend ln).transfer with
  | some b => some b
  | none => match s.dirEnt ln with
    | none => none
    | some e => match e.owner with
      | some b => some b
      | none => e.designated

/-- The requester of the latest ownership transfer of a line that is pending: to be served from memory after a WRITEBACK, forwarded,
collecting, or waiting with its place in the order (R170, R172). -/
def latestTransfer (q : Pend) : Option Nat :=
  let l : List (Nat × Nat) := (q.after.filter (fun x => x.2 = 4)).map (fun x => (0, x.1.bind))
    ++ (q.fwds.filter (·.own)).map (fun f => (f.k, f.req.bind))
    ++ (match q.collect with | .own r => [(q.at_, r.bind)] | _ => [])
    ++ (q.bars.filter (fun x => x.2.op ≠ 0x30)).map (fun x => (x.1, x.2.bind))
  (l.foldl (fun (m : Option (Nat × Nat)) x => match m with
    | some y => if x.1 < y.1 then some y else some x
    | none => some x) none).map (·.2)

/-- Insert a forward in the line's order. -/
def insertFwd (l : List Fwd) (f : Fwd) : List Fwd :=
  match l with
  | [] => [f]
  | a :: t => if f.k < a.k then f :: a :: t else a :: insertFwd t f

/-- Send a forward of number `k` to holder `b` for request `r`. To a holder whose binding has ended nothing is sent, and it counts
as answered with OUTCOME 1 at once (R178). -/
def State.sendFwd (s : State) (ln k b : Nat) (r : Req) (own : Bool) (grant : Nat) : State :=
  let q := s.pend ln
  let live := s.bindingLives b
  let f : Fwd := ⟨k, b, r, own, grant, if live then none else some (1, 0, none)⟩
  let s := s.setPend ln { q with fwds := insertFwd q.fwds f, nextK := max q.nextK (k + 1) }
  let d := s.binding b
  if live then
    (s.count (K.cohCounts (lineTile ln) 1) 1).originate (bPort d) (bEid d) (if own then 0x39 else 0x38) r.h.handle
      (slice r.body 0 8 ++ toLE 2 r.h.src ++ toLE 2 r.h.tag ++ toLE 1 (r.h.epoch % 4) ++ toLE 1 grant ++ toLE 2 0) (.fwd ln k b)
  else s

/-- Begin the collection of R172 for a request, at place `k` of the line's order. -/
def State.collectAt (s : State) (ln k : Nat) (r : Req) : State :=
  let q := s.pend ln
  s.setPend ln { q with collect := .own r, at_ := k, nextK := max q.nextK (k + 1), sent := false, owed := [] }

/-- Carry a collection on, its turn come (R172): the BACK_INVALs go out, and once they are answered the forward or grant follows.
A sharer is granted from memory, or by COH_GRANT; its entry changes with the answer (R173). -/
def State.collectOn (s : State) (ln : Nat) (r : Req) : State :=
  let q := s.pend ln
  let p := s.partOfLine ln
  let e := (s.dirEnt ln).getD (mkEnt 1 r.bind false)
  let mine : Bool := e.records r.bind && decide (e.st = 1)
  let s1 := if q.sent then s
    else
      let hs := (s.holdersOf e p).filter (fun b => b ≠ r.bind && (mine || decide (some b ≠ e.designated)))
      let x := s.backInvals ln hs
      x.2.setPend ln { (x.2.pend ln) with sent := true, owed := x.1 }
  if !(s1.pend ln).owed.isEmpty then s1
  else
    let s2 := s1.setPend ln { (s1.pend ln) with collect := .none, sent := false }
    if mine then
      if r.op = 0x32 then ((s2.putEnt ln (mkEnt 3 r.bind false)).answer r 0xB1 Code.ok (toLE 8 4)).recorded ln r.bind
      else s2.fromMemory ln r 4
    else
      match e.designated with
      | some d => s2.sendFwd ln q.at_ d r true 4
      | none => s2.fromMemory ln r 4

/-- Begin a recall, its turn come: every holder is back-invalidated (R163). -/
def State.recallOn (s : State) (ln : Nat) : State :=
  let hs := match s.dirEnt ln with | some e => s.holdersOf e (s.partOfLine ln) | none => []
  let r := s.backInvals ln hs
  let q := r.2.pend ln
  r.2.setPend ln { q with due := false, collect := .recalling, at_ := q.nextK, sent := true, owed := r.1 }

/-- A request whose data a holder has sent: its response is the holder's DATA_FWD (R96), so it is pending no longer. -/
def State.finish (s : State) (r : Req) : State :=
  s.updPort r.port (fun q => { q with pending := q.pending.filter (fun x => x.id ≠ r.id) })

/-- Record an entry that an acknowledgement leaves, making room where the line had none (R169, R171). -/
def State.ackEnt (s : State) (ln : Nat) (e : DirEnt) : State := ((s.makeRoom ln).getD s).putEnt ln e

/-- Apply one acknowledgement (R171, R174, R176). The MODIFIED line of an ended owner is lost (R178, R179). -/
def State.applyAck (s : State) (ln : Nat) (f : Fwd) (out kept : Nat) (d : Option (List Byte)) : State :=
  let s := match d with | some l => s.cohWrite ln l f.req.h.handle | none => s
  let ent := s.dirEnt ln
  if out = 0 then
    let s := s.finish f.req
    let s := if f.own then s.ackEnt ln (mkEnt 3 f.req.bind false)
      else
        match ent with
        | none => s.ackEnt ln (mkEnt 1 f.req.bind false)
        | some e =>
          if e.st ≠ 1 then
            if kept = 0 then s.putEnt ln (mkEnt 1 f.req.bind true)
            else s.putEnt ln (s.addSharer (mkEnt 1 f.holder true) f.req.bind false)
          else
            let e' := if kept = 0 then (e.remove f.holder).getD (mkEnt 1 f.req.bind true) else s.addSharer e f.holder true
            s.putEnt ln (s.addSharer e' f.req.bind false)
    s.recorded ln f.req.bind
  else
    let again := fun (s : State) => (s.fromMemory ln f.req f.grant).count (K.cohCounts (lineTile ln) 2) 1
    match ent with
    | some e =>
      if e.owner = some f.holder ∧ e.st = 3 then
        if s.bindingLives f.holder then
          let q := s.pend ln
          (s.dropEnt ln).setPend ln { q with awaited := some (f.holder, s.frame), after := q.after ++ [(f.req, f.grant)] }
        else again (s.loseHolding ln f.holder (if bValid (s.binding f.holder) then 1 else 4))
      else again (s.putOpt ln (e.remove f.holder))
    | none => again s

/-! ### Requests at the home (R173, R177) -/

/-- A line's pending record exists. -/
def State.pending? (s : State) (ln : Nat) : Bool := (Tab.find s.pends ln).isSome

/-- A repeated request from a binding that the entry already records (R177); `k` is its place in the line's order. -/
def State.repeated (s : State) (ln k : Nat) (e : DirEnt) (r : Req) : State :=
  if e.st = 3 then ((s.loseLine ln r.bind 3).dropEnt ln).fromMemory ln r (if r.op = 0x30 then 3 else 4)
  else if e.st = 2 then s.fromMemory ln r (if r.op = 0x30 then 3 else 4)
  else if r.op = 0x30 then
    let m := s.cohRead ln r.h.handle
    match m.1 with
    | .bad _ => (m.2.answer r 0xB0 (s.badStatus (handlePart r.h.handle)) []).noteFault (handlePart r.h.handle)
    | .data d => m.2.answer r 0xB0 Code.ok (toLE 8 (if e.designated = some r.bind then 2 else 1) ++ d)
  else s.collectAt ln k r

/-- Serve a request at place `k` of the line's order from the entry recorded, with no transfer before it (R173, R177); none where a
new entry finds no room (R169). -/
def State.serveAt (s : State) (ln k : Nat) (r : Req) : Option State :=
  match s.dirEnt ln with
  | none => (s.makeRoom ln).map (fun s => s.fromMemory ln r (if r.op = 0x30 then 3 else 4))
  | some e => some (
    if e.records r.bind then s.repeated ln k e r
    else
      match e.owner with
      | some b => s.sendFwd ln k b r (r.op ≠ 0x30) (if r.op = 0x30 then 1 else 4)
      | none =>
        if r.op ≠ 0x30 then s.collectAt ln k r
        else
          match e.designated with
          | some b => s.sendFwd ln k b r false 1
          | none => s.fromMemory ln r 2)

/-- The line is in the pending record's hands no longer as MODIFIED: the requests behind the awaited WRITEBACK are served from
memory (R176). -/
def State.awaitOver (s : State) (ln : Nat) : State :=
  let q := s.pend ln
  q.after.foldl (fun s x => (s.fromMemory ln x.1 x.2).count (K.cohCounts (lineTile ln) 2) 1)
    (s.setPend ln { q with awaited := none, after := [] })

/-- The awaited WRITEBACK is accepted although the entry does not record its sender (R176). -/
def State.takeAwaited (s : State) (ln : Nat) (r : Req) : State :=
  ((s.cohWrite ln (slice r.body 16 128) r.h.handle).answer r 0xB3 Code.ok []).awaitOver ln

/-- One thing of a line whose turn has come, in the order of R171: none when the line waits on a host or nothing is left. -/
def State.lineTurn (s : State) (ln : Nat) : Option State :=
  let q := s.pend ln
  match q.awaited with
  | some (b, _) => ((s.waitersOf (.line ln)).find? (fun r => r.op = 0x34 && r.bind = b)).map (fun r =>
      (s.takeWaiter (.line ln) r).takeAwaited ln r)
  | none =>
    let first := fun (k : Nat) => (q.fwds.all (fun f => k ≤ f.k)) && (q.collect = .none || k ≤ q.at_) && q.bars.all (fun x => k ≤ x.1)
    match q.fwds.find? (fun f => first f.k), q.collect, q.bars.find? (fun x => first x.1) with
    | some f, _, _ => f.ack.map (fun a =>
        (s.setPend ln { q with fwds := q.fwds.filter (fun g => g.k ≠ f.k) }).applyAck ln f a.1 a.2.1 a.2.2)
    | none, .own r, none =>
      if q.sent && !q.owed.isEmpty then none else some (s.collectOn ln r)
    | none, .recalling, _ => none
    | none, _, some x => (s.setPend ln { q with bars := q.bars.filter (fun y => y.1 ≠ x.1) }).serveAt ln x.1 x.2
    | none, .none, none => if q.due then some (s.recallOn ln) else none

/-- Take turns, `n` at most. -/
def State.lineTurns (s : State) (ln : Nat) : Nat → State
  | 0 => s
  | n + 1 => match s.lineTurn ln with
    | none => s
    | some s => s.lineTurns ln n

/-- Settle a line after something it waited for has come: all whose turn has come, in order, then the transfer on record and the
record itself. -/
def State.settleLine (s : State) (ln : Nat) : State :=
  let q := s.pend ln
  let s := s.lineTurns ln (4 * (q.fwds.length + q.bars.length) + 8)
  let q := s.pend ln
  s.putPend ln { q with transfer := latestTransfer q }

/-- The data of the read that the home starts beside the lookup for RD_SHARED or RD_OWN is discarded and counted. It is charged to the
requester, and only a correctable error that it finds is logged (R25, R182, 08 R193). A fresh granule has no such read. -/
def State.specUnused (s : State) (ln : Nat) (r : Req) : State :=
  let t := lineTile ln
  if r.op = 0x32 ∨ s.isFresh (ln * 128) ∨ (s.stack t).lost then s
  else
    let s1 := ((s.count (K.cohCounts t 5) 1).burst ln r.h.handle false).count (K.integrityCounts t 0) 1
    match s.decode ln [] with
    | .corrected f => (s1.count (K.integrityCounts t 1) 1).errEvent 1 ln f
    | _ => s1

/-- The line is being recalled, or is about to be: the requests that come now wait (R163). -/
def State.inRecall (s : State) (ln : Nat) : Bool := let q := s.pend ln; q.due || q.collect = .recalling

/-- The line has a pending record, or its slice has room for one (R182). -/
def State.pendRoom (s : State) (ln : Nat) : Bool :=
  s.pending? ln || decide ((s.pends.filter (fun e => lineTile e.1 = lineTile ln)).length < 4096)

/-- A request takes a place in the line's order and waits there (R170). -/
def State.barAt (s : State) (ln : Nat) (r : Req) : State :=
  let q := s.pend ln
  (s.setPend ln { q with bars := q.bars ++ [(q.nextK, r)], nextK := q.nextK + 1 }).settleLine ln

/-- RD_SHARED, RD_OWN and UPGRADE at the home, once mapped and checked (R170, R172, R173). -/
def State.cohRequest (s : State) (ln : Nat) (r : Req) : State :=
  let s := s.count (K.cohCounts (lineTile ln) 0) 1
  let q := s.pend ln
  let ent := s.dirEnt ln
  let rd : Bool := decide (r.op = 0x30)
  let mine : Bool := match ent with | some e => e.records r.bind | none => false
  let shared : Bool := match ent with | some e => decide (e.st = 1) | none => false
  if (Tab.find s.evicts ln).isSome then s.hold (.evict ln) r
  else if s.inRecall ln ∨ (s.waitersOf (.line ln)) ≠ [] then s.hold (.line ln) r
  else
    match s.responder ln with
    | some b =>
      if b = r.bind ∧ s.pending? ln then (s.specUnused ln r).barAt ln r
      else if 16 ≤ q.fwds.length ∨ !s.pendRoom ln then s.hold (.line ln) r
      else
        let s := s.specUnused ln r
        if q.transfer = none ∧ (mine ∨ shared) then
          match s.serveAt ln q.nextK r with
          | some s => s.settleLine ln
          | none => s
        else (s.sendFwd ln q.nextK b r (!rd) (if rd then 1 else 4)).settleLine ln
    | none =>
      if q.awaited ≠ none then (s.specUnused ln r).barAt ln r
      else if !rd ∧ !s.pendRoom ln then s.hold (.line ln) r
      else
        match s.serveAt ln q.nextK r with
        | some s => s.settleLine ln
        | none => s.hold (.evict ln) r

/-- DIRTY_NOTIFY (R173). -/
def State.cohDirty (s : State) (ln : Nat) (r : Req) : State :=
  let t := lineTile ln
  if (Tab.find s.evicts ln).isSome then s.hold (.evict ln) r
  else if s.inRecall ln then s.hold (.line ln) r
  else
    match s.dirEnt ln with
    | some e =>
      if e.st = 2 ∧ e.owner = some r.bind ∧ !s.pending? ln then
        ((s.putEnt ln { e with st := 3 }).count (K.cohCounts t 6) 1).answer r 0xB3 Code.ok []
      else (s.count (K.cohCounts t 7) 1).answer r 0xB3 Code.notOwner []
    | none => (s.count (K.cohCounts t 7) 1).answer r 0xB3 Code.notOwner []

/-- WRITEBACK (R173, R176): by the owner with nothing pending, or awaited after OUTCOME 1. -/
def State.cohWriteback (s : State) (ln : Nat) (r : Req) : State :=
  let t := lineTile ln
  if (Tab.find s.evicts ln).isSome then s.hold (.evict ln) r
  else if ((s.pend ln).awaited.map (·.1)) = some r.bind then (s.takeAwaited ln r).settleLine ln
  else if s.inRecall ln then s.hold (.line ln) r
  else
    match s.dirEnt ln with
    | some e =>
      if e.owner = some r.bind ∧ !s.pending? ln then
        ((s.cohWrite ln (slice r.body 16 128) r.h.handle).dropEnt ln).answer r 0xB3 Code.ok []
      else (s.count (K.cohCounts t 7) 1).answer r 0xB3 Code.notOwner []
    | none => (s.count (K.cohCounts t 7) 1).answer r 0xB3 Code.notOwner []

/-- EVICT_CLEAN (R173). -/
def State.cohEvictClean (s : State) (ln : Nat) (r : Req) : State :=
  if (Tab.find s.evicts ln).isSome then s.hold (.evict ln) r
  else if s.inRecall ln then s.hold (.line ln) r
  else
    match s.dirEnt ln with
    | some e =>
      if e.records r.bind then (s.putOpt ln (e.remove r.bind)).answer r 0xB3 Code.ok []
      else s.answer r 0xB3 Code.ok []
    | none => s.answer r 0xB3 Code.ok []

/-! ### Uncached accesses (R163) -/

/-- The home lines of a coherent extent's range that an uncached access must wait for: a cached copy stands in its way, or an
earlier recall or eviction of the line is not over, or a WRITEBACK is awaited (R163, R169). -/
def State.toRecall (s : State) (e va len : Nat) (wr : Bool) : List Nat :=
  if eKind e ≠ 1 then []
  else ((linesOf va len).map (fun a => s.homeDpa e a / 128)).filter (fun ln =>
    (match s.dirEnt ln with | some d => wr || d.st ≠ 1 | none => false) || (wr && s.pending? ln) || s.inRecall ln
      || decide ((s.pend ln).awaited ≠ none) || (Tab.find s.evicts ln).isSome)

/-- Begin the recall of a line: it takes its place behind all that the line's order holds. -/
def State.beginRecall (s : State) (ln : Nat) : State :=
  if s.inRecall ln ∨ (Tab.find s.evicts ln).isSome ∨ !s.pendRoom ln then s
  else (s.setPend ln { (s.pend ln) with due := true }).settleLine ln

/-- The recall of a line is complete: sent, and every answer in. -/
def State.recalled (s : State) (ln : Nat) : Bool :=
  let q := s.pend ln
  q.collect = .recalling && q.sent && q.owed.isEmpty

/-- End a recall: the line is uncached. -/
def State.endRecall (s : State) (ln : Nat) : State :=
  let q := s.pend ln
  (s.dropEnt ln).putPend ln { q with collect := .none, sent := false }

/-- The lines of coherent extents that a waiting READ, WRITE or ATOMIC accesses. -/
def State.accessLines (s : State) (r : Req) : List Nat :=
  let va := leAt r.body 0 8
  match s.mapped (handlePart r.h.handle) va with
  | none => []
  | some e => if eKind e ≠ 1 then [] else
      (linesOf va (if r.op = 0x03 then leAt r.body 9 1 else leAt r.body 8 2)).map (fun a => s.homeDpa e a / 128)

/-- An access that waits for recalls accesses the line. -/
def State.covered (s : State) (ln : Nat) : Bool :=
  s.waiting.any (fun w => match w.1 with | .recalling _ => (s.accessLines w.2).contains ln | _ => false)

/-- The line stays recalled for the next access that waits for it: the requests that came meanwhile go on waiting. -/
def State.keepRecall (s : State) (ln : Nat) : State :=
  if s.covered ln ∧ !s.inRecall ln ∧ (s.dirEnt ln).isNone then
    s.setPend ln { (s.pend ln) with collect := .recalling, sent := true, owed := [] }
  else s

/-- Recall at once what an agent of the part is about to touch: `true` when all is recalled, and the recalls end with the agent's
access; what waited at those lines goes to its home again (log entry 15). -/
def State.recallFor (s : State) (e va len : Nat) (wr : Bool) : Bool × State :=
  let l := s.toRecall e va len wr
  let s := l.foldl (fun s ln => s.beginRecall ln) s
  if l.all (fun ln => s.recalled ln && !s.covered ln) then
    (true, l.foldl (fun s ln => (s.endRecall ln).wake (.line ln)) s)
  else (false, s)

/-! ### Holders that die (R178, R179) -/

/-- Complete what a lost holder owes on a line: OUTCOME 1 for its forwards, HAS_DATA 0 for its back-invalidations. -/
def State.dropOwed (s : State) (ln b : Nat) : State :=
  let q := s.pend ln
  let s := s.setPend ln { q with
    fwds := q.fwds.map (fun f => if f.holder = b ∧ f.ack = none then { f with ack := some (1, 0, none) } else f)
    owed := q.owed.filter (· ≠ b) }
  let s := if (q.awaited.map (·.1)) = some b then s.awaitOver ln else s
  s.settleLine ln

/-- The pending request `id` of port `p`, whose line was rebound and whose holder does not serve it, goes to its home again
(R113 of ch. 04). -/
def State.rejudge (s : State) (p id : Nat) : State :=
  match (s.port p).pending.find? (fun r => r.id = id) with
  | some r => s.hold .home r
  | none => s

/-- Act on every line that a lost holder holds or owes an answer for (R179). -/
def State.holderLost (s : State) (b cause : Nat) : State :=
  let s := s.dir.foldl (fun s x => s.loseHolding x.1 b cause) s
  let s := s.evicts.foldl (fun s x =>
    let lose : Bool := x.2.owed.contains b && decide (x.2.ent.st = 3)
    let s := if lose then s.loseLine x.1 b cause else s
    { s with evicts := Tab.set s.evicts x.1 { x.2 with owed := x.2.owed.filter (· ≠ b) } }) s
  let s := s.pends.foldl (fun s x =>
    let q := s.pend x.1
    let s := if (q.awaited.map (·.1)) = some b then s.loseLine x.1 b cause else s
    s.dropOwed x.1 b) s
  -- its outstanding forwards and back-invalidations are no longer awaited
  let owed := (s.ports.map (fun (q : Nat × Port) => q.2.outReq)).flatten
  let s := owed.foldl (fun (s : State) x =>
    match x.purpose with
    | .oldFwd h p id => if h = b then s.rejudge p id else s
    | _ => s) s
  let s := { s with ports := s.ports.map (fun (q : Nat × Port) => (q.1, { q.2 with outReq := q.2.outReq.filter (fun x =>
    match x.purpose with
    | .fwd _ _ h => decide (h ≠ b)
    | .backInval _ h => decide (h ≠ b)
    | .oldFwd h _ _ => decide (h ≠ b)
    | .oldInval h => decide (h ≠ b)
    | _ => true) })) }
  s.wr (K.cohHolderState b) 2

end Sys2Proof.Machine
end

