-- ==== Sys2Proof/Machine/Pairs.lean ====
section
/-!
DEFINITION. Paired extents (10 R235 to R240): pair descriptors and states, dirty bitmaps, pair writes sent and received.
-/

namespace Sys2Proof.Machine

/-! ### Pair descriptors (R245) -/

/-- Descriptor of pair `n`. -/
def State.pair (s : State) (n : Nat) : Nat := s.rd (K.pairs n)
/-- The pair exists. -/
def pdValid (d : Nat) : Bool := bit d 127
/-- ROLE is SECONDARY. -/
def pdSecondary (d : Nat) : Bool := bit d 126
/-- PARTITION. -/
def pdPart (d : Nat) : Nat := fld d 125 120
/-- EXTENT_INDEX. -/
def pdExtent (d : Nat) : Nat := fld d 119 106
/-- PAIR_PORT. -/
def pdPort (d : Nat) : Nat := fld d 105 100
/-- ALT_PORT. -/
def pdAlt (d : Nat) : Nat := fld d 99 94
/-- ALT_VALID. -/
def pdAltValid (d : Nat) : Bool := bit d 93
/-- INCARNATION. -/
def pdInc (d : Nat) : Nat := fld d 92 71
/-- PEER_PAIR. -/
def pdPeer (d : Nat) : Nat := fld d 70 61
/-- PEER_EID. -/
def pdPeerEid (d : Nat) : Nat := fld d 60 45

/-- The valid pairs, in rising order. -/
def State.pairNumbers (s : State) : List Nat := (List.range 1024).filter (fun n => pdValid (s.pair n))

/-- The valid pair of extent `idx` of partition `p`. -/
def State.pairOf (s : State) (p idx : Nat) : Option Nat :=
  s.regs.findSome? (fun kv =>
    if kv.1 / 16777216 = 0x4602 * 256 + 1 ∧ pdValid kv.2 ∧ pdPart kv.2 = p ∧ pdExtent kv.2 = idx
    then some (kv.1 % 16777216) else none)

/-- The extent is the secondary copy of a pair (R237). -/
def State.isSecondary (s : State) (p idx : Nat) : Bool :=
  match s.pairOf p idx with
  | some n => pdSecondary (s.pair n)
  | none => false

/-- A port over which the pair can send: SECURE, or in a splice that returns to SECURE, and admitted (log entry 19). -/
def State.portUsable (s : State) (port : Nat) : Bool :=
  s.secure port && s.admitted port

/-- The port that carries the pair's writes now (R236 step 2). -/
def State.pairPort (s : State) (d : Nat) : Option Nat :=
  if s.portUsable (pdPort d) then some (pdPort d)
  else if pdAltValid d && s.portUsable (pdAlt d) then some (pdAlt d)
  else none

/-! ### Dirty bitmaps (R238) -/

/-- Bitmap of pair `n` at tile `t`, bit `r` for 1 MiB region `r` of the extent. -/
def State.dirtyAt (s : State) (n t : Nat) : Nat := Tab.getD s.cont.dirty (n * 64 + t) 0

/-- OR of the tiles' bitmaps. -/
def State.dirtyOr (s : State) (n : Nat) : Nat := (List.range 36).foldl (fun a t => a ||| s.dirtyAt n t) 0

/-- Replace a tile's bitmap; PAIR_DIRTY follows. -/
def State.setDirty (s : State) (n t v : Nat) : State :=
  let c := s.cont
  let s := s.setCont { c with dirty := if v = 0 then Tab.erase c.dirty (n * 64 + t) else Tab.set c.dirty (n * 64 + t) v }
  s.wr (K.pairDirty n) (s.dirtyOr n)

/-- Mark the region of an extent offset dirty at the tile that homes it. -/
def State.markDirty (s : State) (n t off : Nat) : State := s.setDirty n t (s.dirtyAt n t ||| 2 ^ (off / 2 ^ 20))

/-- Set every bit of a pair's bitmaps, at every in-service tile (R235, R238, R240). -/
def State.allDirty (s : State) (n : Nat) : State := s.serviceTiles.foldl (fun s t => s.setDirty n t (2 ^ 256 - 1)) s

/-! ### Requests that wait -/

/-! ### Sending (R236, R239) -/

/-- The pair requests of pair `n` in flight: what part of the extent each covers, (offset, length). -/
def State.pairInFlight (s : State) (n : Nat) : List (Nat × Nat) :=
  (s.ports.map (fun (q : Nat × Port) => q.2.outReq.filterMap (fun x =>
    match x.purpose with
    | .pairWrite m _ _ => if m = n then some (leAt x.msg.body 8 8, leAt x.msg.body 16 2) else none
    | .pairResync m _ _ => if m = n then some (leAt x.msg.body 8 8, leAt x.msg.body 16 2) else none
    | _ => none))).flatten

/-- A pair write in flight overlaps [off, off+len). -/
def State.pairClash (s : State) (n off len : Nat) : Bool :=
  (s.pairInFlight n).any (fun x => x.1 < off + len && off < x.1 + x.2)

/-- The line at `va` as the part holds it after a write: zeros in a fresh granule, the mirror copy where the home stack is lost. -/
def State.lineNow (s : State) (e va : Nat) : List Byte :=
  let home := s.homeDpa e va / 128 * 128
  if s.isFresh home then List.replicate 128 0#8
  else if (s.stack (dpaTile home)).lost && eMirrored e then s.bytesAt (s.mirrorDpa e va / 128 * 128) 128
  else s.bytesAt home 128

/-- The lines of the extent at [va, va+len) after a write: partly written lines go merged and whole (R236). -/
def State.pairData (s : State) (e va len : Nat) : List Byte := ((linesOf va len).map (fun a => s.lineNow e a)).flatten

/-- The lines of a granule read for a resync, as system work (06 R142). What is sent for a line that does not decode is not stated: a
free value (DESIGN CHOICE, log entry 139). -/
def State.resyncRead (s : State) (e va len : Nat) : List Byte × State :=
  (linesOf va len).foldl (fun (r : List Byte × State) a =>
    let g := r.2.readFinal e a 0 []
    match g.1 with
    | .data d => (r.1 ++ slice d 0 128, g.2)
    | .bad _ =>
      let f := g.2.draw (2 ^ 1024)
      (r.1 ++ toLE 128 f.1, f.2)) ([], s)

/-- Originate PAIR_WRITE (R103, R236): the pair's number at the peer with its incarnation, the offset, and whole lines. -/
def State.sendPair (s : State) (n port off : Nat) (d : List Byte) (why : Purpose) : State :=
  let p := s.pair n
  s.originate port (pdPeerEid p) 0x58 0
    (toLE 4 (pdInc p * 1024 + pdPeer p) ++ toLE 4 0 ++ toLE 8 off ++ toLE 2 d.length ++ toLE 6 0 ++ d) why

/-- The wait is for the peer's answer to a write of pair `n`. -/
def isPairWait (n : Nat) : Wait → Bool
  | .pair m _ _ => m = n
  | _ => false

/-- What becomes of a pair write's response: those of a waiting request go out as they were formed. -/
def State.pairDone (s : State) (n port id : Nat) : State :=
  match s.waiting.find? (fun e => e.2.port = port ∧ e.2.id = id ∧ isPairWait n e.1) with
  | some (.pair m st body, r) =>
    ({ s with waiting := s.waiting.filter (fun e => !(e.1 = .pair m st body ∧ e.2.port = port ∧ e.2.id = id)) } : State).answer r
      (respOp r.op) st body
  | _ => s

/-- Every request that waits for the peer of pair `n` is answered as formed. -/
def State.pairDoneAll (s : State) (n : Nat) : State :=
  (s.waiting.filterMap (fun e => match e.1 with | .pair m _ _ => if m = n then some e.2 else none | _ => none)).foldl
    (fun s r => s.pairDone n r.port r.id) s

/-- Drop the pair's requests in flight. -/
def State.dropPairReqs (s : State) (n : Nat) : State :=
  { s with ports := s.ports.map (fun (q : Nat × Port) => (q.1, { q.2 with outReq := q.2.outReq.filter (fun x =>
    match x.purpose with
    | .pairWrite m _ _ => decide (m ≠ n)
    | .pairResync m _ _ => decide (m ≠ n)
    | _ => true) })) }

/-- Tile that homes offset `off` of the pair's extent. -/
def State.pairTile (s : State) (n off : Nat) : Nat :=
  let d := s.pair n
  let e := s.entry (pdPart d) (pdExtent d)
  s.homeTile (eTag e * 2 ^ 42 + pdExtent d * 2 ^ 28 + off)

/-- The pair becomes DEGRADED (R238): waiting writes complete with OK, and what was in flight is marked dirty. -/
def State.degrade (s : State) (n : Nat) : State :=
  let fl := s.pairInFlight n
  let again := (s.cont.pairAgain.filter (fun x => x.1 = n)).map (fun x => x.2 * 128)
  let s := (s.wr (K.pairState n) 2).count (K.continuityCounts 6) 1
  let s := (fl.map (·.1) ++ again).foldl (fun s off => s.markDirty n (s.pairTile n off) off) s
  let s := s.setCont { s.cont with
    resync := Tab.eraseIf s.cont.resync (fun k => k / 64 = n)
    pairAgain := s.cont.pairAgain.filter (fun x => x.1 ≠ n) }
  ((s.dropPairReqs n).pairDoneAll n).wake (.pairTurn n)

/-- A RESYNC pair of which no tile holds a set bit is IN_SYNC (R239). -/
def State.resyncEnd (s : State) (n : Nat) : State :=
  if s.rd (K.pairState n) = 3 ∧ s.dirtyOr n = 0 then s.wr (K.pairState n) 1 else s

/-- Follow the ports of every primary pair (R238): no usable port degrades it, and one of the ports `up`, which have just become
usable, starts the resync of a degraded one. -/
def State.followPairPorts (s : State) (up : List Nat) : State :=
  s.pairNumbers.foldl (fun s n =>
    let d := s.pair n
    let st := s.rd (K.pairState n)
    if pdSecondary d then s
    else match s.pairPort d with
      | none => if st = 1 ∨ st = 3 then s.degrade n else s
      | some _ =>
        if st = 2 ∧ (up.contains (pdPort d) || (pdAltValid d && up.contains (pdAlt d))) then (s.wr (K.pairState n) 3).resyncEnd n
        else s) s

/-- The admission of port `p` has changed, which was usable before if `was` (R238, 04 R117). -/
def State.admissionChanged (s : State) (p : Nat) (was : Bool) : State :=
  s.followPairPorts (if s.portUsable p && !was then [p] else [])

/-- The granule of [off, ...) lies in the region a tile is resyncing, among those already sent. -/
def State.granuleSent (s : State) (n t off : Nat) : Bool :=
  match Tab.find s.cont.resync (n * 64 + t) with
  | some (r, k) => decide (off / 2 ^ 20 = r ∧ off / 2 ^ 17 % 8 < k)
  | none => false

/-- A write at offset `off` now goes to both parts: IN_SYNC, a clean region in RESYNC, or a granule already sent. -/
def State.bothParts (s : State) (n t off : Nat) : Bool :=
  s.rd (K.pairState n) = 1 ||
  (s.rd (K.pairState n) = 3 && (!bit (s.dirtyAt n t) (off / 2 ^ 20) || s.granuleSent n t off))

/-- After a request's write to [va, va+len) of a primary paired extent: send it, or mark its region, and form the response
now or when the peer answers (R236, R238). -/
def State.pairAnswer (s : State) (n e va len : Nat) (r : Req) (st : Nat) (body : List Byte) : State :=
  let d := s.pair n
  let lo := va / 128 * 128
  let hi := (va + len + 127) / 128 * 128
  let off := lo % 2 ^ 28
  let t := s.homeTile va
  if s.bothParts n t off then
    match s.pairPort d with
    | none => ((s.degrade n).markDirty n t off).answer r (respOp r.op) st body
    | some port => (s.sendPair n port off (s.pairData e lo (hi - lo)) (.pairWrite n r.port r.id)).hold (.pair n st body) r
  else (s.markDirty n t off).answer r (respOp r.op) st body

/-- After a write by an agent of the part to [va, va+len), within one granule, of a primary paired extent. -/
def State.pairForward (s : State) (p e va len : Nat) : State :=
  match s.pairOf p (vaIndex va) with
  | none => s
  | some n =>
    let d := s.pair n
    let lo := va / 128 * 128
    let hi := (va + len + 127) / 128 * 128
    let off := lo % 2 ^ 28
    let t := s.homeTile va
    if pdSecondary d || len = 0 then s
    else if s.bothParts n t off then
      if s.pairClash n off (hi - lo) then
        s.setCont { s.cont with pairAgain := s.cont.pairAgain ++ (linesOf lo (hi - lo)).map (fun a => (n, a % 2 ^ 28 / 128)) }
      else
        match s.pairPort d with
        | none => (s.degrade n).markDirty n t off
        | some port => s.sendPair n port off (s.pairData e lo (hi - lo)) (.pairWrite n 64 0)
    else s.markDirty n t off

/-- Send the lines noted to be sent again that nothing in flight overlaps any longer. -/
def State.sendAgain (s : State) (n : Nat) : State :=
  let d := s.pair n
  let e := s.entry (pdPart d) (pdExtent d)
  let ready := (s.cont.pairAgain.filter (fun x => x.1 = n ∧ !s.pairClash n (x.2 * 128) 128)).eraseDups
  ready.foldl (fun s x =>
    match s.pairPort d with
    | none => s
    | some port =>
      let va := eTag e * 2 ^ 42 + pdExtent d * 2 ^ 28 + x.2 * 128
      (s.setCont { s.cont with pairAgain := s.cont.pairAgain.filter (· ≠ x) }).sendPair n port (x.2 * 128)
        (s.pairData e va 128) (.pairWrite n 64 0)) s

/-- Offset in the extent of granule `j`, 0 to 7, of region `r` that tile `t` homes (R239, R139). -/
def State.resyncOffset (s : State) (d t r j : Nat) : Option Nat :=
  match s.slotOfTile t with
  | none => none
  | some slot =>
    let e := s.entry (pdPart d) (pdExtent d)
    let ext := eTag e * 2 ^ 14 + pdExtent d
    some (vaOfSlot ext (r * 8 + j) slot 0 % 2 ^ 28)

/-- The lowest region of a bitmap. -/
def lowestBit (v : Nat) : Option Nat := (List.range 256).find? (fun i => bit v i)

/-- Send the next granule that tile `t` owes the resync of pair `n` (R239). -/
def State.resyncSend (s : State) (n t : Nat) : State :=
  let d := s.pair n
  if !pdValid d || pdSecondary d || s.rd (K.pairState n) ≠ 3 then s
  else
    let cur := match Tab.find s.cont.resync (n * 64 + t) with
      | some x => some x
      | none => (lowestBit (s.dirtyAt n t)).map (fun r => (r, 0))
    match cur, s.pairPort d with
    | some (r, k), some port =>
      match s.resyncOffset d t r k with
      | none => s
      | some off =>
        if 8 ≤ k ∨ s.pairClash n off 4096 then s
        else
          let e := s.entry (pdPart d) (pdExtent d)
          let va := eTag e * 2 ^ 42 + pdExtent d * 2 ^ 28 + off
          let g := s.resyncRead e va 4096
          (g.2.setCont { g.2.cont with resync := Tab.set g.2.cont.resync (n * 64 + t) (r, k + 1) }).sendPair n port off g.1
            (.pairResync n t (off / 4096))
    | _, _ => s

/-- A resync granule of tile `t` has been answered OK: the region's bit is cleared with its eighth (R239). -/
def State.resyncDone (s : State) (n t : Nat) : State :=
  let left := s.ports.any (fun (q : Nat × Port) => q.2.outReq.any (fun x =>
    match x.purpose with | .pairResync m u _ => decide (m = n ∧ u = t) | _ => false))
  match Tab.find s.cont.resync (n * 64 + t) with
  | some (r, k) =>
    if 8 ≤ k ∧ !left then
      ((((s.setCont { s.cont with resync := Tab.erase s.cont.resync (n * 64 + t) }).setDirty n t
        (s.dirtyAt n t - fld (s.dirtyAt n t) r r * 2 ^ r)).count (K.continuityCounts 7) 1)).resyncEnd n
    else s
  | none => s

/-- The peer's answer to a pair request (R236, R238, R239): any status but OK degrades the pair. -/
def State.pairAnswered (s : State) (x : PartReq) (st : Nat) : State :=
  let s := s.settle x
  match x.purpose with
  | .pairWrite n port id =>
    if st = Code.ok then ((s.pairDone n port id).sendAgain n).wake (.pairTurn n)
    else (s.markDirty n (s.pairTile n (leAt x.msg.body 8 8)) (leAt x.msg.body 8 8)).degrade n
  | .pairResync n t _ =>
    if st = Code.ok then ((s.resyncDone n t).sendAgain n).wake (.pairTurn n)
    else s.degrade n
  | _ => s

/-- A pair request is given up on its port (R116, R238): the other usable port, or the pair becomes DEGRADED. -/
def State.pairGivenUp (s : State) (x : PartReq) (n : Nat) : State :=
  let d := s.pair n
  let s := s.settle x
  let off := leAt x.msg.body 8 8
  if x.port = pdPort d ∧ pdAltValid d ∧ pdAlt d ≠ pdPort d ∧ s.portUsable (pdAlt d) then
    s.originate (pdAlt d) x.msg.dst 0x58 0 x.msg.body x.purpose
  else (s.markDirty n (s.pairTile n off) off).degrade n

end Sys2Proof.Machine
end

