-- ==== Sys2Proof/Machine/HomeMem.lean ====
section
/-!
DEFINITION. Memory requests at their home: the checks of R106, READ, WRITE, ATOMIC, HEARTBEAT, pair writes received, and
the coherence requests on their way to the directory.
-/

namespace Sys2Proof.Machine

/-! ### Steps 11 to 14 of R106 -/

/-- Extent `idx` is the current view of a region of partition `p` (R154, R157). -/
def State.isView (s : State) (p idx : Nat) : Bool :=
  s.regs.any (fun kv => kv.1 / 16777216 = (0x3440 + p) * 256 + 1 && bit kv.2 15
    && s.rd (K.publishViews p (kv.1 % 16777216)) = idx)

/-- Extent `idx` of partition `p` is being sealed, from the slate after its request on (18 R407). -/
def State.sealing (s : State) (p idx : Nat) : Bool :=
  match (s.part p).sealJob with
  | some x => x.started && x.idx = idx
  | none => false

/-- Writes to extent `idx` of partition `p` are answered READ_ONLY: sealed or sealing, a region's view, a secondary (R106,
R157, 10 R237, 18 R407). -/
def State.readOnlyExt (s : State) (p idx e : Nat) : Bool :=
  eSealed e || s.sealing p idx || s.isView p idx || s.isSecondary p idx

/-- What the home decides about a request before it executes it. -/
inductive HomeCheck where
  /-- A check failed: the status, and whether it was the tag check. -/
  | fail (st : Nat) (tag : Bool)
  /-- The device extent is being erased for its new owner: the request waits (R52). -/
  | erasing (dxn : Nat)
  /-- Entry `e` maps the address and every check passed. -/
  | ok (e : Nat)
deriving DecidableEq, Repr

/-- The checks of R106 and R148 on an access of binding `b` under `handle` to `va`, writing if `wr`. -/
def State.homeCheck (s : State) (handle b va : Nat) (wr : Bool) : HomeCheck :=
  let p := handlePart handle
  if !s.handleLive handle then .fail Code.staleHandle false
  else
    match s.mapped p va with
    | none => .fail Code.notMapped false
    | some e =>
      if (Tab.find s.erasing (eDxn e)).isSome then .erasing (eDxn e)
      else if wr && s.readOnlyExt p (vaIndex va) e then .fail Code.readOnly false
      else if wr && eHeld e && eHolder e ≠ b then .fail Code.noAccess false
      else if !s.tagOk e va handle then .fail Code.notMapped true
      else .ok e

/-- The checks of R106 on a coherence request (R102, R148, R162). -/
def State.cohCheck (s : State) (r : Req) (va : Nat) : HomeCheck :=
  let p := handlePart r.h.handle
  if !s.handleLive r.h.handle then .fail Code.staleHandle false
  else
    match s.mapped p va with
    | none => .fail Code.notMapped false
    | some e =>
      if (Tab.find s.erasing (eDxn e)).isSome then .erasing (eDxn e)
      else if eKind e ≠ 1 then .fail Code.notCoherent false
      else if r.op = 0x34 ∧ eSealed e then .fail Code.readOnly false
      else if r.op = 0x34 ∧ eHeld e ∧ eHolder e ≠ r.bind then .fail Code.noAccess false
      else if !s.tagOk e va r.h.handle then .fail Code.notMapped true
      else .ok e

/-- Answer a request that failed a check of R106; the tag check logs a security event. -/
def State.failHome (s : State) (r : Req) (va st : Nat) (tag : Bool) : State :=
  let s := if tag then
      match s.mapped (handlePart r.h.handle) va with
      | some e => s.tagRefusal e va r.h.handle r.port
      | none => s
    else s
  s.answerSt r st

/-- The first line of a range whose cached copies must be recalled, once the recalls of all have begun (R163). -/
def State.startRecalls (s : State) (l : List Nat) : State := l.foldl (fun s ln => s.beginRecall ln) s

/-! ### READ (R98, R99, R212) -/

/-- The first line of a range that decodes as uncorrectable and whose one retry is still to be made: (position, line). -/
def State.retryDue (s : State) (e va len handle : Nat) (retried : List Nat) (noise : List (Nat × Nat)) : Option (Nat × Nat) :=
  ((linesOf va len).zipIdx.find? (fun q =>
    let ln := s.homeDpa e q.1 / 128
    !retried.contains ln && (s.readLine e q.1 handle (noiseOf noise q.2) false).1 = .bad true)).map
    (fun q => (q.2, s.homeDpa e q.1 / 128))

/-- Read every line of a range for a consumer. -/
def State.readLines (s : State) (e va len handle : Nat) (retried : List Nat) (noise : List (Nat × Nat)) : List LineGot × State :=
  (linesOf va len).zipIdx.foldl (fun r q =>
    let x := r.2.readLine e q.1 handle (noiseOf noise q.2) (retried.contains (r.2.homeDpa e q.1 / 128))
    (r.1 ++ [x.1], x.2)) ([], s)

/-- LINE_ERR of the lines read (R99). -/
def lineErr (l : List LineGot) : Nat :=
  l.zipIdx.foldl (fun a q => match q.1 with | .bad _ => a + 2 ^ q.2 | .data _ => a) 0

/-- The lines' bytes, a bad line as zeros. -/
def lineBytes (l : List LineGot) : List Byte :=
  (l.map (fun g => match g with | .data d => d | .bad _ => List.replicate 128 0#8)).flatten

/-- READ at the home. -/
def State.serveRead (s : State) (r : Req) (noise : List (Nat × Nat)) : State :=
  let va := leAt r.body 0 8
  let len := leAt r.body 8 2
  let p := handlePart r.h.handle
  match s.homeCheck r.h.handle r.bind va false with
  | .fail st tag => s.failHome r va st tag
  | .erasing d => s.hold (.erase d) r
  | .ok e =>
    match s.toRecall e va len false with
    | ln :: rest => (s.startRecalls (ln :: rest)).hold (.recalling ln) r
    | [] =>
      match s.retryDue e va len r.h.handle r.retried noise with
      | some (i, ln) => (s.demand ln r.h.handle (noiseOf noise i) false).2.hold (.retry ln) r
      | none =>
        let g := s.readLines e va len r.h.handle r.retried noise
        let err := lineErr g.1
        let head := toLE 8 err
        let d := slice (lineBytes g.1) (va % 128) len
        if err = 0 then g.2.answer r 0x81 Code.ok (head ++ d)
        else if s.poisonMode p then (g.2.answer r 0x81 Code.poisoned (head ++ d)).noteFault p
        else (g.2.answer r 0x81 Code.dataError head).noteFault p

/-! ### WRITE (R98, R106, R143, R157) -/

/-- The range from the first to the last line written: (address, length). -/
def writtenRange (va len : Nat) (oks : List Bool) : Option (Nat × Nat) :=
  match (oks.zipIdx.filter (·.1)).map (·.2) with
  | [] => none
  | i :: rest =>
    let lo := max va ((va / 128 + i) * 128)
    let hi := min (va + len) ((va / 128 + (rest.getLastD i) + 1) * 128)
    some (lo, hi - lo)

/-- The primary pair of an extent, if it has one. -/
def State.primaryPair (s : State) (p idx : Nat) : Option Nat :=
  match s.pairOf p idx with
  | some n => if pdSecondary (s.pair n) then none else some n
  | none => none

/-- What a write of a request must still wait for: the key of its extent (R382), cached copies (R163), an earlier pair
write of the same bytes (R103, R239). -/
def State.writeWaits (s : State) (e va len : Nat) (r : Req) : Option (Wait × State) :=
  if s.keySt (eDxn e) = 0 then some (.key (eDxn e), s)
  else
    match s.toRecall e va len true with
    | ln :: rest => some (.recalling ln, s.startRecalls (ln :: rest))
    | [] =>
      match s.primaryPair (handlePart r.h.handle) (vaIndex va) with
      | some n =>
        if s.pairClash n (va / 128 * 128 % 2 ^ 28) (len + va % 128) then some (.pairTurn n, s) else none
      | none => none

/-- WRITE at the home. -/
def State.serveWrite (s : State) (r : Req) (noise : List (Nat × Nat)) : State :=
  let va := leAt r.body 0 8
  let len := leAt r.body 8 2
  let p := handlePart r.h.handle
  match s.homeCheck r.h.handle r.bind va true with
  | .fail st tag => s.failHome r va st tag
  | .erasing d => s.hold (.erase d) r
  | .ok e =>
    match s.writeWaits e va len r with
    | some (w, s) => s.hold w r
    | none =>
      let w := s.writeBytes e va (slice r.body 16 len) r.h.handle noise
      let ok := w.1.all id
      let s1 := if ok then w.2 else w.2.noteFault p
      let st := if ok then Code.ok else s.badStatus p
      match s.primaryPair p (vaIndex va), writtenRange va len w.1 with
      | some n, some (a, l) => s1.pairAnswer n e a l r st []
      | _, _ => s1.answerSt r st

/-! ### ATOMIC (R100) -/

/-- The value that an atomic stores, from the old value and the operands as numbers of `size` bytes. -/
def atomicResult (op size old a b : Nat) : Nat :=
  let w := 8 * size
  if op = 0 then (old + a) % 2 ^ w
  else if op = 1 then a
  else if op = 2 then if old = a then b else old
  else if op = 3 then old &&& a
  else if op = 4 then old ||| a
  else if op = 5 then old ^^^ a
  else if op = 6 then if toSigned w a < toSigned w old then a else old
  else if op = 7 then if toSigned w old < toSigned w a then a else old
  else if op = 8 then min old a
  else if op = 9 then max old a
  else fadd32 old a

/-- ATOMIC at the home. -/
def State.serveAtomic (s : State) (r : Req) (noise : List (Nat × Nat)) : State :=
  let va := leAt r.body 0 8
  let op := leAt r.body 8 1
  let size := leAt r.body 9 1
  let p := handlePart r.h.handle
  match s.homeCheck r.h.handle r.bind va true with
  | .fail st tag => s.failHome r va st tag
  | .erasing d => s.hold (.erase d) r
  | .ok e =>
    match s.writeWaits e va size r with
    | some (w, s) => s.hold w r
    | none =>
      match s.retryDue e va size r.h.handle r.retried noise with
      | some (i, ln) => (s.demand ln r.h.handle (noiseOf noise i) false).2.hold (.retry ln) r
      | none =>
        let lva := va / 128 * 128
        let g := s.readLine e lva r.h.handle (noiseOf noise 0) (r.retried.contains (s.homeDpa e lva / 128))
        match g.1 with
        | .bad _ =>
          if s.poisonMode p then (g.2.answer r 0x83 Code.poisoned (List.replicate 16 0#8)).noteFault p
          else (g.2.answerSt r Code.dataError).noteFault p
        | .data l =>
          let old := leAt l (va % 128) size
          let new := atomicResult op size old (leAt r.body 16 size) (leAt r.body 32 size)
          let w := g.2.writePiece e lva (splice l (va % 128) (toLE size new)) r.h.handle [] []
          let body := padTo 16 (toLE size old)
          match s.primaryPair p (vaIndex va) with
          | some n => w.2.pairAnswer n e va size r Code.ok body
          | none => w.2.answer r 0x83 Code.ok body

/-! ### HEARTBEAT (R149 to R151) -/

/-- HEARTBEAT_FRAMES of binding `b`, with its default (R149). -/
def State.leaseH (s : State) (b : Nat) : Nat := let v := fld (s.rd (K.leaseParams b)) 15 0; if v = 0 then 40 else v
/-- EXPIRY_FRAMES of binding `b`, with its default (R149). -/
def State.leaseE (s : State) (b : Nat) : Nat := let v := fld (s.rd (K.leaseParams b)) 31 16; if v = 0 then 400 else v

/-- HEARTBEAT at the lease table. -/
def State.serveHeartbeat (s : State) (r : Req) : State :=
  let st := s.rd (K.leaseState r.bind)
  if st ≠ 1 ∧ st ≠ 2 then s.answerSt r Code.leaseExpired
  else
    let x := s.frame + s.leaseE r.bind
    let s := { s with lease := { s.lease with lastBeat := Tab.set s.lease.lastBeat r.bind s.frame } }
    (s.wrs [(K.leaseState r.bind, 1), (K.leaseExpiry r.bind, x)]).answer r 0x85 Code.ok (toLE 8 x)

/-! ### PAIR_WRITE received (R236) -/

/-- PAIR_WRITE at the part that holds the secondary. -/
def State.servePairWrite (s : State) (r : Req) : State :=
  let pr := leAt r.body 0 4
  let off := leAt r.body 8 8
  let len := leAt r.body 16 2
  let d := s.pair (pr % 1024)
  if !pdValid d || pdInc d ≠ pr / 1024 then s.answerSt r Code.noSuchObject
  else if !pdSecondary d then s.answerSt r Code.noAccess
  else if 2 ^ 28 < off + len ∨ off % 128 ≠ 0 then s.answerSt r Code.badRequest
  else
    let e := s.entry (pdPart d) (pdExtent d)
    let va := eTag e * 2 ^ 42 + pdExtent d * 2 ^ 28 + off
    if !eValid e then s.answerSt r Code.noSuchObject
    else if (Tab.find s.erasing (eDxn e)).isSome then s.hold (.erase (eDxn e)) r
    else if !s.tagOk e va (s.handleOf (pdPart d)) then
      (s.tagRefusal e va (s.handleOf (pdPart d)) r.port).answerSt r Code.notMapped
    else if s.keySt (eDxn e) = 0 then s.hold (.key (eDxn e)) r
    else
      let w := s.writeBytes e va (slice r.body 24 len) (s.handleOf (pdPart d)) []
      w.2.answerSt r (if w.1.all id then Code.ok else s.badStatus (pdPart d))

/-! ### Coherence requests at the home (R102, R106, R173) -/

/-- RD_SHARED, RD_OWN, UPGRADE, DIRTY_NOTIFY, WRITEBACK and EVICT_CLEAN at the home. -/
def State.serveCoherence (s : State) (r : Req) : State :=
  let va := leAt r.body 0 8
  match s.cohCheck r va with
  | .fail st tag => s.failHome r va st tag
  | .erasing d => s.hold (.erase d) r
  | .ok e =>
    let ln := s.homeDpa e va / 128
    if r.op = 0x33 then s.cohDirty ln r
    else if r.op = 0x34 then s.cohWriteback ln r
    else if r.op = 0x35 then s.cohEvictClean ln r
    else s.cohRequest ln r

/-! ### Writes by the part's own agents -/

/-- Draw the key of an extent that has none, for a write by an agent of the part (log entry 16). -/
def State.needKey (s : State) (d : Nat) : State := if s.keySt d = 0 then s.drawKey d else s

/-- A write of at most a granule by an agent acting for partition `p`: the lines written, and the pair followed. -/
def State.agentWrite (s : State) (p e va : Nat) (d : List Byte) (handle : Nat) : List Bool × State :=
  let w := (s.needKey (eDxn e)).writeBytes e va d handle []
  match writtenRange va d.length w.1 with
  | some (a, l) => (w.1, w.2.pairForward p e a l)
  | none => w

end Sys2Proof.Machine
end

