-- ==== Sys2Proof/Machine/Takes.lean ====
section
/-!
DEFINITION. Takes (02 R38 to R45, R153): the shadow, staging, the pending take and its arming, and changes that the part
makes without a take. The checks at commit and the effects of a take are gathered in TakeRules.lean and Slate.lean.
-/

namespace Sys2Proof.Machine

/-- TAKE_STATE (R55): 0 IDLE, 1 STAGING, 2 PENDING, 3 ARMED. -/
def State.takeState (s : State) : Nat := s.rd K.takeState

/-- The shadow value of an RWT element: as staged, or its live half (R38, R153). -/
def State.sh (s : State) (k : Nat) : Nat := (Tab.find s.take.staged k).getD (s.rd k)

/-- Take control replaced. -/
def State.setTake (s : State) (t : TakeCtl) : State := { s with take := t }

/-- Back to IDLE with nothing staged or pending (R38). TAKE_PENDING_FRAME reads 0 again (log entry 17). -/
def State.takeIdle (s : State) : State :=
  (s.setTake { s.take with session := none, staged := [], stale := none, cont := none, tokens := [], target := 0 }).wrs
    [(K.takeState, 0), (K.takePendingFrame, 0)]

/-- TAKE_LAST_RESULT and TAKE_REJECT_ENTRY. -/
def State.takeResult (s : State) (st entry : Nat) : State :=
  s.wrs [(K.takeLastResult, st), (K.takeRejectEntry, entry)]

/-- The number of the coming slate, counting a FRAME_NUMBER_LOAD accepted and not yet compared (R36, R42). -/
def State.comingFrame (s : State) : Nat :=
  match s.fl.loadPending with
  | some l => if s.rd K.slateSource = 1 then s.frame + 1 else max l (s.frame + 1)
  | none => s.frame + 1

/-- The frame number of the slate at which a pending take of target `t` will apply, seen from time `now` (R42): the coming one
while its arm point, 20 us before it, has not passed. -/
def State.pendingFrame (s : State) (t : Nat) : Nat :=
  max t (if s.fl.now + 20000 ≤ s.frameNs then s.comingFrame else s.comingFrame + 1)

/-- TAKE_PENDING_FRAME follows what is pending, or armed for the coming slate (R42). -/
def State.showPending (s : State) : State :=
  if s.takeState = 2 then s.wr K.takePendingFrame (s.pendingFrame s.take.target)
  else if s.takeState = 3 then s.wr K.takePendingFrame s.comingFrame
  else s

/-- The first slate at least 50 us after time `now` in the frame (R40). -/
def State.earliestTarget (s : State) : Nat :=
  if s.fl.now + 50000 ≤ s.frameNs then s.comingFrame else s.comingFrame + 1

/-- A change that the part makes to a live element of an RWT entry (R153). A shadow element not staged follows it. -/
def State.partMade (s : State) (k v : Nat) : State :=
  let s1 := (s.wr k v).setTake { s.take with digestDue := true }
  if (Tab.find s.take.staged k).isNone then s1
  else if s.takeState = 1 then
    s1.setTake { s1.take with stale := some ((s.take.stale).getD (k / 16777216)) }
  else (s1.takeIdle).takeResult Code.takeStaleBase (k / 16777216)

/-! ### Accepting writes to the take-control entries (R39 to R41, R496): each answers a status -/

/-- The write comes from the session that opened the staging. -/
def State.stager (s : State) (sess : Nat) : Bool := s.take.session = some sess

/-- TAKE_STAGE_OPEN (R39, R44). -/
def State.stageOpen (s : State) (sess v : Nat) : Nat × State :=
  if s.takeState ≠ 0 then (Code.busy, s)
  else if v ≠ s.rd K.takeNumber then (Code.takeStaleBase, s)
  else (Code.ok, (s.setTake { s.take with session := some sess, base := v, staged := [], stale := none, tokens := [] }).wr
    K.takeState 1)

/-- TAKE_STAGE_CLOSE (R496). -/
def State.stageClose (s : State) (sess v : Nat) : Nat × State :=
  if v = 0 then (Code.ok, s)
  else if s.takeState ≠ 1 ∨ !s.stager sess then (Code.busy, s)
  else (Code.ok, s.takeIdle)

/-- TAKE_TARGET_FRAME (R496). -/
def State.targetWrite (s : State) (sess v : Nat) : Nat × State :=
  if s.takeState = 1 ∧ !s.stager sess then (Code.busy, s) else (Code.ok, s.wr K.takeTargetFrame v)

/-- TAKE_ABORT (R41, R496). -/
def State.takeAbort (s : State) (v : Nat) : Nat × State :=
  if v = 0 then (Code.ok, s)
  else if s.takeState = 3 then (Code.takeArmed, s)
  else if s.takeState ≠ 2 then (Code.busy, s)
  else (Code.ok, s.takeIdle)

/-- TAKE_COMMIT (R40, R496). After a part-made change has made the staging stale, every commit of it is refused, until it is
closed: 06 R153 says so of the next one (DESIGN CHOICE, log entry 131). `fault` is the first failure of the shadow's validation: (status, entry). -/
def State.takeCommit (s : State) (sess v : Nat) (fault : Option (Nat × Nat)) : Nat × State :=
  if v = 0 then (Code.ok, s)
  else if s.takeState ≠ 1 ∨ !s.stager sess then (Code.busy, s)
  else
    let reject := fun (st e : Nat) => (st, s.takeResult st e)
    let t := s.rd K.takeTargetFrame
    match fault with
    | some (st, e) => reject st e
    | none =>
      if s.take.base ≠ s.rd K.takeNumber then reject Code.takeStaleBase 0
      else
        match s.take.stale with
        | some e => reject Code.takeStaleBase e
        | none =>
          if t ≠ 0 ∧ t < s.earliestTarget then reject Code.takeTooLate 0
          else if s.frame + 240000 < t then reject Code.takeTooEarly 0
          else
            let target := if t = 0 then s.earliestTarget else t
            (Code.ok, (((s.setTake { s.take with target := target }).wr K.takeState 2).showPending).takeResult Code.ok 0)

/-- The arm point, 20 us before the coming slate (R41, R42): a pending take whose slate is coming arms, or fails when a tile
has not acknowledged. -/
def State.armPoint (s : State) (acked : Bool) : State :=
  if s.takeState = 2 ∧ s.take.target ≤ s.comingFrame then
    if acked then s.wrs [(K.takeState, 3), (K.takePendingFrame, s.comingFrame)]
    else s.takeIdle.takeResult Code.takeFailed 0
  else s

/-- The end of a session discards the staging it opened (R43). -/
def State.stagingSessionEnds (s : State) (sess : Nat) : State :=
  if s.takeState = 1 && s.stager sess then s.takeIdle else s

/-- A warm reset discards an open staging and a take pending or armed (R43). -/
def State.takeWarmReset (s : State) : State :=
  if s.takeState = 2 ∨ s.takeState = 3 then s.takeIdle.takeResult Code.takeFailed 0
  else if s.takeState = 1 then s.takeIdle else s

/-- The lead firmware's own slot-map take with its staging, from IDLE: not yet validated (R44). -/
def State.continuityStage (s : State) (slot target : Nat) : State :=
  s.setTake { s.take with base := s.rd K.takeNumber, staged := [(K.slotMap slot, target)], cont := some (slot, target) }

/-- The lead firmware commits its own slot-map take at the minimum lead (R44), `fault` being the first failure of its
validation under R40: a take refused leaves IDLE, and its result shows as any other's. -/
def State.continuityCommit (s : State) (slot target : Nat) (fault : Option (Nat × Nat)) : State :=
  if s.takeState ≠ 0 then s
  else
    match fault with
    | some (st, e) => s.takeResult st e
    | none =>
      let s := s.continuityStage slot target
      (((s.setTake { s.take with target := s.earliestTarget }).wr K.takeState 2).showPending).takeResult Code.ok 0

end Sys2Proof.Machine
end

