-- ==== Sys2Proof/Machine/StackCtl.lean ====
section
/-!
DEFINITION. Stack controllers (ch. 08): phases and bank groups, the pick of R191 with its budgets, refresh, the hammer
defence, power-down, and the training helpers. The data effect of a burst is in memory when its request is served (log
entry 12): the queues here decide when a burst is issued and what it is charged.
-/

namespace Sys2Proof.Machine

/-! ### Phases, bank groups and windows (R186, R187, R190) -/

/-- Owner of phase `k`: a sealed partition, or none for an open phase (R127, R186). -/
def State.phaseOwner (s : State) (k : Nat) : Option Nat :=
  let v := s.rd (K.meshPhaseMap k)
  if k = 0 ∨ 63 < v then none else some v

/-- Owner of bank group `g` (R186). -/
def State.groupOwner (s : State) (g : Nat) : Option Nat := if g < 3 then none else s.phaseOwner (g - 2)

/-- Owner of a bank's group. -/
def State.bankOwner (s : State) (bank : Nat) : Option Nat := s.groupOwner (bank / 4)

/-- Slot `k` is a reserve slot (R187). -/
def reserveSlot (k : Nat) : Bool := k / 10 % 111 = 0

/-- Time `t` of the frame lies in a system window of `bank` (R190). -/
def inWindow (bank t : Nat) : Bool :=
  let o := 512 * (bank % 4)
  o ≤ t % 2048 && t % 2048 < o + 128

/-- System work may use `bank` at time `t`: always in an open group, inside the bank's windows in an owned one (R190). -/
def State.systemMay (s : State) (bank t : Nat) : Bool := (s.bankOwner bank).isNone || inWindow bank t

/-- Bank `b` of pseudo-channel `pc` of tile `t`. -/
def State.bank (s : State) (t pc b : Nat) : Bank := Tab.getD (s.stack t).banks (pc * 48 + b) {}

/-- Replace it. -/
def State.setBank (s : State) (t pc b : Nat) (v : Bank) : State :=
  s.updStack t (fun k => { k with banks := Tab.set k.banks (pc * 48 + b) v })

/-! ### Budgets (R48, R187, R193, R196, R198, R201) -/

/-- This frame is a maintenance-window frame of pseudo-channel `pc` of tile `t`, or one in which it retrains with no sealed
partition in the take (R201). -/
def State.maintenance (s : State) (t pc : Nat) : Bool :=
  if s.anySealed then
    match s.slotOfTile t with
    | some slot => s.frame % 4096 = 128 * pc + 4 * slot
    | none => false
  else (s.stack t).retrained = some (pc, s.frame)

/-- Burst and activation budgets of partition `p` in pseudo-channel `pc` of tile `t` this frame. -/
def State.pcBudget (s : State) (t pc p : Nat) : Nat × Nat :=
  let b := Tab.getD (s.stack t).budget p (0, 0)
  if s.maintenance t pc then (b.1 * 228 / 248, b.2 * 228 / 248) else b

/-- Bursts that partition `p` has used of its budget in pseudo-channel `pc`. -/
def Stack.bursts (k : Stack) (p pc : Nat) : Nat := Tab.getD k.burstUsed (p * 32 + pc) 0
/-- Activations used, likewise. -/
def Stack.acts (k : Stack) (p pc : Nat) : Nat := Tab.getD k.actUsed (p * 32 + pc) 0

/-- A partition's hammer throttle is in force at tile `t` (R198). -/
def State.isThrottled (s : State) (t p : Nat) : Bool := s.rd (K.throttled t p) ≠ 0

/-- Activations of pseudo-channel `pc` that no sealed partition is allotted and no shared one has used (R51, R187). -/
def State.actsLeft (s : State) (t pc : Nat) : Nat :=
  let k := s.stack t
  let mine := ((List.range 64).filter s.isSealed).map (fun p => (s.pcBudget t pc p).2) |>.sum
  let used := ((List.range 64).filter (fun p => !s.isSealed p)).map (fun p => k.acts p pc) |>.sum
  32768 - mine - used

/-! ### The pick (R191) -/

/-- Partition a burst is charged to; none for the system. -/
def Burst.part (b : Burst) : Option Nat := if b.handle = 0 then none else some (handlePart b.handle)
/-- Pseudo-channel of a burst. -/
def Burst.pc (b : Burst) : Nat := pcOf (b.line * 128)
/-- Bank of a burst. -/
def Burst.bank (b : Burst) : Nat := bankOf (b.line * 128)
/-- Row of a burst. -/
def Burst.row (b : Burst) : Nat := rowOf (b.line * 128)

/-- The bursts of pseudo-channel `pc` that are in its queues, not still at the extent unit: 16 reads for each bank, 64 writes
in the open write queue, 8 in each sealed partition's (R191). -/
def State.queuedAt (s : State) (t pc : Nat) : List Burst :=
  let mine := (s.stack t).queue.filter (fun b => b.pc = pc)
  let open? := fun (b : Burst) => match b.part with | some p => !s.isSealed p | none => true
  let ahead : List Burst → Burst → Bool := fun l b =>
    if b.wr then
      if open? b then decide ((l.filter (fun c => c.wr && open? c)).length < 64)
      else decide ((l.filter (fun c => c.wr && c.part == b.part)).length < 8)
    else decide ((l.filter (fun c => !c.wr && c.bank = b.bank)).length < 16)
  mine.foldl (fun l b => if ahead l b then l ++ [b] else l) []

/-- A read that matches an earlier queued write of its line waits for it (R192): `older` are the bursts before it. -/
def heldRead (older : List Burst) (b : Burst) : Bool := !b.wr && older.any (fun c => c.wr && c.line = b.line)

/-- A burst needs an activation. -/
def State.needsAct (s : State) (t : Nat) (b : Burst) : Bool :=
  let k := s.bank t b.pc b.bank
  k.row ≠ some b.row || s.eff (K.rowHitCap t) ≤ k.hits

/-- Rank in which a burst may be served, lowest first: 0 within its budget or for the system; by redistribution, beyond its share in
proportion to it, and last without one, in equal turns (R51, R191 step 6). None when it is passed over. -/
def State.turnOf (s : State) (t : Nat) (b : Burst) : Option Nat :=
  match b.part with
  | none => some 0
  | some p =>
    let k := s.stack t
    let bud := s.pcBudget t b.pc p
    let act := s.needsAct t b
    if k.bursts p b.pc < bud.1 && (!act || k.acts p b.pc < bud.2) then some 0
    else if s.isSealed p || s.isThrottled t p then none
    else if act && s.actsLeft t b.pc = 0 then none
    else
      let n := match s.slotOfTile t with
        | some slot => s.rd (K.bwShares p slot)
        | none => 0
      some (if n = 0 then 2 ^ 40 + k.bursts p b.pc else 1 + (k.bursts p b.pc - bud.1) * 4096 / n)

/-- The bursts that slot `k` of pseudo-channel `pc` may carry for one user: `ready` are the banks whose next command meets
every parameter of R185 for the slot. -/
def State.candidates (s : State) (t pc k : Nat) (ready : List Nat) (sys : Bool) : List Burst :=
  let q := s.queuedAt t pc
  let user := s.phaseOwner (k % 10)
  let fits := fun (b : Burst) =>
    ready.contains b.bank &&
    (match b.part with
      | none => (sys || user.isNone) && s.systemMay b.bank (2 * k)
      | some p =>
        if sys then false
        else match user with
          | some u => p = u && s.bankOwner b.bank = some u && !inWindow b.bank (2 * k)
          | none => !s.isSealed p && (s.bankOwner b.bank).isNone)
  let okd := (q.zipIdx.filter (fun x => fits x.1 && !heldRead (q.take x.2) x.1)).map (·.1)
  let turns := okd.filterMap (s.turnOf t)
  okd.filter (fun b => (s.turnOf t b).isSome && s.turnOf t b = turns.min?)

/-- Reads before writes, but for a write that a read waits on and a queue that drains (R191 step 5). -/
def State.preferred (s : State) (t pc : Nat) (sealedUser : Option Nat) (l : List Burst) : List Burst :=
  let q := s.queuedAt t pc
  let waitedOn := l.filter (fun b => b.wr && q.zipIdx.any (fun x => heldRead (q.take x.2) x.1 && x.1.line = b.line))
  let drains := match sealedUser with
    | some p => 8 ≤ (q.filter (fun b => b.wr && b.part = some p)).length
    | none => (s.stack t).draining.contains pc
  let reads := l.filter (fun b => !b.wr)
  let writes := l.filter (fun b => b.wr)
  if !waitedOn.isEmpty then waitedOn
  else if drains && !writes.isEmpty then writes
  else if !reads.isEmpty then reads else writes

/-- The bank that serves the slot: the oldest request's for a sealed user, else the first in rotation (R191 step 3). -/
def State.pickBank (s : State) (t pc : Nat) (sealedUser : Option Nat) (l : List Burst) : Option Nat :=
  match sealedUser with
  | some _ => l.head?.map (·.bank)
  | none =>
    let last := Tab.getD (s.stack t).lastBank pc 47
    ((List.range 48).map (fun i => (last + 1 + i) % 48)).find? (fun b => l.any (fun x => x.bank = b))

/-- The burst that slot `k` of pseudo-channel `pc` of tile `t` carries (R191). -/
def State.pick (s : State) (t pc k : Nat) (ready : List Nat) : Option Burst :=
  let user := s.phaseOwner (k % 10)
  let sys := if reserveSlot k then s.candidates t pc k ready true else []
  let l := if sys.isEmpty then s.preferred t pc user (s.candidates t pc k ready false) else s.preferred t pc none sys
  match s.pickBank t pc (if sys.isEmpty then user else none) l with
  | none => none
  | some b =>
    let mine := l.filter (fun x => x.bank = b)
    match mine.find? (fun x => !s.needsAct t x) with
    | some x => some x
    | none => mine.head?

/-! ### Hammer defence (R197, R198) -/

/-- Count an activation of row `x` in a bank's aggressor table. -/
def Bank.activate (k : Bank) (x thr : Nat) : Bank :=
  let hit := fun (n : Nat) (tb : List (Nat × Nat)) =>
    { k with table := tb, targets := if thr ≠ 0 ∧ n % thr = 0 then k.targets ++ [x] else k.targets }
  match k.table.find? (fun e => e.1 = x) with
  | some e => hit (e.2 + 1) (k.table.map (fun f => if f.1 = x then (x, f.2 + 1) else f))
  | none =>
    if k.table.length < 384 ∧ k.spill = 0 then hit 1 (k.table ++ [(x, 1)])
    else
      match k.table.find? (fun e => e.2 = k.spill) with
      | some e => hit (k.spill + 1) (k.table.map (fun f => if f = e then (x, k.spill + 1) else f))
      | none => { k with spill := k.spill + 1 }

/-- Ownership tag of the device frame of a row: 0 for the reserved area. -/
def State.rowTag (s : State) (bank row : Nat) : Nat :=
  let d := row / 16 * 12 + bank / 4
  if d < 16256 then Tab.getD s.tags d 0 else 0

/-- Charge one burst, and its activation if it needs one (R193). -/
def State.chargeBurst (s : State) (t : Nat) (b : Burst) (act : Bool) : State :=
  match b.part with
  | none => if act then s.meterAdd 64 Mt.acts 1 else s
  | some p =>
    let s1 := s.updStack t (fun k => { k with
      burstUsed := Tab.set k.burstUsed (p * 32 + b.pc) (k.bursts p b.pc + 1)
      actUsed := if act then Tab.set k.actUsed (p * 32 + b.pc) (k.acts p b.pc + 1) else k.actUsed })
    if act then s1.meterAdd p Mt.acts 1 else s1

/-- Remove the first burst equal to `b`. -/
def dropBurst (l : List Burst) (b : Burst) : List Burst := l.erase b

/-- The scrub correction that a system write of line `ln` carries is in memory (09 R210, R214). -/
def State.fixDone (s : State) (t : Nat) (b : Burst) : State :=
  let ln := t * 2 ^ 30 + b.line
  match if b.wr && b.handle = 0 then Tab.find (s.stack t).fixWait ln else none with
  | some f => (s.setErrs ln (addErrs (s.errsOf ln) f)).updStack t (fun k => { k with fixWait := Tab.erase k.fixWait ln })
  | none => s

/-- Issue burst `b`: the row is opened if need be, counted against row hammering, and precharged after its last hit (R191). -/
def State.issue (s : State) (t : Nat) (b : Burst) (rotate : Bool) : State :=
  let act := s.needsAct t b
  let cap := s.eff (K.rowHitCap t)
  let thr := s.eff (K.hammerThreshold t)
  let s1 := (s.updStack t (fun k => { k with
    queue := dropBurst k.queue b
    lastBank := if rotate then Tab.set k.lastBank b.pc b.bank else k.lastBank
    down := k.down.filter (· ≠ b.pc) })).chargeBurst t b act
  let bk := s1.bank t b.pc b.bank
  let bk := if act then { bk.activate b.row thr with row := some b.row, hits := 1 } else { bk with hits := bk.hits + 1 }
  let more := (s1.queuedAt t b.pc).any (fun x => x.bank = b.bank && x.row = b.row)
  let bk := if !more || cap ≤ bk.hits then { bk with row := none, hits := 0 } else bk
  let s2 := (s1.setBank t b.pc b.bank bk).count (K.stackCounts t (if b.wr then 2 else 1)) 1
  (if act then s2.count (K.stackCounts t 0) 1 else s2).fixDone t b

/-- Every queued write to device extent `d` is issued (06 R144 step 1). -/
def State.drainWrites (s : State) (d : Nat) : State :=
  s.stackTab.foldl (fun (s : State) e =>
    (e.2.queue.filter (fun b => b.wr && dpos (b.line * 128) = d)).foldl (fun (s : State) b => s.issue e.1 b false) s) s

/-- The open write queue of a pseudo-channel starts draining at WQ_HIGH and stops at WQ_LOW (R191 step 5). -/
def State.followDrain (s : State) (t pc : Nat) : State :=
  let n := ((s.queuedAt t pc).filter (fun b => b.wr && (match b.part with | some p => !s.isSealed p | none => true))).length
  let d := (s.stack t).draining
  let d := if s.eff (K.wqHigh t) ≤ n then d.filter (· ≠ pc) ++ [pc]
    else if n ≤ s.eff (K.wqLow t) then d.filter (· ≠ pc) else d
  s.updStack t (fun k => { k with draining := d })

/-- Halves of refresh intervals that fall due in a frame at the period in force: 16 ms or shorter in an owned group (R195). -/
def State.refreshHalves (s : State) (t g : Nat) : Nat :=
  let r := s.rd (K.retention t)
  let r := if (s.groupOwner g).isSome then max r 1 else r
  if r = 0 then 43 else if r = 1 then 86 else 172

/-- Half intervals of refresh that bank `b` owes at time `now` of the frame (R195, R48). -/
def State.refreshOwed (s : State) (t pc b now : Nat) : Int :=
  let g := b / 4
  ((s.stack t).refDue.getD g 0 : Int) + (s.refreshHalves t g * now / 250000 : Nat) - 2 * (s.bank t pc b).issued

/-- STACK_BURST_PICK: slot `k` of pseudo-channel `pc` of tile `tile`. -/
def execStackBurstPick (tile pc k : Nat) (ready : List Nat) (s : State) : Out :=
  let st := s.rd (K.stackState tile)
  let can := ready.filter (fun b => (s.bankOwner b).isSome || s.refreshOwed tile pc b (2 * k) ≤ 16)
  .next (
    if (st = 3 ∨ st = 4) ∧ k < 124000 ∧ (s.stack tile).retraining ≠ some pc then
      let s := s.followDrain tile pc
      match s.pick tile pc k can with
      | none => s
      | some b => (s.issue tile b (s.phaseOwner (k % 10)).isNone).followDrain tile pc
    else s)

/-! ### Refresh (R195) -/

/-- Bank `b` is idle: no row open and nothing queued for it. -/
def State.bankIdle (s : State) (t pc b : Nat) : Bool :=
  (s.bank t pc b).row = none && !((s.stack t).queue.any (fun x => x.pc = pc && x.bank = b))

/-- A refresh of bank `b` may be issued at time `now`: when due, or pulled in by at most 8 intervals while the bank is idle, in an
open group; when due and inside a system window in an owned one. -/
def State.refreshMay (s : State) (t pc b now : Nat) : Bool :=
  if (s.bankOwner b).isNone then 0 < s.refreshOwed t pc b now || (-14 ≤ s.refreshOwed t pc b now && s.bankIdle t pc b)
  else 0 < s.refreshOwed t pc b now && inWindow b now

/-- PER_BANK_REFRESH: 8 rows of bank `bank` are renewed; the 2,752nd refresh ends the pass and clears the hammer table. -/
def execPerBankRefresh (tile pc bank t : Nat) (s : State) : Out :=
  let s := s.at t
  .next (
    if s.domainsOn tile ∧ s.rd (K.stackState tile) ≠ 0 ∧ bank < 48 ∧ (s.stack tile).retraining ≠ some pc
        ∧ s.refreshMay tile pc bank t = true then
      let k := s.bank tile pc bank
      let k := { k with issued := k.issued + 1, row := none, hits := 0 }
      let k := if k.pass + 1 = 2752 then { k with pass := 0, table := [], spill := 0 } else { k with pass := k.pass + 1 }
      ((s.setBank tile pc bank k).updStack tile (fun x => { x with down := x.down.filter (· ≠ pc) })).count
        (K.stackCounts tile 3) 1
    else s)

/-- TARGETED_REFRESH: the neighbours of the oldest aggressor row due in bank `bank` are renewed, and the event is logged and
charged (R197, R198). -/
def execTargetedRefresh (tile pc bank t : Nat) (s : State) : Out :=
  let s := s.at t
  let k := s.bank tile pc bank
  .next (
    match k.targets with
    | [] => s
    | x :: rest =>
      if s.domainsOn tile && s.systemMay bank t then
        let tag := s.rowTag bank x
        let s := s.setBank tile pc bank { k with targets := rest, row := none, hits := 0 }
        let s := s.updStack tile (fun q => { q with down := q.down.filter (· ≠ pc) })
        let e := tag * 2 ^ 48 + pc * 2 ^ 43 + bank * 2 ^ 37 + x % 2 ^ 15 * 2 ^ 22 + s.frame % 2 ^ 22
        let s := (s.updStack tile (fun q => { q with hammerLog := keepLast 64 (q.hammerLog ++ [e]) })).count
          (K.stackCounts tile 4) 1
        if tag = 0 then s
        else
          let p := handlePart tag
          (s.updStack tile (fun q => { q with hammered := Tab.set q.hammered p (Tab.getD q.hammered p 0 + 1) })).meterAdd p
            Mt.hammer 1
      else s)

/-- HAMMER_THROTTLE_START: partition `p` has reached HAMMER_EVENT_LIMIT on tile `tile` in this frame (R198): what remains of
its activation budget is cut, and the throttle lasts to the slate after the next frame. -/
def execHammerThrottleStart (tile p : Nat) (s : State) : Out :=
  let k := s.stack tile
  .next (
    if s.domainsOn tile ∧ s.eff (K.hammerEventLimit tile) ≤ Tab.getD k.hammered p 0 ∧ s.rd (K.throttled tile p) ≠ 2 ∧ p < 64 then
      let cut := (List.range 32).foldl (fun (a : Tab Nat) pc =>
        let left := (s.pcBudget tile pc p).2 - k.acts p pc
        Tab.set a (p * 32 + pc) (k.acts p pc + (left - left * s.eff (K.hammerThrottle tile) / 256))) k.actUsed
      ((s.setStack tile { k with actUsed := cut, throttleEnd := Tab.set k.throttleEnd p (s.frame + 2) }).wr
        (K.throttled tile p) 2).count (K.stackCounts tile 5) 1
    else s)

/-- The throttle of partition `p` at tile `t` ends when its slate has come (R198). -/
def State.throttleEnds (s : State) (t p : Nat) : State :=
  match Tab.find (s.stack t).throttleEnd p with
  | none => s
  | some f =>
    if f ≤ s.frame then
      (s.updStack t (fun k => { k with throttleEnd := Tab.erase k.throttleEnd p })).wr (K.throttled t p) 0
    else s.wr (K.throttled t p) (f - s.frame)

/-- HAMMER_THROTTLE_END. -/
def execHammerThrottleEnd (tile p : Nat) (s : State) : Out := .next (s.throttleEnds tile p)

/-! ### Power-down (R199) -/

/-- POWER_DOWN_ENTRY: pseudo-channel `pc` has been idle for PD_TIMER at time `t`, and no refresh falls due within PD_TIMER. -/
def execPowerDownEntry (tile pc t : Nat) (s : State) : Out :=
  let s := s.at t
  let k := s.stack tile
  .next (
    if s.domainsOn tile ∧ s.rd (K.stackState tile) ≠ 0
        ∧ (List.range 48).all (fun b => s.refreshOwed tile pc b (t + s.eff (K.pdTimer tile)) ≤ 0) ∧ !s.anySealed ∧ !k.down.contains pc ∧ !(k.queue.any (fun b => b.pc = pc))
        ∧ (List.range 48).all (fun b => (s.bank tile pc b).row = none) then
      (s.setStack tile { k with down := k.down ++ [pc] }).count (K.stackCounts tile 7) 1
    else s)

/-! ### Continuity triggers and stack loss (10 R224, R234) -/

/-- Note a firmware trigger for slot `slot` (R224): kind 3 degradation, 4 rebuild of a lost stack. -/
def State.trigger (s : State) (slot kind : Nat) : State :=
  if s.cont.triggers.contains (slot, kind) then s
  else s.setCont { s.cont with triggers := s.cont.triggers ++ [(slot, kind)] }

/-- The trigger for the slot that tile `t` homes, if it homes one. -/
def State.triggerTile (s : State) (t kind : Nat) : State :=
  match s.slotOfTile t with
  | some slot => s.trigger slot kind
  | none => s

/-- Valid mirrored extents of partition `p`. -/
def State.mirroredOf (s : State) (p : Nat) : Nat :=
  (s.regs.filter (fun kv => kv.1 / 16777216 = (0x3400 + p) * 256 + 1 && eValid kv.2 && eMirrored kv.2)).length

/-- CONTINUITY_STATE follows: every mirrored extent has lines in every slot, so all are degraded while a stack in service is
lost (R234, R244). -/
def State.showDegraded (s : State) : State :=
  let lost := s.serviceTiles.any (fun t => (s.stack t).lost)
  (List.range 64).foldl (fun s p => s.wr (K.continuityState p) (if lost then s.mirroredOf p else 0)) s

/-- RELOC_STATUS of a relocation (R245). -/
def relocStatus (r : Reloc) (st progress : Nat) : Nat :=
  st * 2 ^ 28 + r.slot * 2 ^ 23 + r.source * 2 ^ 17 + r.target * 2 ^ 11 + min progress 2047

/-- The stack of tile `t` holds zero lines, raw; its fresh bits are set and its tags clear (09 R217). -/
def State.zeroStack (s : State) (t : Nat) : State :=
  { s with
    mem := s.mem.filter (fun c => c.1 / 2 ^ 37 ≠ t)
    errs := s.errs.filter (fun e => e.1 / 144 / 2 ^ 30 ≠ t)
    lineKey := s.lineKey.filter (fun e => e.1 / 2 ^ 30 ≠ t)
    written := s.written.filter (fun g => g / 2 ^ 25 ≠ t) }

/-- The record of tile `t`'s stack controller starts anew; its logs and its counts of corrections last to a cold reset (09 R219). -/
def State.freshStack (s : State) (t : Nat) : State :=
  let k := s.stack t
  s.setStack t { ({} : Stack) with errLog := k.errLog, hammerLog := k.hammerLog, corrections := k.corrections }

/-- The retention and service domains of tile `t` lose power: its stack is refreshed no longer and holds no data (01 R13, R14). -/
def State.powerOff (s : State) (t : Nat) : State :=
  ((s.zeroStack t).freshStack t).wrs [(K.stackState t, 0), (K.fillStatus t, 0)]

/-- The relocation in progress fails: its target becomes `to` and the slot stays on the source (R226, R230). -/
def State.relocFails (s : State) (goal : Nat) : State :=
  match s.cont.reloc with
  | none => s
  | some r =>
    let lost := (s.stack r.source).lost
    let s := (s.setCont { s.cont with reloc := none, dupsNext := [] }).powerOff r.target
    (s.wrs [(K.tileState r.target, goal), (K.slotState r.slot, if lost then 2 else 0), (K.relocStatus, relocStatus r 9 0)]).count
      (K.continuityCounts 1) 1

/-- A continuity take pending or armed is discarded, as R43 discards one at a warm reset (R230, log entry 75). -/
def State.contDiscard (s : State) : State :=
  if s.take.cont.isSome ∧ (s.takeState = 2 ∨ s.takeState = 3) then s.takeIdle.takeResult Code.takeFailed 0 else s

/-- The stack of tile `t` is lost (R234, R230). -/
def State.stackLost (s : State) (t : Nat) : State :=
  let s := (s.updStack t (fun k => { k with lost := true, queue := [] })).count (K.continuityCounts 3) 1
  match s.cont.reloc with
  | some r =>
    if r.target = t ∧ r.step < 8 then s.contDiscard.relocFails 5
    else if r.source = t ∧ r.step < 8 then
      (((s.setCont { s.cont with reloc := some { r with kind := 4, conv := decide (r.step = 4) } }).wr (K.slotState r.slot) 3).trigger
        r.slot 4).showDegraded
    else
      match s.slotOfTile t with
      | some slot => ((s.wr (K.slotState slot) 2).trigger slot 4).showDegraded
      | none => s
  | none =>
    match s.slotOfTile t with
    | some slot => ((s.wr (K.slotState slot) 2).trigger slot 4).showDegraded
    | none => s

/-- STACK_LOST: 64 reads of the stack in this frame decoded as uncorrectable after retry (R234). -/
def execStackLost (tile : Nat) (s : State) : Out :=
  .next (if 64 ≤ (s.stack tile).badReads ∧ !(s.stack tile).lost then s.stackLost tile else s)

/-! ### Training (R200, R203) -/

/-- TRAIN_STATUS. -/
def trainStatus (st pc retrain dur : Nat) : Nat := st * 2 ^ 30 + pc * 2 ^ 25 + retrain * 2 ^ 24 + min dur 65535

/-- A write of TRAIN_CTRL: accepted while STACK_STATE is 1 or 2; GO starts a step, if none runs (R200). -/
def State.trainCtrlWrite (s : State) (t v : Nat) : Nat × State :=
  let st := s.rd (K.stackState t)
  if st ≠ 1 ∧ st ≠ 2 then (Code.busy, s)
  else if bit (s.rd (K.trainCtrl t)) 31 then (Code.busy, s)
  else
    let s := s.wr (K.trainCtrl t) v
    (Code.ok, if bit v 31 then s.wr (K.trainStatus t) (trainStatus 1 (fld v 28 24) 0 0) else s)

/-- A write of elements of DQ_DELAYS: accepted while STACK_STATE is 1 or 2 (R200). -/
def State.dqWrite (s : State) (t : Nat) (l : List (Nat × Nat)) : Nat × State :=
  let st := s.rd (K.stackState t)
  if st ≠ 1 ∧ st ≠ 2 then (Code.busy, s) else (Code.ok, s.wrs (l.map (fun e => (K.dqDelays t e.1, e.2))))

/-- Every pseudo-channel of the tile is trained, or has failed its verification three times, or the stack is lost (R200). -/
def State.trainingEnded (s : State) (t : Nat) : Bool :=
  let k := s.stack t
  k.lost || decide (32 ≤ k.trained.length + (k.verifyFails.filter (fun e => decide (3 ≤ e.2) && !k.trained.contains e.1)).length)

/-- A cold boot's BOOT_STATUS reaches STEP 7 once the training of every in-service tile has ended (22 R479). -/
def State.bootReady (s : State) : State :=
  let v := s.rd K.bootStatus
  if fld v 31 28 = 6 && s.serviceTiles.all s.trainingEnded then s.wr K.bootStatus (setFld v 31 28 7) else s

/-- A pseudo-channel completes its training; the 32nd puts the stack in service (R200). -/
def State.trainedPc (s : State) (t pc : Nat) : State :=
  let s := s.updStack t (fun k => { k with trained := (k.trained.filter (· ≠ pc)) ++ [pc] })
  (if (s.stack t).trained.length = 32 then s.wr (K.stackState t) 3 else s).bootReady

/-- A verify that failed (R200): after the third the pseudo-channel fails, and the tile is failing for continuity. -/
def State.verifyFailed (s : State) (t pc : Nat) : State :=
  let n := Tab.getD (s.stack t).verifyFails pc 0 + 1
  let s := s.updStack t (fun k => { k with verifyFails := Tab.set k.verifyFails pc n })
  if 3 ≤ n then (s.triggerTile t 3).bootReady else s

/-- TRAIN_STEP_COMPLETE: `errs` are the mismatches of the 72 DQ lines, `mid` the midpoint of the widest passing window of a
command and address sweep (none when no tap passed), `dur` the duration in 100 ns. -/
def execTrainStepComplete (tile : Nat) (errs : List Nat) (mid : Option Nat) (dur : Nat) (s : State) : Out :=
  let v := s.rd (K.trainCtrl tile)
  let mode := fld v 30 29
  let pc := fld v 28 24
  .next (
    if bit v 31 then
      let bad := if mode = 3 then errs.any (· ≠ 0) else if mode = 2 then mid.isNone else false
      let s := (s.wr (K.trainCtrl tile) (v - 2 ^ 31)).wr (K.trainStatus tile) (trainStatus (if bad then 3 else 2) pc 0 dur)
      let s := s.wrs ((List.range 72).map (fun i => (K.trainErrors tile i, errs.getD i 0 % 2 ^ 32)))
      match mode, mid with
      | 2, some m => s.updStack tile (fun k => { k with caDelay := Tab.set k.caDelay pc m })
      | 3, _ => if bad then s.verifyFailed tile pc else s.trainedPc tile pc
      | _, _ => s
    else s)

/-! ### Retraining (R201) -/

/-- A write of RETRAIN_REQ. -/
def State.retrainWrite (s : State) (t v : Nat) : Nat × State :=
  let k := s.stack t
  if k.retrainAsk.isSome || k.retraining.isSome then (Code.busy, s)
  else (Code.ok, s.setStack t { k with retrainAsk := some (v, s.frame) })

/-- RETRAIN_START: at the pseudo-channel's maintenance window while a sealed partition is in the take, else at a slate after
the request; its requests are held and its banks precharged. -/
def execRetrainStart (tile t : Nat) (s : State) : Out :=
  let s := s.at t
  let k := s.stack tile
  let st := s.rd (K.stackState tile)
  .next (
    match k.retrainAsk with
    | none => s
    | some (pc, f) =>
      if (st = 3 ∨ st = 4) ∧ (if s.anySealed then s.maintenance tile pc && t < 20000 else f < s.frame) then
        (s.setStack tile { k with
          retrainAsk := none
          retraining := some pc
          retrained := some (pc, s.frame)
          banks := k.banks.map (fun (b : Nat × Bank) => if b.1 / 48 = pc then (b.1, { b.2 with row := none, hits := 0 }) else b) }).wr
          (K.trainStatus tile) (trainStatus 1 pc 1 0)
      else s)

/-- Delay taps swept by a retraining lie within 8 of those in force (R201). -/
def State.tapsNear (s : State) (t pc : Nat) (l : List Nat) : Bool :=
  l.length = 144 && l.zipIdx.all (fun x =>
    let old := s.rd (K.dqDelays t (pc * 144 + x.2))
    decide (x.1 ≤ old + 8 ∧ old ≤ x.1 + 8 ∧ x.1 < 256))

/-- RETRAIN_COMPLETE: `taps` are the new centres of the 72 read and 72 write delays when every line had an error-free window
and the verify passed; otherwise the delays stay, and a second failure in succession loses the stack (R201, R234). -/
def execRetrainComplete (tile : Nat) (ok : Bool) (taps : List Nat) (dur : Nat) (s : State) : Out :=
  let k := s.stack tile
  .next (
    match if s.domainsOn tile then k.retraining else none with
    | none => s
    | some pc =>
      let good := ok && s.tapsNear tile pc taps
      let n := if good then 0 else Tab.getD k.retrainFails pc 0 + 1
      let s := (s.setStack tile { k with retraining := none, retrainFails := Tab.set k.retrainFails pc n }).wr
        (K.trainStatus tile) (trainStatus (if good then 2 else 3) pc 1 dur)
      let s := s.count (K.stackCounts tile 8) 1
      if good then s.wrs (taps.zipIdx.map (fun x => (K.dqDelays tile (pc * 144 + x.2), x.1)))
      else if 2 ≤ n ∧ !k.lost then s.stackLost tile
      else s.triggerTile tile 3)

end Sys2Proof.Machine
end

