-- ==== Sys2Proof/Machine/Integrity.lean ====
section
/-!
DEFINITION. Stored-data integrity (ch. 09): the signature write-back, the patrol scrubber, die retirement and alerts, and
the check-bit test registers.
-/

namespace Sys2Proof.Machine

/-- POISON_SIGNATURE_WRITE: the signature write of line `ln` that waits is made as a system write, inside the bank's windows
where R190 applies (R208, R209); one that a write has overtaken waits no longer (R210). -/
def execPoisonSignatureWrite (ln t : Nat) (s : State) : Out :=
  let s := s.at t
  let tile := ln / 2 ^ 30
  .next (
    if s.domainsOn tile ∧ (s.stack tile).signWait.contains ln ∧ s.systemMay (bankOf (ln * 128)) t then
      (s.updStack tile (fun k => { k with signWait := k.signWait.filter (· ≠ ln) })).poisonLine ln
    else s)

/-! ### The other copy of a line (R213, R233) -/

/-- Line `ln` as a line of a mirrored extent: (entry, VA, physical line of the other copy). -/
def State.otherCopy (s : State) (ln : Nat) : Option (Nat × Nat × Nat) :=
  let t := ln / 2 ^ 30
  let a := dpaLocal (ln * 128)
  match s.extentOf (dpos a), s.slotOfTile t with
  | some (_, i, e), some slot =>
    if !eMirrored e then none
    else
      let ext := eTag e * 2 ^ 14 + i
      let row := a / 4096 % 2048
      if eDxn e = dpos a then
        let va := vaOfSlot ext row slot (a % 4096)
        some (e, va, s.mirrorDpa e va / 128)
      else
        match (List.range 32).find? (fun x => s.rd (K.mirrorPairs x) = slot) with
        | some h =>
          let va := vaOfSlot ext row h (a % 4096)
          some (e, va, s.homeDpa e va / 128)
        | none => none
  | _, _ => none

/-- The other copy of line `ln` is read, where there is one: its plaintext, if it decodes, with the extent's entry and the line's
address (R213). -/
def State.fromOther (s : State) (ln : Nat) : Option (List Byte × Nat × Nat) × State :=
  match s.otherCopy ln with
  | none => (none, s)
  | some (e, va, m) =>
    let o := s.readOther m
    (o.1.map (fun d => (d, e, va)), o.2)

/-! ### Patrol scrubber (R214, R215) -/

/-- The scrubber reads lines of granule `g` (physical address / 4096): reserved area, or a device extent mapped or a mirror
copy; written granules only (R214 step 1). -/
def State.scrubs (s : State) (g : Nat) : Bool :=
  let d := g % 2 ^ 25 / 2048
  16256 ≤ d || s.rd (K.dxnState d) = 1 || s.rd (K.dxnState d) = 2

/-- The first line of tile `t`, at or after line position `pos` of its stack, that the scrubber reads: of a written granule it
reads, else of the reserved area, which has no fresh bits and ends the stack (R143, R214). -/
def State.nextScrub (s : State) (t pos : Nat) : Nat :=
  let reserved := 16256 * 2 ^ 16
  match s.written.find? (fun g => g / 2 ^ 25 = t && s.scrubs g && pos < (g % 2 ^ 25 + 1) * 32 && g % 2 ^ 25 < reserved / 32) with
  | some g => max pos (g % 2 ^ 25 * 32)
  | none => max pos reserved

/-- Advance the scrub position past `n` lines; a pass of 2^30 lines is counted when it ends. -/
def State.scrubAdvance (s : State) (t n : Nat) : State :=
  let v := s.rd (K.scrubPosition t)
  let p := v % 2 ^ 32 + n
  let s := s.updStack t (fun k => { k with scrubLeft := k.scrubLeft - n })
  if 2 ^ 30 ≤ p then
    (s.wr (K.scrubPosition t) ((v / 2 ^ 32 + 1) * 2 ^ 32 + (p - 2 ^ 30))).updStack t (fun k => { k with scrubFrame := 0 })
  else s.wr (K.scrubPosition t) (v / 2 ^ 32 * 2 ^ 32 + p)

/-- What the scrubber does with the line it reads (R214 steps 3 to 5). -/
def State.scrubLine (s : State) (ln : Nat) (noise : List (Nat × Nat)) : State :=
  let t := ln / 2 ^ 30
  let s1 := ((s.burst ln 0 false).count (K.integrityCounts t 0) 1).count (K.integrityCounts t 4) 1
  match s.decode ln noise with
  | .clean => s1
  | .poisoned _ => s1
  | .corrected f =>
    let s2 := ((s1.errEvent 4 ln f).burst ln 0 true).count (K.integrityCounts t 5) 1
    s2.updStack t (fun k => { k with fixWait := Tab.set k.fixWait ln (addErrs noise f) })
  | .uncorrectable =>
    let o := s1.fromOther ln
    match o.1 with
    | some (d, e, va) => o.2.repairFrom ln d (s.keyOf (eDxn e)) (dataUnit (eDxn e) va)
    | none =>
      let s2 := (o.2.burst ln 0 false).count (K.integrityCounts t 0) 1
      match s.decode ln [] with
      | .clean => (s2.count (K.integrityCounts t 2) 1).errEvent 2 ln []
      | .corrected f => (s2.count (K.integrityCounts t 2) 1).errEvent 2 ln f
      | .poisoned _ => s2
      | .uncorrectable =>
        ((s2.count (K.integrityCounts t 3) 1).errEvent 5 ln []).updStack t (fun k =>
          { k with signWait := k.signWait ++ [ln], badReads := k.badReads + 1 })

/-- SCRUB_READ: the walk of tile `tile` goes on to its next eligible line, as far as the frame's quota reaches; `noise` are
transient errors of the read as (symbol, xor). -/
def execScrubRead (tile : Nat) (noise : List (Nat × Nat)) (t : Nat) (s : State) : Out :=
  let s := s.at t
  let k := s.stack tile
  let pos := s.rd (K.scrubPosition tile) % 2 ^ 32
  .next (
    if s.rd K.scrubEnable = 0 ∨ !s.inService tile ∨ k.lost ∨ k.scrubLeft = 0 ∨ s.rd (K.stackState tile) = 5 then s
    else
      let l := s.nextScrub tile pos
      if k.scrubLeft ≤ l - pos then s.scrubAdvance tile k.scrubLeft
      else if s.systemMay (bankOf (l * 128)) t then
        (s.scrubAdvance tile (l + 1 - pos)).scrubLine (tile * 2 ^ 30 + l) noise
      else s)

/-- In the slate guard: the lines of the quota that need no read are passed over (R214 step 2). -/
def State.scrubSkip (s : State) (t : Nat) : State :=
  let k := s.stack t
  let pos := s.rd (K.scrubPosition t) % 2 ^ 32
  if s.rd K.scrubEnable = 0 then s
  else s.scrubAdvance t (min k.scrubLeft (s.nextScrub t pos - pos))

/-- Frames of a pass (R215). -/
def State.passFrames (s : State) : Nat := s.eff K.scrubPassSeconds * 4000

/-- The quota of frame `f` of a pass of `n` frames (R215). -/
def scrubQuota (n f : Nat) : Nat := (f + 1) * 2 ^ 30 / n - f * 2 ^ 30 / n

/-- Frame of a pass of `n` frames at which the walk stands at line `pos` (R215). -/
def scrubFrameAt (n pos : Nat) : Nat := pos * n / 2 ^ 30

/-! ### Die retirement and alerts (R207, R218) -/

/-- A write of DIE_RETIRE (R207). -/
def State.dieRetireWrite (s : State) (t v : Nat) : Nat × State :=
  if s.rd (K.dieRetire t) ≠ 0xFF then (Code.retireLimit, s)
  else if v = 0xFF then (Code.ok, s)
  else (Code.ok, (s.updStack t (fun k => { k with retireWait := some v })).wr (K.dieRetire t) v)

/-- Corrections of the 4,000 frames that end at this slate (R218). -/
def State.windowOf (s : State) (t : Nat) : List (Nat × Nat × Nat) :=
  (s.stack t).corrections.filter (fun c => s.frame ≤ c.1 + 4000)

/-- DIE_ALERT is evaluated at every slate; an alert on a stack with a retired die asks for relocation (R218, 10 R224). -/
def State.dieAlerts (s : State) (t : Nat) : State :=
  let w := s.windowOf t
  if w.isEmpty ∧ s.rd (K.dieAlert t) = 0 then s
  else
    let bits := (List.range 18).foldl (fun a d =>
      if s.rd K.dieAlertLimit < (w.filter (fun c => c.2.1 = d)).length then a + 2 ^ d else a) 0
    let rises := (List.range 18).any (fun d => bit bits d && !bit (s.rd (K.dieAlert t)) d)
    let s := (s.updStack t (fun k => { k with corrections := w })).wr (K.dieAlert t) bits
    if rises && (s.retiredDie t).isSome then s.triggerTile t 3 else s

/-- Firmware retires a die and asks for relocation of the tile (R218, R224). -/
def State.firmwareRetire (s : State) (t d : Nat) : State :=
  if s.rd (K.dieRetire t) ≠ 0xFF then s else ((s.dieRetireWrite t d).2).triggerTile t 3

/-- Different rows among a die's corrections. -/
def dieRows (w : List (Nat × Nat × Nat)) (d : Nat) : Nat := ((w.filter (fun c => c.2.1 = d)).map (fun c => c.2.2)).eraseDups.length

/-- DIE_ALERT_CHECK: the one-second check of tile `tile`, at a slate whose frame number is a multiple of 4,000; checks are
consecutive when they are 4,000 frames apart (R218). -/
def execDieAlertCheck (tile : Nat) (s : State) : Out :=
  let k := s.stack tile
  .next (
    if s.frame % 4000 = 0 ∧ k.alertChecked ≠ some s.frame then
      let a := s.rd (K.dieAlert tile)
      let next : Bool := match k.alertChecked with | some f => s.frame = f + 4000 | none => false
      let old : Tab Nat := if next then k.alertRun else []
      let runs := (List.range 18).foldl (fun (r : Tab Nat) d =>
        if bit a d then Tab.set r d (Tab.getD old d 0 + 1) else r) []
      let w := s.windowOf tile
      let s := s.setStack tile { k with alertRun := runs, alertChecked := some s.frame }
      match (List.range 18).find? (fun d => 3 ≤ Tab.getD runs d 0 ∨ 64 ≤ dieRows w d) with
      | some d => s.firmwareRetire tile d
      | none => s
    else s)

/-! ### Check-bit test mode (R216, R221) -/

/-- TEST_RESULT. -/
def testResult (st outcome die syms : Nat) : Nat := st * 2 ^ 30 + outcome * 2 ^ 27 + die * 2 ^ 22 + syms * 2 ^ 17

/-- A write of TEST_CTRL: GO latches the test registers, after the checks of R216 in its order. -/
def State.testCtrlWrite (s : State) (v : Nat) : Nat × State :=
  if !bit v 31 then
    (Code.ok, s.wr K.testCtrl (if s.test.isSome then v + 2 ^ 31 else v))
  else if s.test.isSome then (Code.busy, s)
  else
    let a := s.rd K.testAddr
    let d := dpos (dpaLocal a)
    if !s.inService (fld a 42 37) then (Code.offline, s)
    else if 16256 ≤ d ∨ s.rd (K.dxnState d) ≠ 0 then (Code.noAccess, s)
    else
      (Code.ok, ({ s with test := some ⟨v, a, s.rd K.testData, s.rd K.testCheck⟩ } : State).wrs
        [(K.testCtrl, v), (K.testResult, testResult 1 0 0 0)])

/-- Bytes of a line as symbols. -/
def symsOf (d : List Byte) : List Nat := d.map (fun b => b.toNat)

/-- The error pattern of check symbols `q` against the codeword of data `d`. -/
def checkErrs (d q : List Nat) : List (Nat × Nat) :=
  ((List.range 16).map (fun j => (128 + j, (rsCheck d).getD j 0 ^^^ q.getD j 0))).filter (fun e => e.2 ≠ 0)

/-- The raw stored symbols of a line: ciphertext where it was written under a key, each with its error (R204, R381). -/
def State.rawLine (s : State) (ln : Nat) (noise : List (Nat × Nat)) : List Nat × List Nat :=
  let p := s.bytesAt (ln * 128) 128
  let d := match Tab.find s.lineKey ln with
    | some k => symsOf (slice (Config.xts (k / 2 ^ 35) (k % 2 ^ 35) p) 0 128)
    | none => symsOf p
  let e := addErrs (s.errsOf ln) noise
  let put := fun (l : List Nat) (o : Nat) => l.zipIdx.map (fun x => x.1 ^^^ Tab.getD e (x.2 + o) 0)
  (put d 0, put (rsCheck d) 128)

/-- OUTCOME, DIE and SYMBOLS of a decode for TEST_RESULT: erasures count as symbols corrected. -/
def testOutcome (erased : Option Nat) (st : LineState) : Nat × Nat × Nat :=
  let syms := fun (f : List (Nat × Nat)) =>
    match erased with
    | some d => 8 + (f.filter (fun x => symDie x.1 ≠ d)).length
    | none => f.length
  match st with
  | .clean => (0, 31, 0)
  | .corrected f => (1, (soleDie f).getD 31, syms f)
  | .poisoned [] => (2, 31, 0)
  | .poisoned f => (3, (soleDie f).getD 31, syms f)
  | .uncorrectable => (4, 31, 0)

/-- TEST_OP_EXECUTE: the latched operation is performed if its extent is still free (R216), inside the bank's system windows where
R190 applies. -/
def execTestOpExecute (noise : List (Nat × Nat)) (t : Nat) (s : State) : Out :=
  let s := s.at t
  .next (
    match if s.systemMay (bankOf (match s.test with | some o => o.addr | none => 0)) t then s.test else none with
    | none => s
    | some o =>
      let s := ({ s with test := none } : State).wr K.testCtrl (s.rd K.testCtrl % 2 ^ 31)
      let ln := o.addr / 128
      let t := ln / 2 ^ 30
      let d := toBE 128 o.data
      let q := symsOf (toBE 16 o.check)
      if s.rd (K.dxnState (dpos (dpaLocal o.addr))) ≠ 0 then s.wr K.testResult (testResult 2 7 31 0)
      else if fld o.ctrl 29 28 = 0 then
        ((s.putLine ln d 0 0).setErrs ln (checkErrs (symsOf d) q)).wr K.testResult (testResult 2 0 31 0)
      else if fld o.ctrl 29 28 = 1 then
        ((s.putLine ln d 0 0).setErrs ln (q.zipIdx.map (fun x => (128 + x.2, x.1)))).wr K.testResult (testResult 2 0 31 0)
      else
        let erased := if bit o.ctrl 27 then some (fld o.ctrl 26 22) else s.retiredDie t
        let r := s.rawLine ln noise
        let x := testOutcome erased (classify erased (addErrs (s.errsOf ln) noise))
        s.wrs [(K.testData, Dict.octets r.1), (K.testCheck, Dict.octets r.2), (K.testResult, testResult 2 x.1 x.2.1 x.2.2)])

end Sys2Proof.Machine
end

