-- ==== Sys2Proof/Machine/Reloc.lean ====
section
/-!
DEFINITION. Continuity (ch. 10): relocation of a slot to a standby tile, rebuild of a lost stack, return and self-test.
The copy of R227 advances at every slate, at RELOC_RATE at most, and ends with RELOC_COPY_COMPLETE; writes go to both tiles once the
copy has passed them, to the end of the drain.
-/

namespace Sys2Proof.Machine

/-! ### Targets (R224, R225) -/

/-- A tile is STANDBY (R222). -/
def State.standby (s : State) (t : Nat) : Bool := t < 36 && s.rd (K.tileState t) = 1

/-- Some MIRRORED extent is mapped. -/
def State.anyMirrored (s : State) : Bool := (List.range 64).any (fun p => s.mirroredOf p ≠ 0)

/-- The quadrant rule of step 2 of R225 for a target of slot `slot`. -/
def State.quadrantOk (s : State) (slot t : Nat) : Bool :=
  !s.anyMirrored || quadrant t ≠ quadrant (s.tileAt (s.rd (K.mirrorPairs slot)))

/-- The target of a move of slot `slot` asked for with TARGET `t` (0x3F: chosen by the part), if one qualifies (R225). -/
def State.relocTarget (s : State) (slot t : Nat) : Option Nat :=
  if t ≠ 0x3F then if s.standby t && s.quadrantOk slot t then some t else none
  else
    let src := s.tileAt slot
    match (List.range 36).find? (fun x => s.standby x && quadrant x = quadrant src) with
    | some x => some x
    | none => (List.range 36).find? (fun x => s.standby x && s.quadrantOk slot x)

/-- Start a relocation of slot `slot` to `target` (R226 step 1). -/
def State.relocStart (s : State) (slot target kind : Nat) (ret : Bool) : State :=
  let r : Reloc := { slot := slot, source := s.tileAt slot, target := target, kind := kind, ret := ret, step := 1 }
  let c := s.cont
  let s := s.setCont { c with
    reloc := some r, returnTile := c.returnTile.filter (fun e => e.2 ≠ target), triggers := c.triggers.filter (fun x => x.1 ≠ slot) }
  s.wrs [(K.tileState target, 3), (K.fillStatus target, 0), (K.slotState slot, if kind = 4 || (s.stack (s.tileAt slot)).lost then 3 else 1),
    (K.relocStatus, relocStatus r 1 0)]

/-- A write of RELOC_CTRL (R224, R225). -/
def State.relocWrite (s : State) (v : Nat) : Nat × State :=
  let op := fld v 31 30
  let slot := fld v 28 24
  if s.cont.reloc.isSome then (Code.busy, s)
  else
    let target := if op = 2 then
        match Tab.find s.cont.returnTile slot with
        | some t => s.relocTarget slot t
        | none => none
      else s.relocTarget slot (fld v 23 18)
    match target with
    | none => (Code.busy, s)
    | some t => (Code.ok, s.relocStart slot t op (op = 1 && bit v 29))

/-- RELOC_AUTO_START: firmware starts the relocation a trigger of slot `slot` asks for, when RELOC_AUTO is 1, none runs and a
target qualifies (R224). -/
def execRelocAutoStart (slot : Nat) (s : State) : Out :=
  .next (
    match s.cont.triggers.find? (fun x => x.1 = slot), s.relocTarget slot 0x3F with
    | some x, some t =>
      if s.rd K.relocAuto = 1 ∧ s.cont.reloc.isNone then
        s.relocStart slot t (if (s.stack (s.tileAt slot)).lost then 4 else x.2) false
      else s
    | _, _ => s)

/-! ### Preparing and copying (R226, R227) -/

/-- RELOC_PREPARE_COMPLETE: the target is powered, filled and trained; the copy begins, and the duplicates are rebuilt for the new
layout (01 R19). `ok` false says that powering, fill or training failed. -/
def execRelocPrepareComplete (ok : Bool) (s : State) : Out :=
  .next (
    match s.cont.reloc with
    | none => s
    | some r =>
      if r.step ≠ 1 then s
      else if !ok then s.relocFails 5
      else if s.rd (K.fillStatus r.target) = 2 ∧ s.rd (K.stackState r.target) = 3 then
        let next := (s.serviceTiles.filter (fun t => t ≠ r.source)) ++ [r.target]
        (s.setCont { s.cont with reloc := some { r with step := 4, cursor := 0 }, dupsNext := duplicates next }).wr K.relocStatus
          (relocStatus r 4 0)
      else s)

/-- Store a line that keeps its key and data unit, with a stored error pattern. -/
def State.placeLine (s : State) (ln : Nat) (d : List Byte) (key : Option Nat) (e : List (Nat × Nat)) : State :=
  (match key with
    | some k => s.putLine ln d (k / 2 ^ 35) (k % 2 ^ 35)
    | none => s.putLine ln d 0 0).setErrs ln e

/-- Copy one line of the source to the target (R227 rules 1 and 2, R234); the reads and the write are system work. A source line that
does not decode is first read from its other copy and repaired (09 R213). -/
def State.copyLine (s : State) (r : Reloc) (l : Nat) : State :=
  let src := r.source * 2 ^ 30 + l
  let dst := r.target * 2 ^ 30 + l
  let lost := (s.stack r.source).lost
  if r.excess.contains dst then s
  else
    let s1 := if lost then s else (s.burst src 0 false).count (K.integrityCounts r.source 0) 1
    let plain := s.bytesAt (src * 128) 128
    let raw := fun (s : State) (f : List (Nat × Nat)) =>
      (s.placeLine dst plain (Tab.find s.lineKey src) (addErrs (s.errsOf src) f)).burst dst 0 true
    match s.decode src [] with
    | .clean => raw s1 []
    | .corrected f => raw ((s1.count (K.integrityCounts r.source 1) 1).errEvent 1 src f) f
    | .poisoned _ => s1.poisonLine dst
    | .uncorrectable =>
      let o := s1.fromOther src
      match o.1 with
      | some (d, e, va) =>
        let s2 := if lost then o.2 else o.2.repairFrom src d (s.keyOf (eDxn e)) (dataUnit (eDxn e) va)
        (s2.putLine dst d (s.keyOf (eDxn e)) (dataUnit (eDxn e) va)).burst dst 0 true
      | none =>
        let s2 := if lost then o.2 else (o.2.count (K.integrityCounts r.source 3) 1).errEvent 3 src []
        let s2 := s2.poisonLine dst
        if r.kind = 4 || lost then s2.count (K.continuityCounts 5) 1 else s2

/-- Granules of the reserved area of tile `t`, by local address / 4096, that hold anything but the fill's zeros. -/
def State.reservedUsed (s : State) (t : Nat) : List Nat :=
  let far := fun (g : Nat) => decide (16256 * 2 ^ 11 ≤ g)
  let bytes := (s.mem.filter (fun (c : Host.Cell) => c.1 / 2 ^ 37 = t)).map (fun (c : Host.Cell) => c.1 % 2 ^ 37 / 4096)
  let marks := (s.errs.filter (fun (e : Nat × Nat) => e.1 / 144 / 2 ^ 30 = t)).map (fun (e : Nat × Nat) => e.1 / 144 % 2 ^ 30 / 32)
  ((bytes ++ marks).filter far).mergeSort.eraseDups

/-- The granules that the copy has still to carry (R227): those of the source, from the cursor on, that the scrubber would read. -/
def State.copyGranules (s : State) (r : Reloc) : List Nat :=
  ((s.written.filter (fun g => g / 2 ^ 25 = r.source && s.scrubs g && g % 2 ^ 25 < 16256 * 2 ^ 11)).map (fun g => g % 2 ^ 25)
    ++ s.reservedUsed r.source).filter (fun g => r.cursor ≤ g)

/-- Copy granule `g`, and move the cursor past it (R227). -/
def State.copyGranule (s : State) (g : Nat) : State :=
  match s.cont.reloc with
  | none => s
  | some r =>
    let s := (List.range 32).foldl (fun (s : State) i => s.copyLine r (g * 32 + i)) s
    let s := if g < 16256 * 2 ^ 11 then s.clearFresh ((r.target * 2 ^ 25 + g) * 4096) else s
    s.setCont { s.cont with reloc := some { r with cursor := g + 1 } }

/-- Granules that the copy may carry in a frame of 250 us: RELOC_RATE GB/s, 100 GB/s at most while the gaffer cuts (21 R461), at the
reduced rate while a router of the two tiles is throttled (R227, R228, 05 R131). -/
def State.copyRate (s : State) (r : Reloc) : Nat :=
  let cut : Bool := decide (0 < s.gaff.cutPkg ∨ 0 < s.rd (K.tileCut r.source) ∨ 0 < s.rd (K.tileCut r.target))
  let n := (if cut then min 100 (s.eff K.relocRate) else s.eff K.relocRate) * 250000 / 4096
  if (s.router r.source).throttled || (s.router r.target).throttled then n * s.eff K.throttleRate / 256 else n

/-- At a slate the copy has moved on by what a frame carries; RELOC_STATUS follows (R226, R227). -/
def State.copySlate (s : State) : State :=
  match s.cont.reloc with
  | none => s
  | some r =>
    if r.step ≠ 4 then s
    else
      let s := ((s.copyGranules r).take (s.copyRate r)).foldl State.copyGranule s
      match s.cont.reloc with
      | none => s
      | some r => s.wr K.relocStatus (relocStatus r 4 (r.cursor * 2048 / 2 ^ 25))

/-- RELOC_COPY_COMPLETE: every line and the retention state have been copied (R227, R229). -/
def execRelocCopyComplete (s : State) : Out :=
  .next (
    match s.cont.reloc with
    | none => s
    | some r =>
      if r.step ≠ 4 then s
      else
        let s := (s.copyGranules r).foldl State.copyGranule s
        (s.setCont { s.cont with reloc := some { (s.cont.reloc.getD r) with step := 5 } }).wr K.relocStatus (relocStatus r 5 2047))

/-! ### The swap (R226 step 7, R27, R229) -/

/-- A line of tile `a` under its new tile `b`. -/
def movedLine (a b ln : Nat) : Nat := if ln / 2 ^ 30 = a then b * 2 ^ 30 + ln % 2 ^ 30 else ln

/-- Lines named by what a request waits for, under the new tile. -/
def Wait.moved (a b : Nat) : Wait → Wait
  | .recalling ln => .recalling (movedLine a b ln)
  | .line ln => .line (movedLine a b ln)
  | .evict ln => .evict (movedLine a b ln)
  | .retry ln => .retry (movedLine a b ln)
  | w => w

/-- Lines named by what an outstanding request is for, under the new tile. -/
def Purpose.moved (a b : Nat) : Purpose → Purpose
  | .fwd ln k h => .fwd (movedLine a b ln) k h
  | .backInval ln h => .backInval (movedLine a b ln) h
  | p => p

/-- A table keyed by line, with the lines of tile `a` under tile `b`. -/
def moveKeys {α : Type} (a b : Nat) (t : Tab α) : Tab α :=
  t.foldl (fun u e => Tab.set u (movedLine a b e.1) e.2) []

/-- Directory, pending records and everything that names a line of the moved slot follow it (R227, R27). -/
def State.moveLines (s : State) (a b : Nat) : State :=
  { s with
    dir := moveKeys a b s.dir
    pends := moveKeys a b s.pends
    evicts := moveKeys a b s.evicts
    waiting := s.waiting.map (fun (w : Wait × Req) => (w.1.moved a b, w.2))
    ports := s.ports.map (fun (q : Nat × Port) => (q.1, { q.2 with
      outReq := q.2.outReq.map (fun x => { x with purpose := x.purpose.moved a b }) })) }

/-- Pair bitmaps and resync positions of tile `a` under tile `b`. -/
def State.movePairs (s : State) (a b : Nat) : State :=
  let mv := fun (k : Nat) => if k % 64 = a then k / 64 * 64 + b else k
  s.setCont { s.cont with
    dirty := s.cont.dirty.foldl (fun u e => Tab.set u (mv e.1) e.2) []
    resync := s.cont.resync.foldl (fun u e => Tab.set u (mv e.1) e.2) [] }

/-- The hammer throttles of tile `a` stand at tile `b`: a throttle is of a partition on a slot (02 R54, 08 R198). -/
def State.moveThrottles (s : State) (a b : Nat) : State :=
  let l := (s.stack a).throttleEnd
  let s := l.foldl (fun (s : State) e => s.wrs [(K.throttled b e.1, s.rd (K.throttled a e.1)), (K.throttled a e.1, 0)]) s
  (s.updStack b (fun k => { k with throttleEnd := l })).updStack a (fun k => { k with throttleEnd := [] })

/-- The swap slate of a continuity take (R226 step 7): the slot map names the target, and the duplicates of the new layout hold
(01 R19). The slot's return tile is one that it leaves by OP 1 alone, so a move by OP 0 or 1 ends an earlier one (R224). -/
def State.relocSwap (s : State) : State :=
  match s.cont.reloc with
  | none => s
  | some r =>
    let s := ((s.moveLines r.source r.target).movePairs r.source r.target).moveThrottles r.source r.target
    let c := s.cont
    let s := s.setCont { c with
      reloc := some { r with step := 8, swapped := s.frame }, moving := some r.slot, dups := c.dupsNext, dupsNext := []
      returnTile := if r.kind = 0 ∨ r.kind = 1 then c.returnTile.filter (fun e => e.1 ≠ r.slot) else c.returnTile
      triggers := c.triggers.filter (fun x => x.1 ≠ r.slot) }
    s.wrs [(K.tileState r.target, 0), (K.slotState r.slot, 0), (K.relocStatus, relocStatus r 6 2047)]

/-- The source of a relocation has drained and enters STANDBY (relocate and return, of a stack that is not lost), TESTING or
FAILED (R27, R222, R226 step 8, log entry 75). -/
def State.relocDrained (s : State) : State :=
  match s.cont.reloc with
  | none => s
  | some r =>
    if r.step ≠ 8 then s
    else
      let lost := (s.stack r.source).lost
      let s := s.count (K.continuityCounts (if r.kind = 4 || lost then 4 else 0)) 1
      if r.kind = 1 then
        (s.setCont { s.cont with reloc := some { r with step := 9 } }).wrs
          [(K.tileState r.source, 4), (K.relocStatus, relocStatus r 7 2047)]
      else
        let goal := if r.kind = 3 || r.kind = 4 || lost then 5 else 1
        (((s.setCont { s.cont with reloc := none }).powerOff r.source).wrs
          [(K.tileState r.source, goal), (K.relocStatus, relocStatus r 8 2047)]).showDegraded

/-- The drain ends within the frame that follows the swap slate (01 R27). -/
def State.drainSlate (s : State) : State :=
  match s.cont.reloc with
  | some r => if r.step = 8 ∧ r.swapped < s.frame then s.relocDrained else s
  | none => s

/-- RELOC_DRAIN_COMPLETE. -/
def execRelocDrainComplete (s : State) : Out := .next s.relocDrained

/-- SELFTEST_COMPLETE: the self-test of the tile under test ended with failing block code `code`, 0 for a pass (R231). -/
def execSelftestComplete (code : Nat) (s : State) : Out :=
  .next (
    match s.cont.reloc with
    | none => s
    | some r =>
      if r.step ≠ 9 then s
      else
        let s := ((s.count (K.continuityCounts 2) 1).setCont { s.cont with reloc := none }).powerOff r.source
        let s := s.wr K.relocStatus (relocStatus r 8 2047)
        if code % 2 ^ 30 = 0 then
          let s := s.wrs [(K.selftestResult r.source, 2 ^ 30), (K.tileState r.source, 1)]
          let s := s.setCont { s.cont with returnTile := Tab.set s.cont.returnTile r.slot r.source }
          if r.ret then
            match s.relocTarget r.slot r.source with
            | some t => s.relocStart r.slot t 2 false
            | none => s
          else s
        else s.wrs [(K.selftestResult r.source, 2 ^ 31 + code % 2 ^ 30), (K.tileState r.source, 5)])

/-- A warm reset before the swap abandons the relocation and the target returns to STANDBY; after it, the swap stands and
the source has drained (R230). -/
def State.relocWarmReset (s : State) : State :=
  match s.cont.reloc with
  | none => s
  | some r =>
    if r.step < 8 then s.relocFails 1
    else s.relocDrained

end Sys2Proof.Machine
end

