-- ==== Sys2Proof/Machine/Partitions.lean ====
section
/-!
DEFINITION. Partitions (ch. 17) and sealing (ch. 18): configuration records and reports, tokens and guarded changes, locks,
freeing and re-incarnation, seals, DRBG events.
-/

namespace Sys2Proof.Machine

/-- Partition control updated. -/
def State.updPart (s : State) (p : Nat) (f : PartCtl → PartCtl) : State := s.setPart p (f (s.part p))

/-- Key home of partition `p` (17 R376): the tile that homes slot `p` mod 32. -/
def State.partHome (s : State) (p : Nat) : Nat := s.tileAt (p % 32)

/-- Lock MODE (R393). -/
def State.lockMode (s : State) (p : Nat) : Nat := fld (s.rd (K.lockState p)) 1 0
/-- LOCK_SEQ. -/
def State.lockSeq (s : State) (p : Nat) : Nat := s.rd (K.lockState p) / 2 ^ 32
/-- Replace MODE, keeping LOCK_SEQ. -/
def State.setMode (s : State) (p m : Nat) : State := s.wr (K.lockState p) (s.lockSeq p * 2 ^ 32 + m)

/-! ### Agents and pairs as dictionary elements (R267, R245) -/

/-- Partition that agent entry `a` names. -/
def agPart (a : Nat) : Nat := fld a 62 57
/-- Agent entry exists. -/
def agValid (a : Nat) : Bool := bit a 63

/-! ### Configuration records and measurement (18 R404) -/

/-- One record. -/
def cfgRecord (ty el : Nat) (v : List Byte) : List Byte := toBE 1 ty ++ toBE 2 el ++ v

/-- The valid elements `el` of entry `idx`:`sub` that satisfy `p`, in ascending order, with their values. -/
def State.elems (s : State) (idx sub : Nat) (p : Nat → Bool) : List (Nat × Nat) :=
  s.regs.filterMap (fun kv => if kv.1 / 16777216 = idx * 256 + sub ∧ p kv.2 then some (kv.1 % 16777216, kv.2) else none)

/-- The record sequence of partition `p`: empty while it is not ACTIVE and nothing names it. -/
def State.configRecords (s : State) (p : Nat) : List Byte :=
  (if s.active p then
    cfgRecord 1 0 (toBE 1 (s.rd (K.partitionClass p)) ++ toBE 1 (s.rd (K.poisonMode p)) ++ toBE 1 (s.rd (K.lockEnable p))
      ++ toBE 2 (s.incarnation p) ++ toBE 48 (s.rd (K.lockTenantAnchor p))) else []) ++
  ((s.elems (0x3400 + p) 1 eValid).map (fun x => cfgRecord 2 x.1 (toBE 2 (fld x.2 62 50)))).flatten ++
  ((s.elems 0x3500 1 (fun d => bValid d && bPart d = p)).map (fun x =>
    cfgRecord 3 x.1 (toBE 2 (bEid x.2) ++ toBE 1 (bPort x.2) ++ toBE 1 (fld x.2 39 32)
      ++ toBE 8 (s.rd (K.peerLinkId (bPort x.2)))))).flatten ++
  ((s.elems 0x4800 2 (fun a => agValid a && agPart a = p)).map (fun x => cfgRecord 4 x.1 (toBE 8 x.2))).flatten ++
  ((s.elems 0x4602 1 (fun d => pdValid d && pdPart d = p)).map (fun x => cfgRecord 5 x.1 (toLE 16 x.2))).flatten

/-- The configuration measurement in force at the last slate (R403, R404). -/
def State.measurement (s : State) (p : Nat) : Nat := sha384n (s.part p).records

/-- The partition report (R405), over the records `r` whose measurement last changed at frame `f`. -/
def State.reportOf (s : State) (p : Nat) (r : List Byte) (f : Nat) : List Byte :=
  let seals := if s.active p then (s.part p).seals else []
  ascii "PYPR" ++ toLE 1 1 ++ toLE 1 p
    ++ toLE 1 (s.rd (K.partitionStatus p) + s.lockMode p * 4 + s.rd (K.partitionClass p) % 2 * 16)
    ++ toLE 1 (s.rd (K.poisonMode p)) ++ toLE 2 (s.incarnation p) ++ toLE 2 seals.length ++ toLE 4 (s.lockSeq p)
    ++ toLE 8 f ++ sha384 r
    ++ (seals.map (fun x => toLE 2 x.1 ++ toLE 1 (eKind (s.entry p x.1)) ++ toLE 1 0 ++ toLE 4 x.2.1 ++ toBE 48 x.2.2)).flatten

/-- The partition report in force (R403). -/
def State.report (s : State) (p : Nat) : List Byte :=
  match (s.part p).report with
  | some r => r
  | none => s.reportOf p [] 0

/-- Recompute a partition's records and report at a slate (R403). -/
def State.remeasure (s : State) (p : Nat) : State :=
  let r := s.configRecords p
  let q := s.part p
  let f := if r = q.records then q.measured else s.frame
  let rep := s.reportOf p r f
  if r = q.records ∧ some rep = q.report then s
  else s.setPart p { q with records := r, measured := f, report := some rep }

/-! ### Guarded changes (R377, R379) -/

/-- Rights and other fields of a binding element. -/
def bRights (d : Nat) : Nat := fld d 39 32

/-- Changing the element with key `k` from `a` to `b` is a guarded change of partition `p` (R377). An element that is zero
throughout names no partition (log entry 94). -/
def guarded (p k a b : Nat) : Bool :=
  let e := k / 16777216
  if a = b then false
  else if e = 0x350001 then
    bValid b && bPart b = p && !(setFld a 39 32 0 = setFld b 39 32 0 && (bRights b &&& bRights a) = bRights b)
  else if e = (0x3400 + p) * 256 + 1 then
    (eSealed a && eValid b && !eSealed b) || (!ePaired a && ePaired b)
  else if e = 0x460201 then
    ((a ≠ 0 && pdPart a = p) || (b ≠ 0 && pdPart b = p)) && !(pdValid a && b = setFld a 127 127 0)
  else if e = 0x480002 then b ≠ 0 && agPart b = p && !(agValid a && b = setFld a 63 63 0)
  else if e = (0x2100 + p) * 256 + 1 then true
  else if e = 0x440001 then k % 16777216 = p
  else if e = (0x3000 + p) * 256 + 5 then a = 1
  else if e = (0x3000 + p) * 256 + 0x0C then true
  else false

/-- The staged guarded changes of partition `p`, in ascending order: (key, new value). -/
def State.guardedChanges (s : State) (p : Nat) : List (Nat × Nat) :=
  s.take.staged.filter (fun kv => guarded p kv.1 (s.rd kv.1) kv.2)

/-- STAGED_AUTH_DIGEST of partition `p` (R379). -/
def State.stagedDigest (s : State) (p : Nat) : List Byte :=
  sha384 ((s.guardedChanges p).map (fun kv =>
    let d := Dict.find (kv.1 / 4294967296) (kv.1 / 16777216 % 256)
    toBE 3 (kv.1 / 16777216) ++ toBE 4 (kv.1 % 16777216) ++
      (match d with | some d => elemBytes d kv.2 | none => []))).flatten

/-! ### Tokens (R378) -/

/-- The message of a token. -/
def State.tokenMsg (s : State) (kind p take : Nat) (digest : List Byte) : List Byte :=
  ascii "PY-AUTH1" ++ toBE 1 kind ++ toBE 7 s.fuses.serial ++ toBE 1 p ++ toBE 3 0 ++ toBE 4 (s.lockSeq p) ++ toBE 4 take ++ digest

/-- A token verifies under the partition key. -/
def State.tokenOk (s : State) (kind p take : Nat) (digest token : List Byte) : Bool :=
  match (s.part p).key with
  | some k => decide (token = hmac384 k (s.tokenMsg kind p take digest))
  | none => false

/-- Log a refused token (R380, R395). -/
def State.tokenRefused (s : State) (p : Nat) : State := s.security 3 (s.handleOf p) (s.partHome p) 0 0

/-- The first tenant-locked partition whose guarded changes carry no valid token: (partition, first guarded element) (R377). -/
def State.authFault (s : State) : Option (Nat × Nat) :=
  (List.range 64).findSome? (fun p =>
    if s.lockMode p ≠ 2 then none
    else
      match s.guardedChanges p with
      | [] => none
      | kv :: _ =>
        if s.tokenOk 1 p s.take.base (s.stagedDigest p) ((Tab.find s.take.tokens p).getD []) then none
        else some (p, kv.1 / 16777216))

/-- A write of AUTH_TOKEN: during STAGING, from the staging session (R378). -/
def State.tokenWrite (s : State) (sess p : Nat) (b : List Byte) : Nat × State :=
  if s.takeState ≠ 1 ∨ !s.stager sess then (Code.busy, s)
  else (Code.ok, s.setTake { s.take with tokens := Tab.set s.take.tokens p b })

/-! ### Lock and unlock (R375, R376, R380) -/

/-- A write of LOCK_REQUEST by a session: `secured`, `mutAuth`, `root`, `ems` are the session's (R375 step 4). -/
def State.lockWrite (s : State) (p : Nat) (secured mutAuth : Bool) (root : Nat) (ems b : List Byte) : Nat × State :=
  let refuse := fun (st : Nat) => (st, s.security 9 (s.handleOf p) (s.partHome p) 0 0)
  if !secured then refuse Code.authRequired
  else if !mutAuth || root ≠ s.rd (K.lockTenantAnchor p) then refuse Code.authRequired
  else if !s.active p || s.lockMode p ≠ 0 || s.rd (K.lockEnable p) ≠ 1 then refuse Code.busy
  else if s.takeState = 2 ∨ s.takeState = 3 then refuse Code.busy
  else if beAt b 0 2 ≠ s.incarnation p then refuse Code.staleHandle
  else if ofBE (slice b 4 48) ≠ s.measurement p then refuse Code.lockMismatch
  else
    let n := (s.lockSeq p + 1) % 2 ^ 32
    let key := kdf ems (ascii "PY PARTITION KEY") (toBE 1 p ++ toBE 4 n) 384
    (Code.ok, ((s.updPart p (fun q => { q with key := some key, unlocking := false })).wr (K.lockState p) (n * 2 ^ 32 + 1)).security 4
      (s.handleOf p) (s.partHome p) 0 0)

/-- A write of UNLOCK_REQUEST: the token is checked against the partition key (R380). -/
def State.unlockWrite (s : State) (p : Nat) (b : List Byte) : Nat × State :=
  if s.tokenOk 2 p (s.rd K.takeNumber) (List.replicate 48 0#8) b then
    (Code.ok, (s.updPart p (fun q => { q with unlocking := true })).security 5 (s.handleOf p) (s.partHome p) 0 0)
  else (Code.authRequired, s.tokenRefused p)

/-- At a slate: a pending lock is in force, an accepted unlock ends it (R375 step 5, R380). -/
def State.lockSlate (s : State) (p : Nat) : State :=
  let q := s.part p
  if q.unlocking then (s.setPart p { q with unlocking := false, key := none }).setMode p 0
  else if s.lockMode p = 1 then s.setMode p 2
  else s

/-! ### Freeing and re-incarnation (R369 to R373) -/

/-- The incarnation after `i` (R369). -/
def nextInc (i : Nat) : Nat := if i = 1023 then 1 else i + 1

/-- Requests of partition `p` that have not reached their home are answered STALE_HANDLE (R371 step 2). -/
def State.refuseWaiting (s : State) (p : Nat) : State :=
  let early := fun (w : Wait × Req) => (w.1 = .share || w.1 = .fence || w.1 = .home) && handlePart w.2.h.handle = p
    && !noBinding w.2.op
  let mine := (s.waiting.filter early).map (·.2)
  mine.foldl (fun s r => s.answerSt r Code.staleHandle) { s with waiting := s.waiting.filter (fun w => !early w) }

/-- Advance the incarnation; the partition's requests of the old one are refused (R371, R372). -/
def State.advance (s : State) (p : Nat) : State :=
  ((s.wr (K.incarnation p) (nextInc (s.incarnation p))).updPart p (fun q => { q with lastAdvance := some s.frame })).refuseWaiting p

/-- Partition `p` is freed at this slate (R371 steps 1 to 3). -/
def State.freePart (s : State) (p : Nat) : State :=
  let h := s.handleOf p
  let s := s.advance p
  let locked := s.lockMode p ≠ 0
  let s := (s.updPart p (fun q => { q with key := none, unlocking := false, seals := [] })).setMode p 0
  let s := if locked then s.security 5 h (s.partHome p) 0 0 else s
  ({ s with lostLog := Tab.erase s.lostLog p } : State).wrs
    [(K.partitionStatus p, 2), (K.quarantineEnd p, s.frame + 8), (K.lostLineCount p, 0)]

/-- The quarantine of partition `p` ends at the slate of QUARANTINE_END (R371 step 4). -/
def State.quarantineEnds (s : State) (p : Nat) : State :=
  if s.rd (K.partitionStatus p) = 2 ∧ s.rd (K.quarantineEnd p) ≤ s.frame then s.wr (K.partitionStatus p) 0 else s

/-- PARTITION_QUARANTINE_END. -/
def execPartitionQuarantineEnd (p : Nat) (s : State) : Out := .next (s.quarantineEnds p)

/-! ### Sealing (18 R406 to R409) -/

/-- SEAL_STATUS with a new state and result. -/
def State.sealShow (s : State) (p result st idx : Nat) : State :=
  s.wr (K.sealStatus p) (result * 2 ^ 48 + st * 2 ^ 46 + idx * 2 ^ 32 + s.frame % 2 ^ 32)

/-- SEAL_STATUS shows the result of a refused request; the rest stays. -/
def State.sealRefuse (s : State) (p st : Nat) : Nat × State :=
  (st, s.wr (K.sealStatus p) (st * 2 ^ 48 + s.rd (K.sealStatus p) % 2 ^ 48))

/-- A write of SEAL_REQUEST (R406). -/
def State.sealWrite (s : State) (p : Nat) (b : List Byte) : Nat × State :=
  let idx := leAt b 0 2
  let e := s.entry p idx
  if (s.part p).sealJob.isSome then s.sealRefuse p Code.busy
  else if leAt b 2 2 ≠ 0 then s.sealRefuse p Code.reservedNonzero
  else if 16384 ≤ idx ∨ !eValid e then s.sealRefuse p Code.notMapped
  else if !(eKind e = 0 || eKind e = 2) || eSealed e || eHeld e then s.sealRefuse p Code.badRequest
  else if s.lockMode p = 2 && !s.tokenOk 3 p (s.rd K.takeNumber) (sha384 (toBE 2 idx)) (slice b 4 48) then
    (s.tokenRefused p).sealRefuse p Code.authRequired
  else if 1024 ≤ (s.part p).seals.length then s.sealRefuse p Code.quotaExceeded
  else (Code.ok, (s.updPart p (fun q => { q with sealJob := some ⟨idx, false, none, none⟩ })).sealShow p Code.ok 1 idx)

/-- The plaintext of the lines at `l` of a granule for the seal hasher, or the status that ends the seal (R407 step 3). -/
def State.sealLines (s : State) (p e va : Nat) (l : List Nat) : Nat × List Byte × State :=
  l.foldl (fun (r : Nat × List Byte × State) i =>
    if r.1 ≠ 0 then r
    else
      let g := r.2.2.readFinal e (va + 128 * i) (s.handleOf p) []
      match g.1 with
      | .data d => (0, r.2.1 ++ d, g.2)
      | .bad _ => (g.2.badStatus p, [], g.2.noteFault p)) (0, [], s)

/-- A digest over a domain byte and the bytes gathered; the status and the part go through. -/
def sealHash (tag : Byte) (r : Nat × List Byte × State) : Nat × List Byte × State := (r.1, sha384 (tag :: r.2.1), r.2.2)

/-- A digest joined to those before it. -/
def sealJoin (b : List Byte) (r : Nat × List Byte × State) : Nat × List Byte × State := (r.1, b ++ r.2.1, r.2.2)

/-- The digest of a granule (R408), or the status that ends the seal. -/
def State.sealGranule (s : State) (p e va : Nat) : Nat × List Byte × State :=
  if !s.tagOk e va (s.handleOf p) then (Code.notMapped, [], s.tagRefusal e va (s.handleOf p) 0)
  else sealHash 0#8 (s.sealLines p e va (List.range 32))

/-- The digests of the granules `l` from `base`, until one ends the seal. -/
def State.sealGranules (s : State) (p e base : Nat) (l : List Nat) : Nat × List Byte × State :=
  l.foldl (fun (r : Nat × List Byte × State) g =>
    if r.1 ≠ 0 then r
    else sealJoin r.2.1 (r.2.2.sealGranule p e (base + g * 4096))) (0, [], s)

/-- Group digest `j` of an extent (R408), or the status that ends the seal. -/
def State.sealGroup (s : State) (p e base j : Nat) : Nat × List Byte × State :=
  sealHash 1#8 (s.sealGranules p e (base + j * 2048 * 4096) (List.range 2048))

/-- The group digests `l` of an extent. -/
def State.sealGroups (s : State) (p e base : Nat) (l : List Nat) : Nat × List Byte × State :=
  l.foldl (fun (r : Nat × List Byte × State) j =>
    if r.1 ≠ 0 then r
    else sealJoin r.2.1 (r.2.2.sealGroup p e base j)) (0, [], s)

/-- The seal digest of an extent (R408), or the status that ends the seal. -/
def State.sealDigest (s : State) (p e idx : Nat) : Nat × List Byte × State :=
  sealHash 2#8 (s.sealGroups p e (eTag e * 2 ^ 42 + idx * 2 ^ 28) (List.range 32))

/-- What the hasher's result `r` makes of the seal `x` of partition `p` (R407 steps 3 and 4). -/
def sealOutcome (p : Nat) (x : Seal) (r : Nat × List Byte × State) : State :=
  if r.1 = 0 then r.2.2.updPart p (fun q => { q with sealJob := some { x with digest := some (ofBE r.2.1) } })
  else ((r.2.2.updPart p (fun q => { q with sealJob := some { x with failed := some r.1 } })).sealShow p r.1 3 x.idx).count
    (K.attestCounts 3) 1

/-- SEAL_HASH_COMPLETE: the digest of the extent that partition `p` is sealing is done, or a line or a refusal has ended it
(R407 steps 3 and 4). -/
def execSealHashComplete (p : Nat) (s : State) : Out :=
  .next (
    match (s.part p).sealJob with
    | none => s
    | some x =>
      if !x.started || x.digest.isSome || x.failed.isSome then s
      else sealOutcome p x (s.sealDigest p (s.entry p x.idx) x.idx))

/-- A take unmaps, rebinds or changes the KIND of the extent, or ends the partition's incarnation: the seal is discarded (R407). -/
def State.sealDiscard (s : State) (p : Nat) : State :=
  match (s.part p).sealJob with
  | none => s
  | some x =>
    ((s.updPart p (fun q => { q with sealJob := none })).sealShow p Code.abortedByTake 3 x.idx).count (K.attestCounts 4) 1

/-- At a slate: an accepted seal starts, a failed one ends, and a computed one sets SEALED (R407, R409). -/
def State.sealSlate (s : State) (p : Nat) : State :=
  match (s.part p).sealJob with
  | none => s
  | some x =>
    match x.failed, x.digest with
    | some _, _ => s.updPart p (fun q => { q with sealJob := none })
    | none, some d =>
      let s := s.partMade (K.extentMap p x.idx) (setFld (s.entry p x.idx) 59 59 1)
      let s := s.updPart p (fun q => { q with sealJob := none, seals := Tab.set q.seals x.idx (s.frame % 2 ^ 32, d) })
      (s.sealShow p Code.ok 2 x.idx).count (K.attestCounts 2) 1
    | none, none => s.updPart p (fun q => { q with sealJob := some { x with started := true } })

/-- A reset ends a seal in progress: the extent stops being sealing at the next slate (R409). -/
def State.sealReset (s : State) (p : Nat) : State :=
  match (s.part p).sealJob with
  | none => s
  | some x =>
    if x.failed.isSome then s
    else
      ((s.updPart p (fun q => { q with sealJob := some { x with failed := some Code.abortedByReset, digest := none } })).sealShow p
        Code.abortedByReset 3 x.idx).count (K.attestCounts 3) 1

/-! ### DRBGs (R389) -/

/-- DRBG_RESEED: every tile whose DRBG runs reseeds it. -/
def execDrbgReseed (s : State) : Out :=
  .next { s with reseeds := (List.range 36).foldl (fun (r : Tab Nat) t =>
    if s.rd (K.drbgStatus t) = 1 then Tab.set r t (Tab.getD r t 0 + 1) else r) s.reseeds }

/-- DRBG_HEALTH_FAILURE: the DRBG of tile `tile` stops, and the event is logged. -/
def execDrbgHealthFailure (tile : Nat) (s : State) : Out :=
  .next (
    if s.rd (K.drbgStatus tile) = 1 then (s.wr (K.drbgStatus tile) 2).security 8 0 tile 0 0 else s)

/-! ### Debug policy (18 R411) -/

/-- A write of DEBUG_POLICY: a set bit clears only at cold reset; INTERNAL_SCAN only while every partition is FREE. A change
is logged; R395 gives it no KIND, so that field is a free value (log entry 35). -/
def State.debugWrite (s : State) (v : Nat) : Nat × State :=
  let old := s.rd K.debugPolicy
  if (old &&& v) ≠ old then (Code.noAccess, s)
  else if bit v 2 && !bit old 2 && (List.range 64).any (fun p => s.rd (K.partitionStatus p) ≠ 0) then (Code.busy, s)
  else if v = old then (Code.ok, s)
  else
    let d := s.draw 16
    let e := d.1 * 2 ^ 124 + s.rd K.leadTile * 2 ^ 102 + s.frame % 2 ^ 64
    (Code.ok, ({ d.2 with secLog := keepLast 64 (d.2.secLog ++ [e]) } : State).wrLag K.debugPolicy v)

end Sys2Proof.Machine
end

