-- ==== Sys2Proof/Machine/Attest.lean ====
section
/-!
DEFINITION. What the part reports of itself (18 R396, R397, R402, R403): identity, certificate chains, measurement blocks.
-/

namespace Sys2Proof.Machine

/-- The public half of the identity key of SPDM slot `slot` (R396, R397). -/
def State.publicKey (s : State) (slot : Nat) : List Byte :=
  if slot = 0 then slice (Config.ecdsaPublic s.ecdsaKey) 0 97 else slice (Config.mldsaPublic s.mldsaKey) 0 1952

/-- The chain of an SPDM slot, its device certificate rebuilt from the fused fields (R397). -/
def State.certChain (s : State) (slot : Nat) : List Byte :=
  Config.certChain slot s.fuses.serial s.fuses.made (if slot = 0 then s.fuses.certSigs.1 else s.fuses.certSigs.2) (s.publicKey slot)
    (padTo 16 (ascii "PY-3640") ++ toLE 1 s.fuses.speedBin)

/-- An item that the root of trust presents: 0 the ECDSA public point, 1 the ML-DSA public key, 2 and 3 the certificate chains
of slots 0 and 1, 4 the vendor identifier, 5 the digest of the boot ROM, 6 what block 2 holds before any firmware. -/
def State.identity (s : State) (item : Nat) : List Byte :=
  if item < 2 then s.publicKey item else if item < 4 then s.certChain (item - 2) else Config.identity item

/-- The chain of an SPDM slot is withheld (R397, ATTEST_STATUS). -/
def State.withheld (s : State) (slot : Nat) : Bool := bit (s.rd K.attestStatus) slot

/-- The value of measurement blocks 1 to 7 as it is now (R402). -/
def State.measureNow (s : State) (i : Nat) : List Byte :=
  let im := s.boot.image
  if i = 1 then slice (s.identity 5) 0 48
  else if i = 2 then if im.isEmpty then slice (s.identity 6) 0 48 else sha384 im
  else if i = 3 then toLE 4 (beAt im 8 4) ++ toLE 4 (beAt im 12 4)
  else if i = 4 then sha384 s.fuses.options
  else if i = 5 then toLE 4 (s.rd K.debugPolicy) ++ toLE 4 s.boot.policyFrame
  else if i = 6 then toLE 4 (s.rd K.takeNumber) ++ toLE 8 (s.rd K.takeAppliedFrame) ++ toBE 48 s.takeDigest
  else ((List.range 36).map (fun p => toLE 1 (s.rd (K.portState p)) ++ toLE 8 (s.rd (K.peerLinkId p)))).flatten

/-- The value of a block as of the last slate (R403). -/
def State.measureBlock (s : State) (i : Nat) : List Byte :=
  if 5 ≤ i then (match Tab.find s.boot.blocks i with | some b => b | none => s.measureNow i) else s.measureNow i

/-- DMTFSpecMeasurementValueType of a block (R402). -/
def measureType (i : Nat) : Nat :=
  if i = 1 then 0x00 else if i = 2 then 0x01 else if i = 3 then 0x87 else if i = 4 then 0x02 else if i = 6 then 0x83
  else if i = 7 then 0x82 else 0x84

/-- A block in SPDM measurement-block form. -/
def measureForm (i : Nat) (v : List Byte) : List Byte :=
  toLE 1 i ++ toLE 1 1 ++ toLE 2 (v.length + 3) ++ toLE 1 (measureType i) ++ toLE 2 v.length ++ v

/-- The block of an index: 1 to 7, or 0x10 + partition. -/
def State.measureOf (s : State) (i : Nat) : Option (List Byte) :=
  if 1 ≤ i ∧ i ≤ 7 then some (measureForm i (s.measureBlock i))
  else if 0x10 ≤ i ∧ i < 0x50 then some (measureForm i (s.report (i - 0x10)))
  else none

/-- MEASUREMENT_BLOCKS: blocks 1 to 7. -/
def State.measurementBlocks (s : State) : List Byte := ((List.range 7).map (fun i => measureForm (i + 1) (s.measureBlock (i + 1)))).flatten

/-- At a slate the blocks that change take their new values (R403). What block 6 holds changes at slates only. -/
def State.measureSlate (s : State) : State :=
  let p := s.rd K.debugPolicy
  let s := if p = s.boot.policy then s else { s with boot := { s.boot with policy := p, policyFrame := s.frame % 2 ^ 32 } }
  { s with boot := { s.boot with blocks := [(5, s.measureNow 5), (7, s.measureNow 7)] } }

end Sys2Proof.Machine
end

