-- ==== Sys2Proof/Machine/Gaffer.lean ====
section
/-!
DEFINITION. Sensors, the gaffer's cuts, the peak window, and the dailies record of a frame (ch. 21, 08 R195, R196).
-/

namespace Sys2Proof.Machine

/-! ### Sensors (R454, R462, 08 R195, R196) -/

/-- Sensor `i` of a tile, in the order of TILE_TEMPS. -/
def State.sensor (s : State) (t i : Nat) : Sensor := Tab.getD s.gaff.sensors (t * 8 + i) {}

/-- The sensor is marked failed. -/
def State.sensorFailed (s : State) (t i : Nat) : Bool := bit (s.rd (K.sensorStatus t)) i

/-- The sensors of the same kind as `i`: the four of the die or the two of the stack. -/
def sensorKind (i : Nat) : List Nat := if i < 4 then [0, 1, 2, 3] else [4, 5]

/-- What the sensors of a kind read together, `f` giving each: the hottest one, a failed one replaced by the hotter of the
remaining ones plus 5 C; with both stack sensors failed, 90 C. With every die sensor failed the manual states no reading. -/
def State.kindTemp (s : State) (t : Nat) (l : List Nat) (f : Nat → Option Int) : Option Int :=
  let good := (l.filter (fun i => !s.sensorFailed t i)).filterMap f
  match good with
  | [] => if l.all (s.sensorFailed t) && l = [4, 5] then some 720 else none
  | a :: r =>
    let m := r.foldl max a
    some (if l.any (s.sensorFailed t) then m + 40 else m)

/-- The temperature of a tile's stack now, by its last readings. -/
def State.stackTemp (s : State) (t : Nat) : Option Int :=
  s.kindTemp t [4, 5] (fun i => (Tab.find s.gaff.sensors (t * 8 + i)).map (·.last))
/-- That of its die. -/
def State.dieTemp (s : State) (t : Nat) : Option Int :=
  s.kindTemp t [0, 1, 2, 3] (fun i => (Tab.find s.gaff.sensors (t * 8 + i)).map (·.last))
/-- The highest stack temperature of the frame. -/
def State.stackPeak (s : State) (t : Nat) : Option Int := s.kindTemp t [4, 5] (fun i => (s.sensor t i).peak)
/-- The highest die temperature of the frame. -/
def State.diePeak (s : State) (t : Nat) : Option Int := s.kindTemp t [0, 1, 2, 3] (fun i => (s.sensor t i).peak)

/-- A sensor takes reading `v`, its hottest neighbour reading `n`, in frame `f`; `seen` says that it has had a reading before. -/
def Sensor.take (k : Sensor) (seen : Bool) (v n : Int) (f : Nat) : Sensor :=
  let top := match k.peak with | some p => some (max p v) | none => some v
  if v = k.last ∧ seen then { k with lo := min k.lo n, hi := max k.hi n, peak := top }
  else { last := v, since := f, lo := n, hi := n, peak := top }

/-- A reading outside -20 to 150 C, or one repeated for 400 frames while the neighbours moved by 2 C (R454). -/
def Sensor.bad (k : Sensor) (f : Nat) : Bool := k.last < -160 || 1200 < k.last || (k.since + 400 ≤ f && 16 ≤ k.hi - k.lo)

/-- Take the six readings of a tile. -/
def State.takeReadings (s : State) (t : Nat) (vals : List Int) : State :=
  (List.range 6).foldl (fun s i =>
    let v := vals.getD i 0
    let nbrs := ((sensorKind i).filter (· ≠ i)).map (fun j => vals.getD j 0)
    let n := nbrs.foldl max (nbrs.headD 0)
    let k := (s.sensor t i).take (Tab.find s.gaff.sensors (t * 8 + i)).isSome v n s.frame
    let s := s.setGaff { s.gaff with sensors := Tab.set s.gaff.sensors (t * 8 + i) k }
    if k.bad s.frame && !s.sensorFailed t i then
      (s.wr (K.sensorStatus t) (s.rd (K.sensorStatus t) + 2 ^ i)).count (K.gafferCounts 6) 1
    else s) s

/-- Halve what remains of every partition's burst and activation budget at a tile, and note it in their dailies (08 R196). -/
def State.halveBudgets (s : State) (t : Nat) : State :=
  (s.stack t).budget.foldl (fun s e =>
    let p := e.1
    let k := s.stack t
    let cut := (List.range 32).foldl (fun (a : Tab Nat × Tab Nat) pc =>
      let b := s.pcBudget t pc p
      (Tab.set a.1 (p * 32 + pc) (k.bursts p pc + (b.1 - k.bursts p pc + 1) / 2),
       Tab.set a.2 (p * 32 + pc) (k.acts p pc + (b.2 - k.acts p pc + 1) / 2))) (k.burstUsed, k.actUsed)
    (s.setStack t { k with burstUsed := cut.1, actUsed := cut.2 }).meterFlag p 1) s

/-- The retention period moves with the stack's temperature `v` (08 R195). -/
def State.retentionStep (s : State) (t : Nat) (v : Int) : State :=
  let r := s.rd (K.retention t)
  let k := s.stack t
  let up := if 744 ≤ v ∨ k.protective then 2 else if 664 ≤ v then max r 1 else r
  if r < up then (s.setStack t { k with coolSince := none }).wr (K.retention t) up
  else
    let low := if r = 2 then (720 : Int) else 640
    let pass := if r = 2 then 32 else 64
    if r = 0 ∨ low < v ∨ k.protective then s.setStack t { k with coolSince := none }
    else
      match k.coolSince with
      | none => s.setStack t { k with coolSince := some s.frame }
      | some f => if f + pass ≤ s.frame then (s.setStack t { k with coolSince := none }).wr (K.retention t) (r - 1) else s

/-- Protective throttling and the halt of a stack in service (08 R196). -/
def State.protectStep (s : State) (t : Nat) (v : Int) : State :=
  let k := s.stack t
  let prot := if 760 < v then true else if v ≤ 736 then false else k.protective
  let halt := if 840 < v then true else if v ≤ 800 then false else k.halted
  let s1 := s.setStack t { k with protective := prot, halted := halt }
  let s2 := if prot && !k.protective then s1.halveBudgets t else s1
  let st := s.rd (K.stackState t)
  let s3 := if 3 ≤ st ∧ st ≤ 5 then s2.wr (K.stackState t) (if halt then 5 else if prot then 4 else 3) else s2
  if halt then s3 else s3.wake (.halted t)

/-- THERM_ALERT_N is asserted (R462). -/
def Gaffer.therm (g : Gaffer) : Bool := g.thermStack || g.thermDie || g.critical

/-- The temperature actions on the whole part (R462). -/
def State.thermStep (s : State) (t : Nat) (die stack : Option Int) : State :=
  let g := s.gaff
  let hot := fun (x : Option Int) (c : Int) => match x with | some v => decide (c < v) | none => false
  let all := List.range 36
  let g1 := { g with
    thermStack := hot stack 760 || (g.thermStack && all.any (fun i => hot (s.stackTemp i) 736))
    thermDie := hot die 840 || (g.thermDie && all.any (fun i => hot (s.dieTemp i) 800))
    critical := g.critical || hot die 919 || hot stack 879 }
  let s1 := s.setGaff g1
  let s2 := if g1.critical then { s1 with boot := { s1.boot with service := false } } else s1
  let s3 := if hot die 840 then s2.wr (K.tileCut t) 224 else s2
  if g1.therm && !g.therm then s3.count (K.gafferCounts 7) 1 else s3

/-- SENSOR_SAMPLE: tile `tile` samples its six sensors, in 1/8 C, at time `t`. -/
def execSensorSample (tile : Nat) (vals : List Int) (t : Nat) (s : State) : Out :=
  .next (
    if !s.boot.powered then s
    else
      let s := (s.at t).takeReadings tile vals
      let st := s.stackTemp tile
      let s1 := match st with
        | some v => if s.rd (K.stackState tile) = 0 ∨ !s.domainsOn tile then s else (s.protectStep tile v).retentionStep tile v
        | none => s
      s1.thermStep tile (s1.dieTemp tile) st)

/-! ### The coolant report and the peak window (R458, R459) -/

/-- A write of COOLANT_REPORT, from either side: the value and its age. Before the first slate, which opens frame 1, the age
counts from that slate (23 R489). -/
def State.coolantWrite (s : State) (v : Nat) : State :=
  (s.wr K.coolantReport v).setGaff { s.gaff with coolant := some (max s.frame 1), stale := false }

/-- The report in force is at most 400 frames old. -/
def State.coolantFresh (s : State) : Bool :=
  match s.gaff.coolant with | some f => s.frame ≤ f + 400 | none => false

/-- A valid coolant report stands (R458): inlet at most 30.00 C, flow at least 6.00 L/min. -/
def State.coolantOk (s : State) : Bool :=
  let v := s.rd K.coolantReport
  s.coolantFresh && fld v 15 0 ≤ 3000 && 600 ≤ fld v 31 16

/-- The report in force passes 400 frames of age. -/
def State.coolantStale (s : State) : State :=
  if s.gaff.coolant.isSome && !s.coolantFresh && !s.gaff.stale then
    (s.setGaff { s.gaff with stale := true }).count (K.gafferCounts 5) 1
  else s

/-- COOLANT_REPORT_STALE. -/
def execCoolantReportStale (s : State) : Out := .next s.coolantStale

/-- R458 allows an open window. -/
def State.peakAllowed (s : State) : Bool := s.rd K.peakEnable = 1 && s.coolantOk

/-- 4,000 frames below 2,000 W arm a disarmed window (R459). -/
def State.peakArm (s : State) : State :=
  if s.gaff.peak = 0 ∧ 4000 ≤ s.gaff.rearm then s.setGaff { s.gaff with peak := 1 } else s

/-- PEAK_WINDOW_ARM. -/
def execPeakWindowArm (s : State) : Out := .next s.peakArm

/-- An open window starts closing after its 160 frames, or when R458 fails. -/
def State.peakExpire (s : State) : State :=
  let g := s.gaff
  if g.peak = 2 && (g.peakLeft = 0 || !s.peakAllowed) then s.setGaff { g with peak := 3, peakLeft := 0, closing := 0 } else s

/-- PEAK_WINDOW_EXPIRY. -/
def execPeakWindowExpiry (s : State) : Out := .next s.peakExpire

/-- The window at a slate: `held` says that a shared partition's work was held in the frame just ended. -/
def State.peakSlate (s : State) (held : Bool) : State :=
  let g := s.gaff
  if g.peak = 1 then
    if held && s.peakAllowed then (s.setGaff { g with peak := 2, peakLeft := 160 }).count (K.gafferCounts 0) 1 else s
  else if g.peak = 2 then (s.setGaff { g with peakLeft := g.peakLeft - 1 }).peakExpire
  else if g.peak = 3 then
    if 3 ≤ g.closing then s.setGaff { g with peak := 0, closing := 0 } else s.setGaff { g with closing := g.closing + 1 }
  else s.peakArm

/-! ### The slate guard (R449, R460, R461) -/

/-- cut_pkg from the package energy `e`, the limit and the governed energy, all in uJ (R460). -/
def nextPkgCut (cut e lim v : Nat) : Nat :=
  if lim < e then min 224 (cut + ceilDiv (256 * (e - lim)) (max v 1))
  else if lim / 50 < lim - e then cut - 16 else cut

/-- cut_loc of a tile from its stack's and die's maxima against the targets (R460). -/
def nextLocCut (cut : Nat) (stack die : Option Int) (dram dieT : Nat) : Nat :=
  let o := [stack.map (fun v => v - 8 * (dram : Int)), die.map (fun v => v - 8 * (dieT : Int))].filterMap id
  match o with
  | [] => cut
  | a :: r =>
    let excess := r.foldl max a
    if 0 < excess then min 224 (cut + 4 * excess.toNat) else if excess < -16 then cut - 8 else cut

/-- Measure 4 of R461: after 4 frames at 224 shared budgets are halved. -/
def State.halvingStep (s : State) : State :=
  if 4 ≤ s.gaff.cutRun ∧ !s.gaff.halved then s.setGaff { s.gaff with halved := true } else s

/-- SHARED_BUDGET_HALVING. -/
def execSharedBudgetHalving (s : State) : Out := .next s.halvingStep

/-- Governed energy of a partition at a slot in the frame, in uJ. -/
def State.drawnUj (s : State) (slot p : Nat) : Nat := s.drawn slot p / microJ

/-- A temperature as an I16. -/
def tempCode (v : Option Int) : Nat := match v with | some x => ofSigned 16 x | none => 0

/-- The gaffer's work in the guard, `uj` being the package energy measured over the frame (R460, R461). -/
def State.gafferGuard (s : State) (uj : Nat) : State :=
  let g := s.gaff
  let pairs := (List.range 2048).map (fun k => (k, s.drawnUj (k / 64) (k % 64)))
  let v := ((List.range 2048).map (fun k => s.drawn (k / 64) (k % 64))).sum / microJ
  let lim := g.limit * 250
  let cut := nextPkgCut g.cutPkg uj lim v
  let run := if cut = 224 then g.cutRun + 1 else 0
  let temps := (List.range 36).map (fun t => (s.stackPeak t, s.diePeak t))
  let top := fun (l : List (Option Int)) => (l.filterMap id).max?
  let s := s.wr K.packagePower (4 * uj % 2 ^ 32)
  let s := (List.range 36).foldl (fun s t =>
    let x := temps.getD t (none, none)
    let c := nextLocCut (s.rd (K.tileCut t)) x.1 x.2 (s.eff K.dramTarget) (s.eff K.dieTarget)
    let s := s.wr (K.tileCut t) c
    (List.range 6).foldl (fun s i => s.wr (K.tileTemps t i) (tempCode (s.sensor t i).peak)) s) s
  let local_ := (List.range 36).any (fun t => s.rd (K.tileCut t) ≠ 0)
  let s := if g.peak = 2 then s.count (K.gafferCounts 1) 1 else s
  let s := if cut ≠ 0 then s.count (K.gafferCounts 2) 1 else s
  let s := if local_ then s.count (K.gafferCounts 3) 1 else s
  let s := if s.serviceTiles.any (fun t => 1 ≤ s.rd (K.retention t)) then s.count (K.gafferCounts 4) 1 else s
  (s.setGaff { g with
    last := pairs.filter (fun e => e.2 ≠ 0)
    cutPkg := cut
    cutRun := run
    halved := if cut < 128 then false else g.halved
    rearm := if 4 * uj < 2000000 then min 4000 (g.rearm + 1) else 0
    hotStack := top (temps.map (·.1))
    hotDie := top (temps.map (·.2))
    sensors := g.sensors.map (fun e => (e.1, { e.2 with peak := none })) }).halvingStep

/-- GAFFER_STATE (R464). -/
def State.gafferState (s : State) : Nat :=
  let g := s.gaff
  let loc := ((List.range 36).map (fun t => s.rd (K.tileCut t))).foldl max 0
  let deg := fun (v : Option Int) => match v with | some x => ofSigned 8 (x / 8) | none => 0
  g.cutPkg * 2 ^ 56 + loc * 2 ^ 48 + g.peakLeft * 2 ^ 40 + g.peak * 2 ^ 36 + g.rearm * 2 ^ 24 + deg g.hotStack * 2 ^ 16
    + deg g.hotDie * 2 ^ 8 + b2n g.halved * 16 + b2n s.coolantOk * 8 + b2n g.therm * 4 + b2n g.critical * 2
    + b2n (g.cutPkg ≠ 0 || loc ≠ 0)

/-! ### The dailies record (R447 to R451) -/

/-- Attributed energy of a partition in the frame, in 1/1024 pJ, the remainder carried into it included. -/
def State.frameEnergy (s : State) (p : Nat) : Nat :=
  Tab.getD s.dailies.carry p 0
    + s.unitEnergy 0 (s.meterOf p Mt.reads) + s.unitEnergy 1 (s.meterOf p Mt.writes) + s.unitEnergy 2 (s.meterOf p Mt.acts)
    + s.unitEnergy 3 (s.meterOf p Mt.portIn + s.meterOf p Mt.portOut)
    + ((List.range 32).map (fun i => s.drawn i p)).sum

/-- Governed allowance granted to a partition for the frame, over the slots, in uJ, with what redistribution gave it where its
work would have held. -/
def State.granted (s : State) (p : Nat) : Nat :=
  ((List.range 32).map (fun i =>
    s.allowance i p + (if s.pastAllowance i p then s.lent i p / microJ else 0))).sum

/-- The record of partition `p`. -/
def State.dailyRecord (s : State) (p : Nat) : List Byte :=
  let f := s.meterOf p Mt.flags
  let cutBelow := (List.range 32).any (fun i => s.allowance i p < s.powerBudget p)
  let flags := b2n (s.isSealed p) + 2 * b2n (bit f 1) + 4 * b2n cutBelow
    + 8 * b2n ((List.range 36).any (fun t => s.isThrottled t p)) + 16 * b2n (s.gaff.peak = 2) + 32 * b2n s.dailies.reset
    + 64 * b2n s.dailies.took + 128 * b2n (s.rd (K.partitionStatus p) = 2)
  toBE 8 s.frame ++ toBE 1 p ++ toBE 1 flags ++ toBE 2 (s.incarnation p) ++ toBE 4 (s.rd K.takeNumber)
    ++ toBE 8 (128 * s.meterOf p Mt.reads) ++ toBE 8 (128 * s.meterOf p Mt.writes) ++ toBE 8 (s.meterOf p Mt.mover)
    ++ toBE 8 (s.meterOf p Mt.portIn) ++ toBE 8 (s.meterOf p Mt.portOut) ++ toBE 8 (s.meterOf p Mt.elements)
    ++ toBE 4 (s.meterOf p Mt.acts) ++ toBE 4 (s.frameEnergy p / microJ) ++ toBE 4 (s.meterOf p Mt.cycles)
    ++ toBE 4 (s.meterOf p Mt.redist) ++ toBE 4 (s.meterOf p Mt.withheld) ++ toBE 2 (min 65535 (s.meterOf p Mt.hammer))
    ++ toBE 2 (min 65535 (s.meterOf p Mt.faults)) ++ toBE 4 (s.granted p) ++ toBE 4 0

/-- The system record: `uj` is the package energy measured. -/
def State.systemRecord (s : State) (uj : Nat) : List Byte :=
  toBE 8 s.frame ++ toBE 1 0xFF ++ toBE 1 0 ++ toBE 2 0 ++ toBE 4 0 ++ toBE 8 (128 * s.meterOf 64 Mt.reads)
    ++ toBE 8 (128 * s.meterOf 64 Mt.writes) ++ toBE 32 0 ++ toBE 4 (s.meterOf 64 Mt.acts) ++ toBE 4 uj ++ toBE 16 0
    ++ toBE 4 (s.gaff.limit * 250) ++ toBE 4 0

/-- The records of the frame go to the ring, and the meters start anew (R449). -/
def State.dailiesGuard (s : State) (uj : Nat) : State :=
  let parts := (List.range 64).filter (fun p => s.rd (K.partitionStatus p) ≠ 0)
  let recs : List (Nat × List Byte) := parts.map (fun p => (p, s.dailyRecord p)) ++ [(64, s.systemRecord uj)]
  let m := s.frame / 240000
  let d := s.dailies
  let mins := recs.foldl (fun (t : Tab (List Byte)) (r : Nat × List Byte) => Tab.set t (m * 65 + r.1) (Tab.getD t (m * 65 + r.1) [] ++ r.2)) d.minutes
  let carry := parts.map (fun p => (p, s.frameEnergy p % microJ))
  let s1 := { s with
    dailies := { d with ring := keepLast 4000 (d.ring ++ [(s.frame, recs.map (fun (r : Nat × List Byte) => r.2))]), minutes := mins, carry := carry, reset := false, took := false }
    gaff := { s.gaff with told := s.gaff.units }
    meter := [] }
  let s2 := (s1.wr K.lastRecordFrame s.frame).count (K.dailiesCounts 0) recs.length
  if d.reset then s2.count (K.dailiesCounts 1) 1 else s2

/-- At the slate the units start anew; what was counted since the record goes into the carried remainder. -/
def State.energySlate (s : State) : State :=
  let left := fun (p : Nat) => ((List.range 32).map (fun i => s.drawn i p - s.governedIn s.gaff.told i p)).sum
  let carry := (List.range 64).foldl (fun (t : Tab Nat) p => if left p = 0 then t else Tab.set t p (Tab.getD t p 0 + left p)) s.dailies.carry
  { s with
    dailies := { s.dailies with carry := carry }
    gaff := { s.gaff with units := [], told := [], held := [] } }

/-! ### Roll-ups (R452) -/

/-- The number that the digits of each record of a minute hold at an offset, summed. -/
def sumField (l : List (List Byte)) (off n : Nat) : Nat := (l.map (fun r => beAt r off n)).sum

/-- The records of a byte string. -/
def recordsOf (b : List Byte) : List (List Byte) := (List.range (b.length / 96)).map (fun i => slice b (96 * i) 96)

/-- FLAGS of a roll-up. -/
def rollFlags (l : List (List Byte)) : Nat :=
  let inc := l.length < 240000 || l.any (fun r => bit (leAt r 9 1) 5)
  let chg := (l.map (fun r => beAt r 10 2)).eraseDups.length > 1 || l.any (fun r => bit (leAt r 9 1) 7)
  b2n inc + 2 * b2n chg + 4 * b2n (l.any (fun r => bit (leAt r 9 1) 0))

/-- Bytes 0 to 183 of the roll-up of minute `m` for partition `p`, 64 the system. -/
def State.rollBody (s : State) (m p : Nat) (b : List Byte) : List Byte :=
  let l := recordsOf b
  ascii "PYRU" ++ toBE 1 1 ++ toBE 1 (if p = 64 then 0xFF else p) ++ toBE 1 (rollFlags l) ++ toBE 1 0 ++ toBE 8 (s.fuses.serial % 2 ^ 56)
    ++ toBE 8 m ++ toBE 4 l.length ++ toBE 2 (beAt (l.getLastD []) 10 2) ++ toBE 10 0 ++ sha384 b
    ++ ([(16, 8), (24, 8), (32, 8), (40, 8), (48, 8), (56, 8), (64, 4), (68, 4), (72, 4), (76, 4), (80, 4)].map (fun f =>
        toBE 8 (sumField l f.1 f.2))).flatten
    ++ toBE 4 (sumField l 84 2) ++ toBE 4 (sumField l 86 2)

/-- The signatures of R452 over a body: by the device's two identity keys, the second hedged. -/
def State.sign (s : State) (b : List Byte) : List Byte × State :=
  let d := s.draw 0
  (Config.ecdsaSign s.ecdsaKey (sha384 b) ++ Config.mldsaSign s.mldsaKey (sha384 b) d.1, d.2)

/-- ROLLUP_SIGN: the roll-ups of minute `m`, once it has ended. -/
def execRollupSign (m : Nat) (s : State) : Out :=
  .next (
    if s.frame < 240000 * (m + 1) then s
    else
      (s.dailies.minutes.filter (fun e => e.1 / 65 = m)).foldl (fun s e =>
        let p := e.1 % 65
        let body := s.rollBody m p e.2
        let r := s.sign body
        let roll := body ++ r.1
        let s := r.2
        let s := s.wr (if p = 64 then K.rollupSystem else K.rollupLast p) (ofBE roll)
        let s := s.count (K.dailiesCounts 3) 1
        let s := if bit (leAt body 6 1) 0 then s.count (K.dailiesCounts 4) 1 else s
        { s with dailies := { s.dailies with
          minutes := Tab.erase s.dailies.minutes e.1
          subs := s.dailies.subs.map (fun (q : Nat × Sub) =>
            if p = 64 || bit q.2.parts p then (q.1, { q.2 with rolls := q.2.rolls ++ [roll] }) else q) } }) s)

end Sys2Proof.Machine
end

