-- ==== Sys2Proof/Machine/Operands.lean ====
section
/-!
DEFINITION. Reel instruction words (ch. 14): the fields of the three forms, the number formats of R274, and the words
that R319 makes illegal whatever the registers hold.
-/

namespace Sys2Proof.Machine

/-! ### Fields (R318) -/

/-- OPCODE. -/
def iOp (w : Nat) : Nat := fld w 63 56
/-- FUNC, and COND of the B form. -/
def iFunc (w : Nat) : Nat := fld w 55 48
/-- D. -/
def iD (w : Nat) : Nat := fld w 47 43
/-- A. -/
def iA (w : Nat) : Nat := fld w 42 38
/-- B. -/
def iB (w : Nat) : Nat := fld w 37 33
/-- C. -/
def iC (w : Nat) : Nat := fld w 32 28
/-- FMT. -/
def iFmt (w : Nat) : Nat := fld w 27 23
/-- RM. -/
def iRm (w : Nat) : Nat := fld w 22 21
/-- SAT. -/
def iSat (w : Nat) : Bool := bit w 20
/-- MEN. -/
def iMen (w : Nat) : Bool := bit w 19
/-- MSK. -/
def iMsk (w : Nat) : Nat := fld w 18 16
/-- IMM16. -/
def iImm16 (w : Nat) : Nat := fld w 15 0
/-- IMM32 of the I form. -/
def iImm32 (w : Nat) : Nat := fld w 31 0
/-- sext(IMM16) as a 64-bit word. -/
def iSext16 (w : Nat) : Word := BitVec.ofInt 64 (toSigned 16 w)
/-- sext(IMM32), or OFF of the B form, as an integer. -/
def iOff (w : Nat) : Int := toSigned 32 w
/-- Register A of the B form. -/
def iBrA (w : Nat) : Nat := fld w 47 43
/-- Register B of the B form. -/
def iBrB (w : Nat) : Nat := fld w 42 38

/-! ### Formats (R271, R274 to R276) -/

/-- Element bits of a format. -/
def fmtBits (f : Nat) : Nat :=
  [32, 16, 16, 8, 8, 8, 8, 6, 6, 4, 8, 8, 4, 8, 8, 8, 4, 4, 4, 32].getD f 0
/-- The code is listed in R274. -/
def fmtListed (f : Nat) : Bool := f < 20
/-- An MX format: 32 elements to an E8M0 scale. -/
def fmtMx (f : Nat) : Bool := 5 ≤ f && f ≤ 0xA
/-- A grouped format: a binary16 scale to each group. -/
def fmtGrouped (f : Nat) : Bool := 0xD ≤ f && f ≤ 0x12
/-- The format has a scale array. -/
def fmtScaled (f : Nat) : Bool := fmtMx f || fmtGrouped f
/-- INT8, INT4 and INT32. -/
def fmtInt (f : Nat) : Bool := f = 0xB || f = 0xC || f = 0x13
/-- Elements of a block or group; 1 for unscaled formats. -/
def fmtGroup (f : Nat) : Nat :=
  if fmtMx f then 32 else if fmtGrouped f then [32, 64, 128].getD ((f - 0xD) % 3) 1 else 1
/-- Bytes of a scale. -/
def fmtScaleBytes (f : Nat) : Nat := if fmtMx f then 1 else if fmtGrouped f then 2 else 0
/-- Elements that a 4,096-bit register holds (R271). -/
def fmtCapacity (f : Nat) : Nat := if fmtBits f = 0 then 0 else 4096 / fmtBits f
/-- Marked Yes for composites and REDUCE. -/
def fmtReduce (f : Nat) : Bool := f ≤ 4 || f = 0xB || f = 0x13
/-- The formats of vector arithmetic (R329): FP32, FP16, BF16, INT8, INT32. -/
def fmtVector (f : Nat) : Bool := f ≤ 2 || f = 0xB || f = 0x13
/-- MAC per cycle of matrix-from-stream work, by streamed format (R270); 0 where the format is not streamed so. -/
def fmtRate (f : Nat) : Nat :=
  [0, 8192, 8192, 16384, 16384, 16384, 16384, 16384, 16384, 32768, 16384, 16384, 32768, 16384, 16384, 16384, 32768,
    32768, 32768, 0].getD f 0

/-- The floating-point layout of a format's elements, for those that have one. -/
def fmtFloat (f : Nat) : Option FFmt :=
  [some fmt32, some fmt16, some fmtBf16, some fmtE4M3, some fmtE5M2, some fmtE4M3, some fmtE5M2, some fmtE3M2, some fmtE2M3,
    some fmtE2M1].getD f none

/-- The exact value of an element code, before any scale. -/
def fmtValue (f code : Nat) : Num :=
  match fmtFloat f with
  | some g => g.decode code
  | none =>
    if f = 0xA then (match numOfInt (toSigned 8 code) with | .fin s n d => .fin s n (64 * d) | x => x)
    else numOfInt (toSigned (fmtBits f) code)

/-- The exact value of a scale code: E8M0 of the MX formats (0xFF is NaN), binary16 of the grouped ones. -/
def scaleValue (f code : Nat) : Num :=
  if fmtMx f then (if code = 255 then .nan else dyadic false 1 ((code : Int) - 127))
  else if fmtGrouped f then fmt16.decode code else .fin false 1 1

/-! ### Legal words (R319) -/

/-- The bits of the word outside the fields `l` and the opcode are zero. -/
def onlyBits (w : Nat) (l : List (Nat × Nat)) : Bool :=
  l.foldl (fun w p => setFld w p.1 p.2 0) w = iOp w * 2 ^ 56

/-- D, as the R and I forms place it. -/
abbrev fD : Nat × Nat := (47, 43)
/-- A. -/
abbrev fA : Nat × Nat := (42, 38)
/-- B. -/
abbrev fB : Nat × Nat := (37, 33)
/-- C. -/
abbrev fC : Nat × Nat := (32, 28)
/-- FMT. -/
abbrev fFmt : Nat × Nat := (27, 23)
/-- RM. -/
abbrev fRm : Nat × Nat := (22, 21)
/-- SAT. -/
abbrev fSat : Nat × Nat := (20, 20)
/-- MEN and MSK. -/
abbrev fMask : Nat × Nat := (19, 16)
/-- IMM16. -/
abbrev fImm : Nat × Nat := (15, 0)
/-- IMM32. -/
abbrev fImm32 : Nat × Nat := (31, 0)
/-- FUNC bit 0. -/
abbrev fFunc0 : Nat × Nat := (48, 48)
/-- FUNC. -/
abbrev fFunc : Nat × Nat := (55, 48)

/-- RM is a listed code, and 0 for an integer format. -/
def rmOk (w : Nat) (int : Bool) : Bool := iRm w ≤ 2 && (iRm w = 0 || !int)

/-- MSK is 0 unless MEN is 1: a mask that nothing applies is an unused field. -/
def maskOk (w : Nat) : Bool := iMen w || iMsk w = 0

/-- Registers that `count` elements of `bits` bits take. -/
def spanRegs (bits count : Nat) : Nat := ceilDiv (count * bits) 4096

/-- Registers `r` to `r + n - 1` lie within V0 to V31. -/
def spanOk (r n : Nat) : Bool := r + n ≤ 32

/-- COUNT of the conversions. -/
def iCount (w : Nat) : Nat := fld w 9 0 + 1

/-- VCVT (R335). -/
def legalVcvt (w : Nat) : Bool :=
  let src := iFmt w
  let dst := fld w 15 11
  let q := bit (iFunc w) 0
  onlyBits w [fFunc0, fD, fA, fFmt, fRm, fSat, fMask, fImm] && maskOk w && rmOk w (fmtInt src) && !bit w 10
    && fmtListed src && !fmtScaled src && fmtListed dst && !fmtScaled dst
    && (if q then iA w < 8 && src = 0 && iCount w ≤ 512 else spanOk (iA w) (spanRegs (fmtBits src) (iCount w)))
    && spanOk (iD w) (spanRegs (fmtBits dst) (iCount w))

/-- VQNT (R335). -/
def legalVqnt (w : Nat) : Bool :=
  let f := iFmt w
  let n := spanRegs (fmtBits f) (iCount w)
  onlyBits w [fFunc0, fD, fA, fB, fFmt, fRm, fMask, fImm] && maskOk w && rmOk w false && fld w 15 10 = 0 && fmtScaled f
    && iCount w % fmtGroup f = 0
    && (if bit (iFunc w) 0 then iA w < 8 && iCount w ≤ 512 else spanOk (iA w) (spanRegs 32 (iCount w)))
    && spanOk (iD w) n && (iB w < iD w || iD w + n ≤ iB w)

/-- VDQ (R335). -/
def legalVdq (w : Nat) : Bool :=
  let f := iFmt w
  let n := spanRegs 32 (iCount w)
  onlyBits w [fFunc0, fD, fA, fB, fFmt, fSat, fMask, fImm] && maskOk w && fld w 15 10 = 0 && fmtScaled f
    && iCount w % fmtGroup f = 0 && spanOk (iA w) (spanRegs (fmtBits f) (iCount w))
    && (if bit (iFunc w) 0 then iD w < 8 && iCount w ≤ 512 else spanOk (iD w) n && (iB w < iD w || iD w + n ≤ iB w))

/-- The word is legal whatever the registers hold (R319, R322 to R344). -/
def legalWord (w : Nat) : Bool :=
  let op := iOp w
  let f := iFmt w
  let func := iFunc w
  if 0x01 ≤ op ∧ op ≤ 0x0C then
    if func = 1 then onlyBits w [fFunc0, fD, fA, fImm] else onlyBits w [fD, fA, fB]
  else if op = 0x0E then onlyBits w [fD, fImm32]
  else if op = 0x0F then onlyBits w [fD, fA, fImm32]
  else if op = 0x10 then onlyBits w [fFunc, fD, fA, fImm32] && func ≤ 6
  else if op = 0x11 then onlyBits w [fD, fImm32]
  else if op = 0x12 then onlyBits w [fA, fImm32]
  else if op = 0x18 then onlyBits w [fFunc0, fD, fA, fB, fC, fFmt] && iD w < 8 && fmtListed f
  else if op = 0x19 then onlyBits w [fD] && iD w < 8
  else if op = 0x1A then onlyBits w [fD, fA] && iA w < 8
  else if op = 0x1B then onlyBits w [fD, fA, fC, fImm] && iA w < 8 && 1 ≤ iImm16 w && iImm16 w ≤ 1024
  else if op = 0x1C then onlyBits w [fD, fA, fC, fSat, fImm] && iA w < 8 && 1 ≤ iImm16 w && iImm16 w ≤ 128
  else if op = 0x20 ∨ op = 0x21 ∨ op = 0x22 ∨ op = 0x23 then onlyBits w [fD, fA, fImm32]
  else if op = 0x24 ∨ op = 0x25 ∨ op = 0x26 ∨ op = 0x27 then onlyBits w [fD, fA, fImm32] && iD w < 8
  else if op = 0x2A ∨ op = 0x2B then onlyBits w [fD, fA, fImm32]
  else if op = 0x2C then onlyBits w [fD, fA, fImm] && 8 ≤ iImm16 w && iImm16 w ≤ 512 && iImm16 w % 8 = 0
  else if op = 0x2E then onlyBits w [fFunc, fD, fA, fB] && func ≤ 3 && iD w < 8 && iA w < 8 && iB w < 8
  else if op = 0x2F then onlyBits w [fD, fA] && iD w < 8
  else if op = 0x30 ∨ op = 0x31 ∨ op = 0x32 then
    onlyBits w [fD, fA, fB, fFmt, fRm, fSat, fMask] && maskOk w && fmtVector f && rmOk w (fmtInt f)
  else if op = 0x33 then
    onlyBits w [fD, fA, fB, fC, fFmt, fRm, fSat, fMask] && maskOk w && fmtVector f && rmOk w (fmtInt f)
  else if op = 0x34 ∨ op = 0x35 then onlyBits w [fD, fA, fB, fFmt, fMask] && maskOk w && fmtVector f
  else if op = 0x36 ∨ op = 0x37 ∨ op = 0x38 then onlyBits w [fD, fA, fB, fMask] && maskOk w
  else if op = 0x39 then
    onlyBits w [fFunc, fD, fA, fB, fFmt, fMask] && maskOk w && fmtVector f && func ≤ 3 && iD w < 8
  else if op = 0x3A then onlyBits w [fD, fA, fB, fFmt, fMask] && fmtVector f && iMen w
  else if op = 0x3B ∨ op = 0x3C then onlyBits w [fD, fA, fFmt, fMask] && maskOk w && fmtVector f
  else if op = 0x3D then onlyBits w [fD, fA, fMask, (1, 0)] && maskOk w && iA w < 8
  else if op = 0x3E then onlyBits w [fD, fA, fMask, (1, 0)] && maskOk w && iD w < 8
  else if op = 0x3F then onlyBits w [fD] && iD w < 8
  else if op = 0x40 then
    onlyBits w [(49, 48), fD, fA, fB, fC, fFmt, fImm] && iD w < 8 && iA w < 8 && fmtListed f
  else if op = 0x48 then onlyBits w [fFunc, fD, fA, fMask] && maskOk w && func ≤ 4
  else if op = 0x50 then legalVcvt w
  else if op = 0x51 then legalVqnt w
  else if op = 0x52 then legalVdq w
  else if op = 0x58 then
    onlyBits w [(51, 48), fD, fA, fFmt, fMask] && maskOk w && func % 8 ≤ 3
      && (if bit func 3 then iA w < 8 && f = 0 else fmtReduce f)
  else if op = 0x59 then
    onlyBits w [fFunc0, (51, 51), fD, fA, fB, fMask, (5, 0)] && maskOk w && iD w ≤ 30
      && (if bit func 3 then iA w < 8 else true)
  else if op = 0x60 then
    onlyBits w [fFunc0, fD, fA, fB, fC, fFmt, fRm, fSat] && fmtReduce f
      && (if func = 1 then iC w < 8 && rmOk w (fmtInt f) else iRm w = 0 && !iSat w)
  else if op = 0x68 then onlyBits w [(1, 0)]
  else if op = 0x6C then onlyBits w [fImm32]
  else if op = 0x70 then onlyBits w [fD, fImm32] && iImm32 w ≤ 8
  else if op = 0x71 then onlyBits w [(3, 0)]
  else if op = 0x72 then onlyBits w [fD, fA, fB]
  else if op = 0x73 then onlyBits w [fFunc0, fD, fC]
  else if op = 0x74 then onlyBits w [fA]
  else if op = 0x75 then onlyBits w [fD, fA]
  else if op = 0x77 ∨ op = 0x7E then onlyBits w []
  else false

/-- The selector that tells the operations of one opcode apart: FUNC of VCMP, MOP and SFN, T of MFS, FUNC[2:0] of VRED,
IMM32 of SYSR. -/
def selector (w : Nat) : Nat :=
  let op := iOp w
  if op = 0x39 ∨ op = 0x2E ∨ op = 0x48 then iFunc w
  else if op = 0x40 then iFunc w % 2
  else if op = 0x58 then iFunc w % 8
  else if op = 0x70 then iImm32 w
  else 0

/-- The operation that a word spells: its opcode and selector; none for an illegal word. -/
def wordOp (w : Nat) : Option (Nat × Nat) := if legalWord w then some (iOp w, selector w) else none

end Sys2Proof.Machine
end

