-- ==== Sys2Proof/Machine/Flags.lean ====
section
/-!
DEFINITION. Element arithmetic of reels and composites with the flags it raises (12 R277 to R283, R292, 14 R329 to R337).
-/

namespace Sys2Proof.Machine

/-! ### Elements of registers and arrays (R275, R317) -/

/-- Element `i` of `bits` bits of a bit string held as a number. -/
def elemOf (bits x i : Nat) : Nat := x / 2 ^ (bits * i) % 2 ^ bits

/-- The first `n` elements. -/
def elemsOf (bits n x : Nat) : List Nat := (List.range n).map (elemOf bits x)

/-- Pack elements, the first lowest. -/
def packElems (bits : Nat) : List Nat → Nat
  | [] => 0
  | a :: t => a % 2 ^ bits + 2 ^ bits * packElems bits t

/-- Every flag that any element raised. -/
def orFlags (l : List Flags) : Flags := l.foldl (· ||| ·) 0

/-- Flags of `a` and `b` together. -/
def withFlag (r : Nat × Flags) (f : Flags) (c : Bool) : Nat × Flags := if c then (r.1, r.2 ||| f) else r

/-! ### One rounding into a format (R278 to R280, R330) -/

/-- Convert an exact value into an unscaled format: `r` are its stochastic bits. -/
def roundFmt (f rm r : Nat) (sat : Bool) (x : Num) : Nat × Flags :=
  match fmtFloat f with
  | some g => g.round rm r sat x
  | none => roundInt (fmtBits f) none rm r x

/-- A result of arithmetic on `ops`: a NaN that no operand brought raises INVALID (R283). -/
def roundResult (f rm r : Nat) (sat : Bool) (ops : List Num) (x : Num) : Nat × Flags :=
  withFlag (roundFmt f rm r sat x) fInvalid (x.isNan && !ops.any Num.isNan)

/-- An integer result: exact, then wrapped, or saturated under SAT with SATURATED (R330). -/
def wrapInt (bits : Nat) (sat : Bool) (x : Int) : Nat × Flags :=
  let hi : Int := 2 ^ (bits - 1) - 1
  if sat && (hi < x || x < -hi - 1) then (ofSigned bits (if hi < x then hi else -hi - 1), fSaturated)
  else (ofSigned bits x, 0)

/-- Elementwise arithmetic on codes of format `f`: the exact real result for floats, the exact integer one for integers. -/
def vecArith (f rm r : Nat) (sat : Bool) (codes : List Nat) (fl : List Num → Num) (int : List Int → Int) : Nat × Flags :=
  if fmtInt f then wrapInt (fmtBits f) sat (int (codes.map (toSigned (fmtBits f))))
  else
    let ops := codes.map (fmtValue f)
    roundResult f rm r sat ops (fl ops)

/-- The order of MIN, MAX, ARGMAX and top-k: by value, with -0 below +0 (R292, R329, R337). -/
def codeLt (f a b : Nat) : Bool :=
  let x := fmtValue f a
  let y := fmtValue f b
  x.lt y || (x.eqv y && x.isNeg && !y.isNeg)

/-- The canonical NaN of a format (R278); 0 for formats with none. -/
def nanOf (f : Nat) : Nat := match fmtFloat f with | some g => g.nanCode | none => 0

/-- The lesser, or greater, of two codes: a NaN loses, and two NaNs give the canonical one. -/
def pick2 (f : Nat) (greater : Bool) (a b : Nat) : Nat :=
  let x := fmtValue f a
  let y := fmtValue f b
  if x.isNan && y.isNan then nanOf f else if x.isNan then b else if y.isNan then a
  else if greater then (if codeLt f a b then b else a) else (if codeLt f b a then b else a)

/-- VCMP's comparisons: 0 EQ, 1 NE, 2 LT, 3 LE; NaN is false except in NE. -/
def compareCodes (f sel a b : Nat) : Bool :=
  let x := fmtValue f a
  let y := fmtValue f b
  if sel = 0 then x.eqv y else if sel = 1 then !x.eqv y else if sel = 2 then x.lt y else x.lt y || x.eqv y

/-! ### Scaled formats (R277, R281, R282) -/

/-- Dequantise one element with its scale to binary32. -/
def dequant (f code scale : Nat) (sat : Bool) : Nat × Flags :=
  let a := fmtValue f code
  let b := scaleValue f scale
  roundResult 0 0 0 sat [a, b] (a.mul b)

/-- The magnitude of a finite value as a fraction; `none` for NaN and infinities. -/
def magnitude : Num → Option (Nat × Nat)
  | .fin _ n d => some (n, d)
  | _ => none

/-- The greater of two fractions. -/
def maxFrac (a b : Nat × Nat) : Nat × Nat := if a.1 * b.2 < b.1 * a.2 then b else a

/-- The largest magnitude of a block; `none` if a value is NaN or infinite. -/
def blockMax (l : List Num) : Option (Nat × Nat) :=
  l.foldl (fun m x => match m, magnitude x with | some a, some b => some (maxFrac a b) | _, _ => none) (some (0, 1))

/-- emax of R281. -/
def mxEmax (f : Nat) : Int := [8, 15, 4, 2, 2, 0].getD (f - 5) 0

/-- Multiply by 2^e. -/
def Num.scale2 (x : Num) (e : Int) : Num :=
  match x with
  | .fin s n d => if 0 ≤ e then .fin s (n * 2 ^ e.toNat) d else .fin s n (d * 2 ^ (-e).toNat)
  | y => y

/-- Round a scaled value into an MX element, always saturated (R281 step 4). -/
def mxElem (f rm r : Nat) (x : Num) : Nat × Flags :=
  if f = 0xA then roundInt 8 none rm r (x.scale2 6) else roundFmt f rm r true x

/-- MX quantisation of one block (R281): scale byte, elements with their flags; `bits i` are element `i`'s stochastic bits. -/
def mxQuantise (f rm : Nat) (bits : Nat → Nat) (l : List Num) : Nat × List (Nat × Flags) :=
  match blockMax l with
  | none => (255, l.map (fun _ => (0, 0)))
  | some (n, d) =>
    if n = 0 then (0, l.map (fun _ => (0, 0)))
    else
      let x := floorLog2 n d - mxEmax f
      let x := if x < -127 then -127 else if 127 < x then 127 else x
      ((x + 127).toNat, l.zipIdx.map (fun q => mxElem f rm (bits q.2) (q.1.scale2 (-x))))

/-- Grouped-integer quantisation of one group (R282): binary16 scale, elements with their flags. A quotient by a scale
whose exact value a/q is too small for binary16 cannot arise, since the scale rounds toward +infinity. -/
def groupQuantise (f rm : Nat) (bits : Nat → Nat) (l : List Num) : Nat × List (Nat × Flags) :=
  let q := if fmtBits f = 8 then 127 else 7
  match blockMax l with
  | none => (0x7E00, l.map (fun _ => (0, fInvalid)))
  | some (n, d) =>
    if n = 0 then (0, l.map (fun _ => (0, 0)))
    else
      let s := (fmt16.round 3 0 true (.fin false n (d * q))).1
      (s, l.zipIdx.map (fun z => roundInt (fmtBits f) (some q) rm (bits z.2) (z.1.divFin (fmt16.decode s))))

/-- Quantise one block or group of format `f`. -/
def quantise (f rm : Nat) (bits : Nat → Nat) (l : List Num) : Nat × List (Nat × Flags) :=
  if fmtMx f then mxQuantise f rm bits l else groupQuantise f rm bits l

/-! ### Exact sums (R292, R336, R354) -/

/-- An exact sum of floating values: whether a NaN, +infinity or -infinity was met, whether a value other than -0 was, and
the sum of the finite values in units of 2^-149. -/
structure ExactSum where
  /-- A NaN was added. -/
  nan : Bool := false
  /-- +infinity was added. -/
  pinf : Bool := false
  /-- -infinity was added. -/
  ninf : Bool := false
  /-- A value other than -0 was added. -/
  nonneg : Bool := false
  /-- The sum in units of 2^-149. -/
  a : Int := 0
deriving DecidableEq, Repr

/-- A finite value as a multiple of 2^-149: every composite format converts so exactly (R354). -/
def units149 (neg : Bool) (n d : Nat) : Int := signedN neg (n * 2 ^ 149 / d)

/-- Add a value (R354). -/
def ExactSum.add (e : ExactSum) (x : Num) : ExactSum :=
  match x with
  | .nan => { e with nan := true }
  | .inf s => if s then { e with ninf := true } else { e with pinf := true }
  | .fin s n d => { e with a := e.a + units149 s n d, nonneg := e.nonneg || !(s && n = 0) }

/-- The sum as an exact number (R355). -/
def ExactSum.value (e : ExactSum) : Num :=
  if e.nan || (e.pinf && e.ninf) then .nan
  else if e.pinf then .inf false
  else if e.ninf then .inf true
  else if e.a = 0 then .fin (!e.nonneg) 0 1
  else .fin (e.a < 0) e.a.natAbs (2 ^ 149)

/-- Saturate to INT64: value and whether it saturated. -/
def satInt64 (x : Int) : Nat × Bool :=
  if (2 : Int) ^ 63 ≤ x then (2 ^ 63 - 1, true) else if x < -(2 : Int) ^ 63 then (2 ^ 63, true) else (ofSigned 64 x, false)

/-- The chosen element of a MIN, MAX or ARGMAX over (index, code) pairs that are not NaN: the lowest index among equals. -/
def choose (f : Nat) (greater : Bool) (l : List (Nat × Nat)) : Option (Nat × Nat) :=
  l.foldl (fun b e =>
    if (fmtValue f e.2).isNan then b
    else match b with
      | none => some e
      | some c => if (if greater then codeLt f c.2 e.2 else codeLt f e.2 c.2) then some e else b) none

/-! ### Special functions (R273) -/

/-- The least `k` with `k * k ≥ n` minus one, found from above by Newton's iteration with fuel. -/
def isqrtFrom : Nat → Nat → Nat → Nat
  | 0, _, x => x
  | k + 1, n, x => let y := (x + n / x) / 2; if y < x then isqrtFrom k n y else x

/-- Integer square root. -/
def isqrt (n : Nat) : Nat := if n = 0 then 0 else isqrtFrom (Nat.log2 n + 2) n (2 ^ (Nat.log2 n / 2 + 1))

/-- Reciprocal square root of n/d, as a fraction with 96 bits more than its leading one. -/
def rsqrtFrac (n d : Nat) : Num :=
  let k := Nat.log2 n + 128
  -- sqrt(d/n) = isqrt(d * 2^(2k) / n) / 2^k
  .fin false (isqrt (d * 2 ^ (2 * k) / n)) (2 ^ k)

/-- 2^(2^-i) in units of 2^-256, for i = 0, 1, ... -/
def rootsOfTwo : Nat → Nat → List Nat
  | 0, _ => []
  | k + 1, x => x :: rootsOfTwo k (isqrt (x * 2 ^ 256))

/-- 2^f in units of 2^-256 for the fraction f = m / 2^200 below 1. -/
def exp2Frac (m : Nat) : Nat :=
  ((rootsOfTwo 201 (2 ^ 257)).zipIdx.foldl (fun a q => if q.2 ≠ 0 && bit m (200 - q.2) then a * q.1 / 2 ^ 256 else a) (2 ^ 256))

/-- 2^x, to about 190 bits. -/
def exp2Approx (neg : Bool) (n d : Nat) : Num :=
  let z : Int := (signedN neg (n * 2 ^ 200)) / (d : Int)
  let i : Int := z / 2 ^ 200
  (Num.fin false (exp2Frac (z % 2 ^ 200).toNat) (2 ^ 256)).scale2 i

/-- The fraction bits of log2 of y / 2^256 in [1, 2), by repeated squaring. -/
def log2Bits : Nat → Nat → Nat
  | 0, _ => 0
  | k + 1, y =>
    let z := y * y / 2 ^ 256
    if 2 ^ 257 ≤ z then 2 ^ k + log2Bits k (z / 2) else log2Bits k z

/-- log2 of n/d, to about 190 fraction bits. -/
def log2Approx (n d : Nat) : Num :=
  let e := floorLog2 n d
  let y := if 0 ≤ e then n * 2 ^ 256 / (d * 2 ^ e.toNat) else n * 2 ^ (-e).toNat * 2 ^ 256 / d
  let z : Int := e * 2 ^ 200 + log2Bits 200 y
  .fin (z < 0) z.natAbs (2 ^ 200)

/-- log2(e) in units of 2^-64. -/
def log2e : Nat := 26613026195688644984

/-- tanh of a positive n/d: x itself below 2^-13, one minus a small term, by 2^(2x log2 e), otherwise. -/
def tanhApprox (n d : Nat) : Num :=
  if n * 2 ^ 13 < d then .fin false n d
  else if 16 * d < n then .fin false 1 1
  else
    match exp2Approx false (2 * n * log2e) (d * 2 ^ 64) with
    | .fin _ a b => .fin false (a - b) (a + b)
    | x => x

/-- The result that the part's tables hold for a special function on a binary32 input: a free value among the codes
within one grid step beyond the largest error that R273 states of the value computed here; `x` is the value to within
far less than a step. -/
def sfnNear (fn code steps : Nat) (x : Num) : Nat :=
  match fmt32.round 1 0 false x with
  | (c, _) =>
    let sign := c / 2 ^ 31 * 2 ^ 31
    let m := c % 2 ^ 31
    let k := Config.specialFn fn code % (2 * steps + 2)
    let lo := m - steps
    sign + min (lo + k) 0x7F800000

/-- A special function on one binary32 code (R273): the special cases, else a table result. -/
def specialFn (fn code : Nat) : Nat × Flags :=
  let x := fmt32.decode code
  let nan := 0x7FC00000
  let res : Num × Bool × Nat :=
    match x with
    | .nan => (.nan, true, 0)
    | .inf s =>
      if fn = 0 then (if s then .fin false 0 1 else .inf false, true, 0)
      else if fn = 1 then (if s then .nan else .inf false, true, 0)
      else if fn = 2 then (.fin s 0 1, true, 0)
      else if fn = 3 then (if s then .nan else .fin false 0 1, true, 0)
      else (.fin s 1 1, true, 0)
    | .fin s n d =>
      if fn = 0 then
        (if !s && 128 * d ≤ n then (.inf false, true, 0)
         else if s && 150 * d < n then (.fin false 0 1, true, 0)
         else (exp2Approx s n d, false, 1))
      else if fn = 1 then
        (if n = 0 then (.inf true, true, 0) else if s then (.nan, true, 0) else (log2Approx n d, false, 1))
      else if fn = 2 then (if n = 0 then (.inf s, true, 0) else (.fin s d n, false, 1))
      else if fn = 3 then
        (if n = 0 then (.inf s, true, 0) else if s then (.nan, true, 0) else (rsqrtFrac n d, false, 1))
      else (if n = 0 then (.fin s 0 1, true, 0)
        else match tanhApprox n d with | .fin _ a b => (.fin s a b, false, 2) | y => (y, false, 2))
  match res with
  | (.nan, true, _) => (nan, if x.isNan then 0 else fInvalid)
  | (y, true, _) =>
    -- an infinity or zero that a special case gives for a finite input is a finite exact result rounded (R283)
    let excess : Bool := match x, y with | .fin _ n _, .inf _ => decide (fn = 0) && n ≠ 0 | _, _ => false
    let under : Bool := match x, y with | .fin _ n _, .fin _ 0 _ => decide (fn = 0) && n ≠ 0 | _, _ => false
    ((fmt32.round 0 0 false y).1, (if excess then fOverflow else 0) + (if under then fUnderflow else 0))
  | (y, false, steps) =>
    let c := sfnNear fn code steps y
    (c, if c % 2 ^ 31 = 0x7F800000 then fOverflow
        else if c % 2 ^ 31 < 2 ^ 23 then (match fmt32.decode c, y with
          | .fin s n d, .fin t a b => if signedN s n * b = signedN t a * d then 0 else fUnderflow
          | _, _ => fUnderflow)
        else 0)

end Sys2Proof.Machine
end

