-- ==== Sys2Proof/Machine/Mover.lean ====
section
/-!
DEFINITION. The mover (ch. 11): rings, descriptors, translation, chunks and bursts, invalidation, faults, completion,
halts, and the ends that takes and resets bring.
-/

namespace Sys2Proof.Machine

/-! ### Accesses to pool memory by the part's own agents (R106, R142, R163, R148) -/

/-- What an agent's access to a range of one granule meets. -/
inductive AgentCheck where
  /-- The extent is being erased, or cached copies are being recalled: the access waits. -/
  | wait
  /-- Refused with a status. -/
  | fail (st : Nat)
  /-- Entry `e` maps it. -/
  | ok (e : Nat)
deriving DecidableEq, Repr

/-- Check an agent's access under `handle`; recalls that it needs are begun (R163, log entry 15). -/
def State.agentCheck (s : State) (handle va len : Nat) (wr : Bool) : AgentCheck × State :=
  let p := handlePart handle
  match s.mapped p va with
  | none => (.fail Code.notMapped, s)
  | some e =>
    if (Tab.find s.erasing (eDxn e)).isSome ∨ s.halts va then (.wait, s)
    else if wr && s.readOnlyExt p (vaIndex va) e then (.fail Code.readOnly, s)
    else if !s.tagOk e va handle then (.fail Code.notMapped, s.tagRefusal e va handle 0)
    else
      let r := s.recallFor e va len wr
      if r.1 then (.ok e, r.2) else (.wait, r.2)

/-- Read the lines of a range for an agent. -/
def State.agentLines (s : State) (e va len handle : Nat) : List LineGot × State :=
  (linesOf va len).foldl (fun r a =>
    let x := r.2.readFinal e a handle []
    (r.1 ++ [x.1], x.2)) ([], s)

/-- Bytes of [va, va+len) before the first bad line, and whether a line was bad. -/
def goodPrefix (va len : Nat) (l : List LineGot) : Nat × Bool :=
  match l.findIdx? (fun g => match g with | .bad _ => true | .data _ => false) with
  | none => (len, false)
  | some i => (if i = 0 then 0 else (va / 128 + i) * 128 - va, true)

/-! ### Rings (R247, R250, R268) -/

/-- Descriptor of ring `r` of partition `p`. -/
def State.ringDesc (s : State) (p r : Nat) : Nat := s.rd (K.rings p r)
/-- VALID. -/
def rgValid (d : Nat) : Bool := bit d 127
/-- SLOT. -/
def rgSlot (d : Nat) : Nat := fld d 126 122
/-- ENGINE. -/
def rgEngine (d : Nat) : Nat := fld d 121 120
/-- LOG2_SIZE. -/
def rgLog (d : Nat) : Nat := fld d 119 115
/-- NOTIFY_VALID. -/
def rgNotify (d : Nat) : Bool := bit d 114
/-- NOTIFY_PORT. -/
def rgNPort (d : Nat) : Nat := fld d 113 108
/-- NOTIFY_EID. -/
def rgNEid (d : Nat) : Nat := fld d 107 92
/-- Pool address of the ring. -/
def rgBase (d : Nat) : Nat := fld d 91 56 * 4096

/-- Agent entry: PORT. -/
def agPort (a : Nat) : Nat := fld a 56 51
/-- ENDPOINT_EID. -/
def agEnd (a : Nat) : Nat := fld a 50 35
/-- AGENT_EID. -/
def agEid (a : Nat) : Nat := fld a 34 19

/-- Control state of a ring. -/
def State.ring (s : State) (p r : Nat) : Ring := Tab.getD s.mover.rings (p * 16 + r) {}
/-- Replace it. -/
def State.setRing (s : State) (p r : Nat) (v : Ring) : State :=
  { s with mover := { s.mover with rings := Tab.set s.mover.rings (p * 16 + r) v } }
/-- Task by number. -/
def State.task (s : State) (id : Nat) : Option MTask := s.mover.tasks.find? (fun t => t.id = id)
/-- Replace a task. -/
def State.setTask (s : State) (t : MTask) : State :=
  { s with mover := { s.mover with tasks := s.mover.tasks.map (fun x => if x.id = t.id then t else x) } }
/-- Active tasks of a ring. -/
def State.ringTasks (s : State) (p r : Nat) : List MTask :=
  s.mover.tasks.filter (fun t => t.part = p && t.ring = r && !t.detached)

/-- Count an event of the mover of slot `slot` (R267). -/
def State.moverCount (s : State) (slot i n : Nat) : State := s.count (K.moverCounts (s.tileAt slot) i) n

/-- RING_STATE of a ring (R268). -/
def State.ringState (s : State) (p r : Nat) : Nat :=
  let g := s.ring p r
  g.inc * 2 ^ 170 + g.state * 2 ^ 168 + (s.ringTasks p r).length * 2 ^ 165 + g.haltStatus * 2 ^ 144 + g.tail * 2 ^ 96
    + g.fetched * 2 ^ 64 + g.completed * 2 ^ 32 + g.haltIndex

/-- `a - b` as free-running 32-bit counts. -/
def ahead32 (a b : Nat) : Nat := (a + 2 ^ 32 - b % 2 ^ 32) % 2 ^ 32

/-- A ring doorbell with VALUE `v` (R250): the status it is answered with. -/
def State.ringBell (s : State) (p r v : Nat) : Nat × State :=
  let d := s.ringDesc p r
  let g := s.ring p r
  let tail := v % 2 ^ 32
  if !rgValid d || fld v 63 42 ≠ g.inc then (Code.noSuchObject, s)
  else if 2 ^ 31 ≤ ahead32 tail g.tail ∨ 2 ^ rgLog d < ahead32 tail g.completed then (Code.badRequest, s)
  else (Code.ok, s.setRing p r { g with tail := tail })

/-- A write of a ring's restart register (R264): none when it is accepted, else the status recorded. -/
def State.ringRestart (s : State) (p r v : Nat) : Option Nat × State :=
  let g := s.ring p r
  let f := v % 2 ^ 32
  if !rgValid (s.ringDesc p r) || fld v 63 42 ≠ g.inc then (some Code.noSuchObject, s)
  else if ahead32 g.tail g.fetched < ahead32 f g.fetched then (some Code.badRequest, s)
  else if g.state ≠ 3 then (some Code.busy, s)
  else (none, s.setRing p r { g with state := 1, fetched := f, completed := f, recorded := [], haltStatus := 0, haltIndex := 0 })

/-! ### Descriptor fields (R251) -/

/-- OPCODE. -/
def MTask.op (t : MTask) : Nat := leAt t.desc 0 1
/-- FLAGS. -/
def MTask.flags (t : MTask) : Nat := leAt t.desc 1 1
/-- CONTEXT. -/
def MTask.ctx (t : MTask) : Nat := leAt t.desc 4 4
/-- POOL_VA. -/
def MTask.poolVa (t : MTask) : Nat := leAt t.desc 8 8
/-- REMOTE_VA. -/
def MTask.remoteVa (t : MTask) : Nat := leAt t.desc 16 8
/-- LENGTH. -/
def MTask.length (t : MTask) : Nat := leAt t.desc 24 4
/-- The transfer is a PUSH. -/
def MTask.push (t : MTask) : Bool := t.op = 1
/-- ACCESS of its translation requests (R254). -/
def MTask.access (t : MTask) : Nat := if t.push then 2 else 1
/-- 64 KiB pages spanned. -/
def MTask.pageCount (t : MTask) : Nat :=
  if t.length = 0 then 0 else (t.remoteVa + t.length - 1) / 65536 + 1 - t.remoteVa / 65536
/-- Page that holds byte `pos` of the transfer. -/
def MTask.pageAt (t : MTask) (pos : Nat) : Nat := (t.remoteVa + pos) / 65536 - t.remoteVa / 65536
/-- Slab entry of page `i`. -/
def MTask.entry (t : MTask) (i : Nat) : Nat := Tab.getD t.pages i 0
/-- Page `i` is VALID. -/
def MTask.valid (t : MTask) (i : Nat) : Bool := bit (t.entry i) 15
/-- Page `i` is PENDING. -/
def MTask.pendingPage (t : MTask) (i : Nat) : Bool := bit (t.entry i) 14
/-- A burst is outstanding. -/
def MBurst.out (b : MBurst) : Bool := b.res.isNone
/-- Bytes of the task in flight. -/
def MTask.inFlight (t : MTask) : Nat := ((t.bursts.filter (·.out)).map (·.len)).sum

/-- The checks of R252 on a fetched descriptor: the failing status, or none. -/
def State.descFault (s : State) (p : Nat) (d : List Byte) : Option Nat :=
  let op := leAt d 0 1
  let len := leAt d 24 4
  let a := s.rd (K.agents (leAt d 2 2))
  let bell := bit (leAt d 1 1) 5
  if 2 < op ∨ leAt d 1 1 % 32 ≠ 0 ∨ leAt d 36 4 ≠ 0 then some Code.badDescriptor
  else if op ≠ 0 ∧ (len = 0 ∨ 0x4000000 < len ∨ 2 ^ 48 < leAt d 8 8 + len ∨ 2 ^ 64 < leAt d 16 8 + len) then
    some Code.badDescriptor
  else if 1024 ≤ leAt d 2 2 ∨ !agValid a ∨ agPart a ≠ p then some Code.badDescriptor
  else if bell ∧ leAt d 32 2 = 0xFFFF then some Code.badDescriptor
  else if op = 1 ∧ !bit a 18 then some Code.noAccess
  else if op = 2 ∧ !bit a 17 then some Code.noAccess
  else none

/-! ### Translation (R254) -/

/-- The runs of consecutive pages in a rising list, cut to at most 512: (first, count). -/
def pageRuns : List Nat → List (Nat × Nat)
  | [] => []
  | i :: t =>
    match pageRuns t with
    | (j, n) :: r => if j = i + 1 ∧ n < 512 then (i, n + 1) :: r else (i, 1) :: (j, n) :: r
    | [] => [(i, 1)]

/-- Consecutive pages cut from the front into messages of at most 512. -/
def pageChunks (i n : Nat) : List (Nat × Nat) :=
  (List.range (ceilDiv n 512)).map (fun k => (i + 512 * k, min 512 (n - 512 * k)))

/-- Send TRANSLATE_REQ for the listed pages, which become PENDING (R254). -/
def State.translate (s : State) (t : MTask) (l : List (Nat × Nat)) : State :=
  l.foldl (fun s x =>
    match s.task t.id with
    | none => s
    | some t =>
      let pages := (List.range x.2).foldl (fun (g : Tab Nat) k => Tab.set g (x.1 + k) (2 ^ 14)) t.pages
      let va := t.remoteVa / 65536 * 65536 + x.1 * 65536
      ((s.setTask { t with pages := pages }).originate (agPort t.agent) (agEid t.agent) 0x50 t.handle
        (toLE 4 t.ctx ++ toLE 2 x.2 ++ toLE 1 t.access ++ toLE 1 0 ++ toLE 8 va) (.translate t.id)).moverCount t.slot 3 1) s

/-- Leave the fault table: a task that was parked waits for nothing (R260). -/
def State.unpark (s : State) (id : Nat) : State :=
  { s with mover := { s.mover with
      tableWait := s.mover.tableWait.filter (· ≠ id)
      faults := s.mover.faults.map (fun f => { f with waiters := f.waiters.filter (· ≠ id) }) } }

/-- A task stops issuing and will complete with a status, once its issued bursts have finished. The first one stands. -/
def State.endTask (s : State) (id st : Nat) : State :=
  match s.task id with
  | none => s
  | some t =>
    if t.final.isSome then s
    else (s.setTask { t with final := some st, state := 5, fault := none }).unpark id

/-- The free fault-table entry of a slot's tile. -/
def State.freeFault (s : State) (slot : Nat) : Option Nat :=
  (List.range 256).find? (fun n => !(s.mover.faults.any (fun f => f.slot = slot && f.n = n)))

/-- FAULT_PEAK follows the occupancy of the table (R267). -/
def State.faultPeak (s : State) (slot : Nat) : State :=
  let n := (s.mover.faults.filter (fun f => f.slot = slot)).length
  let k := K.faultPeak (s.tileAt slot)
  if s.rd k < n then s.wr k n else s

/-- A task faults on page `i` (R260, R261). -/
def State.pageFault (s : State) (t : MTask) (i : Nat) : State :=
  let page := t.remoteVa / 65536 + i
  if s.eff K.faultRetries < t.tries then s.endTask t.id Code.pageFault
  else
    match s.mover.faults.find? (fun f => f.slot = t.slot ∧ f.eid = agEid t.agent ∧ f.port = agPort t.agent ∧ f.ctx = t.ctx
        ∧ f.page = page ∧ (f.access = t.access ∨ f.access = 2)) with
    | some f =>
      let s := { s with mover := { s.mover with
        faults := s.mover.faults.map (fun (g : FaultEnt) =>
          if g.slot = f.slot ∧ g.n = f.n then { g with waiters := g.waiters ++ [t.id] } else g) } }
      (s.setTask { t with state := 4, fault := some f.n, tries := t.tries + 1 }).moverCount t.slot 6 1
    | none =>
      match s.freeFault t.slot with
      | none =>
        ({ s with mover := { s.mover with tableWait := s.mover.tableWait ++ [t.id] } } : State).setTask { t with state := 4 }
      | some n =>
        let f : FaultEnt := ⟨t.slot, n, agEid t.agent, agPort t.agent, t.ctx, page, t.access, [t.id]⟩
        let s := ({ s with mover := { s.mover with faults := s.mover.faults ++ [f] } } : State).faultPeak t.slot
        let s := s.setTask { t with state := 4, fault := some n, tries := t.tries + 1 }
        (s.originate f.port f.eid 0x52 t.handle (toLE 4 t.ctx ++ toLE 1 t.access ++ toLE 3 0 ++ toLE 8 (page * 65536))
          (.page (t.slot * 256 + n))).moverCount t.slot 5 1

/-- A scheduled task that needs an untranslated page: it faults if the page was reported absent, else it asks for it and for
the untranslated pages after it (R258, R260). -/
def State.needPage (s : State) (t : MTask) : State :=
  let i := t.pageAt t.bytesIssued
  if t.final.isSome ∨ t.state = 4 ∨ t.bytesIssued = t.length ∨ t.valid i ∨ t.pendingPage i then s
  else if t.absent = some i then s.pageFault t i
  else
    let run := ((List.range (t.pageCount - i)).takeWhile (fun k => !t.valid (i + k) && !t.pendingPage (i + k))).length
    (s.setTask { t with state := 1 }).translate t (pageChunks i run)

/-! ### Descriptor fetch (R253) -/

/-- The slab that a new task of a ring takes. -/
def State.freeSlab (s : State) (p r : Nat) : Option Nat :=
  (List.range 4).find? (fun k => !(s.mover.tasks.any (fun t => t.part = p && t.ring = r && t.slab = k)))

/-- The 64 bytes of the descriptor at `va` with the status of their read; none where the read waits. -/
def State.readDesc (s : State) (p h va : Nat) : Option (Nat × List Byte) × State :=
  let c := s.agentCheck h va 64 false
  match c.1 with
  | .wait => (none, c.2)
  | .fail st => (some (st, List.replicate 64 0#8), c.2)
  | .ok e =>
    let l := c.2.agentLines e va 64 h
    if lineErr l.1 = 0 then (some (0, slice (lineBytes l.1) (va % 128) 64), l.2)
    else (some (Code.dataError, List.replicate 64 0#8), l.2.noteFault p)

/-- DESCRIPTOR_FETCH: ring `r` of partition `p` fetches its next descriptor, outside the slate guard (02 R31), checks it, and asks for
its translations. -/
def execDescriptorFetch (p r : Nat) (s : State) : Out :=
  let d := s.ringDesc p r
  let g := s.ring p r
  .next (
    match s.freeSlab p r with
    | none => s
    | some slab =>
      if s.fl.inGuard || !rgValid d || g.state ≠ 1 || g.fetched = g.tail || !s.active p then s
      else
        let h := s.handleOf p
        let va := rgBase d + 64 * (g.fetched % 2 ^ rgLog d)
        match s.readDesc p h va with
        | (none, s) => s
        | (some (st, b), s) =>
          if bit (leAt b 1 1) 7 ∧ g.completed ≠ g.fetched then s
          else
            let bad := if st ≠ 0 then some st else s.descFault p b
            let t : MTask := {
              id := s.mover.nextId, part := p, ring := r, slot := rgSlot d, engine := rgEngine d, slab := slab,
              count := g.fetched, handle := h, addr := va, desc := b, agent := s.rd (K.agents (leAt b 2 2)), detached := false,
              state := 1, tries := 0, fault := none, absent := none, pages := [], bytesDone := 0, bytesIssued := 0, bursts := [],
              final := bad, written := false }
            let t := if bad.isSome then { t with state := 5 }
              else if t.op = 0 then { t with state := 5, final := some Code.ok } else t
            let s := ({ s with mover := { s.mover with tasks := s.mover.tasks ++ [t], nextId := s.mover.nextId + 1 } } : State).setRing
              p r { g with fetched := (g.fetched + 1) % 2 ^ 32 }
            if t.final.isSome then s else s.translate t (pageChunks 0 t.pageCount))

/-! ### Answers to translation and page requests (R254, R259, R260) -/

/-- PA of the 64 KiB page at address `v`, from the entries of an answer whose first page holds `base` (R254, R103). -/
def translated (b : List Byte) (base v : Nat) : Option (Nat × Bool) :=
  let n := leAt b 0 2
  if leAt b 2 1 = 1 then
    let j := v / 2 ^ 21 - base / 2 ^ 21
    if j < n then some (leAt b (8 + 8 * j) 8 / 2 ^ 21 * 2 ^ 21 + v % 2 ^ 21, true) else none
  else
    let j := v / 65536 - base / 65536
    if j < n then some (leAt b (8 + 8 * j) 8, false) else none

/-- The lower of the pages that two answers reported absent. -/
def lowestAbsent : Option Nat → Option Nat → Option Nat
  | some a, some b => some (min a b)
  | some a, none => some a
  | none, b => b

/-- TRANSLATE_RESP for an outstanding request: entries are filled, tainted ones discarded and asked for again. -/
def State.translateDone (s : State) (x : PartReq) (id st : Nat) (b : List Byte) : State :=
  let s := s.settle x
  match s.task id with
  | none => s
  | some t =>
    if st ≠ Code.ok ∧ st ≠ Code.notPresent then s.endTask id Code.remoteError
    else
      let n := leAt x.msg.body 4 2
      let va := leAt x.msg.body 8 8
      let first := va / 65536 - t.remoteVa / 65536
      let mine := (List.range n).map (· + first)
      let taint := mine.filter (fun i => bit (t.entry i) 13)
      let pages := mine.foldl (fun (g : Tab Nat) i =>
        if taint.contains i then Tab.set g i 0
        else match translated b va (va + (i - first) * 65536) with
          | some (pa, large) => Tab.set g i (pa / 65536 % 2 ^ 48 * 65536 + 2 ^ 15 + b2n large * 2 ^ 12)
          | none => Tab.set g i 0) t.pages
      let miss := mine.find? (fun i => !taint.contains i && !bit (Tab.getD pages i 0) 15)
      let t := { t with
        pages := pages
        absent := lowestAbsent (if st = Code.notPresent then miss else none) (t.absent.filter (fun i => !mine.contains i))
        state := (if t.state = 1 then 2 else t.state)
        tries := (if bit (Tab.getD pages (t.pageAt t.bytesIssued) 0) 15 then 0 else t.tries) }
      let s := (s.setTask t).moverCount t.slot 4 taint.length
      if t.final.isSome then s
      else
        let s := s.translate t (pageRuns taint)
        match s.task id with
        | some t =>
          let i := t.pageAt t.bytesIssued
          if t.absent = some i ∧ t.inFlight = 0 then s.needPage t
          else if !t.valid i ∧ !t.pendingPage i ∧ t.absent.isNone ∧ t.bytesIssued < t.length ∧ st = Code.ok then s.needPage t
          else s
        | none => s

/-- The tasks that wait for a fault-table entry try again, in order (R260 step 3). -/
def State.retryTable (s : State) (slot : Nat) : State :=
  let l := s.mover.tableWait.filter (fun id => match s.task id with | some t => decide (t.slot = slot) | none => false)
  l.foldl (fun s id =>
    match s.task id with
    | none => s
    | some t =>
      if (s.freeFault slot).isNone then s
      else (({ s with mover := { s.mover with tableWait := s.mover.tableWait.filter (· ≠ id) } } : State)).pageFault
        { t with state := 2 } (t.pageAt t.bytesIssued)) s

/-- The answer to the PAGE_REQ of fault entry `n` of slot `slot`, or its giving up (`st` REMOTE_TIMEOUT) (R260). -/
def State.pageDone (s : State) (slot n st : Nat) : State :=
  match s.mover.faults.find? (fun f => f.slot = slot ∧ f.n = n) with
  | none => s
  | some f =>
    let s := { s with mover := { s.mover with faults := s.mover.faults.filter (fun g => !(g.slot = slot ∧ g.n = n)) } }
    let s := f.waiters.foldl (fun s id =>
      match s.task id with
      | none => s
      | some t =>
        if st = Code.ok then
          let t := { t with state := 1, fault := none, absent := none }
          let i := t.pageAt t.bytesIssued
          (s.setTask t).translate t (pageChunks i (t.pageCount - i))
        else s.endTask id (if st = Code.remoteTimeout then Code.remoteTimeout else Code.pageFault)) s
    s.retryTable slot

/-! ### Chunks and bursts (R255, R256) -/

/-- The bursts of the chunk that begins at byte `pos` of a task: (position, length), cut at pool granules. -/
def burstsFrom : Nat → Nat → Nat → Nat → List (Nat × Nat)
  | 0, _, _, _ => []
  | k + 1, pool, pos, left =>
    if left = 0 then []
    else
      let n := min left (4096 - (pool + pos) % 4096)
      (pos, n) :: burstsFrom k pool (pos + n) (left - n)

/-- Bytes of the chunk that begins at the task's next byte: to the end of its remote page or of the transfer. -/
def MTask.chunk (t : MTask) : Nat :=
  min (65536 - (t.remoteVa + t.bytesIssued) % 65536) (t.length - t.bytesIssued)

/-- The bursts of a task's next chunk. -/
def MTask.chunkBursts (t : MTask) : List (Nat × Nat) := burstsFrom 18 t.poolVa t.bytesIssued t.chunk

/-- Engine cycles of a chunk. -/
def MTask.charge (t : MTask) : Nat := (t.chunkBursts.map (fun x => ceilDiv x.2 64)).sum

/-- Remote physical address of byte `pos`. -/
def MTask.remotePa (t : MTask) (pos : Nat) : Nat :=
  fld (t.entry (t.pageAt pos)) 63 16 * 65536 + (t.remoteVa + pos) % 65536

/-- A task can start its next chunk. -/
def MTask.ready (t : MTask) : Bool :=
  t.final.isNone && t.state ≠ 4 && t.bytesIssued < t.length && t.valid (t.pageAt t.bytesIssued)

/-- Mover budget of partition `p` at slot `slot`. -/
def State.moverBudget (s : State) (slot p : Nat) : Nat := Tab.getD s.mover.budget (slot * 64 + p) 0
/-- Cycles charged to it this frame. -/
def State.moverUsed (s : State) (slot p : Nat) : Nat := Tab.getD s.mover.used (slot * 64 + p) 0

/-- Issue one burst of a task, unless it has stopped: `none` in the status when it was issued. A PUSH burst with a bad line is
cut before it and ends the task with DATA_ERROR. -/
def State.issueBurst (s : State) (id pos n : Nat) : State :=
  match s.task id with
  | none => s
  | some t =>
    if t.final.isSome then s
    else
      let charge := fun (s : State) (k : Nat) =>
        let u := Tab.set s.mover.used (t.slot * 64 + t.part) (s.moverUsed t.slot t.part + ceilDiv k 64)
        { s with mover := { s.mover with used := u } }
      let add := fun (t : MTask) (k : Nat) =>
        { t with bytesIssued := t.bytesIssued + k, state := 3, bursts := t.bursts ++ [⟨pos, k, none, [], false, []⟩] }
      if !t.push then
        ((charge s n).setTask (add t n)).originate (agPort t.agent) (agEnd t.agent) 0x54 t.handle
          (toLE 8 (t.remotePa pos) ++ toLE 2 n ++ toLE 6 0) (.moveRead id pos n)
      else
        let va := t.poolVa + pos
        let c := s.agentCheck t.handle va n false
        match c.1 with
        | .wait => c.2
        | .fail st => c.2.endTask id st
        | .ok e =>
          let l := c.2.agentLines e va n t.handle
          let g := goodPrefix va n l.1
          let s := if g.1 = 0 then l.2
            else ((charge l.2 g.1).setTask (add t g.1)).originate (agPort t.agent) (agEnd t.agent) 0x53 t.handle
              (toLE 8 (t.remotePa pos) ++ toLE 2 g.1 ++ toLE 6 0 ++ slice (lineBytes l.1) (va % 128) g.1) (.moveWrite id pos g.1)
          if g.2 then (s.noteFault t.part).endTask id Code.dataError else s

/-- Turn of a partition at an engine: 1 within its budget, 2 and 3 beyond it by the redistribution of R51. -/
def State.moverTurn (s : State) (t : MTask) : Option Nat :=
  if s.moverUsed t.slot t.part + t.charge ≤ s.moverBudget t.slot t.part then some 1
  else if s.isSealed t.part then none
  else if s.rd (K.moverShares t.part t.slot) ≠ 0 then some 2 else some 3

/-- The first of the numbers after `last`, in rotation below `n`, that satisfies `p`. -/
def rotate (n last : Nat) (p : Nat → Bool) : Option Nat := ((List.range n).map (fun i => (last + 1 + i) % n)).find? p

/-- Engine cycles that a task's chunk lasts: its charge, at the reduced rate of injection while the engine's tile is throttled,
which never holds a sealed partition (05 R131). -/
def State.chunkLasts (s : State) (t : MTask) : Nat :=
  if (s.router (s.tileAt t.slot)).throttled && !s.isSealed t.part then ceilDiv (t.charge * 256) (max (s.eff K.throttleRate) 1) else t.charge

/-- The task whose chunk an engine starts (R256): partitions in rotation, then its rings, then its oldest ready task. -/
def State.moverPick (s : State) (slot engine now : Nat) : Option MTask :=
  let k := slot * 4 + engine
  let owner := s.rd (K.engineOwner k)
  let all := s.mover.tasks.filter (fun t => t.slot = slot && t.engine = engine)
  let flying := (all.map (·.inFlight)).sum
  let l := all.filter (fun t => t.ready && (63 < owner || t.part = owner) && 2 * now + s.chunkLasts t ≤ 2 * s.guardAt
    && s.cont.moving ≠ some slot && flying + t.chunk ≤ 65536 && (s.moverTurn t).isSome && !s.reached slot t.part)
  let turn := (l.filterMap s.moverTurn).min?
  let l := l.filter (fun t => s.moverTurn t = turn)
  match rotate 64 (Tab.getD s.mover.lastPart k 63) (fun p => l.any (fun t => t.part = p)) with
  | none => none
  | some p =>
    match rotate 16 (Tab.getD s.mover.lastRing (k * 64 + p) 15) (fun r => l.any (fun t => t.part = p && t.ring = r)) with
    | none => none
    | some r => l.find? (fun t => t.part = p && t.ring = r)

/-- The commit of burst `pos` fails with a status: it is not tried again, and the task ends. -/
def State.commitFails (s : State) (t : MTask) (pos st : Nat) : State :=
  (s.setTask { t with bursts := t.bursts.map (fun y => if y.pos = pos then { y with res := some st, data := [] } else y) }).endTask
    t.id st

/-- Write a PULL's staged data in burst order, as far as it has come (R255). -/
def State.commitPull (s : State) (id : Nat) : Nat → State
  | 0 => s
  | k + 1 =>
    match s.task id with
    | none => s
    | some t =>
      match t.bursts.find? (fun b => !b.done) with
      | some b =>
        if b.res ≠ some Code.ok ∨ t.bytesDone ≠ b.pos then s
        else
          let va := t.poolVa + b.pos
          let c := s.agentCheck t.handle va b.len true
          match c.1 with
          | .wait => c.2
          | .fail st => c.2.commitFails t b.pos st
          | .ok e =>
            let w := c.2.agentWrite t.part e va b.data t.handle
            if w.1.all (fun x => x) then
              let t := { t with
                bytesDone := b.pos + b.len
                bursts := t.bursts.map (fun y => if y.pos = b.pos then { y with done := true, data := [] } else y) }
              (((w.2.setTask t).moverCount t.slot 1 b.len).meterAdd t.part Mt.mover b.len |>.spend t.slot t.part 12 b.len).commitPull id k
            else
              -- a line that the burst covers in part is bad: nothing of the burst is written (R255)
              let edge := (linesOf va b.len).filter (fun a => a < va ∨ va + b.len < a + 128)
              ((edge.foldl (fun (s : State) a => (s.readFinal e a t.handle []).2) c.2).noteFault t.part).commitFails t b.pos
                Code.dataError
      | none => s

/-- MOVER_CHUNK_START: engine `engine` of slot `slot` schedules its tasks and starts a chunk. -/
def execMoverChunkStart (slot engine t : Nat) (s : State) : Out :=
  let s := s.at t
  let mine := s.mover.tasks.filter (fun x => x.slot = slot && x.engine = engine)
  let s := mine.foldl (fun s x => (s.commitPull x.id 64)) s
  let s := mine.foldl (fun s x => match s.task x.id with | some y => s.needPage y | none => s) s
  .next (
    match s.moverPick slot engine t with
    | none => s
    | some x =>
      let k := slot * 4 + engine
      let s := { s with mover := { s.mover with
        lastPart := Tab.set s.mover.lastPart k x.part
        lastRing := Tab.set s.mover.lastRing (k * 64 + x.part) x.ring } }
      let s := x.chunkBursts.foldl (fun s b =>
        match s.task x.id with
        | some y => if y.bytesIssued = b.1 then s.issueBurst x.id b.1 b.2 else s
        | none => s) s
      match s.task x.id with
      | some y => if x.bytesIssued < y.bytesIssued then s.moverCount slot 2 1 else s
      | none => s)

/-- The longest prefix of bursts whose commits have succeeded. -/
def MTask.prefixDone (t : MTask) : Nat := ((t.bursts.takeWhile (·.done)).map (·.len)).sum

/-- A burst's remote request has ended with a status (R255, R263). -/
def State.burstDone (s : State) (x : PartReq) (id pos st : Nat) (d : List Byte) : State :=
  let s := s.settle x
  match s.task id with
  | none => s
  | some t =>
    let upd := fun (b : MBurst) =>
      if b.pos = pos then { b with res := some st, data := (if t.push then [] else d), done := (t.push && decide (st = Code.ok)) } else b
    let t := { t with bursts := t.bursts.map upd }
    if st ≠ Code.ok then
      let t := if t.push then { t with bytesDone := t.prefixDone } else t
      (s.setTask t).endTask id (if st = Code.remoteTimeout then Code.remoteTimeout else Code.remoteError)
    else if t.push then
      let n := t.prefixDone
      let s := (s.setTask { t with bytesDone := n }).moverCount t.slot 1 (n - t.bytesDone)
      (s.meterAdd t.part Mt.mover (n - t.bytesDone)).spend t.slot t.part 12 (n - t.bytesDone)
    else (s.setTask t).commitPull id 64

/-! ### Completion (R262, R263) -/

/-- Bytes of bursts sent after a failing burst of a PUSH (R255). -/
def MTask.uncertain (t : MTask) : Nat :=
  if !t.push || t.detached then 0
  else match t.bursts.dropWhile (·.done) with
    | [] => 0
    | _ :: rest => (rest.map (·.len)).sum

/-- The status a task completes with, when it has finished. -/
def MTask.finished (t : MTask) : Option Nat :=
  if t.bursts.any (·.out) then none
  else match t.final with
    | some st => some st
    | none => if t.op ≠ 0 ∧ t.bytesDone = t.length then some Code.ok else none

/-- Statuses that halt the ring (R263). -/
def haltsRing (st : Nat) : Bool := !(st = Code.ok || st = Code.abortedByTake || st = Code.ringHalted)

/-- The 16-byte completion record (R251). -/
def State.record (s : State) (st done uncertain : Nat) : List Byte :=
  toLE 2 st ++ toLE 1 1 ++ toLE 1 0 ++ toLE 4 done ++ toLE 4 uncertain ++ toLE 4 (s.frame % 2 ^ 32)

/-- Write a completion record at descriptor address `va`: `false` when it is refused, none where it waits. -/
def State.putRecord (s : State) (handle va : Nat) (b : List Byte) : Option Bool × State :=
  let c := s.agentCheck handle (va + 48) 16 true
  match c.1 with
  | .ok e =>
    let w := c.2.agentWrite (handlePart handle) e (va + 48) b handle
    (some (w.1.all (fun x => x)), w.2)
  | .wait => (none, c.2)
  | .fail _ => (some false, c.2)

/-- A ring starts to halt with a status at a descriptor count (R264): its later active tasks stop and drain. -/
def State.haltRing (s : State) (p r st count : Nat) : State :=
  let g := s.ring p r
  if g.state ≠ 1 then s
  else
    let s := s.setRing p r { g with state := 2, haltStatus := st, haltIndex := count }
    let later := (s.ringTasks p r).filter (fun t => ahead32 t.count count ≠ 0 && ahead32 t.count count < 2 ^ 31)
    later.foldl (fun s t => s.endTask t.id Code.ringHalted) s

/-- MOVER_TASK_COMPLETE: the task in slab `slab` of ring `r` has finished, and its record is written. -/
def execMoverTaskComplete (p r slab : Nat) (s : State) : Out :=
  .next (
    match s.mover.tasks.find? (fun t => t.part = p ∧ t.ring = r ∧ t.slab = slab ∧ !t.written) with
    | none => s
    | some t0 =>
      let s := s.commitPull t0.id 64
      match s.task t0.id with
      | none => s
      | some t =>
        match t.finished with
        | none => s
        | some st =>
          let w := s.putRecord t.handle t.addr (s.record st t.bytesDone (if st = Code.abortedByTake then 0 else t.uncertain))
          match w.1 with
          | none => w.2
          | some true =>
            let s := (w.2.setTask { t with state := 6, final := some st, written := true }).moverCount t.slot 0 1
            if haltsRing st && !t.detached then s.haltRing p r st t.count else s
          | some false =>
            let s := { w.2 with mover := { w.2.mover with tasks := w.2.mover.tasks.filter (fun x => x.id ≠ t.id) } }
            if t.detached then s else s.haltRing p r Code.notMapped t.count)

/-- Advance COMPLETED past every recorded descriptor whose predecessors are counted. -/
def Ring.advance (g : Ring) : Nat → Ring
  | 0 => g
  | k + 1 => if g.recorded.contains g.completed then
      ({ g with recorded := g.recorded.filter (· ≠ g.completed), completed := (g.completed + 1) % 2 ^ 32 } : Ring).advance k
    else g

/-- NOTIFY of a mover ring (R262 step 4). -/
def State.ringNotify (s : State) (p r inc cookie done st : Nat) : State :=
  let d := s.ringDesc p r
  if rgNotify d then
    s.notify (rgNPort d) (rgNEid d) (s.handleOf p) 2 (inc * 1024 + r) (cookie * 2 ^ 32 + done) st
  else s

/-- The completion doorbell has an agent entry of the ring's partition to leave through, and an endpoint (R252, R262). -/
def MTask.bellGoes (t : MTask) : Bool :=
  decide (leAt t.desc 2 2 < 1024) && agValid t.agent && decide (agPart t.agent = t.part) && decide (leAt t.desc 32 2 ≠ 0xFFFF)

/-- COMPLETION_RECORD_ACK: the record of the task in slab `slab` is acknowledged: COMPLETED advances, NOTIFY and DOORBELL are
sent, and the slab is zeroised and freed (R262, R257). -/
def execCompletionRecordAck (p r slab : Nat) (s : State) : Out :=
  .next (
    match s.mover.tasks.find? (fun t => t.part = p ∧ t.ring = r ∧ t.slab = slab ∧ t.written) with
    | none => s
    | some t =>
      let st := t.final.getD 0
      let s := { s with mover := { s.mover with tasks := s.mover.tasks.filter (fun x => x.id ≠ t.id) } }
      if t.detached then s
      else
        let g := s.ring p r
        let s := s.setRing p r (({ g with recorded := g.recorded ++ [t.count] } : Ring).advance 65537)
        let s := if bit t.flags 6 then s.ringNotify p r g.inc (leAt t.desc 28 4) t.bytesDone st else s
        if bit t.flags 5 && t.bellGoes then
          s.originate (agPort t.agent) (leAt t.desc 32 2) 0x60 t.handle
            (toLE 2 (leAt t.desc 34 2) ++ toLE 6 0 ++ toLE 8 (leAt t.desc 40 8)) (.doorbell p t.slot 16 (leAt t.desc 34 2))
        else s)

/-- RING_HALT_COMPLETE: a halting ring's tasks have drained (R264). The spec gives the halt's NOTIFY no VALUE of its own: it is
free (log entry 78). -/
def execRingHaltComplete (p r : Nat) (s : State) : Out :=
  let g := s.ring p r
  .next (
    if g.state = 2 ∧ (s.ringTasks p r).isEmpty then
      let s := (s.setRing p r { g with state := 3, completed := g.fetched, recorded := [] }).moverCount (rgSlot (s.ringDesc p r)) 9 1
      let v := s.draw (2 ^ 64)
      v.2.ringNotify p r g.inc (v.1 / 2 ^ 32) (v.1 % 2 ^ 32) g.haltStatus
    else s)

/-! ### Invalidation (R258, R259) -/

/-- Page `i` of a task overlaps [start, start+len); a length of 0 covers the whole context. -/
def MTask.overlaps (t : MTask) (i start len : Nat) : Bool :=
  let a := (t.remoteVa / 65536 + i) * 65536
  len = 0 || (a < start + len && start < a + 65536)

/-- INVALIDATE_REQ at every mover: translations of the range lose VALID, those pending are tainted, and bursts in flight on
affected pages are awaited (R258 steps 2 and 3). -/
def State.invalidate (s : State) (r : Req) : State :=
  let ctx := leAt r.body 0 4
  let start := leAt r.body 8 8
  let len := leAt r.body 16 8
  let hit := fun (t : MTask) => agEid t.agent = r.h.src && agPort t.agent = r.port && t.ctx = ctx
  let upd := fun (t : MTask) =>
    if !hit t then t
    else { t with
      pages := t.pages.map (fun (e : Nat × Nat) =>
        if !t.overlaps e.1 start len then e
        else if bit e.2 14 then (e.1, setFld e.2 13 13 1)
        else (e.1, setFld e.2 15 15 0))
      bursts := t.bursts.map (fun b =>
        if b.out && t.overlaps (t.pageAt b.pos) start len then { b with inv := b.inv ++ [(r.port, r.id)] } else b) }
  let s := { s with mover := { s.mover with tasks := s.mover.tasks.map upd } }
  (List.range 32).foldl (fun s slot => s.moverCount slot 7 1) s

/-- INVALIDATE_REQ accepted: it is answered when every mover has drained (R258 steps 4 and 5). -/
def State.serveInvalidate (s : State) (r : Req) : State := (s.invalidate r).hold .invalDrain r

/-- INVALIDATE_DRAIN_COMPLETE: request `id` of port `port`, once no burst that it waits for is outstanding. -/
def execInvalidateDrainComplete (port id : Nat) (s : State) : Out :=
  .next (
    if s.mover.tasks.any (fun t => t.bursts.any (fun b => b.out && b.inv.contains (port, id))) then s
    else
      match s.waiting.find? (fun w => w.1 = .invalDrain ∧ w.2.port = port ∧ w.2.id = id) with
      | none => s
      | some w =>
        ({ s with waiting := s.waiting.filter (fun y => !(y.1 = .invalDrain ∧ y.2.port = port ∧ y.2.id = id)) } : State).answer w.2 0xD1
          Code.ok [])

/-! ### Requests given up (R116, R260, R263) -/

/-- A remote request of the mover is given up. -/
def State.moverGivenUp (s : State) (x : PartReq) : State :=
  match x.purpose with
  | .translate id => (s.settle x).endTask id Code.remoteTimeout
  | .page k => (s.settle x).pageDone (k / 256) (k % 256) Code.remoteTimeout
  | .moveWrite id pos _ => s.burstDone x id pos Code.remoteTimeout []
  | .moveRead id pos _ => s.burstDone x id pos Code.remoteTimeout []
  | .doorbell _ slot 16 _ => (s.settle x).moverCount slot 8 1
  | .notify =>
    -- a ring's notification names the ring in OBJECT (R262)
    let p := handlePart x.msg.handle
    let r := leAt x.msg.body 4 4 % 16
    if leAt x.msg.body 0 2 = 2 then (s.settle x).moverCount (rgSlot (s.ringDesc p r)) 8 1 else s.settle x
  | _ => s

/-! ### Takes and resets (R265, R266) -/

/-- A ring is rebound at a slate (R265): `d` was its descriptor. Its tasks end with ABORTED_BY_TAKE, the descriptors not fetched
receive records under the old handle `h`, and the ring starts again under its next incarnation. -/
def State.ringEnds (s : State) (p r d h : Nat) : State :=
  let g := s.ring p r
  let s := (s.ringTasks p r).foldl (fun s t =>
    let s := s.unpark t.id
    match s.task t.id with
    | some t => s.setTask { t with
        detached := true, final := (if t.written then t.final else some Code.abortedByTake), state := 5, fault := none, pages := [] }
    | none => s) s
  let s := if rgValid d then
      (List.range (ahead32 g.tail g.fetched)).foldl (fun s k =>
        (s.putRecord h (rgBase d + 64 * ((g.fetched + k) % 2 ^ rgLog d)) (s.record Code.abortedByTake 0 0)).2) s
    else s
  s.setRing p r { inc := (g.inc + 1) % 2 ^ 22, state := b2n (rgValid (s.ringDesc p r)) }

/-- A warm reset discards every task; each valid ring is HALTED with ABORTED_BY_RESET and FETCHED equal to COMPLETED (R266). -/
def State.moverReset (s : State) (sel : Nat → Nat → Bool) : State :=
  let dead := s.mover.tasks.filter (fun t => sel t.part t.slot)
  let s := dead.foldl (fun s t => s.unpark t.id) s
  let s := { s with mover := { s.mover with tasks := s.mover.tasks.filter (fun t => !sel t.part t.slot) } }
  (List.range 1024).foldl (fun s k =>
    let d := s.ringDesc (k / 16) (k % 16)
    if rgValid d && sel (k / 16) (rgSlot d) then
      let g := s.ring (k / 16) (k % 16)
      s.setRing (k / 16) (k % 16) { g with state := 3, haltStatus := Code.abortedByReset, fetched := g.completed, recorded := [] }
    else s) s

/-! ### The slab probe (R257, R267) -/

/-- The 8,264 bytes of a translation slab. -/
def MTask.slabBytes (t : MTask) : List Byte :=
  toLE 4 t.count ++ toLE 2 (leAt t.desc 2 2) ++ toLE 1 t.state ++ toLE 1 t.tries ++ toLE 4 t.ctx ++ toLE 2 t.pageCount
    ++ toLE 2 (t.fault.getD 0xFFFF) ++ toLE 8 (t.remoteVa / 65536 * 65536) ++ toLE 8 t.poolVa ++ toLE 4 t.length
    ++ toLE 4 t.bytesDone ++ toLE 4 t.bytesIssued ++ toLE 20 0
    ++ ((List.range 1025).map (fun i => toLE 8 (t.entry i))).flatten

/-- A write of SLAB_PROBE: the named slab is copied into SLAB_PROBE_RESULT; a free slab is zeros. -/
def State.slabProbe (s : State) (v : Nat) : Nat × State :=
  let b := match s.mover.tasks.find? (fun t => t.part = fld v 31 26 ∧ t.ring = fld v 25 22 ∧ t.slab = fld v 21 20) with
    | some t => t.slabBytes
    | none => []
  (Code.ok, s.wr K.slabProbeResult (ofBE (padTo 8264 b)))

end Sys2Proof.Machine
end

