-- ==== Sys2Proof/Machine/Reel.lean ====
section
/-!
DEFINITION. Contexts and launches (ch. 13): registers, the launch and its end, faults and reel events, barriers, cuts and
saves, instruction fetch, and the one way in which every instruction issues.
-/

namespace Sys2Proof.Machine

/-! ### Contexts, windows and their tables -/

/-- Context `c` of slot `slot`. -/
def State.ctx (s : State) (slot c : Nat) : Ctx := Tab.getD s.reels.ctxs (slot * 16 + c) {}
/-- Replace it. -/
def State.setCtx (s : State) (slot c : Nat) (k : Ctx) : State :=
  { s with reels := { s.reels with ctxs := Tab.set s.reels.ctxs (slot * 16 + c) k } }
/-- Partition that owns a context; none when it is unbound (R299). -/
def State.ctxOwner (s : State) (slot c : Nat) : Option Nat :=
  let v := s.rd (K.contextOwner (slot * 16 + c))
  if v < 64 then some v else none
/-- Window of binding `b`. -/
def State.window (s : State) (b : Nat) : Window := Tab.getD s.reels.windows b {}
/-- Replace it. -/
def State.setWindow (s : State) (b : Nat) (w : Window) : State :=
  { s with reels := { s.reels with windows := Tab.set s.reels.windows b w } }
/-- Reel event queue of partition `p`. -/
def State.events (s : State) (p : Nat) : Events := Tab.getD s.reels.events p {}
/-- Replace it. -/
def State.setEvents (s : State) (p : Nat) (e : Events) : State :=
  { s with reels := { s.reels with events := Tab.set s.reels.events p e } }
/-- Launch by number. -/
def State.launch (s : State) (id : Nat) : Option Launch := s.reels.launches.find? (fun l => l.id = id)
/-- Replace a launch. -/
def State.setLaunch (s : State) (l : Launch) : State :=
  { s with reels := { s.reels with launches := s.reels.launches.map (fun x => if x.id = l.id then l else x) } }
/-- Count in REEL_COUNTS of a partition. -/
def State.reelCount (s : State) (p i n : Nat) : State := s.count (K.reelCounts p i) n
/-- Count in ENGINE_COUNTS of a slot's tile. -/
def State.engineCount (s : State) (slot i n : Nat) : State := if n = 0 then s else s.count (K.engineCounts (s.tileAt slot) i) n

/-- What CONTEXT_STATE shows of a context to its owner `p` (R301, R315). -/
def State.ctxState (s : State) (p slot c : Nat) : Nat := if s.ctxOwner slot c = some p then (s.ctx slot c).st else 0

/-! ### Registers (14 R316) -/

/-- G`i`: G0 reads as 0. -/
def Ctx.gr (k : Ctx) (i : Nat) : Word := if i = 0 then 0 else Tab.getD k.g i 0
/-- Write G`i`: a write to G0 is discarded. -/
def Ctx.setG (k : Ctx) (i : Nat) (v : Word) : Ctx := if i = 0 then k else { k with g := Tab.set k.g i v }
/-- V`i` as a bit string. -/
def Ctx.vr (k : Ctx) (i : Nat) : Nat := (Tab.getD k.v i 0).toNat
/-- Write V`i`. -/
def Ctx.setV (k : Ctx) (i v : Nat) : Ctx := { k with v := Tab.set k.v i (BitVec.ofNat 4096 v) }
/-- Q`i` as a bit string. -/
def Ctx.qr (k : Ctx) (i : Nat) : Nat := (Tab.getD k.q i 0).toNat
/-- Write Q`i`. -/
def Ctx.setQ (k : Ctx) (i v : Nat) : Ctx := { k with q := Tab.set k.q i (BitVec.ofNat 16384 v) }
/-- M`i` as a bit string. -/
def Ctx.mr (k : Ctx) (i : Nat) : Nat := (Tab.getD k.m i 0).toNat
/-- Write M`i`. -/
def Ctx.setM (k : Ctx) (i v : Nat) : Ctx := { k with m := Tab.set k.m i (BitVec.ofNat 1024 v) }
/-- ST`i`. -/
def Ctx.st_ (k : Ctx) (i : Nat) : Strm := Tab.getD k.strm i {}
/-- Replace ST`i`. -/
def Ctx.setSt (k : Ctx) (i : Nat) (v : Strm) : Ctx := { k with strm := Tab.set k.strm i v }
/-- The bit string of `n` registers from V`i` on (14 R317). -/
def Ctx.span (k : Ctx) (i n : Nat) : Nat := (List.range n).foldr (fun j a => k.vr (i + j) + 2 ^ 4096 * a) 0
/-- Write a bit string over `n` registers from V`i` on. -/
def Ctx.setSpan (k : Ctx) (i n x : Nat) : Ctx :=
  (List.range n).foldl (fun k j => k.setV (i + j) (x / 2 ^ (4096 * j) % 2 ^ 4096)) k
/-- Set sticky flags (12 R283). -/
def Ctx.raise (k : Ctx) (f : Flags) : Ctx := { k with fp := k.fp ||| (f % 16) }

/-- Every register zero, every stream closed: what is left when a context ends, is cleared, or starts anew. -/
def Ctx.wiped (k : Ctx) : Ctx :=
  { inbox := k.inbox, taken := k.taken, outbox := k.outbox, sent := k.sent, launch := k.launch, budget := k.budget }

/-- Bytes that a context's stream buffers hold. -/
def Ctx.buffered (k : Ctx) : Nat := (k.strm.map (fun e => e.2.buf.length * 128)).sum

/-- Drop the prefetched data of every stream of a context (12 R287). -/
def State.dropPrefetch (s : State) (slot c : Nat) : State :=
  let k := s.ctx slot c
  (s.engineCount slot 3 k.buffered).setCtx slot c { k with strm := k.strm.map (fun e => (e.1, { e.2 with buf := [], marked := [] })) }

/-! ### Mailbox acknowledgements (20 R442, R444) -/

/-- Acknowledge a message of binding `b` to a context with a return code. -/
def State.ackPost (s : State) (slot c : Nat) (m : Nat × Option Nat) (ret : Nat) : State :=
  match m.2 with
  | none => s
  | some n =>
    let w := s.window m.1
    let q := Tab.getD w.posts (slot * 16 + c) {}
    s.setWindow m.1 { w with posts := Tab.set w.posts (slot * 16 + c) { q with ack := n, ret := ret } }

/-- Acknowledge the message taken last, if it has not been, with `ret`. -/
def State.ackTaken (s : State) (slot c ret : Nat) : State :=
  match (s.ctx slot c).taken with
  | none => s
  | some m => (s.ackPost slot c m ret).setCtx slot c { s.ctx slot c with taken := none }

/-- Acknowledge every message of a context's inbound mailbox, in order, with `ret`, and empty both mailboxes. -/
def State.emptyMailboxes (s : State) (slot c ret : Nat) : State :=
  let k := s.ctx slot c
  (k.inbox.foldl (fun s m => s.ackPost slot c (m.1, m.2.1) ret) s).setCtx slot c { k with inbox := [], outbox := [] }

/-! ### Reel events and notifications (R312) -/

/-- Queue a reel event record of partition `p`, or count it lost when the queue is full. -/
def State.reelEvent (s : State) (p code kind slot c seq tag pc detail : Nat) : State :=
  let e := s.events p
  let r := toLE 2 code ++ toLE 1 kind ++ toLE 1 slot ++ toLE 1 c ++ toLE 1 0 ++ toLE 2 seq ++ toLE 8 tag ++ toLE 4 pc
    ++ toLE 4 detail ++ toLE 8 s.frame
  if 256 ≤ e.recs.length then (s.setEvents p { e with lost := e.lost + 1 }).reelCount p 7 1
  else s.setEvents p { e with written := e.written + 1, recs := e.recs ++ [r] }

/-- SLOT_MASK of a launch block. -/
def lbMask (b : List Byte) : Nat := leAt b 0 4
/-- CONTEXT. -/
def lbCtx (b : List Byte) : Nat := leAt b 4 1
/-- FLAGS. -/
def lbFlags (b : List Byte) : Nat := leAt b 5 1
/-- EXTENT. -/
def lbExt (b : List Byte) : Nat := leAt b 6 2
/-- ENTRY. -/
def lbEntry (b : List Byte) : Nat := leAt b 8 4
/-- NOTIFY_EID. -/
def lbEid (b : List Byte) : Nat := leAt b 12 2
/-- NOTIFY_PORT. -/
def lbPort (b : List Byte) : Nat := leAt b 14 1
/-- SR_SEED. -/
def lbSeed (b : List Byte) : Nat := leAt b 16 8
/-- LAUNCH_TAG. -/
def lbTag (b : List Byte) : Nat := leAt b 24 8
/-- ARGS. -/
def lbArg (b : List Byte) (i : Nat) : Nat := leAt b (32 + 8 * i) 8

/-- The slots of a launch, in rising order. -/
def Launch.slots (l : Launch) : List Nat := (List.range 32).filter (fun i => bit (lbMask l.block) i)
/-- The context number it uses. -/
def Launch.ctx (l : Launch) : Nat := lbCtx l.block

/-- NOTIFY of KIND 3 for a launch (R312). -/
def State.launchNotify (s : State) (l : Launch) (code : Nat) : State :=
  if lbPort l.block < 36 then
    s.notify (lbPort l.block) (lbEid l.block) (s.handleOf l.part) 3 (l.seq * 65536 + l.bind) (lbTag l.block) code
  else s

/-- The context of a launch at `slot` has not ended or faulted. -/
def State.copyLive (s : State) (l : Launch) (slot : Nat) : Bool :=
  let k := s.ctx slot l.ctx
  k.launch = l.id && k.st ≠ 1 && k.st ≠ 7

/-- End a launch with an outcome: LAUNCH_STATUS, the event record and the notification (R311, R312). The record's SLOT, PC
and DETAIL are not stated for a launch's end: free values. -/
def State.endLaunch (s : State) (l : Launch) (outcome : Nat) : State :=
  let w := s.window l.bind
  let s := if w.seq = l.seq then s.setWindow l.bind { w with result := outcome, state := 4 } else s
  let a := s.draw 32
  let b := a.2.draw 0
  let d := b.2.draw 0
  let s := ((d.2.reelCount l.part 2 1).reelEvent l.part outcome 2 a.1 l.ctx l.seq (lbTag l.block) b.1 d.1)
  let s := if bit (lbFlags l.block) 0 then s.launchNotify l outcome else s
  { s with reels := { s.reels with launches := s.reels.launches.filter (fun x => x.id ≠ l.id) } }

/-- End a launch whose every context is IDLE or FAULTED (R311). -/
def State.endIfDone (s : State) (id : Nat) : State :=
  match s.launch id with
  | some l => if l.due = none ∧ !l.slots.any (s.copyLive l) then s.endLaunch l (l.fault.getD Code.ok) else s
  | none => s

/-! ### Faults (R310, R311) -/

/-- Fault one context: its prefetch is discarded, its state kept, the message taken last acknowledged, the fault recorded
and counted (R311, R312, 20 R444). -/
def State.faultOne (s : State) (slot c code detail : Nat) : State :=
  match s.ctxOwner slot c with
  | none => s
  | some p =>
    let s := (s.dropPrefetch slot c).ackTaken slot c code
    let k := s.ctx slot c
    let s := ((s.setCtx slot c { k with st := 7, wait := .none, saved := true, woken := false, refusals := [], refused := none }).noteFault
      p).reelCount p 3 1
    let s := s.reelCount p 4 1
    match s.launch k.launch with
    | none => s.reelEvent p code 1 slot c 0 0 k.pc detail
    | some l =>
      let s := s.reelEvent p code 1 slot c l.seq (lbTag l.block) k.pc detail
      if l.fault.isSome then s
      else
        let s := s.setLaunch { l with fault := some code }
        if bit (lbFlags l.block) 1 then s.launchNotify l code else s

/-- Break a launch's barriers: its copies that wait at one take BARRIER_BROKEN (R310). -/
def State.breakBarriers (s : State) (id : Nat) : State :=
  match s.launch id with
  | none => s
  | some l =>
    let s := s.setLaunch { l with broken := true, coming := [], arrived := [] }
    l.slots.foldl (fun s slot =>
      let k := s.ctx slot l.ctx
      match k.wait with
      | .barrier b =>
        if k.launch = id ∧ k.st = 4 ∧ !k.woken ∧ !l.releases.contains (b, slot) then s.faultOne slot l.ctx Code.barrierBroken b else s
      | _ => s) s

/-- A context takes a fault: it stops, its launch's barriers break, and the launch ends if nothing else runs. -/
def State.reelFault (s : State) (slot c code detail : Nat) : State :=
  let id := (s.ctx slot c).launch
  ((s.faultOne slot c code detail).breakBarriers id).endIfDone id

/-! ### Launching (R302 to R305) -/

/-- The launch block's extent maps a valid entry, of KIND REEL and SEALED: the code of the first failing check (R303). -/
def State.codeCheck (s : State) (p ext : Nat) : Option Nat :=
  let e := s.entry p ext
  if ext ≥ 16384 || !eValid e then some Code.notMapped
  else if eKind e ≠ 2 || !eSealed e then some Code.notSealed
  else none

/-- The checks of R303 on a launch block of partition `p`: the status of the first that fails. -/
def State.launchCheck (s : State) (p : Nat) (b : List Byte) : Option Nat :=
  let slots := (List.range 32).filter (fun i => bit (lbMask b) i)
  if lbFlags b ≥ 4 ∨ leAt b 15 1 ≠ 0 ∨ lbMask b = 0 ∨ lbCtx b ≥ 16 ∨ lbEntry b % 8 ≠ 0 ∨ lbEntry b ≥ 2 ^ 28 then
    some Code.badRequest
  else
    match s.codeCheck p (lbExt b) with
    | some st => some st
    | none =>
      if slots.any (fun i => s.ctxOwner i (lbCtx b) ≠ some p) then some Code.contextUnbound
      else if slots.any (fun i => (s.ctx i (lbCtx b)).st ≠ 1) then some Code.busy
      else none

/-- A write of 1 to GO by binding `b` (R303, R304): the result is in LAUNCH_STATUS, and is the status that ERR_STATUS records. -/
def State.go (s : State) (b t : Nat) : Nat × State :=
  let w := s.window b
  let p := bPart (s.binding b)
  let blk := padTo 96 w.block
  match s.launchCheck p blk with
  | some st => (st, (s.setWindow b { w with result := st, state := 2 }).reelCount p 1 1)
  | none =>
    let seq := (w.seq + 1) % 65536
    let l : Launch := {
      id := s.reels.nextLaunch, part := p, bind := b, seq := seq, block := blk
      due := some (if t + 2000 ≤ s.guardAt then 0 else 1) }
    let s := (s.setWindow b { w with result := Code.ok, seq := seq, state := 3 }).reelCount p 0 1
    let s := { s with reels := { s.reels with launches := s.reels.launches ++ [l], nextLaunch := s.reels.nextLaunch + 1 } }
    (Code.ok, l.slots.foldl (fun s i => s.setCtx i l.ctx { (s.ctx i l.ctx) with st := 2, launch := l.id }) s)

/-- The registers with which a copy of rank `k` starts (R304). -/
def Ctx.start (c : Ctx) (l : Launch) (k budget : Nat) : Ctx :=
  let b := l.block
  let z : Ctx := { c.wiped with st := 3, launch := l.id, rank := k, pc := lbEntry b, budget := budget, seed := BitVec.ofNat 64 (lbSeed b + k) }
  (List.range 8).foldl (fun z i => z.setG (3 + i) (BitVec.ofNat 64 (lbArg b i)))
    ((z.setG 1 (BitVec.ofNat 64 k)).setG 2 (BitVec.ofNat 64 l.slots.length))

/-- Cycle budget of a context at a slate: that of its partition, capped where its slot's tile store is moving (R306, 10 R229). -/
def State.cycleBudget (s : State) (p slot : Nat) : Nat :=
  let b := s.rd (K.cycleBudget p)
  if s.cont.moving = some slot then min b 368000 else b

/-- A launch that has not started is cancelled: its contexts are IDLE again (R304). -/
def State.cancelLaunch (s : State) (l : Launch) : State :=
  (l.slots.foldl (fun s i =>
    let k := s.ctx i l.ctx
    if k.launch = l.id ∧ k.st = 2 then s.setCtx i l.ctx { k with st := 1 } else s) s).endLaunch l Code.abortedByTake

/-- A launch whose slate has come starts, or is cancelled where a take has undone a check (R304). -/
def State.startLaunch (s : State) (l : Launch) : State :=
  match l.due with
  | none => s
  | some (n + 1) => s.setLaunch { l with due := some n }
  | some 0 =>
    let fails := (s.codeCheck l.part (lbExt l.block)).isSome || l.slots.any (fun i => s.ctxOwner i l.ctx ≠ some l.part)
      || l.slots.any (fun i => (s.ctx i l.ctx).launch ≠ l.id || (s.ctx i l.ctx).st ≠ 2)
    if fails then s.cancelLaunch l
    else
      (l.slots.zipIdx.foldl (fun s q =>
        s.setCtx q.1 l.ctx ((s.ctx q.1 l.ctx).start l q.2 (s.cycleBudget l.part q.1))) s).setLaunch { l with due := none }

/-! ### The slate (R306 to R308, R313, R314) -/

/-- Save a context at the slate guard: in full, or at its cut the scalar area alone (R308). -/
def State.saveCtx (s : State) (slot c : Nat) (full : Bool) : State :=
  match s.ctxOwner slot c with
  | none => s
  | some p =>
    let k := s.ctx slot c
    if k.saved ∨ ¬ (3 ≤ k.st ∧ k.st ≤ 6) then s
    else
      let s := s.dropPrefetch slot c
      let k := s.ctx slot c
      if k.atCut && !full then
        (s.setCtx slot c { k with saved := true, v := [], q := [], m := [], strm := [] }).reelCount p 5 1
      else (s.setCtx slot c { k with saved := true }).reelCount p 4 1

/-- Restore a context at the slate, with the frame's budget (R306, R308). -/
def State.restoreCtx (s : State) (slot c : Nat) : State :=
  match s.ctxOwner slot c with
  | none => s
  | some p =>
    let k := { s.ctx slot c with budget := s.cycleBudget p slot }
    if k.st = 4 ∧ !k.woken then s.setCtx slot c k
    else if 3 ≤ k.st ∧ k.st ≤ 6 then
      if k.budget = 0 ∧ !k.woken then s.setCtx slot c { k with st := 5 }
      else s.setCtx slot c { k with st := 3, saved := false, woken := false, wait := .none }
    else s.setCtx slot c k

/-- A context that a take, a reset or its partition's end takes away from its launch: it is zeroised, its messages are
answered, and its launch's barriers break (R313, R314). -/
def State.dropCtx (s : State) (slot c mbx outcome : Nat) : State :=
  let k := s.ctx slot c
  let id := k.launch
  let live := 2 ≤ k.st && k.st ≤ 6
  let s := if mbx = Code.abortedByReset then s.ackTaken slot c mbx else s
  let s := (s.emptyMailboxes slot c mbx).setCtx slot c { sent := if mbx = Code.abortedByReset then k.sent else 0 }
  if !live then s
  else
    let s := match s.launch id with
      | some l => if l.fault.isNone then s.setLaunch { l with fault := some outcome } else s
      | none => s
    (s.breakBarriers id).endIfDone id

/-- A take unmaps, rebinds or unseals code extent `i` of partition `p`: its launches that are pending are cancelled, and the contexts
that execute from it take CODE_UNSEALED (R298). -/
def State.codeGone (s : State) (p i : Nat) : State :=
  let l := s.reels.launches.filter (fun l => l.part = p ∧ lbExt l.block = i)
  let s := (l.filter (fun l => l.due.isSome)).foldl (fun (s : State) l => s.cancelLaunch l) s
  (l.filter (fun l => l.due.isNone)).foldl (fun (s : State) l => l.slots.foldl (fun (s : State) slot =>
    let k := s.ctx slot l.ctx
    if k.launch = l.id ∧ 3 ≤ k.st ∧ k.st ≤ 6 then s.reelFault slot l.ctx Code.codeUnsealed i else s) s) s

/-- Every context that executes from a code extent that is no longer valid, of KIND REEL and SEALED takes CODE_UNSEALED (R298). -/
def State.unsealCheck (s : State) (slot c : Nat) : State :=
  match s.ctxOwner slot c, s.launch (s.ctx slot c).launch with
  | some p, some l =>
    let k := s.ctx slot c
    if 3 ≤ k.st ∧ k.st ≤ 6 ∧ (s.codeCheck p (lbExt l.block)).isSome then
      s.reelFault slot c Code.codeUnsealed (lbExt l.block)
    else s
  | _, _ => s

/-! ### Instruction fetch (R296, R297) -/

/-- What a fetch meets. -/
inductive Fetched where
  /-- The line is being erased: the fetch waits. -/
  | wait
  /-- The line is uncorrectable or poisoned. -/
  | bad
  /-- The extent is not a sealed reel extent of the partition. -/
  | unsealed
  /-- The word at the program counter. -/
  | word (w : Nat)
deriving DecidableEq, Repr

/-- Fetch the word at the program counter, from the sequencer's cache or, a whole line, from pool memory. The line that a
full cache gives up is not stated: the one filled first (log entry 31). -/
def State.fetchWord (s : State) (p slot c : Nat) : Fetched × State :=
  let k := s.ctx slot c
  match s.launch k.launch with
  | none => (.unsealed, s)
  | some l =>
    let e := s.entry p (lbExt l.block)
    if (s.codeCheck p (lbExt l.block)).isSome then (.unsealed, s)
    else
      let va := eTag e * 2 ^ 42 + lbExt l.block * 2 ^ 28 + k.pc
      let ln := va / 128 * 128
      let key := p * 2 ^ 48 + ln
      let seqr := slot * 4 + c / 4
      let cache := Tab.getD s.reels.icache seqr []
      match cache.find? (fun x => x.1 = key) with
      | some x => (.word (leAt x.2 (va % 128) 8), s)
      | none =>
        let a := s.agentCheck (s.handleOf p) ln 128 false
        match a.1 with
        | .wait => (.wait, a.2)
        | .fail _ => (.unsealed, a.2)
        | .ok e =>
          let r := a.2.readFinal e ln (s.handleOf p) []
          match r.1 with
          | .bad _ => (.bad, r.2)
          | .data d =>
            (.word (leAt d (va % 128) 8),
              { r.2 with reels := { r.2.reels with icache := Tab.set r.2.reels.icache seqr (((key, d) :: cache).take 256) } })

/-! ### Issue (R306, R319 to R321) -/

/-- How an instruction ends its turn. -/
inductive Ran where
  /-- It changed nothing and issues again: its data has not come. -/
  | stall (s : State)
  /-- It faults. -/
  | fault (s : State) (code detail : Nat)
  /-- It retires, and the program counter goes to `pc` after `extra` further turns. -/
  | done (s : State) (pc : Int) (extra : Nat)
  /-- It holds the program counter: it waits, ended, or stopped at the guard with its progress in RESUME. -/
  | held (s : State)

/-- Opcodes of governed work: tile store, vector, matrix-from-stream, special functions, conversions, lane reductions (21 R456,
R319). -/
def governedOp (op : Nat) : Bool := (0x20 ≤ op && op ≤ 0x27) || (0x30 ≤ op && op ≤ 0x5F)

/-- A context is RUNNING and loaded: it is in its sequencer's rotation (R301, R306). -/
def Ctx.inTurn (k : Ctx) : Bool := k.st = 3 && !k.saved

/-- The turn that a context without budget needs is free: its partition is shared, no context of the sequencer with budget is in
turn, and one whose partition has no budget at all lets the others' go first (R306, R51). -/
def State.spareTurn (s : State) (p slot c : Nat) : Bool :=
  let others := ((List.range 4).map (fun j => c / 4 * 4 + j)).filter (fun j => j ≠ c && (s.ctx slot j).inTurn)
  !s.isSealed p && others.all (fun j => decide ((s.ctx slot j).budget = 0))
    && (s.rd (K.cycleBudget p) ≠ 0
      || others.all (fun j => match s.ctxOwner slot j with
          | some q => s.isSealed q || decide (s.rd (K.cycleBudget q) = 0)
          | none => true))

/-- A context may take an issue turn: RUNNING, loaded, before the guard, with budget or, for a shared partition, a turn
that no budgeted context takes (R306, R308, R51, 10 R229). -/
def State.mayIssue (s : State) (slot c t : Nat) : Bool :=
  let k := s.ctx slot c
  match s.ctxOwner slot c with
  | none => false
  | some p => k.inTurn && decide (t < s.guardAt) && !s.fl.inGuard && s.boot.service && s.cont.moving ≠ some slot
      && (0 < k.budget || s.spareTurn p slot c)

/-- Charge cycles to a context; turns beyond its budget are redistributed ones (R306). -/
def State.chargeCycles (s : State) (p slot c n : Nat) : State :=
  let k := s.ctx slot c
  let excess := n - k.budget
  let s := ((s.setCtx slot c { k with budget := k.budget - n }).meterAdd p Mt.cycles n).spend slot p 4 n
  if excess = 0 then s else (s.meterAdd p Mt.redist excess).reelCount p 6 excess

/-- Count governed units for the partition of a context. -/
def State.spendCtx (s : State) (slot c u n : Nat) : State :=
  match s.ctxOwner slot c with | some p => s.spend slot p u n | none => s

/-- Extent index of the code that a context executes. -/
def State.ctxExt (s : State) (slot c : Nat) : Nat :=
  match s.launch (s.ctx slot c).launch with | some l => lbExt l.block | none => 0

/-- Issue the instruction at a context's program counter after `stall` stalled turns, at time `t`, if its word spells the
operation `want`: the one path that every instruction takes. A refused posted store faults here (14 R327). -/
def State.issueInstr (s : State) (slot c stall t : Nat) (want : Nat × Nat) (run : State → Ctx → Nat → Ran) : State :=
  let s := s.at t
  if !s.mayIssue slot c t then s
  else
    match (s.ctx slot c).refused with
    | some st => s.reelFault slot c Code.storeRefused st
    | none =>
      match s.ctxOwner slot c with
      | none => s
      | some p =>
        let f := s.fetchWord p slot c
        let s1 := f.2.chargeCycles p slot c (1 + stall)
        match f.1 with
        | .wait => s1
        | .bad => s1.reelFault slot c Code.fetchDataError ((s.ctx slot c).pc / 128 * 128)
        | .unsealed => s1.reelFault slot c Code.codeUnsealed (s.ctxExt slot c)
        | .word w =>
          if wordOp w ≠ some want then s
          else if governedOp want.1 && s.reached slot p then (f.2.noteHeld slot p).meterAdd p Mt.withheld 1
          else
            match run s1 (s1.ctx slot c) w with
            | .stall s2 => s2
            | .fault s2 code detail => s2.reelFault slot c code detail
            | .held s2 => s2
            | .done s2 pc extra =>
              if pc < 0 ∨ 2 ^ 28 ≤ pc then s1.reelFault slot c Code.fetchOutOfRange 0
              else
                let s3 := if extra = 0 then s2 else s2.chargeCycles p slot c extra
                s3.setCtx slot c { s3.ctx slot c with pc := pc.toNat, atCut := iOp w = 0x6C, resume := none }

/-- An instruction that only changes its context, and then goes on to the next word. -/
def State.issueReg (s : State) (slot c stall t : Nat) (want : Nat × Nat) (f : Ctx → Nat → Ctx) : State :=
  s.issueInstr slot c stall t want (fun s k w => .done (s.setCtx slot c (f k w)) (k.pc + 8) 0)

/-- The word at a context's program counter is not legal: ILLEGAL_INSTRUCTION, before it has any effect (R319). -/
def execIllegalInstruction (slot ctx stall t : Nat) (s : State) : Out :=
  let s := s.at t
  .next (
    if !s.mayIssue slot ctx t then s
    else
      match (s.ctx slot ctx).refused with
      | some st => s.reelFault slot ctx Code.storeRefused st
      | none =>
        match s.ctxOwner slot ctx with
        | none => s
        | some p =>
          let f := s.fetchWord p slot ctx
          let s1 := f.2.chargeCycles p slot ctx (1 + stall)
          match f.1 with
          | .wait => s1
          | .bad => s1.reelFault slot ctx Code.fetchDataError ((s.ctx slot ctx).pc / 128 * 128)
          | .unsealed => s1.reelFault slot ctx Code.codeUnsealed (s.ctxExt slot ctx)
          | .word w => if legalWord w then s else s1.reelFault slot ctx Code.illegalInstruction (w % 2 ^ 32))

/-! ### Events of contexts -/

/-- CYCLE_BUDGET_EXHAUSTED: a context whose budget has run out outside a cut stops (R306). -/
def execCycleBudgetExhausted (slot ctx t : Nat) (s : State) : Out :=
  let s := s.at t
  let k := s.ctx slot ctx
  .next (if k.st = 3 ∧ k.budget = 0 ∧ !k.atCut then s.setCtx slot ctx { k with st := 5 } else s)

/-- BARRIER_ARRIVAL: the coordinator counts the arrival of a launch's copy; the last one releases the barrier (R310). -/
def execBarrierArrival (slot ctx : Nat) (s : State) : Out :=
  let k := s.ctx slot ctx
  .next (
    match s.launch k.launch with
    | none => s
    | some l =>
      match l.coming.find? (fun x => x.2.1 = k.rank) with
      | none => s
      | some (b, rank, gen) =>
        let coming := l.coming.filter (fun x => x.2.1 ≠ rank)
        if gen ≠ Tab.getD l.gens b 0 then s.setLaunch { l with coming := coming }
        else
          let arrived := (b, rank) :: l.arrived.filter (fun x => x ≠ (b, rank))
          if (arrived.filter (fun x => x.1 = b)).length < l.slots.length then
            s.setLaunch { l with coming := coming, arrived := arrived }
          else
            s.setLaunch { l with
              coming := coming
              arrived := arrived.filter (fun x => x.1 ≠ b)
              gens := Tab.set l.gens b ((gen + 1) % 65536)
              releases := l.releases ++ l.slots.map (fun i => (b, i)) })

/-- BARRIER_RELEASE: a context receives a release, goes on past its BAR, and rereads what it had prefetched (R310). -/
def execBarrierRelease (slot ctx : Nat) (s : State) : Out :=
  let k := s.ctx slot ctx
  .next (
    match s.launch k.launch, k.wait with
    | some l, .barrier b =>
      if k.st = 4 ∧ l.releases.contains (b, slot) then
        let s := (s.setLaunch { l with releases := l.releases.erase (b, slot) }).dropPrefetch slot ctx
        let k := s.ctx slot ctx
        let k := { k with gen := Tab.set k.gen b ((Tab.getD k.gen b 0 + 1) % 65536), pc := k.pc + 8, atCut := false }
        s.setCtx slot ctx (if k.saved then { k with woken := true } else { k with st := 3, wait := .none })
      else s
    | _, _ => s)

/-- POSTED_STORE_REFUSAL: the refusal of a posted store reaches its context (14 R327). -/
def execPostedStoreRefusal (slot ctx : Nat) (s : State) : Out :=
  let k := s.ctx slot ctx
  .next (
    match k.refusals with
    | [] => s
    | st :: rest => s.setCtx slot ctx { k with refusals := rest, refused := some (k.refused.getD st) })

/-- A write of CONTEXT_CLEAR in a window of partition `p` (R311, 20 R438): the status recorded, 0 when it is accepted. -/
def State.contextClear (s : State) (p slot c : Nat) : Nat × State :=
  if s.ctxOwner slot c ≠ some p then (Code.offline, s)
  else if (s.ctx slot c).st ≠ 7 then (Code.busy, s)
  else
    let s := s.emptyMailboxes slot c Code.offline
    (Code.ok, s.setCtx slot c { (s.ctx slot c).wiped with st := 1 })

end Sys2Proof.Machine
end

