-- ==== Sys2Proof/Machine/Streams.lean ====
section
/-!
DEFINITION. Streams (12 R284 to R287, 14 R324, R325), the tile store (R326) and pool loads and stores of reels (R327, R328).
-/

namespace Sys2Proof.Machine

/-! ### What a stream delivers (R325, R276) -/

/-- Bits of a block or group, or of an element of an unscaled format. -/
def Strm.unit (m : Strm) : Nat := fmtBits m.fmt * fmtGroup m.fmt

/-- Blocks that begin in the granule of row `row` (VA / 128 KiB) homed on a slot: the first, and how many. -/
def Strm.rowBlocks (m : Strm) (slot row : Nat) : Nat × Nat :=
  let g := vaOfSlot (row / 2048) (row % 2048) slot 0
  let lo := max g m.base - m.base
  let hi := min (g + 4096) (m.base + m.len) - m.base
  if g + 4096 ≤ m.base ∨ m.base + m.len ≤ g then (0, 0)
  else
    let a := ceilDiv (8 * lo) m.unit
    (a, ceilDiv (8 * hi) m.unit - a)

/-- Rows of 32 granules that the element array touches. -/
def Strm.rows (m : Strm) : Nat := if m.len = 0 then 0 else (m.base + m.len - 1) / 131072 + 1 - m.base / 131072

/-- Blocks delivered in local order over `n` rows from `row`. -/
def Strm.localBlocks (m : Strm) (slot : Nat) : Nat → Nat → Nat
  | 0, _ => 0
  | n + 1, row => (m.rowBlocks slot row).2 + m.localBlocks slot n (row + 1)

/-- The `j`-th block in local order over `n` rows from `row`. -/
def Strm.localBlock (m : Strm) (slot : Nat) : Nat → Nat → Nat → Nat
  | 0, _, _ => 0
  | n + 1, row, j =>
    let b := m.rowBlocks slot row
    if j < b.2 then b.1 + j else m.localBlock slot n (row + 1) (j - b.2)

/-- Elements that the stream delivers in all to a context of slot `slot`; a port that is not open delivers none. -/
def Strm.total (m : Strm) (slot : Nat) : Nat :=
  if !m.opened || m.unit = 0 then 0
  else if m.global then m.len * 8 / fmtBits m.fmt
  else m.localBlocks slot m.rows (m.base / 131072) * fmtGroup m.fmt

/-- Element index of the `j`-th element delivered. -/
def Strm.elemAt (m : Strm) (slot j : Nat) : Nat :=
  if m.global then j
  else m.localBlock slot m.rows (m.base / 131072) (j / fmtGroup m.fmt) * fmtGroup m.fmt + j % fmtGroup m.fmt

/-- VA of the first byte of element `i`. -/
def Strm.elemVa (m : Strm) (i : Nat) : Nat := m.base + i * fmtBits m.fmt / 8
/-- VA of the scale of element `i`. -/
def Strm.scaleVa (m : Strm) (i : Nat) : Nat := m.scale + i / fmtGroup m.fmt * fmtScaleBytes m.fmt

/-- Lines, by VA, that hold element `i` and its scale. -/
def Strm.linesFor (m : Strm) (i : Nat) : List Nat :=
  let a := m.elemVa i
  let z := m.base + (i * fmtBits m.fmt + fmtBits m.fmt - 1) / 8
  let e := [a / 128 * 128] ++ (if z / 128 ≠ a / 128 then [z / 128 * 128] else [])
  if fmtScaled m.fmt then e ++ [m.scaleVa i / 128 * 128] else e

/-- A byte of the lines fetched. -/
def Strm.byte (m : Strm) (va : Nat) : Nat :=
  match Tab.find m.buf (va / 128 * 128) with
  | some (some d) => (d.getD (va % 128) 0#8).toNat
  | _ => 0

/-- Code of element `i` from the lines fetched. -/
def Strm.code (m : Strm) (i : Nat) : Nat :=
  let a := m.elemVa i
  let b := m.byte a + 256 * m.byte (a + 1) + 65536 * m.byte (a + 2) + 16777216 * m.byte (a + 3)
  b / 2 ^ (i * fmtBits m.fmt % 8) % 2 ^ fmtBits m.fmt

/-- Code of the scale of element `i`. -/
def Strm.scaleCode (m : Strm) (i : Nat) : Nat :=
  let a := m.scaleVa i
  if fmtScaleBytes m.fmt = 1 then m.byte a else if fmtScaleBytes m.fmt = 2 then m.byte a + 256 * m.byte (a + 1) else 0

/-! ### Fetching lines (R284, R285) -/

/-- What fetching a line gives. -/
inductive LineGet where
  /-- The line is on its way: the stream stalls. -/
  | wait
  /-- Refused under R106 or R142. -/
  | refused
  /-- Its bytes; none where it is uncorrectable or poisoned. -/
  | line (d : Option (List Byte))

/-- The home line of an address that partition `p` maps. -/
def State.lineAt (s : State) (p va : Nat) : Option Nat := (s.mapped p va).map (fun e => s.homeDpa e va / 128)

/-- Read a line of partition `p` for a stream or load. -/
def State.streamLine (s : State) (p va : Nat) : LineGet × State :=
  let h := s.handleOf p
  let a := s.agentCheck h va 128 false
  match a.1 with
  | .wait => (.wait, a.2)
  | .fail _ => (.refused, a.2)
  | .ok e =>
    let r := a.2.readFinal e va h []
    match r.1 with
    | .data d => (.line (some d), r.2)
    | .bad _ => (.line none, r.2)

/-- What an instruction that needs stream lines meets. -/
inductive Fetch where
  /-- Every line is in the buffer of `m`. -/
  | ok (m : Strm)
  /-- One is on its way. -/
  | wait
  /-- A fault: code and detail. -/
  | fault (code detail : Nat)

/-- Log a poisoned line that is consumed now although it was fetched before (09 R221). -/
def State.logPoison (s : State) (p va : Nat) : State :=
  match s.lineAt p va with
  | none => s
  | some ln => s.errEvent 6 ln (match s.decode ln [] with | .poisoned f => f | _ => [])

/-- Bring the lines of delivered element number `j` (element `i`) into the buffer. -/
def State.fetchElem (s : State) (p j i : Nat) (m : Strm) : Fetch × State :=
  (m.linesFor i).foldl (fun (r : Fetch × State) ln =>
    match r.1 with
    | .ok m =>
      match Tab.find m.buf ln with
      | some (some _) => r
      | some none => (.fault (if s.poisonMode p then Code.poisonConsumed else Code.streamDataError) (j % 2 ^ 32),
          if m.marked.contains ln then r.2.logPoison p ln else r.2)
      | none =>
        let g := r.2.streamLine p ln
        match g.1 with
        | .wait => (.wait, g.2)
        | .refused => (.fault Code.streamNotMapped (ln % 2 ^ 32), g.2)
        | .line none => (.fault (if s.poisonMode p then Code.poisonConsumed else Code.streamDataError) (j % 2 ^ 32), g.2)
        | .line (some d) => (.ok { m with buf := Tab.set m.buf ln (some d) }, g.2)
    | _ => r) (.ok m, s)

/-- Bring the lines of `n` delivered elements from number `j` on into the buffer. -/
def State.fetchElems (s : State) (p slot : Nat) (m : Strm) (j n : Nat) : Fetch × State :=
  (List.range n).foldl (fun (r : Fetch × State) k =>
    match r.1 with
    | .ok m => r.2.fetchElem p (j + k) (m.elemAt slot (j + k)) m
    | _ => r) (.ok m, s)

/-- The consumption point moved by `n` elements: ENDED at the end of the range, and the lines left behind dropped. -/
def Strm.advance (m : Strm) (slot n : Nat) : Strm :=
  let c := m.consumed + n
  let total := m.total slot
  let m := { m with consumed := c, ended := total ≤ c }
  if total ≤ c then { m with buf := [], marked := [] }
  else
    let i := m.elemAt slot c
    { m with marked := m.marked.filter (fun ln => m.elemVa i < ln + 128 ∨ fmtScaled m.fmt), buf := m.buf.filter (fun b =>
      (m.elemVa i < b.1 + 128 ∧ m.base < b.1 + 128 ∧ b.1 < m.base + m.len)
        ∨ (fmtScaled m.fmt ∧ m.scaleVa i < b.1 + 128)) }

/-- Lines of run-ahead per stream in force (R285, R295). -/
def State.runahead (s : State) : Nat := s.eff K.runaheadKib * 8

/-- Prefetch ahead of the consumption point: how far the stream has come by now is not stated, so the number of lines is a
free value up to the run-ahead; a line that cannot be read now is not prefetched (R285, R286). A poisoned line is logged when it is
consumed (09 R221). -/
def State.prefetch (s : State) (p slot : Nat) (m : Strm) : Strm × State :=
  let d := s.draw (s.runahead + 1)
  let step := max 1 (1024 / max 1 (fmtBits m.fmt))
  (List.range d.1).foldl (fun (r : Strm × State) k =>
    let j := r.1.consumed + k * step
    if j < r.1.total slot then
      (r.1.linesFor (r.1.elemAt slot j)).foldl (fun (r : Strm × State) ln =>
        if (Tab.find r.1.buf ln).isSome || s.runahead ≤ r.1.buf.length then r
        else
          let g := r.2.streamLine p ln
          let home := r.2.lineAt p ln
          let marked : Bool := match home with
            | some h => (match r.2.decode h [] with | .poisoned _ => true | _ => false)
            | none => false
          match g.1, home with
          | .line none, some h => if !marked then ({ r.1 with buf := Tab.set r.1.buf ln none }, g.2)
              else ({ r.1 with buf := Tab.set r.1.buf ln none, marked := r.1.marked ++ [ln] },
                g.2.updStack (lineTile h) (fun k => { k with errLog := (r.2.stack (lineTile h)).errLog }))
          | .line x, _ => ({ r.1 with buf := Tab.set r.1.buf ln x }, g.2)
          | _, _ => (r.1, g.2)) r
    else r) (m, d.2)

/-- Put back a stream after consumption: advance it by `n`, prefetch, and count the bytes consumed. -/
def State.consumed (s : State) (p slot c i : Nat) (m : Strm) (n : Nat) : State :=
  let f := s.prefetch p slot (m.advance slot n)
  let bytes := n * fmtBits m.fmt / 8 + n / fmtGroup m.fmt * fmtScaleBytes m.fmt
  ((f.2.setCtx slot c ((f.2.ctx slot c).setSt i f.1)).engineCount slot 2 bytes)

/-! ### Stream instructions (R325) -/

/-- SOPEN's checks on its operands. -/
def sopenOk (f base len scale : Nat) : Bool :=
  let n := len * 8 / max 1 (fmtBits f)
  base % 8 = 0 && (!fmtGrouped f || scale % 2 = 0) && len * 8 % max 1 (fmtBits f) = 0 && n % fmtGroup f = 0
    && base + len ≤ 2 ^ 48 && (!fmtScaled f || scale + n / fmtGroup f * fmtScaleBytes f ≤ 2 ^ 48)

/-- SOPEN. -/
def execSopen (slot ctx stall t : Nat) (s : State) : Out :=
  .next (s.issueInstr slot ctx stall t (0x18, 0) (fun s k w =>
    let base := (k.gr (iA w)).toNat
    let len := (k.gr (iB w)).toNat
    let scale := if fmtScaled (iFmt w) then (k.gr (iC w)).toNat else 0
    if !sopenOk (iFmt w) base len scale then .fault s Code.illegalInstruction (w % 2 ^ 32)
    else
      let old := k.st_ (iD w)
      let m : Strm := { base := base, len := len, scale := scale, fmt := iFmt w, opened := true, global := bit (iFunc w) 0 }
      let m := { m with ended := m.total slot = 0 }
      let s := s.engineCount slot 3 (old.buf.length * 128)
      match s.ctxOwner slot ctx with
      | none => .stall s
      | some p =>
        let f := s.prefetch p slot m
        .done (f.2.setCtx slot ctx ((f.2.ctx slot ctx).setSt (iD w) f.1)) (k.pc + 8) 0))

/-- SCLOSE. -/
def execSclose (slot ctx stall t : Nat) (s : State) : Out :=
  .next (s.issueInstr slot ctx stall t (0x19, 0) (fun s k w =>
    let m := k.st_ (iD w)
    let s := s.engineCount slot 3 (m.buf.length * 128)
    .done (s.setCtx slot ctx (k.setSt (iD w) { m with opened := false, buf := [], marked := [] })) (k.pc + 8) 0))

/-- SPOS. -/
def execSpos (slot ctx stall t : Nat) (s : State) : Out :=
  .next (s.issueReg slot ctx stall t (0x1A, 0) (fun k w =>
    let m := k.st_ (iA w)
    k.setG (iD w) (BitVec.ofNat 64 (m.consumed % 2 ^ 63 + b2n m.ended * 2 ^ 63))))

/-- SRD. -/
def execSrd (slot ctx stall t : Nat) (s : State) : Out :=
  .next (s.issueInstr slot ctx stall t (0x1B, 0) (fun s k w =>
    let m := k.st_ (iA w)
    if fmtScaled m.fmt ∨ fmtCapacity m.fmt < iImm16 w then .fault s Code.illegalInstruction (w % 2 ^ 32)
    else
      match s.ctxOwner slot ctx with
      | none => .stall s
      | some p =>
        let n := min (iImm16 w) (m.total slot - m.consumed)
        let f := s.fetchElems p slot m m.consumed n
        match f.1 with
        | .wait => .stall f.2
        | .fault code d => .fault f.2 code d
        | .ok m =>
          let v := packElems (fmtBits m.fmt) ((List.range n).map (fun j => m.code (m.elemAt slot (m.consumed + j))))
          let s := f.2.setCtx slot ctx (((f.2.ctx slot ctx).setV (iD w) v).setG (iC w) (BitVec.ofNat 64 n))
          .done (s.consumed p slot ctx (iA w) m n) (k.pc + 8) 0))

/-- SRDX. -/
def execSrdx (slot ctx stall t : Nat) (s : State) : Out :=
  .next (s.issueInstr slot ctx stall t (0x1C, 0) (fun s k w =>
    let m := k.st_ (iA w)
    match s.ctxOwner slot ctx with
    | none => .stall s
    | some p =>
      let n := min (iImm16 w) (m.total slot - m.consumed)
      let f := s.fetchElems p slot m m.consumed n
      match f.1 with
      | .wait => .stall f.2
      | .fault code d => .fault f.2 code d
      | .ok m =>
        let r := (List.range n).map (fun j =>
          let i := m.elemAt slot (m.consumed + j)
          dequant m.fmt (m.code i) (m.scaleCode i) (iSat w))
        let k1 := (((f.2.ctx slot ctx).setV (iD w) (packElems 32 (r.map (·.1)))).setG (iC w) (BitVec.ofNat 64 n)).raise
          (orFlags (r.map (·.2)))
        let s := (f.2.setCtx slot ctx k1).engineCount slot 7 (r.filter (fun x => bit x.2 2)).length
        .done (s.consumed p slot ctx (iA w) m n) (k.pc + 8) 0))

/-! ### The tile store (R326, R350, 12 R291) -/

/-- Bytes of a composite's bitmaps and control state at a slot (15 R350): N bytes rounded up to 64, and 64, for each chunk. -/
def compClaim (n chunks : Nat) : Nat := chunks * (ceilDiv n 64 * 64 + 64)

/-- TARGET of a composite descriptor (15 R345). -/
def cdTarget (d : List Byte) : Nat := leAt d 0 8
/-- ELEMENTS. -/
def cdElements (d : List Byte) : Nat := leAt d 8 4
/-- CONTRIBUTORS. -/
def cdContribs (d : List Byte) : Nat := leAt d 12 2
/-- ELEM_FORMAT. -/
def cdFmt (d : List Byte) : Nat := leAt d 14 1
/-- RESULT_FORMAT. -/
def cdResult (d : List Byte) : Nat := leAt d 15 1
/-- OP. -/
def cdOp (d : List Byte) : Nat := leAt d 16 1
/-- FLAGS: FAST. -/
def cdFast (d : List Byte) : Bool := bit (leAt d 17 1) 0
/-- FLAGS: SAT. -/
def cdSat (d : List Byte) : Bool := bit (leAt d 17 1) 1
/-- WINDOW. -/
def cdWindow (d : List Byte) : Nat := leAt d 18 1
/-- STALL_FRAMES. -/
def cdStall (d : List Byte) : Nat := leAt d 20 2
/-- NOTIFY[i]. -/
def cdNotify (d : List Byte) (i : Nat) : Nat := leAt d (24 + 4 * i) 4
/-- Bytes of a result element. -/
def cdSize (d : List Byte) : Nat := fmtBits (cdResult d) / 8
/-- Chunks of a composite (15 R347). -/
def cdChunks (d : List Byte) : Nat := ceilDiv (cdElements d) 4096
/-- Home slot of a chunk: that of its first result byte. -/
def cdHome (d : List Byte) (c : Nat) : Nat := slotOf (cdTarget d + c * 4096 * cdSize d)
/-- Chunks homed at a slot. -/
def cdHomed (d : List Byte) (slot : Nat) : Nat := ((List.range (cdChunks d)).filter (fun c => cdHome d c = slot)).length
/-- Chunks for which a composite reserves at a slot: min(r, h) (15 R350). -/
def cdReserved (d : List Byte) (slot : Nat) : Nat := min (cdWindow d) (cdHomed d slot)
/-- A chunk of the composite is an exact SUM. -/
def cdExact (d : List Byte) : Bool := cdOp d = 0 && !cdFast d
/-- Accumulator units that a composite reserves at a slot. -/
def cdUnits (d : List Byte) (slot : Nat) : Nat := cdReserved d slot * (if cdExact d then 10 else 1)

/-- Open composites of a partition. -/
def State.openComps (s : State) (p : Nat) : List (Nat × Comp) :=
  s.reels.comps.filter (fun e => e.2.st = 1 && e.2.part = p)

/-- Bytes of a partition's quota at a slot that open composites claim. -/
def State.compClaims (s : State) (p slot : Nat) : Nat :=
  ((s.openComps p).map (fun e => compClaim (cdContribs e.2.desc) (cdReserved e.2.desc slot))).sum

/-- Claims of a sealed partition's pool-operation windows at a slot (12 R291): 256 KiB each. -/
def State.stageClaims (s : State) (p slot : Nat) : Nat :=
  if !s.isSealed p then 0
  else ((s.reels.jobs.filter (fun j => handlePart j.req.h.handle = p)).map (fun j =>
    (j.wins.filter (fun e => e.1 % 32 = slot && e.2 = 2)).length)).sum * 262144

/-- Bytes of a partition's quota at a slot that reel instructions reach. -/
def State.storeReach (s : State) (p slot : Nat) : Nat :=
  s.rd (K.storeQuotas p slot) * 1024 - s.compClaims p slot - s.stageClaims p slot

/-- Key of a byte of a partition's quota at a slot. -/
def storeKey (p slot off : Nat) : Nat := (slot * 64 + p) * 2 ^ 26 + off

/-- Bytes of the tile store. -/
def State.storeBytes (s : State) (p slot off n : Nat) : List Byte :=
  (List.range n).map (fun i => (Tab.find s.reels.store (storeKey p slot off + i)).getD 0#8)

/-- Write bytes of the tile store. -/
def State.putStore (s : State) (p slot off : Nat) (d : List Byte) : State :=
  { s with reels := { s.reels with store := memPuts s.reels.store (storeKey p slot off) d } }

/-- Address of a tile-store or pool access: (Ga + IMM32) with bits [2:0] cleared; IMM32 without a sign (log entry 91). -/
def reelAddr (k : Ctx) (w : Nat) : Nat := ((k.gr (iA w) + BitVec.ofNat 64 (iImm32 w)).toNat) / 8 * 8

/-- The fault of a reel that reads a word whose double-bit error no code corrects: an uncorrectable line in native mode, a marked
one in poison mode (09 R212, 12 R272). -/
def State.badRead (s : State) (p : Nat) : Nat := if s.poisonMode p then Code.poisonConsumed else Code.streamDataError

/-- A tile-store instruction of `n` bytes: it faults outside the quota's reach, waits while the quota is scrubbed, and
otherwise acts through `f` (R326). A load of which `dbl` words hold a double-bit error faults (12 R272); the fault's DETAIL is stated
for streams alone: a free value. -/
def State.storeInstr (s : State) (slot c stall t op n dbl : Nat) (f : State → Nat → Nat → Ctx → Nat → State) : State :=
  s.issueInstr slot c stall t (op, 0) (fun s k w =>
    match s.ctxOwner slot c with
    | none => .stall s
    | some p =>
      let a := reelAddr k w
      if s.reels.scrubStore.contains (slot * 64 + p) then .stall s
      else if s.storeReach p slot < a + n then .fault s Code.tileStoreBounds (a % 2 ^ 32)
      else if dbl ≠ 0 then
        let d := s.draw (2 ^ 32)
        .fault d.2 (s.badRead p) d.1
      else .done ((f s p a k w).spend slot p 9 n) (k.pc + 8) 0)

/-- TLDG. -/
def execTldg (slot ctx stall dbl t : Nat) (s : State) : Out :=
  .next (s.storeInstr slot ctx stall t 0x20 8 dbl (fun s p a k w =>
    s.setCtx slot ctx (k.setG (iD w) (BitVec.ofNat 64 (ofLE (s.storeBytes p slot a 8))))))
/-- TSTG. -/
def execTstg (slot ctx stall t : Nat) (s : State) : Out :=
  .next (s.storeInstr slot ctx stall t 0x21 8 0 (fun s p a k w => s.putStore p slot a (toLE 8 (k.gr (iD w)).toNat)))
/-- TLDV. -/
def execTldv (slot ctx stall dbl t : Nat) (s : State) : Out :=
  .next (s.storeInstr slot ctx stall t 0x22 512 dbl (fun s p a k w =>
    s.setCtx slot ctx (k.setV (iD w) (ofLE (s.storeBytes p slot a 512)))))
/-- TSTV. -/
def execTstv (slot ctx stall t : Nat) (s : State) : Out :=
  .next (s.storeInstr slot ctx stall t 0x23 512 0 (fun s p a k w => s.putStore p slot a (toLE 512 (k.vr (iD w)))))
/-- TLDQ. -/
def execTldq (slot ctx stall dbl t : Nat) (s : State) : Out :=
  .next (s.storeInstr slot ctx stall t 0x24 2048 dbl (fun s p a k w =>
    s.setCtx slot ctx (k.setQ (iD w) (ofLE (s.storeBytes p slot a 2048)))))
/-- TSTQ. -/
def execTstq (slot ctx stall t : Nat) (s : State) : Out :=
  .next (s.storeInstr slot ctx stall t 0x25 2048 0 (fun s p a k w => s.putStore p slot a (toLE 2048 (k.qr (iD w)))))
/-- TLDM. -/
def execTldm (slot ctx stall dbl t : Nat) (s : State) : Out :=
  .next (s.storeInstr slot ctx stall t 0x26 128 dbl (fun s p a k w =>
    s.setCtx slot ctx (k.setM (iD w) (ofLE (s.storeBytes p slot a 128)))))
/-- TSTM. -/
def execTstm (slot ctx stall t : Nat) (s : State) : Out :=
  .next (s.storeInstr slot ctx stall t 0x27 128 0 (fun s p a k w => s.putStore p slot a (toLE 128 (k.mr (iD w)))))

/-! ### Pool loads and stores (R327, R328, R286) -/

/-- PLDG. The DETAIL of the fault that a bad line raises is not stated for a load: a free value. -/
def execPldg (slot ctx stall t : Nat) (s : State) : Out :=
  .next (s.issueInstr slot ctx stall t (0x2A, 0) (fun s k w =>
    match s.ctxOwner slot ctx with
    | none => .stall s
    | some p =>
      let a := reelAddr k w
      let g := s.streamLine p (a / 128 * 128)
      match g.1 with
      | .wait => .stall g.2
      | .refused => .fault g.2 Code.streamNotMapped (a / 128 * 128 % 2 ^ 32)
      | .line none =>
        let d := g.2.draw (2 ^ 32)
        .fault d.2 (s.badRead p) d.1
      | .line (some d) => .done (g.2.setCtx slot ctx ((g.2.ctx slot ctx).setG (iD w) (BitVec.ofNat 64 (leAt d (a % 128) 8)))) (k.pc + 8) 0))

/-- Drop a context's prefetched lines that its store touches, to be read again (R286). -/
def State.ownStore (s : State) (slot c va len : Nat) : State :=
  let k := s.ctx slot c
  let hit := fun (ln : Nat) => (linesOf va len).contains ln
  let n := (k.strm.map (fun e => (e.2.buf.filter (fun b => hit b.1)).length)).sum
  (s.engineCount slot 4 n).setCtx slot c
    { k with strm := k.strm.map (fun e => (e.1, { e.2 with
      buf := e.2.buf.filter (fun b => !hit b.1), marked := e.2.marked.filter (fun ln => !hit ln) })) }

/-- Split bytes at granule boundaries: (address, bytes). -/
def granulePieces (va : Nat) (d : List Byte) : List (Nat × List Byte) :=
  if d.length = 0 then []
  else (List.range ((va + d.length - 1) / 4096 + 1 - va / 4096)).map (fun i =>
    let lo := max va ((va / 4096 + i) * 4096)
    (lo, (d.drop (lo - va)).take ((va / 4096 + i + 1) * 4096 - lo)))

/-- A reel store of bytes `d` at `va` (R327): refused at once by the tile's extent unit, waiting on an erase or recall,
refused later by its home, or made. -/
def State.reelStore (s : State) (slot c p va : Nat) (d : List Byte) (pc : Int) : Ran :=
  let h := s.handleOf p
  let ps := granulePieces va d
  let early := ps.findSome? (fun q =>
    match s.mapped p q.1 with
    | none => some Code.notMapped
    | some e => if s.readOnlyExt p (vaIndex q.1) e then some Code.readOnly else none)
  match early with
  | some st => .fault s Code.storeRefused st
  | none =>
    let chk := ps.foldl (fun (r : List AgentCheck × State) q =>
      let a := r.2.agentCheck h q.1 q.2.length true
      (r.1 ++ [a.1], a.2)) ([], s)
    if chk.1.contains .wait then .stall chk.2
    else
      let s := (chk.1.zip ps).foldl (fun s q =>
        match q.1 with
        | .ok e =>
          let w := s.agentWrite p e q.2.1 q.2.2 h
          let bad := (w.1.filter (fun x => !x)).length
          if bad = 0 then w.2 else w.2.meterAdd p Mt.faults bad
        | .fail st => s.setCtx slot c { s.ctx slot c with refusals := (s.ctx slot c).refusals ++ [st] }
        | .wait => s) chk.2
      .done (s.ownStore slot c va d.length) pc 0

/-- PSTG. -/
def execPstg (slot ctx stall t : Nat) (s : State) : Out :=
  .next (s.issueInstr slot ctx stall t (0x2B, 0) (fun s k w =>
    match s.ctxOwner slot ctx with
    | none => .stall s
    | some p => s.reelStore slot ctx p (reelAddr k w) (toLE 8 (k.gr (iD w)).toNat) (k.pc + 8)))

/-- PSTV. -/
def execPstv (slot ctx stall t : Nat) (s : State) : Out :=
  .next (s.issueInstr slot ctx stall t (0x2C, 0) (fun s k w =>
    match s.ctxOwner slot ctx with
    | none => .stall s
    | some p => s.reelStore slot ctx p ((k.gr (iA w)).toNat / 8 * 8) (toLE (iImm16 w) (k.vr (iD w))) (k.pc + 8)))

end Sys2Proof.Machine
end

