-- ==== Sys2Proof/Machine/ReelVector.lean ====
section
/-!
DEFINITION. Vector, special-function, conversion, reduction and matrix instructions of reels (14 R329 to R337).
-/

namespace Sys2Proof.Machine

/-! ### Elementwise results (R317, R330) -/

/-- Element `i` is governed by the mask, if the instruction applies one (R317). -/
def lane (k : Ctx) (w i : Nat) : Bool := !iMen w || bit (k.mr (iMsk w)) i

/-- The stochastic bits of element `i` (12 R280). -/
def laneBits (k : Ctx) (i : Nat) : Nat := srBits k.seed.toNat k.ctr.toNat i

/-- Results of `n` elements: an element that the mask excludes keeps its value in `old`, raises no flag and draws nothing. -/
structure Lanes where
  /-- The destination's bit string. -/
  value : Nat
  /-- Flags of the elements computed. -/
  flags : List Flags
deriving DecidableEq, Repr

/-- Compute `n` elements of `bits` bits by `g` over a destination that holds `old`. -/
def lanes (k : Ctx) (w bits n old : Nat) (g : Nat → Nat × Flags) : Lanes :=
  let l := (List.range n).map (fun i => if lane k w i then (g i, true) else ((elemOf bits old i, 0), false))
  ⟨packElems bits (l.map (·.1.1)), (l.filter (·.2)).map (·.1.2)⟩

/-- Raise the flags of an instruction's elements, count them (12 R295), and advance SR_COUNTER if it rounds stochastically
(12 R280). -/
def State.tally (s : State) (slot c w : Nat) (l : List Flags) (conv : Bool) : State :=
  let k := (s.ctx slot c).raise (orFlags l)
  let k := if iRm w = 2 then { k with ctr := k.ctr + 1 } else k
  let s := (s.setCtx slot c k).engineCount slot 7 (if conv then (l.filter (fun f => bit f 2)).length else 0)
  let s := s.engineCount slot 8 (l.filter (fun f => bit f 0)).length
  s.engineCount slot 9 (if iRm w = 2 then l.length else 0)

/-- A vector instruction of format FMT over the whole register: element `i` of Vd is `g`'s result (R329). -/
def State.vector (s : State) (slot c stall t op : Nat) (g : Ctx → Nat → Nat → Nat × Flags) : State :=
  s.issueInstr slot c stall t (op, 0) (fun s k w =>
    let f := iFmt w
    let r := lanes k w (fmtBits f) (fmtCapacity f) (k.vr (iD w)) (g k w)
    .done ((s.setCtx slot c (k.setV (iD w) r.value)).tally slot c w r.flags false) (k.pc + 8) 0)

/-- Element `i` of Va in FMT. -/
def vA (k : Ctx) (w i : Nat) : Nat := elemOf (fmtBits (iFmt w)) (k.vr (iA w)) i
/-- Element `i` of Vb. -/
def vB (k : Ctx) (w i : Nat) : Nat := elemOf (fmtBits (iFmt w)) (k.vr (iB w)) i
/-- Element `i` of Vc. -/
def vC (k : Ctx) (w i : Nat) : Nat := elemOf (fmtBits (iFmt w)) (k.vr (iC w)) i

/-- Arithmetic on codes under the word's FMT, RM and SAT. -/
def arith (k : Ctx) (w i : Nat) (codes : List Nat) (fl : List Num → Num) (int : List Int → Int) : Nat × Flags :=
  vecArith (iFmt w) (iRm w) (laneBits k i) (iSat w) codes fl int

/-- First number of a list. -/
def n0 (l : List Num) : Num := l.getD 0 .nan
/-- Second. -/
def n1 (l : List Num) : Num := l.getD 1 .nan
/-- Third. -/
def n2 (l : List Num) : Num := l.getD 2 .nan
/-- First integer of a list. -/
def i0 (l : List Int) : Int := l.getD 0 0
/-- Second. -/
def i1 (l : List Int) : Int := l.getD 1 0
/-- Third. -/
def i2 (l : List Int) : Int := l.getD 2 0

/-! ### Vector arithmetic (R329) -/

/-- VADD. -/
def execVadd (slot ctx stall t : Nat) (s : State) : Out :=
  .next (s.vector slot ctx stall t 0x30 (fun k w i =>
    arith k w i [vA k w i, vB k w i] (fun l => (n0 l).add (n1 l)) (fun l => i0 l + i1 l)))
/-- VSUB. -/
def execVsub (slot ctx stall t : Nat) (s : State) : Out :=
  .next (s.vector slot ctx stall t 0x31 (fun k w i =>
    arith k w i [vA k w i, vB k w i] (fun l => (n0 l).add (n1 l).neg) (fun l => i0 l - i1 l)))
/-- VMUL. -/
def execVmul (slot ctx stall t : Nat) (s : State) : Out :=
  .next (s.vector slot ctx stall t 0x32 (fun k w i =>
    arith k w i [vA k w i, vB k w i] (fun l => (n0 l).mul (n1 l)) (fun l => i0 l * i1 l)))
/-- VFMA: rounded once. -/
def execVfma (slot ctx stall t : Nat) (s : State) : Out :=
  .next (s.vector slot ctx stall t 0x33 (fun k w i =>
    arith k w i [vA k w i, vB k w i, vC k w i] (fun l => ((n0 l).mul (n1 l)).add (n2 l)) (fun l => i0 l * i1 l + i2 l)))
/-- VMIN. -/
def execVmin (slot ctx stall t : Nat) (s : State) : Out :=
  .next (s.vector slot ctx stall t 0x34 (fun k w i => (pick2 (iFmt w) false (vA k w i) (vB k w i), 0)))
/-- VMAX. -/
def execVmax (slot ctx stall t : Nat) (s : State) : Out :=
  .next (s.vector slot ctx stall t 0x35 (fun k w i => (pick2 (iFmt w) true (vA k w i) (vB k w i), 0)))
/-- VAND. -/
def execVand (slot ctx stall t : Nat) (s : State) : Out :=
  .next (s.vector slot ctx stall t 0x36 (fun k w i => (vA k w i &&& vB k w i, 0)))
/-- VOR. -/
def execVor (slot ctx stall t : Nat) (s : State) : Out :=
  .next (s.vector slot ctx stall t 0x37 (fun k w i => (vA k w i ||| vB k w i, 0)))
/-- VXOR. -/
def execVxor (slot ctx stall t : Nat) (s : State) : Out :=
  .next (s.vector slot ctx stall t 0x38 (fun k w i => (vA k w i ^^^ vB k w i, 0)))

/-- VCMP: bits of Md beyond the element count are cleared. -/
def State.vcmp (s : State) (slot c stall t sel : Nat) : State :=
  s.issueReg slot c stall t (0x39, sel) (fun k w =>
    let n := fmtCapacity (iFmt w)
    let old := k.mr (iD w)
    k.setM (iD w) (packElems 1 ((List.range n).map (fun i =>
      if lane k w i then b2n (compareCodes (iFmt w) sel (vA k w i) (vB k w i)) else b2n (bit old i)))))
/-- VCMP EQ. -/
def execVcmpEq (slot ctx stall t : Nat) (s : State) : Out := .next (s.vcmp slot ctx stall t 0)
/-- VCMP NE. -/
def execVcmpNe (slot ctx stall t : Nat) (s : State) : Out := .next (s.vcmp slot ctx stall t 1)
/-- VCMP LT. -/
def execVcmpLt (slot ctx stall t : Nat) (s : State) : Out := .next (s.vcmp slot ctx stall t 2)
/-- VCMP LE. -/
def execVcmpLe (slot ctx stall t : Nat) (s : State) : Out := .next (s.vcmp slot ctx stall t 3)

/-- VSEL: the mask selects rather than guards. -/
def execVsel (slot ctx stall t : Nat) (s : State) : Out :=
  .next (s.issueReg slot ctx stall t (0x3A, 0) (fun k w =>
    k.setV (iD w) (packElems (fmtBits (iFmt w)) ((List.range (fmtCapacity (iFmt w))).map (fun i =>
      if bit (k.mr (iMsk w)) i then vA k w i else vB k w i)))))
/-- VBCAST. -/
def execVbcast (slot ctx stall t : Nat) (s : State) : Out :=
  .next (s.vector slot ctx stall t 0x3B (fun k w _ => ((k.gr (iA w)).toNat % 2 ^ fmtBits (iFmt w), 0)))
/-- VMOV. -/
def execVmov (slot ctx stall t : Nat) (s : State) : Out :=
  .next (s.vector slot ctx stall t 0x3C (fun k w i => (vA k w i, 0)))

/-! ### Accumulator moves (R329) -/

/-- QRD. -/
def execQrd (slot ctx stall t : Nat) (s : State) : Out :=
  .next (s.issueReg slot ctx stall t (0x3D, 0) (fun k w =>
    let j := 128 * (iImm16 w % 4)
    k.setV (iD w) (lanes k w 32 128 (k.vr (iD w)) (fun i => (elemOf 32 (k.qr (iA w)) (j + i), 0))).value))
/-- QWR. -/
def execQwr (slot ctx stall t : Nat) (s : State) : Out :=
  .next (s.issueReg slot ctx stall t (0x3E, 0) (fun k w =>
    let j := 128 * (iImm16 w % 4)
    let old := k.qr (iD w)
    k.setQ (iD w) (packElems 32 ((List.range 512).map (fun i =>
      if j ≤ i && i < j + 128 && lane k w (i - j) then elemOf 32 (k.vr (iA w)) (i - j) else elemOf 32 old i)))))
/-- QZERO. -/
def execQzero (slot ctx stall t : Nat) (s : State) : Out :=
  .next (s.issueReg slot ctx stall t (0x3F, 0) (fun k w => k.setQ (iD w) 0))

/-! ### Special functions (R334) -/

/-- SFN with a function selector. -/
def State.sfn (s : State) (slot c stall t sel : Nat) : State :=
  s.issueInstr slot c stall t (0x48, sel) (fun s k w =>
    let r := lanes k w 32 128 (k.vr (iD w)) (fun i => specialFn sel (elemOf 32 (k.vr (iA w)) i))
    .done (((s.setCtx slot c (k.setV (iD w) r.value)).tally slot c w r.flags false).engineCount slot 1 r.flags.length |>.spendCtx slot c 8 128) (k.pc + 8) 0)
/-- SFN exp2. -/
def execSfnExp2 (slot ctx stall t : Nat) (s : State) : Out := .next (s.sfn slot ctx stall t 0)
/-- SFN log2. -/
def execSfnLog2 (slot ctx stall t : Nat) (s : State) : Out := .next (s.sfn slot ctx stall t 1)
/-- SFN reciprocal. -/
def execSfnReciprocal (slot ctx stall t : Nat) (s : State) : Out := .next (s.sfn slot ctx stall t 2)
/-- SFN reciprocal square root. -/
def execSfnRsqrt (slot ctx stall t : Nat) (s : State) : Out := .next (s.sfn slot ctx stall t 3)
/-- SFN tanh. -/
def execSfnTanh (slot ctx stall t : Nat) (s : State) : Out := .next (s.sfn slot ctx stall t 4)

/-! ### Conversions (R335) -/

/-- The source bit string of a conversion: the span at Va, or Qa. -/
def convSource (k : Ctx) (w bits : Nat) : Nat :=
  if bit (iFunc w) 0 then k.qr (iA w) else k.span (iA w) (spanRegs bits (iCount w))

/-- VCVT. -/
def execVcvt (slot ctx stall t : Nat) (s : State) : Out :=
  .next (s.issueInstr slot ctx stall t (0x50, 0) (fun s k w =>
    let src := iFmt w
    let dst := fld w 15 11
    let n := spanRegs (fmtBits dst) (iCount w)
    let x := convSource k w (fmtBits src)
    let r := lanes k w (fmtBits dst) (iCount w) (k.span (iD w) n) (fun i =>
      roundFmt dst (iRm w) (laneBits k i) (iSat w) (fmtValue src (elemOf (fmtBits src) x i)))
    .done ((s.setCtx slot ctx (k.setSpan (iD w) n r.value)).tally slot ctx w r.flags true) (k.pc + 8) 0))

/-- The low `n` bits of `new` over `old`. -/
def lowBits (old n new : Nat) : Nat := old / 2 ^ n * 2 ^ n + new % 2 ^ n

/-- VQNT. What lies beyond the elements and scales written stays as it was (log entry 32). -/
def execVqnt (slot ctx stall t : Nat) (s : State) : Out :=
  .next (s.issueInstr slot ctx stall t (0x51, 0) (fun s k w =>
    let f := iFmt w
    let g := fmtGroup f
    let count := iCount w
    let x := convSource k w 32
    let blocks := (List.range (count / g)).map (fun b =>
      quantise f (iRm w) (fun i => laneBits k (b * g + i)) ((List.range g).map (fun i => fmt32.decode (elemOf 32 x (b * g + i)))))
    let elems := (blocks.map (·.2)).flatten
    let n := spanRegs (fmtBits f) count
    let old := k.span (iD w) n
    let r := lanes k w (fmtBits f) count old (fun i => elems.getD i (0, 0))
    let scales := packElems (8 * fmtScaleBytes f) (blocks.map (·.1))
    let k1 := (k.setSpan (iD w) n (lowBits old (count * fmtBits f) r.value)).setV (iB w)
      (lowBits (k.vr (iB w)) (8 * fmtScaleBytes f * (count / g)) scales)
    .done ((s.setCtx slot ctx k1).tally slot ctx w r.flags true) (k.pc + 8) 0))

/-- VDQ. -/
def execVdq (slot ctx stall t : Nat) (s : State) : Out :=
  .next (s.issueInstr slot ctx stall t (0x52, 0) (fun s k w =>
    let f := iFmt w
    let g := fmtGroup f
    let count := iCount w
    let x := k.span (iA w) (spanRegs (fmtBits f) count)
    let sc := k.vr (iB w)
    let q := bit (iFunc w) 0
    let n := spanRegs 32 count
    let old := if q then k.qr (iD w) else k.span (iD w) n
    let r := lanes k w 32 count old (fun i =>
      dequant f (elemOf (fmtBits f) x i) (elemOf (8 * fmtScaleBytes f) sc (i / g)) (iSat w))
    let v := lowBits old (count * 32) r.value
    let k1 := if q then k.setQ (iD w) v else k.setSpan (iD w) n v
    .done ((s.setCtx slot ctx k1).tally slot ctx w r.flags true) (k.pc + 8) 0))

/-! ### Reductions and top-k (R336, R337) -/

/-- Source elements of a reduction that the mask permits, as (index, code): of Qa where FUNC[3] is 1, else of Va in FMT. -/
def redSource (k : Ctx) (w f : Nat) : List (Nat × Nat) :=
  let q := bit (iFunc w) 3
  let l := if q then elemsOf 32 512 (k.qr (iA w)) else elemsOf (fmtBits f) (fmtCapacity f) (k.vr (iA w))
  (l.zipIdx.map (fun e => (e.2, e.1))).filter (fun e => lane k w e.1)

/-- The canonical NaN that a reduction of nothing gives. -/
abbrev redNan : Nat := 0x7FC00000

/-- A chosen element as the result block carries it: binary32, or INT64 (12 R293). -/
def redValue (f code : Nat) : Nat :=
  if fmtInt f then ofSigned 64 (toSigned (fmtBits f) code) else (fmt32.round 0 0 false (fmtValue f code)).1

/-- An exact lane sum: the result and its flags. -/
def redSum (f : Nat) (l : List (Nat × Nat)) : Nat × Flags :=
  if l.isEmpty then (redNan, 0)
  else if fmtInt f then
    let x := satInt64 ((l.map (fun e => toSigned (fmtBits f) e.2)).foldl (· + ·) 0)
    (x.1, if x.2 then fSaturated else 0)
  else
    let ops := l.map (fun e => fmtValue f e.2)
    roundResult 0 0 0 false ops (ops.foldl ExactSum.add {}).value

/-- VRED with a selector: 0 SUM, 1 MIN, 2 MAX, 3 ARGMAX. -/
def State.vred (s : State) (slot c stall t sel : Nat) : State :=
  s.issueInstr slot c stall t (0x58, sel) (fun s k w =>
    let f := iFmt w
    let l := redSource k w f
    let r : Nat × Flags :=
      if sel = 0 then redSum f l
      else match choose f (sel ≠ 1) l with
        | none => (if sel = 3 then 0xFFFFFFFF else redNan, 0)
        | some e => (if sel = 3 then e.1 else redValue f e.2, 0)
    .done ((s.setCtx slot c (k.setG (iD w) (BitVec.ofNat 64 r.1))).tally slot c w [r.2] false) (k.pc + 8) 0)
/-- VRED SUM. -/
def execVredSum (slot ctx stall t : Nat) (s : State) : Out := .next (s.vred slot ctx stall t 0)
/-- VRED MIN. -/
def execVredMin (slot ctx stall t : Nat) (s : State) : Out := .next (s.vred slot ctx stall t 1)
/-- VRED MAX. -/
def execVredMax (slot ctx stall t : Nat) (s : State) : Out := .next (s.vred slot ctx stall t 2)
/-- VRED ARGMAX. -/
def execVredArgmax (slot ctx stall t : Nat) (s : State) : Out := .next (s.vred slot ctx stall t 3)

/-- Candidate `a` (index, binary32 code) ranks before `b`. -/
def topBefore (a b : Nat × Nat) : Bool := codeLt 0 b.2 a.2 || (!codeLt 0 a.2 b.2 && a.1 < b.1)

/-- Insert a candidate in rank order. -/
def topInsert (a : Nat × Nat) : List (Nat × Nat) → List (Nat × Nat)
  | [] => [a]
  | b :: t => if topBefore a b then a :: b :: t else b :: topInsert a t

/-- TOPK. -/
def execTopk (slot ctx stall t : Nat) (s : State) : Out :=
  .next (s.issueReg slot ctx stall t (0x59, 0) (fun k w =>
    let n := iImm16 w % 64 + 1
    let base := (k.gr (iB w)).toNat
    let fresh := (redSource k w 0).map (fun e => ((base + e.1) % 2 ^ 32, e.2))
    let old := if bit (iFunc w) 0 then
        (List.range n).map (fun i => (elemOf 32 (k.vr (iD w + 1)) i, elemOf 32 (k.vr (iD w)) i)) else []
    let best := (((old ++ fresh).filter (fun e => !(fmt32.decode e.2).isNan)).foldl (fun l e => (topInsert e l).take n) []).take n
    let full := best ++ List.replicate (n - best.length) (0xFFFFFFFF, redNan)
    (k.setV (iD w) (lowBits (k.vr (iD w)) (32 * n) (packElems 32 (full.map (·.2))))).setV (iD w + 1)
      (lowBits (k.vr (iD w + 1)) (32 * n) (packElems 32 (full.map (·.1))))))

/-! ### Matrix-from-stream (R331 to R333, 12 R271) -/

/-- Batch of an MFS word. -/
def mfsB (w : Nat) : Nat := fld w 15 12 + 1
/-- Row length K. -/
def mfsK (w : Nat) : Nat := fld w 11 0 * 32

/-- One run of products: summed exactly, scaled, rounded to binary32, and added to the accumulator with a second rounding
(12 R271, R277). -/
def macRun (acc : Nat) (ws xs : List Num) (wscale xscale : Num) : Nat × Flags :=
  let ops := wscale :: xscale :: (ws ++ xs)
  let sum : Num := (ws.zip xs).foldl (fun (a : Num) e => a.add (e.1.mul e.2)) (.fin false 0 1)
  let r := roundResult 0 0 0 false ops ((sum.mul wscale).mul xscale)
  let a := fmt32.decode acc
  let p := fmt32.decode r.1
  let q := roundResult 0 0 0 false [a, p] (a.add p)
  (q.1, r.2 ||| q.2)

/-- The streamed matrix as an MFS sees it: element and scale of row `n`, column `i`, and activation `x(b, i)` with its scale. -/
structure Mfs where
  /-- w(n, i). -/
  wt : Nat → Nat → Num
  /-- wscale(n, j). -/
  wscale : Nat → Nat → Num
  /-- x(b, i). -/
  act : Nat → Nat → Num
  /-- xscale(b, j). -/
  xscale : Nat → Nat → Num

/-- Accumulate one plain-form output of row `n` and vector `b`, in runs of 32 along the row. -/
def mfsPlain (m : Mfs) (kk n b acc : Nat) : Nat × Flags :=
  (List.range (kk / 32)).foldl (fun r j =>
    let idx := (List.range 32).map (fun i => j * 32 + i)
    let q := macRun r.1 (idx.map (m.wt n)) (idx.map (m.act b)) (m.wscale n (j * 32)) (m.xscale b (j * 32))
    (q.1, r.2 ||| q.2)) (acc, 0)

/-- Accumulate one transposed output of column `c` and vector `b` over rows `lo` to `hi`, in runs of 32 rows. -/
def mfsTrans (m : Mfs) (lo hi c b acc : Nat) : Nat × Flags :=
  (List.range (ceilDiv (hi - lo) 32)).foldl (fun r j =>
    let rows := (List.range (min 32 (hi - lo - j * 32))).map (fun i => lo + j * 32 + i)
    let q := macRun r.1 (rows.map (fun n => m.wt n c)) (rows.map (m.act b)) (.fin false 1 1) (.fin false 1 1)
    (q.1, r.2 ||| q.2)) (acc, 0)

/-- The limits of R331 to R333 that the operands decide. -/
def mfsOk (w : Nat) (trans : Bool) (m : Strm) (slot n done : Nat) : Bool :=
  let b := mfsB w
  let kk := mfsK w
  let f := iFmt w
  let len := if trans then n else kk
  let regs := spanRegs (fmtBits f) (b * len)
  1 ≤ n && n ≤ 512 && (if trans then kk * b ≤ 512 && !fmtScaled m.fmt else n * b ≤ 512)
    && fmtRate m.fmt ≠ 0 && ((1 ≤ f && f ≤ 4) || f = m.fmt) && regs ≤ 16
    && iB w + regs + (if fmtScaled f then 1 else 0) ≤ 32
    && kk % fmtGroup m.fmt = 0 && m.opened && (n - done) * kk ≤ m.total slot - m.consumed

/-- MFS in one of its forms. `rows` are the rows finished before the slate guard; all of them where it is not reached. An
interrupted MFS commits whole rows, or whole runs of 32 rows, and records them in RESUME (R321). -/
def State.mfs (s : State) (slot c stall t rows : Nat) (trans : Bool) : State :=
  s.issueInstr slot c stall t (0x40, b2n trans) (fun s k w =>
    let m := k.st_ (iA w)
    let n := (k.gr (iC w)).toNat
    let b := mfsB w
    let kk := mfsK w
    let f := iFmt w
    let from_ := match k.resume with | some (0x40, 1, p) => p | _ => 0
    if !mfsOk w trans m slot n from_ then .fault s Code.illegalInstruction (w % 2 ^ 32)
    else
      match s.ctxOwner slot c with
      | none => .stall s
      | some p =>
        let upto := if n ≤ from_ + rows then n else if trans then (from_ + rows) / 32 * 32 else from_ + rows
        if upto ≤ from_ ∧ upto < n then .stall s
        else
          let fetch := s.fetchElems p slot m m.consumed ((upto - from_) * kk)
          match fetch.1 with
          | .wait => .stall fetch.2
          | .fault code d => .fault fetch.2 code d
          | .ok m =>
            let len := if trans then n else kk
            let regs := spanRegs (fmtBits f) (b * len)
            let span := k.span (iB w) regs
            let idx := fun (r i : Nat) => m.elemAt slot (m.consumed + (r - from_) * kk + i)
            let mat : Mfs := {
              wt := fun r i => fmtValue m.fmt (m.code (idx r i))
              wscale := fun r j => scaleValue m.fmt (m.scaleCode (idx r j))
              act := fun v i => fmtValue f (elemOf (fmtBits f) span (v * len + i))
              xscale := fun v j => scaleValue f
                (elemOf (8 * fmtScaleBytes f) (k.vr (iB w + regs)) ((v * len + j) / fmtGroup f)) }
            let q0 := if bit (iFunc w) 1 ∧ from_ = 0 then 0 else k.qr (iD w)
            let res := (List.range 512).map (fun e =>
              let acc := elemOf 32 q0 e
              if trans then (if e < kk * b then mfsTrans mat from_ upto (e / b) (e % b) acc else (acc, 0))
              else (if from_ * b ≤ e && e < upto * b then mfsPlain mat kk (e / b) (e % b) acc else (acc, 0)))
            let rate := fmtRate m.fmt / (if s.rd (K.splitMode slot) = 1 then 4 else 1)
            let s := (fetch.2.setCtx slot c (k.setQ (iD w) (packElems 32 (res.map (·.1))))).tally slot c w (res.map (·.2)) false
            let s := (s.consumed p slot c (iA w) m ((upto - from_) * kk)).engineCount slot 0
              (ceilDiv ((upto - from_) * kk * b) (max 1 rate))
            let unit := if fmtBits m.fmt = 16 ∨ fmtBits f = 16 then 5 else if fmtBits m.fmt = 8 then 6 else 7
            let s := s.spend slot p unit ((upto - from_) * kk * b)
            if upto = n then .done s (k.pc + 8) 0
            else .held (s.setCtx slot c { s.ctx slot c with resume := some (0x40, 1, upto) }))

/-- MFS, plain form. -/
def execMfs (slot ctx stall rows t : Nat) (s : State) : Out := .next (s.mfs slot ctx stall t rows false)
/-- MFS, transposed form. -/
def execMfsTransposed (slot ctx stall rows t : Nat) (s : State) : Out := .next (s.mfs slot ctx stall t rows true)

end Sys2Proof.Machine
end

