-- ==== Sys2Proof/Machine/PoolOps.lean ====
section
/-!
DEFINITION. Pool operations (12 R288 to R294): FILL, COPY, COMPARE and REDUCE, slot by slot, with the staged windows of
COPY and COMPARE.
-/

namespace Sys2Proof.Machine

/-! ### The command block (R289) -/

/-- OP: 1 FILL, 2 COPY, 3 COMPARE, 4 REDUCE. -/
def poOp (b : List Byte) : Nat := leAt b 0 1
/-- FORMAT. -/
def poFmt (b : List Byte) : Nat := leAt b 1 1
/-- FUNC. -/
def poFunc (b : List Byte) : Nat := leAt b 2 1
/-- PLEN. -/
def poPlen (b : List Byte) : Nat := leAt b 3 1
/-- ADDR_A. -/
def poA (b : List Byte) : Nat := leAt b 8 8
/-- ADDR_B. -/
def poB (b : List Byte) : Nat := leAt b 16 8
/-- LENGTH. -/
def poLen (b : List Byte) : Nat := leAt b 24 8
/-- PATTERN. -/
def poPat (b : List Byte) : Nat := leAt b 32 8

/-- The operation uses a second range. -/
def poTwo (b : List Byte) : Bool := poOp b = 2 || poOp b = 3

/-- The first two checks of R290. -/
def poFormOk (b : List Byte) : Bool :=
  let op := poOp b
  let red := op = 4
  1 ≤ op && op ≤ 4 && (if red then fmtReduce (poFmt b) && poFunc b ≤ 3 else poFmt b = 0 && poFunc b = 0)
    && (if op = 1 then [1, 2, 4, 8].contains (poPlen b) else poPlen b = 0)
    && leAt b 4 4 = 0 && leAt b 40 24 = 0 && (poTwo b || poB b = 0) && 1 ≤ poLen b && poLen b ≤ 2 ^ 36
    && poA b + poLen b ≤ 2 ^ 48 && poB b + poLen b ≤ 2 ^ 48
    && (!red || (poA b % (fmtBits (poFmt b) / 8) = 0 && poLen b % (fmtBits (poFmt b) / 8) = 0))
    && (op ≠ 2 || poA b + poLen b ≤ poB b || poB b + poLen b ≤ poA b)

/-- One address in each 256 MiB extent that a range touches. -/
def extentVas (va len : Nat) : List Nat :=
  if len = 0 then [] else (List.range ((va + len - 1) / 2 ^ 28 + 1 - va / 2 ^ 28)).map (fun i => max va ((va / 2 ^ 28 + i) * 2 ^ 28))

/-- Every granule of a range is mapped: mapping goes by extents. -/
def State.rangeMapped (s : State) (p va len : Nat) : Bool := (extentVas va len).all (fun v => (s.mapped p v).isSome)

/-- The checks of R290, with the key and hold rules of R148: the status of the first that fails. -/
def State.poolCheck (s : State) (r : Req) : Option Nat :=
  let b := r.body
  let p := handlePart r.h.handle
  let dst := poOp b = 1 || poOp b = 2
  if !s.handleLive r.h.handle then some Code.staleHandle
  else if !poFormOk b then some Code.badCommand
  else if !s.rangeMapped p (poA b) (poLen b) || (poTwo b && !s.rangeMapped p (poB b) (poLen b)) then some Code.notMapped
  else if dst && (extentVas (poA b) (poLen b)).any (fun v => s.readOnlyExt p (vaIndex v) (s.entry p (vaIndex v))) then some Code.readOnly
  else if dst && (extentVas (poA b) (poLen b)).any (fun v =>
      let e := s.entry p (vaIndex v)
      eHeld e && eHolder e ≠ r.bind) then some Code.noAccess
  else if poTwo b && s.isSealed p
      && (List.range 32).any (fun i => s.rd (K.storeQuotas p i) * 1024 < s.compClaims p i + 262144) then some Code.quotaExceeded
  else none

/-! ### Jobs -/

/-- The job of request `id` of port `port`. -/
def State.job (s : State) (port id : Nat) : Option PoolJob :=
  s.reels.jobs.find? (fun j => j.req.port = port && j.req.id = id)
/-- Replace a job. -/
def State.setJob (s : State) (j : PoolJob) : State :=
  { s with reels := { s.reels with jobs := s.reels.jobs.map (fun x => if x.req.port = j.req.port ∧ x.req.id = j.req.id then j else x) } }
/-- Remove a job. -/
def State.dropJob (s : State) (j : PoolJob) : State :=
  { s with reels := { s.reels with jobs := s.reels.jobs.filter (fun x => !(x.req.port = j.req.port ∧ x.req.id = j.req.id)) } }

/-- Partition of a job. -/
def PoolJob.part (j : PoolJob) : Nat := handlePart j.req.h.handle
/-- Its command block. -/
def PoolJob.cmd (j : PoolJob) : List Byte := j.req.body
/-- Its progress at a slot: 0 queued, 1 in progress, 2 finished. -/
def PoolJob.at_ (j : PoolJob) (slot : Nat) : Nat := Tab.getD j.slots slot 0
/-- Slot of its coordinator: the home of the first byte of the first range (R288). -/
def PoolJob.coord (j : PoolJob) : Nat := slotOf (poA j.cmd)

/-- Operations of a partition in progress at a slot (R288, POOL_OP_ACTIVE). -/
def State.poolActive (s : State) (slot p : Nat) : Nat := (s.reels.jobs.filter (fun j => j.part = p && j.at_ slot = 1)).length

/-- Record the lowest failing offset of a job. -/
def PoolJob.fail (j : PoolJob) (off : Nat) : PoolJob := { j with bad := some (match j.bad with | some x => min x off | none => off) }
/-- Record a refusal under R142: the operation ends with NOT_MAPPED. -/
def PoolJob.refused (j : PoolJob) (off : Nat) : PoolJob :=
  { j with stop := some Code.notMapped, stopAt := if j.stop.isSome then min j.stopAt off else off }

/-- 8 MiB windows of range offset (R291). -/
def PoolJob.windows (j : PoolJob) : Nat := ceilDiv (poLen j.cmd) 0x800000
/-- In native mode a failed line of COPY, and in COMPARE the first mismatch or bad line, ends the operation with its window. -/
def State.jobWindows (s : State) (j : PoolJob) : Nat :=
  let stopAt := (if j.stop.isSome then [j.stopAt] else [])
    ++ (match j.bad with | some x => if poOp j.cmd = 3 || !s.poisonMode j.part then [x] else [] | none => [])
    ++ (match j.diff with | some x => if poOp j.cmd = 3 then [x] else [] | none => [])
  stopAt.foldl (fun n x => min n (x / 0x800000 + 1)) j.windows

/-- A window is done at every slot. -/
def PoolJob.winDone (j : PoolJob) (w : Nat) : Bool := (List.range 32).all (fun i => Tab.getD j.wins (w * 32 + i) 0 = 3)
/-- The windows in flight: the first two that are not done (R291). -/
def State.inFlight (s : State) (j : PoolJob) : List Nat :=
  ((List.range (s.jobWindows j)).filter (fun w => !j.winDone w)).take 2

/-! ### Staging buffers and claims (R291) -/

/-- Windows of a job that wait for a buffer at a slot, or hold one (`v` 1 or 2). -/
def PoolJob.winsAt (j : PoolJob) (slot v : Nat) : List Nat :=
  ((j.wins.filter (fun e => e.1 % 32 = slot && e.2 = v)).map (fun e => e.1 / 32))

/-- Shared partitions' windows that hold one of the unit's two buffers at a slot. -/
def State.buffersUsed (s : State) (slot : Nat) : Nat :=
  ((s.reels.jobs.filter (fun j => !s.isSealed j.part)).map (fun j => (j.winsAt slot 2).length)).sum

/-- The windows of a partition that hold a buffer or claim at some slot: (port, request, window). -/
def State.holders (s : State) (p : Nat) : List (Nat × Nat × Nat) :=
  (((s.reels.jobs.filter (fun j => j.part = p)).map (fun j =>
    (j.wins.filter (fun e => e.2 = 2)).map (fun e => (j.req.port, j.req.id, e.1 / 32)))).flatten).eraseDups

/-- Window `w` of a sealed partition's job may claim at a slot (R291): 256 KiB of the quota there are unclaimed, and at most two
windows of the partition hold claims at once. -/
def State.mayHold (s : State) (j : PoolJob) (slot w : Nat) : Bool :=
  let l := s.holders j.part
  decide (262144 ≤ s.storeReach j.part slot) && (decide (l.length < 2) || l.contains (j.req.port, j.req.id, w))

/-- The job and window that a free buffer at a slot goes to next: a sealed partition's that may claim, or of those that wait for the
system area shared partitions in rotation, and within a partition in arrival order. -/
def State.nextStage (s : State) (slot : Nat) : Option (PoolJob × Nat) :=
  let claims := s.reels.jobs.findSome? (fun j =>
    if s.isSealed j.part then ((j.winsAt slot 1).find? (s.mayHold j slot)).map (fun w => (j, w)) else none)
  match claims with
  | some x => some x
  | none =>
    if 2 ≤ s.buffersUsed slot then none
    else
      let last := Tab.getD s.reels.lastStage slot 63
      let order := (List.range 64).map (fun i => (last + 1 + i) % 64)
      order.findSome? (fun p =>
        (s.reels.jobs.find? (fun j => j.part = p && !s.isSealed p && !(j.winsAt slot 1).isEmpty)).bind (fun j =>
          (j.winsAt slot 1).head?.map (fun w => (j, w))))

/-- Grant one free buffer or claim at a slot. -/
def State.grantStage (s : State) (slot : Nat) : State :=
  match s.nextStage slot with
  | none => s
  | some (j, w) =>
    let s := s.setJob { j with wins := Tab.set j.wins (w * 32 + slot) 2 }
    { s with reels := { s.reels with lastStage := if s.isSealed j.part then s.reels.lastStage else Tab.set s.reels.lastStage slot j.part } }

/-- Ask for buffers for the windows in flight at the slots where the job is in progress. -/
def State.askStages (s : State) (j : PoolJob) : PoolJob :=
  (s.inFlight j).foldl (fun j w => (List.range 32).foldl (fun j i =>
    if j.at_ i = 1 ∧ Tab.getD j.wins (w * 32 + i) 0 = 0 then { j with wins := Tab.set j.wins (w * 32 + i) 1 } else j) j) j

/-! ### The work of one slot (R291, R292) -/

/-- The granules of a range homed at a slot: (address, length) of the part inside the range. -/
def slotGranules (va len slot : Nat) : List (Nat × Nat) :=
  if len = 0 then []
  else ((List.range ((va + len - 1) / 4096 + 1 - va / 4096)).map (fun i =>
    let lo := max va ((va / 4096 + i) * 4096)
    (lo, min (va + len) ((va / 4096 + i + 1) * 4096) - lo))).filter (fun q => slotOf q.1 = slot)

/-- Make a granule fresh in every copy that a write of it goes to (R143, R292). -/
def State.freshen (s : State) (p e va : Nat) (handle : Nat) : State :=
  let s1 := (s.copies e va handle).foldl (fun s c => { s with written := s.written.filter (fun g => g ≠ c.1 / 4096) }) s
  (s1.pairForward p e va 4096).count (K.engineCounts (s1.homeTile va) 6) (if handle = 0 then 0 else 4096)

/-- Erase or recall in progress somewhere in a range: the slot's work waits. -/
def State.poolWaits (s : State) (handle : Nat) (l : List (Nat × Nat)) (wr : Bool) : Bool × State :=
  l.foldl (fun r q =>
    let a := r.2.agentCheck handle q.1 q.2 wr
    match a.1 with
    | .wait => (true, a.2)
    | _ => (r.1, a.2)) (false, s)

/-- The bytes of FILL's pattern for `n` bytes from range offset `off`. -/
def fillBytes (b : List Byte) (off n : Nat) : List Byte :=
  (List.range n).map (fun i => BitVec.ofNat 8 (poPat b / 2 ^ (8 * ((off + i) % max 1 (poPlen b))) % 256))

/-- FILL of one granule's part. -/
def State.fillPart (s : State) (j : PoolJob) (va n : Nat) : PoolJob × State :=
  let b := j.cmd
  let h := j.req.h.handle
  let a := s.agentCheck h va n true
  match a.1 with
  | .ok e =>
    if poPat b = 0 ∧ n = 4096 then (j, a.2.freshen j.part e va h)
    else
      let w := a.2.agentWrite j.part e va (fillBytes b (va - poA b) n) h
      let bad := (w.1.zip (linesOf va n)).find? (fun x => !x.1)
      let s := w.2.count (K.engineCounts (w.2.homeTile va) 6) n
      match bad with
      | some x => (j.fail (max x.2 (poA b) - poA b), s.noteFault j.part)
      | none => (j, s)
  | _ => (j.refused (va - poA b), a.2)

/-- The elements of a line's part, with their indexes in the range. -/
def lineElems (f : Nat) (b d : List Byte) (va : Nat) : List (Nat × Nat) :=
  let n := fmtBits f / 8
  (List.range (d.length / n)).map (fun i => ((va - poA b) / n + i, leAt d (i * n) n))

/-- Add elements to a REDUCE (R292). -/
def PoolJob.reduce (j : PoolJob) (l : List (Nat × Nat)) : PoolJob :=
  let f := poFmt j.cmd
  if poFunc j.cmd = 0 then
    if fmtInt f then { j with acc := { j.acc with a := l.foldl (fun a e => a + toSigned (fmtBits f) e.2) j.acc.a } }
    else
      let z : ExactSum := ⟨j.acc.nan, j.acc.pinf, j.acc.ninf, j.acc.nonneg, j.acc.a⟩
      let z := l.foldl (fun z e => z.add (fmtValue f e.2)) z
      { j with acc := ⟨z.nan, z.pinf, z.ninf, z.nonneg, z.a⟩ }
  else
    let up := poFunc j.cmd ≠ 1
    -- an earlier index wins among equals, whatever the order in which slots contribute
    let best := match j.best, choose f up l with
      | none, x => x
      | some a, none => some a
      | some a, some c =>
        let better := if up then codeLt f a.2 c.2 else codeLt f c.2 a.2
        let worse := if up then codeLt f c.2 a.2 else codeLt f a.2 c.2
        if better || (!worse && c.1 < a.1) then some c else some a
    { j with best := best }

/-- REDUCE of one granule's part. -/
def State.reducePart (s : State) (j : PoolJob) (va n : Nat) : PoolJob × State :=
  let h := j.req.h.handle
  let a := s.agentCheck h va n false
  match a.1 with
  | .ok e =>
    let r := (linesOf va n).foldl (fun (r : PoolJob × State) ln =>
      let g := r.2.readFinal e ln h []
      let lo := max ln va
      match g.1 with
      | .data d => (r.1.reduce (lineElems (poFmt j.cmd) j.cmd (slice d (lo - ln) (min (ln + 128) (va + n) - lo)) lo), g.2)
      | .bad _ => (r.1.fail (lo - poA j.cmd), g.2)) (j, a.2)
    (r.1, r.2.count (K.engineCounts (r.2.homeTile va) 6) n)
  | _ => (j.refused (va - poA j.cmd), a.2)

/-- Start a job at a slot where it is its partition's oldest that waits and fewer than two of them are in progress: FILL and REDUCE do the slot's work, COPY and
COMPARE ask for staging. Where an erase or a recall is in progress the slot's work stays queued. -/
def State.startAt (s : State) (j : PoolJob) (slot : Nat) : PoolJob × State :=
  let oldest : Bool := match s.reels.jobs.find? (fun x => x.part = j.part && x.at_ slot = 0) with
    | some x => decide (x.req.port = j.req.port ∧ x.req.id = j.req.id)
    | none => false
  if !oldest ∨ 2 ≤ s.poolActive slot j.part ∨ s.reached slot j.part = true then (j, s)
  else
    let op := poOp j.cmd
    if op = 1 ∨ op = 4 then
      let l := slotGranules (poA j.cmd) (poLen j.cmd) slot
      let w := s.poolWaits j.req.h.handle l (op = 1)
      if w.1 then (j, w.2)
      else
        let r := l.foldl (fun (r : PoolJob × State) q => if op = 1 then r.2.fillPart r.1 q.1 q.2 else r.2.reducePart r.1 q.1 q.2) (j, w.2)
        let j := { r.1 with slots := Tab.set r.1.slots slot 1 }
        (j, (r.2.setJob j).spend slot j.part 13 ((l.map (·.2)).sum))
    else
      let j := { j with slots := Tab.set j.slots slot 1 }
      let j := s.askStages j
      (j, (s.setJob j).grantStage slot)

/-- A POOL_OP at its coordinator (R288, R290): refused, or started wherever its partition has room. -/
def State.servePool (s : State) (r : Req) : State :=
  match s.poolCheck r with
  | some st => s.answerSt r st
  | none =>
    let j : PoolJob := { req := r }
    let s := { s with reels := { s.reels with jobs := s.reels.jobs ++ [j] } }
    ((List.range 32).foldl (fun (x : PoolJob × State) slot =>
      match x.2.job r.port r.id with
      | some j => x.2.startAt j slot
      | none => x) (j, s)).2

/-- POOL_OP_DEQUEUE: the oldest queued operation of partition `p` starts at a slot, outside the slate guard (R288, 02 R31). -/
def execPoolOpDequeue (slot p : Nat) (s : State) : Out :=
  .next (if s.fl.inGuard then s else match s.reels.jobs.find? (fun j => j.part = p && j.at_ slot = 0) with
    | some j => (s.startAt j slot).2
    | none => s)

/-- STAGING_BUFFER_GRANT: a free buffer or claim at a slot goes to a waiting window, outside the slate guard (R288, R291). -/
def execStagingBufferGrant (slot : Nat) (s : State) : Out := .next (if s.fl.inGuard then s else s.grantStage slot)

/-! ### Windows of COPY and COMPARE (R291, R292) -/

/-- The data of `n` bytes at `va`, at most two lines, for an operation; `none` where a line is bad. -/
def State.poolBytes (s : State) (e va n handle : Nat) : Option (List Byte) × State :=
  let g := s.agentLines e va n handle
  if g.1.any (fun x => match x with | .bad _ => true | .data _ => false) then (none, g.2)
  else (some (slice ((g.1.map (fun x => match x with | .data d => d | .bad _ => [])).flatten) (va % 128) n), g.2)

/-- The bytes of [va, va+n) that COMPARE sees, none where their line is bad, and the lowest address of a bad line's part in the range
that begins at `base` (R292). -/
def State.poolSeen (s : State) (e va n handle base : Nat) : List (Option Byte) × Option Nat × State :=
  let g := s.agentLines e va n handle
  let bytes := (g.1.map (fun x => match x with
    | .bad _ => List.replicate 128 none
    | .data d => d.map some)).flatten
  let bad := (g.1.zip (linesOf va n)).findSome? (fun x => match x.1 with
    | .bad _ => some (max x.2 base)
    | .data _ => none)
  ((bytes.drop (va % 128)).take n, bad, g.2)

/-- Range offset and length of window `w`. -/
def PoolJob.winRange (j : PoolJob) (w : Nat) : Nat × Nat := (w * 0x800000, min 0x800000 (poLen j.cmd - w * 0x800000))

/-- Those of the lines that an operation reads bad. -/
def State.badLines (s : State) (j : PoolJob) (l : List Nat) : List Nat :=
  l.filter (fun va => match s.mapped j.part va with
    | none => false
    | some e => match (s.readFinal e va j.req.h.handle []).1 with | .bad _ => true | .data _ => false)

/-- The read of the bad line that ends a copy in native mode, `ends` being that line: its one read (09 R209, R212). -/
def State.scanRead (s : State) (j : PoolJob) (ends : Option Nat) : State :=
  if s.poisonMode j.part then s
  else match ends with
    | none => s
    | some va => match s.mapped j.part va with
      | none => s
      | some e => ((s.readFinal e va j.req.h.handle []).2).noteFault j.part

/-- A window's source lines, which COPY must read before it writes any of them: the lowest bad line, of the source or of a
destination line that the range cuts, is recorded. In native mode that read ends the copy, and it is the line's one read: it is
retried, charged and logged (09 R209, R212, R219). The lines below it are read as they are copied. -/
def State.scanWindow (s : State) (j : PoolJob) (w : Nat) : PoolJob × State :=
  let b := j.cmd
  let (off, n) := j.winRange w
  let src := s.badLines j (linesOf (poB b + off) n)
  let edge := s.badLines j ((linesOf (poA b + off) n).filter (fun ln => ln < poA b ∨ poA b + poLen b < ln + 128))
  let j1 := src.foldl (fun j ln => j.fail (max ln (poB b) - poB b)) j
  let j2 := edge.foldl (fun j ln => j.fail (max ln (poA b) - poA b)) j1
  let ends := fun (base : Nat) (l : List Nat) => l.find? (fun ln => j2.bad = some (max ln base - base))
  ({ j2 with scanned := max j2.scanned (w + 1) }, s.scanRead j ((ends (poB b) src).or (ends (poA b) edge)))

/-- COPY of one destination line's part `[va, va+n)` (R292). -/
def State.poolCopyLine (s : State) (j : PoolJob) (va n : Nat) : PoolJob × State :=
  let b := j.cmd
  let h := j.req.h.handle
  let off := va - poA b
  let native := !s.poisonMode j.part
  let past := match j.bad with | some x => native && (poA b + x) / 128 ≤ va / 128 | none => false
  if past then (j, s)
  else
    let src := s.agentCheck h (poB b + off) n false
    let dst := src.2.agentCheck h va n true
    match src.1, dst.1 with
    | .ok es, .ok ed =>
      let g := dst.2.poolBytes es (poB b + off) n h
      match g.1 with
      | some d =>
        let w := g.2.agentWrite j.part ed va d h
        if w.1.all (fun x => x) then (j, w.2) else (j.fail off, w.2.noteFault j.part)
      | none =>
        if native then (j.fail off, g.2.noteFault j.part)
        else
          (j.fail off, (((g.2.poisonCopies ed (va / 128 * 128) h).noteFault j.part).pairForward j.part ed
            (va / 128 * 128) 128))
    | .ok _, _ => (j.refused off, dst.2)
    | _, _ => (j.refused off, dst.2)

/-- COPY or COMPARE of a window's lines at a slot: destination, or first-range, lines homed there, in rising order. -/
def State.windowWork (s : State) (j : PoolJob) (w slot : Nat) : PoolJob × State :=
  let b := j.cmd
  let h := j.req.h.handle
  let (off, n) := j.winRange w
  (slotGranules (poA b + off) n slot).foldl (fun (r : PoolJob × State) q =>
    let src := poB b + (q.1 - poA b)
    let fresh := match s.mapped j.part src, s.mapped j.part q.1 with
      | some es, some ed => if poOp b = 2 ∧ q.2 = 4096 ∧ src % 4096 = 0 ∧ r.2.isFresh (r.2.homeDpa es src) then some ed else none
      | _, _ => none
    let excess := match r.1.bad with | some x => !s.poisonMode j.part && (poA b + x) / 128 * 128 < q.1 + q.2 | none => false
    match fresh with
    | some ed => if excess then r else (r.1, r.2.freshen j.part ed q.1 h)
    | none =>
      (linesOf q.1 q.2).foldl (fun (r : PoolJob × State) ln =>
        let lo := max ln q.1
        let m := min (ln + 128) (q.1 + q.2) - lo
        if poOp b = 2 then r.2.poolCopyLine r.1 lo m
        else
          let o := lo - poA b
          let x := r.2.agentCheck h lo m false
          let y := x.2.agentCheck h (poB b + o) m false
          match x.1, y.1 with
          | .ok ex, .ok ey =>
            let g := y.2.poolSeen ex lo m h (poA b)
            let k := g.2.2.poolSeen ey (poB b + o) m h (poB b)
            let differ := (g.1.zip k.1).findIdx? (fun q => match q.1, q.2 with
              | some x, some y => decide (x ≠ y)
              | _, _ => false)
            let j := match differ with
              | some i => { r.1 with diff := some (match r.1.diff with | some z => min z (o + i) | none => o + i) }
              | none => r.1
            let j := match g.2.1 with | some a => j.fail (a - poA b) | none => j
            (match k.2.1 with | some a => j.fail (a - poB b) | none => j, k.2.2)
          | _, _ => (r.1.refused o, y.2)) r) (j, s)

/-- Finish a job at the slots where its every window is done. -/
def State.finishSlots (s : State) (j : PoolJob) : PoolJob :=
  let n := s.jobWindows j
  (List.range 32).foldl (fun j i =>
    if j.at_ i = 1 ∧ (List.range n).all (fun w => Tab.getD j.wins (w * 32 + i) 0 = 3) then
      { j with slots := Tab.set j.slots i 2, wins := j.wins.filter (fun e => !(e.1 % 32 = i && e.2 ≠ 3)) } else j) j

/-- A window's part at a slot, `m` bytes of it, is done: its lines are read and written, and it is charged. -/
def State.windowDone (s : State) (j : PoolJob) (w slot m : Nat) : State :=
  let r := if poOp j.cmd = 2 then s.scanWindow j w else ({ j with scanned := max j.scanned (w + 1) }, s)
  let r := r.2.windowWork r.1 w slot
  let s := (r.2.count (K.engineCounts (r.2.tileAt slot) 6) m).spend slot j.part 13 m
  s.setJob (s.finishSlots (s.askStages { r.1 with wins := Tab.set r.1.wins (w * 32 + slot) 3 }))

/-- POOL_OP_WINDOW_COMPLETE: a window's lines at a slot are written or compared, outside the slate guard, and its buffer or claim is
released (R288, R291). -/
def execPoolOpWindowComplete (port id w slot : Nat) (s : State) : Out :=
  .next (
    match s.job port id with
    | none => s
    | some j =>
      if s.fl.inGuard ∨ Tab.getD j.wins (w * 32 + slot) 0 ≠ 2 ∨ j.scanned < w then s
      else if s.reached slot j.part then s.noteHeld slot j.part
      else
        let g := slotGranules (poA j.cmd + (j.winRange w).1) (j.winRange w).2 slot
        let a := s.poolWaits j.req.h.handle g (poOp j.cmd = 2)
        let c := a.2.poolWaits j.req.h.handle (g.map (fun q => (poB j.cmd + (q.1 - poA j.cmd), 1))) false
        if a.1 ∨ c.1 then c.2 else c.2.windowDone j w slot ((g.map (·.2)).sum))

/-! ### The response (R293) -/

/-- The result block. -/
def poolResult (value index bytes flags : Nat) : List Byte := toLE 8 value ++ toLE 8 index ++ toLE 8 bytes ++ toLE 1 flags ++ toLE 7 0

/-- The result of a REDUCE that met no bad line: VALUE, INDEX, FLAGS (R292). -/
def PoolJob.redResult (j : PoolJob) : Nat × Nat × Nat :=
  let f := poFmt j.cmd
  if poFunc j.cmd = 0 then
    if fmtInt f then
      let x := satInt64 j.acc.a
      (x.1, 0, b2n x.2)
    else
      let z : ExactSum := ⟨j.acc.nan, j.acc.pinf, j.acc.ninf, j.acc.nonneg, j.acc.a⟩
      let r := fmt32.round 0 0 false z.value
      (r.1, 0, b2n (bit r.2 1) + (if z.value.isNan then 2 else 0))
  else
    match j.best with
    | none => (redNan, 2 ^ 64 - 1, 0)
    | some e => (redValue f e.2, if poFunc j.cmd = 3 then e.1 else 0, 0)

/-- Range offset up to which every line lies at slots that have done their work of an operation with no windows. -/
def PoolJob.prefix_ (j : PoolJob) : Nat :=
  let a := poA j.cmd
  match (List.range ((a + poLen j.cmd - 1) / 4096 + 1 - a / 4096)).find? (fun i => j.at_ (slotOf ((a / 4096 + i) * 4096)) = 0) with
  | some i => max a ((a / 4096 + i) * 4096) - a
  | none => poLen j.cmd

/-- BYTES_DONE where COPY stops at range offset `x`: rounded down to the line of the destination (R291). -/
def PoolJob.copied (j : PoolJob) (x : Nat) : Nat := (poA j.cmd + x) / 128 * 128 - poA j.cmd

/-- Status and result block of a finished operation (R292, R293). -/
def State.poolOutcome (s : State) (j : PoolJob) : Nat × List Byte :=
  let op := poOp j.cmd
  let len := poLen j.cmd
  match j.stop with
  | some st => (st, poolResult 0 0 (if op = 1 then j.stopAt else if op = 2 then j.copied j.stopAt else 0) 0)
  | none =>
    match j.bad with
    | some x =>
      let st := s.badStatus j.part
      let poison := s.poisonMode j.part
      if op = 1 then (st, poolResult 0 x (if poison then len else x) 0)
      else if op = 2 then (st, poolResult 0 x (if poison then len else j.copied x) 0)
      else if op = 3 then
        match j.diff with
        | some d => if d < x then (Code.ok, poolResult 0 d 0 0) else (st, poolResult 0 x 0 0)
        | none => (st, poolResult 0 x 0 0)
      else (st, poolResult 0 x 0 0)
    | none =>
      if op = 1 ∨ op = 2 then (Code.ok, poolResult 0 0 len 0)
      else if op = 3 then
        match j.diff with
        | some d => (Code.ok, poolResult 0 d 0 0)
        | none => (Code.ok, poolResult 0 0 0 4)
      else
        let r := j.redResult
        (Code.ok, poolResult r.1 r.2.1 0 r.2.2)

/-- The job has no work left at any slot. -/
def PoolJob.finished (j : PoolJob) : Bool :=
  (List.range 32).all (fun i => if poTwo j.cmd then j.at_ i = 2 else j.at_ i ≠ 0)

/-- POOL_OP_COMPLETE: the coordinator sends the response (R293). -/
def execPoolOpComplete (port id : Nat) (s : State) : Out :=
  .next (
    match s.job port id with
    | none => s
    | some j =>
      if !j.finished then s
      else
        let o := s.poolOutcome j
        let s := if j.bad.isSome ∧ poOp j.cmd = 4 ∨ (poOp j.cmd = 3 ∧ o.1 ≠ Code.ok) then s.noteFault j.part else s
        ((s.dropJob j).engineCount j.coord 5 1).answer j.req 0x90 o.1 o.2)

/-- End a job early: its buffers and claims are released, and it is answered with a status (R294, 17 R372). -/
def State.poolEnd (s : State) (j : PoolJob) (st : Nat) : State :=
  let bytes := if poOp j.cmd = 1 then j.prefix_
    else if poOp j.cmd = 2 then (match s.inFlight j with | w :: _ => w * 0x800000 | [] => poLen j.cmd)
    else 0
  (s.dropJob j).answer j.req 0x90 st (poolResult 0 0 bytes 0)

end Sys2Proof.Machine
end

