-- ==== Sys2Proof/Machine/Sessions.lean ====
section
/-!
DEFINITION. Fligifer sessions (19 R420 to R422): their classes, the most recently active, their ends.
-/

namespace Sys2Proof.Machine

/-- Session numbers: 0 to 15 the secured ones, 16 to 31 the unsecured ones, from 256 the part's own firmware. -/
def ownSession (i : Nat) : Bool := 256 ≤ i && i < 512

/-- Class of a session (R420): 0 UNSECURED, 1 TENANT, 2 MANAGER. -/
def State.classOf (s : State) (i : Nat) : Nat :=
  if ownSession i then 2 else match s.session i with | some x => x.cls | none => 0

/-- Session `i` exists. -/
def State.isOpen (s : State) (i : Nat) : Bool := ownSession i || (s.session i).isSome

/-- MANAGER_ANCHORS is all zero: the part is unclaimed (R421). -/
def State.unclaimed (s : State) : Bool := (List.range 4).all (fun i => s.rd (K.managerAnchors i) = 0)

/-- The class of a secured session under the anchors in force (R420). -/
def State.securedClass (s : State) (x : Sess) : Nat :=
  if x.mutualAuth && x.rootDigest ≠ 0 && (List.range 4).any (fun i => s.rd (K.managerAnchors i) = x.rootDigest) then 2 else 1

/-- Every secured session's class is evaluated again (R420). -/
def State.reclass (s : State) : State :=
  { s with sess := s.sess.map (fun e => (e.1, if e.1 < 16 then { e.2 with cls := s.securedClass e.2 } else e.2)) }

/-- A session ends (R422): its held requests, blocks and subscriptions go, and any staging it opened is closed. -/
def State.sessEnd (s : State) (i : Nat) : State :=
  ({ s with
    sess := Tab.erase s.sess i
    dailies := { s.dailies with subs := s.dailies.subs.filter (fun e => e.2.sess ≠ i) } } : State).stagingSessionEnds i

/-- Every session ends: a warm reset or a takeover (R422). -/
def State.sessEndAll (s : State) : State := (s.sess.map (·.1)).foldl State.sessEnd s

/-- A message arrives in session `i`: it is the most recently active. -/
def State.sessTouch (s : State) (i : Nat) : State :=
  let n := (s.sess.map (fun e => e.2.stamp)).foldl max 0 + 1
  match s.session i with
  | none => s
  | some x => s.setSess i { x with stamp := n, lastFrame := s.frame }

/-- The unsecured session of a source, if it is held. -/
def State.findUnsecured (s : State) (carrier port source : Nat) : Option Nat :=
  (s.sess.find? (fun e => decide (16 ≤ e.1) && decide (e.1 < 32) && e.2.carrier = carrier && e.2.port = port && e.2.source = source)).map (·.1)

/-- The unsecured session of a source: the one held, or a new one, for which an older one may be dropped (R420). -/
def State.unsecured (s : State) (carrier port source : Nat) : Nat × State :=
  match s.findUnsecured carrier port source with
  | some i => (i, s.sessTouch i)
  | none =>
    let free := (List.range 16).find? (fun j => (s.session (16 + j)).isNone)
    let oldest := (s.sess.filter (fun e => decide (16 ≤ e.1) && decide (e.1 < 32))).foldl (fun (m : Option (Nat × Sess)) e =>
      match m with
      | none => some e
      | some x => if e.2.stamp < x.2.stamp then some e else m) none
    let i := match free with
      | some j => 16 + j
      | none => match oldest with | some x => x.1 | none => 16
    let s := s.sessEnd i
    (i, (s.setSess i { carrier := carrier, port := port, source := source }).sessTouch i)

/-- SESSION_IDLE_TIMEOUT: an unsecured session ends after 60 s without a message (R420). -/
def execSessionIdleTimeout (i : Nat) (s : State) : Out :=
  .next (match s.session i with
    | some x => if 16 ≤ i ∧ i < 32 ∧ x.lastFrame + 240000 ≤ s.frame then s.sessEnd i else s
    | none => s)

/-- SESSION_TABLE's element of secured session `i` (R435). -/
def State.sessionWord (s : State) (i : Nat) : Nat :=
  match s.session i with
  | none => 0
  | some x => 2 ^ 63 + x.cls * 2 ^ 61 + b2n (s.takeState = 1 && s.stager i) * 2 ^ 60 + x.carrier * 2 ^ 58
      + (if x.carrier = 2 then x.port else 0) * 2 ^ 52 + x.blocks.length * 2 ^ 48 + x.spdmId % 2 ^ 32

end Sys2Proof.Machine
end

