-- ==== Sys2Proof/Machine/Compositor.lean ====
section
/-!
DEFINITION. The compositor (ch. 15): creating composites, contributions, chunk results, completion, excuses, closing and
aborts, and the CONTRIB instruction (14 R338).
-/

namespace Sys2Proof.Machine

/-! ### Records (R347, R349, R365) -/

/-- Composite record `n`. -/
def State.comp (s : State) (n : Nat) : Comp := Tab.getD s.reels.comps n {}
/-- Replace it. -/
def State.setComp (s : State) (n : Nat) (c : Comp) : State :=
  { s with reels := { s.reels with comps := Tab.set s.reels.comps n c } }
/-- The composite identifier: incarnation and number. -/
def compIdent (n : Nat) (c : Comp) : Nat := c.inc * 1024 + n
/-- Chunk `i` is complete. -/
def Comp.complete (c : Comp) (i : Nat) : Bool := i < c.base || c.done.contains i
/-- Chunks completed. -/
def Comp.doneCount (c : Comp) : Nat := c.base + c.done.length
/-- Chunk `i` is open: one of the `r` lowest-numbered incomplete chunks homed on its slot (R349). -/
def Comp.isOpen (c : Comp) (i : Nat) : Bool :=
  i < cdChunks c.desc && !c.complete i
    && ((List.range (i - c.base)).filter (fun j => !c.complete (c.base + j) && cdHome c.desc (c.base + j) = cdHome c.desc i)).length
        < cdWindow c.desc
/-- LIMIT: the lowest-numbered chunk that is neither open nor complete (R349). -/
def Comp.limit (c : Comp) : Nat :=
  match (List.range (cdChunks c.desc - c.base)).find? (fun j => !c.complete (c.base + j) && !c.isOpen (c.base + j)) with
  | some j => c.base + j
  | none => cdChunks c.desc
/-- CREDITS: LIMIT - BASE, capped. -/
def Comp.credits (c : Comp) : Nat := min (c.limit - c.base) 65535

/-- A COMPOSITES record as read (R365). -/
def Comp.pack (c : Comp) : Nat :=
  c.st * 2 ^ 125 + c.part * 2 ^ 119 + c.inc * 2 ^ 97 + cdChunks c.desc * 2 ^ 78 + c.base * 2 ^ 59 + c.excused.length * 2 ^ 54
    + min c.stall 65535 * 2 ^ 38

/-- Count in COMPOSITOR_COUNTS of the tile that homes a slot. -/
def State.compCount (s : State) (slot i n : Nat) : State := if n = 0 then s else s.count (K.compositorCounts (s.tileAt slot) i) n

/-- Chunks open on the tile that homes a slot (OPEN_CHUNKS). -/
def State.openChunks (s : State) (slot : Nat) : Nat :=
  ((s.reels.comps.filter (fun e => e.2.st = 1)).map (fun e =>
    ((List.range (cdChunks e.2.desc)).filter (fun i => cdHome e.2.desc i = slot && e.2.isOpen i)).length)).sum

/-! ### Creating (R345, R346, R350) -/

/-- The descriptor's fields are in range and its reserved fields zero (R346, second check). -/
def compFormOk (d : List Byte) : Bool :=
  let fm := fmtInt (cdFmt d)
  cdTarget d % 4096 = 0 && cdTarget d < 2 ^ 48 && 1 ≤ cdElements d && cdElements d ≤ 0x40000000 && 1 ≤ cdContribs d
    && cdContribs d ≤ 4096 && fmtReduce (cdFmt d) && fmtReduce (cdResult d) && cdOp d ≤ 2 && leAt d 17 1 < 4 && 1 ≤ cdWindow d
    && cdWindow d ≤ 204 && leAt d 19 1 = 0 && leAt d 22 2 = 0 && leAt d 40 24 = 0
    && (List.range 4).all (fun i => !bit (cdNotify d i) 30 && fld (cdNotify d i) 23 16 = 0
      && (!bit (cdNotify d i) 31 || fld (cdNotify d i) 29 24 < 36))
    && fm == fmtInt (cdResult d) && (!cdFast d || !fm) && cdTarget d + cdElements d * cdSize d ≤ 2 ^ 48

/-- The valid NOTIFY entries: (port, EID). -/
def cdTargets (d : List Byte) : List (Nat × Nat) :=
  ((List.range 4).filter (fun i => bit (cdNotify d i) 31)).map (fun i => (fld (cdNotify d i) 29 24, fld (cdNotify d i) 15 0))

/-- Accumulator units that a partition's open composites reserve at a slot. -/
def State.compUnits (s : State) (p slot : Nat) : Nat := ((s.openComps p).map (fun e => cdUnits e.2.desc slot)).sum

/-- Bytes of a partition's quota that its rings hold at a slot (11 R248, R257). -/
def State.ringSpace (s : State) (p slot : Nat) : Nat :=
  ((List.range 16).filter (fun r => rgValid (s.ringDesc p r) && rgSlot (s.ringDesc p r) = slot)).length * 33 * 1024

/-- The reservations of a new composite fit at a slot (R350). -/
def State.compFits (s : State) (p : Nat) (d : List Byte) (slot : Nat) : Bool :=
  s.compUnits p slot + cdUnits d slot ≤ 10 * s.rd (K.chunkQuotas p slot)
    && s.compClaims p slot + compClaim (cdContribs d) (cdReserved d slot) + s.ringSpace p slot + s.stageClaims p slot
        ≤ s.rd (K.storeQuotas p slot) * 1024

/-- The first free composite number after the one most recently allocated (R347). -/
def State.freeComp (s : State) : Option Nat :=
  ((List.range 1024).map (fun i => (s.reels.lastComp + 1 + i) % 1024)).find? (fun n => (s.comp n).st ≠ 1)

/-- The checks of R346 on a descriptor for partition `p`. -/
def State.compCheck (s : State) (p : Nat) (d : List Byte) : Option Nat :=
  if !compFormOk d then some Code.badRequest
  else if (cdTargets d).any (fun x => (s.findBinding x.1 p x.2).isNone) then some Code.notBound
  else if !s.rangeMapped p (cdTarget d) (cdElements d * cdSize d) then some Code.notMapped
  else if (extentVas (cdTarget d) (cdElements d * cdSize d)).any (fun v => s.readOnlyExt p (vaIndex v) (s.entry p (vaIndex v))) then
    some Code.readOnly
  else if s.freeComp.isNone then some Code.busy
  else if (List.range 32).any (fun i => !s.compFits p d i) then some Code.quotaExceeded
  else none

/-- COMP_RESULT's fields (R346). -/
def compResultWord (st inc n : Nat) : Nat := st * 2 ^ 48 + 2 ^ 32 + inc * 2 ^ 10 + n

/-- A write of 1 to COMP_CREATE by binding `b` (R346, R347): the status, which COMP_RESULT shows. -/
def State.compCreate (s : State) (b : Nat) : Nat × State :=
  let w := s.window b
  let p := bPart (s.binding b)
  let d := padTo 64 w.desc
  match s.compCheck p d, s.freeComp with
  | none, some n =>
    let inc := ((s.comp n).inc + 1) % 2 ^ 22
    let s := s.setWindow b { w with comp := compResultWord Code.ok inc n }
    let s := s.setComp n { st := 1, part := p, inc := inc, desc := d, order := s.reels.compOrder }
    (Code.ok, { s with reels := { s.reels with lastComp := n, compOrder := s.reels.compOrder + 1 } })
  | some st, _ => (st, s.setWindow b { w with comp := compResultWord st 0 0 })
  | none, none => (Code.busy, s.setWindow b { w with comp := compResultWord Code.busy 0 0 })

/-! ### Contributions (R348, R351, R352, R354, R356) -/

/-- Segments of a chunk. -/
def Comp.segments (c : Comp) (i : Nat) : Nat := ceilDiv (min 4096 (cdElements c.desc - i * 4096)) 512
/-- Every segment of a chunk, as a mask. -/
def Comp.allSegs (c : Comp) (i : Nat) : Nat := 2 ^ c.segments i - 1
/-- A contribution covers whole, consecutive segments of one chunk, from a contributor that exists (R348). -/
def segRule (d : List Byte) (contributor offset count : Nat) : Bool :=
  offset % 512 = 0 && 1 ≤ count && offset / 4096 = (offset + count - 1) / 4096 && contributor < cdContribs d
    && offset + count ≤ cdElements d && ((offset + count) % 512 = 0 || offset + count = cdElements d)

/-- Add one element of a contribution to a chunk (R354, R356). -/
def Chunk.add (k : Chunk) (d : List Byte) (el code : Nat) : Chunk :=
  let f := cdFmt d
  if cdExact d then
    let a := Tab.getD k.accs el {}
    if fmtInt f then { k with accs := Tab.set k.accs el { a with a := a.a + toSigned (fmtBits f) code, nonneg := true } }
    else
      let z := (ExactSum.mk a.nan a.pinf a.ninf a.nonneg a.a).add (fmtValue f code)
      { k with accs := Tab.set k.accs el ⟨z.nan, z.pinf, z.ninf, z.nonneg, z.a⟩ }
  else
    let v := if fmtInt f then ofSigned 32 (toSigned (fmtBits f) code) else (fmt32.round 0 0 false (fmtValue f code)).1
    let g := if fmtInt f then 0x13 else 0
    if cdOp d = 0 then
      { k with vals := Tab.set k.vals el (match Tab.find k.vals el with | some x => fadd32 x v | none => v) }
    else if (fmtValue g v).isNan then k
    else { k with vals := Tab.set k.vals el (match Tab.find k.vals el with | some x => pick2 g (cdOp d = 2) x v | none => v) }

/-- What a contribution is answered with. -/
structure Answer where
  /-- Status. -/
  st : Nat
  /-- WINDOW_BASE. -/
  base : Nat
  /-- CREDITS. -/
  credits : Nat
deriving DecidableEq, Repr

/-- A contribution of partition `p` at the chunk's home (R351). -/
def State.contribute (s : State) (p ident contributor offset fmt : Nat) (codes : List Nat) : Answer × State :=
  let n := ident % 1024
  let c := s.comp n
  let d := c.desc
  let count := codes.length
  let i := offset / 4096
  let home := cdHome d i
  let first := offset % 4096 / 512
  let mask := (2 ^ ceilDiv count 512 - 1) * 2 ^ first
  if c.st = 0 ∨ c.part ≠ p ∨ c.inc ≠ ident / 1024 then (⟨Code.noSuchObject, 0, 0⟩, s)
  else if fmt ≠ cdFmt d || !segRule d contributor offset count then (⟨Code.badRequest, 0, 0⟩, s)
  else if c.st = 2 then (⟨Code.duplicateContribution, 0, 0⟩, s.compCount home 2 1)
  else if c.st ≠ 1 then (⟨Code.windowClosed, 0xFFFFFFFF, 0⟩, s.compCount home 3 1)
  else if c.excused.contains contributor then (⟨Code.contributorExcused, 0, 0⟩, s.compCount home 4 1)
  else if c.complete i then (⟨Code.duplicateContribution, 0, 0⟩, s.compCount home 2 1)
  else if !c.isOpen i then (⟨Code.windowClosed, c.base, c.credits⟩, s.compCount home 3 1)
  else
    let k := Tab.getD c.chunks i {}
    let took := Tab.getD k.took contributor 0
    if took &&& mask ≠ 0 then (⟨Code.duplicateContribution, 0, 0⟩, s.compCount home 2 1)
    else
      let k := codes.zipIdx.foldl (fun k e => k.add d (offset % 4096 + e.2) e.1) { k with took := Tab.set k.took contributor (took ||| mask) }
      let s := (((s.setComp n { c with chunks := Tab.set c.chunks i k }).compCount home 0 1).compCount home 1 count).meterAdd p
        Mt.elements count |>.spend home p (if cdExact d then 10 else 11) count
      (⟨Code.ok, c.base, c.credits⟩, s)

/-- Slot that homes the chunk of a contribution. -/
def State.contribHome (s : State) (ident offset : Nat) : Nat := cdHome (s.comp (ident % 1024)).desc (offset / 4096)

/-- CONTRIB at the chunk's home: its answer carries the window on OK and WINDOW_CLOSED (R97, R101, R351). -/
def State.serveContrib (s : State) (r : Req) : State :=
  let b := r.body
  let f := leAt b 12 1
  let count := leAt b 6 2
  if !s.handleLive r.h.handle then s.answerSt r Code.staleHandle
  else
    let codes := elemsOf (fmtBits f) count (ofLE (slice b 16 (contribDataLen f count)))
    let home := s.contribHome (leAt b 0 4) (leAt b 8 4)
    if s.reached home (handlePart r.h.handle) then (s.noteHeld home (handlePart r.h.handle)).hold (.allowance home) r
    else
    let a := s.contribute (handlePart r.h.handle) (leAt b 0 4) (leAt b 4 2) (leAt b 8 4) f codes
    if a.1.st = Code.ok ∨ a.1.st = Code.windowClosed then a.2.answer r 0xA0 a.1.st (toLE 4 a.1.base ++ toLE 2 a.1.credits ++ toLE 2 0)
    else a.2.answerSt r a.1.st

/-! ### The CONTRIB instruction (14 R338) -/

/-- CONTRIB. `cut` says that the slate guard falls after the message has left and before its answer (R321). The fields of
Gd that an answer does not carry are not stated: free values. -/
def execReelContrib (slot ctx stall : Nat) (cut : Bool) (t : Nat) (s : State) : Out :=
  .next (s.issueInstr slot ctx stall t (0x60, 0) (fun s k w =>
    let a := (k.gr (iA w)).toNat
    let b := (k.gr (iB w)).toNat
    let offset := fld b 31 0
    let count := fld b 63 48
    let f := iFmt w
    let q := iFunc w = 1
    let regs := spanRegs (fmtBits f) count
    if 2 ^ 32 ≤ a ∨ count = 0 ∨ offset / 4096 ≠ (offset + count - 1) / 4096 ∨ 4096 < contribDataLen f count
        ∨ (q ∧ 512 < count) ∨ (¬q ∧ 32 < iC w + regs) then .fault s Code.illegalInstruction (w % 2 ^ 32)
    else
      match s.ctxOwner slot ctx with
      | none => .stall s
      | some p =>
        let conv := (List.range count).map (fun i =>
          if q then roundFmt f (iRm w) (laneBits k i) (iSat w) (fmt32.decode (elemOf 32 (k.qr (iC w)) i))
          else (elemOf (fmtBits f) (k.span (iC w) regs) i, 0))
        let home := s.contribHome a offset
        if s.reached home p then .stall (s.noteHeld home p)
        else
        let r := s.contribute p a (fld b 47 32) offset f (conv.map (·.1))
        if cut then .held (r.2.setCtx slot ctx { r.2.ctx slot ctx with resume := some (0x60, 2, 0) })
        else
          let again : Bool := match k.resume with | some (0x60, 2, _) => true | _ => false
          let st := if again ∧ r.1.st = Code.duplicateContribution then Code.ok else r.1.st
          let x : Nat × State :=
            if r.1.st = Code.ok ∨ r.1.st = Code.windowClosed then (r.1.credits * 65536 + r.1.base * 2 ^ 32, r.2)
            else
              let d := r.2.draw (2 ^ 48)
              (d.1 * 65536, d.2)
          let s := x.2.setCtx slot ctx ((x.2.ctx slot ctx).setG (iD w) (BitVec.ofNat 64 (st + x.1)))
          .done (if q then s.tally slot ctx w (conv.map (·.2)) true else s) (k.pc + 8) 0))

/-! ### Chunk results (R355 to R357) -/

/-- The count of a chunk has reached completion: every contributor has given, or been excused from, every segment. -/
def Comp.full (c : Comp) (i : Nat) : Bool :=
  let k := Tab.getD c.chunks i {}
  (List.range (cdContribs c.desc)).all (fun j => c.excused.contains j || Tab.getD k.took j 0 = c.allSegs i)

/-- The result of one element: its code and whether it counts in OVERFLOW_COUNT. -/
def Comp.finish (c : Comp) (k : Chunk) (el : Nat) : Nat × Bool :=
  let d := c.desc
  let g := cdResult d
  if !k.took.any (fun e => bit e.2 (el / 512)) then (0, false)
  else
    let x : Num :=
      if cdExact d then
        let a := Tab.getD k.accs el {}
        if fmtInt g then numOfInt a.a else (ExactSum.mk a.nan a.pinf a.ninf a.nonneg a.a).value
      else match Tab.find k.vals el with
        | some v => if fmtInt g then numOfInt (toSigned 32 v) else fmt32.decode v
        | none => .nan
    let r := roundFmt g 0 0 (cdSat d) x
    (r.1, (fmtValue g r.1).isNan || bit r.2 1 || (bit r.2 2 && cdSat d))

/-- BASE after chunks have completed. -/
def advanceBase : Nat → Nat → List Nat → Nat × List Nat
  | 0, b, l => (b, l)
  | k + 1, b, l => if l.contains b then advanceBase k (b + 1) (l.filter (· ≠ b)) else (b, l)

/-- CHUNK_COMPLETE: the home rounds each element of chunk `i` of composite `n` once and writes the results (R355, R357). -/
def execChunkComplete (n i : Nat) (s : State) : Out :=
  let c := s.comp n
  let d := c.desc
  let k := Tab.getD c.chunks i {}
  .next (
    if c.st ≠ 1 || !c.isOpen i || !c.full i then s
    else if s.reached (cdHome d i) c.part then s.noteHeld (cdHome d i) c.part
    else
      let m := min 4096 (cdElements d - i * 4096)
      let res := (List.range m).map (c.finish k)
      let va := cdTarget d + i * 4096 * cdSize d
      let h := s.handleOf c.part
      let ps := granulePieces va ((res.map (fun r => toLE (cdSize d) r.1)).flatten)
      let w := s.poolWaits h (ps.map (fun q => (q.1, q.2.length))) true
      if w.1 then w.2
      else
        let r := ps.foldl (fun (r : Bool × State) q =>
          if !r.1 then r
          else
            let a := r.2.agentCheck h q.1 q.2.length true
            match a.1 with
            | .ok e =>
              let x := a.2.agentWrite c.part e q.1 q.2 h
              (true, if x.1.all (fun y => y) then x.2 else x.2.noteFault c.part)
            | _ => (false, a.2)) (true, w.2)
        if !r.1 then r.2
        else
          let excess := (res.filter (·.2)).length
          let b := advanceBase (cdChunks d) c.base (i :: c.done)
          let home := cdHome d i
          ((r.2.setComp n { c with
            base := b.1, done := b.2, excess := c.excess + excess, idle := 0, stall := if b.1 = c.base then c.stall else 0
            chunks := Tab.erase c.chunks i }).compCount home 5 1).compCount home 8 excess)

/-! ### Completion, stalls, excuses, closing (R358 to R360) -/

/-- NOTIFY to every entry of a composite whose binding still exists (R358). -/
def State.compNotify (s : State) (n : Nat) (c : Comp) (value st : Nat) : State :=
  (cdTargets c.desc).foldl (fun s x =>
    if x.1 < 36 ∧ (s.findBinding x.1 c.part x.2).isSome then
      s.notify x.1 x.2 (s.handleOf c.part) 1 (compIdent n c) value st
    else s) s

/-- COMPOSITE_COMPLETE: the coordinator ends a composite whose every chunk has completed (R358). -/
def execCompositeComplete (n : Nat) (s : State) : Out :=
  let c := s.comp n
  .next (if c.st = 1 ∧ c.base = cdChunks c.desc then
      (s.setComp n { c with st := 2, chunks := [] }).compNotify n c (min c.excess (2 ^ 32 - 1) * 2 ^ 32 + c.doneCount) Code.ok
    else s)

/-- COMPOSITE_STALL: no chunk has completed for STALL_FRAMES frames (R358). -/
def execCompositeStall (n : Nat) (s : State) : Out :=
  let c := s.comp n
  .next (if c.st = 1 ∧ cdStall c.desc ≠ 0 ∧ cdStall c.desc ≤ c.idle then
      ((s.setComp n { c with idle := 0 }).compCount (n % 32) 9 1).compNotify n c c.base Code.compositeStalled
    else s)

/-- The open composite of partition `p` that an identifier names. -/
def State.namedComp (s : State) (p ident : Nat) : Option (Nat × Comp) :=
  let c := s.comp (ident % 1024)
  if c.st = 1 ∧ c.part = p ∧ c.inc = ident / 1024 then some (ident % 1024, c) else none

/-- A write of COMP_EXCUSE in a window of partition `p` (R359). -/
def State.compExcuse (s : State) (p v : Nat) : Nat × State :=
  let j := fld v 43 32
  match s.namedComp p (fld v 31 0) with
  | none => (Code.noSuchObject, s)
  | some (n, c) =>
    if cdContribs c.desc ≤ j then (Code.badRequest, s)
    else if c.excused.contains j then (Code.ok, s)
    else if 16 ≤ c.excused.length then (Code.quotaExceeded, s)
    else (Code.ok, s.setComp n { c with excused := c.excused ++ [j] })

/-- Abort a composite (R360): STATE `st`, and the notifications with `code` unless a warm reset ends the link sessions. -/
def State.compAbort (s : State) (n st code : Nat) (tell : Bool) : State :=
  let c := s.comp n
  if c.st ≠ 1 then s
  else
    let s := ((List.range (cdChunks c.desc)).filter c.isOpen).foldl (fun s i => s.compCount (cdHome c.desc i) 6 1) s
    let s := s.setComp n { c with st := st, chunks := [] }
    if tell then s.compNotify n c c.doneCount code else s

/-- A write of COMP_CLOSE in a window of partition `p` (R360). -/
def State.compClose (s : State) (p v : Nat) : Nat × State :=
  match s.namedComp p (fld v 31 0) with
  | none => (Code.noSuchObject, s)
  | some (n, _) => (Code.ok, s.compAbort n 4 Code.closedByHost true)

/-! ### The slate and takes (R358, R361) -/

/-- The reasons of R361 for which a take aborts an open composite, reservations aside; `freed` lists the partitions that it
frees or re-incarnates, `remapped` the extents, by partition*16384 + index, that it unmaps or rebinds, `gone` the bindings that
it ends, by port, partition and endpoint. -/
def State.compUndone (s : State) (c : Comp) (freed remapped : List Nat) (gone : List (Nat × Nat × Nat)) : Bool :=
  let vas := extentVas (cdTarget c.desc) (cdElements c.desc * cdSize c.desc)
  freed.contains c.part
    || vas.any (fun v => remapped.contains (c.part * 16384 + vaIndex v) || (s.mapped c.part v).isNone
        || s.readOnlyExt c.part (vaIndex v) (s.entry c.part (vaIndex v)))
    || (cdTargets c.desc).any (fun x => gone.contains (x.1, c.part, x.2) || (s.findBinding x.1 c.part x.2).isNone)

/-- The open composites of a partition fit its quotas at every slot. -/
def State.compsFit (s : State) (p : Nat) : Bool :=
  (List.range 32).all (fun i => s.compUnits p i ≤ 10 * s.rd (K.chunkQuotas p i)
    && s.compClaims p i + s.ringSpace p i ≤ s.rd (K.storeQuotas p i) * 1024)

/-- Abort a partition's composites, most recently created first, until the reservations fit (R361). -/
def State.shrinkComps : Nat → Nat → State → State
  | 0, _, s => s
  | k + 1, p, s =>
    if s.compsFit p then s
    else
      match (s.openComps p).foldl (fun (m : Option (Nat × Comp)) e => match m with
          | none => some e
          | some x => if x.2.order < e.2.order then some e else m) none with
      | none => s
      | some e => State.shrinkComps k p (s.compAbort e.1 3 Code.abortedByTake true)

/-- The composites that a take aborts at its slate (R361). -/
def State.compTake (s : State) (freed remapped : List Nat) (gone : List (Nat × Nat × Nat)) : State :=
  let s := s.reels.comps.foldl (fun s e =>
    if (s.comp e.1).st = 1 ∧ s.compUndone (s.comp e.1) freed remapped gone then s.compAbort e.1 3 Code.abortedByTake true else s) s
  (List.range 64).foldl (fun s p => State.shrinkComps 1024 p s) s

/-- A slate passes for the open composites: frames since a chunk completed, and since BASE advanced (R358, R365). -/
def State.compSlate (s : State) : State :=
  { s with reels := { s.reels with comps := s.reels.comps.map (fun e =>
    (e.1, if e.2.st = 1 then { e.2 with idle := e.2.idle + 1, stall := min (e.2.stall + 1) 65535 } else e.2)) } }

end Sys2Proof.Machine
end

