-- ==== Sys2Proof/Machine/Publish.lean ====
section
/-!
DEFINITION. Publish regions (06 R154 to R159).
-/

namespace Sys2Proof.Machine

/-- Region `r` of partition `p` is valid (R154). -/
def State.regionValid (s : State) (p r : Nat) : Bool := r < 4096 && bit (s.rd (K.publishRegions p r)) 15

/-- Body of PUBLISH_RESP and PUBLISH_QUERY_RESP (R101). -/
def publishBody (version ext eid : Nat) : List Byte := toLE 8 version ++ toLE 2 ext ++ toLE 2 eid ++ toLE 4 0

/-- Endpoint that produced the region's version. -/
def State.winner (s : State) (p r : Nat) : Nat := Tab.getD s.pubBy (p * 4096 + r) 0

/-- The region is busy: a flip is in progress, or requests wait ahead (R155). -/
def State.regionBusy (s : State) (p r : Nat) : Bool :=
  s.flips.any (fun f => f.part = p && f.region = r) || !(s.waitersOf (.region p r)).isEmpty

/-- PUBLISH and PUBLISH_QUERY at the region's home extent unit (R155, R156). A window read of PUB_STATE that waited for the
region goes back to be served (20 R439). -/
def State.servePublish (s : State) (r : Req) : State :=
  let p := handlePart r.h.handle
  let g := leAt r.body 0 2
  let stg := leAt r.body 2 2
  let base := leAt r.body 8 8
  let ver := s.rd (K.publishVersions p g)
  let view := s.rd (K.publishViews p g)
  if r.op = 0x62 then s.hold .home r
  else if !s.handleLive r.h.handle then s.answerSt r Code.staleHandle
  else if s.regionBusy p g then s.hold (.region p g) r
  else if r.op = 0x12 then
    if s.regionValid p g then s.answer r 0x92 Code.ok (publishBody ver view (s.winner p g))
    else s.answerSt r Code.noSuchObject
  else if s.fl.inGuard ∨ s.guardAt < s.fl.now + 2000 then s.hold (.region p g) r
  else if !s.regionValid p g then s.answerSt r Code.noSuchObject
  else
    let e := s.entry p stg
    if 16384 ≤ stg ∨ !eValid e then s.answerSt r Code.notMapped
    else if eKind e ≠ 3 ∨ s.isView p stg then s.answerSt r Code.badRequest
    else if !eHeld e ∨ eHolder e ≠ r.bind then s.answerSt r Code.noAccess
    else if base ≠ ver then
      (s.count (K.reclaimCounts 5) 1).answer r 0x91 Code.publishConflict (publishBody ver 0 (s.winner p g))
    else { s with flips := s.flips ++ [⟨p, g, r⟩] }

/-- Serve the requests that wait at a region, in order, until one starts a flip. -/
def State.serveRegion (s : State) (p g : Nat) : State := s.release (.region p g) State.servePublish

/-- Every tile has acknowledged the update of region `g`: the flip takes effect, and the home answers (R156). -/
def State.flipDone (s : State) (p g : Nat) : State :=
  match s.flips.find? (fun f => f.part = p && f.region = g) with
  | none => s
  | some f =>
    let stg := leAt f.req.body 2 2
    let old := s.rd (K.publishViews p g)
    let ver := s.rd (K.publishVersions p g) + 1
    let eStg := setFld (s.entry p stg) 12 12 0
    let eOld := setFld (setFld (s.entry p old) 12 12 1) 11 0 f.req.bind
    let s := { s with flips := s.flips.filter (fun x => !(x.part = p && x.region = g)),
                      pubBy := Tab.set s.pubBy (p * 4096 + g) f.req.h.src }
    let s := (s.partMade (K.extentMap p stg) eStg).partMade (K.extentMap p old) eOld
    let s := (s.wrs [(K.publishViews p g, stg), (K.publishVersions p g, ver)]).count (K.reclaimCounts 4) 1
    (s.answer f.req 0x91 Code.ok (publishBody ver old f.req.h.src)).serveRegion p g

end Sys2Proof.Machine
end

