-- ==== Sys2Proof/Machine/Windows.lean ====
section
/-!
DEFINITION. Partition windows, mailboxes, doorbells and the management mailbox (ch. 20).
-/

namespace Sys2Proof.Machine

/-! ### Registers and errors (R436 to R438) -/

/-- Slot and context of the mailbox block that holds a window offset. -/
def mbxSlot (off : Nat) : Nat := (off - 0x8000) / 32 / 16
/-- Context of the block. -/
def mbxCtx (off : Nat) : Nat := (off - 0x8000) / 32 % 16
/-- The offset lies in the context mailboxes. -/
def isMbx (off : Nat) : Bool := 0x8000 ≤ off && off < 0xC000
/-- The offset is a ring register. -/
def isRing (off : Nat) : Bool := 0x400 ≤ off && off < 0x500

/-- Access of the register at an offset: none where it is unassigned; 0 RO, 1 RW, 2 WO (R437, R442). -/
def regAccess (off : Nat) : Option Nat :=
  if off = 0x0 ∨ off = 0x8 ∨ off = 0x10 ∨ off = 0x108 ∨ off = 0x110 ∨ off = 0x868 ∨ off = 0x900 ∨ off = 0xB48 ∨ off = 0xC08
      ∨ off = 0xC10 ∨ (0x2000 ≤ off ∧ off < 0x4000) then some 0
  else if off = 0x18 ∨ off = 0x100 ∨ isRing off ∨ off = 0x860 ∨ off = 0xA00 ∨ off = 0xB40 ∨ off = 0xB50 ∨ off = 0xB58 then some 2
  else if (0x800 ≤ off ∧ off < 0x860) ∨ off = 0x908 ∨ (0xB00 ≤ off ∧ off < 0xB40) ∨ off = 0xC00 then some 1
  else if isMbx off then (if off % 32 = 0 then some 2 else if off % 32 = 24 then some 1 else some 0)
  else none

/-- The register reports its refusals in the response (R437). -/
def inResponse (off : Nat) : Bool := off = 0x100 || (isRing off && off % 16 = 0) || isMbx off

/-- Reserved fields of word `i` of a launch block are zero (13 R302). -/
def launchWordOk (i v : Nat) : Bool := if i = 0 then fld v 47 42 = 0 else if i = 1 then fld v 63 56 = 0 else true

/-- Reserved fields and encodings of word `i` of a composite descriptor: formats, OP, FLAGS and NOTIFY entries (15 R345, 12 R274). -/
def descWordOk (i v : Nat) : Bool :=
  if i = 1 then fld v 55 48 ≤ 0x13 && fld v 63 56 ≤ 0x13
  else if i = 2 then fld v 7 0 ≤ 2 && fld v 15 10 = 0 && fld v 31 24 = 0 && fld v 63 48 = 0
  else if i = 3 ∨ i = 4 then fld v 23 16 = 0 && fld v 30 30 = 0 && fld v 55 48 = 0 && fld v 62 62 = 0
  else if 5 ≤ i then v = 0 else true

/-- Reserved bits of a written value are zero, and no field holds a reserved encoding (00 R9, R10, R437, R442). -/
def reservedOk (off v : Nat) : Bool :=
  if off = 0x18 ∨ off = 0x860 ∨ off = 0xB40 then v < 2
  else if isRing off then fld v 41 32 = 0
  else if off = 0x908 ∨ off = 0xB58 then v < 2 ^ 32
  else if off = 0xA00 then fld v 63 13 = 0 && fld v 7 4 = 0
  else if off = 0xB50 then v < 2 ^ 44
  else if off = 0xC00 then v < 4096
  else if off = 0x100 then (let c := fld v 63 48; c = 1 || c = 2 || c = 3)
  else if isMbx off ∧ off % 32 = 24 then fld v 63 48 = 0 && fld v 31 0 = 0
  else if 0x800 ≤ off ∧ off < 0x860 then launchWordOk ((off - 0x800) / 8) v
  else if 0xB00 ≤ off ∧ off < 0xB40 then descWordOk ((off - 0xB00) / 8) v
  else true

/-- Record a refused write in ERR_STATUS (R438). -/
def State.winErr (s : State) (b off st : Nat) : State :=
  let w := s.window b
  s.setWindow b { w with errCode := st, errOff := off, errCount := min (w.errCount + 1) (2 ^ 32 - 1) }

/-! ### Mailboxes (R441 to R445) -/

/-- A context that waits in MBXRECV for the message that has come: ungated, restored, or woken for the next slate (R441). -/
def State.wakeMbx (s : State) (slot c : Nat) : State :=
  let k := s.ctx slot c
  if k.st ≠ 4 ∨ k.wait ≠ .mailbox then s
  else if !k.saved then s.setCtx slot c { k with st := 3, wait := .none }
  else if !s.fl.inGuard ∧ 0 < k.budget then s.setCtx slot c { k with st := 3, wait := .none, saved := false }
  else s.setCtx slot c { k with woken := true }

/-- A write of MBX_IN by binding `b` of partition `p` (R443). -/
def State.mbxIn (s : State) (b p slot c v : Nat) : Nat × State :=
  if s.ctxOwner slot c ≠ some p then (Code.offline, s)
  else
    let k := s.ctx slot c
    if k.st = 7 then (Code.busy, s)
    else if 8 ≤ k.inbox.length then (Code.busy, s)
    else
      let w := s.window b
      let q := Tab.getD w.posts (slot * 16 + c) {}
      let n := (q.post + 1) % 65536
      let s := s.setWindow b { w with posts := Tab.set w.posts (slot * 16 + c) { q with post := n } }
      (Code.ok, (s.setCtx slot c { k with inbox := k.inbox ++ [(b, some n, BitVec.ofNat 64 v)] }).wakeMbx slot c)

/-- OUT_SEQ of the oldest outbound message. -/
def Ctx.outSeq (k : Ctx) : Nat := (k.sent + 1 - k.outbox.length) % 65536

/-- A write of MBX_OUT_STATE (R445): the oldest message is removed where its OUT_SEQ is the one written. -/
def State.mbxOut (s : State) (b p off slot c v : Nat) : Nat × State :=
  if s.ctxOwner slot c ≠ some p then (Code.offline, s)
  else
    let k := s.ctx slot c
    if k.outbox ≠ [] ∧ fld v 47 32 = k.outSeq then (Code.ok, s.setCtx slot c { k with outbox := k.outbox.tail })
    else (Code.badRequest, s.winErr b off Code.badRequest)

/-- A register of a mailbox block as a binding of partition `p` reads it (R442). -/
def State.mbxRead (s : State) (b p off : Nat) : Nat :=
  let slot := mbxSlot off
  let c := mbxCtx off
  let k := s.ctx slot c
  let mine := s.ctxOwner slot c = some p
  if off % 32 = 8 then
    let q := Tab.getD (s.window b).posts (slot * 16 + c) {}
    q.ret * 2 ^ 48 + q.ack * 2 ^ 32 + q.post * 2 ^ 16 + (if mine then (8 - k.inbox.length) * 256 else 0)
  else if off % 32 = 16 then (if mine then (k.outbox.headD 0).toNat else 0)
  else if off % 32 = 24 then
    (if mine ∧ k.outbox ≠ [] then k.outSeq * 2 ^ 32 + k.outbox.length * 2 ^ 16 else 0)
  else 0

/-! ### The management mailbox (R446) -/

/-- Management firmware runs (19 R431, 22 R475). -/
def State.firmwareRuns (s : State) : Bool :=
  let v := fld (s.rd K.firmwareStatus) 31 30
  (v = 1 || v = 2) && !s.boot.coreHalted

/-- A post to MGMT_MBX_IN by binding `b`, its CMD already found listed. -/
def State.mgmtPost (s : State) (b v : Nat) : Nat × State :=
  let w := s.window b
  if !s.firmwareRuns || w.cmd.isSome then (Code.busy, s)
  else (Code.ok, s.setWindow b { w with cmd := some v, mgmt := { w.mgmt with post := (w.mgmt.post + 1) % 65536 } })

/-- The core acknowledges binding `b`'s outstanding command. -/
def State.mgmtAck (s : State) (b ret result : Nat) : State :=
  let w := s.window b
  s.setWindow b { w with cmd := none, cmdLost := false, mgmtResult := result, mgmt := { w.mgmt with ack := w.mgmt.post, ret := ret } }

/-- Serve binding `b`'s outstanding command, if it is `cmd` (R446). -/
def State.mgmtServe (s : State) (b cmd : Nat) : State :=
  match (s.window b).cmd with
  | none => s
  | some v =>
    if v / 2 ^ 48 ≠ cmd || !s.firmwareRuns || (s.window b).cmdLost then s
    else if cmd ≠ 1 ∧ v % 2 ^ 48 ≠ 0 then s.mgmtAck b Code.badRequest 0
    else s.mgmtAck b Code.ok
      (if cmd = 1 then s.frame
       else if cmd = 2 then s.rd (K.leaseState b) * 2 ^ 56 + s.rd (K.leaseExpiry b) % 2 ^ 56
       else s.rd K.takeNumber)

/-- MGMT_CMD_PING. -/
def execMgmtCmdPing (b : Nat) (s : State) : Out := .next (s.mgmtServe b 1)
/-- MGMT_CMD_LEASE. -/
def execMgmtCmdLease (b : Nat) (s : State) : Out := .next (s.mgmtServe b 2)
/-- MGMT_CMD_TAKE. -/
def execMgmtCmdTake (b : Nat) (s : State) : Out := .next (s.mgmtServe b 3)

/-- Outstanding commands that a warm reset or takeover discards (R446). -/
def State.mgmtDiscard (s : State) : State :=
  { s with reels := { s.reels with windows := s.reels.windows.map (fun e => (e.1, { e.2 with cmdLost := e.2.cmd.isSome })) } }

/-- Firmware runs again: each discarded command is acknowledged (R446). -/
def State.mgmtResume (s : State) : State :=
  s.reels.windows.foldl (fun s e => if e.2.cmdLost then s.mgmtAck e.1 Code.abortedByReset 0 else s) s

/-! ### Reads (R436, R437, R439) -/

/-- PUB_STATE's 16 bytes for the region that binding `b` selected (R439). -/
def State.pubState (s : State) (b p : Nat) : List Byte :=
  let g := (s.window b).pubSel
  if !bit (s.binding b) 36 then toLE 8 0 ++ toLE 2 0 ++ toLE 2 0 ++ toLE 2 Code.noAccess ++ toLE 2 0
  else if !s.regionValid p g then toLE 8 0 ++ toLE 2 0 ++ toLE 2 0 ++ toLE 2 Code.noSuchObject ++ toLE 2 0
  else toLE 8 (s.rd (K.publishVersions p g)) ++ toLE 2 (s.rd (K.publishViews p g)) ++ toLE 2 (s.winner p g) ++ toLE 2 Code.ok ++ toLE 2 0

/-- Eight bytes of EVENT_RECORD at an offset: zeros where no live record has that place (R437, R438). -/
def State.eventRead (s : State) (p off : Nat) : List Byte :=
  let e := s.events p
  let i := (off - 0x2000) / 32
  match (e.recs.zipIdx.find? (fun r => (e.consumed + r.2) % 256 = i)) with
  | some r => slice r.1 (off % 32) 8
  | none => List.replicate 8 0#8

/-- The value of the register at an offset, as binding `b` reads it. -/
def State.winRead (s : State) (b off : Nat) : List Byte :=
  let d := s.binding b
  let p := bPart d
  let w := s.window b
  if off = 0x0 then toLE 8 (p * 2 ^ 58 + s.incarnation p * 2 ^ 48 + b * 2 ^ 36 + bPort d * 2 ^ 30)
  else if off = 0x8 then toLE 8 s.frame
  else if off = 0x10 then toLE 8 (w.errCode * 2 ^ 48 + w.errOff * 2 ^ 32 + w.errCount)
  else if off = 0x108 then toLE 8 (w.mgmt.ret * 2 ^ 48 + w.mgmt.ack * 2 ^ 32 + w.mgmt.post * 2 ^ 16 + b2n w.cmd.isNone * 256)
  else if off = 0x110 then toLE 8 w.mgmtResult
  else if 0x800 ≤ off ∧ off < 0x860 then slice w.block (off - 0x800) 8
  else if off = 0x868 then toLE 8 (w.result * 2 ^ 48 + w.seq * 2 ^ 32 + w.state)
  else if off = 0x900 then toLE 8 ((s.events p).lost * 2 ^ 32 + (s.events p).written % 2 ^ 32)
  else if off = 0x908 then toLE 8 ((s.events p).consumed % 2 ^ 32)
  else if 0xB00 ≤ off ∧ off < 0xB40 then slice w.desc (off - 0xB00) 8
  else if off = 0xB48 then toLE 8 w.comp
  else if off = 0xC00 then toLE 8 w.pubSel
  else if off = 0xC08 then (s.pubState b p).take 8
  else if off = 0xC10 then (s.pubState b p).drop 8
  else if 0x2000 ≤ off ∧ off < 0x4000 then s.eventRead p off
  else if isMbx off then toLE 8 (s.mbxRead b p off)
  else toLE 8 0

/-- WINDOW_READ at the port engine: the registers it covers, in ascending order. A read of PUB_STATE waits, as a query
would, while its region is busy. -/
def State.serveWindowRead (s : State) (r : Req) : State :=
  let off := leAt r.body 0 4
  let n := leAt r.body 4 2 / 8
  let offs := (List.range n).map (fun i => off + 8 * i)
  let p := bPart (s.binding r.bind)
  let g := (s.window r.bind).pubSel
  if (offs.contains 0xC08 || offs.contains 0xC10) && bit (s.binding r.bind) 36 && s.regionBusy p g then s.hold (.region p g) r
  else s.answer r 0xE2 Code.ok ((offs.map (s.winRead r.bind)).flatten)

/-! ### Writes (R436 to R438) -/

/-- A write of EVENT_CONSUMED (R438): it advances by the 32-bit difference, to WRITTEN at most. -/
def State.eventConsumed (s : State) (p v : Nat) : Nat × State :=
  let e := s.events p
  let n := (v + 2 ^ 32 - e.consumed % 2 ^ 32) % 2 ^ 32
  if e.written < e.consumed + n then (Code.badRequest, s)
  else (Code.ok, s.setEvents p { e with consumed := e.consumed + n, recs := e.recs.drop n })

/-- The effect of a write whose register is assigned and whose reserved bits are zero: the status of its own rule. -/
def State.winApply (s : State) (b off v t : Nat) : Nat × State :=
  let p := bPart (s.binding b)
  let w := s.window b
  if off = 0x18 then (Code.ok, if v = 1 then s.setWindow b { w with errCode := 0, errOff := 0 } else s)
  else if off = 0x100 then s.mgmtPost b v
  else if isRing off then
    if off % 16 = 0 then s.ringBell p ((off - 0x400) / 16) v
    else
      let r := s.ringRestart p ((off - 0x400) / 16) v
      (r.1.getD Code.ok, r.2)
  else if 0x800 ≤ off ∧ off < 0x860 then (Code.ok, s.setWindow b { w with block := splice (padTo 96 w.block) (off - 0x800) (toLE 8 v) })
  else if off = 0x860 then if v = 1 then s.go b t else (Code.ok, s)
  else if off = 0x908 then s.eventConsumed p v
  else if off = 0xA00 then s.contextClear p (fld v 12 8) (fld v 3 0)
  else if 0xB00 ≤ off ∧ off < 0xB40 then (Code.ok, s.setWindow b { w with desc := splice (padTo 64 w.desc) (off - 0xB00) (toLE 8 v) })
  else if off = 0xB40 then if v = 1 then s.compCreate b else (Code.ok, s)
  else if off = 0xB50 then s.compExcuse p v
  else if off = 0xB58 then s.compClose p v
  else if off = 0xC00 then (Code.ok, s.setWindow b { w with pubSel := v })
  else if off % 32 = 0 then s.mbxIn b p (mbxSlot off) (mbxCtx off) v
  else s.mbxOut b p off (mbxSlot off) (mbxCtx off) v

/-- A write of one register (R436): the status that the response reports for it. -/
def State.winWrite (s : State) (b off v t : Nat) : Nat × State :=
  match regAccess off with
  | none => (Code.ok, s.winErr b off Code.badRequest)
  | some 0 => (if inResponse off then Code.readOnly else Code.ok, s.winErr b off Code.readOnly)
  | some _ =>
    if !reservedOk off v then
      (if inResponse off then Code.reservedNonzero else Code.ok, s.winErr b off Code.reservedNonzero)
    else
      let r := s.winApply b off v t
      if inResponse off then r
      else if r.1 = Code.ok then r
      else (Code.ok, r.2.winErr b off r.1)

/-- The slot whose move or scrub a register write must wait for: a message that a context of a slot whose tile store is moving
will take, or a launch on a context that is being zeroised (R443, 02 R52). -/
def State.winWaits (s : State) (b off v : Nat) : Option Nat :=
  if isMbx off ∧ off % 32 = 0 ∧ s.cont.moving = some (mbxSlot off) then
    let k := s.ctx (mbxSlot off) (mbxCtx off)
    if s.ctxOwner (mbxSlot off) (mbxCtx off) = some (bPart (s.binding b)) ∧ k.st ≠ 7 ∧ k.inbox.length < 8 then some (mbxSlot off)
    else none
  else if off = 0x860 ∧ v = 1 then
    let k := padTo 96 (s.window b).block
    (List.range 32).find? (fun i => bit (lbMask k) i && s.reels.scrubCtx.contains (i * 16 + lbCtx k))
  else none

/-- The registers that a WINDOW_WRITE covers, with their values. -/
def winParts (body : List Byte) : List (Nat × Nat) :=
  (List.range (leAt body 4 2 / 8)).map (fun i => (leAt body 0 4 + 8 * i, leAt body (8 + 8 * i) 8))

/-- WINDOW_WRITE at the port engine: each register in ascending order, answered with the first status that is not OK. -/
def State.serveWindowWrite (s : State) (r : Req) (t : Nat) : State :=
  let parts := winParts r.body
  match parts.findSome? (fun q => s.winWaits r.bind q.1 q.2) with
  | some slot => s.hold (.slotMove slot) r
  | none =>
    let x := parts.foldl (fun (x : Nat × State) q =>
      let y := x.2.winWrite r.bind q.1 q.2 t
      (if x.1 = Code.ok then y.1 else x.1, y.2)) (Code.ok, s)
    x.2.answer r 0xE3 x.1 []

/-! ### Doorbells (R440) -/

/-- The window register that a doorbell INDEX is equal to. -/
def bellOffset (idx : Nat) : Option Nat :=
  if idx < 16 then some (0x400 + 16 * idx)
  else if idx = 0x100 then some 0x100
  else if 0x200 ≤ idx ∧ idx < 0x400 then some (0x8000 + 32 * (idx - 0x200))
  else none

/-- DOORBELL at the port engine. -/
def State.serveDoorbell (s : State) (r : Req) (t : Nat) : State :=
  match bellOffset (leAt r.body 0 2) with
  | none => s.answerSt r Code.noSuchObject
  | some off =>
    let v := leAt r.body 8 8
    match s.winWaits r.bind off v with
    | some slot => s.hold (.slotMove slot) r
    | none =>
      let x := s.winWrite r.bind off v t
      x.2.answerSt r x.1

/-! ### Bindings that begin or end -/

/-- The window of a binding that a take creates or ends: its registers start at zero, and its messages are no longer
acknowledged to anyone. -/
def State.windowReset (s : State) (b : Nat) : State :=
  let drop := fun (m : Nat × Option Nat) => if m.1 = b then (m.1, (none : Option Nat)) else m
  { s with reels := { s.reels with
    windows := Tab.erase s.reels.windows b
    ctxs := s.reels.ctxs.map (fun e => (e.1, { e.2 with
      inbox := e.2.inbox.map (fun m => (m.1, (drop (m.1, m.2.1)).2, m.2.2))
      taken := e.2.taken.map drop })) } }

end Sys2Proof.Machine
end

