-- ==== Sys2Proof/Machine/Dictionary.lean ====
section
/-!
DEFINITION. The object dictionary (19 R414 to R416, R420, R425): what an entry reads as, and the checks on a write.
-/

namespace Sys2Proof.Machine

/-- Which of a family's entries an index is. -/
def famNo (d : Desc) (idx : Nat) : Nat := idx - d.base

/-! ### Values -/

/-- Elements as bytes, each in the order of its entry. -/
def entryPack (d : Desc) (l : List Nat) : List Byte := (l.map (elemBytes d)).flatten

/-- A log's elements, oldest first, zeros after them. -/
def logElems (n : Nat) (l : List Nat) : List Nat := l.take n ++ List.replicate (n - l.length) 0

/-- SUBSCRIPTION_STATE's element of SUB_ID `i` (19 R434). -/
def State.subWord (s : State) (i : Nat) : Nat :=
  match Tab.find s.dailies.subs i with
  | none => 0
  | some x => (x.sess + 1) % 256 * 2 ^ 56 + x.next % 2 ^ 56

/-- DICTIONARY_DIRECTORY (19 R434): one record for each listed entry, ascending. -/
def dictDirectory : List Byte :=
  (((Dict.all.map (fun d => (List.range d.n).map (fun i => ((d.base + i) * 256 + d.sub, d)))).flatten.mergeSort (fun a b => a.1 ≤ b.1)).map
    (fun e => toBE 3 e.1 ++ toBE 1 e.2.ty ++ toBE 1 e.2.acc ++ toBE 1 0 ++ toBE 2 (if e.2.ty = 9 then e.2.esz else e.2.count * e.2.esz))).flatten

/-- The elements of an entry whose values the part computes from its state, by index and subindex. -/
def State.computed (s : State) (d : Desc) (idx : Nat) : Option (List Nat) :=
  let i := famNo d idx
  let slot := (s.slotOfTile i).getD 32
  if d.base = 0x2011 ∧ d.sub = 5 then some [s.takeDigest]
  else if d.base = 0x3000 ∧ d.sub = 8 then some [ofBE (s.stagedDigest i)]
  else if d.base = 0x3840 ∧ d.sub = 1 then some (logElems 256 (Tab.getD s.lostLog i []))
  else if d.base = 0x4000 ∧ d.sub = 0x13 then some (logElems 64 (s.stack i).hammerLog)
  else if d.base = 0x4410 ∧ d.sub = 6 then some (logElems 64 (s.stack i).errLog)
  else if d.base = 0x4840 ∧ d.sub = 2 then some ((List.range 16).map (fun r => s.ringState i r))
  else if d.base = 0x5040 ∧ d.sub = 2 then some ((List.range 64).map (fun p => s.poolActive slot p))
  else if d.base = 0x5080 ∧ d.sub = 1 then some ((List.range 512).map (fun k => s.ctxState i (k / 16) (k % 16)))
  else if d.base = 0x5400 ∧ d.sub = 1 then some ((List.range 1024).map (fun n => (s.comp n).pack))
  else if d.base = 0x5440 ∧ d.sub = 2 then some [s.openChunks slot]
  else if d.base = 0x6002 ∧ d.sub = 2 then some (logElems 64 s.secLog)
  else if d.base = 0x7400 ∧ d.sub = 7 then some [s.gafferState]
  else if d.base = 0x7801 ∧ d.sub = 2 then some ((List.range 16).map s.sessionWord)
  else if d.base = 0x7811 ∧ d.sub = 1 then some ((List.range 4).map s.subWord)
  else none

/-- The bytes of an entry that has no elements of fixed size. -/
def State.blob (s : State) (d : Desc) (idx : Nat) : Option (List Byte) :=
  if d.base = 0x1000 ∧ d.sub = 6 then some s.fuses.options
  else if d.base = 0x6400 ∧ d.sub = 1 then some (slice (s.identity 0) 0 97)
  else if d.base = 0x6400 ∧ d.sub = 2 then some (slice (s.identity 1) 0 1952)
  else if d.base = 0x6400 ∧ d.sub = 3 then some (s.identity 2)
  else if d.base = 0x6400 ∧ d.sub = 4 then some (s.identity 3)
  else if d.base = 0x6400 ∧ d.sub = 5 then some s.measurementBlocks
  else if d.base = 0x6400 ∧ d.sub = 9 then some (slice (s.identity 4) 0 4)
  else if d.base = 0x6440 ∧ d.sub = 3 then some (s.report (famNo d idx))
  else if d.base = 0x6440 ∧ d.sub = 4 then some (s.part (famNo d idx)).records
  else if d.base = 0x7800 ∧ d.sub = 1 then some dictDirectory
  else none

/-- The value of an entry in the order of a Fligifer message, its RWT elements from the shadow half if `shadow` (R8, R415). -/
def State.entryValue (s : State) (d : Desc) (idx : Nat) (shadow : Bool) : List Byte :=
  match s.blob d idx with
  | some b => b
  | none =>
    match s.computed d idx with
    | some l => entryPack d l
    | none => entryPack d ((List.range d.count).map (fun i => if shadow then s.sh (ek idx d.sub i) else s.rd (ek idx d.sub i)))

/-- The flits of single-packet traffic are not followed, so before a read of MESH_COUNTS its counts of flits forwarded and of open
flits in owned phases each advance by a free amount (05 R134, log entry 41). -/
def State.flitsMove (s : State) (d : Desc) (idx : Nat) : State :=
  if d.base = 0x2840 ∧ d.sub = 1 then
    [0, 1, 2].foldl (fun s e => let r := s.draw 0; r.2.count (K.meshCounts (famNo d idx) e) r.1) s
  else s

/-- Reading clears STRETCHED of FRAME_STATUS, INJECT_PEAK and FAULT_PEAK (02 R55, 05 R134, 11 R267). -/
def State.readClears (s : State) (d : Desc) (idx : Nat) : State :=
  if idx = 0x2000 ∧ d.sub = 3 then s.wr K.frameStatus (setFld (s.rd K.frameStatus) 6 6 0)
  else if (d.base = 0x2840 ∧ d.sub = 2) ∨ (d.base = 0x4880 ∧ d.sub = 2) then s.wr (ek idx d.sub 0) 0
  else s

/-! ### Authority (R420, R421) -/

/-- A session of class `cls` may read the entry. -/
def mayRead (cls idx sub : Nat) : Bool :=
  let open_ := (0x1000 ≤ idx && idx < 0x2000) || (idx = 0x6400 && 1 ≤ sub && sub ≤ 9)
  let tenant := (0x6440 ≤ idx && idx < 0x6480) || (0x3000 ≤ idx && idx < 0x3040)
  cls = 2 || open_ || (cls = 1 && tenant)

/-- The status of a request that a session's class does not permit. -/
def classStatus (cls : Nat) : Nat := if cls = 0 then Code.authRequired else Code.noAccess

/-- The elements that a write of `b` at byte `off` of an entry gives. -/
def writtenElems (d : Desc) (off : Nat) (b : List Byte) : List (Nat × Nat) :=
  (List.range (b.length / d.esz)).map (fun i =>
    (off / d.esz + i, if d.lsb then leAt b (i * d.esz) d.esz else beAt b (i * d.esz) d.esz))

/-- A session may write the entry; `els` are the elements it writes, which a claim depends on. -/
def State.mayWrite (s : State) (sess idx sub : Nat) (els : List (Nat × Nat)) : Bool :=
  let cls := s.classOf sess
  if cls = 2 then true
  else if cls = 0 then false
  else if 0x3000 ≤ idx ∧ idx < 0x3040 then sub = 0x0A || sub = 0x0B
  else if 0x6440 ≤ idx ∧ idx < 0x6480 then sub = 1 && s.lockMode (idx - 0x6440) = 2
  else if idx = 0x7801 ∧ sub = 1 then
    match s.session sess with
    | some x => s.unclaimed && x.mutualAuth && decide (x.carrier < 2) && els.any (fun e => e.2 = x.rootDigest && e.2 ≠ 0)
    | none => false
  else false

/-! ### Reserved bits and ranges (R9, R10, R416) -/

/-- A value of an element of the entry has a reserved bit set, or a reserved encoding. -/
def reservedIn (d : Desc) (v : Nat) : Bool :=
  let b := d.base
  let x := d.sub
  if d.ty = 1 then 2 ≤ v
  else if b = 0x1800 ∧ x = 1 then 2 ^ 11 ≤ v
  else if b = 0x2001 ∧ (x = 1 ∨ x = 3) then 2 < v
  else if b = 0x2400 then
    if x = 4 ∨ x = 6 then 2 < v
    else if x = 5 then 3 < v
    else if x = 9 then 1 < v
    else if x = 0x12 then fld v 31 16 ≠ 0 || fld v 5 4 ≠ 0 || fld v 3 2 = 3
    else false
  else if (b = 0x2100 ∨ b = 0x3000) ∧ x = 1 then 1 < v
  else if (b = 0x2800 ∨ b = 0x4800 ∨ b = 0x5001) ∧ x = 1 then 64 ≤ v && v ≠ 0xFF
  else if b = 0x3000 ∧ x = 0x0A then fld v 399 384 ≠ 0
  else if b = 0x3400 then 4 ≤ fld v 62 60 || fld v 21 13 ≠ 0
  else if b = 0x3440 then bit v 14
  else if b = 0x3500 ∧ x = 1 then fld v 62 56 ≠ 0 || fld v 43 40 ≠ 0 || fld v 15 0 ≠ 0
  else if b = 0x3801 then fld v 57 48 ≠ 0
  else if b = 0x4000 ∧ x = 0x0C then 2 ≤ fld v 3 2 || bit v 0
  else if b = 0x4400 then 1 < v
  else if b = 0x4480 ∧ x = 1 then bit v 30 || fld v 29 28 = 3 || 18 ≤ fld v 26 22 || fld v 21 0 ≠ 0
  else if b = 0x4480 ∧ x = 2 then fld v 63 43 ≠ 0 || fld v 6 0 ≠ 0
  else if b = 0x4601 ∧ x = 1 then fld v 31 30 = 3 || fld v 17 0 ≠ 0
  else if b = 0x4602 then fld v 44 0 ≠ 0
  else if b = 0x4800 ∧ x = 2 then fld v 16 0 ≠ 0
  else if b = 0x4801 then fld v 19 0 ≠ 0
  else if b = 0x4840 then fld v 55 0 ≠ 0
  else if b = 0x7C00 then 8 ≤ v
  else false

/-- A value lies within the range that the entry's table states. -/
def State.inRange (s : State) (d : Desc) (idx v : Nat) : Bool :=
  let t := famNo d idx
  if d.base = 0x2800 ∧ d.sub = 2 then s.rd K.throttleLow < v && d.lo ≤ v && v ≤ d.hi
  else if d.base = 0x2800 ∧ d.sub = 3 then v < s.rd K.throttleHigh
  else if d.base = 0x4000 ∧ d.sub = 5 then s.rd (K.wqLow t) < v && d.lo ≤ v && v ≤ d.hi
  else if d.base = 0x4000 ∧ d.sub = 6 then v < s.rd (K.wqHigh t)
  else if d.base = 0x4410 ∧ d.sub = 2 then v < 18 || v = 0xFF
  else if d.base = 0x7802 ∧ d.sub = 2 then v = 0 || (1 ≤ v % 256 && v % 256 ≤ 128)
  else d.hi = 0 || (d.lo ≤ v && v ≤ d.hi)

/-- The size of a write fits: the whole value, or a range of a DOMAIN on element boundaries or of an OCTET entry. An OCTET entry
that acts when it is written, and stores nothing, takes the whole value only (log entry 40). -/
def rangeFits (d : Desc) (off n : Nat) : Bool :=
  let size := d.count * d.esz
  if d.ty = 9 then d.esz ≠ 0 && off + n ≤ size && off % d.esz = 0 && n % d.esz = 0
  else if d.ty = 8 ∧ d.acc ≠ 4 then off + n ≤ size
  else off = 0 && n = size

/-- The elements that a write gives: an OCTET range is completed from the value in force. -/
def State.elemsOfWrite (s : State) (d : Desc) (idx off : Nat) (b : List Byte) : List (Nat × Nat) :=
  if d.esz = 0 then []
  else if d.ty = 8 ∧ b.length ≠ d.esz then
    let old := if d.acc = 3 then s.sh (ek idx d.sub 0) else s.rd (ek idx d.sub 0)
    writtenElems d 0 (splice (elemBytes d old) off b)
  else writtenElems d off b

/-- The checks of R416 on a write of `b` at byte `off`, in order: the status of the first that fails. -/
def State.writeCheck (s : State) (sess idx sub off : Nat) (b : List Byte) : Option Nat :=
  match Dict.find idx sub with
  | none => some Code.noSuchEntry
  | some d =>
    let els := s.elemsOfWrite d idx off b
    if !s.mayWrite sess idx sub els then some (classStatus (s.classOf sess))
    else if d.acc < 2 then some Code.readOnly
    else if !rangeFits d off b.length then some Code.badRequest
    else if els.any (fun e => reservedIn d e.2) then some Code.reservedNonzero
    else if els.any (fun e => !s.inRange d idx e.2) then some Code.outOfRange
    else if d.base = 0x2400 ∧ sub = 0x0A ∧ 4096 < ((List.range 4).map (fun v => (Tab.find els v).getD (s.rd (ek idx sub v)))).sum then
      some Code.outOfRange
    else if idx = 0x7801 ∧ sub = 1 ∧ (List.range 4).all (fun i => (Tab.find els i).getD (s.rd (K.managerAnchors i)) = 0) then
      some Code.outOfRange
    else if d.acc = 3 ∧ !(s.takeState = 1 && s.stager sess) then some Code.busy
    else none

/-! ### Reads (R415, R425) -/

/-- A READ: the status, and on OK the type code, the entry's size and the bytes. -/
def State.dictRead (s : State) (sess idx sub off n : Nat) (shadow : Bool) : (Nat × Nat × Nat × List Byte) × State :=
  match Dict.find idx sub with
  | none => ((Code.noSuchEntry, 0, 0, []), s)
  | some d =>
    if !mayRead (s.classOf sess) idx sub then ((classStatus (s.classOf sess), 0, 0, []), s)
    else if d.acc = 4 then ((Code.noAccess, 0, 0, []), s)
    else
      let s := s.flitsMove d idx
      let v := s.entryValue d idx (shadow && decide (d.acc = 3) && decide (s.takeState = 1))
      let size := v.length
      let whole : Bool := d.ty ≠ 8 && d.ty ≠ 9
      if 3976 < n ∨ size < off + n ∨ (whole ∧ (off ≠ 0 ∨ (n ≠ 0 ∧ n ≠ size))) then ((Code.badRequest, 0, 0, []), s)
      else
        let k := if n = 0 then min 3976 (size - off) else n
        ((Code.ok, d.ty, size, slice v off k), s.readClears d idx)

end Sys2Proof.Machine
end

