-- ==== Sys2Proof/Machine/Frames.lean ====
section
/-!
DEFINITION. The frame clock and the slate sources (02 R28 to R37, R55, R56): phase alignment, the comparison of frame
numbers at a slate, and the advance of stored due frames at a forward load (R32).
-/

namespace Sys2Proof.Machine

/-- Frame logic updated. -/
def State.updFl (s : State) (f : FrameLogic → FrameLogic) : State := { s with fl := f s.fl }

/-- A field of FRAME_STATUS written (R56). -/
def State.setStatus (s : State) (hi lo v : Nat) : State := s.wr K.frameStatus (setFld (s.rd K.frameStatus) hi lo v)

/-- Phase alignment on a measured error in ns (R35): slewed when it is below 0.5 us, else one stretched frame that ends on
the source's slate. -/
def State.align (s : State) (err : Int) : State :=
  if err.natAbs < 500 then s.updFl (fun f => { f with aligning := false, slew := err })
  else s.updFl (fun f => { f with aligning := false, slew := 0, stretching := some (err % 250000).toNat })

/-- A write of SLATE_SOURCE (R35, R56): phase is aligned on the first measurement of the source selected. What had been
learnt of the old source is forgotten. -/
def State.sourceWrite (s : State) (v : Nat) : State :=
  let s := s.wr K.slateSource v
  let s := s.updFl (fun f => { f with
    ptpGood := 0, ptpTime := false, edgeSeen := false, missed := 0, regained := 0, slew := 0, stretching := none
    aligning := decide (v ≠ 0) })
  s.wr K.frameStatus (setFld (setFld (s.rd K.frameStatus) 5 2 (if v = 0 then 0 else 1)) 1 0 v)

/-- A write of FRAME_NUMBER_LOAD (R36). TAKE_PENDING_FRAME follows it (R42). -/
def State.frameLoad (s : State) (v : Nat) : State := (s.updFl (fun f => { f with loadPending := some v })).showPending

/-! ### SLATE_IN (R34) -/

/-- The SLATE_IN source is selected. -/
def State.slateInMode (s : State) : Bool := s.rd K.slateSource = 2

/-- The source has been lost (R34). -/
def State.sourceLost (s : State) : Bool := bit (s.rd K.frameStatus) 4

/-- A rising edge on SLATE_IN, `off` ns after the slate expected (before it if negative) and `spacing` ns after the edge
before (R34, R35). The edge that aligns the phase is taken wherever it falls. -/
def State.slateInEdge (s : State) (off : Int) (spacing : Nat) : State :=
  let w := s.rd K.slateInWindow
  if !s.slateInMode then s
  else if s.sourceLost then
    let spaced : Bool := 250000 ≤ spacing + w && spacing ≤ 250000 + w
    s.updFl (fun f => { f with regained := if spaced then f.regained + 1 else 1 })
  else if s.fl.aligning then (s.align off).updFl (fun f => { f with edgeSeen := true, missed := 0 })
  else if off.natAbs ≤ w then s.updFl (fun f => { f with edgeSeen := true, slew := off, missed := 0 })
  else (s.count K.missedSlateCount 1).updFl (fun f => { f with edgeOut := true })

/-- SLATE_IN_EDGE. -/
def execSlateInEdge (off : Int) (spacing : Nat) (s : State) : Out := .next (s.slateInEdge off spacing)

/-- The source is reported lost (R34): the part runs as in FREE mode. -/
def State.slateInLost (s : State) : State :=
  if s.slateInMode ∧ !s.sourceLost ∧ 16 ≤ s.fl.missed then
    let s := s.updFl (fun f => { f with regained := 0, slew := 0, aligning := false, stretching := none })
    s.wr K.frameStatus (setFld (setFld (s.rd K.frameStatus) 4 2 4) 1 0 0)
  else s

/-- SLATE_IN_SOURCE_LOST. -/
def execSlateInSourceLost (s : State) : Out := .next s.slateInLost

/-- Four edges spaced rightly re-acquire the source, with a phase error of `phase` ns (R34, R35). -/
def State.slateInAgain (s : State) (phase : Int) : State :=
  if s.slateInMode ∧ s.sourceLost ∧ 4 ≤ s.fl.regained then
    let s := (s.updFl (fun f => { f with regained := 0, missed := 0, edgeSeen := true })).align phase
    s.wr K.frameStatus (setFld (setFld (s.rd K.frameStatus) 4 2 1) 1 0 2)
  else s

/-- SLATE_IN_REACQUIRE. -/
def execSlateInReacquire (phase : Int) (s : State) : Out := .next (s.slateInAgain phase)

/-! ### PTP (R33) -/

/-- The PTP source is selected. -/
def State.ptpMode (s : State) : Bool := s.rd K.slateSource = 1

/-- The part takes a Sync of management port `port` (R33): the port that PTP_PORT names, or with either the sender that
best-master selection has chosen, `best` (log entry 122). -/
def State.ptpTakes (s : State) (port : Nat) (best : Bool) : Bool :=
  if s.rd K.ptpPort = 2 then best else decide (port = s.rd K.ptpPort)

/-- A Sync message on management port `port` in domain `dom`, with the measured offset in ns (R33). It ends a holdover,
after which the phase is aligned anew (R35). -/
def State.ptpSync (s : State) (port dom : Nat) (best : Bool) (offset : Int) : State :=
  if !s.ptpMode ∨ dom ≠ s.rd K.ptpDomain ∨ !s.ptpTakes port best then s
  else
    let again : Bool := s.fl.aligning || bit (s.rd K.frameStatus) 5
    let good : Bool := offset.natAbs < 1000
    let s := s.setStatus 5 5 0
    let s := if again then s.align offset
      else if s.fl.stretching.isSome then s else s.updFl (fun f => { f with slew := offset })
    let s := s.updFl (fun f => { f with ptpTime := true, ptpGood := if good then f.ptpGood + 1 else 0 })
    if good then s else s.setStatus 3 2 1

/-- PTP_SYNC. -/
def execPtpSync (port dom : Nat) (best : Bool) (offset : Int) (s : State) : Out := .next (s.ptpSync port dom best offset)

/-- The frame logic reports itself locked after 16 Syncs below 1 us (R33). -/
def State.ptpLocked (s : State) : State := if s.ptpMode ∧ 16 ≤ s.fl.ptpGood then s.setStatus 3 2 2 else s

/-- PTP_LOCKED. -/
def execPtpLocked (s : State) : Out := .next s.ptpLocked

/-- Sync messages have stopped: the part holds over on its frame clock (R33). -/
def State.ptpHoldover (s : State) : State :=
  if s.ptpMode ∧ s.fl.ptpTime then
    ((s.updFl (fun f => { f with ptpGood := 0, slew := 0 })).setStatus 5 5 1).setStatus 3 2 1
  else s

/-- PTP_HOLDOVER. -/
def execPtpHoldover (s : State) : Out := .next s.ptpHoldover

/-- SLATE_OUT falls SLATE_OUT_WIDTH after the slate (R37). -/
def execSlateOutFall (s : State) : Out := .next (s.updFl (fun f => { f with slateOut := false }))

/-- The slate tree is silent: each tile generates its slates from its own counter, until a new lead tile drives the tree
(R29). -/
def execSlateTreeSilent (s : State) : Out := .next (s.updFl (fun f => { f with treeSilent := true }))

/-! ### The frame number at a slate (R28, R30, R32, R36) -/

/-- Every stored due frame, and every frame from which the part counts slates, `d` later (R32). -/
def State.advanceDue (s : State) (d : Nat) : State :=
  if d = 0 then s
  else
    let adv : Tab Nat → Tab Nat := fun t => t.map (fun e => (e.1, e.2 + d))
    let s := (List.range 64).foldl (fun (s : State) p =>
      if s.rd (K.partitionStatus p) = 2 then s.wr (K.quarantineEnd p) (s.rd (K.quarantineEnd p) + d) else s) s
    let s := (s.lease.lastBeat.map (fun e => e.1)).foldl (fun (s : State) b => s.wr (K.leaseExpiry b) (s.rd (K.leaseExpiry b) + d)) s
    { s with
      quarantine := adv s.quarantine
      lease := { s.lease with lastBeat := adv s.lease.lastBeat, grace := adv s.lease.grace, silent := adv s.lease.silent
                              portOut := adv s.lease.portOut }
      ports := s.ports.map (fun e => (e.1, { e.2 with cache := e.2.cache.map (fun c => { c with frame := c.frame + d }) }))
      pends := s.pends.map (fun e => (e.1, { e.2 with awaited := e.2.awaited.map (fun x => (x.1, x.2 + d)) }))
      stackTab := s.stackTab.map (fun e => (e.1, { e.2 with
        throttleEnd := adv e.2.throttleEnd
        retrainAsk := e.2.retrainAsk.map (fun x => (x.1, x.2 + d))
        retrained := e.2.retrained.map (fun x => (x.1, x.2 + d))
        corrections := e.2.corrections.map (fun c => (c.1 + d, c.2))
        coolSince := e.2.coolSince.map (fun f => f + d) }))
      links := s.links.map (fun e => (e.1, { e.2 with failedAt := e.2.failedAt.map (fun f => f + d) }))
      parts := s.parts.map (fun e => (e.1, { e.2 with lastAdvance := e.2.lastAdvance.map (fun f => f + d) }))
      sess := s.sess.map (fun e => (e.1, { e.2 with lastFrame := e.2.lastFrame + d }))
      gaff := { s.gaff with
        coolant := s.gaff.coolant.map (fun f => f + d)
        sensors := s.gaff.sensors.map (fun e => (e.1, { e.2 with since := e.2.since + d })) }
      boot := { s.boot with
        warmAt := s.boot.warmAt.map (fun x => (x.1 + d, x.2))
        bites := s.boot.bites.map (fun f => f + d) } }

/-- Adopt a compared number `src`, or keep `own` (R36): the number of the frame that begins. -/
def State.compareNumber (s : State) (own : Nat) (src : Int) : State :=
  if (own : Int) ≤ src then
    let n := src.toNat
    ((s.advanceDue (n - own)).wrs [(K.frameNumber, n), (K.frameOffset, 0)]).setStatus 7 7 0
  else (s.wrs [(K.frameNumber, own), (K.frameOffset, ofSigned 64 (src - own))]).setStatus 7 7 1

/-- The number of the frame that begins, `ptp` being the PTP time of its slate in ns (R30, R36). The number that follows
2^64 - 1, which a load can reach, is written as it is: R30 states none (DESIGN CHOICE, log entry 120). -/
def State.nextNumber (s : State) (ptp : Nat) : State :=
  let own := s.frame + 1
  if s.ptpMode then
    if s.fl.ptpTime then s.compareNumber own ((((ptp : Int) - s.rd K.frameEpoch) + 125000) / 250000)
    else s.wr K.frameNumber own
  else
    match s.fl.loadPending with
    | some l => (s.updFl (fun f => { f with loadPending := none })).compareNumber own l
    | none => s.wr K.frameNumber own

/-- The frame clock at a slate (R28, R34 to R37): the length of the frame that ended, a missed edge, the lock, SLATE_OUT. -/
def State.clockSlate (s : State) : State :=
  let missedOne : Bool := s.slateInMode && !s.sourceLost && !s.fl.edgeSeen
  let s := if missedOne && !s.fl.edgeOut then s.count K.missedSlateCount 1 else s
  let s := if missedOne then s.updFl (fun f => { f with missed := f.missed + 1 }) else s
  let s := match s.fl.stretching with
    | some _ => (s.updFl (fun f => { f with stretching := none, lastFrameTicks := f.ticks })).setStatus 6 6 1
    | none => s.updFl (fun f => { f with slew := (slewTicks f.slew).2, lastFrameTicks := f.ticks })
  let s := if s.slateInMode && !s.sourceLost && !s.fl.aligning && s.fl.slew = 0 then s.setStatus 3 2 2 else s
  s.updFl (fun f => { f with now := 0, inGuard := false, edgeSeen := false, edgeOut := false, slateOut := true })

end Sys2Proof.Machine
end

