-- ==== Sys2Proof/Machine/Lane.lean ====
section
/-!
DEFINITION. The lane layer's fixed rules (03 R58 to R66, R86): the FEC interleave, scrambling and PAM4 mapping, cell
headers, the cell CRC, and training words.
-/

namespace Sys2Proof.Machine

/-! ### FEC interleave (R60, R61) -/

/-- Logical lane of symbol `k` of a block at `w` lanes. -/
def symLane (w k : Nat) : Nat := k % w
/-- Lane row of symbol `k`. -/
def symRow (w k : Nat) : Nat := k / w

/-- Codeword, 0 to 3 for A to D, of symbol `k` of a block at `w` lanes. -/
def symCodeword (w k : Nat) : Nat :=
  let l := symLane w k
  let r := symRow w k
  if w = 2 then (l + 2 * r) % 4 else if w = 1 then r % 4 else (l + r) % 4

/-- Position of symbol `k` in its codeword. -/
def symPosition (w k : Nat) : Nat :=
  let l := symLane w k
  let r := symRow w k
  if w = 8 then 2 * r + l / 4 else if w = 4 then r else if w = 2 then r / 2 else r / 4

/-- The lowest `n` lanes of a mask: those in use at a width of `n` lanes (R59, R87). -/
def lowLanes (mask n : Nat) : Nat :=
  (((List.range 8).filter (fun i => bit mask i)).take n).foldl (fun a i => a + 2 ^ i) 0

/-- Physical lane of logical lane `l`: the `l`-th set bit of the mask in ascending order (R59). -/
def physicalLane (mask l : Nat) : Nat := ((List.range 8).filter (fun i => bit mask i)).getD l 0

/-- Symbols of a block, of those received wrong, that fall in codeword `c`. -/
def wrongIn (w : Nat) (bad : List Nat) (c : Nat) : List Nat :=
  (bad.eraseDups.filter (fun k => k < 2176)).filter (fun k => symCodeword w k = c)

/-- A codeword with more than 15 wrong symbols is uncorrectable (R60). -/
def uncorrectable (w : Nat) (bad : List Nat) (c : Nat) : Bool := 15 < (wrongIn w bad c).length

/-! ### The FEC code (R60): RS(544,514) over GF(2^10) of IEEE 802.3 Clause 91; its polynomials are PRESUMED, log entry 126 -/

/-- Multiply by the field's generator, under x^10 + x^3 + 1. -/
def fecTimesX (a : Nat) : Nat := if bit a 9 then (a * 2) % 1024 ^^^ 9 else a * 2 % 1024

/-- Product in GF(2^10). -/
def fecMul (a b : Nat) : Nat :=
  (List.range 10).foldl (fun r i => fecTimesX r ^^^ (if bit b (9 - i) then a % 1024 else 0)) 0

/-- A polynomial, highest power first, times x - c. -/
def fecByRoot (c : Nat) (l : List Nat) : List Nat :=
  ((l ++ [0]).zip (0 :: l)).map (fun (e : Nat × Nat) => e.1 ^^^ fecMul c e.2)

/-- The generator polynomial below its leading term, highest power first: roots 1, x, ..., x^29. -/
def fecGenerator : List Nat :=
  (((List.range 30).foldl (fun (a : List Nat × Nat) _ => (fecByRoot a.2 a.1, fecTimesX a.2)) ([1], 1)).1).drop 1

/-- One message symbol enters the parity register. -/
def fecStep (r : List Nat) (m : Nat) : List Nat :=
  let f := m ^^^ r.headD 0
  (((r.drop 1) ++ [0]).zip fecGenerator).map (fun (e : Nat × Nat) => e.1 ^^^ fecMul f e.2)

/-- A codeword: 514 message symbols in positions 0 to 513, then 30 of parity in 514 to 543. -/
def fecEncode (msg : List Nat) : List Nat := msg ++ msg.foldl fecStep (List.replicate 30 0)

/-- The number that bits spell, the first the most significant. -/
def bitsNat (l : List Bool) : Nat := l.foldl (fun n b => 2 * n + b2n b) 0

/-- Message symbol `j` of codeword `c`: the block's bits are taken in the order A0 B0 C0 D0 A1, ten to a symbol, [9] first as it is
sent (DEDUCED, log entry 126). -/
def messageSymbol (bits : List Bool) (c j : Nat) : Nat := bitsNat ((bits.drop ((4 * j + c) * 10)).take 10)

/-- The 2,176 symbols of a block of 20,560 data bits at `w` lanes, in transmission order (R60, R61). -/
def blockSymbols (w : Nat) (bits : List Bool) : List Nat :=
  let words := (List.range 4).map (fun c => fecEncode ((List.range 514).map (messageSymbol bits c)))
  (List.range 2176).map (fun k => (words.getD (symCodeword w k) []).getD (symPosition w k) 0)

/-! ### Superblocks (R63): 128 blocks, 2,631,680 data bits, 1,285 cells -/

/-- Data bits of a block. -/
abbrev blockBits : Nat := 20560
/-- Cells of a superblock. -/
abbrev superCells : Nat := 1285

/-- Bits of cells in the order they are sent: byte 0 first, each byte most significant bit first. -/
def cellBits (l : List Byte) : List Bool := (l.map (fun b => (List.range 8).map (fun i => bit b.toNat (7 - i)))).flatten

/-- The last cell with a bit in block `b`, both counted from superblock 0. -/
def blockLastCell (b : Nat) : Nat := (blockBits * b + blockBits - 1) / 2048

/-- Cell `c` has a bit in block `b`. -/
def blockMeets (b c : Nat) : Bool := blockBits * b / 2048 ≤ c && c ≤ blockLastCell b

/-- A cell boundary coincides with a block boundary: the cell begins a superblock, where delineation is checked. -/
def beginsSuper (c : Nat) : Bool := c % superCells = 0

/-! ### Scrambling and modulation (R62) -/

/-- The scrambler's next bit and state: 1 + x^39 + x^58, the newest bit lowest. -/
def scrambleStep (st : Nat) : Bool × Nat :=
  let b := xor (bit st 38) (bit st 57)
  (b, (st * 2 + b2n b) % 2 ^ 58)

/-- Data bits scrambled from state `st`, which is all ones at the start of a superblock. -/
def scramble (st : Nat) : List Bool → List Bool
  | [] => []
  | d :: t => let r := scrambleStep st; xor d r.1 :: scramble r.2 t

/-- PAM4 level of a bit pair, Gray-coded. -/
def pam4 (p : Nat) : Nat := if p = 0 then 0 else if p = 1 then 1 else if p = 3 then 2 else 3

/-- The five PAM4 levels of a 10-bit symbol, first sent first. -/
def pam4Symbol (x : Nat) : List Nat :=
  [pam4 (fld x 9 8), pam4 (fld x 7 6), pam4 (fld x 5 4), pam4 (fld x 3 2), pam4 (fld x 1 0)]

/-- 1/(1+D) precoding of PAM4 levels. -/
def precode (prev : Nat) : List Nat → List Nat
  | [] => []
  | x :: t => let y := (x + 4 - prev) % 4; y :: precode y t

/-- The PAM4 levels of logical lane `l` of `w`, over one superblock of the cells `cells`, with or without precoding: the data bits
scrambled from all ones, encoded block by block, and every symbol of the lane sent as five levels (R60 to R63). -/
def laneLevels (w l : Nat) (pre : Bool) (cells : List (List Byte)) : List Nat :=
  let bits := scramble (2 ^ 58 - 1) ((cells.map cellBits).flatten)
  let syms := ((List.range 128).map (fun b => blockSymbols w ((bits.drop (blockBits * b)).take blockBits))).flatten
  let mine := ((List.range syms.length).filter (fun k => symLane w k = l)).map (fun k => syms.getD k 0)
  let levels := (mine.map pam4Symbol).flatten
  if pre then precode 0 levels else levels

/-! ### Cells (R66, R68) -/

/-- SEQ of a cell header. -/
def cSeq (h : Nat) : Nat := fld h 63 52
/-- ACK. -/
def cAck (h : Nat) : Nat := fld h 51 40
/-- CTYPE. -/
def cType (h : Nat) : Nat := fld h 39 36
/-- PVC. -/
def cPvc (h : Nat) : Nat := fld h 35 34
/-- CVC. -/
def cCvc (h : Nat) : Nat := fld h 33 32
/-- CREDIT. -/
def cCredit (h : Nat) : Nat := fld h 31 16
/-- KPH. -/
def cKph (h : Nat) : Nat := fld h 15 15
/-- AV. -/
def cAv (h : Nat) : Bool := bit h 14
/-- PLEN. -/
def cPlen (h : Nat) : Nat := fld h 7 0

/-- A cell header from its fields. -/
def cellHdr (seq ack ctype pvc cvc credit kph : Nat) (av : Bool) (plen : Nat) : Nat :=
  seq % 4096 * 2 ^ 52 + ack % 4096 * 2 ^ 40 + ctype % 16 * 2 ^ 36 + pvc % 4 * 2 ^ 34 + cvc % 4 * 2 ^ 32
    + credit % 65536 * 2 ^ 16 + kph % 2 * 2 ^ 15 + b2n av * 2 ^ 14 + plen % 256

/-- One bit of CRC-32C, reflected. -/
def crc32cBit (c : Nat) : Nat := if c % 2 = 1 then (c / 2) ^^^ 0x82F63B78 else c / 2

/-- CRC-32C of bytes, with the conventions of iSCSI. -/
def crc32c (l : List Byte) : Nat :=
  (l.foldl (fun c b => (List.range 8).foldl (fun c _ => crc32cBit c) (c ^^^ b.toNat)) 0xFFFFFFFF) ^^^ 0xFFFFFFFF

/-- The 32-bit salt and the 64-bit count of a cell's IV, most significant byte first (R70). -/
def cellIv (salt : List Byte) (count : Nat) : List Byte := padTo 4 salt ++ toBE 8 count

/-- The 256 bytes of a cell under key `key` and salt `salt`: header, payload, tag and CRC (R66, R70). -/
def Cell.bytes (c : Cell) (key salt : List Byte) : List Byte :=
  let h := toBE 8 c.hdr
  let p := padTo 232 c.payload
  let iv := cellIv salt c.count
  let body := if bit c.count 63 then h ++ p ++ Config.gcm key iv (h ++ p) []
    else h ++ Config.gcm key iv h p
  let b := padTo 252 body
  b ++ toLE 4 (crc32c b)

/-- The bootstrap key (17 R385). -/
def bootstrapKey : List Byte := (sha384 (ascii "Stohar bootstrap link key v2")).take 32
/-- The bootstrap salt (17 R385). -/
def bootstrapSalt : List Byte := (sha384 (ascii "Stohar bootstrap salt v2")).take 4
/-- Link key of direction `d` and phase `n` (17 R386). -/
def linkKey (ems : List Byte) (d n : Nat) : List Byte := kdf ems (ascii "STOHAR LINK KEY") (toBE 1 d ++ toBE 8 n) 256
/-- Link salt of direction `d` (17 R386). -/
def linkSalt (ems : List Byte) (d : Nat) : List Byte := kdf ems (ascii "STOHAR LINK SALT") (toBE 1 d) 32

/-! ### Training words (R86) -/

/-- CRC-16 of a number of `n` bits, most significant bit first. -/
def crc16 (n v : Nat) : Nat :=
  (List.range n).foldl (fun c i =>
    let b := xor (bit v (n - 1 - i)) (bit c 15)
    let c := c * 2 % 65536
    if b then c ^^^ 0x1021 else c) 0xFFFF

/-- A training word from its fields. -/
def trainingWord (lane state config mask no countdown : Nat) : Nat :=
  let w := 0xC3A55A3C * 2 ^ 96 + lane % 256 * 2 ^ 88 + state % 256 * 2 ^ 80 + config % 256 * 2 ^ 72 + mask % 256 * 2 ^ 64
    + no % 65536 * 2 ^ 48 + countdown % 65536 * 2 ^ 32
  w + crc16 112 (w / 65536)

/-- LANE of a training word. -/
def twLane (w : Nat) : Nat := fld w 95 88
/-- STATE, without FRESH. -/
def twState (w : Nat) : Nat := fld w 86 80
/-- FRESH. -/
def twFresh (w : Nat) : Bool := bit w 87
/-- CONFIG and LANE_MASK. -/
def twConfig (w : Nat) : Nat := fld w 79 64
/-- PRECODE_REQ. -/
def twPrecode (w : Nat) : Bool := bit w 75
/-- SPLICE_NO. -/
def twNo (w : Nat) : Nat := fld w 63 48
/-- COUNTDOWN. -/
def twCount (w : Nat) : Nat := fld w 47 32
/-- What words of one state on different lanes have in common: every field but LANE. -/
def twCommon (w : Nat) : Nat := fld w 87 32

/-- A received training word is valid: its marker and its check. -/
def trainingOk (w : Nat) : Bool := fld w 127 96 = 0xC3A55A3C && fld w 15 0 = crc16 112 (fld w 127 16)

end Sys2Proof.Machine
end

