-- ==== Sys2Proof/Machine/Leases.lean ====
section
/-!
DEFINITION. Device extents that change hands, and leases: erasure, quarantine, lateness, expiry and reclaim
(06 R144, R145, R149 to R152, 07 R178).
-/

namespace Sys2Proof.Machine

/-! ### Device extents that change hands (R144, R145) -/

/-- Begin the crypto-erase of device extent `d` for the owner `handle` (0: freed): requests to it wait (R52, R382). -/
def State.beginErase (s : State) (d handle : Nat) : State :=
  ({ s with erasing := Tab.set s.erasing d handle } : State).wrs [(K.dxnState d, 3), (K.keyState d, 2)]

/-- A device extent that no valid entry names any longer is erased and quarantined for 8 frames (R145). -/
def State.freeExtent (s : State) (d : Nat) : State :=
  let s := s.beginErase d 0
  { s with quarantine := Tab.set s.quarantine d (s.frame + 8) }

/-- A line lies in device extent `d`. -/
def lineInDxn (d ln : Nat) : Bool := dpos (dpaLocal (ln * 128)) = d

/-- The requests of a pending record that the home itself still serves. -/
def Pend.kept (q : Pend) : List Req := q.after.map (·.1) ++ (match q.collect with | .own r => [r] | _ => []) ++ q.bars.map (·.2)

/-- The line that a request waits for. -/
def Wait.line? : Wait → Option Nat
  | .line ln => some ln
  | .evict ln => some ln
  | .recalling ln => some ln
  | .retry ln => some ln
  | _ => none

/-- What an outstanding request of the part is for, once the lines of device extent `d` have left the directory. -/
def State.oldPurpose (s : State) (d : Nat) (w : Purpose) : Purpose :=
  match w with
  | .fwd ln k b =>
    if lineInDxn d ln then
      match (s.pend ln).fwds.find? (fun f => f.k = k && f.holder = b) with
      | some f => .oldFwd b f.req.port f.req.id
      | none => .oldInval b
    else w
  | .backInval ln b => if lineInDxn d ln then .oldInval b else w
  | _ => w

/-- Directory holdings of a device extent: its holders are back-invalidated and every record of it is dropped (R52); `gone` are
bindings that end with it, which are sent nothing (07 R178). A forward that a holder may still answer stays owed, and data that
comes late is discarded. The other requests for its lines are judged again under the new map. -/
def State.clearDir (s : State) (gone : List Nat) (d : Nat) : State :=
  let live := fun (b : Nat) => s.bindingLives b && !gone.contains b
  let mine := s.dir.filter (fun e => lineInDxn d e.1)
  let s := mine.foldl (fun s e =>
    let p := match s.vaOfLine e.1 with | some x => x.1 | none => 0
    ((s.backInvals e.1 ((s.holdersOf e.2 p).filter live)).2).dropEnt e.1) s
  let qs := (s.pends.filter (fun q => lineInDxn d q.1)).map (·.2)
  let fs := (qs.map (·.fwds)).flatten
  let served := fs.filter (fun f => match f.ack with | some x => decide (x.1 = 0) | none => false)
  let again := fs.filter (fun f => match f.ack with | some x => decide (x.1 ≠ 0) | none => !live f.holder)
  let s := served.foldl (fun s f => s.finish f.req) s
  let s := (again.map (·.req) ++ (qs.map Pend.kept).flatten).foldl (fun s r => s.hold .home r) s
  let s := { s with waiting := s.waiting.map (fun (w : Wait × Req) =>
    match w.1.line? with
    | some ln => if lineInDxn d ln then (Wait.home, w.2) else w
    | none => w) }
  { s with
    ports := s.ports.map (fun (q : Nat × Port) => (q.1, { q.2 with outReq := q.2.outReq.map (fun x =>
      { x with purpose := s.oldPurpose d x.purpose }) }))
    pends := Tab.eraseIf s.pends (lineInDxn d)
    evicts := Tab.eraseIf s.evicts (lineInDxn d) }

/-- What DXN_STATE shows of a device extent that is not being erased (R160). -/
def State.restDxnState (s : State) (d : Nat) : Nat :=
  if (Tab.find s.quarantine d).isSome then 4
  else match s.extentOf d with
    | none => 0
    | some (_, _, e) => if eDxn e = d then 1 else 2

/-- The handle that owns a device extent now, 0 for none (R140, R141). -/
def State.ownerHandle (s : State) (d : Nat) : Nat :=
  match s.extentOf d with
  | none => 0
  | some (p, _, _) => s.handleOf p

/-- Replace the ownership tag of a device extent's frames. -/
def State.setTag (s : State) (d h : Nat) : State :=
  { s with tags := if h = 0 then Tab.erase s.tags d else Tab.set s.tags d h }

/-- Steps 1 to 4 of R144. -/
def State.eraseExtent (s : State) (d : Nat) : State :=
  match Tab.find s.erasing d with
  | none => s
  | some h =>
    let s := s.setFresh d
    let s := { s with keyIds := Tab.erase s.keyIds d, erasing := Tab.erase s.erasing d }
    let s := (s.wr (K.keyState d) 0).setTag d h
    (s.wr (K.dxnState d) (s.restDxnState d)).wake (.erase d)

/-- The quarantine of a device extent ends at the slate it is due (R145). -/
def State.quarantineEnd (s : State) (d : Nat) : State :=
  match Tab.find s.quarantine d with
  | none => s
  | some f =>
    if f ≤ s.frame then
      let s := { s with quarantine := Tab.erase s.quarantine d }
      if (Tab.find s.erasing d).isSome then s else s.wr (K.dxnState d) (s.restDxnState d)
    else s

/-- Draw the key that requests to an EMPTY extent wait for (R382); the requests go on to their home. -/
def State.keyDraw (s : State) (d : Nat) : State :=
  if s.keySt d = 0 ∧ (s.waitersOf (.key d)) ≠ [] ∧ (s.keyDrawer d).isSome then (s.drawKey d).wake (.key d) else s

/-! ### Leases (R150, R151) -/

/-- Binding `b` is due to become LATE. -/
def State.lateDue (s : State) (b : Nat) : Bool :=
  s.rd (K.leaseState b) = 1 && Tab.getD s.lease.lastBeat b 0 + 2 * s.leaseH b ≤ s.frame

/-- The lease of binding `b` becomes LATE and its endpoint is told, once (R151). -/
def State.leaseLate (s : State) (b : Nat) : State :=
  if s.lateDue b then
    let d := s.binding b
    (s.wr (K.leaseState b) 2).notify (bPort d) (bEid d) (s.handleOf (bPart d)) 4 b (s.rd (K.leaseExpiry b)) Code.ok
  else s

/-- Binding `b` is due to expire (R150). -/
def State.expireDue (s : State) (b : Nat) : Bool :=
  (s.rd (K.leaseState b) = 1 || s.rd (K.leaseState b) = 2) && s.rd (K.leaseExpiry b) ≤ s.frame

/-- The extents that binding `b` holds in partition `p`: extent indexes. -/
def State.heldBy (s : State) (p b : Nat) : List Nat :=
  s.regs.filterMap (fun kv =>
    if kv.1 / 16777216 = (0x3400 + p) * 256 + 1 ∧ eValid kv.2 ∧ eHeld kv.2 ∧ eHolder kv.2 = b then some (kv.1 % 16777216) else none)

/-- Steps 3 and 4 of R152 on one held extent of partition `p`. -/
def State.reclaimExtent (s : State) (p i : Nat) : State :=
  let e := s.entry p i
  if eRetained e then (s.partMade (K.extentMap p i) (setFld e 12 12 0)).count (K.reclaimCounts 3) 1
  else
    let s := (s.clearDir [] (eDxn e)).count (K.reclaimCounts 2) 1
    let s := (s.partMade (K.extentMap p i) (setFld e 63 63 0)).freeExtent (eDxn e)
    if eMirrored e then s.freeExtent (eMirror e) else s

/-- Steps 2 to 4 of R152 for an ending binding whose descriptor was `d` and which held the extents `l` of its partition. -/
def State.reclaim (s : State) (b d cause : Nat) (l : List Nat) : State :=
  let s := s.holderLost b cause
  let s := l.foldl (fun s i => s.reclaimExtent (bPart d) i) s
  { s with lease := { s.lease with
      reclaiming := s.lease.reclaiming ++ [(b, d, cause)]
      grace := Tab.erase s.lease.grace b
      silent := Tab.erase s.lease.silent b
      lastBeat := if cause = 1 then Tab.erase s.lease.lastBeat b else s.lease.lastBeat } }

/-- The lease of binding `b` expires, when due (R150 to R152). -/
def State.leaseExpire (s : State) (b : Nat) : State :=
  if s.expireDue b then
    let d := s.binding b
    let l := s.heldBy (bPart d) b
    ((s.wr (K.leaseState b) 3).count (K.reclaimCounts 0) 1).reclaim b d 1 l
  else s

/-- Step 5 of R152: an expired lease is DEAD, and the completion cache of the old binding is emptied; a new binding under the same
number began with an empty one. -/
def State.reclaimDone (s : State) (b : Nat) : State :=
  match s.lease.reclaiming.find? (fun x => x.1 = b) with
  | none => s
  | some x =>
    let s := { s with lease := { s.lease with reclaiming := s.lease.reclaiming.filter (fun y => y.1 ≠ b) } }
    let st := s.rd (K.leaseState b)
    if st = 1 ∨ st = 2 then s
    else
      let s := s.updPort (bPort x.2.1) (fun q => { q with cache := q.cache.filter (fun c => c.bind ≠ b) })
      if st = 3 then s.wr (K.leaseState b) 4 else s

/-! ### Grace (07 R178) -/

/-- A forward or BACK_INVAL to a holder is given up: its grace time begins (04 R116). -/
def State.startSilence (s : State) (b : Nat) : State :=
  if (Tab.find s.lease.silent b).isSome then s
  else ({ s with lease := { s.lease with silent := Tab.set s.lease.silent b (s.frame + s.eff K.cohGraceFrames) } } : State).wr
    (K.cohHolderState b) 1

/-- A holder's port comes back: that grace time ends (R178). -/
def State.endGrace (s : State) (b : Nat) : State :=
  if (Tab.find s.lease.grace b).isNone then s
  else ({ s with lease := { s.lease with grace := Tab.erase s.lease.grace b } } : State).wr (K.cohHolderState b)
    (if (Tab.find s.lease.silent b).isSome then 1 else 0)

/-- A holder answers: that grace time ends (R178). -/
def State.endSilence (s : State) (b : Nat) : State :=
  if (Tab.find s.lease.silent b).isNone then s
  else ({ s with lease := { s.lease with silent := Tab.erase s.lease.silent b } } : State).wr (K.cohHolderState b)
    (if (Tab.find s.lease.grace b).isSome then 1 else 0)

/-- A grace time of a holder has passed: it is lost (R178, R179). -/
def State.graceExpire (s : State) (b : Nat) : State :=
  let due := fun (x : Option Nat) => match x with | some f => decide (f ≤ s.frame) | none => false
  if due (Tab.find s.lease.grace b) || due (Tab.find s.lease.silent b) then
    ({ s with lease := { s.lease with grace := Tab.erase s.lease.grace b, silent := Tab.erase s.lease.silent b } } : State).holderLost b 2
  else s

/-- A MODIFIED line's awaited WRITEBACK has not come within the grace time (R176): the line is lost, and the requests
behind it are served from memory. -/
def State.awaitedTimeout (s : State) (ln : Nat) : State :=
  let q := s.pend ln
  match q.awaited with
  | none => s
  | some (b, f) =>
    if f + s.eff K.cohGraceFrames ≤ s.frame then
      ((s.loseLine ln b 2).awaitOver ln).settleLine ln
    else s

/-- During grace, each forward and BACK_INVAL owed by the holder is resent once at each slate (R178). -/
def State.resendOwed (s : State) (b : Nat) : State :=
  s.ports.foldl (fun s q =>
    (q.2.outReq.filter (fun x => match x.purpose with
      | .fwd _ _ h => decide (h = b)
      | .backInval _ h => decide (h = b)
      | .oldFwd h _ _ => decide (h = b)
      | .oldInval h => decide (h = b)
      | _ => false)).foldl (fun s x => s.sendOwn x.port { x.msg with flags := 128 }) s) s

end Sys2Proof.Machine
end

