-- ==== Sys2Proof/Machine/Link.lean ====
section
/-!
DEFINITION. The link layer of a port (03 R64 to R89): header fields in both directions, replay, credits, key phases, link
sessions, splices and training. What a delivered cell carries goes to the transport in Receive.lean.
-/

namespace Sys2Proof.Machine

/-! ### Tables -/

/-- Link of port `p`. -/
def State.link (s : State) (p : Nat) : Link := Tab.getD s.links p {}
/-- Replace it. -/
def State.setLink (s : State) (p : Nat) (v : Link) : State := { s with links := Tab.set s.links p v }
/-- Update it. -/
def State.updLink (s : State) (p : Nat) (f : Link → Link) : State := s.setLink p (f (s.link p))

/-- Element `i` of a list of naturals. -/
def nth (l : List Nat) (i : Nat) : Nat := l.getD i 0
/-- Add to element `i`. -/
def addAt (l : List Nat) (i n : Nat) : List Nat := modifyAt l i (· + n)
/-- Add 1 to element `i` of 32-bit counters (R80). -/
def bump32 (l : List Nat) (i : Nat) : List Nat := modifyAt l i (fun x => (x + 1) % 2 ^ 32)
/-- Set element `i`. -/
def setAt (l : List Nat) (i v : Nat) : List Nat := modifyAt l i (fun _ => v)

/-- Count a link event (R90): 0 CRC drops, 1 tag failures, 2 replay requests sent, 3 replays served, 4 timer replays,
5 duplicates, 6 protocol errors, 7 bad lanes, 8 splices, 9 session ends. -/
def State.linkEvent (s : State) (p i : Nat) : State := s.count (K.linkEvents p i) 1

/-- Credit that a limit `l` leaves a sent count `n`, both 32-bit counters (R80): the transmitter may send while this is not 0. A
sent count beyond the limit, as a smaller window can leave it, holds no credit (DEDUCED, log entry 125). -/
def creditLeft (l n : Nat) : Nat :=
  let d := (l + 2 ^ 32 - n % 2 ^ 32) % 2 ^ 32
  if d < 2 ^ 31 then d else 0

/-- CREDIT_STATE follows the transmitter (R81, log entry 18): credit held and cells outstanding, per channel. -/
def State.showCredit (s : State) (p : Nat) : State :=
  let k := s.link p
  (List.range 4).foldl (fun s v =>
    s.wrs [(K.creditState p v, creditLeft (nth k.txL v) (nth k.txS v)),
      (K.creditState p (4 + v), (k.buffer.filter (fun c => cType c.hdr = 1 ∧ cPvc c.hdr = v)).length)]) s

/-! ### Lanes and training words (R59, R65, R85, R86) -/

/-- Widest width code that fits `n` lanes. -/
def widthFor (n : Nat) : Nat := if 8 ≤ n then 3 else if 4 ≤ n then 2 else if 2 ≤ n then 1 else 0

/-- Lanes set in a mask. -/
def laneCount (m : Nat) : Nat := ((List.range 8).filter (fun i => bit m i)).length

/-- The port's good lanes: enabled and not marked bad. -/
def State.goodLanes (s : State) (p : Nat) : Nat :=
  (List.range 8).foldl (fun a i => if bit (s.rd (K.laneEnable p)) i && !bit (s.link p).bad i then a + 2 ^ i else a) 0

/-- CONFIG of this end's training words (R86). -/
def trainConfig (width speed : Nat) (ask : Bool) : Nat := width % 4 * 64 + speed % 4 * 16 + b2n ask * 8

/-- The training words that this end sends in its training state, lane by lane (R85, R86): one on each agreed lane, or in TS4 the
sixteen whose COUNTDOWN falls from 15 to 0. FRESH is set by an end that has lost its link session (R89). -/
def Link.trainWords (k : Link) : List Nat :=
  match k.splice with
  | none => []
  | some x =>
    if !x.agreed then []
    else
      let counts := if k.ts = 4 then (List.range 16).map (fun i => 15 - i) else [0]
      let lanes := (List.range 8).filter (fun i => bit x.mask i)
      (lanes.map (fun l => counts.map (fun c =>
        trainingWord l (k.ts + b2n k.fresh * 128) (trainConfig x.width x.speed k.askPrecode) x.mask x.no c))).flatten

/-- The words that the port sends follow its training state. -/
def State.showTrain (s : State) (p : Nat) : State := s.updLink p (fun k => { k with train := k.trainWords })

/-! ### Link sessions (R71, R113) -/

/-- The link session of a port ends: replay buffer, unacknowledged cells and messages not yet carried are discarded, its
requests stop being pending, and a SECURE port falls back to BOOTSTRAP, at the end of a splice in progress if there is one. The
windows stay those in force (R90). LINK_EVENTS counts the end of a session under link session keys, which a port in BOOTSTRAP
does not have (DESIGN CHOICE, log entry 127). A lane marked bad stays so until a cold reset (DESIGN CHOICE, log entry 129). -/
def State.sessionEnd (s : State) (p : Nat) : State :=
  let k := s.link p
  let q := s.port p
  let dropped := (q.out.filter (fun m => 128 ≤ m.op)).length
  let was : Bool := s.rd (K.portState p) = 3 || (match k.splice with | some x => decide (x.back = 3) | none => false)
  let s := s.setLink p { ({} : Link) with
    uncorrRun := k.uncorrRun, crcRun := k.crcRun, laneErr := k.laneErr, laneOver := k.laneOver, bad := k.bad
    uncorr := k.uncorr, uncorrLast := k.uncorrLast, spliceNo := k.spliceNo, ts := k.ts, farCfg := k.farCfg
    splice := k.splice.map (fun x => { x with back := 2, farLast := none })
    farPrecode := k.farPrecode, askPrecode := k.askPrecode, laneOrder := k.laneOrder, train := k.train
    start := k.start, rxBlocks := k.rxBlocks, rxCells := k.rxCells, badBlocks := k.badBlocks, due := k.due, failedAt := k.failedAt
    lockHold := k.lockHold, upFails := k.upFails, mode := k.mode, sentMode := k.sentMode, farMode := k.farMode, fresh := true
    wire := k.wire, win := k.win, rxL := k.win }
  let s := s.setPort p { q with out := [], txBytes := [], rxPart := [], linkNo := q.linkNo + 1 }
  let s := s.count (K.transportCounts p 7) dropped
  let s := if was then s.linkEvent p 9 else s
  let s := { s.wr (K.portKeyState p) 0 with
    boot := { s.boot with spdm := Tab.erase s.boot.spdm p }
    sess := Tab.erase s.sess (512 + p) }
  ((if s.rd (K.portState p) = 3 then s.wr (K.portState p) 2 else s).showTrain p).showCredit p

/-! ### Sending cells (R66 to R72, R79 to R81) -/

/-- A channel's counter has changed since it was last carried (R79): its limit, or the credits released on it. -/
def Link.changed (k : Link) (v : Nat) : Bool :=
  if k.mode = 1 then nth k.rxL v ≠ nth k.carried v else nth k.rxOwed v ≠ 0

/-- The channel whose credit the next cell carries (R79): one whose refresh is due, else the next round from the last whose
counter has changed; the last again where none has (DESIGN CHOICE, log entry 125). -/
def Link.nextCvc (k : Link) : Nat :=
  match k.refresh with
  | v :: _ => v
  | [] => (([1, 2, 3, 4].map (fun i => (k.cvc + i) % 4)).find? k.changed).getD k.cvc

/-- The credit that a cell sent now carries: channel and CREDIT value, and the link after carrying it. -/
def Link.credit (k : Link) : (Nat × Nat) × Link :=
  let v := k.nextCvc
  let k' := { k with cvc := v, refresh := k.refresh.filter (· ≠ v), carried := setAt k.carried v (nth k.rxL v) }
  if k.mode = 1 then ((v, nth k.rxL v % 65536), k')
  else ((v, nth k.rxOwed v % 65536), { k' with rxOwed := setAt k.rxOwed v 0 })

/-- ACK and AV of a cell sent now (R66, R76). -/
def Link.ackField (k : Link) : Nat × Bool := if k.expect = 0 then (0, false) else ((k.expect - 1) % 4096, true)

/-- No key encrypts more than REKEY_CELLS cells (R73): at that count the transmitter stops. -/
def State.keySpent (s : State) (p : Nat) : Bool := s.rd (K.rekeyCells p) ≤ (s.link p).txCells

/-- Send a link-control cell of type `ctype`, its payload from offset 8 on (R67, R69, R70), from the port's reserve (02 R49); IDLE
fills a slot that nothing else uses. -/
def State.sendCtl (s : State) (p ctype : Nat) (body : List Byte) : State :=
  if s.keySpent p then s else
  let s := if ctype = 0 then s else s.reserveOut p false
  let k := s.link p
  let c := k.credit
  let count := 2 ^ 63 + k.ctlSent
  let h := cellHdr k.sent k.ackField.1 ctype 0 c.1.1 c.1.2 k.txPhase k.ackField.2 0
  let cell : Cell := ⟨h, padTo 232 (toLE 8 count ++ body), count, k.txPhase⟩
  s.setLink p { c.2 with ctlSent := k.ctlSent + 1, txCells := k.txCells + 1, wire := k.wire ++ [cell] }

/-- Send REPLAY_REQ for E (R74, R76) and start the holdoff. -/
def State.replayReq (s : State) (p reason : Nat) : State :=
  let e := (s.link p).expect % 4096
  ((s.sendCtl p 3 (toLE 2 e ++ toLE 2 reason)).updLink p (fun k => { k with holdoff := true })).linkEvent p 2

/-- Send a new sequenced cell: it takes the next count and is kept for replay (R67, R75). -/
def State.sendSeq (s : State) (p ctype vc : Nat) (d : List Byte) : State :=
  if s.keySpent p then s else
  let k := s.link p
  let c := k.credit
  let h := cellHdr k.sent k.ackField.1 ctype vc c.1.1 c.1.2 k.txPhase k.ackField.2 d.length
  let cell : Cell := ⟨h, padTo 232 d, k.sent, k.txPhase⟩
  (s.setLink p { c.2 with
    sent := k.sent + 1, buffer := k.buffer ++ [cell], txCells := k.txCells + 1, flipDue := false, wire := k.wire ++ [cell]
    txS := if ctype = 1 then bump32 k.txS vc else k.txS }).showCredit p

/-- Resend the cell at the resend point; the last buffered one ends REPLAYING (R75). A replay beyond the port's reserve reduces
the frame's capacity (02 R49). -/
def State.resendCell (s : State) (p : Nat) : State :=
  let k := s.link p
  if s.keySpent p then s else
  match k.buffer.find? (fun c => c.count = k.resend) with
  | none => s.setLink p { k with replaying := false }
  | some c => (s.reserveOut p true).setLink p { k with
      wire := k.wire ++ [c], txCells := k.txCells + 1, resend := k.resend + 1
      oldestResends := if k.resend = k.acked then k.oldestResends + 1 else k.oldestResends
      replaying := decide (k.resend + 1 < k.sent) }

/-! ### The partition's outbound share (R48, R49, R51) -/

/-- The partition charged with a message: that of its handle, or of the pair of a PAIR_WRITE (R236); 64 for the system. -/
def State.msgPart (s : State) (p : Nat) (m : Msg) : Nat :=
  if m.handle ≠ 0 then handlePart m.handle
  else if m.op = 0x58 then
    match (s.port p).outReq.find? (fun x => x.msg.tag = m.tag ∧ x.msg.epoch = m.epoch ∧ x.msg.dst = m.dst) with
    | some x => match x.purpose with
      | .pairWrite n _ _ => pdPart (s.pair n)
      | .pairResync n _ _ => pdPart (s.pair n)
      | _ => 64
    | none => 64
  else 64

/-- Outbound cells that a partition's share of a port is worth. -/
def State.shareOut (s : State) (p q : Nat) : Nat := s.cellsOut p * s.rd (K.portSharesOut q p) / 4096

/-- Outbound cells a partition has used this frame. -/
def State.usedOut (s : State) (p q : Nat) : Nat := Tab.getD (s.port p).usedOut q 0

/-- A message of partition `q` of channel `vc` may be sent now (R50, R51): as its share and the other partitions' messages of that
channel decide, for channels never wait on one another (04 R112). The system sends from its reserve (R49). -/
def State.maySend (s : State) (p vc q cells : Nat) : Bool :=
  if 64 ≤ q then true
  else s.servedNext (s.shareOut p) (s.usedOut p)
    (fun x => (s.port p).out.any (fun m => decide (m.vc = vc) && decide (s.msgPart p m = x))) (s.cellsOut p) q cells

/-- Move the next message of channel `vc` that may be sent into its byte stream (R92). -/
def State.serialise (s : State) (p vc : Nat) : State :=
  let q := s.port p
  match q.out.findIdx? (fun m => m.vc = vc && s.maySend p vc (s.msgPart p m) (msgCells m.bytes)) with
  | none => s
  | some i =>
    match q.out[i]? with
    | none => s
    | some m =>
      let x := s.msgPart p m
      let u := if x < 64 then Tab.set q.usedOut x (Tab.getD q.usedOut x 0 + msgCells m.bytes) else q.usedOut
      s.setPort p { q with
        out := q.out.eraseIdx i, usedOut := u, resOut := if x < 64 then q.resOut else q.resOut + msgCells m.bytes
        txBytes := Tab.set q.txBytes vc (Tab.getD q.txBytes vc [] ++ m.encode) }

/-- A transport cell waits on channel `vc`: bytes of a message, or a message that may be sent (R72). -/
def State.cellWaits (s : State) (p vc : Nat) : Bool :=
  !(Tab.getD (s.port p).txBytes vc []).isEmpty ||
    (s.port p).out.any (fun m => decide (m.vc = vc) && s.maySend p vc (s.msgPart p m) (msgCells m.bytes))

/-- A cell slot of channel `vc` (R63, R75): resend while REPLAYING; else a TRANSPORT cell when bytes wait and credit is held;
else the KEY_MARK of a phase that has begun, where no transport cell waits on any channel (R72); else IDLE. -/
def State.txSlot (s : State) (p vc : Nat) : State :=
  let st := s.rd (K.portState p)
  let k := s.link p
  if st ≠ 2 ∧ st ≠ 3 then s
  else if (match k.splice with | some x => x.agreed | none => false) then s
  else if k.replaying then s.resendCell p
  else
    let s := if (Tab.getD (s.port p).txBytes vc []).isEmpty then s.serialise p vc else s
    let b := Tab.getD (s.port p).txBytes vc []
    let k := s.link p
    let room := k.sent - k.acked < 2048
    if s.keySpent p then s
    else if room && !b.isEmpty && creditLeft (nth k.txL vc) (nth k.txS vc) ≠ 0 then
      (s.updPort p (fun q => { q with txBytes := Tab.set q.txBytes vc (b.drop 232) })).sendSeq p 1 vc (b.take 232)
    else if room && k.flipDue && !(List.range 4).any (s.cellWaits p) then s.sendSeq p 2 0 []
    else s.sendCtl p 0 []

/-! ### Receiving cells (R66 to R82) -/

/-- The next cell since superblock 0 arrives (R63, R64): whether it has a bit in an uncorrectable block, and the state that has
counted it. Blocks that reach no later cell are forgotten. -/
def State.cellArrives (s : State) (p : Nat) : Bool × State :=
  let k := s.link p
  let hit := k.badBlocks.any (fun b => blockMeets b k.rxCells)
  (hit, s.setLink p { k with
    rxCells := k.rxCells + 1
    badBlocks := k.badBlocks.filter (fun b => decide (k.rxCells < blockLastCell b)) })

/-- A cell that failed its CRC, or, `lost`, that lies in a block with an uncorrectable codeword: dropped whole (R64, R76). Only
the former counts toward the loss of lock, and the latter starts that count again. -/
def State.crcDrop (s : State) (p : Nat) (lost : Bool) : State :=
  (s.updLink p (fun k => { k with crcRun := if lost then 0 else k.crcRun + 1 })).linkEvent p 0

/-- The transmitter may flip its key phase: an acknowledgement covers a sequenced cell of the present one (R72). -/
def Link.mayFlip (k : Link) : Bool := !k.flipDue && k.phaseStart < k.acked

/-- The transmitter's key phase flips: the next new sequenced cell is the first of the new phase (R72). -/
def State.flipPhase (s : State) (p : Nat) : State :=
  let k := s.link p
  (s.setLink p { k with txPhase := k.txPhase + 1, txCells := 0, phaseStart := k.sent, flipDue := true, flipWait := false }).wr
    (K.portKeyState p) (2 * (k.rxPhase % 2) + (k.txPhase + 1) % 2)

/-- Act on the acknowledgement of a header (R75): an ACK outside the outstanding range is ignored and counted. A flip to
the link session's first keys that waited for it takes place (R72). -/
def State.ackIn (s : State) (p h : Nat) : State :=
  let k := s.link p
  if !cAv h then s
  else
    let d := (cAck h + 4096 + 1 - k.acked % 4096) % 4096
    if k.acked + d ≤ k.sent then
      if d = 0 then s
      else
        let a := k.acked + d
        let k := { k with
          acked := a, buffer := k.buffer.filter (fun c => decide (a ≤ c.count)), oldestResends := 0
          resend := max k.resend a, replaying := k.replaying && decide (max k.resend a < k.sent) }
        let s := (s.setLink p k).showCredit p
        if k.flipWait && k.mayFlip then s.flipPhase p else s
    else s.linkEvent p 6

/-- Extend a 32-bit limit by a received CREDIT value (R80). -/
def extendLimit (l credit : Nat) : Nat :=
  let d := (credit + 65536 - l % 65536) % 65536
  if d < 0x8000 then (l + d) % 2 ^ 32 else l

/-- Act on the credit of a header (R80, R81). -/
def State.creditIn (s : State) (p h : Nat) : State :=
  let k := s.link p
  let v := cCvc h
  let l := nth k.txL v
  (s.setLink p { k with txL := setAt k.txL v (if k.mode = 1 then extendLimit l (cCredit h) else (l + cCredit h) % 2 ^ 32) }).showCredit p

/-- The receiver's step on a link-control cell, before its content is acted on: `none` when the cell is dropped. -/
def State.rxCtl (s : State) (p h : Nat) (payload : List Byte) (crcOk tagOk : Bool) : Option State :=
  let k := s.link p
  if !crcOk then none
  else if 232 < cPlen h ∨ !tagOk then none
  else
    let cc := leAt payload 0 8
    let old : Bool := match k.lastCcount with | some x => decide (cc ≤ x) | none => false
    if cc / 2 ^ 63 ≠ 1 ∨ old then none
    else
      let s := (s.setLink p { k with lastCcount := some cc, crcRun := 0 }).ackIn p h
      let s := s.creditIn p h
      let d := (cSeq h + 4096 - k.expect % 4096) % 4096
      if 1 ≤ d ∧ d < 2048 ∧ !k.gap then some ((s.replayReq p 0).updLink p (fun k => { k with gap := true })) else some s

/-- What a link-control cell that is dropped leaves: its CRC drop, tag failure or protocol error counted (R66, R74). -/
def State.rxCtlDrop (s : State) (p h : Nat) (lost crcOk tagOk : Bool) : State :=
  if lost || !crcOk then s.crcDrop p lost
  else if 232 < cPlen h then s.linkEvent p 6
  else if !tagOk then (s.updLink p (fun k => { k with tagFails := k.tagFails + 1, crcRun := 0 })).linkEvent p 1
  else s.updLink p (fun k => { k with crcRun := 0 })

/-- A link-control cell arrives; `f` acts on its content. -/
def State.onCtl (s : State) (p h : Nat) (payload : List Byte) (crcOk tagOk : Bool) (f : State → State) : State :=
  let st := s.rd (K.portState p)
  if st ≠ 2 ∧ st ≠ 3 ∧ st ≠ 4 then s
  else
    let a := s.cellArrives p
    let s := if cType h = 0 then a.2 else a.2.reserveIn p false
    match s.rxCtl p h payload (crcOk && !a.1) tagOk with
    | none => s.rxCtlDrop p h a.1 crcOk tagOk
    | some s => f s

/-- `n` cell buffers of channel `v` are released: as many credits return (R79, R80). -/
def Link.giveCredit (k : Link) (v n : Nat) : Link :=
  { k with
    rxL := modifyAt k.rxL v (fun x => (x + n) % 2 ^ 32)
    rxDone := modifyAt k.rxDone v (fun x => (x + n) % 2 ^ 32)
    rxOwed := addAt k.rxOwed v n }

/-- The next sequenced cell has come, under key phase `ph` (R72, R76). -/
def Link.taken (k : Link) (ph : Nat) : Link := { k with expect := k.expect + 1, gap := false, crcRun := 0, rxPhase := ph }

/-- The buffers of channel `v` held back in throttle are released: their message has been injected, queued or answered, or the
tile has left throttle (05 R131). -/
def State.creditBack (s : State) (p v : Nat) : State :=
  let n := nth (s.link p).rxHeld v
  if n = 0 ∨ ((s.router p).throttled ∧ Tab.getD (s.port p).rxPart v [] ≠ []) then s
  else s.updLink p (fun k => ({ k with rxHeld := setAt k.rxHeld v 0 } : Link).giveCredit v n)

/-- Accept a sequenced cell in order (R72, R76): E advances, its phase is followed, its header is acted on, and the buffer
of a TRANSPORT cell is released. -/
def State.acceptSeq (s : State) (p h : Nat) : State :=
  let k := s.link p
  let v := cPvc h
  let tr := cType h = 1
  let ph := if cKph h ≠ k.rxPhase % 2 then k.rxPhase + 1 else k.rxPhase
  let held := tr && (s.router p).throttled
  let s := s.setLink p ((if held then { k with rxHeld := addAt k.rxHeld v 1 } else if tr then k.giveCredit v 1 else k).taken ph)
  let s := s.wr (K.portKeyState p) (2 * (ph % 2) + k.txPhase % 2)
  (s.ackIn p h).creditIn p h

/-- A sequenced cell arrives (R76): whether it is delivered, and the state. -/
def State.rxSeq (s : State) (p h : Nat) (crcOk tagOk : Bool) : Bool × State :=
  let st := s.rd (K.portState p)
  let k := s.link p
  let d := (cSeq h + 4096 - k.expect % 4096) % 4096
  if st ≠ 2 ∧ st ≠ 3 ∧ st ≠ 4 then (false, s)
  else
    let a := s.cellArrives p
    let s := a.2
    if a.1 || !crcOk then (false, s.crcDrop p a.1)
    else if 232 < cPlen h then (false, (s.updLink p (fun k => { k with crcRun := 0 })).linkEvent p 6)
    else
    let s := s.updLink p (fun k => { k with crcRun := 0 })
    if 2048 ≤ d then (false, (s.reserveIn p true).linkEvent p 5)
    else if 1 ≤ d then
      if !k.gap then (false, (s.replayReq p 0).updLink p (fun k => { k with gap := true }))
      else if k.holdoff then (false, s)
      else (false, s.replayReq p 2)
    else if !tagOk then
      (false, ((s.updLink p (fun k => { k with tagFails := k.tagFails + 1 })).linkEvent p 1).replayReq p 1)
    else (true, s.acceptSeq p h)

/-- REPLAY_REQ's content (R75). -/
def State.replayAsked (s : State) (p req : Nat) : State :=
  let k := s.link p
  let c := k.acked + (req + 4096 - k.acked % 4096) % 4096
  if k.sent ≤ c then s
  else if k.replaying then
    if c < k.resend then s.setLink p { k with resend := c } else s
  else (s.setLink p { k with replaying := true, resend := c }).linkEvent p 3

/-- The mode of a link whose ends have sent modes `a` and `b` (R82). -/
def agreedMode (a : Nat) : Option Nat → Nat
  | some b => if a = b then a else 0
  | none => a

/-- CREDIT_SYNC's content (R82): limits are taken as given; a mode that differs from the one this end sends makes both ends
incremental. A reserved MODE is a protocol error, and the cell is discarded (00 R10). -/
def State.creditSync (s : State) (p : Nat) (payload : List Byte) : State :=
  let far := leAt payload 8 2
  if 1 < far then s.linkEvent p 6
  else
  (s.updLink p (fun k => { k with
    farMode := some far, mode := agreedMode k.sentMode (some far)
    txL := (List.range 4).map (fun v => leAt payload (12 + 4 * v) 4) })).showCredit p

/-- CREDIT_SYNC sent at the end of a splice or link-up (R82): RX_WINDOWS and CREDIT_MODE as they then are come into force, and the
limits are re-based on the windows. -/
def State.sendCreditSync (s : State) (p : Nat) : State :=
  let k := s.link p
  let w := (List.range 4).map (fun v => s.rd (K.rxWindows p v))
  let l := (List.range 4).map (fun v => (nth k.rxDone v + nth w v) % 2 ^ 32)
  let m := s.rd (K.creditMode p)
  (s.setLink p { k with win := w, rxL := l, carried := l, rxOwed := [0, 0, 0, 0], sentMode := m, mode := agreedMode m k.farMode }).sendCtl p 4
    (toLE 2 m ++ toLE 2 0 ++ (l.map (toLE 4)).flatten ++ (w.map (toLE 2)).flatten)

/-! ### Splices (R85 to R89) -/

/-- Payload of SPLICE_REQ and SPLICE_ACK from offset 8 (R69). -/
def spliceBody (id : Nat) (x : Splice) : List Byte :=
  toLE 8 id ++ toLE 1 x.width ++ toLE 1 x.speed ++ toLE 1 x.mask ++ toLE 1 x.kind ++ toLE 2 x.no

/-- Bound in us of a splice of a kind, or of a full link-up, from its SPLICE_ACK or its beginning (R84). -/
def spliceBound (kind : Nat) : Nat :=
  if kind = 0 then 20 else if kind = 1 ∨ kind = 3 then 60 else if kind = 2 then 2000 else if kind = 4 then 100 else 50000

/-- SPLICE_STATUS (R91). Its KIND has no code for a fast splice: one that exceeds its bound is written as KIND 0, and one that
completes, like a full link-up, leaves the entry as it was (DESIGN CHOICE, log entry 128). -/
def State.spliceResult (s : State) (p : Nat) (x : Splice) (result us : Nat) : State :=
  s.wr (K.spliceStatus p) (x.no % 65536 * 65536 + result * 4096 + x.kind % 4 * 1024 + b2n (x.mine && result ≠ 2) * 512 + min us 255)

/-- Start a splice of this end's own (R85 step 1): refused while one is in progress or the port is not up. -/
def State.beginSplice (s : State) (p kind width speed mask : Nat) : Bool × State :=
  let st := s.rd (K.portState p)
  let k := s.link p
  if (st ≠ 2 ∧ st ≠ 3) ∨ k.splice.isSome then (false, s)
  else
    let no := (k.spliceNo + 1) % 65536
    let m := mask &&& s.goodLanes p
    let x : Splice := ⟨no, kind, min (min width (s.rd (K.maxWidth p))) (widthFor (laneCount m)), min speed (s.rd (K.maxSpeed p)), m,
      true, false, false, 0, none, st⟩
    (true, (s.setLink p { k with splice := some x, spliceNo := no, due := none }).sendCtl p 5 (spliceBody (s.rd (K.linkId p)) x))

/-- A splice that the port needs: begun, or due once the splice in progress has ended. -/
def State.needSplice (s : State) (p kind width speed mask : Nat) : State :=
  let r := s.beginSplice p kind width speed mask
  if r.1 then r.2
  else if (s.link p).splice.isSome then s.updLink p (fun k => { k with due := some (kind, width, speed, mask) })
  else s

/-- A recalibration of the trained configuration (R84). -/
def State.recalibrate (s : State) (p : Nat) : State :=
  let c := s.rd (K.trainedConfig p)
  s.needSplice p 1 (fld c 1 0) (fld c 3 2) (fld c 23 16)

/-- A degrade splice to the widest width that the remaining good lanes allow (R65). -/
def State.degradeSplice (s : State) (p : Nat) : State :=
  let g := s.goodLanes p
  s.needSplice p 3 (widthFor (laneCount g)) (fld (s.rd (K.trainedConfig p)) 3 2) g

/-- The splice that is due is asked for (R65, R78, R87). -/
def State.dueSplice (s : State) (p : Nat) : State :=
  match (s.link p).due with
  | none => s
  | some (kind, width, speed, mask) =>
    if kind = 3 then s.degradeSplice p
    else if kind = 1 then s.recalibrate p
    else s.needSplice p kind width speed mask

/-- Step 3 of R85: sequenced cells stop and SPLICE_PAUSE goes out; training begins at TS1. LAST_SEQ before any sequenced cell of
the session is 4,095, one below the first (DESIGN CHOICE, log entry 125). -/
def State.pause (s : State) (p : Nat) (x : Splice) : State :=
  let k := s.link p
  let s := s.setLink p { k with splice := some { x with agreed := true }, ts := 1, farMode := none, laneOrder := [] }
  ((s.sendCtl p 7 (toLE 2 ((k.sent + 4095) % 4096) ++ toLE 2 x.no)).wr (K.portState p) 4).showTrain p

/-- A splice request or answer holds a reserved encoding: of WIDTH, SPEED or KIND (R69). -/
def spliceReserved (b : List Byte) : Bool := 3 < leAt b 16 1 || 2 < leAt b 17 1 || 3 < leAt b 19 1

/-- SPLICE_REQ's content (R85, R87). A reserved encoding is a protocol error, and the cell is discarded (00 R10). Two ends with
equal identities both withdraw; the retry waits for SPLICE_RESPONSE_TIMEOUT (log entry 57). -/
def State.spliceAsked (s : State) (p : Nat) (b : List Byte) : State :=
  let st := s.rd (K.portState p)
  let id := leAt b 8 8
  let k := s.link p
  let own := match k.splice with | some x => x.mine && !x.agreed | none => false
  let mine := s.rd (K.linkId p)
  if spliceReserved b then s.linkEvent p 6
  else
  let s := s.wr (K.peerLinkId p) id
  if (st ≠ 2 ∧ st ≠ 3) ∨ (k.splice.isSome && !own) then s
  else if own && mine < id then s
  else if own && mine = id then s.updLink p (fun k => { k with
    splice := none, due := k.splice.map (fun x => (x.kind, x.width, x.speed, x.mask)) })
  else
    let m := leAt b 18 1 &&& s.goodLanes p
    let x : Splice := ⟨leAt b 20 2, leAt b 19 1, min (min (leAt b 16 1) (s.rd (K.maxWidth p))) (widthFor (laneCount m)),
      min (leAt b 17 1) (s.rd (K.maxSpeed p)), m, false, own, true, 0, none, st⟩
    let s := (s.updLink p (fun k => { k with spliceNo := x.no })).sendCtl p 6 (spliceBody id x)
    s.pause p x

/-- SPLICE_ACK's content (R85): the agreed target is within what was asked. -/
def State.spliceAgreed (s : State) (p : Nat) (b : List Byte) : State :=
  if spliceReserved b then s.linkEvent p 6
  else
  match (s.link p).splice with
  | none => s
  | some x =>
    if x.mine ∧ !x.agreed ∧ leAt b 20 2 = x.no then
      let m := leAt b 18 1 &&& x.mask
      s.pause p { x with width := min (min (leAt b 16 1) x.width) (widthFor (laneCount m)), speed := min (leAt b 17 1) x.speed, mask := m }
    else s

/-- SPLICE_PAUSE's content: the far end's last sequenced cell. -/
def State.splicePaused (s : State) (p : Nat) (b : List Byte) : State :=
  match (s.link p).splice with
  | none => s
  | some x => if leAt b 10 2 = x.no then s.updLink p (fun k => { k with splice := some { x with farLast := some (leAt b 8 2 % 4096) } }) else s

/-- The port falls to full link-up (R88): its session ends and training starts from TS1, at the widest and fastest that its limits
and good lanes allow. -/
def State.fullLinkUp (s : State) (p : Nat) : State :=
  let g := s.goodLanes p
  (((s.sessionEnd p).updLink p (fun k => { k with
    splice := some ⟨k.spliceNo, 5, min (s.rd (K.maxWidth p)) (widthFor (laneCount g)), s.rd (K.maxSpeed p), g, false, false, true, 0, none, 2⟩
    ts := 1, lockHold := false, due := none, farMode := none, laneOrder := [], askPrecode := false
    farPrecode := false })).wr (K.portState p) 1).showTrain p

/-- A splice that does not complete: its result, and full link-up. -/
def State.spliceFails (s : State) (p result : Nat) : State :=
  match (s.link p).splice with
  | none => s
  | some x => (s.spliceResult p x result 0).fullLinkUp p

/-- Loss of lock, or a warm reset: the session ends, and a fast splice from TS2 at the configuration last trained is tried while
LOCK_HOLD runs (R64, R89). -/
def State.fastSplice (s : State) (p : Nat) : State :=
  let c := s.rd (K.trainedConfig p)
  let s := s.sessionEnd p
  let k := s.link p
  ((s.setLink p { k with
    splice := some ⟨k.spliceNo, 4, fld c 1 0, fld c 3 2, fld c 23 16, false, false, true, 0, none, 2⟩
    ts := 2, lockHold := true, uncorrRun := 0, crcRun := 0, farMode := none }).wr (K.portState p) 4).showTrain p

/-- Training words of one state on every incoming lane: each valid, alike in all but LANE, and with COUNTDOWN 0 before TS4. -/
def wordsOk (words : List Nat) : Bool :=
  match words with
  | [] => false
  | w :: _ => words.all (fun v => trainingOk v && twCommon v = twCommon w) && (twState w = 4 || twCount w = 0)

/-- Eight consecutive valid training words of the far end's state have arrived on each incoming lane (R85, R86, R88, R89); `ask`:
this receiver asks for precoding from TS2 on (R62). -/
def State.trained (s : State) (p : Nat) (words : List Nat) (ask : Bool) : State :=
  let st := s.rd (K.portState p)
  let k := s.link p
  let w := words.headD 0
  match k.splice with
  | none => s
  | some x =>
    if (st ≠ 1 ∧ st ≠ 4) ∨ !x.agreed ∨ !wordsOk words then s
    else
      let s := if twFresh w ∧ st = 4 ∧ x.kind ≠ 4 then s.sessionEnd p else s
      if x.kind < 4 ∧ twNo w ≠ x.no then s.spliceFails p 4
      else if twState w ≠ k.ts ∨ 4 ≤ k.ts then s
      else (s.updLink p (fun k => { k with
        ts := k.ts + 1, farCfg := twConfig w, laneOrder := words.map twLane
        farPrecode := if k.ts = 1 then k.farPrecode else twPrecode w
        askPrecode := if k.ts = 1 then ask else k.askPrecode })).showTrain p

/-- Agreed configuration of a link-up: the far end's words within this end's limits (R85 step 2). -/
def State.upConfig (s : State) (p : Nat) (x : Splice) : Nat × Nat × Nat :=
  if x.kind = 5 then
    let k := s.link p
    let m := fld k.farCfg 7 0 &&& x.mask
    (min (min (fld k.farCfg 15 14) x.width) (widthFor (laneCount m)), min (min (fld k.farCfg 13 12) x.speed) 2, m)
  else (x.width, x.speed, x.mask)

/-- TRAINED_CONFIG (R91) of an agreed configuration (width, speed, mask): the lanes in use are the lowest of the mask; `polarity` has
the lanes that arrive inverted at the die, of which the package's own inversions are taken off first (R59). -/
def State.trainedValue (s : State) (p polarity : Nat) (c : Nat × Nat × Nat) : Nat :=
  lowLanes c.2.2 (widthLanes c.1) * 65536 + (polarity ^^^ fusedPolarity s.fuses p) % 256 * 256
    + b2n (s.link p).askPrecode * 16 + c.2.1 * 4 + c.1

/-- The last training word has come, valid, of TS4 and with COUNTDOWN 0, for the splice `x` (R85 step 5). -/
def lastWordOk (x : Splice) (w : Nat) : Bool :=
  trainingOk w && twState w = 4 && twCount w = 0 && (4 ≤ x.kind || twNo w = x.no)

/-- A link-up fails; the third in a row leaves the port FAILED (R83). -/
def State.linkUpFails (s : State) (p : Nat) : State :=
  let k := s.link p
  let last : Bool := 2 ≤ k.upFails
  let s := s.setLink p { k with
    upFails := k.upFails + 1, ts := 1, splice := if last then none else k.splice
    failedAt := if last then some s.frame else k.failedAt }
  (if last then s.wr (K.portState p) 5 else s).showTrain p

/-- A splice or link-up has passed its bound (R84, R88). -/
def State.boundPassed (s : State) (p kind : Nat) : State := if kind = 5 then s.linkUpFails p else s.spliceFails p 4

/-- The splice or link-up completes (R85 steps 5 and 6, R91): `us` is its duration, `peer` the identity that the far end presents at
a link-up. LINK_EVENTS counts the splices of the four kinds of R69, not fast splices and link-ups (DESIGN CHOICE, log entry
127). -/
def State.spliceEnds (s : State) (p : Nat) (x : Splice) (polarity us peer : Nat) : State :=
  let s := s.wr (K.trainedConfig p) (s.trainedValue p polarity (s.upConfig p x))
  let s := s.wr (K.portState p) x.back
  let s := if x.kind = 5 then s.wr (K.peerLinkId p) peer else s
  let s := if x.kind < 4 then (s.spliceResult p x (if x.followed then 2 else 1) us).linkEvent p 8 else s
  let s := s.updLink p (fun k => { k with
    splice := none, lockHold := false, upFails := 0, fresh := false, ts := 1, train := [], start := k.wire.length
    rxBlocks := 0, rxCells := 0, badBlocks := [], uncorrRun := 0, crcRun := 0 })
  let s := s.sendCreditSync p
  let s := match x.farLast with
    | some l => if (l + 1) % 4096 ≠ (s.link p).expect % 4096 then s.replayReq p 0 else s
    | none => s
  s.dueSplice p

/-- COUNTDOWN reaches 0 in TS4 (R85): `word` is the last training word received, `t` the time since the slate. A splice that has taken
longer than its bound falls to full link-up (R88); one that completes has cost the frame the cells of its pause (R88). -/
def State.spliceDone (s : State) (p word polarity us peer t : Nat) : State :=
  let st := s.rd (K.portState p)
  let k := s.link p
  match k.splice with
  | none => s
  | some x =>
    if (st ≠ 1 ∧ st ≠ 4) ∨ k.ts ≠ 4 ∨ !lastWordOk x word then s
    else if spliceBound x.kind < us then s.boundPassed p x.kind
    else (s.pauseCells p (min (us * 1000) t)).spliceEnds p x polarity us peer

/-- The bytes of a cell that the port sends in its present session: its keys are the bootstrap's in phase 0 (17 R385, R386). -/
def State.cellBytes (s : State) (p : Nat) (c : Cell) : List Byte :=
  let k := s.link p
  let d := if s.rd (K.linkId p) < s.rd (K.peerLinkId p) then 0 else 1
  if c.phase = 0 then c.bytes bootstrapKey bootstrapSalt else c.bytes (linkKey k.ems d c.phase) (linkSalt k.ems d)

/-- The PAM4 levels that the port's transmitter puts on logical lane `l` in superblock `n` since its training (R59 to R63): on physical
lane `physicalLane mask l` of the trained mask, precoded where the far end asked for it. -/
def State.laneOut (s : State) (p n l : Nat) : List Nat :=
  let k := s.link p
  laneLevels (widthLanes (fld (s.rd (K.trainedConfig p)) 1 0)) l k.farPrecode
    ((((k.wire.drop k.start).drop (superCells * n)).take superCells).map (s.cellBytes p))

/-! ### Lane and link at a slate (R65, R88) -/

/-- The frame's lane counts are taken (R65, R90). -/
def State.laneSlate (s : State) (p : Nat) : State :=
  let k := s.link p
  let lim := s.rd (K.laneErrLimit p)
  let s := (List.range 8).foldl (fun s i => s.wr (K.laneSymbolErrors p i) (nth k.laneErr i)) s
  s.setLink p { k with
    laneErr := List.replicate 8 0
    laneOver := (List.range 8).map (fun i => if lim < nth k.laneErr i then nth k.laneOver i + 1 else 0)
    uncorrLast := k.uncorr, uncorr := 0 }

end Sys2Proof.Machine
end

