-- ==== Sys2Proof/Machine/LinkCmds.lean ====
section
/-!
DEFINITION. Commands of the lane and link layers of a port (ch. 03), but for cells whose delivery reaches the transport
(Receive.lean) and splices asked for by SPLICE_CMD (DictCmds.lean).
-/

namespace Sys2Proof.Machine

/-- The binding is a recorded holder of some line, or owes an answer for one (07 R162). -/
def State.isHolder (s : State) (b : Nat) : Bool :=
  s.dir.any (fun e => e.2.records b) || s.evicts.any (fun e => e.2.owed.contains b)
    || s.pends.any (fun q => q.2.owed.contains b || q.2.fwds.any (fun f => f.holder = b) || (q.2.awaited.map (·.1)) = some b)

/-- A port has left SECURE: its holders enter their grace time and its pairs follow (07 R178, 10 R238). -/
def State.portDown (s : State) (p : Nat) : State :=
  let s := if (Tab.find s.lease.portOut p).isSome then s
    else { s with lease := { s.lease with portOut := Tab.set s.lease.portOut p s.frame } }
  ((List.range 4096).foldl (fun s b =>
    if bValid (s.binding b) && bPort (s.binding b) = p && s.isHolder b then s.startGrace b else s) s).followPairPorts []

/-- A port is back in SECURE. -/
def State.portUp (s : State) (p : Nat) : State :=
  let s := { s with lease := { s.lease with portOut := Tab.erase s.lease.portOut p } }
  (s.lease.grace.foldl (fun s g => if bPort (s.binding g.1) = p then s.endGrace g.1 else s) s).followPairPorts [p]

/-- The link session of a port ends, and what follows from it. -/
def State.loseSession (s : State) (p : Nat) : State := (s.sessionEnd p).portDown p

/-- This end's physical lane on which the far end's logical lane `l` arrives, by the lane order that training found (R59). -/
def Link.inLane (k : Link) (mask l : Nat) : Nat := (k.laneOrder.findIdx? (· = physicalLane mask l)).getD (physicalLane mask l)

/-- One FEC block with the symbols `bad`, by transmission order, received wrong (R60, R61, R64, R65). An uncorrectable codeword
drops every cell with a bit in the block, as each comes. -/
def State.fecBlock (s : State) (p : Nat) (bad : List Nat) : State :=
  let c := s.rd (K.trainedConfig p)
  let w := widthLanes (fld c 1 0)
  let mask := fld c 23 16
  let un := ((List.range 4).filter (uncorrectable w bad)).length
  let fixed := (((List.range 4).filter (fun i => !uncorrectable w bad i)).map (wrongIn w bad)).flatten
  let k := s.link p
  let lanes := fixed.foldl (fun l x => addAt l (k.inLane mask (symLane w x)) 1) k.laneErr
  let s := s.setLink p { k with
    laneErr := lanes, uncorr := k.uncorr + un, uncorrRun := if un = 0 then 0 else k.uncorrRun + 1
    crcRun := if un = 0 then k.crcRun else 0, rxBlocks := k.rxBlocks + 1
    badBlocks := if un = 0 || blockLastCell k.rxBlocks < k.rxCells then k.badBlocks else k.badBlocks ++ [k.rxBlocks] }
  ((s.count (K.fecCounts p 0) 4).count (K.fecCounts p 1) fixed.length).count (K.fecCounts p 2) un

/-- FEC_BLOCK_DECODE (R60, R64). -/
def execFecBlockDecode (p : Nat) (bad : List Nat) (s : State) : Out := .next (s.fecBlock p bad)

/-- LOSS_OF_LOCK (R64, R89). -/
def execLossOfLock (p : Nat) (s : State) : Out :=
  let k := s.link p
  let st := s.rd (K.portState p)
  .next (if (8 ≤ k.uncorrRun ∨ 4 ≤ k.crcRun) ∧ (st = 2 ∨ st = 3 ∨ st = 4) then (s.fastSplice p).portDown p else s)

/-- RX_IDLE_CELL (R69, R76). -/
def execRxIdleCell (p hdr : Nat) (payload : List Byte) (crcOk tagOk : Bool) (s : State) : Out :=
  .next (if cType hdr = 0 then s.onCtl p hdr payload crcOk tagOk id else s)

/-- RX_REPLAY_REQ (R75). -/
def execRxReplayReq (p hdr : Nat) (payload : List Byte) (crcOk tagOk : Bool) (s : State) : Out :=
  .next (if cType hdr = 3 then s.onCtl p hdr payload crcOk tagOk (fun s => s.replayAsked p (leAt payload 8 2 % 4096)) else s)

/-- RX_CREDIT_SYNC (R82). -/
def execRxCreditSync (p hdr : Nat) (payload : List Byte) (crcOk tagOk : Bool) (s : State) : Out :=
  .next (if cType hdr = 4 then s.onCtl p hdr payload crcOk tagOk (fun s => s.creditSync p payload) else s)

/-- RX_SPLICE_REQ (R85, R87). -/
def execRxSpliceReq (p hdr : Nat) (payload : List Byte) (crcOk tagOk : Bool) (s : State) : Out :=
  .next (if cType hdr = 5 then s.onCtl p hdr payload crcOk tagOk (fun s => s.spliceAsked p payload) else s)

/-- RX_SPLICE_ACK (R85). -/
def execRxSpliceAck (p hdr : Nat) (payload : List Byte) (crcOk tagOk : Bool) (s : State) : Out :=
  .next (if cType hdr = 6 then s.onCtl p hdr payload crcOk tagOk (fun s => s.spliceAgreed p payload) else s)

/-- RX_SPLICE_PAUSE (R85). -/
def execRxSplicePause (p hdr : Nat) (payload : List Byte) (crcOk tagOk : Bool) (s : State) : Out :=
  .next (if cType hdr = 7 then s.onCtl p hdr payload crcOk tagOk (fun s => s.splicePaused p payload) else s)

/-- RX_RESERVED_CTYPE (R68): dropped whole, its fields not acted on. -/
def execRxReservedCtype (p hdr : Nat) (crcOk : Bool) (s : State) : Out :=
  let a := s.cellArrives p
  .next (if cType hdr < 8 then s
    else if a.1 || !crcOk then a.2.crcDrop p a.1
    else (a.2.updLink p (fun k => { k with reserved := k.reserved + 1, crcRun := 0 })).linkEvent p 6)

/-- RX_KEY_MARK (R72): a sequenced cell with no payload. -/
def execRxKeyMark (p hdr : Nat) (crcOk tagOk : Bool) (s : State) : Out :=
  .next (if cType hdr = 2 then (s.rxSeq p hdr crcOk tagOk).2 else s)

/-- TAG_FAILURE_LIMIT (R74). -/
def execTagFailureLimit (p : Nat) (s : State) : Out :=
  .next (if 4 ≤ (s.link p).tagFails then (s.security 2 0 p p 0).loseSession p else s)

/-- RESERVED_CTYPE_LIMIT (R68). -/
def execReservedCtypeLimit (p : Nat) (s : State) : Out :=
  .next (if 16 ≤ (s.link p).reserved then s.loseSession p else s)

/-- TX_SEQUENCED_CELL: one cell slot offered to channel `vc` (R63, R75). -/
def execTxSequencedCell (p vc : Nat) (s : State) : Out := .next (s.txSlot p vc)

/-- REPLAY_TIMEOUT (R75, R77). -/
def execReplayTimeout (p : Nat) (s : State) : Out :=
  let k := s.link p
  .next (if k.acked < k.sent ∧ !k.replaying then
      (s.setLink p { k with replaying := true, resend := k.acked }).linkEvent p 4
    else s)

/-- REPLAY_RESEND_LIMIT (R78). -/
def execReplayResendLimit (p : Nat) (s : State) : Out :=
  let k := s.link p
  .next (if 16 ≤ k.oldestResends then (s.setLink p { k with oldestResends := 0 }).recalibrate p else s)

/-- REPLAY_REQ_HOLDOFF (R77). -/
def execReplayReqHoldoff (p : Nat) (s : State) : Out := .next (s.updLink p (fun k => { k with holdoff := false }))

/-- CREDIT_REFRESH (R77, R79): in cumulative mode the channel's counter goes out in the next cell. -/
def execCreditRefresh (p vc : Nat) (s : State) : Out :=
  .next (s.updLink p (fun k => if k.mode = 1 ∧ !k.refresh.contains vc then { k with refresh := k.refresh ++ [vc] } else k))

/-- KEY_PHASE_FLIP (R72). -/
def execKeyPhaseFlip (p : Nat) (s : State) : Out :=
  let k := s.link p
  .next (if s.secure p && k.mayFlip && s.rd (K.rekeyCells p) ≤ k.txCells + 2 ^ 20 then
      s.flipPhase p
    else s)

/-- REKEY_LIMIT (R73). -/
def execRekeyLimit (p : Nat) (s : State) : Out :=
  let k := s.link p
  .next (if s.secure p && s.rd (K.rekeyCells p) ≤ k.txCells && !k.mayFlip then s.loseSession p else s)

/-- LANE_MARKED_BAD (R65). -/
def execLaneMarkedBad (p lane : Nat) (s : State) : Out :=
  let k := s.link p
  .next (if 2 ≤ nth k.laneOver lane ∧ !bit k.bad lane then
      ((s.setLink p { k with bad := k.bad + 2 ^ lane }).linkEvent p 7).degradeSplice p
    else s)

/-- UNCORR_LIMIT_EXCEEDED (R65). -/
def execUncorrLimitExceeded (p : Nat) (s : State) : Out :=
  let k := s.link p
  .next (if s.rd (K.uncorrLimit p) < k.uncorrLast then (s.setLink p { k with uncorrLast := 0 }).recalibrate p else s)

/-- TRAINING_STATE_ADVANCE (R85, R86): eight consecutive words from the far end on each lane. Where they end the link session, its
holders and pairs follow. -/
def execTrainingStateAdvance (p : Nat) (words : List Nat) (ask : Bool) (s : State) : Out :=
  let u := s.trained p words ask
  .next (if (u.port p).linkNo = (s.port p).linkNo then u else u.portDown p)

/-- TS4_COUNTDOWN_END (R85, R88). -/
def execTs4CountdownEnd (p word polarity us peer t : Nat) (s : State) : Out :=
  let s := s.at t
  let u := s.spliceDone p word polarity us peer t
  .next (if (u.port p).linkNo = (s.port p).linkNo then u else u.portDown p)

/-- SPLICE_RESPONSE_TIMEOUT (R88). Where both ends withdrew their requests for equal identities, the one that is due is asked for
again (R87, log entry 57). -/
def execSpliceResponseTimeout (p : Nat) (s : State) : Out :=
  let k := s.link p
  .next (match k.splice with
    | some x =>
      if x.mine && !x.agreed then
        if x.resends < 3 then
          (s.setLink p { k with splice := some { x with resends := x.resends + 1 } }).sendCtl p 5 (spliceBody (s.rd (K.linkId p)) x)
        else (s.spliceFails p 3).portDown p
      else s
    | none => s.dueSplice p)

/-- SPLICE_BOUND_EXCEEDED (R84, R88): `us` have passed since the splice's SPLICE_ACK, or since it began. -/
def execSpliceBoundExceeded (p us : Nat) (s : State) : Out :=
  .next (
    match (s.link p).splice with
    | some x =>
      if x.agreed && (s.rd (K.portState p) = 4 || s.rd (K.portState p) = 1) && spliceBound x.kind < us then
        if x.kind = 5 then s.linkUpFails p else (s.spliceFails p 4).portDown p
      else s
    | none => s)

/-- LOCK_HOLD_EXPIRY (R77, R89). -/
def execLockHoldExpiry (p : Nat) (s : State) : Out :=
  .next (if (s.link p).lockHold then s.fullLinkUp p else s)

/-- LINK_UP_FAILED (R83): a link-up fails; the third in a row leaves the port FAILED. -/
def execLinkUpFailed (p : Nat) (s : State) : Out :=
  .next (if s.rd (K.portState p) = 1 then s.linkUpFails p else s)

/-- FAILED_PORT_RETRY (R83): a new link-up is tried every 4,000 frames. -/
def execFailedPortRetry (p : Nat) (s : State) : Out :=
  let due : Bool := match (s.link p).failedAt with | some f => decide (f + 4000 ≤ s.frame) | none => true
  .next (if s.rd (K.portState p) = 5 && due then s.fullLinkUp p else s)

end Sys2Proof.Machine
end

