-- ==== Sys2Proof/Machine/Home.lean ====
section
/-!
DEFINITION. Requests from their arrival at a port to their home (04 R105 to R114): admission, fences, shares, the home's
service of every request but SPDM and MGMT, the commands that are those requests, and the events that let waiting ones go on.
-/

namespace Sys2Proof.Machine

/-! ### The home's service (R106) -/

/-- The requests that wait at a line go on, in order, once no recall holds them and a forward may be sent; an access that found no
pending record begins its recall (07 R163, R170). -/
def State.lineGo (s : State) (ln : Nat) : State :=
  let s := if (s.waitersOf (.recalling ln)).isEmpty then s else s.beginRecall ln
  if !s.inRecall ln ∧ (s.pend ln).fwds.length < 16 ∧ s.pendRoom ln then s.release (.line ln) State.serveCoherence else s

/-- Lines at which requests wait. -/
def State.waitLines (s : State) : List Nat :=
  (s.waiting.filterMap (fun (w : Wait × Req) => match w.1 with
    | .line ln => some ln
    | .recalling ln => some ln
    | _ => none)).eraseDups

/-- Let every line's waiting requests go on that can. -/
def State.linesGo (s : State) : State := s.waitLines.foldl State.lineGo s

/-- The request needs the service domain: pool data, pool operations, contributions, invalidations (01 R13). -/
def needsService (op : Nat) : Bool :=
  (1 ≤ op && op ≤ 3) || op = 0x10 || op = 0x20 || (0x30 ≤ op && op ≤ 0x35) || op = 0x51 || op = 0x58

/-- The request accesses the pool address that it begins with: READ, WRITE, ATOMIC, and the coherence requests. -/
def readsPool (op : Nat) : Bool := (1 ≤ op && op ≤ 3) || (0x30 ≤ op && op ≤ 0x35)

/-- Serve a request at its home, SPDM and MGMT aside. `noise` are the errors its reads meet, `t` the time. While the service
domains' clocks are stopped, what needs them waits (22 R469), and so does what a halted stack holds (08 R196). -/
def State.serveData (s : State) (r : Req) (noise : List (Nat × Nat)) (t : Nat) : State :=
  if !s.boot.service && needsService r.op then s.hold .home r
  else if readsPool r.op && s.halts (leAt r.body 0 8) then s.hold (.halted (s.homeTile (leAt r.body 0 8))) r
  else if r.op = 0x01 then s.serveRead r noise
  else if r.op = 0x02 then s.serveWrite r noise
  else if r.op = 0x03 then s.serveAtomic r noise
  else if r.op = 0x04 then s.answerSt r Code.ok
  else if r.op = 0x05 then s.serveHeartbeat r
  else if r.op = 0x10 then s.servePool r
  else if r.op = 0x11 ∨ r.op = 0x12 then s.servePublish r
  else if r.op = 0x20 then s.serveContrib r
  else if r.op = 0x34 then (s.serveCoherence r).linesGo
  else if 0x30 ≤ r.op ∧ r.op ≤ 0x35 then s.serveCoherence r
  else if r.op = 0x51 then s.serveInvalidate r
  else if r.op = 0x58 then s.servePairWrite r
  else if r.op = 0x60 then s.serveDoorbell r t
  else if r.op = 0x62 then s.serveWindowRead r
  else s.serveWindowWrite r t

/-! ### Arrival (R105, R107, R111, R114) -/

/-- The port engine's checks: the request it accepts, or none once it has been answered, discarded or set to wait. -/
def State.arrive (s : State) (port op : Nat) (h : Hdr) (b : List Byte) : Option Req × State :=
  match s.checkArrival port op h b with
  | .misrouted => (none, s.count (K.transportCounts port 2) 1)
  | .refused st => (none, s.refuse port op h st)
  | .dropRetry => (none, s.count (K.transportCounts port 6) 1)
  | .cached m => (none, (s.sendResp port m).count (K.transportCounts port 5) 1)
  | .waitFirst n =>
    let q := s.port port
    let r : Req := ⟨q.nextId, port, q.linkNo, n, op, h, b, []⟩
    (none, (s.setPort port { q with pending := q.pending ++ [r], nextId := q.nextId + 1 }).hold .firstResp r)
  | .accepted n => let a := s.accept port op n h b; (some a.1, a.2)

/-- Start an accepted request toward its home: within its partition's share at once, else from the inbound queue (R107). -/
def State.inject (s : State) (r : Req) (noise : List (Nat × Nat)) (t : Nat) : State :=
  if noBinding r.op then s.serveData r noise t
  else
    let p := handlePart r.h.handle
    let n := msgCells r.h.len
    if s.mayInject r.port p n && (s.queued r.port p).isEmpty then (s.useCells r.port p r.h.len).serveData r noise t
    else s.hold .share r

/-- Go on with an accepted request: held behind earlier requests of its binding when it fences (R111), else toward its home. What
an older binding of its number held in the directory is gone with the slate that ended it (R152 step 2). -/
def State.place (s : State) (r : Req) (noise : List (Nat × Nat)) (t : Nat) : State :=
  if (r.op = 0x04 ∨ bit r.h.flags 6) ∧ s.earlier r then s.hold .fence r
  else s.inject r noise t

/-- Messages reach the transport of a port in BOOTSTRAP or SECURE (03 R71). -/
def State.portOpen (s : State) (port : Nat) : Bool := s.linkState port = 2 || s.secure port

/-- A request arrives at a port. -/
def State.recv (s : State) (port op : Nat) (h : Hdr) (b : List Byte) (noise : List (Nat × Nat)) (t : Nat) : State :=
  let s := s.at t
  if !s.portOpen port then s
  else
    match s.arrive port op h b with
    | (some r, s) => s.place r noise t
    | (none, s) => s

/-! ### Host requests -/

/-- READ (R98). -/
def execRead (port : Nat) (h : Hdr) (addr len : Nat) (noise : List (Nat × Nat)) (t : Nat) (s : State) : Out :=
  .next (s.recv port 0x01 h (toLE 8 addr ++ toLE 2 len ++ toLE 6 0) noise t)

/-- WRITE (R98). -/
def execWrite (port : Nat) (h : Hdr) (addr : Nat) (data : List Byte) (noise : List (Nat × Nat)) (t : Nat) (s : State) : Out :=
  .next (s.recv port 0x02 h (toLE 8 addr ++ toLE 2 data.length ++ toLE 6 0 ++ padTo (pad8 data.length) data) noise t)

/-- ATOMIC (R98, R100). -/
def execAtomic (port : Nat) (h : Hdr) (addr op size a b : Nat) (noise : List (Nat × Nat)) (t : Nat) (s : State) : Out :=
  .next (s.recv port 0x03 h (toLE 8 addr ++ toLE 1 op ++ toLE 1 size ++ toLE 6 0 ++ toLE 16 a ++ toLE 16 b) noise t)

/-- FENCE (R111). -/
def execFence (port : Nat) (h : Hdr) (t : Nat) (s : State) : Out := .next (s.recv port 0x04 h [] [] t)

/-- HEARTBEAT (R150). -/
def execHeartbeat (port : Nat) (h : Hdr) (t : Nat) (s : State) : Out := .next (s.recv port 0x05 h [] [] t)

/-- A POOL_OP command block (R289). -/
def poolBlock (op fmt func plen a b len pat : Nat) : List Byte :=
  toLE 1 op ++ toLE 1 fmt ++ toLE 1 func ++ toLE 1 plen ++ toLE 4 0 ++ toLE 8 a ++ toLE 8 b ++ toLE 8 len ++ toLE 8 pat ++ toLE 24 0

/-- POOL_OP FILL (12 R289, R292). -/
def execPoolOpFill (port : Nat) (h : Hdr) (addr len plen pat t : Nat) (s : State) : Out :=
  .next (s.recv port 0x10 h (poolBlock 1 0 0 plen addr 0 len pat) [] t)

/-- POOL_OP COPY: to `dst` from `src` (12 R289, R291). -/
def execPoolOpCopy (port : Nat) (h : Hdr) (dst src len t : Nat) (s : State) : Out :=
  .next (s.recv port 0x10 h (poolBlock 2 0 0 0 dst src len 0) [] t)

/-- POOL_OP COMPARE (12 R289, R292). -/
def execPoolOpCompare (port : Nat) (h : Hdr) (a b len t : Nat) (s : State) : Out :=
  .next (s.recv port 0x10 h (poolBlock 3 0 0 0 a b len 0) [] t)

/-- POOL_OP REDUCE (12 R289, R292). -/
def execPoolOpReduce (port : Nat) (h : Hdr) (fmt func addr len t : Nat) (s : State) : Out :=
  .next (s.recv port 0x10 h (poolBlock 4 fmt func 0 addr 0 len 0) [] t)

/-- PUBLISH (06 R155). -/
def execPublish (port : Nat) (h : Hdr) (region staging base t : Nat) (s : State) : Out :=
  .next (s.recv port 0x11 h (toLE 2 region ++ toLE 2 staging ++ toLE 4 0 ++ toLE 8 base) [] t)

/-- PUBLISH_QUERY (06 R155). -/
def execPublishQuery (port : Nat) (h : Hdr) (region t : Nat) (s : State) : Out :=
  .next (s.recv port 0x12 h (toLE 2 region ++ toLE 6 0) [] t)

/-- CONTRIB (15 R348, R351). -/
def execContrib (port : Nat) (h : Hdr) (comp contributor count offset fmt : Nat) (data : List Byte) (t : Nat) (s : State) : Out :=
  .next (s.recv port 0x20 h (toLE 4 comp ++ toLE 2 contributor ++ toLE 2 count ++ toLE 4 offset ++ toLE 1 fmt ++ toLE 3 0
    ++ padTo (pad8 data.length) data) [] t)

/-! ### Coherence requests (R102, 07 R173) -/

/-- RD_SHARED. -/
def execRdShared (port : Nat) (h : Hdr) (addr t : Nat) (s : State) : Out :=
  .next (s.recv port 0x30 h (toLE 8 addr ++ toLE 8 0) [] t)
/-- RD_OWN. -/
def execRdOwn (port : Nat) (h : Hdr) (addr t : Nat) (s : State) : Out :=
  .next (s.recv port 0x31 h (toLE 8 addr ++ toLE 8 0) [] t)
/-- UPGRADE. -/
def execUpgrade (port : Nat) (h : Hdr) (addr t : Nat) (s : State) : Out :=
  .next (s.recv port 0x32 h (toLE 8 addr ++ toLE 8 0) [] t)
/-- DIRTY_NOTIFY. -/
def execDirtyNotify (port : Nat) (h : Hdr) (addr t : Nat) (s : State) : Out :=
  .next (s.recv port 0x33 h (toLE 8 addr ++ toLE 8 0) [] t)
/-- WRITEBACK. -/
def execWriteback (port : Nat) (h : Hdr) (addr : Nat) (line : List Byte) (t : Nat) (s : State) : Out :=
  .next (s.recv port 0x34 h (toLE 8 addr ++ toLE 8 0 ++ slice line 0 128) [] t)
/-- EVICT_CLEAN. -/
def execEvictClean (port : Nat) (h : Hdr) (addr t : Nat) (s : State) : Out :=
  .next (s.recv port 0x35 h (toLE 8 addr ++ toLE 8 0) [] t)

/-! ### Mover, pair and window requests -/

/-- INVALIDATE_REQ (R103, 11 R258). -/
def execInvalidateReq (port : Nat) (h : Hdr) (ctx start len t : Nat) (s : State) : Out :=
  .next (s.recv port 0x51 h (toLE 4 ctx ++ toLE 4 0 ++ toLE 8 start ++ toLE 8 len) [] t)

/-- PAIR_WRITE (R103, 10 R236). -/
def execPairWrite (port : Nat) (h : Hdr) (pair offset : Nat) (data : List Byte) (t : Nat) (s : State) : Out :=
  .next (s.recv port 0x58 h (toLE 4 pair ++ toLE 4 0 ++ toLE 8 offset ++ toLE 2 data.length ++ toLE 6 0 ++ data) [] t)

/-- DOORBELL (R104, 20 R440). -/
def execDoorbell (port : Nat) (h : Hdr) (index value t : Nat) (s : State) : Out :=
  .next (s.recv port 0x60 h (toLE 2 index ++ toLE 6 0 ++ toLE 8 value) [] t)

/-- RING_DOORBELL: the doorbell of ring `r` (11 R250). -/
def execRingDoorbell (port : Nat) (h : Hdr) (r v t : Nat) (s : State) : Out :=
  .next (if r < 16 then s.recv port 0x60 h (toLE 2 r ++ toLE 6 0 ++ toLE 8 v) [] t else s)

/-- WINDOW_READ (20 R436). -/
def execWindowRead (port : Nat) (h : Hdr) (off len t : Nat) (s : State) : Out :=
  .next (s.recv port 0x62 h (toLE 4 off ++ toLE 2 len ++ toLE 2 0) [] t)

/-- A WINDOW_WRITE request of `data` at `off`. -/
def State.windowWrite (s : State) (port : Nat) (h : Hdr) (off : Nat) (data : List Byte) (t : Nat) : State :=
  s.recv port 0x63 h (toLE 4 off ++ toLE 2 data.length ++ toLE 2 0 ++ data) [] t

/-- WINDOW_WRITE (20 R436). -/
def execWindowWrite (port : Nat) (h : Hdr) (off : Nat) (data : List Byte) (t : Nat) (s : State) : Out :=
  .next (s.windowWrite port h off data t)

/-- RING_RESTART: ring `r`'s restart register (11 R264). -/
def execRingRestart (port : Nat) (h : Hdr) (r v t : Nat) (s : State) : Out :=
  .next (if r < 16 then s.windowWrite port h (0x408 + 16 * r) (toLE 8 v) t else s)

/-- GO (13 R303). -/
def execGo (port : Nat) (h : Hdr) (v t : Nat) (s : State) : Out := .next (s.windowWrite port h 0x860 (toLE 8 v) t)
/-- CONTEXT_CLEAR (13 R311). -/
def execContextClear (port : Nat) (h : Hdr) (v t : Nat) (s : State) : Out := .next (s.windowWrite port h 0xA00 (toLE 8 v) t)
/-- EVENT_CONSUMED (20 R438). -/
def execEventConsumed (port : Nat) (h : Hdr) (v t : Nat) (s : State) : Out := .next (s.windowWrite port h 0x908 (toLE 8 v) t)
/-- COMP_CREATE (15 R346). -/
def execCompCreate (port : Nat) (h : Hdr) (v t : Nat) (s : State) : Out := .next (s.windowWrite port h 0xB40 (toLE 8 v) t)
/-- COMP_EXCUSE (15 R359). -/
def execCompExcuse (port : Nat) (h : Hdr) (v t : Nat) (s : State) : Out := .next (s.windowWrite port h 0xB50 (toLE 8 v) t)
/-- COMP_CLOSE (15 R360). -/
def execCompClose (port : Nat) (h : Hdr) (v t : Nat) (s : State) : Out := .next (s.windowWrite port h 0xB58 (toLE 8 v) t)
/-- ERR_CLEAR (20 R437). -/
def execErrClear (port : Nat) (h : Hdr) (v t : Nat) (s : State) : Out := .next (s.windowWrite port h 0x18 (toLE 8 v) t)
/-- PUB_STATE_READ (20 R439). -/
def execPubStateRead (port : Nat) (h : Hdr) (t : Nat) (s : State) : Out :=
  .next (s.recv port 0x62 h (toLE 4 0xC08 ++ toLE 2 16 ++ toLE 2 0) [] t)
/-- MBX_IN of a context (20 R443). -/
def execMbxIn (port : Nat) (h : Hdr) (slot ctx v t : Nat) (s : State) : Out :=
  .next (if slot < 32 ∧ ctx < 16 then s.windowWrite port h (0x8000 + 32 * (slot * 16 + ctx)) (toLE 8 v) t else s)
/-- MBX_OUT_STATE of a context (20 R445). -/
def execMbxOutState (port : Nat) (h : Hdr) (slot ctx v t : Nat) (s : State) : Out :=
  .next (if slot < 32 ∧ ctx < 16 then s.windowWrite port h (0x8018 + 32 * (slot * 16 + ctx)) (toLE 8 v) t else s)

/-! ### Requests that wait -/

/-- FENCE_RELEASE: the held request `id` of a port whose earlier requests all have a response (R111). -/
def execFenceRelease (port id : Nat) (noise : List (Nat × Nat)) (t : Nat) (s : State) : Out :=
  let s := s.at t
  .next (
    match (s.waitersOf .fence).find? (fun r => r.port = port && r.id = id) with
    | none => s
    | some r => if s.earlier r then s else (s.takeWaiter .fence r).inject r noise t)

/-- INBOUND_QUEUE_DISPATCH: the oldest queued request of partition `p` at a port goes on once the share permits (R107). -/
def execInboundQueueDispatch (port p t : Nat) (s : State) : Out :=
  let s := s.at t
  .next (
    match s.queued port p with
    | [] => s
    | r :: _ =>
      if s.mayInject port p (msgCells r.h.len) then
        ((s.takeWaiter .share r).useCells port p r.h.len).hold .home r
      else s)

/-- An access whose line `ln` has been recalled: it waits on at the next of its lines that is not, or is performed. -/
def State.recallServed (s : State) (ln t : Nat) (r : Req) : State :=
  let s := s.takeWaiter (.recalling ln) r
  let l := s.accessLines r
  match l.find? (fun m => (Tab.find s.evicts m).isSome || (s.inRecall m && !s.recalled m)) with
  | some m => s.hold (.recalling m) r
  | none =>
    let mine := l.filter s.recalled
    mine.foldl State.keepRecall ((mine.foldl State.endRecall s).serveData r [] t)

/-- UNCACHED_RECALL_COMPLETE: the recalls of a line are acknowledged, and the accesses that wait on it proceed, uncached ones
first; a line that no access waits for any longer is uncached, and the requests that came meanwhile are served (07 R163). -/
def execUncachedRecallComplete (ln t : Nat) (s : State) : Out :=
  let s := s.at t
  .next (
    if s.recalled ln then
      let s := (s.waitersOf (.recalling ln)).foldl (fun s r => s.recallServed ln t r) s
      (if s.recalled ln ∧ !s.covered ln then s.endRecall ln else s).linesGo
    else s.lineGo ln)

/-- DIR_EVICTION_COMPLETE: an eviction buffer entry with no acknowledgement owed frees its slot (07 R169). -/
def execDirEvictionComplete (ln t : Nat) (s : State) : Out :=
  let s := s.at t
  .next (
    match Tab.find s.evicts ln with
    | none => s
    | some e =>
      if e.owed.isEmpty then
        let s := { s with evicts := Tab.erase s.evicts ln }
        -- the requests on that line, and on the slice's other lines that found no slot, are judged again in order
        let l := s.waiting.filter (fun (w : Wait × Req) => match w.1 with
          | .evict m => lineTile m = lineTile ln && (m = ln || (Tab.find s.evicts m).isNone)
          | .recalling m => m = ln && !s.pending? m
          | _ => false)
        let s := l.foldl (fun s w => (s.takeWaiter w.1 w.2).serveData w.2 [] t) s
        -- so are those with a place in a line's order that found no slot
        (s.pends.foldl (fun s q => if lineTile q.1 = lineTile ln ∧ q.2.bars ≠ [] then s.settleLine q.1 else s) s).linesGo
      else s)

/-- UNCORRECTABLE_RETRY: the one retry of an uncorrectable line, with the errors that the second read meets (09 R209). -/
def execUncorrectableRetry (ln : Nat) (noise : List (Nat × Nat)) (t : Nat) (s : State) : Out :=
  let s := s.at t
  .next (s.release (.retry ln) (fun s r => s.serveData { r with retried := ln :: r.retried } noise t))

/-- PUBLISH_DEFERRED_START: after the slate the requests that waited at a region are checked, in order (06 R156). -/
def execPublishDeferredStart (p g t : Nat) (s : State) : Out :=
  let s := s.at t
  .next (if s.fl.inGuard ∨ s.guardAt < t + 2000 ∨ s.flips.any (fun f => f.part = p && f.region = g) then s else s.serveRegion p g)

/-- PUBLISH_FLIP_COMPLETE (06 R156). -/
def execPublishFlipComplete (p g : Nat) (s : State) : Out := .next (s.flipDone p g)

/-- COMPLETION_CACHE_EXPIRY: class C completions of a port that have reached RETRY_CACHE_FRAMES leave the cache (R115). -/
def execCompletionCacheExpiry (port : Nat) (s : State) : Out :=
  .next (s.updPort port (fun q => { q with cache := q.cache.filter (fun c => decide (s.frame < c.frame + s.eff (K.retryCacheFrames port))) }))

/-- TILE_STORE_MOVE_COMPLETE: the tile store of a slot has moved (10 R229); what waited for it goes on. -/
def execTileStoreMoveComplete (t : Nat) (s : State) : Out :=
  let s := s.at t
  .next (
    match s.cont.moving with
    | none => s
    | some slot =>
      (s.setCont { s.cont with moving := none }).release (.slotMove slot) (fun s r => s.serveData r [] t))

/-! ### Events of extents, keys, leases and pairs -/

/-- CRYPTO_ERASE of a device extent (06 R144). -/
def execCryptoErase (dxn : Nat) (s : State) : Out :=
  .next ((if (Tab.find s.erasing dxn).isSome then s.drainWrites dxn else s).eraseExtent dxn)
/-- KEY_DRAW of a device extent (17 R382). -/
def execKeyDraw (dxn : Nat) (s : State) : Out := .next (s.keyDraw dxn)
/-- DEVICE_EXTENT_QUARANTINE_END (06 R145). -/
def execDeviceExtentQuarantineEnd (dxn : Nat) (s : State) : Out := .next (s.quarantineEnd dxn)
/-- LEASE_LATE (06 R151). -/
def execLeaseLate (b : Nat) (s : State) : Out := .next (s.leaseLate b)
/-- LEASE_EXPIRY (06 R150, R152). -/
def execLeaseExpiry (b : Nat) (s : State) : Out := .next (s.leaseExpire b).linesGo
/-- LEASE_RECLAIM_COMPLETE (06 R152). -/
def execLeaseReclaimComplete (b : Nat) (s : State) : Out := .next (s.reclaimDone b)
/-- COH_GRACE_EXPIRY (07 R178). -/
def execCohGraceExpiry (b : Nat) (s : State) : Out := .next (s.graceExpire b).linesGo
/-- AWAITED_WRITEBACK_TIMEOUT (07 R176). -/
def execAwaitedWritebackTimeout (ln : Nat) (s : State) : Out := .next (s.awaitedTimeout ln).linesGo
/-- PAIR_RESYNC_SEND (10 R239). -/
def execPairResyncSend (n tile t : Nat) (s : State) : Out := .next ((s.at t).resyncSend n tile)

end Sys2Proof.Machine
end

