-- ==== Sys2Proof/Machine/Boot.lean ====
section
/-!
DEFINITION. Resets and boot (ch. 22), firmware images (19 R430, R431), the fill at a cold boot (09 R217), the SMBus target
(23 R489) and the TAP (18 R411).
-/

namespace Sys2Proof.Machine

/-- Boot state updated. -/
def State.updBoot (s : State) (f : Boot → Boot) : State := { s with boot := f s.boot }

/-- A field of BOOT_STATUS written (R479). -/
def State.setBoot (s : State) (hi lo v : Nat) : State := s.wr K.bootStatus (setFld (s.rd K.bootStatus) hi lo v)

/-- BOOT_STATUS shows a fault (R479). -/
def State.bootFault (s : State) (code : Nat) : State := s.setBoot 27 24 (8 + code)

/-- A reset source sets its bit in RESET_CAUSE and is counted (R465, R468, R478). -/
def State.cause (s : State) (b : Nat) : State :=
  (s.wr K.resetCause (s.rd K.resetCause ||| 2 ^ b)).count (K.resetCounts b) 1

/-! ### Cold resets (R465 to R471) -/

/-- The part with every domain cleared: what the fuses hold stays, and the commands that wait. -/
def State.cleared (s : State) : State :=
  { pending := s.pending, fuses := s.fuses, free := s.free, keysDrawn := s.keysDrawn }

/-- A cold reset by the source of bit `b`, or by PWRGD, which has none: everything but the VAUX registers is cleared (R468,
R469). -/
def State.coldReset (s : State) (b : Option Nat) : State :=
  if !s.boot.powered then s
  else
    let s := match b with | some b => s.cause b | none => s
    { s.cleared with regs := s.regs.filter (fun kv => kv.1 / 16777216 = 0x180001 || kv.1 / 16777216 = 0x180002 || kv.1 / 16777216 = 0x180003) }

/-- POWER_ON: VAUX rises, the part enters cold reset, and RESET_CAUSE reads its power-up value (R465, R468). -/
def execPowerOn (s : State) : Out := .next (if s.boot.powered then s else s.cleared)

/-- VAUX_LOST: the part loses all power, and with it the VAUX domain (R468, 23 R482). -/
def execVauxLost (s : State) : Out := .next (s.cleared.updBoot (fun b => { b with powered := false }))

/-- BROWN_OUT. -/
def execBrownOut (s : State) : Out := .next (s.coldReset (some 1))
/-- RESET_N_ASSERT: the pulse `ns` long is recognised from 2 us, ignored below 500 ns, and between as `seen` says (R466). -/
def execResetNAssert (ns : Nat) (seen : Bool) (s : State) : Out :=
  .next (if 2000 ≤ ns ∨ (500 ≤ ns ∧ seen) then s.coldReset (some 2) else s)
/-- REFCLK_FAILURE. -/
def execRefclkFailure (s : State) : Out := .next (s.coldReset (some 3))
/-- PWRGD_LOW. -/
def execPwrgdLow (s : State) : Out := .next (s.coldReset none)

/-! ### Cold boot (R475) -/

/-- COLD_BOOT: RESET_N is released, and the fuse sequencer starts. -/
def execColdBoot (s : State) : Out :=
  .next (if s.boot.powered ∧ s.boot.held then s.updBoot (fun b => { b with held := false }) else s)

/-- Some tile may be the lead: good, its identity fuses verified, not barred (R21, R476). -/
def State.eligibleLead (s : State) : Bool :=
  (goodTiles s.fuses).any (fun t => bit s.fuses.verified t && !bit (s.rd K.leadIneligible) t)

/-- FUSE_READ_COMPLETE: the option bytes are read, the lead tile elected and the default slot map formed (steps 1 and 3); the
DRBGs are instantiated (17 R389), and a slot whose certificate does not fit its fused signature is withheld (18 R397). -/
def execFuseReadComplete (s : State) : Out :=
  .next (
    if s.boot.held ∨ s.boot.fused ∨ !s.boot.powered then s
    else
      let s := s.updBoot (fun b => { b with fused := true })
      let s := s.wrs ((List.range 36).map (fun t => (K.drbgStatus t, 1)))
      let s := s.setCont { s.cont with dups := duplicates (defaultInService s.fuses) }
      let s := s.wr K.attestStatus (3 - s.fuses.certsOk % 4)
      if s.eligibleLead then s.setBoot 31 28 1 else (s.setBoot 31 28 2).bootFault 1)

/-- PLL_LOCK: the clocks run, ports begin full link-up, and the stacks begin bring-up (R473, R475). -/
def execPllLock (s : State) : Out :=
  .next (
    if !s.boot.fused ∨ s.boot.locked ∨ fld (s.rd K.bootStatus) 27 24 = 10 then s
    else
      let s := s.updBoot (fun b => { b with locked := true })
      let s := if bit (s.rd K.bootStatus) 27 then s else s.setBoot 31 28 3
      (List.range 36).foldl (fun (s : State) p => s.fullLinkUp p) s)

/-- PLL_LOCK_TIMEOUT: the boot stops (R473). -/
def execPllLockTimeout (s : State) : Out :=
  .next (if s.boot.fused ∧ !s.boot.locked ∧ !bit (s.rd K.bootStatus) 27 then (s.setBoot 31 28 1).bootFault 2 else s)

/-- The lead core is released into the boot ROM (R475 step 6). -/
def State.releaseCore (s : State) : State :=
  (s.updBoot (fun b => { b with released := true, service := true })).setBoot 31 28 5

/-- Every tile of the default in-service set is filled. -/
def State.allFilled (s : State) : Bool := (defaultInService s.fuses).all (fun t => s.rd (K.fillStatus t) = 2)

/-- The tile is filled at this boot, or as the target of a relocation (09 R217, 10 R226). -/
def State.mayFill (s : State) (t : Nat) : Bool :=
  s.rd (K.fillStatus t) = 0 &&
    ((s.boot.locked && !s.boot.released && (defaultInService s.fuses).contains t) ||
      (match s.cont.reloc with | some r => r.target = t && r.step = 1 | none => false))

/-- FILL_START: the stack runs at 4 GT/s, and the fill engine starts (09 R217). -/
def execFillStart (tile : Nat) (s : State) : Out :=
  .next (
    if s.mayFill tile then
      let s := (s.freshStack tile).wrs [(K.stackState tile, 1), (K.fillStatus tile, 1)]
      if s.boot.released then
        match s.cont.reloc with
        | some r => s.wr K.relocStatus (relocStatus r 2 0)
        | none => s
      else s.setBoot 31 28 4
    else s)

/-- FILL_COMPLETE: the fill of a tile, at this boot or for the relocation in progress, ends after `ms` milliseconds; the last one of
a boot releases the lead core (09 R217, R479). -/
def execFillComplete (tile ms : Nat) (s : State) : Out :=
  .next (
    let target := s.cont.reloc.filter (fun r => decide (r.target = tile))
    if s.rd (K.fillStatus tile) = 1 && (!s.boot.released || target.isSome) then
      let s := ((s.zeroStack tile).wrs [(K.fillStatus tile, 2), (K.stackState tile, 2)]).setBoot 15 0 (min ms 65535)
      if s.boot.released then
        match target with
        | some r => s.wr K.relocStatus (relocStatus r 3 0)
        | none => s
      else if s.allFilled && s.eligibleLead then s.releaseCore else s
    else s)

/-- FILL_TIMEOUT: 400 ms after the release of RESET_N some fill is unfinished: the lead core is released with FAULT_CODE 3, and
firmware treats those stacks as lost (R475). -/
def execFillTimeout (s : State) : Out :=
  .next (
    if s.boot.locked ∧ !s.boot.released ∧ s.eligibleLead ∧ !s.allFilled then
      ((defaultInService s.fuses).filter (fun t => s.rd (K.fillStatus t) ≠ 2)).foldl (fun (s : State) t => s.stackLost t)
        (s.releaseCore.bootFault 3)
    else s)

/-! ### Firmware images (19 R430, R431) -/

/-- CODE_BYTES of an image. -/
def imgCode (b : List Byte) : Nat := beAt b 20 4

/-- The first check of R431 that an image fails: its REASON. The two signatures' verdicts come with the command. -/
def State.imageReason (s : State) (b : List Byte) (ecdsaOk mldsaOk : Bool) : Option Nat :=
  let signer := beAt b 12 4
  if slice b 0 4 ≠ ascii "PYFW" ∨ beAt b 4 4 ≠ 1 ∨ 7 < signer ∨ beAt b 16 4 ≠ 128 + imgCode b + 3405 ∨ b.length ≠ beAt b 16 4
      ∨ (slice b 48 80).any (· ≠ 0#8) ∨ 8388608 < b.length then some 1
  else if slice b 32 16 ≠ padTo 16 (ascii "PY-3640") then some 2
  else if bit s.fuses.signerRevoked signer then some 3
  else if beAt b 8 4 < s.fuses.minSecVersion then some 4
  else if !ecdsaOk then some 5
  else if !mldsaOk then some 6
  else none

/-- A field of FIRMWARE_STATUS written (19 R435). -/
def State.setFirm (s : State) (hi lo v : Nat) : State := s.wr K.firmwareStatus (setFld (s.rd K.firmwareStatus) hi lo v)

/-- FIRMWARE_STATUS STATE: 0 boot ROM, 1 running, 2 running with an image pending. -/
def State.firmState (s : State) : Nat := fld (s.rd K.firmwareStatus) 31 30

/-- The buffer's image. -/
def State.imageIn (s : State) (b : Nat) : List Byte := Tab.getD s.boot.images b []

/-- The image of buffer `b` starts (R431, R469 step 5): service domains run, discarded commands are acknowledged. -/
def State.startImage (s : State) (b : Nat) (fellBack : Bool) : State :=
  let im := s.imageIn b
  let warm := s.boot.warmAt.isSome
  let s := s.updBoot (fun x => { x with active := b, image := im, checking := false, service := !s.gaff.critical })
  let s := (((s.setFirm 31 30 1).setFirm 29 29 b).setFirm 28 28 (b2n fellBack)).setFirm 23 0 (beAt im 8 4)
  ((s.setBoot 31 28 (if warm then 7 else 6)).bootReady).mgmtResume

/-- BOOT_ROM_IMAGE_START: the boot ROM has checked the buffers after a warm reset; `okA` and `okB` say whether each buffer's
signatures verify (R431). With neither fit it waits for a push. -/
def execBootRomImageStart (okA okB : Bool) (s : State) : Out :=
  .next (
    if !s.boot.checking then s
    else
      let fit := fun (b : Nat) => (s.imageReason (s.imageIn b) (if b = 0 then okA else okB) (if b = 0 then okA else okB)).isNone
      let a := s.boot.active
      if fit a then s.startImage a false
      else if fit (1 - a) then s.startImage (1 - a) true
      else s.updBoot (fun b => { b with checking := false }))

/-- A firmware image pushed as a block (R431): the status, and the part after it. In the boot ROM state it starts at once. -/
def State.pushImage (s : State) (b : List Byte) (ecdsaOk mldsaOk : Bool) : Nat × State :=
  match s.imageReason b ecdsaOk mldsaOk with
  | some r => (Code.firmwareRejected, (s.setFirm 27 24 r).count (K.fligiferCounts 7) 1)
  | none =>
    if s.firmState = 0 then
      (Code.ok, (s.updBoot (fun x => { x with images := Tab.set x.images 0 b })).startImage 0 false)
    else (Code.ok, (s.updBoot (fun x => { x with images := Tab.set x.images (1 - x.active) b })).setFirm 31 30 2)

/-! ### Warm resets (R469, R476) -/

/-- A warm or tile reset falls now. -/
def State.markReset (s : State) : State :=
  { (s.wr K.lastResetFrame s.frame) with dailies := { s.dailies with reset := true } }

/-- A warm source at time `t` falls within the 10 us before the core's release of a warm reset in progress (R467). -/
def State.merges (s : State) (t : Nat) : Bool :=
  match s.boot.warmAt with
  | some (f, u) => s.frame * 250000 + t < f * 250000 + u + 10000
  | none => false

/-- Contexts `l` of the reels end with a warm reset (R469). -/
def State.dropCtxs (s : State) (l : List Nat) : State :=
  l.foldl (fun (s : State) k =>
    if (s.ctxOwner (k / 16) (k % 16)).isSome then s.dropCtx (k / 16) (k % 16) Code.abortedByReset Code.abortedByReset else s) s

/-- Composites of the engines `l` end with a warm reset (R469). -/
def State.dropComps (s : State) (l : List Nat) : State :=
  l.foldl (fun (s : State) n => s.compAbort n 5 Code.abortedByReset false) s

/-- Requests whose work was a reel's, which nothing will finish. -/
def State.dropJobs (s : State) : State :=
  let gone := fun (r : Req) => s.reels.jobs.any (fun j => j.req.port = r.port && j.req.id = r.id)
  { s with ports := s.ports.map (fun (q : Nat × Port) => (q.1, { q.2 with pending := q.2.pending.filter (fun r => !gone r) })) }

/-- Reels, launches and their queues at a warm reset (13 R314, 15 R362, 12 R294, 12 R287). -/
def State.reelsWarmReset (s : State) : State :=
  let s := s.reels.launches.foldl (fun (s : State) l =>
    let w := s.window l.bind
    if w.seq = l.seq then s.setWindow l.bind { w with result := Code.abortedByReset, state := 4 } else s) s
  let s := { s with reels := { s.reels with launches := [] } }
  let s := ((s.dropCtxs (List.range 512)).dropComps (List.range 1024)).dropJobs
  { s with reels := { s.reels with
      store := [], icache := [], jobs := [], lastStage := [], scrubCtx := [], scrubStore := []
      events := s.reels.events.map (fun (e : Nat × Events) => (e.1, { e.2 with recs := [], consumed := e.2.written })) } }

/-- Requests that wait on a service domain's work end with it; their responses are discarded (04 R113). -/
def State.dropServiceWaits (s : State) : State :=
  let dead := fun (w : Wait) => match w with
    | .poolOp | .invalDrain | .slotMove _ | .composite _ => true
    | _ => false
  let l := s.waiting.filter (fun w => dead w.1)
  let s := { s with waiting := s.waiting.filter (fun w => !dead w.1) }
  l.foldl (fun (s : State) w => s.answerSt w.2 Code.abortedByReset) s

/-- Every port's link session ends at a warm reset, and the ports fast-splice (R469 steps 1 and 4). -/
def State.linksWarmReset (s : State) : State :=
  (List.range 36).foldl (fun (s : State) p =>
    let st := s.rd (K.portState p)
    if st = 2 ∨ st = 3 ∨ st = 4 then (s.fastSplice p).portDown p else s) s

/-- The lead fails: it is barred, the next eligible tile is elected, and the firmware buffers are empty (R476). -/
def State.takeover (s : State) : State :=
  let s := s.cause 9
  let s := s.wr K.leadIneligible (s.rd K.leadIneligible ||| 2 ^ s.rd K.leadTile)
  let s := s.updBoot (fun b => { b with images := [], active := 0 })
  let s := s.updFl (fun f => { f with treeSilent := false })
  if s.eligibleLead then s.wr K.leadTile (electLead s.fuses (s.rd K.leadIneligible))
  else (s.updBoot (fun b => { b with released := false, checking := false })).bootFault 1

/-- A warm reset by the source of bit `b` at time `t` (R465 to R469). -/
def State.warmReset (s : State) (b t : Nat) (excess : Bool) : State :=
  if !s.boot.released then s
  else if s.merges t then
    let s := s.cause b
    if excess then s.takeover else s
  else
    let s := ((s.at t).cause b).markReset
    let s := s.updBoot (fun x => { x with warmAt := some (s.frame, t), service := false, checking := true, spdm := [] })
    let s := s.takeWarmReset.relocWarmReset
    let s := s.moverReset (fun _ _ => true)
    let s := (List.range 64).foldl (fun (s : State) p => s.sealReset p) s
    let s := s.reelsWarmReset.mgmtDiscard.sessEndAll.linksWarmReset.dropServiceWaits
    let s := if s.test.isSome then (s.wr K.testCtrl (s.rd K.testCtrl % 2 ^ 31)).wr K.testResult 0 else s
    let s := ({ s with test := none, fligOut := [] } : State).setFirm 31 30 0
    let s := s.setBoot 31 28 5
    if excess then s.takeover else s

/-- WRESET_N: a falling edge whose pulse is `ns` long, recognised from 2 us, ignored below 500 ns, and between as `seen` says
(R466). -/
def execWresetN (ns : Nat) (seen : Bool) (t : Nat) (s : State) : Out :=
  .next (if 2000 ≤ ns ∨ (500 ≤ ns ∧ seen) then s.warmReset 4 t false else s)

/-- WATCHDOG_EXPIRY: the third within 4,000 frames is also a takeover (R465, R476). -/
def execWatchdogExpiry (t : Nat) (s : State) : Out :=
  .next (
    if !s.boot.released then s
    else
      let l := s.frame :: s.boot.bites.filter (fun f => s.frame < f + 4000)
      let excess := 3 ≤ l.length
      (s.updBoot (fun b => { b with bites := if excess then [] else l })).warmReset 5 t excess)

/-- TAP_WARM_RESET: while CORE_DEBUG is set (R465, 18 R411). -/
def execTapWarmReset (t : Nat) (s : State) : Out :=
  .next (if bit (s.eff K.debugPolicy) 1 then s.warmReset 7 t false else s)

/-- CORE_LOCKUP. -/
def execCoreLockup (t : Nat) (s : State) : Out := .next (s.warmReset 8 t false)

/-- LEAD_HEARTBEAT_MISSING: a takeover warm reset (R476). -/
def execLeadHeartbeatMissing (t : Nat) (s : State) : Out := .next (s.warmReset 8 t true)

/-! ### Tile and partition resets (R470, R474) -/

/-- An entry of TILE_RESET_LOG (R478). -/
def State.tileLog (s : State) (t cause : Nat) : State :=
  let old := ((List.range 16).map (fun i => s.rd (K.tileResetLog i))).filter (· ≠ 0)
  let l := keepLast 16 (old ++ [t * 2 ^ 58 + cause * 2 ^ 54 + s.frame % 2 ^ 54])
  s.wrs (l.zipIdx.map (fun x => (K.tileResetLog x.2, x.1)))

/-- What the service domain of the tile that homes `slot` loses (12 R294, 13 R314, 15 R362, 11 R266). -/
def State.slotReset (s : State) (slot : Nat) : State :=
  let s := s.moverReset (fun _ x => x = slot)
  let s := (List.range 16).foldl (fun (s : State) c =>
    if (s.ctxOwner slot c).isSome then s.dropCtx slot c Code.abortedByReset Code.abortedByReset else s) s
  let s := (s.reels.jobs.filter (fun j => j.at_ slot = 1)).foldl (fun (s : State) j => s.poolEnd j Code.abortedByReset) s
  let s := (List.range 1024).foldl (fun (s : State) n =>
    if (s.comp n).st = 1 ∧ cdReserved (s.comp n).desc slot ≠ 0 then s.compAbort n 5 Code.abortedByReset true else s) s
  { s with reels := { s.reels with
      store := s.reels.store.filter (fun c => c.1 / 2 ^ 26 / 64 ≠ slot)
      icache := s.reels.icache.filter (fun e => e.1 / 4 ≠ slot) } }

/-- A reset of tile `t` for `cause` (R470): its service domain, its port's link session and pending requests. During a warm
reset only the log entry is written (R467). -/
def State.tileReset (s : State) (t cause : Nat) : State :=
  if s.boot.held then s
  else if s.boot.checking ∨ (s.boot.warmAt.isSome ∧ s.firmState = 0) then s.tileLog t cause
  else
    let s := ((s.tileLog t cause).cause 10).markReset
    let s := match s.slotOfTile t with
      | some slot => (List.range 64).foldl (fun (s : State) p => s.sealReset p) (s.slotReset slot)
      | none => s
    let s := if s.rd (K.portState t) = 2 ∨ s.rd (K.portState t) = 3 ∨ s.rd (K.portState t) = 4 then (s.fastSplice t).portDown t else s
    s.updPort t (fun q => { q with pending := [] })

/-- TILE_RESET: a critical-state error of the kind `cause` (1 header flit, 2 system area, 3 saved context, 4 control store). -/
def execTileReset (tile cause : Nat) (s : State) : Out := .next (s.tileReset tile cause)

/-- MESH_HEADER_DOUBLE_ERROR: counted, and the tile that finds it resets (05 R122, R134). -/
def execMeshHeaderDoubleError (tile : Nat) (s : State) : Out :=
  .next ((s.count (K.meshCounts tile 7) 1).tileReset tile 1)

/-- RESET_NOTICE: port engines resend what the tile has not answered, and its homes answer from their records (R470 steps 3
to 5). Every request's effect and answer are one step here, so nothing is executed twice and nothing is owed (log entry 33). -/
def execResetNotice (_tile : Nat) (s : State) : Out := .next s

/-- The reset of partition `p` at a slate (R474). -/
def State.partReset (s : State) (p : Nat) : State :=
  let s := (List.range 512).foldl (fun (s : State) k =>
    if s.ctxOwner (k / 16) (k % 16) = some p then s.dropCtx (k / 16) (k % 16) Code.abortedByReset Code.abortedByReset else s) s
  let s := (s.reels.launches.filter (fun l => l.part = p)).foldl (fun (s : State) l => s.endLaunch l Code.abortedByReset) s
  let s := s.moverReset (fun q _ => q = p)
  let s := (List.range 1024).foldl (fun (s : State) n =>
    if (s.comp n).part = p then s.compAbort n 5 Code.abortedByReset true else s) s
  let s := (s.reels.jobs.filter (fun j => j.part = p)).foldl (fun (s : State) j => s.poolEnd j Code.abortedByReset) s
  s.sealReset p

/-- A write of PARTITION_RESET (R474). -/
def State.partResetWrite (s : State) (p : Nat) : Nat × State :=
  if !s.active p || s.boot.partResets.contains p then (Code.busy, s)
  else (Code.ok, s.updBoot (fun b => { b with partResets := b.partResets ++ [p] }))

/-- A write of WARM_RESET_REQ (R465). -/
def State.warmResetReq (s : State) (v t : Nat) : Nat × State := (Code.ok, if v = 1 then s.warmReset 6 t false else s)

/-- A write of FIRMWARE_ACTIVATE (19 R431). -/
def State.firmActivate (s : State) (v t : Nat) : Nat × State :=
  if v = 0 then (Code.ok, s)
  else if s.firmState ≠ 2 then (Code.busy, s)
  else (Code.ok, (s.updBoot (fun b => { b with active := 1 - b.active })).warmReset 6 t false)

/-- A write to RESET_CAUSE: ones clear their bits (R468). -/
def State.causeWrite (s : State) (v : Nat) : State :=
  let old := s.rd K.resetCause
  s.wr K.resetCause (old - (old &&& v))

/-! ### The SMBus target (23 R489) -/

/-- A temperature of the last frame as I16; 0x8000 where there is none. -/
def State.smbTemp (s : State) (v : Option Int) : List Byte :=
  match v with
  | some x => if s.boot.held || !s.boot.locked then toLE 2 0x8000 else toLE 2 (ofSigned 16 x)
  | none => toLE 2 0x8000

/-- POWER_STATE. -/
def State.powerState (s : State) : Nat :=
  if s.boot.held then 0 else if s.gaff.critical then 4 else if s.firmState ≠ 0 then 3 else if s.boot.released then 2 else 1

/-- The content of a command code: its bytes; none for an unlisted code. -/
def State.smbRead (s : State) (code : Nat) : Option (List Byte) :=
  match code with
  | 0 => some (toLE 2 0x3640)
  | 1 => some (toLE 4 (s.rd K.resetCause))
  | 2 => some (toLE 4 (s.rd K.bootStatus))
  | 3 => some (s.smbTemp s.gaff.hotDie)
  | 4 => some (s.smbTemp s.gaff.hotStack)
  | 5 => some (toLE 4 (if s.boot.held || !s.boot.locked then 0xFFFFFFFF else s.rd K.packagePower))
  | 6 => some (toLE 4 (s.rd K.coolantReport))
  | 7 => some (toLE 1 (b2n s.gaff.therm + b2n s.gaff.critical * 2 + s.gaff.peak * 4))
  | 8 => some (toLE 1 s.powerState)
  | _ => none

/-- The 7-bit address at which the SMBus target answers, of its two straps (R489). -/
def State.smbAddress (s : State) : Nat := 0x58 + s.fuses.straps % 4

/-- SMBUS_TRANSACTION: a block read or write of `code` at address `addr`. Another address is another target's; a write with a
bad PEC, of the wrong length or to a read-only code changes nothing. -/
def execSmbusTransaction (addr code : Nat) (wr : Bool) (data : List Byte) (pecOk : Bool) (t : Nat) (s : State) : Out :=
  .next (
    if !s.boot.powered ∨ addr ≠ s.smbAddress then s
    else
      let s := s.at t
      match s.smbRead code with
      | none => s.updBoot (fun b => { b with smb := none })
      | some b =>
        let s := s.updBoot (fun x => { x with smb := some (if wr then [] else b), smbCode := code })
        if !wr || !pecOk || data.length ≠ 4 then s
        else if code = 1 then s.causeWrite (ofLE data)
        else if code = 6 then s.coolantWrite (ofLE data)
        else s)

/-! ### The TAP (18 R411) -/

/-- TAP_INSTRUCTION `op`: 0 BYPASS, 1 IDCODE, 2 a boundary-scan instruction, 3 halt, 4 step and 5 resume of the lead core. An
instruction that the debug policy does not offer acts as BYPASS (log entry 34). Pin levels that boundary scan captures are
free values. -/
def execTapInstruction (op : Nat) (s : State) : Out :=
  let p := s.eff K.debugPolicy
  .next (
    if s.boot.held ∨ !s.boot.powered then s
    else if op = 1 then s.updBoot (fun b => { b with tapOut := s.fuses.idcode })
    else if op = 2 ∧ bit p 0 then
      let d := s.draw 0
      d.2.updBoot (fun b => { b with tapOut := d.1 })
    else if op = 3 ∧ bit p 1 then s.updBoot (fun b => { b with coreHalted := true })
    else if op = 4 ∧ bit p 1 then s.updBoot (fun b => { b with steps := b.steps + b2n b.coreHalted })
    else if op = 5 ∧ bit p 1 then s.updBoot (fun b => { b with coreHalted := false })
    else s.updBoot (fun b => { b with tapOut := 0 }))

end Sys2Proof.Machine
end

