-- ==== Sys2Proof/Machine/TakeRules.lean ====
section
/-!
DEFINITION. What a commit checks of the whole shadow (02 R40): the rules of R17, R48, R128, R138, R147, R149, R154, R189, R232,
R235, R248, R249, R299, R370, R372, R375, R411 and R455. Each check answers the faults it finds; a fault is the list of the
entries (index*256 + subindex) at fault, in ascending order.
-/

namespace Sys2Proof.Machine

/-- The state as the shadow half describes it: every staged element in place of its live half (R38). -/
def State.shadow (s : State) : State := { s with regs := s.take.staged.foldl (fun (r : Tab Nat) kv => Tab.set r kv.1 kv.2) s.regs }

/-- Some staged element of entry `e` differs from its live half. -/
def State.changed (s : State) (e : Nat) : Bool := s.take.staged.any (fun kv => kv.1 / 16777216 = e && s.rd kv.1 ≠ kv.2)

/-- The non-zero elements of the `n` entries from index `base` with subindex `sub`: (entry number, element, value). -/
def State.family (s : State) (base n sub : Nat) : List (Nat × Nat × Nat) :=
  s.regs.filterMap (fun kv =>
    let i := kv.1 / 4294967296
    if base ≤ i ∧ i < base + n ∧ kv.1 / 16777216 % 256 = sub ∧ kv.2 ≠ 0 then some (i - base, kv.1 % 16777216, kv.2) else none)

/-- A partition is ACTIVE after the take. -/
def State.activeAfter (t : State) (p : Nat) : Bool := t.rd (K.partitionState p) = 1
/-- A partition counts as sealed after the take (R128). -/
def State.sealedAfter (t : State) (p : Nat) : Bool := t.activeAfter p && t.rd (K.partitionClass p) = 1

/-- Sum of the values of a family at element `el`. -/
def sumAt (l : List (Nat × Nat × Nat)) (el : Nat) : Nat := ((l.filter (fun x => x.2.1 = el)).map (fun x => x.2.2)).sum

/-- The entries of a family that hold something at element `el`. -/
def entriesAt (base sub : Nat) (l : List (Nat × Nat × Nat)) (el : Nat) : List Nat :=
  (l.filter (fun x => x.2.1 = el)).map (fun x => (base + x.1) * 256 + sub)

/-- A family whose sum over the partitions at one of `n` elements passes `lim` (R48). -/
def overSum (t : State) (sub n lim : Nat) : List (List Nat) :=
  let l := t.family 0x2100 64 sub
  ((List.range n).filter (fun el => lim < sumAt l el)).map (entriesAt 0x2100 sub l)

/-- The slot map (R17). -/
def slotMapFaults (t : State) : List (List Nat) :=
  let m := (List.range 32).map t.tileAt
  if m.all (fun x => x < 36 && !bit t.fuses.defects x) && decide m.Nodup then [] else [[0x460001]]

/-- The limits of the call sheet (R48, R455). -/
def shareFaults (t : State) : List (List Nat) :=
  let q := t.family 0x2100 64 7
  let c := t.family 0x2100 64 9
  overSum t 2 36 4096 ++ overSum t 3 36 4096 ++ overSum t 4 32 4096 ++ overSum t 5 32 4096 ++ overSum t 8 32 4096 ++
  overSum t 9 32 204 ++
  ((t.family 0x2100 64 6).filter (fun x => 496000 < x.2.2)).map (fun x => [(0x2100 + x.1) * 256 + 6]) ++
  ((List.range 32).filter (fun sl => 47488 < sumAt q sl + 160 * sumAt c sl)).map (fun sl =>
    (entriesAt 0x2100 7 q sl ++ entriesAt 0x2100 9 c sl).mergeSort) ++
  (if 4096 < ((List.range 64).map (fun p => t.rd (K.powerShares p))).sum then [[0x740001]] else [])

/-- Phases and what sealed partitions own (R128). -/
def phaseFaults (t : State) : List (List Nat) :=
  let owners := (List.range 10).map (fun k => t.rd (K.meshPhaseMap k))
  (if owners.head? = some 0xFF then [] else [[0x280001]]) ++
  ((owners.drop 1).filter (fun o => o ≠ 0xFF && t.rd (K.partitionClass o) ≠ 1)).map (fun o =>
    [(0x2100 + o) * 256 + 1, 0x280001]) ++
  ((List.range 64).filter (fun p => t.sealedAfter p && !owners.contains p)).map (fun p =>
    [(0x2100 + p) * 256 + 1, 0x280001, (0x3000 + p) * 256 + 1])

/-- The valid extent map entries of every partition: (partition, index, entry). -/
def State.extents (s : State) : List (Nat × Nat × Nat) := (s.family 0x3400 64 1).filter (fun x => eValid x.2.2)

/-- Device extents that an entry names, mirror copies included. -/
def dxnsOf (e : Nat) : List Nat := eDxn e :: if eMirrored e then [eMirror e] else []

/-- Extent map entries (R137, R138, R232). A DXN or MIRROR_DXN above 16,255 is refused whether or not the entry is valid. A
MIRROR_DXN of an entry that is not MIRRORED is accepted and ignored: R137 has it 0 and names no refusal (DESIGN CHOICE, log
entry 130). -/
def extentFaults (s t : State) : List (List Nat) :=
  let all := t.extents
  let named := (all.map (fun x => (dxnsOf x.2.2).map (fun d => (d, x.1)))).flatten
  let entry := fun (p : Nat) => (0x3400 + p) * 256 + 1
  let bad := fun (x : Nat × Nat × Nat) =>
    let e := x.2.2
    let old := s.entry x.1 x.2.1
    (dxnsOf e).any (fun d => (Tab.find s.quarantine d).isSome) ||
    (eValid old && eDxn old = eDxn e && eKind old ≠ eKind e) ||
    ((eMirrored e || ePaired e) && eKind e = 1) || (eMirrored e && ePaired e)
  (all.filter bad).map (fun x => [entry x.1]) ++
  ((all.filter (fun x => eHeld x.2.2 && !(bValid (t.binding (eHolder x.2.2)) && bPart (t.binding (eHolder x.2.2)) = x.1))).map
    (fun x => [entry x.1, 0x350001])) ++
  ((t.family 0x3400 64 1).filter (fun x => 16255 < eDxn x.2.2 || 16255 < eMirror x.2.2)).map (fun x => [entry x.1]) ++
  ((t.family 0x3400 64 1).filter (fun x => eSealed x.2.2 && !eSealed (s.entry x.1 x.2.1))).map (fun x => [entry x.1]) ++
  ((named.filter (fun n => 1 < (named.filter (fun m => m.1 = n.1)).length)).map (fun n =>
    (named.filter (fun m => m.1 = n.1)).map (fun m => entry m.2)))

/-- Mirror pairs (R232). -/
def mirrorFaults (s t : State) : List (List Nat) :=
  let m := fun (sl : Nat) => t.rd (K.mirrorPairs sl)
  let mirrored : List (Nat × Nat × Nat) := t.extents.filter (fun x => eMirrored x.2.2)
  let ents := mirrored.map (fun x => (0x3400 + x.1) * 256 + 1)
  (if (List.range 32).all (fun sl => m sl < 32 && m sl ≠ sl && m (m sl) = sl) then [] else [[0x460002]]) ++
  (if !mirrored.isEmpty && (List.range 32).any (fun sl => quadrant (t.tileAt sl) = quadrant (t.tileAt (m sl))) then
    [ents ++ [0x460001, 0x460002]] else []) ++
  (if !mirrored.isEmpty && s.changed 0x460002 then [[0x460002]] else [])

/-- The entries that say whether partition `p` counts as sealed: its class and its state (R128). -/
def sealEntries (p : Nat) : List Nat := [(0x2100 + p) * 256 + 1, (0x3000 + p) * 256 + 1]

/-- Bank groups and burst shares of sealed partitions (R189). Every entry that contributes to a limit is named (R40): the phase
map, the classes and states, and the extent map or the shares. -/
def stackFaults (t : State) : List (List Nat) :=
  let owned := fun (p : Nat) => ((List.range 10).filter (fun k => t.phaseOwner k = some p)).length
  let other := fun (x : Nat × Nat × Nat) =>
    ((dxnsOf x.2.2).filterMap (fun d => t.groupOwner (d % 12))).filter (fun q => q ≠ x.1 && t.sealedAfter q)
  let bad := fun (x : Nat × Nat × Nat) =>
    if t.sealedAfter x.1 then (dxnsOf x.2.2).any (fun d => t.groupOwner (d % 12) ≠ some x.1) else !(other x).isEmpty
  (t.extents.filter bad).map (fun x =>
    [(0x3400 + x.1) * 256 + 1, 0x280001] ++ sealEntries x.1 ++ ((other x).map sealEntries).flatten) ++
  ((t.family 0x2100 64 5).filter (fun x => t.sealedAfter x.1 && 4096 * owned x.1 / 10 < x.2.2)).map (fun x =>
    [(0x2100 + x.1) * 256 + 5, 0x280001] ++ sealEntries x.1)

/-- Bindings and their lease parameters (R147, R149). -/
def bindingFaults (t : State) : List (List Nat) :=
  let l : List (Nat × Nat) := t.elems 0x3500 1 bValid
  let ids : List Nat := l.map (fun x => bEid x.2 * 4096 + bPort x.2 * 64 + bPart x.2)
  (if l.any (fun x => bEid x.2 = 0xFFFF || 35 < bPort x.2) || !decide ids.Nodup then [[0x350001]] else []) ++
  (if (t.elems 0x3500 2 (fun v => v ≠ 0)).any (fun x =>
      let h := if x.2 % 65536 = 0 then 40 else x.2 % 65536
      let e := if x.2 / 65536 = 0 then 400 else x.2 / 65536
      e < 2 * h) then [[0x350002]] else [])

/-- Publish regions (R154). -/
def regionFaults (s t : State) : List (List Nat) :=
  let l := (t.family 0x3440 64 1).filter (fun x => bit x.2.2 15)
  let stays : List (Nat × Nat × Nat) := l.filter (fun x => s.regionValid x.1 x.2.1)
  let fresh : List (Nat × Nat × Nat) := l.filter (fun x => !s.regionValid x.1 x.2.1)
  let views : List (Nat × Nat) := stays.map (fun x => (x.1, s.rd (K.publishViews x.1 x.2.1)))
  let news : List (Nat × Nat) := fresh.map (fun x => (x.1, fld x.2.2 13 0))
  (news.filter (fun v =>
    let e := t.entry v.1 v.2
    !eValid e || eKind e ≠ 3 || eHeld e || views.contains v || 1 < news.count v)).map (fun v =>
      [(0x3400 + v.1) * 256 + 1, (0x3440 + v.1) * 256 + 1]) ++
  (views.filter (fun v =>
    let a := s.entry v.1 v.2
    let b := t.entry v.1 v.2
    !eValid b || eDxn a ≠ eDxn b || eTag a ≠ eTag b || eHeld b)).map (fun v => [(0x3400 + v.1) * 256 + 1])

/-- Pairs (R235). -/
def pairFaults (t : State) : List (List Nat) :=
  let l : List (Nat × Nat) := t.elems 0x4602 1 pdValid
  let ids : List (Nat × Nat) := l.map (fun x => (pdPart x.2, pdExtent x.2))
  (if l.any (fun x => 35 < pdPort x.2 || 35 < pdAlt x.2) || !decide ids.Nodup then [[0x460201]] else []) ++
  (l.filter (fun x => let e := t.entry (pdPart x.2) (pdExtent x.2); !(eValid e && ePaired e))).map (fun x =>
    [(0x3400 + pdPart x.2) * 256 + 1, 0x460201]) ++
  (t.extents.filter (fun x => ePaired x.2.2 && !ids.contains (x.1, x.2.1))).map (fun x => [(0x3400 + x.1) * 256 + 1, 0x460201]) ++
  (l.filter (fun x => t.rd (K.portSharesOut (pdPart x.2) (pdPort x.2)) = 0)).map (fun x =>
    [(0x2100 + pdPart x.2) * 256 + 3, 0x460201])

/-- A sealed partition that owns an engine after the take. -/
def State.engineSealed (t : State) (slot e : Nat) : Option Nat :=
  let v := t.rd (K.engineOwner (slot * 4 + e))
  if v < 64 && t.sealedAfter v then some v else none

/-- The valid ring descriptors: (partition, ring, descriptor). -/
def State.ringDescs (s : State) : List (Nat × Nat × Nat) := (s.family 0x4840 64 1).filter (fun x => rgValid x.2.2)

/-- The entries that say who owns an engine: its owner, and that partition's class and state. -/
def engineEntries (t : State) (slot e : Nat) : List Nat :=
  let v := t.rd (K.engineOwner (slot * 4 + e))
  0x480001 :: if v < 64 then sealEntries v else []

/-- Rings, engines and agents (R248, R249). Every entry that contributes to a fault is named (R40). -/
def moverFaults (t : State) : List (List Nat) :=
  let rings := t.ringDescs
  let shares := t.family 0x2100 64 8
  let bad := fun (x : Nat × Nat × Nat) =>
    let d := x.2.2
    let e := t.entry x.1 (fld (rgBase d) 41 28)
    let o := t.engineSealed (rgSlot d) (rgEngine d)
    let ring := (0x4840 + x.1) * 256 + 1
    (if rgLog d < 6 || 16 < rgLog d || rgBase d % (64 * 2 ^ rgLog d) ≠ 0 || 35 < rgNPort d then [[ring]] else []) ++
    (if !(eValid e && eTag e = fld (rgBase d) 47 42 && eKind e = 0 && !eSealed e) || (eHeld e && !eRetained e) then
      [[(0x3400 + x.1) * 256 + 1, ring]] else []) ++
    (if (if t.sealedAfter x.1 then o ≠ some x.1 else o.isSome) then
      [sealEntries x.1 ++ engineEntries t (rgSlot d) (rgEngine d) ++ [ring]] else [])
  let ownedBy := fun (p sl : Nat) => ((List.range 4).filter (fun e => t.engineSealed sl e = some p)).length
  let openAt := fun (sl : Nat) => ((List.range 4).filter (fun e => (t.engineSealed sl e).isNone)).length
  let shared : List (Nat × Nat × Nat) := shares.filter (fun x => !t.sealedAfter x.1)
  let agents : List (Nat × Nat) := t.elems 0x4800 2 agValid
  (rings.map bad).flatten ++
  (shares.filter (fun x => t.sealedAfter x.1 && 1024 * ownedBy x.1 x.2.1 < x.2.2)).map (fun x =>
    [(0x2100 + x.1) * 256 + 8, 0x480001] ++ sealEntries x.1) ++
  ((List.range 32).filter (fun sl => 1024 * openAt sl < sumAt shared sl)).map (fun sl =>
    entriesAt 0x2100 8 shared sl ++ ((shared.filter (fun x => x.2.1 = sl)).map (fun x => sealEntries x.1)).flatten
      ++ ((List.range 4).map (engineEntries t sl)).flatten) ++
  (rings.filter (fun x =>
    t.rd (K.storeQuotas x.1 (rgSlot x.2.2)) < 33 * (rings.filter (fun y => y.1 = x.1 && rgSlot y.2.2 = rgSlot x.2.2)).length)).map
      (fun x => [(0x2100 + x.1) * 256 + 7, (0x4840 + x.1) * 256 + 1]) ++
  (if agents.any (fun a => agents.any (fun b => agPart a.2 ≠ agPart b.2 && agEid a.2 = agEid b.2 && agPort a.2 = agPort b.2))
    then [[0x480002]] else [])

/-- Context owners of one sequencer (R299). -/
def contextFaults (t : State) : List (List Nat) :=
  (List.range 128).filterMap (fun q =>
    let o := ((List.range 4).map (fun i => t.rd (K.contextOwner (q * 4 + i)))).filter (· < 64)
    if o.any (fun a => t.sealedAfter a && o.any (fun b => b ≠ a)) then some ((o.map sealEntries).flatten ++ [0x500101]) else none)

/-- What names or is granted to partition `p` after the take (R370). -/
def grantsOf (t : State) (p : Nat) : List Nat :=
  let shares := (List.range 8).filterMap (fun i =>
    let e := (0x2100 + p) * 256 + 2 + i
    if t.regs.any (fun kv => kv.1 / 16777216 = e && kv.2 ≠ 0) then some e else none)
  shares ++
  (if (List.range 10).any (fun k => t.rd (K.meshPhaseMap k) = p) then [0x280001] else []) ++
  (if (t.elems (0x3400 + p) 1 eValid).isEmpty then [] else [(0x3400 + p) * 256 + 1]) ++
  (if (t.elems (0x3440 + p) 1 (fun v => bit v 15)).isEmpty then [] else [(0x3440 + p) * 256 + 1]) ++
  (if (t.elems 0x3500 1 (fun d => bValid d && bPart d = p)).isEmpty then [] else [0x350001]) ++
  (if (t.elems 0x4602 1 (fun d => pdValid d && pdPart d = p)).isEmpty then [] else [0x460201]) ++
  (if t.regs.any (fun kv => kv.1 / 16777216 = 0x480001 && kv.2 = p) then [0x480001] else []) ++
  (if (t.elems 0x4800 2 (fun a => agValid a && agPart a = p)).isEmpty then [] else [0x480002]) ++
  (if (t.elems (0x4840 + p) 1 rgValid).isEmpty then [] else [(0x4840 + p) * 256 + 1]) ++
  (if t.regs.any (fun kv => kv.1 / 16777216 = 0x500101 && kv.2 = p) then [0x500101] else []) ++
  (if t.rd (K.powerShares p) = 0 then [] else [0x740001])

/-- The frame at which the take now committed would apply (R40). -/
def State.commitTarget (s : State) : Nat :=
  if s.rd K.takeTargetFrame = 0 then s.earliestTarget else s.rd K.takeTargetFrame

/-- Partitions freed, allocated and re-incarnated; locks; internal scan (R370, R372, R375, R411). -/
def partFaults (s t : State) : List (List Nat) :=
  let target := s.commitTarget
  ((List.range 64).map (fun p =>
    let st := (0x3000 + p) * 256
    (if t.activeAfter p ∧ s.rd (K.partitionStatus p) = 2 ∧ target < s.rd (K.quarantineEnd p) then [[st + 1]] else []) ++
    (if t.activeAfter p ∧ s.rd (K.partitionStatus p) ≠ 1 ∧ bit (s.eff K.debugPolicy) 2 then [[st + 1]] else []) ++
    (if t.activeAfter p then [] else (grantsOf t p).map (fun e => [e, st + 1])) ++
    (if s.active p ∧ t.activeAfter p ∧ t.rd (K.incarnationAdvance p) ≠ s.rd (K.incarnationAdvance p) ∧
        (s.part p).lastAdvance.any (fun f => target < f + 8) then [[st + 9]] else []) ++
    (if t.rd (K.lockEnable p) = 1 ∧ t.rd (K.lockTenantAnchor p) = 0 then [[st + 5, st + 0x0C]] else []))).flatten

/-- The entry that a fault names (R40): the first of its entries that the staging changes, or the first of them. -/
def State.faultEntry (s : State) (l : List Nat) : Nat :=
  let l := l.mergeSort
  (l.find? s.changed).getD (l.headD 0)

/-- The first failure of the shadow's validation (R40): (status, entry). -/
def State.takeFault (s : State) : Option (Nat × Nat) :=
  let t := s.shadow
  let l := slotMapFaults t ++ shareFaults t ++ phaseFaults t ++ extentFaults s t ++ mirrorFaults s t ++ stackFaults t ++
    bindingFaults t ++ regionFaults s t ++ pairFaults t ++ moverFaults t ++ contextFaults t ++ partFaults s t
  match (l.map s.faultEntry).mergeSort with
  | e :: _ => some (Code.takeInvalid, e)
  | [] => s.authFault.map (fun x => (Code.authRequired, x.2))

/-- CONTINUITY_TAKE_COMMIT: the lead firmware commits the slot-map take of a relocation that waits for it, once the take
state is IDLE (R44, 10 R226 step 6). A take that the validation of R40 refuses leaves the relocation waiting (log entry 123). -/
def execContinuityTakeCommit (t : Nat) (s : State) : Out :=
  let s := s.at t
  .next (
    match s.cont.reloc with
    | none => s
    | some r =>
      if (r.step = 5 ∨ r.step = 6) ∧ s.takeState = 0 then
        (s.setCont { s.cont with reloc := some { r with step := 6 } }).continuityCommit r.slot r.target
          (s.continuityStage r.slot r.target).takeFault
      else s)

/-- A commit (R40): the token refusals that it meets are logged (17 R380). -/
def State.commit (s : State) (sess v : Nat) : Nat × State :=
  let r := s.takeCommit sess v s.takeFault
  if r.1 = Code.authRequired then
    match s.authFault with
    | some x => if (Tab.find s.take.tokens x.1).isSome then (r.1, r.2.tokenRefused x.1) else r
    | none => r
  else r

end Sys2Proof.Machine
end

