-- ==== Sys2Proof/Machine/DictWrite.lean ====
section
/-!
DEFINITION. Writes of dictionary entries (19 R415, R416): the checks, then the entry's own behaviour, or storage.
-/

namespace Sys2Proof.Machine

/-- A write of DIR_PROBE (07 R182): the line's entry from the slice, or from the eviction buffer. -/
def State.dirProbe (s : State) (v : Nat) : State :=
  let p := fld v 63 58
  let va := fld v 47 0
  let r := match s.mapped p va with
    | some e =>
      if eKind e = 1 then
        let ln := dpaOf va (eDxn e) (s.homeTile va) / 128
        match s.dirEnt ln, Tab.find s.evicts ln with
        | some d, _ => d.pack ln false
        | none, some x => x.ent.pack ln true
        | none, none => 0
      else 0
    | none => 0
  s.wr K.dirProbeResult r

/-- A write of SPLICE_CMD (03 R85, R90): refused while the port cannot splice. -/
def State.spliceCmd (s : State) (p v : Nat) : Nat × State :=
  let c := s.rd (K.trainedConfig p)
  let kind := fld v 7 6
  let r := if kind = 1 then s.beginSplice p 1 (fld c 1 0) (fld c 3 2) (fld c 23 16)
    else s.beginSplice p kind (fld v 1 0) (fld v 3 2) (fld v 15 8)
  (if r.1 then Code.ok else Code.busy, r.2)

/-- A write of LOCK_REQUEST from session `sess` (17 R375). -/
def State.lockFrom (s : State) (sess p : Nat) (b : List Byte) : Nat × State :=
  match s.session sess with
  | some x => s.lockWrite p (sess < 16) x.mutualAuth x.rootDigest x.ems b
  | none => s.lockWrite p false false 0 [] b

/-- The effect of an accepted write of elements `els` to an entry, `b` being the bytes written: its status. Entries that act
when they are written come first; RWT entries are staged; a write of any other entry is stored, and where its chapter says
so applies at the next slate. -/
def State.writeEffect (s : State) (sess : Nat) (d : Desc) (idx : Nat) (b : List Byte) (els : List (Nat × Nat)) (t : Nat) :
    Nat × State :=
  let sub := d.sub
  let n := famNo d idx
  let v := (els.headD (0, 0)).2
  let ok := fun (x : State) => (Code.ok, x)
  if d.acc = 3 then ok (s.setTake { s.take with staged := els.foldl (fun (m : Tab Nat) e => Tab.set m (ek idx sub e.1) e.2) s.take.staged })
  else if d.base = 0x1800 ∧ sub = 1 then ok (s.causeWrite v)
  else if d.base = 0x1800 ∧ sub = 7 then s.warmResetReq v t
  else if d.base = 0x1801 ∧ sub = 1 then s.partResetWrite v
  else if d.base = 0x2001 ∧ sub = 1 then ok (s.sourceWrite v)
  else if d.base = 0x2001 ∧ sub = 6 then ok (s.frameLoad v)
  else if d.base = 0x2010 ∧ sub = 1 then s.stageOpen sess v
  else if d.base = 0x2010 ∧ sub = 2 then s.stageClose sess v
  else if d.base = 0x2010 ∧ sub = 4 then s.targetWrite sess v
  else if d.base = 0x2010 ∧ sub = 5 then s.commit sess v
  else if d.base = 0x2010 ∧ sub = 6 then s.takeAbort v
  else if d.base = 0x2400 ∧ sub = 0x12 then s.spliceCmd n v
  else if d.base = 0x3000 ∧ sub = 7 then s.tokenWrite sess n b
  else if d.base = 0x3000 ∧ sub = 0x0A then s.lockFrom sess n b
  else if d.base = 0x3000 ∧ sub = 0x0B then s.unlockWrite n b
  else if d.base = 0x3801 ∧ sub = 1 then ok (s.dirProbe v)
  else if d.base = 0x4000 ∧ sub = 0x0B then s.retrainWrite n v
  else if d.base = 0x4000 ∧ sub = 0x0C then s.trainCtrlWrite n v
  else if d.base = 0x4000 ∧ sub = 0x10 then s.dqWrite n els
  else if d.base = 0x4410 ∧ sub = 2 then s.dieRetireWrite n v
  else if d.base = 0x4480 ∧ sub = 1 then s.testCtrlWrite v
  else if d.base = 0x4601 ∧ sub = 1 then s.relocWrite v
  else if d.base = 0x4801 ∧ sub = 1 then s.slabProbe v
  else if d.base = 0x6440 ∧ sub = 1 then s.sealWrite n b
  else if d.base = 0x7400 ∧ sub = 6 then ok (s.coolantWrite v)
  else if d.base = 0x7801 ∧ sub = 1 then ok ((s.wrs (els.map (fun e => (ek idx sub e.1, e.2)))).reclass)
  else if d.base = 0x7810 ∧ sub = 3 then s.firmActivate v t
  else if d.base = 0x7C00 ∧ sub = 1 then s.debugWrite v
  else if d.base = 0x2400 ∧ 0x20 ≤ sub ∧ sub ≤ 0x22 then
    ok ((els.foldl (fun (s : State) e => s.wrLag (ek idx sub e.1) e.2) s).admissionChanged n (s.portUsable n))
  else ok (els.foldl (fun (s : State) e => s.wrLag (ek idx sub e.1) e.2) s)

/-- A write of `b` at byte `off` of entry `idx`:`sub` from session `sess`: its status (R416). A lock request that the
session's class does not permit is logged as refused (17 R375, R395). -/
def State.dictWrite (s : State) (sess idx sub off : Nat) (b : List Byte) (t : Nat) : Nat × State :=
  match Dict.find idx sub with
  | none => (Code.noSuchEntry, s)
  | some d =>
    match s.writeCheck sess idx sub off b with
    | some st =>
      if 0x3000 ≤ idx ∧ idx < 0x3040 ∧ sub = 0x0A ∧ (st = Code.authRequired ∨ st = Code.noAccess) then
        (st, s.security 9 (s.handleOf (idx - 0x3000)) (s.partHome (idx - 0x3000)) 0 0)
      else (st, s)
    | none => s.writeEffect sess d idx b (s.elemsOfWrite d idx off b) t

end Sys2Proof.Machine
end

