-- ==== Sys2Proof/Machine/Fligifer.lean ====
section
/-!
DEFINITION. The Fligifer protocol (19 R423 to R433): headers, the order of requests in a session, READ and WRITE, blocks,
dailies subscriptions. Messages are bytes in network byte order.
-/

namespace Sys2Proof.Machine

/-! ### Messages (R423, R425) -/

/-- MTYPE. -/
def fmType (m : List Byte) : Nat := beAt m 0 1
/-- FLAGS. -/
def fmFlags (m : List Byte) : Nat := beAt m 1 1
/-- LENGTH. -/
def fmLen (m : List Byte) : Nat := beAt m 2 2
/-- SEQ. -/
def fmSeq (m : List Byte) : Nat := beAt m 4 4

/-- A message: header and body. -/
def fmMsg (ty seq st : Nat) (body : List Byte) : List Byte :=
  toBE 1 ty ++ toBE 1 0 ++ toBE 2 (12 + body.length) ++ toBE 4 seq ++ toBE 2 st ++ toBE 2 0 ++ body

/-- A WRITE of `b` at byte `off` of an entry (R425). -/
def fmWrite (seq idx sub off : Nat) (b : List Byte) : List Byte :=
  fmMsg 0x02 seq 0 (toBE 2 idx ++ toBE 1 sub ++ toBE 1 0 ++ toBE 4 off ++ toBE 4 b.length ++ b)

/-- The body's length fits the message type (R425, R428, R432). -/
def fmFits (m : List Byte) : Bool :=
  let n := m.length
  let ty := fmType m
  fmLen m = n && n ≤ 4000 &&
  (if ty = 0x01 ∨ ty = 0x04 then n = 24
   else if ty = 0x02 then 24 ≤ n && beAt m 20 4 = n - 24
   else if ty = 0x05 then n = 24 || n = 24 + beAt m 20 2
   else if ty = 0x06 then n = 64
   else if ty = 0x10 then n = 32
   else if ty = 0x11 ∨ ty = 0x13 then n = 13
   else true)

/-- The message types a requester may send (R424). -/
def fmKnown (ty : Nat) : Bool := [0x01, 0x02, 0x04, 0x05, 0x06, 0x10, 0x11].contains ty

/-- A reserved bit or byte of the message is set (R423, R425, R10). -/
def fmReserved (m : List Byte) : Bool :=
  let ty := fmType m
  2 ≤ fmFlags m || (fmFlags m = 1 && ty ≠ 0x01) || beAt m 10 2 ≠ 0 ||
  (if ty = 0x01 ∨ ty = 0x02 then beAt m 15 1 ≠ 0
   else if ty = 0x04 then 1 < beAt m 15 1
   else if ty = 0x05 then beAt m 14 2 ≠ 0 || beAt m 22 2 ≠ 0
   else if ty = 0x06 then 1 < beAt m 14 1 || beAt m 15 1 ≠ 0
   else if ty = 0x10 then beAt m 13 3 ≠ 0
   else false)

/-- A request that is answered with RESERVED_NONZERO and is not executed (R10, R423). -/
def fmRefused (m : List Byte) : Bool := fmKnown (fmType m) && fmFits m && fmReserved m

/-! ### Blocks (R428, R429) -/

/-- The block of a session with an identifier. -/
def Sess.block (x : Sess) (id : Nat) : Option Block := x.blocks.find? (fun b => b.id = id)

/-- Bytes of the block buffer in use. -/
def State.blockBytes (s : State) : Nat := (s.sess.map (fun (e : Nat × Sess) => (e.2.blocks.map (fun b => b.size)).sum)).sum

/-- Replace a session's blocks. -/
def State.setBlocks (s : State) (sess : Nat) (l : List Block) : State :=
  match s.session sess with
  | some x => s.setSess sess { x with blocks := l }
  | none => s

/-- FIRMWARE_IMAGE, which only a block reaches. -/
def isImage (idx sub : Nat) : Bool := idx = 0x7810 && sub = 1

/-- A session that may claim the part (R421). -/
def State.mayClaim (s : State) (sess : Nat) : Bool :=
  match s.session sess with
  | some x => s.unclaimed && x.mutualAuth && decide (x.carrier < 2)
  | none => false

/-- The checks of BLOCK_OPEN that R416 makes without the data. -/
def State.openCheck (s : State) (sess idx sub off size : Nat) (rd : Bool) : Option Nat :=
  match Dict.find idx sub with
  | none => some Code.noSuchEntry
  | some d =>
    if rd then
      if !mayRead (s.classOf sess) idx sub then some (classStatus (s.classOf sess))
      else if d.acc = 4 then some Code.noAccess
      else
        let n := (s.entryValue d idx false).length
        if n < off + size ∨ (d.ty ≠ 8 ∧ d.ty ≠ 9 ∧ (off ≠ 0 ∨ size ≠ n)) then some Code.badRequest else none
    else if !(s.mayWrite sess idx sub [] || (idx = 0x7801 && sub = 1 && s.mayClaim sess)) then some (classStatus (s.classOf sess))
    else if d.acc < 2 then some Code.readOnly
    else if isImage idx sub then (if off = 0 ∧ size ≤ 8388608 then none else some Code.badRequest)
    else if !rangeFits d off size then some Code.badRequest
    else if d.acc = 3 ∧ !(s.takeState = 1 && s.stager sess) then some Code.busy
    else none

/-- BLOCK_OPEN: status, response body. -/
def State.blockOpen (s : State) (sess : Nat) (m : List Byte) : (Nat × List Byte) × State :=
  let idx := beAt m 12 2
  let sub := beAt m 14 1
  let rd := beAt m 15 1 = 1
  let off := beAt m 16 4
  let size := beAt m 20 4
  match s.openCheck sess idx sub off size rd with
  | some st => ((st, []), s)
  | none =>
    match s.session sess with
    | none => ((Code.authRequired, []), s)
    | some x =>
      if 2 ≤ x.blocks.length then ((Code.busy, []), s)
      else if 16777216 < s.blockBytes + size then ((Code.quotaExceeded, []), s)
      else
        let id := s.boot.nextBlock
        let d := Dict.find idx sub
        let s := if rd then (match d with | some d => s.flitsMove d idx | none => s) else s
        let data := if rd then (match d with | some d => slice (s.entryValue d idx false) off size | none => []) else []
        let s := s.setBlocks sess (x.blocks ++ [⟨id, rd, idx, sub, off, size, data, []⟩])
        let s := s.updBoot (fun b => { b with nextBlock := (id + 1) % 65536 })
        let s := if rd then (match d with | some d => s.readClears d idx | none => s) else s
        ((Code.ok, toBE 2 id ++ toBE 2 3968), s)

/-- BLOCK_DATA: one chunk, in any order. -/
def State.blockData (s : State) (sess : Nat) (m : List Byte) : (Nat × List Byte) × State :=
  let pos := beAt m 16 4
  let len := beAt m 20 2
  match s.session sess with
  | none => ((Code.badRequest, []), s)
  | some x =>
    match x.block (beAt m 12 2) with
    | none => ((Code.badRequest, []), s)
    | some b =>
      if len = 0 ∨ 3968 < len ∨ b.size < pos + len ∨ m.length ≠ (if b.rd then 24 else 24 + len) then ((Code.badRequest, []), s)
      else if b.rd then ((Code.ok, slice b.data pos len), s)
      else
        let data := splice (padTo (max b.data.length (pos + len)) b.data) pos (slice m 24 len)
        let b' := { b with data := data, got := b.got ++ [(pos, len)] }
        ((Code.ok, []), s.setBlocks sess (x.blocks.map (fun y => if y.id = b.id then b' else y)))

/-- The ranges cover the first `n` bytes. -/
def covers : Nat → List (Nat × Nat) → Nat → Nat → Bool
  | 0, _, n, at_ => n ≤ at_
  | k + 1, l, n, at_ =>
    if n ≤ at_ then true
    else
      match l.find? (fun r => r.1 ≤ at_ && at_ < r.1 + r.2) with
      | some r => covers k l n (r.1 + r.2)
      | none => false

/-- Every byte of a block has been written. -/
def Block.full (b : Block) : Bool := b.rd || covers b.got.length b.got b.size 0

/-- BLOCK_END: commit or cancel; `fw` are the verdicts on a firmware image's two signatures. -/
def State.blockEnd (s : State) (sess : Nat) (m : List Byte) (t : Nat) (fw : Bool × Bool) : Nat × State :=
  match s.session sess with
  | none => (Code.badRequest, s)
  | some x =>
    match x.block (beAt m 12 2) with
    | none => (Code.badRequest, s)
    | some b =>
      let s := s.setBlocks sess (x.blocks.filter (fun y => y.id ≠ b.id))
      if beAt m 14 1 = 1 then (Code.ok, s)
      else
        let data := padTo b.size b.data
        let st := if b.rd then none
          else if isImage b.idx b.sub then
            (if s.mayWrite sess b.idx b.sub [] then none else some (classStatus (s.classOf sess)))
          else s.writeCheck sess b.idx b.sub b.off data
        match st with
        | some e => (e, s)
        | none =>
          if !b.full then (Code.badRequest, s)
          else if slice m 16 48 ≠ sha384 data then (Code.blockDigest, s.count (K.fligiferCounts 6) 1)
          else
            let r := if b.rd then (Code.ok, s)
              else if isImage b.idx b.sub then s.pushImage data fw.1 fw.2
              else s.dictWrite sess b.idx b.sub b.off data t
            (r.1, if r.1 = Code.ok then r.2.count (K.fligiferCounts 5) 1 else r.2)

/-! ### Dailies subscriptions (R432, R433) -/

/-- Oldest frame in the ring. -/
def State.ringOldest (s : State) : Option Nat := s.dailies.ring.head?.map (fun e => e.1)

/-- Replace the subscriptions. -/
def State.setSubs (s : State) (l : Tab Sub) : State := { s with dailies := { s.dailies with subs := l } }

/-- SUBSCRIBE: status, response body. -/
def State.subscribe (s : State) (sess : Nat) (m : List Byte) : (Nat × List Byte) × State :=
  let id := beAt m 12 1
  let start := beAt m 24 8
  let other : Bool := match Tab.find s.dailies.subs id with
    | some x => decide (x.sess ≠ sess)
    | none => false
  if s.classOf sess ≠ 2 then ((classStatus (s.classOf sess), []), s)
  else if 3 < id then ((Code.badRequest, []), s)
  else if other then ((Code.busy, []), s)
  else
    let first := if start = 0 then s.frame + 1 else match s.ringOldest with
      | some f => max f start
      | none => max s.frame start
    ((Code.ok, toBE 8 first), s.setSubs (Tab.set s.dailies.subs id ⟨sess, beAt m 16 8, first, 0, 0, [], false, []⟩))

/-- UNSUBSCRIBE. -/
def State.unsubscribe (s : State) (sess : Nat) (m : List Byte) : Nat × State :=
  let id := beAt m 12 1
  match Tab.find s.dailies.subs id with
  | some x => if x.sess = sess then (Code.ok, s.setSubs (Tab.erase s.dailies.subs id)) else (Code.badRequest, s)
  | none => (Code.badRequest, s)

/-- STREAM_SEQ `b` comes after `a`; it is 32 bits wide and wraps. -/
def seqAfter (a b : Nat) : Bool :=
  let d := (b + 2 ^ 32 - a) % 2 ^ 32
  decide (0 < d) && decide (d < 2 ^ 31)

/-- DAILIES_ACK: the messages up to the cumulative STREAM_SEQ are freed. -/
def State.dailiesAck (s : State) (sess : Nat) (m : List Byte) : State :=
  let id := beAt m 12 1
  match Tab.find s.dailies.subs id with
  | some x =>
    if x.sess = sess then
      s.setSubs (Tab.set s.dailies.subs id { x with
        sent := x.sent.filter (fun e => seqAfter (fmSeq m) e.1) })
    else s
  | none => s

/-- The records that a subscription has still to send, with their frames (R432). -/
def State.recordsDue (s : State) (x : Sub) : List (Nat × List Byte) :=
  (((s.dailies.ring.filter (fun e => x.next ≤ e.1)).map (fun e =>
    let l := e.2.filter (fun r => let p := beAt r 8 1; p = 0xFF || bit x.parts p)
    ((if e.1 = x.next then l.drop x.pos else l).map (fun r => (e.1, r))))).flatten)

/-- The next DAILIES_DATA of subscription `id`, with at most `n` records (R433): none when 32 messages are unacknowledged or
nothing is due. -/
def State.dailiesNext (s : State) (id n : Nat) : Option (Nat × List Byte) × State :=
  match Tab.find s.dailies.subs id with
  | none => (none, s)
  | some x =>
    if 32 ≤ x.sent.length then (none, s)
    else
      let old := (s.ringOldest).getD x.next
      let skip : Bool := x.next < old
      let s := if skip then s.count (K.fligiferCounts 9) (old - x.next) else s
      let x := if skip then { x with next := old, pos := 0, gap := true } else x
      let due := s.recordsDue x
      let k := min n (if x.rolls.isEmpty then 41 else 4)
      let l := due.take k
      let rest := due.drop k
      if l.isEmpty ∧ x.rolls.isEmpty then (none, s.setSubs (Tab.set s.dailies.subs id x))
      else
        let first := (l.head?.map (fun e => e.1)).getD x.next
        let m := fmMsg 0x12 x.seq 0 (toBE 1 id ++ toBE 1 (b2n x.gap) ++ toBE 2 l.length ++ toBE 8 first
          ++ (l.map (fun e => e.2)).flatten ++ x.rolls.headD [])
        let last := (l.getLast?.map (fun e => e.1)).getD x.next
        let go := match rest with
          | e :: _ => (e.1, (if e.1 = x.next then x.pos else 0) + (l.filter (fun (y : Nat × List Byte) => y.1 = e.1)).length)
          | [] => if l.isEmpty then (x.next, x.pos) else (last + 1, 0)
        let x := { x with next := go.1, pos := go.2, seq := (x.seq + 1) % 2 ^ 32, sent := x.sent ++ [(x.seq, m)], gap := false,
                          rolls := x.rolls.drop 1 }
        (some (x.sess, m), s.setSubs (Tab.set s.dailies.subs id x))

/-! ### Executing a request (R424 to R427, R431) -/

/-- In the boot ROM state, what R431 lists is served; every other request is answered with BUSY (R427). -/
def State.romServes (s : State) (sess : Nat) (m : List Byte) : Bool :=
  let ty := fmType m
  let idx := beAt m 12 2
  let sub := beAt m 14 1
  if ty = 0x01 then
    (idx = 0x7801 && sub = 1) || (0x1000 ≤ idx && idx < 0x2000) || (idx = 0x6400 && 1 ≤ sub && sub ≤ 9) || (idx = 0x7810 && sub = 2)
  else if ty = 0x02 then idx = 0x7801 && sub = 1
  else if ty = 0x04 then isImage idx sub
  else if ty = 0x05 ∨ ty = 0x06 then
    match s.session sess with
    | some x => (match x.block (beAt m 12 2) with | some b => isImage b.idx b.sub | none => false)
    | none => false
  else false

/-- READ: status, response body. -/
def State.fligRead (s : State) (sess : Nat) (m : List Byte) : (Nat × List Byte) × State :=
  let r := s.dictRead sess (beAt m 12 2) (beAt m 14 1) (beAt m 16 4) (beAt m 20 4) (fmFlags m = 1)
  let x := r.1
  if x.1 ≠ Code.ok then ((x.1, []), r.2)
  else ((Code.ok, slice m 12 3 ++ toBE 1 x.2.1 ++ toBE 4 x.2.2.1 ++ slice m 16 4 ++ x.2.2.2), r.2)

/-- Execute a request: its status and response body. -/
def State.fligExec (s : State) (sess : Nat) (m : List Byte) (t : Nat) (fw : Bool × Bool) : (Nat × List Byte) × State :=
  let ty := fmType m
  let done := fun (r : Nat × State) => (((r.1, []) : Nat × List Byte), r.2)
  if s.firmState = 0 && !s.romServes sess m then ((Code.busy, []), s)
  else if !fmKnown ty then ((Code.unsupported, []), s)
  else if !fmFits m then ((Code.badRequest, []), s)
  else if fmReserved m then ((Code.reservedNonzero, []), s)
  else if ty = 0x01 then s.fligRead sess m
  else if ty = 0x02 then done (s.dictWrite sess (beAt m 12 2) (beAt m 14 1) (beAt m 16 4) (m.drop 24) t)
  else if ty = 0x04 then s.blockOpen sess m
  else if ty = 0x05 then s.blockData sess m
  else if ty = 0x06 then done (s.blockEnd sess m t fw)
  else if ty = 0x10 then s.subscribe sess m
  else done (s.unsubscribe sess m)

/-- Execute a request and form its response, which is kept among the last 32 (R426). A session that the request itself has
ended is owed nothing. -/
def State.fligRun (s : State) (sess : Nat) (m : List Byte) (t : Nat) (fw : Bool × Bool) : List (List Byte) × State :=
  let r := s.fligExec sess m t fw
  let resp := fmMsg ((fmType m % 128) + 128) (fmSeq m) r.1.1 r.1.2
  let s := if fmRefused m then r.2 else r.2.count (K.fligiferCounts 0) 1
  match s.session sess with
  | none => ([], s)
  | some x => ([resp], s.setSess sess { x with
      expect := some ((fmSeq m + 1) % 2 ^ 32), cached := keepLast 32 (x.cached ++ [(fmSeq m, resp)]) })

/-- Execute the held requests that now follow in order, at most `n` of them. -/
def State.fligHeld : Nat → State → Nat → Nat → Bool × Bool → List (List Byte) × State
  | 0, s, _, _, _ => ([], s)
  | n + 1, s, sess, t, fw =>
    match s.session sess with
    | none => ([], s)
    | some x =>
      match x.held.find? (fun h => some h.1 = x.expect) with
      | none => ([], s)
      | some h =>
        let s := s.setSess sess { x with held := x.held.filter (fun y => y.1 ≠ h.1) }
        let r := s.fligRun sess h.2 t fw
        let q := State.fligHeld n r.2 sess t fw
        (r.1 ++ q.1, q.2)

/-- A Fligifer message arrives in a Fligifer session (R426): the responses to send, that of the message itself first if it has one. -/
def State.fligRecv (s : State) (sess : Nat) (m : List Byte) (t : Nat) (fw : Bool × Bool) : List (List Byte) × State :=
  let s := s.sessTouch sess
  match s.session sess with
  | none => ([], s)
  | some x =>
    if 32 ≤ sess then ([], s)
    else if m.length < 12 then ([], s.count (K.fligiferCounts 2) 1)
    else if fmType m = 0x13 then ([], if fmFits m then s.dailiesAck sess m else s)
    else
      let seq := fmSeq m
      let e := x.expect.getD seq
      let d := (seq + 2 ^ 32 - e) % 2 ^ 32
      if d = 0 then
        let r := s.fligRun sess m t fw
        let q := State.fligHeld 15 r.2 sess t fw
        (r.1 ++ q.1, q.2)
      else if d ≤ 15 then
        ([], if x.held.any (fun h => h.1 = seq) then s else s.setSess sess { x with held := x.held ++ [(seq, m)] })
      else
        match x.cached.find? (fun c => c.1 = seq) with
        | some c => ([c.2], s.count (K.fligiferCounts 1) 1)
        | none => ([], s.count (K.fligiferCounts 2) 1)

/-! ### Sending (R417, R418, R422) -/

/-- A response goes out in a session that still exists; a secured session numbers its messages. -/
def State.fligSend (s : State) (sess : Nat) (m : List Byte) : State :=
  match s.session sess with
  | none => s
  | some x => ({ s with fligOut := s.fligOut ++ [(sess, m)] } : State).setSess sess { x with txSeq := x.txSeq + b2n (decide (sess < 16)) }

/-- A secured message of a session with application data `app` (R418). -/
def Sess.record (x : Sess) (app : List Byte) : List Byte :=
  let c := Config.secured (toBE 8 x.keyGen ++ x.ems) x.txSeq app
  toLE 4 x.spdmId ++ toLE 8 x.txSeq ++ toLE 2 c.length ++ c

/-- A binding header (R417). -/
def bindHdr (kind : Nat) : List Byte := toBE 2 0x464C ++ toBE 1 1 ++ toBE 1 kind ++ toBE 4 0

/-- The payload that carries a message of a session: the binding header, and the message itself or a secured message
(R417, R418). -/
def Sess.payload (x : Sess) (sess : Nat) (m : List Byte) : List Byte :=
  if sess < 16 then bindHdr 1 ++ x.record (toBE 1 0x46 ++ m) else bindHdr 2 ++ m

/-- A message of the part that answers no arriving payload: in band it travels as a MGMT request of the part (04 R104). -/
def State.fligPush (s : State) (sess : Nat) (m : List Byte) : State :=
  match s.session sess with
  | none => s
  | some x =>
    let s := s.fligSend sess m
    if x.carrier = 2 then s.originate x.port (x.source % 65536) 0x71 0 (mgmtBody (x.payload sess m)) (.mgmt sess) else s

/-- A message arrives in an open session, its carriage aside; the responses go out in it. -/
def State.fligDeliver (s : State) (sess : Nat) (m : List Byte) (t : Nat) (fw : Bool × Bool) : State :=
  let r := (s.at t).fligRecv sess m t fw
  r.1.foldl (fun (s : State) x => s.fligSend sess x) r.2

/-- A WRITE of an entry in session `sess`; the part's own firmware writes without a message while it runs. -/
def State.regWrite (s : State) (sess seq idx sub off : Nat) (b : List Byte) (t : Nat) : State :=
  if ownSession sess then (if s.firmwareRuns then ((s.at t).dictWrite sess idx sub off b t).2 else s)
  else s.fligDeliver sess (fmWrite seq idx sub off b) t (true, true)

/-! ### Commands -/

/-- FLIGIFER_READ: a READ of `n` bytes at `off`. -/
def execFligiferRead (sess seq idx sub off n : Nat) (shadow : Bool) (t : Nat) (s : State) : Out :=
  .next (s.fligDeliver sess (toBE 1 1 ++ toBE 1 (b2n shadow) ++ toBE 2 24 ++ toBE 4 seq ++ toBE 4 0 ++ toBE 2 idx ++ toBE 1 sub ++ toBE 1 0
    ++ toBE 4 off ++ toBE 4 n) t (true, true))

/-- FLIGIFER_WRITE: a WRITE of `data` at `off`. -/
def execFligiferWrite (sess seq idx sub off : Nat) (data : List Byte) (t : Nat) (s : State) : Out :=
  .next (s.regWrite sess seq idx sub off data t)

/-- BLOCK_OPEN. -/
def execBlockOpen (sess seq idx sub off size : Nat) (rd : Bool) (t : Nat) (s : State) : Out :=
  .next (s.fligDeliver sess (fmMsg 0x04 seq 0 (toBE 2 idx ++ toBE 1 sub ++ toBE 1 (b2n rd) ++ toBE 4 off ++ toBE 4 size)) t (true, true))

/-- BLOCK_DATA: `len` bytes at `pos`, with the data in the write direction. -/
def execBlockData (sess seq id pos len : Nat) (data : List Byte) (t : Nat) (s : State) : Out :=
  .next (s.fligDeliver sess (fmMsg 0x05 seq 0 (toBE 2 id ++ toBE 2 0 ++ toBE 4 pos ++ toBE 2 len ++ toBE 2 0 ++ data)) t (true, true))

/-- BLOCK_COMMIT: BLOCK_END with ACTION 0; the verdicts on a firmware image's signatures come with it. -/
def execBlockCommit (sess seq id digest : Nat) (ecdsaOk mldsaOk : Bool) (t : Nat) (s : State) : Out :=
  .next (s.fligDeliver sess (fmMsg 0x06 seq 0 (toBE 2 id ++ toBE 2 0 ++ toBE 48 digest)) t (ecdsaOk, mldsaOk))

/-- BLOCK_CANCEL: BLOCK_END with ACTION 1. -/
def execBlockCancel (sess seq id t : Nat) (s : State) : Out :=
  .next (s.fligDeliver sess (fmMsg 0x06 seq 0 (toBE 2 id ++ toBE 1 1 ++ toBE 1 0 ++ toBE 48 0)) t (true, true))

/-- SUBSCRIBE. -/
def execSubscribe (sess seq id parts start t : Nat) (s : State) : Out :=
  .next (s.fligDeliver sess (fmMsg 0x10 seq 0 (toBE 1 id ++ toBE 3 0 ++ toBE 8 parts ++ toBE 8 start)) t (true, true))

/-- UNSUBSCRIBE. -/
def execUnsubscribe (sess seq id t : Nat) (s : State) : Out :=
  .next (s.fligDeliver sess (fmMsg 0x11 seq 0 (toBE 1 id)) t (true, true))

/-- DAILIES_DATA_SEND: the next message of subscription `id`, with at most `n` records. -/
def execDailiesDataSend (id n : Nat) (s : State) : Out :=
  .next (match s.dailiesNext id n with
    | (some x, s) => s.fligPush x.1 x.2
    | (none, s) => s)

/-- DAILIES_ACK: in session `sess`, up to STREAM_SEQ `seq` of subscription `id`. -/
def execDailiesAck (sess seq id t : Nat) (s : State) : Out :=
  .next (s.fligDeliver sess (fmMsg 0x13 seq 0 (toBE 1 id)) t (true, true))

/-- DAILIES_RESEND: the oldest unacknowledged message of subscription `id` goes out again. -/
def execDailiesResend (id : Nat) (s : State) : Out :=
  .next (match Tab.find s.dailies.subs id with
    | some x => (match x.sent with
      | m :: _ => (s.fligPush x.sess m.2).count (K.fligiferCounts 8) 1
      | [] => s)
    | none => s)

/-! ### Writes that have commands of their own -/

/-- SLATE_SOURCE_WRITE (02 R35). -/
def execSlateSourceWrite (sess seq v t : Nat) (s : State) : Out := .next (s.regWrite sess seq 0x2001 1 0 (toBE 1 v) t)
/-- FRAME_NUMBER_LOAD (02 R36). -/
def execFrameNumberLoad (sess seq v t : Nat) (s : State) : Out := .next (s.regWrite sess seq 0x2001 6 0 (toBE 8 v) t)
/-- TAKE_STAGE_OPEN (02 R39). -/
def execTakeStageOpen (sess seq v t : Nat) (s : State) : Out := .next (s.regWrite sess seq 0x2010 1 0 (toBE 4 v) t)
/-- TAKE_STAGE_CLOSE (02 R496). -/
def execTakeStageClose (sess seq v t : Nat) (s : State) : Out := .next (s.regWrite sess seq 0x2010 2 0 (toBE 1 v) t)
/-- TAKE_COMMIT (02 R40). -/
def execTakeCommit (sess seq v t : Nat) (s : State) : Out := .next (s.regWrite sess seq 0x2010 5 0 (toBE 1 v) t)
/-- TAKE_ABORT (02 R41). -/
def execTakeAbort (sess seq v t : Nat) (s : State) : Out := .next (s.regWrite sess seq 0x2010 6 0 (toBE 1 v) t)
/-- TAKE_ARM_POINT (02 R41): `acked` says that every in-service tile has acknowledged the shadow. -/
def execTakeArmPoint (acked : Bool) (s : State) : Out := .next ((s.at (s.frameNs - 20000)).armPoint acked)

/-- A write of SPLICE_CMD of KIND `kind` to port `p` (03 R85, R91). -/
def State.spliceRow (s : State) (sess seq p kind width speed mask t : Nat) : State :=
  s.regWrite sess seq (0x2400 + p) 0x12 0 (toBE 4 (mask % 256 * 256 + kind * 64 + speed % 4 * 4 + width % 4)) t
/-- SPLICE_CMD_WIDTH. -/
def execSpliceCmdWidth (sess seq p width speed mask t : Nat) (s : State) : Out := .next (s.spliceRow sess seq p 0 width speed mask t)
/-- SPLICE_CMD_RECALIBRATE. -/
def execSpliceCmdRecalibrate (sess seq p width speed mask t : Nat) (s : State) : Out := .next (s.spliceRow sess seq p 1 width speed mask t)
/-- SPLICE_CMD_SPEED. -/
def execSpliceCmdSpeed (sess seq p width speed mask t : Nat) (s : State) : Out := .next (s.spliceRow sess seq p 2 width speed mask t)
/-- SPLICE_CMD_DEGRADE. -/
def execSpliceCmdDegrade (sess seq p width speed mask t : Nat) (s : State) : Out := .next (s.spliceRow sess seq p 3 width speed mask t)

/-- DIR_PROBE (07 R182). -/
def execDirProbe (sess seq part va t : Nat) (s : State) : Out :=
  .next (s.regWrite sess seq 0x3801 1 0 (toBE 8 (part * 2 ^ 58 + va)) t)

/-- A write of TRAIN_CTRL with GO and MODE `mode`; `rest` holds its other fields (08 R200, R203). -/
def State.trainRow (s : State) (sess seq tile mode rest t : Nat) : State :=
  s.regWrite sess seq (0x4000 + tile) 0x0C 0 (toBE 4 (setFld (rest % 2 ^ 32) 31 29 (4 + mode))) t
/-- TRAIN_READ_EYE. -/
def execTrainReadEye (sess seq tile rest t : Nat) (s : State) : Out := .next (s.trainRow sess seq tile 0 rest t)
/-- TRAIN_WRITE_EYE. -/
def execTrainWriteEye (sess seq tile rest t : Nat) (s : State) : Out := .next (s.trainRow sess seq tile 1 rest t)
/-- TRAIN_COMMAND_ADDRESS. -/
def execTrainCommandAddress (sess seq tile rest t : Nat) (s : State) : Out := .next (s.trainRow sess seq tile 2 rest t)
/-- TRAIN_VERIFY. -/
def execTrainVerify (sess seq tile rest t : Nat) (s : State) : Out := .next (s.trainRow sess seq tile 3 rest t)
/-- RETRAIN_REQ (08 R201). -/
def execRetrainReq (sess seq tile pc t : Nat) (s : State) : Out := .next (s.regWrite sess seq (0x4000 + tile) 0x0B 0 (toBE 1 pc) t)
/-- SCRUB_ENABLE_WRITE (09 R214). -/
def execScrubEnableWrite (sess seq v t : Nat) (s : State) : Out := .next (s.regWrite sess seq 0x4401 2 0 (toBE 1 v) t)
/-- DIE_RETIRE_WRITE (09 R207). -/
def execDieRetireWrite (sess seq tile v t : Nat) (s : State) : Out := .next (s.regWrite sess seq (0x4410 + tile) 2 0 (toBE 1 v) t)

/-- A write of TEST_CTRL with GO and OP `op` (09 R216, R220). -/
def State.testRow (s : State) (sess seq op rest t : Nat) : State :=
  s.regWrite sess seq 0x4480 1 0 (toBE 4 (setFld (setFld (rest % 2 ^ 32) 31 31 1) 29 28 op)) t
/-- TEST_WRITE_RAW. -/
def execTestWriteRaw (sess seq rest t : Nat) (s : State) : Out := .next (s.testRow sess seq 0 rest t)
/-- TEST_WRITE_ENCODED. -/
def execTestWriteEncoded (sess seq rest t : Nat) (s : State) : Out := .next (s.testRow sess seq 1 rest t)
/-- TEST_READ. -/
def execTestRead (sess seq rest t : Nat) (s : State) : Out := .next (s.testRow sess seq 2 rest t)

/-- A write of RELOC_CTRL with OP `op` (10 R224, R244). -/
def State.relocRow (s : State) (sess seq op rest t : Nat) : State :=
  s.regWrite sess seq 0x4601 1 0 (toBE 4 (setFld (rest % 2 ^ 32) 31 30 op)) t
/-- RELOC_RELOCATE. -/
def execRelocRelocate (sess seq rest t : Nat) (s : State) : Out := .next (s.relocRow sess seq 0 rest t)
/-- RELOC_SELFTEST. -/
def execRelocSelftest (sess seq rest t : Nat) (s : State) : Out := .next (s.relocRow sess seq 1 rest t)
/-- RELOC_RETURN. -/
def execRelocReturn (sess seq rest t : Nat) (s : State) : Out := .next (s.relocRow sess seq 2 rest t)
/-- SLAB_PROBE (11 R267). -/
def execSlabProbe (sess seq v t : Nat) (s : State) : Out := .next (s.regWrite sess seq 0x4801 1 0 (toBE 4 v) t)
/-- LOCK_REQUEST of partition `p` (17 R375). -/
def execLockRequest (sess seq p inc digest t : Nat) (s : State) : Out :=
  .next (s.regWrite sess seq (0x3000 + p) 0x0A 0 (toBE 2 inc ++ toBE 2 0 ++ toBE 48 digest) t)
/-- UNLOCK_REQUEST of partition `p` (17 R380). -/
def execUnlockRequest (sess seq p : Nat) (token : List Byte) (t : Nat) (s : State) : Out :=
  .next (s.regWrite sess seq (0x3000 + p) 0x0B 0 token t)
/-- SEAL_REQUEST of partition `p` (18 R406). -/
def execSealRequest (sess seq p : Nat) (data : List Byte) (t : Nat) (s : State) : Out :=
  .next (s.regWrite sess seq (0x6440 + p) 1 0 data t)

/-- A write of DEBUG_POLICY (18 R411). -/
def State.debugRow (s : State) (sess seq v t : Nat) : State := s.regWrite sess seq 0x7C00 1 0 (toBE 4 v) t
/-- DEBUG_BSCAN: a write that sets BSCAN and keeps the other bits as `rest` has them. -/
def execDebugBscan (sess seq rest t : Nat) (s : State) : Out := .next (s.debugRow sess seq (setFld rest 0 0 1) t)
/-- DEBUG_CORE_DEBUG: one that sets CORE_DEBUG. -/
def execDebugCoreDebug (sess seq rest t : Nat) (s : State) : Out := .next (s.debugRow sess seq (setFld rest 1 1 1) t)
/-- DEBUG_INTERNAL_SCAN: one that sets INTERNAL_SCAN. -/
def execDebugInternalScan (sess seq rest t : Nat) (s : State) : Out := .next (s.debugRow sess seq (setFld rest 2 2 1) t)
/-- FIRMWARE_ACTIVATE (R431). -/
def execFirmwareActivate (sess seq v t : Nat) (s : State) : Out := .next (s.regWrite sess seq 0x7810 3 0 (toBE 1 v) t)
/-- MANAGER_ANCHORS_WRITE: the anchors from element `off / 48` on (R421). -/
def execManagerAnchorsWrite (sess seq off : Nat) (data : List Byte) (t : Nat) (s : State) : Out :=
  .next (s.regWrite sess seq 0x7801 1 off data t)
/-- COOLANT_REPORT written in a Fligifer session (21 R458); over SMBus it is SMBUS_TRANSACTION. -/
def execCoolantReport (sess seq v t : Nat) (s : State) : Out := .next (s.regWrite sess seq 0x7400 6 0 (toBE 4 v) t)
/-- WARM_RESET_REQ (22 R465). -/
def execWarmResetReq (sess seq v t : Nat) (s : State) : Out := .next (s.regWrite sess seq 0x1800 7 0 (toBE 1 v) t)
/-- PARTITION_RESET (22 R474). -/
def execPartitionReset (sess seq p t : Nat) (s : State) : Out := .next (s.regWrite sess seq 0x1801 1 0 (toBE 1 p) t)
/-- RESET_CAUSE_WRITE (22 R468). -/
def execResetCauseWrite (sess seq v t : Nat) (s : State) : Out := .next (s.regWrite sess seq 0x1800 1 0 (toBE 4 v) t)

end Sys2Proof.Machine
end

