-- ==== Sys2Proof/Machine/Mesh.lean ====
section
/-!
DEFINITION. The tile mesh (ch. 05): ring coordinates, classes and virtual channels, routes, multicasts, sealed phases,
multi-packet messages completed by count, and injection throttling. A command moves every packet as far as the buffers let it;
what other traffic holds in the buffers comes with the command (log entry 41).
-/

namespace Sys2Proof

/-! ### Parts of packets (R121 to R132) -/

/-- A direction runs along the row ring. -/
def MeshDir.isX : MeshDir → Bool
  | .xPlus => true
  | .xMinus => true
  | _ => false

/-- A direction is PLUS. -/
def MeshDir.isPlus : MeshDir → Bool
  | .xPlus => true
  | .yPlus => true
  | _ => false

/-- The class travels on the response plane. -/
def MeshClass.onRsp : MeshClass → Bool
  | .rsp => true
  | _ => false

/-- Flits that a virtual channel's buffer holds (R123). -/
def MeshVC.depth : MeshVC → Nat
  | .open_ _ _ => 8
  | .phased _ _ => 3

/-- Flits of a packet. -/
def MeshPkt.flits (p : MeshPkt) : Nat := Machine.meshFlits p.data.length

/-- MSG_ID (R132). -/
def MeshPkt.id (p : MeshPkt) : Nat := p.src * 4096 + p.num

/-- The destination of a unicast packet. -/
def MeshPkt.dst (p : MeshPkt) : Nat := ((List.range 36).find? (fun t => Machine.bit p.mask t)).getD 0

/-- The same virtual channel with dateline 0. -/
def MeshVC.entering : MeshVC → MeshVC
  | .open_ o _ => .open_ o false
  | .phased k _ => .phased k false

end Sys2Proof

namespace Sys2Proof.Machine

/-! ### Topology (R121) -/

/-- X coordinate of a tile's column (R121). -/
def ringX (t : Nat) : Nat := [0, 5, 3, 1, 4, 2].getD (t % 6) 0
/-- Y coordinate of a tile's row (R121). -/
def ringY (t : Nat) : Nat := [0, 1, 5, 2, 4, 3].getD (t / 6) 0
/-- The tile at coordinates `x`, `y` (R121). -/
def ringTile (x y : Nat) : Nat := [0, 1, 3, 5, 4, 2].getD y 0 * 6 + [0, 3, 5, 2, 4, 1].getD x 0
/-- Distance of two coordinates on a ring (R121). -/
def ringDist (a b : Nat) : Nat := let d := max a b - min a b; min d (6 - d)
/-- Hops between two tiles (R121). -/
def meshHops (a b : Nat) : Nat := ringDist (ringX a) (ringX b) + ringDist (ringY a) (ringY b)

/-- The direction of a dimension (`x`: the row ring) and sign. -/
def dirOf (x plus : Bool) : MeshDir := if x then (if plus then .xPlus else .xMinus) else (if plus then .yPlus else .yMinus)

/-- Coordinate of tile `t` along dimension `x`. -/
def ringCoord (x : Bool) (t : Nat) : Nat := if x then ringX t else ringY t

/-- The neighbour of tile `t` in direction `d` (R121). -/
def neighbour (d : MeshDir) (t : Nat) : Nat :=
  let go := fun (c : Nat) => if d.isPlus then (c + 1) % 6 else (c + 5) % 6
  if d.isX then ringTile (go (ringX t)) (ringY t) else ringTile (ringX t) (go (ringY t))

/-- The hop from tile `t` in direction `d` crosses the ring's dateline, between positions 5 and 0 (R126). -/
def crossesDateline (d : MeshDir) (t : Nat) : Bool := ringCoord d.isX t = if d.isPlus then 5 else 0

/-- The `n` tiles after `t` in direction `d`. -/
def ringRun (d : MeshDir) : Nat → Nat → List Nat
  | 0, _ => []
  | n + 1, t => neighbour d t :: ringRun d n (neighbour d t)

/-! ### Classes and virtual channels (R123, R124) -/

/-- The classes that the consumers of a class may generate, with anything that is generated from nothing (R124). -/
def mayGenerate : Option MeshClass → List MeshClass
  | none => [.bulk, .req, .fwd, .mirror, .rsp, .mcast]
  | some .bulk => [.req, .rsp]
  | some .req => [.fwd, .mirror, .rsp]
  | some .fwd => [.rsp]
  | some .mirror => [.rsp]
  | some .rsp => []
  | some .mcast => []

/-- The virtual channels of a class: XY and YX by dateline for unicast, dateline alone for multicast, and two to each of the
phases 1 to 9 (R123, R126). -/
def classVcs (c : MeshClass) : List MeshVC :=
  let bools := [false, true]
  let opens := if c = .mcast then bools.map (fun d => MeshVC.open_ false d)
    else (bools.map (fun o => bools.map (fun d => MeshVC.open_ o d))).flatten
  opens ++ ((List.range 9).map (fun k => bools.map (fun d => MeshVC.phased (k + 1) d))).flatten

/-- The buffer in which a packet stands in a router. -/
def Flight.buf (f : Flight) : MeshBuf := ⟨f.inp, f.pkt.cls, f.vc⟩

/-- Flits that stand in buffer `b` of tile `t`: those of other traffic and those of packets held there. -/
def State.bufFlits (s : State) (t : Nat) (b : MeshBuf) : Nat :=
  (((s.router t).bufs.filter (fun e => e.1 = b)).map (fun e => e.2)).sum
    + ((s.flights.filter (fun f => f.at_ = t && decide (f.buf = b))).map (fun f => min f.pkt.flits b.vc.depth)).sum

/-- Free credits of buffer `b` of tile `t` (R123). -/
def State.bufFree (s : State) (t : Nat) (b : MeshBuf) : Nat := b.vc.depth - s.bufFlits t b

/-- Free credits of the output of tile `t` in direction `d`: those of the neighbour's input buffer. -/
def State.freeCredits (s : State) (t : Nat) (d : MeshDir) (c : MeshClass) (vc : MeshVC) : Nat :=
  s.bufFree (neighbour d t) ⟨d, c, vc⟩

/-- Tile `t` delivers a packet to its block: RSP always, into the space reserved for it (R124); otherwise as the ejection buffer
has room. -/
def State.ejects (s : State) (t : Nat) (c : MeshClass) (vc : MeshVC) : Bool :=
  decide (c = .rsp) || decide (0 < s.bufFree t ⟨.eject, c, vc⟩)

/-! ### Routes (R125) -/

/-- Packets of partition `p` choose by free credits: never sealed ones, nor any while ADAPTIVE_ENABLE is 0. -/
def State.adaptive (s : State) (p : Nat) : Bool := !s.isSealed p && s.eff K.adaptiveEnable ≠ 0

/-- The direction in which a packet at tile `t` enters dimension `x` towards tile `d`. -/
def State.ringDir (s : State) (k : MeshPkt) (yx x : Bool) (t d : Nat) : MeshDir :=
  let ahead := (ringCoord x d + 6 - ringCoord x t) % 6
  let free := fun (plus : Bool) => s.freeCredits t (dirOf x plus) k.cls (.open_ yx false)
  dirOf x (if ahead = 3 then !s.adaptive k.part || decide (free false ≤ free true) else decide (ahead < 3))

/-- The packet takes YX order from tile `t`. -/
def State.orderYX (s : State) (k : MeshPkt) (t : Nat) : Bool :=
  let d := k.dst
  let hop := fun (x : Bool) => s.freeCredits t (s.ringDir k (!x) x t d) k.cls (.open_ (!x) false)
  if ringX t = ringX d then true
  else if ringY t = ringY d then false
  else s.adaptive k.part && decide (hop true < hop false)

/-! ### Phases (R127) -/

/-- A flit of the partition that owns phase `k` is ready at tile `t` on the plane. -/
def State.phaseReady (s : State) (t k : Nat) (rsp : Bool) : Bool :=
  let mine := fun (b : MeshBuf) => b.cls.onRsp = rsp && decide (b.inp ≠ .eject) && (match b.vc with
    | .phased j _ => decide (j = k)
    | _ => false)
  (s.router t).bufs.any (fun e => mine e.1 && decide (0 < e.2)) || s.flights.any (fun f => f.at_ = t && mine f.buf)

/-- A flit of partition `p` may leave tile `t` in mesh cycle `c`: a sealed one in a phase its partition owns; an open one in an
open phase, or in one whose owner has no flit ready. -/
def State.flitMay (s : State) (t p : Nat) (rsp : Bool) (c : Nat) : Bool :=
  match s.phaseOwner (c % 10) with
  | none => !s.isSealed p
  | some q => if s.isSealed p then decide (q = p) else !s.phaseReady t (c % 10) rsp

/-- The cycles in which `n` flits of partition `p` leave tile `t`, from cycle `c`; `earliest i` bounds flit `i`. -/
def State.flitCycles (s : State) (t p : Nat) (rsp : Bool) (earliest : Nat → Nat) : Nat → Nat → Nat → List Nat
  | 0, _, _ => []
  | n + 1, i, c =>
    match ((List.range 10).map (fun j => max c (earliest i) + j)).find? (s.flitMay t p rsp) with
    | none => []
    | some d => d :: s.flitCycles t p rsp earliest n (i + 1) (d + 1)

/-! ### Completion by count (R132, R133) -/

/-- The open messages of source tile `src` at a block of tile `t`: those with a record, and those whose packets are on the way. -/
def State.openAt (s : State) (t src : Nat) (b : MeshBlock) : List Nat :=
  ((((s.router t).records.filter (fun r => decide (r.block = b) && r.id / 4096 = src)).map (fun r => r.id))
    ++ ((s.flights.filter (fun f => f.pkt.src = src && decide (f.pkt.block = b) && bit f.pkt.mask t)).map (fun f => f.pkt.id))).eraseDups

/-- A packet comes to its block at tile `t` in mesh cycle `c`: its content is placed by OFFSET, and the message is complete, and
its record closes, when the counts reach TOTAL; LAST completes nothing (R132). Data flits with a double-bit error mark what they
carry uncorrectable: a mesh data error is logged for each line of pool memory, and the partition notes a fault (R122, 09 R212,
R213). -/
def State.meshArrive (s : State) (t : Nat) (k : MeshPkt) (c : Nat) : State :=
  let m := s.router t
  let here := fun (r : MeshRec) => decide (r.block = k.block) && decide (r.id = k.id)
  let old := (m.records.find? here).getD ⟨k.block, k.id, k.part, k.total, 0, [], []⟩
  let r := { old with
    got := old.got + k.count
    content := Tab.set old.content k.offset k.data
    bad := old.bad ++ k.bad.map (fun j => (k.offset, j * 128)) }
  let others := m.records.filter (fun x => !here x)
  let msg : MeshMsg := ⟨r.id, r.part, (r.content.map (fun (e : Nat × List Byte) => e.2)).flatten, r.bad, c⟩
  let s := s.setRouter t (if r.got = r.total then
      { m with records := others, handed := m.handed.filter (fun e => decide (e.1 ≠ k.block)) ++ [(k.block, msg)] }
    else { m with records := others ++ [r] })
  let s := if k.bad.isEmpty then s else (s.count (K.meshCounts t 6) k.bad.length).noteFault k.part
  match k.line with
  | some ln => k.bad.foldl (fun (s : State) j => s.errEvent 7 (ln + j) []) s
  | none => s

/-! ### Movement (R123 to R130) -/

/-- The virtual channel of the buffer that a packet enters with a hop from tile `t`: dateline VC 0 on entering a dimension, VC 1
from the crossing on (R126). -/
def Flight.nextVc (f : Flight) : MeshVC :=
  let cross := crossesDateline f.out f.at_
  match f.vc with
  | .open_ o d => .open_ o (d || cross)
  | .phased k d => .phased k (d || cross)

/-- An earlier packet stands in the same buffer for the same output, or at the same source: it goes first. -/
def State.behind (s : State) (f : Flight) : Bool :=
  s.flights.any (fun g => g.at_ = f.at_ && decide (g.buf = f.buf) && decide (g.out = f.out))

/-- A packet takes one hop to the next tile of its ring: 10 mesh cycles; its flits are counted as forwarded by the router that
it leaves, and so are those that use a sealed partition's idle phases (R122, R134). -/
def State.hop (s : State) (f : Flight) (next : Nat) (rest : List Nat) : State × Flight :=
  let s := s.count (K.meshCounts f.at_ (if f.pkt.cls.onRsp then 1 else 0)) f.pkt.flits
  let s := if f.idle = 0 then s else s.count (K.meshCounts f.at_ 2) f.idle
  (s, { f with at_ := next, inp := f.out, vc := f.nextVc, left := rest, cycle := f.cycle + 10 })

/-- The tiles of a column that a multicast reaches other than `t` itself. -/
def columnDests (mask t : Nat) : List Nat := (List.range 36).filter (fun u => bit mask u && u % 6 = t % 6 && u ≠ t)

/-- A multicast has something to do in the column of tile `t`. -/
def columnWanted (mask t : Nat) : Bool := (List.range 36).any (fun u => bit mask u && u % 6 = t % 6)

/-- The tiles of a branch up to the farthest one that `want` names. -/
def trimTo (want : Nat → Bool) (l : List Nat) : List Nat := (l.reverse.dropWhile (fun u => !want u)).reverse

/-- The branches of a multicast that enter a ring at tile `t`: PLUS for up to 3 hops and MINUS for up to 2 (R129). -/
def mcastBranches (k : MeshPkt) (t : Nat) (vc : MeshVC) (x : Bool) (cycle idle : Nat) : List Flight :=
  let want := fun (u : Nat) => if x then columnWanted k.mask u else (columnDests k.mask t).contains u
  ([(true, 3), (false, 2)].map (fun (e : Bool × Nat) =>
    let d := dirOf x e.1
    ({ pkt := k, at_ := t, inp := .inject, vc := vc.entering, out := d, left := trimTo want (ringRun d e.2 t), first := x,
       cycle := cycle, idle := idle } : Flight))).filter (fun f => !f.left.isEmpty)

/-- One movement of a multicast branch: at a tile it has come to, it is delivered if the mask names the tile, and re-injected
into the column if the column has other destinations, in 20 cycles; it goes on in the same movement, so it needs room for both
(R129, R130). -/
def State.mcastMove (s : State) (f : Flight) : Option (State × List Flight) :=
  let came := decide (f.inp ≠ .inject)
  let hit := came && bit f.pkt.mask f.at_
  let cols := if came && f.first then mcastBranches f.pkt f.at_ f.vc false (f.cycle + 20) f.idle else []
  let local_ := (!hit && cols.isEmpty) || s.ejects f.at_ f.pkt.cls f.vc
  let arrive := if hit then s.meshArrive f.at_ f.pkt f.cycle else s
  match f.left with
  | [] => if local_ then some (arrive, cols) else none
  | n :: rest =>
    if local_ && decide (0 < s.freeCredits f.at_ f.out f.pkt.cls f.nextVc) then
      let r := arrive.hop f n rest
      some (r.1, r.2 :: cols)
    else none

/-- One movement of a unicast packet: a hop, the turn into its second dimension, or its delivery (R125, R126). -/
def State.unicastMove (s : State) (f : Flight) : Option (State × List Flight) :=
  match f.left with
  | n :: rest =>
    if 0 < s.freeCredits f.at_ f.out f.pkt.cls f.nextVc then
      let r := s.hop f n rest
      some (r.1, [r.2])
    else none
  | [] =>
    let d := f.pkt.dst
    if f.at_ ≠ d then
      let yx := match f.vc with
        | .open_ o _ => o
        | _ => false
      let x := f.first && yx || !f.first && !yx
      let o := s.ringDir f.pkt yx x f.at_ d
      let n := ringDist (ringCoord x f.at_) (ringCoord x d)
      some (s, [{ f with vc := f.vc.entering, out := o, left := ringRun o n f.at_, first := false }])
    else if s.ejects d f.pkt.cls f.vc then some (s.meshArrive d f.pkt f.cycle, [])
    else none

/-- One movement of a packet, unless an earlier one must go first. -/
def State.flyOne (s : State) (f : Flight) : Option (State × List Flight) :=
  if s.behind f then none
  else if f.pkt.cls = .mcast then s.mcastMove f else s.unicastMove f

/-- Packets move, the oldest first, each as far as it can; one that cannot go on stands where it is. -/
def State.fly : Nat → List Flight → State → State
  | 0, l, s => { s with flights := s.flights ++ l }
  | _, [], s => s
  | n + 1, f :: l, s =>
    match s.flyOne f with
    | none => State.fly n l { s with flights := s.flights ++ [f] }
    | some (s, fs) => State.fly n (fs ++ l) s

/-- Movements that suffice for `n` packets: no packet or multicast takes 100. -/
def flyFuel (n : Nat) : Nat := 100 * n

/-- The packets that stand in routers move. -/
def State.meshMoves (s : State) : State :=
  State.fly (flyFuel s.flights.length) s.flights { s with flights := [] }

/-- A source may start the packet: its class may be generated from the one that caused it (R124), and each block it is for has
fewer than 64 open messages of the source, or this one among them (R133). -/
def State.mayStart (s : State) (k : MeshPkt) : Bool :=
  (mayGenerate k.cause).contains k.cls &&
    (List.range 36).all (fun t => !bit k.mask t || (s.openAt t k.src k.block).contains k.id || (s.openAt t k.src k.block).length < 64)

/-- The cycles in which the flits of a packet leave its source from now on: at the reduced rate for open packets of a throttled
tile other than RSP (R127, R131). -/
def State.injects (s : State) (k : MeshPkt) : List Nat :=
  let slow : Bool := (s.router k.src).throttled && !s.isSealed k.part && !k.cls.onRsp
  let earliest := fun (i : Nat) => if slow then s.slowAt k.src ((s.router k.src).slow + i) else 0
  s.flitCycles k.src k.part k.cls.onRsp earliest k.flits 0 s.meshNow

/-- A packet leaves its source (R125 to R130), which takes its flits into account (R131). -/
def State.depart (s : State) (k : MeshPkt) : State :=
  let cs := s.injects k
  match cs.head? with
  | none => { s with meshWait := s.meshWait ++ [k] }
  | some c =>
    if !s.mayStart k || cs.length < k.flits then { s with meshWait := s.meshWait ++ [k] }
    else
      let sealed_ := s.isSealed k.part
      let idle := if sealed_ then 0 else (cs.filter (fun d => (s.phaseOwner (d % 10)).isSome)).length
      let s := k.fixed.foldl (fun (s : State) t => s.count (K.meshCounts t 5) 1) s
      let s := if sealed_ || k.cls.onRsp then s else s.slowUse k.src k.flits
      let vc := fun (yx : Bool) => if sealed_ then MeshVC.phased (c % 10) false else .open_ yx false
      if k.cls = .mcast then
        let s := if bit k.mask k.src then s.meshArrive k.src k c else s
        let l := mcastBranches k k.src (vc false) true c idle ++ mcastBranches k k.src (vc false) false (c + 20) idle
        State.fly (flyFuel 1) l s
      else
        let yx := s.orderYX k k.src
        let o := s.ringDir k yx (!yx) k.src k.dst
        let n := ringDist (ringCoord (!yx) k.src) (ringCoord (!yx) k.dst)
        let f : Flight := { pkt := k, at_ := k.src, inp := .inject, vc := vc yx, out := o, left := ringRun o n k.src, first := true,
                            cycle := c, idle := idle }
        State.fly (flyFuel 1) [f] s

/-- Packets that wait at their sources start as they may, in order. -/
def State.meshStarts (s : State) : State :=
  s.meshWait.foldl (fun (s : State) k => s.depart k) { s with meshWait := [] }

/-- The work of partition `p` that a take unbinds: its message records and packets are discarded with it (R133). -/
def State.meshUnbind (s : State) (p : Nat) : State :=
  { s with
    mesh := s.mesh.map (fun (e : Nat × MeshTile) => (e.1, { e.2 with records := e.2.records.filter (fun r => r.part ≠ p) }))
    flights := s.flights.filter (fun f => f.pkt.part ≠ p)
    meshWait := s.meshWait.filter (fun k => k.part ≠ p) }

/-! ### Injection throttling (R131) -/

/-- Flits of packets that wait at tile `t` to be injected on a plane: open or sealed. -/
def State.waitFlits (s : State) (t : Nat) (rsp sealed_ : Bool) : Nat :=
  ((s.meshWait.filter (fun k => k.src = t && k.cls.onRsp = rsp && s.isSealed k.part = sealed_)).map (fun k => k.flits)).sum

/-- The injection queues of tile `t`, of 256 flits on each plane, hold these flits of other traffic; with the packets that wait
there, the larger of the two planes' occupancies is what INJECT_PEAK follows (R131, R134; DESIGN CHOICE, log entry 134). -/
def State.injection (s : State) (t req rsp sreq srsp : Nat) : State :=
  let s := s.setRouter t { s.router t with injReq := req, injRsp := rsp, injSealed := (sreq, srsp) }
  let all := fun (plane : Bool) (a b : Nat) => min 256 (a + b + s.waitFlits t plane false + s.waitFlits t plane true)
  s.wr (K.injectPeak t) (max (s.rd (K.injectPeak t)) (max (all false req sreq) (all true rsp srsp)))

/-- Open flits of the fuller injection queue of tile `t` (R131). -/
def State.openFlits (s : State) (t : Nat) : Nat :=
  let m := s.router t
  max (m.injReq + s.waitFlits t false false) (m.injRsp + s.waitFlits t true false)

/-- THROTTLE_ENTER (R131). -/
def execThrottleEnter (tile req rsp sreq srsp t : Nat) (s : State) : Out :=
  let s := (s.at t).injection tile req rsp sreq srsp
  .next (if s.eff K.throttleHigh ≤ s.openFlits tile ∧ !(s.router tile).throttled then
      (s.setRouter tile { s.router tile with throttled := true, throttledFrame := true, since := s.meshNow, slow := 0 }).count
        (K.meshCounts tile 3) 1
    else s)

/-- THROTTLE_LEAVE (R131). -/
def execThrottleLeave (tile req rsp sreq srsp t : Nat) (s : State) : Out :=
  let s := (s.at t).injection tile req rsp sreq srsp
  .next (if s.openFlits tile ≤ s.eff K.throttleLow then
      (List.range 4).foldl (fun (s : State) v => s.creditBack tile v) (s.setRouter tile { s.router tile with throttled := false })
    else s)

/-- A slate at a tile's router: a frame with throttle active is counted (R134); mesh cycles are numbered anew (R127). -/
def State.meshSlate (s : State) (t : Nat) : State :=
  let m := s.router t
  let s := s.setRouter t { m with throttledFrame := m.throttled, since := 0, slow := 0 }
  if m.throttledFrame then s.count (K.meshCounts t 4) 1 else s

/-! ### Packets of a message -/

/-- MESH_MESSAGE_COMPLETE: packet `k` of a multi-packet message is injected at time `t`, while other traffic holds the flits
`bufs` of the routers' buffers; every packet moves as far as it can, and the packets that come complete their messages by count
(R24, R121 to R133). -/
def execMeshMessageComplete (k : MeshPkt) (bufs : List (Nat × MeshBuf × Nat)) (t : Nat) (s : State) : Out :=
  let s := s.at t
  let s := (List.range 36).foldl (fun (s : State) u =>
    let l := (bufs.filter (fun e => e.1 = u)).map (fun e => e.2)
    if decide (l = (s.router u).bufs) then s else s.setRouter u { s.router u with bufs := l }) s
  let s := s.meshMoves.meshStarts.depart k
  let m := s.router k.src
  .next (s.injection k.src m.injReq m.injRsp m.injSealed.1 m.injSealed.2)

end Sys2Proof.Machine
end

