-- ==== Sys2Proof/Machine/Respond.lean ====
section
/-!
DEFINITION. Responses to the part's own requests (04 R108, R110, R116): matching, their effects, timeouts.
-/

namespace Sys2Proof.Machine

/-- OPCODE `op` is a legal response to a request of OPCODE `rq` (R96). -/
def legalResp (rq op : Nat) : Bool :=
  if rq = 0x38 ∨ rq = 0x39 then op = 0xB9 else op = rq + 0x80

/-- A response arrives: matched by SRC_EID, TAG and EPOCH, with a legal OPCODE, it goes to `f`; else it is discarded and
counted (R95, R108). In BOOTSTRAP only SPDM passes, and a port that is not admitted discards every response that does not answer
SPDM or MGMT (03 R71, R117). -/
def State.onResp (s : State) (port op : Nat) (h : Hdr) (t : Nat) (f : State → PartReq → State) : State :=
  let s := s.at t
  if !s.portOpen port then s
  else if h.dst ≠ s.rd (K.portEid port) ∧ ¬ ((op = 0xF0 ∨ op = 0xF1) ∧ s.rd (K.portEid port) = 0xFFFF) then
    s.count (K.transportCounts port 2) 1
  else if !s.passes port (op % 128) then s
  else
    match s.matchResp port h with
    | none => s.protoError port
    | some x => if legalResp x.msg.op op then f s x else s.protoError port

/-- The STATUS as it counts: one outside the outcomes `ok` is NO_ACCESS and a protocol error (R108). -/
def State.outcome (s : State) (port st : Nat) (ok : List Nat) : Nat × State :=
  if ok.contains st then (st, s) else (Code.noAccess, s.protoError port)

/-! ### Coherence (07 R171, R172, R174) -/

/-- A holder's FWD_ACK, applied in the order of the forwards. A reserved OUTCOME or KEPT is discarded and counted (00 R10). -/
def State.fwdAck (s : State) (port : Nat) (h : Hdr) (outcome kept : Nat) (line : Option (List Byte)) (t : Nat) : State :=
  s.onResp port 0xB9 h t (fun s x =>
    match x.purpose with
    | .fwd ln k b =>
      if h.status ≠ Code.ok ∨ 1 < outcome ∨ 4 < kept then s.protoError port
      else
        let s := (s.settle x).endSilence b
        let q := s.pend ln
        let fwds := q.fwds.map (fun f => if f.k = k ∧ f.holder = b then { f with ack := some (outcome, kept, line) } else f)
        ((s.setPend ln { q with fwds := fwds }).settleLine ln).linesGo
    | .oldFwd b p id =>
      if h.status ≠ Code.ok ∨ 1 < outcome ∨ 4 < kept then s.protoError port
      else
        let s := (s.settle x).endSilence b
        if outcome = 0 then s.updPort p (fun q => { q with pending := q.pending.filter (fun y => y.id ≠ id) }) else s.rejudge p id
    | _ => s.protoError port)

/-- FWD_ACK. -/
def execFwdAck (port : Nat) (h : Hdr) (outcome kept : Nat) (line : Option (List Byte)) (t : Nat) (s : State) : Out :=
  .next (s.fwdAck port h outcome kept line t)

/-- A BACK_INVAL_ACK is counted where it is owed, and a Modified line that it carries is written to memory. -/
def State.backInvalAck (s : State) (port : Nat) (h : Hdr) (line : Option (List Byte)) (t : Nat) : State :=
  s.onResp port 0xBA h t (fun s x =>
    match x.purpose with
    | .backInval ln b =>
      if h.status ≠ Code.ok then s.protoError port
      else
        let s := (s.settle x).endSilence b
        let s := match line with
          | some d => s.cohWrite ln d (s.handleOf (bPart (s.binding b)))
          | none => s
        match Tab.find s.evicts ln with
        | some e => { s with evicts := Tab.set s.evicts ln { e with owed := e.owed.filter (· ≠ b) } }
        | none =>
          let q := s.pend ln
          if q.collect = .none then s
          else ((s.setPend ln { q with owed := q.owed.filter (· ≠ b) }).settleLine ln).linesGo
    | .oldInval b => if h.status ≠ Code.ok then s.protoError port else (s.settle x).endSilence b
    | _ => s.protoError port)

/-- BACK_INVAL_ACK. -/
def execBackInvalAck (port : Nat) (h : Hdr) (line : Option (List Byte)) (t : Nat) (s : State) : Out :=
  .next (s.backInvalAck port h line t)

/-! ### The mover (11 R254, R255, R260) -/

/-- A TRANSLATE_RESP with the bytes of its body. A reserved PAGE_SIZE is discarded and counted (00 R10, R103). -/
def State.translateResp (s : State) (port : Nat) (h : Hdr) (body : List Byte) (t : Nat) : State :=
  s.onResp port 0xD0 h t (fun s x =>
    match x.purpose with
    | .translate id =>
      if 1 < leAt body 2 1 then s.protoError port else
      let o := s.outcome port h.status [Code.ok, Code.notPresent]
      o.2.translateDone x id o.1 body
    | _ => s.protoError port)

/-- TRANSLATE_RESP. -/
def execTranslateResp (port : Nat) (h : Hdr) (body : List Byte) (t : Nat) (s : State) : Out :=
  .next (s.translateResp port h body t)

/-- A PAGE_RESP: its chapter gives every other status one outcome. -/
def State.pageResp (s : State) (port : Nat) (h : Hdr) (t : Nat) : State :=
  s.onResp port 0xD2 h t (fun s x =>
    match x.purpose with
    | .page k => (s.settle x).pageDone (k / 256) (k % 256) (if h.status = Code.ok then Code.ok else Code.pageFault)
    | _ => s.protoError port)

/-- PAGE_RESP. -/
def execPageResp (port : Nat) (h : Hdr) (t : Nat) (s : State) : Out := .next (s.pageResp port h t)

/-- A MOVE_WRITE_RESP or MOVE_READ_RESP. -/
def State.moveResp (s : State) (port op : Nat) (h : Hdr) (data : List Byte) (t : Nat) : State :=
  s.onResp port op h t (fun s x =>
    let o := s.outcome port h.status [Code.ok]
    match x.purpose with
    | .moveWrite id pos _ => o.2.burstDone x id pos o.1 []
    | .moveRead id pos n => (o.2.chargeOut x.port (handlePart x.msg.handle) (msgCells data.length)).burstDone x id pos o.1 (slice data 0 n)
    | _ => s.protoError port)

/-- MOVE_WRITE_RESP. -/
def execMoveWriteResp (port : Nat) (h : Hdr) (t : Nat) (s : State) : Out := .next (s.moveResp port 0xD3 h [] t)
/-- MOVE_READ_RESP. -/
def execMoveReadResp (port : Nat) (h : Hdr) (data : List Byte) (t : Nat) (s : State) : Out :=
  .next (s.moveResp port 0xD4 h data t)

/-! ### Pairs, doorbells, notifications, management (R104, 10 R238, 13 R312) -/

/-- A PAIR_WRITE_RESP. -/
def State.pairResp (s : State) (port : Nat) (h : Hdr) (t : Nat) : State :=
  s.onResp port 0xD8 h t (fun s x => s.pairAnswered x h.status)

/-- PAIR_WRITE_RESP. -/
def execPairWriteResp (port : Nat) (h : Hdr) (t : Nat) (s : State) : Out := .next (s.pairResp port h t)

/-- The outcomes of a DOORBELL_RESP: what a ring, a mailbox or a domain that is off answers (11 R250, R104, 20 R440); of a NOTIFY_ACK
or MGMT_RESP, OK alone. -/
def plainOutcomes (op : Nat) : List Nat :=
  if op = 0xE0 then [Code.ok, Code.noSuchObject, Code.badRequest, Code.offline, Code.busy, Code.reservedNonzero] else [Code.ok]

/-- A response that only settles its request: DOORBELL_RESP, NOTIFY_ACK, MGMT_RESP. A STATUS outside its outcomes is counted as a
protocol error and changes nothing else (R108). -/
def State.plainResp (s : State) (port op : Nat) (h : Hdr) (t : Nat) : State :=
  s.onResp port op h t (fun s x => ((s.outcome port h.status (plainOutcomes op)).2).settle x)

/-- DOORBELL_RESP: the doorbell is matched; only one that is given up is recorded (13 R312). -/
def execDoorbellResp (port : Nat) (h : Hdr) (t : Nat) (s : State) : Out := .next (s.plainResp port 0xE0 h t)
/-- NOTIFY_ACK. -/
def execNotifyAck (port : Nat) (h : Hdr) (t : Nat) (s : State) : Out := .next (s.plainResp port 0xC0 h t)
/-- MGMT_RESP: it carries a binding header alone (R104). -/
def execMgmtResp (port : Nat) (h : Hdr) (t : Nat) (s : State) : Out := .next (s.plainResp port 0xF1 h t)

/-- UNMATCHED_RESPONSE: a response of OPCODE `op` that matches nothing, or is not a legal answer, is discarded and counted
(R108). -/
def execUnmatchedResponse (port op : Nat) (h : Hdr) (t : Nat) (s : State) : Out :=
  .next (if op < 128 then s else s.onResp port op h t (fun s _ => s))

/-! ### Requests given up (R116) -/

/-- A request of the part that is given up, by what it was for. -/
def State.givenUp (s : State) (x : PartReq) : State :=
  let s := s.count (K.transportCounts x.port 8) 1
  match x.purpose with
  | .fwd _ _ b => s.startSilence b
  | .backInval _ b => s.startSilence b
  | .oldFwd b _ _ => s.startSilence b
  | .oldInval b => s.startSilence b
  | .notify => s.moverGivenUp x
  | .translate _ => s.moverGivenUp x
  | .page _ => s.moverGivenUp x
  | .moveWrite _ _ _ => s.moverGivenUp x
  | .moveRead _ _ _ => s.moverGivenUp x
  | .pairWrite n _ _ => s.pairGivenUp x n
  | .pairResync n _ _ => s.pairGivenUp x n
  | .doorbell p slot c _ =>
    if c = 16 then s.moverGivenUp x
    else
      -- PC and DETAIL of such a record are not stated, nor the launch where it has ended: free values
      let d := s.draw (2 ^ 32)
      let e := d.2.draw (2 ^ 32)
      let f := e.2.draw (2 ^ 64)
      let l := match s.launch (s.ctx slot c).launch with
        | some l => (l.seq, lbTag l.block)
        | none => (f.1 % 65536, f.1)
      (f.2.settle x).reelEvent p Code.remoteTimeout 3 slot c l.1 l.2 d.1 e.1
  | .mgmt _ => s.settle x
  | .spdm => s.settle x

/-- PART_REQ_TIMEOUT: the part's request of tag `tag` and epoch `epoch` to endpoint `dst` is resent with RETRY set, at most
PART_REQ_RETRIES times, and then given up (R116). -/
def execPartReqTimeout (port dst tag epoch t : Nat) (s : State) : Out :=
  let s := s.at t
  .next (
    match (s.port port).outReq.find? (fun x => x.msg.dst = dst && x.msg.tag = tag && x.msg.epoch = epoch) with
    | none => s
    | some x =>
      let n := s.eff (K.partReqRetries port)
      let again : Bool := decide (x.resends < n)
      let s := if x.gone then s else s.updPort port (fun q => { q with outReq := q.outReq.map (fun y =>
        if y.msg.dst = dst ∧ y.msg.tag = tag ∧ y.msg.epoch = epoch then 
            { y with resends := if again then y.resends + 1 else y.resends, gone := !again }
          else y) })
      if x.gone then s
      else if again then s.sendOwn port { x.msg with flags := 128 }
      else s.givenUp x)

/-! ### Requests with no home (R93, R96) -/

/-- A message in a request position is refused, in a response position discarded and counted. -/
def State.unsupported (s : State) (port op : Nat) (h : Hdr) (t : Nat) : State :=
  let s := s.at t
  if !s.portOpen port then s
  else if op < 128 then
    match s.checkArrival port op h [] with
    | .misrouted => s.count (K.transportCounts port 2) 1
    | .refused st => s.refuse port op h st
    | _ => s
  else if h.dst ≠ s.rd (K.portEid port) then s.count (K.transportCounts port 2) 1
  else s.protoError port

/-- RX_RESERVED_OPCODE: a message whose OPCODE is not listed (R93). -/
def execRxReservedOpcode (port op : Nat) (h : Hdr) (t : Nat) (s : State) : Out :=
  .next (if listedOps.contains op then s else s.unsupported port op h t)

/-- UNRECEIVABLE_REQUEST: a request that the part only sends (R96). -/
def execUnreceivableRequest (port op : Nat) (h : Hdr) (t : Nat) (s : State) : Out :=
  .next (if listedOps.contains op && !receivedOps.contains op && decide (op < 128) then s.unsupported port op h t else s)

end Sys2Proof.Machine
end

