-- ==== Sys2Proof/Machine/Spdm.lean ====
section
/-!
DEFINITION. SPDM (18 R396 to R403): the part as responder on management ports and in band, its SPDM sessions, and the port as
requester of a link session. Message layouts are those of DSP0274 1.3 (PRESUMED, log entry 50).
-/

namespace Sys2Proof.Machine

/-! ### Connections -/

/-- Ways in of an SPDM message: a fabric port by its number, MGMT0 as 64, MGMT1 as 65. -/
def viaMgmt (via : Nat) : Bool := 64 ≤ via

/-- Connection of a requester: the link's own when the peer in BOOTSTRAP is the SPDM requester (04 R104), else one of the pool. -/
def State.spdmKey (s : State) (via source : Nat) : Nat :=
  if viaMgmt via then 64 + (source * 4 + (via - 64) % 2)
  else if s.linkState via = 2 ∧ s.rd (K.peerLinkId via) < s.rd (K.linkId via) then via
  else 64 + ((via * 65536 + source) * 4 + 2)

/-- A connection. -/
def State.spdmOf (s : State) (k : Nat) : Spdm := Tab.getD s.boot.spdm k {}
/-- Replace it. -/
def State.setSpdm (s : State) (k : Nat) (x : Spdm) : State := s.updBoot (fun b => { b with spdm := Tab.set b.spdm k x })

/-- A free index among the 16 sessions of the pool: neither open nor being opened by another connection (R400). -/
def State.spdmFree (s : State) (k : Nat) : Option Nat :=
  (List.range 16).find? (fun i => (s.session i).isNone && !s.boot.spdm.any (fun e => decide (e.1 ≠ k) && decide (e.2.opening = some i)))

/-! ### What the responder says (R398, R399) -/

/-- An SPDM message of the part, version 1.3. -/
def spdmMsg (code p1 p2 : Nat) (body : List Byte) : List Byte := toLE 1 0x13 ++ toLE 1 code ++ toLE 1 p1 ++ toLE 1 p2 ++ body

/-- ERROR. -/
def spdmError (code : Nat) : List Byte := spdmMsg 0x7F code 0 []

/-- CERT, CHAL, ENCRYPT, MAC, MUT_AUTH, KEY_EX, HBEAT, KEY_UPD, CHUNK. -/
def spdmCaps : Nat := 2 + 4 + 64 + 128 + 256 + 512 + 0x2000 + 0x4000 + 0x20000

/-- The algorithm structures of R398: DHE, AEAD, ReqBaseAsymAlg, KeySchedule. -/
def spdmAlgs : List Byte :=
  toLE 1 2 ++ toLE 1 0x20 ++ toLE 2 0x10 ++ toLE 1 3 ++ toLE 1 0x20 ++ toLE 2 2 ++ toLE 1 4 ++ toLE 1 0x20 ++ toLE 2 0x80
    ++ toLE 1 5 ++ toLE 1 0x20 ++ toLE 2 1

/-- ALGORITHMS: the fixed set. -/
def spdmAlgorithms : List Byte :=
  spdmMsg 0x63 4 0 (toLE 2 52 ++ toLE 1 1 ++ toLE 1 2 ++ toLE 4 4 ++ toLE 4 0x80 ++ toLE 4 2 ++ toLE 16 0 ++ spdmAlgs)

/-- The chain of a slot, unless it is withheld or there is no such slot (R397). -/
def State.chainOf (s : State) (slot : Nat) : Option (List Byte) :=
  if 2 ≤ slot ∨ s.withheld slot then none else some (s.identity (2 + slot))

/-- DIGESTS: of the slots that are not withheld. -/
def State.spdmDigests (s : State) : List Byte :=
  let l := (List.range 2).filter (fun i => (s.chainOf i).isSome)
  spdmMsg 0x01 3 ((l.map (fun i => 2 ^ i)).sum) ((l.map (fun i => sha384 ((s.chainOf i).getD []))).flatten)

/-- CERTIFICATE: a portion of a chain, or ERROR InvalidRequest. -/
def State.spdmCertificate (s : State) (slot off len : Nat) : List Byte :=
  match s.chainOf slot with
  | none => spdmError 0x01
  | some c =>
    if c.length ≤ off then spdmError 0x01
    else
      let d := (c.drop off).take len
      spdmMsg 0x02 slot 0 (toLE 2 d.length ++ toLE 2 (c.length - off - d.length) ++ d)

/-- A Tuiphor opaque element (R399). -/
def State.element (s : State) (kind : Nat) (d : List Byte) : List Byte :=
  toLE 1 3 ++ toLE 1 4 ++ slice (s.identity 4) 0 4 ++ toLE 2 (d.length + 1) ++ toLE 1 kind ++ d

/-- Opaque data in the general format, with its length. -/
def opaqueData (l : List (List Byte)) : List Byte :=
  let b := toLE 1 l.length ++ toLE 3 0 ++ l.flatten
  toLE 2 b.length ++ b

/-- A response that both keys sign (R399): `f` forms it from MLDSA_SIG's bytes, `tr` precedes it. -/
def State.spdmSign (s : State) (tr : List Byte) (f : List Byte → List Byte) : List Byte × State :=
  let d := s.draw (2 ^ 256)
  let m := slice (Config.mldsaSign s.mldsaKey (sha384 (tr ++ f (List.replicate 3309 0#8))) d.1) 0 3309
  (f m ++ slice (Config.ecdsaSign s.ecdsaKey (sha384 (tr ++ f m))) 0 96, d.2)

/-- The measurement summary: SHA-384 over all the blocks. -/
def State.spdmSummary (s : State) (want : Bool) : List Byte := if want then sha384 s.measurementBlocks else []

/-- CHALLENGE_AUTH. -/
def State.spdmChallenge (s : State) (slot : Nat) (summary : Bool) (tr : List Byte) : List Byte × State :=
  match s.chainOf slot with
  | none => (spdmError 0x01, s)
  | some c =>
    let d := s.draw (2 ^ 256)
    let r := d.2.spdmSign tr (fun sig => spdmMsg 0x03 slot 3 (sha384 c ++ toLE 32 d.1 ++ s.spdmSummary summary
      ++ opaqueData [s.element 3 sig]))
    (r.1, r.2.count (K.attestCounts 1) 1)

/-- The blocks that an index names (R402): all of them for 0xFF. -/
def State.spdmBlocks (s : State) (index : Nat) : Option (List (List Byte)) :=
  if index = 0xFF then some (((List.range 7).map (fun i => measureForm (i + 1) (s.measureBlock (i + 1))))
    ++ ((List.range 64).map (fun p => measureForm (0x10 + p) (s.report p))))
  else (s.measureOf index).map (fun b => [b])

/-- MEASUREMENTS: every block from the last slate, signed when asked (R402, R403). -/
def State.spdmMeasurements (s : State) (index : Nat) (sign : Bool) (slot : Nat) (tr : List Byte) : List Byte × State :=
  let l := if index = 0 then some [] else s.spdmBlocks index
  match l with
  | none => (spdmError 0x01, s)
  | some l =>
    let d := s.draw (2 ^ 256)
    let rec3 := l.flatten
    let f := fun (el : List (List Byte)) => spdmMsg 0x60 (if index = 0 then 71 else 0) slot
      (toLE 1 l.length ++ toLE 3 rec3.length ++ rec3 ++ toLE 32 d.1 ++ opaqueData el)
    if !sign then (f [], d.2)
    else if (s.chainOf slot).isNone then (spdmError 0x01, s)
    else
      let r := d.2.spdmSign tr (fun sig => f [s.element 3 sig])
      (r.1, r.2.count (K.attestCounts 1) 1)

/-- KEY_EXCHANGE_RSP: the hybrid exchange, or a refusal (R399, R400). -/
def State.spdmExchange (s : State) (k reqId : Nat) (summary : Bool) (pub ek tr : List Byte) : List Byte × State :=
  let x := s.spdmOf k
  if ek.isEmpty then (spdmError 0x01, s)
  else
    match if k < 64 then some (512 + k) else s.spdmFree k with
    | none => (spdmError 0x0A, s.count (K.attestCounts 5) 1)
    | some i =>
      let d := s.draw 0
      let e := d.2.draw (2 ^ 256)
      let g := e.2.draw 65536
      let ems := Config.exportSecret pub ek d.1
      let id := reqId % 65536 + g.1 * 65536
      let s := g.2.setSpdm k { x with opening := some i, ems := ems, id := id }
      let r := s.spdmSign tr (fun sig => spdmMsg 0x64 10 0 (toLE 2 g.1 ++ toLE 1 (if x.mutCap then 2 else 0) ++ toLE 1 0
        ++ toLE 32 e.1 ++ slice (Config.exchange d.1 0) 0 96 ++ s.spdmSummary summary
        ++ opaqueData [s.element 2 (slice (Config.exchange d.1 1) 0 1088), s.element 3 sig]))
      (r.1 ++ slice (Config.verifyData ems 1) 0 48, r.2.count (K.attestCounts 1) 1)

/-! ### Sessions -/

/-- A port moves from BOOTSTRAP to SECURE by a key-phase flip (03 R71, R72, 17 R386); one in a splice returns to SECURE. The transmitter flips
once an acknowledgement covers a cell of the old phase. -/
def State.linkSecure (s : State) (p : Nat) : State :=
  let k := s.link p
  let s := if k.mayFlip then s.flipPhase p else s.setLink p { k with flipWait := true }
  let s := if s.rd (K.portState p) = 4 then
      s.updLink p (fun k => { k with splice := k.splice.map (fun x => { x with back := 3 }) })
    else s.wr (K.portState p) 3
  s.portUp p

/-- The session that a connection was opening exists now (R400, 19 R420). -/
def State.spdmOpen (s : State) (k i via source : Nat) (auth : Bool) (root : Nat) : State :=
  let x := s.spdmOf k
  let e : Sess := {
    cls := 1, carrier := if viaMgmt via then via - 64 else 2, port := if viaMgmt via then 0 else via, source := source
    spdmId := x.id, mutualAuth := auth, rootDigest := root, ems := x.ems }
  let s := s.setSess i { e with cls := s.securedClass e }
  ((s.setSpdm k { x with opening := none, ems := [] }).sessTouch i).count (K.attestCounts 0) 1

/-- A secured message of session `i` that answers with SPDM message `m` (R418). -/
def State.sessReply (s : State) (i : Nat) (m : List Byte) : List Byte × State :=
  match s.session i with
  | none => ([], s)
  | some x => (x.record (toBE 1 0x05 ++ m), s.setSess i { x with txSeq := x.txSeq + 1 })

/-- FINISH (R398, R400): the session exists once it verifies; a link session's port moves to SECURE, with the peer's chain
recorded. -/
def State.spdmFinish (s : State) (k via source : Nat) (ok : Bool) (chain root : Nat) : List Byte × State :=
  let x := s.spdmOf k
  match x.opening with
  | none => (spdmError 0x04, s)
  | some i =>
    if !ok then (spdmError 0x06, s.setSpdm k { x with opening := none, ems := [] })
    else
      let auth : Bool := x.mutCap && chain ≠ 0
      let s := s.spdmOpen k i via source auth (if auth then root else 0)
      let r := s.sessReply i (spdmMsg 0x65 0 0 [])
      (r.1, if i < 512 then r.2 else (r.2.wr (K.peerCertDigests via) (if auth then chain else 0)).linkSecure via)

/-- Serve an SPDM request: the bytes of the response, secured for FINISH_RSP. Before its turn in the negotiation a request is
answered with ERROR UnexpectedRequest (PRESUMED, log entry 50). -/
def State.spdmServe (s : State) (via source : Nat) (m : SpdmReq) : List Byte × State :=
  let k := s.spdmKey via source
  let x := s.spdmOf k
  let need : Nat := match m with
    | .getVersion => 0
    | .getCapabilities _ => 1
    | .negotiate _ => 2
    | _ => 3
  if x.stage < need then (spdmError 0x04, s)
  else
    match m with
    | .getVersion =>
      (toLE 1 0x10 ++ toLE 1 0x04 ++ toLE 2 0 ++ toLE 1 0 ++ toLE 1 1 ++ toLE 2 0x1300,
        s.setSpdm k { x with stage := 1, mutCap := false, opening := none, ems := [] })
    | .getCapabilities a =>
      let d := s.draw 256
      let e := d.2.draw (2 ^ 32)
      let g := e.2.draw (2 ^ 32)
      (spdmMsg 0x61 0 0 (toLE 1 0 ++ toLE 1 d.1 ++ toLE 2 0 ++ toLE 4 (spdmCaps + 16) ++ toLE 4 e.1 ++ toLE 4 g.1),
        g.2.setSpdm k { x with stage := 2, mutCap := a })
    | .negotiate ok => if ok then (spdmAlgorithms, s.setSpdm k { x with stage := 3 }) else (spdmError 0x01, s)
    | .getDigests => (s.spdmDigests, s)
    | .getCertificate slot off len => (s.spdmCertificate slot off len, s)
    | .challenge slot summary tr => s.spdmChallenge slot summary tr
    | .getMeasurements i sign slot tr => s.spdmMeasurements i sign slot tr
    | .keyExchange id summary pub ek tr => s.spdmExchange k id summary pub ek tr
    | .finish ok chain root => s.spdmFinish k via source ok chain root

/-- A sequence number that the session may still accept: not accepted yet, and no more than 63 below the highest (R418). -/
def Sess.fresh (x : Sess) (sq : Nat) : Bool :=
  match x.hiSeq with
  | none => true
  | some h => if h < sq then true else h ≤ sq + 63 && !x.seen.contains sq

/-- Accept it. -/
def Sess.accept (x : Sess) (sq : Nat) : Sess :=
  let h := max (x.hiSeq.getD 0) sq
  { x with hiSeq := some h, seen := (sq :: x.seen).filter (fun n => h ≤ n + 63) }

/-- A secured message of session `i` is authenticated and checked for replay: the state that accepts it, or none (R418). -/
def State.secureIn (s : State) (i sq : Nat) (macOk : Bool) : Option State :=
  match s.session i with
  | none => none
  | some x => if (i < 16 ∨ 512 ≤ i) ∧ macOk ∧ x.fresh sq then some ((s.setSess i (x.accept sq)).sessTouch i) else none

/-- Serve an SPDM message within session `i`: the secured response (R398, R422). The end of a link's session ends the link
session (03 R71). -/
def State.spdmInSession (s : State) (i : Nat) (m : SessReq) : List Byte × State :=
  match m with
  | .heartbeat => s.sessReply i (spdmMsg 0x68 0 0 [])
  | .keyUpdate op =>
    if 1 ≤ op ∧ op ≤ 3 then
      let s := if op = 2 then
          (match s.session i with | some x => s.setSess i { x with keyGen := x.keyGen + 1 } | none => s)
        else s
      s.sessReply i (spdmMsg 0x69 op 0 [])
    else s.sessReply i (spdmError 0x01)
  | .endSession =>
    let r := s.sessReply i (spdmMsg 0x6C 0 0 [])
    (r.1, if i < 512 then r.2.sessEnd i else r.2)

/-! ### Carriage (R400, 04 R104, 19 R417) -/

/-- Send a datagram on a management port. -/
def State.datagram (s : State) (n source : Nat) (b : List Byte) : State :=
  s.updBoot (fun x => { x with spdmOut := x.spdmOut ++ [(n, source, b)] })

/-- The SPDM service and the management core run: the lead core has been released (22 R475). -/
def State.spdmUp (s : State) : Bool := s.boot.released

/-- The accepted SPDM or MGMT request that these header fields name and that waits for the service to start. -/
def State.earlyReq (s : State) (port op : Nat) (h : Hdr) : Option Req :=
  (s.port port).pending.find? (fun r => s.boot.early.contains (port, r.id) && r.op = op && sameTag op r.bind h r
    && decide (r.link = (s.port port).linkNo))

/-- An SPDM or MGMT request of OPCODE `op` arrives at a port: the port engine's checks, and `f` for one it accepts. What it
carries is as long as its header says. One accepted before the lead core runs stays pending, and is served by the command
that brings it again once the core runs (log entry 52). -/
def State.carried (s : State) (port op : Nat) (h : Hdr) (f : State → Req → State) : State :=
  if !s.portOpen port then s
  else
    match s.earlyReq port op h with
    | some r =>
      if s.spdmUp then f (s.updBoot (fun b => { b with early := b.early.filter (· ≠ (port, r.id)) })) r else s
    | none =>
      match s.arrive port op h (toLE 2 (h.len - 24) ++ toLE 6 0) with
      | (some r, s) => if s.spdmUp then f s r else s.updBoot (fun b => { b with early := b.early ++ [(port, r.id)] })
      | (none, s) => s

/-- Answer a carried request with a message. -/
def State.carriedAnswer (s : State) (r : Req) (m : List Byte) : State := s.answer r (respOp r.op) Code.ok (mgmtBody m)

/-- An SPDM request arrives by a management port or in an SPDM transport message. -/
def State.spdmArrive (s : State) (via source : Nat) (h : Hdr) (m : SpdmReq) (t : Nat) : State :=
  let s := s.at t
  if viaMgmt via then
    if !s.spdmUp then s else
    let r := s.spdmServe via source m
    r.2.datagram (via - 64) source (bindHdr (match m with | .finish _ _ _ => 1 | _ => 0) ++ r.1)
  else
    s.carried via 0x70 h (fun s q =>
      let r := s.spdmServe via h.src m
      r.2.carriedAnswer q r.1)

/-- An SPDM message within session `i` arrives. One that does not check is discarded and counted; in band it is still
answered, with a byte of no stated value (R418, log entry 51). -/
def State.spdmSessArrive (s : State) (via source : Nat) (h : Hdr) (i sq : Nat) (macOk : Bool) (m : SessReq) (t : Nat) : State :=
  let s := s.at t
  let last : Bool := match m with | .endSession => decide (512 ≤ i) | _ => false
  if viaMgmt via then
    if !s.spdmUp then s else
    match s.secureIn i sq macOk with
    | none => s.count (K.fligiferCounts 4) 1
    | some s => let r := s.spdmInSession i m; r.2.datagram (via - 64) source (bindHdr 1 ++ r.1)
  else
    s.carried via 0x70 h (fun s q =>
      match s.secureIn i sq macOk with
      | none =>
        let d := s.draw 256
        (d.2.count (K.fligiferCounts 4) 1).carriedAnswer q (toLE 1 d.1)
      | some s =>
        let r := s.spdmInSession i m
        let s := r.2.carriedAnswer q r.1
        if last then s.loseSession (i - 512) else s)

/-- SESSION_HEARTBEAT_TIMEOUT: a secured session ends after two heartbeat periods of 10 s with no message (R422). The end of a
link's SPDM session ends the link session (03 R71). -/
def execSessionHeartbeatTimeout (i : Nat) (s : State) : Out :=
  .next (match s.session i with
    | some x =>
      if x.lastFrame + 80000 ≤ s.frame then
        if i < 16 then s.sessEnd i else if 512 ≤ i then s.loseSession (i - 512) else s
      else s
    | none => s)

/-! ### Commands of the responder -/

/-- SPDM_GET_VERSION (R398). -/
def execSpdmGetVersion (via source : Nat) (h : Hdr) (t : Nat) (s : State) : Out := .next (s.spdmArrive via source h .getVersion t)
/-- SPDM_GET_CAPABILITIES (R398). -/
def execSpdmGetCapabilities (via source : Nat) (h : Hdr) (mutAuth : Bool) (t : Nat) (s : State) : Out :=
  .next (s.spdmArrive via source h (.getCapabilities mutAuth) t)
/-- SPDM_NEGOTIATE_ALGORITHMS (R398). -/
def execSpdmNegotiateAlgorithms (via source : Nat) (h : Hdr) (offered : Bool) (t : Nat) (s : State) : Out :=
  .next (s.spdmArrive via source h (.negotiate offered) t)
/-- SPDM_GET_DIGESTS (R397). -/
def execSpdmGetDigests (via source : Nat) (h : Hdr) (t : Nat) (s : State) : Out := .next (s.spdmArrive via source h .getDigests t)
/-- SPDM_GET_CERTIFICATE (R397). -/
def execSpdmGetCertificate (via source : Nat) (h : Hdr) (slot off len t : Nat) (s : State) : Out :=
  .next (s.spdmArrive via source h (.getCertificate slot off len) t)
/-- SPDM_CHALLENGE (R399). -/
def execSpdmChallenge (via source : Nat) (h : Hdr) (slot : Nat) (summary : Bool) (tr : List Byte) (t : Nat) (s : State) : Out :=
  .next (s.spdmArrive via source h (.challenge slot summary tr) t)
/-- SPDM_GET_MEASUREMENTS (R402). -/
def execSpdmGetMeasurements (via source : Nat) (h : Hdr) (index : Nat) (sign : Bool) (slot : Nat) (tr : List Byte) (t : Nat)
    (s : State) : Out := .next (s.spdmArrive via source h (.getMeasurements index sign slot tr) t)
/-- SPDM_KEY_EXCHANGE (R399, R400). -/
def execSpdmKeyExchange (via source : Nat) (h : Hdr) (reqId : Nat) (summary : Bool) (pub ek tr : List Byte) (t : Nat) (s : State) : Out :=
  .next (s.spdmArrive via source h (.keyExchange reqId summary pub ek tr) t)
/-- SPDM_FINISH (R398). -/
def execSpdmFinish (via source : Nat) (h : Hdr) (ok : Bool) (chain root t : Nat) (s : State) : Out :=
  .next (s.spdmArrive via source h (.finish ok chain root) t)
/-- SPDM_HEARTBEAT (R422). -/
def execSpdmHeartbeat (via source : Nat) (h : Hdr) (sess sq : Nat) (macOk : Bool) (t : Nat) (s : State) : Out :=
  .next (s.spdmSessArrive via source h sess sq macOk .heartbeat t)
/-- SPDM_KEY_UPDATE (R398). -/
def execSpdmKeyUpdate (via source : Nat) (h : Hdr) (sess sq : Nat) (macOk : Bool) (op t : Nat) (s : State) : Out :=
  .next (s.spdmSessArrive via source h sess sq macOk (.keyUpdate op) t)
/-- SPDM_END_SESSION (R422). -/
def execSpdmEndSession (via source : Nat) (h : Hdr) (sess sq : Nat) (macOk : Bool) (t : Nat) (s : State) : Out :=
  .next (s.spdmSessArrive via source h sess sq macOk .endSession t)

/-! ### The port as requester (R401) -/

/-- The port's root of trust is the SPDM requester of the link session: its LINK_ID is the lower (04 R104). -/
def State.spdmRequester (s : State) (p : Nat) : Bool := s.linkState p = 2 && s.rd (K.linkId p) < s.rd (K.peerLinkId p)

/-- Send a request of the sequence and await its response. -/
def State.spdmAsk (s : State) (p asked : Nat) (m : List Byte) : State :=
  let x := s.spdmOf p
  (s.setSpdm p { x with asked := asked }).originate p 0xFFFF 0x70 0 (mgmtBody m) .spdm

/-- Send one within the session being opened. -/
def State.spdmAskSecured (s : State) (p asked : Nat) (m : List Byte) : State :=
  let x := s.spdmOf p
  let c := Config.secured x.ems x.hsSeq (toBE 1 0x05 ++ m)
  (s.setSpdm p { x with hsSeq := x.hsSeq + 1 }).spdmAsk p asked (toLE 4 x.id ++ toLE 8 x.hsSeq ++ toLE 2 c.length ++ c)

/-- Drop what the port's attempt awaits. -/
def State.spdmDrop (s : State) (p : Nat) : State :=
  s.updPort p (fun q => { q with outReq := q.outReq.filter (fun x => decide (x.purpose ≠ .spdm)) })

/-- An attempt starts with GET_VERSION. -/
def State.spdmStart (s : State) (p : Nat) : State :=
  let x := s.spdmOf p
  ((s.spdmDrop p).setSpdm p { x with retry := false, mutCap := false, ems := [], got := 0, hsSeq := 0 }).spdmAsk p 1
    (toLE 1 0x10 ++ toLE 1 0x84 ++ toLE 2 0)

/-- An attempt ends; a retry is due. -/
def State.spdmFails (s : State) (p : Nat) : State :=
  let x := s.spdmOf p
  (s.spdmDrop p).setSpdm p { x with asked := 0, ems := [], fails := x.fails + 1, retry := true }

/-- GET_CERTIFICATE of the peer's slot 0 chain from `off` on. -/
def State.spdmAskCert (s : State) (p off : Nat) : State := s.spdmAsk p 5 (spdmMsg 0x82 0 0 (toLE 2 off ++ toLE 2 0xFFFF))

/-- KEY_EXCHANGE with the part's ECDH value and MLKEM_EK; no summary is asked for. -/
def State.spdmAskKeys (s : State) (p : Nat) : State :=
  let d := s.draw 0
  let e := d.2.draw 65536
  let g := e.2.draw (2 ^ 256)
  let s := g.2
  let x := s.spdmOf p
  (s.setSpdm p { x with draw := d.1, id := e.1 }).spdmAsk p 6 (spdmMsg 0xE4 0 0 (toLE 2 e.1 ++ toLE 2 0 ++ toLE 32 g.1
    ++ slice (Config.exchange d.1 0) 0 96 ++ opaqueData [s.element 1 (slice (Config.exchange d.1 2) 0 1184)]))

/-- FINISH: with the ECDSA signature of the identity key under mutual authentication. -/
def State.spdmAskFinish (s : State) (p : Nat) (tr : List Byte) : State :=
  let x := s.spdmOf p
  let sig := if x.mutCap then slice (Config.ecdsaSign s.ecdsaKey (sha384 tr)) 0 96 else []
  s.spdmAskSecured p 8 (spdmMsg 0xE5 (b2n x.mutCap) 0 (sig ++ slice (Config.verifyData x.ems 0) 0 48))

/-- A response of the peer advances the sequence, or ends the attempt (R401 steps 1 to 7). -/
def State.spdmAdvance (s : State) (p : Nat) (r : SpdmResp) : State :=
  let x := s.spdmOf p
  match r with
  | .version ok => if x.asked = 1 ∧ ok then
      (let d := s.draw 256
       let e := d.2.draw (2 ^ 32)
       let g := e.2.draw (2 ^ 32)
       g.2.spdmAsk p 2 (spdmMsg 0xE1 0 0 (toLE 1 0 ++ toLE 1 d.1 ++ toLE 2 0 ++ toLE 4 spdmCaps ++ toLE 4 e.1 ++ toLE 4 g.1)))
    else s.spdmFails p
  | .capabilities => if x.asked = 2 then
      s.spdmAsk p 3 (spdmMsg 0xE3 4 0 (toLE 2 48 ++ toLE 1 1 ++ toLE 1 2 ++ toLE 4 0x80 ++ toLE 4 2 ++ toLE 16 0 ++ spdmAlgs))
    else s.spdmFails p
  | .algorithms ok => if x.asked = 3 ∧ ok then s.spdmAsk p 4 (spdmMsg 0x81 0 0 []) else s.spdmFails p
  | .digests slot0 => if x.asked = 4 ∧ slot0 then (s.setSpdm p { x with got := 0 }).spdmAskCert p 0 else s.spdmFails p
  | .certificate n last d =>
    if x.asked ≠ 5 then s.spdmFails p
    else if last then ((s.setSpdm p { x with peerChain := d }).wr (K.peerCertDigests p) d).spdmAskKeys p
    else (s.setSpdm p { x with got := x.got + n }).spdmAskCert p (x.got + n)
  | .keyExchangeRsp ok ct pub rspId auth tr =>
    if x.asked ≠ 6 ∨ !ok ∨ ct.isEmpty then s.spdmFails p
    else
      let s := s.setSpdm p { x with
        ems := Config.exportSecret pub ct x.draw, id := x.id % 65536 + rspId % 65536 * 65536, mutCap := auth, hsSeq := 0 }
      if auth then s.spdmAskSecured p 7 (spdmMsg 0xEA 0 0 []) else s.spdmAskFinish p tr
  | .encapsulated kind off len tr =>
    if x.asked ≠ 7 then s.spdmFails p
    else if kind = 1 then s.spdmAskSecured p 7 (spdmMsg 0xEB 1 0 s.spdmDigests)
    else if kind = 2 then s.spdmAskSecured p 7 (spdmMsg 0xEB 1 0 (s.spdmCertificate 0 off len))
    else s.spdmAskFinish p tr
  | .finishRsp ok =>
    if x.asked ≠ 8 ∨ !ok then s.spdmFails p
    else
      let y := { x with asked := 0, fails := 0, retry := false }
      ((s.setSpdm p y).spdmOpen p (512 + p) p 0xFFFF x.mutCap 0).linkSecure p
  | .error => s.spdmFails p

/-- LINK_SPDM_ATTEMPT: the port's root of trust starts the sequence. -/
def execLinkSpdmAttempt (p t : Nat) (s : State) : Out :=
  let s := s.at t
  let x := s.spdmOf p
  .next (if s.spdmUp && s.spdmRequester p && decide (x.asked = 0) && !x.retry then s.spdmStart p else s)

/-- SPDM_RESPONSE_RECEIVED: an SPDM_RESP that answers the port's request. -/
def execSpdmResponseReceived (p : Nat) (h : Hdr) (r : SpdmResp) (t : Nat) (s : State) : Out :=
  .next (s.onResp p 0xF0 h t (fun s x =>
    match x.purpose with
    | .spdm =>
      let s := s.settle x
      if s.spdmRequester p && decide ((s.spdmOf p).asked ≠ 0) then
        (if h.status = Code.ok then s.spdmAdvance p r else (s.protoError p).spdmFails p)
      else s
    | _ => s.protoError p))

/-- SPDM_ATTEMPT_RETRY: an attempt that has ended, or has a step unanswered in SPDM's time, is tried again: at most three
times after 1 ms, from then on once every 4,000 frames. The command is the end of that wait. -/
def execSpdmAttemptRetry (p t : Nat) (s : State) : Out :=
  let s := s.at t
  let x := s.spdmOf p
  .next (if s.spdmUp && s.spdmRequester p && (x.retry || decide (x.asked ≠ 0)) then
      (if x.retry then s else s.spdmFails p).spdmStart p
    else s)

end Sys2Proof.Machine
end

