-- ==== Sys2Proof/Machine/Receive.lean ====
section
/-!
DEFINITION. Messages as they arrive: TRANSPORT cells and the streams they carry (03 R76, 04 R92, R93), the recheck at the home
(04 R106), and Fligifer payloads in band and on management ports (04 R104, 19 R417 to R419, R426, R434).
-/

namespace Sys2Proof.Machine

/-! ### Streams of transport messages (04 R92 to R94) -/

/-- The header of a message. -/
def hdrOf (b : List Byte) : Hdr :=
  ⟨leAt b 1 1, leAt b 2 2, leAt b 4 2, leAt b 6 2, leAt b 8 2, leAt b 10 2, leAt b 12 1 % 4, leAt b 14 2⟩

/-- The line a FWD_ACK or BACK_INVAL_ACK carries: HAS_DATA is 1 and it follows (04 R102). -/
def lineOf (b : List Byte) : Option (List Byte) := if leAt b 18 1 = 1 then some (slice b 24 128) else none

/-- An SPDM or MGMT request in a channel's stream: one that the port engine refuses is answered at once, a LEN that does not fit
LENGTH among them (04 R105); the others are handed on. -/
def State.handOver (s : State) (p op : Nat) (h : Hdr) (d b : List Byte) : State :=
  if !s.portOpen p then s
  else
    match s.checkArrival p op h d with
    | .misrouted => s.count (K.transportCounts p 2) 1
    | .refused st => s.refuse p op h st
    | .dropRetry => s.count (K.transportCounts p 6) 1
    | _ => s.updPort p (fun q => { q with handed := q.handed ++ [b] })

/-- A whole message arrives. SPDM, MGMT requests and SPDM responses go to the root of trust and the management core, whose part
is commands of their own (log entry 52); every other message takes its effect here. A reserved HAS_DATA discards the
acknowledgement and counts it (00 R10). -/
def State.message (s : State) (p : Nat) (b : List Byte) (noise : List (Nat × Nat)) (t : Nat) : State :=
  let op := leAt b 0 1
  let h := hdrOf b
  let d := b.drop 16
  if op = 0x70 ∨ op = 0x71 then s.handOver p op h d b
  else if op = 0xF0 then s.updPort p (fun q => { q with handed := q.handed ++ [b] })
  else if (op = 0xB9 ∨ op = 0xBA) ∧ 1 < leAt b 18 1 then s.onResp p op h t (fun s _ => s.protoError p)
  else if op = 0xB9 then s.fwdAck p h (leAt d 0 1) (leAt d 1 1) (lineOf b) t
  else if op = 0xBA then s.backInvalAck p h (lineOf b) t
  else if op = 0xD0 then s.translateResp p h d t
  else if op = 0xD2 then s.pageResp p h t
  else if op = 0xD3 ∨ op = 0xD4 then s.moveResp p op h d t
  else if op = 0xD8 then s.pairResp p h t
  else if op = 0xE0 ∨ op = 0xC0 ∨ op = 0xF1 then s.plainResp p op h t
  else if receivedOps.contains op then s.recv p op h d noise t
  else if 128 ≤ op ∧ listedOps.contains op then s.onResp p op h t (fun s _ => s)
  else s.unsupported p op h t

/-- Deliver the messages that a channel's stream now holds whole, at most `n` of them. A LENGTH that breaks the rules ends the
link session (R93). -/
def State.drain : Nat → State → Nat → Nat → List (Nat × Nat) → Nat → State
  | 0, s, _, _, _, _ => s
  | n + 1, s, p, vc, noise, t =>
    let b := Tab.getD (s.port p).rxPart vc []
    let l := leAt b 2 2
    if b.length < 4 then s
    else if l % 8 ≠ 0 ∨ l < 16 ∨ 4224 < l then (s.protoError p).loseSession p
    else if b.length < l then s
    else
      State.drain n ((s.updPort p (fun q => { q with rxPart := Tab.set q.rxPart vc (b.drop l) })).message p (b.take l) noise t)
        p vc noise t

/-- RX_TRANSPORT_CELL (03 R76): the payload of a cell accepted in order joins its channel's stream. -/
def execRxTransportCell (p hdr : Nat) (payload : List Byte) (crcOk tagOk : Bool) (noise : List (Nat × Nat)) (t : Nat) (s : State) : Out :=
  let s := s.at t
  .next (if cType hdr = 1 then
      (match s.rxSeq p hdr crcOk tagOk with
      | (false, s) => s
      | (true, s) =>
        let vc := cPvc hdr
        (s.updPort p (fun q => { q with
          rxPart := Tab.set q.rxPart vc (Tab.getD q.rxPart vc [] ++ slice payload 0 (cPlen hdr)) })).drain 300 p vc noise t).creditBack p (cPvc hdr)
    else s)

/-- HOME_RECHECK: request `id` of a port has reached its home tile, which checks it under the take then in force and executes it
(04 R106). -/
def execHomeRecheck (port id : Nat) (noise : List (Nat × Nat)) (t : Nat) (s : State) : Out :=
  let s := s.at t
  .next (match (s.waitersOf .home).find? (fun r => r.port = port && r.id = id) with
    | none => s
    | some r => (s.takeWaiter .home r).serveData r noise t)

/-! ### Payloads -/

/-- What a secured message that checks leaves to send: an SPDM answer within the session, Fligifer messages of the session. -/
def State.securedServe (s : State) (i : Nat) (app : App) (t : Nat) (fw : Bool × Bool) :
    (Option (List Byte) × List (List Byte)) × State :=
  match app with
  | .spdm m => let r := s.spdmInSession i m; ((some r.1, []), r.2)
  | .flig m => let r := s.fligRecv i m t fw; ((none, r.1), r.2)
  | .other => ((none, []), s)

/-- The message ends a link's own session. -/
def endsLink (i : Nat) (app : App) : Bool :=
  match app with
  | .spdm .endSession => decide (512 ≤ i)
  | _ => false

/-- Answer an MGMT request with payload `b`. -/
def State.mgmtAnswer (s : State) (q : Req) (b : List Byte) : State := s.carriedAnswer q b

/-- Answer an MGMT request with the first of a session's responses under a binding header, or with a header of `kind` alone;
the other responses travel in MGMT requests of the part's own (04 R104). -/
def State.mgmtReply (s : State) (q : Req) (i kind : Nat) (l : List (List Byte)) : State :=
  match l, s.session i with
  | m :: rest, some x => rest.foldl (fun (s : State) y => s.fligPush i y) ((s.fligSend i m).mgmtAnswer q (x.payload i m))
  | _, _ => s.mgmtAnswer q (bindHdr kind)

/-- A secured message reaches the part in an MGMT request. -/
def State.mgmtSecured (s : State) (port : Nat) (q : Req) (i sq : Nat) (macOk : Bool) (app : App) (t : Nat) (fw : Bool × Bool) : State :=
  match s.secureIn i sq macOk with
  | none => (s.count (K.fligiferCounts 4) 1).mgmtAnswer q (bindHdr 1)
  | some s =>
    let r := s.securedServe i app t fw
    match r.1.1 with
    | some b =>
      let s := r.2.mgmtAnswer q (bindHdr 1 ++ b)
      if endsLink i app then s.loseSession port else s
    | none => r.2.mgmtReply q i 1 r.1.2

/-- An MGMT request (04 R104, 19 R417): its payload is dispatched or discarded, and it is answered with exactly one MGMT_RESP. -/
def execMgmt (port : Nat) (h : Hdr) (magic ver : Nat) (p : Payload) (ecdsaOk mldsaOk : Bool) (t : Nat) (s : State) : Out :=
  let s := s.at t
  .next (s.carried port 0x71 h (fun s q =>
      let kind : Nat := match p with | .clear _ => 0 | .secured _ _ _ _ => 1 | _ => 2
      let bad := (s.count (K.fligiferCounts 3) 1).mgmtAnswer q (bindHdr kind)
      if magic ≠ 0x464C ∨ ver ≠ 1 then bad
      else
        match p with
        | .clear _ => bad
        | .other _ => bad
        | .secured i sq macOk app => s.mgmtSecured port q i sq macOk app t (ecdsaOk, mldsaOk)
        | .flig m =>
          let u := s.unsecured 2 port h.src
          let r := u.2.fligRecv u.1 m t (ecdsaOk, mldsaOk)
          r.2.mgmtReply q u.1 2 r.1))

/-- A secured message on a management port. -/
def State.portSecured (s : State) (n source i sq : Nat) (macOk : Bool) (app : App) (t : Nat) (fw : Bool × Bool) : State :=
  match s.secureIn i sq macOk with
  | none => s.count (K.fligiferCounts 4) 1
  | some s =>
    let r := s.securedServe i app t fw
    match r.1.1 with
    | some b => r.2.datagram n source (bindHdr 1 ++ b)
    | none => r.1.2.foldl (fun (s : State) m => s.fligSend i m) r.2

/-- MGMT_DATAGRAM on management port `n` (19 R417). -/
def execMgmtDatagram (n source magic ver : Nat) (p : Payload) (ecdsaOk mldsaOk : Bool) (t : Nat) (s : State) : Out :=
  let s := s.at t
  .next (if !s.spdmUp then s
    else if magic ≠ 0x464C ∨ ver ≠ 1 then s.count (K.fligiferCounts 3) 1
    else
      match p with
      | .clear m => s.spdmArrive (64 + n % 2) source ⟨0, 0, 0, 0, 0, 0, 0, 0⟩ m t
      | .secured i sq macOk app => s.portSecured n source i sq macOk app t (ecdsaOk, mldsaOk)
      | .flig m =>
        let u := s.unsecured (n % 2) 0 source
        u.2.fligDeliver u.1 m t (ecdsaOk, mldsaOk)
      | .other _ => s.count (K.fligiferCounts 3) 1)

/-- SECURED_MESSAGE (19 R418): on a management port, or in an SPDM transport message (18 R400). In band one that draws no
response is answered with a byte of no stated value (log entry 51). -/
def execSecuredMessage (via source : Nat) (h : Hdr) (sess sq : Nat) (macOk : Bool) (app : App) (ecdsaOk mldsaOk : Bool) (t : Nat)
    (s : State) : Out :=
  let s := s.at t
  .next (if viaMgmt via then
      (if !s.spdmUp then s else s.portSecured (via - 64) source sess sq macOk app t (ecdsaOk, mldsaOk))
    else s.carried via 0x70 h (fun s q =>
      let empty := fun (s : State) => let d := s.draw 256; d.2.carriedAnswer q (toLE 1 d.1)
      match s.secureIn sess sq macOk with
      | none => empty (s.count (K.fligiferCounts 4) 1)
      | some s =>
        let r := s.securedServe sess app t (ecdsaOk, mldsaOk)
        match r.1.1 with
        | some b =>
          let s := r.2.carriedAnswer q b
          if endsLink sess app then s.loseSession via else s
        | none =>
          match r.1.2, r.2.session sess with
          | m :: rest, some x =>
            rest.foldl (fun (s : State) y => s.fligPush sess y)
              ((r.2.fligSend sess m).carriedAnswer q (x.record (toBE 1 0x46 ++ m)))
          | _, _ => empty r.2))

/-! ### Management ports (19 R419, R434) -/

/-- MAC address in force on management port `n`. -/
def State.macOf (s : State) (n : Nat) : Nat := Tab.getD s.boot.macs n ((2 + 4 * n) * 2 ^ 40 + s.fuses.serial % 2 ^ 40)

/-- Its IPv6 link-local address: modified EUI-64 of the MAC. -/
def State.linkLocal (s : State) (n : Nat) : Nat :=
  let m := s.macOf n
  0xFE80 * 2 ^ 112 + ((m / 2 ^ 24 * 2 ^ 40 + 0xFFFE * 2 ^ 24 + m % 2 ^ 24) ^^^ 2 ^ 57)

/-- An IPv6 address of the port. -/
def State.hasIpv6 (s : State) (n a : Nat) : Bool :=
  a = s.linkLocal n || (s.rd (K.mgmtIpv6 n) ≠ 0 && a = s.rd (K.mgmtIpv6 n) / 2 ^ 8)

/-- Its IPv4 address, when IPv4 is on. -/
def State.hasIpv4 (s : State) (n a : Nat) : Bool := s.rd (K.mgmtIpv4 n) ≠ 0 && a = s.rd (K.mgmtIpv4 n) / 2 ^ 40

/-- A network packet to address `target` of port `n`: kind 0 NDP solicitation, 1 ARP request, 2 ICMP echo, 3 ICMPv6 echo. -/
def State.netPacket (s : State) (n kind target : Nat) (data : List Byte) : State :=
  let out := fun (b : List Byte) => s.updBoot (fun x => { x with netOut := x.netOut ++ [(n, kind, b)] })
  if !s.spdmUp then s
  else if kind = 0 then if s.hasIpv6 n target then out (toBE 16 target ++ toBE 6 (s.macOf n)) else s
  else if kind = 1 then if s.hasIpv4 n target then out (toBE 4 target ++ toBE 6 (s.macOf n)) else s
  else if kind = 2 then if s.hasIpv4 n target then out data else s
  else if kind = 3 then if s.hasIpv6 n target then out data else s
  else s

/-- MGMT_NETWORK_PACKET. -/
def execMgmtNetworkPacket (n kind target : Nat) (data : List Byte) (s : State) : Out := .next (s.netPacket n kind target data)

/-- MGMT_PORT_LINK_CHANGE: MGMT_LINK follows the link, and a written MGMT_MAC applies at the link-up (R434). -/
def execMgmtPortLinkChange (n : Nat) (up : Bool) (s : State) : Out :=
  .next (if 2 ≤ n then s
    else
      let s := s.wr (K.mgmtLink n) (b2n up)
      if up then
        match Tab.find s.regs (K.mgmtMac n) with
        | some m => s.updBoot (fun b => { b with macs := Tab.set b.macs n m })
        | none => s
      else s)

end Sys2Proof.Machine
end

