-- ==== Sys2Proof/Machine/ReelScalar.lean ====
section
/-!
DEFINITION. Scalar, branch, mask, barrier, cut and system instructions of reels (13 R307, R310, 14 R322, R323, R329,
R339 to R344).
-/

namespace Sys2Proof.Machine

/-! ### Scalar arithmetic (R322) -/

/-- The second operand: Gb, or sext(IMM16) where FUNC[0] is 1. -/
def scalarB (k : Ctx) (w : Nat) : Word := if iFunc w = 1 then iSext16 w else k.gr (iB w)

/-- A scalar instruction of opcode `op`: Gd = f(Ga, second operand). -/
def State.scalar (s : State) (slot c stall t op : Nat) (f : Word → Word → Word) : State :=
  s.issueReg slot c stall t (op, 0) (fun k w => k.setG (iD w) (f (k.gr (iA w)) (scalarB k w)))

/-- ADD. -/
def execAdd (slot ctx stall t : Nat) (s : State) : Out := .next (s.scalar slot ctx stall t 0x01 (fun a b => a + b))
/-- SUB. -/
def execSub (slot ctx stall t : Nat) (s : State) : Out := .next (s.scalar slot ctx stall t 0x02 (fun a b => a - b))
/-- MUL. -/
def execMul (slot ctx stall t : Nat) (s : State) : Out := .next (s.scalar slot ctx stall t 0x03 (fun a b => a * b))
/-- MULHU. -/
def execMulhu (slot ctx stall t : Nat) (s : State) : Out := .next (s.scalar slot ctx stall t 0x04 (fun a b => BitVec.ofNat 64 (a.toNat * b.toNat / 2 ^ 64)))
/-- AND. -/
def execAnd (slot ctx stall t : Nat) (s : State) : Out := .next (s.scalar slot ctx stall t 0x05 (fun a b => a &&& b))
/-- OR. -/
def execOr (slot ctx stall t : Nat) (s : State) : Out := .next (s.scalar slot ctx stall t 0x06 (fun a b => a ||| b))
/-- XOR. -/
def execXor (slot ctx stall t : Nat) (s : State) : Out := .next (s.scalar slot ctx stall t 0x07 (fun a b => a ^^^ b))
/-- SHL. -/
def execShl (slot ctx stall t : Nat) (s : State) : Out := .next (s.scalar slot ctx stall t 0x08 (fun a b => a <<< (b.toNat % 64)))
/-- SHR. -/
def execShr (slot ctx stall t : Nat) (s : State) : Out := .next (s.scalar slot ctx stall t 0x09 (fun a b => a >>> (b.toNat % 64)))
/-- SAR. -/
def execSar (slot ctx stall t : Nat) (s : State) : Out := .next (s.scalar slot ctx stall t 0x0A (fun a b => a.sshiftRight (b.toNat % 64)))
/-- SLT. -/
def execSlt (slot ctx stall t : Nat) (s : State) : Out := .next (s.scalar slot ctx stall t 0x0B (fun a b => if a.slt b then 1 else 0))
/-- SLTU. -/
def execSltu (slot ctx stall t : Nat) (s : State) : Out := .next (s.scalar slot ctx stall t 0x0C (fun a b => if a.ult b then 1 else 0))

/-- LI. -/
def execLi (slot ctx stall t : Nat) (s : State) : Out :=
  .next (s.issueReg slot ctx stall t (0x0E, 0) (fun k w => k.setG (iD w) (BitVec.ofInt 64 (iOff w))))
/-- LIH. -/
def execLih (slot ctx stall t : Nat) (s : State) : Out :=
  .next (s.issueReg slot ctx stall t (0x0F, 0) (fun k w =>
    k.setG (iD w) ((k.gr (iA w) &&& 0xFFFFFFFF) ||| (BitVec.ofNat 64 (iImm32 w) <<< 32))))

/-! ### Branches (R323) -/

/-- COND of BR. -/
def condHolds (cond : Nat) (a b : Word) : Bool :=
  if cond = 0 then a = b else if cond = 1 then a ≠ b else if cond = 2 then a.slt b else if cond = 3 then !a.slt b
  else if cond = 4 then a.ult b else if cond = 5 then !a.ult b else true

/-- BR: one turn where it is not taken, three where it is. -/
def execBr (slot ctx stall t : Nat) (s : State) : Out :=
  .next (s.issueInstr slot ctx stall t (0x10, 0) (fun s k w =>
    if condHolds (iFunc w) (k.gr (iBrA w)) (k.gr (iBrB w)) then .done s (k.pc + 8 * iOff w) 2 else .done s (k.pc + 8) 0))
/-- JAL. -/
def execJal (slot ctx stall t : Nat) (s : State) : Out :=
  .next (s.issueInstr slot ctx stall t (0x11, 0) (fun s k w =>
    .done (s.setCtx slot ctx (k.setG (iD w) (BitVec.ofNat 64 (k.pc + 8)))) (k.pc + 8 * iOff w) 2))
/-- JR. -/
def execJr (slot ctx stall t : Nat) (s : State) : Out :=
  .next (s.issueInstr slot ctx stall t (0x12, 0) (fun s k w =>
    .done s (((k.gr (iA w)).toInt + iOff w) / 8 * 8) 2))

/-! ### Masks (R329) -/

/-- A mask operation: Md = f(Ma, Mb), bit by bit. -/
def State.maskOp (s : State) (slot c stall t sel : Nat) (f : BitVec 1024 → BitVec 1024 → BitVec 1024) : State :=
  s.issueReg slot c stall t (0x2E, sel) (fun k w =>
    { k with m := Tab.set k.m (iD w) (f (Tab.getD k.m (iA w) 0) (Tab.getD k.m (iB w) 0)) })
/-- MOP AND. -/
def execMopAnd (slot ctx stall t : Nat) (s : State) : Out := .next (s.maskOp slot ctx stall t 0 (fun a b => a &&& b))
/-- MOP OR. -/
def execMopOr (slot ctx stall t : Nat) (s : State) : Out := .next (s.maskOp slot ctx stall t 1 (fun a b => a ||| b))
/-- MOP XOR. -/
def execMopXor (slot ctx stall t : Nat) (s : State) : Out := .next (s.maskOp slot ctx stall t 2 (fun a b => a ^^^ b))
/-- MOP AND-NOT. -/
def execMopAndNot (slot ctx stall t : Nat) (s : State) : Out := .next (s.maskOp slot ctx stall t 3 (fun a b => a &&& ~~~b))
/-- MSET. -/
def execMset (slot ctx stall t : Nat) (s : State) : Out :=
  .next (s.issueReg slot ctx stall t (0x2F, 0) (fun k w => k.setM (iD w) (2 ^ min (k.gr (iA w)).toNat 1024 - 1)))

/-! ### Barrier and cut (R307, R310, R339, R340) -/

/-- BAR: once every earlier store has been taken at its home, arrive and wait; a broken barrier faults. -/
def execBar (slot ctx stall t : Nat) (s : State) : Out :=
  .next (s.issueInstr slot ctx stall t (0x68, 0) (fun s k w =>
    let b := fld w 1 0
    if k.refusals ≠ [] then .stall s
    else
      match s.launch k.launch with
      | none => .stall s
      | some l =>
        if l.broken then .fault s Code.barrierBroken b
        else
          let s := s.setLaunch { l with coming := l.coming ++ [(b, k.rank, Tab.getD k.gen b 0)] }
          .held (s.setCtx slot ctx { k with st := 4, wait := .barrier b })))

/-- Engine cycles from `t` until the slate guard. -/
def State.cyclesToGuard (s : State) (t : Nat) : Nat := (s.guardAt - t) * 2

/-- CUT: yields where the budget or the time before the guard is below NEED. -/
def execCut (slot ctx stall t : Nat) (s : State) : Out :=
  .next (s.issueInstr slot ctx stall t (0x6C, 0) (fun s k w =>
    let need := iImm32 w
    let s := if k.budget < need ∨ s.cyclesToGuard t < need then s.setCtx slot ctx { k with st := 6 } else s
    .done s (k.pc + 8) 0))

/-! ### System operations (R341 to R344) -/

/-- SYSR with a selector: Gd = f. -/
def State.sysr (s : State) (slot c stall t sel : Nat) (f : State → Ctx → Nat) : State :=
  s.issueInstr slot c stall t (0x70, sel) (fun s k w =>
    .done (s.setCtx slot c (k.setG (iD w) (BitVec.ofNat 64 (f s k)))) (k.pc + 8) 0)
/-- SYSR 0. -/
def execSysrFrame (slot ctx stall t : Nat) (s : State) : Out :=
  .next (s.sysr slot ctx stall t 0 (fun s _ => s.frame))
/-- SYSR 1. -/
def execSysrBudget (slot ctx stall t : Nat) (s : State) : Out :=
  .next (s.sysr slot ctx stall t 1 (fun _ k => k.budget))
/-- SYSR 2. -/
def execSysrGuardCycles (slot ctx stall t : Nat) (s : State) : Out :=
  .next (s.sysr slot ctx stall t 2 (fun _ _ => s.cyclesToGuard t))
/-- SYSR 3. -/
def execSysrFpFlags (slot ctx stall t : Nat) (s : State) : Out :=
  .next (s.sysr slot ctx stall t 3 (fun _ k => k.fp))
/-- SYSR 4. -/
def execSysrSlot (slot ctx stall t : Nat) (s : State) : Out :=
  .next (s.sysr slot ctx stall t 4 (fun _ _ => slot))
/-- SYSR 5. -/
def execSysrContext (slot ctx stall t : Nat) (s : State) : Out :=
  .next (s.sysr slot ctx stall t 5 (fun _ _ => ctx))
/-- SYSR 6. -/
def execSysrSrCounter (slot ctx stall t : Nat) (s : State) : Out :=
  .next (s.sysr slot ctx stall t 6 (fun _ k => k.ctr.toNat))
/-- SYSR 7. -/
def execSysrLaunchTag (slot ctx stall t : Nat) (s : State) : Out :=
  .next (s.sysr slot ctx stall t 7 (fun s k => match s.launch k.launch with | some l => lbTag l.block | none => 0))
/-- SYSR 8. -/
def execSysrSplitMode (slot ctx stall t : Nat) (s : State) : Out :=
  .next (s.sysr slot ctx stall t 8 (fun s _ => s.rd (K.splitMode slot)))
/-- CLRF. -/
def execClrf (slot ctx stall t : Nat) (s : State) : Out :=
  .next (s.issueReg slot ctx stall t (0x71, 0) (fun k w => { k with fp := k.fp - (k.fp &&& fld w 3 0) }))
/-- NOP. -/
def execNop (slot ctx stall t : Nat) (s : State) : Out := .next (s.issueReg slot ctx stall t (0x7E, 0) (fun k _ => k))

/-- DBELL. -/
def execDbell (slot ctx stall t : Nat) (s : State) : Out :=
  .next (s.issueInstr slot ctx stall t (0x72, 0) (fun s k w =>
    let a := (k.gr (iA w)).toNat
    let eid := fld a 15 0
    let port := fld a 21 16
    let idx := fld a 47 32
    if fld a 31 22 ≠ 0 ∨ fld a 63 48 ≠ 0 then .fault s Code.illegalInstruction (w % 2 ^ 32)
    else
      match s.ctxOwner slot ctx with
      | none => .stall s
      | some p =>
        if port < 36 ∧ (s.findBinding port p eid).isSome then
          let s := s.originate port eid 0x60 (s.handleOf p) (toLE 2 idx ++ toLE 6 0 ++ toLE 8 (k.gr (iB w)).toNat) (.doorbell p slot ctx idx)
          .done (s.setCtx slot ctx (k.setG (iD w) (BitVec.ofNat 64 Code.ok))) (k.pc + 8) 0
        else .done (s.setCtx slot ctx (k.setG (iD w) (BitVec.ofNat 64 Code.notBound))) (k.pc + 8) 0))

/-- MBXRECV (R343, 20 R444). -/
def execMbxrecv (slot ctx stall t : Nat) (s : State) : Out :=
  .next (s.issueInstr slot ctx stall t (0x73, 0) (fun s k w =>
    match k.inbox with
    | [] =>
      if iFunc w = 1 then .done (s.setCtx slot ctx ((k.setG (iD w) 0).setG (iC w) 0)) (k.pc + 8) 0
      else .held (s.setCtx slot ctx { k with st := 4, wait := .mailbox })
    | m :: rest =>
      let s := s.ackTaken slot ctx Code.ok
      let k := { s.ctx slot ctx with inbox := rest, taken := some (m.1, m.2.1) }
      .done (s.setCtx slot ctx ((k.setG (iD w) m.2.2).setG (iC w) (BitVec.ofNat 64 (m.1 + 65536)))) (k.pc + 8) 0))

/-- MBXACK. -/
def execMbxack (slot ctx stall t : Nat) (s : State) : Out :=
  .next (s.issueInstr slot ctx stall t (0x74, 0) (fun s k w =>
    .done (s.ackTaken slot ctx ((k.gr (iA w)).toNat % 65536)) (k.pc + 8) 0))

/-- MBXSEND. -/
def execMbxsend (slot ctx stall t : Nat) (s : State) : Out :=
  .next (s.issueReg slot ctx stall t (0x75, 0) (fun k w =>
    if 8 ≤ k.outbox.length then k.setG (iD w) (BitVec.ofNat 64 Code.busy)
    else { k with outbox := k.outbox ++ [k.gr (iA w)], sent := k.sent + 1 }.setG (iD w) (BitVec.ofNat 64 Code.ok)))

/-- END (R344): once every earlier store has been taken at its home. -/
def execEndReel (slot ctx stall t : Nat) (s : State) : Out :=
  .next (s.issueInstr slot ctx stall t (0x77, 0) (fun s k _ =>
    if k.refusals ≠ [] then .stall s
    else
      let s := (s.dropPrefetch slot ctx).ackTaken slot ctx Code.ok
      .held (((s.setCtx slot ctx (s.ctx slot ctx).wiped).breakBarriers k.launch).endIfDone k.launch)))

end Sys2Proof.Machine
end

