-- ==== Sys2Proof/Machine/Slate.lean ====
section
/-!
DEFINITION. The slate (02 R46): the armed take applied (02 R42, R52, R53, 06 R141 to R154, 10 R235, 11 R265, 13 R313,
15 R361, 17 R371, R372), the endings due, and the call sheet (02 R48); the slate guard (02 R31) and the ends of scrubs of
rebound resources (02 R52).
-/

namespace Sys2Proof.Machine

/-! ### What a take changes -/

/-- The staged elements whose value differs from the live one: (key, old, new). -/
def State.takeChanges (s : State) : List (Nat × Nat × Nat) :=
  s.take.staged.filterMap (fun kv => if s.rd kv.1 = kv.2 then none else some (kv.1, s.rd kv.1, kv.2))

/-- The changes within a family of entries: (entry number, element, old, new). -/
def changesIn (c : List (Nat × Nat × Nat)) (base n sub : Nat) : List (Nat × Nat × Nat × Nat) :=
  c.filterMap (fun x =>
    let i := x.1 / 4294967296
    if base ≤ i ∧ i < base + n ∧ x.1 / 16777216 % 256 = sub then some (i - base, x.1 % 16777216, x.2.1, x.2.2) else none)

/-- Partitions that the take frees: `o` is the part before it, `t` after (R371). -/
def freedBy (o t : State) : List Nat := (List.range 64).filter (fun p => o.active p && !t.activeAfter p)

/-- Partitions that it re-incarnates (R372). -/
def reincBy (o t : State) : List Nat :=
  (List.range 64).filter (fun p => o.active p && t.activeAfter p && decide (o.rd (K.incarnationAdvance p) ≠ t.rd (K.incarnationAdvance p)))

/-- Partitions that it allocates (R369). -/
def allocBy (o t : State) : List Nat := (List.range 64).filter (fun p => !o.active p && t.activeAfter p)

/-- A change of an extent map entry from `a` to `b` leaves the extent where it is: the entry stays valid with its DXN and its
VA_TAG (R137, R138). -/
def extentStays (a b : Nat) : Bool := eValid a && eValid b && eDxn a = eDxn b && eTag a = eTag b

/-- Device extents that the old or the new value of an entry names. -/
def dxnsNamed (a b : Nat) : List Nat := (if eValid a then dxnsOf a else []) ++ (if eValid b then dxnsOf b else [])

/-- Device extent `d` belongs to the same extent before (`o`) and after (`t`) the take. -/
def sameExtent (o t : State) (d : Nat) : Bool :=
  match o.extentOf d, t.extentOf d with
  | some (p, i, a), some (q, j, b) => p = q && i = j && extentStays a b
  | _, _ => false

/-! ### Device extents (R52, R141, R144, R145) -/

/-- A take's effect on device extent `d`: mapped, freed, erased for its new owner, or kept. -/
def State.dxnTake (s o : State) (d : Nat) : State :=
  match o.extentOf d, s.extentOf d with
  | none, none => s
  | none, some (p, _, _) =>
    if (Tab.find s.erasing d).isSome then s.beginErase d (s.handleOf p)
    else
      let s := s.setTag d (s.handleOf p)
      s.wr (K.dxnState d) (s.restDxnState d)
  | some _, none => s.freeExtent d
  | some _, some (q, _, _) =>
    if sameExtent o s d then (if (Tab.find s.erasing d).isSome then s else s.wr (K.dxnState d) (s.restDxnState d))
    else s.beginErase d (s.handleOf q)

/-- The tags of every device extent that a re-incarnated partition maps take the new handle (R141). -/
def State.retag (s : State) (p : Nat) : State :=
  (((s.extents.filter (fun (x : Nat × Nat × Nat) => x.1 = p)).map (fun x => dxnsOf x.2.2)).flatten).foldl (fun (s : State) d =>
    if (Tab.find s.erasing d).isSome then { s with erasing := Tab.set s.erasing d (s.handleOf p) }
    else s.setTag d (s.handleOf p)) s

/-! ### Partitions (R371, R372) -/

/-- The throttles of a freed partition end (R54). -/
def State.throttlesOff (s : State) (p : Nat) : State :=
  (List.range 36).foldl (fun (s : State) t =>
    if (Tab.find (s.stack t).throttleEnd p).isSome then
      (s.updStack t (fun k => { k with throttleEnd := Tab.erase k.throttleEnd p })).wr (K.throttled t p) 0
    else s) s

/-- The event queue of a partition starts empty with its allocation. -/
def State.eventsOff (s : State) (p : Nat) : State := { s with reels := { s.reels with events := Tab.erase s.reels.events p } }

/-- Partitions freed, re-incarnated and allocated. -/
def State.partTake (s : State) (freed reinc alloc : List Nat) : State :=
  let s := freed.foldl (fun (s : State) p => ((s.freePart p).throttlesOff p).eventsOff p) s
  let s := reinc.foldl (fun (s : State) p => (s.advance p).retag p) s
  alloc.foldl (fun (s : State) p => (s.eventsOff p).wr (K.partitionStatus p) 1) s

/-! ### Contexts and launches (R313, R372) -/

/-- Contexts, by slot*16 + number, that lose their owner, or whose partition ends its incarnation. -/
def lostCtxs (o t : State) (ended : List Nat) : List Nat :=
  (List.range 512).filter (fun k =>
    match o.ctxOwner (k / 16) (k % 16) with
    | none => false
    | some p => decide (t.ctxOwner (k / 16) (k % 16) ≠ some p) || ended.contains p)

/-- The contexts lost are stopped and zeroised, and the launches of ended partitions that have not started end. -/
def State.ctxTake (s : State) (lost ended : List Nat) : State :=
  let s := lost.foldl (fun (s : State) k => s.dropCtx (k / 16) (k % 16) Code.offline Code.abortedByTake) s
  let s := { s with reels := { s.reels with scrubCtx := (s.reels.scrubCtx ++ lost).eraseDups } }
  (s.reels.launches.filter (fun l => ended.contains l.part)).foldl (fun (s : State) l => s.endLaunch l Code.abortedByTake) s

/-! ### Bindings (R149 to R152) -/

/-- Binding change `a` to `b` ends the binding. -/
def bindingEnds (a b : Nat) : Bool :=
  bValid a && (!bValid b || bPort a ≠ bPort b || bPart a ≠ bPart b || bEid a ≠ bEid b)

/-- Binding change `a` to `b` creates a binding. -/
def bindingBegins (a b : Nat) : Bool := bValid b && (!bValid a || bindingEnds a b)

/-- The extents that binding `b` held before the take and whose HELD and HOLDER it leaves (R152). -/
def State.stillHeld (s o : State) (p b : Nat) : List Nat :=
  (o.heldBy p b).filter (fun i =>
    let e := s.entry p i
    eValid e && eHeld e && eHolder e = b)

/-- A take ends binding `b` whose descriptor was `a`: what it holds is reclaimed, whatever its lease's state (R152). -/
def State.bindingEnd (s o : State) (b a : Nat) : State :=
  let s := (s.count (K.reclaimCounts 1) 1).reclaim b a 4 (s.stillHeld o (bPart a) b)
  let s := { s with lease := { s.lease with lastBeat := Tab.erase s.lease.lastBeat b } }
  (s.wrs [(K.leaseState b, 0), (K.leaseExpiry b, 0)]).windowReset b

/-- A take creates binding `b`: its lease is LIVE from this slate (R151), and nothing of an older binding of its number is kept for
retries (R152 step 5). -/
def State.bindingBegin (s : State) (b : Nat) : State :=
  let s := { s with ports := s.ports.map (fun (q : Nat × Port) => (q.1, { q.2 with cache := q.2.cache.filter (fun c => c.bind ≠ b) })) }
  let s := { s with lease := { s.lease with lastBeat := Tab.set s.lease.lastBeat b s.frame } }
  (s.wrs [(K.leaseState b, 1), (K.leaseExpiry b, s.frame + s.leaseE b), (K.cohHolderState b, 0)]).windowReset b

/-- The bindings that a take ends and creates: `c` lists (0, binding, old, new). -/
def State.bindingTake (s o : State) (c : List (Nat × Nat × Nat × Nat)) : State :=
  let s := (c.filter (fun x => bindingEnds x.2.2.1 x.2.2.2)).foldl (fun (s : State) x => s.bindingEnd o x.2.1 x.2.2.1) s
  (c.filter (fun x => bindingBegins x.2.2.1 x.2.2.2)).foldl (fun (s : State) x => s.bindingBegin x.2.1) s

/-! ### Publish regions (R154) -/

/-- The regions that a take creates start at version 0 with the view the descriptor names. WINNER_EID of a region that has had
no publisher reads 0 (DESIGN CHOICE, log entry 132), and PUBLISH_VERSIONS and PUBLISH_VIEWS of a region that a take deletes
keep their last values (DESIGN CHOICE, log entry 133). -/
def State.regionTake (s : State) (c : List (Nat × Nat × Nat × Nat)) : State :=
  (c.filter (fun x => !bit x.2.2.1 15 && bit x.2.2.2 15)).foldl (fun (s : State) x =>
    ({ s with pubBy := Tab.erase s.pubBy (x.1 * 4096 + x.2.1) } : State).wrs
      [(K.publishViews x.1 x.2.1, fld x.2.2.2 13 0), (K.publishVersions x.1 x.2.1, 0)]) s

/-! ### Pairs (10 R235 to R240) -/

/-- A take changes the descriptor of pair `n` from `a` to `b`. A primary that was the secondary starts in DEGRADED; one that is
DEGRADED and is given another port, peer or incarnation starts its resync if it has a usable port (R235, R238, R240). -/
def State.pairChange (s : State) (n a b : Nat) : State :=
  let fresh : Bool := !pdValid a || pdPart a ≠ pdPart b || pdExtent a ≠ pdExtent b
  let inc : Bool := pdInc a ≠ pdInc b
  let told : Bool := fld a 105 45 ≠ fld b 105 45
  let st := s.rd (K.pairState n)
  if !pdValid b then
    let s := if pdValid a && (st = 1 || st = 3) then s.degrade n else s
    ((List.range 36).foldl (fun (s : State) t => if s.dirtyAt n t = 0 then s else s.setDirty n t 0) s).wr (K.pairState n) 0
  else if pdSecondary b then s.wr (K.pairState n) 1
  else
    let promoted : Bool := pdValid a && pdSecondary a
    let s := if fresh || inc || promoted then s.allDirty n else s
    let st := if fresh then 3 else if promoted then 2 else if inc && st = 1 then 3
      else if told && st = 2 && (s.pairPort b).isSome then 3 else st
    s.wr (K.pairState n) st

/-- The pairs that a take changes; their ports are followed from there (R238). -/
def State.pairTake (s : State) (c : List (Nat × Nat × Nat × Nat)) : State :=
  if c.isEmpty then s else (c.foldl (fun (s : State) x => s.pairChange x.2.1 x.2.2.1 x.2.2.2) s).followPairPorts []

/-! ### Rings (11 R265) -/

/-- Ring `r` of partition `p` is rebound: its descriptor (NOTIFY aside), its engine's owner or an agent that its tasks use has
changed, or its partition has ended an incarnation. -/
def ringRebound (o t : State) (agents ended : List Nat) (p r : Nat) : Bool :=
  let a := o.ringDesc p r
  let b := t.ringDesc p r
  let eng := rgSlot a * 4 + rgEngine a
  rgValid a && (setFld a 114 92 0 ≠ setFld b 114 92 0 || ended.contains p
    || o.rd (K.engineOwner eng) ≠ t.rd (K.engineOwner eng)
    || (o.ringTasks p r).any (fun x => agents.contains (leAt x.desc 2 2)))

/-- The rings that a take rebinds end; those that it creates start empty, under their next incarnation (R247). -/
def State.ringTake (s o : State) (agents ended : List Nat) : State :=
  (List.range 1024).foldl (fun (s : State) k =>
    let p := k / 16
    let r := k % 16
    if ringRebound o s agents ended p r then s.ringEnds p r (o.ringDesc p r) (o.handleOf p)
    else if !rgValid (o.ringDesc p r) && rgValid (s.ringDesc p r) then s.setRing p r { inc := ((s.ring p r).inc + 1) % 2 ^ 22, state := 1 }
    else s) s

/-! ### Tile stores (R52, R53) -/

/-- Bytes of partition `p` beyond its quota at a slot are gone; what another partition gave up is zeroised before a partition
that grows there may use it: `c` lists the changes of STORE_QUOTAS. -/
def State.storeTake (s : State) (c : List (Nat × Nat × Nat × Nat)) : State :=
  let shrunk := (c.filter (fun x => x.2.2.2 < x.2.2.1)).map (fun x => x.2.1)
  let grown := (c.filter (fun x => x.2.2.1 < x.2.2.2 && shrunk.contains x.2.1)).map (fun x => x.2.1 * 64 + x.1)
  let cut := fun (cell : Host.Cell) => c.any (fun x =>
    cell.1 / 2 ^ 26 = x.2.1 * 64 + x.1 && x.2.2.2 < x.2.2.1 && x.2.2.2 * 1024 ≤ cell.1 % 2 ^ 26)
  { s with reels := { s.reels with
    store := s.reels.store.filter (fun cell => !cut cell)
    scrubStore := (s.reels.scrubStore ++ grown).eraseDups } }

/-! ### Seals and reel code (13 R298, 18 R405, R407) -/

/-- Seals of extents that the take rebinds or unseals end, and so does the seal in progress of one that it rebinds; `c` lists the
changes of extent map entries. What executes from such code stops, and the instruction caches drop its lines (13 R298). -/
def State.sealTake (s : State) (c : List (Nat × Nat × Nat × Nat)) (ended : List Nat) : State :=
  let gone := c.filter (fun x => eValid x.2.2.1 && (!extentStays x.2.2.1 x.2.2.2 || (eSealed x.2.2.1 && !eSealed x.2.2.2)))
  let s := gone.foldl (fun (s : State) x =>
    let s := s.updPart x.1 (fun q => { q with seals := Tab.erase q.seals x.2.1 })
    let s := if ((s.part x.1).sealJob).any (fun j => j.idx = x.2.1) then s.sealDiscard x.1 else s
    if eSealed x.2.2.1 then s.codeGone x.1 x.2.1 else s) s
  let s := ended.foldl (fun (s : State) p => s.sealDiscard p) s
  let stale := fun (l : Nat × List Byte) => gone.any (fun x =>
    l.1 / 2 ^ 48 = x.1 && l.1 % 2 ^ 48 / 2 ^ 28 = eTag x.2.2.1 * 2 ^ 14 + x.2.1)
  { s with reels := { s.reels with icache := s.reels.icache.map (fun (e : Nat × List (Nat × List Byte)) =>
    (e.1, e.2.filter (fun l => !stale l))) } }

/-! ### Applying a take (R42, R46 step 1) -/

/-- The armed take applies at this slate, and the take number advances; after 2^32 - 1 it is 0, which R42 does not state (DESIGN
CHOICE, log entry 121). -/
def State.applyTake (s : State) : State :=
  let o := s
  let c := o.takeChanges
  let t := o.shadow
  let freed := freedBy o t
  let reinc := reincBy o t
  let ended := freed ++ reinc
  let maps := changesIn c 0x3400 64 1
  let dxns := ((maps.map (fun x => dxnsNamed x.2.2.1 x.2.2.2)).flatten).eraseDups
  let remapped := (maps.filter (fun x => eValid x.2.2.1 && !extentStays x.2.2.1 x.2.2.2)).map (fun x => x.1 * 16384 + x.2.1)
  let unbound := ((changesIn c 0x3500 1 1).filter (fun x => bindingEnds x.2.2.1 x.2.2.2)).map (fun x => x.2.1)
  -- the old partitions' holdings and work end
  let s := (dxns.filter (fun d => (o.extentOf d).isSome && !sameExtent o t d)).foldl (fun (s : State) d => s.clearDir unbound d) s
  let s := s.ctxTake (lostCtxs o t ended) ended
  -- the live halves
  let s := s.takeIdle
  let s := c.foldl (fun (s : State) x => s.wr x.1 x.2.2) s
  let s := s.setTake { s.take with digestDue := false, digested := s.regs }
  let s := ended.foldl (fun (s : State) p => s.meshUnbind p) (s.partTake freed reinc (allocBy o t))
  let s := dxns.foldl (fun (s : State) d => s.dxnTake o d) s
  let s := s.bindingTake o (changesIn c 0x3500 1 1)
  let s := s.regionTake (changesIn c 0x3440 64 1)
  let s := s.pairTake (changesIn c 0x4602 1 1)
  let s := s.ringTake o ((changesIn c 0x4800 1 2).map (fun x => x.2.1)) ended
  let s := (s.reels.jobs.filter (fun j => ended.contains (handlePart j.req.h.handle))).foldl (fun (s : State) j => s.poolEnd j Code.abortedByTake) s
  let s := s.storeTake (changesIn c 0x2100 64 7)
  let s := s.sealTake maps ended
  let s := s.compTake ended remapped (((changesIn c 0x3500 1 1).filter (fun x => bindingEnds x.2.2.1 x.2.2.2)).map (fun x =>
    (bPort x.2.2.1, bPart x.2.2.1, bEid x.2.2.1)))
  let s := { s with boot := { s.boot with partResets := s.boot.partResets.filter (fun p => !ended.contains p) } }
  let s := if o.take.cont.isSome then s.relocSwap else s
  let s := { s with dailies := { s.dailies with took := true } }
  let s := s.showDegraded
  (s.wrs [(K.takeNumber, (o.rd K.takeNumber + 1) % 2 ^ 32), (K.takeAppliedFrame, s.frame)]).takeResult Code.ok 0

/-! ### The endings due (R46 step 2) -/

/-- Leases, quarantines and hammer throttles that end at this slate, judged under the take in force. -/
def State.endingsDue (s : State) : State :=
  let beats := s.lease.lastBeat.map (fun (e : Nat × Nat) => e.1)
  let s := beats.foldl (fun (s : State) b => (s.leaseExpire b).leaseLate b) s
  let s := s.linesGo
  let s := (s.quarantine.map (fun (e : Nat × Nat) => e.1)).foldl (fun (s : State) d => s.quarantineEnd d) s
  let s := (List.range 64).foldl (fun (s : State) p => s.quarantineEnds p) s
  s.stackTab.foldl (fun (s : State) e => (e.2.throttleEnd.map (fun (x : Nat × Nat) => x.1)).foldl (fun (s : State) p => s.throttleEnds e.1 p) s) s

/-! ### The call sheet (R46 step 3, R48) -/

/-- Burst and activation budgets of tile `t` for slot `slot` (08 R187, R196, R198, 21 R461). -/
def State.stackSheet (s : State) (slot t : Nat) : State :=
  let k := s.stack t
  let shares := (s.family 0x2100 64 5).filter (fun x => x.2.1 = slot)
  let acts := (s.family 0x2100 64 4).filter (fun x => x.2.1 = slot)
  let parts := ((shares.map (fun x => x.1)) ++ (acts.map (fun x => x.1))).eraseDups
  let half := fun (on : Bool) (v : Nat) => if on then (v + 1) / 2 else v
  let s := s.setStack t { k with
    burstUsed := [], actUsed := [], hammered := [], badReads := 0, retireWait := none
    refDue := (List.range 12).map (fun g => if s.rd (K.stackState t) = 0 then k.refDue.getD g 0 else k.refDue.getD g 0 + s.refreshHalves t g)
    budget := parts.foldl (fun (b : Tab (Nat × Nat)) p =>
      let shared : Bool := s.gaff.halved && !s.isSealed p
      let a := 8 * s.rd (K.actShares p slot)
      let a := if s.isThrottled t p then a * s.eff (K.hammerThrottle t) / 256 else a
      Tab.set b p (half k.protective (half shared (30 * s.rd (K.bwShares p slot))), half k.protective (half shared a))) [] }
  if k.protective then parts.foldl (fun (s : State) p => s.meterFlag p 1) s else s

/-- The refreshes that a frame brings to a stack in no slot: a relocation's target, and a source under test (08 R195). -/
def State.spareSheet (s : State) (t : Nat) : State :=
  if s.inService t ∨ s.rd (K.stackState t) = 0 then s
  else s.updStack t (fun k => { k with refDue := (List.range 12).map (fun g => k.refDue.getD g 0 + s.refreshHalves t g) })

/-- Mover budgets in engine cycles (11 R256): 1,984,000 cycles of the four engines of a slot. -/
def State.moverSheet (s : State) : State :=
  { s with mover := { s.mover with
    used := []
    budget := (s.family 0x2100 64 8).foldl (fun (b : Tab Nat) x => Tab.set b (x.2.1 * 64 + x.1) (x.2.2 * 1984000 / 4096)) [] } }

/-- What waited for a slot's allowance goes on (21 R456). -/
def State.allowanceGo (s : State) : State :=
  (List.range 32).foldl (fun (s : State) slot => s.release (.allowance slot) (fun (s : State) r => s.serveData r [] 0)) s

/-- The stores that moved in the frame that ends are in place, at the latest now (10 R229). -/
def State.moveEnds (s : State) : State :=
  match s.cont.moving with
  | none => s
  | some slot => (s.setCont { s.cont with moving := none }).release (.slotMove slot) (fun (s : State) r => s.serveData r [] 0)

/-- The entries that apply at a slate apply; a new pass length sets the frame of each scrub pass anew (09 R215). -/
def State.lagSlate (s : State) : State :=
  let pass := (Tab.find s.lag K.scrubPassSeconds).isSome
  let s := { s with lag := [] }
  if pass then
    (List.range 36).foldl (fun (s : State) t =>
      s.updStack t (fun k => { k with scrubFrame := scrubFrameAt s.passFrames (s.rd (K.scrubPosition t) % 2 ^ 32) })) s
  else s

/-- The reels at a slate: launches due start, and contexts are restored with the frame's budget (13 R304 to R308). -/
def State.reelSlate (s : State) : State :=
  let s := (List.range 512).foldl (fun (s : State) k => s.unsealCheck (k / 16) (k % 16)) s
  let s := (s.reels.launches.map (fun l => l.id)).foldl (fun (s : State) id =>
    match s.launch id with
    | some l => s.startLaunch l
    | none => s) s
  ((s.reels.ctxs.map (fun (e : Nat × Ctx) => e.1)).foldl (fun (s : State) k => s.restoreCtx (k / 16) (k % 16)) s).compSlate

/-- The port shares of a frame: from this slate they are of the capacity of the trained configuration (R49, 03 R88). -/
def State.portSheet (s : State) (p : Nat) : State :=
  let q := s.port p
  s.setPort p { q with
    usedIn := s.carryUse (s.shareCells p) q.usedIn, usedOut := s.carryUse (s.shareOut p) q.usedOut
    capCfg := some (s.rd (K.trainedConfig p)), lostIn := 0, lostOut := 0, resIn := 0, resOut := 0 }

/-- The call sheet of the frame that begins. -/
def State.callSheet (s : State) : State :=
  let held := s.gaff.held.any (fun k => !s.isSealed (k % 64))
  let s := (s.peakSlate held).energySlate
  let s := (List.range 32).foldl (fun (s : State) slot => s.stackSheet slot (s.tileAt slot)) s
  let s := (s.stackTab.map (fun (e : Nat × Stack) => e.1)).foldl (fun (s : State) t => s.spareSheet t) s
  let s := s.moverSheet
  (List.range 36).foldl (fun (s : State) p => s.portSheet p) s

/-- After a lead takeover, a frame that ends without its guard has no records: its counters are lost, and the loss is counted
(21 R451). -/
def State.lostRecords (s : State) : State :=
  if s.fl.inGuard ∨ s.rd K.leadIneligible = 0 then s else ({ s with meter := [] }).count (K.dailiesCounts 2) 1

/-- The slate that opens a frame (R46), `ptp` being the PTP time at it. A publish flip in progress ends before it (06 R156), and
TAKE_DIGEST takes in what the part itself changed before this slate (06 R153). -/
def State.slate (s : State) (ptp : Nat) : State :=
  let armed : Bool := s.takeState = 3
  let s := s.flips.foldl (fun (s : State) f => s.flipDone f.part f.region) s
  let s := ((s.lostRecords.clockSlate).nextNumber ptp).moveEnds.copySlate.drainSlate
  let s := if armed then s.applyTake
    else if s.take.digestDue then s.setTake { s.take with digestDue := false, digested := s.regs } else s
  let s := s.endingsDue
  let s := s.boot.partResets.foldl (fun (s : State) p => s.partReset p) s
  let s := { s with boot := { s.boot with partResets := [] } }
  let s := (List.range 64).foldl (fun (s : State) p => (s.lockSlate p).sealSlate p) s
  let s := s.lagSlate
  let s := s.serviceTiles.foldl (fun (s : State) t => s.dieAlerts t) s
  let s := s.showPending
  let s := ((List.range 64).foldl (fun (s : State) p => s.remeasure p) s).measureSlate
  let s := (s.links.map (fun (e : Nat × Link) => e.1)).foldl (fun (s : State) p => s.laneSlate p) s
  let s := (s.mesh.map (fun (e : Nat × MeshTile) => e.1)).foldl (fun (s : State) t => s.meshSlate t) s
  let s := s.callSheet
  let s := s.reelSlate
  let s := (((s.lease.grace ++ s.lease.silent).map (fun (e : Nat × Nat) => e.1)).eraseDups).foldl (fun (s : State) b => s.resendOwed b) s
  s.allowanceGo

/-- SLATE: the clocks run from the lock of the PLLs. -/
def execSlate (ptp : Nat) (s : State) : Out := .next (if s.boot.locked then s.slate ptp else s)

/-! ### The slate guard (R31) -/

/-- The scrub lines of the next frame (09 R215). -/
def State.scrubSheet (s : State) (t : Nat) : State :=
  let s := s.scrubSkip t
  let n := s.passFrames
  s.updStack t (fun k => { k with
    scrubLeft := if s.rd K.scrubEnable = 0 then 0 else scrubQuota n (k.scrubFrame % n)
    scrubFrame := if s.rd K.scrubEnable = 0 then k.scrubFrame else k.scrubFrame + 1 })

/-- The guard: contexts are saved, in full where their slot is about to move; the scrub quota of the next frame is set, and the
frame's records and the gaffer's cuts are made, `uj` being the package energy measured. -/
def State.slateGuard (s : State) (uj : Nat) : State :=
  let s := s.updFl (fun f => { f with inGuard := true, now := max f.now s.guardAt })
  let swap := if s.takeState = 2 ∨ s.takeState = 3 then s.take.cont.map (fun x => x.1) else none
  let s := (s.reels.ctxs.map (fun (e : Nat × Ctx) => e.1)).foldl (fun (s : State) k => s.saveCtx (k / 16) (k % 16) (decide (swap = some (k / 16)))) s
  let s := s.serviceTiles.foldl (fun (s : State) t => s.scrubSheet t) s
  (s.dailiesGuard uj).gafferGuard uj

/-- SLATE_GUARD. -/
def execSlateGuard (uj : Nat) (s : State) : Out :=
  .next (if s.boot.locked ∧ !s.fl.inGuard then s.slateGuard uj else s)

/-! ### Ends of scrubs (R52) -/

/-- REBIND_SCRUB_COMPLETE: the scrub of a rebound resource has ended, at time `t`: of context `b` of slot `a` (kind 0), of the
tile-store quota of partition `b` at slot `a` (1), of the slabs of ring `b` of partition `a` (2), of binding `a` (3). -/
def execRebindScrubComplete (kind a b t : Nat) (s : State) : Out :=
  let s := s.at t
  .next (
    if kind = 0 then
      let s := { s with reels := { s.reels with scrubCtx := s.reels.scrubCtx.filter (· ≠ a * 16 + b) } }
      s.release (.slotMove a) (fun (s : State) r => s.serveData r [] t)
    else if kind = 1 then { s with reels := { s.reels with scrubStore := s.reels.scrubStore.filter (· ≠ a * 64 + b) } }
    else if kind = 2 then
      { s with mover := { s.mover with tasks := s.mover.tasks.filter (fun x => !(x.part = a && x.ring = b && x.detached && x.written)) } }
    else if kind = 3 then s.reclaimDone a
    else s)

end Sys2Proof.Machine
end

