-- ==== Sys2Proof/Machine/Dispatch.lean ====
section
/-!
DEFINITION. The meaning of each command: one arm per constructor of `Instr`, each a direct call of its meaning.
-/

namespace Sys2Proof.Machine

/-- The effect of command `i` on everything but the queue of waiting commands. -/
def exec (i : Instr) (s : State) : Host.Outcome State Fault Refusal :=
  match i with
  | .slate ptp => Sys2Proof.Machine.execSlate ptp s
  | .slateGuard uj => Sys2Proof.Machine.execSlateGuard uj s
  | .slateTreeSilent => Sys2Proof.Machine.execSlateTreeSilent s
  | .slateInEdge off spacing => Sys2Proof.Machine.execSlateInEdge off spacing s
  | .slateInSourceLost => Sys2Proof.Machine.execSlateInSourceLost s
  | .slateInReacquire phase => Sys2Proof.Machine.execSlateInReacquire phase s
  | .ptpSync port dom best offset => Sys2Proof.Machine.execPtpSync port dom best offset s
  | .ptpLocked => Sys2Proof.Machine.execPtpLocked s
  | .ptpHoldover => Sys2Proof.Machine.execPtpHoldover s
  | .slateSourceWrite sess seq v t => Sys2Proof.Machine.execSlateSourceWrite sess seq v t s
  | .frameNumberLoad sess seq v t => Sys2Proof.Machine.execFrameNumberLoad sess seq v t s
  | .takeStageOpen sess seq v t => Sys2Proof.Machine.execTakeStageOpen sess seq v t s
  | .takeStageClose sess seq v t => Sys2Proof.Machine.execTakeStageClose sess seq v t s
  | .takeCommit sess seq v t => Sys2Proof.Machine.execTakeCommit sess seq v t s
  | .takeAbort sess seq v t => Sys2Proof.Machine.execTakeAbort sess seq v t s
  | .takeArmPoint acked => Sys2Proof.Machine.execTakeArmPoint acked s
  | .continuityTakeCommit t => Sys2Proof.Machine.execContinuityTakeCommit t s
  | .fecBlockDecode p bad => Sys2Proof.Machine.execFecBlockDecode p bad s
  | .lossOfLock p => Sys2Proof.Machine.execLossOfLock p s
  | .rxTransportCell p hdr payload crcOk tagOk noise t => Sys2Proof.Machine.execRxTransportCell p hdr payload crcOk tagOk noise t s
  | .rxKeyMark p hdr crcOk tagOk => Sys2Proof.Machine.execRxKeyMark p hdr crcOk tagOk s
  | .rxIdleCell p hdr payload crcOk tagOk => Sys2Proof.Machine.execRxIdleCell p hdr payload crcOk tagOk s
  | .rxReplayReq p hdr payload crcOk tagOk => Sys2Proof.Machine.execRxReplayReq p hdr payload crcOk tagOk s
  | .rxCreditSync p hdr payload crcOk tagOk => Sys2Proof.Machine.execRxCreditSync p hdr payload crcOk tagOk s
  | .rxSpliceReq p hdr payload crcOk tagOk => Sys2Proof.Machine.execRxSpliceReq p hdr payload crcOk tagOk s
  | .rxSpliceAck p hdr payload crcOk tagOk => Sys2Proof.Machine.execRxSpliceAck p hdr payload crcOk tagOk s
  | .rxSplicePause p hdr payload crcOk tagOk => Sys2Proof.Machine.execRxSplicePause p hdr payload crcOk tagOk s
  | .rxReservedCtype p hdr crcOk => Sys2Proof.Machine.execRxReservedCtype p hdr crcOk s
  | .tagFailureLimit p => Sys2Proof.Machine.execTagFailureLimit p s
  | .reservedCtypeLimit p => Sys2Proof.Machine.execReservedCtypeLimit p s
  | .txSequencedCell p vc => Sys2Proof.Machine.execTxSequencedCell p vc s
  | .replayTimeout p => Sys2Proof.Machine.execReplayTimeout p s
  | .replayResendLimit p => Sys2Proof.Machine.execReplayResendLimit p s
  | .replayReqHoldoff p => Sys2Proof.Machine.execReplayReqHoldoff p s
  | .creditRefresh p vc => Sys2Proof.Machine.execCreditRefresh p vc s
  | .keyPhaseFlip p => Sys2Proof.Machine.execKeyPhaseFlip p s
  | .rekeyLimit p => Sys2Proof.Machine.execRekeyLimit p s
  | .laneMarkedBad p lane => Sys2Proof.Machine.execLaneMarkedBad p lane s
  | .uncorrLimitExceeded p => Sys2Proof.Machine.execUncorrLimitExceeded p s
  | .spliceCmdWidth sess seq p width speed mask t => Sys2Proof.Machine.execSpliceCmdWidth sess seq p width speed mask t s
  | .spliceCmdRecalibrate sess seq p width speed mask t => Sys2Proof.Machine.execSpliceCmdRecalibrate sess seq p width speed mask t s
  | .spliceCmdSpeed sess seq p width speed mask t => Sys2Proof.Machine.execSpliceCmdSpeed sess seq p width speed mask t s
  | .spliceCmdDegrade sess seq p width speed mask t => Sys2Proof.Machine.execSpliceCmdDegrade sess seq p width speed mask t s
  | .trainingStateAdvance p words ask => Sys2Proof.Machine.execTrainingStateAdvance p words ask s
  | .ts4CountdownEnd p word polarity us peer t => Sys2Proof.Machine.execTs4CountdownEnd p word polarity us peer t s
  | .spliceResponseTimeout p => Sys2Proof.Machine.execSpliceResponseTimeout p s
  | .spliceBoundExceeded p us => Sys2Proof.Machine.execSpliceBoundExceeded p us s
  | .lockHoldExpiry p => Sys2Proof.Machine.execLockHoldExpiry p s
  | .linkUpFailed p => Sys2Proof.Machine.execLinkUpFailed p s
  | .failedPortRetry p => Sys2Proof.Machine.execFailedPortRetry p s
  | .rxReservedOpcode port op h t => Sys2Proof.Machine.execRxReservedOpcode port op h t s
  | .read port h addr len noise t => Sys2Proof.Machine.execRead port h addr len noise t s
  | .write port h addr data noise t => Sys2Proof.Machine.execWrite port h addr data noise t s
  | .atomic port h addr op size a b noise t => Sys2Proof.Machine.execAtomic port h addr op size a b noise t s
  | .fence port h t => Sys2Proof.Machine.execFence port h t s
  | .fenceRelease port id noise t => Sys2Proof.Machine.execFenceRelease port id noise t s
  | .heartbeat port h t => Sys2Proof.Machine.execHeartbeat port h t s
  | .poolOpFill port h addr len plen pat t => Sys2Proof.Machine.execPoolOpFill port h addr len plen pat t s
  | .poolOpCopy port h dst src len t => Sys2Proof.Machine.execPoolOpCopy port h dst src len t s
  | .poolOpCompare port h a b len t => Sys2Proof.Machine.execPoolOpCompare port h a b len t s
  | .poolOpReduce port h fmt func addr len t => Sys2Proof.Machine.execPoolOpReduce port h fmt func addr len t s
  | .poolOpDequeue slot p => Sys2Proof.Machine.execPoolOpDequeue slot p s
  | .stagingBufferGrant slot => Sys2Proof.Machine.execStagingBufferGrant slot s
  | .poolOpWindowComplete port id w slot => Sys2Proof.Machine.execPoolOpWindowComplete port id w slot s
  | .poolOpComplete port id => Sys2Proof.Machine.execPoolOpComplete port id s
  | .publish port h region staging base t => Sys2Proof.Machine.execPublish port h region staging base t s
  | .publishDeferredStart p g t => Sys2Proof.Machine.execPublishDeferredStart p g t s
  | .publishFlipComplete p g => Sys2Proof.Machine.execPublishFlipComplete p g s
  | .publishQuery port h region t => Sys2Proof.Machine.execPublishQuery port h region t s
  | .contrib port h comp contributor count offset fmt data t => Sys2Proof.Machine.execContrib port h comp contributor count offset fmt data t s
  | .rdShared port h addr t => Sys2Proof.Machine.execRdShared port h addr t s
  | .rdOwn port h addr t => Sys2Proof.Machine.execRdOwn port h addr t s
  | .upgrade port h addr t => Sys2Proof.Machine.execUpgrade port h addr t s
  | .dirtyNotify port h addr t => Sys2Proof.Machine.execDirtyNotify port h addr t s
  | .writeback port h addr line t => Sys2Proof.Machine.execWriteback port h addr line t s
  | .evictClean port h addr t => Sys2Proof.Machine.execEvictClean port h addr t s
  | .fwdAck port h outcome kept line t => Sys2Proof.Machine.execFwdAck port h outcome kept line t s
  | .backInvalAck port h line t => Sys2Proof.Machine.execBackInvalAck port h line t s
  | .uncachedRecallComplete ln t => Sys2Proof.Machine.execUncachedRecallComplete ln t s
  | .dirEvictionComplete ln t => Sys2Proof.Machine.execDirEvictionComplete ln t s
  | .cohGraceExpiry b => Sys2Proof.Machine.execCohGraceExpiry b s
  | .awaitedWritebackTimeout ln => Sys2Proof.Machine.execAwaitedWritebackTimeout ln s
  | .invalidateReq port h ctx start len t => Sys2Proof.Machine.execInvalidateReq port h ctx start len t s
  | .invalidateDrainComplete port id => Sys2Proof.Machine.execInvalidateDrainComplete port id s
  | .pairWrite port h pair offset data t => Sys2Proof.Machine.execPairWrite port h pair offset data t s
  | .pairWriteResp port h t => Sys2Proof.Machine.execPairWriteResp port h t s
  | .pairResyncSend n tile t => Sys2Proof.Machine.execPairResyncSend n tile t s
  | .doorbell port h index value t => Sys2Proof.Machine.execDoorbell port h index value t s
  | .doorbellResp port h t => Sys2Proof.Machine.execDoorbellResp port h t s
  | .notifyAck port h t => Sys2Proof.Machine.execNotifyAck port h t s
  | .windowRead port h off len t => Sys2Proof.Machine.execWindowRead port h off len t s
  | .windowWrite port h off data t => Sys2Proof.Machine.execWindowWrite port h off data t s
  | .mgmt port h magic ver p ecdsaOk mldsaOk t => Sys2Proof.Machine.execMgmt port h magic ver p ecdsaOk mldsaOk t s
  | .mgmtResp port h t => Sys2Proof.Machine.execMgmtResp port h t s
  | .homeRecheck port id noise t => Sys2Proof.Machine.execHomeRecheck port id noise t s
  | .inboundQueueDispatch port p t => Sys2Proof.Machine.execInboundQueueDispatch port p t s
  | .partReqTimeout port dst tag epoch t => Sys2Proof.Machine.execPartReqTimeout port dst tag epoch t s
  | .completionCacheExpiry port => Sys2Proof.Machine.execCompletionCacheExpiry port s
  | .meshMessageComplete k bufs t => Sys2Proof.Machine.execMeshMessageComplete k bufs t s
  | .throttleEnter tile req rsp sreq srsp t => Sys2Proof.Machine.execThrottleEnter tile req rsp sreq srsp t s
  | .throttleLeave tile req rsp sreq srsp t => Sys2Proof.Machine.execThrottleLeave tile req rsp sreq srsp t s
  | .meshHeaderDoubleError tile => Sys2Proof.Machine.execMeshHeaderDoubleError tile s
  | .cryptoErase dxn => Sys2Proof.Machine.execCryptoErase dxn s
  | .keyDraw dxn => Sys2Proof.Machine.execKeyDraw dxn s
  | .leaseLate b => Sys2Proof.Machine.execLeaseLate b s
  | .leaseExpiry b => Sys2Proof.Machine.execLeaseExpiry b s
  | .leaseReclaimComplete b => Sys2Proof.Machine.execLeaseReclaimComplete b s
  | .deviceExtentQuarantineEnd dxn => Sys2Proof.Machine.execDeviceExtentQuarantineEnd dxn s
  | .dirProbe sess seq part va t => Sys2Proof.Machine.execDirProbe sess seq part va t s
  | .stackBurstPick tile pc k ready => Sys2Proof.Machine.execStackBurstPick tile pc k ready s
  | .perBankRefresh tile pc bank t => Sys2Proof.Machine.execPerBankRefresh tile pc bank t s
  | .targetedRefresh tile pc bank t => Sys2Proof.Machine.execTargetedRefresh tile pc bank t s
  | .hammerThrottleStart tile p => Sys2Proof.Machine.execHammerThrottleStart tile p s
  | .hammerThrottleEnd tile p => Sys2Proof.Machine.execHammerThrottleEnd tile p s
  | .powerDownEntry tile pc t => Sys2Proof.Machine.execPowerDownEntry tile pc t s
  | .trainReadEye sess seq tile v t => Sys2Proof.Machine.execTrainReadEye sess seq tile v t s
  | .trainWriteEye sess seq tile v t => Sys2Proof.Machine.execTrainWriteEye sess seq tile v t s
  | .trainCommandAddress sess seq tile v t => Sys2Proof.Machine.execTrainCommandAddress sess seq tile v t s
  | .trainVerify sess seq tile v t => Sys2Proof.Machine.execTrainVerify sess seq tile v t s
  | .trainStepComplete tile errs mid dur => Sys2Proof.Machine.execTrainStepComplete tile errs mid dur s
  | .retrainReq sess seq tile v t => Sys2Proof.Machine.execRetrainReq sess seq tile v t s
  | .retrainStart tile t => Sys2Proof.Machine.execRetrainStart tile t s
  | .retrainComplete tile ok taps dur => Sys2Proof.Machine.execRetrainComplete tile ok taps dur s
  | .uncorrectableRetry ln noise t => Sys2Proof.Machine.execUncorrectableRetry ln noise t s
  | .poisonSignatureWrite ln t => Sys2Proof.Machine.execPoisonSignatureWrite ln t s
  | .scrubRead tile noise t => Sys2Proof.Machine.execScrubRead tile noise t s
  | .scrubEnableWrite sess seq v t => Sys2Proof.Machine.execScrubEnableWrite sess seq v t s
  | .dieRetireWrite sess seq tile v t => Sys2Proof.Machine.execDieRetireWrite sess seq tile v t s
  | .dieAlertCheck tile => Sys2Proof.Machine.execDieAlertCheck tile s
  | .testWriteRaw sess seq v t => Sys2Proof.Machine.execTestWriteRaw sess seq v t s
  | .testWriteEncoded sess seq v t => Sys2Proof.Machine.execTestWriteEncoded sess seq v t s
  | .testRead sess seq v t => Sys2Proof.Machine.execTestRead sess seq v t s
  | .testOpExecute noise t => Sys2Proof.Machine.execTestOpExecute noise t s
  | .fillStart tile => Sys2Proof.Machine.execFillStart tile s
  | .fillComplete tile ms => Sys2Proof.Machine.execFillComplete tile ms s
  | .fillTimeout => Sys2Proof.Machine.execFillTimeout s
  | .relocRelocate sess seq v t => Sys2Proof.Machine.execRelocRelocate sess seq v t s
  | .relocSelftest sess seq v t => Sys2Proof.Machine.execRelocSelftest sess seq v t s
  | .relocReturn sess seq v t => Sys2Proof.Machine.execRelocReturn sess seq v t s
  | .relocAutoStart slot => Sys2Proof.Machine.execRelocAutoStart slot s
  | .relocPrepareComplete ok => Sys2Proof.Machine.execRelocPrepareComplete ok s
  | .relocCopyComplete => Sys2Proof.Machine.execRelocCopyComplete s
  | .relocDrainComplete => Sys2Proof.Machine.execRelocDrainComplete s
  | .selftestComplete code => Sys2Proof.Machine.execSelftestComplete code s
  | .stackLost tile => Sys2Proof.Machine.execStackLost tile s
  | .ringDoorbell port h r v t => Sys2Proof.Machine.execRingDoorbell port h r v t s
  | .descriptorFetch p r => Sys2Proof.Machine.execDescriptorFetch p r s
  | .translateResp port h body t => Sys2Proof.Machine.execTranslateResp port h body t s
  | .pageResp port h t => Sys2Proof.Machine.execPageResp port h t s
  | .moverChunkStart slot engine t => Sys2Proof.Machine.execMoverChunkStart slot engine t s
  | .moveWriteResp port h t => Sys2Proof.Machine.execMoveWriteResp port h t s
  | .moveReadResp port h data t => Sys2Proof.Machine.execMoveReadResp port h data t s
  | .moverTaskComplete p r slab => Sys2Proof.Machine.execMoverTaskComplete p r slab s
  | .completionRecordAck p r slab => Sys2Proof.Machine.execCompletionRecordAck p r slab s
  | .ringHaltComplete p r => Sys2Proof.Machine.execRingHaltComplete p r s
  | .ringRestart port h r v t => Sys2Proof.Machine.execRingRestart port h r v t s
  | .slabProbe sess seq v t => Sys2Proof.Machine.execSlabProbe sess seq v t s
  | .go port h v t => Sys2Proof.Machine.execGo port h v t s
  | .cycleBudgetExhausted slot ctx t => Sys2Proof.Machine.execCycleBudgetExhausted slot ctx t s
  | .barrierArrival slot ctx => Sys2Proof.Machine.execBarrierArrival slot ctx s
  | .barrierRelease slot ctx => Sys2Proof.Machine.execBarrierRelease slot ctx s
  | .postedStoreRefusal slot ctx => Sys2Proof.Machine.execPostedStoreRefusal slot ctx s
  | .contextClear port h v t => Sys2Proof.Machine.execContextClear port h v t s
  | .eventConsumed port h v t => Sys2Proof.Machine.execEventConsumed port h v t s
  | .illegalInstruction slot ctx stall t => Sys2Proof.Machine.execIllegalInstruction slot ctx stall t s
  | .add slot ctx stall t => Sys2Proof.Machine.execAdd slot ctx stall t s
  | .sub slot ctx stall t => Sys2Proof.Machine.execSub slot ctx stall t s
  | .mul slot ctx stall t => Sys2Proof.Machine.execMul slot ctx stall t s
  | .mulhu slot ctx stall t => Sys2Proof.Machine.execMulhu slot ctx stall t s
  | .and slot ctx stall t => Sys2Proof.Machine.execAnd slot ctx stall t s
  | .or slot ctx stall t => Sys2Proof.Machine.execOr slot ctx stall t s
  | .xor slot ctx stall t => Sys2Proof.Machine.execXor slot ctx stall t s
  | .shl slot ctx stall t => Sys2Proof.Machine.execShl slot ctx stall t s
  | .shr slot ctx stall t => Sys2Proof.Machine.execShr slot ctx stall t s
  | .sar slot ctx stall t => Sys2Proof.Machine.execSar slot ctx stall t s
  | .slt slot ctx stall t => Sys2Proof.Machine.execSlt slot ctx stall t s
  | .sltu slot ctx stall t => Sys2Proof.Machine.execSltu slot ctx stall t s
  | .li slot ctx stall t => Sys2Proof.Machine.execLi slot ctx stall t s
  | .lih slot ctx stall t => Sys2Proof.Machine.execLih slot ctx stall t s
  | .br slot ctx stall t => Sys2Proof.Machine.execBr slot ctx stall t s
  | .jal slot ctx stall t => Sys2Proof.Machine.execJal slot ctx stall t s
  | .jr slot ctx stall t => Sys2Proof.Machine.execJr slot ctx stall t s
  | .sopen slot ctx stall t => Sys2Proof.Machine.execSopen slot ctx stall t s
  | .sclose slot ctx stall t => Sys2Proof.Machine.execSclose slot ctx stall t s
  | .spos slot ctx stall t => Sys2Proof.Machine.execSpos slot ctx stall t s
  | .srd slot ctx stall t => Sys2Proof.Machine.execSrd slot ctx stall t s
  | .srdx slot ctx stall t => Sys2Proof.Machine.execSrdx slot ctx stall t s
  | .tldg slot ctx stall dbl t => Sys2Proof.Machine.execTldg slot ctx stall dbl t s
  | .tstg slot ctx stall t => Sys2Proof.Machine.execTstg slot ctx stall t s
  | .tldv slot ctx stall dbl t => Sys2Proof.Machine.execTldv slot ctx stall dbl t s
  | .tstv slot ctx stall t => Sys2Proof.Machine.execTstv slot ctx stall t s
  | .tldq slot ctx stall dbl t => Sys2Proof.Machine.execTldq slot ctx stall dbl t s
  | .tstq slot ctx stall t => Sys2Proof.Machine.execTstq slot ctx stall t s
  | .tldm slot ctx stall dbl t => Sys2Proof.Machine.execTldm slot ctx stall dbl t s
  | .tstm slot ctx stall t => Sys2Proof.Machine.execTstm slot ctx stall t s
  | .pldg slot ctx stall t => Sys2Proof.Machine.execPldg slot ctx stall t s
  | .pstg slot ctx stall t => Sys2Proof.Machine.execPstg slot ctx stall t s
  | .pstv slot ctx stall t => Sys2Proof.Machine.execPstv slot ctx stall t s
  | .vadd slot ctx stall t => Sys2Proof.Machine.execVadd slot ctx stall t s
  | .vsub slot ctx stall t => Sys2Proof.Machine.execVsub slot ctx stall t s
  | .vmul slot ctx stall t => Sys2Proof.Machine.execVmul slot ctx stall t s
  | .vfma slot ctx stall t => Sys2Proof.Machine.execVfma slot ctx stall t s
  | .vmin slot ctx stall t => Sys2Proof.Machine.execVmin slot ctx stall t s
  | .vmax slot ctx stall t => Sys2Proof.Machine.execVmax slot ctx stall t s
  | .vand slot ctx stall t => Sys2Proof.Machine.execVand slot ctx stall t s
  | .vor slot ctx stall t => Sys2Proof.Machine.execVor slot ctx stall t s
  | .vxor slot ctx stall t => Sys2Proof.Machine.execVxor slot ctx stall t s
  | .vcmpEq slot ctx stall t => Sys2Proof.Machine.execVcmpEq slot ctx stall t s
  | .vcmpNe slot ctx stall t => Sys2Proof.Machine.execVcmpNe slot ctx stall t s
  | .vcmpLt slot ctx stall t => Sys2Proof.Machine.execVcmpLt slot ctx stall t s
  | .vcmpLe slot ctx stall t => Sys2Proof.Machine.execVcmpLe slot ctx stall t s
  | .vsel slot ctx stall t => Sys2Proof.Machine.execVsel slot ctx stall t s
  | .vbcast slot ctx stall t => Sys2Proof.Machine.execVbcast slot ctx stall t s
  | .vmov slot ctx stall t => Sys2Proof.Machine.execVmov slot ctx stall t s
  | .qrd slot ctx stall t => Sys2Proof.Machine.execQrd slot ctx stall t s
  | .qwr slot ctx stall t => Sys2Proof.Machine.execQwr slot ctx stall t s
  | .qzero slot ctx stall t => Sys2Proof.Machine.execQzero slot ctx stall t s
  | .mopAnd slot ctx stall t => Sys2Proof.Machine.execMopAnd slot ctx stall t s
  | .mopOr slot ctx stall t => Sys2Proof.Machine.execMopOr slot ctx stall t s
  | .mopXor slot ctx stall t => Sys2Proof.Machine.execMopXor slot ctx stall t s
  | .mopAndNot slot ctx stall t => Sys2Proof.Machine.execMopAndNot slot ctx stall t s
  | .mset slot ctx stall t => Sys2Proof.Machine.execMset slot ctx stall t s
  | .mfs slot ctx stall rows t => Sys2Proof.Machine.execMfs slot ctx stall rows t s
  | .mfsTransposed slot ctx stall rows t => Sys2Proof.Machine.execMfsTransposed slot ctx stall rows t s
  | .sfnExp2 slot ctx stall t => Sys2Proof.Machine.execSfnExp2 slot ctx stall t s
  | .sfnLog2 slot ctx stall t => Sys2Proof.Machine.execSfnLog2 slot ctx stall t s
  | .sfnReciprocal slot ctx stall t => Sys2Proof.Machine.execSfnReciprocal slot ctx stall t s
  | .sfnRsqrt slot ctx stall t => Sys2Proof.Machine.execSfnRsqrt slot ctx stall t s
  | .sfnTanh slot ctx stall t => Sys2Proof.Machine.execSfnTanh slot ctx stall t s
  | .vcvt slot ctx stall t => Sys2Proof.Machine.execVcvt slot ctx stall t s
  | .vqnt slot ctx stall t => Sys2Proof.Machine.execVqnt slot ctx stall t s
  | .vdq slot ctx stall t => Sys2Proof.Machine.execVdq slot ctx stall t s
  | .vredSum slot ctx stall t => Sys2Proof.Machine.execVredSum slot ctx stall t s
  | .vredMin slot ctx stall t => Sys2Proof.Machine.execVredMin slot ctx stall t s
  | .vredMax slot ctx stall t => Sys2Proof.Machine.execVredMax slot ctx stall t s
  | .vredArgmax slot ctx stall t => Sys2Proof.Machine.execVredArgmax slot ctx stall t s
  | .topk slot ctx stall t => Sys2Proof.Machine.execTopk slot ctx stall t s
  | .reelContrib slot ctx stall cut t => Sys2Proof.Machine.execReelContrib slot ctx stall cut t s
  | .bar slot ctx stall t => Sys2Proof.Machine.execBar slot ctx stall t s
  | .cut slot ctx stall t => Sys2Proof.Machine.execCut slot ctx stall t s
  | .sysrFrame slot ctx stall t => Sys2Proof.Machine.execSysrFrame slot ctx stall t s
  | .sysrBudget slot ctx stall t => Sys2Proof.Machine.execSysrBudget slot ctx stall t s
  | .sysrGuardCycles slot ctx stall t => Sys2Proof.Machine.execSysrGuardCycles slot ctx stall t s
  | .sysrFpFlags slot ctx stall t => Sys2Proof.Machine.execSysrFpFlags slot ctx stall t s
  | .sysrSlot slot ctx stall t => Sys2Proof.Machine.execSysrSlot slot ctx stall t s
  | .sysrContext slot ctx stall t => Sys2Proof.Machine.execSysrContext slot ctx stall t s
  | .sysrSrCounter slot ctx stall t => Sys2Proof.Machine.execSysrSrCounter slot ctx stall t s
  | .sysrLaunchTag slot ctx stall t => Sys2Proof.Machine.execSysrLaunchTag slot ctx stall t s
  | .sysrSplitMode slot ctx stall t => Sys2Proof.Machine.execSysrSplitMode slot ctx stall t s
  | .clrf slot ctx stall t => Sys2Proof.Machine.execClrf slot ctx stall t s
  | .nop slot ctx stall t => Sys2Proof.Machine.execNop slot ctx stall t s
  | .dbell slot ctx stall t => Sys2Proof.Machine.execDbell slot ctx stall t s
  | .mbxrecv slot ctx stall t => Sys2Proof.Machine.execMbxrecv slot ctx stall t s
  | .mbxack slot ctx stall t => Sys2Proof.Machine.execMbxack slot ctx stall t s
  | .mbxsend slot ctx stall t => Sys2Proof.Machine.execMbxsend slot ctx stall t s
  | .endReel slot ctx stall t => Sys2Proof.Machine.execEndReel slot ctx stall t s
  | .compCreate port h v t => Sys2Proof.Machine.execCompCreate port h v t s
  | .compExcuse port h v t => Sys2Proof.Machine.execCompExcuse port h v t s
  | .compClose port h v t => Sys2Proof.Machine.execCompClose port h v t s
  | .chunkComplete n chunk => Sys2Proof.Machine.execChunkComplete n chunk s
  | .compositeComplete n => Sys2Proof.Machine.execCompositeComplete n s
  | .compositeStall n => Sys2Proof.Machine.execCompositeStall n s
  | .partitionQuarantineEnd p => Sys2Proof.Machine.execPartitionQuarantineEnd p s
  | .lockRequest sess seq p inc digest t => Sys2Proof.Machine.execLockRequest sess seq p inc digest t s
  | .unlockRequest sess seq p token t => Sys2Proof.Machine.execUnlockRequest sess seq p token t s
  | .drbgReseed => Sys2Proof.Machine.execDrbgReseed s
  | .drbgHealthFailure tile => Sys2Proof.Machine.execDrbgHealthFailure tile s
  | .spdmGetVersion via source h t => Sys2Proof.Machine.execSpdmGetVersion via source h t s
  | .spdmGetCapabilities via source h mutAuth t => Sys2Proof.Machine.execSpdmGetCapabilities via source h mutAuth t s
  | .spdmNegotiateAlgorithms via source h offered t => Sys2Proof.Machine.execSpdmNegotiateAlgorithms via source h offered t s
  | .spdmGetDigests via source h t => Sys2Proof.Machine.execSpdmGetDigests via source h t s
  | .spdmGetCertificate via source h slot off len t => Sys2Proof.Machine.execSpdmGetCertificate via source h slot off len t s
  | .spdmChallenge via source h slot summary tr t => Sys2Proof.Machine.execSpdmChallenge via source h slot summary tr t s
  | .spdmGetMeasurements via source h index sign slot tr t => Sys2Proof.Machine.execSpdmGetMeasurements via source h index sign slot tr t s
  | .spdmKeyExchange via source h reqId summary pub ek tr t => Sys2Proof.Machine.execSpdmKeyExchange via source h reqId summary pub ek tr t s
  | .spdmFinish via source h ok chain root t => Sys2Proof.Machine.execSpdmFinish via source h ok chain root t s
  | .spdmHeartbeat via source h sess sq macOk t => Sys2Proof.Machine.execSpdmHeartbeat via source h sess sq macOk t s
  | .spdmKeyUpdate via source h sess sq macOk op t => Sys2Proof.Machine.execSpdmKeyUpdate via source h sess sq macOk op t s
  | .spdmEndSession via source h sess sq macOk t => Sys2Proof.Machine.execSpdmEndSession via source h sess sq macOk t s
  | .linkSpdmAttempt p t => Sys2Proof.Machine.execLinkSpdmAttempt p t s
  | .spdmResponseReceived p h r t => Sys2Proof.Machine.execSpdmResponseReceived p h r t s
  | .spdmAttemptRetry p t => Sys2Proof.Machine.execSpdmAttemptRetry p t s
  | .sealRequest sess seq p data t => Sys2Proof.Machine.execSealRequest sess seq p data t s
  | .sealHashComplete p => Sys2Proof.Machine.execSealHashComplete p s
  | .debugBscan sess seq v t => Sys2Proof.Machine.execDebugBscan sess seq v t s
  | .debugCoreDebug sess seq v t => Sys2Proof.Machine.execDebugCoreDebug sess seq v t s
  | .debugInternalScan sess seq v t => Sys2Proof.Machine.execDebugInternalScan sess seq v t s
  | .mgmtDatagram n source magic ver p ecdsaOk mldsaOk t => Sys2Proof.Machine.execMgmtDatagram n source magic ver p ecdsaOk mldsaOk t s
  | .securedMessage via source h sess sq macOk app ecdsaOk mldsaOk t => Sys2Proof.Machine.execSecuredMessage via source h sess sq macOk app ecdsaOk mldsaOk t s
  | .mgmtNetworkPacket n kind target data => Sys2Proof.Machine.execMgmtNetworkPacket n kind target data s
  | .fligiferRead sess seq idx sub off n shadow t => Sys2Proof.Machine.execFligiferRead sess seq idx sub off n shadow t s
  | .fligiferWrite sess seq idx sub off data t => Sys2Proof.Machine.execFligiferWrite sess seq idx sub off data t s
  | .blockOpen sess seq idx sub off size rd t => Sys2Proof.Machine.execBlockOpen sess seq idx sub off size rd t s
  | .blockData sess seq id pos len data t => Sys2Proof.Machine.execBlockData sess seq id pos len data t s
  | .blockCommit sess seq id digest ecdsaOk mldsaOk t => Sys2Proof.Machine.execBlockCommit sess seq id digest ecdsaOk mldsaOk t s
  | .blockCancel sess seq id t => Sys2Proof.Machine.execBlockCancel sess seq id t s
  | .firmwareActivate sess seq v t => Sys2Proof.Machine.execFirmwareActivate sess seq v t s
  | .managerAnchorsWrite sess seq off data t => Sys2Proof.Machine.execManagerAnchorsWrite sess seq off data t s
  | .subscribe sess seq id parts start t => Sys2Proof.Machine.execSubscribe sess seq id parts start t s
  | .unsubscribe sess seq id t => Sys2Proof.Machine.execUnsubscribe sess seq id t s
  | .dailiesDataSend id n => Sys2Proof.Machine.execDailiesDataSend id n s
  | .dailiesAck sess seq id t => Sys2Proof.Machine.execDailiesAck sess seq id t s
  | .dailiesResend id => Sys2Proof.Machine.execDailiesResend id s
  | .sessionIdleTimeout sess => Sys2Proof.Machine.execSessionIdleTimeout sess s
  | .sessionHeartbeatTimeout sess => Sys2Proof.Machine.execSessionHeartbeatTimeout sess s
  | .errClear port h v t => Sys2Proof.Machine.execErrClear port h v t s
  | .mgmtCmdPing b => Sys2Proof.Machine.execMgmtCmdPing b s
  | .mgmtCmdLease b => Sys2Proof.Machine.execMgmtCmdLease b s
  | .mgmtCmdTake b => Sys2Proof.Machine.execMgmtCmdTake b s
  | .pubStateRead port h t => Sys2Proof.Machine.execPubStateRead port h t s
  | .mbxIn port h slot ctx v t => Sys2Proof.Machine.execMbxIn port h slot ctx v t s
  | .mbxOutState port h slot ctx v t => Sys2Proof.Machine.execMbxOutState port h slot ctx v t s
  | .rollupSign m => Sys2Proof.Machine.execRollupSign m s
  | .sensorSample tile vals t => Sys2Proof.Machine.execSensorSample tile vals t s
  | .allowanceReached slot p => Sys2Proof.Machine.execAllowanceReached slot p s
  | .sharedBudgetHalving => Sys2Proof.Machine.execSharedBudgetHalving s
  | .peakWindowArm => Sys2Proof.Machine.execPeakWindowArm s
  | .peakWindowExpiry => Sys2Proof.Machine.execPeakWindowExpiry s
  | .coolantReport sess seq v t => Sys2Proof.Machine.execCoolantReport sess seq v t s
  | .coolantReportStale => Sys2Proof.Machine.execCoolantReportStale s
  | .powerOn => Sys2Proof.Machine.execPowerOn s
  | .brownOut => Sys2Proof.Machine.execBrownOut s
  | .resetNAssert ns seen => Sys2Proof.Machine.execResetNAssert ns seen s
  | .coldBoot => Sys2Proof.Machine.execColdBoot s
  | .fuseReadComplete => Sys2Proof.Machine.execFuseReadComplete s
  | .pllLock => Sys2Proof.Machine.execPllLock s
  | .pllLockTimeout => Sys2Proof.Machine.execPllLockTimeout s
  | .refclkFailure => Sys2Proof.Machine.execRefclkFailure s
  | .pwrgdLow => Sys2Proof.Machine.execPwrgdLow s
  | .wresetN ns seen t => Sys2Proof.Machine.execWresetN ns seen t s
  | .watchdogExpiry t => Sys2Proof.Machine.execWatchdogExpiry t s
  | .warmResetReq sess seq v t => Sys2Proof.Machine.execWarmResetReq sess seq v t s
  | .tapWarmReset t => Sys2Proof.Machine.execTapWarmReset t s
  | .coreLockup t => Sys2Proof.Machine.execCoreLockup t s
  | .leadHeartbeatMissing t => Sys2Proof.Machine.execLeadHeartbeatMissing t s
  | .tileReset tile cause => Sys2Proof.Machine.execTileReset tile cause s
  | .resetNotice tile => Sys2Proof.Machine.execResetNotice tile s
  | .partitionReset sess seq p t => Sys2Proof.Machine.execPartitionReset sess seq p t s
  | .resetCauseWrite sess seq v t => Sys2Proof.Machine.execResetCauseWrite sess seq v t s
  | .smbusTransaction addr code wr data pecOk t => Sys2Proof.Machine.execSmbusTransaction addr code wr data pecOk t s
  | .vauxLost => Sys2Proof.Machine.execVauxLost s
  | .mgmtPortLinkChange n up => Sys2Proof.Machine.execMgmtPortLinkChange n up s
  | .unmatchedResponse port op h t => Sys2Proof.Machine.execUnmatchedResponse port op h t s
  | .unreceivableRequest port op h t => Sys2Proof.Machine.execUnreceivableRequest port op h t s
  | .tileStoreMoveComplete t => Sys2Proof.Machine.execTileStoreMoveComplete t s
  | .bootRomImageStart okA okB => Sys2Proof.Machine.execBootRomImageStart okA okB s
  | .slateOutFall => Sys2Proof.Machine.execSlateOutFall s
  | .tapInstruction op => Sys2Proof.Machine.execTapInstruction op s
  | .rebindScrubComplete kind a b t => Sys2Proof.Machine.execRebindScrubComplete kind a b t s

end Sys2Proof.Machine
end

