-- ==== Sys2Proof/Safety.lean ====
section
/-!
DEFINITION. The terms in which the claims speak of runs: the invariant of a safe run, when a message of a Fligifer session is
executed, and what executing it leaves beside the effect of its request; when a request goes to its home.
-/

namespace Sys2Proof.Machine

/-! ### Safe runs -/

/-- The invariant of a run: pool memory is in its canonical form, so that equal memories are equal data. -/
def State.Inv (s : State) : Prop := Memory.wf s.mem


/-- Every live element but those of `ks` reads in `t` as in `s`. -/
def State.RegsBut (s t : State) (ks : List Nat) : Prop := ∀ k, k ∉ ks → t.rd k = s.rd k

/-! ### Dictionary writes as commands (19 R426, R427) -/

/-- A message of session `sess` with SEQ `seq` is executed when it arrives: it is a write of the part's own firmware while that
runs, or the next message in order of an open session, outside the boot ROM state. -/
def Executes (s : State) (sess seq : Nat) : Prop :=
  (ownSession sess = true ∧ s.firmwareRuns = true) ∨
  (sess < 32 ∧ seq < 2 ^ 32 ∧ s.firmState ≠ 0 ∧ ∃ x, s.session sess = some x ∧ (x.expect = none ∨ x.expect = some seq))

/-- A MANAGER session's message is executed. -/
def Manages (s : State) (sess seq : Nat) : Prop := Executes s sess seq ∧ s.classOf sess = 2

/-- The state in which a message of session `sess` that arrives at time `t` is executed: the session is now the most recently
active (19 R420, R422). The part's own firmware writes without a message. -/
def State.heard (s : State) (sess t : Nat) : State := if ownSession sess then s.at t else (s.at t).sessTouch sess

/-- What follows the effect `u` of a request of type `ty` and SEQ `seq`: it is counted, its response of status `st` is kept among
the last 32, the next SEQ is expected, the held requests that now follow are executed, and the responses go out (19 R426). -/
def State.answered (u : State) (sess ty seq st : Nat) (body : List Byte) (t : Nat) (fw : Bool × Bool) : State :=
  let u := u.count (K.fligiferCounts 0) 1
  match u.session sess with
  | none => u
  | some x =>
    let resp := fmMsg (ty + 128) seq st body
    let u := u.setSess sess { x with expect := some ((seq + 1) % 2 ^ 32), cached := keepLast 32 (x.cached ++ [(seq, resp)]) }
    let q := State.fligHeld 15 u sess t fw
    (resp :: q.1).foldl (fun (s : State) m => s.fligSend sess m) q.2

/-- The state after a dictionary write whose effect is `u` and whose status is `st`. -/
def State.wrote (u : State) (sess seq st t : Nat) : State :=
  if ownSession sess then u else u.answered sess 0x02 seq st [] t (true, true)

/-! ### Requests as commands (04 R105 to R111) -/

/-- A request as its port accepts it under binding `bind` at time `t`, and the port after that. -/
def State.accepted (s : State) (port op : Nat) (h : Hdr) (b : List Byte) (bind t : Nat) : Req × State :=
  (s.at t).accept port op bind h b

/-- A request that arrives at an open port passes the checks of R105 under binding `bind` (4096: it carries none) and nothing holds
it on its way to its home: no fence, no share, no stopped service domain. -/
def Starts (s : State) (port op : Nat) (h : Hdr) (b : List Byte) (bind t : Nat) : Prop :=
  (s.at t).portOpen port = true ∧ (s.at t).checkArrival port op h b = .accepted bind ∧
  ((op = 0x04 ∨ bit h.flags 6 = true) →
    (s.accepted port op h b bind t).2.earlier (s.accepted port op h b bind t).1 = false) ∧
  (needsService op = true → s.boot.service = true) ∧
  (noBinding op = false →
    (s.accepted port op h b bind t).2.mayInject port (handlePart h.handle) (msgCells h.len) = true ∧
    (s.accepted port op h b bind t).2.queued port (handlePart h.handle) = [])

/-- The state in which the home serves a request that `Starts`: it is pending, counted and metered, and its partition's share of
the port is charged. -/
def State.began (s : State) (port op : Nat) (h : Hdr) (b : List Byte) (bind t : Nat) : State :=
  if noBinding op then (s.accepted port op h b bind t).2
  else (s.accepted port op h b bind t).2.useCells port (handlePart h.handle) h.len

/-- A response of OPCODE `op` that arrives on a port answers the part's outstanding request `x` (04 R95, R108, R117). -/
def Matches (s : State) (port op : Nat) (h : Hdr) (t : Nat) (x : PartReq) : Prop :=
  (s.at t).portOpen port = true ∧ h.dst = s.rd (K.portEid port) ∧ (s.at t).passes port (op % 128) = true ∧
  (s.at t).matchResp port h = some x ∧ legalResp x.msg.op op = true

/-- The response to an accepted request `r` with header alone or with a body, on channel 1 (04 R96, R97, R108). -/
def Req.reply (r : Req) (op st : Nat) (body : List Byte) : Msg :=
  ⟨1, op, 0, r.h.dst, r.h.src, r.h.handle, r.h.tag, r.h.epoch, st, body⟩

/-- The body of a WINDOW_WRITE of the one register at `off` (20 R436). -/
def winBody (off v : Nat) : List Byte := toLE 4 off ++ toLE 2 8 ++ toLE 2 0 ++ toLE 8 v

/-- A WINDOW_WRITE of one register `Starts` and has no slot move or scrub to wait for. -/
def WinStarts (s : State) (port off v : Nat) (h : Hdr) (bind t : Nat) : Prop :=
  Starts s port 0x63 h (winBody off v) bind t ∧ (s.began port 0x63 h (winBody off v) bind t).winWaits bind off v = none

/-- The state in which the port engine carries it out. -/
def State.winBegan (s : State) (port off v : Nat) (h : Hdr) (bind t : Nat) : State :=
  s.began port 0x63 h (winBody off v) bind t

/-- The state `u` once that request has been answered OK. -/
def State.winOk (u s : State) (port off v : Nat) (h : Hdr) (bind t : Nat) : State :=
  u.answer (s.accepted port 0x63 h (winBody off v) bind t).1 0xE3 Code.ok []

/-! ### SPDM and Fligifer messages as commands (18 R400, 19 R417, R418) -/

/-- A message for the SPDM service reaches it from requester `src`: on a management port (`via` 64 or 65), or in an SPDM transport
message that its port accepts, or accepted before the service ran. `u` is the state in which it is served, `put` what sends its response. -/
def Carried (s : State) (via source : Nat) (h : Hdr) (kind t src : Nat) (u : State) (put : State → List Byte → State) : Prop :=
  s.boot.released = true ∧
  ((64 ≤ via ∧ src = source ∧ u = s.at t ∧ put = fun (v : State) m => v.datagram (via - 64) source (bindHdr kind ++ m)) ∨
   (via < 64 ∧ src = h.src ∧ (s.at t).portOpen via = true ∧ ∃ q : Req,
      (((s.at t).earlyReq via 0x70 h = none ∧ (s.at t).arrive via 0x70 h (toLE 2 (h.len - 24) ++ toLE 6 0) = (some q, u)) ∨
        ((s.at t).earlyReq via 0x70 h = some q ∧
          u = (s.at t).updBoot (fun b => { b with early := b.early.filter (· ≠ (via, q.id)) }))) ∧
      put = fun (v : State) m => v.carriedAnswer q m))

/-- A secured message of session `i` authenticates and is new: the state that has accepted it (19 R418). -/
def Secures (u : State) (i sq : Nat) (v : State) : Prop :=
  ∃ x, u.session i = some x ∧ (i < 16 ∨ 512 ≤ i) ∧ x.fresh sq = true ∧ v = (u.setSess i (x.accept sq)).sessTouch i

/-! ### Reel instructions as commands (13 R296, R306, 14 R319) -/

/-- Context `c` of slot `slot`, of partition `p`, issues at time `t` the word `w`, which spells the operation `op`: it may take a
turn, no posted store of its own has been refused, its fetch brings `w`, and governed work is within its allowance. `u` is the
state after the fetch and after the turn and the `stall` stalled ones before it are charged, `k` the context in it. -/
def Issues (s : State) (slot c stall t : Nat) (op : Nat × Nat) (p w : Nat) (u : State) (k : Ctx) : Prop :=
  (s.at t).mayIssue slot c t = true ∧ ((s.at t).ctx slot c).refused = none ∧ (s.at t).ctxOwner slot c = some p ∧
  ((s.at t).fetchWord p slot c).1 = .word w ∧ wordOp w = some op ∧
  (governedOp op.1 = true → (s.at t).reached slot p = false) ∧
  u = ((s.at t).fetchWord p slot c).2.chargeCycles p slot c (1 + stall) ∧ k = u.ctx slot c ∧ k.pc + 8 < 2 ^ 28

/-- An instruction retires: its context goes on at `pc`. -/
def State.goesOn (u : State) (slot c pc : Nat) : State :=
  u.setCtx slot c { u.ctx slot c with
    pc := pc
    atCut := false
    resume := none }

/-- The instruction `i` of operation `op` changes its context alone, by `f`, and goes on to the next word. -/
def RegRule (i : Nat → Nat → Nat → Nat → Instr) (op : Nat × Nat) (f : Ctx → Nat → Ctx) : Prop :=
  ∀ (s : State) (slot c stall t p w : Nat) (u : State) (k : Ctx), Issues s slot c stall t op p w u k →
    exec (i slot c stall t) s = .next ((u.setCtx slot c (f k w)).goesOn slot c (k.pc + 8))

/-- A scalar instruction: Gd = f(Ga, Gb or the immediate) (14 R322). -/
def ScalarRule (i : Nat → Nat → Nat → Nat → Instr) (op : Nat) (f : Word → Word → Word) : Prop :=
  RegRule i (op, 0) (fun k w => k.setG (iD w) (f (k.gr (iA w)) (if iFunc w = 1 then iSext16 w else k.gr (iB w))))

/-- A mask operation: Md = f(Ma, Mb) (14 R329). -/
def MaskRule (i : Nat → Nat → Nat → Nat → Instr) (sel : Nat) (f : BitVec 1024 → BitVec 1024 → BitVec 1024) : Prop :=
  RegRule i (0x2E, sel) (fun k w => { k with m := Tab.set k.m (iD w) (f (Tab.getD k.m (iA w) 0) (Tab.getD k.m (iB w) 0)) })

/-- SYSR with selector `sel`: Gd = f (14 R341). -/
def SysRule (i : Nat → Nat → Nat → Nat → Instr) (sel : Nat) (f : State → Ctx → Nat → Nat → Nat → Nat) : Prop :=
  ∀ (s : State) (slot c stall t p w : Nat) (u : State) (k : Ctx), Issues s slot c stall t (0x70, sel) p w u k →
    exec (i slot c stall t) s = .next ((u.setCtx slot c (k.setG (iD w) (BitVec.ofNat 64 (f u k slot c t)))).goesOn slot c (k.pc + 8))

/-- A vector instruction of format FMT: element `i` of Vd is `g`'s result where the mask lets it be computed, and the flags of
the elements computed are raised and counted (14 R317, R329, R330). -/
def VecRule (i : Nat → Nat → Nat → Nat → Instr) (op : Nat) (g : Ctx → Nat → Nat → Nat × Flags) : Prop :=
  ∀ (s : State) (slot c stall t p w : Nat) (u : State) (k : Ctx), Issues s slot c stall t (op, 0) p w u k →
    ∃ r : Lanes, r = lanes k w (fmtBits (iFmt w)) (fmtCapacity (iFmt w)) (k.vr (iD w)) (g k w) ∧
      exec (i slot c stall t) s = .next (((u.setCtx slot c (k.setV (iD w) r.value)).tally slot c w r.flags false).goesOn slot c (k.pc + 8))

/-! ### Slates (02 R35, R46) -/

/-- The frame logic once its phase is aligned on an error of `off` ns (02 R35): slewed below 0.5 us, else one stretched frame. -/
def FrameLogic.aligned (f : FrameLogic) (off : Int) : FrameLogic :=
  { f with
    aligning := false
    slew := if off.natAbs < 500 then off else 0
    stretching := if off.natAbs < 500 then f.stretching else some (off % 250000).toNat }

/-- Nothing but the clock, the call sheet and the measurements is due at the coming slate: the clock runs free, no frame number is to be
adopted, no reel, request, lease, quarantine, throttle, lock, seal, publish flip, relocation or move is in progress. -/
def State.Quiet (s : State) : Prop :=
  s.rd K.slateSource = 0 ∧ s.fl.loadPending = none ∧ s.fl.stretching = none ∧ s.reels = {} ∧ s.waiting = [] ∧ s.lease = {} ∧
  s.quarantine = [] ∧ s.cont.moving = none ∧ s.cont.reloc = none ∧ s.flips = [] ∧ s.boot.partResets = [] ∧ s.take.digestDue = false ∧
  (∀ e ∈ s.stackTab, e.2.throttleEnd = [] ∧ e.2.corrections = []) ∧ (∀ i, i < 32 → s.rd (K.dieAlert (s.tileAt i)) = 0) ∧
  (∀ p, p < 64 → (s.part p).unlocking = false ∧ s.lockMode p ≠ 1 ∧ (s.part p).sealJob = none ∧ s.rd (K.partitionStatus p) ≠ 2)

end Sys2Proof.Machine
end

