-- ==== Sys2Proof/Certificates/Slice0/Obligations.lean ====
section
/-!
DEFINITION. The statements for the provers: what the manual's rules say each command does, in terms of the model. The words
that they share (`Inv`, `RegsBut`, `Issues`, `Quiet` and the rest) stand in Safety.lean.
-/

open Sys2Proof Sys2Proof.Machine

/-- A step takes the command at the front of the queue and runs it with the queue's rest; with nothing waiting the part stays as it
is, which is the model's choice (log entry 7): the manual gives it no tick of its own. -/
def Obligations.StepRunsFrontCommand : Prop :=
  (∀ (s : State) (c : Instr) (rest : List Instr), s.pending = c :: rest → step s = exec c { s with pending := rest }) ∧
  (∀ s : State, s.pending = [] → step s = .next s)

/-- The state after power-on (02 R55, 17 R369, 22 R465, R467): nothing waits, pool memory lists nothing and is in its canonical form, take 0
is in force and IDLE, frame 0 begins, no partition is active, no session is open, the image in force is none; and every element
of the dictionary stands at its default (TAKE_DIGEST is computed where it is read), or, where the dictionary lists none, at the value the model names (log entry 1). -/
def Obligations.ResetState : Prop :=
  State.reset.Inv ∧ State.reset.pending = [] ∧ State.reset.mem = [] ∧ State.reset.regs = [] ∧ (∀ k, State.reset.rd k = regDefault {} k) ∧
  State.reset.takeState = 0 ∧ State.reset.rd K.takeNumber = 0 ∧ State.reset.frame = 0 ∧
  (∀ p, p < 64 → State.reset.active p = false) ∧ (∀ a, State.reset.byteAt a = 0#8) ∧ State.reset.firmState = 0 ∧
  (∀ i, State.reset.session i = none)

/-- Every step keeps the invariant of a run: pool memory stays in its canonical form, from every state. -/
def Obligations.StepKeepsInv : Prop :=
  ∀ s t : State, s.Inv → step s = .next t → t.Inv

/-- Every command completes in every state, leaves the queue of the commands behind it as it is, and leaves the fuses alone; a queue is
therefore worked off in its order, one command a step, and no run ever stops. That a command whose condition does not hold completes
with no effect is the model's choice (log entry 8). -/
def Obligations.EveryCommandCompletes : Prop :=
  (∀ (c : Instr) (s : State), ∃ t : State, exec c s = .next t ∧ t.pending = s.pending ∧ t.fuses = s.fuses) ∧
  (∀ s : State, ∃ t : State, step s = .next t ∧ t.pending = s.pending.tail ∧ t.fuses = s.fuses)

/-- Writes of the frame and take controls that are executed (02 R35, R36, R38 to R42, R56). SLATE_SOURCE: the source is selected, FRAME_STATUS
shows its mode and its other bits stay, what had been learnt of the old source is forgotten, and phase alignment starts for PTP and SLATE_IN.
FRAME_NUMBER_LOAD: a load becomes the one pending value, and TAKE_PENDING_FRAME alone may follow it. TAKE_STAGE_OPEN opens a staging with
nothing staged for its session, TAKE_STAGE_CLOSE discards the staging of the session that opened it, TAKE_ABORT a pending take before its
arm point, each of the last two with TAKE_STATE 0 and TAKE_PENDING_FRAME 0, which is the model's reading (log entry 17). -/
def Obligations.FrameAndTakeWrites : Prop :=
  (∀ (s : State) (sess seq v t : Nat), Manages s sess seq →
    (v ≤ 2 → exec (.slateSourceWrite sess seq v t) s = .next
      ((({ s.heard sess t with fl := { s.fl with
          now := t, ptpGood := 0, ptpTime := false, edgeSeen := false, missed := 0, regained := 0, slew := 0, stretching := none
          aligning := decide (v ≠ 0) } } : State).wr K.slateSource v).wr K.frameStatus
        (setFld (setFld (s.rd K.frameStatus) 5 2 (if v = 0 then 0 else 1)) 1 0 v) |>.wrote sess seq Code.ok t)) ∧
    (v < 2 ^ 64 → ∃ w : State, exec (.frameNumberLoad sess seq v t) s = .next (w.wrote sess seq Code.ok t) ∧
      w.fl = { s.fl with now := t, loadPending := some v } ∧
      (s.heard sess t).RegsBut w [K.takePendingFrame] ∧
      (s.takeState ≠ 2 → s.takeState ≠ 3 → w.regs = s.regs) ∧
      w = { s.heard sess t with regs := w.regs, fl := w.fl })) ∧
  (∀ (s : State) (sess seq v t : Nat), Manages s sess seq →
    (s.takeState = 0 → v = s.rd K.takeNumber → v < 2 ^ 32 →
      exec (.takeStageOpen sess seq v t) s = .next
        (({ s.heard sess t with take := { s.take with session := some sess, base := v, staged := [], stale := none, tokens := [] } }
          : State).wr K.takeState 1 |>.wrote sess seq Code.ok t)) ∧
    (s.takeState = 1 → s.take.session = some sess →
      ∃ w : State, exec (.takeStageClose sess seq 1 t) s = .next (w.wrote sess seq Code.ok t) ∧
        w.rd K.takeState = 0 ∧ w.rd K.takePendingFrame = 0 ∧
        w.take = { s.take with session := none, staged := [], stale := none, cont := none, tokens := [], target := 0 } ∧
        (s.heard sess t).RegsBut w [K.takeState, K.takePendingFrame] ∧
        w = { s.heard sess t with regs := w.regs, take := w.take }) ∧
    (s.takeState = 2 →
      ∃ w : State, exec (.takeAbort sess seq 1 t) s = .next (w.wrote sess seq Code.ok t) ∧
        w.rd K.takeState = 0 ∧ w.rd K.takePendingFrame = 0 ∧
        w.take = { s.take with session := none, staged := [], stale := none, cont := none, tokens := [], target := 0 } ∧
        (s.heard sess t).RegsBut w [K.takeState, K.takePendingFrame] ∧
        w = { s.heard sess t with regs := w.regs, take := w.take }) ∧
    (s.takeState = 3 →
      exec (.takeAbort sess seq 1 t) s = .next ((s.heard sess t).wrote sess seq Code.takeArmed t)))

/-- The external slate sources (02 R29, R33 to R35, R37): an edge of SLATE_IN within the window marks the slate and its error is
slewed, one outside is counted once aligned, and the first one after the source is selected aligns the phase wherever it falls; after 16
slates without one the source is lost, edges then count while they are spaced rightly, and four re-acquire it; a Sync of the port and domain
selected (with either port, of the best master) is corrected, one that ends an alignment or a holdover aligns the phase, and 16
below 1 us lock; a holdover shows; a silent tree and the fall of SLATE_OUT change their own level alone. -/
def Obligations.SlateSources : Prop :=
  ∀ (s : State) (off : Int) (spacing port dom : Nat) (best : Bool),
    (s.rd K.slateSource = 2 → s.sourceLost = false →
      (s.fl.aligning = true → exec (.slateInEdge off spacing) s = .next { s with fl := { s.fl.aligned off with
        edgeSeen := true, missed := 0 } }) ∧
      (s.fl.aligning = false → off.natAbs ≤ s.rd K.slateInWindow → exec (.slateInEdge off spacing) s = .next { s with fl := { s.fl with
        edgeSeen := true, slew := off, missed := 0 } }) ∧
      (s.fl.aligning = false → s.rd K.slateInWindow < off.natAbs → exec (.slateInEdge off spacing) s = .next
        { s.count K.missedSlateCount 1 with fl := { s.fl with edgeOut := true } }) ∧
      (16 ≤ s.fl.missed → exec .slateInSourceLost s = .next
        (({ s with fl := { s.fl with regained := 0, slew := 0, aligning := false, stretching := none } } : State).wr K.frameStatus
          (setFld (setFld (s.rd K.frameStatus) 4 2 4) 1 0 0)))) ∧
    (s.rd K.slateSource = 2 → s.sourceLost = true →
      exec (.slateInEdge off spacing) s = .next { s with fl := { s.fl with
        regained := if 250000 ≤ spacing + s.rd K.slateInWindow ∧ spacing ≤ 250000 + s.rd K.slateInWindow then s.fl.regained + 1 else 1 } } ∧
      (4 ≤ s.fl.regained → exec (.slateInReacquire off) s = .next
        (({ s with fl := ({ s.fl with regained := 0, missed := 0, edgeSeen := true } : FrameLogic).aligned off } : State).wr K.frameStatus
          (setFld (setFld (s.rd K.frameStatus) 4 2 1) 1 0 2)))) ∧
    (s.rd K.slateSource = 1 → dom = s.rd K.ptpDomain → (s.rd K.ptpPort = 2 → best = true) → (s.rd K.ptpPort ≠ 2 → port = s.rd K.ptpPort) →
      ∃ w : State, exec (.ptpSync port dom best off) s = .next w ∧
        w.fl = { (if s.fl.aligning = true ∨ bit (s.rd K.frameStatus) 5 = true then s.fl.aligned off
          else if s.fl.stretching.isSome then s.fl else { s.fl with slew := off } : FrameLogic) with
            ptpTime := true, ptpGood := if off.natAbs < 1000 then s.fl.ptpGood + 1 else 0 } ∧
        w.rd K.frameStatus = (let v := setFld (s.rd K.frameStatus) 5 5 0
          if off.natAbs < 1000 then v else setFld v 3 2 1) ∧
        s.RegsBut w [K.frameStatus] ∧ w = { s with regs := w.regs, fl := w.fl }) ∧
    (s.rd K.slateSource = 1 → 16 ≤ s.fl.ptpGood →
      exec .ptpLocked s = .next (s.wr K.frameStatus (setFld (s.rd K.frameStatus) 3 2 2))) ∧
    (s.rd K.slateSource = 1 → s.fl.ptpTime = true →
      ∃ w : State, exec .ptpHoldover s = .next w ∧ w.rd K.frameStatus = setFld (setFld (s.rd K.frameStatus) 5 5 1) 3 2 1 ∧
        w.fl = { s.fl with ptpGood := 0, slew := 0 } ∧ s.RegsBut w [K.frameStatus] ∧ w = { s with regs := w.regs, fl := w.fl }) ∧
    exec .slateTreeSilent s = .next { s with fl := { s.fl with treeSilent := true } } ∧
    exec .slateOutFall s = .next { s with fl := { s.fl with slateOut := false } }

/-- TAKE_COMMIT and the arm point (02 R40, R41, R42): a commit of a valid shadow on the base in force with no target moves the take
to PENDING, for the first slate at least 50 us away where none is named, with TAKE_LAST_RESULT OK; a target already too near is refused with
TAKE_TOO_LATE and one more than 240,000 frames away with TAKE_TOO_EARLY, and the staging stays; at the arm point, 20 us before the slate, an acknowledged take is ARMED, another fails with TAKE_FAILED. -/
def Obligations.TakeCommitAndArm : Prop :=
  ∀ (s : State) (sess seq t : Nat),
    (∀ u, u = s.heard sess t → Manages s sess seq → s.takeState = 1 → s.take.session = some sess → s.take.stale = none →
      s.take.base = s.rd K.takeNumber → u.takeFault = none →
      (s.rd K.takeTargetFrame = 0 ∨ u.earliestTarget ≤ s.rd K.takeTargetFrame → s.rd K.takeTargetFrame ≤ s.frame + 240000 →
        ∃ w : State, exec (.takeCommit sess seq 1 t) s = .next (w.wrote sess seq Code.ok t) ∧ w.rd K.takeState = 2 ∧
          w.take = { s.take with target := if s.rd K.takeTargetFrame = 0 then u.earliestTarget else s.rd K.takeTargetFrame } ∧
          w.rd K.takePendingFrame = u.pendingFrame w.take.target ∧
          w.rd K.takeLastResult = 0 ∧ w.rd K.takeRejectEntry = 0 ∧
          s.RegsBut w [K.takeState, K.takePendingFrame, K.takeLastResult, K.takeRejectEntry] ∧
          w = { u with regs := w.regs, take := w.take }) ∧
      (0 < s.rd K.takeTargetFrame → s.rd K.takeTargetFrame < u.earliestTarget →
        exec (.takeCommit sess seq 1 t) s = .next (((u.wr K.takeLastResult Code.takeTooLate).wr K.takeRejectEntry 0).wrote sess seq
          Code.takeTooLate t)) ∧
      (u.earliestTarget ≤ s.rd K.takeTargetFrame → s.frame + 240000 < s.rd K.takeTargetFrame →
        exec (.takeCommit sess seq 1 t) s = .next (((u.wr K.takeLastResult Code.takeTooEarly).wr K.takeRejectEntry 0).wrote sess seq
          Code.takeTooEarly t))) ∧
    (∀ u, u = s.at (s.frameNs - 20000) → s.takeState = 2 → s.take.target ≤ u.comingFrame →
      exec (.takeArmPoint true) s = .next ((u.wr K.takeState 3).wr K.takePendingFrame u.comingFrame) ∧
      ∃ w : State, exec (.takeArmPoint false) s = .next w ∧ w.rd K.takeState = 0 ∧ w.rd K.takeLastResult = Code.takeFailed ∧
        w.rd K.takeRejectEntry = 0 ∧ w.rd K.takePendingFrame = 0 ∧
        w.take = { s.take with session := none, staged := [], stale := none, cont := none, tokens := [], target := 0 } ∧
        s.RegsBut w [K.takeState, K.takePendingFrame, K.takeLastResult, K.takeRejectEntry] ∧ w = { u with regs := w.regs, take := w.take })

/-- Writes of TRAIN_CTRL with GO, of RETRAIN_REQ, DIE_RETIRE and SCRUB_ENABLE that are executed (08 R200, R201, 09 R207, R214): a
training step starts while the stack is up or filled and none runs, and TRAIN_STATUS shows it, else the write is refused with BUSY; a
retraining is asked for, once; a first die is retired, a second is refused; SCRUB_ENABLE is stored, its old value in force until the slate. -/
def Obligations.StackControlWrites : Prop :=
  ∀ (s : State) (sess seq tile rest v mode t : Nat), Manages s sess seq → tile < 36 →
    (∀ c, ((c = Instr.trainReadEye sess seq tile rest t ∧ mode = 0) ∨ (c = Instr.trainWriteEye sess seq tile rest t ∧ mode = 1) ∨
        (c = Instr.trainCommandAddress sess seq tile rest t ∧ mode = 2) ∨ (c = Instr.trainVerify sess seq tile rest t ∧ mode = 3)) →
      rest < 2 ^ 32 → fld rest 3 2 < 2 → bit rest 0 = false → v = setFld rest 31 29 (4 + mode) →
      (s.rd (K.stackState tile) = 1 ∨ s.rd (K.stackState tile) = 2 → bit (s.rd (K.trainCtrl tile)) 31 = false →
        exec c s = .next ((((s.heard sess t).wr (K.trainCtrl tile) v).wr (K.trainStatus tile)
          (trainStatus 1 (fld v 28 24) 0 0)).wrote sess seq Code.ok t)) ∧
      (s.rd (K.stackState tile) ≠ 1 → s.rd (K.stackState tile) ≠ 2 → exec c s = .next ((s.heard sess t).wrote sess seq Code.busy t)) ∧
      (bit (s.rd (K.trainCtrl tile)) 31 = true → exec c s = .next ((s.heard sess t).wrote sess seq Code.busy t))) ∧
    (v < 32 → (s.stack tile).retrainAsk = none → (s.stack tile).retraining = none →
      exec (.retrainReq sess seq tile v t) s = .next
        (((s.heard sess t).setStack tile { s.stack tile with retrainAsk := some (v, s.frame) }).wrote sess seq Code.ok t)) ∧
    (v < 32 → (s.stack tile).retrainAsk.isSome = true ∨ (s.stack tile).retraining.isSome = true →
      exec (.retrainReq sess seq tile v t) s = .next ((s.heard sess t).wrote sess seq Code.busy t)) ∧
    (v < 18 → s.rd (K.dieRetire tile) = 0xFF →
      exec (.dieRetireWrite sess seq tile v t) s = .next
        ((((s.heard sess t).setStack tile { s.stack tile with retireWait := some v }).wr (K.dieRetire tile) v).wrote sess seq Code.ok t)) ∧
    (v < 18 → s.rd (K.dieRetire tile) ≠ 0xFF →
      exec (.dieRetireWrite sess seq tile v t) s = .next ((s.heard sess t).wrote sess seq Code.retireLimit t)) ∧
    (v < 2 → exec (.scrubEnableWrite sess seq v t) s = .next
      (((s.heard sess t).wrLag K.scrubEnable v).wrote sess seq Code.ok t))

/-- Writes of TEST_CTRL with GO, RELOC_CTRL, SLAB_PROBE and DIR_PROBE that are executed (09 R216, 10 R224 to R226, 11 R267,
07 R182): GO latches the test registers where the extent of TEST_ADDR is free in an in-service stack, and is refused with OFFLINE
or NO_ACCESS elsewhere; a relocation to the tile that qualifies is started and the tile prepared, and is refused with BUSY where none
qualifies or one runs; a probe of a slab reads the task that holds it, zeros for a free one; a probe of a line reads its directory entry,
from the eviction buffer where it is being evicted, and zero where there is none. -/
def Obligations.TestRelocAndProbeWrites : Prop :=
  ∀ (s : State) (sess seq rest v t op slot : Nat), Manages s sess seq → rest < 2 ^ 32 →
    (∀ c, ((c = Instr.testWriteRaw sess seq rest t ∧ op = 0) ∨ (c = Instr.testWriteEncoded sess seq rest t ∧ op = 1) ∨
        (c = Instr.testRead sess seq rest t ∧ op = 2)) →
      bit rest 30 = false → fld rest 26 22 < 18 → fld rest 21 0 = 0 → v = setFld (setFld rest 31 31 1) 29 28 op →
      (s.test = none → s.inService (fld (s.rd K.testAddr) 42 37) = true →
        (dpos (dpaLocal (s.rd K.testAddr)) < 16256 → s.rd (K.dxnState (dpos (dpaLocal (s.rd K.testAddr)))) = 0 →
          exec c s = .next (((({ s.heard sess t with test := some ⟨v, s.rd K.testAddr, s.rd K.testData, s.rd K.testCheck⟩ } : State).wr
            K.testCtrl v).wr K.testResult (testResult 1 0 0 0)).wrote sess seq Code.ok t)) ∧
        (16256 ≤ dpos (dpaLocal (s.rd K.testAddr)) ∨ s.rd (K.dxnState (dpos (dpaLocal (s.rd K.testAddr)))) ≠ 0 →
          exec c s = .next ((s.heard sess t).wrote sess seq Code.noAccess t))) ∧
      (s.test = none → s.inService (fld (s.rd K.testAddr) 42 37) = false →
        exec c s = .next ((s.heard sess t).wrote sess seq Code.offline t)) ∧
      (s.test.isSome = true → exec c s = .next ((s.heard sess t).wrote sess seq Code.busy t))) ∧
    (∀ c target, ((c = Instr.relocRelocate sess seq rest t ∧ op = 0) ∨ (c = Instr.relocSelftest sess seq rest t ∧ op = 1) ∨
        (c = Instr.relocReturn sess seq rest t ∧ op = 2)) → fld rest 17 0 = 0 → slot = fld rest 28 24 →
        target = (if op = 2 then (Tab.find s.cont.returnTile slot).bind (s.relocTarget slot) else s.relocTarget slot (fld rest 23 18)) →
      (∀ tile r, s.cont.reloc = none → target = some tile →
        r = ({ slot := slot, source := s.tileAt slot, target := tile, kind := op, ret := decide (op = 1) && bit rest 29, step := 1 } : Reloc) →
        exec c s = .next ((({ s.heard sess t with cont := { s.cont with
            reloc := some r
            returnTile := s.cont.returnTile.filter (fun e => e.2 ≠ tile)
            triggers := s.cont.triggers.filter (fun x => x.1 ≠ slot) } } : State).wrs
          [(K.tileState tile, 3), (K.fillStatus tile, 0), (K.slotState slot, if (s.stack (s.tileAt slot)).lost then 3 else 1),
            (K.relocStatus, relocStatus r 1 0)]).wrote sess seq Code.ok t)) ∧
      (s.cont.reloc.isSome = true ∨ target = none → exec c s = .next ((s.heard sess t).wrote sess seq Code.busy t))) ∧
    (fld rest 19 0 = 0 →
      exec (.slabProbe sess seq rest t) s = .next (((s.heard sess t).wr K.slabProbeResult (ofBE (padTo 8264
        (match s.mover.tasks.find? (fun x => x.part = fld rest 31 26 ∧ x.ring = fld rest 25 22 ∧ x.slab = fld rest 21 20) with
          | some x => x.slabBytes
          | none => [])))).wrote sess seq Code.ok t)) ∧
    (∀ part va ln u, part < 64 → va < 2 ^ 48 → u = s.heard sess t →
      ∃ w : State, exec (.dirProbe sess seq part va t) s = .next (w.wrote sess seq Code.ok t) ∧
        (∀ e, u.mapped part va = some e → eKind e = 1 → ln = dpaOf va (eDxn e) (u.homeTile va) / 128 →
          (∀ d, Tab.find s.dir ln = some d → w.rd K.dirProbeResult = d.pack ln false) ∧
          (∀ x, Tab.find s.dir ln = none → Tab.find s.evicts ln = some x → w.rd K.dirProbeResult = x.ent.pack ln true) ∧
          (Tab.find s.dir ln = none → Tab.find s.evicts ln = none → w.rd K.dirProbeResult = 0)) ∧
        (u.mapped part va = none → w.rd K.dirProbeResult = 0) ∧
        (∀ e, u.mapped part va = some e → eKind e ≠ 1 → w.rd K.dirProbeResult = 0) ∧
        u.RegsBut w [K.dirProbeResult] ∧ w = { u with regs := w.regs })

/-- LOCK_REQUEST, UNLOCK_REQUEST and SEAL_REQUEST that are accepted (17 R375, R376, R380, 18 R406): a lock of an ACTIVE, enabled,
unlocked partition from the secured session whose root the tenant anchor names, with the incarnation and the measurement in force,
advances LOCK_SEQ, derives the partition key and is pending; a token of kind 2 that checks marks the lock to end; a valid unsealed
DATA or PUBLISH extent begins to seal. A lock with another measurement is refused and logged, and so is a token that does not check. -/
def Obligations.LockAndSealRequests : Prop :=
  ∀ (s : State) (sess seq p inc digest t n : Nat) (token data : List Byte), Manages s sess seq → p < 64 →
    (∀ x, sess < 16 → s.session sess = some x → x.mutualAuth = true → x.rootDigest = s.rd (K.lockTenantAnchor p) →
      s.active p = true → s.rd (K.lockState p) % 4 = 0 → s.rd (K.lockEnable p) = 1 → s.takeState ≠ 2 → s.takeState ≠ 3 →
      inc = s.incarnation p → inc < 2 ^ 16 → digest = (s.heard sess t).measurement p → digest < 2 ^ 384 →
      n = (s.rd (K.lockState p) / 2 ^ 32 + 1) % 2 ^ 32 →
      exec (.lockRequest sess seq p inc digest t) s = .next
        (((((s.heard sess t).setPart p { s.part p with
            key := some (kdf x.ems (ascii "PY PARTITION KEY") (toBE 1 p ++ toBE 4 n) 384)
            unlocking := false }).wr (K.lockState p) (n * 2 ^ 32 + 1)).security 4 (s.handleOf p) (s.partHome p) 0 0).wrote sess seq Code.ok t)) ∧
    (∀ x, sess < 16 → s.session sess = some x → x.mutualAuth = true → x.rootDigest = s.rd (K.lockTenantAnchor p) →
      s.active p = true → s.rd (K.lockState p) % 4 = 0 → s.rd (K.lockEnable p) = 1 → s.takeState ≠ 2 → s.takeState ≠ 3 →
      inc = s.incarnation p → inc < 2 ^ 16 → digest < 2 ^ 384 → digest ≠ (s.heard sess t).measurement p →
      exec (.lockRequest sess seq p inc digest t) s = .next
        (((s.heard sess t).security 9 (s.handleOf p) (s.partHome p) 0 0).wrote sess seq Code.lockMismatch t)) ∧
    (token.length = 48 → s.tokenOk 2 p (s.rd K.takeNumber) (List.replicate 48 0#8) token = true →
      exec (.unlockRequest sess seq p token t) s = .next
        ((((s.heard sess t).setPart p { s.part p with unlocking := true }).security 5 (s.handleOf p) (s.partHome p) 0 0).wrote sess seq
          Code.ok t)) ∧
    (token.length = 48 → s.tokenOk 2 p (s.rd K.takeNumber) (List.replicate 48 0#8) token = false →
      exec (.unlockRequest sess seq p token t) s = .next (((s.heard sess t).tokenRefused p).wrote sess seq Code.authRequired t)) ∧
    (data.length = 52 → (s.part p).sealJob = none → leAt data 2 2 = 0 → leAt data 0 2 < 16384 →
      eValid (s.entry p (leAt data 0 2)) = true → eKind (s.entry p (leAt data 0 2)) = 0 ∨ eKind (s.entry p (leAt data 0 2)) = 2 →
      eSealed (s.entry p (leAt data 0 2)) = false → eHeld (s.entry p (leAt data 0 2)) = false → s.rd (K.lockState p) % 4 = 0 →
      (s.part p).seals.length < 1024 →
      ∃ w : State, exec (.sealRequest sess seq p data t) s = .next (w.wrote sess seq Code.ok t) ∧
        w.part p = { s.part p with sealJob := some ⟨leAt data 0 2, false, none, none⟩ } ∧
        w.rd (K.sealStatus p) = 2 ^ 46 + leAt data 0 2 * 2 ^ 32 + s.frame % 2 ^ 32 ∧ (∀ q, q ≠ p → w.part q = s.part q) ∧
        (s.heard sess t).RegsBut w [K.sealStatus p] ∧ w = { s.heard sess t with regs := w.regs, parts := w.parts })

/-- Writes of DEBUG_POLICY (18 R411): a write that sets one more bit and keeps the others is accepted, logged as a
policy change, and applies at the next slate; INTERNAL_SCAN is refused with BUSY while a partition is not FREE, and a write that
clears a bit is refused. -/
def Obligations.DebugPolicyWrites : Prop :=
  ∀ (s : State) (sess seq t v old : Nat) (c : Instr), Manages s sess seq → old = s.rd K.debugPolicy → old < 8 →
    ((c = .debugBscan sess seq old t ∧ bit old 0 = false ∧ v = old + 1) ∨
      (c = .debugCoreDebug sess seq old t ∧ bit old 1 = false ∧ v = old + 2) ∨
      (c = .debugInternalScan sess seq old t ∧ bit old 2 = false ∧ v = old + 4 ∧ (∀ p, p < 64 → s.rd (K.partitionStatus p) = 0)) →
      ∃ (w : State) (e : Nat), exec c s = .next (w.wrote sess seq Code.ok t) ∧ w.rd K.debugPolicy = v ∧
        (Tab.find s.lag K.debugPolicy = none → w.eff K.debugPolicy = old) ∧ w.secLog = keepLast 64 (s.secLog ++ [e]) ∧
        e % 2 ^ 64 = s.frame % 2 ^ 64 ∧
        (s.heard sess t).RegsBut w [K.debugPolicy] ∧
        w = { s.heard sess t with regs := w.regs, lag := w.lag, secLog := w.secLog, free := w.free }) ∧
    (bit old 2 = false → (∃ p, p < 64 ∧ s.rd (K.partitionStatus p) ≠ 0) →
      exec (.debugInternalScan sess seq old t) s = .next ((s.heard sess t).wrote sess seq Code.busy t)) ∧
    (bit old 1 = true → bit old 0 = false →
      exec (.debugBscan sess seq 0 t) s = .next ((s.heard sess t).wrote sess seq Code.noAccess t))

/-- The remaining writes that act (19 R421, R431, 21 R458, 22 R465, R468, R474): a coolant report replaces the value and starts its
age; ones clear bits of RESET_CAUSE; a partition's reset is due at the next slate, once; WARM_RESET_REQ 1 and FIRMWARE_ACTIVATE 1
with an image pending request a warm reset, FIRMWARE_ACTIVATE without one is BUSY; new manager anchors re-evaluate every session's
class. -/
def Obligations.ActingWrites : Prop :=
  ∀ (s : State) (sess seq v p t : Nat) (data : List Byte), Manages s sess seq →
    (v < 2 ^ 32 → ∃ w : State, exec (.coolantReport sess seq v t) s = .next (w.wrote sess seq Code.ok t) ∧ w.rd K.coolantReport = v ∧
      w.gaff = { s.gaff with coolant := some (max s.frame 1), stale := false } ∧ (s.heard sess t).RegsBut w [K.coolantReport] ∧
      w = { s.heard sess t with regs := w.regs, gaff := w.gaff }) ∧
    (v < 2 ^ 11 → exec (.resetCauseWrite sess seq v t) s = .next
      (((s.heard sess t).wr K.resetCause (s.rd K.resetCause - (s.rd K.resetCause &&& v))).wrote sess seq Code.ok t)) ∧
    (p < 64 → s.active p = true → p ∉ s.boot.partResets → exec (.partitionReset sess seq p t) s = .next
      (({ s.heard sess t with boot := { s.boot with partResets := s.boot.partResets ++ [p] } } : State).wrote sess seq Code.ok t)) ∧
    (p < 64 → s.active p = false ∨ p ∈ s.boot.partResets →
      exec (.partitionReset sess seq p t) s = .next ((s.heard sess t).wrote sess seq Code.busy t)) ∧
    exec (.warmResetReq sess seq 1 t) s = .next (((s.heard sess t).warmReset 6 t false).wrote sess seq Code.ok t) ∧
    (s.firmState = 2 → exec (.firmwareActivate sess seq 1 t) s = .next
      ((({ s.heard sess t with boot := { s.boot with active := 1 - s.boot.active } } : State).warmReset 6 t false).wrote sess seq Code.ok t)) ∧
    (s.firmState = 1 → exec (.firmwareActivate sess seq 1 t) s = .next ((s.heard sess t).wrote sess seq Code.busy t)) ∧
    (data.length = 192 → (∃ b, b ∈ data ∧ b ≠ 0#8) →
      ∃ (w : State), exec (.managerAnchorsWrite sess seq 0 data t) s = .next (w.wrote sess seq Code.ok t) ∧
        w.sess = (s.heard sess t).sess.map (fun (e : Nat × Sess) => if e.1 < 16 then (e.1, { e.2 with cls := w.securedClass e.2 }) else e) ∧
        (∀ i, i < 4 → w.rd (K.managerAnchors i) = beAt data (48 * i) 48) ∧
        (s.heard sess t).RegsBut w ((List.range 4).map K.managerAnchors) ∧ w = { s.heard sess t with regs := w.regs, sess := w.sess })

/-- FLIGIFER_READ and FLIGIFER_WRITE that are executed (19 R415, R416, R425, R426): a READ of an entry that the session may read, in
whole or in a range that fits, answers its type, size and bytes and leaves the dictionary but for what a read clears; one that the class does
not permit or of an entry that is only written is refused. A WRITE has the effect and the status that the dictionary's checks give it: a
WRITE of an RWT entry in the open staging is staged and leaves the live half, a WRITE of an RW entry with no behaviour of its own is
stored, in force from the next slate, and an index that no table lists is NO_SUCH_ENTRY. -/
def Obligations.FligiferReadsAndWrites : Prop :=
  (∀ (s u : State) (sess seq idx sub off n t : Nat) (shadow : Bool) (d : Desc) (v : List Byte), Executes s sess seq → sess < 32 →
    idx < 65536 → sub < 256 → off < 2 ^ 32 → n < 2 ^ 32 → Dict.find idx sub = some d → u = (s.heard sess t).flitsMove d idx →
    v = u.entryValue d idx (shadow && decide (d.acc = 3) && decide (u.takeState = 1)) →
    (mayRead (s.classOf sess) idx sub = true → d.acc ≠ 4 → n ≤ 3976 → off + n ≤ v.length →
      (d.ty ≠ 8 → d.ty ≠ 9 → off = 0 ∧ (n = 0 ∨ n = v.length)) →
      exec (.fligiferRead sess seq idx sub off n shadow t) s = .next ((u.readClears d idx).answered sess 0x01 seq Code.ok
        (toBE 2 idx ++ toBE 1 sub ++ toBE 1 d.ty ++ toBE 4 v.length ++ toBE 4 off ++ slice v off (if n = 0 then min 3976 (v.length - off) else n))
        t (true, true))) ∧
    (mayRead (s.classOf sess) idx sub = false → exec (.fligiferRead sess seq idx sub off n shadow t) s = .next
      ((s.heard sess t).answered sess 0x01 seq (if s.classOf sess = 0 then Code.authRequired else Code.noAccess) [] t (true, true))) ∧
    (mayRead (s.classOf sess) idx sub = true → d.acc = 4 → exec (.fligiferRead sess seq idx sub off n shadow t) s = .next
      ((s.heard sess t).answered sess 0x01 seq Code.noAccess [] t (true, true)))) ∧
  (∀ (s : State) (sess seq t v : Nat), Manages s sess seq →
    (∀ idx sub off (data : List Byte), idx < 65536 → sub < 256 → off < 2 ^ 32 → data.length ≤ 3976 →
      exec (.fligiferWrite sess seq idx sub off data t) s = .next
        (((s.heard sess t).dictWrite sess idx sub off data t).2.wrote sess seq ((s.heard sess t).dictWrite sess idx sub off data t).1 t)) ∧
    (∀ p, p < 64 → v < 2 → s.takeState = 1 → s.take.session = some sess →
      ∃ w : State, exec (.fligiferWrite sess seq (0x3000 + p) 1 0 (toBE 1 v) t) s = .next (w.wrote sess seq Code.ok t) ∧
        w.sh (K.partitionClass p) = v ∧ w.regs = s.regs ∧ (∀ k, k ≠ K.partitionClass p → w.sh k = s.sh k) ∧
        w.take = { s.take with staged := w.take.staged } ∧ w = { s.heard sess t with take := w.take }) ∧
    (∀ p, p < 64 → v < 2 → s.takeState = 0 →
      exec (.fligiferWrite sess seq (0x3000 + p) 1 0 (toBE 1 v) t) s = .next ((s.heard sess t).wrote sess seq Code.busy t)) ∧
    (3600 ≤ v → v ≤ 604800 → exec (.fligiferWrite sess seq 0x4401 1 0 (toBE 4 v) t) s = .next
      (((s.heard sess t).wrLag K.scrubPassSeconds v).wrote sess seq Code.ok t)) ∧
    (∀ idx sub (data : List Byte), idx < 65536 → sub < 256 → data.length ≤ 3976 → Dict.find idx sub = none →
      exec (.fligiferWrite sess seq idx sub 0 data t) s = .next ((s.heard sess t).wrote sess seq Code.noSuchEntry t)))

/-- Blocks (19 R428, R429, R431): an open block that the checks of R416 let through joins the session's with the next BLOCK_ID, in the read
direction with the entry's bytes; a third block is refused with BUSY; a chunk in the write direction is laid into its block and one in
the read direction is answered from it; a cancelled block is freed with no effect; a complete block whose digest fits is committed as
one write of its bytes, a firmware image is checked and accepted as R431 says, and one whose digest differs is refused and counted;
the block is gone then. Each is answered in the session. -/
def Obligations.FligiferBlocks : Prop :=
  ∀ (s u : State) (sess seq id t : Nat) (x : Sess) (b : Block), Manages s sess seq → sess < 32 → id < 65536 → u = s.heard sess t →
    u.session sess = some x →
    (∀ idx sub off size d, idx < 65536 → sub < 256 → off < 2 ^ 32 → size < 2 ^ 32 → Dict.find idx sub = some d → x.blocks.length < 2 →
      s.blockBytes + size ≤ 16777216 →
      (u.openCheck sess idx sub off size false = none → exec (.blockOpen sess seq idx sub off size false t) s = .next
        (({ u.setSess sess { x with blocks := x.blocks ++ [⟨s.boot.nextBlock, false, idx, sub, off, size, [], []⟩] } with
            boot := { s.boot with nextBlock := (s.boot.nextBlock + 1) % 65536 } } : State).answered sess 0x04 seq Code.ok
          (toBE 2 s.boot.nextBlock ++ toBE 2 3968) t (true, true))) ∧
      (u.openCheck sess idx sub off size true = none → exec (.blockOpen sess seq idx sub off size true t) s = .next
        ((({ (u.flitsMove d idx).setSess sess { x with blocks := x.blocks ++
            [⟨s.boot.nextBlock, true, idx, sub, off, size, slice ((u.flitsMove d idx).entryValue d idx false) off size, []⟩] } with
            boot := { s.boot with nextBlock := (s.boot.nextBlock + 1) % 65536 } } : State).readClears d idx).answered sess 0x04 seq Code.ok
          (toBE 2 s.boot.nextBlock ++ toBE 2 3968) t (true, true)))) ∧
    (∀ idx sub off size rd, idx < 65536 → sub < 256 → off < 2 ^ 32 → size < 2 ^ 32 → u.openCheck sess idx sub off size rd = none →
      2 ≤ x.blocks.length →
      exec (.blockOpen sess seq idx sub off size rd t) s = .next (u.answered sess 0x04 seq Code.busy [] t (true, true))) ∧
    (x.blocks = [b] → b.id = id → b.size ≤ 16777216 →
      (∀ pos (data : List Byte), 0 < data.length → data.length ≤ 3968 → pos + data.length ≤ b.size →
        (b.rd = false → exec (.blockData sess seq id pos data.length data t) s = .next
          ((u.setSess sess { x with blocks := [{ b with
            data := splice (padTo (max b.data.length (pos + data.length)) b.data) pos data, got := b.got ++ [(pos, data.length)] }] }).answered
            sess 0x05 seq Code.ok [] t (true, true))) ∧
        (b.rd = true → exec (.blockData sess seq id pos data.length [] t) s = .next
          (u.answered sess 0x05 seq Code.ok (slice b.data pos data.length) t (true, true)))) ∧
      exec (.blockCancel sess seq id t) s = .next
        ((u.setSess sess { x with blocks := [] }).answered sess 0x06 seq Code.ok [] t (true, true)) ∧
      (∀ digest e m v r, digest < 2 ^ 384 → v = u.setSess sess { x with blocks := [] } → b.full = true → b.rd = false →
        (¬ (b.idx = 0x7810 ∧ b.sub = 1) → v.writeCheck sess b.idx b.sub b.off (padTo b.size b.data) = none) →
        r = (if b.idx = 0x7810 ∧ b.sub = 1 then v.pushImage (padTo b.size b.data) e m
          else v.dictWrite sess b.idx b.sub b.off (padTo b.size b.data) t) →
        (toBE 48 digest = sha384 (padTo b.size b.data) → exec (.blockCommit sess seq id digest e m t) s = .next
          ((if r.1 = Code.ok then r.2.count (K.fligiferCounts 5) 1 else r.2).answered sess 0x06 seq r.1 [] t (e, m))) ∧
        (toBE 48 digest ≠ sha384 (padTo b.size b.data) → exec (.blockCommit sess seq id digest e m t) s = .next
          ((v.count (K.fligiferCounts 6) 1).answered sess 0x06 seq Code.blockDigest [] t (e, m)))))

/-- Dailies subscriptions (19 R432, R433): SUBSCRIBE opens one from the frame asked for, or from the oldest record that the ring still
holds, and UNSUBSCRIBE ends it; where the ring no longer holds what is due next, GAP says so and the frames are counted; a due message goes out, is kept until it is acknowledged and takes the next STREAM_SEQ, and what it
carries is due no more; an acknowledgement frees every message up to its number; a resend sends the oldest again and is counted. -/
def Obligations.DailiesSubscriptions : Prop :=
  ∀ (s : State) (sess seq id t : Nat), id < 4 →
    (∀ parts start, Manages s sess seq → sess < 32 → parts < 2 ^ 64 → start < 2 ^ 64 →
      (∀ x, Tab.find s.dailies.subs id = some x → x.sess = sess) →
      ∃ f : Nat, f = (if start = 0 then s.frame + 1 else match s.dailies.ring with
          | e :: _ => max e.1 start
          | [] => max s.frame start) ∧
        exec (.subscribe sess seq id parts start t) s = .next
          (({ s.heard sess t with dailies := { s.dailies with subs := Tab.set s.dailies.subs id ⟨sess, parts, f, 0, 0, [], false, []⟩ } }
            : State).answered sess 0x10 seq Code.ok (toBE 8 f) t (true, true))) ∧
    (∀ x, Manages s sess seq → sess < 32 → Tab.find s.dailies.subs id = some x → x.sess = sess →
      exec (.unsubscribe sess seq id t) s = .next
        (({ s.heard sess t with dailies := { s.dailies with subs := Tab.erase s.dailies.subs id } } : State).answered sess 0x11 seq
          Code.ok [] t (true, true))) ∧
    (∀ x y, sess < 32 → s.session sess = some y → seq < 2 ^ 32 → Tab.find s.dailies.subs id = some x → x.sess = sess →
      exec (.dailiesAck sess seq id t) s = .next { s.heard sess t with dailies := { s.dailies with
        subs := Tab.set s.dailies.subs id { x with sent := x.sent.filter (fun e => seqAfter seq e.1) } } }) ∧
    (∀ x y v n l m old, Tab.find s.dailies.subs id = some x → x.sess = sess → x.sent.length < 32 →
      (s.dailies.ring.map (fun (e : Nat × List (List Byte)) => e.1)).Pairwise (· < ·) →
      old = ((s.dailies.ring.map (fun (e : Nat × List (List Byte)) => e.1)).head?).getD x.next →
      y = (if x.next < old then { x with next := old, pos := 0, gap := true } else x) →
      v = (if x.next < old then s.count (K.fligiferCounts 9) (old - x.next) else s) →
      l = (s.recordsDue y).take (min n (if x.rolls = [] then 41 else 4)) → (l ≠ [] ∨ x.rolls ≠ []) →
      m = fmMsg 0x12 x.seq 0 (toBE 1 id ++ toBE 1 (b2n y.gap) ++ toBE 2 l.length ++ toBE 8 ((l.head?.map (fun (e : Nat × List Byte) => e.1)).getD y.next)
        ++ (l.map (fun (e : Nat × List Byte) => e.2)).flatten ++ x.rolls.headD []) →
      ∃ z : Sub, exec (.dailiesDataSend id n) s = .next
          (({ v with dailies := { s.dailies with subs := Tab.set s.dailies.subs id z } } : State).fligPush sess m) ∧
        z = { y with next := z.next, pos := z.pos, seq := (x.seq + 1) % 2 ^ 32, sent := x.sent ++ [(x.seq, m)], gap := false, rolls := x.rolls.drop 1 } ∧
        s.recordsDue z = (s.recordsDue y).drop l.length) ∧
    (∀ x n m l, Tab.find s.dailies.subs id = some x → x.sess = sess → x.sent = (n, m) :: l →
      exec (.dailiesResend id) s = .next ((s.fligPush sess m).count (K.fligiferCounts 8) 1))

/-- What the transmitter of a port does (02 R49, 03 R72, R73, R75, R77 to R79, R85): a slot of a channel with bytes waiting, credit and
replay room sends a TRANSPORT cell that takes the next count and is kept for replay; while REPLAYING it resends, from the port's reserve;
under a key that has encrypted REKEY_CELLS cells nothing is sent; a timeout replays from the oldest outstanding cell; the holdoff ends;
a refresh is due; sixteen resends begin a recalibration, or leave it due after the splice in progress; the key phase flips. Each leaves
the other links, and everything but the parts named, as it was. -/
def Obligations.LinkTransmits : Prop :=
  ∀ (s : State) (p vc : Nat), p < 36 → vc < 4 →
    ((s.rd (K.portState p) = 2 ∨ s.rd (K.portState p) = 3) → (∀ x, (s.link p).splice = some x → x.agreed = false) →
      (s.link p).replaying = false → (s.link p).txCells < s.rd (K.rekeyCells p) →
      Tab.getD (s.port p).txBytes vc [] ≠ [] → (s.link p).sent - (s.link p).acked < 2048 →
      creditLeft (nth (s.link p).txL vc) (nth (s.link p).txS vc) ≠ 0 →
      ∃ (w : State) (c : Cell), exec (.txSequencedCell p vc) s = .next w ∧
        c.count = (s.link p).sent ∧ cType c.hdr = 1 ∧ cPvc c.hdr = vc ∧ cSeq c.hdr = (s.link p).sent % 4096 ∧
        c.payload = padTo 232 ((Tab.getD (s.port p).txBytes vc []).take 232) ∧
        (w.link p).sent = (s.link p).sent + 1 ∧ (w.link p).buffer = (s.link p).buffer ++ [c] ∧
        (w.link p).txCells = (s.link p).txCells + 1 ∧
        (w.link p).txS = bump32 (s.link p).txS vc ∧ (w.link p).wire = (s.link p).wire ++ [c] ∧
        Tab.getD (w.port p).txBytes vc [] = (Tab.getD (s.port p).txBytes vc []).drop 232 ∧
        (∀ q, q ≠ p → w.link q = s.link q ∧ w.port q = s.port q) ∧
        s.RegsBut w ((List.range 8).map (K.creditState p)) ∧
        w = { s with links := w.links, ports := w.ports, regs := w.regs }) ∧
    (∀ c, (s.rd (K.portState p) = 2 ∨ s.rd (K.portState p) = 3) → (∀ x, (s.link p).splice = some x → x.agreed = false) →
      (s.link p).replaying = true → (s.link p).txCells < s.rd (K.rekeyCells p) →
      (s.link p).buffer.find? (fun x => x.count = (s.link p).resend) = some c →
      exec (.txSequencedCell p vc) s = .next ((s.reserveOut p true).setLink p { s.link p with
        wire := (s.link p).wire ++ [c]
        txCells := (s.link p).txCells + 1
        resend := (s.link p).resend + 1
        oldestResends := if (s.link p).resend = (s.link p).acked then (s.link p).oldestResends + 1 else (s.link p).oldestResends
        replaying := decide ((s.link p).resend + 1 < (s.link p).sent) })) ∧
    (s.rd (K.rekeyCells p) ≤ (s.link p).txCells →
      ∃ w : State, exec (.txSequencedCell p vc) s = .next w ∧ w.link p = s.link p ∧ w = { s with ports := w.ports }) ∧
    ((s.link p).acked < (s.link p).sent → (s.link p).replaying = false →
      exec (.replayTimeout p) s = .next ((s.setLink p { s.link p with replaying := true, resend := (s.link p).acked }).count
        (K.linkEvents p 4) 1)) ∧
    exec (.replayReqHoldoff p) s = .next (s.setLink p { s.link p with holdoff := false }) ∧
    ((s.link p).mode = 1 → vc ∉ (s.link p).refresh →
      exec (.creditRefresh p vc) s = .next (s.setLink p { s.link p with refresh := (s.link p).refresh ++ [vc] })) ∧
    (16 ≤ (s.link p).oldestResends → s.rd (K.portState p) = 2 ∨ s.rd (K.portState p) = 3 → (s.link p).splice = none →
      (s.link p).txCells < s.rd (K.rekeyCells p) →
      ∃ (w : State) (x : Splice) (c : Cell), exec (.replayResendLimit p) s = .next w ∧ (w.link p).splice = some x ∧ x.kind = 1 ∧
        x.mine = true ∧ x.agreed = false ∧ x.no = ((s.link p).spliceNo + 1) % 65536 ∧ (w.link p).oldestResends = 0 ∧
        (w.link p).wire = (s.link p).wire ++ [c] ∧ cType c.hdr = 5 ∧ w = { s with links := w.links, ports := w.ports }) ∧
    (16 ≤ (s.link p).oldestResends → (s.link p).splice.isSome = true →
      exec (.replayResendLimit p) s = .next (s.setLink p { s.link p with
        oldestResends := 0
        due := some (1, fld (s.rd (K.trainedConfig p)) 1 0, fld (s.rd (K.trainedConfig p)) 3 2, fld (s.rd (K.trainedConfig p)) 23 16) })) ∧
    (s.rd (K.portState p) = 3 → (s.link p).flipDue = false → (s.link p).phaseStart < (s.link p).acked →
      s.rd (K.rekeyCells p) ≤ (s.link p).txCells + 2 ^ 20 →
      exec (.keyPhaseFlip p) s = .next ((s.setLink p { s.link p with
        txPhase := (s.link p).txPhase + 1, txCells := 0, phaseStart := (s.link p).sent, flipDue := true, flipWait := false }).wr
          (K.portKeyState p) (2 * ((s.link p).rxPhase % 2) + ((s.link p).txPhase + 1) % 2)))
/-- What the receiver of a port that is up, or in a splice, does with cells (03 R64, R68, R70, R72, R75, R76, R79, R82, 05 R131). Cells that
it accepts: a TRANSPORT cell in order advances E and its payload joins its channel's stream, from which no message is whole yet, and its
buffer is released, or held while the port's tile is throttled; a KEY_MARK in order advances E and its key phase is followed; a cell that
comes too early draws a REPLAY_REQ and opens the gap; a cell already received is counted as a duplicate; a link-control cell with a newer
CCOUNT is acted on: REPLAY_REQ, CREDIT_SYNC, or an IDLE's own fields alone; a cell with a reserved CTYPE is dropped and counted. A cell that
lies in a block with an uncorrectable codeword, or fails its CRC, is dropped whole. -/
def Obligations.LinkReceives : Prop :=
  ∀ (s : State) (p hdr : Nat) (payload : List Byte) (noise : List (Nat × Nat)) (t : Nat), p < 36 →
    (s.rd (K.portState p) = 2 ∨ s.rd (K.portState p) = 3 ∨ s.rd (K.portState p) = 4) →
    ((s.cellArrives p).1 = false → cPlen hdr ≤ 232 →
      (∀ b, b = Tab.getD (s.port p).rxPart (cPvc hdr) [] ++ slice payload 0 (cPlen hdr) → cType hdr = 1 →
        cSeq hdr = (s.link p).expect % 4096 →
        (b.length < 4 ∨ (leAt b 2 2 % 8 = 0 ∧ 16 ≤ leAt b 2 2 ∧ leAt b 2 2 ≤ 4224 ∧ b.length < leAt b 2 2)) →
        ∃ w : State, exec (.rxTransportCell p hdr payload true true noise t) s = .next w ∧
          (w.link p).expect = (s.link p).expect + 1 ∧ (w.link p).gap = false ∧
          ((s.router p).throttled = false → nth (s.link p).rxHeld (cPvc hdr) = 0 →
            (w.link p).rxDone = bump32 (s.link p).rxDone (cPvc hdr) ∧ (w.link p).rxL = bump32 (s.link p).rxL (cPvc hdr)) ∧
          ((s.router p).throttled = true → b ≠ [] →
            (w.link p).rxDone = (s.link p).rxDone ∧ (w.link p).rxHeld = addAt (s.link p).rxHeld (cPvc hdr) 1) ∧
          Tab.getD (w.port p).rxPart (cPvc hdr) [] = b ∧ (∀ q, q ≠ p → w.link q = s.link q ∧ w.port q = s.port q) ∧
          w = { s.at t with links := w.links, ports := w.ports, regs := w.regs }) ∧
      (cType hdr = 2 → cSeq hdr = (s.link p).expect % 4096 →
        ∃ w : State, exec (.rxKeyMark p hdr true true) s = .next w ∧ (w.link p).expect = (s.link p).expect + 1 ∧
          (w.link p).rxPhase = (if cKph hdr ≠ (s.link p).rxPhase % 2 then (s.link p).rxPhase + 1 else (s.link p).rxPhase) ∧
          w.rd (K.portKeyState p) = 2 * ((w.link p).rxPhase % 2) + (w.link p).txPhase % 2 ∧ w.ports = s.ports ∧
          w = { s with links := w.links, regs := w.regs }) ∧
      (cType hdr = 2 → (∃ d, 1 ≤ d ∧ d < 2048 ∧ cSeq hdr = ((s.link p).expect + d) % 4096) → (s.link p).gap = false →
        (s.link p).txCells < s.rd (K.rekeyCells p) →
        ∃ (w : State) (c : Cell), exec (.rxKeyMark p hdr true true) s = .next w ∧ (w.link p).gap = true ∧ (w.link p).holdoff = true ∧
          (w.link p).expect = (s.link p).expect ∧ (w.link p).wire = (s.link p).wire ++ [c] ∧ cType c.hdr = 3 ∧
          c.payload.drop 8 = toLE 2 ((s.link p).expect % 4096) ++ toLE 2 0 ++ List.replicate 220 0#8 ∧
          s.RegsBut w [K.linkEvents p 2] ∧ w = { s with links := w.links, ports := w.ports, regs := w.regs }) ∧
      (cType hdr = 2 → (∃ d, 1 ≤ d ∧ d ≤ 2048 ∧ (cSeq hdr + d) % 4096 = (s.link p).expect % 4096) →
        exec (.rxKeyMark p hdr true true) s = .next ((((s.cellArrives p).2.updLink p (fun k => { k with crcRun := 0 })).reserveIn p true).count
          (K.linkEvents p 5) 1)) ∧
      (∀ v, v = (if cType hdr = 0 then (s.cellArrives p).2 else (s.cellArrives p).2.reserveIn p false) →
        (∀ u, v.rxCtl p hdr payload true true = some u →
          (cType hdr = 0 → exec (.rxIdleCell p hdr payload true true) s = .next u) ∧
          (cType hdr = 3 → ∀ c, (u.link p).replaying = false → (u.link p).acked ≤ c → c < (u.link p).sent →
            c < (u.link p).acked + 4096 → leAt payload 8 2 % 4096 = c % 4096 →
            exec (.rxReplayReq p hdr payload true true) s = .next
              ((u.setLink p { u.link p with replaying := true, resend := c }).count (K.linkEvents p 3) 1)) ∧
          (cType hdr = 4 → leAt payload 8 2 < 2 →
            ∃ w : State, exec (.rxCreditSync p hdr payload true true) s = .next w ∧
              (w.link p).txL = (List.range 4).map (fun v => leAt payload (12 + 4 * v) 4) ∧
              (w.link p).farMode = some (leAt payload 8 2) ∧
              (w.link p).mode = (if (u.link p).sentMode = leAt payload 8 2 then leAt payload 8 2 else 0) ∧
              u.RegsBut w ((List.range 8).map (K.creditState p)) ∧ w = { u with links := w.links, regs := w.regs }) ∧
          (cType hdr = 4 → 2 ≤ leAt payload 8 2 →
            exec (.rxCreditSync p hdr payload true true) s = .next (u.count (K.linkEvents p 6) 1))) ∧
        (leAt payload 0 8 / 2 ^ 63 = 1 → (∀ x, (s.link p).lastCcount = some x → x < leAt payload 0 8) → (s.link p).gap = true →
          ∃ u, v.rxCtl p hdr payload true true = some u ∧ (u.link p).lastCcount = some (leAt payload 0 8) ∧ u.ports = v.ports)) ∧
      (8 ≤ cType hdr →
        exec (.rxReservedCtype p hdr true) s = .next
          (((s.cellArrives p).2.updLink p (fun k => { k with reserved := k.reserved + 1, crcRun := 0 })).count (K.linkEvents p 6) 1))) ∧
    (∀ crcOk tagOk : Bool, (s.cellArrives p).1 = true ∨ crcOk = false →
      (cType hdr = 2 → exec (.rxKeyMark p hdr crcOk tagOk) s = .next ((s.cellArrives p).2.crcDrop p (s.cellArrives p).1)) ∧
      (8 ≤ cType hdr → exec (.rxReservedCtype p hdr crcOk) s = .next ((s.cellArrives p).2.crcDrop p (s.cellArrives p).1)))

/-- Where a link session ends, and where lanes are counted (03 R64, R65, R68, R71, R73, R74): at the fourth tag failure, which is also
logged, at the sixteenth reserved CTYPE, at REKEY_CELLS without a permitted flip, and at a loss of lock, which begins a fast splice. The
session's replay buffer, key phases and unsent messages are gone and a SECURE port is BOOTSTRAP, before its holders and pairs follow
(`portDown`, 07 R178, 10 R238). An FEC block counts 4 codewords; one without an uncorrectable codeword ends the run of those that have
one, and one with such a codeword adds to it and is remembered for the cells that it reaches. A lane past its limit in two frames is
marked bad and a degrade splice to the remaining good lanes is asked for; too many uncorrectable codewords in a frame ask for a
recalibration; while a splice is in progress either is due after it. -/
def Obligations.LinkEndsAndDegradation : Prop :=
  (∀ (s : State) (p : Nat), p < 36 →
    (∀ c, ((c = Instr.tagFailureLimit p ∧ 4 ≤ (s.link p).tagFails) ∨ (c = Instr.reservedCtypeLimit p ∧ 16 ≤ (s.link p).reserved) ∨
        (c = Instr.rekeyLimit p ∧ s.rd (K.rekeyCells p) ≤ (s.link p).txCells ∧ (s.link p).mayFlip = false)) →
      s.rd (K.portState p) = 3 →
      ∃ u : State, exec c s = .next (u.portDown p) ∧ u.rd (K.portState p) = 2 ∧ u.rd (K.portKeyState p) = 0 ∧
        (u.link p).buffer = [] ∧ (u.link p).txPhase = 0 ∧ (u.link p).rxPhase = 0 ∧ (u.link p).tagFails = 0 ∧
        (u.port p).out = [] ∧ (u.port p).txBytes = [] ∧ (u.port p).linkNo = (s.port p).linkNo + 1 ∧
        (∀ q, q ≠ p → u.link q = s.link q ∧ u.port q = s.port q) ∧
        u.secLog = (if c = Instr.tagFailureLimit p then (s.security 2 0 p p 0).secLog else s.secLog) ∧
        u = { s with regs := u.regs, secLog := u.secLog, links := u.links, ports := u.ports, boot := u.boot, sess := u.sess }) ∧
    (8 ≤ (s.link p).uncorrRun ∨ 4 ≤ (s.link p).crcRun → s.rd (K.portState p) = 3 →
      ∃ (u : State) (x : Splice), exec (.lossOfLock p) s = .next (u.portDown p) ∧ u.rd (K.portState p) = 4 ∧
        (u.link p).splice = some x ∧ x.kind = 4 ∧ x.back = 2 ∧ (u.link p).ts = 2 ∧ (u.link p).lockHold = true ∧
        (u.link p).buffer = [] ∧ (u.port p).out = [] ∧
        u = { s with regs := u.regs, links := u.links, ports := u.ports, boot := u.boot, sess := u.sess }) ∧
    (∃ w : State, exec (.fecBlockDecode p []) s = .next w ∧
      w.link p = { s.link p with uncorrRun := 0, rxBlocks := (s.link p).rxBlocks + 1 } ∧
      (s.rd (K.fecCounts p 0) + 4 < 2 ^ 64 → w.rd (K.fecCounts p 0) = s.rd (K.fecCounts p 0) + 4) ∧
      s.RegsBut w [K.fecCounts p 0, K.fecCounts p 1, K.fecCounts p 2] ∧ w = { s with links := w.links, regs := w.regs }) ∧
    ∀ (bad : List Nat) (i : Nat), i < 4 → uncorrectable (widthLanes (fld (s.rd (K.trainedConfig p)) 1 0)) bad i = true →
      ∃ w : State, exec (.fecBlockDecode p bad) s = .next w ∧ (w.link p).uncorrRun = (s.link p).uncorrRun + 1 ∧
        (w.link p).crcRun = 0 ∧ (s.link p).uncorr + 1 ≤ (w.link p).uncorr ∧ (w.link p).rxBlocks = (s.link p).rxBlocks + 1 ∧
        ((s.link p).rxCells ≤ blockLastCell (s.link p).rxBlocks →
          (w.link p).badBlocks = (s.link p).badBlocks ++ [(s.link p).rxBlocks]) ∧
        s.RegsBut w [K.fecCounts p 0, K.fecCounts p 1, K.fecCounts p 2] ∧ w = { s with links := w.links, regs := w.regs }) ∧
  (∀ (s : State) (p lane : Nat), p < 36 → lane < 8 →
    (s.rd (K.portState p) = 2 ∨ s.rd (K.portState p) = 3 → (s.link p).splice = none →
      (2 ≤ nth (s.link p).laneOver lane → bit (s.link p).bad lane = false →
        ∃ (w : State) (x : Splice), exec (.laneMarkedBad p lane) s = .next w ∧ (w.link p).bad = (s.link p).bad + 2 ^ lane ∧
          (w.link p).splice = some x ∧ x.kind = 3 ∧ x.mine = true ∧ x.agreed = false ∧ s.RegsBut w [K.linkEvents p 7] ∧
          w = { s with links := w.links, ports := w.ports, regs := w.regs }) ∧
      (s.rd (K.uncorrLimit p) < (s.link p).uncorrLast →
        ∃ (w : State) (x : Splice), exec (.uncorrLimitExceeded p) s = .next w ∧ (w.link p).splice = some x ∧ x.kind = 1 ∧ x.mine = true ∧
          (w.link p).uncorrLast = 0 ∧ w = { s with links := w.links, ports := w.ports })) ∧
    ((s.link p).splice.isSome = true →
      (2 ≤ nth (s.link p).laneOver lane → bit (s.link p).bad lane = false →
        ∃ (w : State) (width speed mask : Nat), exec (.laneMarkedBad p lane) s = .next w ∧ (w.link p).bad = (s.link p).bad + 2 ^ lane ∧
          (w.link p).due = some (3, width, speed, mask) ∧ (w.link p).splice = (s.link p).splice ∧
          s.RegsBut w [K.linkEvents p 7] ∧ w = { s with links := w.links, regs := w.regs }) ∧
      (s.rd (K.uncorrLimit p) < (s.link p).uncorrLast →
        exec (.uncorrLimitExceeded p) s = .next (s.setLink p { s.link p with
          uncorrLast := 0
          due := some (1, fld (s.rd (K.trainedConfig p)) 1 0, fld (s.rd (K.trainedConfig p)) 3 2, fld (s.rd (K.trainedConfig p)) 23 16) }))))

/-- SPLICE_CMD writes that are executed (03 R85, R90): on a port that is up with no splice in progress each starts a splice of its
KIND with the next SPLICE_NO, at most as wide and as fast as the port allows, and sends SPLICE_REQ; while a splice is in progress
each is refused with BUSY. -/
def Obligations.SpliceCommands : Prop :=
  ∀ (s : State) (sess seq p width speed mask t kind : Nat) (c : Instr), Manages s sess seq → p < 36 → width < 4 → speed < 3 → mask < 256 →
    ((c = .spliceCmdWidth sess seq p width speed mask t ∧ kind = 0) ∨ (c = .spliceCmdRecalibrate sess seq p width speed mask t ∧ kind = 1) ∨
      (c = .spliceCmdSpeed sess seq p width speed mask t ∧ kind = 2) ∨ (c = .spliceCmdDegrade sess seq p width speed mask t ∧ kind = 3)) →
    (s.rd (K.portState p) = 2 ∨ s.rd (K.portState p) = 3 → (s.link p).splice = none → (s.link p).txCells < s.rd (K.rekeyCells p) →
      ∃ (w : State) (x : Splice) (cell : Cell), exec c s = .next (w.wrote sess seq Code.ok t) ∧ (w.link p).splice = some x ∧ x.kind = kind ∧
        x.mine = true ∧ x.agreed = false ∧ x.no = ((s.link p).spliceNo + 1) % 65536 ∧
        x.width ≤ s.rd (K.maxWidth p) ∧ x.speed ≤ s.rd (K.maxSpeed p) ∧
        (w.link p).wire = (s.link p).wire ++ [cell] ∧ cType cell.hdr = 5 ∧ (∀ q, q ≠ p → w.link q = s.link q ∧ w.port q = s.port q) ∧
        w = { s.heard sess t with links := w.links, ports := w.ports }) ∧
    ((s.link p).splice.isSome = true → exec c s = .next ((s.heard sess t).wrote sess seq Code.busy t))

/-- The splice procedure at a port (03 R64, R69, R84 to R89, R91): a SPLICE_REQ or the SPLICE_ACK of this end's own request pauses the port,
which is then IN_SPLICE from TS1 and sends the training words of its state; SPLICE_PAUSE records the far end's last cell; training words
of the current state advance it, and words with FRESH end the link session first; the end of the TS4 countdown, within the splice's bound,
makes the agreed configuration the trained one and brings the port back; an unanswered request is resent three times and then the port
falls to full link-up, as it does past the splice's bound. `v` is the port once the cell has arrived, `u` the state in which the content
of an accepted cell is acted on. -/
def Obligations.SpliceProcedure : Prop :=
  ∀ (s : State) (p hdr : Nat) (payload : List Byte), p < 36 →
    (∀ v u, s.rd (K.portState p) = 2 ∨ s.rd (K.portState p) = 3 → (s.cellArrives p).1 = false → cType hdr ≠ 0 →
      v = (s.cellArrives p).2.reserveIn p false → v.rxCtl p hdr payload true true = some u →
      (cType hdr = 5 → (u.link p).splice = none → spliceReserved payload = false →
        ∃ (w : State) (x : Splice), exec (.rxSpliceReq p hdr payload true true) s = .next w ∧ (w.link p).splice = some x ∧ x.mine = false ∧
          x.agreed = true ∧ x.no = leAt payload 20 2 ∧ x.kind = leAt payload 19 1 ∧ x.width ≤ u.rd (K.maxWidth p) ∧
          x.speed ≤ u.rd (K.maxSpeed p) ∧ (w.link p).ts = 1 ∧ (w.link p).train = (w.link p).trainWords ∧
          w.rd (K.portState p) = 4 ∧ w.rd (K.peerLinkId p) = leAt payload 8 8 ∧
          u.RegsBut w [K.portState p, K.peerLinkId p] ∧ w = { u with links := w.links, ports := w.ports, regs := w.regs }) ∧
      (∀ x, cType hdr = 6 → (u.link p).splice = some x → x.mine = true → x.agreed = false → leAt payload 20 2 = x.no →
        spliceReserved payload = false →
        ∃ (w : State) (y : Splice), exec (.rxSpliceAck p hdr payload true true) s = .next w ∧ (w.link p).splice = some y ∧
          y = { x with width := y.width, speed := min (leAt payload 17 1) x.speed, mask := leAt payload 18 1 &&& x.mask, agreed := true } ∧
          y.width ≤ x.width ∧ y.width ≤ leAt payload 16 1 ∧ widthLanes y.width ≤ max 1 (laneCount y.mask) ∧
          (w.link p).ts = 1 ∧ (w.link p).train = (w.link p).trainWords ∧ w.rd (K.portState p) = 4 ∧ u.RegsBut w [K.portState p] ∧
          w = { u with links := w.links, ports := w.ports, regs := w.regs }) ∧
      (∀ x, cType hdr = 7 → (u.link p).splice = some x → leAt payload 10 2 = x.no →
        exec (.rxSplicePause p hdr payload true true) s = .next
          (u.setLink p { u.link p with splice := some { x with farLast := some (leAt payload 8 2 % 4096) } }))) ∧
    (∀ x words ask, s.rd (K.portState p) = 4 → (s.link p).splice = some x → x.agreed = true → wordsOk words = true → x.kind < 4 →
      twNo (words.headD 0) = x.no → twState (words.headD 0) = (s.link p).ts → (s.link p).ts < 4 →
      ∀ v, (twFresh (words.headD 0) = false ∧ v = s ∨ twFresh (words.headD 0) = true ∧ v = s.sessionEnd p) →
        ∃ u : State, u = (v.setLink p { v.link p with
            ts := (s.link p).ts + 1
            farCfg := twConfig (words.headD 0)
            laneOrder := words.map twLane
            farPrecode := if (s.link p).ts = 1 then (s.link p).farPrecode else twPrecode (words.headD 0)
            askPrecode := if (s.link p).ts = 1 then (s.link p).askPrecode else ask }).showTrain p ∧
          exec (.trainingStateAdvance p words ask) s = .next (if twFresh (words.headD 0) then u.portDown p else u)) ∧
    (∀ x word polarity us peer t, s.rd (K.portState p) = 4 → (s.link p).splice = some x → (s.link p).ts = 4 → x.kind < 4 →
      lastWordOk x word = true → us ≤ spliceBound x.kind → x.farLast = none → (s.link p).due = none →
      ∃ w : State, exec (.ts4CountdownEnd p word polarity us peer t) s = .next w ∧ w.rd (K.portState p) = x.back ∧
        w.rd (K.trainedConfig p) = s.trainedValue p polarity (x.width, x.speed, x.mask) ∧
        (w.link p).splice = none ∧ (w.link p).upFails = 0 ∧ (w.link p).fresh = false ∧ (w.link p).train = [] ∧
        (w.link p).win = (List.range 4).map (fun v => s.rd (K.rxWindows p v)) ∧
        s.RegsBut w [K.portState p, K.trainedConfig p, K.spliceStatus p, K.linkEvents p 8] ∧
        (∀ q, q ≠ p → w.link q = s.link q ∧ w.port q = s.port q) ∧
        w = { s.at t with links := w.links, ports := w.ports, regs := w.regs }) ∧
    (∀ x, (s.link p).splice = some x → x.mine = true → x.agreed = false →
      (x.resends < 3 → (s.link p).txCells < s.rd (K.rekeyCells p) →
        ∃ (w : State) (c : Cell), exec (.spliceResponseTimeout p) s = .next w ∧
          (w.link p).splice = some { x with resends := x.resends + 1 } ∧ (w.link p).wire = (s.link p).wire ++ [c] ∧ cType c.hdr = 5 ∧
          w = { s with links := w.links, ports := w.ports }) ∧
      (3 ≤ x.resends → ∃ (u : State) (y : Splice), exec (.spliceResponseTimeout p) s = .next (u.portDown p) ∧ u.rd (K.portState p) = 1 ∧
        (u.link p).splice = some y ∧ y.kind = 5 ∧ (u.link p).ts = 1 ∧ (u.link p).buffer = [] ∧
        u = { s with regs := u.regs, links := u.links, ports := u.ports, boot := u.boot, sess := u.sess })) ∧
    ((s.link p).splice = none → exec (.spliceResponseTimeout p) s = .next (s.dueSplice p)) ∧
    (∀ x us, s.rd (K.portState p) = 4 → (s.link p).splice = some x → x.agreed = true → x.kind ≠ 5 → spliceBound x.kind < us →
      ∃ (u : State) (y : Splice), exec (.spliceBoundExceeded p us) s = .next (u.portDown p) ∧ u.rd (K.portState p) = 1 ∧
        (u.link p).splice = some y ∧ y.kind = 5 ∧ (u.link p).ts = 1 ∧ (u.link p).buffer = [] ∧
        u = { s with regs := u.regs, links := u.links, ports := u.ports, boot := u.boot, sess := u.sess })

/-- Full link-up (03 R83, R84, R89): a port whose LOCK_HOLD expires and a FAILED port on its retry, 4,000 frames after it failed, begin
it with no link session; a third failure in a row, by its bound or otherwise, leaves the port FAILED, an earlier one tries again from TS1;
the end of the TS4 countdown brings the port to BOOTSTRAP with the far end's identity. -/
def Obligations.FullLinkUp : Prop :=
  ∀ (s : State) (p : Nat) (c : Instr), p < 36 →
    (((c = .lockHoldExpiry p ∧ (s.link p).lockHold = true) ∨
        (c = .failedPortRetry p ∧ s.rd (K.portState p) = 5 ∧ ∀ f, (s.link p).failedAt = some f → f + 4000 ≤ s.frame)) →
      ∃ (w : State) (y : Splice), exec c s = .next w ∧ w.rd (K.portState p) = 1 ∧ (w.link p).splice = some y ∧ y.kind = 5 ∧ y.back = 2 ∧
        (w.link p).ts = 1 ∧ (w.link p).lockHold = false ∧ (w.link p).buffer = [] ∧ (w.link p).train = (w.link p).trainWords ∧
        (w.port p).out = [] ∧
        w = { s with regs := w.regs, links := w.links, ports := w.ports, boot := w.boot, sess := w.sess }) ∧
    (s.rd (K.portState p) = 1 →
      (c = .linkUpFailed p ∨ ∃ x us, c = .spliceBoundExceeded p us ∧ (s.link p).splice = some x ∧ x.agreed = true ∧ x.kind = 5 ∧ 50000 < us) →
      ((s.link p).upFails < 2 →
        exec c s = .next ((s.setLink p { s.link p with upFails := (s.link p).upFails + 1, ts := 1 }).showTrain p)) ∧
      (2 ≤ (s.link p).upFails →
        exec c s = .next (((s.setLink p { s.link p with
          upFails := (s.link p).upFails + 1, ts := 1, splice := none, failedAt := some s.frame }).wr (K.portState p) 5).showTrain p))) ∧
    (∀ x word polarity us peer t, s.rd (K.portState p) = 1 → (s.link p).splice = some x → (s.link p).ts = 4 → x.kind = 5 →
      lastWordOk x word = true → us ≤ 50000 → x.farLast = none → (s.link p).due = none →
      ∃ w : State, exec (.ts4CountdownEnd p word polarity us peer t) s = .next w ∧ w.rd (K.portState p) = x.back ∧
        w.rd (K.peerLinkId p) = peer ∧ w.rd (K.trainedConfig p) = s.trainedValue p polarity (s.upConfig p x) ∧
        (w.link p).splice = none ∧ (w.link p).upFails = 0 ∧
        s.RegsBut w [K.portState p, K.peerLinkId p, K.trainedConfig p] ∧
        w = { s.at t with links := w.links, ports := w.ports, regs := w.regs })

/-- The mesh's commands (05 R24, R121 to R126, R131, R132, R134): through a mesh that holds nothing else, an open unicast packet that may
start comes to its tile in 10 mesh cycles a hop and adds its count and its content, by OFFSET, to its message's record, which closes and
is handed to its block when the counts reach the total, whatever LAST says; the depth of the injection queues moves INJECT_PEAK and
throttles or releases the tile's open traffic, and a release gives back the credits held. -/
def Obligations.MeshMessagesAndThrottle : Prop :=
  (∀ (s : State) (k : MeshPkt) (d t : Nat) (old : MeshRec), s.flights = [] → s.meshWait = [] → (∀ u, u < 36 → (s.router u).bufs = []) →
    k.src < 36 → d < 36 → k.mask = 2 ^ d → k.cls ≠ .mcast → k.bad = [] → s.isSealed k.part = false → s.mayStart k = true →
    (s.router k.src).throttled = false →
    old = ((s.router d).records.find? (fun r => decide (r.block = k.block) && decide (r.id = k.id))).getD
      ⟨k.block, k.id, k.part, k.total, 0, [], []⟩ →
    ∃ w : State, exec (.meshMessageComplete k [] t) s = .next w ∧ w.flights = [] ∧ w.meshWait = [] ∧
      (old.got + k.count = old.total →
        (w.router d).records = (s.router d).records.filter (fun r => !(decide (r.block = k.block) && decide (r.id = k.id))) ∧
        (k.block, (⟨old.id, old.part, ((Tab.set old.content k.offset k.data).map (fun (e : Nat × List Byte) => e.2)).flatten, old.bad,
          (s.at t).meshNow + 10 * meshHops k.src d⟩ : MeshMsg)) ∈ (w.router d).handed) ∧
      (old.got + k.count ≠ old.total →
        (w.router d).records = (s.router d).records.filter (fun r => !(decide (r.block = k.block) && decide (r.id = k.id)))
          ++ [{ old with got := old.got + k.count, content := Tab.set old.content k.offset k.data }] ∧
        (w.router d).handed = (s.router d).handed) ∧
      (∀ u, u ≠ d → (w.router u).records = (s.router u).records ∧ (w.router u).handed = (s.router u).handed) ∧
      (∀ key, key ≠ K.injectPeak k.src → (∀ u i, key ≠ K.meshCounts u i) → w.rd key = s.rd key) ∧
      w = { s.at t with mesh := w.mesh, regs := w.regs }) ∧
  ∀ (s : State) (tile req rsp sreq srsp t high : Nat), tile < 36 →
    high = max (req + s.waitFlits tile false false) (rsp + s.waitFlits tile true false) →
    (s.eff K.throttleHigh ≤ high → (s.router tile).throttled = false →
      ∃ w : State, exec (.throttleEnter tile req rsp sreq srsp t) s = .next w ∧
        w.router tile = { s.router tile with
          injReq := req, injRsp := rsp, injSealed := (sreq, srsp), throttled := true, throttledFrame := true
          since := (s.at t).meshNow, slow := 0 } ∧
        (s.meshWait = [] →
          w.rd (K.injectPeak tile) = max (s.rd (K.injectPeak tile)) (max (min 256 (req + sreq)) (min 256 (rsp + srsp)))) ∧
        s.RegsBut w [K.injectPeak tile, K.meshCounts tile 3] ∧ w = { s.at t with mesh := w.mesh, regs := w.regs }) ∧
    (high ≤ s.eff K.throttleLow →
      ∃ w : State, exec (.throttleLeave tile req rsp sreq srsp t) s = .next w ∧
        w.router tile = { s.router tile with injReq := req, injRsp := rsp, injSealed := (sreq, srsp), throttled := false } ∧
        (∀ v, v < 4 → 0 < nth (s.link tile).rxHeld v → v < (s.link tile).rxDone.length → nth (w.link tile).rxHeld v = 0 ∧
          nth (w.link tile).rxDone v = (nth (s.link tile).rxDone v + nth (s.link tile).rxHeld v) % 2 ^ 32) ∧
        (∀ q, q ≠ tile → w.link q = s.link q) ∧
        s.RegsBut w [K.injectPeak tile] ∧ w = { s.at t with mesh := w.mesh, links := w.links, regs := w.regs })

/-- READ, FENCE and HEARTBEAT at their home (04 R98, R99, R111, R150; 08 R196; 09 R212). A READ that passes every check and waits for no
halted stack, no recall and no retry reads each line once and is answered READ_RESP: with its bytes where every line is good; with DATA_ERROR and
LINE_ERR alone, or under poison mode with POISONED and the bytes too, where one is bad, and then a fault is noted. A FENCE with
nothing before it is answered OK. A HEARTBEAT of a live lease makes it LIVE again until EXPIRY_FRAMES from now. -/
def Obligations.ReadsFencesAndHeartbeats : Prop :=
  ∀ (s : State) (port n t : Nat) (h : Hdr),
    (∀ (addr len e : Nat) (noise : List (Nat × Nat)), addr < 2 ^ 48 → len ≤ 4096 →
      let b := toLE 8 addr ++ toLE 2 len ++ toLE 6 0
      let u := s.began port 0x01 h b n t
      let r := (s.accepted port 0x01 h b n t).1
      let g := u.readLines e addr len h.handle [] noise
      Starts s port 0x01 h b n t → u.halts addr = false → u.homeCheck h.handle n addr false = .ok e → u.toRecall e addr len false = [] →
      u.retryDue e addr len h.handle [] noise = none →
      exec (.read port h addr len noise t) s = .next (
        if lineErr g.1 = 0 then g.2.answer r 0x81 Code.ok (toLE 8 0 ++ slice (lineBytes g.1) (addr % 128) len)
        else if u.poisonMode (handlePart h.handle) then
          (g.2.answer r 0x81 Code.poisoned (toLE 8 (lineErr g.1) ++ slice (lineBytes g.1) (addr % 128) len)).noteFault
            (handlePart h.handle)
        else (g.2.answer r 0x81 Code.dataError (toLE 8 (lineErr g.1))).noteFault (handlePart h.handle))) ∧
    (Starts s port 0x04 h [] n t →
      exec (.fence port h t) s = .next ((s.began port 0x04 h [] n t).answer (s.accepted port 0x04 h [] n t).1 0x84 Code.ok [])) ∧
    (let u := s.began port 0x05 h [] n t
     Starts s port 0x05 h [] n t → u.rd (K.leaseState n) = 1 ∨ u.rd (K.leaseState n) = 2 →
      ∃ w : State, exec (.heartbeat port h t) s = .next (w.answer (s.accepted port 0x05 h [] n t).1 0x85 Code.ok
          (toLE 8 (u.frame + u.leaseE n))) ∧
        w.rd (K.leaseState n) = 1 ∧ w.rd (K.leaseExpiry n) = u.frame + u.leaseE n ∧
        Tab.getD w.lease.lastBeat n 0 = u.frame ∧ u.RegsBut w [K.leaseState n, K.leaseExpiry n] ∧
        w = { u with regs := w.regs, lease := { u.lease with lastBeat := w.lease.lastBeat } })

/-- WRITE and ATOMIC at their home (04 R98, R100, R106; 08 R196; 09 R212; 10 R236). A WRITE that passes every check and waits for nothing stores
every line that it can, its data at its address, and is answered OK, or with the partition's bad status where a line could not be
merged, which is noted as a fault; an ATOMIC stores the result of its operation on the old value and answers the old value padded
to 16 bytes, or changes nothing where the line is bad. Where the extent is the primary copy of a pair, the pair is given the
range of lines written before the answer. -/
def Obligations.WritesAndAtomics : Prop :=
  ∀ (s : State) (port n t : Nat) (h : Hdr) (addr e : Nat) (noise : List (Nat × Nat)), addr < 2 ^ 48 →
    (∀ data : List Byte, 1 ≤ data.length → data.length ≤ 4096 →
      let b := toLE 8 addr ++ toLE 2 data.length ++ toLE 6 0 ++ padTo (pad8 data.length) data
      let u := s.began port 0x02 h b n t
      let r := (s.accepted port 0x02 h b n t).1
      let p := handlePart h.handle
      let w := u.writeBytes e addr data h.handle noise
      Starts s port 0x02 h b n t → u.halts addr = false → u.homeCheck h.handle n addr true = .ok e → u.writeWaits e addr data.length r = none →
      ((w.1.all id = true → u.primaryPair p (vaIndex addr) = none →
        exec (.write port h addr data noise t) s = .next (w.2.answer r 0x82 Code.ok [])) ∧
       (w.1.all id = false → u.primaryPair p (vaIndex addr) = none ∨ writtenRange addr data.length w.1 = none →
        exec (.write port h addr data noise t) s = .next ((w.2.noteFault p).answer r 0x82 (u.badStatus p) [])) ∧
       (∀ m a l, w.1.all id = true → u.primaryPair p (vaIndex addr) = some m → writtenRange addr data.length w.1 = some (a, l) →
        exec (.write port h addr data noise t) s = .next (w.2.pairAnswer m e a l r Code.ok [])) ∧
       (∀ m a l, w.1.all id = false → u.primaryPair p (vaIndex addr) = some m → writtenRange addr data.length w.1 = some (a, l) →
        exec (.write port h addr data noise t) s = .next ((w.2.noteFault p).pairAnswer m e a l r (u.badStatus p) [])))) ∧
    (∀ op size x y : Nat, op ≤ 10 → size ≤ 16 → x < 2 ^ 128 → y < 2 ^ 128 →
      let b := toLE 8 addr ++ toLE 1 op ++ toLE 1 size ++ toLE 6 0 ++ toLE 16 x ++ toLE 16 y
      let u := s.began port 0x03 h b n t
      let r := (s.accepted port 0x03 h b n t).1
      let p := handlePart h.handle
      let g := u.readLine e (addr / 128 * 128) h.handle (noiseOf noise 0) false
      Starts s port 0x03 h b n t → u.halts addr = false → u.homeCheck h.handle n addr true = .ok e → u.writeWaits e addr size r = none →
      u.retryDue e addr size h.handle [] noise = none →
      (∀ l, g.1 = .data l →
        let old := leAt l (addr % 128) size
        let w := g.2.writePiece e (addr / 128 * 128) (splice l (addr % 128)
          (toLE size (atomicResult op size old (x % 2 ^ (8 * size)) (y % 2 ^ (8 * size))))) h.handle [] []
        (u.primaryPair p (vaIndex addr) = none →
          exec (.atomic port h addr op size x y noise t) s = .next (w.2.answer r 0x83 Code.ok (padTo 16 (toLE size old)))) ∧
        (∀ m, u.primaryPair p (vaIndex addr) = some m →
          exec (.atomic port h addr op size x y noise t) s = .next
            (w.2.pairAnswer m e addr size r Code.ok (padTo 16 (toLE size old))))) ∧
      (∀ f, g.1 = .bad f →
        exec (.atomic port h addr op size x y noise t) s = .next (
          if u.poisonMode p then (g.2.answer r 0x83 Code.poisoned (List.replicate 16 0#8)).noteFault p
          else (g.2.answer r 0x83 Code.dataError []).noteFault p)))

/-- Memory, byte by byte (04 R98, R99; 06 R139; 09 R205): a WRITE to a plain place (mapped, homed on a stack in use, not fresh, no
mirror copy, no pair, no relocation, no cached copy, every line it touches stored without error) stores each byte of its data at
its own address and leaves every other byte of pool memory as it was; a READ of a plain place answers the bytes stored there and
leaves memory as it was. -/
def Obligations.PlainMemory : Prop :=
  ∀ (s : State) (port n t : Nat) (h : Hdr) (addr e : Nat) (op : Nat) (b : List Byte) (len : Nat), addr < 2 ^ 48 → len ≤ 4096 →
    h.handle < 65536 →
    let u := s.began port op h b n t
    let home := u.homeDpa e addr
    Starts s port op h b n t → u.halts addr = false → eMirrored e = false → eKind e ≠ 1 → u.homeTile addr < 36 → (u.stack (u.homeTile addr)).lost = false →
    u.isFresh home = false → u.keySt (eDxn e) = 1 → u.cont.reloc = none →
    (∀ ln ∈ linesOf addr len, u.errsOf (u.homeDpa e ln / 128) = []) →
    (∀ data : List Byte, data.length = len → op = 0x02 →
      b = toLE 8 addr ++ toLE 2 len ++ toLE 6 0 ++ padTo (pad8 len) data →
      u.homeCheck h.handle n addr true = .ok e → u.primaryPair (handlePart h.handle) (vaIndex addr) = none →
      ∃ w : State, exec (.write port h addr data [] t) s = .next w ∧
        (∀ i, i < len → w.byteAt (home + i) = data.getD i 0#8) ∧
        (∀ a, a < home ∨ home + len ≤ a → w.byteAt a = s.byteAt a) ∧
        w.written = s.written ∧ w.tags = s.tags) ∧
    (op = 0x01 → b = toLE 8 addr ++ toLE 2 len ++ toLE 6 0 → u.homeCheck h.handle n addr false = .ok e →
      ∃ v w : State, exec (.read port h addr len [] t) s = .next w ∧
        w = v.answer (s.accepted port op h b n t).1 0x81 Code.ok
          (toLE 8 0 ++ (List.range len).map (fun i => s.byteAt (home + i))) ∧
        w.mem = s.mem ∧ w.written = s.written)

/-- RD_SHARED, RD_OWN and UPGRADE at the directory (07 R167, R168, R170, R172, R173). Of a line that nobody holds and nothing is
pending on, each is answered from memory and the requester becomes its one holder: EXCLUSIVE for RD_SHARED, MODIFIED for the other
two. Of a line that another binding owns, with nothing pending, the owner is sent FWD_SHARED, or FWD_OWN that names the requester as
the coming owner. An UPGRADE by the only sharer is granted MODIFIED without data. -/
def Obligations.DirectoryRequests : Prop :=
  ∀ (s : State) (port n t addr e op : Nat) (h : Hdr) (c : Instr), addr < 2 ^ 48 →
    (op = 0x30 ∧ c = .rdShared port h addr t) ∨ (op = 0x31 ∧ c = .rdOwn port h addr t) ∨ (op = 0x32 ∧ c = .upgrade port h addr t) →
    let b := toLE 8 addr ++ toLE 8 0
    let u := s.began port op h b n t
    let r := (s.accepted port op h b n t).1
    let ln := u.homeDpa e addr / 128
    lineTile ln < 36 → Starts s port op h b n t → u.halts addr = false → u.bindingLives n = true → u.secure (bPort (u.binding n)) = true →
    u.cohCheck r addr = .ok e → Tab.find u.evicts ln = none → Tab.find u.pends ln = none →
    u.waitersOf (.line ln) = [] → (u.pends.filter (fun q => lineTile q.1 = lineTile ln)).length < 4096 →
    (u.dirEnt ln = none → (u.dir.filter (fun q => lineTile q.1 = lineTile ln ∧ lineSet q.1 = lineSet ln)).length < 16 →
      ∀ d, ((u.count (K.cohCounts (lineTile ln) 0) 1).cohRead ln h.handle).1 = .data d →
      ∃ (w : State) (x : DirEnt), exec c s = .next w ∧ w.dirEnt ln = some x ∧ x.ptrs = [n] ∧
        x.st = (if op = 0x30 then 2 else 3) ∧
        (w.port port).out = (u.port port).out ++ [r.reply 0xB0 Code.ok
          (toLE 8 (if op = 0x30 then 3 else 4) ++ d)] ∧
        (∀ l, l ≠ ln → w.dirEnt l = u.dirEnt l) ∧ w.pends = u.pends ∧ w.evicts = u.evicts ∧ w.mem = u.mem) ∧
    (∀ x m, u.dirEnt ln = some x → x.owner = some m → m ≠ n → x.records n = false → m < 4096 →
      u.bindingLives m = true →
      ∃ w : State, exec c s = .next w ∧ w.dirEnt ln = some x ∧
        (w.pend ln).fwds = [⟨0, m, r, decide (op ≠ 0x30), if op = 0x30 then 1 else 4, none⟩] ∧
        (w.pend ln).transfer = (if op = 0x30 then none else some n) ∧
        (∃ y ∈ (w.port (bPort (u.binding m))).outReq, y.purpose = .fwd ln 0 m ∧
          y.msg.op = (if op = 0x30 then 0x38 else 0x39) ∧ y.msg.dst = bEid (u.binding m)) ∧
        w.dir = u.dir ∧ w.evicts = u.evicts ∧ w.mem = u.mem) ∧
    (∀ x, op = 0x32 → u.dirEnt ln = some x → x.st = 1 → x.ptrs = [n] → x.coarse = false →
      ∃ (w : State) (y : DirEnt), exec c s = .next w ∧ w.dirEnt ln = some y ∧ y.st = 3 ∧ y.ptrs = [n] ∧
        (w.port port).out = (u.port port).out ++ [r.reply 0xB1 Code.ok (toLE 8 4)] ∧
        (∀ l, l ≠ ln → w.dirEnt l = u.dirEnt l) ∧ Tab.find w.pends ln = none ∧ w.evicts = u.evicts ∧ w.mem = u.mem)

/-- What holders send (07 R163, R171, R173, R174, R176). DIRTY_NOTIFY by the owner of an EXCLUSIVE line makes it MODIFIED;
WRITEBACK by the owner writes the line to memory and leaves it uncached; EVICT_CLEAN takes the sender off the entry; each is answered
OK. A BACK_INVAL_ACK of an evicted line is settled and no longer owed; a FWD_ACK with OUTCOME 0 for the line's one ownership forward
makes the requester the MODIFIED owner. A completed recall leaves the line uncached, an eviction with nothing owed leaves the buffer. -/
def Obligations.HoldersAnswer : Prop :=
  ∀ (s : State) (port n t addr e : Nat) (h : Hdr), addr < 2 ^ 48 →
    (∀ (op : Nat) (line b : List Byte), line.length = 128 →
      b = toLE 8 addr ++ toLE 8 0 ++ (if op = 0x34 then line else []) →
      let u := s.began port op h b n t
      let r := (s.accepted port op h b n t).1
      let ln := u.homeDpa e addr / 128
      Starts s port op h b n t → u.halts addr = false → u.cohCheck r addr = .ok e → Tab.find u.evicts ln = none →
      (op = 0x33 → ∀ x, u.dirEnt ln = some x → x.st = 2 → x.owner = some n → Tab.find u.pends ln = none →
        exec (.dirtyNotify port h addr t) s = .next (((u.putEnt ln { x with st := 3 }).count (K.cohCounts (lineTile ln) 6) 1).answer r
          0xB3 Code.ok [])) ∧
      (op = 0x34 → ∀ x, u.dirEnt ln = some x → x.owner = some n → Tab.find u.pends ln = none → u.waitLines = [] →
        exec (.writeback port h addr line t) s = .next (((u.cohWrite ln line h.handle).dropEnt ln).answer r 0xB3 Code.ok [])) ∧
      (op = 0x35 → ∀ x, u.dirEnt ln = some x → x.records n = true → u.inRecall ln = false →
        exec (.evictClean port h addr t) s = .next ((u.putOpt ln (x.remove n)).answer r 0xB3 Code.ok []))) ∧
    (∀ (q : PartReq) (ln b : Nat) (line : Option (List Byte)) (v : Evict), Matches s port 0xBA h t q → q.purpose = .backInval ln b →
      h.status = Code.ok → Tab.find s.evicts ln = some v → line = none →
      ∃ w : State, exec (.backInvalAck port h line t) s = .next w ∧
        Tab.find w.evicts ln = some { v with owed := v.owed.filter (· ≠ b) } ∧
        w = { ((s.at t).settle q).endSilence b with evicts := w.evicts }) ∧
    (∀ (q : PartReq) (ln k b kept : Nat) (r : Req), Matches s port 0xB9 h t q → q.purpose = .fwd ln k b → h.status = Code.ok →
      kept ≤ 4 → s.pend ln = { fwds := [⟨k, b, r, true, 4, none⟩], nextK := k + 1, transfer := some r.bind } → s.waitLines = [] →
      (s.dirEnt ln).isSome = true → s.bindingLives r.bind = true → s.secure (bPort (s.binding r.bind)) = true →
      ∃ (w : State) (x : DirEnt), exec (.fwdAck port h 0 kept none t) s = .next w ∧ w.dirEnt ln = some x ∧ x.st = 3 ∧
        x.ptrs = [r.bind] ∧ Tab.find w.pends ln = none ∧ (∀ y ∈ (w.port r.port).pending, y.id ≠ r.id) ∧
        (∀ l, l ≠ ln → w.dirEnt l = s.dirEnt l) ∧ w.mem = s.mem) ∧
    (∀ ln, s.recalled ln = true → s.waitLines = [] → (s.pend ln).fwds = [] → (s.pend ln).awaited = none → (s.pend ln).after = [] →
      (s.pend ln).bars = [] → (s.pend ln).due = false →
      ∃ w : State, exec (.uncachedRecallComplete ln t) s = .next w ∧ w.dirEnt ln = none ∧ Tab.find w.pends ln = none ∧
        (∀ l, l ≠ ln → w.dirEnt l = s.dirEnt l) ∧
        w = { s.at t with dir := w.dir, pends := w.pends, regs := w.regs }) ∧
    (∀ ln v, Tab.find s.evicts ln = some v → v.owed = [] → s.waiting = [] → (∀ q ∈ s.pends, q.2.bars = []) →
      exec (.dirEvictionComplete ln t) s = .next { s.at t with evicts := Tab.erase s.evicts ln })

/-- Extents, keys and leases (06 R144, R145, R150 to R152; 07 R176, R178; 17 R382). CRYPTO_ERASE, once the writes queued to the device
extent are issued, makes every granule of it fresh, its key EMPTY and its tag the new owner's. KEY_DRAW draws the key that requests wait for. The quarantine of an extent
ends at its frame. A lease two heartbeats old becomes LATE and its endpoint is told; one that is past its expiry becomes EXPIRED
and what it held begins to be reclaimed; when that is complete it is DEAD and its cached completions are gone. A holder whose grace
has passed is lost, and so is a line whose WRITEBACK has not come. -/
def Obligations.ExtentsAndLeases : Prop :=
  ∀ (s : State) (d b : Nat), d < 16384 → b < 4096 →
    (∀ own, Tab.find s.erasing d = some own →
      ∃ v w : State, v = s.drainWrites d ∧ exec (.cryptoErase d) s = .next w ∧
        (∀ g ∈ w.written, granuleIn d g = false ∧ g ∈ s.written) ∧
        (∀ g ∈ s.written, granuleIn d g = false → g ∈ w.written) ∧ w.rd (K.keyState d) = 0 ∧ Tab.find w.keyIds d = none ∧
        Tab.getD w.tags d 0 = own ∧ Tab.find w.erasing d = none ∧ w.waitersOf (.erase d) = [] ∧
        v.RegsBut w [K.keyState d, K.dxnState d] ∧
        w = { v with written := w.written, keyIds := w.keyIds, erasing := w.erasing, regs := w.regs, tags := w.tags,
                     waiting := w.waiting }) ∧
    (∀ k, s.rd (K.keyState d) = 0 → s.waitersOf (.key d) ≠ [] → s.keyDrawer d = some k →
      ∃ w : State, exec (.keyDraw d) s = .next w ∧ w.rd (K.keyState d) = 1 ∧ w.keysDrawn = s.keysDrawn + 1 ∧
        w.keyOf d = s.keysDrawn + 1 ∧ w.waitersOf (.key d) = [] ∧ s.RegsBut w [K.keyState d] ∧
        w = { s with keysDrawn := w.keysDrawn, keyIds := w.keyIds, regs := w.regs, waiting := w.waiting }) ∧
    (∀ f, Tab.find s.quarantine d = some f → f ≤ s.frame → Tab.find s.erasing d = none →
      exec (.deviceExtentQuarantineEnd d) s = .next (({ s with quarantine := Tab.erase s.quarantine d } : State).wr (K.dxnState d)
        (({ s with quarantine := Tab.erase s.quarantine d } : State).restDxnState d))) ∧
    (s.lateDue b = true → bPort (s.binding b) < 36 →
      ∃ (w : State) (x : PartReq), exec (.leaseLate b) s = .next w ∧ w.rd (K.leaseState b) = 2 ∧ s.RegsBut w [K.leaseState b] ∧
        (w.port (bPort (s.binding b))).outReq = (s.port (bPort (s.binding b))).outReq ++ [x] ∧ x.purpose = .notify ∧
        x.msg.op = 0x40 ∧ x.msg.dst = bEid (s.binding b) ∧ x.msg.handle = s.handleOf (bPart (s.binding b)) ∧
        x.msg.body = toLE 2 4 ++ toLE 2 0 ++ toLE 4 b ++ toLE 8 (s.rd (K.leaseExpiry b)) ∧
        w = { s with regs := w.regs, ports := w.ports, meter := w.meter }) ∧
    (s.expireDue b = true → exec (.leaseExpiry b) s = .next
      (((s.wr (K.leaseState b) 3).count (K.reclaimCounts 0) 1).reclaim b (s.binding b) 1 (s.heldBy (bPart (s.binding b)) b)).linesGo) ∧
    (s.expireDue b = true → s.heldBy (bPart (s.binding b)) b = [] → s.dir = [] → s.evicts = [] → s.pends = [] → s.waitLines = [] →
      s.rd (K.reclaimCounts 0) + 1 < 2 ^ (8 * keyBytes (K.reclaimCounts 0)) →
      ∃ w : State, exec (.leaseExpiry b) s = .next w ∧ w.rd (K.leaseState b) = 3 ∧ w.rd (K.reclaimCounts 0) = s.rd (K.reclaimCounts 0) + 1 ∧
        w.rd (K.cohHolderState b) = 2 ∧ w.lease.reclaiming = s.lease.reclaiming ++ [(b, s.binding b, 1)] ∧
        Tab.find w.lease.grace b = none ∧ Tab.find w.lease.silent b = none ∧ s.RegsBut w [K.leaseState b, K.reclaimCounts 0, K.cohHolderState b] ∧
        w = { s with regs := w.regs, lease := w.lease, ports := w.ports, waiting := w.waiting }) ∧
    (∀ x, s.lease.reclaiming.find? (fun x => x.1 = b) = some x → s.rd (K.leaseState b) = 3 →
      ∃ w : State, exec (.leaseReclaimComplete b) s = .next w ∧ w.rd (K.leaseState b) = 4 ∧ (∀ y ∈ w.lease.reclaiming, y.1 ≠ b) ∧
        (∀ y ∈ (w.port (bPort x.2.1)).cache, y.bind ≠ b) ∧ s.RegsBut w [K.leaseState b] ∧
        w = { s with regs := w.regs, lease := w.lease, ports := w.ports }) ∧
    (∀ f, Tab.find s.lease.grace b = some f ∨ Tab.find s.lease.silent b = some f → f ≤ s.frame → exec (.cohGraceExpiry b) s = .next
      ((({ s with lease := { s.lease with grace := Tab.erase s.lease.grace b, silent := Tab.erase s.lease.silent b } } : State).holderLost b 2).linesGo)) ∧
    (∀ ln f, (s.pend ln).awaited = some (b, f) → f + s.eff K.cohGraceFrames ≤ s.frame →
      exec (.awaitedWritebackTimeout ln) s = .next ((((s.loseLine ln b 2).awaitOver ln).settleLine ln).linesGo))
/-- Publish regions (06 R154 to R156). A PUBLISH of a staged extent that its binding holds, naming the current version, starts a
flip; one that names another version is refused with PUBLISH_CONFLICT and the current version. When every tile has acknowledged,
the staged extent is the view, the version is one higher, the old view is held by the publisher, and it is answered. A
PUBLISH_QUERY is answered with the version, the view and the winner. A start deferred by the guard is judged after the slate. -/
def Obligations.PublishRegions : Prop :=
  ∀ (s : State) (port n t region staging base : Nat) (h : Hdr), region < 4096 → staging < 16384 → base < 2 ^ 64 →
    (let b := toLE 2 region ++ toLE 2 staging ++ toLE 4 0 ++ toLE 8 base
     let u := s.began port 0x11 h b n t
     let r := (s.accepted port 0x11 h b n t).1
     let p := handlePart h.handle
     Starts s port 0x11 h b n t → u.handleLive h.handle = true → u.regionBusy p region = false → u.fl.inGuard = false →
     t + 2000 ≤ u.guardAt → u.regionValid p region = true → eValid (u.entry p staging) = true → eKind (u.entry p staging) = 3 →
     u.isView p staging = false → eHeld (u.entry p staging) = true → eHolder (u.entry p staging) = n →
      (base = u.rd (K.publishVersions p region) →
        exec (.publish port h region staging base t) s = .next { u with flips := u.flips ++ [⟨p, region, r⟩] }) ∧
      (base ≠ u.rd (K.publishVersions p region) →
        exec (.publish port h region staging base t) s = .next ((u.count (K.reclaimCounts 5) 1).answer r 0x91 Code.publishConflict
          (publishBody (u.rd (K.publishVersions p region)) 0 (u.winner p region))))) ∧
    (let b := toLE 2 region ++ toLE 6 0
     let u := s.began port 0x12 h b n t
     let p := handlePart h.handle
     Starts s port 0x12 h b n t → u.handleLive h.handle = true → u.regionBusy p region = false → u.regionValid p region = true →
      exec (.publishQuery port h region t) s = .next (u.answer (s.accepted port 0x12 h b n t).1 0x92 Code.ok
        (publishBody (u.rd (K.publishVersions p region)) (u.rd (K.publishViews p region)) (u.winner p region)))) ∧
    (∀ p, s.fl.inGuard = false → t + 2000 ≤ s.guardAt → (∀ f ∈ s.flips, ¬ (f.part = p ∧ f.region = region)) →
      exec (.publishDeferredStart p region t) s = .next ((s.at t).serveRegion p region)) ∧
    (∀ p (f : Flip), p < 64 → s.flips.find? (fun f => f.part = p && f.region = region) = some f → leAt f.req.body 2 2 = staging →
      s.rd (K.publishViews p region) < 16384 → staging ≠ s.rd (K.publishViews p region) →
      ∃ v : State, exec (.publishFlipComplete p region) s = .next
          ((v.answer f.req 0x91 Code.ok (publishBody (s.rd (K.publishVersions p region) + 1) (s.rd (K.publishViews p region))
            f.req.h.src)).serveRegion p region) ∧
        v.rd (K.publishViews p region) = staging ∧ v.rd (K.publishVersions p region) = s.rd (K.publishVersions p region) + 1 ∧
        v.winner p region = f.req.h.src ∧ v.entry p staging = setFld (s.entry p staging) 12 12 0 ∧
        v.entry p (s.rd (K.publishViews p region)) =
          setFld (setFld (s.entry p (s.rd (K.publishViews p region))) 12 12 1) 11 0 f.req.bind ∧
        (∀ x ∈ v.flips, ¬ (x.part = p ∧ x.region = region)) ∧
        v = { s with flips := v.flips, pubBy := v.pubBy, regs := v.regs, take := v.take })

/-- Window writes that launch, clear and consume (11 R264; 13 R303, R304, R311; 20 R436 to R438). GO on a block that passes every
check makes a launch of it under the next LAUNCH_SEQ, its contexts LAUNCHING. CONTEXT_CLEAR of a FAULTED context makes it IDLE with
every register zero and its mailboxes empty. EVENT_CONSUMED drops the records up to it. A ring's restart register takes a HALTED
ring on from a descriptor already fetched. ERR_CLEAR clears CODE and OFFSET. A WINDOW_WRITE takes its registers in ascending order
and answers the first status that is not OK; a WINDOW_READ answers them in ascending order. -/
def Obligations.WindowCommands : Prop :=
  ∀ (s : State) (port n t v : Nat) (h : Hdr), v < 2 ^ 64 →
    (WinStarts s port 0x860 1 h n t →
      let u := s.winBegan port 0x860 1 h n t
      u.launchCheck (bPart (u.binding n)) (padTo 96 (u.window n).block) = none →
      ∃ (x : State) (l : Launch), exec (.go port h 1 t) s = .next (x.winOk s port 0x860 1 h n t) ∧ l ∈ x.reels.launches ∧
        l.part = bPart (u.binding n) ∧ l.bind = n ∧ l.block = padTo 96 (u.window n).block ∧
        l.seq = ((u.window n).seq + 1) % 65536 ∧ l.due = some (if t + 2000 ≤ u.guardAt then 0 else 1) ∧
        (x.window n).state = 3 ∧ (x.window n).result = Code.ok ∧ (x.window n).seq = l.seq ∧
        (∀ i ∈ l.slots, (x.ctx i l.ctx).st = 2 ∧ (x.ctx i l.ctx).launch = l.id) ∧
        x = { u with reels := x.reels, regs := x.regs }) ∧
    (∀ slot c, slot < 32 → c < 16 → v = slot * 256 + c → WinStarts s port 0xA00 v h n t →
      let u := s.winBegan port 0xA00 v h n t
      u.ctxOwner slot c = some (bPart (u.binding n)) → (u.ctx slot c).st = 7 →
      ∃ x : State, exec (.contextClear port h v t) s = .next (x.winOk s port 0xA00 v h n t) ∧ (x.ctx slot c).st = 1 ∧
        (∀ i, (x.ctx slot c).gr i = 0) ∧ (∀ i, (x.ctx slot c).vr i = 0) ∧ (x.ctx slot c).pc = 0 ∧ (x.ctx slot c).inbox = [] ∧
        (x.ctx slot c).outbox = [] ∧ x = { u with reels := x.reels }) ∧
    (v < 2 ^ 32 → WinStarts s port 0x908 v h n t →
      let u := s.winBegan port 0x908 v h n t
      let p := bPart (u.binding n)
      ∀ k, k < 2 ^ 32 → v = ((u.events p).consumed + k) % 2 ^ 32 → (u.events p).consumed + k ≤ (u.events p).written →
      exec (.eventConsumed port h v t) s = .next ((u.setEvents p { u.events p with
        consumed := (u.events p).consumed + k, recs := (u.events p).recs.drop k }).winOk s port 0x908 v h n t)) ∧
    (∀ r, r < 16 → WinStarts s port (0x408 + 16 * r) v h n t →
      let u := s.winBegan port (0x408 + 16 * r) v h n t
      let p := bPart (u.binding n)
      rgValid (u.ringDesc p r) = true → fld v 63 42 = (u.ring p r).inc → fld v 41 32 = 0 → (u.ring p r).state = 3 →
      ahead32 (v % 2 ^ 32) (u.ring p r).fetched ≤ ahead32 (u.ring p r).tail (u.ring p r).fetched →
      exec (.ringRestart port h r v t) s = .next ((u.setRing p r { u.ring p r with
        state := 1, fetched := v % 2 ^ 32, completed := v % 2 ^ 32, recorded := [], haltStatus := 0, haltIndex := 0 }).winOk s
          port (0x408 + 16 * r) v h n t)) ∧
    (WinStarts s port 0x18 1 h n t →
      let u := s.winBegan port 0x18 1 h n t
      exec (.errClear port h 1 t) s = .next ((u.setWindow n { u.window n with errCode := 0, errOff := 0 }).winOk s port 0x18 1 h n t)) ∧
    (∀ (off : Nat) (data : List Byte), off < 65536 → data.length ≤ 256 →
      let b := toLE 4 off ++ toLE 2 data.length ++ toLE 2 0 ++ data
      let u := s.began port 0x63 h b n t
      let x := (winParts b).foldl (fun (x : Nat × State) q =>
        let y := x.2.winWrite n q.1 q.2 t
        (if x.1 = Code.ok then y.1 else x.1, y.2)) (Code.ok, u)
      Starts s port 0x63 h b n t → (∀ q ∈ winParts b, u.winWaits n q.1 q.2 = none) →
      exec (.windowWrite port h off data t) s = .next (x.2.answer (s.accepted port 0x63 h b n t).1 0xE3 x.1 [])) ∧
    (∀ off len, off < 65536 → len ≤ 256 →
      let b := toLE 4 off ++ toLE 2 len ++ toLE 2 0
      let u := s.began port 0x62 h b n t
      let offs := (List.range (len / 8)).map (fun i => off + 8 * i)
      Starts s port 0x62 h b n t → 0xC08 ∉ offs → 0xC10 ∉ offs →
      exec (.windowRead port h off len t) s = .next (u.answer (s.accepted port 0x62 h b n t).1 0xE2 Code.ok
        ((offs.map (u.winRead n)).flatten)))
/-- Mailboxes, doorbells and PUB_STATE (11 R250; 20 R439, R440, R442, R443, R445, R446). A message to a context of the window's
partition joins its inbound mailbox under the next POST_SEQ and wakes it if it waits for one; the oldest outbound message goes when
its OUT_SEQ is written back. A ring's doorbell advances its tail; the management doorbell posts a command. Firmware answers PING with
the frame number, LEASE with the lease's state and expiry, TAKE with the take number. PUB_STATE reads the selected region. -/
def Obligations.MailboxesAndDoorbells : Prop :=
  ∀ (s : State) (port n t v : Nat) (h : Hdr), v < 2 ^ 64 →
    (∀ slot c, slot < 32 → c < 16 → WinStarts s port (0x8000 + 32 * (slot * 16 + c)) v h n t →
      let u := s.winBegan port (0x8000 + 32 * (slot * 16 + c)) v h n t
      let k := u.ctx slot c
      let q := Tab.getD (u.window n).posts (slot * 16 + c) {}
      u.ctxOwner slot c = some (bPart (u.binding n)) → k.st ≠ 7 → k.inbox.length < 8 →
      exec (.mbxIn port h slot c v t) s = .next ((((u.setWindow n { u.window n with
          posts := Tab.set (u.window n).posts (slot * 16 + c) { q with post := (q.post + 1) % 65536 } }).setCtx slot c { k with
            inbox := k.inbox ++ [(n, some ((q.post + 1) % 65536), BitVec.ofNat 64 v)] }).wakeMbx slot c).winOk s port
              (0x8000 + 32 * (slot * 16 + c)) v h n t)) ∧
    (∀ slot c, slot < 32 → c < 16 → WinStarts s port (0x8018 + 32 * (slot * 16 + c)) v h n t →
      let u := s.winBegan port (0x8018 + 32 * (slot * 16 + c)) v h n t
      let k := u.ctx slot c
      u.ctxOwner slot c = some (bPart (u.binding n)) → k.outbox ≠ [] → v = k.outSeq * 2 ^ 32 →
      exec (.mbxOutState port h slot c v t) s = .next ((u.setCtx slot c { k with outbox := k.outbox.tail }).winOk s port
        (0x8018 + 32 * (slot * 16 + c)) v h n t)) ∧
    (∀ idx, idx < 65536 →
      let b := toLE 2 idx ++ toLE 6 0 ++ toLE 8 v
      let u := s.began port 0x60 h b n t
      let r := (s.accepted port 0x60 h b n t).1
      let p := bPart (u.binding n)
      Starts s port 0x60 h b n t →
      (idx < 16 → rgValid (u.ringDesc p idx) = true → fld v 63 42 = (u.ring p idx).inc → fld v 41 32 = 0 →
        ahead32 (v % 2 ^ 32) (u.ring p idx).tail < 2 ^ 31 →
        ahead32 (v % 2 ^ 32) (u.ring p idx).completed ≤ 2 ^ rgLog (u.ringDesc p idx) →
        exec (.ringDoorbell port h idx v t) s = .next ((u.setRing p idx { u.ring p idx with tail := v % 2 ^ 32 }).answer r 0xE0 Code.ok []) ∧
        exec (.doorbell port h idx v t) s = exec (.ringDoorbell port h idx v t) s) ∧
      (idx = 0x100 → 1 ≤ v / 2 ^ 48 → v / 2 ^ 48 ≤ 3 → u.firmwareRuns = true → (u.window n).cmd = none →
        exec (.doorbell port h idx v t) s = .next ((u.setWindow n { u.window n with
          cmd := some v, mgmt := { (u.window n).mgmt with post := ((u.window n).mgmt.post + 1) % 65536 } }).answer r 0xE0 Code.ok []))) ∧
    (let b := toLE 4 0xC08 ++ toLE 2 16 ++ toLE 2 0
     let u := s.began port 0x62 h b n t
     Starts s port 0x62 h b n t → u.regionBusy (bPart (u.binding n)) (u.window n).pubSel = false →
      exec (.pubStateRead port h t) s = .next (u.answer (s.accepted port 0x62 h b n t).1 0xE2 Code.ok
        (u.pubState n (bPart (u.binding n))))) ∧
    (∀ (k result : Nat) (c : Instr), s.firmwareRuns = true → (s.window n).cmdLost = false →
      (k = 1 ∧ c = .mgmtCmdPing n ∧ result = s.frame) ∨
      (k = 2 ∧ c = .mgmtCmdLease n ∧ result = s.rd (K.leaseState n) * 2 ^ 56 + s.rd (K.leaseExpiry n) % 2 ^ 56) ∨
      (k = 3 ∧ c = .mgmtCmdTake n ∧ result = s.rd K.takeNumber) →
      ∀ arg, (s.window n).cmd = some (k * 2 ^ 48 + arg) → arg < 2 ^ 48 → (k ≠ 1 → arg = 0) →
      exec c s = .next (s.setWindow n { s.window n with
        cmd := none, mgmtResult := result, cmdLost := false, mgmt := { (s.window n).mgmt with ack := (s.window n).mgmt.post, ret := Code.ok } }))

/-- Composites (15 R345 to R360; 14 R348). COMP_CREATE of a descriptor that passes every check opens a composite under the next free
number and its next incarnation. A CONTRIB to an open chunk, of segments that its contributor has not given, adds its elements,
marks its segments and is answered with the window. A full chunk is rounded once and written, and is complete; when all are, the
composite is COMPLETE and its endpoints are told, as they are when none has completed for STALL_FRAMES. COMP_EXCUSE adds a
contributor to those excused; COMP_CLOSE closes the composite, counts its open chunks as aborted and tells its endpoints. -/
def Obligations.Composites : Prop :=
  ∀ (s : State) (port n t m : Nat) (h : Hdr) (c : Comp),
    (WinStarts s port 0xB40 1 h n t →
      let u := s.winBegan port 0xB40 1 h n t
      let p := bPart (u.binding n)
      let d := padTo 64 (u.window n).desc
      let inc := ((u.comp m).inc + 1) % 2 ^ 22
      u.compCheck p d = none → u.freeComp = some m →
      ∃ x : State, exec (.compCreate port h 1 t) s = .next (x.winOk s port 0xB40 1 h n t) ∧
        x.comp m = { st := 1, part := p, inc := inc, desc := d, order := u.reels.compOrder } ∧
        (∀ i, i ≠ m → x.comp i = u.comp i) ∧ (x.window n).comp = Code.ok * 2 ^ 48 + 2 ^ 32 + inc * 2 ^ 10 + m ∧
        x = { u with reels := x.reels }) ∧
    (∀ j ident, ident < 2 ^ 32 → j < cdContribs c.desc → j < 4096 → WinStarts s port 0xB50 (j * 2 ^ 32 + ident) h n t →
      let u := s.winBegan port 0xB50 (j * 2 ^ 32 + ident) h n t
      u.namedComp (bPart (u.binding n)) ident = some (m, c) → j ∉ c.excused → c.excused.length < 16 →
      exec (.compExcuse port h (j * 2 ^ 32 + ident) t) s = .next ((u.setComp m { c with excused := c.excused ++ [j] }).winOk s port 0xB50
        (j * 2 ^ 32 + ident) h n t)) ∧
    (∀ ident, ident < 2 ^ 32 → WinStarts s port 0xB58 ident h n t →
      let u := s.winBegan port 0xB58 ident h n t
      u.namedComp (bPart (u.binding n)) ident = some (m, c) →
      exec (.compClose port h ident t) s = .next
        ((((((List.range (cdChunks c.desc)).filter c.isOpen).foldl (fun (x : State) i => x.compCount (cdHome c.desc i) 6 1) u).setComp m
          { c with st := 4, chunks := [] }).compNotify m c c.doneCount Code.closedByHost).winOk s port 0xB58 ident h n t)) ∧
    (∀ (ident contributor count offset fmt : Nat) (data : List Byte), ident < 2 ^ 32 → contributor < 2 ^ 16 → count < 2 ^ 16 →
      offset < 2 ^ 32 → fmt < 256 →
      let b := toLE 4 ident ++ toLE 2 contributor ++ toLE 2 count ++ toLE 4 offset ++ toLE 1 fmt ++ toLE 3 0 ++
        padTo (pad8 data.length) data
      let u := s.began port 0x20 h b n t
      let p := handlePart h.handle
      let i := offset / 4096
      let mask := (2 ^ ceilDiv count 512 - 1) * 2 ^ (offset % 4096 / 512)
      let k := Tab.getD c.chunks i {}
      let codes := elemsOf (fmtBits fmt) count (ofLE (slice data 0 (contribDataLen fmt count)))
      Starts s port 0x20 h b n t → u.handleLive h.handle = true → u.reached (cdHome c.desc i) p = false → u.comp (ident % 1024) = c →
      c.st = 1 → c.part = p → c.inc = ident / 1024 → fmt = cdFmt c.desc →
      segRule c.desc contributor offset count = true → contributor ∉ c.excused → c.complete i = false → c.isOpen i = true →
      Tab.getD k.took contributor 0 &&& mask = 0 →
      ∃ w : State, exec (.contrib port h ident contributor count offset fmt data t) s = .next (w.answer
          (s.accepted port 0x20 h b n t).1 0xA0 Code.ok (toLE 4 c.base ++ toLE 2 c.credits ++ toLE 2 0)) ∧
        w.comp (ident % 1024) = { c with chunks := Tab.set c.chunks i (codes.zipIdx.foldl
          (fun (k : Chunk) e => k.add c.desc (offset % 4096 + e.2) e.1)
          { k with took := Tab.set k.took contributor (Tab.getD k.took contributor 0 ||| mask) }) } ∧
        (∀ j, j ≠ ident % 1024 → w.comp j = u.comp j) ∧ w = { u with reels := w.reels, regs := w.regs, meter := w.meter, gaff := w.gaff }) ∧
    (∀ i, s.comp m = c → c.st = 1 → c.isOpen i = true → c.full i = true → s.reached (cdHome c.desc i) c.part = false →
      let res := (List.range (min 4096 (cdElements c.desc - i * 4096))).map (c.finish (Tab.getD c.chunks i {}))
      let a := s.handleOf c.part
      let ps := granulePieces (cdTarget c.desc + i * 4096 * cdSize c.desc) ((res.map (fun r => toLE (cdSize c.desc) r.1)).flatten)
      let w := s.poolWaits a (ps.map (fun q => (q.1, q.2.length))) true
      let r := ps.foldl (fun (r : Bool × State) q =>
        if !r.1 then r
        else
          let y := r.2.agentCheck a q.1 q.2.length true
          match y.1 with
          | .ok e =>
            let x := y.2.agentWrite c.part e q.1 q.2 a
            (true, if x.1.all (fun z => z) then x.2 else x.2.noteFault c.part)
          | _ => (false, y.2)) (true, w.2)
      let excess := (res.filter (·.2)).length
      let b := advanceBase (cdChunks c.desc) c.base (i :: c.done)
      w.1 = false → r.1 = true →
      exec (.chunkComplete m i) s = .next (((r.2.setComp m { c with
        base := b.1, done := b.2, excess := c.excess + excess, idle := 0, stall := if b.1 = c.base then c.stall else 0
        chunks := Tab.erase c.chunks i }).compCount (cdHome c.desc i) 5 1).compCount (cdHome c.desc i) 8 excess) ∧
      ({ c with base := b.1, done := b.2 } : Comp).complete i = true) ∧
    (s.comp m = c → c.st = 1 → c.base = cdChunks c.desc →
      exec (.compositeComplete m) s = .next ((s.setComp m { c with st := 2, chunks := [] }).compNotify m c
        (min c.excess (2 ^ 32 - 1) * 2 ^ 32 + c.doneCount) Code.ok)) ∧
    (s.comp m = c → c.st = 1 → cdStall c.desc ≠ 0 → cdStall c.desc ≤ c.idle →
      exec (.compositeStall m) s = .next (((s.setComp m { c with idle := 0 }).compCount (m % 32) 9 1).compNotify m c c.base
        Code.compositeStalled))
/-- Pool operations (02 R31; 12 R288 to R293). A POOL_OP that passes the checks of R290 becomes a job of its request, which is in progress or
queued at every slot. Outside the slate guard a queued COPY or COMPARE starts at a slot with room; a staging buffer goes to a window that waits; a window
whose source is read is worked at its slot and gives its buffer back; a job with no work left is answered with its status and
result block. -/
def Obligations.PoolOperations : Prop :=
  ∀ (s : State) (port n t a x len pat plen fmt func : Nat) (h : Hdr),
    (∀ (b : List Byte) (c : Instr),
      (b = poolBlock 1 0 0 plen a 0 len pat ∧ c = .poolOpFill port h a len plen pat t) ∨
      (b = poolBlock 2 0 0 0 a x len 0 ∧ c = .poolOpCopy port h a x len t) ∨
      (b = poolBlock 3 0 0 0 a x len 0 ∧ c = .poolOpCompare port h a x len t) ∨
      (b = poolBlock 4 fmt func 0 a 0 len 0 ∧ c = .poolOpReduce port h fmt func a len t) →
      let u := s.began port 0x10 h b n t
      let r := (s.accepted port 0x10 h b n t).1
      Starts s port 0x10 h b n t → u.poolCheck r = none → u.job port r.id = none →
      ∃ (w : State) (j : PoolJob), exec c s = .next w ∧ w.job port r.id = some j ∧ j.req = r ∧
        (∀ i, j.at_ i = 0 ∨ j.at_ i = 1)) ∧
    (∀ slot p j, s.reels.jobs.find? (fun j => j.part = p && j.at_ slot = 0) = some j → poTwo j.cmd = true →
      s.poolActive slot p < 2 → s.reached slot p = false → s.fl.inGuard = false →
      exec (.poolOpDequeue slot p) s = .next ((s.setJob (s.askStages { j with slots := Tab.set j.slots slot 1 })).grantStage slot)) ∧
    (∀ slot j w, s.nextStage slot = some (j, w) → s.isSealed j.part = false → s.fl.inGuard = false →
      exec (.stagingBufferGrant slot) s = .next ({ s.setJob { j with wins := Tab.set j.wins (w * 32 + slot) 2 } with
        reels := { (s.setJob { j with wins := Tab.set j.wins (w * 32 + slot) 2 }).reels with
          lastStage := Tab.set s.reels.lastStage slot j.part } })) ∧
    (∀ id w slot j, s.job port id = some j → Tab.getD j.wins (w * 32 + slot) 0 = 2 → w ≤ j.scanned → s.reached slot j.part = false →
      s.fl.inGuard = false →
      let gs := slotGranules (poA j.cmd + (j.winRange w).1) (j.winRange w).2 slot
      let y := s.poolWaits j.req.h.handle gs (poOp j.cmd = 2)
      let z := y.2.poolWaits j.req.h.handle (gs.map (fun q => (poB j.cmd + (q.1 - poA j.cmd), 1))) false
      let k := if poOp j.cmd = 2 then z.2.scanWindow j w else ({ j with scanned := max j.scanned (w + 1) }, z.2)
      let r := k.2.windowWork k.1 w slot
      let v := (r.2.count (K.engineCounts (r.2.tileAt slot) 6) ((gs.map (·.2)).sum)).spend slot j.part 13 ((gs.map (·.2)).sum)
      y.1 = false → z.1 = false →
      exec (.poolOpWindowComplete port id w slot) s = .next (v.setJob (v.finishSlots (v.askStages { r.1 with
        wins := Tab.set r.1.wins (w * 32 + slot) 3 })))) ∧
    (∀ id j, s.job port id = some j → j.finished = true → j.bad = none → (s.poolOutcome j).1 = Code.ok →
      exec (.poolOpComplete port id) s = .next (((s.dropJob j).engineCount j.coord 5 1).answer j.req 0x90 Code.ok (s.poolOutcome j).2))

/-- The mover (02 R31; 11 R251 to R264). A descriptor fetched outside the slate guard that passes R252 takes a slab as a task whose translations are asked for.
An answer fills each untainted page. A chunk's PULL bursts go out as MOVE_READ and its PUSH bursts as MOVE_WRITE with pool data; a
burst's answer completes it. A finished task's record is written; its acknowledgement frees the slab and advances COMPLETED, and
NOTIFY and DOORBELL follow as its flags say. A halting ring with no task left is HALTED. The VALUE of the halt's NOTIFY is any value (the spec states none, log entry 78). -/
def Obligations.MoverTasks : Prop :=
  ∀ (s : State) (p r slab t : Nat),
    (∀ (b : List Byte) (v : State),
      let g := s.ring p r
      let d := s.ringDesc p r
      let tk : MTask := {
        id := v.mover.nextId, part := p, ring := r, slot := rgSlot d, engine := rgEngine d, slab := slab,
        count := g.fetched, handle := s.handleOf p, addr := rgBase d + 64 * (g.fetched % 2 ^ rgLog d), desc := b,
        agent := v.rd (K.agents (leAt b 2 2)), detached := false, state := if leAt b 0 1 = 0 then 5 else 1, tries := 0, fault := none,
        absent := none, pages := [], bytesDone := 0, bytesIssued := 0, bursts := [],
        final := if leAt b 0 1 = 0 then some Code.ok else none, written := false }
      let w := ({ v with mover := { v.mover with tasks := v.mover.tasks ++ [tk], nextId := v.mover.nextId + 1 } } : State).setRing p r
        { g with fetched := (g.fetched + 1) % 2 ^ 32 }
      s.freeSlab p r = some slab → s.fl.inGuard = false → rgValid d = true → g.state = 1 → g.fetched ≠ g.tail → s.active p = true →
      s.readDesc p (s.handleOf p) (rgBase d + 64 * (g.fetched % 2 ^ rgLog d)) = (some (0, b), v) →
      (bit (leAt b 1 1) 7 = true → g.completed = g.fetched) → v.descFault p b = none →
      exec (.descriptorFetch p r) s = .next (if leAt b 0 1 = 0 then w else w.translate tk (pageChunks 0 tk.pageCount))) ∧
    (∀ tk, s.mover.tasks.find? (fun t => t.part = p ∧ t.ring = r ∧ t.slab = slab ∧ !t.written) = some tk → s.task tk.id = some tk →
      (∀ b ∈ tk.bursts, b.done = true) → tk.finished = some Code.ok → ∀ v : State,
      s.putRecord tk.handle tk.addr (s.record Code.ok tk.bytesDone tk.uncertain) = (some true, v) →
      exec (.moverTaskComplete p r slab) s = .next ((v.setTask { tk with state := 6, final := some Code.ok, written := true }).moverCount
        tk.slot 0 1)) ∧
    (∀ tk, s.mover.tasks.find? (fun t => t.part = p ∧ t.ring = r ∧ t.slab = slab ∧ t.written) = some tk → tk.detached = false →
      tk.final = some Code.ok →
      let g := s.ring p r
      let u := ({ s with mover := { s.mover with tasks := s.mover.tasks.filter (fun x => x.id ≠ tk.id) } } : State).setRing p r
        (({ g with recorded := g.recorded ++ [tk.count] } : Ring).advance 65537)
      let v := if bit tk.flags 6 then u.ringNotify p r g.inc (leAt tk.desc 28 4) tk.bytesDone Code.ok else u
      exec (.completionRecordAck p r slab) s = .next (if bit tk.flags 5 = true ∧ tk.bellGoes = true then
        v.originate (agPort tk.agent) (leAt tk.desc 32 2) 0x60 tk.handle (toLE 2 (leAt tk.desc 34 2) ++ toLE 6 0 ++
          toLE 8 (leAt tk.desc 40 8)) (.doorbell p tk.slot 16 (leAt tk.desc 34 2)) else v)) ∧
    ((s.ring p r).state = 2 → s.ringTasks p r = [] → ∃ v : Nat, v < 2 ^ 64 ∧
      exec (.ringHaltComplete p r) s = .next ((((s.setRing p r { s.ring p r with
        state := 3, completed := (s.ring p r).fetched, recorded := [] }).moverCount (rgSlot (s.ringDesc p r)) 9 1).draw (2 ^ 64)).2.ringNotify
          p r (s.ring p r).inc (v / 2 ^ 32) (v % 2 ^ 32) (s.ring p r).haltStatus)) ∧
    (∀ slot engine tk pos k, s.mover.tasks = [tk] → tk.slot = slot → tk.engine = engine → (s.at t).moverPick slot engine t = some tk →
      tk.chunkBursts = [(pos, k)] → pos = tk.bytesIssued → tk.bursts = [] → tk.final = none → tk.valid (tk.pageAt pos) = true →
      (tk.op = 2 → ∃ (w : State) (y : MTask) (q : PartReq), exec (.moverChunkStart slot engine t) s = .next w ∧
        w.mover.tasks = [y] ∧ y = { tk with bytesIssued := pos + k, state := 3, bursts := [⟨pos, k, none, [], false, []⟩] } ∧
        (w.port (agPort tk.agent)).outReq = (s.port (agPort tk.agent)).outReq ++ [q] ∧ q.purpose = .moveRead tk.id pos k ∧
        q.msg.op = 0x54 ∧ q.msg.dst = agEnd tk.agent ∧ q.msg.body = toLE 8 (tk.remotePa pos) ++ toLE 2 k ++ toLE 6 0 ∧
        w.mem = s.mem) ∧
      (∀ (e : Nat) (v w : State) (l : List LineGot), tk.op = 1 →
        (∀ m, { s.at t with mover := m }.agentCheck tk.handle (tk.poolVa + pos) k false = (.ok e, { v with mover := m })) →
        (∀ m, { v with mover := m }.agentLines e (tk.poolVa + pos) k tk.handle = (l, { w with mover := m })) → 0 < k →
        goodPrefix (tk.poolVa + pos) k l = (k, false) →
        ∃ (x : State) (y : MTask) (q : PartReq), exec (.moverChunkStart slot engine t) s = .next x ∧ x.mover.tasks = [y] ∧
          y = { tk with bytesIssued := pos + k, state := 3, bursts := [⟨pos, k, none, [], false, []⟩] } ∧
          q ∈ (x.port (agPort tk.agent)).outReq ∧ q.purpose = .moveWrite tk.id pos k ∧ q.msg.op = 0x53 ∧
          q.msg.dst = agEnd tk.agent ∧ q.msg.body = toLE 8 (tk.remotePa pos) ++ toLE 2 k ++ toLE 6 0 ++
            slice (lineBytes l) ((tk.poolVa + pos) % 128) k ∧ x.mem = w.mem))
/-- What endpoints answer the mover (11 R254, R255, R258 to R260). A TRANSLATE_RESP of status OK fills every untainted page with its
PA. A PAGE_RESP frees the fault's entry and its task asks for the translations again. A MOVE_WRITE_RESP completes its burst of a
PUSH and the bytes before the first burst not yet complete are done; a MOVE_READ_RESP stages its burst's data, which is committed
in burst order. INVALIDATE_REQ takes VALID from the range's pages and is answered when no burst that it waits for is out. -/
def Obligations.MoverAnswers : Prop :=
  ∀ (s : State) (port t : Nat) (h : Hdr) (x : PartReq) (id : Nat) (tk : MTask), x.port = port →
    (∀ body, Matches s port 0xD0 h t x → x.purpose = .translate id → h.status = Code.ok → leAt body 2 1 < 2 →
      s.task id = some tk →
      let va := leAt x.msg.body 8 8
      let first := va / 65536 - tk.remoteVa / 65536
      ∃ (w : State) (y : MTask), exec (.translateResp port h body t) s = .next w ∧ w.task id = some y ∧
        (∀ i pa large, i < leAt x.msg.body 4 2 → bit (tk.entry (first + i)) 13 = false →
          translated body va (va + i * 65536) = some (pa, large) →
          y.entry (first + i) = pa / 65536 % 2 ^ 48 * 65536 + 2 ^ 15 + b2n large * 2 ^ 12) ∧
        y.bursts = tk.bursts ∧ y.bytesDone = tk.bytesDone ∧ w.mem = s.mem) ∧
    (∀ k (f : FaultEnt), Matches s port 0xD2 h t x → x.purpose = .page k → h.status = Code.ok →
      s.mover.faults.find? (fun f => f.slot = k / 256 ∧ f.n = k % 256) = some f → f.waiters = [id] → s.mover.tableWait = [] →
      s.task id = some tk →
      let u := (s.at t).settle x
      let y := { tk with state := 1, fault := none, absent := none }
      exec (.pageResp port h t) s = .next ((({ u with mover := { u.mover with
        faults := u.mover.faults.filter (fun g => !(g.slot = k / 256 ∧ g.n = k % 256)) } } : State).setTask y).translate y
          (pageChunks (y.pageAt y.bytesIssued) (y.pageCount - y.pageAt y.bytesIssued)))) ∧
    (∀ pos n, Matches s port 0xD3 h t x → x.purpose = .moveWrite id pos n → h.status = Code.ok → s.task id = some tk → tk.push = true →
      let y := { tk with bursts := tk.bursts.map (fun (b : MBurst) =>
        if b.pos = pos then { b with res := some Code.ok, data := [], done := true } else b) }
      exec (.moveWriteResp port h t) s = .next ((((((s.at t).settle x).setTask { y with bytesDone := y.prefixDone }).moverCount tk.slot 1
        (y.prefixDone - tk.bytesDone)).meterAdd tk.part Mt.mover (y.prefixDone - tk.bytesDone)).spend tk.slot tk.part 12
          (y.prefixDone - tk.bytesDone))) ∧
    (∀ pos n data, Matches s port 0xD4 h t x → x.purpose = .moveRead id pos n → h.status = Code.ok → s.task id = some tk →
      tk.push = false →
      exec (.moveReadResp port h data t) s = .next (((((s.at t).chargeOut port (handlePart x.msg.handle)
        (msgCells data.length)).settle x).setTask { tk with bursts := tk.bursts.map (fun (b : MBurst) =>
        if b.pos = pos then { b with res := some Code.ok, data := slice data 0 n, done := false } else b) }).commitPull id 64)) ∧
    (∀ ctx start len, ctx < 2 ^ 32 → start < 2 ^ 64 → len < 2 ^ 64 →
      let b := toLE 4 ctx ++ toLE 4 0 ++ toLE 8 start ++ toLE 8 len
      let r := (s.accepted port 0x51 h b 4096 t).1
      Starts s port 0x51 h b 4096 t →
      ∃ w : State, exec (.invalidateReq port h ctx start len t) s = .next (w.hold .invalDrain r) ∧ w.mem = s.mem ∧
        (∀ y ∈ w.mover.tasks, agEid y.agent = h.src → agPort y.agent = port → y.ctx = ctx →
          ∀ i v, (i, v) ∈ y.pages → y.overlaps i start len = true → bit v 15 = true → bit v 14 = true)) ∧
    (∀ n (r : Req), (∀ y ∈ s.mover.tasks, ∀ b ∈ y.bursts, b.out = true → (port, n) ∉ b.inv) →
      s.waiting.find? (fun w => w.1 = .invalDrain ∧ w.2.port = port ∧ w.2.id = n) = some (.invalDrain, r) →
      exec (.invalidateDrainComplete port n) s = .next (({ s with
        waiting := s.waiting.filter (fun y => !(y.1 = .invalDrain ∧ y.2.port = port ∧ y.2.id = n)) } : State).answer r 0xD1 Code.ok []))

/-- Responses and requests with no home (04 R93, R95, R96, R108, R116). DOORBELL_RESP, NOTIFY_ACK and MGMT_RESP settle the request
that they match; a STATUS outside their outcomes is counted as a protocol error. A response that matches nothing, or is no legal answer, is discarded and counted. A request of the part whose
answer has not come is resent with RETRY set while it has resends left, and then given up and counted. A request the part does not
receive, or whose OPCODE is not listed, is answered UNSUPPORTED; a reserved
response is discarded and counted, as misrouted where it is for another endpoint. -/
def Obligations.ResponsesAndTimeouts : Prop :=
  ∀ (s : State) (port t op : Nat) (h : Hdr) (x : PartReq), x.port = port →
    (∀ c : Instr, (op = 0xE0 ∧ c = .doorbellResp port h t) ∨ (op = 0xC0 ∧ c = .notifyAck port h t) ∨ (op = 0xF1 ∧ c = .mgmtResp port h t) →
      Matches s port op h t x →
      ∃ w : State, exec c s = .next (if h.status ∈ plainOutcomes op then w else w.count (K.transportCounts port 9) 1) ∧
        (∀ y ∈ (w.port port).outReq, ¬ (y.msg.dst = x.msg.dst ∧ y.msg.tag = x.msg.tag ∧ y.msg.epoch = x.msg.epoch)) ∧
        (w.port port).out = (s.port port).out ∧ w = { s.at t with ports := w.ports }) ∧
    (128 ≤ op → (s.at t).portOpen port = true → h.dst = s.rd (K.portEid port) → (s.at t).passes port (op % 128) = true →
      ((s.at t).matchResp port h = none ∨ (∃ y, (s.at t).matchResp port h = some y ∧ legalResp y.msg.op op = false)) →
      exec (.unmatchedResponse port op h t) s = .next ((s.at t).count (K.transportCounts port 9) 1)) ∧
    (∀ dst tag epoch, (s.port port).outReq = [x] → x.msg.dst = dst → x.msg.tag = tag → x.msg.epoch = epoch → s.passes port x.msg.op = true →
      x.gone = false → x.resends < s.eff (K.partReqRetries port) →
      ∃ w : State, exec (.partReqTimeout port dst tag epoch t) s = .next w ∧
        (w.port port).outReq = [{ x with resends := x.resends + 1 }] ∧
        (w.port port).out = (s.port port).out ++ [{ x.msg with flags := 128 }] ∧
        w = { s.at t with ports := w.ports, meter := w.meter }) ∧
    (∀ dst tag epoch, (s.port port).outReq = [x] → x.msg.dst = dst → x.msg.tag = tag → x.msg.epoch = epoch → x.purpose = .notify →
      leAt x.msg.body 0 2 ≠ 2 → x.gone = false → s.eff (K.partReqRetries port) ≤ x.resends →
      ∃ w : State, exec (.partReqTimeout port dst tag epoch t) s = .next w ∧ (w.port port).outReq = [] ∧
        (w.port port).out = (s.port port).out ∧ s.RegsBut w [K.transportCounts port 8] ∧
        w = { s.at t with ports := w.ports, regs := w.regs }) ∧
    (∀ c : Instr, op < 128 → ((op ∉ listedOps ∧ c = .rxReservedOpcode port op h t) ∨
        (op ∈ listedOps ∧ op ∉ receivedOps ∧ c = .unreceivableRequest port op h t)) →
      (s.at t).portOpen port = true → h.dst = s.rd (K.portEid port) → (s.at t).passes port op = true →
      exec c s = .next ((s.at t).refuse port op h Code.unsupported)) ∧
    (128 ≤ op → op ∉ listedOps → (s.at t).portOpen port = true →
      exec (.rxReservedOpcode port op h t) s = .next ((s.at t).count (K.transportCounts port
        (if h.dst = s.rd (K.portEid port) then 9 else 2)) 1))
/-- Requests that wait go on (04 R107, R111, R115; 09 R209; 10 R229). FENCE_RELEASE injects a held request with nothing earlier left;
INBOUND_QUEUE_DISPATCH charges the share of the oldest queued request and sends it home; HOME_RECHECK serves what has reached its
home; UNCORRECTABLE_RETRY reads again for the requests that wait for a line; the tile-store move of a slot ends and what waited for
it is served; completions leave the cache after RETRY_CACHE_FRAMES. -/
def Obligations.WaitingRequests : Prop :=
  ∀ (s : State) (port id t : Nat) (noise : List (Nat × Nat)) (r : Req), r.port = port → r.id = id →
    ((s.waitersOf .fence).find? (fun r => r.port = port && r.id = id) = some r → s.earlier r = false →
      noBinding r.op = false → ∀ u : State, u = (s.at t).takeWaiter .fence r →
      u.mayInject port (handlePart r.h.handle) (msgCells r.h.len) = true → u.queued port (handlePart r.h.handle) = [] →
      exec (.fenceRelease port id noise t) s = .next ((u.useCells port (handlePart r.h.handle) r.h.len).serveData r noise t)) ∧
    (∀ p rest, s.queued port p = r :: rest → (s.at t).mayInject port p (msgCells r.h.len) = true →
      exec (.inboundQueueDispatch port p t) s = .next ((((s.at t).takeWaiter .share r).useCells port p r.h.len).hold .home r)) ∧
    ((s.waitersOf .home).find? (fun r => r.port = port && r.id = id) = some r →
      exec (.homeRecheck port id noise t) s = .next (((s.at t).takeWaiter .home r).serveData r noise t)) ∧
    (∀ ln, s.waiting = [(.retry ln, r)] →
      exec (.uncorrectableRetry ln noise t) s = .next (({ s.at t with waiting := [] } : State).serveData
        { r with retried := ln :: r.retried } noise t)) ∧
    (∀ slot, s.cont.moving = some slot → s.waiting = [(.slotMove slot, r)] →
      exec (.tileStoreMoveComplete t) s = .next ((({ s.at t with waiting := [] } : State).setCont
        { s.cont with moving := none }).serveData r [] t)) ∧
    (∃ w : State, exec (.completionCacheExpiry port) s = .next w ∧
      (∀ c, c ∈ (w.port port).cache ↔ c ∈ (s.port port).cache ∧ s.frame < c.frame + s.eff (K.retryCacheFrames port)) ∧
      (∀ q, q ≠ port → w.port q = s.port q) ∧ w = { s with ports := w.ports })
/-- Paired extents (04 R103; 10 R236, R238, R239). PAIR_WRITE to a live secondary stores its bytes in the secondary's extent and is
answered OK. A PAIR_WRITE_RESP of status OK lets the write that waited for it be answered; any other status makes the pair
DEGRADED with the write's region dirty. PAIR_RESYNC_SEND sends the next granule of the lowest dirty region of a RESYNC pair. -/
def Obligations.PairedExtents : Prop :=
  ∀ (s : State) (port t n : Nat) (h : Hdr),
    (∀ (pr off : Nat) (data : List Byte), pr < 2 ^ 32 → off < 2 ^ 64 → data.length ≤ 4096 → off % 128 = 0 → off + data.length ≤ 2 ^ 28 →
      let b := toLE 4 pr ++ toLE 4 0 ++ toLE 8 off ++ toLE 2 data.length ++ toLE 6 0 ++ data
      let u := s.began port 0x58 h b 4096 t
      let d := u.pair (pr % 1024)
      let e := u.entry (pdPart d) (pdExtent d)
      let w := u.writeBytes e (eTag e * 2 ^ 42 + pdExtent d * 2 ^ 28 + off) data (u.handleOf (pdPart d)) []
      Starts s port 0x58 h b 4096 t → pdValid d = true → pdInc d = pr / 1024 → pdSecondary d = true → eValid e = true →
      Tab.find u.erasing (eDxn e) = none → u.keySt (eDxn e) ≠ 0 →
      u.tagOk e (eTag e * 2 ^ 42 + pdExtent d * 2 ^ 28 + off) (u.handleOf (pdPart d)) = true → w.1.all id = true →
      exec (.pairWrite port h pr off data t) s = .next (w.2.answer (s.accepted port 0x58 h b 4096 t).1 0xD8 Code.ok [])) ∧
    (∀ (x : PartReq) (q : Nat) (r : Req) (st : Nat) (body : List Byte), Matches s port 0xD8 h t x → x.port = port →
      x.purpose = .pairWrite n q r.id → r.port = q → h.status = Code.ok → s.waiting = [(.pair n st body, r)] → s.cont.pairAgain = [] →
      exec (.pairWriteResp port h t) s = .next (({ (s.at t).settle x with waiting := [] } : State).answer r (respOp r.op) st body)) ∧
    (∀ (x : PartReq) (q i : Nat), Matches s port 0xD8 h t x → x.port = port → x.purpose = .pairWrite n q i → h.status ≠ Code.ok →
      n < 1024 →
      let off := leAt x.msg.body 8 8
      ∃ w : State, exec (.pairWriteResp port h t) s = .next (w.degrade n) ∧
        w = ((s.at t).settle x).markDirty n (s.pairTile n off) off ∧
        bit (w.dirtyAt n (s.pairTile n off)) (off / 2 ^ 20) = true) ∧
    (∀ tile q off reg, pdValid (s.pair n) = true → pdSecondary (s.pair n) = false → s.rd (K.pairState n) = 3 →
      Tab.find s.cont.resync (n * 64 + tile) = none → lowestBit (s.dirtyAt n tile) = some reg → s.pairPort (s.pair n) = some q →
      s.resyncOffset (s.pair n) tile reg 0 = some off → s.pairClash n off 4096 = false →
      let e := s.entry (pdPart (s.pair n)) (pdExtent (s.pair n))
      let g := (s.at t).resyncRead e (eTag e * 2 ^ 42 + pdExtent (s.pair n) * 2 ^ 28 + off) 4096
      exec (.pairResyncSend n tile t) s = .next ((g.2.setCont { g.2.cont with
        resync := Tab.set g.2.cont.resync (n * 64 + tile) (reg, 1) }).sendPair n q off g.1 (.pairResync n tile (off / 4096))))

/-- Stack controllers (08 R191, R195, R197 to R199; 10 R234). A burst slot issues the burst it picks; PER_BANK_REFRESH renews 8 rows
and every 2,752nd ends a pass; TARGETED_REFRESH serves the oldest aggressor, logs it and charges its partition; a partition that
reaches HAMMER_EVENT_LIMIT is throttled until two slates on; an idle pseudo-channel with no refresh due powers down; 64 bad reads of a stack lose it. -/
def Obligations.StackCommands : Prop :=
  ∀ (s : State) (tile pc bank t : Nat), tile < 36 → pc < 32 → bank < 48 →
    (∀ (k : Nat) (ready : List Nat) (b : Burst), s.rd (K.stackState tile) = 3 ∨ s.rd (K.stackState tile) = 4 → k < 124000 → (s.stack tile).retraining ≠ some pc →
      (s.followDrain tile pc).pick tile pc k (ready.filter (fun b => (s.bankOwner b).isSome || s.refreshOwed tile pc b (2 * k) ≤ 16)) =
        some b →
      ∃ w : State, exec (.stackBurstPick tile pc k ready) s = .next w ∧ (w.stack tile).queue = (s.stack tile).queue.erase b ∧
        w = (((s.followDrain tile pc).issue tile b (s.phaseOwner (k % 10)).isNone).followDrain tile pc) ∧
        (∀ a, w.byteAt a = s.byteAt a)) ∧
    (s.domainsOn tile = true → s.rd (K.stackState tile) ≠ 0 → (s.stack tile).retraining ≠ some pc → (s.at t).refreshMay tile pc bank t = true →
      let b := s.bank tile pc bank
      exec (.perBankRefresh tile pc bank t) s = .next (((((s.at t).setBank tile pc bank (if b.pass + 1 = 2752 then
          { b with issued := b.issued + 1, row := none, hits := 0, pass := 0, table := [], spill := 0 }
        else { b with issued := b.issued + 1, row := none, hits := 0, pass := b.pass + 1 })).updStack tile (fun x => { x with
          down := x.down.filter (· ≠ pc) })).count (K.stackCounts tile 3) 1))) ∧
    (∀ x rest, (s.bank tile pc bank).targets = x :: rest → s.domainsOn tile = true → s.systemMay bank t = true → s.rowTag bank x ≠ 0 →
      let p := handlePart (s.rowTag bank x)
      ∃ w : State, exec (.targetedRefresh tile pc bank t) s = .next w ∧
        w.bank tile pc bank = { s.bank tile pc bank with targets := rest, row := none, hits := 0 } ∧
        Tab.getD (w.stack tile).hammered p 0 = Tab.getD (s.stack tile).hammered p 0 + 1 ∧
        w.meterOf p Mt.hammer = s.meterOf p Mt.hammer + 1 ∧
        (w.stack tile).hammerLog = keepLast 64 ((s.stack tile).hammerLog ++ [s.rowTag bank x * 2 ^ 48 + pc * 2 ^ 43 + bank * 2 ^ 37 +
          x % 2 ^ 15 * 2 ^ 22 + s.frame % 2 ^ 22]) ∧ s.RegsBut w [K.stackCounts tile 4] ∧
        w = { s.at t with stackTab := w.stackTab, regs := w.regs, meter := w.meter }) ∧
    (∀ p, p < 64 → s.domainsOn tile = true → s.eff (K.hammerEventLimit tile) ≤ Tab.getD (s.stack tile).hammered p 0 → s.rd (K.throttled tile p) ≠ 2 →
      ∃ w : State, exec (.hammerThrottleStart tile p) s = .next w ∧ w.rd (K.throttled tile p) = 2 ∧
        Tab.find (w.stack tile).throttleEnd p = some (s.frame + 2) ∧
        (∀ c, c < 32 → (s.stack tile).acts p c ≤ (s.pcBudget tile c p).2 → s.eff (K.hammerThrottle tile) ≤ 256 →
          (s.pcBudget tile c p).2 - (w.stack tile).acts p c =
            ((s.pcBudget tile c p).2 - (s.stack tile).acts p c) * s.eff (K.hammerThrottle tile) / 256) ∧
        s.RegsBut w [K.throttled tile p, K.stackCounts tile 5] ∧ w = { s with stackTab := w.stackTab, regs := w.regs }) ∧
    (∀ p f, Tab.find (s.stack tile).throttleEnd p = some f →
      (f ≤ s.frame → exec (.hammerThrottleEnd tile p) s = .next ((s.updStack tile (fun k => { k with
        throttleEnd := Tab.erase k.throttleEnd p })).wr (K.throttled tile p) 0)) ∧
      (s.frame < f → exec (.hammerThrottleEnd tile p) s = .next (s.wr (K.throttled tile p) (f - s.frame)))) ∧
    (s.domainsOn tile = true → s.rd (K.stackState tile) ≠ 0 → s.anySealed = false → pc ∉ (s.stack tile).down →
      (∀ b ∈ (s.stack tile).queue, b.pc ≠ pc) → (∀ b, b < 48 → (s.bank tile pc b).row = none) →
      (∀ b, b < 48 → s.refreshOwed tile pc b (t + s.eff (K.pdTimer tile)) ≤ 0) →
      exec (.powerDownEntry tile pc t) s = .next (((s.at t).setStack tile { s.stack tile with down := (s.stack tile).down ++ [pc] }).count
        (K.stackCounts tile 7) 1)) ∧
    (∀ slot, 64 ≤ (s.stack tile).badReads → (s.stack tile).lost = false → s.cont.reloc = none → s.slotOfTile tile = some slot →
      ∃ w : State, exec (.stackLost tile) s = .next w ∧ (w.stack tile).lost = true ∧ (w.stack tile).queue = [] ∧
        w.rd (K.slotState slot) = 2 ∧ (slot, 4) ∈ w.cont.triggers ∧
        w = { s with stackTab := w.stackTab, regs := w.regs, cont := w.cont })
/-- Training and retraining (08 R200, R201). A step that GO started ends with its errors and its status, a command-address sweep with
the midpoint in force, a verify without error with the pseudo-channel trained. A retraining starts at its time with its banks
precharged, and ends with the new taps in force, or with the old ones and the failure counted. -/
def Obligations.StackTraining : Prop :=
  ∀ (s : State) (tile pc t dur : Nat), tile < 36 → pc < 32 →
    (∀ (errs : List Nat) (mid : Option Nat), bit (s.rd (K.trainCtrl tile)) 31 = true → fld (s.rd (K.trainCtrl tile)) 28 24 = pc →
      s.rd (K.trainCtrl tile) < 2 ^ 32 →
      let mode := fld (s.rd (K.trainCtrl tile)) 30 29
      (mode < 2 → ∃ w : State, exec (.trainStepComplete tile errs mid dur) s = .next w ∧
        w.rd (K.trainCtrl tile) = s.rd (K.trainCtrl tile) - 2 ^ 31 ∧ w.rd (K.trainStatus tile) = trainStatus 2 pc 0 dur ∧
        (∀ i, i < 72 → w.rd (K.trainErrors tile i) = errs.getD i 0 % 2 ^ 32) ∧
        s.RegsBut w ([K.trainCtrl tile, K.trainStatus tile] ++ (List.range 72).map (K.trainErrors tile)) ∧
        w = { s with regs := w.regs }) ∧
      (∀ m, mode = 2 → mid = some m → ∃ w : State, exec (.trainStepComplete tile errs mid dur) s = .next w ∧
        w.rd (K.trainStatus tile) = trainStatus 2 pc 0 dur ∧ Tab.getD (w.stack tile).caDelay pc 0 = m ∧
        w = { s with regs := w.regs, stackTab := w.stackTab }) ∧
      (mode = 3 → (∀ e ∈ errs, e = 0) → ∃ w : State, exec (.trainStepComplete tile errs mid dur) s = .next w ∧
        w.rd (K.trainStatus tile) = trainStatus 2 pc 0 dur ∧ pc ∈ (w.stack tile).trained ∧
        ((w.stack tile).trained.length = 32 → w.rd (K.stackState tile) = 3) ∧ w = { s with regs := w.regs, stackTab := w.stackTab })) ∧
    (∀ f, (s.stack tile).retrainAsk = some (pc, f) → s.rd (K.stackState tile) = 3 ∨ s.rd (K.stackState tile) = 4 →
      (if s.anySealed then s.maintenance tile pc = true ∧ t < 20000 else f < s.frame) →
      ∃ w : State, exec (.retrainStart tile t) s = .next w ∧ (w.stack tile).retrainAsk = none ∧ (w.stack tile).retraining = some pc ∧
        (w.stack tile).retrained = some (pc, s.frame) ∧ (∀ b, b < 48 → (w.bank tile pc b).row = none) ∧
        w.rd (K.trainStatus tile) = trainStatus 1 pc 1 0 ∧ s.RegsBut w [K.trainStatus tile] ∧
        w = { s.at t with stackTab := w.stackTab, regs := w.regs }) ∧
    (∀ taps : List Nat, s.domainsOn tile = true → (s.stack tile).retraining = some pc →
      (s.tapsNear tile pc taps = true → ∃ w : State, exec (.retrainComplete tile true taps dur) s = .next w ∧
        (w.stack tile).retraining = none ∧ w.rd (K.trainStatus tile) = trainStatus 2 pc 1 dur ∧
        (∀ i, i < 144 → w.rd (K.dqDelays tile (pc * 144 + i)) = taps.getD i 0) ∧ w = { s with stackTab := w.stackTab, regs := w.regs }) ∧
      (Tab.getD (s.stack tile).retrainFails pc 0 = 0 → exec (.retrainComplete tile false taps dur) s = .next
        ((((s.setStack tile { s.stack tile with retraining := none, retrainFails := Tab.set (s.stack tile).retrainFails pc 1 }).wr
          (K.trainStatus tile) (trainStatus 3 pc 1 dur)).count (K.stackCounts tile 8) 1).triggerTile tile 3)))

/-- Stored-data integrity (09 R208, R214, R216, R218). The waiting signature write of a line poisons it; the scrubber counts the line
that it reads and queues the rewrite of a corrected one, or passes over the quota's lines that need no read; a test operation on an extent no
longer free ends with OUTCOME 7; a raw TEST write leaves the line's code as its check bytes say, an encoded
one has none wrong, a read reports its decode; the third one-second check in a row with an alert retires the die. -/
def Obligations.IntegrityCommands : Prop :=
  ∀ (s : State) (ln tile t : Nat), tile < 36 →
    (ln / 2 ^ 30 = tile → s.domainsOn tile = true → ln ∈ (s.stack tile).signWait → s.systemMay (bankOf (ln * 128)) t = true →
      ∃ w : State, exec (.poisonSignatureWrite ln t) s = .next w ∧ ln ∉ (w.stack tile).signWait ∧ w.errsOf ln = poisonErrs ∧
        (∀ i, i < 128 → w.byteAt (ln * 128 + i) = 0#8) ∧ (∀ a, a < ln * 128 ∨ ln * 128 + 128 ≤ a → w.byteAt a = s.byteAt a) ∧
        Tab.find w.lineKey ln = none ∧ w.written = s.written ∧ w.tags = s.tags) ∧
    (∀ (noise : List (Nat × Nat)) (f : List (Nat × Nat)) (l : Nat), s.rd K.scrubEnable ≠ 0 → s.inService tile = true →
      (s.stack tile).lost = false → s.rd (K.stackState tile) ≠ 5 → s.nextScrub tile (s.rd (K.scrubPosition tile) % 2 ^ 32) = l →
      l - s.rd (K.scrubPosition tile) % 2 ^ 32 < (s.stack tile).scrubLeft → s.systemMay (bankOf (l * 128)) t = true →
      let x := tile * 2 ^ 30 + l
      let u := (s.at t).scrubAdvance tile (l + 1 - s.rd (K.scrubPosition tile) % 2 ^ 32)
      let v := ((u.burst x 0 false).count (K.integrityCounts tile 0) 1).count (K.integrityCounts tile 4) 1
      (u.decode x noise = .clean → exec (.scrubRead tile noise t) s = .next v) ∧
      (u.decode x noise = .corrected f → exec (.scrubRead tile noise t) s = .next
        ((((v.errEvent 4 x f).burst x 0 true).count (K.integrityCounts tile 5) 1).updStack tile (fun k => { k with
          fixWait := Tab.set k.fixWait x (addErrs noise f) })))) ∧
    (∀ (noise : List (Nat × Nat)) (l : Nat), s.rd K.scrubEnable ≠ 0 → s.inService tile = true → (s.stack tile).lost = false →
      s.rd (K.stackState tile) ≠ 5 → (s.stack tile).scrubLeft ≠ 0 → s.nextScrub tile (s.rd (K.scrubPosition tile) % 2 ^ 32) = l →
      (s.stack tile).scrubLeft ≤ l - s.rd (K.scrubPosition tile) % 2 ^ 32 →
      exec (.scrubRead tile noise t) s = .next ((s.at t).scrubAdvance tile (s.stack tile).scrubLeft)) ∧
    (∀ (o : TestOp) (noise : List (Nat × Nat)), s.test = some o → s.rd (K.dxnState (dpos (dpaLocal o.addr))) ≠ 0 →
      s.systemMay (bankOf o.addr) t = true →
      ∃ w : State, exec (.testOpExecute noise t) s = .next w ∧ w.test = none ∧ w.rd K.testResult = testResult 2 7 31 0 ∧
        w.rd K.testCtrl = s.rd K.testCtrl % 2 ^ 31 ∧ s.RegsBut w [K.testCtrl, K.testResult] ∧
        w = { s.at t with test := none, regs := w.regs }) ∧
    (∀ (o : TestOp) (noise : List (Nat × Nat)), s.test = some o → s.rd (K.dxnState (dpos (dpaLocal o.addr))) = 0 →
      s.systemMay (bankOf o.addr) t = true → fld o.ctrl 29 28 < 2 → o.addr < 36 * 2 ^ 37 →
      ∃ w : State, exec (.testOpExecute noise t) s = .next w ∧ w.test = none ∧ w.rd K.testResult = testResult 2 0 31 0 ∧
        w.rd K.testCtrl = s.rd K.testCtrl % 2 ^ 31 ∧
        (∀ i, i < 128 → w.byteAt (o.addr / 128 * 128 + i) = (toBE 128 o.data).getD i 0#8) ∧
        Tab.find w.lineKey (o.addr / 128) = none ∧ w.written = s.written ∧
        (∀ a, a < o.addr / 128 * 128 ∨ o.addr / 128 * 128 + 128 ≤ a → w.byteAt a = s.byteAt a)) ∧
    (∀ (o : TestOp) (noise : List (Nat × Nat)), s.test = some o → s.rd (K.dxnState (dpos (dpaLocal o.addr))) = 0 →
      s.systemMay (bankOf o.addr) t = true → 2 ≤ fld o.ctrl 29 28 → o.addr < 36 * 2 ^ 37 →
      let x := testOutcome (if bit o.ctrl 27 then some (fld o.ctrl 26 22) else s.retiredDie (o.addr / 2 ^ 37))
        (classify (if bit o.ctrl 27 then some (fld o.ctrl 26 22) else s.retiredDie (o.addr / 2 ^ 37))
          (addErrs (s.errsOf (o.addr / 128)) noise))
      ∃ w : State, exec (.testOpExecute noise t) s = .next w ∧ w.test = none ∧ w.rd K.testResult = testResult 2 x.1 x.2.1 x.2.2 ∧
        w.rd K.testData = Dict.octets (s.rawLine (o.addr / 128) noise).1 ∧
        w.rd K.testCheck = Dict.octets (s.rawLine (o.addr / 128) noise).2 ∧
        s.RegsBut w [K.testCtrl, K.testData, K.testCheck, K.testResult] ∧ w = { s.at t with test := none, regs := w.regs }) ∧
    (∀ d f, s.frame % 4000 = 0 → (s.stack tile).alertChecked = some f → s.frame = f + 4000 → d < 18 → bit (s.rd (K.dieAlert tile)) d = true →
      (∀ e, e < d → bit (s.rd (K.dieAlert tile)) e = false ∧ dieRows (s.windowOf tile) e < 64) →
      Tab.getD (s.stack tile).alertRun d 0 = 2 → s.rd (K.dieRetire tile) = 0xFF →
      ∃ w : State, exec (.dieAlertCheck tile) s = .next w ∧ w.rd (K.dieRetire tile) = d ∧ (w.stack tile).retireWait = some d ∧
        (w.stack tile).alertChecked = some s.frame ∧ s.RegsBut w [K.dieRetire tile] ∧
        w = { s with stackTab := w.stackTab, regs := w.regs, cont := w.cont })
/-- Relocation (10 R224 to R227, R230, R231; 02 R44). A trigger starts a relocation when RELOC_AUTO is 1 and a target qualifies; a
prepared target begins the copy, a failed one ends it; the copy done, the take of the slot map waits and is committed once the take
state is IDLE, or refused by the validation of a take; the drained source is STANDBY, or TESTING and then STANDBY when its self-test passes and FAILED when it does not. -/
def Obligations.RelocationSteps : Prop :=
  ∀ (s : State) (slot target t : Nat) (r : Reloc), r.source < 36 → r.target < 36 → r.slot < 32 →
    (∀ kind, s.cont.triggers.find? (fun x => x.1 = slot) = some (slot, kind) → s.relocTarget slot 0x3F = some target →
      s.rd K.relocAuto = 1 → s.cont.reloc = none → (s.stack (s.tileAt slot)).lost = false →
      exec (.relocAutoStart slot) s = .next (s.relocStart slot target kind false)) ∧
    (s.cont.reloc = some r → r.step = 1 → s.rd (K.fillStatus r.target) = 2 → s.rd (K.stackState r.target) = 3 →
      exec (.relocPrepareComplete true) s = .next ((s.setCont { s.cont with
        reloc := some { r with step := 4, cursor := 0 }
        dupsNext := duplicates ((s.serviceTiles.filter (· ≠ r.source)) ++ [r.target]) }).wr K.relocStatus
        (4 * 2 ^ 28 + r.slot * 2 ^ 23 + r.source * 2 ^ 17 + r.target * 2 ^ 11))) ∧
    (s.cont.reloc = some r → r.step = 1 → ∃ w : State, exec (.relocPrepareComplete false) s = .next w ∧ w.cont.reloc = none ∧
      w.rd (K.tileState r.target) = 5 ∧ w.rd (K.slotState r.slot) = (if (s.stack r.source).lost then 2 else 0) ∧
      w.rd K.relocStatus = relocStatus r 9 0 ∧ w.rd (K.stackState r.target) = 0 ∧ w.cont.dupsNext = [] ∧
      (∀ a, a / 2 ^ 37 ≠ r.target → w.byteAt a = s.byteAt a) ∧ (∀ a, a / 2 ^ 37 = r.target → w.byteAt a = 0#8) ∧
      w = { s with
        cont := w.cont
        regs := w.regs
        mem := w.mem
        errs := w.errs
        lineKey := w.lineKey
        written := w.written
        stackTab := w.stackTab }) ∧
    (s.cont.reloc = some r → r.step = 4 → s.copyGranules r = [] →
      exec .relocCopyComplete s = .next ((s.setCont { s.cont with reloc := some { r with step := 5 } }).wr K.relocStatus
        (relocStatus r 5 2047))) ∧
    (∀ g, s.cont.reloc = some r → r.step = 4 → s.copyGranules r = [g] → g < 16256 * 2 ^ 11 →
      ∃ w : State, exec .relocCopyComplete s = .next w ∧ w.cont.reloc = some { r with step := 5, cursor := g + 1 } ∧
        w.rd K.relocStatus = relocStatus r 5 2047 ∧ w.isFresh ((r.target * 2 ^ 25 + g) * 4096) = false ∧ w.tags = s.tags) ∧
    (s.cont.reloc = some r → r.step = 5 ∨ r.step = 6 → s.takeState = 0 →
      exec (.continuityTakeCommit t) s = .next (((s.at t).setCont { s.cont with reloc := some { r with step := 6 } }).continuityCommit
        r.slot r.target ((s.at t).continuityStage r.slot r.target).takeFault)) ∧
    (s.cont.reloc = some r → r.step = 8 → r.kind = 0 ∨ r.kind = 2 → (s.stack r.source).lost = false → ∃ w : State, exec .relocDrainComplete s = .next w ∧
      w.cont.reloc = none ∧ w.rd (K.tileState r.source) = 1 ∧ w.rd (K.stackState r.source) = 0 ∧
      w.rd K.relocStatus = relocStatus r 8 2047 ∧ (∀ a, a / 2 ^ 37 ≠ r.source → w.byteAt a = s.byteAt a) ∧
      w = { s with
        cont := w.cont
        regs := w.regs
        mem := w.mem
        errs := w.errs
        lineKey := w.lineKey
        written := w.written
        stackTab := w.stackTab }) ∧
    (s.cont.reloc = some r → r.step = 8 → r.kind = 1 → ∃ w : State, exec .relocDrainComplete s = .next w ∧
      w.cont.reloc = some { r with step := 9 } ∧ w.rd (K.tileState r.source) = 4 ∧ w.rd K.relocStatus = relocStatus r 7 2047 ∧
      w = { s with cont := w.cont, regs := w.regs }) ∧
    (∀ code, s.cont.reloc = some r → r.step = 9 → r.ret = false → ∃ w : State, exec (.selftestComplete code) s = .next w ∧
      w.cont.reloc = none ∧ w.rd (K.tileState r.source) = (if code % 2 ^ 30 = 0 then 1 else 5) ∧
      w.rd (K.selftestResult r.source) = (if code % 2 ^ 30 = 0 then 2 ^ 30 else 2 ^ 31 + code % 2 ^ 30) ∧
      (code % 2 ^ 30 = 0 → Tab.find w.cont.returnTile r.slot = some r.source) ∧ w.rd K.relocStatus = relocStatus r 8 2047 ∧
      (∀ a, a / 2 ^ 37 ≠ r.source → w.byteAt a = s.byteAt a) ∧
      w = { s with
        cont := w.cont
        regs := w.regs
        mem := w.mem
        errs := w.errs
        lineKey := w.lineKey
        written := w.written
        stackTab := w.stackTab })

/-- The part as SPDM responder (18 R397 to R400, R402, R403). On a management port or in band, each request that comes in its turn
is answered: GET_VERSION with 1.3, GET_CAPABILITIES with the part's flags, NEGOTIATE_ALGORITHMS with the fixed set, GET_DIGESTS and
GET_CERTIFICATE from the chains not withheld, CHALLENGE and GET_MEASUREMENTS with both signatures, KEY_EXCHANGE with the hybrid
exchange and a session reserved, FINISH, when it verifies, within the session that it opens. -/
def Obligations.SpdmRequests : Prop :=
  ∀ (s : State) (via source t src : Nat) (h : Hdr) (u : State) (put : State → List Byte → State),
    (Carried s via source h 0 t src u put →
      let k := u.spdmKey via src
      let x := u.spdmOf k
      exec (.spdmGetVersion via source h t) s = .next (put
        (u.setSpdm k { x with stage := 1, mutCap := false, opening := none, ems := [] })
        (toLE 1 0x10 ++ toLE 1 0x04 ++ toLE 2 0 ++ toLE 1 0 ++ toLE 1 1 ++ toLE 2 0x1300)) ∧
      (∀ a, 1 ≤ x.stage → ∃ (v : State) (b : List Byte), exec (.spdmGetCapabilities via source h a t) s = .next (put v b) ∧
        v = { u.setSpdm k { x with stage := 2, mutCap := a } with free := u.free + 3 } ∧
        b.take 4 = [0x13#8, 0x61#8, 0#8, 0#8] ∧ leAt b 8 4 = spdmCaps + 16) ∧
      (2 ≤ x.stage → exec (.spdmNegotiateAlgorithms via source h true t) s = .next (put (u.setSpdm k { x with stage := 3 })
        spdmAlgorithms)) ∧
      (3 ≤ x.stage → exec (.spdmGetDigests via source h t) s = .next (put u u.spdmDigests)) ∧
      (∀ slot off len c, 3 ≤ x.stage → slot < 2 → u.withheld slot = false → c = u.identity (2 + slot) → off < c.length →
        exec (.spdmGetCertificate via source h slot off len t) s = .next (put u (spdmMsg 0x02 slot 0
          (toLE 2 ((c.drop off).take len).length ++ toLE 2 (c.length - off - ((c.drop off).take len).length) ++
            (c.drop off).take len)))) ∧
      (∀ slot summary tr c, 3 ≤ x.stage → u.chainOf slot = some c →
        ∃ v : State, exec (.spdmChallenge via source h slot summary tr t) s = .next (put v (u.spdmChallenge slot summary tr).1) ∧
          v = (u.spdmChallenge slot summary tr).2 ∧ u.RegsBut v [K.attestCounts 1] ∧ v = { u with regs := v.regs, free := u.free + 2 }) ∧
      (∀ index slot tr l, 3 ≤ x.stage → (if index = 0 then some [] else u.spdmBlocks index) = some l →
        exec (.spdmGetMeasurements via source h index false slot tr t) s = .next (put { u with free := u.free + 1 }
          (spdmMsg 0x60 (if index = 0 then 71 else 0) slot (toLE 1 l.length ++ toLE 3 l.flatten.length ++ l.flatten ++
            toLE 32 (u.draw (2 ^ 256)).1 ++ opaqueData [])))) ∧
      (∀ reqId summary pub ek tr i, 3 ≤ x.stage → ek ≠ [] → (if k < 64 then some (512 + k) else u.spdmFree k) = some i →
        ∃ (v : State) (b : List Byte), exec (.spdmKeyExchange via source h reqId summary pub ek tr t) s = .next (put v b) ∧
          (v.spdmOf k).opening = some i ∧ (v.spdmOf k).id % 65536 = reqId % 65536 ∧
          (v.spdmOf k).ems = Config.exportSecret pub ek (u.draw 0).1 ∧ (v.spdmOf k).stage = x.stage ∧ b.take 2 = [0x13#8, 0x64#8] ∧
          u.RegsBut v [K.attestCounts 1])) ∧
    (∀ (chain root i : Nat), Carried s via source h 1 t src u put →
      let k := u.spdmKey via src
      let x := u.spdmOf k
      3 ≤ x.stage → x.opening = some i → i < 16 →
      let e : Sess := {
        cls := 1, carrier := if viaMgmt via then via - 64 else 2, port := if viaMgmt via then 0 else via, source := src
        spdmId := x.id, mutualAuth := x.mutCap && decide (chain ≠ 0), rootDigest := if x.mutCap = true ∧ chain ≠ 0 then root else 0
        ems := x.ems }
      ∃ (v : State) (y : Sess), exec (.spdmFinish via source h true chain root t) s = .next (put v
          ({ y with txSeq := 0 }.record (toBE 1 0x05 ++ spdmMsg 0x65 0 0 []))) ∧
        v.session i = some y ∧ y.cls = u.securedClass e ∧ y.txSeq = 1 ∧ y.spdmId = x.id ∧ y.source = src ∧
        (v.spdmOf k).opening = none ∧ (∀ j, j ≠ i → v.session j = u.session j) ∧ u.RegsBut v [K.attestCounts 0])
/-- SPDM within a session, and the port as requester (18 R398, R401; 19 R418, R422; 03 R71). HEARTBEAT, KEY_UPDATE and END_SESSION
that authenticate are answered within the session, which END_SESSION ends. The port whose LINK_ID is the lower starts with
GET_VERSION, each right answer sends the next request, FINISH_RSP makes the link SECURE, and an attempt that failed is tried again. -/
def Obligations.SpdmSessions : Prop :=
  ∀ (s : State) (via source t src i sq : Nat) (h : Hdr) (u v : State) (put : State → List Byte → State),
    (Carried s via source h 1 t src u put → Secures u i sq v → i < 512 → ∀ y, v.session i = some y →
      exec (.spdmHeartbeat via source h i sq true t) s = .next (put (v.setSess i { y with txSeq := y.txSeq + 1 })
        (y.record (toBE 1 0x05 ++ spdmMsg 0x68 0 0 []))) ∧
      (∀ op, 1 ≤ op → op ≤ 3 → exec (.spdmKeyUpdate via source h i sq true op t) s = .next (put
        (v.setSess i { y with keyGen := if op = 2 then y.keyGen + 1 else y.keyGen, txSeq := y.txSeq + 1 })
        ((if op = 2 then { y with keyGen := y.keyGen + 1 } else y).record (toBE 1 0x05 ++ spdmMsg 0x69 op 0 [])))) ∧
      exec (.spdmEndSession via source h i sq true t) s = .next (put ((v.setSess i { y with txSeq := y.txSeq + 1 }).sessEnd i)
        (y.record (toBE 1 0x05 ++ spdmMsg 0x6C 0 0 [])))) ∧
    (∀ p, p < 36 → s.boot.released = true → s.spdmRequester p = true → (s.spdmOf p).asked = 0 → (s.spdmOf p).retry = false →
      exec (.linkSpdmAttempt p t) s = .next ((s.at t).spdmStart p) ∧ (((s.at t).spdmStart p).spdmOf p).asked = 1) ∧
    (∀ p, p < 36 → s.boot.released = true → s.spdmRequester p = true → (s.spdmOf p).retry = true →
      exec (.spdmAttemptRetry p t) s = .next ((s.at t).spdmStart p)) ∧
    (∀ (p : Nat) (x : PartReq), p < 36 → Matches s p 0xF0 h t x → x.port = p → x.purpose = .spdm → h.status = Code.ok →
      s.spdmRequester p = true →
      let w := (s.at t).settle x
      let y := s.spdmOf p
      (y.asked = 1 → ∃ (z : State) (m : List Byte), exec (.spdmResponseReceived p h (.version true) t) s = .next (z.spdmAsk p 2 m) ∧
        z = { w with free := s.free + 3 } ∧ m.take 2 = [0x13#8, 0xE1#8]) ∧
      (y.asked = 2 → ∃ m : List Byte, exec (.spdmResponseReceived p h .capabilities t) s = .next (w.spdmAsk p 3 m) ∧
        m.take 2 = [0x13#8, 0xE3#8]) ∧
      (y.asked = 3 → exec (.spdmResponseReceived p h (.algorithms true) t) s = .next (w.spdmAsk p 4 (spdmMsg 0x81 0 0 []))) ∧
      (y.asked = 4 → exec (.spdmResponseReceived p h (.digests true) t) s = .next ((w.setSpdm p { y with got := 0 }).spdmAskCert p 0)) ∧
      (∀ d, y.asked = 5 → exec (.spdmResponseReceived p h (.certificate 0 true d) t) s = .next
        (((w.setSpdm p { y with peerChain := d }).wr (K.peerCertDigests p) d).spdmAskKeys p)) ∧
      (y.asked = 8 → exec (.spdmResponseReceived p h (.finishRsp true) t) s = .next
        (((w.setSpdm p { y with asked := 0, fails := 0, retry := false }).spdmOpen p (512 + p) p 0xFFFF y.mutCap 0).linkSecure p) ∧
        (((w.setSpdm p { y with asked := 0, fails := 0, retry := false }).spdmOpen p (512 + p) p 0xFFFF y.mutCap 0).linkSecure p).secure p = true) ∧
      (y.asked ≠ 0 → exec (.spdmResponseReceived p h .error t) s = .next (w.spdmFails p)))

/-- Fligifer payloads, management ports and the ends of sessions (04 R104; 18 R400; 19 R417 to R422, R434). A message in the clear is
executed in its source's unsecured session, one in a secured message that authenticates in that session; in band the first response
goes out in the MGMT_RESP. A packet to an address of the port is answered; MGMT_LINK follows the link, and the written MAC is in
force from the link-up. An unsecured session ends after 240,000 frames without a message, a secured one after 80,000, and with a link's
SPDM session its link session (03 R71). -/
def Obligations.MessagesAndSessions : Prop :=
  ∀ (s : State) (n source t : Nat) (e1 e2 : Bool),
    (∀ m : List Byte, s.boot.released = true →
      let u := (s.at t).unsecured (n % 2) 0 source
      exec (.mgmtDatagram n source 0x464C 1 (.flig m) e1 e2 t) s = .next (u.2.fligDeliver u.1 m t (e1, e2))) ∧
    (∀ (m : List Byte) (i sq : Nat) (v : State) (via : Nat) (h : Hdr), s.boot.released = true → Secures (s.at t) i sq v → i < 16 →
      64 ≤ via →
      let r := v.fligRecv i m t (e1, e2)
      exec (.mgmtDatagram n source 0x464C 1 (.secured i sq true (.flig m)) e1 e2 t) s =
        .next (r.1.foldl (fun (s : State) x => s.fligSend i x) r.2) ∧
      exec (.securedMessage via source h i sq true (.flig m) e1 e2 t) s =
        .next (r.1.foldl (fun (s : State) x => s.fligSend i x) r.2)) ∧
    (∀ (magic ver : Nat) (p : Payload), s.boot.released = true → (magic ≠ 0x464C ∨ ver ≠ 1) →
      exec (.mgmtDatagram n source magic ver p e1 e2 t) s = .next ((s.at t).count (K.fligiferCounts 3) 1)) ∧
    (∀ (port : Nat) (h : Hdr) (q : Req) (u : State), s.boot.released = true → (s.at t).portOpen port = true →
      (s.at t).earlyReq port 0x71 h = none → (s.at t).arrive port 0x71 h (toLE 2 (h.len - 24) ++ toLE 6 0) = (some q, u) →
      (∀ m : List Byte,
        let w := u.unsecured 2 port h.src
        let r := w.2.fligRecv w.1 m t (e1, e2)
        exec (.mgmt port h 0x464C 1 (.flig m) e1 e2 t) s = .next (r.2.mgmtReply q w.1 2 r.1)) ∧
      (∀ (m : List Byte) (i sq : Nat) (v : State), Secures u i sq v → i < 16 →
        let r := v.fligRecv i m t (e1, e2)
        exec (.mgmt port h 0x464C 1 (.secured i sq true (.flig m)) e1 e2 t) s = .next (r.2.mgmtReply q i 1 r.1))) ∧
    (∀ (port : Nat) (h : Hdr) (q : Req) (u v : State) (m : List Byte) (i sq : Nat), s.boot.released = true → port < 64 →
      (s.at t).portOpen port = true → (s.at t).earlyReq port 0x70 h = none → (s.at t).arrive port 0x70 h (toLE 2 (h.len - 24) ++ toLE 6 0) = (some q, u) →
      Secures u i sq v → i < 16 → ∀ (a : List Byte) (x : Sess), (v.fligRecv i m t (e1, e2)).1 = [a] →
      (v.fligRecv i m t (e1, e2)).2.session i = some x →
      exec (.securedMessage port source h i sq true (.flig m) e1 e2 t) s = .next
        (((v.fligRecv i m t (e1, e2)).2.fligSend i a).carriedAnswer q (x.record (toBE 1 0x46 ++ a)))) ∧
    (∀ (kind target : Nat) (data : List Byte), s.boot.released = true →
      ((kind = 0 ∨ kind = 3) ∧ s.hasIpv6 n target = true) ∨ ((kind = 1 ∨ kind = 2) ∧ s.hasIpv4 n target = true) →
      exec (.mgmtNetworkPacket n kind target data) s = .next { s with boot := { s.boot with
        netOut := s.boot.netOut ++ [(n, kind, if kind = 0 then toBE 16 target ++ toBE 6 (s.macOf n)
          else if kind = 1 then toBE 4 target ++ toBE 6 (s.macOf n) else data)] } }) ∧
    (n < 2 → exec (.mgmtPortLinkChange n false) s = .next (s.wr (K.mgmtLink n) 0)) ∧
    (∀ m, n < 2 → Tab.find s.regs (K.mgmtMac n) = some m →
      exec (.mgmtPortLinkChange n true) s = .next { s.wr (K.mgmtLink n) 1 with
        boot := { s.boot with macs := Tab.set s.boot.macs n m } }) ∧
    (∀ (i : Nat) (x : Sess), s.session i = some x →
      (16 ≤ i → i < 32 → x.lastFrame + 240000 ≤ s.frame → exec (.sessionIdleTimeout i) s = .next (s.sessEnd i) ∧
        (s.sessEnd i).session i = none ∧ (∀ j, j ≠ i → (s.sessEnd i).session j = s.session j)) ∧
      (i < 16 → x.lastFrame + 80000 ≤ s.frame → exec (.sessionHeartbeatTimeout i) s = .next (s.sessEnd i) ∧
        (s.sessEnd i).session i = none ∧ (∀ y ∈ (s.sessEnd i).dailies.subs, y.2.sess ≠ i)) ∧
      (512 ≤ i → x.lastFrame + 80000 ≤ s.frame → exec (.sessionHeartbeatTimeout i) s = .next (s.loseSession (i - 512)) ∧
        (s.loseSession (i - 512)).session i = none))

/-- Keys, quarantine, seals, roll-ups and the gaffer's events. A partition's quarantine ends at its frame (17 R371). The reseed counts at every
tile whose DRBG is healthy; a health failure stops the tile's DRBG and is logged (R389). The digest of a seal is kept for its slate, or
the seal fails with the status found (18 R407). A roll-up of a minute that has ended is signed and shown, one that has not ended waits
(21 R452). With the
part powered, a sample stores its readings, marks one outside the range as failed, and acts by R462: the tile's cut, the critical stop, and, with the
tile's domains on, the stack's state and its retention period. An exhausted allowance is held (R456); the halving, the peak window's arming and end, and a coolant
report's age act as their conditions say (R458, R459, R461). -/
def Obligations.KeyAndPowerEvents : Prop :=
  ∀ (s : State) (tile p slot m t : Nat), tile < 36 → p < 64 → slot < 32 →
    (s.rd (K.partitionStatus p) = 2 →
      (s.rd (K.quarantineEnd p) ≤ s.frame → exec (.partitionQuarantineEnd p) s = .next (s.wr (K.partitionStatus p) 0)) ∧
      (s.frame < s.rd (K.quarantineEnd p) → exec (.partitionQuarantineEnd p) s = .next s)) ∧
    (∃ w : State, exec .drbgReseed s = .next w ∧ w = { s with reseeds := w.reseeds } ∧ Tab.getD w.reseeds tile 0 =
      (if s.rd (K.drbgStatus tile) = 1 then Tab.getD s.reseeds tile 0 + 1 else Tab.getD s.reseeds tile 0)) ∧
    (s.rd (K.drbgStatus tile) = 1 → ∃ w : State, exec (.drbgHealthFailure tile) s = .next w ∧ w.rd (K.drbgStatus tile) = 2 ∧
      w.secLog = keepLast 64 (s.secLog ++ [8 * 2 ^ 124 + tile * 2 ^ 102 + s.frame % 2 ^ 64]) ∧
      s.RegsBut w [K.drbgStatus tile, K.securityCounts 7] ∧ w = { s with regs := w.regs, secLog := w.secLog }) ∧
    (∀ (x : Seal) (st : Nat) (d : List Byte) (v : State), (s.part p).sealJob = some x → x.started = true → x.digest = none → x.failed = none →
      s.sealDigest p (s.entry p x.idx) x.idx = (st, d, v) →
      (st = 0 → exec (.sealHashComplete p) s = .next (v.updPart p (fun q => { q with sealJob := some { x with digest := some (ofBE d) } }))) ∧
      (st ≠ 0 → exec (.sealHashComplete p) s = .next (((v.updPart p (fun q => { q with
        sealJob := some { x with failed := some st } })).sealShow p st 3 x.idx).count (K.attestCounts 3) 1))) ∧
    (s.frame < 240000 * (m + 1) → exec (.rollupSign m) s = .next s) ∧
    (∀ b : List Byte, 240000 * (m + 1) ≤ s.frame → s.dailies.minutes = [(m * 65 + p, b)] →
      ∃ (w : State) (x : Nat), exec (.rollupSign m) s = .next w ∧ w.dailies.minutes = [] ∧
        w.rd (K.rollupLast p) = ofBE (s.rollBody m p b ++ Config.ecdsaSign s.ecdsaKey (sha384 (s.rollBody m p b)) ++
          Config.mldsaSign s.mldsaKey (sha384 (s.rollBody m p b)) x) ∧ w.dailies.ring = s.dailies.ring) ∧
    (∀ vals : List Int, s.boot.powered = true → ∃ w : State, exec (.sensorSample tile vals t) s = .next w ∧
      (∀ i, i < 6 → (w.sensor tile i).last = vals.getD i 0 ∧
        (vals.getD i 0 < -160 ∨ 1200 < vals.getD i 0 → bit (w.rd (K.sensorStatus tile)) i = true)) ∧
      (∀ v, w.dieTemp tile = some v → (840 < v → w.rd (K.tileCut tile) = 224) ∧
        (919 < v → w.gaff.critical = true ∧ w.boot.service = false)) ∧
      (∀ v, w.stackTemp tile = some v → s.domainsOn tile = true → 3 ≤ s.rd (K.stackState tile) → s.rd (K.stackState tile) ≤ 5 →
        (840 < v → w.rd (K.stackState tile) = 5) ∧ (760 < v → v ≤ 800 → w.rd (K.stackState tile) = 4) ∧
        (v ≤ 736 → w.rd (K.stackState tile) = 3) ∧ (744 ≤ v → s.rd (K.retention tile) ≤ 2 → w.rd (K.retention tile) = 2)) ∧
      w.mem = s.mem) ∧
    (s.reached slot p = true → ∃ w : State, exec (.allowanceReached slot p) s = .next w ∧ slot * 64 + p ∈ w.gaff.held ∧
      w = { s with gaff := { s.gaff with held := w.gaff.held } }) ∧
    (4 ≤ s.gaff.cutRun → exec .sharedBudgetHalving s = .next { s with gaff := { s.gaff with halved := true } }) ∧
    (s.gaff.cutRun < 4 → exec .sharedBudgetHalving s = .next s) ∧
    (s.gaff.peak = 0 → 4000 ≤ s.gaff.rearm → exec .peakWindowArm s = .next { s with gaff := { s.gaff with peak := 1 } }) ∧
    (s.gaff.peak = 2 → s.gaff.peakLeft = 0 ∨ s.rd K.peakEnable ≠ 1 →
      exec .peakWindowExpiry s = .next { s with gaff := { s.gaff with
        peak := 3
        peakLeft := 0
        closing := 0 } }) ∧
    (∀ f, s.gaff.coolant = some f → s.gaff.stale = false →
      (f + 400 < s.frame → exec .coolantReportStale s =
        .next (({ s with gaff := { s.gaff with stale := true } } : State).count (K.gafferCounts 5) 1)) ∧
      (s.frame ≤ f + 400 → exec .coolantReportStale s = .next s))

/-- Slates and their guard (02 R28, R31, R42, R46, R48, R52, 21 R449, R460). A slate at which nothing else is due opens the next frame with
fresh budgets and meters and leaves the take as it was; an armed take's staged value becomes the live one, and the take is counted. The
guard records the frame and sets the package's cut. The end of a scrub gives the rebound resource free. -/
def Obligations.Slates : Prop :=
  ∀ (s : State) (ptp uj : Nat), s.boot.locked = true →
    (s.Quiet → s.takeState ≠ 2 → s.takeState ≠ 3 → ∃ w : State, exec (.slate ptp) s = .next w ∧ w.frame = s.frame + 1 ∧
      w.fl.now = 0 ∧ w.fl.inGuard = false ∧ w.fl.slateOut = true ∧ w.rd K.takeNumber = s.rd K.takeNumber ∧ w.take = s.take ∧ w.lag = [] ∧
      w.gaff.units = [] ∧ w.gaff.held = [] ∧ w.mover.used = [] ∧ (∀ slot, slot < 32 → (w.stack (s.tileAt slot)).burstUsed = []) ∧
      w.mem = s.mem) ∧
    (∀ p slot v : Nat, p < 64 → slot < 32 → s.Quiet → s.takeState = 3 → s.take.cont = none → s.take.staged = [(K.bwShares p slot, v)] →
      s.take.stale = none → (∀ q, q < 64 → (s.rd (K.partitionStatus q) = 1 ↔ s.rd (K.partitionState q) = 1)) →
      ∃ w : State, exec (.slate ptp) s = .next w ∧ w.rd (K.bwShares p slot) = v ∧ w.takeState = 0 ∧ w.rd K.takePendingFrame = 0 ∧
        w.rd K.takeNumber = (s.rd K.takeNumber + 1) % 2 ^ 32 ∧ w.rd K.takeAppliedFrame = s.frame + 1 ∧ w.rd K.takeLastResult = Code.ok ∧
        w.take.staged = [] ∧ w.frame = s.frame + 1 ∧ w.mem = s.mem) ∧
    (s.reels.ctxs = [] → s.fl.inGuard = false → ∃ w : State, exec (.slateGuard uj) s = .next w ∧
      w.fl = { s.fl with
        inGuard := true
        now := max s.fl.now s.guardAt } ∧ w.rd K.packagePower = 4 * uj % 2 ^ 32 ∧ w.rd K.lastRecordFrame = s.frame ∧ w.meter = [] ∧
      w.gaff.cutPkg = nextPkgCut s.gaff.cutPkg uj (s.gaff.limit * 250)
        (((List.range 2048).map (fun k => s.drawn (k / 64) (k % 64))).sum / microJ) ∧
      w.gaff.cutRun = (if w.gaff.cutPkg = 224 then s.gaff.cutRun + 1 else 0) ∧
      (∃ recs, w.dailies.ring = keepLast 4000 (s.dailies.ring ++ [(s.frame, recs)]) ∧
        recs.length = ((List.range 64).filter (fun p => s.rd (K.partitionStatus p) ≠ 0)).length + 1) ∧ w.mem = s.mem) ∧
    (s.fl.inGuard = true → exec (.slateGuard uj) s = .next s) ∧
    (∀ a b t : Nat,
      (s.waiting = [] → exec (.rebindScrubComplete 0 a b t) s = .next { s.at t with reels := { s.reels with
        scrubCtx := s.reels.scrubCtx.filter (fun x => x ≠ a * 16 + b) } }) ∧
      exec (.rebindScrubComplete 1 a b t) s = .next { s.at t with reels := { s.reels with
        scrubStore := s.reels.scrubStore.filter (fun x => x ≠ a * 64 + b) } } ∧
      exec (.rebindScrubComplete 2 a b t) s = .next { s.at t with mover := { s.mover with
        tasks := s.mover.tasks.filter (fun x => !(x.part = a && x.ring = b && x.detached && x.written)) } } ∧
      exec (.rebindScrubComplete 3 a b t) s = .next ((s.at t).reclaimDone a))

/-- Scalar instructions and control flow (14 R316, R322, R323, R341). A legal word that issues writes its one destination and goes on to
the next word; G0 reads as 0 and discards what is written. A branch whose condition holds, JAL and JR go on at their target after two
more turns, and raise FETCH_OUT_OF_RANGE where it lies beyond the code; SYSR reads what its selector names, CLRF clears flags. -/
def Obligations.ReelScalars : Prop :=
  (∀ (k : Ctx) (v : Word), k.gr 0 = 0 ∧ k.setG 0 v = k) ∧
  ScalarRule .add 0x01 (fun a b => a + b) ∧ ScalarRule .sub 0x02 (fun a b => a - b) ∧ ScalarRule .mul 0x03 (fun a b => a * b) ∧
  ScalarRule .mulhu 0x04 (fun a b => BitVec.ofNat 64 (a.toNat * b.toNat / 2 ^ 64)) ∧
  ScalarRule .and 0x05 (fun a b => a &&& b) ∧ ScalarRule .or 0x06 (fun a b => a ||| b) ∧ ScalarRule .xor 0x07 (fun a b => a ^^^ b) ∧
  ScalarRule .shl 0x08 (fun a b => a <<< (b.toNat % 64)) ∧ ScalarRule .shr 0x09 (fun a b => a >>> (b.toNat % 64)) ∧
  ScalarRule .sar 0x0A (fun a b => a.sshiftRight (b.toNat % 64)) ∧
  ScalarRule .slt 0x0B (fun a b => if a.toInt < b.toInt then 1 else 0) ∧
  ScalarRule .sltu 0x0C (fun a b => if a.toNat < b.toNat then 1 else 0) ∧
  RegRule .li (0x0E, 0) (fun k w => k.setG (iD w) (BitVec.ofInt 64 (iOff w))) ∧
  RegRule .lih (0x0F, 0) (fun k w => k.setG (iD w) (BitVec.ofNat 64 ((k.gr (iA w)).toNat % 2 ^ 32 + iImm32 w * 2 ^ 32))) ∧
  RegRule .clrf (0x71, 0) (fun k w => { k with fp := k.fp - (k.fp &&& fld w 3 0) }) ∧ RegRule .nop (0x7E, 0) (fun k _ => k) ∧
  MaskRule .mopAnd 0 (fun a b => a &&& b) ∧ MaskRule .mopOr 1 (fun a b => a ||| b) ∧ MaskRule .mopXor 2 (fun a b => a ^^^ b) ∧
  MaskRule .mopAndNot 3 (fun a b => a &&& ~~~b) ∧
  RegRule .mset (0x2F, 0) (fun k w => k.setM (iD w) (2 ^ min (k.gr (iA w)).toNat 1024 - 1)) ∧
  SysRule .sysrFrame 0 (fun u _ _ _ _ => u.frame) ∧ SysRule .sysrBudget 1 (fun _ k _ _ _ => k.budget) ∧
  SysRule .sysrGuardCycles 2 (fun u _ _ _ t => (u.guardAt - t) * 2) ∧ SysRule .sysrFpFlags 3 (fun _ k _ _ _ => k.fp) ∧
  SysRule .sysrSlot 4 (fun _ _ slot _ _ => slot) ∧ SysRule .sysrContext 5 (fun _ _ _ c _ => c) ∧
  SysRule .sysrSrCounter 6 (fun _ k _ _ _ => k.ctr.toNat) ∧
  SysRule .sysrLaunchTag 7 (fun u k _ _ _ => match u.launch k.launch with | some l => leAt l.block 24 8 | none => 0) ∧
  SysRule .sysrSplitMode 8 (fun u _ slot _ _ => u.rd (K.splitMode slot)) ∧
  (∀ (s : State) (slot c stall t p w : Nat) (u : State) (k : Ctx), Issues s slot c stall t (0x10, 0) p w u k →
    let a := k.gr (iBrA w)
    let b := k.gr (iBrB w)
    let holds : Bool := [decide (a = b), decide (a ≠ b), decide (a.toInt < b.toInt), decide (b.toInt ≤ a.toInt), decide (a.toNat < b.toNat),
      decide (b.toNat ≤ a.toNat), true].getD (iFunc w) true
    let v := u.chargeCycles p slot c 2
    (holds = false → exec (.br slot c stall t) s = .next (u.goesOn slot c (k.pc + 8))) ∧
    (∀ n : Nat, holds = true → (n : Int) = k.pc + 8 * iOff w → n < 2 ^ 28 → exec (.br slot c stall t) s = .next (v.goesOn slot c n)) ∧
    (holds = true → ((k.pc + 8 * iOff w : Int) < 0 ∨ (2 : Int) ^ 28 ≤ k.pc + 8 * iOff w) →
      exec (.br slot c stall t) s = .next (u.reelFault slot c Code.fetchOutOfRange 0))) ∧
  (∀ (s : State) (slot c stall t p w : Nat) (u : State) (k : Ctx), Issues s slot c stall t (0x11, 0) p w u k →
    let pc : Int := k.pc + 8 * iOff w
    (∀ n : Nat, (n : Int) = pc → n < 2 ^ 28 → exec (.jal slot c stall t) s =
      .next (((u.setCtx slot c (k.setG (iD w) (BitVec.ofNat 64 (k.pc + 8)))).chargeCycles p slot c 2).goesOn slot c n)) ∧
    (pc < 0 ∨ 2 ^ 28 ≤ pc → exec (.jal slot c stall t) s = .next (u.reelFault slot c Code.fetchOutOfRange 0)) ∧ iA w = 0) ∧
  (∀ (s : State) (slot c stall t p w : Nat) (u : State) (k : Ctx), Issues s slot c stall t (0x12, 0) p w u k →
    let pc : Int := ((k.gr (iA w)).toInt + iOff w) / 8 * 8
    (∀ n : Nat, (n : Int) = pc → n < 2 ^ 28 → exec (.jr slot c stall t) s = .next ((u.chargeCycles p slot c 2).goesOn slot c n)) ∧
    (pc < 0 ∨ 2 ^ 28 ≤ pc → exec (.jr slot c stall t) s = .next (u.reelFault slot c Code.fetchOutOfRange 0)))

/-- Vector instructions (14 R317, R329, R330, R334 to R337). Element `i` of the destination is the instruction's result where the mask
lets it be computed and stays where it does not; the flags of the elements computed are raised. Comparisons write Md, a select takes
each element from Va or Vb, accumulator moves and QZERO write Vd or Qd, special functions, conversions, quantisation and dequantisation
go through one rounding, reductions and TOPK skip what the mask excludes. -/
def Obligations.ReelVectors : Prop :=
  (∀ (k : Ctx) (w bits n old : Nat) (g : Nat → Nat × Flags) (i : Nat), i < n →
    elemOf bits (lanes k w bits n old g).value i = if lane k w i then (g i).1 % 2 ^ bits else elemOf bits old i) ∧
  VecRule .vadd 0x30 (fun k w i => arith k w i [vA k w i, vB k w i] (fun l => (n0 l).add (n1 l)) (fun l => i0 l + i1 l)) ∧
  VecRule .vsub 0x31 (fun k w i => arith k w i [vA k w i, vB k w i] (fun l => (n0 l).add (n1 l).neg) (fun l => i0 l - i1 l)) ∧
  VecRule .vmul 0x32 (fun k w i => arith k w i [vA k w i, vB k w i] (fun l => (n0 l).mul (n1 l)) (fun l => i0 l * i1 l)) ∧
  VecRule .vfma 0x33 (fun k w i => arith k w i [vA k w i, vB k w i, vC k w i] (fun l => ((n0 l).mul (n1 l)).add (n2 l))
    (fun l => i0 l * i1 l + i2 l)) ∧
  VecRule .vmin 0x34 (fun k w i => (pick2 (iFmt w) false (vA k w i) (vB k w i), 0)) ∧
  VecRule .vmax 0x35 (fun k w i => (pick2 (iFmt w) true (vA k w i) (vB k w i), 0)) ∧
  VecRule .vand 0x36 (fun k w i => (vA k w i &&& vB k w i, 0)) ∧ VecRule .vor 0x37 (fun k w i => (vA k w i ||| vB k w i, 0)) ∧
  VecRule .vxor 0x38 (fun k w i => (vA k w i ^^^ vB k w i, 0)) ∧
  VecRule .vbcast 0x3B (fun k w _ => ((k.gr (iA w)).toNat % 2 ^ fmtBits (iFmt w), 0)) ∧
  VecRule .vmov 0x3C (fun k w i => (vA k w i, 0)) ∧
  (∀ (i : Nat → Nat → Nat → Nat → Instr) (sel : Nat), (i, sel) ∈ [(Instr.vcmpEq, 0), (Instr.vcmpNe, 1), (Instr.vcmpLt, 2), (Instr.vcmpLe, 3)] →
    RegRule i (0x39, sel) (fun k w => k.setM (iD w) (packElems 1 ((List.range (fmtCapacity (iFmt w))).map (fun i =>
      if lane k w i then b2n (compareCodes (iFmt w) sel (vA k w i) (vB k w i)) else b2n (bit (k.mr (iD w)) i)))))) ∧
  RegRule .vsel (0x3A, 0) (fun k w => k.setV (iD w) (packElems (fmtBits (iFmt w)) ((List.range (fmtCapacity (iFmt w))).map (fun i =>
    if bit (k.mr (iMsk w)) i then vA k w i else vB k w i)))) ∧
  RegRule .qrd (0x3D, 0) (fun k w => k.setV (iD w)
    (lanes k w 32 128 (k.vr (iD w)) (fun i => (elemOf 32 (k.qr (iA w)) (128 * (iImm16 w % 4) + i), 0))).value) ∧
  RegRule .qwr (0x3E, 0) (fun k w => k.setQ (iD w) (packElems 32 ((List.range 512).map (fun i =>
    if 128 * (iImm16 w % 4) ≤ i ∧ i < 128 * (iImm16 w % 4) + 128 ∧ lane k w (i - 128 * (iImm16 w % 4)) = true then
      elemOf 32 (k.vr (iA w)) (i - 128 * (iImm16 w % 4)) else elemOf 32 (k.qr (iD w)) i)))) ∧
  RegRule .qzero (0x3F, 0) (fun k w => k.setQ (iD w) 0) ∧
  (∀ (i : Nat → Nat → Nat → Nat → Instr) (sel : Nat), (i, sel) ∈ [(Instr.sfnExp2, 0), (Instr.sfnLog2, 1), (Instr.sfnReciprocal, 2),
      (Instr.sfnRsqrt, 3), (Instr.sfnTanh, 4)] →
    ∀ (s : State) (slot c stall t p w : Nat) (u : State) (k : Ctx), Issues s slot c stall t (0x48, sel) p w u k →
      ∃ r : Lanes, r = lanes k w 32 128 (k.vr (iD w)) (fun i => specialFn sel (elemOf 32 (k.vr (iA w)) i)) ∧
        exec (i slot c stall t) s = .next (((((u.setCtx slot c (k.setV (iD w) r.value)).tally slot c w r.flags false).engineCount slot 1
          r.flags.length).spendCtx slot c 8 128).goesOn slot c (k.pc + 8))) ∧
  (∀ (s : State) (slot c stall t p w : Nat) (u : State) (k : Ctx), Issues s slot c stall t (0x50, 0) p w u k →
    ∃ (n : Nat) (r : Lanes), n = spanRegs (fmtBits (fld w 15 11)) (iCount w) ∧
      r = lanes k w (fmtBits (fld w 15 11)) (iCount w) (k.span (iD w) n) (fun i => roundFmt (fld w 15 11) (iRm w) (laneBits k i) (iSat w)
        (fmtValue (iFmt w) (elemOf (fmtBits (iFmt w)) (convSource k w (fmtBits (iFmt w))) i))) ∧
      exec (.vcvt slot c stall t) s = .next (((u.setCtx slot c (k.setSpan (iD w) n r.value)).tally slot c w r.flags true).goesOn slot c
        (k.pc + 8))) ∧
  (∀ (s : State) (slot c stall t p w : Nat) (u : State) (k : Ctx), Issues s slot c stall t (0x51, 0) p w u k →
    let f := iFmt w
    let n := spanRegs (fmtBits f) (iCount w)
    ∃ (bl : List (Nat × List (Nat × Flags))) (r : Lanes),
      bl = (List.range (iCount w / fmtGroup f)).map (fun b => quantise f (iRm w) (fun i => laneBits k (b * fmtGroup f + i))
        ((List.range (fmtGroup f)).map (fun i => fmt32.decode (elemOf 32 (convSource k w 32) (b * fmtGroup f + i))))) ∧
      r = lanes k w (fmtBits f) (iCount w) (k.span (iD w) n) (fun i => ((bl.map (fun x => x.2)).flatten).getD i (0, 0)) ∧
      exec (.vqnt slot c stall t) s = .next (((u.setCtx slot c ((k.setSpan (iD w) n
        (lowBits (k.span (iD w) n) (iCount w * fmtBits f) r.value)).setV (iB w) (lowBits (k.vr (iB w))
          (8 * fmtScaleBytes f * (iCount w / fmtGroup f)) (packElems (8 * fmtScaleBytes f) (bl.map (fun x => x.1)))))).tally slot c w r.flags
            true).goesOn slot c (k.pc + 8))) ∧
  (∀ (s : State) (slot c stall t p w : Nat) (u : State) (k : Ctx), Issues s slot c stall t (0x52, 0) p w u k →
    let f := iFmt w
    let n := spanRegs 32 (iCount w)
    let old := if bit (iFunc w) 0 then k.qr (iD w) else k.span (iD w) n
    ∃ r : Lanes, r = lanes k w 32 (iCount w) old (fun i => dequant f (elemOf (fmtBits f) (k.span (iA w) (spanRegs (fmtBits f) (iCount w))) i)
        (elemOf (8 * fmtScaleBytes f) (k.vr (iB w)) (i / fmtGroup f)) (iSat w)) ∧
      exec (.vdq slot c stall t) s = .next (((u.setCtx slot c (if bit (iFunc w) 0 then k.setQ (iD w) (lowBits old (iCount w * 32) r.value)
        else k.setSpan (iD w) n (lowBits old (iCount w * 32) r.value))).tally slot c w r.flags true).goesOn slot c (k.pc + 8))) ∧
  (∀ (i : Nat → Nat → Nat → Nat → Instr) (sel : Nat) (s : State) (slot c stall t p w : Nat) (u : State) (k : Ctx) (r : Nat × Flags),
    (i, sel) ∈ [(Instr.vredSum, 0), (Instr.vredMin, 1), (Instr.vredMax, 2), (Instr.vredArgmax, 3)] →
    Issues s slot c stall t (0x58, sel) p w u k →
    (sel = 0 → r = redSum (iFmt w) (redSource k w (iFmt w))) →
    (sel = 1 ∨ sel = 2 → r = match choose (iFmt w) (sel = 2) (redSource k w (iFmt w)) with
      | none => (0x7FC00000, 0) | some e => (redValue (iFmt w) e.2, 0)) →
    (sel = 3 → r = match choose (iFmt w) true (redSource k w (iFmt w)) with | none => (0xFFFFFFFF, 0) | some e => (e.1, 0)) →
    exec (i slot c stall t) s = .next (((u.setCtx slot c (k.setG (iD w) (BitVec.ofNat 64 r.1))).tally slot c w [r.2] false).goesOn slot c
      (k.pc + 8))) ∧
  RegRule .topk (0x59, 0) (fun k w =>
    let n := iImm16 w % 64 + 1
    let fresh := (redSource k w 0).map (fun e => (((k.gr (iB w)).toNat + e.1) % 2 ^ 32, e.2))
    let old := if bit (iFunc w) 0 then (List.range n).map (fun i => (elemOf 32 (k.vr (iD w + 1)) i, elemOf 32 (k.vr (iD w)) i)) else []
    let best := (((old ++ fresh).filter (fun e => !(fmt32.decode e.2).isNan)).foldl (fun l e => (topInsert e l).take n) []).take n
    let full := best ++ List.replicate (n - best.length) (0xFFFFFFFF, 0x7FC00000)
    (k.setV (iD w) (lowBits (k.vr (iD w)) (32 * n) (packElems 32 (full.map (fun x => x.2))))).setV (iD w + 1)
      (lowBits (k.vr (iD w + 1)) (32 * n) (packElems 32 (full.map (fun x => x.1)))))

/-- MFS (12 R271, 14 R321, R331 to R333). With its operands within R331's limits and its elements there, MFS adds to each accumulator that
its rows name the scaled runs of 32 products, consumes the elements and goes on; one that the guard interrupts keeps the rows done in
RESUME; operands outside the limits raise ILLEGAL_INSTRUCTION. -/
def Obligations.MatrixFromStream : Prop :=
  ∀ (i : Nat → Nat → Nat → Nat → Nat → Instr) (trans : Bool) (s : State) (slot c stall rows t p w : Nat) (u : State) (k : Ctx),
    (i, trans) ∈ [(Instr.mfs, false), (Instr.mfsTransposed, true)] → Issues s slot c stall t (0x40, b2n trans) p w u k → k.resume = none →
    let m := k.st_ (iA w)
    let n := (k.gr (iC w)).toNat
    let b := mfsB w
    let kk := mfsK w
    let f := iFmt w
    let len := if trans then n else kk
    let regs := spanRegs (fmtBits f) (b * len)
    (mfsOk w trans m slot n 0 = false →
      exec (i slot c stall rows t) s = .next (u.reelFault slot c Code.illegalInstruction (w % 2 ^ 32))) ∧
    (∀ (m' : Strm) (v : State) (upto : Nat), mfsOk w trans m slot n 0 = true → u.ctxOwner slot c = some p →
      upto = (if n ≤ rows then n else if trans then rows / 32 * 32 else rows) → (upto ≠ 0 ∨ n ≤ upto) →
      u.fetchElems p slot m m.consumed (upto * kk) = (.ok m', v) →
      let idx := fun (r i : Nat) => m'.elemAt slot (m'.consumed + r * kk + i)
      let mat : Mfs := {
        wt := fun r i => fmtValue m'.fmt (m'.code (idx r i))
        wscale := fun r j => scaleValue m'.fmt (m'.scaleCode (idx r j))
        act := fun v i => fmtValue f (elemOf (fmtBits f) (k.span (iB w) regs) (v * len + i))
        xscale := fun v j => scaleValue f (elemOf (8 * fmtScaleBytes f) (k.vr (iB w + regs)) ((v * len + j) / fmtGroup f)) }
      ∃ x : State, exec (i slot c stall rows t) s = .next x ∧
        (∀ e, e < 512 → elemOf 32 ((x.ctx slot c).qr (iD w)) e =
          (let acc := if bit (iFunc w) 1 then 0 else elemOf 32 (k.qr (iD w)) e
           if trans then (if e < kk * b then (mfsTrans mat 0 upto (e / b) (e % b) acc).1 % 2 ^ 32 else acc)
           else (if e < upto * b then (mfsPlain mat kk (e / b) (e % b) acc).1 % 2 ^ 32 else acc))) ∧
        ((x.ctx slot c).st_ (iA w)).consumed = m'.consumed + upto * kk ∧
        (upto = n → (x.ctx slot c).pc = k.pc + 8 ∧ (x.ctx slot c).resume = none) ∧
        (upto < n → (x.ctx slot c).pc = k.pc ∧ (x.ctx slot c).resume = some (0x40, 1, upto)))

/-- Streams, the tile store and pool accesses of reels (12 R284 to R286, 14 R324 to R328). SOPEN opens its port at the start of the range, or
raises ILLEGAL_INSTRUCTION on operands outside R325's limits; SPOS reads position and end; SCLOSE drops what was prefetched; SRD and SRDX
deliver the next elements, as codes and as binary32, no more than remain, write their number and move the position, or raise the fault
that a line of theirs meets. A tile-store access within the partition's reach at its slot reads or writes exactly its bytes; one beyond
raises TILE_STORE_BOUNDS, and a load that meets a double-bit error STREAM_DATA_ERROR or POISON_CONSUMED, as does a pool load of a
bad line, with a DETAIL of no stated value. A pool load writes the eight bytes of its line to Gd; a pool store within a granule writes its bytes through the
agent's check; one to an unmapped or read-only address raises STORE_REFUSED. -/
def Obligations.ReelStreamsAndMemory : Prop :=
  (∀ (s : State) (slot c stall t p w : Nat) (u : State) (k : Ctx), Issues s slot c stall t (0x18, 0) p w u k →
    let base := (k.gr (iA w)).toNat
    let len := (k.gr (iB w)).toNat
    let scale := if fmtScaled (iFmt w) then (k.gr (iC w)).toNat else 0
    let m : Strm := { base := base, len := len, scale := scale, fmt := iFmt w, opened := true, global := bit (iFunc w) 0 }
    (sopenOk (iFmt w) base len scale = false →
      exec (.sopen slot c stall t) s = .next (u.reelFault slot c Code.illegalInstruction (w % 2 ^ 32))) ∧
    (sopenOk (iFmt w) base len scale = true → u.ctxOwner slot c = some p →
      ∃ x : State, exec (.sopen slot c stall t) s = .next x ∧
        { (x.ctx slot c).st_ (iD w) with buf := [], marked := [] } = { m with ended := decide (m.total slot = 0) } ∧ (x.ctx slot c).pc = k.pc + 8 ∧
        (∀ i, (x.ctx slot c).gr i = k.gr i) ∧ (∀ i, (x.ctx slot c).vr i = k.vr i))) ∧
  (∀ (s : State) (slot c stall t p w : Nat) (u : State) (k : Ctx), Issues s slot c stall t (0x19, 0) p w u k →
    exec (.sclose slot c stall t) s = .next (((u.engineCount slot 3 ((k.st_ (iD w)).buf.length * 128)).setCtx slot c (k.setSt (iD w)
      { k.st_ (iD w) with
        opened := false
        buf := []
        marked := [] })).goesOn slot c (k.pc + 8))) ∧
  RegRule .spos (0x1A, 0) (fun k w => k.setG (iD w)
    (BitVec.ofNat 64 ((k.st_ (iA w)).consumed % 2 ^ 63 + (if (k.st_ (iA w)).ended then 2 ^ 63 else 0)))) ∧
  (∀ (i : Nat → Nat → Nat → Nat → Instr) (op : Nat) (s : State) (slot c stall t p w : Nat) (u : State) (k : Ctx),
    (i, op) ∈ [(Instr.srd, 0x1B), (Instr.srdx, 0x1C)] → Issues s slot c stall t (op, 0) p w u k → u.ctxOwner slot c = some p →
    let m := k.st_ (iA w)
    let n := min (iImm16 w) (m.total slot - m.consumed)
    (op = 0x1B → fmtScaled m.fmt = true ∨ fmtCapacity m.fmt < iImm16 w →
      exec (i slot c stall t) s = .next (u.reelFault slot c Code.illegalInstruction (w % 2 ^ 32))) ∧
    ((op = 0x1B → fmtScaled m.fmt = false ∧ iImm16 w ≤ fmtCapacity m.fmt) →
      (∀ (code d : Nat) (v : State), u.fetchElems p slot m m.consumed n = (.fault code d, v) →
        exec (i slot c stall t) s = .next (v.reelFault slot c code d)) ∧
      (∀ (m' : Strm) (v : State), u.fetchElems p slot m m.consumed n = (.ok m', v) →
        ∃ x : State, exec (i slot c stall t) s = .next x ∧ (x.ctx slot c).pc = k.pc + 8 ∧
          (iC w ≠ 0 → (x.ctx slot c).gr (iC w) = BitVec.ofNat 64 n) ∧ ((x.ctx slot c).st_ (iA w)).consumed = m'.consumed + n ∧
          (op = 0x1B → ∀ j, j < n → elemOf (fmtBits m'.fmt) ((x.ctx slot c).vr (iD w)) j = m'.code (m'.elemAt slot (m'.consumed + j))) ∧
          (op = 0x1C → iImm16 w ≤ 128 → ∀ j, j < n → elemOf 32 ((x.ctx slot c).vr (iD w)) j =
            (dequant m'.fmt (m'.code (m'.elemAt slot (m'.consumed + j))) (m'.scaleCode (m'.elemAt slot (m'.consumed + j))) (iSat w)).1
              % 2 ^ 32)))) ∧
  (∀ (i : Nat → Nat → Nat → Nat → Instr) (op n dbl : Nat) (ld : Bool) (s : State) (slot c stall t p w : Nat) (u : State) (k : Ctx),
    (i, op, n, ld) ∈ [(fun a b d e => Instr.tldg a b d dbl e, 0x20, 8, true), (Instr.tstg, 0x21, 8, false),
      (fun a b d e => Instr.tldv a b d dbl e, 0x22, 512, true), (Instr.tstv, 0x23, 512, false),
      (fun a b d e => Instr.tldq a b d dbl e, 0x24, 2048, true), (Instr.tstq, 0x25, 2048, false),
      (fun a b d e => Instr.tldm a b d dbl e, 0x26, 128, true), (Instr.tstm, 0x27, 128, false)] →
    Issues s slot c stall t (op, 0) p w u k → u.ctxOwner slot c = some p → u.reels.scrubStore.contains (slot * 64 + p) = false →
    let a := reelAddr k w
    (u.storeReach p slot < a + n →
      exec (i slot c stall t) s = .next (u.reelFault slot c Code.tileStoreBounds (a % 2 ^ 32))) ∧
    (a + n ≤ u.storeReach p slot → ld = true → dbl ≠ 0 → ∃ d : Nat, d < 2 ^ 32 ∧
      exec (i slot c stall t) s = .next (({ u with free := u.free + 1 } : State).reelFault slot c (u.badRead p) d)) ∧
    (a + n ≤ u.storeReach p slot → ld = true → dbl = 0 →
      let x := ofLE (u.storeBytes p slot a n)
      exec (i slot c stall t) s = .next (((u.setCtx slot c (if op = 0x20 then k.setG (iD w) (BitVec.ofNat 64 x) else
        if op = 0x22 then k.setV (iD w) x else if op = 0x24 then k.setQ (iD w) x else k.setM (iD w) x)).spend slot p 9 n).goesOn slot c
          (k.pc + 8))) ∧
    (a + n ≤ u.storeReach p slot → ld = false →
      let d := toLE n (if op = 0x21 then (k.gr (iD w)).toNat else if op = 0x23 then k.vr (iD w) else if op = 0x25 then k.qr (iD w) else
        k.mr (iD w))
      exec (i slot c stall t) s = .next (((u.putStore p slot a d).spend slot p 9 n).goesOn slot c (k.pc + 8)))) ∧
  (∀ (s : State) (slot c stall t p w : Nat) (u : State) (k : Ctx), Issues s slot c stall t (0x2A, 0) p w u k → u.ctxOwner slot c = some p →
    let a := reelAddr k w
    (∀ (d : List Byte) (v : State), u.streamLine p (a / 128 * 128) = (.line (some d), v) →
      exec (.pldg slot c stall t) s = .next ((v.setCtx slot c ((v.ctx slot c).setG (iD w) (BitVec.ofNat 64 (leAt d (a % 128) 8)))).goesOn slot c
        (k.pc + 8))) ∧
    (∀ v : State, u.streamLine p (a / 128 * 128) = (.line none, v) → ∃ d : Nat, d < 2 ^ 32 ∧
      exec (.pldg slot c stall t) s = .next (({ v with free := v.free + 1 } : State).reelFault slot c (u.badRead p) d)) ∧
    (∀ v : State, u.streamLine p (a / 128 * 128) = (.refused, v) →
      exec (.pldg slot c stall t) s = .next (v.reelFault slot c Code.streamNotMapped (a / 128 * 128 % 2 ^ 32)))) ∧
  (∀ (i : Nat → Nat → Nat → Nat → Instr) (op : Nat) (s : State) (slot c stall t p w : Nat) (u : State) (k : Ctx),
    (i, op) ∈ [(Instr.pstg, 0x2B), (Instr.pstv, 0x2C)] → Issues s slot c stall t (op, 0) p w u k → u.ctxOwner slot c = some p →
    let va := if op = 0x2B then reelAddr k w else (k.gr (iA w)).toNat / 8 * 8
    let d := if op = 0x2B then toLE 8 (k.gr (iD w)).toNat else toLE (iImm16 w) (k.vr (iD w))
    d.length ≠ 0 → va % 4096 + d.length ≤ 4096 →
    (u.mapped p va = none → exec (i slot c stall t) s = .next (u.reelFault slot c Code.storeRefused Code.notMapped)) ∧
    (∀ e : Nat, u.mapped p va = some e →
      (u.readOnlyExt p (vaIndex va) e = true →
        exec (i slot c stall t) s = .next (u.reelFault slot c Code.storeRefused Code.readOnly)) ∧
      (∀ (e' : Nat) (v x : State) (ok : List Bool), u.readOnlyExt p (vaIndex va) e = false →
        u.agentCheck (u.handleOf p) va d.length true = (.ok e', v) → v.agentWrite p e' va d (u.handleOf p) = (ok, x) → (∀ b ∈ ok, b = true) →
        exec (i slot c stall t) s = .next ((x.ownStore slot c va d.length).goesOn slot c (k.pc + 8)))))

/-- Waits and ends of reels (13 R306, R307, R310, R311, 14 R319, R327, R339, R340, R344). CUT yields where budget or time falls short and
marks a cut point; BAR arrives and waits, the last arrival releases every copy, and a release takes its context past the BAR; a context
whose budget has run out outside a cut stops; a refused posted store and an illegal word fault; END waits for the earlier stores, then ends
the copy. -/
def Obligations.ReelWaits : Prop :=
  (∀ (s : State) (slot c stall t p w : Nat) (u : State) (k : Ctx), Issues s slot c stall t (0x6C, 0) p w u k →
    exec (.cut slot c stall t) s = .next (u.setCtx slot c { k with
      st := if k.budget < iImm32 w ∨ (u.guardAt - t) * 2 < iImm32 w then 6 else k.st
      pc := k.pc + 8
      atCut := true
      resume := none })) ∧
  (∀ (s : State) (slot c stall t p w : Nat) (u : State) (k : Ctx) (l : Launch), Issues s slot c stall t (0x68, 0) p w u k →
    k.refusals = [] → u.launch k.launch = some l →
    (l.broken = true → exec (.bar slot c stall t) s = .next (u.reelFault slot c Code.barrierBroken (fld w 1 0))) ∧
    (l.broken = false → exec (.bar slot c stall t) s = .next ((u.setLaunch { l with
      coming := l.coming ++ [(fld w 1 0, k.rank, Tab.getD k.gen (fld w 1 0) 0)] }).setCtx slot c { k with
        st := 4
        wait := .barrier (fld w 1 0) }))) ∧
  (∀ (s : State) (slot c b rank gen : Nat) (l : Launch), s.launch (s.ctx slot c).launch = some l →
    l.coming.find? (fun x => x.2.1 = (s.ctx slot c).rank) = some (b, rank, gen) → gen = Tab.getD l.gens b 0 →
    let coming := l.coming.filter (fun x => x.2.1 ≠ rank)
    let arrived := (b, rank) :: l.arrived.filter (fun x => x ≠ (b, rank))
    ((arrived.filter (fun x => x.1 = b)).length < l.slots.length → exec (.barrierArrival slot c) s = .next (s.setLaunch { l with
      coming := coming
      arrived := arrived })) ∧
    (l.slots.length ≤ (arrived.filter (fun x => x.1 = b)).length → exec (.barrierArrival slot c) s = .next (s.setLaunch { l with
      coming := coming
      arrived := arrived.filter (fun x => x.1 ≠ b)
      gens := Tab.set l.gens b ((gen + 1) % 65536)
      releases := l.releases ++ l.slots.map (fun i => (b, i)) }))) ∧
  (∀ (s : State) (slot c b : Nat) (l : Launch), s.launch (s.ctx slot c).launch = some l → (s.ctx slot c).wait = .barrier b →
    (s.ctx slot c).st = 4 → (b, slot) ∈ l.releases → (s.ctx slot c).saved = false →
    ∃ x : State, exec (.barrierRelease slot c) s = .next x ∧ (x.ctx slot c).st = 3 ∧ (x.ctx slot c).pc = (s.ctx slot c).pc + 8 ∧
      Tab.getD (x.ctx slot c).gen b 0 = (Tab.getD (s.ctx slot c).gen b 0 + 1) % 65536 ∧ (∀ e ∈ (x.ctx slot c).strm, e.2.buf = []) ∧
      (∀ i, (x.ctx slot c).gr i = (s.ctx slot c).gr i) ∧ x.mem = s.mem) ∧
  (∀ (s : State) (slot c t : Nat), (s.ctx slot c).st = 3 → (s.ctx slot c).budget = 0 → (s.ctx slot c).atCut = false →
    exec (.cycleBudgetExhausted slot c t) s = .next ((s.at t).setCtx slot c { s.ctx slot c with st := 5 })) ∧
  (∀ (s : State) (slot c st : Nat) (rest : List Nat), (s.ctx slot c).refusals = st :: rest → (s.ctx slot c).refused = none →
    exec (.postedStoreRefusal slot c) s = .next (s.setCtx slot c { s.ctx slot c with
      refusals := rest
      refused := some st })) ∧
  (∀ (s : State) (slot c stall t p w st : Nat), (s.at t).mayIssue slot c t = true → (s.at t).ctxOwner slot c = some p →
    ((s.ctx slot c).refused = some st →
      exec (.illegalInstruction slot c stall t) s = .next ((s.at t).reelFault slot c Code.storeRefused st)) ∧
    ((s.ctx slot c).refused = none → ((s.at t).fetchWord p slot c).1 = .word w → legalWord w = false →
      exec (.illegalInstruction slot c stall t) s = .next ((((s.at t).fetchWord p slot c).2.chargeCycles p slot c (1 + stall)).reelFault slot c
        Code.illegalInstruction (w % 2 ^ 32)))) ∧
  (∀ (s : State) (slot c stall t p w : Nat) (u : State) (k : Ctx), Issues s slot c stall t (0x77, 0) p w u k →
    let v := (u.dropPrefetch slot c).ackTaken slot c Code.ok
    (k.refusals ≠ [] → exec (.endReel slot c stall t) s = .next u) ∧
    (k.refusals = [] →
      exec (.endReel slot c stall t) s = .next (((v.setCtx slot c (v.ctx slot c).wiped).breakBarriers k.launch).endIfDone k.launch)))

/-- Messages of reels (14 R338, R342, R343, 20 R444). DBELL sends its doorbell, or answers NOT_BOUND; MBXRECV takes the oldest inbound message,
waits for one, or answers that there is none, and a message that arrives lets a waiting context run on (`wakeMbx`); MBXACK acknowledges the message taken last; MBXSEND posts to the outbound mailbox or
answers BUSY; CONTRIB gives its elements, of V registers or converted from an accumulator, to the composite and reports the status and the window. -/
def Obligations.ReelMessages : Prop :=
  (∀ (s : State) (slot c stall t p w : Nat) (u : State) (k : Ctx), Issues s slot c stall t (0x72, 0) p w u k → u.ctxOwner slot c = some p →
    let a := (k.gr (iA w)).toNat
    let port := fld a 21 16
    (fld a 31 22 ≠ 0 ∨ fld a 63 48 ≠ 0 →
      exec (.dbell slot c stall t) s = .next (u.reelFault slot c Code.illegalInstruction (w % 2 ^ 32))) ∧
    (fld a 31 22 = 0 → fld a 63 48 = 0 → port < 36 → (u.findBinding port p (fld a 15 0)).isSome = true →
      let v := u.originate port (fld a 15 0) 0x60 (u.handleOf p) (toLE 2 (fld a 47 32) ++ toLE 6 0 ++ toLE 8 (k.gr (iB w)).toNat)
        (.doorbell p slot c (fld a 47 32))
      exec (.dbell slot c stall t) s = .next ((v.setCtx slot c (k.setG (iD w) 0)).goesOn slot c (k.pc + 8))) ∧
    (fld a 31 22 = 0 → fld a 63 48 = 0 → (36 ≤ port ∨ (u.findBinding port p (fld a 15 0)).isSome = false) →
      exec (.dbell slot c stall t) s = .next ((u.setCtx slot c (k.setG (iD w) (BitVec.ofNat 64 Code.notBound))).goesOn slot c (k.pc + 8)))) ∧
  (∀ (s : State) (slot c stall t p w : Nat) (u : State) (k : Ctx), Issues s slot c stall t (0x73, 0) p w u k →
    (k.inbox = [] → iFunc w = 1 →
      exec (.mbxrecv slot c stall t) s = .next ((u.setCtx slot c ((k.setG (iD w) 0).setG (iC w) 0)).goesOn slot c (k.pc + 8))) ∧
    (k.inbox = [] → iFunc w = 0 → exec (.mbxrecv slot c stall t) s = .next (u.setCtx slot c { k with
      st := 4
      wait := .mailbox })) ∧
    (∀ m rest, k.inbox = m :: rest →
      let v := u.ackTaken slot c Code.ok
      exec (.mbxrecv slot c stall t) s = .next ((v.setCtx slot c ((({ v.ctx slot c with
        inbox := rest
        taken := some (m.1, m.2.1) } : Ctx).setG (iD w) m.2.2).setG (iC w) (BitVec.ofNat 64 (m.1 + 65536)))).goesOn slot c (k.pc + 8)))) ∧
  (∀ (s : State) (slot c stall t p w : Nat) (u : State) (k : Ctx), Issues s slot c stall t (0x74, 0) p w u k →
    exec (.mbxack slot c stall t) s = .next ((u.ackTaken slot c ((k.gr (iA w)).toNat % 65536)).goesOn slot c (k.pc + 8)) ∧
    (∀ b n ret, k.taken = some (b, some n) → (k.gr (iA w)).toNat % 65536 = ret → ∃ x : State, exec (.mbxack slot c stall t) s = .next x ∧
      Tab.getD (x.window b).posts (slot * 16 + c) {} = { Tab.getD (u.window b).posts (slot * 16 + c) {} with
        ack := n
        ret := ret } ∧ (x.ctx slot c).taken = none)) ∧
  (∀ (s : State) (slot c : Nat), (s.ctx slot c).st = 4 → (s.ctx slot c).wait = .mailbox → (s.ctx slot c).saved = false →
    s.wakeMbx slot c = s.setCtx slot c { s.ctx slot c with
      st := 3
      wait := .none }) ∧
  RegRule .mbxsend (0x75, 0) (fun k w => if 8 ≤ k.outbox.length then k.setG (iD w) (BitVec.ofNat 64 Code.busy)
    else ({ k with
      outbox := k.outbox ++ [k.gr (iA w)]
      sent := k.sent + 1 } : Ctx).setG (iD w) 0) ∧
  (∀ (s : State) (slot c stall t p w : Nat) (u : State) (k : Ctx), Issues s slot c stall t (0x60, 0) p w u k → u.ctxOwner slot c = some p →
    let a := (k.gr (iA w)).toNat
    let b := (k.gr (iB w)).toNat
    let f := iFmt w
    let n := fld b 63 48
    let bad : Prop := 2 ^ 32 ≤ a ∨ n = 0 ∨ fld b 31 0 / 4096 ≠ (fld b 31 0 + n - 1) / 4096 ∨ 4096 < contribDataLen f n ∨
      (iFunc w = 1 ∧ 512 < n) ∨ (iFunc w ≠ 1 ∧ 32 < iC w + spanRegs (fmtBits f) n)
    (bad → ∀ cut, exec (.reelContrib slot c stall cut t) s = .next (u.reelFault slot c Code.illegalInstruction (w % 2 ^ 32))) ∧
    (¬ bad → iFunc w = 0 → k.resume = none → u.reached (u.contribHome a (fld b 31 0)) p = false →
      let codes := (List.range n).map (elemOf (fmtBits f) (k.span (iC w) (spanRegs (fmtBits f) n)))
      let r := u.contribute p a (fld b 47 32) (fld b 31 0) f codes
      (r.1.st = Code.ok ∨ r.1.st = Code.windowClosed →
        exec (.reelContrib slot c stall false t) s = .next ((r.2.setCtx slot c ((r.2.ctx slot c).setG (iD w)
          (BitVec.ofNat 64 (r.1.st + r.1.credits * 65536 + r.1.base * 2 ^ 32)))).goesOn slot c (k.pc + 8))) ∧
      exec (.reelContrib slot c stall true t) s = .next (r.2.setCtx slot c { r.2.ctx slot c with resume := some (0x60, 2, 0) })) ∧
    (¬ bad → iFunc w = 1 → k.resume = none → u.reached (u.contribHome a (fld b 31 0)) p = false →
      let conv := (List.range n).map (fun i => roundFmt f (iRm w) (laneBits k i) (iSat w) (fmt32.decode (elemOf 32 (k.qr (iC w)) i)))
      let r := u.contribute p a (fld b 47 32) (fld b 31 0) f (conv.map (fun e => e.1))
      r.1.st = Code.ok ∨ r.1.st = Code.windowClosed →
        exec (.reelContrib slot c stall false t) s = .next (((r.2.setCtx slot c ((r.2.ctx slot c).setG (iD w)
          (BitVec.ofNat 64 (r.1.st + r.1.credits * 65536 + r.1.base * 2 ^ 32)))).tally slot c w (conv.map (fun e => e.2)) true).goesOn slot c
            (k.pc + 8))))

/-- Cold resets (22 R465 to R471): each source sets its bit of RESET_CAUSE and counts it, PWRGD neither, which
is the model's reading (log entry 84); every other register
outside RESET_CAUSE, RESET_COUNTS and LAST_RESET_FRAME takes its default, pool memory is empty, and the part is held. A pulse of
RESET_N below 500 ns is ignored; at a loss of VAUX and at POWER_ON those registers are cleared too. -/
def Obligations.ColdResets : Prop :=
  ∀ (s : State), s.boot.powered = true →
    (∀ (c : Instr) (b : Nat), ((c = .brownOut ∧ b = 1) ∨ (∃ ns seen, c = .resetNAssert ns seen ∧ 2000 ≤ ns ∧ b = 2) ∨
        (c = .refclkFailure ∧ b = 3)) →
      ∃ w : State, exec c s = .next w ∧ w.rd K.resetCause = s.rd K.resetCause ||| 2 ^ b ∧
        (s.rd (K.resetCounts b) + 1 < 2 ^ 32 → w.rd (K.resetCounts b) = s.rd (K.resetCounts b) + 1) ∧
        (∀ i, i < 11 → i ≠ b → w.rd (K.resetCounts i) = s.rd (K.resetCounts i)) ∧ w.rd K.lastResetFrame = s.rd K.lastResetFrame ∧
        (∀ k, k / 2 ^ 24 ≠ 0x180001 → k / 2 ^ 24 ≠ 0x180002 → k / 2 ^ 24 ≠ 0x180003 → w.rd k = regDefault s.fuses k) ∧
        w = { ({} : State) with pending := s.pending, fuses := s.fuses, regs := w.regs, keysDrawn := s.keysDrawn, free := s.free }) ∧
    (∃ w : State, exec .pwrgdLow s = .next w ∧
        (∀ k, k / 2 ^ 24 = 0x180001 ∨ k / 2 ^ 24 = 0x180002 ∨ k / 2 ^ 24 = 0x180003 → w.rd k = s.rd k) ∧
        (∀ k, k / 2 ^ 24 ≠ 0x180001 → k / 2 ^ 24 ≠ 0x180002 → k / 2 ^ 24 ≠ 0x180003 → w.rd k = regDefault s.fuses k) ∧
        w = { ({} : State) with pending := s.pending, fuses := s.fuses, regs := w.regs, keysDrawn := s.keysDrawn, free := s.free }) ∧
    (∀ ns, ns < 500 → ∀ seen, exec (.resetNAssert ns seen) s = .next s) ∧
    exec .vauxLost s = .next { ({} : State) with
      pending := s.pending, fuses := s.fuses, keysDrawn := s.keysDrawn, free := s.free, boot := { ({} : Boot) with powered := false } } ∧
    exec .powerOn { s with boot := { s.boot with powered := false } } = .next { ({} : State) with
      pending := s.pending, fuses := s.fuses, keysDrawn := s.keysDrawn, free := s.free }

/-- The cold boot (22 R473, R475, 17 R389): the release of RESET_N starts the fuse sequencer; the fuse read instantiates every DRBG,
sets the places of the duplicates and the certificate chains withheld, and, with an eligible lead tile, reaches STEP 1; the PLL lock starts full link-up at every port and reaches STEP 3, its timeout
stops the boot with FAULT_CODE 2. -/
def Obligations.ColdBootSteps : Prop :=
  ∀ (s : State), s.boot.powered = true →
    (s.boot.held = true → exec .coldBoot s = .next { s with boot := { s.boot with held := false } }) ∧
    (s.boot.held = false → s.boot.fused = false →
      ∃ w : State, exec .fuseReadComplete s = .next w ∧ w.boot = { s.boot with fused := true } ∧
        w.cont = { s.cont with dups := duplicates (defaultInService s.fuses) } ∧ w.rd K.attestStatus = 3 - s.fuses.certsOk % 4 ∧
        (∀ t, t < 36 → w.rd (K.drbgStatus t) = 1) ∧
        (s.eligibleLead = true → w.rd K.bootStatus = setFld (s.rd K.bootStatus) 31 28 1) ∧
        (s.eligibleLead = false → fld (w.rd K.bootStatus) 27 24 = 9) ∧
        s.RegsBut w (K.bootStatus :: K.attestStatus :: (List.range 36).map K.drbgStatus) ∧
        w = { s with boot := w.boot, regs := w.regs, cont := w.cont }) ∧
    (s.boot.fused = true → s.boot.locked = false → fld (s.rd K.bootStatus) 27 24 = 0 →
      (∃ w : State, exec .pllLock s = .next w ∧ w.boot.locked = true ∧ fld (w.rd K.bootStatus) 31 28 = 3 ∧
        (∀ p, p < 36 → w.rd (K.portState p) = 1 ∧ (w.link p).ts = 1) ∧ w.mem = s.mem) ∧
      exec .pllLockTimeout s = .next (s.wr K.bootStatus (setFld (setFld (s.rd K.bootStatus) 31 28 1) 27 24 10)))

/-- The fill of a cold boot and the release of the lead core (09 R217, 22 R475): a fill starts at 4 GT/s and ends with every byte
of the tile's stack zero and no granule written; the last one releases the core into the boot ROM; 400 ms after the release of
RESET_N the core is released with FAULT_CODE 3 although a fill is unfinished. -/
def Obligations.FillAndRelease : Prop :=
  ∀ (s : State) (tile ms : Nat), tile < 36 → s.boot.locked = true → s.boot.released = false →
    (s.rd (K.fillStatus tile) = 0 → tile ∈ defaultInService s.fuses →
      exec (.fillStart tile) s = .next
        ((((s.freshStack tile).wr (K.stackState tile) 1).wr (K.fillStatus tile) 1).wr K.bootStatus (setFld (s.rd K.bootStatus) 31 28 4))) ∧
    (s.rd (K.fillStatus tile) = 1 → (∃ x, x ∈ defaultInService s.fuses ∧ x ≠ tile ∧ s.rd (K.fillStatus x) ≠ 2) →
      ∃ w : State, exec (.fillComplete tile ms) s = .next w ∧ w.rd (K.fillStatus tile) = 2 ∧ w.rd (K.stackState tile) = 2 ∧
        (∀ a, a / 2 ^ 37 = tile → w.byteAt a = 0#8) ∧ (∀ a, a / 2 ^ 37 ≠ tile → w.byteAt a = s.byteAt a) ∧
        (∀ g, g / 2 ^ 25 = tile → g ∉ w.written) ∧ w.boot = s.boot ∧
        s.RegsBut w [K.fillStatus tile, K.stackState tile, K.bootStatus]) ∧
    (s.rd (K.fillStatus tile) = 1 → s.eligibleLead = true → (∀ x, x ∈ defaultInService s.fuses → x ≠ tile → s.rd (K.fillStatus x) = 2) →
      ∃ w : State, exec (.fillComplete tile ms) s = .next w ∧ w.boot = { s.boot with released := true, service := true } ∧
        fld (w.rd K.bootStatus) 31 28 = 5 ∧ fld (w.rd K.bootStatus) 15 0 = min ms 65535 ∧
        (∀ a, a / 2 ^ 37 = tile → w.byteAt a = 0#8)) ∧
    (s.eligibleLead = true → s.cont.reloc = none → tile ∈ defaultInService s.fuses → s.rd (K.fillStatus tile) ≠ 2 →
      ∃ w : State, exec .fillTimeout s = .next w ∧ w.boot = { s.boot with released := true, service := true } ∧
        fld (w.rd K.bootStatus) 31 24 = 5 * 16 + 11 ∧ (w.stack tile).lost = true ∧ w.mem = s.mem)

/-- Warm resets (22 R465 to R469): while the lead core runs each source starts one, which leaves the boot ROM state with
BOOT_STATUS STEP 5, no check-bit test operation and no Fligifer message to send; one that falls in the last 10 us before the release
of a reset in progress only sets and counts its bit; a source while the core is not released does nothing. The watchdog's and the
heartbeat's takeovers aside. -/
def Obligations.WarmResets : Prop :=
  ∀ (s : State) (t b : Nat) (c : Instr),
    ((∃ ns seen, c = .wresetN ns seen t ∧ 2000 ≤ ns ∧ b = 4) ∨ (c = .tapWarmReset t ∧ bit (s.eff K.debugPolicy) 1 = true ∧ b = 7) ∨
      (c = .coreLockup t ∧ b = 8)) →
    (s.boot.released = true → s.merges t = false →
      ∃ w : State, exec c s = .next w ∧ w.firmState = 0 ∧ fld (w.rd K.bootStatus) 31 28 = 5 ∧ w.test = none ∧ w.fligOut = []) ∧
    (s.boot.released = true → s.merges t = true → exec c s = .next
      ((s.wr K.resetCause (s.rd K.resetCause ||| 2 ^ b)).count (K.resetCounts b) 1)) ∧
    (s.boot.released = false → exec c s = .next s)

/-- Takeovers and the watchdog (22 R465, R476): while the core runs a missing heartbeat bars the lead tile and elects the next
eligible one by R21, with empty firmware buffers; a watchdog reset that is not the third within 4,000 frames is no takeover and
is remembered. Both here within the window of R467, where nothing else is done. -/
def Obligations.TakeoversAndWatchdog : Prop :=
  ∀ (s : State) (t : Nat), s.boot.released = true → s.merges t = true →
    (∀ l, l = s.rd K.leadIneligible ||| 2 ^ s.rd K.leadTile → (goodTiles s.fuses).any (fun x => bit s.fuses.verified x && !bit l x) = true →
      ∃ w : State, exec (.leadHeartbeatMissing t) s = .next w ∧ w.rd K.leadIneligible = l ∧ w.rd K.leadTile = electLead s.fuses l ∧
        w.rd K.resetCause = s.rd K.resetCause ||| 2 ^ 8 ||| 2 ^ 9 ∧ w.boot.images = [] ∧ w.boot.active = 0 ∧ w.fl.treeSilent = false ∧
        w = { s with regs := w.regs, boot := w.boot, fl := w.fl }) ∧
    (((s.frame :: s.boot.bites.filter (fun f => s.frame < f + 4000)).length < 3) →
      exec (.watchdogExpiry t) s = .next
        (({ s with boot := { s.boot with bites := s.frame :: s.boot.bites.filter (fun f => s.frame < f + 4000) } } : State).wr K.resetCause
          (s.rd K.resetCause ||| 2 ^ 5) |>.count (K.resetCounts 5) 1))

/-- Tile resets and the start of an image (22 R467, R469, R470, 19 R431): outside a warm reset a tile's reset is logged and counted
under bit 10 and its port's pending requests are gone; during one it is logged alone; a double error of a mesh header is counted
and resets the tile that finds it; the resending that RESET_NOTICE asks for finds nothing owed; the boot ROM's check of the buffers starts the image of the
active one, or of the other if that alone passes, and the firmware runs. -/
def Obligations.TileResetsAndImageStart : Prop :=
  ∀ (s : State) (tile cause : Nat), tile < 36 → 1 ≤ cause → cause ≤ 4 →
    (s.boot.held = false → s.boot.checking = true →
      exec (.tileReset tile cause) s = .next (s.tileLog tile cause) ∧
      exec (.meshHeaderDoubleError tile) s = .next ((s.count (K.meshCounts tile 7) 1).tileLog tile 1)) ∧
    (s.boot.held = false → s.boot.checking = false → s.slotOfTile tile = none → s.rd (K.portState tile) = 1 →
      ∃ w : State, exec (.tileReset tile cause) s = .next w ∧ w.rd K.resetCause = s.rd K.resetCause ||| 2 ^ 10 ∧
        w.rd K.lastResetFrame = s.frame ∧ (w.port tile).pending = [] ∧ w.dailies.reset = true ∧ w.mem = s.mem ∧
        w.rd (K.tileResetLog 15) = (s.tileLog tile cause).rd (K.tileResetLog 15)) ∧
    exec (.resetNotice tile) s = .next s ∧
    (∀ okA okB b, s.boot.checking = true → s.boot.active < 2 → (b = s.boot.active ∨ b = 1 - s.boot.active) →
      (s.imageReason (s.imageIn s.boot.active) (if s.boot.active = 0 then okA else okB) (if s.boot.active = 0 then okA else okB) = none ↔ b = s.boot.active) →
      s.imageReason (s.imageIn b) (if b = 0 then okA else okB) (if b = 0 then okA else okB) = none →
      ∃ w : State, exec (.bootRomImageStart okA okB) s = .next w ∧ w = s.startImage b (decide (b ≠ s.boot.active)) ∧ w.firmState = 1)

/-- The SMBus target and the TAP (23 R489, 18 R411): a read answers the command code's value and changes nothing else; a checked
write of four bytes to RESET_CAUSE clears the bits written as 1, to COOLANT_REPORT replaces the report; another address is
another target's; IDCODE shifts out the
fused code, halt and resume act on the lead core while CORE_DEBUG is set. -/
def Obligations.SmbusAndTap : Prop :=
  ∀ (s : State) (data : List Byte) (t : Nat), s.boot.powered = true →
    (∀ code b pec, s.smbRead code = some b →
      exec (.smbusTransaction s.smbAddress code false data pec t) s = .next { s.at t with boot := { s.boot with smb := some b, smbCode := code } }) ∧
    (data.length = 4 →
      (∃ w : State, exec (.smbusTransaction s.smbAddress 1 true data true t) s = .next w ∧
        w.rd K.resetCause = s.rd K.resetCause - (s.rd K.resetCause &&& ofLE data) ∧ s.RegsBut w [K.resetCause] ∧
        w = { s.at t with regs := w.regs, boot := { s.boot with smb := some [], smbCode := 1 } }) ∧
      (∃ w : State, exec (.smbusTransaction s.smbAddress 6 true data true t) s = .next w ∧ w.rd K.coolantReport = ofLE data ∧
        w.gaff = { s.gaff with coolant := some (max s.frame 1), stale := false } ∧ s.RegsBut w [K.coolantReport] ∧
        w = { s.at t with regs := w.regs, gaff := w.gaff, boot := { s.boot with smb := some [], smbCode := 6 } }) ∧
      exec (.smbusTransaction s.smbAddress 1 true data false t) s = .next { s.at t with boot := { s.boot with
        smb := some []
        smbCode := 1 } }) ∧
    (∀ addr code wr pec, addr ≠ s.smbAddress → exec (.smbusTransaction addr code wr data pec t) s = .next s) ∧
    (s.boot.held = false →
      exec (.tapInstruction 1) s = .next { s with boot := { s.boot with tapOut := s.fuses.idcode } } ∧
      (bit (s.eff K.debugPolicy) 1 = true →
        exec (.tapInstruction 3) s = .next { s with boot := { s.boot with coreHalted := true } } ∧
        exec (.tapInstruction 5) s = .next { s with boot := { s.boot with coreHalted := false } }) ∧
      (bit (s.eff K.debugPolicy) 1 = false →
        exec (.tapInstruction 3) s = .next { s with boot := { s.boot with tapOut := 0 } }))
end

