-- ==== Sys2Proof/Laws/Bytes.lean ====
section
/-!
SUPPORT. Numbers and the byte strings that spell them.
-/

namespace Sys2Proof.Machine

@[simp] theorem length_toLE (n : Nat) : ∀ v, (toLE n v).length = n := by
  induction n with
  | zero => intro v; rfl
  | succ n ih => intro v; simp [toLE, ih]

@[simp] theorem length_toBE (n v : Nat) : (toBE n v).length = n := by simp [toBE]

@[simp] theorem length_slice (l : List Byte) (i n : Nat) : (slice l i n).length = n := by
  simp [slice] <;> omega

theorem ofLE_toLE (n : Nat) : ∀ v, ofLE (toLE n v) = v % 2 ^ (8 * n) := by
  induction n with
  | zero => intro v; simp [toLE, ofLE, Nat.mod_one]
  | succ n ih =>
    intro v
    simp only [toLE, ofLE, ih, BitVec.toNat_ofNat]
    rw [show 2 ^ (8 * (n + 1)) = 2 ^ 8 * 2 ^ (8 * n) by rw [← Nat.pow_add]; congr 1; omega, Nat.mod_mul]
    all_goals rfl

theorem ofBE_eq_ofLE (l : List Byte) : ofBE l = ofLE l.reverse := by
  have h : ∀ (l : List Byte) (a : Nat), l.foldl (fun a b => a * 256 + b.toNat) a = a * 256 ^ l.length + ofLE l.reverse := by
    intro l
    induction l with
    | nil => intro a; simp [ofLE]
    | cons b l ih =>
      intro a
      have app : ∀ (x y : List Byte), ofLE (x ++ y) = ofLE x + 256 ^ x.length * ofLE y := by
        intro x y
        induction x with
        | nil => simp [ofLE]
        | cons c x ih2 => simp only [List.cons_append, ofLE, ih2, List.length_cons, Nat.pow_succ]; grind
      simp only [List.foldl_cons, ih, List.reverse_cons, app, List.length_cons, List.length_reverse, ofLE, Nat.pow_succ]
      grind
  simpa [ofBE] using h l 0

theorem ofBE_toBE (n v : Nat) : ofBE (toBE n v) = v % 2 ^ (8 * n) := by
  rw [ofBE_eq_ofLE, toBE, List.reverse_reverse, ofLE_toLE]

/-- A field that lies whole inside a byte string is that part of it. -/
theorem slice_of_le (l : List Byte) (i n : Nat) (h : i + n ≤ l.length) : slice l i n = (l.drop i).take n := by
  have : ((l.drop i).take n).length = n := by simp; omega
  simp [slice, this]

/-- The field that follows a prefix of `i` bytes. -/
theorem beAt_append (a b c : List Byte) (i n : Nat) (ha : a.length = i) (hb : b.length = n) :
    beAt (a ++ (b ++ c)) i n = ofBE b := by
  subst ha hb
  rw [beAt, slice_of_le _ _ _ (by simp)]
  simp

end Sys2Proof.Machine
end

