-- ==== Sys2Proof/Laws/Tab.lean ====
section
/-!
SUPPORT. What a table lists after a key is set or removed.
-/

namespace Sys2Proof

@[simp] theorem Tab.find_set_same {α : Type} (t : Tab α) (k : Nat) (v : α) : Tab.find (Tab.set t k v) k = some v := by
  induction t with
  | nil => simp [Tab.set, Tab.find]
  | cons x t ih =>
    obtain ⟨a, y⟩ := x
    simp only [Tab.set]
    split
    · simp [Tab.find]
    · split
      · simp [Tab.find]
      · rename_i h
        have : ¬ a = k := fun e => h e.symm
        simp [Tab.find, this, ih]

theorem Tab.find_set_other {α : Type} (t : Tab α) (k j : Nat) (v : α) (h : j ≠ k) :
    Tab.find (Tab.set t k v) j = Tab.find t j := by
  have hk : ¬ k = j := fun e => h e.symm
  induction t with
  | nil => simp [Tab.set, Tab.find, hk]
  | cons x t ih =>
    obtain ⟨a, y⟩ := x
    simp only [Tab.set]
    split
    · simp [Tab.find, hk]
    · split
      · rename_i e
        subst e
        simp [Tab.find, hk]
      · simp [Tab.find, ih]

theorem Tab.find_set {α : Type} (t : Tab α) (k j : Nat) (v : α) :
    Tab.find (Tab.set t k v) j = if j = k then some v else Tab.find t j := by
  split
  · rename_i h; subst h; exact Tab.find_set_same ..
  · rename_i h; exact Tab.find_set_other _ _ _ _ h

@[simp] theorem Tab.getD_set_same {α : Type} (t : Tab α) (k : Nat) (v d : α) : Tab.getD (Tab.set t k v) k d = v := by
  simp [Tab.getD]

theorem Tab.getD_set_other {α : Type} (t : Tab α) (k j : Nat) (v d : α) (h : j ≠ k) :
    Tab.getD (Tab.set t k v) j d = Tab.getD t j d := by
  simp [Tab.getD, Tab.find_set_other _ _ _ _ h]

theorem Tab.getD_set {α : Type} (t : Tab α) (k j : Nat) (v d : α) :
    Tab.getD (Tab.set t k v) j d = if j = k then v else Tab.getD t j d := by
  split
  · rename_i h; subst h; exact Tab.getD_set_same ..
  · rename_i h; exact Tab.getD_set_other _ _ _ _ _ h

theorem Tab.erase_cons {α : Type} (x : Nat × α) (t : Tab α) (k : Nat) :
    Tab.erase (x :: t) k = if x.1 = k then Tab.erase t k else x :: Tab.erase t k := by
  by_cases h : x.1 = k <;> simp [Tab.erase, h]

@[simp] theorem Tab.find_erase_same {α : Type} (t : Tab α) (k : Nat) : Tab.find (Tab.erase t k) k = none := by
  induction t with
  | nil => rfl
  | cons x t ih =>
    rw [Tab.erase_cons]
    split
    · exact ih
    · rename_i h
      simp [Tab.find, h, ih]

theorem Tab.find_erase_other {α : Type} (t : Tab α) (k j : Nat) (h : j ≠ k) : Tab.find (Tab.erase t k) j = Tab.find t j := by
  induction t with
  | nil => rfl
  | cons x t ih =>
    obtain ⟨a, y⟩ := x
    rw [Tab.erase_cons]
    split
    · rename_i e
      have e : a = k := e
      subst e
      have hk : ¬ a = j := fun e => h e.symm
      simp [Tab.find, hk, ih]
    · simp [Tab.find, ih]

@[simp] theorem Tab.set_set {α : Type} (t : Tab α) (k : Nat) (a b : α) : Tab.set (Tab.set t k a) k b = Tab.set t k b := by
  induction t with
  | nil => simp [Tab.set]
  | cons x t ih =>
    obtain ⟨i, y⟩ := x
    simp only [Tab.set]
    split
    · simp [Tab.set]
    · split
      · simp [Tab.set]
      · simp [Tab.set, *]

end Sys2Proof
end

