-- ==== Sys2Proof/Laws/State.lean ====
section
/-!
SUPPORT. What each named update leaves of every other field of the state, and what it leaves in its own.
-/

namespace Sys2Proof.Machine

/-! ### wr -/

@[simp] theorem State.wr_pending (s : State) (k v : Nat) : (s.wr k v).pending = s.pending := rfl
@[simp] theorem State.wr_lag (s : State) (k v : Nat) : (s.wr k v).lag = s.lag := rfl
@[simp] theorem State.wr_fuses (s : State) (k v : Nat) : (s.wr k v).fuses = s.fuses := rfl
@[simp] theorem State.wr_fl (s : State) (k v : Nat) : (s.wr k v).fl = s.fl := rfl
@[simp] theorem State.wr_take (s : State) (k v : Nat) : (s.wr k v).take = s.take := rfl
@[simp] theorem State.wr_ports (s : State) (k v : Nat) : (s.wr k v).ports = s.ports := rfl
@[simp] theorem State.wr_links (s : State) (k v : Nat) : (s.wr k v).links = s.links := rfl
@[simp] theorem State.wr_mesh (s : State) (k v : Nat) : (s.wr k v).mesh = s.mesh := rfl
@[simp] theorem State.wr_flights (s : State) (k v : Nat) : (s.wr k v).flights = s.flights := rfl
@[simp] theorem State.wr_meshWait (s : State) (k v : Nat) : (s.wr k v).meshWait = s.meshWait := rfl
@[simp] theorem State.wr_waiting (s : State) (k v : Nat) : (s.wr k v).waiting = s.waiting := rfl
@[simp] theorem State.wr_mem (s : State) (k v : Nat) : (s.wr k v).mem = s.mem := rfl
@[simp] theorem State.wr_errs (s : State) (k v : Nat) : (s.wr k v).errs = s.errs := rfl
@[simp] theorem State.wr_lineKey (s : State) (k v : Nat) : (s.wr k v).lineKey = s.lineKey := rfl
@[simp] theorem State.wr_written (s : State) (k v : Nat) : (s.wr k v).written = s.written := rfl
@[simp] theorem State.wr_tags (s : State) (k v : Nat) : (s.wr k v).tags = s.tags := rfl
@[simp] theorem State.wr_keyIds (s : State) (k v : Nat) : (s.wr k v).keyIds = s.keyIds := rfl
@[simp] theorem State.wr_keysDrawn (s : State) (k v : Nat) : (s.wr k v).keysDrawn = s.keysDrawn := rfl
@[simp] theorem State.wr_erasing (s : State) (k v : Nat) : (s.wr k v).erasing = s.erasing := rfl
@[simp] theorem State.wr_quarantine (s : State) (k v : Nat) : (s.wr k v).quarantine = s.quarantine := rfl
@[simp] theorem State.wr_lease (s : State) (k v : Nat) : (s.wr k v).lease = s.lease := rfl
@[simp] theorem State.wr_pubBy (s : State) (k v : Nat) : (s.wr k v).pubBy = s.pubBy := rfl
@[simp] theorem State.wr_flips (s : State) (k v : Nat) : (s.wr k v).flips = s.flips := rfl
@[simp] theorem State.wr_dir (s : State) (k v : Nat) : (s.wr k v).dir = s.dir := rfl
@[simp] theorem State.wr_dirClock (s : State) (k v : Nat) : (s.wr k v).dirClock = s.dirClock := rfl
@[simp] theorem State.wr_pends (s : State) (k v : Nat) : (s.wr k v).pends = s.pends := rfl
@[simp] theorem State.wr_evicts (s : State) (k v : Nat) : (s.wr k v).evicts = s.evicts := rfl
@[simp] theorem State.wr_lostLog (s : State) (k v : Nat) : (s.wr k v).lostLog = s.lostLog := rfl
@[simp] theorem State.wr_stackTab (s : State) (k v : Nat) : (s.wr k v).stackTab = s.stackTab := rfl
@[simp] theorem State.wr_test (s : State) (k v : Nat) : (s.wr k v).test = s.test := rfl
@[simp] theorem State.wr_cont (s : State) (k v : Nat) : (s.wr k v).cont = s.cont := rfl
@[simp] theorem State.wr_parts (s : State) (k v : Nat) : (s.wr k v).parts = s.parts := rfl
@[simp] theorem State.wr_mover (s : State) (k v : Nat) : (s.wr k v).mover = s.mover := rfl
@[simp] theorem State.wr_reels (s : State) (k v : Nat) : (s.wr k v).reels = s.reels := rfl
@[simp] theorem State.wr_reseeds (s : State) (k v : Nat) : (s.wr k v).reseeds = s.reseeds := rfl
@[simp] theorem State.wr_secLog (s : State) (k v : Nat) : (s.wr k v).secLog = s.secLog := rfl
@[simp] theorem State.wr_sess (s : State) (k v : Nat) : (s.wr k v).sess = s.sess := rfl
@[simp] theorem State.wr_fligOut (s : State) (k v : Nat) : (s.wr k v).fligOut = s.fligOut := rfl
@[simp] theorem State.wr_gaff (s : State) (k v : Nat) : (s.wr k v).gaff = s.gaff := rfl
@[simp] theorem State.wr_dailies (s : State) (k v : Nat) : (s.wr k v).dailies = s.dailies := rfl
@[simp] theorem State.wr_boot (s : State) (k v : Nat) : (s.wr k v).boot = s.boot := rfl
@[simp] theorem State.wr_meter (s : State) (k v : Nat) : (s.wr k v).meter = s.meter := rfl
@[simp] theorem State.wr_free (s : State) (k v : Nat) : (s.wr k v).free = s.free := rfl

/-! ### at -/

@[simp] theorem State.at_pending (s : State) (t : Nat) : (s.at t).pending = s.pending := rfl
@[simp] theorem State.at_regs (s : State) (t : Nat) : (s.at t).regs = s.regs := rfl
@[simp] theorem State.at_lag (s : State) (t : Nat) : (s.at t).lag = s.lag := rfl
@[simp] theorem State.at_fuses (s : State) (t : Nat) : (s.at t).fuses = s.fuses := rfl
@[simp] theorem State.at_take (s : State) (t : Nat) : (s.at t).take = s.take := rfl
@[simp] theorem State.at_ports (s : State) (t : Nat) : (s.at t).ports = s.ports := rfl
@[simp] theorem State.at_links (s : State) (t : Nat) : (s.at t).links = s.links := rfl
@[simp] theorem State.at_mesh (s : State) (t : Nat) : (s.at t).mesh = s.mesh := rfl
@[simp] theorem State.at_flights (s : State) (t : Nat) : (s.at t).flights = s.flights := rfl
@[simp] theorem State.at_meshWait (s : State) (t : Nat) : (s.at t).meshWait = s.meshWait := rfl
@[simp] theorem State.at_waiting (s : State) (t : Nat) : (s.at t).waiting = s.waiting := rfl
@[simp] theorem State.at_mem (s : State) (t : Nat) : (s.at t).mem = s.mem := rfl
@[simp] theorem State.at_errs (s : State) (t : Nat) : (s.at t).errs = s.errs := rfl
@[simp] theorem State.at_lineKey (s : State) (t : Nat) : (s.at t).lineKey = s.lineKey := rfl
@[simp] theorem State.at_written (s : State) (t : Nat) : (s.at t).written = s.written := rfl
@[simp] theorem State.at_tags (s : State) (t : Nat) : (s.at t).tags = s.tags := rfl
@[simp] theorem State.at_keyIds (s : State) (t : Nat) : (s.at t).keyIds = s.keyIds := rfl
@[simp] theorem State.at_keysDrawn (s : State) (t : Nat) : (s.at t).keysDrawn = s.keysDrawn := rfl
@[simp] theorem State.at_erasing (s : State) (t : Nat) : (s.at t).erasing = s.erasing := rfl
@[simp] theorem State.at_quarantine (s : State) (t : Nat) : (s.at t).quarantine = s.quarantine := rfl
@[simp] theorem State.at_lease (s : State) (t : Nat) : (s.at t).lease = s.lease := rfl
@[simp] theorem State.at_pubBy (s : State) (t : Nat) : (s.at t).pubBy = s.pubBy := rfl
@[simp] theorem State.at_flips (s : State) (t : Nat) : (s.at t).flips = s.flips := rfl
@[simp] theorem State.at_dir (s : State) (t : Nat) : (s.at t).dir = s.dir := rfl
@[simp] theorem State.at_dirClock (s : State) (t : Nat) : (s.at t).dirClock = s.dirClock := rfl
@[simp] theorem State.at_pends (s : State) (t : Nat) : (s.at t).pends = s.pends := rfl
@[simp] theorem State.at_evicts (s : State) (t : Nat) : (s.at t).evicts = s.evicts := rfl
@[simp] theorem State.at_lostLog (s : State) (t : Nat) : (s.at t).lostLog = s.lostLog := rfl
@[simp] theorem State.at_stackTab (s : State) (t : Nat) : (s.at t).stackTab = s.stackTab := rfl
@[simp] theorem State.at_test (s : State) (t : Nat) : (s.at t).test = s.test := rfl
@[simp] theorem State.at_cont (s : State) (t : Nat) : (s.at t).cont = s.cont := rfl
@[simp] theorem State.at_parts (s : State) (t : Nat) : (s.at t).parts = s.parts := rfl
@[simp] theorem State.at_mover (s : State) (t : Nat) : (s.at t).mover = s.mover := rfl
@[simp] theorem State.at_reels (s : State) (t : Nat) : (s.at t).reels = s.reels := rfl
@[simp] theorem State.at_reseeds (s : State) (t : Nat) : (s.at t).reseeds = s.reseeds := rfl
@[simp] theorem State.at_secLog (s : State) (t : Nat) : (s.at t).secLog = s.secLog := rfl
@[simp] theorem State.at_sess (s : State) (t : Nat) : (s.at t).sess = s.sess := rfl
@[simp] theorem State.at_fligOut (s : State) (t : Nat) : (s.at t).fligOut = s.fligOut := rfl
@[simp] theorem State.at_gaff (s : State) (t : Nat) : (s.at t).gaff = s.gaff := rfl
@[simp] theorem State.at_dailies (s : State) (t : Nat) : (s.at t).dailies = s.dailies := rfl
@[simp] theorem State.at_boot (s : State) (t : Nat) : (s.at t).boot = s.boot := rfl
@[simp] theorem State.at_meter (s : State) (t : Nat) : (s.at t).meter = s.meter := rfl
@[simp] theorem State.at_free (s : State) (t : Nat) : (s.at t).free = s.free := rfl
@[simp] theorem State.at_rd (s : State) (t : Nat) (j : Nat) : (s.at t).rd j = s.rd j := rfl
@[simp] theorem State.at_frame (s : State) (t : Nat) : (s.at t).frame = s.frame := rfl

/-! ### setPort -/

@[simp] theorem State.setPort_pending (s : State) (p : Nat) (v : Port) : (s.setPort p v).pending = s.pending := rfl
@[simp] theorem State.setPort_regs (s : State) (p : Nat) (v : Port) : (s.setPort p v).regs = s.regs := rfl
@[simp] theorem State.setPort_lag (s : State) (p : Nat) (v : Port) : (s.setPort p v).lag = s.lag := rfl
@[simp] theorem State.setPort_fuses (s : State) (p : Nat) (v : Port) : (s.setPort p v).fuses = s.fuses := rfl
@[simp] theorem State.setPort_fl (s : State) (p : Nat) (v : Port) : (s.setPort p v).fl = s.fl := rfl
@[simp] theorem State.setPort_take (s : State) (p : Nat) (v : Port) : (s.setPort p v).take = s.take := rfl
@[simp] theorem State.setPort_links (s : State) (p : Nat) (v : Port) : (s.setPort p v).links = s.links := rfl
@[simp] theorem State.setPort_mesh (s : State) (p : Nat) (v : Port) : (s.setPort p v).mesh = s.mesh := rfl
@[simp] theorem State.setPort_flights (s : State) (p : Nat) (v : Port) : (s.setPort p v).flights = s.flights := rfl
@[simp] theorem State.setPort_meshWait (s : State) (p : Nat) (v : Port) : (s.setPort p v).meshWait = s.meshWait := rfl
@[simp] theorem State.setPort_waiting (s : State) (p : Nat) (v : Port) : (s.setPort p v).waiting = s.waiting := rfl
@[simp] theorem State.setPort_mem (s : State) (p : Nat) (v : Port) : (s.setPort p v).mem = s.mem := rfl
@[simp] theorem State.setPort_errs (s : State) (p : Nat) (v : Port) : (s.setPort p v).errs = s.errs := rfl
@[simp] theorem State.setPort_lineKey (s : State) (p : Nat) (v : Port) : (s.setPort p v).lineKey = s.lineKey := rfl
@[simp] theorem State.setPort_written (s : State) (p : Nat) (v : Port) : (s.setPort p v).written = s.written := rfl
@[simp] theorem State.setPort_tags (s : State) (p : Nat) (v : Port) : (s.setPort p v).tags = s.tags := rfl
@[simp] theorem State.setPort_keyIds (s : State) (p : Nat) (v : Port) : (s.setPort p v).keyIds = s.keyIds := rfl
@[simp] theorem State.setPort_keysDrawn (s : State) (p : Nat) (v : Port) : (s.setPort p v).keysDrawn = s.keysDrawn := rfl
@[simp] theorem State.setPort_erasing (s : State) (p : Nat) (v : Port) : (s.setPort p v).erasing = s.erasing := rfl
@[simp] theorem State.setPort_quarantine (s : State) (p : Nat) (v : Port) : (s.setPort p v).quarantine = s.quarantine := rfl
@[simp] theorem State.setPort_lease (s : State) (p : Nat) (v : Port) : (s.setPort p v).lease = s.lease := rfl
@[simp] theorem State.setPort_pubBy (s : State) (p : Nat) (v : Port) : (s.setPort p v).pubBy = s.pubBy := rfl
@[simp] theorem State.setPort_flips (s : State) (p : Nat) (v : Port) : (s.setPort p v).flips = s.flips := rfl
@[simp] theorem State.setPort_dir (s : State) (p : Nat) (v : Port) : (s.setPort p v).dir = s.dir := rfl
@[simp] theorem State.setPort_dirClock (s : State) (p : Nat) (v : Port) : (s.setPort p v).dirClock = s.dirClock := rfl
@[simp] theorem State.setPort_pends (s : State) (p : Nat) (v : Port) : (s.setPort p v).pends = s.pends := rfl
@[simp] theorem State.setPort_evicts (s : State) (p : Nat) (v : Port) : (s.setPort p v).evicts = s.evicts := rfl
@[simp] theorem State.setPort_lostLog (s : State) (p : Nat) (v : Port) : (s.setPort p v).lostLog = s.lostLog := rfl
@[simp] theorem State.setPort_stackTab (s : State) (p : Nat) (v : Port) : (s.setPort p v).stackTab = s.stackTab := rfl
@[simp] theorem State.setPort_test (s : State) (p : Nat) (v : Port) : (s.setPort p v).test = s.test := rfl
@[simp] theorem State.setPort_cont (s : State) (p : Nat) (v : Port) : (s.setPort p v).cont = s.cont := rfl
@[simp] theorem State.setPort_parts (s : State) (p : Nat) (v : Port) : (s.setPort p v).parts = s.parts := rfl
@[simp] theorem State.setPort_mover (s : State) (p : Nat) (v : Port) : (s.setPort p v).mover = s.mover := rfl
@[simp] theorem State.setPort_reels (s : State) (p : Nat) (v : Port) : (s.setPort p v).reels = s.reels := rfl
@[simp] theorem State.setPort_reseeds (s : State) (p : Nat) (v : Port) : (s.setPort p v).reseeds = s.reseeds := rfl
@[simp] theorem State.setPort_secLog (s : State) (p : Nat) (v : Port) : (s.setPort p v).secLog = s.secLog := rfl
@[simp] theorem State.setPort_sess (s : State) (p : Nat) (v : Port) : (s.setPort p v).sess = s.sess := rfl
@[simp] theorem State.setPort_fligOut (s : State) (p : Nat) (v : Port) : (s.setPort p v).fligOut = s.fligOut := rfl
@[simp] theorem State.setPort_gaff (s : State) (p : Nat) (v : Port) : (s.setPort p v).gaff = s.gaff := rfl
@[simp] theorem State.setPort_dailies (s : State) (p : Nat) (v : Port) : (s.setPort p v).dailies = s.dailies := rfl
@[simp] theorem State.setPort_boot (s : State) (p : Nat) (v : Port) : (s.setPort p v).boot = s.boot := rfl
@[simp] theorem State.setPort_meter (s : State) (p : Nat) (v : Port) : (s.setPort p v).meter = s.meter := rfl
@[simp] theorem State.setPort_free (s : State) (p : Nat) (v : Port) : (s.setPort p v).free = s.free := rfl
@[simp] theorem State.setPort_rd (s : State) (p : Nat) (v : Port) (j : Nat) : (s.setPort p v).rd j = s.rd j := rfl
@[simp] theorem State.setPort_frame (s : State) (p : Nat) (v : Port) : (s.setPort p v).frame = s.frame := rfl

/-! ### setStack -/

@[simp] theorem State.setStack_pending (s : State) (t : Nat) (v : Stack) : (s.setStack t v).pending = s.pending := rfl
@[simp] theorem State.setStack_regs (s : State) (t : Nat) (v : Stack) : (s.setStack t v).regs = s.regs := rfl
@[simp] theorem State.setStack_lag (s : State) (t : Nat) (v : Stack) : (s.setStack t v).lag = s.lag := rfl
@[simp] theorem State.setStack_fuses (s : State) (t : Nat) (v : Stack) : (s.setStack t v).fuses = s.fuses := rfl
@[simp] theorem State.setStack_fl (s : State) (t : Nat) (v : Stack) : (s.setStack t v).fl = s.fl := rfl
@[simp] theorem State.setStack_take (s : State) (t : Nat) (v : Stack) : (s.setStack t v).take = s.take := rfl
@[simp] theorem State.setStack_ports (s : State) (t : Nat) (v : Stack) : (s.setStack t v).ports = s.ports := rfl
@[simp] theorem State.setStack_links (s : State) (t : Nat) (v : Stack) : (s.setStack t v).links = s.links := rfl
@[simp] theorem State.setStack_mesh (s : State) (t : Nat) (v : Stack) : (s.setStack t v).mesh = s.mesh := rfl
@[simp] theorem State.setStack_flights (s : State) (t : Nat) (v : Stack) : (s.setStack t v).flights = s.flights := rfl
@[simp] theorem State.setStack_meshWait (s : State) (t : Nat) (v : Stack) : (s.setStack t v).meshWait = s.meshWait := rfl
@[simp] theorem State.setStack_waiting (s : State) (t : Nat) (v : Stack) : (s.setStack t v).waiting = s.waiting := rfl
@[simp] theorem State.setStack_mem (s : State) (t : Nat) (v : Stack) : (s.setStack t v).mem = s.mem := rfl
@[simp] theorem State.setStack_errs (s : State) (t : Nat) (v : Stack) : (s.setStack t v).errs = s.errs := rfl
@[simp] theorem State.setStack_lineKey (s : State) (t : Nat) (v : Stack) : (s.setStack t v).lineKey = s.lineKey := rfl
@[simp] theorem State.setStack_written (s : State) (t : Nat) (v : Stack) : (s.setStack t v).written = s.written := rfl
@[simp] theorem State.setStack_tags (s : State) (t : Nat) (v : Stack) : (s.setStack t v).tags = s.tags := rfl
@[simp] theorem State.setStack_keyIds (s : State) (t : Nat) (v : Stack) : (s.setStack t v).keyIds = s.keyIds := rfl
@[simp] theorem State.setStack_keysDrawn (s : State) (t : Nat) (v : Stack) : (s.setStack t v).keysDrawn = s.keysDrawn := rfl
@[simp] theorem State.setStack_erasing (s : State) (t : Nat) (v : Stack) : (s.setStack t v).erasing = s.erasing := rfl
@[simp] theorem State.setStack_quarantine (s : State) (t : Nat) (v : Stack) : (s.setStack t v).quarantine = s.quarantine := rfl
@[simp] theorem State.setStack_lease (s : State) (t : Nat) (v : Stack) : (s.setStack t v).lease = s.lease := rfl
@[simp] theorem State.setStack_pubBy (s : State) (t : Nat) (v : Stack) : (s.setStack t v).pubBy = s.pubBy := rfl
@[simp] theorem State.setStack_flips (s : State) (t : Nat) (v : Stack) : (s.setStack t v).flips = s.flips := rfl
@[simp] theorem State.setStack_dir (s : State) (t : Nat) (v : Stack) : (s.setStack t v).dir = s.dir := rfl
@[simp] theorem State.setStack_dirClock (s : State) (t : Nat) (v : Stack) : (s.setStack t v).dirClock = s.dirClock := rfl
@[simp] theorem State.setStack_pends (s : State) (t : Nat) (v : Stack) : (s.setStack t v).pends = s.pends := rfl
@[simp] theorem State.setStack_evicts (s : State) (t : Nat) (v : Stack) : (s.setStack t v).evicts = s.evicts := rfl
@[simp] theorem State.setStack_lostLog (s : State) (t : Nat) (v : Stack) : (s.setStack t v).lostLog = s.lostLog := rfl
@[simp] theorem State.setStack_test (s : State) (t : Nat) (v : Stack) : (s.setStack t v).test = s.test := rfl
@[simp] theorem State.setStack_cont (s : State) (t : Nat) (v : Stack) : (s.setStack t v).cont = s.cont := rfl
@[simp] theorem State.setStack_parts (s : State) (t : Nat) (v : Stack) : (s.setStack t v).parts = s.parts := rfl
@[simp] theorem State.setStack_mover (s : State) (t : Nat) (v : Stack) : (s.setStack t v).mover = s.mover := rfl
@[simp] theorem State.setStack_reels (s : State) (t : Nat) (v : Stack) : (s.setStack t v).reels = s.reels := rfl
@[simp] theorem State.setStack_reseeds (s : State) (t : Nat) (v : Stack) : (s.setStack t v).reseeds = s.reseeds := rfl
@[simp] theorem State.setStack_secLog (s : State) (t : Nat) (v : Stack) : (s.setStack t v).secLog = s.secLog := rfl
@[simp] theorem State.setStack_sess (s : State) (t : Nat) (v : Stack) : (s.setStack t v).sess = s.sess := rfl
@[simp] theorem State.setStack_fligOut (s : State) (t : Nat) (v : Stack) : (s.setStack t v).fligOut = s.fligOut := rfl
@[simp] theorem State.setStack_gaff (s : State) (t : Nat) (v : Stack) : (s.setStack t v).gaff = s.gaff := rfl
@[simp] theorem State.setStack_dailies (s : State) (t : Nat) (v : Stack) : (s.setStack t v).dailies = s.dailies := rfl
@[simp] theorem State.setStack_boot (s : State) (t : Nat) (v : Stack) : (s.setStack t v).boot = s.boot := rfl
@[simp] theorem State.setStack_meter (s : State) (t : Nat) (v : Stack) : (s.setStack t v).meter = s.meter := rfl
@[simp] theorem State.setStack_free (s : State) (t : Nat) (v : Stack) : (s.setStack t v).free = s.free := rfl
@[simp] theorem State.setStack_rd (s : State) (t : Nat) (v : Stack) (j : Nat) : (s.setStack t v).rd j = s.rd j := rfl
@[simp] theorem State.setStack_frame (s : State) (t : Nat) (v : Stack) : (s.setStack t v).frame = s.frame := rfl

/-! ### setRouter -/

@[simp] theorem State.setRouter_pending (s : State) (t : Nat) (v : MeshTile) : (s.setRouter t v).pending = s.pending := rfl
@[simp] theorem State.setRouter_regs (s : State) (t : Nat) (v : MeshTile) : (s.setRouter t v).regs = s.regs := rfl
@[simp] theorem State.setRouter_lag (s : State) (t : Nat) (v : MeshTile) : (s.setRouter t v).lag = s.lag := rfl
@[simp] theorem State.setRouter_fuses (s : State) (t : Nat) (v : MeshTile) : (s.setRouter t v).fuses = s.fuses := rfl
@[simp] theorem State.setRouter_fl (s : State) (t : Nat) (v : MeshTile) : (s.setRouter t v).fl = s.fl := rfl
@[simp] theorem State.setRouter_take (s : State) (t : Nat) (v : MeshTile) : (s.setRouter t v).take = s.take := rfl
@[simp] theorem State.setRouter_ports (s : State) (t : Nat) (v : MeshTile) : (s.setRouter t v).ports = s.ports := rfl
@[simp] theorem State.setRouter_links (s : State) (t : Nat) (v : MeshTile) : (s.setRouter t v).links = s.links := rfl
@[simp] theorem State.setRouter_flights (s : State) (t : Nat) (v : MeshTile) : (s.setRouter t v).flights = s.flights := rfl
@[simp] theorem State.setRouter_meshWait (s : State) (t : Nat) (v : MeshTile) : (s.setRouter t v).meshWait = s.meshWait := rfl
@[simp] theorem State.setRouter_waiting (s : State) (t : Nat) (v : MeshTile) : (s.setRouter t v).waiting = s.waiting := rfl
@[simp] theorem State.setRouter_mem (s : State) (t : Nat) (v : MeshTile) : (s.setRouter t v).mem = s.mem := rfl
@[simp] theorem State.setRouter_errs (s : State) (t : Nat) (v : MeshTile) : (s.setRouter t v).errs = s.errs := rfl
@[simp] theorem State.setRouter_lineKey (s : State) (t : Nat) (v : MeshTile) : (s.setRouter t v).lineKey = s.lineKey := rfl
@[simp] theorem State.setRouter_written (s : State) (t : Nat) (v : MeshTile) : (s.setRouter t v).written = s.written := rfl
@[simp] theorem State.setRouter_tags (s : State) (t : Nat) (v : MeshTile) : (s.setRouter t v).tags = s.tags := rfl
@[simp] theorem State.setRouter_keyIds (s : State) (t : Nat) (v : MeshTile) : (s.setRouter t v).keyIds = s.keyIds := rfl
@[simp] theorem State.setRouter_keysDrawn (s : State) (t : Nat) (v : MeshTile) : (s.setRouter t v).keysDrawn = s.keysDrawn := rfl
@[simp] theorem State.setRouter_erasing (s : State) (t : Nat) (v : MeshTile) : (s.setRouter t v).erasing = s.erasing := rfl
@[simp] theorem State.setRouter_quarantine (s : State) (t : Nat) (v : MeshTile) : (s.setRouter t v).quarantine = s.quarantine := rfl
@[simp] theorem State.setRouter_lease (s : State) (t : Nat) (v : MeshTile) : (s.setRouter t v).lease = s.lease := rfl
@[simp] theorem State.setRouter_pubBy (s : State) (t : Nat) (v : MeshTile) : (s.setRouter t v).pubBy = s.pubBy := rfl
@[simp] theorem State.setRouter_flips (s : State) (t : Nat) (v : MeshTile) : (s.setRouter t v).flips = s.flips := rfl
@[simp] theorem State.setRouter_dir (s : State) (t : Nat) (v : MeshTile) : (s.setRouter t v).dir = s.dir := rfl
@[simp] theorem State.setRouter_dirClock (s : State) (t : Nat) (v : MeshTile) : (s.setRouter t v).dirClock = s.dirClock := rfl
@[simp] theorem State.setRouter_pends (s : State) (t : Nat) (v : MeshTile) : (s.setRouter t v).pends = s.pends := rfl
@[simp] theorem State.setRouter_evicts (s : State) (t : Nat) (v : MeshTile) : (s.setRouter t v).evicts = s.evicts := rfl
@[simp] theorem State.setRouter_lostLog (s : State) (t : Nat) (v : MeshTile) : (s.setRouter t v).lostLog = s.lostLog := rfl
@[simp] theorem State.setRouter_stackTab (s : State) (t : Nat) (v : MeshTile) : (s.setRouter t v).stackTab = s.stackTab := rfl
@[simp] theorem State.setRouter_test (s : State) (t : Nat) (v : MeshTile) : (s.setRouter t v).test = s.test := rfl
@[simp] theorem State.setRouter_cont (s : State) (t : Nat) (v : MeshTile) : (s.setRouter t v).cont = s.cont := rfl
@[simp] theorem State.setRouter_parts (s : State) (t : Nat) (v : MeshTile) : (s.setRouter t v).parts = s.parts := rfl
@[simp] theorem State.setRouter_mover (s : State) (t : Nat) (v : MeshTile) : (s.setRouter t v).mover = s.mover := rfl
@[simp] theorem State.setRouter_reels (s : State) (t : Nat) (v : MeshTile) : (s.setRouter t v).reels = s.reels := rfl
@[simp] theorem State.setRouter_reseeds (s : State) (t : Nat) (v : MeshTile) : (s.setRouter t v).reseeds = s.reseeds := rfl
@[simp] theorem State.setRouter_secLog (s : State) (t : Nat) (v : MeshTile) : (s.setRouter t v).secLog = s.secLog := rfl
@[simp] theorem State.setRouter_sess (s : State) (t : Nat) (v : MeshTile) : (s.setRouter t v).sess = s.sess := rfl
@[simp] theorem State.setRouter_fligOut (s : State) (t : Nat) (v : MeshTile) : (s.setRouter t v).fligOut = s.fligOut := rfl
@[simp] theorem State.setRouter_gaff (s : State) (t : Nat) (v : MeshTile) : (s.setRouter t v).gaff = s.gaff := rfl
@[simp] theorem State.setRouter_dailies (s : State) (t : Nat) (v : MeshTile) : (s.setRouter t v).dailies = s.dailies := rfl
@[simp] theorem State.setRouter_boot (s : State) (t : Nat) (v : MeshTile) : (s.setRouter t v).boot = s.boot := rfl
@[simp] theorem State.setRouter_meter (s : State) (t : Nat) (v : MeshTile) : (s.setRouter t v).meter = s.meter := rfl
@[simp] theorem State.setRouter_free (s : State) (t : Nat) (v : MeshTile) : (s.setRouter t v).free = s.free := rfl
@[simp] theorem State.setRouter_rd (s : State) (t : Nat) (v : MeshTile) (j : Nat) : (s.setRouter t v).rd j = s.rd j := rfl
@[simp] theorem State.setRouter_frame (s : State) (t : Nat) (v : MeshTile) : (s.setRouter t v).frame = s.frame := rfl

/-! ### setPart -/

@[simp] theorem State.setPart_pending (s : State) (p : Nat) (v : PartCtl) : (s.setPart p v).pending = s.pending := rfl
@[simp] theorem State.setPart_regs (s : State) (p : Nat) (v : PartCtl) : (s.setPart p v).regs = s.regs := rfl
@[simp] theorem State.setPart_lag (s : State) (p : Nat) (v : PartCtl) : (s.setPart p v).lag = s.lag := rfl
@[simp] theorem State.setPart_fuses (s : State) (p : Nat) (v : PartCtl) : (s.setPart p v).fuses = s.fuses := rfl
@[simp] theorem State.setPart_fl (s : State) (p : Nat) (v : PartCtl) : (s.setPart p v).fl = s.fl := rfl
@[simp] theorem State.setPart_take (s : State) (p : Nat) (v : PartCtl) : (s.setPart p v).take = s.take := rfl
@[simp] theorem State.setPart_ports (s : State) (p : Nat) (v : PartCtl) : (s.setPart p v).ports = s.ports := rfl
@[simp] theorem State.setPart_links (s : State) (p : Nat) (v : PartCtl) : (s.setPart p v).links = s.links := rfl
@[simp] theorem State.setPart_mesh (s : State) (p : Nat) (v : PartCtl) : (s.setPart p v).mesh = s.mesh := rfl
@[simp] theorem State.setPart_flights (s : State) (p : Nat) (v : PartCtl) : (s.setPart p v).flights = s.flights := rfl
@[simp] theorem State.setPart_meshWait (s : State) (p : Nat) (v : PartCtl) : (s.setPart p v).meshWait = s.meshWait := rfl
@[simp] theorem State.setPart_waiting (s : State) (p : Nat) (v : PartCtl) : (s.setPart p v).waiting = s.waiting := rfl
@[simp] theorem State.setPart_mem (s : State) (p : Nat) (v : PartCtl) : (s.setPart p v).mem = s.mem := rfl
@[simp] theorem State.setPart_errs (s : State) (p : Nat) (v : PartCtl) : (s.setPart p v).errs = s.errs := rfl
@[simp] theorem State.setPart_lineKey (s : State) (p : Nat) (v : PartCtl) : (s.setPart p v).lineKey = s.lineKey := rfl
@[simp] theorem State.setPart_written (s : State) (p : Nat) (v : PartCtl) : (s.setPart p v).written = s.written := rfl
@[simp] theorem State.setPart_tags (s : State) (p : Nat) (v : PartCtl) : (s.setPart p v).tags = s.tags := rfl
@[simp] theorem State.setPart_keyIds (s : State) (p : Nat) (v : PartCtl) : (s.setPart p v).keyIds = s.keyIds := rfl
@[simp] theorem State.setPart_keysDrawn (s : State) (p : Nat) (v : PartCtl) : (s.setPart p v).keysDrawn = s.keysDrawn := rfl
@[simp] theorem State.setPart_erasing (s : State) (p : Nat) (v : PartCtl) : (s.setPart p v).erasing = s.erasing := rfl
@[simp] theorem State.setPart_quarantine (s : State) (p : Nat) (v : PartCtl) : (s.setPart p v).quarantine = s.quarantine := rfl
@[simp] theorem State.setPart_lease (s : State) (p : Nat) (v : PartCtl) : (s.setPart p v).lease = s.lease := rfl
@[simp] theorem State.setPart_pubBy (s : State) (p : Nat) (v : PartCtl) : (s.setPart p v).pubBy = s.pubBy := rfl
@[simp] theorem State.setPart_flips (s : State) (p : Nat) (v : PartCtl) : (s.setPart p v).flips = s.flips := rfl
@[simp] theorem State.setPart_dir (s : State) (p : Nat) (v : PartCtl) : (s.setPart p v).dir = s.dir := rfl
@[simp] theorem State.setPart_dirClock (s : State) (p : Nat) (v : PartCtl) : (s.setPart p v).dirClock = s.dirClock := rfl
@[simp] theorem State.setPart_pends (s : State) (p : Nat) (v : PartCtl) : (s.setPart p v).pends = s.pends := rfl
@[simp] theorem State.setPart_evicts (s : State) (p : Nat) (v : PartCtl) : (s.setPart p v).evicts = s.evicts := rfl
@[simp] theorem State.setPart_lostLog (s : State) (p : Nat) (v : PartCtl) : (s.setPart p v).lostLog = s.lostLog := rfl
@[simp] theorem State.setPart_stackTab (s : State) (p : Nat) (v : PartCtl) : (s.setPart p v).stackTab = s.stackTab := rfl
@[simp] theorem State.setPart_test (s : State) (p : Nat) (v : PartCtl) : (s.setPart p v).test = s.test := rfl
@[simp] theorem State.setPart_cont (s : State) (p : Nat) (v : PartCtl) : (s.setPart p v).cont = s.cont := rfl
@[simp] theorem State.setPart_mover (s : State) (p : Nat) (v : PartCtl) : (s.setPart p v).mover = s.mover := rfl
@[simp] theorem State.setPart_reels (s : State) (p : Nat) (v : PartCtl) : (s.setPart p v).reels = s.reels := rfl
@[simp] theorem State.setPart_reseeds (s : State) (p : Nat) (v : PartCtl) : (s.setPart p v).reseeds = s.reseeds := rfl
@[simp] theorem State.setPart_secLog (s : State) (p : Nat) (v : PartCtl) : (s.setPart p v).secLog = s.secLog := rfl
@[simp] theorem State.setPart_sess (s : State) (p : Nat) (v : PartCtl) : (s.setPart p v).sess = s.sess := rfl
@[simp] theorem State.setPart_fligOut (s : State) (p : Nat) (v : PartCtl) : (s.setPart p v).fligOut = s.fligOut := rfl
@[simp] theorem State.setPart_gaff (s : State) (p : Nat) (v : PartCtl) : (s.setPart p v).gaff = s.gaff := rfl
@[simp] theorem State.setPart_dailies (s : State) (p : Nat) (v : PartCtl) : (s.setPart p v).dailies = s.dailies := rfl
@[simp] theorem State.setPart_boot (s : State) (p : Nat) (v : PartCtl) : (s.setPart p v).boot = s.boot := rfl
@[simp] theorem State.setPart_meter (s : State) (p : Nat) (v : PartCtl) : (s.setPart p v).meter = s.meter := rfl
@[simp] theorem State.setPart_free (s : State) (p : Nat) (v : PartCtl) : (s.setPart p v).free = s.free := rfl
@[simp] theorem State.setPart_rd (s : State) (p : Nat) (v : PartCtl) (j : Nat) : (s.setPart p v).rd j = s.rd j := rfl
@[simp] theorem State.setPart_frame (s : State) (p : Nat) (v : PartCtl) : (s.setPart p v).frame = s.frame := rfl

/-! ### setPend -/

@[simp] theorem State.setPend_pending (s : State) (ln : Nat) (v : Pend) : (s.setPend ln v).pending = s.pending := rfl
@[simp] theorem State.setPend_regs (s : State) (ln : Nat) (v : Pend) : (s.setPend ln v).regs = s.regs := rfl
@[simp] theorem State.setPend_lag (s : State) (ln : Nat) (v : Pend) : (s.setPend ln v).lag = s.lag := rfl
@[simp] theorem State.setPend_fuses (s : State) (ln : Nat) (v : Pend) : (s.setPend ln v).fuses = s.fuses := rfl
@[simp] theorem State.setPend_fl (s : State) (ln : Nat) (v : Pend) : (s.setPend ln v).fl = s.fl := rfl
@[simp] theorem State.setPend_take (s : State) (ln : Nat) (v : Pend) : (s.setPend ln v).take = s.take := rfl
@[simp] theorem State.setPend_ports (s : State) (ln : Nat) (v : Pend) : (s.setPend ln v).ports = s.ports := rfl
@[simp] theorem State.setPend_links (s : State) (ln : Nat) (v : Pend) : (s.setPend ln v).links = s.links := rfl
@[simp] theorem State.setPend_mesh (s : State) (ln : Nat) (v : Pend) : (s.setPend ln v).mesh = s.mesh := rfl
@[simp] theorem State.setPend_flights (s : State) (ln : Nat) (v : Pend) : (s.setPend ln v).flights = s.flights := rfl
@[simp] theorem State.setPend_meshWait (s : State) (ln : Nat) (v : Pend) : (s.setPend ln v).meshWait = s.meshWait := rfl
@[simp] theorem State.setPend_waiting (s : State) (ln : Nat) (v : Pend) : (s.setPend ln v).waiting = s.waiting := rfl
@[simp] theorem State.setPend_mem (s : State) (ln : Nat) (v : Pend) : (s.setPend ln v).mem = s.mem := rfl
@[simp] theorem State.setPend_errs (s : State) (ln : Nat) (v : Pend) : (s.setPend ln v).errs = s.errs := rfl
@[simp] theorem State.setPend_lineKey (s : State) (ln : Nat) (v : Pend) : (s.setPend ln v).lineKey = s.lineKey := rfl
@[simp] theorem State.setPend_written (s : State) (ln : Nat) (v : Pend) : (s.setPend ln v).written = s.written := rfl
@[simp] theorem State.setPend_tags (s : State) (ln : Nat) (v : Pend) : (s.setPend ln v).tags = s.tags := rfl
@[simp] theorem State.setPend_keyIds (s : State) (ln : Nat) (v : Pend) : (s.setPend ln v).keyIds = s.keyIds := rfl
@[simp] theorem State.setPend_keysDrawn (s : State) (ln : Nat) (v : Pend) : (s.setPend ln v).keysDrawn = s.keysDrawn := rfl
@[simp] theorem State.setPend_erasing (s : State) (ln : Nat) (v : Pend) : (s.setPend ln v).erasing = s.erasing := rfl
@[simp] theorem State.setPend_quarantine (s : State) (ln : Nat) (v : Pend) : (s.setPend ln v).quarantine = s.quarantine := rfl
@[simp] theorem State.setPend_lease (s : State) (ln : Nat) (v : Pend) : (s.setPend ln v).lease = s.lease := rfl
@[simp] theorem State.setPend_pubBy (s : State) (ln : Nat) (v : Pend) : (s.setPend ln v).pubBy = s.pubBy := rfl
@[simp] theorem State.setPend_flips (s : State) (ln : Nat) (v : Pend) : (s.setPend ln v).flips = s.flips := rfl
@[simp] theorem State.setPend_dir (s : State) (ln : Nat) (v : Pend) : (s.setPend ln v).dir = s.dir := rfl
@[simp] theorem State.setPend_dirClock (s : State) (ln : Nat) (v : Pend) : (s.setPend ln v).dirClock = s.dirClock := rfl
@[simp] theorem State.setPend_evicts (s : State) (ln : Nat) (v : Pend) : (s.setPend ln v).evicts = s.evicts := rfl
@[simp] theorem State.setPend_lostLog (s : State) (ln : Nat) (v : Pend) : (s.setPend ln v).lostLog = s.lostLog := rfl
@[simp] theorem State.setPend_stackTab (s : State) (ln : Nat) (v : Pend) : (s.setPend ln v).stackTab = s.stackTab := rfl
@[simp] theorem State.setPend_test (s : State) (ln : Nat) (v : Pend) : (s.setPend ln v).test = s.test := rfl
@[simp] theorem State.setPend_cont (s : State) (ln : Nat) (v : Pend) : (s.setPend ln v).cont = s.cont := rfl
@[simp] theorem State.setPend_parts (s : State) (ln : Nat) (v : Pend) : (s.setPend ln v).parts = s.parts := rfl
@[simp] theorem State.setPend_mover (s : State) (ln : Nat) (v : Pend) : (s.setPend ln v).mover = s.mover := rfl
@[simp] theorem State.setPend_reels (s : State) (ln : Nat) (v : Pend) : (s.setPend ln v).reels = s.reels := rfl
@[simp] theorem State.setPend_reseeds (s : State) (ln : Nat) (v : Pend) : (s.setPend ln v).reseeds = s.reseeds := rfl
@[simp] theorem State.setPend_secLog (s : State) (ln : Nat) (v : Pend) : (s.setPend ln v).secLog = s.secLog := rfl
@[simp] theorem State.setPend_sess (s : State) (ln : Nat) (v : Pend) : (s.setPend ln v).sess = s.sess := rfl
@[simp] theorem State.setPend_fligOut (s : State) (ln : Nat) (v : Pend) : (s.setPend ln v).fligOut = s.fligOut := rfl
@[simp] theorem State.setPend_gaff (s : State) (ln : Nat) (v : Pend) : (s.setPend ln v).gaff = s.gaff := rfl
@[simp] theorem State.setPend_dailies (s : State) (ln : Nat) (v : Pend) : (s.setPend ln v).dailies = s.dailies := rfl
@[simp] theorem State.setPend_boot (s : State) (ln : Nat) (v : Pend) : (s.setPend ln v).boot = s.boot := rfl
@[simp] theorem State.setPend_meter (s : State) (ln : Nat) (v : Pend) : (s.setPend ln v).meter = s.meter := rfl
@[simp] theorem State.setPend_free (s : State) (ln : Nat) (v : Pend) : (s.setPend ln v).free = s.free := rfl
@[simp] theorem State.setPend_rd (s : State) (ln : Nat) (v : Pend) (j : Nat) : (s.setPend ln v).rd j = s.rd j := rfl
@[simp] theorem State.setPend_frame (s : State) (ln : Nat) (v : Pend) : (s.setPend ln v).frame = s.frame := rfl

/-! ### setSess -/

@[simp] theorem State.setSess_pending (s : State) (i : Nat) (v : Sess) : (s.setSess i v).pending = s.pending := rfl
@[simp] theorem State.setSess_regs (s : State) (i : Nat) (v : Sess) : (s.setSess i v).regs = s.regs := rfl
@[simp] theorem State.setSess_lag (s : State) (i : Nat) (v : Sess) : (s.setSess i v).lag = s.lag := rfl
@[simp] theorem State.setSess_fuses (s : State) (i : Nat) (v : Sess) : (s.setSess i v).fuses = s.fuses := rfl
@[simp] theorem State.setSess_fl (s : State) (i : Nat) (v : Sess) : (s.setSess i v).fl = s.fl := rfl
@[simp] theorem State.setSess_take (s : State) (i : Nat) (v : Sess) : (s.setSess i v).take = s.take := rfl
@[simp] theorem State.setSess_ports (s : State) (i : Nat) (v : Sess) : (s.setSess i v).ports = s.ports := rfl
@[simp] theorem State.setSess_links (s : State) (i : Nat) (v : Sess) : (s.setSess i v).links = s.links := rfl
@[simp] theorem State.setSess_mesh (s : State) (i : Nat) (v : Sess) : (s.setSess i v).mesh = s.mesh := rfl
@[simp] theorem State.setSess_flights (s : State) (i : Nat) (v : Sess) : (s.setSess i v).flights = s.flights := rfl
@[simp] theorem State.setSess_meshWait (s : State) (i : Nat) (v : Sess) : (s.setSess i v).meshWait = s.meshWait := rfl
@[simp] theorem State.setSess_waiting (s : State) (i : Nat) (v : Sess) : (s.setSess i v).waiting = s.waiting := rfl
@[simp] theorem State.setSess_mem (s : State) (i : Nat) (v : Sess) : (s.setSess i v).mem = s.mem := rfl
@[simp] theorem State.setSess_errs (s : State) (i : Nat) (v : Sess) : (s.setSess i v).errs = s.errs := rfl
@[simp] theorem State.setSess_lineKey (s : State) (i : Nat) (v : Sess) : (s.setSess i v).lineKey = s.lineKey := rfl
@[simp] theorem State.setSess_written (s : State) (i : Nat) (v : Sess) : (s.setSess i v).written = s.written := rfl
@[simp] theorem State.setSess_tags (s : State) (i : Nat) (v : Sess) : (s.setSess i v).tags = s.tags := rfl
@[simp] theorem State.setSess_keyIds (s : State) (i : Nat) (v : Sess) : (s.setSess i v).keyIds = s.keyIds := rfl
@[simp] theorem State.setSess_keysDrawn (s : State) (i : Nat) (v : Sess) : (s.setSess i v).keysDrawn = s.keysDrawn := rfl
@[simp] theorem State.setSess_erasing (s : State) (i : Nat) (v : Sess) : (s.setSess i v).erasing = s.erasing := rfl
@[simp] theorem State.setSess_quarantine (s : State) (i : Nat) (v : Sess) : (s.setSess i v).quarantine = s.quarantine := rfl
@[simp] theorem State.setSess_lease (s : State) (i : Nat) (v : Sess) : (s.setSess i v).lease = s.lease := rfl
@[simp] theorem State.setSess_pubBy (s : State) (i : Nat) (v : Sess) : (s.setSess i v).pubBy = s.pubBy := rfl
@[simp] theorem State.setSess_flips (s : State) (i : Nat) (v : Sess) : (s.setSess i v).flips = s.flips := rfl
@[simp] theorem State.setSess_dir (s : State) (i : Nat) (v : Sess) : (s.setSess i v).dir = s.dir := rfl
@[simp] theorem State.setSess_dirClock (s : State) (i : Nat) (v : Sess) : (s.setSess i v).dirClock = s.dirClock := rfl
@[simp] theorem State.setSess_pends (s : State) (i : Nat) (v : Sess) : (s.setSess i v).pends = s.pends := rfl
@[simp] theorem State.setSess_evicts (s : State) (i : Nat) (v : Sess) : (s.setSess i v).evicts = s.evicts := rfl
@[simp] theorem State.setSess_lostLog (s : State) (i : Nat) (v : Sess) : (s.setSess i v).lostLog = s.lostLog := rfl
@[simp] theorem State.setSess_stackTab (s : State) (i : Nat) (v : Sess) : (s.setSess i v).stackTab = s.stackTab := rfl
@[simp] theorem State.setSess_test (s : State) (i : Nat) (v : Sess) : (s.setSess i v).test = s.test := rfl
@[simp] theorem State.setSess_cont (s : State) (i : Nat) (v : Sess) : (s.setSess i v).cont = s.cont := rfl
@[simp] theorem State.setSess_parts (s : State) (i : Nat) (v : Sess) : (s.setSess i v).parts = s.parts := rfl
@[simp] theorem State.setSess_mover (s : State) (i : Nat) (v : Sess) : (s.setSess i v).mover = s.mover := rfl
@[simp] theorem State.setSess_reels (s : State) (i : Nat) (v : Sess) : (s.setSess i v).reels = s.reels := rfl
@[simp] theorem State.setSess_reseeds (s : State) (i : Nat) (v : Sess) : (s.setSess i v).reseeds = s.reseeds := rfl
@[simp] theorem State.setSess_secLog (s : State) (i : Nat) (v : Sess) : (s.setSess i v).secLog = s.secLog := rfl
@[simp] theorem State.setSess_fligOut (s : State) (i : Nat) (v : Sess) : (s.setSess i v).fligOut = s.fligOut := rfl
@[simp] theorem State.setSess_gaff (s : State) (i : Nat) (v : Sess) : (s.setSess i v).gaff = s.gaff := rfl
@[simp] theorem State.setSess_dailies (s : State) (i : Nat) (v : Sess) : (s.setSess i v).dailies = s.dailies := rfl
@[simp] theorem State.setSess_boot (s : State) (i : Nat) (v : Sess) : (s.setSess i v).boot = s.boot := rfl
@[simp] theorem State.setSess_meter (s : State) (i : Nat) (v : Sess) : (s.setSess i v).meter = s.meter := rfl
@[simp] theorem State.setSess_free (s : State) (i : Nat) (v : Sess) : (s.setSess i v).free = s.free := rfl
@[simp] theorem State.setSess_rd (s : State) (i : Nat) (v : Sess) (j : Nat) : (s.setSess i v).rd j = s.rd j := rfl
@[simp] theorem State.setSess_frame (s : State) (i : Nat) (v : Sess) : (s.setSess i v).frame = s.frame := rfl

/-! ### setCont -/

@[simp] theorem State.setCont_pending (s : State) (c : Continuity) : (s.setCont c).pending = s.pending := rfl
@[simp] theorem State.setCont_regs (s : State) (c : Continuity) : (s.setCont c).regs = s.regs := rfl
@[simp] theorem State.setCont_lag (s : State) (c : Continuity) : (s.setCont c).lag = s.lag := rfl
@[simp] theorem State.setCont_fuses (s : State) (c : Continuity) : (s.setCont c).fuses = s.fuses := rfl
@[simp] theorem State.setCont_fl (s : State) (c : Continuity) : (s.setCont c).fl = s.fl := rfl
@[simp] theorem State.setCont_take (s : State) (c : Continuity) : (s.setCont c).take = s.take := rfl
@[simp] theorem State.setCont_ports (s : State) (c : Continuity) : (s.setCont c).ports = s.ports := rfl
@[simp] theorem State.setCont_links (s : State) (c : Continuity) : (s.setCont c).links = s.links := rfl
@[simp] theorem State.setCont_mesh (s : State) (c : Continuity) : (s.setCont c).mesh = s.mesh := rfl
@[simp] theorem State.setCont_flights (s : State) (c : Continuity) : (s.setCont c).flights = s.flights := rfl
@[simp] theorem State.setCont_meshWait (s : State) (c : Continuity) : (s.setCont c).meshWait = s.meshWait := rfl
@[simp] theorem State.setCont_waiting (s : State) (c : Continuity) : (s.setCont c).waiting = s.waiting := rfl
@[simp] theorem State.setCont_mem (s : State) (c : Continuity) : (s.setCont c).mem = s.mem := rfl
@[simp] theorem State.setCont_errs (s : State) (c : Continuity) : (s.setCont c).errs = s.errs := rfl
@[simp] theorem State.setCont_lineKey (s : State) (c : Continuity) : (s.setCont c).lineKey = s.lineKey := rfl
@[simp] theorem State.setCont_written (s : State) (c : Continuity) : (s.setCont c).written = s.written := rfl
@[simp] theorem State.setCont_tags (s : State) (c : Continuity) : (s.setCont c).tags = s.tags := rfl
@[simp] theorem State.setCont_keyIds (s : State) (c : Continuity) : (s.setCont c).keyIds = s.keyIds := rfl
@[simp] theorem State.setCont_keysDrawn (s : State) (c : Continuity) : (s.setCont c).keysDrawn = s.keysDrawn := rfl
@[simp] theorem State.setCont_erasing (s : State) (c : Continuity) : (s.setCont c).erasing = s.erasing := rfl
@[simp] theorem State.setCont_quarantine (s : State) (c : Continuity) : (s.setCont c).quarantine = s.quarantine := rfl
@[simp] theorem State.setCont_lease (s : State) (c : Continuity) : (s.setCont c).lease = s.lease := rfl
@[simp] theorem State.setCont_pubBy (s : State) (c : Continuity) : (s.setCont c).pubBy = s.pubBy := rfl
@[simp] theorem State.setCont_flips (s : State) (c : Continuity) : (s.setCont c).flips = s.flips := rfl
@[simp] theorem State.setCont_dir (s : State) (c : Continuity) : (s.setCont c).dir = s.dir := rfl
@[simp] theorem State.setCont_dirClock (s : State) (c : Continuity) : (s.setCont c).dirClock = s.dirClock := rfl
@[simp] theorem State.setCont_pends (s : State) (c : Continuity) : (s.setCont c).pends = s.pends := rfl
@[simp] theorem State.setCont_evicts (s : State) (c : Continuity) : (s.setCont c).evicts = s.evicts := rfl
@[simp] theorem State.setCont_lostLog (s : State) (c : Continuity) : (s.setCont c).lostLog = s.lostLog := rfl
@[simp] theorem State.setCont_stackTab (s : State) (c : Continuity) : (s.setCont c).stackTab = s.stackTab := rfl
@[simp] theorem State.setCont_test (s : State) (c : Continuity) : (s.setCont c).test = s.test := rfl
@[simp] theorem State.setCont_parts (s : State) (c : Continuity) : (s.setCont c).parts = s.parts := rfl
@[simp] theorem State.setCont_mover (s : State) (c : Continuity) : (s.setCont c).mover = s.mover := rfl
@[simp] theorem State.setCont_reels (s : State) (c : Continuity) : (s.setCont c).reels = s.reels := rfl
@[simp] theorem State.setCont_reseeds (s : State) (c : Continuity) : (s.setCont c).reseeds = s.reseeds := rfl
@[simp] theorem State.setCont_secLog (s : State) (c : Continuity) : (s.setCont c).secLog = s.secLog := rfl
@[simp] theorem State.setCont_sess (s : State) (c : Continuity) : (s.setCont c).sess = s.sess := rfl
@[simp] theorem State.setCont_fligOut (s : State) (c : Continuity) : (s.setCont c).fligOut = s.fligOut := rfl
@[simp] theorem State.setCont_gaff (s : State) (c : Continuity) : (s.setCont c).gaff = s.gaff := rfl
@[simp] theorem State.setCont_dailies (s : State) (c : Continuity) : (s.setCont c).dailies = s.dailies := rfl
@[simp] theorem State.setCont_boot (s : State) (c : Continuity) : (s.setCont c).boot = s.boot := rfl
@[simp] theorem State.setCont_meter (s : State) (c : Continuity) : (s.setCont c).meter = s.meter := rfl
@[simp] theorem State.setCont_free (s : State) (c : Continuity) : (s.setCont c).free = s.free := rfl
@[simp] theorem State.setCont_rd (s : State) (c : Continuity) (j : Nat) : (s.setCont c).rd j = s.rd j := rfl
@[simp] theorem State.setCont_frame (s : State) (c : Continuity) : (s.setCont c).frame = s.frame := rfl

/-! ### setTake -/

@[simp] theorem State.setTake_pending (s : State) (t : TakeCtl) : (s.setTake t).pending = s.pending := rfl
@[simp] theorem State.setTake_regs (s : State) (t : TakeCtl) : (s.setTake t).regs = s.regs := rfl
@[simp] theorem State.setTake_lag (s : State) (t : TakeCtl) : (s.setTake t).lag = s.lag := rfl
@[simp] theorem State.setTake_fuses (s : State) (t : TakeCtl) : (s.setTake t).fuses = s.fuses := rfl
@[simp] theorem State.setTake_fl (s : State) (t : TakeCtl) : (s.setTake t).fl = s.fl := rfl
@[simp] theorem State.setTake_ports (s : State) (t : TakeCtl) : (s.setTake t).ports = s.ports := rfl
@[simp] theorem State.setTake_links (s : State) (t : TakeCtl) : (s.setTake t).links = s.links := rfl
@[simp] theorem State.setTake_mesh (s : State) (t : TakeCtl) : (s.setTake t).mesh = s.mesh := rfl
@[simp] theorem State.setTake_flights (s : State) (t : TakeCtl) : (s.setTake t).flights = s.flights := rfl
@[simp] theorem State.setTake_meshWait (s : State) (t : TakeCtl) : (s.setTake t).meshWait = s.meshWait := rfl
@[simp] theorem State.setTake_waiting (s : State) (t : TakeCtl) : (s.setTake t).waiting = s.waiting := rfl
@[simp] theorem State.setTake_mem (s : State) (t : TakeCtl) : (s.setTake t).mem = s.mem := rfl
@[simp] theorem State.setTake_errs (s : State) (t : TakeCtl) : (s.setTake t).errs = s.errs := rfl
@[simp] theorem State.setTake_lineKey (s : State) (t : TakeCtl) : (s.setTake t).lineKey = s.lineKey := rfl
@[simp] theorem State.setTake_written (s : State) (t : TakeCtl) : (s.setTake t).written = s.written := rfl
@[simp] theorem State.setTake_tags (s : State) (t : TakeCtl) : (s.setTake t).tags = s.tags := rfl
@[simp] theorem State.setTake_keyIds (s : State) (t : TakeCtl) : (s.setTake t).keyIds = s.keyIds := rfl
@[simp] theorem State.setTake_keysDrawn (s : State) (t : TakeCtl) : (s.setTake t).keysDrawn = s.keysDrawn := rfl
@[simp] theorem State.setTake_erasing (s : State) (t : TakeCtl) : (s.setTake t).erasing = s.erasing := rfl
@[simp] theorem State.setTake_quarantine (s : State) (t : TakeCtl) : (s.setTake t).quarantine = s.quarantine := rfl
@[simp] theorem State.setTake_lease (s : State) (t : TakeCtl) : (s.setTake t).lease = s.lease := rfl
@[simp] theorem State.setTake_pubBy (s : State) (t : TakeCtl) : (s.setTake t).pubBy = s.pubBy := rfl
@[simp] theorem State.setTake_flips (s : State) (t : TakeCtl) : (s.setTake t).flips = s.flips := rfl
@[simp] theorem State.setTake_dir (s : State) (t : TakeCtl) : (s.setTake t).dir = s.dir := rfl
@[simp] theorem State.setTake_dirClock (s : State) (t : TakeCtl) : (s.setTake t).dirClock = s.dirClock := rfl
@[simp] theorem State.setTake_pends (s : State) (t : TakeCtl) : (s.setTake t).pends = s.pends := rfl
@[simp] theorem State.setTake_evicts (s : State) (t : TakeCtl) : (s.setTake t).evicts = s.evicts := rfl
@[simp] theorem State.setTake_lostLog (s : State) (t : TakeCtl) : (s.setTake t).lostLog = s.lostLog := rfl
@[simp] theorem State.setTake_stackTab (s : State) (t : TakeCtl) : (s.setTake t).stackTab = s.stackTab := rfl
@[simp] theorem State.setTake_test (s : State) (t : TakeCtl) : (s.setTake t).test = s.test := rfl
@[simp] theorem State.setTake_cont (s : State) (t : TakeCtl) : (s.setTake t).cont = s.cont := rfl
@[simp] theorem State.setTake_parts (s : State) (t : TakeCtl) : (s.setTake t).parts = s.parts := rfl
@[simp] theorem State.setTake_mover (s : State) (t : TakeCtl) : (s.setTake t).mover = s.mover := rfl
@[simp] theorem State.setTake_reels (s : State) (t : TakeCtl) : (s.setTake t).reels = s.reels := rfl
@[simp] theorem State.setTake_reseeds (s : State) (t : TakeCtl) : (s.setTake t).reseeds = s.reseeds := rfl
@[simp] theorem State.setTake_secLog (s : State) (t : TakeCtl) : (s.setTake t).secLog = s.secLog := rfl
@[simp] theorem State.setTake_sess (s : State) (t : TakeCtl) : (s.setTake t).sess = s.sess := rfl
@[simp] theorem State.setTake_fligOut (s : State) (t : TakeCtl) : (s.setTake t).fligOut = s.fligOut := rfl
@[simp] theorem State.setTake_gaff (s : State) (t : TakeCtl) : (s.setTake t).gaff = s.gaff := rfl
@[simp] theorem State.setTake_dailies (s : State) (t : TakeCtl) : (s.setTake t).dailies = s.dailies := rfl
@[simp] theorem State.setTake_boot (s : State) (t : TakeCtl) : (s.setTake t).boot = s.boot := rfl
@[simp] theorem State.setTake_meter (s : State) (t : TakeCtl) : (s.setTake t).meter = s.meter := rfl
@[simp] theorem State.setTake_free (s : State) (t : TakeCtl) : (s.setTake t).free = s.free := rfl
@[simp] theorem State.setTake_rd (s : State) (t : TakeCtl) (j : Nat) : (s.setTake t).rd j = s.rd j := rfl
@[simp] theorem State.setTake_frame (s : State) (t : TakeCtl) : (s.setTake t).frame = s.frame := rfl

/-! ### updFl -/

@[simp] theorem State.updFl_pending (s : State) (f : FrameLogic → FrameLogic) : (s.updFl f).pending = s.pending := rfl
@[simp] theorem State.updFl_regs (s : State) (f : FrameLogic → FrameLogic) : (s.updFl f).regs = s.regs := rfl
@[simp] theorem State.updFl_lag (s : State) (f : FrameLogic → FrameLogic) : (s.updFl f).lag = s.lag := rfl
@[simp] theorem State.updFl_fuses (s : State) (f : FrameLogic → FrameLogic) : (s.updFl f).fuses = s.fuses := rfl
@[simp] theorem State.updFl_take (s : State) (f : FrameLogic → FrameLogic) : (s.updFl f).take = s.take := rfl
@[simp] theorem State.updFl_ports (s : State) (f : FrameLogic → FrameLogic) : (s.updFl f).ports = s.ports := rfl
@[simp] theorem State.updFl_links (s : State) (f : FrameLogic → FrameLogic) : (s.updFl f).links = s.links := rfl
@[simp] theorem State.updFl_mesh (s : State) (f : FrameLogic → FrameLogic) : (s.updFl f).mesh = s.mesh := rfl
@[simp] theorem State.updFl_flights (s : State) (f : FrameLogic → FrameLogic) : (s.updFl f).flights = s.flights := rfl
@[simp] theorem State.updFl_meshWait (s : State) (f : FrameLogic → FrameLogic) : (s.updFl f).meshWait = s.meshWait := rfl
@[simp] theorem State.updFl_waiting (s : State) (f : FrameLogic → FrameLogic) : (s.updFl f).waiting = s.waiting := rfl
@[simp] theorem State.updFl_mem (s : State) (f : FrameLogic → FrameLogic) : (s.updFl f).mem = s.mem := rfl
@[simp] theorem State.updFl_errs (s : State) (f : FrameLogic → FrameLogic) : (s.updFl f).errs = s.errs := rfl
@[simp] theorem State.updFl_lineKey (s : State) (f : FrameLogic → FrameLogic) : (s.updFl f).lineKey = s.lineKey := rfl
@[simp] theorem State.updFl_written (s : State) (f : FrameLogic → FrameLogic) : (s.updFl f).written = s.written := rfl
@[simp] theorem State.updFl_tags (s : State) (f : FrameLogic → FrameLogic) : (s.updFl f).tags = s.tags := rfl
@[simp] theorem State.updFl_keyIds (s : State) (f : FrameLogic → FrameLogic) : (s.updFl f).keyIds = s.keyIds := rfl
@[simp] theorem State.updFl_keysDrawn (s : State) (f : FrameLogic → FrameLogic) : (s.updFl f).keysDrawn = s.keysDrawn := rfl
@[simp] theorem State.updFl_erasing (s : State) (f : FrameLogic → FrameLogic) : (s.updFl f).erasing = s.erasing := rfl
@[simp] theorem State.updFl_quarantine (s : State) (f : FrameLogic → FrameLogic) : (s.updFl f).quarantine = s.quarantine := rfl
@[simp] theorem State.updFl_lease (s : State) (f : FrameLogic → FrameLogic) : (s.updFl f).lease = s.lease := rfl
@[simp] theorem State.updFl_pubBy (s : State) (f : FrameLogic → FrameLogic) : (s.updFl f).pubBy = s.pubBy := rfl
@[simp] theorem State.updFl_flips (s : State) (f : FrameLogic → FrameLogic) : (s.updFl f).flips = s.flips := rfl
@[simp] theorem State.updFl_dir (s : State) (f : FrameLogic → FrameLogic) : (s.updFl f).dir = s.dir := rfl
@[simp] theorem State.updFl_dirClock (s : State) (f : FrameLogic → FrameLogic) : (s.updFl f).dirClock = s.dirClock := rfl
@[simp] theorem State.updFl_pends (s : State) (f : FrameLogic → FrameLogic) : (s.updFl f).pends = s.pends := rfl
@[simp] theorem State.updFl_evicts (s : State) (f : FrameLogic → FrameLogic) : (s.updFl f).evicts = s.evicts := rfl
@[simp] theorem State.updFl_lostLog (s : State) (f : FrameLogic → FrameLogic) : (s.updFl f).lostLog = s.lostLog := rfl
@[simp] theorem State.updFl_stackTab (s : State) (f : FrameLogic → FrameLogic) : (s.updFl f).stackTab = s.stackTab := rfl
@[simp] theorem State.updFl_test (s : State) (f : FrameLogic → FrameLogic) : (s.updFl f).test = s.test := rfl
@[simp] theorem State.updFl_cont (s : State) (f : FrameLogic → FrameLogic) : (s.updFl f).cont = s.cont := rfl
@[simp] theorem State.updFl_parts (s : State) (f : FrameLogic → FrameLogic) : (s.updFl f).parts = s.parts := rfl
@[simp] theorem State.updFl_mover (s : State) (f : FrameLogic → FrameLogic) : (s.updFl f).mover = s.mover := rfl
@[simp] theorem State.updFl_reels (s : State) (f : FrameLogic → FrameLogic) : (s.updFl f).reels = s.reels := rfl
@[simp] theorem State.updFl_reseeds (s : State) (f : FrameLogic → FrameLogic) : (s.updFl f).reseeds = s.reseeds := rfl
@[simp] theorem State.updFl_secLog (s : State) (f : FrameLogic → FrameLogic) : (s.updFl f).secLog = s.secLog := rfl
@[simp] theorem State.updFl_sess (s : State) (f : FrameLogic → FrameLogic) : (s.updFl f).sess = s.sess := rfl
@[simp] theorem State.updFl_fligOut (s : State) (f : FrameLogic → FrameLogic) : (s.updFl f).fligOut = s.fligOut := rfl
@[simp] theorem State.updFl_gaff (s : State) (f : FrameLogic → FrameLogic) : (s.updFl f).gaff = s.gaff := rfl
@[simp] theorem State.updFl_dailies (s : State) (f : FrameLogic → FrameLogic) : (s.updFl f).dailies = s.dailies := rfl
@[simp] theorem State.updFl_boot (s : State) (f : FrameLogic → FrameLogic) : (s.updFl f).boot = s.boot := rfl
@[simp] theorem State.updFl_meter (s : State) (f : FrameLogic → FrameLogic) : (s.updFl f).meter = s.meter := rfl
@[simp] theorem State.updFl_free (s : State) (f : FrameLogic → FrameLogic) : (s.updFl f).free = s.free := rfl
@[simp] theorem State.updFl_rd (s : State) (f : FrameLogic → FrameLogic) (j : Nat) : (s.updFl f).rd j = s.rd j := rfl
@[simp] theorem State.updFl_frame (s : State) (f : FrameLogic → FrameLogic) : (s.updFl f).frame = s.frame := rfl

/-! ### setMeter -/

@[simp] theorem State.setMeter_pending (s : State) (p f v : Nat) : (s.setMeter p f v).pending = s.pending := rfl
@[simp] theorem State.setMeter_regs (s : State) (p f v : Nat) : (s.setMeter p f v).regs = s.regs := rfl
@[simp] theorem State.setMeter_lag (s : State) (p f v : Nat) : (s.setMeter p f v).lag = s.lag := rfl
@[simp] theorem State.setMeter_fuses (s : State) (p f v : Nat) : (s.setMeter p f v).fuses = s.fuses := rfl
@[simp] theorem State.setMeter_fl (s : State) (p f v : Nat) : (s.setMeter p f v).fl = s.fl := rfl
@[simp] theorem State.setMeter_take (s : State) (p f v : Nat) : (s.setMeter p f v).take = s.take := rfl
@[simp] theorem State.setMeter_ports (s : State) (p f v : Nat) : (s.setMeter p f v).ports = s.ports := rfl
@[simp] theorem State.setMeter_links (s : State) (p f v : Nat) : (s.setMeter p f v).links = s.links := rfl
@[simp] theorem State.setMeter_mesh (s : State) (p f v : Nat) : (s.setMeter p f v).mesh = s.mesh := rfl
@[simp] theorem State.setMeter_flights (s : State) (p f v : Nat) : (s.setMeter p f v).flights = s.flights := rfl
@[simp] theorem State.setMeter_meshWait (s : State) (p f v : Nat) : (s.setMeter p f v).meshWait = s.meshWait := rfl
@[simp] theorem State.setMeter_waiting (s : State) (p f v : Nat) : (s.setMeter p f v).waiting = s.waiting := rfl
@[simp] theorem State.setMeter_mem (s : State) (p f v : Nat) : (s.setMeter p f v).mem = s.mem := rfl
@[simp] theorem State.setMeter_errs (s : State) (p f v : Nat) : (s.setMeter p f v).errs = s.errs := rfl
@[simp] theorem State.setMeter_lineKey (s : State) (p f v : Nat) : (s.setMeter p f v).lineKey = s.lineKey := rfl
@[simp] theorem State.setMeter_written (s : State) (p f v : Nat) : (s.setMeter p f v).written = s.written := rfl
@[simp] theorem State.setMeter_tags (s : State) (p f v : Nat) : (s.setMeter p f v).tags = s.tags := rfl
@[simp] theorem State.setMeter_keyIds (s : State) (p f v : Nat) : (s.setMeter p f v).keyIds = s.keyIds := rfl
@[simp] theorem State.setMeter_keysDrawn (s : State) (p f v : Nat) : (s.setMeter p f v).keysDrawn = s.keysDrawn := rfl
@[simp] theorem State.setMeter_erasing (s : State) (p f v : Nat) : (s.setMeter p f v).erasing = s.erasing := rfl
@[simp] theorem State.setMeter_quarantine (s : State) (p f v : Nat) : (s.setMeter p f v).quarantine = s.quarantine := rfl
@[simp] theorem State.setMeter_lease (s : State) (p f v : Nat) : (s.setMeter p f v).lease = s.lease := rfl
@[simp] theorem State.setMeter_pubBy (s : State) (p f v : Nat) : (s.setMeter p f v).pubBy = s.pubBy := rfl
@[simp] theorem State.setMeter_flips (s : State) (p f v : Nat) : (s.setMeter p f v).flips = s.flips := rfl
@[simp] theorem State.setMeter_dir (s : State) (p f v : Nat) : (s.setMeter p f v).dir = s.dir := rfl
@[simp] theorem State.setMeter_dirClock (s : State) (p f v : Nat) : (s.setMeter p f v).dirClock = s.dirClock := rfl
@[simp] theorem State.setMeter_pends (s : State) (p f v : Nat) : (s.setMeter p f v).pends = s.pends := rfl
@[simp] theorem State.setMeter_evicts (s : State) (p f v : Nat) : (s.setMeter p f v).evicts = s.evicts := rfl
@[simp] theorem State.setMeter_lostLog (s : State) (p f v : Nat) : (s.setMeter p f v).lostLog = s.lostLog := rfl
@[simp] theorem State.setMeter_stackTab (s : State) (p f v : Nat) : (s.setMeter p f v).stackTab = s.stackTab := rfl
@[simp] theorem State.setMeter_test (s : State) (p f v : Nat) : (s.setMeter p f v).test = s.test := rfl
@[simp] theorem State.setMeter_cont (s : State) (p f v : Nat) : (s.setMeter p f v).cont = s.cont := rfl
@[simp] theorem State.setMeter_parts (s : State) (p f v : Nat) : (s.setMeter p f v).parts = s.parts := rfl
@[simp] theorem State.setMeter_mover (s : State) (p f v : Nat) : (s.setMeter p f v).mover = s.mover := rfl
@[simp] theorem State.setMeter_reels (s : State) (p f v : Nat) : (s.setMeter p f v).reels = s.reels := rfl
@[simp] theorem State.setMeter_reseeds (s : State) (p f v : Nat) : (s.setMeter p f v).reseeds = s.reseeds := rfl
@[simp] theorem State.setMeter_secLog (s : State) (p f v : Nat) : (s.setMeter p f v).secLog = s.secLog := rfl
@[simp] theorem State.setMeter_sess (s : State) (p f v : Nat) : (s.setMeter p f v).sess = s.sess := rfl
@[simp] theorem State.setMeter_fligOut (s : State) (p f v : Nat) : (s.setMeter p f v).fligOut = s.fligOut := rfl
@[simp] theorem State.setMeter_gaff (s : State) (p f v : Nat) : (s.setMeter p f v).gaff = s.gaff := rfl
@[simp] theorem State.setMeter_dailies (s : State) (p f v : Nat) : (s.setMeter p f v).dailies = s.dailies := rfl
@[simp] theorem State.setMeter_boot (s : State) (p f v : Nat) : (s.setMeter p f v).boot = s.boot := rfl
@[simp] theorem State.setMeter_free (s : State) (p f v : Nat) : (s.setMeter p f v).free = s.free := rfl
@[simp] theorem State.setMeter_rd (s : State) (p f v : Nat) (j : Nat) : (s.setMeter p f v).rd j = s.rd j := rfl
@[simp] theorem State.setMeter_frame (s : State) (p f v : Nat) : (s.setMeter p f v).frame = s.frame := rfl

/-! ### hold -/

@[simp] theorem State.hold_pending (s : State) (w : Wait) (r : Req) : (s.hold w r).pending = s.pending := rfl
@[simp] theorem State.hold_regs (s : State) (w : Wait) (r : Req) : (s.hold w r).regs = s.regs := rfl
@[simp] theorem State.hold_lag (s : State) (w : Wait) (r : Req) : (s.hold w r).lag = s.lag := rfl
@[simp] theorem State.hold_fuses (s : State) (w : Wait) (r : Req) : (s.hold w r).fuses = s.fuses := rfl
@[simp] theorem State.hold_fl (s : State) (w : Wait) (r : Req) : (s.hold w r).fl = s.fl := rfl
@[simp] theorem State.hold_take (s : State) (w : Wait) (r : Req) : (s.hold w r).take = s.take := rfl
@[simp] theorem State.hold_ports (s : State) (w : Wait) (r : Req) : (s.hold w r).ports = s.ports := rfl
@[simp] theorem State.hold_links (s : State) (w : Wait) (r : Req) : (s.hold w r).links = s.links := rfl
@[simp] theorem State.hold_mesh (s : State) (w : Wait) (r : Req) : (s.hold w r).mesh = s.mesh := rfl
@[simp] theorem State.hold_flights (s : State) (w : Wait) (r : Req) : (s.hold w r).flights = s.flights := rfl
@[simp] theorem State.hold_meshWait (s : State) (w : Wait) (r : Req) : (s.hold w r).meshWait = s.meshWait := rfl
@[simp] theorem State.hold_mem (s : State) (w : Wait) (r : Req) : (s.hold w r).mem = s.mem := rfl
@[simp] theorem State.hold_errs (s : State) (w : Wait) (r : Req) : (s.hold w r).errs = s.errs := rfl
@[simp] theorem State.hold_lineKey (s : State) (w : Wait) (r : Req) : (s.hold w r).lineKey = s.lineKey := rfl
@[simp] theorem State.hold_written (s : State) (w : Wait) (r : Req) : (s.hold w r).written = s.written := rfl
@[simp] theorem State.hold_tags (s : State) (w : Wait) (r : Req) : (s.hold w r).tags = s.tags := rfl
@[simp] theorem State.hold_keyIds (s : State) (w : Wait) (r : Req) : (s.hold w r).keyIds = s.keyIds := rfl
@[simp] theorem State.hold_keysDrawn (s : State) (w : Wait) (r : Req) : (s.hold w r).keysDrawn = s.keysDrawn := rfl
@[simp] theorem State.hold_erasing (s : State) (w : Wait) (r : Req) : (s.hold w r).erasing = s.erasing := rfl
@[simp] theorem State.hold_quarantine (s : State) (w : Wait) (r : Req) : (s.hold w r).quarantine = s.quarantine := rfl
@[simp] theorem State.hold_lease (s : State) (w : Wait) (r : Req) : (s.hold w r).lease = s.lease := rfl
@[simp] theorem State.hold_pubBy (s : State) (w : Wait) (r : Req) : (s.hold w r).pubBy = s.pubBy := rfl
@[simp] theorem State.hold_flips (s : State) (w : Wait) (r : Req) : (s.hold w r).flips = s.flips := rfl
@[simp] theorem State.hold_dir (s : State) (w : Wait) (r : Req) : (s.hold w r).dir = s.dir := rfl
@[simp] theorem State.hold_dirClock (s : State) (w : Wait) (r : Req) : (s.hold w r).dirClock = s.dirClock := rfl
@[simp] theorem State.hold_pends (s : State) (w : Wait) (r : Req) : (s.hold w r).pends = s.pends := rfl
@[simp] theorem State.hold_evicts (s : State) (w : Wait) (r : Req) : (s.hold w r).evicts = s.evicts := rfl
@[simp] theorem State.hold_lostLog (s : State) (w : Wait) (r : Req) : (s.hold w r).lostLog = s.lostLog := rfl
@[simp] theorem State.hold_stackTab (s : State) (w : Wait) (r : Req) : (s.hold w r).stackTab = s.stackTab := rfl
@[simp] theorem State.hold_test (s : State) (w : Wait) (r : Req) : (s.hold w r).test = s.test := rfl
@[simp] theorem State.hold_cont (s : State) (w : Wait) (r : Req) : (s.hold w r).cont = s.cont := rfl
@[simp] theorem State.hold_parts (s : State) (w : Wait) (r : Req) : (s.hold w r).parts = s.parts := rfl
@[simp] theorem State.hold_mover (s : State) (w : Wait) (r : Req) : (s.hold w r).mover = s.mover := rfl
@[simp] theorem State.hold_reels (s : State) (w : Wait) (r : Req) : (s.hold w r).reels = s.reels := rfl
@[simp] theorem State.hold_reseeds (s : State) (w : Wait) (r : Req) : (s.hold w r).reseeds = s.reseeds := rfl
@[simp] theorem State.hold_secLog (s : State) (w : Wait) (r : Req) : (s.hold w r).secLog = s.secLog := rfl
@[simp] theorem State.hold_sess (s : State) (w : Wait) (r : Req) : (s.hold w r).sess = s.sess := rfl
@[simp] theorem State.hold_fligOut (s : State) (w : Wait) (r : Req) : (s.hold w r).fligOut = s.fligOut := rfl
@[simp] theorem State.hold_gaff (s : State) (w : Wait) (r : Req) : (s.hold w r).gaff = s.gaff := rfl
@[simp] theorem State.hold_dailies (s : State) (w : Wait) (r : Req) : (s.hold w r).dailies = s.dailies := rfl
@[simp] theorem State.hold_boot (s : State) (w : Wait) (r : Req) : (s.hold w r).boot = s.boot := rfl
@[simp] theorem State.hold_meter (s : State) (w : Wait) (r : Req) : (s.hold w r).meter = s.meter := rfl
@[simp] theorem State.hold_free (s : State) (w : Wait) (r : Req) : (s.hold w r).free = s.free := rfl
@[simp] theorem State.hold_rd (s : State) (w : Wait) (r : Req) (j : Nat) : (s.hold w r).rd j = s.rd j := rfl
@[simp] theorem State.hold_frame (s : State) (w : Wait) (r : Req) : (s.hold w r).frame = s.frame := rfl

/-! ### dropWaiters -/

@[simp] theorem State.dropWaiters_pending (s : State) (w : Wait) : (s.dropWaiters w).pending = s.pending := rfl
@[simp] theorem State.dropWaiters_regs (s : State) (w : Wait) : (s.dropWaiters w).regs = s.regs := rfl
@[simp] theorem State.dropWaiters_lag (s : State) (w : Wait) : (s.dropWaiters w).lag = s.lag := rfl
@[simp] theorem State.dropWaiters_fuses (s : State) (w : Wait) : (s.dropWaiters w).fuses = s.fuses := rfl
@[simp] theorem State.dropWaiters_fl (s : State) (w : Wait) : (s.dropWaiters w).fl = s.fl := rfl
@[simp] theorem State.dropWaiters_take (s : State) (w : Wait) : (s.dropWaiters w).take = s.take := rfl
@[simp] theorem State.dropWaiters_ports (s : State) (w : Wait) : (s.dropWaiters w).ports = s.ports := rfl
@[simp] theorem State.dropWaiters_links (s : State) (w : Wait) : (s.dropWaiters w).links = s.links := rfl
@[simp] theorem State.dropWaiters_mesh (s : State) (w : Wait) : (s.dropWaiters w).mesh = s.mesh := rfl
@[simp] theorem State.dropWaiters_flights (s : State) (w : Wait) : (s.dropWaiters w).flights = s.flights := rfl
@[simp] theorem State.dropWaiters_meshWait (s : State) (w : Wait) : (s.dropWaiters w).meshWait = s.meshWait := rfl
@[simp] theorem State.dropWaiters_mem (s : State) (w : Wait) : (s.dropWaiters w).mem = s.mem := rfl
@[simp] theorem State.dropWaiters_errs (s : State) (w : Wait) : (s.dropWaiters w).errs = s.errs := rfl
@[simp] theorem State.dropWaiters_lineKey (s : State) (w : Wait) : (s.dropWaiters w).lineKey = s.lineKey := rfl
@[simp] theorem State.dropWaiters_written (s : State) (w : Wait) : (s.dropWaiters w).written = s.written := rfl
@[simp] theorem State.dropWaiters_tags (s : State) (w : Wait) : (s.dropWaiters w).tags = s.tags := rfl
@[simp] theorem State.dropWaiters_keyIds (s : State) (w : Wait) : (s.dropWaiters w).keyIds = s.keyIds := rfl
@[simp] theorem State.dropWaiters_keysDrawn (s : State) (w : Wait) : (s.dropWaiters w).keysDrawn = s.keysDrawn := rfl
@[simp] theorem State.dropWaiters_erasing (s : State) (w : Wait) : (s.dropWaiters w).erasing = s.erasing := rfl
@[simp] theorem State.dropWaiters_quarantine (s : State) (w : Wait) : (s.dropWaiters w).quarantine = s.quarantine := rfl
@[simp] theorem State.dropWaiters_lease (s : State) (w : Wait) : (s.dropWaiters w).lease = s.lease := rfl
@[simp] theorem State.dropWaiters_pubBy (s : State) (w : Wait) : (s.dropWaiters w).pubBy = s.pubBy := rfl
@[simp] theorem State.dropWaiters_flips (s : State) (w : Wait) : (s.dropWaiters w).flips = s.flips := rfl
@[simp] theorem State.dropWaiters_dir (s : State) (w : Wait) : (s.dropWaiters w).dir = s.dir := rfl
@[simp] theorem State.dropWaiters_dirClock (s : State) (w : Wait) : (s.dropWaiters w).dirClock = s.dirClock := rfl
@[simp] theorem State.dropWaiters_pends (s : State) (w : Wait) : (s.dropWaiters w).pends = s.pends := rfl
@[simp] theorem State.dropWaiters_evicts (s : State) (w : Wait) : (s.dropWaiters w).evicts = s.evicts := rfl
@[simp] theorem State.dropWaiters_lostLog (s : State) (w : Wait) : (s.dropWaiters w).lostLog = s.lostLog := rfl
@[simp] theorem State.dropWaiters_stackTab (s : State) (w : Wait) : (s.dropWaiters w).stackTab = s.stackTab := rfl
@[simp] theorem State.dropWaiters_test (s : State) (w : Wait) : (s.dropWaiters w).test = s.test := rfl
@[simp] theorem State.dropWaiters_cont (s : State) (w : Wait) : (s.dropWaiters w).cont = s.cont := rfl
@[simp] theorem State.dropWaiters_parts (s : State) (w : Wait) : (s.dropWaiters w).parts = s.parts := rfl
@[simp] theorem State.dropWaiters_mover (s : State) (w : Wait) : (s.dropWaiters w).mover = s.mover := rfl
@[simp] theorem State.dropWaiters_reels (s : State) (w : Wait) : (s.dropWaiters w).reels = s.reels := rfl
@[simp] theorem State.dropWaiters_reseeds (s : State) (w : Wait) : (s.dropWaiters w).reseeds = s.reseeds := rfl
@[simp] theorem State.dropWaiters_secLog (s : State) (w : Wait) : (s.dropWaiters w).secLog = s.secLog := rfl
@[simp] theorem State.dropWaiters_sess (s : State) (w : Wait) : (s.dropWaiters w).sess = s.sess := rfl
@[simp] theorem State.dropWaiters_fligOut (s : State) (w : Wait) : (s.dropWaiters w).fligOut = s.fligOut := rfl
@[simp] theorem State.dropWaiters_gaff (s : State) (w : Wait) : (s.dropWaiters w).gaff = s.gaff := rfl
@[simp] theorem State.dropWaiters_dailies (s : State) (w : Wait) : (s.dropWaiters w).dailies = s.dailies := rfl
@[simp] theorem State.dropWaiters_boot (s : State) (w : Wait) : (s.dropWaiters w).boot = s.boot := rfl
@[simp] theorem State.dropWaiters_meter (s : State) (w : Wait) : (s.dropWaiters w).meter = s.meter := rfl
@[simp] theorem State.dropWaiters_free (s : State) (w : Wait) : (s.dropWaiters w).free = s.free := rfl
@[simp] theorem State.dropWaiters_rd (s : State) (w : Wait) (j : Nat) : (s.dropWaiters w).rd j = s.rd j := rfl
@[simp] theorem State.dropWaiters_frame (s : State) (w : Wait) : (s.dropWaiters w).frame = s.frame := rfl

/-! ### setLink -/

@[simp] theorem State.setLink_pending (s : State) (p : Nat) (v : Link) : (s.setLink p v).pending = s.pending := rfl
@[simp] theorem State.setLink_regs (s : State) (p : Nat) (v : Link) : (s.setLink p v).regs = s.regs := rfl
@[simp] theorem State.setLink_lag (s : State) (p : Nat) (v : Link) : (s.setLink p v).lag = s.lag := rfl
@[simp] theorem State.setLink_fuses (s : State) (p : Nat) (v : Link) : (s.setLink p v).fuses = s.fuses := rfl
@[simp] theorem State.setLink_fl (s : State) (p : Nat) (v : Link) : (s.setLink p v).fl = s.fl := rfl
@[simp] theorem State.setLink_take (s : State) (p : Nat) (v : Link) : (s.setLink p v).take = s.take := rfl
@[simp] theorem State.setLink_ports (s : State) (p : Nat) (v : Link) : (s.setLink p v).ports = s.ports := rfl
@[simp] theorem State.setLink_mesh (s : State) (p : Nat) (v : Link) : (s.setLink p v).mesh = s.mesh := rfl
@[simp] theorem State.setLink_flights (s : State) (p : Nat) (v : Link) : (s.setLink p v).flights = s.flights := rfl
@[simp] theorem State.setLink_meshWait (s : State) (p : Nat) (v : Link) : (s.setLink p v).meshWait = s.meshWait := rfl
@[simp] theorem State.setLink_waiting (s : State) (p : Nat) (v : Link) : (s.setLink p v).waiting = s.waiting := rfl
@[simp] theorem State.setLink_mem (s : State) (p : Nat) (v : Link) : (s.setLink p v).mem = s.mem := rfl
@[simp] theorem State.setLink_errs (s : State) (p : Nat) (v : Link) : (s.setLink p v).errs = s.errs := rfl
@[simp] theorem State.setLink_lineKey (s : State) (p : Nat) (v : Link) : (s.setLink p v).lineKey = s.lineKey := rfl
@[simp] theorem State.setLink_written (s : State) (p : Nat) (v : Link) : (s.setLink p v).written = s.written := rfl
@[simp] theorem State.setLink_tags (s : State) (p : Nat) (v : Link) : (s.setLink p v).tags = s.tags := rfl
@[simp] theorem State.setLink_keyIds (s : State) (p : Nat) (v : Link) : (s.setLink p v).keyIds = s.keyIds := rfl
@[simp] theorem State.setLink_keysDrawn (s : State) (p : Nat) (v : Link) : (s.setLink p v).keysDrawn = s.keysDrawn := rfl
@[simp] theorem State.setLink_erasing (s : State) (p : Nat) (v : Link) : (s.setLink p v).erasing = s.erasing := rfl
@[simp] theorem State.setLink_quarantine (s : State) (p : Nat) (v : Link) : (s.setLink p v).quarantine = s.quarantine := rfl
@[simp] theorem State.setLink_lease (s : State) (p : Nat) (v : Link) : (s.setLink p v).lease = s.lease := rfl
@[simp] theorem State.setLink_pubBy (s : State) (p : Nat) (v : Link) : (s.setLink p v).pubBy = s.pubBy := rfl
@[simp] theorem State.setLink_flips (s : State) (p : Nat) (v : Link) : (s.setLink p v).flips = s.flips := rfl
@[simp] theorem State.setLink_dir (s : State) (p : Nat) (v : Link) : (s.setLink p v).dir = s.dir := rfl
@[simp] theorem State.setLink_dirClock (s : State) (p : Nat) (v : Link) : (s.setLink p v).dirClock = s.dirClock := rfl
@[simp] theorem State.setLink_pends (s : State) (p : Nat) (v : Link) : (s.setLink p v).pends = s.pends := rfl
@[simp] theorem State.setLink_evicts (s : State) (p : Nat) (v : Link) : (s.setLink p v).evicts = s.evicts := rfl
@[simp] theorem State.setLink_lostLog (s : State) (p : Nat) (v : Link) : (s.setLink p v).lostLog = s.lostLog := rfl
@[simp] theorem State.setLink_stackTab (s : State) (p : Nat) (v : Link) : (s.setLink p v).stackTab = s.stackTab := rfl
@[simp] theorem State.setLink_test (s : State) (p : Nat) (v : Link) : (s.setLink p v).test = s.test := rfl
@[simp] theorem State.setLink_cont (s : State) (p : Nat) (v : Link) : (s.setLink p v).cont = s.cont := rfl
@[simp] theorem State.setLink_parts (s : State) (p : Nat) (v : Link) : (s.setLink p v).parts = s.parts := rfl
@[simp] theorem State.setLink_mover (s : State) (p : Nat) (v : Link) : (s.setLink p v).mover = s.mover := rfl
@[simp] theorem State.setLink_reels (s : State) (p : Nat) (v : Link) : (s.setLink p v).reels = s.reels := rfl
@[simp] theorem State.setLink_reseeds (s : State) (p : Nat) (v : Link) : (s.setLink p v).reseeds = s.reseeds := rfl
@[simp] theorem State.setLink_secLog (s : State) (p : Nat) (v : Link) : (s.setLink p v).secLog = s.secLog := rfl
@[simp] theorem State.setLink_sess (s : State) (p : Nat) (v : Link) : (s.setLink p v).sess = s.sess := rfl
@[simp] theorem State.setLink_fligOut (s : State) (p : Nat) (v : Link) : (s.setLink p v).fligOut = s.fligOut := rfl
@[simp] theorem State.setLink_gaff (s : State) (p : Nat) (v : Link) : (s.setLink p v).gaff = s.gaff := rfl
@[simp] theorem State.setLink_dailies (s : State) (p : Nat) (v : Link) : (s.setLink p v).dailies = s.dailies := rfl
@[simp] theorem State.setLink_boot (s : State) (p : Nat) (v : Link) : (s.setLink p v).boot = s.boot := rfl
@[simp] theorem State.setLink_meter (s : State) (p : Nat) (v : Link) : (s.setLink p v).meter = s.meter := rfl
@[simp] theorem State.setLink_free (s : State) (p : Nat) (v : Link) : (s.setLink p v).free = s.free := rfl
@[simp] theorem State.setLink_rd (s : State) (p : Nat) (v : Link) (j : Nat) : (s.setLink p v).rd j = s.rd j := rfl
@[simp] theorem State.setLink_frame (s : State) (p : Nat) (v : Link) : (s.setLink p v).frame = s.frame := rfl

/-! ### updBoot -/

@[simp] theorem State.updBoot_pending (s : State) (f : Boot → Boot) : (s.updBoot f).pending = s.pending := rfl
@[simp] theorem State.updBoot_regs (s : State) (f : Boot → Boot) : (s.updBoot f).regs = s.regs := rfl
@[simp] theorem State.updBoot_lag (s : State) (f : Boot → Boot) : (s.updBoot f).lag = s.lag := rfl
@[simp] theorem State.updBoot_fuses (s : State) (f : Boot → Boot) : (s.updBoot f).fuses = s.fuses := rfl
@[simp] theorem State.updBoot_fl (s : State) (f : Boot → Boot) : (s.updBoot f).fl = s.fl := rfl
@[simp] theorem State.updBoot_take (s : State) (f : Boot → Boot) : (s.updBoot f).take = s.take := rfl
@[simp] theorem State.updBoot_ports (s : State) (f : Boot → Boot) : (s.updBoot f).ports = s.ports := rfl
@[simp] theorem State.updBoot_links (s : State) (f : Boot → Boot) : (s.updBoot f).links = s.links := rfl
@[simp] theorem State.updBoot_mesh (s : State) (f : Boot → Boot) : (s.updBoot f).mesh = s.mesh := rfl
@[simp] theorem State.updBoot_flights (s : State) (f : Boot → Boot) : (s.updBoot f).flights = s.flights := rfl
@[simp] theorem State.updBoot_meshWait (s : State) (f : Boot → Boot) : (s.updBoot f).meshWait = s.meshWait := rfl
@[simp] theorem State.updBoot_waiting (s : State) (f : Boot → Boot) : (s.updBoot f).waiting = s.waiting := rfl
@[simp] theorem State.updBoot_mem (s : State) (f : Boot → Boot) : (s.updBoot f).mem = s.mem := rfl
@[simp] theorem State.updBoot_errs (s : State) (f : Boot → Boot) : (s.updBoot f).errs = s.errs := rfl
@[simp] theorem State.updBoot_lineKey (s : State) (f : Boot → Boot) : (s.updBoot f).lineKey = s.lineKey := rfl
@[simp] theorem State.updBoot_written (s : State) (f : Boot → Boot) : (s.updBoot f).written = s.written := rfl
@[simp] theorem State.updBoot_tags (s : State) (f : Boot → Boot) : (s.updBoot f).tags = s.tags := rfl
@[simp] theorem State.updBoot_keyIds (s : State) (f : Boot → Boot) : (s.updBoot f).keyIds = s.keyIds := rfl
@[simp] theorem State.updBoot_keysDrawn (s : State) (f : Boot → Boot) : (s.updBoot f).keysDrawn = s.keysDrawn := rfl
@[simp] theorem State.updBoot_erasing (s : State) (f : Boot → Boot) : (s.updBoot f).erasing = s.erasing := rfl
@[simp] theorem State.updBoot_quarantine (s : State) (f : Boot → Boot) : (s.updBoot f).quarantine = s.quarantine := rfl
@[simp] theorem State.updBoot_lease (s : State) (f : Boot → Boot) : (s.updBoot f).lease = s.lease := rfl
@[simp] theorem State.updBoot_pubBy (s : State) (f : Boot → Boot) : (s.updBoot f).pubBy = s.pubBy := rfl
@[simp] theorem State.updBoot_flips (s : State) (f : Boot → Boot) : (s.updBoot f).flips = s.flips := rfl
@[simp] theorem State.updBoot_dir (s : State) (f : Boot → Boot) : (s.updBoot f).dir = s.dir := rfl
@[simp] theorem State.updBoot_dirClock (s : State) (f : Boot → Boot) : (s.updBoot f).dirClock = s.dirClock := rfl
@[simp] theorem State.updBoot_pends (s : State) (f : Boot → Boot) : (s.updBoot f).pends = s.pends := rfl
@[simp] theorem State.updBoot_evicts (s : State) (f : Boot → Boot) : (s.updBoot f).evicts = s.evicts := rfl
@[simp] theorem State.updBoot_lostLog (s : State) (f : Boot → Boot) : (s.updBoot f).lostLog = s.lostLog := rfl
@[simp] theorem State.updBoot_stackTab (s : State) (f : Boot → Boot) : (s.updBoot f).stackTab = s.stackTab := rfl
@[simp] theorem State.updBoot_test (s : State) (f : Boot → Boot) : (s.updBoot f).test = s.test := rfl
@[simp] theorem State.updBoot_cont (s : State) (f : Boot → Boot) : (s.updBoot f).cont = s.cont := rfl
@[simp] theorem State.updBoot_parts (s : State) (f : Boot → Boot) : (s.updBoot f).parts = s.parts := rfl
@[simp] theorem State.updBoot_mover (s : State) (f : Boot → Boot) : (s.updBoot f).mover = s.mover := rfl
@[simp] theorem State.updBoot_reels (s : State) (f : Boot → Boot) : (s.updBoot f).reels = s.reels := rfl
@[simp] theorem State.updBoot_reseeds (s : State) (f : Boot → Boot) : (s.updBoot f).reseeds = s.reseeds := rfl
@[simp] theorem State.updBoot_secLog (s : State) (f : Boot → Boot) : (s.updBoot f).secLog = s.secLog := rfl
@[simp] theorem State.updBoot_sess (s : State) (f : Boot → Boot) : (s.updBoot f).sess = s.sess := rfl
@[simp] theorem State.updBoot_fligOut (s : State) (f : Boot → Boot) : (s.updBoot f).fligOut = s.fligOut := rfl
@[simp] theorem State.updBoot_gaff (s : State) (f : Boot → Boot) : (s.updBoot f).gaff = s.gaff := rfl
@[simp] theorem State.updBoot_dailies (s : State) (f : Boot → Boot) : (s.updBoot f).dailies = s.dailies := rfl
@[simp] theorem State.updBoot_meter (s : State) (f : Boot → Boot) : (s.updBoot f).meter = s.meter := rfl
@[simp] theorem State.updBoot_free (s : State) (f : Boot → Boot) : (s.updBoot f).free = s.free := rfl
@[simp] theorem State.updBoot_rd (s : State) (f : Boot → Boot) (j : Nat) : (s.updBoot f).rd j = s.rd j := rfl
@[simp] theorem State.updBoot_frame (s : State) (f : Boot → Boot) : (s.updBoot f).frame = s.frame := rfl

/-! ### setGaff -/

@[simp] theorem State.setGaff_pending (s : State) (g : Gaffer) : (s.setGaff g).pending = s.pending := rfl
@[simp] theorem State.setGaff_regs (s : State) (g : Gaffer) : (s.setGaff g).regs = s.regs := rfl
@[simp] theorem State.setGaff_lag (s : State) (g : Gaffer) : (s.setGaff g).lag = s.lag := rfl
@[simp] theorem State.setGaff_fuses (s : State) (g : Gaffer) : (s.setGaff g).fuses = s.fuses := rfl
@[simp] theorem State.setGaff_fl (s : State) (g : Gaffer) : (s.setGaff g).fl = s.fl := rfl
@[simp] theorem State.setGaff_take (s : State) (g : Gaffer) : (s.setGaff g).take = s.take := rfl
@[simp] theorem State.setGaff_ports (s : State) (g : Gaffer) : (s.setGaff g).ports = s.ports := rfl
@[simp] theorem State.setGaff_links (s : State) (g : Gaffer) : (s.setGaff g).links = s.links := rfl
@[simp] theorem State.setGaff_mesh (s : State) (g : Gaffer) : (s.setGaff g).mesh = s.mesh := rfl
@[simp] theorem State.setGaff_flights (s : State) (g : Gaffer) : (s.setGaff g).flights = s.flights := rfl
@[simp] theorem State.setGaff_meshWait (s : State) (g : Gaffer) : (s.setGaff g).meshWait = s.meshWait := rfl
@[simp] theorem State.setGaff_waiting (s : State) (g : Gaffer) : (s.setGaff g).waiting = s.waiting := rfl
@[simp] theorem State.setGaff_mem (s : State) (g : Gaffer) : (s.setGaff g).mem = s.mem := rfl
@[simp] theorem State.setGaff_errs (s : State) (g : Gaffer) : (s.setGaff g).errs = s.errs := rfl
@[simp] theorem State.setGaff_lineKey (s : State) (g : Gaffer) : (s.setGaff g).lineKey = s.lineKey := rfl
@[simp] theorem State.setGaff_written (s : State) (g : Gaffer) : (s.setGaff g).written = s.written := rfl
@[simp] theorem State.setGaff_tags (s : State) (g : Gaffer) : (s.setGaff g).tags = s.tags := rfl
@[simp] theorem State.setGaff_keyIds (s : State) (g : Gaffer) : (s.setGaff g).keyIds = s.keyIds := rfl
@[simp] theorem State.setGaff_keysDrawn (s : State) (g : Gaffer) : (s.setGaff g).keysDrawn = s.keysDrawn := rfl
@[simp] theorem State.setGaff_erasing (s : State) (g : Gaffer) : (s.setGaff g).erasing = s.erasing := rfl
@[simp] theorem State.setGaff_quarantine (s : State) (g : Gaffer) : (s.setGaff g).quarantine = s.quarantine := rfl
@[simp] theorem State.setGaff_lease (s : State) (g : Gaffer) : (s.setGaff g).lease = s.lease := rfl
@[simp] theorem State.setGaff_pubBy (s : State) (g : Gaffer) : (s.setGaff g).pubBy = s.pubBy := rfl
@[simp] theorem State.setGaff_flips (s : State) (g : Gaffer) : (s.setGaff g).flips = s.flips := rfl
@[simp] theorem State.setGaff_dir (s : State) (g : Gaffer) : (s.setGaff g).dir = s.dir := rfl
@[simp] theorem State.setGaff_dirClock (s : State) (g : Gaffer) : (s.setGaff g).dirClock = s.dirClock := rfl
@[simp] theorem State.setGaff_pends (s : State) (g : Gaffer) : (s.setGaff g).pends = s.pends := rfl
@[simp] theorem State.setGaff_evicts (s : State) (g : Gaffer) : (s.setGaff g).evicts = s.evicts := rfl
@[simp] theorem State.setGaff_lostLog (s : State) (g : Gaffer) : (s.setGaff g).lostLog = s.lostLog := rfl
@[simp] theorem State.setGaff_stackTab (s : State) (g : Gaffer) : (s.setGaff g).stackTab = s.stackTab := rfl
@[simp] theorem State.setGaff_test (s : State) (g : Gaffer) : (s.setGaff g).test = s.test := rfl
@[simp] theorem State.setGaff_cont (s : State) (g : Gaffer) : (s.setGaff g).cont = s.cont := rfl
@[simp] theorem State.setGaff_parts (s : State) (g : Gaffer) : (s.setGaff g).parts = s.parts := rfl
@[simp] theorem State.setGaff_mover (s : State) (g : Gaffer) : (s.setGaff g).mover = s.mover := rfl
@[simp] theorem State.setGaff_reels (s : State) (g : Gaffer) : (s.setGaff g).reels = s.reels := rfl
@[simp] theorem State.setGaff_reseeds (s : State) (g : Gaffer) : (s.setGaff g).reseeds = s.reseeds := rfl
@[simp] theorem State.setGaff_secLog (s : State) (g : Gaffer) : (s.setGaff g).secLog = s.secLog := rfl
@[simp] theorem State.setGaff_sess (s : State) (g : Gaffer) : (s.setGaff g).sess = s.sess := rfl
@[simp] theorem State.setGaff_fligOut (s : State) (g : Gaffer) : (s.setGaff g).fligOut = s.fligOut := rfl
@[simp] theorem State.setGaff_dailies (s : State) (g : Gaffer) : (s.setGaff g).dailies = s.dailies := rfl
@[simp] theorem State.setGaff_boot (s : State) (g : Gaffer) : (s.setGaff g).boot = s.boot := rfl
@[simp] theorem State.setGaff_meter (s : State) (g : Gaffer) : (s.setGaff g).meter = s.meter := rfl
@[simp] theorem State.setGaff_free (s : State) (g : Gaffer) : (s.setGaff g).free = s.free := rfl
@[simp] theorem State.setGaff_rd (s : State) (g : Gaffer) (j : Nat) : (s.setGaff g).rd j = s.rd j := rfl
@[simp] theorem State.setGaff_frame (s : State) (g : Gaffer) : (s.setGaff g).frame = s.frame := rfl

/-! ### Live elements -/

theorem State.rd_wr (s : State) (k v j : Nat) : (s.wr k v).rd j = if j = k then v else s.rd j := by
  unfold State.rd State.wr
  simp only [Tab.find_set]
  split <;> rfl

@[simp] theorem State.rd_wr_same (s : State) (k v : Nat) : (s.wr k v).rd k = v := by simp [State.rd_wr]

theorem State.rd_wr_other (s : State) (k v j : Nat) (h : j ≠ k) : (s.wr k v).rd j = s.rd j := by simp [State.rd_wr, h]

@[simp] theorem State.wrs_nil (s : State) : s.wrs [] = s := rfl
@[simp] theorem State.wrs_cons (s : State) (e : Nat × Nat) (l : List (Nat × Nat)) : s.wrs (e :: l) = (s.wr e.1 e.2).wrs l := rfl

/-- Writing several live elements changes nothing but live elements. -/
theorem State.wrs_only (l : List (Nat × Nat)) : ∀ s : State, s.wrs l = { s with regs := (s.wrs l).regs } := by
  induction l with
  | nil => intro s; rfl
  | cons e l ih => intro s; rw [State.wrs_cons, ih (s.wr e.1 e.2)]; rfl

/-- An element that none of several writes names keeps its value. -/
theorem State.rd_wrs_other (l : List (Nat × Nat)) (j : Nat) (h : ∀ e ∈ l, e.1 ≠ j) : ∀ s : State, (s.wrs l).rd j = s.rd j := by
  induction l with
  | nil => intro s; rfl
  | cons e l ih =>
    intro s
    rw [State.wrs_cons, ih (fun x hx => h x (List.mem_cons_of_mem _ hx))]
    exact State.rd_wr_other _ _ _ _ (fun e' => h e List.mem_cons_self e'.symm)

/-- A count adds to its element, as far as the element's type holds the sum. -/
theorem State.rd_count (s : State) (k n : Nat) (h : s.rd k + n < 2 ^ (8 * keyBytes k)) : (s.count k n).rd k = s.rd k + n := by
  simp [State.count, h]

theorem State.rd_count_other (s : State) (k n j : Nat) (h : j ≠ k) : (s.count k n).rd j = s.rd j := by
  unfold State.count
  exact State.rd_wr_other _ _ _ _ h

/-- A count changes nothing but live elements. -/
theorem State.count_only (s : State) (k n : Nat) : s.count k n = { s with regs := (s.count k n).regs } := rfl

@[simp] theorem State.count_pending (s : State) (k n : Nat) : (s.count k n).pending = s.pending := rfl
@[simp] theorem State.count_lag (s : State) (k n : Nat) : (s.count k n).lag = s.lag := rfl
@[simp] theorem State.count_fuses (s : State) (k n : Nat) : (s.count k n).fuses = s.fuses := rfl
@[simp] theorem State.count_fl (s : State) (k n : Nat) : (s.count k n).fl = s.fl := rfl
@[simp] theorem State.count_take (s : State) (k n : Nat) : (s.count k n).take = s.take := rfl
@[simp] theorem State.count_ports (s : State) (k n : Nat) : (s.count k n).ports = s.ports := rfl
@[simp] theorem State.count_links (s : State) (k n : Nat) : (s.count k n).links = s.links := rfl
@[simp] theorem State.count_mesh (s : State) (k n : Nat) : (s.count k n).mesh = s.mesh := rfl
@[simp] theorem State.count_flights (s : State) (k n : Nat) : (s.count k n).flights = s.flights := rfl
@[simp] theorem State.count_meshWait (s : State) (k n : Nat) : (s.count k n).meshWait = s.meshWait := rfl
@[simp] theorem State.count_waiting (s : State) (k n : Nat) : (s.count k n).waiting = s.waiting := rfl
@[simp] theorem State.count_mem (s : State) (k n : Nat) : (s.count k n).mem = s.mem := rfl
@[simp] theorem State.count_errs (s : State) (k n : Nat) : (s.count k n).errs = s.errs := rfl
@[simp] theorem State.count_lineKey (s : State) (k n : Nat) : (s.count k n).lineKey = s.lineKey := rfl
@[simp] theorem State.count_written (s : State) (k n : Nat) : (s.count k n).written = s.written := rfl
@[simp] theorem State.count_tags (s : State) (k n : Nat) : (s.count k n).tags = s.tags := rfl
@[simp] theorem State.count_keyIds (s : State) (k n : Nat) : (s.count k n).keyIds = s.keyIds := rfl
@[simp] theorem State.count_keysDrawn (s : State) (k n : Nat) : (s.count k n).keysDrawn = s.keysDrawn := rfl
@[simp] theorem State.count_erasing (s : State) (k n : Nat) : (s.count k n).erasing = s.erasing := rfl
@[simp] theorem State.count_quarantine (s : State) (k n : Nat) : (s.count k n).quarantine = s.quarantine := rfl
@[simp] theorem State.count_lease (s : State) (k n : Nat) : (s.count k n).lease = s.lease := rfl
@[simp] theorem State.count_pubBy (s : State) (k n : Nat) : (s.count k n).pubBy = s.pubBy := rfl
@[simp] theorem State.count_flips (s : State) (k n : Nat) : (s.count k n).flips = s.flips := rfl
@[simp] theorem State.count_dir (s : State) (k n : Nat) : (s.count k n).dir = s.dir := rfl
@[simp] theorem State.count_dirClock (s : State) (k n : Nat) : (s.count k n).dirClock = s.dirClock := rfl
@[simp] theorem State.count_pends (s : State) (k n : Nat) : (s.count k n).pends = s.pends := rfl
@[simp] theorem State.count_evicts (s : State) (k n : Nat) : (s.count k n).evicts = s.evicts := rfl
@[simp] theorem State.count_lostLog (s : State) (k n : Nat) : (s.count k n).lostLog = s.lostLog := rfl
@[simp] theorem State.count_stackTab (s : State) (k n : Nat) : (s.count k n).stackTab = s.stackTab := rfl
@[simp] theorem State.count_test (s : State) (k n : Nat) : (s.count k n).test = s.test := rfl
@[simp] theorem State.count_cont (s : State) (k n : Nat) : (s.count k n).cont = s.cont := rfl
@[simp] theorem State.count_parts (s : State) (k n : Nat) : (s.count k n).parts = s.parts := rfl
@[simp] theorem State.count_mover (s : State) (k n : Nat) : (s.count k n).mover = s.mover := rfl
@[simp] theorem State.count_reels (s : State) (k n : Nat) : (s.count k n).reels = s.reels := rfl
@[simp] theorem State.count_reseeds (s : State) (k n : Nat) : (s.count k n).reseeds = s.reseeds := rfl
@[simp] theorem State.count_secLog (s : State) (k n : Nat) : (s.count k n).secLog = s.secLog := rfl
@[simp] theorem State.count_sess (s : State) (k n : Nat) : (s.count k n).sess = s.sess := rfl
@[simp] theorem State.count_fligOut (s : State) (k n : Nat) : (s.count k n).fligOut = s.fligOut := rfl
@[simp] theorem State.count_gaff (s : State) (k n : Nat) : (s.count k n).gaff = s.gaff := rfl
@[simp] theorem State.count_dailies (s : State) (k n : Nat) : (s.count k n).dailies = s.dailies := rfl
@[simp] theorem State.count_boot (s : State) (k n : Nat) : (s.count k n).boot = s.boot := rfl
@[simp] theorem State.count_meter (s : State) (k n : Nat) : (s.count k n).meter = s.meter := rfl
@[simp] theorem State.count_free (s : State) (k n : Nat) : (s.count k n).free = s.free := rfl

/-! ### Tables of the part's blocks -/

@[simp] theorem State.port_setPort (s : State) (p : Nat) (v : Port) : (s.setPort p v).port p = v := by simp [State.port, State.setPort]
theorem State.port_setPort_other (s : State) (p q : Nat) (v : Port) (h : q ≠ p) : (s.setPort p v).port q = s.port q := by
  simp [State.port, State.setPort, Tab.getD_set_other _ _ _ _ _ h]
@[simp] theorem State.stack_setStack (s : State) (p : Nat) (v : Stack) : (s.setStack p v).stack p = v := by simp [State.stack, State.setStack]
theorem State.stack_setStack_other (s : State) (p q : Nat) (v : Stack) (h : q ≠ p) : (s.setStack p v).stack q = s.stack q := by
  simp [State.stack, State.setStack, Tab.getD_set_other _ _ _ _ _ h]
@[simp] theorem State.router_setRouter (s : State) (p : Nat) (v : MeshTile) : (s.setRouter p v).router p = v := by
  simp [State.router, State.setRouter]
@[simp] theorem State.part_setPart (s : State) (p : Nat) (v : PartCtl) : (s.setPart p v).part p = v := by simp [State.part, State.setPart]
theorem State.part_setPart_other (s : State) (p q : Nat) (v : PartCtl) (h : q ≠ p) : (s.setPart p v).part q = s.part q := by
  simp [State.part, State.setPart, Tab.getD_set_other _ _ _ _ _ h]
@[simp] theorem State.session_setSess (s : State) (i : Nat) (v : Sess) : (s.setSess i v).session i = some v := by
  simp [State.session, State.setSess]
theorem State.session_setSess_other (s : State) (i j : Nat) (v : Sess) (h : j ≠ i) : (s.setSess i v).session j = s.session j := by
  simp [State.session, State.setSess, Tab.find_set_other _ _ _ _ h]
@[simp] theorem State.link_setLink (s : State) (p : Nat) (v : Link) : (s.setLink p v).link p = v := by simp [State.link, State.setLink]
theorem State.link_setLink_other (s : State) (p q : Nat) (v : Link) (h : q ≠ p) : (s.setLink p v).link q = s.link q := by
  simp [State.link, State.setLink, Tab.getD_set_other _ _ _ _ _ h]

end Sys2Proof.Machine
end

