-- ==== Sys2Proof/Laws/Fligifer.lean ====
section
/-!
SUPPORT. Fligifer messages field by field, and what executing a dictionary write leaves.
-/

namespace Sys2Proof.Machine

/-! ### The fields of a message -/

/-- A field that ends before the second part of a byte string lies in the first. -/
theorem beAt_left (a b : List Byte) (i n : Nat) (h : i + n ≤ a.length) : beAt (a ++ b) i n = beAt a i n := by
  unfold beAt
  rw [slice_of_le _ _ _ (by simp; omega), slice_of_le _ _ _ h, List.drop_append_of_le_length (by omega),
    List.take_append_of_le_length (by simp; omega)]

/-- A field that begins after the first part of a byte string lies in the second. -/
theorem beAt_right (a b : List Byte) (i n : Nat) : beAt (a ++ b) (a.length + i) n = beAt b i n := by
  unfold beAt slice
  simp [List.drop_append, List.drop_eq_nil_of_le]

theorem beAt_skip (a b : List Byte) (i k n : Nat) (h : a.length = k) (hi : k ≤ i) : beAt (a ++ b) i n = beAt b (i - k) n := by
  subst h
  have := beAt_right a b (i - a.length) n
  rwa [show a.length + (i - a.length) = i by omega] at this

theorem beAt_head (b c : List Byte) (n : Nat) (hb : b.length = n) : beAt (b ++ c) 0 n = ofBE b := beAt_append [] b c 0 n rfl hb

theorem beAt_toBE (n v : Nat) (c : List Byte) : beAt (toBE n v ++ c) 0 n = v % 2 ^ (8 * n) := by
  rw [beAt_head _ _ _ (by simp), ofBE_toBE]

section
variable (ty seq st : Nat) (body : List Byte)

@[simp] theorem length_fmMsg : (fmMsg ty seq st body).length = 12 + body.length := by simp [fmMsg]; omega

theorem fmType_msg : fmType (fmMsg ty seq st body) = ty % 256 := by
  simp only [fmType, fmMsg, List.append_assoc]
  exact beAt_toBE 1 ty _

theorem fmFlags_msg : fmFlags (fmMsg ty seq st body) = 0 := by
  simp only [fmFlags, fmMsg, List.append_assoc]
  rw [beAt_skip _ _ 1 1 1 (by simp) (by simp)]
  exact beAt_toBE 1 0 _

theorem fmLen_msg : fmLen (fmMsg ty seq st body) = (12 + body.length) % 65536 := by
  simp only [fmLen, fmMsg, List.append_assoc]
  rw [beAt_skip _ _ 2 1 2 (by simp) (by simp), beAt_skip _ _ 1 1 2 (by simp) (by simp)]
  exact beAt_toBE 2 _ _

theorem fmSeq_msg : fmSeq (fmMsg ty seq st body) = seq % 2 ^ 32 := by
  simp only [fmSeq, fmMsg, List.append_assoc]
  rw [beAt_skip _ _ 4 1 4 (by simp) (by simp), beAt_skip _ _ 3 1 4 (by simp) (by simp), beAt_skip _ _ 2 2 4 (by simp) (by simp)]
  exact beAt_toBE 4 _ _

theorem fmRsvd_msg : beAt (fmMsg ty seq st body) 10 2 = 0 := by
  simp only [fmMsg, List.append_assoc]
  rw [beAt_skip _ _ 10 1 2 (by simp) (by simp), beAt_skip _ _ 9 1 2 (by simp) (by simp), beAt_skip _ _ 8 2 2 (by simp) (by simp),
    beAt_skip _ _ 6 4 2 (by simp) (by simp), beAt_skip _ _ 2 2 2 (by simp) (by simp)]
  exact beAt_toBE 2 0 _

/-- A field of the body. -/
theorem beAt_body (i n : Nat) (h : 12 ≤ i) : beAt (fmMsg ty seq st body) i n = beAt body (i - 12) n := by
  unfold fmMsg
  exact beAt_skip _ body i 12 n (by simp) h

theorem drop_body (i : Nat) : (fmMsg ty seq st body).drop (12 + i) = body.drop i := by
  have : fmMsg ty seq st body = (toBE 1 ty ++ toBE 1 0 ++ toBE 2 (12 + body.length) ++ toBE 4 seq ++ toBE 2 st ++ toBE 2 0) ++ body := rfl
  rw [this, List.drop_append]
  simp
end

section
variable (seq idx sub off : Nat) (b : List Byte)

theorem fmWrite_idx (h : idx < 65536) : beAt (fmWrite seq idx sub off b) 12 2 = idx := by
  unfold fmWrite
  rw [beAt_body _ _ _ _ _ _ (by omega)]
  simp only [List.append_assoc]
  rw [show 12 - 12 = 0 from rfl, beAt_toBE]
  exact Nat.mod_eq_of_lt h

theorem fmWrite_sub (h : sub < 256) : beAt (fmWrite seq idx sub off b) 14 1 = sub := by
  unfold fmWrite
  rw [beAt_body _ _ _ _ _ _ (by omega)]
  simp only [List.append_assoc]
  rw [beAt_skip _ _ (14 - 12) 2 1 (by simp) (by simp), show 14 - 12 - 2 = 0 from rfl, beAt_toBE]
  exact Nat.mod_eq_of_lt h

theorem fmWrite_rsvd : beAt (fmWrite seq idx sub off b) 15 1 = 0 := by
  unfold fmWrite
  rw [beAt_body _ _ _ _ _ _ (by omega)]
  simp only [List.append_assoc]
  rw [beAt_skip _ _ (15 - 12) 2 1 (by simp) (by simp), beAt_skip _ _ (15 - 12 - 2) 1 1 (by simp) (by simp), show 15 - 12 - 2 - 1 = 0 from rfl,
    beAt_toBE]
  all_goals exact Nat.zero_mod _

theorem fmWrite_off (h : off < 2 ^ 32) : beAt (fmWrite seq idx sub off b) 16 4 = off := by
  unfold fmWrite
  rw [beAt_body _ _ _ _ _ _ (by omega)]
  simp only [List.append_assoc]
  rw [beAt_skip _ _ (16 - 12) 2 4 (by simp) (by simp), beAt_skip _ _ (16 - 12 - 2) 1 4 (by simp) (by simp),
    beAt_skip _ _ (16 - 12 - 2 - 1) 1 4 (by simp) (by simp), show 16 - 12 - 2 - 1 - 1 = 0 from rfl, beAt_toBE]
  exact Nat.mod_eq_of_lt h

theorem fmWrite_count (h : b.length < 2 ^ 32) : beAt (fmWrite seq idx sub off b) 20 4 = b.length := by
  unfold fmWrite
  rw [beAt_body _ _ _ _ _ _ (by omega)]
  simp only [List.append_assoc]
  rw [beAt_skip _ _ (20 - 12) 2 4 (by simp) (by simp), beAt_skip _ _ (20 - 12 - 2) 1 4 (by simp) (by simp),
    beAt_skip _ _ (20 - 12 - 2 - 1) 1 4 (by simp) (by simp), beAt_skip _ _ (20 - 12 - 2 - 1 - 1) 4 4 (by simp) (by simp),
    show 20 - 12 - 2 - 1 - 1 - 4 = 0 from rfl, beAt_toBE]
  exact Nat.mod_eq_of_lt h

theorem fmWrite_data : (fmWrite seq idx sub off b).drop 24 = b := by
  unfold fmWrite
  rw [show 24 = 12 + 12 from rfl, drop_body]
  rw [List.drop_append_of_le_length (by simp)]
  simp

theorem length_fmWrite : (fmWrite seq idx sub off b).length = 24 + b.length := by
  simp [fmWrite]
  omega
end

/-! ### Executing a message -/

theorem State.sessTouch_session (s : State) (i : Nat) (x : Sess) (h : s.session i = some x) :
    ∃ n, (s.sessTouch i).session i = some { x with stamp := n, lastFrame := s.frame } := by
  unfold State.sessTouch
  rw [h]
  exact ⟨_, State.session_setSess _ _ _⟩

theorem State.sessTouch_rd (s : State) (i j : Nat) : (s.sessTouch i).rd j = s.rd j := by
  unfold State.sessTouch
  split <;> rfl

theorem State.sessTouch_only (s : State) (i : Nat) : s.sessTouch i = { s with sess := (s.sessTouch i).sess } := by
  unfold State.sessTouch
  split <;> rfl

@[simp] theorem State.heard_rd (s : State) (sess t j : Nat) : (s.heard sess t).rd j = s.rd j := by
  unfold State.heard
  split
  · rfl
  · rw [State.sessTouch_rd]; rfl

/-- Hearing a message changes the time and the session table alone. -/
theorem State.heard_only (s : State) (sess t : Nat) :
    s.heard sess t = { s with fl := { s.fl with now := t }, sess := (s.heard sess t).sess } := by
  unfold State.heard
  split
  · rfl
  · rw [State.sessTouch_only]; rfl

theorem State.classOf_heard (s : State) (sess t : Nat) : (s.heard sess t).classOf sess = s.classOf sess := by
  unfold State.heard State.classOf
  split
  · rfl
  · have : (s.at t).session sess = s.session sess := rfl
    cases h : s.session sess with
    | none => simp [State.sessTouch, this, h]
    | some x =>
      obtain ⟨n, hn⟩ := State.sessTouch_session (s.at t) sess x (this.trans h)
      simp [hn]

/-- A message in order, with no reserved bit set, is executed and answered: `r` is what executing it gives. -/
theorem State.fligDeliver_eq (s : State) (sess : Nat) (m : List Byte) (t : Nat) (fw : Bool × Bool)
    (ho : ownSession sess = false) (h : Executes s sess (fmSeq m)) (hm : 12 ≤ m.length) (ht : fmType m ≠ 0x13) (hy : fmType m < 128)
    (hr : fmReserved m = false) :
    s.fligDeliver sess m t fw =
      ((s.heard sess t).fligExec sess m t fw).2.answered sess (fmType m) (fmSeq m) ((s.heard sess t).fligExec sess m t fw).1.1
        ((s.heard sess t).fligExec sess m t fw).1.2 t fw := by
  have hE : s.heard sess t = (s.at t).sessTouch sess := by simp [State.heard, ho]
  rcases h with h | ⟨hs, hq, hf, x, hx, he⟩
  · simp [ho] at h
  obtain ⟨n, hn⟩ := State.sessTouch_session (s.at t) sess x hx
  unfold State.fligDeliver State.fligRecv
  rw [← hE] at hn ⊢
  have hd : (fmSeq m + 2 ^ 32 - x.expect.getD (fmSeq m)) % 2 ^ 32 = 0 := by
    rcases he with he | he <;> simp [he]
  simp only [hn, ht, Nat.not_lt.2 hm, Nat.not_le.2 hs, hd, if_true, if_false]
  have hd : fmRefused m = false := by simp [fmRefused, hr]
  unfold State.fligRun State.answered
  rw [Nat.mod_eq_of_lt hy]
  simp only [hd, Bool.false_eq_true, if_false]
  cases hu : State.session (((s.heard sess t).fligExec sess m t fw).2.count (K.fligiferCounts 0) 1) sess with
  | none => simp [hu, State.fligHeld]
  | some y => simp

/-- A WRITE sets no reserved bit. -/
theorem fmReserved_write (seq idx sub off : Nat) (b : List Byte) : fmReserved (fmWrite seq idx sub off b) = false := by
  have h1 : fmType (fmWrite seq idx sub off b) = 2 := fmType_msg ..
  have hf : fmFlags (fmWrite seq idx sub off b) = 0 := fmFlags_msg ..
  have hr : beAt (fmWrite seq idx sub off b) 10 2 = 0 := fmRsvd_msg ..
  simp [fmReserved, h1, hf, hr, fmWrite_rsvd]

/-- Executing a WRITE in a running part is the dictionary's write. -/
theorem State.fligExec_write (s : State) (sess seq idx sub off : Nat) (b : List Byte) (t : Nat) (fw : Bool × Bool)
    (hf : s.firmState ≠ 0) (hi : idx < 65536) (hs : sub < 256) (ho : off < 2 ^ 32) (hl : 24 + b.length ≤ 4000) :
    s.fligExec sess (fmWrite seq idx sub off b) t fw =
      (((s.dictWrite sess idx sub off b t).1, []), (s.dictWrite sess idx sub off b t).2) := by
  have h1 : fmType (fmWrite seq idx sub off b) = 2 := fmType_msg ..
  have h2 : fmFits (fmWrite seq idx sub off b) = true := by
    have hn : fmLen (fmWrite seq idx sub off b) = 24 + b.length := by
      unfold fmWrite
      rw [fmLen_msg]
      simp
      omega
    have hc : beAt (fmWrite seq idx sub off b) 20 4 = b.length := fmWrite_count _ _ _ _ _ (by omega)
    simp [fmFits, h1, hn, length_fmWrite, hc]
    omega
  have h3 := fmReserved_write seq idx sub off b
  have h4 : fmKnown 2 = true := by decide
  unfold State.fligExec
  simp [hf, h1, h2, h3, h4, fmWrite_idx _ _ _ _ _ hi, fmWrite_sub _ _ _ _ _ hs, fmWrite_off _ _ _ _ _ ho, fmWrite_data]

theorem State.firmState_heard (s : State) (sess t : Nat) : (s.heard sess t).firmState = s.firmState := by
  simp [State.firmState]

/-- A dictionary write that is executed: the effect and status of the write, and the answer. -/
theorem State.regWrite_eq (s : State) (sess seq idx sub off : Nat) (b : List Byte) (t : Nat) (h : Executes s sess seq)
    (hi : idx < 65536) (hs : sub < 256) (ho : off < 2 ^ 32) (hl : 24 + b.length ≤ 4000) :
    s.regWrite sess seq idx sub off b t =
      ((s.heard sess t).dictWrite sess idx sub off b t).2.wrote sess seq ((s.heard sess t).dictWrite sess idx sub off b t).1 t := by
  unfold State.regWrite State.wrote
  rcases h with ⟨ho', hr⟩ | ⟨hb, hq, hf, x, hx, he⟩
  · simp [ho', hr, State.heard]
  · have hw : ownSession sess = false := by simp [ownSession]; omega
    have hseq : fmSeq (fmWrite seq idx sub off b) = seq := by
      unfold fmWrite; rw [fmSeq_msg]; exact Nat.mod_eq_of_lt hq
    have hty : fmType (fmWrite seq idx sub off b) = 2 := fmType_msg ..
    simp only [hw, if_neg, Bool.false_eq_true, not_false_eq_true]
    rw [State.fligDeliver_eq s sess _ t _ hw (by rw [hseq]; exact .inr ⟨hb, hq, hf, x, hx, he⟩) (by rw [length_fmWrite]; omega)
      (by rw [hty]; decide) (by rw [hty]; decide) (fmReserved_write ..),
      State.fligExec_write _ _ _ _ _ _ _ _ _ (by rw [State.firmState_heard]; exact hf) hi hs ho hl, hseq, hty]

end Sys2Proof.Machine
end

