-- ==== Sys2Proof/Laws/DictWrite.lean ====
section
/-!
SUPPORT. When a MANAGER session's write of a whole entry passes the checks of R416, and what it then does.
-/

namespace Sys2Proof.Machine

/-- The one element that a write of a whole value gives. -/
theorem writtenElems_one (d : Desc) (n v : Nat) (hn : 0 < n) (he : d.esz = n) (hb : d.lsb = false) :
    writtenElems d 0 (toBE n v) = [(0, v % 2 ^ (8 * n))] := by
  subst he
  have h1 : d.esz / d.esz = 1 := Nat.div_self hn
  have h2 : beAt (toBE d.esz v) 0 d.esz = v % 2 ^ (8 * d.esz) := by
    have := beAt_toBE d.esz v []
    simpa using this
  simp [writtenElems, h1, hb, List.range_succ, h2]

/-- A MANAGER's write of the whole value `v` of a one-element entry `d`, no RWT entry, with no reserved bit and in range, takes
effect. -/
theorem State.dictWrite_one (s : State) (sess idx sub n v t : Nat) (d : Desc) (hd : Dict.find idx sub = some d)
    (hm : s.classOf sess = 2) (hn : 0 < n) (he : d.esz = n) (hc : d.count = 1) (hb : d.lsb = false) (ha : d.acc = 2 ∨ d.acc = 4)
    (hv : v < 2 ^ (8 * n)) (hr : reservedIn d v = false) (hi : s.inRange d idx v = true)
    (hx : d.base ≠ 0x2400 ∨ sub ≠ 0x0A) (hy : idx ≠ 0x7801 ∨ sub ≠ 1) :
    s.dictWrite sess idx sub 0 (toBE n v) t = s.writeEffect sess d idx (toBE n v) [(0, v)] t := by
  have hw : writtenElems d 0 (toBE n v) = [(0, v)] := by rw [writtenElems_one d n v hn he hb, Nat.mod_eq_of_lt hv]
  have hel : s.elemsOfWrite d idx 0 (toBE n v) = [(0, v)] := by
    unfold State.elemsOfWrite
    rw [if_neg (by omega), if_neg (by simp [he]), hw]
  have hmw : s.mayWrite sess idx sub [(0, v)] = true := by simp [State.mayWrite, hm]
  have hrf : rangeFits d 0 n = true := by
    unfold rangeFits
    subst he
    simp [hc]
    omega
  have hck : s.writeCheck sess idx sub 0 (toBE n v) = none := by
    have ha2 : ¬ d.acc < 2 := by omega
    have ha3 : d.acc ≠ 3 := by omega
    have hx' : ¬ (d.base = 0x2400 ∧ sub = 0x0A ∧
        4096 < ((List.range 4).map (fun v => (Tab.find [(0, v)] v).getD (s.rd (ek idx sub v)))).sum) := by
      rintro ⟨h1, h2, -⟩; rcases hx with h | h <;> contradiction
    unfold State.writeCheck
    simp only [hd, hel, hmw, length_toBE, hrf, Bool.not_true, Bool.false_eq_true, if_false, ha2, List.any_cons, List.any_nil,
      hr, hi, Bool.or_false, ha3, false_and]
    rw [if_neg (by rintro ⟨h1, h2, -⟩; rcases hx with h | h <;> contradiction),
      if_neg (by rintro ⟨h1, h2, -⟩; rcases hy with h | h <;> contradiction)]
  unfold State.dictWrite
  simp only [hd, hck, hel]

/-- The same as a command: the effect and status of the write, and the answer. -/
theorem State.regWrite_one (s : State) (sess seq idx sub n v t : Nat) (d : Desc) (hM : Manages s sess seq)
    (hd : Dict.find idx sub = some d) (h1 : idx < 65536) (h2 : sub < 256) (h3 : n ≤ 3976)
    (hn : 0 < n) (he : d.esz = n) (hc : d.count = 1) (hb : d.lsb = false) (ha : d.acc = 2 ∨ d.acc = 4)
    (hv : v < 2 ^ (8 * n)) (hr : reservedIn d v = false) (hi : (s.heard sess t).inRange d idx v = true)
    (hx : d.base ≠ 0x2400 ∨ sub ≠ 0x0A) (hy : idx ≠ 0x7801 ∨ sub ≠ 1) :
    s.regWrite sess seq idx sub 0 (toBE n v) t =
      ((s.heard sess t).writeEffect sess d idx (toBE n v) [(0, v)] t).2.wrote sess seq
        ((s.heard sess t).writeEffect sess d idx (toBE n v) [(0, v)] t).1 t := by
  have hcl : (s.heard sess t).classOf sess = 2 := (State.classOf_heard ..).trans hM.2
  rw [State.regWrite_eq _ _ _ _ _ _ _ _ hM.1 h1 h2 (by decide) (by simp; omega),
    State.dictWrite_one _ _ _ _ n v t d hd hcl hn he hc hb ha hv hr hi hx hy]

end Sys2Proof.Machine
end

