-- ==== Sys2Proof/Laws/Home.lean ====
section
/-!
SUPPORT. A request that goes to its home at once: the state in which it is served, and the fields of its body.
-/

namespace Sys2Proof.Machine

theorem State.recv_starts (s : State) (port op : Nat) (h : Hdr) (b : List Byte) (n : Nat) (noise : List (Nat × Nat)) (t : Nat)
    (H : Starts s port op h b n t) :
    s.recv port op h b noise t = (s.began port op h b n t).serveData (s.accepted port op h b n t).1 noise t := by
  obtain ⟨h1, h2, h3, -, h6⟩ := H
  unfold State.recv State.arrive
  simp only [h1, h2, Bool.not_true, Bool.false_eq_true, if_false]
  show (s.accepted port op h b n t).2.place (s.accepted port op h b n t).1 noise t = _
  unfold State.place
  have e1 : (s.accepted port op h b n t).1.op = op := rfl
  have e2 : (s.accepted port op h b n t).1.h = h := rfl
  have e4 : (s.accepted port op h b n t).1.port = port := rfl
  rw [e1, e2]
  rw [if_neg (by rintro ⟨a, c⟩; rw [h3 a] at c; exact absurd c (by decide))]
  unfold State.inject State.began
  rw [e1, e2, e4]
  cases hb : noBinding op
  · obtain ⟨h7, h8⟩ := h6 hb
    simp [h7, h8]
  · simp

@[simp] theorem State.useCells_boot (s : State) (p q len : Nat) : (s.useCells p q len).boot = s.boot := by
  unfold State.useCells State.slowUse
  simp only []
  split <;> (try split) <;> rfl

@[simp] theorem State.began_boot (s : State) (port op : Nat) (h : Hdr) (b : List Byte) (n t : Nat) :
    (s.began port op h b n t).boot = s.boot := by
  unfold State.began
  split
  · unfold State.accepted State.accept
    simp only []
    split <;> rfl
  · rw [State.useCells_boot]
    unfold State.accepted State.accept
    simp only []
    split <;> rfl

theorem State.began_service (s : State) (port op : Nat) (h : Hdr) (b : List Byte) (n t : Nat) (H : Starts s port op h b n t) :
    (!(s.began port op h b n t).boot.service && needsService op) = false := by
  have := H.2.2.2.1
  cases hn : needsService op <;> simp_all

theorem State.onResp_matches (s : State) (port op : Nat) (h : Hdr) (t : Nat) (x : PartReq) (f : State → PartReq → State)
    (H : Matches s port op h t x) : s.onResp port op h t f = f (s.at t) x := by
  obtain ⟨h1, h2, h3, h4, h5⟩ := H
  have e : (s.at t).rd (K.portEid port) = s.rd (K.portEid port) := rfl
  unfold State.onResp
  simp [h1, h2, h3, h4, h5, e]

/-! ### Fields of bodies -/

theorem leAt_head (n v : Nat) (c : List Byte) : leAt (toLE n v ++ c) 0 n = v % 2 ^ (8 * n) := by
  unfold leAt
  rw [slice_of_le _ _ _ (by simp)]
  simp only [List.drop_zero]
  rw [List.take_append_of_le_length (by simp), List.take_of_length_le (by simp), ofLE_toLE]

theorem leAt_skip (a b : List Byte) (i k n : Nat) (h : a.length = k) (hi : k ≤ i) : leAt (a ++ b) i n = leAt b (i - k) n := by
  subst h
  unfold leAt slice
  rw [List.drop_append, List.drop_eq_nil_of_le hi, List.nil_append]

theorem leAt_last (n v : Nat) : leAt (toLE n v) 0 n = v % 2 ^ (8 * n) := by simpa using leAt_head n v []

end Sys2Proof.Machine
end

