-- ==== Sys2Proof/Laws/Keep.lean ====
section
/-!
SUPPORT. What every command leaves: the queue of waiting commands, the fuses, and the canonical form of pool memory.
`Keep s t` says so of a state `t` reached from `s`; the files Keep<File>.lean prove it of each operation of
Machine/<File>.lean, and of each meaning.
-/

namespace Sys2Proof

/-- Setting a key keeps other bounds: a key below every listed one stays below. -/
theorem Tab.lt_of_mem_set {α : Type} (t : Tab α) (k : Nat) (v : α) (b : Nat) (hb : b < k) (h : ∀ e ∈ t, b < e.1) :
    ∀ e ∈ Tab.set t k v, b < e.1 := by
  induction t with
  | nil => intro e he; simp only [Tab.set, List.mem_singleton] at he; subst he; exact hb
  | cons x t ih =>
    intro e he
    simp only [Tab.set] at he
    split at he
    · rcases List.mem_cons.1 he with rfl | he
      · exact hb
      · exact h e he
    · split at he
      · rcases List.mem_cons.1 he with rfl | he
        · exact hb
        · exact h e (List.mem_cons_of_mem _ he)
      · rcases List.mem_cons.1 he with rfl | he
        · exact h _ List.mem_cons_self
        · exact ih (fun e he => h e (List.mem_cons_of_mem _ he)) e he

/-- Setting a key keeps the keys rising. -/
theorem Tab.rising_set {α : Type} (t : Tab α) (k : Nat) (v : α) (h : t.Pairwise (fun a b => a.1 < b.1)) :
    (Tab.set t k v).Pairwise (fun a b => a.1 < b.1) := by
  induction t with
  | nil => exact List.pairwise_singleton _ _
  | cons x t ih =>
    rcases List.pairwise_cons.1 h with ⟨hx, ht⟩
    simp only [Tab.set]
    split
    · rename_i hk
      refine List.pairwise_cons.2 ⟨?_, h⟩
      intro e he
      rcases List.mem_cons.1 he with rfl | he
      · exact hk
      · exact Nat.lt_trans hk (hx e he)
    · split
      · rename_i hk
        subst hk
        exact List.pairwise_cons.2 ⟨hx, ht⟩
      · rename_i h1 h2
        refine List.pairwise_cons.2 ⟨?_, ih ht⟩
        exact Tab.lt_of_mem_set t k v x.1 (by omega) hx

/-- What a table holds after a key is set. -/
theorem Tab.mem_set {α : Type} (t : Tab α) (k : Nat) (v : α) (e : Nat × α) (h : e ∈ Tab.set t k v) : e = (k, v) ∨ e ∈ t := by
  induction t with
  | nil => exact .inl (List.mem_singleton.1 h)
  | cons x t ih =>
    simp only [Tab.set] at h
    split at h
    · rcases List.mem_cons.1 h with rfl | h
      · exact .inl rfl
      · exact .inr h
    · split at h
      · rcases List.mem_cons.1 h with rfl | h
        · exact .inl rfl
        · exact .inr (List.mem_cons_of_mem _ h)
      · rcases List.mem_cons.1 h with rfl | h
        · exact .inr List.mem_cons_self
        · rcases ih h with h | h
          · exact .inl h
          · exact .inr (List.mem_cons_of_mem _ h)

namespace Machine

/-- Writing a byte keeps the canonical form. -/
theorem memPut_wf (m : List Host.Cell) (a : Nat) (b : Byte) (h : Memory.wf m) : Memory.wf (memPut m a b) := by
  have hr : m.Pairwise (fun a b => a.1 < b.1) := List.pairwise_map.1 h.1
  unfold memPut
  split
  · refine ⟨List.pairwise_map.2 (hr.filter _), fun c hc => h.2 c (List.mem_filter.1 hc).1⟩
  · rename_i hb
    refine ⟨List.pairwise_map.2 (Tab.rising_set m a b hr), fun c hc => ?_⟩
    rcases Tab.mem_set m a b c hc with rfl | hc
    · exact hb
    · exact h.2 c hc

/-- Writing bytes keeps the canonical form. -/
theorem memPuts_wf (d : List Byte) : ∀ (m : List Host.Cell) (a : Nat), Memory.wf m → Memory.wf (memPuts m a d) := by
  induction d with
  | nil => intro m a h; exact h
  | cons b d ih => intro m a h; exact ih _ _ (memPut_wf m a b h)

/-- Removing bytes keeps the canonical form. -/
theorem filter_wf (m : List Host.Cell) (f : Host.Cell → Bool) (h : Memory.wf m) : Memory.wf (m.filter f) := by
  have hr : m.Pairwise (fun a b => a.1 < b.1) := List.pairwise_map.1 h.1
  exact ⟨List.pairwise_map.2 (hr.filter _), fun c hc => h.2 c (List.mem_filter.1 hc).1⟩

/-- What every command leaves of a state. -/
structure Keep (s t : State) : Prop where
  /-- The queue of waiting commands. -/
  pending : t.pending = s.pending
  /-- The fuses. -/
  fuses : t.fuses = s.fuses
  /-- The canonical form of pool memory. -/
  mem : Memory.wf s.mem → Memory.wf t.mem

theorem Keep.refl (s : State) : Keep s s := ⟨rfl, rfl, id⟩

theorem Keep.trans {s t u : State} (h : Keep s t) (k : Keep t u) : Keep s u :=
  ⟨k.pending.trans h.pending, k.fuses.trans h.fuses, fun m => k.mem (h.mem m)⟩

/-- A state that shares the three with one that keeps them. -/
theorem Keep.upd {s t u : State} (h : Keep s t) (hp : u.pending = t.pending) (hf : u.fuses = t.fuses) (hm : u.mem = t.mem) :
    Keep s u := ⟨hp.trans h.pending, hf.trans h.fuses, fun m => hm ▸ h.mem m⟩

/-- A record update that leaves the three. -/
theorem Keep.mk_iff {s t : State}
    (regs : Tab Nat)
    (lag : Tab Nat)
    (fl : FrameLogic)
    (take : TakeCtl)
    (ports : Tab Port)
    (links : Tab Link)
    (mesh : Tab MeshTile)
    (flights : List Flight)
    (meshWait : List MeshPkt)
    (waiting : List (Wait × Req))
    (errs : Tab Nat)
    (lineKey : Tab Nat)
    (written : List Nat)
    (tags : Tab Nat)
    (keyIds : Tab Nat)
    (keysDrawn : Nat)
    (erasing : Tab Nat)
    (quarantine : Tab Nat)
    (lease : LeaseCtl)
    (pubBy : Tab Nat)
    (flips : List Flip)
    (dir : Tab DirEnt)
    (dirClock : Nat)
    (pends : Tab Pend)
    (evicts : Tab Evict)
    (lostLog : Tab (List Nat))
    (stackTab : Tab Stack)
    (test : Option TestOp)
    (cont : Continuity)
    (parts : Tab PartCtl)
    (mover : Mover)
    (reels : Reels)
    (reseeds : Tab Nat)
    (secLog : List Nat)
    (sess : Tab Sess)
    (fligOut : List (Nat × List Byte))
    (gaff : Gaffer)
    (dailies : Dailies)
    (boot : Boot)
    (meter : Tab Nat)
    (free : Nat) :
    Keep s { t with regs := regs, lag := lag, fl := fl, take := take, ports := ports, links := links, mesh := mesh, flights := flights, meshWait := meshWait, waiting := waiting, errs := errs, lineKey := lineKey, written := written, tags := tags, keyIds := keyIds, keysDrawn := keysDrawn, erasing := erasing, quarantine := quarantine, lease := lease, pubBy := pubBy, flips := flips, dir := dir, dirClock := dirClock, pends := pends, evicts := evicts, lostLog := lostLog, stackTab := stackTab, test := test, cont := cont, parts := parts, mover := mover, reels := reels, reseeds := reseeds, secLog := secLog, sess := sess, fligOut := fligOut, gaff := gaff, dailies := dailies, boot := boot, meter := meter, free := free } ↔ Keep s t :=
  ⟨fun h => ⟨h.pending, h.fuses, h.mem⟩, fun h => ⟨h.pending, h.fuses, h.mem⟩⟩

/-- A record update that writes bytes of memory. -/
theorem Keep.puts {s t : State} (a : Nat) (d : List Byte)
    (regs : Tab Nat)
    (lag : Tab Nat)
    (fl : FrameLogic)
    (take : TakeCtl)
    (ports : Tab Port)
    (links : Tab Link)
    (mesh : Tab MeshTile)
    (flights : List Flight)
    (meshWait : List MeshPkt)
    (waiting : List (Wait × Req))
    (errs : Tab Nat)
    (lineKey : Tab Nat)
    (written : List Nat)
    (tags : Tab Nat)
    (keyIds : Tab Nat)
    (keysDrawn : Nat)
    (erasing : Tab Nat)
    (quarantine : Tab Nat)
    (lease : LeaseCtl)
    (pubBy : Tab Nat)
    (flips : List Flip)
    (dir : Tab DirEnt)
    (dirClock : Nat)
    (pends : Tab Pend)
    (evicts : Tab Evict)
    (lostLog : Tab (List Nat))
    (stackTab : Tab Stack)
    (test : Option TestOp)
    (cont : Continuity)
    (parts : Tab PartCtl)
    (mover : Mover)
    (reels : Reels)
    (reseeds : Tab Nat)
    (secLog : List Nat)
    (sess : Tab Sess)
    (fligOut : List (Nat × List Byte))
    (gaff : Gaffer)
    (dailies : Dailies)
    (boot : Boot)
    (meter : Tab Nat)
    (free : Nat) (h : Keep s t) :
    Keep s { t with mem := memPuts t.mem a d, regs := regs, lag := lag, fl := fl, take := take, ports := ports, links := links, mesh := mesh, flights := flights, meshWait := meshWait, waiting := waiting, errs := errs, lineKey := lineKey, written := written, tags := tags, keyIds := keyIds, keysDrawn := keysDrawn, erasing := erasing, quarantine := quarantine, lease := lease, pubBy := pubBy, flips := flips, dir := dir, dirClock := dirClock, pends := pends, evicts := evicts, lostLog := lostLog, stackTab := stackTab, test := test, cont := cont, parts := parts, mover := mover, reels := reels, reseeds := reseeds, secLog := secLog, sess := sess, fligOut := fligOut, gaff := gaff, dailies := dailies, boot := boot, meter := meter, free := free } :=
  ⟨h.pending, h.fuses, fun m => memPuts_wf _ _ _ (h.mem m)⟩

/-- A record update that removes bytes of memory. -/
theorem Keep.filt {s t : State} (p : Host.Cell → Bool)
    (regs : Tab Nat)
    (lag : Tab Nat)
    (fl : FrameLogic)
    (take : TakeCtl)
    (ports : Tab Port)
    (links : Tab Link)
    (mesh : Tab MeshTile)
    (flights : List Flight)
    (meshWait : List MeshPkt)
    (waiting : List (Wait × Req))
    (errs : Tab Nat)
    (lineKey : Tab Nat)
    (written : List Nat)
    (tags : Tab Nat)
    (keyIds : Tab Nat)
    (keysDrawn : Nat)
    (erasing : Tab Nat)
    (quarantine : Tab Nat)
    (lease : LeaseCtl)
    (pubBy : Tab Nat)
    (flips : List Flip)
    (dir : Tab DirEnt)
    (dirClock : Nat)
    (pends : Tab Pend)
    (evicts : Tab Evict)
    (lostLog : Tab (List Nat))
    (stackTab : Tab Stack)
    (test : Option TestOp)
    (cont : Continuity)
    (parts : Tab PartCtl)
    (mover : Mover)
    (reels : Reels)
    (reseeds : Tab Nat)
    (secLog : List Nat)
    (sess : Tab Sess)
    (fligOut : List (Nat × List Byte))
    (gaff : Gaffer)
    (dailies : Dailies)
    (boot : Boot)
    (meter : Tab Nat)
    (free : Nat) (h : Keep s t) :
    Keep s { t with mem := t.mem.filter p, regs := regs, lag := lag, fl := fl, take := take, ports := ports, links := links, mesh := mesh, flights := flights, meshWait := meshWait, waiting := waiting, errs := errs, lineKey := lineKey, written := written, tags := tags, keyIds := keyIds, keysDrawn := keysDrawn, erasing := erasing, quarantine := quarantine, lease := lease, pubBy := pubBy, flips := flips, dir := dir, dirClock := dirClock, pends := pends, evicts := evicts, lostLog := lostLog, stackTab := stackTab, test := test, cont := cont, parts := parts, mover := mover, reels := reels, reseeds := reseeds, secLog := secLog, sess := sess, fligOut := fligOut, gaff := gaff, dailies := dailies, boot := boot, meter := meter, free := free } :=
  ⟨h.pending, h.fuses, fun m => filter_wf _ _ (h.mem m)⟩

theorem Keep.foldl {α : Type} {s t : State} (l : List α) (f : State → α → State) (h : Keep s t)
    (hf : ∀ u x, Keep s u → Keep s (f u x)) : Keep s (l.foldl f t) := by
  induction l generalizing t with
  | nil => exact h
  | cons x l ih => exact ih (hf _ _ h)

theorem Keep.foldl2 {α β : Type} {s : State} (l : List α) (f : β × State → α → β × State) (r : β × State) (h : Keep s r.2)
    (hf : ∀ u x, Keep s u.2 → Keep s (f u x).2) : Keep s (l.foldl f r).2 := by
  induction l generalizing r with
  | nil => exact h
  | cons x l ih => exact ih _ (hf _ _ h)

theorem Keep.foldl3 {α β γ : Type} {s : State} (l : List α) (f : β × γ × State → α → β × γ × State) (r : β × γ × State)
    (h : Keep s r.2.2) (hf : ∀ u x, Keep s u.2.2 → Keep s (f u x).2.2) : Keep s (l.foldl f r).2.2 := by
  induction l generalizing r with
  | nil => exact h
  | cons x l ih => exact ih _ (hf _ _ h)

theorem Keep.ite {s a b : State} {c : Prop} [Decidable c] (ha : c → Keep s a) (hb : ¬c → Keep s b) :
    Keep s (if c then a else b) := by
  split
  · rename_i h; exact ha h
  · rename_i h; exact hb h

theorem Keep.ite2 {α : Type} {s : State} {a b : α × State} {c : Prop} [Decidable c] (ha : c → Keep s a.2) (hb : ¬c → Keep s b.2) :
    Keep s (if c then a else b).2 := by
  split
  · rename_i h; exact ha h
  · rename_i h; exact hb h

theorem Keep.ite3 {α β : Type} {s : State} {a b : α × β × State} {c : Prop} [Decidable c] (ha : c → Keep s a.2.2)
    (hb : ¬c → Keep s b.2.2) : Keep s (if c then a else b).2.2 := by
  split
  · rename_i h; exact ha h
  · rename_i h; exact hb h

theorem Keep.of_eq2 {α : Type} {s t : State} {r : α × State} {a : α} (e : r = (a, t)) (h : Keep s r.2) : Keep s t := by
  subst e; exact h

theorem Keep.of_eq3 {α β : Type} {s t : State} {r : α × β × State} {a : α} {b : β} (e : r = (a, b, t)) (h : Keep s r.2.2) :
    Keep s t := by
  subst e; exact h

end Machine
end Sys2Proof
end

