-- ==== Sys2Proof/Laws/KeepOps.lean ====
section
/-!
SUPPORT. The operations and meanings of Machine/Ops.lean keep the queue, the fuses and the form of memory.
-/

namespace Sys2Proof.Machine

theorem State.wr_keep {s0 : State} (s : State) (k v : Nat) (hk : Keep s0 s) : Keep s0 (State.wr s k v) := by
  unfold State.wr
  repeat' (first | with_reducible (first | assumption | exact Keep.refl _ | apply Keep.ite | apply Keep.ite2 | apply Keep.ite3 | intro _ | apply Keep.foldl3 | apply Keep.foldl2 | apply Keep.foldl | (intro _ _ _) | (intro _ _)) | dsimp only | dsimp only [id] | simp only [Keep.mk_iff] | split | with_reducible refine Keep.of_eq2 (by assumption) ?_ | with_reducible refine Keep.of_eq3 (by assumption) ?_)

theorem State.wrLag_keep {s0 : State} (s : State) (k v : Nat) (hk : Keep s0 s) : Keep s0 (State.wrLag s k v) := by
  unfold State.wrLag
  repeat' (first | with_reducible (first | assumption | exact Keep.refl _ | apply Keep.ite | apply Keep.ite2 | apply Keep.ite3 | intro _ | apply Keep.foldl3 | apply Keep.foldl2 | apply Keep.foldl | (intro _ _ _) | (intro _ _)) | dsimp only | dsimp only [id] | simp only [Keep.mk_iff] | split | with_reducible refine Keep.of_eq2 (by assumption) ?_ | with_reducible refine Keep.of_eq3 (by assumption) ?_)

theorem State.wrs_keep {s0 : State} (s : State) (l : List (Nat × Nat)) (hk : Keep s0 s) : Keep s0 (State.wrs s l) := by
  unfold State.wrs
  repeat' (first | with_reducible (first | assumption | exact Keep.refl _ | apply Keep.ite | apply Keep.ite2 | apply Keep.ite3 | intro _ | apply State.wr_keep | apply Keep.foldl3 | apply Keep.foldl2 | apply Keep.foldl | (intro _ _ _) | (intro _ _)) | dsimp only | dsimp only [id] | simp only [Keep.mk_iff] | split | with_reducible refine Keep.of_eq2 (by assumption) ?_ | with_reducible refine Keep.of_eq3 (by assumption) ?_)

theorem State.count_keep {s0 : State} (s : State) (k n : Nat) (hk : Keep s0 s) : Keep s0 (State.count s k n) := by
  unfold State.count
  repeat' (first | with_reducible (first | assumption | exact Keep.refl _ | apply Keep.ite | apply Keep.ite2 | apply Keep.ite3 | intro _ | apply State.wr_keep | apply Keep.foldl3 | apply Keep.foldl2 | apply Keep.foldl | (intro _ _ _) | (intro _ _)) | dsimp only | dsimp only [id] | simp only [Keep.mk_iff] | split | with_reducible refine Keep.of_eq2 (by assumption) ?_ | with_reducible refine Keep.of_eq3 (by assumption) ?_)

theorem State.draw_keep {s0 : State} (s : State) (bound : Nat) (hk : Keep s0 s) : Keep s0 (State.draw s bound).2 := by
  unfold State.draw
  repeat' (first | with_reducible (first | assumption | exact Keep.refl _ | apply Keep.ite | apply Keep.ite2 | apply Keep.ite3 | intro _ | apply Keep.foldl3 | apply Keep.foldl2 | apply Keep.foldl | (intro _ _ _) | (intro _ _)) | dsimp only | dsimp only [id] | simp only [Keep.mk_iff] | split | with_reducible refine Keep.of_eq2 (by assumption) ?_ | with_reducible refine Keep.of_eq3 (by assumption) ?_)

theorem State.at_keep {s0 : State} (s : State) (t : Nat) (hk : Keep s0 s) : Keep s0 (State.at s t) := by
  unfold State.at
  repeat' (first | with_reducible (first | assumption | exact Keep.refl _ | apply Keep.ite | apply Keep.ite2 | apply Keep.ite3 | intro _ | apply Keep.foldl3 | apply Keep.foldl2 | apply Keep.foldl | (intro _ _ _) | (intro _ _)) | dsimp only | dsimp only [id] | simp only [Keep.mk_iff] | split | with_reducible refine Keep.of_eq2 (by assumption) ?_ | with_reducible refine Keep.of_eq3 (by assumption) ?_)

theorem State.setPort_keep {s0 : State} (s : State) (p : Nat) (v : Port) (hk : Keep s0 s) : Keep s0 (State.setPort s p v) := by
  unfold State.setPort
  repeat' (first | with_reducible (first | assumption | exact Keep.refl _ | apply Keep.ite | apply Keep.ite2 | apply Keep.ite3 | intro _ | apply Keep.foldl3 | apply Keep.foldl2 | apply Keep.foldl | (intro _ _ _) | (intro _ _)) | dsimp only | dsimp only [id] | simp only [Keep.mk_iff] | split | with_reducible refine Keep.of_eq2 (by assumption) ?_ | with_reducible refine Keep.of_eq3 (by assumption) ?_)

theorem State.updPort_keep {s0 : State} (s : State) (p : Nat) (f : Port → Port) (hk : Keep s0 s) : Keep s0 (State.updPort s p f) := by
  unfold State.updPort
  repeat' (first | with_reducible (first | assumption | exact Keep.refl _ | apply Keep.ite | apply Keep.ite2 | apply Keep.ite3 | intro _ | apply State.setPort_keep | apply Keep.foldl3 | apply Keep.foldl2 | apply Keep.foldl | (intro _ _ _) | (intro _ _)) | dsimp only | dsimp only [id] | simp only [Keep.mk_iff] | split | with_reducible refine Keep.of_eq2 (by assumption) ?_ | with_reducible refine Keep.of_eq3 (by assumption) ?_)

theorem State.setStack_keep {s0 : State} (s : State) (t : Nat) (v : Stack) (hk : Keep s0 s) : Keep s0 (State.setStack s t v) := by
  unfold State.setStack
  repeat' (first | with_reducible (first | assumption | exact Keep.refl _ | apply Keep.ite | apply Keep.ite2 | apply Keep.ite3 | intro _ | apply Keep.foldl3 | apply Keep.foldl2 | apply Keep.foldl | (intro _ _ _) | (intro _ _)) | dsimp only | dsimp only [id] | simp only [Keep.mk_iff] | split | with_reducible refine Keep.of_eq2 (by assumption) ?_ | with_reducible refine Keep.of_eq3 (by assumption) ?_)

theorem State.updStack_keep {s0 : State} (s : State) (t : Nat) (f : Stack → Stack) (hk : Keep s0 s) : Keep s0 (State.updStack s t f) := by
  unfold State.updStack
  repeat' (first | with_reducible (first | assumption | exact Keep.refl _ | apply Keep.ite | apply Keep.ite2 | apply Keep.ite3 | intro _ | apply State.setStack_keep | apply Keep.foldl3 | apply Keep.foldl2 | apply Keep.foldl | (intro _ _ _) | (intro _ _)) | dsimp only | dsimp only [id] | simp only [Keep.mk_iff] | split | with_reducible refine Keep.of_eq2 (by assumption) ?_ | with_reducible refine Keep.of_eq3 (by assumption) ?_)

theorem State.setRouter_keep {s0 : State} (s : State) (t : Nat) (v : MeshTile) (hk : Keep s0 s) : Keep s0 (State.setRouter s t v) := by
  unfold State.setRouter
  repeat' (first | with_reducible (first | assumption | exact Keep.refl _ | apply Keep.ite | apply Keep.ite2 | apply Keep.ite3 | intro _ | apply Keep.foldl3 | apply Keep.foldl2 | apply Keep.foldl | (intro _ _ _) | (intro _ _)) | dsimp only | dsimp only [id] | simp only [Keep.mk_iff] | split | with_reducible refine Keep.of_eq2 (by assumption) ?_ | with_reducible refine Keep.of_eq3 (by assumption) ?_)

theorem State.slowUse_keep {s0 : State} (s : State) (t n : Nat) (hk : Keep s0 s) : Keep s0 (State.slowUse s t n) := by
  unfold State.slowUse
  repeat' (first | with_reducible (first | assumption | exact Keep.refl _ | apply Keep.ite | apply Keep.ite2 | apply Keep.ite3 | intro _ | apply State.setRouter_keep | apply Keep.foldl3 | apply Keep.foldl2 | apply Keep.foldl | (intro _ _ _) | (intro _ _)) | dsimp only | dsimp only [id] | simp only [Keep.mk_iff] | split | with_reducible refine Keep.of_eq2 (by assumption) ?_ | with_reducible refine Keep.of_eq3 (by assumption) ?_)

theorem State.setPart_keep {s0 : State} (s : State) (p : Nat) (v : PartCtl) (hk : Keep s0 s) : Keep s0 (State.setPart s p v) := by
  unfold State.setPart
  repeat' (first | with_reducible (first | assumption | exact Keep.refl _ | apply Keep.ite | apply Keep.ite2 | apply Keep.ite3 | intro _ | apply Keep.foldl3 | apply Keep.foldl2 | apply Keep.foldl | (intro _ _ _) | (intro _ _)) | dsimp only | dsimp only [id] | simp only [Keep.mk_iff] | split | with_reducible refine Keep.of_eq2 (by assumption) ?_ | with_reducible refine Keep.of_eq3 (by assumption) ?_)

theorem State.setPend_keep {s0 : State} (s : State) (ln : Nat) (v : Pend) (hk : Keep s0 s) : Keep s0 (State.setPend s ln v) := by
  unfold State.setPend
  repeat' (first | with_reducible (first | assumption | exact Keep.refl _ | apply Keep.ite | apply Keep.ite2 | apply Keep.ite3 | intro _ | apply Keep.foldl3 | apply Keep.foldl2 | apply Keep.foldl | (intro _ _ _) | (intro _ _)) | dsimp only | dsimp only [id] | simp only [Keep.mk_iff] | split | with_reducible refine Keep.of_eq2 (by assumption) ?_ | with_reducible refine Keep.of_eq3 (by assumption) ?_)

theorem State.setSess_keep {s0 : State} (s : State) (i : Nat) (v : Sess) (hk : Keep s0 s) : Keep s0 (State.setSess s i v) := by
  unfold State.setSess
  repeat' (first | with_reducible (first | assumption | exact Keep.refl _ | apply Keep.ite | apply Keep.ite2 | apply Keep.ite3 | intro _ | apply Keep.foldl3 | apply Keep.foldl2 | apply Keep.foldl | (intro _ _ _) | (intro _ _)) | dsimp only | dsimp only [id] | simp only [Keep.mk_iff] | split | with_reducible refine Keep.of_eq2 (by assumption) ?_ | with_reducible refine Keep.of_eq3 (by assumption) ?_)

theorem State.setCont_keep {s0 : State} (s : State) (c : Continuity) (hk : Keep s0 s) : Keep s0 (State.setCont s c) := by
  unfold State.setCont
  repeat' (first | with_reducible (first | assumption | exact Keep.refl _ | apply Keep.ite | apply Keep.ite2 | apply Keep.ite3 | intro _ | apply Keep.foldl3 | apply Keep.foldl2 | apply Keep.foldl | (intro _ _ _) | (intro _ _)) | dsimp only | dsimp only [id] | simp only [Keep.mk_iff] | split | with_reducible refine Keep.of_eq2 (by assumption) ?_ | with_reducible refine Keep.of_eq3 (by assumption) ?_)

theorem State.security_keep {s0 : State} (s : State) (kind handle tile port dxn : Nat) (hk : Keep s0 s) : Keep s0 (State.security s kind handle tile port dxn) := by
  unfold State.security
  repeat' (first | with_reducible (first | assumption | exact Keep.refl _ | apply Keep.ite | apply Keep.ite2 | apply Keep.ite3 | intro _ | apply State.count_keep | apply Keep.foldl3 | apply Keep.foldl2 | apply Keep.foldl | (intro _ _ _) | (intro _ _)) | dsimp only | dsimp only [id] | simp only [Keep.mk_iff] | split | with_reducible refine Keep.of_eq2 (by assumption) ?_ | with_reducible refine Keep.of_eq3 (by assumption) ?_)

theorem State.setMeter_keep {s0 : State} (s : State) (p f v : Nat) (hk : Keep s0 s) : Keep s0 (State.setMeter s p f v) := by
  unfold State.setMeter
  repeat' (first | with_reducible (first | assumption | exact Keep.refl _ | apply Keep.ite | apply Keep.ite2 | apply Keep.ite3 | intro _ | apply Keep.foldl3 | apply Keep.foldl2 | apply Keep.foldl | (intro _ _ _) | (intro _ _)) | dsimp only | dsimp only [id] | simp only [Keep.mk_iff] | split | with_reducible refine Keep.of_eq2 (by assumption) ?_ | with_reducible refine Keep.of_eq3 (by assumption) ?_)

theorem State.meterAdd_keep {s0 : State} (s : State) (p f n : Nat) (hk : Keep s0 s) : Keep s0 (State.meterAdd s p f n) := by
  unfold State.meterAdd
  repeat' (first | with_reducible (first | assumption | exact Keep.refl _ | apply Keep.ite | apply Keep.ite2 | apply Keep.ite3 | intro _ | apply State.setMeter_keep | apply Keep.foldl3 | apply Keep.foldl2 | apply Keep.foldl | (intro _ _ _) | (intro _ _)) | dsimp only | dsimp only [id] | simp only [Keep.mk_iff] | split | with_reducible refine Keep.of_eq2 (by assumption) ?_ | with_reducible refine Keep.of_eq3 (by assumption) ?_)

theorem State.meterFlag_keep {s0 : State} (s : State) (p b : Nat) (hk : Keep s0 s) : Keep s0 (State.meterFlag s p b) := by
  unfold State.meterFlag
  repeat' (first | with_reducible (first | assumption | exact Keep.refl _ | apply Keep.ite | apply Keep.ite2 | apply Keep.ite3 | intro _ | apply State.setMeter_keep | apply Keep.foldl3 | apply Keep.foldl2 | apply Keep.foldl | (intro _ _ _) | (intro _ _)) | dsimp only | dsimp only [id] | simp only [Keep.mk_iff] | split | with_reducible refine Keep.of_eq2 (by assumption) ?_ | with_reducible refine Keep.of_eq3 (by assumption) ?_)

theorem State.noteFault_keep {s0 : State} (s : State) (p : Nat) (hk : Keep s0 s) : Keep s0 (State.noteFault s p) := by
  unfold State.noteFault
  repeat' (first | with_reducible (first | assumption | exact Keep.refl _ | apply Keep.ite | apply Keep.ite2 | apply Keep.ite3 | intro _ | apply State.meterAdd_keep | apply Keep.foldl3 | apply Keep.foldl2 | apply Keep.foldl | (intro _ _ _) | (intro _ _)) | dsimp only | dsimp only [id] | simp only [Keep.mk_iff] | split | with_reducible refine Keep.of_eq2 (by assumption) ?_ | with_reducible refine Keep.of_eq3 (by assumption) ?_)

theorem State.hold_keep {s0 : State} (s : State) (w : Wait) (r : Req) (hk : Keep s0 s) : Keep s0 (State.hold s w r) := by
  unfold State.hold
  repeat' (first | with_reducible (first | assumption | exact Keep.refl _ | apply Keep.ite | apply Keep.ite2 | apply Keep.ite3 | intro _ | apply Keep.foldl3 | apply Keep.foldl2 | apply Keep.foldl | (intro _ _ _) | (intro _ _)) | dsimp only | dsimp only [id] | simp only [Keep.mk_iff] | split | with_reducible refine Keep.of_eq2 (by assumption) ?_ | with_reducible refine Keep.of_eq3 (by assumption) ?_)

theorem State.dropWaiters_keep {s0 : State} (s : State) (w : Wait) (hk : Keep s0 s) : Keep s0 (State.dropWaiters s w) := by
  unfold State.dropWaiters
  repeat' (first | with_reducible (first | assumption | exact Keep.refl _ | apply Keep.ite | apply Keep.ite2 | apply Keep.ite3 | intro _ | apply Keep.foldl3 | apply Keep.foldl2 | apply Keep.foldl | (intro _ _ _) | (intro _ _)) | dsimp only | dsimp only [id] | simp only [Keep.mk_iff] | split | with_reducible refine Keep.of_eq2 (by assumption) ?_ | with_reducible refine Keep.of_eq3 (by assumption) ?_)

theorem State.takeWaiter_keep {s0 : State} (s : State) (w : Wait) (r : Req) (hk : Keep s0 s) : Keep s0 (State.takeWaiter s w r) := by
  unfold State.takeWaiter
  repeat' (first | with_reducible (first | assumption | exact Keep.refl _ | apply Keep.ite | apply Keep.ite2 | apply Keep.ite3 | intro _ | apply Keep.foldl3 | apply Keep.foldl2 | apply Keep.foldl | (intro _ _ _) | (intro _ _)) | dsimp only | dsimp only [id] | simp only [Keep.mk_iff] | split | with_reducible refine Keep.of_eq2 (by assumption) ?_ | with_reducible refine Keep.of_eq3 (by assumption) ?_)

theorem State.wake_keep {s0 : State} (s : State) (w : Wait) (hk : Keep s0 s) : Keep s0 (State.wake s w) := by
  unfold State.wake
  repeat' (first | with_reducible (first | assumption | exact Keep.refl _ | apply Keep.ite | apply Keep.ite2 | apply Keep.ite3 | intro _ | apply Keep.foldl3 | apply Keep.foldl2 | apply Keep.foldl | (intro _ _ _) | (intro _ _)) | dsimp only | dsimp only [id] | simp only [Keep.mk_iff] | split | with_reducible refine Keep.of_eq2 (by assumption) ?_ | with_reducible refine Keep.of_eq3 (by assumption) ?_)

theorem State.release_keep {s0 : State} (s : State) (w : Wait) (f : State → Req → State) (hk : Keep s0 s) (hk_f : ∀ u x0, Keep s0 u → Keep s0 (f u x0)) : Keep s0 (State.release s w f) := by
  unfold State.release
  repeat' (first | with_reducible (first | assumption | exact Keep.refl _ | apply Keep.ite | apply Keep.ite2 | apply Keep.ite3 | intro _ | apply hk_f | apply State.dropWaiters_keep | apply Keep.foldl3 | apply Keep.foldl2 | apply Keep.foldl | (intro _ _ _) | (intro _ _)) | dsimp only | dsimp only [id] | simp only [Keep.mk_iff] | split | with_reducible refine Keep.of_eq2 (by assumption) ?_ | with_reducible refine Keep.of_eq3 (by assumption) ?_)

end Sys2Proof.Machine
end

