-- ==== Sys2Proof/Laws/KeepEnergy.lean ====
section
/-!
SUPPORT. The operations and meanings of Machine/Energy.lean keep the queue, the fuses and the form of memory.
-/

namespace Sys2Proof.Machine

theorem State.setGaff_keep {s0 : State} (s : State) (g : Gaffer) (hk : Keep s0 s) : Keep s0 (State.setGaff s g) := by
  unfold State.setGaff
  repeat' (first | with_reducible (first | assumption | exact Keep.refl _ | apply Keep.ite | apply Keep.ite2 | apply Keep.ite3 | intro _ | apply Keep.foldl3 | apply Keep.foldl2 | apply Keep.foldl | (intro _ _ _) | (intro _ _)) | dsimp only | dsimp only [id] | simp only [Keep.mk_iff] | split | with_reducible refine Keep.of_eq2 (by assumption) ?_ | with_reducible refine Keep.of_eq3 (by assumption) ?_)

theorem State.spend_keep {s0 : State} (s : State) (slot p u n : Nat) (hk : Keep s0 s) : Keep s0 (State.spend s slot p u n) := by
  unfold State.spend
  repeat' (first | with_reducible (first | assumption | exact Keep.refl _ | apply Keep.ite | apply Keep.ite2 | apply Keep.ite3 | intro _ | apply State.setGaff_keep | apply Keep.foldl3 | apply Keep.foldl2 | apply Keep.foldl | (intro _ _ _) | (intro _ _)) | dsimp only | dsimp only [id] | simp only [Keep.mk_iff] | split | with_reducible refine Keep.of_eq2 (by assumption) ?_ | with_reducible refine Keep.of_eq3 (by assumption) ?_)

theorem State.noteHeld_keep {s0 : State} (s : State) (slot p : Nat) (hk : Keep s0 s) : Keep s0 (State.noteHeld s slot p) := by
  unfold State.noteHeld
  repeat' (first | with_reducible (first | assumption | exact Keep.refl _ | apply Keep.ite | apply Keep.ite2 | apply Keep.ite3 | intro _ | apply State.setGaff_keep | apply Keep.foldl3 | apply Keep.foldl2 | apply Keep.foldl | (intro _ _ _) | (intro _ _)) | dsimp only | dsimp only [id] | simp only [Keep.mk_iff] | split | with_reducible refine Keep.of_eq2 (by assumption) ?_ | with_reducible refine Keep.of_eq3 (by assumption) ?_)

theorem execAllowanceReached_keep (slot p : Nat) (s : State) : ∃ q, execAllowanceReached slot p s = .next q ∧ Keep s q := by
  unfold execAllowanceReached
  refine ⟨_, rfl, ?_⟩
  have hk := Keep.refl s
  repeat' (first | with_reducible (first | assumption | exact Keep.refl _ | apply Keep.ite | apply Keep.ite2 | apply Keep.ite3 | intro _ | apply State.noteHeld_keep | apply Keep.foldl3 | apply Keep.foldl2 | apply Keep.foldl | (intro _ _ _) | (intro _ _)) | dsimp only | dsimp only [id] | simp only [Keep.mk_iff] | split | with_reducible refine Keep.of_eq2 (by assumption) ?_ | with_reducible refine Keep.of_eq3 (by assumption) ?_)

end Sys2Proof.Machine
end

