-- ==== Sys2Proof/Laws/KeepPool.lean ====
section
/-!
SUPPORT. The operations and meanings of Machine/Pool.lean keep the queue, the fuses and the form of memory.
-/

namespace Sys2Proof.Machine

theorem State.clearFresh_keep {s0 : State} (s : State) (dpa : Nat) (hk : Keep s0 s) : Keep s0 (State.clearFresh s dpa) := by
  unfold State.clearFresh
  repeat' (first | with_reducible (first | assumption | exact Keep.refl _ | apply Keep.ite | apply Keep.ite2 | apply Keep.ite3 | intro _ | apply Keep.foldl3 | apply Keep.foldl2 | apply Keep.foldl | (intro _ _ _) | (intro _ _)) | dsimp only | dsimp only [id] | simp only [Keep.mk_iff] | split | with_reducible refine Keep.of_eq2 (by assumption) ?_ | with_reducible refine Keep.of_eq3 (by assumption) ?_)

theorem State.setFresh_keep {s0 : State} (s : State) (d : Nat) (hk : Keep s0 s) : Keep s0 (State.setFresh s d) := by
  unfold State.setFresh
  repeat' (first | with_reducible (first | assumption | exact Keep.refl _ | apply Keep.ite | apply Keep.ite2 | apply Keep.ite3 | intro _ | apply Keep.foldl3 | apply Keep.foldl2 | apply Keep.foldl | (intro _ _ _) | (intro _ _)) | dsimp only | dsimp only [id] | simp only [Keep.mk_iff] | split | with_reducible refine Keep.of_eq2 (by assumption) ?_ | with_reducible refine Keep.of_eq3 (by assumption) ?_)

theorem State.setErrs_keep {s0 : State} (s : State) (ln : Nat) (e : List (Nat × Nat)) (hk : Keep s0 s) : Keep s0 (State.setErrs s ln e) := by
  unfold State.setErrs
  repeat' (first | with_reducible (first | assumption | exact Keep.refl _ | apply Keep.ite | apply Keep.ite2 | apply Keep.ite3 | intro _ | apply Keep.foldl3 | apply Keep.foldl2 | apply Keep.foldl | (intro _ _ _) | (intro _ _)) | dsimp only | dsimp only [id] | simp only [Keep.mk_iff] | split | with_reducible refine Keep.of_eq2 (by assumption) ?_ | with_reducible refine Keep.of_eq3 (by assumption) ?_)

theorem State.errEvent_keep {s0 : State} (s : State) (kind ln : Nat) (fix : List (Nat × Nat)) (hk : Keep s0 s) : Keep s0 (State.errEvent s kind ln fix) := by
  unfold State.errEvent
  repeat' (first | with_reducible (first | assumption | exact Keep.refl _ | apply Keep.ite | apply Keep.ite2 | apply Keep.ite3 | intro _ | apply State.updStack_keep | apply State.count_keep | apply Keep.foldl3 | apply Keep.foldl2 | apply Keep.foldl | (intro _ _ _) | (intro _ _)) | dsimp only | dsimp only [id] | simp only [Keep.mk_iff] | split | with_reducible refine Keep.of_eq2 (by assumption) ?_ | with_reducible refine Keep.of_eq3 (by assumption) ?_)

theorem State.burst_keep {s0 : State} (s : State) (ln handle : Nat) (wr : Bool) (hk : Keep s0 s) : Keep s0 (State.burst s ln handle wr) := by
  unfold State.burst
  repeat' (first | with_reducible (first | assumption | exact Keep.refl _ | apply Keep.ite | apply Keep.ite2 | apply Keep.ite3 | intro _ | apply State.wr_keep | apply State.setStack_keep | apply State.meterAdd_keep | apply State.count_keep | apply Keep.foldl3 | apply Keep.foldl2 | apply Keep.foldl | (intro _ _ _) | (intro _ _)) | dsimp only | dsimp only [id] | simp only [Keep.mk_iff] | split | with_reducible refine Keep.of_eq2 (by assumption) ?_ | with_reducible refine Keep.of_eq3 (by assumption) ?_)

theorem State.overtake_keep {s0 : State} (s : State) (ln : Nat) (hk : Keep s0 s) : Keep s0 (State.overtake s ln) := by
  unfold State.overtake
  repeat' (first | with_reducible (first | assumption | exact Keep.refl _ | apply Keep.ite | apply Keep.ite2 | apply Keep.ite3 | intro _ | apply State.setStack_keep | apply State.count_keep | apply Keep.foldl3 | apply Keep.foldl2 | apply Keep.foldl | (intro _ _ _) | (intro _ _)) | dsimp only | dsimp only [id] | simp only [Keep.mk_iff] | split | with_reducible refine Keep.of_eq2 (by assumption) ?_ | with_reducible refine Keep.of_eq3 (by assumption) ?_)

theorem State.putLine_keep {s0 : State} (s : State) (ln : Nat) (d : List Byte) (key unit : Nat) (hk : Keep s0 s) : Keep s0 (State.putLine s ln d key unit) := by
  unfold State.putLine
  repeat' (first | with_reducible (first | assumption | exact Keep.refl _ | apply Keep.ite | apply Keep.ite2 | apply Keep.ite3 | intro _ | apply State.setErrs_keep | apply State.overtake_keep | apply Keep.foldl3 | apply Keep.foldl2 | apply Keep.foldl | (intro _ _ _) | (intro _ _)) | dsimp only | dsimp only [id] | simp only [Keep.mk_iff] | split | with_reducible refine Keep.of_eq2 (by assumption) ?_ | with_reducible refine Keep.of_eq3 (by assumption) ?_ | with_reducible apply Keep.puts | with_reducible apply Keep.filt)

theorem State.signLine_keep {s0 : State} (s : State) (ln : Nat) (hk : Keep s0 s) : Keep s0 (State.signLine s ln) := by
  unfold State.signLine
  repeat' (first | with_reducible (first | assumption | exact Keep.refl _ | apply Keep.ite | apply Keep.ite2 | apply Keep.ite3 | intro _ | apply State.setErrs_keep | apply State.count_keep | apply Keep.foldl3 | apply Keep.foldl2 | apply Keep.foldl | (intro _ _ _) | (intro _ _)) | dsimp only | dsimp only [id] | simp only [Keep.mk_iff] | split | with_reducible refine Keep.of_eq2 (by assumption) ?_ | with_reducible refine Keep.of_eq3 (by assumption) ?_ | with_reducible apply Keep.puts | with_reducible apply Keep.filt)

theorem State.poisonLine_keep {s0 : State} (s : State) (ln : Nat) (hk : Keep s0 s) : Keep s0 (State.poisonLine s ln) := by
  unfold State.poisonLine
  repeat' (first | with_reducible (first | assumption | exact Keep.refl _ | apply Keep.ite | apply Keep.ite2 | apply Keep.ite3 | intro _ | apply State.signLine_keep | apply State.burst_keep | apply Keep.foldl3 | apply Keep.foldl2 | apply Keep.foldl | (intro _ _ _) | (intro _ _)) | dsimp only | dsimp only [id] | simp only [Keep.mk_iff] | split | with_reducible refine Keep.of_eq2 (by assumption) ?_ | with_reducible refine Keep.of_eq3 (by assumption) ?_)

theorem State.drawKey_keep {s0 : State} (s : State) (d : Nat) (hk : Keep s0 s) : Keep s0 (State.drawKey s d) := by
  unfold State.drawKey
  repeat' (first | with_reducible (first | assumption | exact Keep.refl _ | apply Keep.ite | apply Keep.ite2 | apply Keep.ite3 | intro _ | apply State.wr_keep | apply Keep.foldl3 | apply Keep.foldl2 | apply Keep.foldl | (intro _ _ _) | (intro _ _)) | dsimp only | dsimp only [id] | simp only [Keep.mk_iff] | split | with_reducible refine Keep.of_eq2 (by assumption) ?_ | with_reducible refine Keep.of_eq3 (by assumption) ?_)

theorem State.demand_keep {s0 : State} (s : State) (ln handle : Nat) (noise : List (Nat × Nat)) (retry : Bool) (hk : Keep s0 s) : Keep s0 (State.demand s ln handle noise retry).2 := by
  unfold State.demand
  repeat' (first | with_reducible (first | assumption | exact Keep.refl _ | apply Keep.ite | apply Keep.ite2 | apply Keep.ite3 | intro _ | apply State.burst_keep | apply State.count_keep | apply State.errEvent_keep | apply State.updStack_keep | apply Keep.foldl3 | apply Keep.foldl2 | apply Keep.foldl | (intro _ _ _) | (intro _ _)) | dsimp only | dsimp only [id] | simp only [Keep.mk_iff] | split | with_reducible refine Keep.of_eq2 (by assumption) ?_ | with_reducible refine Keep.of_eq3 (by assumption) ?_)

theorem State.repairFrom_keep {s0 : State} (s : State) (ln : Nat) (d : List Byte) (key unit : Nat) (hk : Keep s0 s) : Keep s0 (State.repairFrom s ln d key unit) := by
  unfold State.repairFrom
  repeat' (first | with_reducible (first | assumption | exact Keep.refl _ | apply Keep.ite | apply Keep.ite2 | apply Keep.ite3 | intro _ | apply State.putLine_keep | apply State.burst_keep | apply State.errEvent_keep | apply Keep.foldl3 | apply Keep.foldl2 | apply Keep.foldl | (intro _ _ _) | (intro _ _)) | dsimp only | dsimp only [id] | simp only [Keep.mk_iff] | split | with_reducible refine Keep.of_eq2 (by assumption) ?_ | with_reducible refine Keep.of_eq3 (by assumption) ?_)

theorem State.readOther_keep {s0 : State} (s : State) (m : Nat) (hk : Keep s0 s) : Keep s0 (State.readOther s m).2 := by
  unfold State.readOther
  repeat' (first | with_reducible (first | assumption | exact Keep.refl _ | apply Keep.ite | apply Keep.ite2 | apply Keep.ite3 | intro _ | apply State.burst_keep | apply State.count_keep | apply State.errEvent_keep | apply Keep.foldl3 | apply Keep.foldl2 | apply Keep.foldl | (intro _ _ _) | (intro _ _)) | dsimp only | dsimp only [id] | simp only [Keep.mk_iff] | split | with_reducible refine Keep.of_eq2 (by assumption) ?_ | with_reducible refine Keep.of_eq3 (by assumption) ?_)

theorem State.readLine_keep {s0 : State} (s : State) (e va handle : Nat) (noise : List (Nat × Nat)) (retried : Bool) (hk : Keep s0 s) : Keep s0 (State.readLine s e va handle noise retried).2 := by
  unfold State.readLine
  repeat' (first | with_reducible (first | assumption | exact Keep.refl _ | apply Keep.ite | apply Keep.ite2 | apply Keep.ite3 | intro _ | apply State.demand_keep | apply State.readOther_keep | apply State.repairFrom_keep | apply Keep.foldl3 | apply Keep.foldl2 | apply Keep.foldl | (intro _ _ _) | (intro _ _)) | dsimp only | dsimp only [id] | simp only [Keep.mk_iff] | split | with_reducible refine Keep.of_eq2 (by assumption) ?_ | with_reducible refine Keep.of_eq3 (by assumption) ?_)

theorem State.readFinal_keep {s0 : State} (s : State) (e va handle : Nat) (noise : List (Nat × Nat)) (hk : Keep s0 s) : Keep s0 (State.readFinal s e va handle noise).2 := by
  unfold State.readFinal
  repeat' (first | with_reducible (first | assumption | exact Keep.refl _ | apply Keep.ite | apply Keep.ite2 | apply Keep.ite3 | intro _ | apply State.readLine_keep | apply Keep.foldl3 | apply Keep.foldl2 | apply Keep.foldl | (intro _ _ _) | (intro _ _)) | dsimp only | dsimp only [id] | simp only [Keep.mk_iff] | split | with_reducible refine Keep.of_eq2 (by assumption) ?_ | with_reducible refine Keep.of_eq3 (by assumption) ?_)

theorem State.firstWrite_keep {s0 : State} (s : State) (dpa key dxn va handle : Nat) (d : List Byte) (hk : Keep s0 s) : Keep s0 (State.firstWrite s dpa key dxn va handle d) := by
  unfold State.firstWrite
  repeat' (first | with_reducible (first | assumption | exact Keep.refl _ | apply Keep.ite | apply Keep.ite2 | apply Keep.ite3 | intro _ | apply State.putLine_keep | apply State.burst_keep | apply State.clearFresh_keep | apply Keep.foldl3 | apply Keep.foldl2 | apply Keep.foldl | (intro _ _ _) | (intro _ _)) | dsimp only | dsimp only [id] | simp only [Keep.mk_iff] | split | with_reducible refine Keep.of_eq2 (by assumption) ?_ | with_reducible refine Keep.of_eq3 (by assumption) ?_)

theorem State.bothFresh_keep {s0 : State} (s : State) (e va : Nat) (hk : Keep s0 s) : Keep s0 (State.bothFresh s e va) := by
  unfold State.bothFresh
  repeat' (first | with_reducible (first | assumption | exact Keep.refl _ | apply Keep.ite | apply Keep.ite2 | apply Keep.ite3 | intro _ | apply State.clearFresh_keep | apply Keep.foldl3 | apply Keep.foldl2 | apply Keep.foldl | (intro _ _ _) | (intro _ _)) | dsimp only | dsimp only [id] | simp only [Keep.mk_iff] | split | with_reducible refine Keep.of_eq2 (by assumption) ?_ | with_reducible refine Keep.of_eq3 (by assumption) ?_)

theorem State.merged_keep {s0 : State} (s : State) (e va : Nat) (d : List Byte) (handle : Nat) (noise : List (Nat × Nat)) (hk : Keep s0 s) : Keep s0 (State.merged s e va d handle noise).2 := by
  unfold State.merged
  repeat' (first | with_reducible (first | assumption | exact Keep.refl _ | apply Keep.ite | apply Keep.ite2 | apply Keep.ite3 | intro _ | apply State.readFinal_keep | apply Keep.foldl3 | apply Keep.foldl2 | apply Keep.foldl | (intro _ _ _) | (intro _ _)) | dsimp only | dsimp only [id] | simp only [Keep.mk_iff] | split | with_reducible refine Keep.of_eq2 (by assumption) ?_ | with_reducible refine Keep.of_eq3 (by assumption) ?_)

theorem State.putCopy_keep {s0 : State} (s : State) (dpa va dxn handle : Nat) (paid : List Nat) (d : List Byte) (hk : Keep s0 s) : Keep s0 (State.putCopy s dpa va dxn handle paid d) := by
  unfold State.putCopy
  repeat' (first | with_reducible (first | assumption | exact Keep.refl _ | apply Keep.ite | apply Keep.ite2 | apply Keep.ite3 | intro _ | apply State.firstWrite_keep | apply State.putLine_keep | apply State.burst_keep | apply Keep.foldl3 | apply Keep.foldl2 | apply Keep.foldl | (intro _ _ _) | (intro _ _)) | dsimp only | dsimp only [id] | simp only [Keep.mk_iff] | split | with_reducible refine Keep.of_eq2 (by assumption) ?_ | with_reducible refine Keep.of_eq3 (by assumption) ?_)

theorem State.poisonCopy_keep {s0 : State} (s : State) (dpa va dxn handle : Nat) (hk : Keep s0 s) : Keep s0 (State.poisonCopy s dpa va dxn handle) := by
  unfold State.poisonCopy
  repeat' (first | with_reducible (first | assumption | exact Keep.refl _ | apply Keep.ite | apply Keep.ite2 | apply Keep.ite3 | intro _ | apply State.overtake_keep | apply State.drawKey_keep | apply State.firstWrite_keep | apply State.signLine_keep | apply State.burst_keep | apply Keep.foldl3 | apply Keep.foldl2 | apply Keep.foldl | (intro _ _ _) | (intro _ _)) | dsimp only | dsimp only [id] | simp only [Keep.mk_iff] | split | with_reducible refine Keep.of_eq2 (by assumption) ?_ | with_reducible refine Keep.of_eq3 (by assumption) ?_)

theorem State.poisonCopies_keep {s0 : State} (s : State) (e va handle : Nat) (hk : Keep s0 s) : Keep s0 (State.poisonCopies s e va handle) := by
  unfold State.poisonCopies
  repeat' (first | with_reducible (first | assumption | exact Keep.refl _ | apply Keep.ite | apply Keep.ite2 | apply Keep.ite3 | intro _ | apply State.poisonCopy_keep | apply State.bothFresh_keep | apply Keep.foldl3 | apply Keep.foldl2 | apply Keep.foldl | (intro _ _ _) | (intro _ _)) | dsimp only | dsimp only [id] | simp only [Keep.mk_iff] | split | with_reducible refine Keep.of_eq2 (by assumption) ?_ | with_reducible refine Keep.of_eq3 (by assumption) ?_)

theorem State.lostPiece_keep {s0 : State} (s : State) (e va : Nat) (d : List Byte) (hk : Keep s0 s) : Keep s0 (State.lostPiece s e va d).2 := by
  unfold State.lostPiece
  repeat' (first | with_reducible (first | assumption | exact Keep.refl _ | apply Keep.ite | apply Keep.ite2 | apply Keep.ite3 | intro _ | apply State.setCont_keep | apply State.putCopy_keep | apply Keep.foldl3 | apply Keep.foldl2 | apply Keep.foldl | (intro _ _ _) | (intro _ _)) | dsimp only | dsimp only [id] | simp only [Keep.mk_iff] | split | with_reducible refine Keep.of_eq2 (by assumption) ?_ | with_reducible refine Keep.of_eq3 (by assumption) ?_)

theorem State.writePiece_keep {s0 : State} (s : State) (e va : Nat) (d : List Byte) (handle : Nat) (paid : List Nat) (noise : List (Nat × Nat)) (hk : Keep s0 s) : Keep s0 (State.writePiece s e va d handle paid noise).2 := by
  unfold State.writePiece
  repeat' (first | with_reducible (first | assumption | exact Keep.refl _ | apply Keep.ite | apply Keep.ite2 | apply Keep.ite3 | intro _ | apply State.lostPiece_keep | apply State.merged_keep | apply State.putCopy_keep | apply State.bothFresh_keep | apply Keep.foldl3 | apply Keep.foldl2 | apply Keep.foldl | (intro _ _ _) | (intro _ _)) | dsimp only | dsimp only [id] | simp only [Keep.mk_iff] | split | with_reducible refine Keep.of_eq2 (by assumption) ?_ | with_reducible refine Keep.of_eq3 (by assumption) ?_)

theorem State.writeBytes_keep {s0 : State} (s : State) (e va : Nat) (d : List Byte) (handle : Nat) (noise : List (Nat × Nat)) (hk : Keep s0 s) : Keep s0 (State.writeBytes s e va d handle noise).2 := by
  unfold State.writeBytes
  repeat' (first | with_reducible (first | assumption | exact Keep.refl _ | apply Keep.ite | apply Keep.ite2 | apply Keep.ite3 | intro _ | apply State.writePiece_keep | apply Keep.foldl3 | apply Keep.foldl2 | apply Keep.foldl | (intro _ _ _) | (intro _ _)) | dsimp only | dsimp only [id] | simp only [Keep.mk_iff] | split | with_reducible refine Keep.of_eq2 (by assumption) ?_ | with_reducible refine Keep.of_eq3 (by assumption) ?_)

theorem State.tagRefusal_keep {s0 : State} (s : State) (e va handle port : Nat) (hk : Keep s0 s) : Keep s0 (State.tagRefusal s e va handle port) := by
  unfold State.tagRefusal
  repeat' (first | with_reducible (first | assumption | exact Keep.refl _ | apply Keep.ite | apply Keep.ite2 | apply Keep.ite3 | intro _ | apply State.security_keep | apply State.count_keep | apply Keep.foldl3 | apply Keep.foldl2 | apply Keep.foldl | (intro _ _ _) | (intro _ _)) | dsimp only | dsimp only [id] | simp only [Keep.mk_iff] | split | with_reducible refine Keep.of_eq2 (by assumption) ?_ | with_reducible refine Keep.of_eq3 (by assumption) ?_)

end Sys2Proof.Machine
end

