-- ==== Sys2Proof/Laws/KeepTransport.lean ====
section
/-!
SUPPORT. The operations and meanings of Machine/Transport.lean keep the queue, the fuses and the form of memory.
-/

namespace Sys2Proof.Machine

theorem State.send_keep {s0 : State} (s : State) (port : Nat) (m : Msg) (hk : Keep s0 s) : Keep s0 (State.send s port m) := by
  unfold State.send
  repeat' (first | with_reducible (first | assumption | exact Keep.refl _ | apply Keep.ite | apply Keep.ite2 | apply Keep.ite3 | intro _ | apply State.updPort_keep | apply State.meterAdd_keep | apply Keep.foldl3 | apply Keep.foldl2 | apply Keep.foldl | (intro _ _ _) | (intro _ _)) | dsimp only | dsimp only [id] | simp only [Keep.mk_iff] | split | with_reducible refine Keep.of_eq2 (by assumption) ?_ | with_reducible refine Keep.of_eq3 (by assumption) ?_)

theorem State.sendResp_keep {s0 : State} (s : State) (port : Nat) (m : Msg) (hk : Keep s0 s) : Keep s0 (State.sendResp s port m) := by
  unfold State.sendResp
  repeat' (first | with_reducible (first | assumption | exact Keep.refl _ | apply Keep.ite | apply Keep.ite2 | apply Keep.ite3 | intro _ | apply State.send_keep | apply State.count_keep | apply Keep.foldl3 | apply Keep.foldl2 | apply Keep.foldl | (intro _ _ _) | (intro _ _)) | dsimp only | dsimp only [id] | simp only [Keep.mk_iff] | split | with_reducible refine Keep.of_eq2 (by assumption) ?_ | with_reducible refine Keep.of_eq3 (by assumption) ?_)

theorem State.refuse_keep {s0 : State} (s : State) (port op : Nat) (h : Hdr) (st : Nat) (hk : Keep s0 s) : Keep s0 (State.refuse s port op h st) := by
  unfold State.refuse
  repeat' (first | with_reducible (first | assumption | exact Keep.refl _ | apply Keep.ite | apply Keep.ite2 | apply Keep.ite3 | intro _ | apply State.count_keep | apply State.sendResp_keep | apply Keep.foldl3 | apply Keep.foldl2 | apply Keep.foldl | (intro _ _ _) | (intro _ _)) | dsimp only | dsimp only [id] | simp only [Keep.mk_iff] | split | with_reducible refine Keep.of_eq2 (by assumption) ?_ | with_reducible refine Keep.of_eq3 (by assumption) ?_)

theorem State.answer_keep {s0 : State} (s : State) (r : Req) (op st : Nat) (body : List Byte) (hk : Keep s0 s) : Keep s0 (State.answer s r op st body) := by
  unfold State.answer
  repeat' (first | with_reducible (first | assumption | exact Keep.refl _ | apply Keep.ite | apply Keep.ite2 | apply Keep.ite3 | intro _ | apply State.setPort_keep | apply State.sendResp_keep | apply State.count_keep | apply State.updPort_keep | apply Keep.foldl3 | apply Keep.foldl2 | apply Keep.foldl | (intro _ _ _) | (intro _ _)) | dsimp only | dsimp only [id] | simp only [Keep.mk_iff] | split | with_reducible refine Keep.of_eq2 (by assumption) ?_ | with_reducible refine Keep.of_eq3 (by assumption) ?_)

theorem State.answerSt_keep {s0 : State} (s : State) (r : Req) (st : Nat) (hk : Keep s0 s) : Keep s0 (State.answerSt s r st) := by
  unfold State.answerSt
  repeat' (first | with_reducible (first | assumption | exact Keep.refl _ | apply Keep.ite | apply Keep.ite2 | apply Keep.ite3 | intro _ | apply State.answer_keep | apply Keep.foldl3 | apply Keep.foldl2 | apply Keep.foldl | (intro _ _ _) | (intro _ _)) | dsimp only | dsimp only [id] | simp only [Keep.mk_iff] | split | with_reducible refine Keep.of_eq2 (by assumption) ?_ | with_reducible refine Keep.of_eq3 (by assumption) ?_)

theorem State.sendOwn_keep {s0 : State} (s : State) (port : Nat) (m : Msg) (hk : Keep s0 s) : Keep s0 (State.sendOwn s port m) := by
  unfold State.sendOwn
  repeat' (first | with_reducible (first | assumption | exact Keep.refl _ | apply Keep.ite | apply Keep.ite2 | apply Keep.ite3 | intro _ | apply State.send_keep | apply Keep.foldl3 | apply Keep.foldl2 | apply Keep.foldl | (intro _ _ _) | (intro _ _)) | dsimp only | dsimp only [id] | simp only [Keep.mk_iff] | split | with_reducible refine Keep.of_eq2 (by assumption) ?_ | with_reducible refine Keep.of_eq3 (by assumption) ?_)

theorem State.nextTag_keep {s0 : State} (s : State) (port dst : Nat) (hk : Keep s0 s) : Keep s0 (State.nextTag s port dst).2 := by
  unfold State.nextTag
  repeat' (first | with_reducible (first | assumption | exact Keep.refl _ | apply Keep.ite | apply Keep.ite2 | apply Keep.ite3 | intro _ | apply State.updPort_keep | apply Keep.foldl3 | apply Keep.foldl2 | apply Keep.foldl | (intro _ _ _) | (intro _ _)) | dsimp only | dsimp only [id] | simp only [Keep.mk_iff] | split | with_reducible refine Keep.of_eq2 (by assumption) ?_ | with_reducible refine Keep.of_eq3 (by assumption) ?_)

theorem State.originate_keep {s0 : State} (s : State) (port dst op handle : Nat) (body : List Byte) (why : Purpose) (hk : Keep s0 s) : Keep s0 (State.originate s port dst op handle body why) := by
  unfold State.originate
  repeat' (first | with_reducible (first | assumption | exact Keep.refl _ | apply Keep.ite | apply Keep.ite2 | apply Keep.ite3 | intro _ | apply State.nextTag_keep | apply State.sendOwn_keep | apply State.updPort_keep | apply Keep.foldl3 | apply Keep.foldl2 | apply Keep.foldl | (intro _ _ _) | (intro _ _)) | dsimp only | dsimp only [id] | simp only [Keep.mk_iff] | split | with_reducible refine Keep.of_eq2 (by assumption) ?_ | with_reducible refine Keep.of_eq3 (by assumption) ?_)

theorem State.settle_keep {s0 : State} (s : State) (x : PartReq) (hk : Keep s0 s) : Keep s0 (State.settle s x) := by
  unfold State.settle
  repeat' (first | with_reducible (first | assumption | exact Keep.refl _ | apply Keep.ite | apply Keep.ite2 | apply Keep.ite3 | intro _ | apply State.updPort_keep | apply Keep.foldl3 | apply Keep.foldl2 | apply Keep.foldl | (intro _ _ _) | (intro _ _)) | dsimp only | dsimp only [id] | simp only [Keep.mk_iff] | split | with_reducible refine Keep.of_eq2 (by assumption) ?_ | with_reducible refine Keep.of_eq3 (by assumption) ?_)

theorem State.protoError_keep {s0 : State} (s : State) (port : Nat) (hk : Keep s0 s) : Keep s0 (State.protoError s port) := by
  unfold State.protoError
  repeat' (first | with_reducible (first | assumption | exact Keep.refl _ | apply Keep.ite | apply Keep.ite2 | apply Keep.ite3 | intro _ | apply State.count_keep | apply Keep.foldl3 | apply Keep.foldl2 | apply Keep.foldl | (intro _ _ _) | (intro _ _)) | dsimp only | dsimp only [id] | simp only [Keep.mk_iff] | split | with_reducible refine Keep.of_eq2 (by assumption) ?_ | with_reducible refine Keep.of_eq3 (by assumption) ?_)

theorem State.notify_keep {s0 : State} (s : State) (port dst handle kind obj value st : Nat) (hk : Keep s0 s) : Keep s0 (State.notify s port dst handle kind obj value st) := by
  unfold State.notify
  repeat' (first | with_reducible (first | assumption | exact Keep.refl _ | apply Keep.ite | apply Keep.ite2 | apply Keep.ite3 | intro _ | apply State.nextTag_keep | apply State.sendOwn_keep | apply State.updPort_keep | apply Keep.foldl3 | apply Keep.foldl2 | apply Keep.foldl | (intro _ _ _) | (intro _ _)) | dsimp only | dsimp only [id] | simp only [Keep.mk_iff] | split | with_reducible refine Keep.of_eq2 (by assumption) ?_ | with_reducible refine Keep.of_eq3 (by assumption) ?_)

theorem State.reserveOut_keep {s0 : State} (s : State) (port : Nat) (replay : Bool) (hk : Keep s0 s) : Keep s0 (State.reserveOut s port replay) := by
  unfold State.reserveOut
  repeat' (first | with_reducible (first | assumption | exact Keep.refl _ | apply Keep.ite | apply Keep.ite2 | apply Keep.ite3 | intro _ | apply State.updPort_keep | apply Keep.foldl3 | apply Keep.foldl2 | apply Keep.foldl | (intro _ _ _) | (intro _ _)) | dsimp only | dsimp only [id] | simp only [Keep.mk_iff] | split | with_reducible refine Keep.of_eq2 (by assumption) ?_ | with_reducible refine Keep.of_eq3 (by assumption) ?_)

theorem State.reserveIn_keep {s0 : State} (s : State) (port : Nat) (replay : Bool) (hk : Keep s0 s) : Keep s0 (State.reserveIn s port replay) := by
  unfold State.reserveIn
  repeat' (first | with_reducible (first | assumption | exact Keep.refl _ | apply Keep.ite | apply Keep.ite2 | apply Keep.ite3 | intro _ | apply State.updPort_keep | apply Keep.foldl3 | apply Keep.foldl2 | apply Keep.foldl | (intro _ _ _) | (intro _ _)) | dsimp only | dsimp only [id] | simp only [Keep.mk_iff] | split | with_reducible refine Keep.of_eq2 (by assumption) ?_ | with_reducible refine Keep.of_eq3 (by assumption) ?_)

theorem State.pauseCells_keep {s0 : State} (s : State) (port ns : Nat) (hk : Keep s0 s) : Keep s0 (State.pauseCells s port ns) := by
  unfold State.pauseCells
  repeat' (first | with_reducible (first | assumption | exact Keep.refl _ | apply Keep.ite | apply Keep.ite2 | apply Keep.ite3 | intro _ | apply State.updPort_keep | apply Keep.foldl3 | apply Keep.foldl2 | apply Keep.foldl | (intro _ _ _) | (intro _ _)) | dsimp only | dsimp only [id] | simp only [Keep.mk_iff] | split | with_reducible refine Keep.of_eq2 (by assumption) ?_ | with_reducible refine Keep.of_eq3 (by assumption) ?_)

theorem State.chargeOut_keep {s0 : State} (s : State) (port p cells : Nat) (hk : Keep s0 s) : Keep s0 (State.chargeOut s port p cells) := by
  unfold State.chargeOut
  repeat' (first | with_reducible (first | assumption | exact Keep.refl _ | apply Keep.ite | apply Keep.ite2 | apply Keep.ite3 | intro _ | apply State.updPort_keep | apply Keep.foldl3 | apply Keep.foldl2 | apply Keep.foldl | (intro _ _ _) | (intro _ _)) | dsimp only | dsimp only [id] | simp only [Keep.mk_iff] | split | with_reducible refine Keep.of_eq2 (by assumption) ?_ | with_reducible refine Keep.of_eq3 (by assumption) ?_)

theorem State.useCells_keep {s0 : State} (s : State) (port p len : Nat) (hk : Keep s0 s) : Keep s0 (State.useCells s port p len) := by
  unfold State.useCells
  repeat' (first | with_reducible (first | assumption | exact Keep.refl _ | apply Keep.ite | apply Keep.ite2 | apply Keep.ite3 | intro _ | apply State.updPort_keep | apply State.slowUse_keep | apply Keep.foldl3 | apply Keep.foldl2 | apply Keep.foldl | (intro _ _ _) | (intro _ _)) | dsimp only | dsimp only [id] | simp only [Keep.mk_iff] | split | with_reducible refine Keep.of_eq2 (by assumption) ?_ | with_reducible refine Keep.of_eq3 (by assumption) ?_)

theorem State.accept_keep {s0 : State} (s : State) (port op b : Nat) (h : Hdr) (body : List Byte) (hk : Keep s0 s) : Keep s0 (State.accept s port op b h body).2 := by
  unfold State.accept
  repeat' (first | with_reducible (first | assumption | exact Keep.refl _ | apply Keep.ite | apply Keep.ite2 | apply Keep.ite3 | intro _ | apply State.setPort_keep | apply State.count_keep | apply State.meterAdd_keep | apply Keep.foldl3 | apply Keep.foldl2 | apply Keep.foldl | (intro _ _ _) | (intro _ _)) | dsimp only | dsimp only [id] | simp only [Keep.mk_iff] | split | with_reducible refine Keep.of_eq2 (by assumption) ?_ | with_reducible refine Keep.of_eq3 (by assumption) ?_)

end Sys2Proof.Machine
end

