-- ==== Sys2Proof/Laws/KeepCoherence.lean ====
section
/-!
SUPPORT. The operations and meanings of Machine/Coherence.lean keep the queue, the fuses and the form of memory.
-/

namespace Sys2Proof.Machine

theorem State.setDir_keep {s0 : State} (s : State) (d : Tab DirEnt) (hk : Keep s0 s) : Keep s0 (State.setDir s d) := by
  unfold State.setDir
  repeat' (first | with_reducible (first | assumption | exact Keep.refl _ | apply Keep.ite | apply Keep.ite2 | apply Keep.ite3 | intro _ | apply Keep.foldl3 | apply Keep.foldl2 | apply Keep.foldl | (intro _ _ _) | (intro _ _)) | dsimp only | dsimp only [id] | simp only [Keep.mk_iff] | split | with_reducible refine Keep.of_eq2 (by assumption) ?_ | with_reducible refine Keep.of_eq3 (by assumption) ?_)

theorem State.putEnt_keep {s0 : State} (s : State) (ln : Nat) (e : DirEnt) (hk : Keep s0 s) : Keep s0 (State.putEnt s ln e) := by
  unfold State.putEnt
  repeat' (first | with_reducible (first | assumption | exact Keep.refl _ | apply Keep.ite | apply Keep.ite2 | apply Keep.ite3 | intro _ | apply State.wr_keep | apply Keep.foldl3 | apply Keep.foldl2 | apply Keep.foldl | (intro _ _ _) | (intro _ _)) | dsimp only | dsimp only [id] | simp only [Keep.mk_iff] | split | with_reducible refine Keep.of_eq2 (by assumption) ?_ | with_reducible refine Keep.of_eq3 (by assumption) ?_)

theorem State.dropEnt_keep {s0 : State} (s : State) (ln : Nat) (hk : Keep s0 s) : Keep s0 (State.dropEnt s ln) := by
  unfold State.dropEnt
  repeat' (first | with_reducible (first | assumption | exact Keep.refl _ | apply Keep.ite | apply Keep.ite2 | apply Keep.ite3 | intro _ | apply State.setDir_keep | apply State.wr_keep | apply Keep.foldl3 | apply Keep.foldl2 | apply Keep.foldl | (intro _ _ _) | (intro _ _)) | dsimp only | dsimp only [id] | simp only [Keep.mk_iff] | split | with_reducible refine Keep.of_eq2 (by assumption) ?_ | with_reducible refine Keep.of_eq3 (by assumption) ?_)

theorem State.putOpt_keep {s0 : State} (s : State) (ln : Nat) (e : Option DirEnt) (hk : Keep s0 s) : Keep s0 (State.putOpt s ln e) := by
  cases e with
  | none => exact State.dropEnt_keep s ln hk
  | some e => exact State.putEnt_keep s ln e hk

theorem State.backInval_keep {s0 : State} (s : State) (ln b : Nat) (hk : Keep s0 s) : Keep s0 (State.backInval s ln b) := by
  unfold State.backInval
  repeat' (first | with_reducible (first | assumption | exact Keep.refl _ | apply Keep.ite | apply Keep.ite2 | apply Keep.ite3 | intro _ | apply State.originate_keep | apply State.count_keep | apply Keep.foldl3 | apply Keep.foldl2 | apply Keep.foldl | (intro _ _ _) | (intro _ _)) | dsimp only | dsimp only [id] | simp only [Keep.mk_iff] | split | with_reducible refine Keep.of_eq2 (by assumption) ?_ | with_reducible refine Keep.of_eq3 (by assumption) ?_)

theorem State.backInvals_keep {s0 : State} (s : State) (ln : Nat) (l : List Nat) (hk : Keep s0 s) : Keep s0 (State.backInvals s ln l).2 := by
  unfold State.backInvals
  repeat' (first | with_reducible (first | assumption | exact Keep.refl _ | apply Keep.ite | apply Keep.ite2 | apply Keep.ite3 | intro _ | apply State.backInval_keep | apply Keep.foldl3 | apply Keep.foldl2 | apply Keep.foldl | (intro _ _ _) | (intro _ _)) | dsimp only | dsimp only [id] | simp only [Keep.mk_iff] | split | with_reducible refine Keep.of_eq2 (by assumption) ?_ | with_reducible refine Keep.of_eq3 (by assumption) ?_)

theorem State.makeRoom_keep {s0 : State} {s : State} {ln : Nat} {t : State} (e : State.makeRoom s ln = some t) (hk : Keep s0 s) : Keep s0 t := by
  unfold State.makeRoom at e
  dsimp only at e
  split at e
  · cases e; exact hk
  · split at e
    · cases e
    · split at e
      · cases e
      · cases e
        apply State.count_keep
        simp only [Keep.mk_iff]
        apply State.dropEnt_keep
        apply State.backInvals_keep
        exact hk

theorem State.cohRead_keep {s0 : State} (s : State) (ln handle : Nat) (hk : Keep s0 s) : Keep s0 (State.cohRead s ln handle).2 := by
  unfold State.cohRead
  repeat' (first | with_reducible (first | assumption | exact Keep.refl _ | apply Keep.ite | apply Keep.ite2 | apply Keep.ite3 | intro _ | apply State.demand_keep | apply Keep.foldl3 | apply Keep.foldl2 | apply Keep.foldl | (intro _ _ _) | (intro _ _)) | dsimp only | dsimp only [id] | simp only [Keep.mk_iff] | split | with_reducible refine Keep.of_eq2 (by assumption) ?_ | with_reducible refine Keep.of_eq3 (by assumption) ?_)

theorem State.cohWrite_keep {s0 : State} (s : State) (ln : Nat) (d : List Byte) (handle : Nat) (hk : Keep s0 s) : Keep s0 (State.cohWrite s ln d handle) := by
  unfold State.cohWrite
  repeat' (first | with_reducible (first | assumption | exact Keep.refl _ | apply Keep.ite | apply Keep.ite2 | apply Keep.ite3 | intro _ | apply State.drawKey_keep | apply State.writePiece_keep | apply Keep.foldl3 | apply Keep.foldl2 | apply Keep.foldl | (intro _ _ _) | (intro _ _)) | dsimp only | dsimp only [id] | simp only [Keep.mk_iff] | split | with_reducible refine Keep.of_eq2 (by assumption) ?_ | with_reducible refine Keep.of_eq3 (by assumption) ?_)

theorem State.loseLine_keep {s0 : State} (s : State) (ln b cause : Nat) (hk : Keep s0 s) : Keep s0 (State.loseLine s ln b cause) := by
  unfold State.loseLine
  repeat' (first | with_reducible (first | assumption | exact Keep.refl _ | apply Keep.ite | apply Keep.ite2 | apply Keep.ite3 | intro _ | apply State.poisonLine_keep | apply State.count_keep | apply State.poisonCopies_keep | apply State.noteFault_keep | apply Keep.foldl3 | apply Keep.foldl2 | apply Keep.foldl | (intro _ _ _) | (intro _ _)) | dsimp only | dsimp only [id] | simp only [Keep.mk_iff] | split | with_reducible refine Keep.of_eq2 (by assumption) ?_ | with_reducible refine Keep.of_eq3 (by assumption) ?_)

theorem State.loseHolding_keep {s0 : State} (s : State) (ln b cause : Nat) (hk : Keep s0 s) : Keep s0 (State.loseHolding s ln b cause) := by
  unfold State.loseHolding
  repeat' (first | with_reducible (first | assumption | exact Keep.refl _ | apply Keep.ite | apply Keep.ite2 | apply Keep.ite3 | intro _ | apply State.putOpt_keep | apply State.count_keep | apply State.dropEnt_keep | apply State.loseLine_keep | apply Keep.foldl3 | apply Keep.foldl2 | apply Keep.foldl | (intro _ _ _) | (intro _ _)) | dsimp only | dsimp only [id] | simp only [Keep.mk_iff] | split | with_reducible refine Keep.of_eq2 (by assumption) ?_ | with_reducible refine Keep.of_eq3 (by assumption) ?_)

theorem State.startGrace_keep {s0 : State} (s : State) (b : Nat) (hk : Keep s0 s) : Keep s0 (State.startGrace s b) := by
  unfold State.startGrace
  repeat' (first | with_reducible (first | assumption | exact Keep.refl _ | apply Keep.ite | apply Keep.ite2 | apply Keep.ite3 | intro _ | apply State.wr_keep | apply Keep.foldl3 | apply Keep.foldl2 | apply Keep.foldl | (intro _ _ _) | (intro _ _)) | dsimp only | dsimp only [id] | simp only [Keep.mk_iff] | split | with_reducible refine Keep.of_eq2 (by assumption) ?_ | with_reducible refine Keep.of_eq3 (by assumption) ?_)

theorem State.recorded_keep {s0 : State} (s : State) (ln b : Nat) (hk : Keep s0 s) : Keep s0 (State.recorded s ln b) := by
  unfold State.recorded
  repeat' (first | with_reducible (first | assumption | exact Keep.refl _ | apply Keep.ite | apply Keep.ite2 | apply Keep.ite3 | intro _ | apply State.loseHolding_keep | apply State.startGrace_keep | apply Keep.foldl3 | apply Keep.foldl2 | apply Keep.foldl | (intro _ _ _) | (intro _ _)) | dsimp only | dsimp only [id] | simp only [Keep.mk_iff] | split | with_reducible refine Keep.of_eq2 (by assumption) ?_ | with_reducible refine Keep.of_eq3 (by assumption) ?_)

theorem State.fromMemory_keep {s0 : State} (s : State) (ln : Nat) (r : Req) (grant : Nat) (hk : Keep s0 s) : Keep s0 (State.fromMemory s ln r grant) := by
  unfold State.fromMemory
  repeat' (first | with_reducible (first | assumption | exact Keep.refl _ | apply Keep.ite | apply Keep.ite2 | apply Keep.ite3 | intro _ | apply State.cohRead_keep | apply State.answer_keep | apply State.noteFault_keep | refine State.makeRoom_keep (by assumption) ?_ | apply State.hold_keep | apply State.putEnt_keep | apply State.recorded_keep | apply Keep.foldl3 | apply Keep.foldl2 | apply Keep.foldl | (intro _ _ _) | (intro _ _)) | dsimp only | dsimp only [id] | simp only [Keep.mk_iff] | split | with_reducible refine Keep.of_eq2 (by assumption) ?_ | with_reducible refine Keep.of_eq3 (by assumption) ?_)

theorem State.putPend_keep {s0 : State} (s : State) (ln : Nat) (q : Pend) (hk : Keep s0 s) : Keep s0 (State.putPend s ln q) := by
  unfold State.putPend
  repeat' (first | with_reducible (first | assumption | exact Keep.refl _ | apply Keep.ite | apply Keep.ite2 | apply Keep.ite3 | intro _ | apply State.setPend_keep | apply Keep.foldl3 | apply Keep.foldl2 | apply Keep.foldl | (intro _ _ _) | (intro _ _)) | dsimp only | dsimp only [id] | simp only [Keep.mk_iff] | split | with_reducible refine Keep.of_eq2 (by assumption) ?_ | with_reducible refine Keep.of_eq3 (by assumption) ?_)

theorem State.sendFwd_keep {s0 : State} (s : State) (ln k b : Nat) (r : Req) (own : Bool) (grant : Nat) (hk : Keep s0 s) : Keep s0 (State.sendFwd s ln k b r own grant) := by
  unfold State.sendFwd
  repeat' (first | with_reducible (first | assumption | exact Keep.refl _ | apply Keep.ite | apply Keep.ite2 | apply Keep.ite3 | intro _ | apply State.setPend_keep | apply State.count_keep | apply State.originate_keep | apply Keep.foldl3 | apply Keep.foldl2 | apply Keep.foldl | (intro _ _ _) | (intro _ _)) | dsimp only | dsimp only [id] | simp only [Keep.mk_iff] | split | with_reducible refine Keep.of_eq2 (by assumption) ?_ | with_reducible refine Keep.of_eq3 (by assumption) ?_)

theorem State.collectAt_keep {s0 : State} (s : State) (ln k : Nat) (r : Req) (hk : Keep s0 s) : Keep s0 (State.collectAt s ln k r) := by
  unfold State.collectAt
  repeat' (first | with_reducible (first | assumption | exact Keep.refl _ | apply Keep.ite | apply Keep.ite2 | apply Keep.ite3 | intro _ | apply State.setPend_keep | apply Keep.foldl3 | apply Keep.foldl2 | apply Keep.foldl | (intro _ _ _) | (intro _ _)) | dsimp only | dsimp only [id] | simp only [Keep.mk_iff] | split | with_reducible refine Keep.of_eq2 (by assumption) ?_ | with_reducible refine Keep.of_eq3 (by assumption) ?_)

theorem State.collectOn_keep {s0 : State} (s : State) (ln : Nat) (r : Req) (hk : Keep s0 s) : Keep s0 (State.collectOn s ln r) := by
  unfold State.collectOn
  repeat' (first | with_reducible (first | assumption | exact Keep.refl _ | apply Keep.ite | apply Keep.ite2 | apply Keep.ite3 | intro _ | apply State.backInvals_keep | apply State.setPend_keep | apply State.putEnt_keep | apply State.answer_keep | apply State.recorded_keep | apply State.fromMemory_keep | apply State.sendFwd_keep | apply Keep.foldl3 | apply Keep.foldl2 | apply Keep.foldl | (intro _ _ _) | (intro _ _)) | dsimp only | dsimp only [id] | simp only [Keep.mk_iff] | split | with_reducible refine Keep.of_eq2 (by assumption) ?_ | with_reducible refine Keep.of_eq3 (by assumption) ?_)

theorem State.recallOn_keep {s0 : State} (s : State) (ln : Nat) (hk : Keep s0 s) : Keep s0 (State.recallOn s ln) := by
  unfold State.recallOn
  repeat' (first | with_reducible (first | assumption | exact Keep.refl _ | apply Keep.ite | apply Keep.ite2 | apply Keep.ite3 | intro _ | apply State.backInvals_keep | apply State.setPend_keep | apply Keep.foldl3 | apply Keep.foldl2 | apply Keep.foldl | (intro _ _ _) | (intro _ _)) | dsimp only | dsimp only [id] | simp only [Keep.mk_iff] | split | with_reducible refine Keep.of_eq2 (by assumption) ?_ | with_reducible refine Keep.of_eq3 (by assumption) ?_)

theorem State.finish_keep {s0 : State} (s : State) (r : Req) (hk : Keep s0 s) : Keep s0 (State.finish s r) := by
  unfold State.finish
  repeat' (first | with_reducible (first | assumption | exact Keep.refl _ | apply Keep.ite | apply Keep.ite2 | apply Keep.ite3 | intro _ | apply State.updPort_keep | apply Keep.foldl3 | apply Keep.foldl2 | apply Keep.foldl | (intro _ _ _) | (intro _ _)) | dsimp only | dsimp only [id] | simp only [Keep.mk_iff] | split | with_reducible refine Keep.of_eq2 (by assumption) ?_ | with_reducible refine Keep.of_eq3 (by assumption) ?_)

theorem State.ackEnt_keep {s0 : State} (s : State) (ln : Nat) (e : DirEnt) (hk : Keep s0 s) : Keep s0 (State.ackEnt s ln e) := by
  unfold State.ackEnt
  apply State.putEnt_keep
  cases h : s.makeRoom ln with
  | none => exact hk
  | some t => exact State.makeRoom_keep h hk

theorem State.applyAck_keep {s0 : State} (s : State) (ln : Nat) (f : Fwd) (out kept : Nat) (d : Option (List Byte)) (hk : Keep s0 s) : Keep s0 (State.applyAck s ln f out kept d) := by
  unfold State.applyAck
  repeat' (first | with_reducible (first | assumption | exact Keep.refl _ | apply Keep.ite | apply Keep.ite2 | apply Keep.ite3 | intro _ | apply State.cohWrite_keep | apply State.finish_keep | apply State.ackEnt_keep | apply State.putEnt_keep | apply State.recorded_keep | apply State.fromMemory_keep | apply State.count_keep | apply State.dropEnt_keep | apply State.setPend_keep | apply State.loseHolding_keep | apply State.putOpt_keep | apply Keep.foldl3 | apply Keep.foldl2 | apply Keep.foldl | (intro _ _ _) | (intro _ _)) | dsimp only | dsimp only [id] | simp only [Keep.mk_iff] | split | with_reducible refine Keep.of_eq2 (by assumption) ?_ | with_reducible refine Keep.of_eq3 (by assumption) ?_)

theorem State.repeated_keep {s0 : State} (s : State) (ln k : Nat) (e : DirEnt) (r : Req) (hk : Keep s0 s) : Keep s0 (State.repeated s ln k e r) := by
  unfold State.repeated
  repeat' (first | with_reducible (first | assumption | exact Keep.refl _ | apply Keep.ite | apply Keep.ite2 | apply Keep.ite3 | intro _ | apply State.loseLine_keep | apply State.dropEnt_keep | apply State.fromMemory_keep | apply State.cohRead_keep | apply State.answer_keep | apply State.noteFault_keep | apply State.collectAt_keep | apply Keep.foldl3 | apply Keep.foldl2 | apply Keep.foldl | (intro _ _ _) | (intro _ _)) | dsimp only | dsimp only [id] | simp only [Keep.mk_iff] | split | with_reducible refine Keep.of_eq2 (by assumption) ?_ | with_reducible refine Keep.of_eq3 (by assumption) ?_)

theorem State.serveAt_keep {s0 : State} {s : State} {ln k : Nat} {r : Req} {t : State} (e : State.serveAt s ln k r = some t)
    (hk : Keep s0 s) : Keep s0 t := by
  unfold State.serveAt at e
  split at e
  · rw [Option.map_eq_some_iff] at e
    obtain ⟨u, hu, rfl⟩ := e
    exact State.fromMemory_keep _ _ _ _ (State.makeRoom_keep hu hk)
  · have e := Option.some.inj e
    subst e
    repeat' (first | with_reducible (first | assumption | apply Keep.ite | intro _ | apply State.repeated_keep | apply State.sendFwd_keep | apply State.collectAt_keep | apply State.fromMemory_keep) | split)

theorem State.awaitOver_keep {s0 : State} (s : State) (ln : Nat) (hk : Keep s0 s) : Keep s0 (State.awaitOver s ln) := by
  unfold State.awaitOver
  repeat' (first | with_reducible (first | assumption | exact Keep.refl _ | apply Keep.ite | apply Keep.ite2 | apply Keep.ite3 | intro _ | apply State.fromMemory_keep | apply State.count_keep | apply State.setPend_keep | apply Keep.foldl3 | apply Keep.foldl2 | apply Keep.foldl | (intro _ _ _) | (intro _ _)) | dsimp only | dsimp only [id] | simp only [Keep.mk_iff] | split | with_reducible refine Keep.of_eq2 (by assumption) ?_ | with_reducible refine Keep.of_eq3 (by assumption) ?_)

theorem State.takeAwaited_keep {s0 : State} (s : State) (ln : Nat) (r : Req) (hk : Keep s0 s) : Keep s0 (State.takeAwaited s ln r) := by
  unfold State.takeAwaited
  repeat' (first | with_reducible (first | assumption | exact Keep.refl _ | apply Keep.ite | apply Keep.ite2 | apply Keep.ite3 | intro _ | apply State.cohWrite_keep | apply State.answer_keep | apply State.awaitOver_keep | apply Keep.foldl3 | apply Keep.foldl2 | apply Keep.foldl | (intro _ _ _) | (intro _ _)) | dsimp only | dsimp only [id] | simp only [Keep.mk_iff] | split | with_reducible refine Keep.of_eq2 (by assumption) ?_ | with_reducible refine Keep.of_eq3 (by assumption) ?_)

theorem State.lineTurn_keep {s0 : State} {s : State} {ln : Nat} {t : State} (e : State.lineTurn s ln = some t)
    (hk : Keep s0 s) : Keep s0 t := by
  unfold State.lineTurn at e
  dsimp only at e
  split at e
  · rw [Option.map_eq_some_iff] at e
    obtain ⟨r, _, rfl⟩ := e
    exact State.takeAwaited_keep _ _ _ (State.takeWaiter_keep _ _ _ hk)
  · split at e
    · rw [Option.map_eq_some_iff] at e
      obtain ⟨a, _, rfl⟩ := e
      exact State.applyAck_keep _ _ _ _ _ _ (State.setPend_keep _ _ _ hk)
    · split at e
      · cases e
      · cases e
        exact State.collectOn_keep _ _ _ hk
    · cases e
    · exact State.serveAt_keep e (State.setPend_keep _ _ _ hk)
    · split at e
      · cases e
        exact State.recallOn_keep _ _ hk
      · cases e

theorem State.lineTurns_keep {s0 : State} (s : State) (ln n : Nat) (hk : Keep s0 s) : Keep s0 (State.lineTurns s ln n) := by
  induction n generalizing s with
  | zero => exact hk
  | succ n ih =>
    unfold State.lineTurns
    split
    · exact hk
    · exact ih _ (State.lineTurn_keep (by assumption) hk)

theorem State.settleLine_keep {s0 : State} (s : State) (ln : Nat) (hk : Keep s0 s) : Keep s0 (State.settleLine s ln) := by
  unfold State.settleLine
  repeat' (first | with_reducible (first | assumption | exact Keep.refl _ | apply Keep.ite | apply Keep.ite2 | apply Keep.ite3 | intro _ | apply State.lineTurns_keep | apply State.putPend_keep | apply Keep.foldl3 | apply Keep.foldl2 | apply Keep.foldl | (intro _ _ _) | (intro _ _)) | dsimp only | dsimp only [id] | simp only [Keep.mk_iff] | split | with_reducible refine Keep.of_eq2 (by assumption) ?_ | with_reducible refine Keep.of_eq3 (by assumption) ?_)

theorem State.specUnused_keep {s0 : State} (s : State) (ln : Nat) (r : Req) (hk : Keep s0 s) : Keep s0 (State.specUnused s ln r) := by
  unfold State.specUnused
  repeat' (first | with_reducible (first | assumption | exact Keep.refl _ | apply Keep.ite | apply Keep.ite2 | apply Keep.ite3 | intro _ | apply State.count_keep | apply State.burst_keep | apply State.errEvent_keep | apply Keep.foldl3 | apply Keep.foldl2 | apply Keep.foldl | (intro _ _ _) | (intro _ _)) | dsimp only | dsimp only [id] | simp only [Keep.mk_iff] | split | with_reducible refine Keep.of_eq2 (by assumption) ?_ | with_reducible refine Keep.of_eq3 (by assumption) ?_)

theorem State.barAt_keep {s0 : State} (s : State) (ln : Nat) (r : Req) (hk : Keep s0 s) : Keep s0 (State.barAt s ln r) := by
  unfold State.barAt
  repeat' (first | with_reducible (first | assumption | exact Keep.refl _ | apply Keep.ite | apply Keep.ite2 | apply Keep.ite3 | intro _ | apply State.setPend_keep | apply State.settleLine_keep | apply Keep.foldl3 | apply Keep.foldl2 | apply Keep.foldl | (intro _ _ _) | (intro _ _)) | dsimp only | dsimp only [id] | simp only [Keep.mk_iff] | split | with_reducible refine Keep.of_eq2 (by assumption) ?_ | with_reducible refine Keep.of_eq3 (by assumption) ?_)

theorem State.cohRequest_keep {s0 : State} (s : State) (ln : Nat) (r : Req) (hk : Keep s0 s) : Keep s0 (State.cohRequest s ln r) := by
  unfold State.cohRequest
  repeat' (first | with_reducible (first | assumption | exact Keep.refl _ | apply Keep.ite | apply Keep.ite2 | apply Keep.ite3 | intro _ | apply State.count_keep | apply State.hold_keep | apply State.specUnused_keep | apply State.barAt_keep | refine State.serveAt_keep (by assumption) ?_ | apply State.settleLine_keep | apply State.sendFwd_keep | apply Keep.foldl3 | apply Keep.foldl2 | apply Keep.foldl | (intro _ _ _) | (intro _ _)) | dsimp only | dsimp only [id] | simp only [Keep.mk_iff] | split | with_reducible refine Keep.of_eq2 (by assumption) ?_ | with_reducible refine Keep.of_eq3 (by assumption) ?_)

theorem State.cohDirty_keep {s0 : State} (s : State) (ln : Nat) (r : Req) (hk : Keep s0 s) : Keep s0 (State.cohDirty s ln r) := by
  unfold State.cohDirty
  repeat' (first | with_reducible (first | assumption | exact Keep.refl _ | apply Keep.ite | apply Keep.ite2 | apply Keep.ite3 | intro _ | apply State.hold_keep | apply State.putEnt_keep | apply State.count_keep | apply State.answer_keep | apply Keep.foldl3 | apply Keep.foldl2 | apply Keep.foldl | (intro _ _ _) | (intro _ _)) | dsimp only | dsimp only [id] | simp only [Keep.mk_iff] | split | with_reducible refine Keep.of_eq2 (by assumption) ?_ | with_reducible refine Keep.of_eq3 (by assumption) ?_)

theorem State.cohWriteback_keep {s0 : State} (s : State) (ln : Nat) (r : Req) (hk : Keep s0 s) : Keep s0 (State.cohWriteback s ln r) := by
  unfold State.cohWriteback
  repeat' (first | with_reducible (first | assumption | exact Keep.refl _ | apply Keep.ite | apply Keep.ite2 | apply Keep.ite3 | intro _ | apply State.hold_keep | apply State.takeAwaited_keep | apply State.settleLine_keep | apply State.cohWrite_keep | apply State.dropEnt_keep | apply State.answer_keep | apply State.count_keep | apply Keep.foldl3 | apply Keep.foldl2 | apply Keep.foldl | (intro _ _ _) | (intro _ _)) | dsimp only | dsimp only [id] | simp only [Keep.mk_iff] | split | with_reducible refine Keep.of_eq2 (by assumption) ?_ | with_reducible refine Keep.of_eq3 (by assumption) ?_)

theorem State.cohEvictClean_keep {s0 : State} (s : State) (ln : Nat) (r : Req) (hk : Keep s0 s) : Keep s0 (State.cohEvictClean s ln r) := by
  unfold State.cohEvictClean
  repeat' (first | with_reducible (first | assumption | exact Keep.refl _ | apply Keep.ite | apply Keep.ite2 | apply Keep.ite3 | intro _ | apply State.hold_keep | apply State.putOpt_keep | apply State.answer_keep | apply Keep.foldl3 | apply Keep.foldl2 | apply Keep.foldl | (intro _ _ _) | (intro _ _)) | dsimp only | dsimp only [id] | simp only [Keep.mk_iff] | split | with_reducible refine Keep.of_eq2 (by assumption) ?_ | with_reducible refine Keep.of_eq3 (by assumption) ?_)

theorem State.beginRecall_keep {s0 : State} (s : State) (ln : Nat) (hk : Keep s0 s) : Keep s0 (State.beginRecall s ln) := by
  unfold State.beginRecall
  repeat' (first | with_reducible (first | assumption | exact Keep.refl _ | apply Keep.ite | apply Keep.ite2 | apply Keep.ite3 | intro _ | apply State.setPend_keep | apply State.settleLine_keep | apply Keep.foldl3 | apply Keep.foldl2 | apply Keep.foldl | (intro _ _ _) | (intro _ _)) | dsimp only | dsimp only [id] | simp only [Keep.mk_iff] | split | with_reducible refine Keep.of_eq2 (by assumption) ?_ | with_reducible refine Keep.of_eq3 (by assumption) ?_)

theorem State.endRecall_keep {s0 : State} (s : State) (ln : Nat) (hk : Keep s0 s) : Keep s0 (State.endRecall s ln) := by
  unfold State.endRecall
  repeat' (first | with_reducible (first | assumption | exact Keep.refl _ | apply Keep.ite | apply Keep.ite2 | apply Keep.ite3 | intro _ | apply State.dropEnt_keep | apply State.putPend_keep | apply Keep.foldl3 | apply Keep.foldl2 | apply Keep.foldl | (intro _ _ _) | (intro _ _)) | dsimp only | dsimp only [id] | simp only [Keep.mk_iff] | split | with_reducible refine Keep.of_eq2 (by assumption) ?_ | with_reducible refine Keep.of_eq3 (by assumption) ?_)

theorem State.keepRecall_keep {s0 : State} (s : State) (ln : Nat) (hk : Keep s0 s) : Keep s0 (State.keepRecall s ln) := by
  unfold State.keepRecall
  repeat' (first | with_reducible (first | assumption | exact Keep.refl _ | apply Keep.ite | apply Keep.ite2 | apply Keep.ite3 | intro _ | apply State.setPend_keep | apply Keep.foldl3 | apply Keep.foldl2 | apply Keep.foldl | (intro _ _ _) | (intro _ _)) | dsimp only | dsimp only [id] | simp only [Keep.mk_iff] | split | with_reducible refine Keep.of_eq2 (by assumption) ?_ | with_reducible refine Keep.of_eq3 (by assumption) ?_)

theorem State.recallFor_keep {s0 : State} (s : State) (e va len : Nat) (wr : Bool) (hk : Keep s0 s) : Keep s0 (State.recallFor s e va len wr).2 := by
  unfold State.recallFor
  repeat' (first | with_reducible (first | assumption | exact Keep.refl _ | apply Keep.ite | apply Keep.ite2 | apply Keep.ite3 | intro _ | apply State.wr_keep | apply State.beginRecall_keep | apply State.endRecall_keep | apply State.wake_keep | apply Keep.foldl3 | apply Keep.foldl2 | apply Keep.foldl | (intro _ _ _) | (intro _ _)) | dsimp only | dsimp only [id] | simp only [Keep.mk_iff] | split | with_reducible refine Keep.of_eq2 (by assumption) ?_ | with_reducible refine Keep.of_eq3 (by assumption) ?_)

theorem State.dropOwed_keep {s0 : State} (s : State) (ln b : Nat) (hk : Keep s0 s) : Keep s0 (State.dropOwed s ln b) := by
  unfold State.dropOwed
  repeat' (first | with_reducible (first | assumption | exact Keep.refl _ | apply Keep.ite | apply Keep.ite2 | apply Keep.ite3 | intro _ | apply State.setPend_keep | apply State.awaitOver_keep | apply State.settleLine_keep | apply Keep.foldl3 | apply Keep.foldl2 | apply Keep.foldl | (intro _ _ _) | (intro _ _)) | dsimp only | dsimp only [id] | simp only [Keep.mk_iff] | split | with_reducible refine Keep.of_eq2 (by assumption) ?_ | with_reducible refine Keep.of_eq3 (by assumption) ?_)

theorem State.rejudge_keep {s0 : State} (s : State) (p id : Nat) (hk : Keep s0 s) : Keep s0 (State.rejudge s p id) := by
  unfold State.rejudge
  repeat' (first | with_reducible (first | assumption | exact Keep.refl _ | apply Keep.ite | apply Keep.ite2 | apply Keep.ite3 | intro _ | apply State.hold_keep | apply Keep.foldl3 | apply Keep.foldl2 | apply Keep.foldl | (intro _ _ _) | (intro _ _)) | dsimp only | dsimp only [id] | simp only [Keep.mk_iff] | split | with_reducible refine Keep.of_eq2 (by assumption) ?_ | with_reducible refine Keep.of_eq3 (by assumption) ?_)

theorem State.holderLost_keep {s0 : State} (s : State) (b cause : Nat) (hk : Keep s0 s) : Keep s0 (State.holderLost s b cause) := by
  unfold State.holderLost
  repeat' (first | with_reducible (first | assumption | exact Keep.refl _ | apply Keep.ite | apply Keep.ite2 | apply Keep.ite3 | intro _ | apply State.loseHolding_keep | apply State.loseLine_keep | apply State.dropOwed_keep | apply State.rejudge_keep | apply State.backInval_keep | apply State.wr_keep | apply Keep.foldl3 | apply Keep.foldl2 | apply Keep.foldl | (intro _ _ _) | (intro _ _)) | dsimp only | dsimp only [id] | simp only [Keep.mk_iff] | split | with_reducible refine Keep.of_eq2 (by assumption) ?_ | with_reducible refine Keep.of_eq3 (by assumption) ?_)

end Sys2Proof.Machine
end

