-- ==== Sys2Proof/Laws/KeepPairs.lean ====
section
/-!
SUPPORT. The operations and meanings of Machine/Pairs.lean keep the queue, the fuses and the form of memory.
-/

namespace Sys2Proof.Machine

theorem State.setDirty_keep {s0 : State} (s : State) (n t v : Nat) (hk : Keep s0 s) : Keep s0 (State.setDirty s n t v) := by
  unfold State.setDirty
  repeat' (first | with_reducible (first | assumption | exact Keep.refl _ | apply Keep.ite | apply Keep.ite2 | apply Keep.ite3 | intro _ | apply State.setCont_keep | apply State.wr_keep | apply Keep.foldl3 | apply Keep.foldl2 | apply Keep.foldl | (intro _ _ _) | (intro _ _)) | dsimp only | dsimp only [id] | simp only [Keep.mk_iff] | split | with_reducible refine Keep.of_eq2 (by assumption) ?_ | with_reducible refine Keep.of_eq3 (by assumption) ?_)

theorem State.markDirty_keep {s0 : State} (s : State) (n t off : Nat) (hk : Keep s0 s) : Keep s0 (State.markDirty s n t off) := by
  unfold State.markDirty
  repeat' (first | with_reducible (first | assumption | exact Keep.refl _ | apply Keep.ite | apply Keep.ite2 | apply Keep.ite3 | intro _ | apply State.setDirty_keep | apply Keep.foldl3 | apply Keep.foldl2 | apply Keep.foldl | (intro _ _ _) | (intro _ _)) | dsimp only | dsimp only [id] | simp only [Keep.mk_iff] | split | with_reducible refine Keep.of_eq2 (by assumption) ?_ | with_reducible refine Keep.of_eq3 (by assumption) ?_)

theorem State.allDirty_keep {s0 : State} (s : State) (n : Nat) (hk : Keep s0 s) : Keep s0 (State.allDirty s n) := by
  unfold State.allDirty
  repeat' (first | with_reducible (first | assumption | exact Keep.refl _ | apply Keep.ite | apply Keep.ite2 | apply Keep.ite3 | intro _ | apply State.setDirty_keep | apply Keep.foldl3 | apply Keep.foldl2 | apply Keep.foldl | (intro _ _ _) | (intro _ _)) | dsimp only | dsimp only [id] | simp only [Keep.mk_iff] | split | with_reducible refine Keep.of_eq2 (by assumption) ?_ | with_reducible refine Keep.of_eq3 (by assumption) ?_)

theorem State.resyncRead_keep {s0 : State} (s : State) (e va len : Nat) (hk : Keep s0 s) : Keep s0 (State.resyncRead s e va len).2 := by
  unfold State.resyncRead
  repeat' (first | with_reducible (first | assumption | exact Keep.refl _ | apply Keep.ite | apply Keep.ite2 | apply Keep.ite3 | intro _ | apply State.readFinal_keep | apply State.draw_keep | apply Keep.foldl3 | apply Keep.foldl2 | apply Keep.foldl | (intro _ _ _) | (intro _ _)) | dsimp only | dsimp only [id] | simp only [Keep.mk_iff] | split | with_reducible refine Keep.of_eq2 (by assumption) ?_ | with_reducible refine Keep.of_eq3 (by assumption) ?_)

theorem State.sendPair_keep {s0 : State} (s : State) (n port off : Nat) (d : List Byte) (why : Purpose) (hk : Keep s0 s) : Keep s0 (State.sendPair s n port off d why) := by
  unfold State.sendPair
  repeat' (first | with_reducible (first | assumption | exact Keep.refl _ | apply Keep.ite | apply Keep.ite2 | apply Keep.ite3 | intro _ | apply State.originate_keep | apply Keep.foldl3 | apply Keep.foldl2 | apply Keep.foldl | (intro _ _ _) | (intro _ _)) | dsimp only | dsimp only [id] | simp only [Keep.mk_iff] | split | with_reducible refine Keep.of_eq2 (by assumption) ?_ | with_reducible refine Keep.of_eq3 (by assumption) ?_)

theorem State.pairDone_keep {s0 : State} (s : State) (n port id : Nat) (hk : Keep s0 s) : Keep s0 (State.pairDone s n port id) := by
  unfold State.pairDone
  repeat' (first | with_reducible (first | assumption | exact Keep.refl _ | apply Keep.ite | apply Keep.ite2 | apply Keep.ite3 | intro _ | apply State.answer_keep | apply Keep.foldl3 | apply Keep.foldl2 | apply Keep.foldl | (intro _ _ _) | (intro _ _)) | dsimp only | dsimp only [id] | simp only [Keep.mk_iff] | split | with_reducible refine Keep.of_eq2 (by assumption) ?_ | with_reducible refine Keep.of_eq3 (by assumption) ?_)

theorem State.pairDoneAll_keep {s0 : State} (s : State) (n : Nat) (hk : Keep s0 s) : Keep s0 (State.pairDoneAll s n) := by
  unfold State.pairDoneAll
  repeat' (first | with_reducible (first | assumption | exact Keep.refl _ | apply Keep.ite | apply Keep.ite2 | apply Keep.ite3 | intro _ | apply State.pairDone_keep | apply Keep.foldl3 | apply Keep.foldl2 | apply Keep.foldl | (intro _ _ _) | (intro _ _)) | dsimp only | dsimp only [id] | simp only [Keep.mk_iff] | split | with_reducible refine Keep.of_eq2 (by assumption) ?_ | with_reducible refine Keep.of_eq3 (by assumption) ?_)

theorem State.dropPairReqs_keep {s0 : State} (s : State) (n : Nat) (hk : Keep s0 s) : Keep s0 (State.dropPairReqs s n) := by
  unfold State.dropPairReqs
  repeat' (first | with_reducible (first | assumption | exact Keep.refl _ | apply Keep.ite | apply Keep.ite2 | apply Keep.ite3 | intro _ | apply Keep.foldl3 | apply Keep.foldl2 | apply Keep.foldl | (intro _ _ _) | (intro _ _)) | dsimp only | dsimp only [id] | simp only [Keep.mk_iff] | split | with_reducible refine Keep.of_eq2 (by assumption) ?_ | with_reducible refine Keep.of_eq3 (by assumption) ?_)

theorem State.degrade_keep {s0 : State} (s : State) (n : Nat) (hk : Keep s0 s) : Keep s0 (State.degrade s n) := by
  unfold State.degrade
  repeat' (first | with_reducible (first | assumption | exact Keep.refl _ | apply Keep.ite | apply Keep.ite2 | apply Keep.ite3 | intro _ | apply State.wr_keep | apply State.count_keep | apply State.markDirty_keep | apply State.setCont_keep | apply State.dropPairReqs_keep | apply State.pairDoneAll_keep | apply State.wake_keep | apply Keep.foldl3 | apply Keep.foldl2 | apply Keep.foldl | (intro _ _ _) | (intro _ _)) | dsimp only | dsimp only [id] | simp only [Keep.mk_iff] | split | with_reducible refine Keep.of_eq2 (by assumption) ?_ | with_reducible refine Keep.of_eq3 (by assumption) ?_)

theorem State.resyncEnd_keep {s0 : State} (s : State) (n : Nat) (hk : Keep s0 s) : Keep s0 (State.resyncEnd s n) := by
  unfold State.resyncEnd
  repeat' (first | with_reducible (first | assumption | exact Keep.refl _ | apply Keep.ite | apply Keep.ite2 | apply Keep.ite3 | intro _ | apply State.wr_keep | apply Keep.foldl3 | apply Keep.foldl2 | apply Keep.foldl | (intro _ _ _) | (intro _ _)) | dsimp only | dsimp only [id] | simp only [Keep.mk_iff] | split | with_reducible refine Keep.of_eq2 (by assumption) ?_ | with_reducible refine Keep.of_eq3 (by assumption) ?_)

theorem State.followPairPorts_keep {s0 : State} (s : State) (up : List Nat) (hk : Keep s0 s) : Keep s0 (State.followPairPorts s up) := by
  unfold State.followPairPorts
  repeat' (first | with_reducible (first | assumption | exact Keep.refl _ | apply Keep.ite | apply Keep.ite2 | apply Keep.ite3 | intro _ | apply State.degrade_keep | apply State.wr_keep | apply State.resyncEnd_keep | apply Keep.foldl3 | apply Keep.foldl2 | apply Keep.foldl | (intro _ _ _) | (intro _ _)) | dsimp only | dsimp only [id] | simp only [Keep.mk_iff] | split | with_reducible refine Keep.of_eq2 (by assumption) ?_ | with_reducible refine Keep.of_eq3 (by assumption) ?_)

theorem State.admissionChanged_keep {s0 : State} (s : State) (p : Nat) (was : Bool) (hk : Keep s0 s) : Keep s0 (State.admissionChanged s p was) := by
  unfold State.admissionChanged
  repeat' (first | with_reducible (first | assumption | exact Keep.refl _ | apply Keep.ite | apply Keep.ite2 | apply Keep.ite3 | intro _ | apply State.followPairPorts_keep | apply Keep.foldl3 | apply Keep.foldl2 | apply Keep.foldl | (intro _ _ _) | (intro _ _)) | dsimp only | dsimp only [id] | simp only [Keep.mk_iff] | split | with_reducible refine Keep.of_eq2 (by assumption) ?_ | with_reducible refine Keep.of_eq3 (by assumption) ?_)

theorem State.pairAnswer_keep {s0 : State} (s : State) (n e va len : Nat) (r : Req) (st : Nat) (body : List Byte) (hk : Keep s0 s) : Keep s0 (State.pairAnswer s n e va len r st body) := by
  unfold State.pairAnswer
  repeat' (first | with_reducible (first | assumption | exact Keep.refl _ | apply Keep.ite | apply Keep.ite2 | apply Keep.ite3 | intro _ | apply State.degrade_keep | apply State.markDirty_keep | apply State.answer_keep | apply State.sendPair_keep | apply State.hold_keep | apply Keep.foldl3 | apply Keep.foldl2 | apply Keep.foldl | (intro _ _ _) | (intro _ _)) | dsimp only | dsimp only [id] | simp only [Keep.mk_iff] | split | with_reducible refine Keep.of_eq2 (by assumption) ?_ | with_reducible refine Keep.of_eq3 (by assumption) ?_)

theorem State.pairForward_keep {s0 : State} (s : State) (p e va len : Nat) (hk : Keep s0 s) : Keep s0 (State.pairForward s p e va len) := by
  unfold State.pairForward
  repeat' (first | with_reducible (first | assumption | exact Keep.refl _ | apply Keep.ite | apply Keep.ite2 | apply Keep.ite3 | intro _ | apply State.setCont_keep | apply State.degrade_keep | apply State.markDirty_keep | apply State.sendPair_keep | apply Keep.foldl3 | apply Keep.foldl2 | apply Keep.foldl | (intro _ _ _) | (intro _ _)) | dsimp only | dsimp only [id] | simp only [Keep.mk_iff] | split | with_reducible refine Keep.of_eq2 (by assumption) ?_ | with_reducible refine Keep.of_eq3 (by assumption) ?_)

theorem State.sendAgain_keep {s0 : State} (s : State) (n : Nat) (hk : Keep s0 s) : Keep s0 (State.sendAgain s n) := by
  unfold State.sendAgain
  repeat' (first | with_reducible (first | assumption | exact Keep.refl _ | apply Keep.ite | apply Keep.ite2 | apply Keep.ite3 | intro _ | apply State.setCont_keep | apply State.sendPair_keep | apply Keep.foldl3 | apply Keep.foldl2 | apply Keep.foldl | (intro _ _ _) | (intro _ _)) | dsimp only | dsimp only [id] | simp only [Keep.mk_iff] | split | with_reducible refine Keep.of_eq2 (by assumption) ?_ | with_reducible refine Keep.of_eq3 (by assumption) ?_)

theorem State.resyncSend_keep {s0 : State} (s : State) (n t : Nat) (hk : Keep s0 s) : Keep s0 (State.resyncSend s n t) := by
  unfold State.resyncSend
  repeat' (first | with_reducible (first | assumption | exact Keep.refl _ | apply Keep.ite | apply Keep.ite2 | apply Keep.ite3 | intro _ | apply State.resyncRead_keep | apply State.setCont_keep | apply State.sendPair_keep | apply Keep.foldl3 | apply Keep.foldl2 | apply Keep.foldl | (intro _ _ _) | (intro _ _)) | dsimp only | dsimp only [id] | simp only [Keep.mk_iff] | split | with_reducible refine Keep.of_eq2 (by assumption) ?_ | with_reducible refine Keep.of_eq3 (by assumption) ?_)

theorem State.resyncDone_keep {s0 : State} (s : State) (n t : Nat) (hk : Keep s0 s) : Keep s0 (State.resyncDone s n t) := by
  unfold State.resyncDone
  repeat' (first | with_reducible (first | assumption | exact Keep.refl _ | apply Keep.ite | apply Keep.ite2 | apply Keep.ite3 | intro _ | apply State.setCont_keep | apply State.setDirty_keep | apply State.count_keep | apply State.resyncEnd_keep | apply Keep.foldl3 | apply Keep.foldl2 | apply Keep.foldl | (intro _ _ _) | (intro _ _)) | dsimp only | dsimp only [id] | simp only [Keep.mk_iff] | split | with_reducible refine Keep.of_eq2 (by assumption) ?_ | with_reducible refine Keep.of_eq3 (by assumption) ?_)

theorem State.pairAnswered_keep {s0 : State} (s : State) (x : PartReq) (st : Nat) (hk : Keep s0 s) : Keep s0 (State.pairAnswered s x st) := by
  unfold State.pairAnswered
  repeat' (first | with_reducible (first | assumption | exact Keep.refl _ | apply Keep.ite | apply Keep.ite2 | apply Keep.ite3 | intro _ | apply State.settle_keep | apply State.pairDone_keep | apply State.sendAgain_keep | apply State.wake_keep | apply State.markDirty_keep | apply State.degrade_keep | apply State.resyncDone_keep | apply Keep.foldl3 | apply Keep.foldl2 | apply Keep.foldl | (intro _ _ _) | (intro _ _)) | dsimp only | dsimp only [id] | simp only [Keep.mk_iff] | split | with_reducible refine Keep.of_eq2 (by assumption) ?_ | with_reducible refine Keep.of_eq3 (by assumption) ?_)

theorem State.pairGivenUp_keep {s0 : State} (s : State) (x : PartReq) (n : Nat) (hk : Keep s0 s) : Keep s0 (State.pairGivenUp s x n) := by
  unfold State.pairGivenUp
  repeat' (first | with_reducible (first | assumption | exact Keep.refl _ | apply Keep.ite | apply Keep.ite2 | apply Keep.ite3 | intro _ | apply State.settle_keep | apply State.originate_keep | apply State.markDirty_keep | apply State.degrade_keep | apply Keep.foldl3 | apply Keep.foldl2 | apply Keep.foldl | (intro _ _ _) | (intro _ _)) | dsimp only | dsimp only [id] | simp only [Keep.mk_iff] | split | with_reducible refine Keep.of_eq2 (by assumption) ?_ | with_reducible refine Keep.of_eq3 (by assumption) ?_)

end Sys2Proof.Machine
end

