-- ==== Sys2Proof/Laws/KeepHomeMem.lean ====
section
/-!
SUPPORT. The operations and meanings of Machine/HomeMem.lean keep the queue, the fuses and the form of memory.
-/

namespace Sys2Proof.Machine

theorem State.failHome_keep {s0 : State} (s : State) (r : Req) (va st : Nat) (tag : Bool) (hk : Keep s0 s) : Keep s0 (State.failHome s r va st tag) := by
  unfold State.failHome
  repeat' (first | with_reducible (first | assumption | exact Keep.refl _ | apply Keep.ite | apply Keep.ite2 | apply Keep.ite3 | intro _ | apply State.tagRefusal_keep | apply State.answerSt_keep | apply Keep.foldl3 | apply Keep.foldl2 | apply Keep.foldl | (intro _ _ _) | (intro _ _)) | dsimp only | dsimp only [id] | simp only [Keep.mk_iff] | split | with_reducible refine Keep.of_eq2 (by assumption) ?_ | with_reducible refine Keep.of_eq3 (by assumption) ?_)

theorem State.startRecalls_keep {s0 : State} (s : State) (l : List Nat) (hk : Keep s0 s) : Keep s0 (State.startRecalls s l) := by
  unfold State.startRecalls
  repeat' (first | with_reducible (first | assumption | exact Keep.refl _ | apply Keep.ite | apply Keep.ite2 | apply Keep.ite3 | intro _ | apply State.beginRecall_keep | apply Keep.foldl3 | apply Keep.foldl2 | apply Keep.foldl | (intro _ _ _) | (intro _ _)) | dsimp only | dsimp only [id] | simp only [Keep.mk_iff] | split | with_reducible refine Keep.of_eq2 (by assumption) ?_ | with_reducible refine Keep.of_eq3 (by assumption) ?_)

theorem State.readLines_keep {s0 : State} (s : State) (e va len handle : Nat) (retried : List Nat) (noise : List (Nat × Nat)) (hk : Keep s0 s) : Keep s0 (State.readLines s e va len handle retried noise).2 := by
  unfold State.readLines
  repeat' (first | with_reducible (first | assumption | exact Keep.refl _ | apply Keep.ite | apply Keep.ite2 | apply Keep.ite3 | intro _ | apply State.readLine_keep | apply Keep.foldl3 | apply Keep.foldl2 | apply Keep.foldl | (intro _ _ _) | (intro _ _)) | dsimp only | dsimp only [id] | simp only [Keep.mk_iff] | split | with_reducible refine Keep.of_eq2 (by assumption) ?_ | with_reducible refine Keep.of_eq3 (by assumption) ?_)

theorem State.serveRead_keep {s0 : State} (s : State) (r : Req) (noise : List (Nat × Nat)) (hk : Keep s0 s) : Keep s0 (State.serveRead s r noise) := by
  unfold State.serveRead
  repeat' (first | with_reducible (first | assumption | exact Keep.refl _ | apply Keep.ite | apply Keep.ite2 | apply Keep.ite3 | intro _ | apply State.failHome_keep | apply State.hold_keep | apply State.startRecalls_keep | apply State.demand_keep | apply State.readLines_keep | apply State.answer_keep | apply State.noteFault_keep | apply Keep.foldl3 | apply Keep.foldl2 | apply Keep.foldl | (intro _ _ _) | (intro _ _)) | dsimp only | dsimp only [id] | simp only [Keep.mk_iff] | split | with_reducible refine Keep.of_eq2 (by assumption) ?_ | with_reducible refine Keep.of_eq3 (by assumption) ?_)

theorem State.writeWaits_keep {s0 s : State} {e va len : Nat} {r : Req} {w : Wait} {t : State}
    (q : State.writeWaits s e va len r = some (w, t)) (hk : Keep s0 s) : Keep s0 t := by
  unfold State.writeWaits at q
  split at q
  · cases q; exact hk
  · split at q
    · cases q
      apply State.startRecalls_keep
      exact hk
    · split at q
      · split at q
        · cases q; exact hk
        · cases q
      · cases q

theorem State.serveWrite_keep {s0 : State} (s : State) (r : Req) (noise : List (Nat × Nat)) (hk : Keep s0 s) : Keep s0 (State.serveWrite s r noise) := by
  unfold State.serveWrite
  repeat' (first | with_reducible (first | assumption | exact Keep.refl _ | apply Keep.ite | apply Keep.ite2 | apply Keep.ite3 | intro _ | apply State.failHome_keep | apply State.hold_keep | refine State.writeWaits_keep (by assumption) ?_ | apply State.writeBytes_keep | apply State.noteFault_keep | apply State.pairAnswer_keep | apply State.answerSt_keep | apply Keep.foldl3 | apply Keep.foldl2 | apply Keep.foldl | (intro _ _ _) | (intro _ _)) | dsimp only | dsimp only [id] | simp only [Keep.mk_iff] | split | with_reducible refine Keep.of_eq2 (by assumption) ?_ | with_reducible refine Keep.of_eq3 (by assumption) ?_)

theorem State.serveAtomic_keep {s0 : State} (s : State) (r : Req) (noise : List (Nat × Nat)) (hk : Keep s0 s) : Keep s0 (State.serveAtomic s r noise) := by
  unfold State.serveAtomic
  repeat' (first | with_reducible (first | assumption | exact Keep.refl _ | apply Keep.ite | apply Keep.ite2 | apply Keep.ite3 | intro _ | apply State.failHome_keep | apply State.hold_keep | refine State.writeWaits_keep (by assumption) ?_ | apply State.demand_keep | apply State.readLine_keep | apply State.answer_keep | apply State.noteFault_keep | apply State.answerSt_keep | apply State.writePiece_keep | apply State.pairAnswer_keep | apply Keep.foldl3 | apply Keep.foldl2 | apply Keep.foldl | (intro _ _ _) | (intro _ _)) | dsimp only | dsimp only [id] | simp only [Keep.mk_iff] | split | with_reducible refine Keep.of_eq2 (by assumption) ?_ | with_reducible refine Keep.of_eq3 (by assumption) ?_)

theorem State.serveHeartbeat_keep {s0 : State} (s : State) (r : Req) (hk : Keep s0 s) : Keep s0 (State.serveHeartbeat s r) := by
  unfold State.serveHeartbeat
  repeat' (first | with_reducible (first | assumption | exact Keep.refl _ | apply Keep.ite | apply Keep.ite2 | apply Keep.ite3 | intro _ | apply State.answerSt_keep | apply State.wrs_keep | apply State.answer_keep | apply Keep.foldl3 | apply Keep.foldl2 | apply Keep.foldl | (intro _ _ _) | (intro _ _)) | dsimp only | dsimp only [id] | simp only [Keep.mk_iff] | split | with_reducible refine Keep.of_eq2 (by assumption) ?_ | with_reducible refine Keep.of_eq3 (by assumption) ?_)

theorem State.servePairWrite_keep {s0 : State} (s : State) (r : Req) (hk : Keep s0 s) : Keep s0 (State.servePairWrite s r) := by
  unfold State.servePairWrite
  repeat' (first | with_reducible (first | assumption | exact Keep.refl _ | apply Keep.ite | apply Keep.ite2 | apply Keep.ite3 | intro _ | apply State.answerSt_keep | apply State.hold_keep | apply State.tagRefusal_keep | apply State.writeBytes_keep | apply Keep.foldl3 | apply Keep.foldl2 | apply Keep.foldl | (intro _ _ _) | (intro _ _)) | dsimp only | dsimp only [id] | simp only [Keep.mk_iff] | split | with_reducible refine Keep.of_eq2 (by assumption) ?_ | with_reducible refine Keep.of_eq3 (by assumption) ?_)

theorem State.serveCoherence_keep {s0 : State} (s : State) (r : Req) (hk : Keep s0 s) : Keep s0 (State.serveCoherence s r) := by
  unfold State.serveCoherence
  repeat' (first | with_reducible (first | assumption | exact Keep.refl _ | apply Keep.ite | apply Keep.ite2 | apply Keep.ite3 | intro _ | apply State.failHome_keep | apply State.hold_keep | apply State.cohDirty_keep | apply State.cohWriteback_keep | apply State.cohEvictClean_keep | apply State.cohRequest_keep | apply Keep.foldl3 | apply Keep.foldl2 | apply Keep.foldl | (intro _ _ _) | (intro _ _)) | dsimp only | dsimp only [id] | simp only [Keep.mk_iff] | split | with_reducible refine Keep.of_eq2 (by assumption) ?_ | with_reducible refine Keep.of_eq3 (by assumption) ?_)

theorem State.needKey_keep {s0 : State} (s : State) (d : Nat) (hk : Keep s0 s) : Keep s0 (State.needKey s d) := by
  unfold State.needKey
  repeat' (first | with_reducible (first | assumption | exact Keep.refl _ | apply Keep.ite | apply Keep.ite2 | apply Keep.ite3 | intro _ | apply State.drawKey_keep | apply Keep.foldl3 | apply Keep.foldl2 | apply Keep.foldl | (intro _ _ _) | (intro _ _)) | dsimp only | dsimp only [id] | simp only [Keep.mk_iff] | split | with_reducible refine Keep.of_eq2 (by assumption) ?_ | with_reducible refine Keep.of_eq3 (by assumption) ?_)

theorem State.agentWrite_keep {s0 : State} (s : State) (p e va : Nat) (d : List Byte) (handle : Nat) (hk : Keep s0 s) : Keep s0 (State.agentWrite s p e va d handle).2 := by
  unfold State.agentWrite
  repeat' (first | with_reducible (first | assumption | exact Keep.refl _ | apply Keep.ite | apply Keep.ite2 | apply Keep.ite3 | intro _ | apply State.needKey_keep | apply State.writeBytes_keep | apply State.pairForward_keep | apply Keep.foldl3 | apply Keep.foldl2 | apply Keep.foldl | (intro _ _ _) | (intro _ _)) | dsimp only | dsimp only [id] | simp only [Keep.mk_iff] | split | with_reducible refine Keep.of_eq2 (by assumption) ?_ | with_reducible refine Keep.of_eq3 (by assumption) ?_)

end Sys2Proof.Machine
end

