-- ==== Sys2Proof/Laws/KeepTakes.lean ====
section
/-!
SUPPORT. The operations and meanings of Machine/Takes.lean keep the queue, the fuses and the form of memory.
-/

namespace Sys2Proof.Machine

theorem State.setTake_keep {s0 : State} (s : State) (t : TakeCtl) (hk : Keep s0 s) : Keep s0 (State.setTake s t) := by
  unfold State.setTake
  repeat' (first | with_reducible (first | assumption | exact Keep.refl _ | apply Keep.ite | apply Keep.ite2 | apply Keep.ite3 | intro _ | apply Keep.foldl3 | apply Keep.foldl2 | apply Keep.foldl | (intro _ _ _) | (intro _ _)) | dsimp only | dsimp only [id] | simp only [Keep.mk_iff] | split | with_reducible refine Keep.of_eq2 (by assumption) ?_ | with_reducible refine Keep.of_eq3 (by assumption) ?_)

theorem State.takeIdle_keep {s0 : State} (s : State) (hk : Keep s0 s) : Keep s0 (State.takeIdle s) := by
  unfold State.takeIdle
  repeat' (first | with_reducible (first | assumption | exact Keep.refl _ | apply Keep.ite | apply Keep.ite2 | apply Keep.ite3 | intro _ | apply State.setTake_keep | apply State.wrs_keep | apply Keep.foldl3 | apply Keep.foldl2 | apply Keep.foldl | (intro _ _ _) | (intro _ _)) | dsimp only | dsimp only [id] | simp only [Keep.mk_iff] | split | with_reducible refine Keep.of_eq2 (by assumption) ?_ | with_reducible refine Keep.of_eq3 (by assumption) ?_)

theorem State.takeResult_keep {s0 : State} (s : State) (st entry : Nat) (hk : Keep s0 s) : Keep s0 (State.takeResult s st entry) := by
  unfold State.takeResult
  repeat' (first | with_reducible (first | assumption | exact Keep.refl _ | apply Keep.ite | apply Keep.ite2 | apply Keep.ite3 | intro _ | apply State.wrs_keep | apply Keep.foldl3 | apply Keep.foldl2 | apply Keep.foldl | (intro _ _ _) | (intro _ _)) | dsimp only | dsimp only [id] | simp only [Keep.mk_iff] | split | with_reducible refine Keep.of_eq2 (by assumption) ?_ | with_reducible refine Keep.of_eq3 (by assumption) ?_)

theorem State.showPending_keep {s0 : State} (s : State) (hk : Keep s0 s) : Keep s0 (State.showPending s) := by
  unfold State.showPending
  repeat' (first | with_reducible (first | assumption | exact Keep.refl _ | apply Keep.ite | apply Keep.ite2 | apply Keep.ite3 | intro _ | apply State.wr_keep | apply Keep.foldl3 | apply Keep.foldl2 | apply Keep.foldl | (intro _ _ _) | (intro _ _)) | dsimp only | dsimp only [id] | simp only [Keep.mk_iff] | split | with_reducible refine Keep.of_eq2 (by assumption) ?_ | with_reducible refine Keep.of_eq3 (by assumption) ?_)

theorem State.partMade_keep {s0 : State} (s : State) (k v : Nat) (hk : Keep s0 s) : Keep s0 (State.partMade s k v) := by
  unfold State.partMade
  repeat' (first | with_reducible (first | assumption | exact Keep.refl _ | apply Keep.ite | apply Keep.ite2 | apply Keep.ite3 | intro _ | apply State.wr_keep | apply State.setTake_keep | apply State.takeIdle_keep | apply State.takeResult_keep | apply Keep.foldl3 | apply Keep.foldl2 | apply Keep.foldl | (intro _ _ _) | (intro _ _)) | dsimp only | dsimp only [id] | simp only [Keep.mk_iff] | split | with_reducible refine Keep.of_eq2 (by assumption) ?_ | with_reducible refine Keep.of_eq3 (by assumption) ?_)

theorem State.stageOpen_keep {s0 : State} (s : State) (sess v : Nat) (hk : Keep s0 s) : Keep s0 (State.stageOpen s sess v).2 := by
  unfold State.stageOpen
  repeat' (first | with_reducible (first | assumption | exact Keep.refl _ | apply Keep.ite | apply Keep.ite2 | apply Keep.ite3 | intro _ | apply State.setTake_keep | apply State.wr_keep | apply Keep.foldl3 | apply Keep.foldl2 | apply Keep.foldl | (intro _ _ _) | (intro _ _)) | dsimp only | dsimp only [id] | simp only [Keep.mk_iff] | split | with_reducible refine Keep.of_eq2 (by assumption) ?_ | with_reducible refine Keep.of_eq3 (by assumption) ?_)

theorem State.stageClose_keep {s0 : State} (s : State) (sess v : Nat) (hk : Keep s0 s) : Keep s0 (State.stageClose s sess v).2 := by
  unfold State.stageClose
  repeat' (first | with_reducible (first | assumption | exact Keep.refl _ | apply Keep.ite | apply Keep.ite2 | apply Keep.ite3 | intro _ | apply State.takeIdle_keep | apply Keep.foldl3 | apply Keep.foldl2 | apply Keep.foldl | (intro _ _ _) | (intro _ _)) | dsimp only | dsimp only [id] | simp only [Keep.mk_iff] | split | with_reducible refine Keep.of_eq2 (by assumption) ?_ | with_reducible refine Keep.of_eq3 (by assumption) ?_)

theorem State.targetWrite_keep {s0 : State} (s : State) (sess v : Nat) (hk : Keep s0 s) : Keep s0 (State.targetWrite s sess v).2 := by
  unfold State.targetWrite
  repeat' (first | with_reducible (first | assumption | exact Keep.refl _ | apply Keep.ite | apply Keep.ite2 | apply Keep.ite3 | intro _ | apply State.wr_keep | apply Keep.foldl3 | apply Keep.foldl2 | apply Keep.foldl | (intro _ _ _) | (intro _ _)) | dsimp only | dsimp only [id] | simp only [Keep.mk_iff] | split | with_reducible refine Keep.of_eq2 (by assumption) ?_ | with_reducible refine Keep.of_eq3 (by assumption) ?_)

theorem State.takeAbort_keep {s0 : State} (s : State) (v : Nat) (hk : Keep s0 s) : Keep s0 (State.takeAbort s v).2 := by
  unfold State.takeAbort
  repeat' (first | with_reducible (first | assumption | exact Keep.refl _ | apply Keep.ite | apply Keep.ite2 | apply Keep.ite3 | intro _ | apply State.takeIdle_keep | apply Keep.foldl3 | apply Keep.foldl2 | apply Keep.foldl | (intro _ _ _) | (intro _ _)) | dsimp only | dsimp only [id] | simp only [Keep.mk_iff] | split | with_reducible refine Keep.of_eq2 (by assumption) ?_ | with_reducible refine Keep.of_eq3 (by assumption) ?_)

theorem State.takeCommit_keep {s0 : State} (s : State) (sess v : Nat) (fault : Option (Nat × Nat)) (hk : Keep s0 s) : Keep s0 (State.takeCommit s sess v fault).2 := by
  unfold State.takeCommit
  repeat' (first | with_reducible (first | assumption | exact Keep.refl _ | apply Keep.ite | apply Keep.ite2 | apply Keep.ite3 | intro _ | apply State.takeResult_keep | apply State.setTake_keep | apply State.wr_keep | apply State.showPending_keep | apply Keep.foldl3 | apply Keep.foldl2 | apply Keep.foldl | (intro _ _ _) | (intro _ _)) | dsimp only | dsimp only [id] | simp only [Keep.mk_iff] | split | with_reducible refine Keep.of_eq2 (by assumption) ?_ | with_reducible refine Keep.of_eq3 (by assumption) ?_)

theorem State.armPoint_keep {s0 : State} (s : State) (acked : Bool) (hk : Keep s0 s) : Keep s0 (State.armPoint s acked) := by
  unfold State.armPoint
  repeat' (first | with_reducible (first | assumption | exact Keep.refl _ | apply Keep.ite | apply Keep.ite2 | apply Keep.ite3 | intro _ | apply State.wrs_keep | apply State.takeIdle_keep | apply State.takeResult_keep | apply Keep.foldl3 | apply Keep.foldl2 | apply Keep.foldl | (intro _ _ _) | (intro _ _)) | dsimp only | dsimp only [id] | simp only [Keep.mk_iff] | split | with_reducible refine Keep.of_eq2 (by assumption) ?_ | with_reducible refine Keep.of_eq3 (by assumption) ?_)

theorem State.stagingSessionEnds_keep {s0 : State} (s : State) (sess : Nat) (hk : Keep s0 s) : Keep s0 (State.stagingSessionEnds s sess) := by
  unfold State.stagingSessionEnds
  repeat' (first | with_reducible (first | assumption | exact Keep.refl _ | apply Keep.ite | apply Keep.ite2 | apply Keep.ite3 | intro _ | apply State.takeIdle_keep | apply Keep.foldl3 | apply Keep.foldl2 | apply Keep.foldl | (intro _ _ _) | (intro _ _)) | dsimp only | dsimp only [id] | simp only [Keep.mk_iff] | split | with_reducible refine Keep.of_eq2 (by assumption) ?_ | with_reducible refine Keep.of_eq3 (by assumption) ?_)

theorem State.takeWarmReset_keep {s0 : State} (s : State) (hk : Keep s0 s) : Keep s0 (State.takeWarmReset s) := by
  unfold State.takeWarmReset
  repeat' (first | with_reducible (first | assumption | exact Keep.refl _ | apply Keep.ite | apply Keep.ite2 | apply Keep.ite3 | intro _ | apply State.takeIdle_keep | apply State.takeResult_keep | apply Keep.foldl3 | apply Keep.foldl2 | apply Keep.foldl | (intro _ _ _) | (intro _ _)) | dsimp only | dsimp only [id] | simp only [Keep.mk_iff] | split | with_reducible refine Keep.of_eq2 (by assumption) ?_ | with_reducible refine Keep.of_eq3 (by assumption) ?_)

theorem State.continuityStage_keep {s0 : State} (s : State) (slot target : Nat) (hk : Keep s0 s) : Keep s0 (State.continuityStage s slot target) := by
  unfold State.continuityStage
  repeat' (first | with_reducible (first | assumption | exact Keep.refl _ | apply Keep.ite | apply Keep.ite2 | apply Keep.ite3 | intro _ | apply State.setTake_keep | apply Keep.foldl3 | apply Keep.foldl2 | apply Keep.foldl | (intro _ _ _) | (intro _ _)) | dsimp only | dsimp only [id] | simp only [Keep.mk_iff] | split | with_reducible refine Keep.of_eq2 (by assumption) ?_ | with_reducible refine Keep.of_eq3 (by assumption) ?_)

theorem State.continuityCommit_keep {s0 : State} (s : State) (slot target : Nat) (fault : Option (Nat × Nat)) (hk : Keep s0 s) : Keep s0 (State.continuityCommit s slot target fault) := by
  unfold State.continuityCommit
  repeat' (first | with_reducible (first | assumption | exact Keep.refl _ | apply Keep.ite | apply Keep.ite2 | apply Keep.ite3 | intro _ | apply State.takeResult_keep | apply State.continuityStage_keep | apply State.setTake_keep | apply State.wr_keep | apply State.showPending_keep | apply Keep.foldl3 | apply Keep.foldl2 | apply Keep.foldl | (intro _ _ _) | (intro _ _)) | dsimp only | dsimp only [id] | simp only [Keep.mk_iff] | split | with_reducible refine Keep.of_eq2 (by assumption) ?_ | with_reducible refine Keep.of_eq3 (by assumption) ?_)

end Sys2Proof.Machine
end

