-- ==== Sys2Proof/Laws/KeepStackCtl.lean ====
section
/-!
SUPPORT. The operations and meanings of Machine/StackCtl.lean keep the queue, the fuses and the form of memory.
-/

namespace Sys2Proof.Machine

theorem State.setBank_keep {s0 : State} (s : State) (t pc b : Nat) (v : Bank) (hk : Keep s0 s) : Keep s0 (State.setBank s t pc b v) := by
  unfold State.setBank
  repeat' (first | with_reducible (first | assumption | exact Keep.refl _ | apply Keep.ite | apply Keep.ite2 | apply Keep.ite3 | intro _ | apply State.updStack_keep | apply Keep.foldl3 | apply Keep.foldl2 | apply Keep.foldl | (intro _ _ _) | (intro _ _)) | dsimp only | dsimp only [id] | simp only [Keep.mk_iff] | split | with_reducible refine Keep.of_eq2 (by assumption) ?_ | with_reducible refine Keep.of_eq3 (by assumption) ?_)

theorem State.chargeBurst_keep {s0 : State} (s : State) (t : Nat) (b : Burst) (act : Bool) (hk : Keep s0 s) : Keep s0 (State.chargeBurst s t b act) := by
  unfold State.chargeBurst
  repeat' (first | with_reducible (first | assumption | exact Keep.refl _ | apply Keep.ite | apply Keep.ite2 | apply Keep.ite3 | intro _ | apply State.meterAdd_keep | apply State.updStack_keep | apply Keep.foldl3 | apply Keep.foldl2 | apply Keep.foldl | (intro _ _ _) | (intro _ _)) | dsimp only | dsimp only [id] | simp only [Keep.mk_iff] | split | with_reducible refine Keep.of_eq2 (by assumption) ?_ | with_reducible refine Keep.of_eq3 (by assumption) ?_)

theorem State.fixDone_keep {s0 : State} (s : State) (t : Nat) (b : Burst) (hk : Keep s0 s) : Keep s0 (State.fixDone s t b) := by
  unfold State.fixDone
  repeat' (first | with_reducible (first | assumption | exact Keep.refl _ | apply Keep.ite | apply Keep.ite2 | apply Keep.ite3 | intro _ | apply State.wr_keep | apply State.setErrs_keep | apply State.updStack_keep | apply Keep.foldl3 | apply Keep.foldl2 | apply Keep.foldl | (intro _ _ _) | (intro _ _)) | dsimp only | dsimp only [id] | simp only [Keep.mk_iff] | split | with_reducible refine Keep.of_eq2 (by assumption) ?_ | with_reducible refine Keep.of_eq3 (by assumption) ?_)

theorem State.issue_keep {s0 : State} (s : State) (t : Nat) (b : Burst) (rotate : Bool) (hk : Keep s0 s) : Keep s0 (State.issue s t b rotate) := by
  unfold State.issue
  repeat' (first | with_reducible (first | assumption | exact Keep.refl _ | apply Keep.ite | apply Keep.ite2 | apply Keep.ite3 | intro _ | apply State.updStack_keep | apply State.chargeBurst_keep | apply State.setBank_keep | apply State.count_keep | apply State.wr_keep | apply State.fixDone_keep | apply Keep.foldl3 | apply Keep.foldl2 | apply Keep.foldl | (intro _ _ _) | (intro _ _)) | dsimp only | dsimp only [id] | simp only [Keep.mk_iff] | split | with_reducible refine Keep.of_eq2 (by assumption) ?_ | with_reducible refine Keep.of_eq3 (by assumption) ?_)

theorem State.drainWrites_keep {s0 : State} (s : State) (d : Nat) (hk : Keep s0 s) : Keep s0 (State.drainWrites s d) := by
  unfold State.drainWrites
  repeat' (first | with_reducible (first | assumption | exact Keep.refl _ | apply Keep.ite | apply Keep.ite2 | apply Keep.ite3 | intro _ | apply State.wr_keep | apply State.issue_keep | apply Keep.foldl3 | apply Keep.foldl2 | apply Keep.foldl | (intro _ _ _) | (intro _ _)) | dsimp only | dsimp only [id] | simp only [Keep.mk_iff] | split | with_reducible refine Keep.of_eq2 (by assumption) ?_ | with_reducible refine Keep.of_eq3 (by assumption) ?_)

theorem State.followDrain_keep {s0 : State} (s : State) (t pc : Nat) (hk : Keep s0 s) : Keep s0 (State.followDrain s t pc) := by
  unfold State.followDrain
  repeat' (first | with_reducible (first | assumption | exact Keep.refl _ | apply Keep.ite | apply Keep.ite2 | apply Keep.ite3 | intro _ | apply State.wr_keep | apply State.updStack_keep | apply Keep.foldl3 | apply Keep.foldl2 | apply Keep.foldl | (intro _ _ _) | (intro _ _)) | dsimp only | dsimp only [id] | simp only [Keep.mk_iff] | split | with_reducible refine Keep.of_eq2 (by assumption) ?_ | with_reducible refine Keep.of_eq3 (by assumption) ?_)

theorem execStackBurstPick_keep (tile pc k : Nat) (ready : List Nat) (s : State) : ∃ q, execStackBurstPick tile pc k ready s = .next q ∧ Keep s q := by
  unfold execStackBurstPick
  refine ⟨_, rfl, ?_⟩
  have hk := Keep.refl s
  repeat' (first | with_reducible (first | assumption | exact Keep.refl _ | apply Keep.ite | apply Keep.ite2 | apply Keep.ite3 | intro _ | apply State.followDrain_keep | apply State.issue_keep | apply Keep.foldl3 | apply Keep.foldl2 | apply Keep.foldl | (intro _ _ _) | (intro _ _)) | dsimp only | dsimp only [id] | simp only [Keep.mk_iff] | split | with_reducible refine Keep.of_eq2 (by assumption) ?_ | with_reducible refine Keep.of_eq3 (by assumption) ?_)

theorem execPerBankRefresh_keep (tile pc bank t : Nat) (s : State) : ∃ q, execPerBankRefresh tile pc bank t s = .next q ∧ Keep s q := by
  unfold execPerBankRefresh
  refine ⟨_, rfl, ?_⟩
  have hk := Keep.refl s
  repeat' (first | with_reducible (first | assumption | exact Keep.refl _ | apply Keep.ite | apply Keep.ite2 | apply Keep.ite3 | intro _ | apply State.at_keep | apply State.setBank_keep | apply State.updStack_keep | apply State.count_keep | apply Keep.foldl3 | apply Keep.foldl2 | apply Keep.foldl | (intro _ _ _) | (intro _ _)) | dsimp only | dsimp only [id] | simp only [Keep.mk_iff] | split | with_reducible refine Keep.of_eq2 (by assumption) ?_ | with_reducible refine Keep.of_eq3 (by assumption) ?_)

theorem execTargetedRefresh_keep (tile pc bank t : Nat) (s : State) : ∃ q, execTargetedRefresh tile pc bank t s = .next q ∧ Keep s q := by
  unfold execTargetedRefresh
  refine ⟨_, rfl, ?_⟩
  have hk := Keep.refl s
  repeat' (first | with_reducible (first | assumption | exact Keep.refl _ | apply Keep.ite | apply Keep.ite2 | apply Keep.ite3 | intro _ | apply State.at_keep | apply State.setBank_keep | apply State.updStack_keep | apply State.count_keep | apply State.meterAdd_keep | apply Keep.foldl3 | apply Keep.foldl2 | apply Keep.foldl | (intro _ _ _) | (intro _ _)) | dsimp only | dsimp only [id] | simp only [Keep.mk_iff] | split | with_reducible refine Keep.of_eq2 (by assumption) ?_ | with_reducible refine Keep.of_eq3 (by assumption) ?_)

theorem execHammerThrottleStart_keep (tile p : Nat) (s : State) : ∃ q, execHammerThrottleStart tile p s = .next q ∧ Keep s q := by
  unfold execHammerThrottleStart
  refine ⟨_, rfl, ?_⟩
  have hk := Keep.refl s
  repeat' (first | with_reducible (first | assumption | exact Keep.refl _ | apply Keep.ite | apply Keep.ite2 | apply Keep.ite3 | intro _ | apply State.setStack_keep | apply State.wr_keep | apply State.count_keep | apply Keep.foldl3 | apply Keep.foldl2 | apply Keep.foldl | (intro _ _ _) | (intro _ _)) | dsimp only | dsimp only [id] | simp only [Keep.mk_iff] | split | with_reducible refine Keep.of_eq2 (by assumption) ?_ | with_reducible refine Keep.of_eq3 (by assumption) ?_)

theorem State.throttleEnds_keep {s0 : State} (s : State) (t p : Nat) (hk : Keep s0 s) : Keep s0 (State.throttleEnds s t p) := by
  unfold State.throttleEnds
  repeat' (first | with_reducible (first | assumption | exact Keep.refl _ | apply Keep.ite | apply Keep.ite2 | apply Keep.ite3 | intro _ | apply State.updStack_keep | apply State.wr_keep | apply Keep.foldl3 | apply Keep.foldl2 | apply Keep.foldl | (intro _ _ _) | (intro _ _)) | dsimp only | dsimp only [id] | simp only [Keep.mk_iff] | split | with_reducible refine Keep.of_eq2 (by assumption) ?_ | with_reducible refine Keep.of_eq3 (by assumption) ?_)

theorem execHammerThrottleEnd_keep (tile p : Nat) (s : State) : ∃ q, execHammerThrottleEnd tile p s = .next q ∧ Keep s q := by
  unfold execHammerThrottleEnd
  refine ⟨_, rfl, ?_⟩
  have hk := Keep.refl s
  repeat' (first | with_reducible (first | assumption | exact Keep.refl _ | apply Keep.ite | apply Keep.ite2 | apply Keep.ite3 | intro _ | apply State.throttleEnds_keep | apply Keep.foldl3 | apply Keep.foldl2 | apply Keep.foldl | (intro _ _ _) | (intro _ _)) | dsimp only | dsimp only [id] | simp only [Keep.mk_iff] | split | with_reducible refine Keep.of_eq2 (by assumption) ?_ | with_reducible refine Keep.of_eq3 (by assumption) ?_)

theorem execPowerDownEntry_keep (tile pc t : Nat) (s : State) : ∃ q, execPowerDownEntry tile pc t s = .next q ∧ Keep s q := by
  unfold execPowerDownEntry
  refine ⟨_, rfl, ?_⟩
  have hk := Keep.refl s
  repeat' (first | with_reducible (first | assumption | exact Keep.refl _ | apply Keep.ite | apply Keep.ite2 | apply Keep.ite3 | intro _ | apply State.at_keep | apply State.setStack_keep | apply State.count_keep | apply Keep.foldl3 | apply Keep.foldl2 | apply Keep.foldl | (intro _ _ _) | (intro _ _)) | dsimp only | dsimp only [id] | simp only [Keep.mk_iff] | split | with_reducible refine Keep.of_eq2 (by assumption) ?_ | with_reducible refine Keep.of_eq3 (by assumption) ?_)

theorem State.trigger_keep {s0 : State} (s : State) (slot kind : Nat) (hk : Keep s0 s) : Keep s0 (State.trigger s slot kind) := by
  unfold State.trigger
  repeat' (first | with_reducible (first | assumption | exact Keep.refl _ | apply Keep.ite | apply Keep.ite2 | apply Keep.ite3 | intro _ | apply State.setCont_keep | apply Keep.foldl3 | apply Keep.foldl2 | apply Keep.foldl | (intro _ _ _) | (intro _ _)) | dsimp only | dsimp only [id] | simp only [Keep.mk_iff] | split | with_reducible refine Keep.of_eq2 (by assumption) ?_ | with_reducible refine Keep.of_eq3 (by assumption) ?_)

theorem State.triggerTile_keep {s0 : State} (s : State) (t kind : Nat) (hk : Keep s0 s) : Keep s0 (State.triggerTile s t kind) := by
  unfold State.triggerTile
  repeat' (first | with_reducible (first | assumption | exact Keep.refl _ | apply Keep.ite | apply Keep.ite2 | apply Keep.ite3 | intro _ | apply State.trigger_keep | apply Keep.foldl3 | apply Keep.foldl2 | apply Keep.foldl | (intro _ _ _) | (intro _ _)) | dsimp only | dsimp only [id] | simp only [Keep.mk_iff] | split | with_reducible refine Keep.of_eq2 (by assumption) ?_ | with_reducible refine Keep.of_eq3 (by assumption) ?_)

theorem State.showDegraded_keep {s0 : State} (s : State) (hk : Keep s0 s) : Keep s0 (State.showDegraded s) := by
  unfold State.showDegraded
  repeat' (first | with_reducible (first | assumption | exact Keep.refl _ | apply Keep.ite | apply Keep.ite2 | apply Keep.ite3 | intro _ | apply State.wr_keep | apply Keep.foldl3 | apply Keep.foldl2 | apply Keep.foldl | (intro _ _ _) | (intro _ _)) | dsimp only | dsimp only [id] | simp only [Keep.mk_iff] | split | with_reducible refine Keep.of_eq2 (by assumption) ?_ | with_reducible refine Keep.of_eq3 (by assumption) ?_)

theorem State.zeroStack_keep {s0 : State} (s : State) (t : Nat) (hk : Keep s0 s) : Keep s0 (State.zeroStack s t) := by
  unfold State.zeroStack
  repeat' (first | with_reducible (first | assumption | exact Keep.refl _ | apply Keep.ite | apply Keep.ite2 | apply Keep.ite3 | intro _ | apply Keep.foldl3 | apply Keep.foldl2 | apply Keep.foldl | (intro _ _ _) | (intro _ _)) | dsimp only | dsimp only [id] | simp only [Keep.mk_iff] | split | with_reducible refine Keep.of_eq2 (by assumption) ?_ | with_reducible refine Keep.of_eq3 (by assumption) ?_ | with_reducible apply Keep.puts | with_reducible apply Keep.filt)

theorem State.freshStack_keep {s0 : State} (s : State) (t : Nat) (hk : Keep s0 s) : Keep s0 (State.freshStack s t) := by
  unfold State.freshStack
  repeat' (first | with_reducible (first | assumption | exact Keep.refl _ | apply Keep.ite | apply Keep.ite2 | apply Keep.ite3 | intro _ | apply State.setStack_keep | apply Keep.foldl3 | apply Keep.foldl2 | apply Keep.foldl | (intro _ _ _) | (intro _ _)) | dsimp only | dsimp only [id] | simp only [Keep.mk_iff] | split | with_reducible refine Keep.of_eq2 (by assumption) ?_ | with_reducible refine Keep.of_eq3 (by assumption) ?_)

theorem State.powerOff_keep {s0 : State} (s : State) (t : Nat) (hk : Keep s0 s) : Keep s0 (State.powerOff s t) := by
  unfold State.powerOff
  repeat' (first | with_reducible (first | assumption | exact Keep.refl _ | apply Keep.ite | apply Keep.ite2 | apply Keep.ite3 | intro _ | apply State.zeroStack_keep | apply State.freshStack_keep | apply State.wrs_keep | apply Keep.foldl3 | apply Keep.foldl2 | apply Keep.foldl | (intro _ _ _) | (intro _ _)) | dsimp only | dsimp only [id] | simp only [Keep.mk_iff] | split | with_reducible refine Keep.of_eq2 (by assumption) ?_ | with_reducible refine Keep.of_eq3 (by assumption) ?_)

theorem State.relocFails_keep {s0 : State} (s : State) (goal : Nat) (hk : Keep s0 s) : Keep s0 (State.relocFails s goal) := by
  unfold State.relocFails
  repeat' (first | with_reducible (first | assumption | exact Keep.refl _ | apply Keep.ite | apply Keep.ite2 | apply Keep.ite3 | intro _ | apply State.setCont_keep | apply State.powerOff_keep | apply State.wrs_keep | apply State.count_keep | apply Keep.foldl3 | apply Keep.foldl2 | apply Keep.foldl | (intro _ _ _) | (intro _ _)) | dsimp only | dsimp only [id] | simp only [Keep.mk_iff] | split | with_reducible refine Keep.of_eq2 (by assumption) ?_ | with_reducible refine Keep.of_eq3 (by assumption) ?_)

theorem State.contDiscard_keep {s0 : State} (s : State) (hk : Keep s0 s) : Keep s0 (State.contDiscard s) := by
  unfold State.contDiscard
  repeat' (first | with_reducible (first | assumption | exact Keep.refl _ | apply Keep.ite | apply Keep.ite2 | apply Keep.ite3 | intro _ | apply State.takeIdle_keep | apply State.takeResult_keep | apply Keep.foldl3 | apply Keep.foldl2 | apply Keep.foldl | (intro _ _ _) | (intro _ _)) | dsimp only | dsimp only [id] | simp only [Keep.mk_iff] | split | with_reducible refine Keep.of_eq2 (by assumption) ?_ | with_reducible refine Keep.of_eq3 (by assumption) ?_)

theorem State.stackLost_keep {s0 : State} (s : State) (t : Nat) (hk : Keep s0 s) : Keep s0 (State.stackLost s t) := by
  unfold State.stackLost
  repeat' (first | with_reducible (first | assumption | exact Keep.refl _ | apply Keep.ite | apply Keep.ite2 | apply Keep.ite3 | intro _ | apply State.updStack_keep | apply State.count_keep | apply State.contDiscard_keep | apply State.relocFails_keep | apply State.setCont_keep | apply State.wr_keep | apply State.trigger_keep | apply State.showDegraded_keep | apply Keep.foldl3 | apply Keep.foldl2 | apply Keep.foldl | (intro _ _ _) | (intro _ _)) | dsimp only | dsimp only [id] | simp only [Keep.mk_iff] | split | with_reducible refine Keep.of_eq2 (by assumption) ?_ | with_reducible refine Keep.of_eq3 (by assumption) ?_)

theorem execStackLost_keep (tile : Nat) (s : State) : ∃ q, execStackLost tile s = .next q ∧ Keep s q := by
  unfold execStackLost
  refine ⟨_, rfl, ?_⟩
  have hk := Keep.refl s
  repeat' (first | with_reducible (first | assumption | exact Keep.refl _ | apply Keep.ite | apply Keep.ite2 | apply Keep.ite3 | intro _ | apply State.stackLost_keep | apply Keep.foldl3 | apply Keep.foldl2 | apply Keep.foldl | (intro _ _ _) | (intro _ _)) | dsimp only | dsimp only [id] | simp only [Keep.mk_iff] | split | with_reducible refine Keep.of_eq2 (by assumption) ?_ | with_reducible refine Keep.of_eq3 (by assumption) ?_)

theorem State.trainCtrlWrite_keep {s0 : State} (s : State) (t v : Nat) (hk : Keep s0 s) : Keep s0 (State.trainCtrlWrite s t v).2 := by
  unfold State.trainCtrlWrite
  repeat' (first | with_reducible (first | assumption | exact Keep.refl _ | apply Keep.ite | apply Keep.ite2 | apply Keep.ite3 | intro _ | apply State.wr_keep | apply Keep.foldl3 | apply Keep.foldl2 | apply Keep.foldl | (intro _ _ _) | (intro _ _)) | dsimp only | dsimp only [id] | simp only [Keep.mk_iff] | split | with_reducible refine Keep.of_eq2 (by assumption) ?_ | with_reducible refine Keep.of_eq3 (by assumption) ?_)

theorem State.dqWrite_keep {s0 : State} (s : State) (t : Nat) (l : List (Nat × Nat)) (hk : Keep s0 s) : Keep s0 (State.dqWrite s t l).2 := by
  unfold State.dqWrite
  repeat' (first | with_reducible (first | assumption | exact Keep.refl _ | apply Keep.ite | apply Keep.ite2 | apply Keep.ite3 | intro _ | apply State.wrs_keep | apply Keep.foldl3 | apply Keep.foldl2 | apply Keep.foldl | (intro _ _ _) | (intro _ _)) | dsimp only | dsimp only [id] | simp only [Keep.mk_iff] | split | with_reducible refine Keep.of_eq2 (by assumption) ?_ | with_reducible refine Keep.of_eq3 (by assumption) ?_)

theorem State.bootReady_keep {s0 : State} (s : State) (hk : Keep s0 s) : Keep s0 (State.bootReady s) := by
  unfold State.bootReady
  repeat' (first | with_reducible (first | assumption | exact Keep.refl _ | apply Keep.ite | apply Keep.ite2 | apply Keep.ite3 | intro _ | apply State.wr_keep | apply Keep.foldl3 | apply Keep.foldl2 | apply Keep.foldl | (intro _ _ _) | (intro _ _)) | dsimp only | dsimp only [id] | simp only [Keep.mk_iff] | split | with_reducible refine Keep.of_eq2 (by assumption) ?_ | with_reducible refine Keep.of_eq3 (by assumption) ?_)

theorem State.trainedPc_keep {s0 : State} (s : State) (t pc : Nat) (hk : Keep s0 s) : Keep s0 (State.trainedPc s t pc) := by
  unfold State.trainedPc
  repeat' (first | with_reducible (first | assumption | exact Keep.refl _ | apply Keep.ite | apply Keep.ite2 | apply Keep.ite3 | intro _ | apply State.updStack_keep | apply State.wr_keep | apply State.bootReady_keep | apply Keep.foldl3 | apply Keep.foldl2 | apply Keep.foldl | (intro _ _ _) | (intro _ _)) | dsimp only | dsimp only [id] | simp only [Keep.mk_iff] | split | with_reducible refine Keep.of_eq2 (by assumption) ?_ | with_reducible refine Keep.of_eq3 (by assumption) ?_)

theorem State.verifyFailed_keep {s0 : State} (s : State) (t pc : Nat) (hk : Keep s0 s) : Keep s0 (State.verifyFailed s t pc) := by
  unfold State.verifyFailed
  repeat' (first | with_reducible (first | assumption | exact Keep.refl _ | apply Keep.ite | apply Keep.ite2 | apply Keep.ite3 | intro _ | apply State.updStack_keep | apply State.triggerTile_keep | apply State.bootReady_keep | apply Keep.foldl3 | apply Keep.foldl2 | apply Keep.foldl | (intro _ _ _) | (intro _ _)) | dsimp only | dsimp only [id] | simp only [Keep.mk_iff] | split | with_reducible refine Keep.of_eq2 (by assumption) ?_ | with_reducible refine Keep.of_eq3 (by assumption) ?_)

theorem execTrainStepComplete_keep (tile : Nat) (errs : List Nat) (mid : Option Nat) (dur : Nat) (s : State) : ∃ q, execTrainStepComplete tile errs mid dur s = .next q ∧ Keep s q := by
  unfold execTrainStepComplete
  refine ⟨_, rfl, ?_⟩
  have hk := Keep.refl s
  repeat' (first | with_reducible (first | assumption | exact Keep.refl _ | apply Keep.ite | apply Keep.ite2 | apply Keep.ite3 | intro _ | apply State.wr_keep | apply State.wrs_keep | apply State.updStack_keep | apply State.verifyFailed_keep | apply State.trainedPc_keep | apply Keep.foldl3 | apply Keep.foldl2 | apply Keep.foldl | (intro _ _ _) | (intro _ _)) | dsimp only | dsimp only [id] | simp only [Keep.mk_iff] | split | with_reducible refine Keep.of_eq2 (by assumption) ?_ | with_reducible refine Keep.of_eq3 (by assumption) ?_)

theorem State.retrainWrite_keep {s0 : State} (s : State) (t v : Nat) (hk : Keep s0 s) : Keep s0 (State.retrainWrite s t v).2 := by
  unfold State.retrainWrite
  repeat' (first | with_reducible (first | assumption | exact Keep.refl _ | apply Keep.ite | apply Keep.ite2 | apply Keep.ite3 | intro _ | apply State.setStack_keep | apply Keep.foldl3 | apply Keep.foldl2 | apply Keep.foldl | (intro _ _ _) | (intro _ _)) | dsimp only | dsimp only [id] | simp only [Keep.mk_iff] | split | with_reducible refine Keep.of_eq2 (by assumption) ?_ | with_reducible refine Keep.of_eq3 (by assumption) ?_)

theorem execRetrainStart_keep (tile t : Nat) (s : State) : ∃ q, execRetrainStart tile t s = .next q ∧ Keep s q := by
  unfold execRetrainStart
  refine ⟨_, rfl, ?_⟩
  have hk := Keep.refl s
  repeat' (first | with_reducible (first | assumption | exact Keep.refl _ | apply Keep.ite | apply Keep.ite2 | apply Keep.ite3 | intro _ | apply State.at_keep | apply State.setStack_keep | apply State.wr_keep | apply Keep.foldl3 | apply Keep.foldl2 | apply Keep.foldl | (intro _ _ _) | (intro _ _)) | dsimp only | dsimp only [id] | simp only [Keep.mk_iff] | split | with_reducible refine Keep.of_eq2 (by assumption) ?_ | with_reducible refine Keep.of_eq3 (by assumption) ?_)

theorem execRetrainComplete_keep (tile : Nat) (ok : Bool) (taps : List Nat) (dur : Nat) (s : State) : ∃ q, execRetrainComplete tile ok taps dur s = .next q ∧ Keep s q := by
  unfold execRetrainComplete
  refine ⟨_, rfl, ?_⟩
  have hk := Keep.refl s
  repeat' (first | with_reducible (first | assumption | exact Keep.refl _ | apply Keep.ite | apply Keep.ite2 | apply Keep.ite3 | intro _ | apply State.setStack_keep | apply State.wr_keep | apply State.count_keep | apply State.wrs_keep | apply State.stackLost_keep | apply State.triggerTile_keep | apply Keep.foldl3 | apply Keep.foldl2 | apply Keep.foldl | (intro _ _ _) | (intro _ _)) | dsimp only | dsimp only [id] | simp only [Keep.mk_iff] | split | with_reducible refine Keep.of_eq2 (by assumption) ?_ | with_reducible refine Keep.of_eq3 (by assumption) ?_)

end Sys2Proof.Machine
end

