-- ==== Sys2Proof/Laws/KeepIntegrity.lean ====
section
/-!
SUPPORT. The operations and meanings of Machine/Integrity.lean keep the queue, the fuses and the form of memory.
-/

namespace Sys2Proof.Machine

theorem execPoisonSignatureWrite_keep (ln t : Nat) (s : State) : ∃ q, execPoisonSignatureWrite ln t s = .next q ∧ Keep s q := by
  unfold execPoisonSignatureWrite
  refine ⟨_, rfl, ?_⟩
  have hk := Keep.refl s
  repeat' (first | with_reducible (first | assumption | exact Keep.refl _ | apply Keep.ite | apply Keep.ite2 | apply Keep.ite3 | intro _ | apply State.at_keep | apply State.updStack_keep | apply State.poisonLine_keep | apply Keep.foldl3 | apply Keep.foldl2 | apply Keep.foldl | (intro _ _ _) | (intro _ _)) | dsimp only | dsimp only [id] | simp only [Keep.mk_iff] | split | with_reducible refine Keep.of_eq2 (by assumption) ?_ | with_reducible refine Keep.of_eq3 (by assumption) ?_)

theorem State.fromOther_keep {s0 : State} (s : State) (ln : Nat) (hk : Keep s0 s) : Keep s0 (State.fromOther s ln).2 := by
  unfold State.fromOther
  repeat' (first | with_reducible (first | assumption | exact Keep.refl _ | apply Keep.ite | apply Keep.ite2 | apply Keep.ite3 | intro _ | apply State.readOther_keep | apply Keep.foldl3 | apply Keep.foldl2 | apply Keep.foldl | (intro _ _ _) | (intro _ _)) | dsimp only | dsimp only [id] | simp only [Keep.mk_iff] | split | with_reducible refine Keep.of_eq2 (by assumption) ?_ | with_reducible refine Keep.of_eq3 (by assumption) ?_)

theorem State.scrubAdvance_keep {s0 : State} (s : State) (t n : Nat) (hk : Keep s0 s) : Keep s0 (State.scrubAdvance s t n) := by
  unfold State.scrubAdvance
  repeat' (first | with_reducible (first | assumption | exact Keep.refl _ | apply Keep.ite | apply Keep.ite2 | apply Keep.ite3 | intro _ | apply State.updStack_keep | apply State.wr_keep | apply Keep.foldl3 | apply Keep.foldl2 | apply Keep.foldl | (intro _ _ _) | (intro _ _)) | dsimp only | dsimp only [id] | simp only [Keep.mk_iff] | split | with_reducible refine Keep.of_eq2 (by assumption) ?_ | with_reducible refine Keep.of_eq3 (by assumption) ?_)

theorem State.scrubLine_keep {s0 : State} (s : State) (ln : Nat) (noise : List (Nat × Nat)) (hk : Keep s0 s) : Keep s0 (State.scrubLine s ln noise) := by
  unfold State.scrubLine
  repeat' (first | with_reducible (first | assumption | exact Keep.refl _ | apply Keep.ite | apply Keep.ite2 | apply Keep.ite3 | intro _ | apply State.burst_keep | apply State.count_keep | apply State.errEvent_keep | apply State.updStack_keep | apply State.fromOther_keep | apply State.repairFrom_keep | apply Keep.foldl3 | apply Keep.foldl2 | apply Keep.foldl | (intro _ _ _) | (intro _ _)) | dsimp only | dsimp only [id] | simp only [Keep.mk_iff] | split | with_reducible refine Keep.of_eq2 (by assumption) ?_ | with_reducible refine Keep.of_eq3 (by assumption) ?_)

theorem execScrubRead_keep (tile : Nat) (noise : List (Nat × Nat)) (t : Nat) (s : State) : ∃ q, execScrubRead tile noise t s = .next q ∧ Keep s q := by
  unfold execScrubRead
  refine ⟨_, rfl, ?_⟩
  have hk := Keep.refl s
  repeat' (first | with_reducible (first | assumption | exact Keep.refl _ | apply Keep.ite | apply Keep.ite2 | apply Keep.ite3 | intro _ | apply State.at_keep | apply State.scrubAdvance_keep | apply State.scrubLine_keep | apply Keep.foldl3 | apply Keep.foldl2 | apply Keep.foldl | (intro _ _ _) | (intro _ _)) | dsimp only | dsimp only [id] | simp only [Keep.mk_iff] | split | with_reducible refine Keep.of_eq2 (by assumption) ?_ | with_reducible refine Keep.of_eq3 (by assumption) ?_)

theorem State.scrubSkip_keep {s0 : State} (s : State) (t : Nat) (hk : Keep s0 s) : Keep s0 (State.scrubSkip s t) := by
  unfold State.scrubSkip
  repeat' (first | with_reducible (first | assumption | exact Keep.refl _ | apply Keep.ite | apply Keep.ite2 | apply Keep.ite3 | intro _ | apply State.scrubAdvance_keep | apply Keep.foldl3 | apply Keep.foldl2 | apply Keep.foldl | (intro _ _ _) | (intro _ _)) | dsimp only | dsimp only [id] | simp only [Keep.mk_iff] | split | with_reducible refine Keep.of_eq2 (by assumption) ?_ | with_reducible refine Keep.of_eq3 (by assumption) ?_)

theorem State.dieRetireWrite_keep {s0 : State} (s : State) (t v : Nat) (hk : Keep s0 s) : Keep s0 (State.dieRetireWrite s t v).2 := by
  unfold State.dieRetireWrite
  repeat' (first | with_reducible (first | assumption | exact Keep.refl _ | apply Keep.ite | apply Keep.ite2 | apply Keep.ite3 | intro _ | apply State.updStack_keep | apply State.wr_keep | apply Keep.foldl3 | apply Keep.foldl2 | apply Keep.foldl | (intro _ _ _) | (intro _ _)) | dsimp only | dsimp only [id] | simp only [Keep.mk_iff] | split | with_reducible refine Keep.of_eq2 (by assumption) ?_ | with_reducible refine Keep.of_eq3 (by assumption) ?_)

theorem State.dieAlerts_keep {s0 : State} (s : State) (t : Nat) (hk : Keep s0 s) : Keep s0 (State.dieAlerts s t) := by
  unfold State.dieAlerts
  repeat' (first | with_reducible (first | assumption | exact Keep.refl _ | apply Keep.ite | apply Keep.ite2 | apply Keep.ite3 | intro _ | apply State.updStack_keep | apply State.wr_keep | apply State.triggerTile_keep | apply Keep.foldl3 | apply Keep.foldl2 | apply Keep.foldl | (intro _ _ _) | (intro _ _)) | dsimp only | dsimp only [id] | simp only [Keep.mk_iff] | split | with_reducible refine Keep.of_eq2 (by assumption) ?_ | with_reducible refine Keep.of_eq3 (by assumption) ?_)

theorem State.firmwareRetire_keep {s0 : State} (s : State) (t d : Nat) (hk : Keep s0 s) : Keep s0 (State.firmwareRetire s t d) := by
  unfold State.firmwareRetire
  repeat' (first | with_reducible (first | assumption | exact Keep.refl _ | apply Keep.ite | apply Keep.ite2 | apply Keep.ite3 | intro _ | apply State.dieRetireWrite_keep | apply State.triggerTile_keep | apply Keep.foldl3 | apply Keep.foldl2 | apply Keep.foldl | (intro _ _ _) | (intro _ _)) | dsimp only | dsimp only [id] | simp only [Keep.mk_iff] | split | with_reducible refine Keep.of_eq2 (by assumption) ?_ | with_reducible refine Keep.of_eq3 (by assumption) ?_)

theorem execDieAlertCheck_keep (tile : Nat) (s : State) : ∃ q, execDieAlertCheck tile s = .next q ∧ Keep s q := by
  unfold execDieAlertCheck
  refine ⟨_, rfl, ?_⟩
  have hk := Keep.refl s
  repeat' (first | with_reducible (first | assumption | exact Keep.refl _ | apply Keep.ite | apply Keep.ite2 | apply Keep.ite3 | intro _ | apply State.setStack_keep | apply State.firmwareRetire_keep | apply Keep.foldl3 | apply Keep.foldl2 | apply Keep.foldl | (intro _ _ _) | (intro _ _)) | dsimp only | dsimp only [id] | simp only [Keep.mk_iff] | split | with_reducible refine Keep.of_eq2 (by assumption) ?_ | with_reducible refine Keep.of_eq3 (by assumption) ?_)

theorem State.testCtrlWrite_keep {s0 : State} (s : State) (v : Nat) (hk : Keep s0 s) : Keep s0 (State.testCtrlWrite s v).2 := by
  unfold State.testCtrlWrite
  repeat' (first | with_reducible (first | assumption | exact Keep.refl _ | apply Keep.ite | apply Keep.ite2 | apply Keep.ite3 | intro _ | apply State.wr_keep | apply State.wrs_keep | apply Keep.foldl3 | apply Keep.foldl2 | apply Keep.foldl | (intro _ _ _) | (intro _ _)) | dsimp only | dsimp only [id] | simp only [Keep.mk_iff] | split | with_reducible refine Keep.of_eq2 (by assumption) ?_ | with_reducible refine Keep.of_eq3 (by assumption) ?_)

theorem execTestOpExecute_keep (noise : List (Nat × Nat)) (t : Nat) (s : State) : ∃ q, execTestOpExecute noise t s = .next q ∧ Keep s q := by
  unfold execTestOpExecute
  refine ⟨_, rfl, ?_⟩
  have hk := Keep.refl s
  repeat' (first | with_reducible (first | assumption | exact Keep.refl _ | apply Keep.ite | apply Keep.ite2 | apply Keep.ite3 | intro _ | apply State.at_keep | apply State.wr_keep | apply State.putLine_keep | apply State.setErrs_keep | apply State.wrs_keep | apply Keep.foldl3 | apply Keep.foldl2 | apply Keep.foldl | (intro _ _ _) | (intro _ _)) | dsimp only | dsimp only [id] | simp only [Keep.mk_iff] | split | with_reducible refine Keep.of_eq2 (by assumption) ?_ | with_reducible refine Keep.of_eq3 (by assumption) ?_)

end Sys2Proof.Machine
end

