-- ==== Sys2Proof/Laws/KeepReloc.lean ====
section
/-!
SUPPORT. The operations and meanings of Machine/Reloc.lean keep the queue, the fuses and the form of memory.
-/

namespace Sys2Proof.Machine

theorem State.relocStart_keep {s0 : State} (s : State) (slot target kind : Nat) (ret : Bool) (hk : Keep s0 s) : Keep s0 (State.relocStart s slot target kind ret) := by
  unfold State.relocStart
  repeat' (first | with_reducible (first | assumption | exact Keep.refl _ | apply Keep.ite | apply Keep.ite2 | apply Keep.ite3 | intro _ | apply State.setCont_keep | apply State.wrs_keep | apply Keep.foldl3 | apply Keep.foldl2 | apply Keep.foldl | (intro _ _ _) | (intro _ _)) | dsimp only | dsimp only [id] | simp only [Keep.mk_iff] | split | with_reducible refine Keep.of_eq2 (by assumption) ?_ | with_reducible refine Keep.of_eq3 (by assumption) ?_)

theorem State.relocWrite_keep {s0 : State} (s : State) (v : Nat) (hk : Keep s0 s) : Keep s0 (State.relocWrite s v).2 := by
  unfold State.relocWrite
  repeat' (first | with_reducible (first | assumption | exact Keep.refl _ | apply Keep.ite | apply Keep.ite2 | apply Keep.ite3 | intro _ | apply State.relocStart_keep | apply Keep.foldl3 | apply Keep.foldl2 | apply Keep.foldl | (intro _ _ _) | (intro _ _)) | dsimp only | dsimp only [id] | simp only [Keep.mk_iff] | split | with_reducible refine Keep.of_eq2 (by assumption) ?_ | with_reducible refine Keep.of_eq3 (by assumption) ?_)

theorem execRelocAutoStart_keep (slot : Nat) (s : State) : ∃ q, execRelocAutoStart slot s = .next q ∧ Keep s q := by
  unfold execRelocAutoStart
  refine ⟨_, rfl, ?_⟩
  have hk := Keep.refl s
  repeat' (first | with_reducible (first | assumption | exact Keep.refl _ | apply Keep.ite | apply Keep.ite2 | apply Keep.ite3 | intro _ | apply State.relocStart_keep | apply Keep.foldl3 | apply Keep.foldl2 | apply Keep.foldl | (intro _ _ _) | (intro _ _)) | dsimp only | dsimp only [id] | simp only [Keep.mk_iff] | split | with_reducible refine Keep.of_eq2 (by assumption) ?_ | with_reducible refine Keep.of_eq3 (by assumption) ?_)

theorem execRelocPrepareComplete_keep (ok : Bool) (s : State) : ∃ q, execRelocPrepareComplete ok s = .next q ∧ Keep s q := by
  unfold execRelocPrepareComplete
  refine ⟨_, rfl, ?_⟩
  have hk := Keep.refl s
  repeat' (first | with_reducible (first | assumption | exact Keep.refl _ | apply Keep.ite | apply Keep.ite2 | apply Keep.ite3 | intro _ | apply State.relocFails_keep | apply State.setCont_keep | apply State.wr_keep | apply Keep.foldl3 | apply Keep.foldl2 | apply Keep.foldl | (intro _ _ _) | (intro _ _)) | dsimp only | dsimp only [id] | simp only [Keep.mk_iff] | split | with_reducible refine Keep.of_eq2 (by assumption) ?_ | with_reducible refine Keep.of_eq3 (by assumption) ?_)

theorem State.placeLine_keep {s0 : State} (s : State) (ln : Nat) (d : List Byte) (key : Option Nat) (e : List (Nat × Nat)) (hk : Keep s0 s) : Keep s0 (State.placeLine s ln d key e) := by
  unfold State.placeLine
  repeat' (first | with_reducible (first | assumption | exact Keep.refl _ | apply Keep.ite | apply Keep.ite2 | apply Keep.ite3 | intro _ | apply State.putLine_keep | apply State.setErrs_keep | apply Keep.foldl3 | apply Keep.foldl2 | apply Keep.foldl | (intro _ _ _) | (intro _ _)) | dsimp only | dsimp only [id] | simp only [Keep.mk_iff] | split | with_reducible refine Keep.of_eq2 (by assumption) ?_ | with_reducible refine Keep.of_eq3 (by assumption) ?_)

theorem State.copyLine_keep {s0 : State} (s : State) (r : Reloc) (l : Nat) (hk : Keep s0 s) : Keep s0 (State.copyLine s r l) := by
  unfold State.copyLine
  repeat' (first | with_reducible (first | assumption | exact Keep.refl _ | apply Keep.ite | apply Keep.ite2 | apply Keep.ite3 | intro _ | apply State.burst_keep | apply State.count_keep | apply State.placeLine_keep | apply State.errEvent_keep | apply State.poisonLine_keep | apply State.fromOther_keep | apply State.repairFrom_keep | apply State.putLine_keep | apply Keep.foldl3 | apply Keep.foldl2 | apply Keep.foldl | (intro _ _ _) | (intro _ _)) | dsimp only | dsimp only [id] | simp only [Keep.mk_iff] | split | with_reducible refine Keep.of_eq2 (by assumption) ?_ | with_reducible refine Keep.of_eq3 (by assumption) ?_)

theorem State.copyGranule_keep {s0 : State} (s : State) (g : Nat) (hk : Keep s0 s) : Keep s0 (State.copyGranule s g) := by
  unfold State.copyGranule
  repeat' (first | with_reducible (first | assumption | exact Keep.refl _ | apply Keep.ite | apply Keep.ite2 | apply Keep.ite3 | intro _ | apply State.copyLine_keep | apply State.clearFresh_keep | apply State.setCont_keep | apply Keep.foldl3 | apply Keep.foldl2 | apply Keep.foldl | (intro _ _ _) | (intro _ _)) | dsimp only | dsimp only [id] | simp only [Keep.mk_iff] | split | with_reducible refine Keep.of_eq2 (by assumption) ?_ | with_reducible refine Keep.of_eq3 (by assumption) ?_)

theorem State.copySlate_keep {s0 : State} (s : State) (hk : Keep s0 s) : Keep s0 (State.copySlate s) := by
  unfold State.copySlate
  repeat' (first | with_reducible (first | assumption | exact Keep.refl _ | apply Keep.ite | apply Keep.ite2 | apply Keep.ite3 | intro _ | apply State.copyGranule_keep | apply State.wr_keep | apply Keep.foldl3 | apply Keep.foldl2 | apply Keep.foldl | (intro _ _ _) | (intro _ _)) | dsimp only | dsimp only [id] | simp only [Keep.mk_iff] | split | with_reducible refine Keep.of_eq2 (by assumption) ?_ | with_reducible refine Keep.of_eq3 (by assumption) ?_)

theorem execRelocCopyComplete_keep (s : State) : ∃ q, execRelocCopyComplete s = .next q ∧ Keep s q := by
  unfold execRelocCopyComplete
  refine ⟨_, rfl, ?_⟩
  have hk := Keep.refl s
  repeat' (first | with_reducible (first | assumption | exact Keep.refl _ | apply Keep.ite | apply Keep.ite2 | apply Keep.ite3 | intro _ | apply State.copyGranule_keep | apply State.setCont_keep | apply State.wr_keep | apply Keep.foldl3 | apply Keep.foldl2 | apply Keep.foldl | (intro _ _ _) | (intro _ _)) | dsimp only | dsimp only [id] | simp only [Keep.mk_iff] | split | with_reducible refine Keep.of_eq2 (by assumption) ?_ | with_reducible refine Keep.of_eq3 (by assumption) ?_)

theorem State.moveLines_keep {s0 : State} (s : State) (a b : Nat) (hk : Keep s0 s) : Keep s0 (State.moveLines s a b) := by
  unfold State.moveLines
  repeat' (first | with_reducible (first | assumption | exact Keep.refl _ | apply Keep.ite | apply Keep.ite2 | apply Keep.ite3 | intro _ | apply Keep.foldl3 | apply Keep.foldl2 | apply Keep.foldl | (intro _ _ _) | (intro _ _)) | dsimp only | dsimp only [id] | simp only [Keep.mk_iff] | split | with_reducible refine Keep.of_eq2 (by assumption) ?_ | with_reducible refine Keep.of_eq3 (by assumption) ?_)

theorem State.movePairs_keep {s0 : State} (s : State) (a b : Nat) (hk : Keep s0 s) : Keep s0 (State.movePairs s a b) := by
  unfold State.movePairs
  repeat' (first | with_reducible (first | assumption | exact Keep.refl _ | apply Keep.ite | apply Keep.ite2 | apply Keep.ite3 | intro _ | apply State.setCont_keep | apply Keep.foldl3 | apply Keep.foldl2 | apply Keep.foldl | (intro _ _ _) | (intro _ _)) | dsimp only | dsimp only [id] | simp only [Keep.mk_iff] | split | with_reducible refine Keep.of_eq2 (by assumption) ?_ | with_reducible refine Keep.of_eq3 (by assumption) ?_)

theorem State.moveThrottles_keep {s0 : State} (s : State) (a b : Nat) (hk : Keep s0 s) : Keep s0 (State.moveThrottles s a b) := by
  unfold State.moveThrottles
  repeat' (first | with_reducible (first | assumption | exact Keep.refl _ | apply Keep.ite | apply Keep.ite2 | apply Keep.ite3 | intro _ | apply State.wrs_keep | apply State.updStack_keep | apply Keep.foldl3 | apply Keep.foldl2 | apply Keep.foldl | (intro _ _ _) | (intro _ _)) | dsimp only | dsimp only [id] | simp only [Keep.mk_iff] | split | with_reducible refine Keep.of_eq2 (by assumption) ?_ | with_reducible refine Keep.of_eq3 (by assumption) ?_)

theorem State.relocSwap_keep {s0 : State} (s : State) (hk : Keep s0 s) : Keep s0 (State.relocSwap s) := by
  unfold State.relocSwap
  repeat' (first | with_reducible (first | assumption | exact Keep.refl _ | apply Keep.ite | apply Keep.ite2 | apply Keep.ite3 | intro _ | apply State.moveLines_keep | apply State.movePairs_keep | apply State.moveThrottles_keep | apply State.setCont_keep | apply State.wrs_keep | apply Keep.foldl3 | apply Keep.foldl2 | apply Keep.foldl | (intro _ _ _) | (intro _ _)) | dsimp only | dsimp only [id] | simp only [Keep.mk_iff] | split | with_reducible refine Keep.of_eq2 (by assumption) ?_ | with_reducible refine Keep.of_eq3 (by assumption) ?_)

theorem State.relocDrained_keep {s0 : State} (s : State) (hk : Keep s0 s) : Keep s0 (State.relocDrained s) := by
  unfold State.relocDrained
  repeat' (first | with_reducible (first | assumption | exact Keep.refl _ | apply Keep.ite | apply Keep.ite2 | apply Keep.ite3 | intro _ | apply State.count_keep | apply State.setCont_keep | apply State.wrs_keep | apply State.powerOff_keep | apply State.showDegraded_keep | apply Keep.foldl3 | apply Keep.foldl2 | apply Keep.foldl | (intro _ _ _) | (intro _ _)) | dsimp only | dsimp only [id] | simp only [Keep.mk_iff] | split | with_reducible refine Keep.of_eq2 (by assumption) ?_ | with_reducible refine Keep.of_eq3 (by assumption) ?_)

theorem State.drainSlate_keep {s0 : State} (s : State) (hk : Keep s0 s) : Keep s0 (State.drainSlate s) := by
  unfold State.drainSlate
  repeat' (first | with_reducible (first | assumption | exact Keep.refl _ | apply Keep.ite | apply Keep.ite2 | apply Keep.ite3 | intro _ | apply State.relocDrained_keep | apply Keep.foldl3 | apply Keep.foldl2 | apply Keep.foldl | (intro _ _ _) | (intro _ _)) | dsimp only | dsimp only [id] | simp only [Keep.mk_iff] | split | with_reducible refine Keep.of_eq2 (by assumption) ?_ | with_reducible refine Keep.of_eq3 (by assumption) ?_)

theorem execRelocDrainComplete_keep (s : State) : ∃ q, execRelocDrainComplete s = .next q ∧ Keep s q := by
  unfold execRelocDrainComplete
  refine ⟨_, rfl, ?_⟩
  have hk := Keep.refl s
  repeat' (first | with_reducible (first | assumption | exact Keep.refl _ | apply Keep.ite | apply Keep.ite2 | apply Keep.ite3 | intro _ | apply State.relocDrained_keep | apply Keep.foldl3 | apply Keep.foldl2 | apply Keep.foldl | (intro _ _ _) | (intro _ _)) | dsimp only | dsimp only [id] | simp only [Keep.mk_iff] | split | with_reducible refine Keep.of_eq2 (by assumption) ?_ | with_reducible refine Keep.of_eq3 (by assumption) ?_)

theorem execSelftestComplete_keep (code : Nat) (s : State) : ∃ q, execSelftestComplete code s = .next q ∧ Keep s q := by
  unfold execSelftestComplete
  refine ⟨_, rfl, ?_⟩
  have hk := Keep.refl s
  repeat' (first | with_reducible (first | assumption | exact Keep.refl _ | apply Keep.ite | apply Keep.ite2 | apply Keep.ite3 | intro _ | apply State.count_keep | apply State.setCont_keep | apply State.powerOff_keep | apply State.wr_keep | apply State.wrs_keep | apply State.relocStart_keep | apply Keep.foldl3 | apply Keep.foldl2 | apply Keep.foldl | (intro _ _ _) | (intro _ _)) | dsimp only | dsimp only [id] | simp only [Keep.mk_iff] | split | with_reducible refine Keep.of_eq2 (by assumption) ?_ | with_reducible refine Keep.of_eq3 (by assumption) ?_)

theorem State.relocWarmReset_keep {s0 : State} (s : State) (hk : Keep s0 s) : Keep s0 (State.relocWarmReset s) := by
  unfold State.relocWarmReset
  repeat' (first | with_reducible (first | assumption | exact Keep.refl _ | apply Keep.ite | apply Keep.ite2 | apply Keep.ite3 | intro _ | apply State.relocFails_keep | apply State.relocDrained_keep | apply Keep.foldl3 | apply Keep.foldl2 | apply Keep.foldl | (intro _ _ _) | (intro _ _)) | dsimp only | dsimp only [id] | simp only [Keep.mk_iff] | split | with_reducible refine Keep.of_eq2 (by assumption) ?_ | with_reducible refine Keep.of_eq3 (by assumption) ?_)

end Sys2Proof.Machine
end

