-- ==== Sys2Proof/Laws/KeepPartitions.lean ====
section
/-!
SUPPORT. The operations and meanings of Machine/Partitions.lean keep the queue, the fuses and the form of memory.
-/

namespace Sys2Proof.Machine

theorem State.updPart_keep {s0 : State} (s : State) (p : Nat) (f : PartCtl → PartCtl) (hk : Keep s0 s) : Keep s0 (State.updPart s p f) := by
  unfold State.updPart
  repeat' (first | with_reducible (first | assumption | exact Keep.refl _ | apply Keep.ite | apply Keep.ite2 | apply Keep.ite3 | intro _ | apply State.setPart_keep | apply Keep.foldl3 | apply Keep.foldl2 | apply Keep.foldl | (intro _ _ _) | (intro _ _)) | dsimp only | dsimp only [id] | simp only [Keep.mk_iff] | split | with_reducible refine Keep.of_eq2 (by assumption) ?_ | with_reducible refine Keep.of_eq3 (by assumption) ?_)

theorem State.setMode_keep {s0 : State} (s : State) (p m : Nat) (hk : Keep s0 s) : Keep s0 (State.setMode s p m) := by
  unfold State.setMode
  repeat' (first | with_reducible (first | assumption | exact Keep.refl _ | apply Keep.ite | apply Keep.ite2 | apply Keep.ite3 | intro _ | apply State.wr_keep | apply Keep.foldl3 | apply Keep.foldl2 | apply Keep.foldl | (intro _ _ _) | (intro _ _)) | dsimp only | dsimp only [id] | simp only [Keep.mk_iff] | split | with_reducible refine Keep.of_eq2 (by assumption) ?_ | with_reducible refine Keep.of_eq3 (by assumption) ?_)

theorem State.remeasure_keep {s0 : State} (s : State) (p : Nat) (hk : Keep s0 s) : Keep s0 (State.remeasure s p) := by
  unfold State.remeasure
  repeat' (first | with_reducible (first | assumption | exact Keep.refl _ | apply Keep.ite | apply Keep.ite2 | apply Keep.ite3 | intro _ | apply State.setPart_keep | apply Keep.foldl3 | apply Keep.foldl2 | apply Keep.foldl | (intro _ _ _) | (intro _ _)) | dsimp only | dsimp only [id] | simp only [Keep.mk_iff] | split | with_reducible refine Keep.of_eq2 (by assumption) ?_ | with_reducible refine Keep.of_eq3 (by assumption) ?_)

theorem State.tokenRefused_keep {s0 : State} (s : State) (p : Nat) (hk : Keep s0 s) : Keep s0 (State.tokenRefused s p) := by
  unfold State.tokenRefused
  repeat' (first | with_reducible (first | assumption | exact Keep.refl _ | apply Keep.ite | apply Keep.ite2 | apply Keep.ite3 | intro _ | apply State.security_keep | apply Keep.foldl3 | apply Keep.foldl2 | apply Keep.foldl | (intro _ _ _) | (intro _ _)) | dsimp only | dsimp only [id] | simp only [Keep.mk_iff] | split | with_reducible refine Keep.of_eq2 (by assumption) ?_ | with_reducible refine Keep.of_eq3 (by assumption) ?_)

theorem State.tokenWrite_keep {s0 : State} (s : State) (sess p : Nat) (b : List Byte) (hk : Keep s0 s) : Keep s0 (State.tokenWrite s sess p b).2 := by
  unfold State.tokenWrite
  repeat' (first | with_reducible (first | assumption | exact Keep.refl _ | apply Keep.ite | apply Keep.ite2 | apply Keep.ite3 | intro _ | apply State.setTake_keep | apply Keep.foldl3 | apply Keep.foldl2 | apply Keep.foldl | (intro _ _ _) | (intro _ _)) | dsimp only | dsimp only [id] | simp only [Keep.mk_iff] | split | with_reducible refine Keep.of_eq2 (by assumption) ?_ | with_reducible refine Keep.of_eq3 (by assumption) ?_)

theorem State.lockWrite_keep {s0 : State} (s : State) (p : Nat) (secured mutAuth : Bool) (root : Nat) (ems b : List Byte) (hk : Keep s0 s) : Keep s0 (State.lockWrite s p secured mutAuth root ems b).2 := by
  unfold State.lockWrite
  repeat' (first | with_reducible (first | assumption | exact Keep.refl _ | apply Keep.ite | apply Keep.ite2 | apply Keep.ite3 | intro _ | apply State.refuse_keep | apply State.security_keep | apply State.updPart_keep | apply State.wr_keep | apply Keep.foldl3 | apply Keep.foldl2 | apply Keep.foldl | (intro _ _ _) | (intro _ _)) | dsimp only | dsimp only [id] | simp only [Keep.mk_iff] | split | with_reducible refine Keep.of_eq2 (by assumption) ?_ | with_reducible refine Keep.of_eq3 (by assumption) ?_)

theorem State.unlockWrite_keep {s0 : State} (s : State) (p : Nat) (b : List Byte) (hk : Keep s0 s) : Keep s0 (State.unlockWrite s p b).2 := by
  unfold State.unlockWrite
  repeat' (first | with_reducible (first | assumption | exact Keep.refl _ | apply Keep.ite | apply Keep.ite2 | apply Keep.ite3 | intro _ | apply State.updPart_keep | apply State.security_keep | apply State.tokenRefused_keep | apply Keep.foldl3 | apply Keep.foldl2 | apply Keep.foldl | (intro _ _ _) | (intro _ _)) | dsimp only | dsimp only [id] | simp only [Keep.mk_iff] | split | with_reducible refine Keep.of_eq2 (by assumption) ?_ | with_reducible refine Keep.of_eq3 (by assumption) ?_)

theorem State.lockSlate_keep {s0 : State} (s : State) (p : Nat) (hk : Keep s0 s) : Keep s0 (State.lockSlate s p) := by
  unfold State.lockSlate
  repeat' (first | with_reducible (first | assumption | exact Keep.refl _ | apply Keep.ite | apply Keep.ite2 | apply Keep.ite3 | intro _ | apply State.setPart_keep | apply State.setMode_keep | apply Keep.foldl3 | apply Keep.foldl2 | apply Keep.foldl | (intro _ _ _) | (intro _ _)) | dsimp only | dsimp only [id] | simp only [Keep.mk_iff] | split | with_reducible refine Keep.of_eq2 (by assumption) ?_ | with_reducible refine Keep.of_eq3 (by assumption) ?_)

theorem State.refuseWaiting_keep {s0 : State} (s : State) (p : Nat) (hk : Keep s0 s) : Keep s0 (State.refuseWaiting s p) := by
  unfold State.refuseWaiting
  repeat' (first | with_reducible (first | assumption | exact Keep.refl _ | apply Keep.ite | apply Keep.ite2 | apply Keep.ite3 | intro _ | apply State.answerSt_keep | apply Keep.foldl3 | apply Keep.foldl2 | apply Keep.foldl | (intro _ _ _) | (intro _ _)) | dsimp only | dsimp only [id] | simp only [Keep.mk_iff] | split | with_reducible refine Keep.of_eq2 (by assumption) ?_ | with_reducible refine Keep.of_eq3 (by assumption) ?_)

theorem State.advance_keep {s0 : State} (s : State) (p : Nat) (hk : Keep s0 s) : Keep s0 (State.advance s p) := by
  unfold State.advance
  repeat' (first | with_reducible (first | assumption | exact Keep.refl _ | apply Keep.ite | apply Keep.ite2 | apply Keep.ite3 | intro _ | apply State.wr_keep | apply State.updPart_keep | apply State.refuseWaiting_keep | apply Keep.foldl3 | apply Keep.foldl2 | apply Keep.foldl | (intro _ _ _) | (intro _ _)) | dsimp only | dsimp only [id] | simp only [Keep.mk_iff] | split | with_reducible refine Keep.of_eq2 (by assumption) ?_ | with_reducible refine Keep.of_eq3 (by assumption) ?_)

theorem State.freePart_keep {s0 : State} (s : State) (p : Nat) (hk : Keep s0 s) : Keep s0 (State.freePart s p) := by
  unfold State.freePart
  repeat' (first | with_reducible (first | assumption | exact Keep.refl _ | apply Keep.ite | apply Keep.ite2 | apply Keep.ite3 | intro _ | apply State.advance_keep | apply State.updPart_keep | apply State.setMode_keep | apply State.security_keep | apply State.wrs_keep | apply Keep.foldl3 | apply Keep.foldl2 | apply Keep.foldl | (intro _ _ _) | (intro _ _)) | dsimp only | dsimp only [id] | simp only [Keep.mk_iff] | split | with_reducible refine Keep.of_eq2 (by assumption) ?_ | with_reducible refine Keep.of_eq3 (by assumption) ?_)

theorem State.quarantineEnds_keep {s0 : State} (s : State) (p : Nat) (hk : Keep s0 s) : Keep s0 (State.quarantineEnds s p) := by
  unfold State.quarantineEnds
  repeat' (first | with_reducible (first | assumption | exact Keep.refl _ | apply Keep.ite | apply Keep.ite2 | apply Keep.ite3 | intro _ | apply State.wr_keep | apply Keep.foldl3 | apply Keep.foldl2 | apply Keep.foldl | (intro _ _ _) | (intro _ _)) | dsimp only | dsimp only [id] | simp only [Keep.mk_iff] | split | with_reducible refine Keep.of_eq2 (by assumption) ?_ | with_reducible refine Keep.of_eq3 (by assumption) ?_)

theorem execPartitionQuarantineEnd_keep (p : Nat) (s : State) : ∃ q, execPartitionQuarantineEnd p s = .next q ∧ Keep s q := by
  unfold execPartitionQuarantineEnd
  refine ⟨_, rfl, ?_⟩
  have hk := Keep.refl s
  repeat' (first | with_reducible (first | assumption | exact Keep.refl _ | apply Keep.ite | apply Keep.ite2 | apply Keep.ite3 | intro _ | apply State.quarantineEnds_keep | apply Keep.foldl3 | apply Keep.foldl2 | apply Keep.foldl | (intro _ _ _) | (intro _ _)) | dsimp only | dsimp only [id] | simp only [Keep.mk_iff] | split | with_reducible refine Keep.of_eq2 (by assumption) ?_ | with_reducible refine Keep.of_eq3 (by assumption) ?_)

theorem State.sealShow_keep {s0 : State} (s : State) (p result st idx : Nat) (hk : Keep s0 s) : Keep s0 (State.sealShow s p result st idx) := by
  unfold State.sealShow
  repeat' (first | with_reducible (first | assumption | exact Keep.refl _ | apply Keep.ite | apply Keep.ite2 | apply Keep.ite3 | intro _ | apply State.wr_keep | apply Keep.foldl3 | apply Keep.foldl2 | apply Keep.foldl | (intro _ _ _) | (intro _ _)) | dsimp only | dsimp only [id] | simp only [Keep.mk_iff] | split | with_reducible refine Keep.of_eq2 (by assumption) ?_ | with_reducible refine Keep.of_eq3 (by assumption) ?_)

theorem State.sealRefuse_keep {s0 : State} (s : State) (p st : Nat) (hk : Keep s0 s) : Keep s0 (State.sealRefuse s p st).2 := by
  unfold State.sealRefuse
  repeat' (first | with_reducible (first | assumption | exact Keep.refl _ | apply Keep.ite | apply Keep.ite2 | apply Keep.ite3 | intro _ | apply State.wr_keep | apply Keep.foldl3 | apply Keep.foldl2 | apply Keep.foldl | (intro _ _ _) | (intro _ _)) | dsimp only | dsimp only [id] | simp only [Keep.mk_iff] | split | with_reducible refine Keep.of_eq2 (by assumption) ?_ | with_reducible refine Keep.of_eq3 (by assumption) ?_)

theorem State.sealWrite_keep {s0 : State} (s : State) (p : Nat) (b : List Byte) (hk : Keep s0 s) : Keep s0 (State.sealWrite s p b).2 := by
  unfold State.sealWrite
  repeat' (first | with_reducible (first | assumption | exact Keep.refl _ | apply Keep.ite | apply Keep.ite2 | apply Keep.ite3 | intro _ | apply State.sealRefuse_keep | apply State.tokenRefused_keep | apply State.updPart_keep | apply State.sealShow_keep | apply Keep.foldl3 | apply Keep.foldl2 | apply Keep.foldl | (intro _ _ _) | (intro _ _)) | dsimp only | dsimp only [id] | simp only [Keep.mk_iff] | split | with_reducible refine Keep.of_eq2 (by assumption) ?_ | with_reducible refine Keep.of_eq3 (by assumption) ?_)

theorem State.sealLines_keep {s0 : State} (s : State) (p e va : Nat) (l : List Nat) (hk : Keep s0 s) : Keep s0 (State.sealLines s p e va l).2.2 := by
  unfold State.sealLines
  repeat' (first | with_reducible (first | assumption | exact Keep.refl _ | apply Keep.ite | apply Keep.ite2 | apply Keep.ite3 | intro _ | apply State.readFinal_keep | apply State.noteFault_keep | apply Keep.foldl3 | apply Keep.foldl2 | apply Keep.foldl | (intro _ _ _) | (intro _ _)) | dsimp only | dsimp only [id] | simp only [Keep.mk_iff] | split | with_reducible refine Keep.of_eq2 (by assumption) ?_ | with_reducible refine Keep.of_eq3 (by assumption) ?_)

theorem sealJoin_keep {s0 : State} (b : List Byte) (r : Nat × List Byte × State) (hk : Keep s0 r.2.2) :
    Keep s0 (sealJoin b r).2.2 := hk

theorem sealHash_keep {s0 : State} (b : Byte) (r : Nat × List Byte × State) (hk : Keep s0 r.2.2) : Keep s0 (sealHash b r).2.2 := hk

theorem State.sealGranule_keep {s0 : State} (s : State) (p e va : Nat) (hk : Keep s0 s) : Keep s0 (State.sealGranule s p e va).2.2 := by
  unfold State.sealGranule
  apply Keep.ite3
  · intro _
    exact State.tagRefusal_keep _ _ _ _ _ hk
  · intro _
    apply sealHash_keep
    apply State.sealLines_keep
    exact hk

theorem State.sealGranules_keep {s0 : State} (s : State) (p e base : Nat) (l : List Nat) (hk : Keep s0 s) :
    Keep s0 (State.sealGranules s p e base l).2.2 := by
  unfold State.sealGranules
  apply Keep.foldl3
  · exact hk
  · intro u j hu
    apply Keep.ite3
    · intro _
      exact hu
    · intro _
      apply sealJoin_keep
      apply State.sealGranule_keep
      exact hu

theorem State.sealGroup_keep {s0 : State} (s : State) (p e base j : Nat) (hk : Keep s0 s) : Keep s0 (State.sealGroup s p e base j).2.2 := by
  unfold State.sealGroup
  apply sealHash_keep
  apply State.sealGranules_keep
  exact hk

theorem State.sealGroups_keep {s0 : State} (s : State) (p e base : Nat) (l : List Nat) (hk : Keep s0 s) :
    Keep s0 (State.sealGroups s p e base l).2.2 := by
  unfold State.sealGroups
  apply Keep.foldl3
  · exact hk
  · intro u j hu
    apply Keep.ite3
    · intro _
      exact hu
    · intro _
      apply sealJoin_keep
      apply State.sealGroup_keep
      exact hu

theorem State.sealDigest_keep {s0 : State} (s : State) (p e idx : Nat) (hk : Keep s0 s) : Keep s0 (State.sealDigest s p e idx).2.2 := by
  unfold State.sealDigest
  apply sealHash_keep
  apply State.sealGroups_keep
  exact hk

theorem sealOutcome_keep {s0 : State} (p : Nat) (x : Seal) (r : Nat × List Byte × State) (hk : Keep s0 r.2.2) :
    Keep s0 (sealOutcome p x r) := by
  unfold sealOutcome
  repeat' (first | with_reducible (first | assumption | apply Keep.ite | intro _ | apply State.updPart_keep | apply State.sealShow_keep | apply State.count_keep))

theorem execSealHashComplete_keep (p : Nat) (s : State) : ∃ q, execSealHashComplete p s = .next q ∧ Keep s q := by
  unfold execSealHashComplete
  refine ⟨_, rfl, ?_⟩
  have hk := Keep.refl s
  split
  · exact hk
  · apply Keep.ite
    · intro _
      exact hk
    · intro _
      apply sealOutcome_keep
      apply State.sealDigest_keep
      exact hk

theorem State.sealDiscard_keep {s0 : State} (s : State) (p : Nat) (hk : Keep s0 s) : Keep s0 (State.sealDiscard s p) := by
  unfold State.sealDiscard
  repeat' (first | with_reducible (first | assumption | exact Keep.refl _ | apply Keep.ite | apply Keep.ite2 | apply Keep.ite3 | intro _ | apply State.updPart_keep | apply State.sealShow_keep | apply State.count_keep | apply Keep.foldl3 | apply Keep.foldl2 | apply Keep.foldl | (intro _ _ _) | (intro _ _)) | dsimp only | dsimp only [id] | simp only [Keep.mk_iff] | split | with_reducible refine Keep.of_eq2 (by assumption) ?_ | with_reducible refine Keep.of_eq3 (by assumption) ?_)

theorem State.sealSlate_keep {s0 : State} (s : State) (p : Nat) (hk : Keep s0 s) : Keep s0 (State.sealSlate s p) := by
  unfold State.sealSlate
  repeat' (first | with_reducible (first | assumption | exact Keep.refl _ | apply Keep.ite | apply Keep.ite2 | apply Keep.ite3 | intro _ | apply State.updPart_keep | apply State.partMade_keep | apply State.sealShow_keep | apply State.count_keep | apply Keep.foldl3 | apply Keep.foldl2 | apply Keep.foldl | (intro _ _ _) | (intro _ _)) | dsimp only | dsimp only [id] | simp only [Keep.mk_iff] | split | with_reducible refine Keep.of_eq2 (by assumption) ?_ | with_reducible refine Keep.of_eq3 (by assumption) ?_)

theorem State.sealReset_keep {s0 : State} (s : State) (p : Nat) (hk : Keep s0 s) : Keep s0 (State.sealReset s p) := by
  unfold State.sealReset
  repeat' (first | with_reducible (first | assumption | exact Keep.refl _ | apply Keep.ite | apply Keep.ite2 | apply Keep.ite3 | intro _ | apply State.updPart_keep | apply State.sealShow_keep | apply State.count_keep | apply Keep.foldl3 | apply Keep.foldl2 | apply Keep.foldl | (intro _ _ _) | (intro _ _)) | dsimp only | dsimp only [id] | simp only [Keep.mk_iff] | split | with_reducible refine Keep.of_eq2 (by assumption) ?_ | with_reducible refine Keep.of_eq3 (by assumption) ?_)

theorem execDrbgReseed_keep (s : State) : ∃ q, execDrbgReseed s = .next q ∧ Keep s q := by
  unfold execDrbgReseed
  refine ⟨_, rfl, ?_⟩
  have hk := Keep.refl s
  repeat' (first | with_reducible (first | assumption | exact Keep.refl _ | apply Keep.ite | apply Keep.ite2 | apply Keep.ite3 | intro _ | apply Keep.foldl3 | apply Keep.foldl2 | apply Keep.foldl | (intro _ _ _) | (intro _ _)) | dsimp only | dsimp only [id] | simp only [Keep.mk_iff] | split | with_reducible refine Keep.of_eq2 (by assumption) ?_ | with_reducible refine Keep.of_eq3 (by assumption) ?_)

theorem execDrbgHealthFailure_keep (tile : Nat) (s : State) : ∃ q, execDrbgHealthFailure tile s = .next q ∧ Keep s q := by
  unfold execDrbgHealthFailure
  refine ⟨_, rfl, ?_⟩
  have hk := Keep.refl s
  repeat' (first | with_reducible (first | assumption | exact Keep.refl _ | apply Keep.ite | apply Keep.ite2 | apply Keep.ite3 | intro _ | apply State.wr_keep | apply State.security_keep | apply Keep.foldl3 | apply Keep.foldl2 | apply Keep.foldl | (intro _ _ _) | (intro _ _)) | dsimp only | dsimp only [id] | simp only [Keep.mk_iff] | split | with_reducible refine Keep.of_eq2 (by assumption) ?_ | with_reducible refine Keep.of_eq3 (by assumption) ?_)

theorem State.debugWrite_keep {s0 : State} (s : State) (v : Nat) (hk : Keep s0 s) : Keep s0 (State.debugWrite s v).2 := by
  unfold State.debugWrite
  repeat' (first | with_reducible (first | assumption | exact Keep.refl _ | apply Keep.ite | apply Keep.ite2 | apply Keep.ite3 | intro _ | apply State.draw_keep | apply State.wrLag_keep | apply Keep.foldl3 | apply Keep.foldl2 | apply Keep.foldl | (intro _ _ _) | (intro _ _)) | dsimp only | dsimp only [id] | simp only [Keep.mk_iff] | split | with_reducible refine Keep.of_eq2 (by assumption) ?_ | with_reducible refine Keep.of_eq3 (by assumption) ?_)

end Sys2Proof.Machine
end

