-- ==== Sys2Proof/Laws/KeepAttest.lean ====
section
/-!
SUPPORT. The operations and meanings of Machine/Attest.lean keep the queue, the fuses and the form of memory.
-/

namespace Sys2Proof.Machine

theorem State.measureSlate_keep {s0 : State} (s : State) (hk : Keep s0 s) : Keep s0 (State.measureSlate s) := by
  unfold State.measureSlate
  repeat' (first | with_reducible (first | assumption | exact Keep.refl _ | apply Keep.ite | apply Keep.ite2 | apply Keep.ite3 | intro _ | apply Keep.foldl3 | apply Keep.foldl2 | apply Keep.foldl | (intro _ _ _) | (intro _ _)) | dsimp only | dsimp only [id] | simp only [Keep.mk_iff] | split | with_reducible refine Keep.of_eq2 (by assumption) ?_ | with_reducible refine Keep.of_eq3 (by assumption) ?_)

end Sys2Proof.Machine
end

