-- ==== Sys2Proof/Laws/KeepMover.lean ====
section
/-!
SUPPORT. The operations and meanings of Machine/Mover.lean keep the queue, the fuses and the form of memory.
-/

namespace Sys2Proof.Machine

theorem State.agentCheck_keep {s0 : State} (s : State) (handle va len : Nat) (wr : Bool) (hk : Keep s0 s) : Keep s0 (State.agentCheck s handle va len wr).2 := by
  unfold State.agentCheck
  repeat' (first | with_reducible (first | assumption | exact Keep.refl _ | apply Keep.ite | apply Keep.ite2 | apply Keep.ite3 | intro _ | apply State.wr_keep | apply State.tagRefusal_keep | apply State.recallFor_keep | apply Keep.foldl3 | apply Keep.foldl2 | apply Keep.foldl | (intro _ _ _) | (intro _ _)) | dsimp only | dsimp only [id] | simp only [Keep.mk_iff] | split | with_reducible refine Keep.of_eq2 (by assumption) ?_ | with_reducible refine Keep.of_eq3 (by assumption) ?_)

theorem State.agentLines_keep {s0 : State} (s : State) (e va len handle : Nat) (hk : Keep s0 s) : Keep s0 (State.agentLines s e va len handle).2 := by
  unfold State.agentLines
  repeat' (first | with_reducible (first | assumption | exact Keep.refl _ | apply Keep.ite | apply Keep.ite2 | apply Keep.ite3 | intro _ | apply State.readFinal_keep | apply Keep.foldl3 | apply Keep.foldl2 | apply Keep.foldl | (intro _ _ _) | (intro _ _)) | dsimp only | dsimp only [id] | simp only [Keep.mk_iff] | split | with_reducible refine Keep.of_eq2 (by assumption) ?_ | with_reducible refine Keep.of_eq3 (by assumption) ?_)

theorem State.setRing_keep {s0 : State} (s : State) (p r : Nat) (v : Ring) (hk : Keep s0 s) : Keep s0 (State.setRing s p r v) := by
  unfold State.setRing
  repeat' (first | with_reducible (first | assumption | exact Keep.refl _ | apply Keep.ite | apply Keep.ite2 | apply Keep.ite3 | intro _ | apply Keep.foldl3 | apply Keep.foldl2 | apply Keep.foldl | (intro _ _ _) | (intro _ _)) | dsimp only | dsimp only [id] | simp only [Keep.mk_iff] | split | with_reducible refine Keep.of_eq2 (by assumption) ?_ | with_reducible refine Keep.of_eq3 (by assumption) ?_)

theorem State.setTask_keep {s0 : State} (s : State) (t : MTask) (hk : Keep s0 s) : Keep s0 (State.setTask s t) := by
  unfold State.setTask
  repeat' (first | with_reducible (first | assumption | exact Keep.refl _ | apply Keep.ite | apply Keep.ite2 | apply Keep.ite3 | intro _ | apply Keep.foldl3 | apply Keep.foldl2 | apply Keep.foldl | (intro _ _ _) | (intro _ _)) | dsimp only | dsimp only [id] | simp only [Keep.mk_iff] | split | with_reducible refine Keep.of_eq2 (by assumption) ?_ | with_reducible refine Keep.of_eq3 (by assumption) ?_)

theorem State.moverCount_keep {s0 : State} (s : State) (slot i n : Nat) (hk : Keep s0 s) : Keep s0 (State.moverCount s slot i n) := by
  unfold State.moverCount
  repeat' (first | with_reducible (first | assumption | exact Keep.refl _ | apply Keep.ite | apply Keep.ite2 | apply Keep.ite3 | intro _ | apply State.count_keep | apply Keep.foldl3 | apply Keep.foldl2 | apply Keep.foldl | (intro _ _ _) | (intro _ _)) | dsimp only | dsimp only [id] | simp only [Keep.mk_iff] | split | with_reducible refine Keep.of_eq2 (by assumption) ?_ | with_reducible refine Keep.of_eq3 (by assumption) ?_)

theorem State.ringBell_keep {s0 : State} (s : State) (p r v : Nat) (hk : Keep s0 s) : Keep s0 (State.ringBell s p r v).2 := by
  unfold State.ringBell
  repeat' (first | with_reducible (first | assumption | exact Keep.refl _ | apply Keep.ite | apply Keep.ite2 | apply Keep.ite3 | intro _ | apply State.setRing_keep | apply Keep.foldl3 | apply Keep.foldl2 | apply Keep.foldl | (intro _ _ _) | (intro _ _)) | dsimp only | dsimp only [id] | simp only [Keep.mk_iff] | split | with_reducible refine Keep.of_eq2 (by assumption) ?_ | with_reducible refine Keep.of_eq3 (by assumption) ?_)

theorem State.ringRestart_keep {s0 : State} (s : State) (p r v : Nat) (hk : Keep s0 s) : Keep s0 (State.ringRestart s p r v).2 := by
  unfold State.ringRestart
  repeat' (first | with_reducible (first | assumption | exact Keep.refl _ | apply Keep.ite | apply Keep.ite2 | apply Keep.ite3 | intro _ | apply State.setRing_keep | apply State.recorded_keep | apply Keep.foldl3 | apply Keep.foldl2 | apply Keep.foldl | (intro _ _ _) | (intro _ _)) | dsimp only | dsimp only [id] | simp only [Keep.mk_iff] | split | with_reducible refine Keep.of_eq2 (by assumption) ?_ | with_reducible refine Keep.of_eq3 (by assumption) ?_)

theorem State.translate_keep {s0 : State} (s : State) (t : MTask) (l : List (Nat × Nat)) (hk : Keep s0 s) : Keep s0 (State.translate s t l) := by
  unfold State.translate
  repeat' (first | with_reducible (first | assumption | exact Keep.refl _ | apply Keep.ite | apply Keep.ite2 | apply Keep.ite3 | intro _ | apply State.setTask_keep | apply State.originate_keep | apply State.moverCount_keep | apply Keep.foldl3 | apply Keep.foldl2 | apply Keep.foldl | (intro _ _ _) | (intro _ _)) | dsimp only | dsimp only [id] | simp only [Keep.mk_iff] | split | with_reducible refine Keep.of_eq2 (by assumption) ?_ | with_reducible refine Keep.of_eq3 (by assumption) ?_)

theorem State.unpark_keep {s0 : State} (s : State) (id : Nat) (hk : Keep s0 s) : Keep s0 (State.unpark s id) := by
  unfold State.unpark
  repeat' (first | with_reducible (first | assumption | exact Keep.refl _ | apply Keep.ite | apply Keep.ite2 | apply Keep.ite3 | intro _ | apply Keep.foldl3 | apply Keep.foldl2 | apply Keep.foldl | (intro _ _ _) | (intro _ _)) | dsimp only | dsimp only [id] | simp only [Keep.mk_iff] | split | with_reducible refine Keep.of_eq2 (by assumption) ?_ | with_reducible refine Keep.of_eq3 (by assumption) ?_)

theorem State.endTask_keep {s0 : State} (s : State) (id st : Nat) (hk : Keep s0 s) : Keep s0 (State.endTask s id st) := by
  unfold State.endTask
  repeat' (first | with_reducible (first | assumption | exact Keep.refl _ | apply Keep.ite | apply Keep.ite2 | apply Keep.ite3 | intro _ | apply State.setTask_keep | apply State.unpark_keep | apply Keep.foldl3 | apply Keep.foldl2 | apply Keep.foldl | (intro _ _ _) | (intro _ _)) | dsimp only | dsimp only [id] | simp only [Keep.mk_iff] | split | with_reducible refine Keep.of_eq2 (by assumption) ?_ | with_reducible refine Keep.of_eq3 (by assumption) ?_)

theorem State.faultPeak_keep {s0 : State} (s : State) (slot : Nat) (hk : Keep s0 s) : Keep s0 (State.faultPeak s slot) := by
  unfold State.faultPeak
  repeat' (first | with_reducible (first | assumption | exact Keep.refl _ | apply Keep.ite | apply Keep.ite2 | apply Keep.ite3 | intro _ | apply State.wr_keep | apply Keep.foldl3 | apply Keep.foldl2 | apply Keep.foldl | (intro _ _ _) | (intro _ _)) | dsimp only | dsimp only [id] | simp only [Keep.mk_iff] | split | with_reducible refine Keep.of_eq2 (by assumption) ?_ | with_reducible refine Keep.of_eq3 (by assumption) ?_)

theorem State.pageFault_keep {s0 : State} (s : State) (t : MTask) (i : Nat) (hk : Keep s0 s) : Keep s0 (State.pageFault s t i) := by
  unfold State.pageFault
  repeat' (first | with_reducible (first | assumption | exact Keep.refl _ | apply Keep.ite | apply Keep.ite2 | apply Keep.ite3 | intro _ | apply State.endTask_keep | apply State.setTask_keep | apply State.moverCount_keep | apply State.faultPeak_keep | apply State.originate_keep | apply Keep.foldl3 | apply Keep.foldl2 | apply Keep.foldl | (intro _ _ _) | (intro _ _)) | dsimp only | dsimp only [id] | simp only [Keep.mk_iff] | split | with_reducible refine Keep.of_eq2 (by assumption) ?_ | with_reducible refine Keep.of_eq3 (by assumption) ?_)

theorem State.needPage_keep {s0 : State} (s : State) (t : MTask) (hk : Keep s0 s) : Keep s0 (State.needPage s t) := by
  unfold State.needPage
  repeat' (first | with_reducible (first | assumption | exact Keep.refl _ | apply Keep.ite | apply Keep.ite2 | apply Keep.ite3 | intro _ | apply State.pageFault_keep | apply State.setTask_keep | apply State.translate_keep | apply Keep.foldl3 | apply Keep.foldl2 | apply Keep.foldl | (intro _ _ _) | (intro _ _)) | dsimp only | dsimp only [id] | simp only [Keep.mk_iff] | split | with_reducible refine Keep.of_eq2 (by assumption) ?_ | with_reducible refine Keep.of_eq3 (by assumption) ?_)

theorem State.readDesc_keep {s0 : State} (s : State) (p h va : Nat) (hk : Keep s0 s) : Keep s0 (State.readDesc s p h va).2 := by
  unfold State.readDesc
  repeat' (first | with_reducible (first | assumption | exact Keep.refl _ | apply Keep.ite | apply Keep.ite2 | apply Keep.ite3 | intro _ | apply State.agentCheck_keep | apply State.agentLines_keep | apply State.noteFault_keep | apply Keep.foldl3 | apply Keep.foldl2 | apply Keep.foldl | (intro _ _ _) | (intro _ _)) | dsimp only | dsimp only [id] | simp only [Keep.mk_iff] | split | with_reducible refine Keep.of_eq2 (by assumption) ?_ | with_reducible refine Keep.of_eq3 (by assumption) ?_)

theorem execDescriptorFetch_keep (p r : Nat) (s : State) : ∃ q, execDescriptorFetch p r s = .next q ∧ Keep s q := by
  unfold execDescriptorFetch
  refine ⟨_, rfl, ?_⟩
  have hk := Keep.refl s
  repeat' (first | with_reducible (first | assumption | exact Keep.refl _ | apply Keep.ite | apply Keep.ite2 | apply Keep.ite3 | intro _ | apply State.readDesc_keep | apply State.count_keep | apply State.setRing_keep | apply State.translate_keep | apply Keep.foldl3 | apply Keep.foldl2 | apply Keep.foldl | (intro _ _ _) | (intro _ _)) | dsimp only | dsimp only [id] | simp only [Keep.mk_iff] | split | with_reducible refine Keep.of_eq2 (by assumption) ?_ | with_reducible refine Keep.of_eq3 (by assumption) ?_)

theorem State.translateDone_keep {s0 : State} (s : State) (x : PartReq) (id st : Nat) (b : List Byte) (hk : Keep s0 s) : Keep s0 (State.translateDone s x id st b) := by
  unfold State.translateDone
  repeat' (first | with_reducible (first | assumption | exact Keep.refl _ | apply Keep.ite | apply Keep.ite2 | apply Keep.ite3 | intro _ | apply State.settle_keep | apply State.endTask_keep | apply State.setTask_keep | apply State.moverCount_keep | apply State.translate_keep | apply State.needPage_keep | apply Keep.foldl3 | apply Keep.foldl2 | apply Keep.foldl | (intro _ _ _) | (intro _ _)) | dsimp only | dsimp only [id] | simp only [Keep.mk_iff] | split | with_reducible refine Keep.of_eq2 (by assumption) ?_ | with_reducible refine Keep.of_eq3 (by assumption) ?_)

theorem State.retryTable_keep {s0 : State} (s : State) (slot : Nat) (hk : Keep s0 s) : Keep s0 (State.retryTable s slot) := by
  unfold State.retryTable
  repeat' (first | with_reducible (first | assumption | exact Keep.refl _ | apply Keep.ite | apply Keep.ite2 | apply Keep.ite3 | intro _ | apply State.pageFault_keep | apply Keep.foldl3 | apply Keep.foldl2 | apply Keep.foldl | (intro _ _ _) | (intro _ _)) | dsimp only | dsimp only [id] | simp only [Keep.mk_iff] | split | with_reducible refine Keep.of_eq2 (by assumption) ?_ | with_reducible refine Keep.of_eq3 (by assumption) ?_)

theorem State.pageDone_keep {s0 : State} (s : State) (slot n st : Nat) (hk : Keep s0 s) : Keep s0 (State.pageDone s slot n st) := by
  unfold State.pageDone
  repeat' (first | with_reducible (first | assumption | exact Keep.refl _ | apply Keep.ite | apply Keep.ite2 | apply Keep.ite3 | intro _ | apply State.setTask_keep | apply State.translate_keep | apply State.endTask_keep | apply State.pageFault_keep | apply State.retryTable_keep | apply Keep.foldl3 | apply Keep.foldl2 | apply Keep.foldl | (intro _ _ _) | (intro _ _)) | dsimp only | dsimp only [id] | simp only [Keep.mk_iff] | split | with_reducible refine Keep.of_eq2 (by assumption) ?_ | with_reducible refine Keep.of_eq3 (by assumption) ?_)

theorem State.issueBurst_keep {s0 : State} (s : State) (id pos n : Nat) (hk : Keep s0 s) : Keep s0 (State.issueBurst s id pos n) := by
  unfold State.issueBurst
  repeat' (first | with_reducible (first | assumption | exact Keep.refl _ | apply Keep.ite | apply Keep.ite2 | apply Keep.ite3 | intro _ | apply State.setTask_keep | apply State.originate_keep | apply State.agentCheck_keep | apply State.endTask_keep | apply State.agentLines_keep | apply State.noteFault_keep | apply Keep.foldl3 | apply Keep.foldl2 | apply Keep.foldl | (intro _ _ _) | (intro _ _)) | dsimp only | dsimp only [id] | simp only [Keep.mk_iff] | split | with_reducible refine Keep.of_eq2 (by assumption) ?_ | with_reducible refine Keep.of_eq3 (by assumption) ?_)

theorem State.commitFails_keep {s0 : State} (s : State) (t : MTask) (pos st : Nat) (hk : Keep s0 s) : Keep s0 (State.commitFails s t pos st) := by
  unfold State.commitFails
  repeat' (first | with_reducible (first | assumption | exact Keep.refl _ | apply Keep.ite | apply Keep.ite2 | apply Keep.ite3 | intro _ | apply State.setTask_keep | apply State.endTask_keep | apply Keep.foldl3 | apply Keep.foldl2 | apply Keep.foldl | (intro _ _ _) | (intro _ _)) | dsimp only | dsimp only [id] | simp only [Keep.mk_iff] | split | with_reducible refine Keep.of_eq2 (by assumption) ?_ | with_reducible refine Keep.of_eq3 (by assumption) ?_)

theorem State.commitPull_keep {s0 : State} (s : State) (id n : Nat) (hk : Keep s0 s) : Keep s0 (State.commitPull s id n) := by
  induction n generalizing s with
  | zero => exact hk
  | succ n ih =>
    unfold State.commitPull
    repeat' (first | with_reducible (first | assumption | apply ih | apply State.commitFails_keep | apply State.noteFault_keep | apply State.spend_keep | apply State.meterAdd_keep | apply State.moverCount_keep | apply State.setTask_keep | apply State.agentWrite_keep | apply State.agentCheck_keep | apply Keep.foldl | apply State.readFinal_keep | (intro _ _ _)) | dsimp only | split)

theorem execMoverChunkStart_keep (slot engine t : Nat) (s : State) : ∃ q, execMoverChunkStart slot engine t s = .next q ∧ Keep s q := by
  unfold execMoverChunkStart
  refine ⟨_, rfl, ?_⟩
  have hk := Keep.refl s
  repeat' (first | with_reducible (first | assumption | exact Keep.refl _ | apply Keep.ite | apply Keep.ite2 | apply Keep.ite3 | intro _ | apply State.at_keep | apply State.commitPull_keep | apply State.needPage_keep | apply State.issueBurst_keep | apply State.moverCount_keep | apply Keep.foldl3 | apply Keep.foldl2 | apply Keep.foldl | (intro _ _ _) | (intro _ _)) | dsimp only | dsimp only [id] | simp only [Keep.mk_iff] | split | with_reducible refine Keep.of_eq2 (by assumption) ?_ | with_reducible refine Keep.of_eq3 (by assumption) ?_)

theorem State.burstDone_keep {s0 : State} (s : State) (x : PartReq) (id pos st : Nat) (d : List Byte) (hk : Keep s0 s) : Keep s0 (State.burstDone s x id pos st d) := by
  unfold State.burstDone
  repeat' (first | with_reducible (first | assumption | exact Keep.refl _ | apply Keep.ite | apply Keep.ite2 | apply Keep.ite3 | intro _ | apply State.settle_keep | apply State.setTask_keep | apply State.endTask_keep | apply State.moverCount_keep | apply State.meterAdd_keep | apply State.spend_keep | apply State.commitPull_keep | apply Keep.foldl3 | apply Keep.foldl2 | apply Keep.foldl | (intro _ _ _) | (intro _ _)) | dsimp only | dsimp only [id] | simp only [Keep.mk_iff] | split | with_reducible refine Keep.of_eq2 (by assumption) ?_ | with_reducible refine Keep.of_eq3 (by assumption) ?_)

theorem State.putRecord_keep {s0 : State} (s : State) (handle va : Nat) (b : List Byte) (hk : Keep s0 s) : Keep s0 (State.putRecord s handle va b).2 := by
  unfold State.putRecord
  repeat' (first | with_reducible (first | assumption | exact Keep.refl _ | apply Keep.ite | apply Keep.ite2 | apply Keep.ite3 | intro _ | apply State.agentCheck_keep | apply State.agentWrite_keep | apply Keep.foldl3 | apply Keep.foldl2 | apply Keep.foldl | (intro _ _ _) | (intro _ _)) | dsimp only | dsimp only [id] | simp only [Keep.mk_iff] | split | with_reducible refine Keep.of_eq2 (by assumption) ?_ | with_reducible refine Keep.of_eq3 (by assumption) ?_)

theorem State.haltRing_keep {s0 : State} (s : State) (p r st count : Nat) (hk : Keep s0 s) : Keep s0 (State.haltRing s p r st count) := by
  unfold State.haltRing
  repeat' (first | with_reducible (first | assumption | exact Keep.refl _ | apply Keep.ite | apply Keep.ite2 | apply Keep.ite3 | intro _ | apply State.setRing_keep | apply State.count_keep | apply State.endTask_keep | apply Keep.foldl3 | apply Keep.foldl2 | apply Keep.foldl | (intro _ _ _) | (intro _ _)) | dsimp only | dsimp only [id] | simp only [Keep.mk_iff] | split | with_reducible refine Keep.of_eq2 (by assumption) ?_ | with_reducible refine Keep.of_eq3 (by assumption) ?_)

theorem execMoverTaskComplete_keep (p r slab : Nat) (s : State) : ∃ q, execMoverTaskComplete p r slab s = .next q ∧ Keep s q := by
  unfold execMoverTaskComplete
  refine ⟨_, rfl, ?_⟩
  have hk := Keep.refl s
  repeat' (first | with_reducible (first | assumption | exact Keep.refl _ | apply Keep.ite | apply Keep.ite2 | apply Keep.ite3 | intro _ | apply State.commitPull_keep | apply State.putRecord_keep | apply State.setTask_keep | apply State.moverCount_keep | apply State.haltRing_keep | apply State.count_keep | apply Keep.foldl3 | apply Keep.foldl2 | apply Keep.foldl | (intro _ _ _) | (intro _ _)) | dsimp only | dsimp only [id] | simp only [Keep.mk_iff] | split | with_reducible refine Keep.of_eq2 (by assumption) ?_ | with_reducible refine Keep.of_eq3 (by assumption) ?_)

theorem State.ringNotify_keep {s0 : State} (s : State) (p r inc cookie done st : Nat) (hk : Keep s0 s) : Keep s0 (State.ringNotify s p r inc cookie done st) := by
  unfold State.ringNotify
  repeat' (first | with_reducible (first | assumption | exact Keep.refl _ | apply Keep.ite | apply Keep.ite2 | apply Keep.ite3 | intro _ | apply State.notify_keep | apply Keep.foldl3 | apply Keep.foldl2 | apply Keep.foldl | (intro _ _ _) | (intro _ _)) | dsimp only | dsimp only [id] | simp only [Keep.mk_iff] | split | with_reducible refine Keep.of_eq2 (by assumption) ?_ | with_reducible refine Keep.of_eq3 (by assumption) ?_)

theorem execCompletionRecordAck_keep (p r slab : Nat) (s : State) : ∃ q, execCompletionRecordAck p r slab s = .next q ∧ Keep s q := by
  unfold execCompletionRecordAck
  refine ⟨_, rfl, ?_⟩
  have hk := Keep.refl s
  repeat' (first | with_reducible (first | assumption | exact Keep.refl _ | apply Keep.ite | apply Keep.ite2 | apply Keep.ite3 | intro _ | apply State.setRing_keep | apply State.recorded_keep | apply State.count_keep | apply State.advance_keep | apply State.ringNotify_keep | apply State.originate_keep | apply Keep.foldl3 | apply Keep.foldl2 | apply Keep.foldl | (intro _ _ _) | (intro _ _)) | dsimp only | dsimp only [id] | simp only [Keep.mk_iff] | split | with_reducible refine Keep.of_eq2 (by assumption) ?_ | with_reducible refine Keep.of_eq3 (by assumption) ?_)

theorem execRingHaltComplete_keep (p r : Nat) (s : State) : ∃ q, execRingHaltComplete p r s = .next q ∧ Keep s q := by
  unfold execRingHaltComplete
  refine ⟨_, rfl, ?_⟩
  have hk := Keep.refl s
  repeat' (first | with_reducible (first | assumption | exact Keep.refl _ | apply Keep.ite | apply Keep.ite2 | apply Keep.ite3 | intro _ | apply State.setRing_keep | apply State.recorded_keep | apply State.moverCount_keep | apply State.draw_keep | apply State.ringNotify_keep | apply Keep.foldl3 | apply Keep.foldl2 | apply Keep.foldl | (intro _ _ _) | (intro _ _)) | dsimp only | dsimp only [id] | simp only [Keep.mk_iff] | split | with_reducible refine Keep.of_eq2 (by assumption) ?_ | with_reducible refine Keep.of_eq3 (by assumption) ?_)

theorem State.invalidate_keep {s0 : State} (s : State) (r : Req) (hk : Keep s0 s) : Keep s0 (State.invalidate s r) := by
  unfold State.invalidate
  repeat' (first | with_reducible (first | assumption | exact Keep.refl _ | apply Keep.ite | apply Keep.ite2 | apply Keep.ite3 | intro _ | apply State.moverCount_keep | apply Keep.foldl3 | apply Keep.foldl2 | apply Keep.foldl | (intro _ _ _) | (intro _ _)) | dsimp only | dsimp only [id] | simp only [Keep.mk_iff] | split | with_reducible refine Keep.of_eq2 (by assumption) ?_ | with_reducible refine Keep.of_eq3 (by assumption) ?_)

theorem State.serveInvalidate_keep {s0 : State} (s : State) (r : Req) (hk : Keep s0 s) : Keep s0 (State.serveInvalidate s r) := by
  unfold State.serveInvalidate
  repeat' (first | with_reducible (first | assumption | exact Keep.refl _ | apply Keep.ite | apply Keep.ite2 | apply Keep.ite3 | intro _ | apply State.invalidate_keep | apply State.hold_keep | apply Keep.foldl3 | apply Keep.foldl2 | apply Keep.foldl | (intro _ _ _) | (intro _ _)) | dsimp only | dsimp only [id] | simp only [Keep.mk_iff] | split | with_reducible refine Keep.of_eq2 (by assumption) ?_ | with_reducible refine Keep.of_eq3 (by assumption) ?_)

theorem execInvalidateDrainComplete_keep (port id : Nat) (s : State) : ∃ q, execInvalidateDrainComplete port id s = .next q ∧ Keep s q := by
  unfold execInvalidateDrainComplete
  refine ⟨_, rfl, ?_⟩
  have hk := Keep.refl s
  repeat' (first | with_reducible (first | assumption | exact Keep.refl _ | apply Keep.ite | apply Keep.ite2 | apply Keep.ite3 | intro _ | apply State.answer_keep | apply Keep.foldl3 | apply Keep.foldl2 | apply Keep.foldl | (intro _ _ _) | (intro _ _)) | dsimp only | dsimp only [id] | simp only [Keep.mk_iff] | split | with_reducible refine Keep.of_eq2 (by assumption) ?_ | with_reducible refine Keep.of_eq3 (by assumption) ?_)

theorem State.moverGivenUp_keep {s0 : State} (s : State) (x : PartReq) (hk : Keep s0 s) : Keep s0 (State.moverGivenUp s x) := by
  unfold State.moverGivenUp
  repeat' (first | with_reducible (first | assumption | exact Keep.refl _ | apply Keep.ite | apply Keep.ite2 | apply Keep.ite3 | intro _ | apply State.translate_keep | apply State.settle_keep | apply State.endTask_keep | apply State.pageDone_keep | apply State.burstDone_keep | apply State.moverCount_keep | apply State.notify_keep | apply Keep.foldl3 | apply Keep.foldl2 | apply Keep.foldl | (intro _ _ _) | (intro _ _)) | dsimp only | dsimp only [id] | simp only [Keep.mk_iff] | split | with_reducible refine Keep.of_eq2 (by assumption) ?_ | with_reducible refine Keep.of_eq3 (by assumption) ?_)

theorem State.ringEnds_keep {s0 : State} (s : State) (p r d h : Nat) (hk : Keep s0 s) : Keep s0 (State.ringEnds s p r d h) := by
  unfold State.ringEnds
  repeat' (first | with_reducible (first | assumption | exact Keep.refl _ | apply Keep.ite | apply Keep.ite2 | apply Keep.ite3 | intro _ | apply State.unpark_keep | apply State.setTask_keep | apply State.putRecord_keep | apply State.setRing_keep | apply Keep.foldl3 | apply Keep.foldl2 | apply Keep.foldl | (intro _ _ _) | (intro _ _)) | dsimp only | dsimp only [id] | simp only [Keep.mk_iff] | split | with_reducible refine Keep.of_eq2 (by assumption) ?_ | with_reducible refine Keep.of_eq3 (by assumption) ?_)

theorem State.moverReset_keep {s0 : State} (s : State) (sel : Nat → Nat → Bool) (hk : Keep s0 s) : Keep s0 (State.moverReset s sel) := by
  unfold State.moverReset
  repeat' (first | with_reducible (first | assumption | exact Keep.refl _ | apply Keep.ite | apply Keep.ite2 | apply Keep.ite3 | intro _ | apply State.unpark_keep | apply State.setRing_keep | apply State.recorded_keep | apply Keep.foldl3 | apply Keep.foldl2 | apply Keep.foldl | (intro _ _ _) | (intro _ _)) | dsimp only | dsimp only [id] | simp only [Keep.mk_iff] | split | with_reducible refine Keep.of_eq2 (by assumption) ?_ | with_reducible refine Keep.of_eq3 (by assumption) ?_)

theorem State.slabProbe_keep {s0 : State} (s : State) (v : Nat) (hk : Keep s0 s) : Keep s0 (State.slabProbe s v).2 := by
  unfold State.slabProbe
  repeat' (first | with_reducible (first | assumption | exact Keep.refl _ | apply Keep.ite | apply Keep.ite2 | apply Keep.ite3 | intro _ | apply State.wr_keep | apply Keep.foldl3 | apply Keep.foldl2 | apply Keep.foldl | (intro _ _ _) | (intro _ _)) | dsimp only | dsimp only [id] | simp only [Keep.mk_iff] | split | with_reducible refine Keep.of_eq2 (by assumption) ?_ | with_reducible refine Keep.of_eq3 (by assumption) ?_)

end Sys2Proof.Machine
end

