-- ==== Sys2Proof/Laws/KeepReel.lean ====
section
/-!
SUPPORT. The operations and meanings of Machine/Reel.lean keep the queue, the fuses and the form of memory.
-/

namespace Sys2Proof.Machine

/-- What an instruction's work leaves, whatever its outcome. -/
def KeepRan (s0 : State) : Ran → Prop
  | .stall s => Keep s0 s
  | .fault s _ _ => Keep s0 s
  | .done s _ _ => Keep s0 s
  | .held s => Keep s0 s

theorem KeepRan.stall {s0 s : State} (h : Keep s0 s) : KeepRan s0 (.stall s) := h
theorem KeepRan.fault {s0 s : State} (c d : Nat) (h : Keep s0 s) : KeepRan s0 (.fault s c d) := h
theorem KeepRan.done {s0 s : State} (p : Int) (n : Nat) (h : Keep s0 s) : KeepRan s0 (.done s p n) := h
theorem KeepRan.held {s0 s : State} (h : Keep s0 s) : KeepRan s0 (.held s) := h

theorem KeepRan.ite {s : State} {a b : Ran} {c : Prop} [Decidable c] (ha : c → KeepRan s a) (hb : ¬c → KeepRan s b) :
    KeepRan s (if c then a else b) := by
  split
  · rename_i h; exact ha h
  · rename_i h; exact hb h

theorem KeepRan.stall' {s0 s : State} {r : Ran} (e : r = .stall s) (h : KeepRan s0 r) : Keep s0 s := by subst e; exact h
theorem KeepRan.fault' {s0 s : State} {r : Ran} {c d : Nat} (e : r = .fault s c d) (h : KeepRan s0 r) : Keep s0 s := by subst e; exact h
theorem KeepRan.done' {s0 s : State} {r : Ran} {p : Int} {n : Nat} (e : r = .done s p n) (h : KeepRan s0 r) : Keep s0 s := by subst e; exact h
theorem KeepRan.held' {s0 s : State} {r : Ran} (e : r = .held s) (h : KeepRan s0 r) : Keep s0 s := by subst e; exact h

theorem State.setCtx_keep {s0 : State} (s : State) (slot c : Nat) (k : Ctx) (hk : Keep s0 s) : Keep s0 (State.setCtx s slot c k) := by
  unfold State.setCtx
  repeat' (first | with_reducible (first | assumption | exact Keep.refl _ | apply Keep.ite | apply Keep.ite2 | apply Keep.ite3 | intro _ | apply KeepRan.ite | apply KeepRan.stall | apply KeepRan.fault | apply KeepRan.done | apply KeepRan.held | refine KeepRan.stall' (by assumption) ?_ | refine KeepRan.fault' (by assumption) ?_ | refine KeepRan.done' (by assumption) ?_ | refine KeepRan.held' (by assumption) ?_ | apply hk_run | apply Keep.foldl3 | apply Keep.foldl2 | apply Keep.foldl | (intro _ _ _) | (intro _ _)) | dsimp only | dsimp only [id] | simp only [Keep.mk_iff] | split | with_reducible refine Keep.of_eq2 (by assumption) ?_ | with_reducible refine Keep.of_eq3 (by assumption) ?_)

theorem State.setWindow_keep {s0 : State} (s : State) (b : Nat) (w : Window) (hk : Keep s0 s) : Keep s0 (State.setWindow s b w) := by
  unfold State.setWindow
  repeat' (first | with_reducible (first | assumption | exact Keep.refl _ | apply Keep.ite | apply Keep.ite2 | apply Keep.ite3 | intro _ | apply KeepRan.ite | apply KeepRan.stall | apply KeepRan.fault | apply KeepRan.done | apply KeepRan.held | refine KeepRan.stall' (by assumption) ?_ | refine KeepRan.fault' (by assumption) ?_ | refine KeepRan.done' (by assumption) ?_ | refine KeepRan.held' (by assumption) ?_ | apply hk_run | apply Keep.foldl3 | apply Keep.foldl2 | apply Keep.foldl | (intro _ _ _) | (intro _ _)) | dsimp only | dsimp only [id] | simp only [Keep.mk_iff] | split | with_reducible refine Keep.of_eq2 (by assumption) ?_ | with_reducible refine Keep.of_eq3 (by assumption) ?_)

theorem State.setEvents_keep {s0 : State} (s : State) (p : Nat) (e : Events) (hk : Keep s0 s) : Keep s0 (State.setEvents s p e) := by
  unfold State.setEvents
  repeat' (first | with_reducible (first | assumption | exact Keep.refl _ | apply Keep.ite | apply Keep.ite2 | apply Keep.ite3 | intro _ | apply KeepRan.ite | apply KeepRan.stall | apply KeepRan.fault | apply KeepRan.done | apply KeepRan.held | refine KeepRan.stall' (by assumption) ?_ | refine KeepRan.fault' (by assumption) ?_ | refine KeepRan.done' (by assumption) ?_ | refine KeepRan.held' (by assumption) ?_ | apply hk_run | apply Keep.foldl3 | apply Keep.foldl2 | apply Keep.foldl | (intro _ _ _) | (intro _ _)) | dsimp only | dsimp only [id] | simp only [Keep.mk_iff] | split | with_reducible refine Keep.of_eq2 (by assumption) ?_ | with_reducible refine Keep.of_eq3 (by assumption) ?_)

theorem State.setLaunch_keep {s0 : State} (s : State) (l : Launch) (hk : Keep s0 s) : Keep s0 (State.setLaunch s l) := by
  unfold State.setLaunch
  repeat' (first | with_reducible (first | assumption | exact Keep.refl _ | apply Keep.ite | apply Keep.ite2 | apply Keep.ite3 | intro _ | apply KeepRan.ite | apply KeepRan.stall | apply KeepRan.fault | apply KeepRan.done | apply KeepRan.held | refine KeepRan.stall' (by assumption) ?_ | refine KeepRan.fault' (by assumption) ?_ | refine KeepRan.done' (by assumption) ?_ | refine KeepRan.held' (by assumption) ?_ | apply hk_run | apply Keep.foldl3 | apply Keep.foldl2 | apply Keep.foldl | (intro _ _ _) | (intro _ _)) | dsimp only | dsimp only [id] | simp only [Keep.mk_iff] | split | with_reducible refine Keep.of_eq2 (by assumption) ?_ | with_reducible refine Keep.of_eq3 (by assumption) ?_)

theorem State.reelCount_keep {s0 : State} (s : State) (p i n : Nat) (hk : Keep s0 s) : Keep s0 (State.reelCount s p i n) := by
  unfold State.reelCount
  repeat' (first | with_reducible (first | assumption | exact Keep.refl _ | apply Keep.ite | apply Keep.ite2 | apply Keep.ite3 | intro _ | apply State.count_keep | apply KeepRan.ite | apply KeepRan.stall | apply KeepRan.fault | apply KeepRan.done | apply KeepRan.held | refine KeepRan.stall' (by assumption) ?_ | refine KeepRan.fault' (by assumption) ?_ | refine KeepRan.done' (by assumption) ?_ | refine KeepRan.held' (by assumption) ?_ | apply hk_run | apply Keep.foldl3 | apply Keep.foldl2 | apply Keep.foldl | (intro _ _ _) | (intro _ _)) | dsimp only | dsimp only [id] | simp only [Keep.mk_iff] | split | with_reducible refine Keep.of_eq2 (by assumption) ?_ | with_reducible refine Keep.of_eq3 (by assumption) ?_)

theorem State.engineCount_keep {s0 : State} (s : State) (slot i n : Nat) (hk : Keep s0 s) : Keep s0 (State.engineCount s slot i n) := by
  unfold State.engineCount
  repeat' (first | with_reducible (first | assumption | exact Keep.refl _ | apply Keep.ite | apply Keep.ite2 | apply Keep.ite3 | intro _ | apply State.count_keep | apply KeepRan.ite | apply KeepRan.stall | apply KeepRan.fault | apply KeepRan.done | apply KeepRan.held | refine KeepRan.stall' (by assumption) ?_ | refine KeepRan.fault' (by assumption) ?_ | refine KeepRan.done' (by assumption) ?_ | refine KeepRan.held' (by assumption) ?_ | apply hk_run | apply Keep.foldl3 | apply Keep.foldl2 | apply Keep.foldl | (intro _ _ _) | (intro _ _)) | dsimp only | dsimp only [id] | simp only [Keep.mk_iff] | split | with_reducible refine Keep.of_eq2 (by assumption) ?_ | with_reducible refine Keep.of_eq3 (by assumption) ?_)

theorem State.dropPrefetch_keep {s0 : State} (s : State) (slot c : Nat) (hk : Keep s0 s) : Keep s0 (State.dropPrefetch s slot c) := by
  unfold State.dropPrefetch
  repeat' (first | with_reducible (first | assumption | exact Keep.refl _ | apply Keep.ite | apply Keep.ite2 | apply Keep.ite3 | intro _ | apply State.engineCount_keep | apply State.setCtx_keep | apply KeepRan.ite | apply KeepRan.stall | apply KeepRan.fault | apply KeepRan.done | apply KeepRan.held | refine KeepRan.stall' (by assumption) ?_ | refine KeepRan.fault' (by assumption) ?_ | refine KeepRan.done' (by assumption) ?_ | refine KeepRan.held' (by assumption) ?_ | apply hk_run | apply Keep.foldl3 | apply Keep.foldl2 | apply Keep.foldl | (intro _ _ _) | (intro _ _)) | dsimp only | dsimp only [id] | simp only [Keep.mk_iff] | split | with_reducible refine Keep.of_eq2 (by assumption) ?_ | with_reducible refine Keep.of_eq3 (by assumption) ?_)

theorem State.ackPost_keep {s0 : State} (s : State) (slot c : Nat) (m : Nat × Option Nat) (ret : Nat) (hk : Keep s0 s) : Keep s0 (State.ackPost s slot c m ret) := by
  unfold State.ackPost
  repeat' (first | with_reducible (first | assumption | exact Keep.refl _ | apply Keep.ite | apply Keep.ite2 | apply Keep.ite3 | intro _ | apply State.setWindow_keep | apply KeepRan.ite | apply KeepRan.stall | apply KeepRan.fault | apply KeepRan.done | apply KeepRan.held | refine KeepRan.stall' (by assumption) ?_ | refine KeepRan.fault' (by assumption) ?_ | refine KeepRan.done' (by assumption) ?_ | refine KeepRan.held' (by assumption) ?_ | apply hk_run | apply Keep.foldl3 | apply Keep.foldl2 | apply Keep.foldl | (intro _ _ _) | (intro _ _)) | dsimp only | dsimp only [id] | simp only [Keep.mk_iff] | split | with_reducible refine Keep.of_eq2 (by assumption) ?_ | with_reducible refine Keep.of_eq3 (by assumption) ?_)

theorem State.ackTaken_keep {s0 : State} (s : State) (slot c ret : Nat) (hk : Keep s0 s) : Keep s0 (State.ackTaken s slot c ret) := by
  unfold State.ackTaken
  repeat' (first | with_reducible (first | assumption | exact Keep.refl _ | apply Keep.ite | apply Keep.ite2 | apply Keep.ite3 | intro _ | apply State.ackPost_keep | apply State.setCtx_keep | apply KeepRan.ite | apply KeepRan.stall | apply KeepRan.fault | apply KeepRan.done | apply KeepRan.held | refine KeepRan.stall' (by assumption) ?_ | refine KeepRan.fault' (by assumption) ?_ | refine KeepRan.done' (by assumption) ?_ | refine KeepRan.held' (by assumption) ?_ | apply hk_run | apply Keep.foldl3 | apply Keep.foldl2 | apply Keep.foldl | (intro _ _ _) | (intro _ _)) | dsimp only | dsimp only [id] | simp only [Keep.mk_iff] | split | with_reducible refine Keep.of_eq2 (by assumption) ?_ | with_reducible refine Keep.of_eq3 (by assumption) ?_)

theorem State.emptyMailboxes_keep {s0 : State} (s : State) (slot c ret : Nat) (hk : Keep s0 s) : Keep s0 (State.emptyMailboxes s slot c ret) := by
  unfold State.emptyMailboxes
  repeat' (first | with_reducible (first | assumption | exact Keep.refl _ | apply Keep.ite | apply Keep.ite2 | apply Keep.ite3 | intro _ | apply State.ackPost_keep | apply State.setCtx_keep | apply KeepRan.ite | apply KeepRan.stall | apply KeepRan.fault | apply KeepRan.done | apply KeepRan.held | refine KeepRan.stall' (by assumption) ?_ | refine KeepRan.fault' (by assumption) ?_ | refine KeepRan.done' (by assumption) ?_ | refine KeepRan.held' (by assumption) ?_ | apply hk_run | apply Keep.foldl3 | apply Keep.foldl2 | apply Keep.foldl | (intro _ _ _) | (intro _ _)) | dsimp only | dsimp only [id] | simp only [Keep.mk_iff] | split | with_reducible refine Keep.of_eq2 (by assumption) ?_ | with_reducible refine Keep.of_eq3 (by assumption) ?_)

theorem State.reelEvent_keep {s0 : State} (s : State) (p code kind slot c seq tag pc detail : Nat) (hk : Keep s0 s) : Keep s0 (State.reelEvent s p code kind slot c seq tag pc detail) := by
  unfold State.reelEvent
  repeat' (first | with_reducible (first | assumption | exact Keep.refl _ | apply Keep.ite | apply Keep.ite2 | apply Keep.ite3 | intro _ | apply State.setEvents_keep | apply State.reelCount_keep | apply KeepRan.ite | apply KeepRan.stall | apply KeepRan.fault | apply KeepRan.done | apply KeepRan.held | refine KeepRan.stall' (by assumption) ?_ | refine KeepRan.fault' (by assumption) ?_ | refine KeepRan.done' (by assumption) ?_ | refine KeepRan.held' (by assumption) ?_ | apply hk_run | apply Keep.foldl3 | apply Keep.foldl2 | apply Keep.foldl | (intro _ _ _) | (intro _ _)) | dsimp only | dsimp only [id] | simp only [Keep.mk_iff] | split | with_reducible refine Keep.of_eq2 (by assumption) ?_ | with_reducible refine Keep.of_eq3 (by assumption) ?_)

theorem State.launchNotify_keep {s0 : State} (s : State) (l : Launch) (code : Nat) (hk : Keep s0 s) : Keep s0 (State.launchNotify s l code) := by
  unfold State.launchNotify
  repeat' (first | with_reducible (first | assumption | exact Keep.refl _ | apply Keep.ite | apply Keep.ite2 | apply Keep.ite3 | intro _ | apply State.notify_keep | apply KeepRan.ite | apply KeepRan.stall | apply KeepRan.fault | apply KeepRan.done | apply KeepRan.held | refine KeepRan.stall' (by assumption) ?_ | refine KeepRan.fault' (by assumption) ?_ | refine KeepRan.done' (by assumption) ?_ | refine KeepRan.held' (by assumption) ?_ | apply hk_run | apply Keep.foldl3 | apply Keep.foldl2 | apply Keep.foldl | (intro _ _ _) | (intro _ _)) | dsimp only | dsimp only [id] | simp only [Keep.mk_iff] | split | with_reducible refine Keep.of_eq2 (by assumption) ?_ | with_reducible refine Keep.of_eq3 (by assumption) ?_)

theorem State.endLaunch_keep {s0 : State} (s : State) (l : Launch) (outcome : Nat) (hk : Keep s0 s) : Keep s0 (State.endLaunch s l outcome) := by
  unfold State.endLaunch
  repeat' (first | with_reducible (first | assumption | exact Keep.refl _ | apply Keep.ite | apply Keep.ite2 | apply Keep.ite3 | intro _ | apply State.setWindow_keep | apply State.draw_keep | apply State.reelCount_keep | apply State.reelEvent_keep | apply State.launchNotify_keep | apply KeepRan.ite | apply KeepRan.stall | apply KeepRan.fault | apply KeepRan.done | apply KeepRan.held | refine KeepRan.stall' (by assumption) ?_ | refine KeepRan.fault' (by assumption) ?_ | refine KeepRan.done' (by assumption) ?_ | refine KeepRan.held' (by assumption) ?_ | apply hk_run | apply Keep.foldl3 | apply Keep.foldl2 | apply Keep.foldl | (intro _ _ _) | (intro _ _)) | dsimp only | dsimp only [id] | simp only [Keep.mk_iff] | split | with_reducible refine Keep.of_eq2 (by assumption) ?_ | with_reducible refine Keep.of_eq3 (by assumption) ?_)

theorem State.endIfDone_keep {s0 : State} (s : State) (id : Nat) (hk : Keep s0 s) : Keep s0 (State.endIfDone s id) := by
  unfold State.endIfDone
  repeat' (first | with_reducible (first | assumption | exact Keep.refl _ | apply Keep.ite | apply Keep.ite2 | apply Keep.ite3 | intro _ | apply State.endLaunch_keep | apply KeepRan.ite | apply KeepRan.stall | apply KeepRan.fault | apply KeepRan.done | apply KeepRan.held | refine KeepRan.stall' (by assumption) ?_ | refine KeepRan.fault' (by assumption) ?_ | refine KeepRan.done' (by assumption) ?_ | refine KeepRan.held' (by assumption) ?_ | apply hk_run | apply Keep.foldl3 | apply Keep.foldl2 | apply Keep.foldl | (intro _ _ _) | (intro _ _)) | dsimp only | dsimp only [id] | simp only [Keep.mk_iff] | split | with_reducible refine Keep.of_eq2 (by assumption) ?_ | with_reducible refine Keep.of_eq3 (by assumption) ?_)

theorem State.faultOne_keep {s0 : State} (s : State) (slot c code detail : Nat) (hk : Keep s0 s) : Keep s0 (State.faultOne s slot c code detail) := by
  unfold State.faultOne
  repeat' (first | with_reducible (first | assumption | exact Keep.refl _ | apply Keep.ite | apply Keep.ite2 | apply Keep.ite3 | intro _ | apply State.dropPrefetch_keep | apply State.ackTaken_keep | apply State.setCtx_keep | apply State.noteFault_keep | apply State.reelCount_keep | apply State.reelEvent_keep | apply State.setLaunch_keep | apply State.launchNotify_keep | apply KeepRan.ite | apply KeepRan.stall | apply KeepRan.fault | apply KeepRan.done | apply KeepRan.held | refine KeepRan.stall' (by assumption) ?_ | refine KeepRan.fault' (by assumption) ?_ | refine KeepRan.done' (by assumption) ?_ | refine KeepRan.held' (by assumption) ?_ | apply hk_run | apply Keep.foldl3 | apply Keep.foldl2 | apply Keep.foldl | (intro _ _ _) | (intro _ _)) | dsimp only | dsimp only [id] | simp only [Keep.mk_iff] | split | with_reducible refine Keep.of_eq2 (by assumption) ?_ | with_reducible refine Keep.of_eq3 (by assumption) ?_)

theorem State.breakBarriers_keep {s0 : State} (s : State) (id : Nat) (hk : Keep s0 s) : Keep s0 (State.breakBarriers s id) := by
  unfold State.breakBarriers
  repeat' (first | with_reducible (first | assumption | exact Keep.refl _ | apply Keep.ite | apply Keep.ite2 | apply Keep.ite3 | intro _ | apply State.setLaunch_keep | apply State.faultOne_keep | apply KeepRan.ite | apply KeepRan.stall | apply KeepRan.fault | apply KeepRan.done | apply KeepRan.held | refine KeepRan.stall' (by assumption) ?_ | refine KeepRan.fault' (by assumption) ?_ | refine KeepRan.done' (by assumption) ?_ | refine KeepRan.held' (by assumption) ?_ | apply hk_run | apply Keep.foldl3 | apply Keep.foldl2 | apply Keep.foldl | (intro _ _ _) | (intro _ _)) | dsimp only | dsimp only [id] | simp only [Keep.mk_iff] | split | with_reducible refine Keep.of_eq2 (by assumption) ?_ | with_reducible refine Keep.of_eq3 (by assumption) ?_)

theorem State.reelFault_keep {s0 : State} (s : State) (slot c code detail : Nat) (hk : Keep s0 s) : Keep s0 (State.reelFault s slot c code detail) := by
  unfold State.reelFault
  repeat' (first | with_reducible (first | assumption | exact Keep.refl _ | apply Keep.ite | apply Keep.ite2 | apply Keep.ite3 | intro _ | apply State.faultOne_keep | apply State.breakBarriers_keep | apply State.endIfDone_keep | apply KeepRan.ite | apply KeepRan.stall | apply KeepRan.fault | apply KeepRan.done | apply KeepRan.held | refine KeepRan.stall' (by assumption) ?_ | refine KeepRan.fault' (by assumption) ?_ | refine KeepRan.done' (by assumption) ?_ | refine KeepRan.held' (by assumption) ?_ | apply hk_run | apply Keep.foldl3 | apply Keep.foldl2 | apply Keep.foldl | (intro _ _ _) | (intro _ _)) | dsimp only | dsimp only [id] | simp only [Keep.mk_iff] | split | with_reducible refine Keep.of_eq2 (by assumption) ?_ | with_reducible refine Keep.of_eq3 (by assumption) ?_)

theorem State.go_keep {s0 : State} (s : State) (b t : Nat) (hk : Keep s0 s) : Keep s0 (State.go s b t).2 := by
  unfold State.go
  repeat' (first | with_reducible (first | assumption | exact Keep.refl _ | apply Keep.ite | apply Keep.ite2 | apply Keep.ite3 | intro _ | apply State.setWindow_keep | apply State.reelCount_keep | apply State.setCtx_keep | apply KeepRan.ite | apply KeepRan.stall | apply KeepRan.fault | apply KeepRan.done | apply KeepRan.held | refine KeepRan.stall' (by assumption) ?_ | refine KeepRan.fault' (by assumption) ?_ | refine KeepRan.done' (by assumption) ?_ | refine KeepRan.held' (by assumption) ?_ | apply hk_run | apply Keep.foldl3 | apply Keep.foldl2 | apply Keep.foldl | (intro _ _ _) | (intro _ _)) | dsimp only | dsimp only [id] | simp only [Keep.mk_iff] | split | with_reducible refine Keep.of_eq2 (by assumption) ?_ | with_reducible refine Keep.of_eq3 (by assumption) ?_)

theorem State.cancelLaunch_keep {s0 : State} (s : State) (l : Launch) (hk : Keep s0 s) : Keep s0 (State.cancelLaunch s l) := by
  unfold State.cancelLaunch
  repeat' (first | with_reducible (first | assumption | exact Keep.refl _ | apply Keep.ite | apply Keep.ite2 | apply Keep.ite3 | intro _ | apply State.setCtx_keep | apply State.endLaunch_keep | apply KeepRan.ite | apply KeepRan.stall | apply KeepRan.fault | apply KeepRan.done | apply KeepRan.held | refine KeepRan.stall' (by assumption) ?_ | refine KeepRan.fault' (by assumption) ?_ | refine KeepRan.done' (by assumption) ?_ | refine KeepRan.held' (by assumption) ?_ | apply hk_run | apply Keep.foldl3 | apply Keep.foldl2 | apply Keep.foldl | (intro _ _ _) | (intro _ _)) | dsimp only | dsimp only [id] | simp only [Keep.mk_iff] | split | with_reducible refine Keep.of_eq2 (by assumption) ?_ | with_reducible refine Keep.of_eq3 (by assumption) ?_)

theorem State.startLaunch_keep {s0 : State} (s : State) (l : Launch) (hk : Keep s0 s) : Keep s0 (State.startLaunch s l) := by
  unfold State.startLaunch
  repeat' (first | with_reducible (first | assumption | exact Keep.refl _ | apply Keep.ite | apply Keep.ite2 | apply Keep.ite3 | intro _ | apply State.setLaunch_keep | apply State.cancelLaunch_keep | apply State.setCtx_keep | apply KeepRan.ite | apply KeepRan.stall | apply KeepRan.fault | apply KeepRan.done | apply KeepRan.held | refine KeepRan.stall' (by assumption) ?_ | refine KeepRan.fault' (by assumption) ?_ | refine KeepRan.done' (by assumption) ?_ | refine KeepRan.held' (by assumption) ?_ | apply hk_run | apply Keep.foldl3 | apply Keep.foldl2 | apply Keep.foldl | (intro _ _ _) | (intro _ _)) | dsimp only | dsimp only [id] | simp only [Keep.mk_iff] | split | with_reducible refine Keep.of_eq2 (by assumption) ?_ | with_reducible refine Keep.of_eq3 (by assumption) ?_)

theorem State.saveCtx_keep {s0 : State} (s : State) (slot c : Nat) (full : Bool) (hk : Keep s0 s) : Keep s0 (State.saveCtx s slot c full) := by
  unfold State.saveCtx
  repeat' (first | with_reducible (first | assumption | exact Keep.refl _ | apply Keep.ite | apply Keep.ite2 | apply Keep.ite3 | intro _ | apply State.dropPrefetch_keep | apply State.setCtx_keep | apply State.reelCount_keep | apply KeepRan.ite | apply KeepRan.stall | apply KeepRan.fault | apply KeepRan.done | apply KeepRan.held | refine KeepRan.stall' (by assumption) ?_ | refine KeepRan.fault' (by assumption) ?_ | refine KeepRan.done' (by assumption) ?_ | refine KeepRan.held' (by assumption) ?_ | apply hk_run | apply Keep.foldl3 | apply Keep.foldl2 | apply Keep.foldl | (intro _ _ _) | (intro _ _)) | dsimp only | dsimp only [id] | simp only [Keep.mk_iff] | split | with_reducible refine Keep.of_eq2 (by assumption) ?_ | with_reducible refine Keep.of_eq3 (by assumption) ?_)

theorem State.restoreCtx_keep {s0 : State} (s : State) (slot c : Nat) (hk : Keep s0 s) : Keep s0 (State.restoreCtx s slot c) := by
  unfold State.restoreCtx
  repeat' (first | with_reducible (first | assumption | exact Keep.refl _ | apply Keep.ite | apply Keep.ite2 | apply Keep.ite3 | intro _ | apply State.setCtx_keep | apply KeepRan.ite | apply KeepRan.stall | apply KeepRan.fault | apply KeepRan.done | apply KeepRan.held | refine KeepRan.stall' (by assumption) ?_ | refine KeepRan.fault' (by assumption) ?_ | refine KeepRan.done' (by assumption) ?_ | refine KeepRan.held' (by assumption) ?_ | apply hk_run | apply Keep.foldl3 | apply Keep.foldl2 | apply Keep.foldl | (intro _ _ _) | (intro _ _)) | dsimp only | dsimp only [id] | simp only [Keep.mk_iff] | split | with_reducible refine Keep.of_eq2 (by assumption) ?_ | with_reducible refine Keep.of_eq3 (by assumption) ?_)

theorem State.dropCtx_keep {s0 : State} (s : State) (slot c mbx outcome : Nat) (hk : Keep s0 s) : Keep s0 (State.dropCtx s slot c mbx outcome) := by
  unfold State.dropCtx
  repeat' (first | with_reducible (first | assumption | exact Keep.refl _ | apply Keep.ite | apply Keep.ite2 | apply Keep.ite3 | intro _ | apply State.ackTaken_keep | apply State.emptyMailboxes_keep | apply State.setCtx_keep | apply State.setLaunch_keep | apply State.breakBarriers_keep | apply State.endIfDone_keep | apply KeepRan.ite | apply KeepRan.stall | apply KeepRan.fault | apply KeepRan.done | apply KeepRan.held | refine KeepRan.stall' (by assumption) ?_ | refine KeepRan.fault' (by assumption) ?_ | refine KeepRan.done' (by assumption) ?_ | refine KeepRan.held' (by assumption) ?_ | apply hk_run | apply Keep.foldl3 | apply Keep.foldl2 | apply Keep.foldl | (intro _ _ _) | (intro _ _)) | dsimp only | dsimp only [id] | simp only [Keep.mk_iff] | split | with_reducible refine Keep.of_eq2 (by assumption) ?_ | with_reducible refine Keep.of_eq3 (by assumption) ?_)

theorem State.codeGone_keep {s0 : State} (s : State) (p i : Nat) (hk : Keep s0 s) : Keep s0 (State.codeGone s p i) := by
  unfold State.codeGone
  repeat' (first | with_reducible (first | assumption | exact Keep.refl _ | apply Keep.ite | apply Keep.ite2 | apply Keep.ite3 | intro _ | apply State.cancelLaunch_keep | apply State.reelFault_keep | apply KeepRan.ite | apply KeepRan.stall | apply KeepRan.fault | apply KeepRan.done | apply KeepRan.held | refine KeepRan.stall' (by assumption) ?_ | refine KeepRan.fault' (by assumption) ?_ | refine KeepRan.done' (by assumption) ?_ | refine KeepRan.held' (by assumption) ?_ | apply hk_run | apply Keep.foldl3 | apply Keep.foldl2 | apply Keep.foldl | (intro _ _ _) | (intro _ _)) | dsimp only | dsimp only [id] | simp only [Keep.mk_iff] | split | with_reducible refine Keep.of_eq2 (by assumption) ?_ | with_reducible refine Keep.of_eq3 (by assumption) ?_)

theorem State.unsealCheck_keep {s0 : State} (s : State) (slot c : Nat) (hk : Keep s0 s) : Keep s0 (State.unsealCheck s slot c) := by
  unfold State.unsealCheck
  repeat' (first | with_reducible (first | assumption | exact Keep.refl _ | apply Keep.ite | apply Keep.ite2 | apply Keep.ite3 | intro _ | apply State.reelFault_keep | apply KeepRan.ite | apply KeepRan.stall | apply KeepRan.fault | apply KeepRan.done | apply KeepRan.held | refine KeepRan.stall' (by assumption) ?_ | refine KeepRan.fault' (by assumption) ?_ | refine KeepRan.done' (by assumption) ?_ | refine KeepRan.held' (by assumption) ?_ | apply hk_run | apply Keep.foldl3 | apply Keep.foldl2 | apply Keep.foldl | (intro _ _ _) | (intro _ _)) | dsimp only | dsimp only [id] | simp only [Keep.mk_iff] | split | with_reducible refine Keep.of_eq2 (by assumption) ?_ | with_reducible refine Keep.of_eq3 (by assumption) ?_)

theorem State.fetchWord_keep {s0 : State} (s : State) (p slot c : Nat) (hk : Keep s0 s) : Keep s0 (State.fetchWord s p slot c).2 := by
  unfold State.fetchWord
  repeat' (first | with_reducible (first | assumption | exact Keep.refl _ | apply Keep.ite | apply Keep.ite2 | apply Keep.ite3 | intro _ | apply State.agentCheck_keep | apply State.readFinal_keep | apply KeepRan.ite | apply KeepRan.stall | apply KeepRan.fault | apply KeepRan.done | apply KeepRan.held | refine KeepRan.stall' (by assumption) ?_ | refine KeepRan.fault' (by assumption) ?_ | refine KeepRan.done' (by assumption) ?_ | refine KeepRan.held' (by assumption) ?_ | apply hk_run | apply Keep.foldl3 | apply Keep.foldl2 | apply Keep.foldl | (intro _ _ _) | (intro _ _)) | dsimp only | dsimp only [id] | simp only [Keep.mk_iff] | split | with_reducible refine Keep.of_eq2 (by assumption) ?_ | with_reducible refine Keep.of_eq3 (by assumption) ?_)

theorem State.chargeCycles_keep {s0 : State} (s : State) (p slot c n : Nat) (hk : Keep s0 s) : Keep s0 (State.chargeCycles s p slot c n) := by
  unfold State.chargeCycles
  repeat' (first | with_reducible (first | assumption | exact Keep.refl _ | apply Keep.ite | apply Keep.ite2 | apply Keep.ite3 | intro _ | apply State.setCtx_keep | apply State.meterAdd_keep | apply State.spend_keep | apply State.reelCount_keep | apply KeepRan.ite | apply KeepRan.stall | apply KeepRan.fault | apply KeepRan.done | apply KeepRan.held | refine KeepRan.stall' (by assumption) ?_ | refine KeepRan.fault' (by assumption) ?_ | refine KeepRan.done' (by assumption) ?_ | refine KeepRan.held' (by assumption) ?_ | apply hk_run | apply Keep.foldl3 | apply Keep.foldl2 | apply Keep.foldl | (intro _ _ _) | (intro _ _)) | dsimp only | dsimp only [id] | simp only [Keep.mk_iff] | split | with_reducible refine Keep.of_eq2 (by assumption) ?_ | with_reducible refine Keep.of_eq3 (by assumption) ?_)

theorem State.spendCtx_keep {s0 : State} (s : State) (slot c u n : Nat) (hk : Keep s0 s) : Keep s0 (State.spendCtx s slot c u n) := by
  unfold State.spendCtx
  repeat' (first | with_reducible (first | assumption | exact Keep.refl _ | apply Keep.ite | apply Keep.ite2 | apply Keep.ite3 | intro _ | apply State.spend_keep | apply KeepRan.ite | apply KeepRan.stall | apply KeepRan.fault | apply KeepRan.done | apply KeepRan.held | refine KeepRan.stall' (by assumption) ?_ | refine KeepRan.fault' (by assumption) ?_ | refine KeepRan.done' (by assumption) ?_ | refine KeepRan.held' (by assumption) ?_ | apply hk_run | apply Keep.foldl3 | apply Keep.foldl2 | apply Keep.foldl | (intro _ _ _) | (intro _ _)) | dsimp only | dsimp only [id] | simp only [Keep.mk_iff] | split | with_reducible refine Keep.of_eq2 (by assumption) ?_ | with_reducible refine Keep.of_eq3 (by assumption) ?_)

theorem State.issueInstr_keep {s0 : State} (s : State) (slot c stall t : Nat) (want : Nat × Nat) (run : State → Ctx → Nat → Ran) (hk : Keep s0 s) (hk_run : ∀ u k w, Keep s0 u → KeepRan s0 (run u k w)) : Keep s0 (State.issueInstr s slot c stall t want run) := by
  unfold State.issueInstr
  repeat' (first | with_reducible (first | assumption | exact Keep.refl _ | apply Keep.ite | apply Keep.ite2 | apply Keep.ite3 | intro _ | apply State.at_keep | apply State.reelFault_keep | apply State.fetchWord_keep | apply State.chargeCycles_keep | apply State.noteHeld_keep | apply State.meterAdd_keep | apply State.setCtx_keep | apply KeepRan.ite | apply KeepRan.stall | apply KeepRan.fault | apply KeepRan.done | apply KeepRan.held | refine KeepRan.stall' (by assumption) ?_ | refine KeepRan.fault' (by assumption) ?_ | refine KeepRan.done' (by assumption) ?_ | refine KeepRan.held' (by assumption) ?_ | apply hk_run | apply Keep.foldl3 | apply Keep.foldl2 | apply Keep.foldl | (intro _ _ _) | (intro _ _)) | dsimp only | dsimp only [id] | simp only [Keep.mk_iff] | split | with_reducible refine Keep.of_eq2 (by assumption) ?_ | with_reducible refine Keep.of_eq3 (by assumption) ?_)

theorem State.issueReg_keep {s0 : State} (s : State) (slot c stall t : Nat) (want : Nat × Nat) (f : Ctx → Nat → Ctx) (hk : Keep s0 s) : Keep s0 (State.issueReg s slot c stall t want f) := by
  unfold State.issueReg
  repeat' (first | with_reducible (first | assumption | exact Keep.refl _ | apply Keep.ite | apply Keep.ite2 | apply Keep.ite3 | intro _ | apply State.issueInstr_keep | apply State.setCtx_keep | apply KeepRan.ite | apply KeepRan.stall | apply KeepRan.fault | apply KeepRan.done | apply KeepRan.held | refine KeepRan.stall' (by assumption) ?_ | refine KeepRan.fault' (by assumption) ?_ | refine KeepRan.done' (by assumption) ?_ | refine KeepRan.held' (by assumption) ?_ | apply hk_run | apply Keep.foldl3 | apply Keep.foldl2 | apply Keep.foldl | (intro _ _ _) | (intro _ _)) | dsimp only | dsimp only [id] | simp only [Keep.mk_iff] | split | with_reducible refine Keep.of_eq2 (by assumption) ?_ | with_reducible refine Keep.of_eq3 (by assumption) ?_)

theorem execIllegalInstruction_keep (slot ctx stall t : Nat) (s : State) : ∃ q, execIllegalInstruction slot ctx stall t s = .next q ∧ Keep s q := by
  unfold execIllegalInstruction
  refine ⟨_, rfl, ?_⟩
  have hk := Keep.refl s
  repeat' (first | with_reducible (first | assumption | exact Keep.refl _ | apply Keep.ite | apply Keep.ite2 | apply Keep.ite3 | intro _ | apply State.at_keep | apply State.reelFault_keep | apply State.fetchWord_keep | apply State.chargeCycles_keep | apply KeepRan.ite | apply KeepRan.stall | apply KeepRan.fault | apply KeepRan.done | apply KeepRan.held | refine KeepRan.stall' (by assumption) ?_ | refine KeepRan.fault' (by assumption) ?_ | refine KeepRan.done' (by assumption) ?_ | refine KeepRan.held' (by assumption) ?_ | apply hk_run | apply Keep.foldl3 | apply Keep.foldl2 | apply Keep.foldl | (intro _ _ _) | (intro _ _)) | dsimp only | dsimp only [id] | simp only [Keep.mk_iff] | split | with_reducible refine Keep.of_eq2 (by assumption) ?_ | with_reducible refine Keep.of_eq3 (by assumption) ?_)

theorem execCycleBudgetExhausted_keep (slot ctx t : Nat) (s : State) : ∃ q, execCycleBudgetExhausted slot ctx t s = .next q ∧ Keep s q := by
  unfold execCycleBudgetExhausted
  refine ⟨_, rfl, ?_⟩
  have hk := Keep.refl s
  repeat' (first | with_reducible (first | assumption | exact Keep.refl _ | apply Keep.ite | apply Keep.ite2 | apply Keep.ite3 | intro _ | apply State.at_keep | apply State.setCtx_keep | apply KeepRan.ite | apply KeepRan.stall | apply KeepRan.fault | apply KeepRan.done | apply KeepRan.held | refine KeepRan.stall' (by assumption) ?_ | refine KeepRan.fault' (by assumption) ?_ | refine KeepRan.done' (by assumption) ?_ | refine KeepRan.held' (by assumption) ?_ | apply hk_run | apply Keep.foldl3 | apply Keep.foldl2 | apply Keep.foldl | (intro _ _ _) | (intro _ _)) | dsimp only | dsimp only [id] | simp only [Keep.mk_iff] | split | with_reducible refine Keep.of_eq2 (by assumption) ?_ | with_reducible refine Keep.of_eq3 (by assumption) ?_)

theorem execBarrierArrival_keep (slot ctx : Nat) (s : State) : ∃ q, execBarrierArrival slot ctx s = .next q ∧ Keep s q := by
  unfold execBarrierArrival
  refine ⟨_, rfl, ?_⟩
  have hk := Keep.refl s
  repeat' (first | with_reducible (first | assumption | exact Keep.refl _ | apply Keep.ite | apply Keep.ite2 | apply Keep.ite3 | intro _ | apply State.setLaunch_keep | apply KeepRan.ite | apply KeepRan.stall | apply KeepRan.fault | apply KeepRan.done | apply KeepRan.held | refine KeepRan.stall' (by assumption) ?_ | refine KeepRan.fault' (by assumption) ?_ | refine KeepRan.done' (by assumption) ?_ | refine KeepRan.held' (by assumption) ?_ | apply hk_run | apply Keep.foldl3 | apply Keep.foldl2 | apply Keep.foldl | (intro _ _ _) | (intro _ _)) | dsimp only | dsimp only [id] | simp only [Keep.mk_iff] | split | with_reducible refine Keep.of_eq2 (by assumption) ?_ | with_reducible refine Keep.of_eq3 (by assumption) ?_)

theorem execBarrierRelease_keep (slot ctx : Nat) (s : State) : ∃ q, execBarrierRelease slot ctx s = .next q ∧ Keep s q := by
  unfold execBarrierRelease
  refine ⟨_, rfl, ?_⟩
  have hk := Keep.refl s
  repeat' (first | with_reducible (first | assumption | exact Keep.refl _ | apply Keep.ite | apply Keep.ite2 | apply Keep.ite3 | intro _ | apply State.setLaunch_keep | apply State.dropPrefetch_keep | apply State.setCtx_keep | apply KeepRan.ite | apply KeepRan.stall | apply KeepRan.fault | apply KeepRan.done | apply KeepRan.held | refine KeepRan.stall' (by assumption) ?_ | refine KeepRan.fault' (by assumption) ?_ | refine KeepRan.done' (by assumption) ?_ | refine KeepRan.held' (by assumption) ?_ | apply hk_run | apply Keep.foldl3 | apply Keep.foldl2 | apply Keep.foldl | (intro _ _ _) | (intro _ _)) | dsimp only | dsimp only [id] | simp only [Keep.mk_iff] | split | with_reducible refine Keep.of_eq2 (by assumption) ?_ | with_reducible refine Keep.of_eq3 (by assumption) ?_)

theorem execPostedStoreRefusal_keep (slot ctx : Nat) (s : State) : ∃ q, execPostedStoreRefusal slot ctx s = .next q ∧ Keep s q := by
  unfold execPostedStoreRefusal
  refine ⟨_, rfl, ?_⟩
  have hk := Keep.refl s
  repeat' (first | with_reducible (first | assumption | exact Keep.refl _ | apply Keep.ite | apply Keep.ite2 | apply Keep.ite3 | intro _ | apply State.setCtx_keep | apply KeepRan.ite | apply KeepRan.stall | apply KeepRan.fault | apply KeepRan.done | apply KeepRan.held | refine KeepRan.stall' (by assumption) ?_ | refine KeepRan.fault' (by assumption) ?_ | refine KeepRan.done' (by assumption) ?_ | refine KeepRan.held' (by assumption) ?_ | apply hk_run | apply Keep.foldl3 | apply Keep.foldl2 | apply Keep.foldl | (intro _ _ _) | (intro _ _)) | dsimp only | dsimp only [id] | simp only [Keep.mk_iff] | split | with_reducible refine Keep.of_eq2 (by assumption) ?_ | with_reducible refine Keep.of_eq3 (by assumption) ?_)

theorem State.contextClear_keep {s0 : State} (s : State) (p slot c : Nat) (hk : Keep s0 s) : Keep s0 (State.contextClear s p slot c).2 := by
  unfold State.contextClear
  repeat' (first | with_reducible (first | assumption | exact Keep.refl _ | apply Keep.ite | apply Keep.ite2 | apply Keep.ite3 | intro _ | apply State.emptyMailboxes_keep | apply State.setCtx_keep | apply KeepRan.ite | apply KeepRan.stall | apply KeepRan.fault | apply KeepRan.done | apply KeepRan.held | refine KeepRan.stall' (by assumption) ?_ | refine KeepRan.fault' (by assumption) ?_ | refine KeepRan.done' (by assumption) ?_ | refine KeepRan.held' (by assumption) ?_ | apply hk_run | apply Keep.foldl3 | apply Keep.foldl2 | apply Keep.foldl | (intro _ _ _) | (intro _ _)) | dsimp only | dsimp only [id] | simp only [Keep.mk_iff] | split | with_reducible refine Keep.of_eq2 (by assumption) ?_ | with_reducible refine Keep.of_eq3 (by assumption) ?_)

end Sys2Proof.Machine
end

