-- ==== Sys2Proof/Laws/KeepStreams.lean ====
section
/-!
SUPPORT. The operations and meanings of Machine/Streams.lean keep the queue, the fuses and the form of memory.
-/

namespace Sys2Proof.Machine

theorem State.streamLine_keep {s0 : State} (s : State) (p va : Nat) (hk : Keep s0 s) : Keep s0 (State.streamLine s p va).2 := by
  unfold State.streamLine
  repeat' (first | with_reducible (first | assumption | exact Keep.refl _ | apply Keep.ite | apply Keep.ite2 | apply Keep.ite3 | intro _ | apply State.agentCheck_keep | apply State.readFinal_keep | apply KeepRan.ite | apply KeepRan.stall | apply KeepRan.fault | apply KeepRan.done | apply KeepRan.held | refine KeepRan.stall' (by assumption) ?_ | refine KeepRan.fault' (by assumption) ?_ | refine KeepRan.done' (by assumption) ?_ | refine KeepRan.held' (by assumption) ?_ | apply hk_run | apply Keep.foldl3 | apply Keep.foldl2 | apply Keep.foldl | (intro _ _ _) | (intro _ _)) | dsimp only | dsimp only [id] | simp only [Keep.mk_iff] | split | with_reducible refine Keep.of_eq2 (by assumption) ?_ | with_reducible refine Keep.of_eq3 (by assumption) ?_)

theorem State.logPoison_keep {s0 : State} (s : State) (p va : Nat) (hk : Keep s0 s) : Keep s0 (State.logPoison s p va) := by
  unfold State.logPoison
  repeat' (first | with_reducible (first | assumption | exact Keep.refl _ | apply Keep.ite | apply Keep.ite2 | apply Keep.ite3 | intro _ | apply State.errEvent_keep | apply KeepRan.ite | apply KeepRan.stall | apply KeepRan.fault | apply KeepRan.done | apply KeepRan.held | refine KeepRan.stall' (by assumption) ?_ | refine KeepRan.fault' (by assumption) ?_ | refine KeepRan.done' (by assumption) ?_ | refine KeepRan.held' (by assumption) ?_ | apply hk_run | apply Keep.foldl3 | apply Keep.foldl2 | apply Keep.foldl | (intro _ _ _) | (intro _ _)) | dsimp only | dsimp only [id] | simp only [Keep.mk_iff] | split | with_reducible refine Keep.of_eq2 (by assumption) ?_ | with_reducible refine Keep.of_eq3 (by assumption) ?_)

theorem State.fetchElem_keep {s0 : State} (s : State) (p j i : Nat) (m : Strm) (hk : Keep s0 s) : Keep s0 (State.fetchElem s p j i m).2 := by
  unfold State.fetchElem
  repeat' (first | with_reducible (first | assumption | exact Keep.refl _ | apply Keep.ite | apply Keep.ite2 | apply Keep.ite3 | intro _ | apply State.logPoison_keep | apply State.streamLine_keep | apply KeepRan.ite | apply KeepRan.stall | apply KeepRan.fault | apply KeepRan.done | apply KeepRan.held | refine KeepRan.stall' (by assumption) ?_ | refine KeepRan.fault' (by assumption) ?_ | refine KeepRan.done' (by assumption) ?_ | refine KeepRan.held' (by assumption) ?_ | apply hk_run | apply Keep.foldl3 | apply Keep.foldl2 | apply Keep.foldl | (intro _ _ _) | (intro _ _)) | dsimp only | dsimp only [id] | simp only [Keep.mk_iff] | split | with_reducible refine Keep.of_eq2 (by assumption) ?_ | with_reducible refine Keep.of_eq3 (by assumption) ?_)

theorem State.fetchElems_keep {s0 : State} (s : State) (p slot : Nat) (m : Strm) (j n : Nat) (hk : Keep s0 s) : Keep s0 (State.fetchElems s p slot m j n).2 := by
  unfold State.fetchElems
  repeat' (first | with_reducible (first | assumption | exact Keep.refl _ | apply Keep.ite | apply Keep.ite2 | apply Keep.ite3 | intro _ | apply State.fetchElem_keep | apply KeepRan.ite | apply KeepRan.stall | apply KeepRan.fault | apply KeepRan.done | apply KeepRan.held | refine KeepRan.stall' (by assumption) ?_ | refine KeepRan.fault' (by assumption) ?_ | refine KeepRan.done' (by assumption) ?_ | refine KeepRan.held' (by assumption) ?_ | apply hk_run | apply Keep.foldl3 | apply Keep.foldl2 | apply Keep.foldl | (intro _ _ _) | (intro _ _)) | dsimp only | dsimp only [id] | simp only [Keep.mk_iff] | split | with_reducible refine Keep.of_eq2 (by assumption) ?_ | with_reducible refine Keep.of_eq3 (by assumption) ?_)

theorem State.prefetch_keep {s0 : State} (s : State) (p slot : Nat) (m : Strm) (hk : Keep s0 s) : Keep s0 (State.prefetch s p slot m).2 := by
  unfold State.prefetch
  repeat' (first | with_reducible (first | assumption | exact Keep.refl _ | apply Keep.ite | apply Keep.ite2 | apply Keep.ite3 | intro _ | apply State.draw_keep | apply State.streamLine_keep | apply State.updStack_keep | apply KeepRan.ite | apply KeepRan.stall | apply KeepRan.fault | apply KeepRan.done | apply KeepRan.held | refine KeepRan.stall' (by assumption) ?_ | refine KeepRan.fault' (by assumption) ?_ | refine KeepRan.done' (by assumption) ?_ | refine KeepRan.held' (by assumption) ?_ | apply hk_run | apply Keep.foldl3 | apply Keep.foldl2 | apply Keep.foldl | (intro _ _ _) | (intro _ _)) | dsimp only | dsimp only [id] | simp only [Keep.mk_iff] | split | with_reducible refine Keep.of_eq2 (by assumption) ?_ | with_reducible refine Keep.of_eq3 (by assumption) ?_)

theorem State.consumed_keep {s0 : State} (s : State) (p slot c i : Nat) (m : Strm) (n : Nat) (hk : Keep s0 s) : Keep s0 (State.consumed s p slot c i m n) := by
  unfold State.consumed
  repeat' (first | with_reducible (first | assumption | exact Keep.refl _ | apply Keep.ite | apply Keep.ite2 | apply Keep.ite3 | intro _ | apply State.prefetch_keep | apply State.advance_keep | apply State.setCtx_keep | apply State.engineCount_keep | apply KeepRan.ite | apply KeepRan.stall | apply KeepRan.fault | apply KeepRan.done | apply KeepRan.held | refine KeepRan.stall' (by assumption) ?_ | refine KeepRan.fault' (by assumption) ?_ | refine KeepRan.done' (by assumption) ?_ | refine KeepRan.held' (by assumption) ?_ | apply hk_run | apply Keep.foldl3 | apply Keep.foldl2 | apply Keep.foldl | (intro _ _ _) | (intro _ _)) | dsimp only | dsimp only [id] | simp only [Keep.mk_iff] | split | with_reducible refine Keep.of_eq2 (by assumption) ?_ | with_reducible refine Keep.of_eq3 (by assumption) ?_)

theorem execSopen_keep (slot ctx stall t : Nat) (s : State) : ∃ q, execSopen slot ctx stall t s = .next q ∧ Keep s q := by
  unfold execSopen
  refine ⟨_, rfl, ?_⟩
  have hk := Keep.refl s
  repeat' (first | with_reducible (first | assumption | exact Keep.refl _ | apply Keep.ite | apply Keep.ite2 | apply Keep.ite3 | intro _ | apply State.issueInstr_keep | apply State.engineCount_keep | apply State.prefetch_keep | apply State.setCtx_keep | apply KeepRan.ite | apply KeepRan.stall | apply KeepRan.fault | apply KeepRan.done | apply KeepRan.held | refine KeepRan.stall' (by assumption) ?_ | refine KeepRan.fault' (by assumption) ?_ | refine KeepRan.done' (by assumption) ?_ | refine KeepRan.held' (by assumption) ?_ | apply hk_run | apply Keep.foldl3 | apply Keep.foldl2 | apply Keep.foldl | (intro _ _ _) | (intro _ _)) | dsimp only | dsimp only [id] | simp only [Keep.mk_iff] | split | with_reducible refine Keep.of_eq2 (by assumption) ?_ | with_reducible refine Keep.of_eq3 (by assumption) ?_)

theorem execSclose_keep (slot ctx stall t : Nat) (s : State) : ∃ q, execSclose slot ctx stall t s = .next q ∧ Keep s q := by
  unfold execSclose
  refine ⟨_, rfl, ?_⟩
  have hk := Keep.refl s
  repeat' (first | with_reducible (first | assumption | exact Keep.refl _ | apply Keep.ite | apply Keep.ite2 | apply Keep.ite3 | intro _ | apply State.issueInstr_keep | apply State.engineCount_keep | apply State.setCtx_keep | apply KeepRan.ite | apply KeepRan.stall | apply KeepRan.fault | apply KeepRan.done | apply KeepRan.held | refine KeepRan.stall' (by assumption) ?_ | refine KeepRan.fault' (by assumption) ?_ | refine KeepRan.done' (by assumption) ?_ | refine KeepRan.held' (by assumption) ?_ | apply hk_run | apply Keep.foldl3 | apply Keep.foldl2 | apply Keep.foldl | (intro _ _ _) | (intro _ _)) | dsimp only | dsimp only [id] | simp only [Keep.mk_iff] | split | with_reducible refine Keep.of_eq2 (by assumption) ?_ | with_reducible refine Keep.of_eq3 (by assumption) ?_)

theorem execSpos_keep (slot ctx stall t : Nat) (s : State) : ∃ q, execSpos slot ctx stall t s = .next q ∧ Keep s q := by
  unfold execSpos
  refine ⟨_, rfl, ?_⟩
  have hk := Keep.refl s
  repeat' (first | with_reducible (first | assumption | exact Keep.refl _ | apply Keep.ite | apply Keep.ite2 | apply Keep.ite3 | intro _ | apply State.issueReg_keep | apply State.consumed_keep | apply KeepRan.ite | apply KeepRan.stall | apply KeepRan.fault | apply KeepRan.done | apply KeepRan.held | refine KeepRan.stall' (by assumption) ?_ | refine KeepRan.fault' (by assumption) ?_ | refine KeepRan.done' (by assumption) ?_ | refine KeepRan.held' (by assumption) ?_ | apply hk_run | apply Keep.foldl3 | apply Keep.foldl2 | apply Keep.foldl | (intro _ _ _) | (intro _ _)) | dsimp only | dsimp only [id] | simp only [Keep.mk_iff] | split | with_reducible refine Keep.of_eq2 (by assumption) ?_ | with_reducible refine Keep.of_eq3 (by assumption) ?_)

theorem execSrd_keep (slot ctx stall t : Nat) (s : State) : ∃ q, execSrd slot ctx stall t s = .next q ∧ Keep s q := by
  unfold execSrd
  refine ⟨_, rfl, ?_⟩
  have hk := Keep.refl s
  repeat' (first | with_reducible (first | assumption | exact Keep.refl _ | apply Keep.ite | apply Keep.ite2 | apply Keep.ite3 | intro _ | apply State.issueInstr_keep | apply State.consumed_keep | apply State.fetchElems_keep | apply State.setCtx_keep | apply KeepRan.ite | apply KeepRan.stall | apply KeepRan.fault | apply KeepRan.done | apply KeepRan.held | refine KeepRan.stall' (by assumption) ?_ | refine KeepRan.fault' (by assumption) ?_ | refine KeepRan.done' (by assumption) ?_ | refine KeepRan.held' (by assumption) ?_ | apply hk_run | apply Keep.foldl3 | apply Keep.foldl2 | apply Keep.foldl | (intro _ _ _) | (intro _ _)) | dsimp only | dsimp only [id] | simp only [Keep.mk_iff] | split | with_reducible refine Keep.of_eq2 (by assumption) ?_ | with_reducible refine Keep.of_eq3 (by assumption) ?_)

theorem execSrdx_keep (slot ctx stall t : Nat) (s : State) : ∃ q, execSrdx slot ctx stall t s = .next q ∧ Keep s q := by
  unfold execSrdx
  refine ⟨_, rfl, ?_⟩
  have hk := Keep.refl s
  repeat' (first | with_reducible (first | assumption | exact Keep.refl _ | apply Keep.ite | apply Keep.ite2 | apply Keep.ite3 | intro _ | apply State.issueInstr_keep | apply State.consumed_keep | apply State.fetchElems_keep | apply State.setCtx_keep | apply State.engineCount_keep | apply KeepRan.ite | apply KeepRan.stall | apply KeepRan.fault | apply KeepRan.done | apply KeepRan.held | refine KeepRan.stall' (by assumption) ?_ | refine KeepRan.fault' (by assumption) ?_ | refine KeepRan.done' (by assumption) ?_ | refine KeepRan.held' (by assumption) ?_ | apply hk_run | apply Keep.foldl3 | apply Keep.foldl2 | apply Keep.foldl | (intro _ _ _) | (intro _ _)) | dsimp only | dsimp only [id] | simp only [Keep.mk_iff] | split | with_reducible refine Keep.of_eq2 (by assumption) ?_ | with_reducible refine Keep.of_eq3 (by assumption) ?_)

theorem State.putStore_keep {s0 : State} (s : State) (p slot off : Nat) (d : List Byte) (hk : Keep s0 s) : Keep s0 (State.putStore s p slot off d) := by
  unfold State.putStore
  repeat' (first | with_reducible (first | assumption | exact Keep.refl _ | apply Keep.ite | apply Keep.ite2 | apply Keep.ite3 | intro _ | apply KeepRan.ite | apply KeepRan.stall | apply KeepRan.fault | apply KeepRan.done | apply KeepRan.held | refine KeepRan.stall' (by assumption) ?_ | refine KeepRan.fault' (by assumption) ?_ | refine KeepRan.done' (by assumption) ?_ | refine KeepRan.held' (by assumption) ?_ | apply hk_run | apply Keep.foldl3 | apply Keep.foldl2 | apply Keep.foldl | (intro _ _ _) | (intro _ _)) | dsimp only | dsimp only [id] | simp only [Keep.mk_iff] | split | with_reducible refine Keep.of_eq2 (by assumption) ?_ | with_reducible refine Keep.of_eq3 (by assumption) ?_)

theorem State.storeInstr_keep {s0 : State} (s : State) (slot c stall t op n dbl : Nat) (f : State → Nat → Nat → Ctx → Nat → State) (hk : Keep s0 s) (hk_f : ∀ u x0 x1 x2 x3, Keep s0 u → Keep s0 (f u x0 x1 x2 x3)) : Keep s0 (State.storeInstr s slot c stall t op n dbl f) := by
  unfold State.storeInstr
  repeat' (first | with_reducible (first | assumption | exact Keep.refl _ | apply Keep.ite | apply Keep.ite2 | apply Keep.ite3 | intro _ | apply hk_f | apply State.issueInstr_keep | apply State.draw_keep | apply State.spend_keep | apply KeepRan.ite | apply KeepRan.stall | apply KeepRan.fault | apply KeepRan.done | apply KeepRan.held | refine KeepRan.stall' (by assumption) ?_ | refine KeepRan.fault' (by assumption) ?_ | refine KeepRan.done' (by assumption) ?_ | refine KeepRan.held' (by assumption) ?_ | apply hk_run | apply Keep.foldl3 | apply Keep.foldl2 | apply Keep.foldl | (intro _ _ _) | (intro _ _)) | dsimp only | dsimp only [id] | simp only [Keep.mk_iff] | split | with_reducible refine Keep.of_eq2 (by assumption) ?_ | with_reducible refine Keep.of_eq3 (by assumption) ?_)

theorem execTldg_keep (slot ctx stall dbl t : Nat) (s : State) : ∃ q, execTldg slot ctx stall dbl t s = .next q ∧ Keep s q := by
  unfold execTldg
  refine ⟨_, rfl, ?_⟩
  have hk := Keep.refl s
  repeat' (first | with_reducible (first | assumption | exact Keep.refl _ | apply Keep.ite | apply Keep.ite2 | apply Keep.ite3 | intro _ | apply State.storeInstr_keep | apply State.setCtx_keep | apply KeepRan.ite | apply KeepRan.stall | apply KeepRan.fault | apply KeepRan.done | apply KeepRan.held | refine KeepRan.stall' (by assumption) ?_ | refine KeepRan.fault' (by assumption) ?_ | refine KeepRan.done' (by assumption) ?_ | refine KeepRan.held' (by assumption) ?_ | apply hk_run | apply Keep.foldl3 | apply Keep.foldl2 | apply Keep.foldl | (intro _ _ _) | (intro _ _)) | dsimp only | dsimp only [id] | simp only [Keep.mk_iff] | split | with_reducible refine Keep.of_eq2 (by assumption) ?_ | with_reducible refine Keep.of_eq3 (by assumption) ?_)

theorem execTstg_keep (slot ctx stall t : Nat) (s : State) : ∃ q, execTstg slot ctx stall t s = .next q ∧ Keep s q := by
  unfold execTstg
  refine ⟨_, rfl, ?_⟩
  have hk := Keep.refl s
  repeat' (first | with_reducible (first | assumption | exact Keep.refl _ | apply Keep.ite | apply Keep.ite2 | apply Keep.ite3 | intro _ | apply State.storeInstr_keep | apply State.putStore_keep | apply KeepRan.ite | apply KeepRan.stall | apply KeepRan.fault | apply KeepRan.done | apply KeepRan.held | refine KeepRan.stall' (by assumption) ?_ | refine KeepRan.fault' (by assumption) ?_ | refine KeepRan.done' (by assumption) ?_ | refine KeepRan.held' (by assumption) ?_ | apply hk_run | apply Keep.foldl3 | apply Keep.foldl2 | apply Keep.foldl | (intro _ _ _) | (intro _ _)) | dsimp only | dsimp only [id] | simp only [Keep.mk_iff] | split | with_reducible refine Keep.of_eq2 (by assumption) ?_ | with_reducible refine Keep.of_eq3 (by assumption) ?_)

theorem execTldv_keep (slot ctx stall dbl t : Nat) (s : State) : ∃ q, execTldv slot ctx stall dbl t s = .next q ∧ Keep s q := by
  unfold execTldv
  refine ⟨_, rfl, ?_⟩
  have hk := Keep.refl s
  repeat' (first | with_reducible (first | assumption | exact Keep.refl _ | apply Keep.ite | apply Keep.ite2 | apply Keep.ite3 | intro _ | apply State.storeInstr_keep | apply State.setCtx_keep | apply KeepRan.ite | apply KeepRan.stall | apply KeepRan.fault | apply KeepRan.done | apply KeepRan.held | refine KeepRan.stall' (by assumption) ?_ | refine KeepRan.fault' (by assumption) ?_ | refine KeepRan.done' (by assumption) ?_ | refine KeepRan.held' (by assumption) ?_ | apply hk_run | apply Keep.foldl3 | apply Keep.foldl2 | apply Keep.foldl | (intro _ _ _) | (intro _ _)) | dsimp only | dsimp only [id] | simp only [Keep.mk_iff] | split | with_reducible refine Keep.of_eq2 (by assumption) ?_ | with_reducible refine Keep.of_eq3 (by assumption) ?_)

theorem execTstv_keep (slot ctx stall t : Nat) (s : State) : ∃ q, execTstv slot ctx stall t s = .next q ∧ Keep s q := by
  unfold execTstv
  refine ⟨_, rfl, ?_⟩
  have hk := Keep.refl s
  repeat' (first | with_reducible (first | assumption | exact Keep.refl _ | apply Keep.ite | apply Keep.ite2 | apply Keep.ite3 | intro _ | apply State.storeInstr_keep | apply State.putStore_keep | apply KeepRan.ite | apply KeepRan.stall | apply KeepRan.fault | apply KeepRan.done | apply KeepRan.held | refine KeepRan.stall' (by assumption) ?_ | refine KeepRan.fault' (by assumption) ?_ | refine KeepRan.done' (by assumption) ?_ | refine KeepRan.held' (by assumption) ?_ | apply hk_run | apply Keep.foldl3 | apply Keep.foldl2 | apply Keep.foldl | (intro _ _ _) | (intro _ _)) | dsimp only | dsimp only [id] | simp only [Keep.mk_iff] | split | with_reducible refine Keep.of_eq2 (by assumption) ?_ | with_reducible refine Keep.of_eq3 (by assumption) ?_)

theorem execTldq_keep (slot ctx stall dbl t : Nat) (s : State) : ∃ q, execTldq slot ctx stall dbl t s = .next q ∧ Keep s q := by
  unfold execTldq
  refine ⟨_, rfl, ?_⟩
  have hk := Keep.refl s
  repeat' (first | with_reducible (first | assumption | exact Keep.refl _ | apply Keep.ite | apply Keep.ite2 | apply Keep.ite3 | intro _ | apply State.storeInstr_keep | apply State.setCtx_keep | apply KeepRan.ite | apply KeepRan.stall | apply KeepRan.fault | apply KeepRan.done | apply KeepRan.held | refine KeepRan.stall' (by assumption) ?_ | refine KeepRan.fault' (by assumption) ?_ | refine KeepRan.done' (by assumption) ?_ | refine KeepRan.held' (by assumption) ?_ | apply hk_run | apply Keep.foldl3 | apply Keep.foldl2 | apply Keep.foldl | (intro _ _ _) | (intro _ _)) | dsimp only | dsimp only [id] | simp only [Keep.mk_iff] | split | with_reducible refine Keep.of_eq2 (by assumption) ?_ | with_reducible refine Keep.of_eq3 (by assumption) ?_)

theorem execTstq_keep (slot ctx stall t : Nat) (s : State) : ∃ q, execTstq slot ctx stall t s = .next q ∧ Keep s q := by
  unfold execTstq
  refine ⟨_, rfl, ?_⟩
  have hk := Keep.refl s
  repeat' (first | with_reducible (first | assumption | exact Keep.refl _ | apply Keep.ite | apply Keep.ite2 | apply Keep.ite3 | intro _ | apply State.storeInstr_keep | apply State.putStore_keep | apply KeepRan.ite | apply KeepRan.stall | apply KeepRan.fault | apply KeepRan.done | apply KeepRan.held | refine KeepRan.stall' (by assumption) ?_ | refine KeepRan.fault' (by assumption) ?_ | refine KeepRan.done' (by assumption) ?_ | refine KeepRan.held' (by assumption) ?_ | apply hk_run | apply Keep.foldl3 | apply Keep.foldl2 | apply Keep.foldl | (intro _ _ _) | (intro _ _)) | dsimp only | dsimp only [id] | simp only [Keep.mk_iff] | split | with_reducible refine Keep.of_eq2 (by assumption) ?_ | with_reducible refine Keep.of_eq3 (by assumption) ?_)

theorem execTldm_keep (slot ctx stall dbl t : Nat) (s : State) : ∃ q, execTldm slot ctx stall dbl t s = .next q ∧ Keep s q := by
  unfold execTldm
  refine ⟨_, rfl, ?_⟩
  have hk := Keep.refl s
  repeat' (first | with_reducible (first | assumption | exact Keep.refl _ | apply Keep.ite | apply Keep.ite2 | apply Keep.ite3 | intro _ | apply State.storeInstr_keep | apply State.setCtx_keep | apply KeepRan.ite | apply KeepRan.stall | apply KeepRan.fault | apply KeepRan.done | apply KeepRan.held | refine KeepRan.stall' (by assumption) ?_ | refine KeepRan.fault' (by assumption) ?_ | refine KeepRan.done' (by assumption) ?_ | refine KeepRan.held' (by assumption) ?_ | apply hk_run | apply Keep.foldl3 | apply Keep.foldl2 | apply Keep.foldl | (intro _ _ _) | (intro _ _)) | dsimp only | dsimp only [id] | simp only [Keep.mk_iff] | split | with_reducible refine Keep.of_eq2 (by assumption) ?_ | with_reducible refine Keep.of_eq3 (by assumption) ?_)

theorem execTstm_keep (slot ctx stall t : Nat) (s : State) : ∃ q, execTstm slot ctx stall t s = .next q ∧ Keep s q := by
  unfold execTstm
  refine ⟨_, rfl, ?_⟩
  have hk := Keep.refl s
  repeat' (first | with_reducible (first | assumption | exact Keep.refl _ | apply Keep.ite | apply Keep.ite2 | apply Keep.ite3 | intro _ | apply State.storeInstr_keep | apply State.putStore_keep | apply KeepRan.ite | apply KeepRan.stall | apply KeepRan.fault | apply KeepRan.done | apply KeepRan.held | refine KeepRan.stall' (by assumption) ?_ | refine KeepRan.fault' (by assumption) ?_ | refine KeepRan.done' (by assumption) ?_ | refine KeepRan.held' (by assumption) ?_ | apply hk_run | apply Keep.foldl3 | apply Keep.foldl2 | apply Keep.foldl | (intro _ _ _) | (intro _ _)) | dsimp only | dsimp only [id] | simp only [Keep.mk_iff] | split | with_reducible refine Keep.of_eq2 (by assumption) ?_ | with_reducible refine Keep.of_eq3 (by assumption) ?_)

theorem execPldg_keep (slot ctx stall t : Nat) (s : State) : ∃ q, execPldg slot ctx stall t s = .next q ∧ Keep s q := by
  unfold execPldg
  refine ⟨_, rfl, ?_⟩
  have hk := Keep.refl s
  repeat' (first | with_reducible (first | assumption | exact Keep.refl _ | apply Keep.ite | apply Keep.ite2 | apply Keep.ite3 | intro _ | apply State.issueInstr_keep | apply State.streamLine_keep | apply State.draw_keep | apply State.setCtx_keep | apply KeepRan.ite | apply KeepRan.stall | apply KeepRan.fault | apply KeepRan.done | apply KeepRan.held | refine KeepRan.stall' (by assumption) ?_ | refine KeepRan.fault' (by assumption) ?_ | refine KeepRan.done' (by assumption) ?_ | refine KeepRan.held' (by assumption) ?_ | apply hk_run | apply Keep.foldl3 | apply Keep.foldl2 | apply Keep.foldl | (intro _ _ _) | (intro _ _)) | dsimp only | dsimp only [id] | simp only [Keep.mk_iff] | split | with_reducible refine Keep.of_eq2 (by assumption) ?_ | with_reducible refine Keep.of_eq3 (by assumption) ?_)

theorem State.ownStore_keep {s0 : State} (s : State) (slot c va len : Nat) (hk : Keep s0 s) : Keep s0 (State.ownStore s slot c va len) := by
  unfold State.ownStore
  repeat' (first | with_reducible (first | assumption | exact Keep.refl _ | apply Keep.ite | apply Keep.ite2 | apply Keep.ite3 | intro _ | apply State.engineCount_keep | apply State.setCtx_keep | apply KeepRan.ite | apply KeepRan.stall | apply KeepRan.fault | apply KeepRan.done | apply KeepRan.held | refine KeepRan.stall' (by assumption) ?_ | refine KeepRan.fault' (by assumption) ?_ | refine KeepRan.done' (by assumption) ?_ | refine KeepRan.held' (by assumption) ?_ | apply hk_run | apply Keep.foldl3 | apply Keep.foldl2 | apply Keep.foldl | (intro _ _ _) | (intro _ _)) | dsimp only | dsimp only [id] | simp only [Keep.mk_iff] | split | with_reducible refine Keep.of_eq2 (by assumption) ?_ | with_reducible refine Keep.of_eq3 (by assumption) ?_)

theorem State.reelStore_keep {s0 : State} (s : State) (slot c p va : Nat) (d : List Byte) (pc : Int) (hk : Keep s0 s) : KeepRan s0 (State.reelStore s slot c p va d pc) := by
  unfold State.reelStore
  repeat' (first | with_reducible (first | assumption | exact Keep.refl _ | apply Keep.ite | apply Keep.ite2 | apply Keep.ite3 | intro _ | apply State.agentCheck_keep | apply State.agentWrite_keep | apply State.meterAdd_keep | apply State.setCtx_keep | apply State.ownStore_keep | apply KeepRan.ite | apply KeepRan.stall | apply KeepRan.fault | apply KeepRan.done | apply KeepRan.held | refine KeepRan.stall' (by assumption) ?_ | refine KeepRan.fault' (by assumption) ?_ | refine KeepRan.done' (by assumption) ?_ | refine KeepRan.held' (by assumption) ?_ | apply hk_run | apply Keep.foldl3 | apply Keep.foldl2 | apply Keep.foldl | (intro _ _ _) | (intro _ _)) | dsimp only | dsimp only [id] | simp only [Keep.mk_iff] | split | with_reducible refine Keep.of_eq2 (by assumption) ?_ | with_reducible refine Keep.of_eq3 (by assumption) ?_)

theorem execPstg_keep (slot ctx stall t : Nat) (s : State) : ∃ q, execPstg slot ctx stall t s = .next q ∧ Keep s q := by
  unfold execPstg
  refine ⟨_, rfl, ?_⟩
  have hk := Keep.refl s
  repeat' (first | with_reducible (first | assumption | exact Keep.refl _ | apply Keep.ite | apply Keep.ite2 | apply Keep.ite3 | intro _ | apply State.issueInstr_keep | apply State.reelStore_keep | apply KeepRan.ite | apply KeepRan.stall | apply KeepRan.fault | apply KeepRan.done | apply KeepRan.held | refine KeepRan.stall' (by assumption) ?_ | refine KeepRan.fault' (by assumption) ?_ | refine KeepRan.done' (by assumption) ?_ | refine KeepRan.held' (by assumption) ?_ | apply hk_run | apply Keep.foldl3 | apply Keep.foldl2 | apply Keep.foldl | (intro _ _ _) | (intro _ _)) | dsimp only | dsimp only [id] | simp only [Keep.mk_iff] | split | with_reducible refine Keep.of_eq2 (by assumption) ?_ | with_reducible refine Keep.of_eq3 (by assumption) ?_)

theorem execPstv_keep (slot ctx stall t : Nat) (s : State) : ∃ q, execPstv slot ctx stall t s = .next q ∧ Keep s q := by
  unfold execPstv
  refine ⟨_, rfl, ?_⟩
  have hk := Keep.refl s
  repeat' (first | with_reducible (first | assumption | exact Keep.refl _ | apply Keep.ite | apply Keep.ite2 | apply Keep.ite3 | intro _ | apply State.issueInstr_keep | apply State.reelStore_keep | apply KeepRan.ite | apply KeepRan.stall | apply KeepRan.fault | apply KeepRan.done | apply KeepRan.held | refine KeepRan.stall' (by assumption) ?_ | refine KeepRan.fault' (by assumption) ?_ | refine KeepRan.done' (by assumption) ?_ | refine KeepRan.held' (by assumption) ?_ | apply hk_run | apply Keep.foldl3 | apply Keep.foldl2 | apply Keep.foldl | (intro _ _ _) | (intro _ _)) | dsimp only | dsimp only [id] | simp only [Keep.mk_iff] | split | with_reducible refine Keep.of_eq2 (by assumption) ?_ | with_reducible refine Keep.of_eq3 (by assumption) ?_)

end Sys2Proof.Machine
end

