-- ==== Sys2Proof/Laws/KeepReelVector.lean ====
section
/-!
SUPPORT. The operations and meanings of Machine/ReelVector.lean keep the queue, the fuses and the form of memory.
-/

namespace Sys2Proof.Machine

theorem State.tally_keep {s0 : State} (s : State) (slot c w : Nat) (l : List Flags) (conv : Bool) (hk : Keep s0 s) : Keep s0 (State.tally s slot c w l conv) := by
  unfold State.tally
  repeat' (first | with_reducible (first | assumption | exact Keep.refl _ | apply Keep.ite | apply Keep.ite2 | apply Keep.ite3 | intro _ | apply State.setCtx_keep | apply State.engineCount_keep | apply KeepRan.ite | apply KeepRan.stall | apply KeepRan.fault | apply KeepRan.done | apply KeepRan.held | refine KeepRan.stall' (by assumption) ?_ | refine KeepRan.fault' (by assumption) ?_ | refine KeepRan.done' (by assumption) ?_ | refine KeepRan.held' (by assumption) ?_ | apply hk_run | apply Keep.foldl3 | apply Keep.foldl2 | apply Keep.foldl | (intro _ _ _) | (intro _ _)) | dsimp only | dsimp only [id] | simp only [Keep.mk_iff] | split | with_reducible refine Keep.of_eq2 (by assumption) ?_ | with_reducible refine Keep.of_eq3 (by assumption) ?_)

theorem State.vector_keep {s0 : State} (s : State) (slot c stall t op : Nat) (g : Ctx → Nat → Nat → Nat × Flags) (hk : Keep s0 s) : Keep s0 (State.vector s slot c stall t op g) := by
  unfold State.vector
  repeat' (first | with_reducible (first | assumption | exact Keep.refl _ | apply Keep.ite | apply Keep.ite2 | apply Keep.ite3 | intro _ | apply State.issueInstr_keep | apply State.setCtx_keep | apply State.tally_keep | apply KeepRan.ite | apply KeepRan.stall | apply KeepRan.fault | apply KeepRan.done | apply KeepRan.held | refine KeepRan.stall' (by assumption) ?_ | refine KeepRan.fault' (by assumption) ?_ | refine KeepRan.done' (by assumption) ?_ | refine KeepRan.held' (by assumption) ?_ | apply hk_run | apply Keep.foldl3 | apply Keep.foldl2 | apply Keep.foldl | (intro _ _ _) | (intro _ _)) | dsimp only | dsimp only [id] | simp only [Keep.mk_iff] | split | with_reducible refine Keep.of_eq2 (by assumption) ?_ | with_reducible refine Keep.of_eq3 (by assumption) ?_)

theorem execVadd_keep (slot ctx stall t : Nat) (s : State) : ∃ q, execVadd slot ctx stall t s = .next q ∧ Keep s q := by
  unfold execVadd
  refine ⟨_, rfl, ?_⟩
  have hk := Keep.refl s
  repeat' (first | with_reducible (first | assumption | exact Keep.refl _ | apply Keep.ite | apply Keep.ite2 | apply Keep.ite3 | intro _ | apply State.vector_keep | apply KeepRan.ite | apply KeepRan.stall | apply KeepRan.fault | apply KeepRan.done | apply KeepRan.held | refine KeepRan.stall' (by assumption) ?_ | refine KeepRan.fault' (by assumption) ?_ | refine KeepRan.done' (by assumption) ?_ | refine KeepRan.held' (by assumption) ?_ | apply hk_run | apply Keep.foldl3 | apply Keep.foldl2 | apply Keep.foldl | (intro _ _ _) | (intro _ _)) | dsimp only | dsimp only [id] | simp only [Keep.mk_iff] | split | with_reducible refine Keep.of_eq2 (by assumption) ?_ | with_reducible refine Keep.of_eq3 (by assumption) ?_)

theorem execVsub_keep (slot ctx stall t : Nat) (s : State) : ∃ q, execVsub slot ctx stall t s = .next q ∧ Keep s q := by
  unfold execVsub
  refine ⟨_, rfl, ?_⟩
  have hk := Keep.refl s
  repeat' (first | with_reducible (first | assumption | exact Keep.refl _ | apply Keep.ite | apply Keep.ite2 | apply Keep.ite3 | intro _ | apply State.vector_keep | apply KeepRan.ite | apply KeepRan.stall | apply KeepRan.fault | apply KeepRan.done | apply KeepRan.held | refine KeepRan.stall' (by assumption) ?_ | refine KeepRan.fault' (by assumption) ?_ | refine KeepRan.done' (by assumption) ?_ | refine KeepRan.held' (by assumption) ?_ | apply hk_run | apply Keep.foldl3 | apply Keep.foldl2 | apply Keep.foldl | (intro _ _ _) | (intro _ _)) | dsimp only | dsimp only [id] | simp only [Keep.mk_iff] | split | with_reducible refine Keep.of_eq2 (by assumption) ?_ | with_reducible refine Keep.of_eq3 (by assumption) ?_)

theorem execVmul_keep (slot ctx stall t : Nat) (s : State) : ∃ q, execVmul slot ctx stall t s = .next q ∧ Keep s q := by
  unfold execVmul
  refine ⟨_, rfl, ?_⟩
  have hk := Keep.refl s
  repeat' (first | with_reducible (first | assumption | exact Keep.refl _ | apply Keep.ite | apply Keep.ite2 | apply Keep.ite3 | intro _ | apply State.vector_keep | apply KeepRan.ite | apply KeepRan.stall | apply KeepRan.fault | apply KeepRan.done | apply KeepRan.held | refine KeepRan.stall' (by assumption) ?_ | refine KeepRan.fault' (by assumption) ?_ | refine KeepRan.done' (by assumption) ?_ | refine KeepRan.held' (by assumption) ?_ | apply hk_run | apply Keep.foldl3 | apply Keep.foldl2 | apply Keep.foldl | (intro _ _ _) | (intro _ _)) | dsimp only | dsimp only [id] | simp only [Keep.mk_iff] | split | with_reducible refine Keep.of_eq2 (by assumption) ?_ | with_reducible refine Keep.of_eq3 (by assumption) ?_)

theorem execVfma_keep (slot ctx stall t : Nat) (s : State) : ∃ q, execVfma slot ctx stall t s = .next q ∧ Keep s q := by
  unfold execVfma
  refine ⟨_, rfl, ?_⟩
  have hk := Keep.refl s
  repeat' (first | with_reducible (first | assumption | exact Keep.refl _ | apply Keep.ite | apply Keep.ite2 | apply Keep.ite3 | intro _ | apply State.vector_keep | apply KeepRan.ite | apply KeepRan.stall | apply KeepRan.fault | apply KeepRan.done | apply KeepRan.held | refine KeepRan.stall' (by assumption) ?_ | refine KeepRan.fault' (by assumption) ?_ | refine KeepRan.done' (by assumption) ?_ | refine KeepRan.held' (by assumption) ?_ | apply hk_run | apply Keep.foldl3 | apply Keep.foldl2 | apply Keep.foldl | (intro _ _ _) | (intro _ _)) | dsimp only | dsimp only [id] | simp only [Keep.mk_iff] | split | with_reducible refine Keep.of_eq2 (by assumption) ?_ | with_reducible refine Keep.of_eq3 (by assumption) ?_)

theorem execVmin_keep (slot ctx stall t : Nat) (s : State) : ∃ q, execVmin slot ctx stall t s = .next q ∧ Keep s q := by
  unfold execVmin
  refine ⟨_, rfl, ?_⟩
  have hk := Keep.refl s
  repeat' (first | with_reducible (first | assumption | exact Keep.refl _ | apply Keep.ite | apply Keep.ite2 | apply Keep.ite3 | intro _ | apply State.vector_keep | apply KeepRan.ite | apply KeepRan.stall | apply KeepRan.fault | apply KeepRan.done | apply KeepRan.held | refine KeepRan.stall' (by assumption) ?_ | refine KeepRan.fault' (by assumption) ?_ | refine KeepRan.done' (by assumption) ?_ | refine KeepRan.held' (by assumption) ?_ | apply hk_run | apply Keep.foldl3 | apply Keep.foldl2 | apply Keep.foldl | (intro _ _ _) | (intro _ _)) | dsimp only | dsimp only [id] | simp only [Keep.mk_iff] | split | with_reducible refine Keep.of_eq2 (by assumption) ?_ | with_reducible refine Keep.of_eq3 (by assumption) ?_)

theorem execVmax_keep (slot ctx stall t : Nat) (s : State) : ∃ q, execVmax slot ctx stall t s = .next q ∧ Keep s q := by
  unfold execVmax
  refine ⟨_, rfl, ?_⟩
  have hk := Keep.refl s
  repeat' (first | with_reducible (first | assumption | exact Keep.refl _ | apply Keep.ite | apply Keep.ite2 | apply Keep.ite3 | intro _ | apply State.vector_keep | apply KeepRan.ite | apply KeepRan.stall | apply KeepRan.fault | apply KeepRan.done | apply KeepRan.held | refine KeepRan.stall' (by assumption) ?_ | refine KeepRan.fault' (by assumption) ?_ | refine KeepRan.done' (by assumption) ?_ | refine KeepRan.held' (by assumption) ?_ | apply hk_run | apply Keep.foldl3 | apply Keep.foldl2 | apply Keep.foldl | (intro _ _ _) | (intro _ _)) | dsimp only | dsimp only [id] | simp only [Keep.mk_iff] | split | with_reducible refine Keep.of_eq2 (by assumption) ?_ | with_reducible refine Keep.of_eq3 (by assumption) ?_)

theorem execVand_keep (slot ctx stall t : Nat) (s : State) : ∃ q, execVand slot ctx stall t s = .next q ∧ Keep s q := by
  unfold execVand
  refine ⟨_, rfl, ?_⟩
  have hk := Keep.refl s
  repeat' (first | with_reducible (first | assumption | exact Keep.refl _ | apply Keep.ite | apply Keep.ite2 | apply Keep.ite3 | intro _ | apply State.vector_keep | apply KeepRan.ite | apply KeepRan.stall | apply KeepRan.fault | apply KeepRan.done | apply KeepRan.held | refine KeepRan.stall' (by assumption) ?_ | refine KeepRan.fault' (by assumption) ?_ | refine KeepRan.done' (by assumption) ?_ | refine KeepRan.held' (by assumption) ?_ | apply hk_run | apply Keep.foldl3 | apply Keep.foldl2 | apply Keep.foldl | (intro _ _ _) | (intro _ _)) | dsimp only | dsimp only [id] | simp only [Keep.mk_iff] | split | with_reducible refine Keep.of_eq2 (by assumption) ?_ | with_reducible refine Keep.of_eq3 (by assumption) ?_)

theorem execVor_keep (slot ctx stall t : Nat) (s : State) : ∃ q, execVor slot ctx stall t s = .next q ∧ Keep s q := by
  unfold execVor
  refine ⟨_, rfl, ?_⟩
  have hk := Keep.refl s
  repeat' (first | with_reducible (first | assumption | exact Keep.refl _ | apply Keep.ite | apply Keep.ite2 | apply Keep.ite3 | intro _ | apply State.vector_keep | apply KeepRan.ite | apply KeepRan.stall | apply KeepRan.fault | apply KeepRan.done | apply KeepRan.held | refine KeepRan.stall' (by assumption) ?_ | refine KeepRan.fault' (by assumption) ?_ | refine KeepRan.done' (by assumption) ?_ | refine KeepRan.held' (by assumption) ?_ | apply hk_run | apply Keep.foldl3 | apply Keep.foldl2 | apply Keep.foldl | (intro _ _ _) | (intro _ _)) | dsimp only | dsimp only [id] | simp only [Keep.mk_iff] | split | with_reducible refine Keep.of_eq2 (by assumption) ?_ | with_reducible refine Keep.of_eq3 (by assumption) ?_)

theorem execVxor_keep (slot ctx stall t : Nat) (s : State) : ∃ q, execVxor slot ctx stall t s = .next q ∧ Keep s q := by
  unfold execVxor
  refine ⟨_, rfl, ?_⟩
  have hk := Keep.refl s
  repeat' (first | with_reducible (first | assumption | exact Keep.refl _ | apply Keep.ite | apply Keep.ite2 | apply Keep.ite3 | intro _ | apply State.vector_keep | apply KeepRan.ite | apply KeepRan.stall | apply KeepRan.fault | apply KeepRan.done | apply KeepRan.held | refine KeepRan.stall' (by assumption) ?_ | refine KeepRan.fault' (by assumption) ?_ | refine KeepRan.done' (by assumption) ?_ | refine KeepRan.held' (by assumption) ?_ | apply hk_run | apply Keep.foldl3 | apply Keep.foldl2 | apply Keep.foldl | (intro _ _ _) | (intro _ _)) | dsimp only | dsimp only [id] | simp only [Keep.mk_iff] | split | with_reducible refine Keep.of_eq2 (by assumption) ?_ | with_reducible refine Keep.of_eq3 (by assumption) ?_)

theorem State.vcmp_keep {s0 : State} (s : State) (slot c stall t sel : Nat) (hk : Keep s0 s) : Keep s0 (State.vcmp s slot c stall t sel) := by
  unfold State.vcmp
  repeat' (first | with_reducible (first | assumption | exact Keep.refl _ | apply Keep.ite | apply Keep.ite2 | apply Keep.ite3 | intro _ | apply State.issueReg_keep | apply KeepRan.ite | apply KeepRan.stall | apply KeepRan.fault | apply KeepRan.done | apply KeepRan.held | refine KeepRan.stall' (by assumption) ?_ | refine KeepRan.fault' (by assumption) ?_ | refine KeepRan.done' (by assumption) ?_ | refine KeepRan.held' (by assumption) ?_ | apply hk_run | apply Keep.foldl3 | apply Keep.foldl2 | apply Keep.foldl | (intro _ _ _) | (intro _ _)) | dsimp only | dsimp only [id] | simp only [Keep.mk_iff] | split | with_reducible refine Keep.of_eq2 (by assumption) ?_ | with_reducible refine Keep.of_eq3 (by assumption) ?_)

theorem execVcmpEq_keep (slot ctx stall t : Nat) (s : State) : ∃ q, execVcmpEq slot ctx stall t s = .next q ∧ Keep s q := by
  unfold execVcmpEq
  refine ⟨_, rfl, ?_⟩
  have hk := Keep.refl s
  repeat' (first | with_reducible (first | assumption | exact Keep.refl _ | apply Keep.ite | apply Keep.ite2 | apply Keep.ite3 | intro _ | apply State.vcmp_keep | apply KeepRan.ite | apply KeepRan.stall | apply KeepRan.fault | apply KeepRan.done | apply KeepRan.held | refine KeepRan.stall' (by assumption) ?_ | refine KeepRan.fault' (by assumption) ?_ | refine KeepRan.done' (by assumption) ?_ | refine KeepRan.held' (by assumption) ?_ | apply hk_run | apply Keep.foldl3 | apply Keep.foldl2 | apply Keep.foldl | (intro _ _ _) | (intro _ _)) | dsimp only | dsimp only [id] | simp only [Keep.mk_iff] | split | with_reducible refine Keep.of_eq2 (by assumption) ?_ | with_reducible refine Keep.of_eq3 (by assumption) ?_)

theorem execVcmpNe_keep (slot ctx stall t : Nat) (s : State) : ∃ q, execVcmpNe slot ctx stall t s = .next q ∧ Keep s q := by
  unfold execVcmpNe
  refine ⟨_, rfl, ?_⟩
  have hk := Keep.refl s
  repeat' (first | with_reducible (first | assumption | exact Keep.refl _ | apply Keep.ite | apply Keep.ite2 | apply Keep.ite3 | intro _ | apply State.vcmp_keep | apply KeepRan.ite | apply KeepRan.stall | apply KeepRan.fault | apply KeepRan.done | apply KeepRan.held | refine KeepRan.stall' (by assumption) ?_ | refine KeepRan.fault' (by assumption) ?_ | refine KeepRan.done' (by assumption) ?_ | refine KeepRan.held' (by assumption) ?_ | apply hk_run | apply Keep.foldl3 | apply Keep.foldl2 | apply Keep.foldl | (intro _ _ _) | (intro _ _)) | dsimp only | dsimp only [id] | simp only [Keep.mk_iff] | split | with_reducible refine Keep.of_eq2 (by assumption) ?_ | with_reducible refine Keep.of_eq3 (by assumption) ?_)

theorem execVcmpLt_keep (slot ctx stall t : Nat) (s : State) : ∃ q, execVcmpLt slot ctx stall t s = .next q ∧ Keep s q := by
  unfold execVcmpLt
  refine ⟨_, rfl, ?_⟩
  have hk := Keep.refl s
  repeat' (first | with_reducible (first | assumption | exact Keep.refl _ | apply Keep.ite | apply Keep.ite2 | apply Keep.ite3 | intro _ | apply State.vcmp_keep | apply KeepRan.ite | apply KeepRan.stall | apply KeepRan.fault | apply KeepRan.done | apply KeepRan.held | refine KeepRan.stall' (by assumption) ?_ | refine KeepRan.fault' (by assumption) ?_ | refine KeepRan.done' (by assumption) ?_ | refine KeepRan.held' (by assumption) ?_ | apply hk_run | apply Keep.foldl3 | apply Keep.foldl2 | apply Keep.foldl | (intro _ _ _) | (intro _ _)) | dsimp only | dsimp only [id] | simp only [Keep.mk_iff] | split | with_reducible refine Keep.of_eq2 (by assumption) ?_ | with_reducible refine Keep.of_eq3 (by assumption) ?_)

theorem execVcmpLe_keep (slot ctx stall t : Nat) (s : State) : ∃ q, execVcmpLe slot ctx stall t s = .next q ∧ Keep s q := by
  unfold execVcmpLe
  refine ⟨_, rfl, ?_⟩
  have hk := Keep.refl s
  repeat' (first | with_reducible (first | assumption | exact Keep.refl _ | apply Keep.ite | apply Keep.ite2 | apply Keep.ite3 | intro _ | apply State.vcmp_keep | apply KeepRan.ite | apply KeepRan.stall | apply KeepRan.fault | apply KeepRan.done | apply KeepRan.held | refine KeepRan.stall' (by assumption) ?_ | refine KeepRan.fault' (by assumption) ?_ | refine KeepRan.done' (by assumption) ?_ | refine KeepRan.held' (by assumption) ?_ | apply hk_run | apply Keep.foldl3 | apply Keep.foldl2 | apply Keep.foldl | (intro _ _ _) | (intro _ _)) | dsimp only | dsimp only [id] | simp only [Keep.mk_iff] | split | with_reducible refine Keep.of_eq2 (by assumption) ?_ | with_reducible refine Keep.of_eq3 (by assumption) ?_)

theorem execVsel_keep (slot ctx stall t : Nat) (s : State) : ∃ q, execVsel slot ctx stall t s = .next q ∧ Keep s q := by
  unfold execVsel
  refine ⟨_, rfl, ?_⟩
  have hk := Keep.refl s
  repeat' (first | with_reducible (first | assumption | exact Keep.refl _ | apply Keep.ite | apply Keep.ite2 | apply Keep.ite3 | intro _ | apply State.issueReg_keep | apply KeepRan.ite | apply KeepRan.stall | apply KeepRan.fault | apply KeepRan.done | apply KeepRan.held | refine KeepRan.stall' (by assumption) ?_ | refine KeepRan.fault' (by assumption) ?_ | refine KeepRan.done' (by assumption) ?_ | refine KeepRan.held' (by assumption) ?_ | apply hk_run | apply Keep.foldl3 | apply Keep.foldl2 | apply Keep.foldl | (intro _ _ _) | (intro _ _)) | dsimp only | dsimp only [id] | simp only [Keep.mk_iff] | split | with_reducible refine Keep.of_eq2 (by assumption) ?_ | with_reducible refine Keep.of_eq3 (by assumption) ?_)

theorem execVbcast_keep (slot ctx stall t : Nat) (s : State) : ∃ q, execVbcast slot ctx stall t s = .next q ∧ Keep s q := by
  unfold execVbcast
  refine ⟨_, rfl, ?_⟩
  have hk := Keep.refl s
  repeat' (first | with_reducible (first | assumption | exact Keep.refl _ | apply Keep.ite | apply Keep.ite2 | apply Keep.ite3 | intro _ | apply State.vector_keep | apply KeepRan.ite | apply KeepRan.stall | apply KeepRan.fault | apply KeepRan.done | apply KeepRan.held | refine KeepRan.stall' (by assumption) ?_ | refine KeepRan.fault' (by assumption) ?_ | refine KeepRan.done' (by assumption) ?_ | refine KeepRan.held' (by assumption) ?_ | apply hk_run | apply Keep.foldl3 | apply Keep.foldl2 | apply Keep.foldl | (intro _ _ _) | (intro _ _)) | dsimp only | dsimp only [id] | simp only [Keep.mk_iff] | split | with_reducible refine Keep.of_eq2 (by assumption) ?_ | with_reducible refine Keep.of_eq3 (by assumption) ?_)

theorem execVmov_keep (slot ctx stall t : Nat) (s : State) : ∃ q, execVmov slot ctx stall t s = .next q ∧ Keep s q := by
  unfold execVmov
  refine ⟨_, rfl, ?_⟩
  have hk := Keep.refl s
  repeat' (first | with_reducible (first | assumption | exact Keep.refl _ | apply Keep.ite | apply Keep.ite2 | apply Keep.ite3 | intro _ | apply State.vector_keep | apply KeepRan.ite | apply KeepRan.stall | apply KeepRan.fault | apply KeepRan.done | apply KeepRan.held | refine KeepRan.stall' (by assumption) ?_ | refine KeepRan.fault' (by assumption) ?_ | refine KeepRan.done' (by assumption) ?_ | refine KeepRan.held' (by assumption) ?_ | apply hk_run | apply Keep.foldl3 | apply Keep.foldl2 | apply Keep.foldl | (intro _ _ _) | (intro _ _)) | dsimp only | dsimp only [id] | simp only [Keep.mk_iff] | split | with_reducible refine Keep.of_eq2 (by assumption) ?_ | with_reducible refine Keep.of_eq3 (by assumption) ?_)

theorem execQrd_keep (slot ctx stall t : Nat) (s : State) : ∃ q, execQrd slot ctx stall t s = .next q ∧ Keep s q := by
  unfold execQrd
  refine ⟨_, rfl, ?_⟩
  have hk := Keep.refl s
  repeat' (first | with_reducible (first | assumption | exact Keep.refl _ | apply Keep.ite | apply Keep.ite2 | apply Keep.ite3 | intro _ | apply State.issueReg_keep | apply KeepRan.ite | apply KeepRan.stall | apply KeepRan.fault | apply KeepRan.done | apply KeepRan.held | refine KeepRan.stall' (by assumption) ?_ | refine KeepRan.fault' (by assumption) ?_ | refine KeepRan.done' (by assumption) ?_ | refine KeepRan.held' (by assumption) ?_ | apply hk_run | apply Keep.foldl3 | apply Keep.foldl2 | apply Keep.foldl | (intro _ _ _) | (intro _ _)) | dsimp only | dsimp only [id] | simp only [Keep.mk_iff] | split | with_reducible refine Keep.of_eq2 (by assumption) ?_ | with_reducible refine Keep.of_eq3 (by assumption) ?_)

theorem execQwr_keep (slot ctx stall t : Nat) (s : State) : ∃ q, execQwr slot ctx stall t s = .next q ∧ Keep s q := by
  unfold execQwr
  refine ⟨_, rfl, ?_⟩
  have hk := Keep.refl s
  repeat' (first | with_reducible (first | assumption | exact Keep.refl _ | apply Keep.ite | apply Keep.ite2 | apply Keep.ite3 | intro _ | apply State.issueReg_keep | apply KeepRan.ite | apply KeepRan.stall | apply KeepRan.fault | apply KeepRan.done | apply KeepRan.held | refine KeepRan.stall' (by assumption) ?_ | refine KeepRan.fault' (by assumption) ?_ | refine KeepRan.done' (by assumption) ?_ | refine KeepRan.held' (by assumption) ?_ | apply hk_run | apply Keep.foldl3 | apply Keep.foldl2 | apply Keep.foldl | (intro _ _ _) | (intro _ _)) | dsimp only | dsimp only [id] | simp only [Keep.mk_iff] | split | with_reducible refine Keep.of_eq2 (by assumption) ?_ | with_reducible refine Keep.of_eq3 (by assumption) ?_)

theorem execQzero_keep (slot ctx stall t : Nat) (s : State) : ∃ q, execQzero slot ctx stall t s = .next q ∧ Keep s q := by
  unfold execQzero
  refine ⟨_, rfl, ?_⟩
  have hk := Keep.refl s
  repeat' (first | with_reducible (first | assumption | exact Keep.refl _ | apply Keep.ite | apply Keep.ite2 | apply Keep.ite3 | intro _ | apply State.issueReg_keep | apply KeepRan.ite | apply KeepRan.stall | apply KeepRan.fault | apply KeepRan.done | apply KeepRan.held | refine KeepRan.stall' (by assumption) ?_ | refine KeepRan.fault' (by assumption) ?_ | refine KeepRan.done' (by assumption) ?_ | refine KeepRan.held' (by assumption) ?_ | apply hk_run | apply Keep.foldl3 | apply Keep.foldl2 | apply Keep.foldl | (intro _ _ _) | (intro _ _)) | dsimp only | dsimp only [id] | simp only [Keep.mk_iff] | split | with_reducible refine Keep.of_eq2 (by assumption) ?_ | with_reducible refine Keep.of_eq3 (by assumption) ?_)

theorem State.sfn_keep {s0 : State} (s : State) (slot c stall t sel : Nat) (hk : Keep s0 s) : Keep s0 (State.sfn s slot c stall t sel) := by
  unfold State.sfn
  repeat' (first | with_reducible (first | assumption | exact Keep.refl _ | apply Keep.ite | apply Keep.ite2 | apply Keep.ite3 | intro _ | apply State.issueInstr_keep | apply State.setCtx_keep | apply State.tally_keep | apply State.engineCount_keep | apply State.spendCtx_keep | apply KeepRan.ite | apply KeepRan.stall | apply KeepRan.fault | apply KeepRan.done | apply KeepRan.held | refine KeepRan.stall' (by assumption) ?_ | refine KeepRan.fault' (by assumption) ?_ | refine KeepRan.done' (by assumption) ?_ | refine KeepRan.held' (by assumption) ?_ | apply hk_run | apply Keep.foldl3 | apply Keep.foldl2 | apply Keep.foldl | (intro _ _ _) | (intro _ _)) | dsimp only | dsimp only [id] | simp only [Keep.mk_iff] | split | with_reducible refine Keep.of_eq2 (by assumption) ?_ | with_reducible refine Keep.of_eq3 (by assumption) ?_)

theorem execSfnExp2_keep (slot ctx stall t : Nat) (s : State) : ∃ q, execSfnExp2 slot ctx stall t s = .next q ∧ Keep s q := by
  unfold execSfnExp2
  refine ⟨_, rfl, ?_⟩
  have hk := Keep.refl s
  repeat' (first | with_reducible (first | assumption | exact Keep.refl _ | apply Keep.ite | apply Keep.ite2 | apply Keep.ite3 | intro _ | apply State.sfn_keep | apply KeepRan.ite | apply KeepRan.stall | apply KeepRan.fault | apply KeepRan.done | apply KeepRan.held | refine KeepRan.stall' (by assumption) ?_ | refine KeepRan.fault' (by assumption) ?_ | refine KeepRan.done' (by assumption) ?_ | refine KeepRan.held' (by assumption) ?_ | apply hk_run | apply Keep.foldl3 | apply Keep.foldl2 | apply Keep.foldl | (intro _ _ _) | (intro _ _)) | dsimp only | dsimp only [id] | simp only [Keep.mk_iff] | split | with_reducible refine Keep.of_eq2 (by assumption) ?_ | with_reducible refine Keep.of_eq3 (by assumption) ?_)

theorem execSfnLog2_keep (slot ctx stall t : Nat) (s : State) : ∃ q, execSfnLog2 slot ctx stall t s = .next q ∧ Keep s q := by
  unfold execSfnLog2
  refine ⟨_, rfl, ?_⟩
  have hk := Keep.refl s
  repeat' (first | with_reducible (first | assumption | exact Keep.refl _ | apply Keep.ite | apply Keep.ite2 | apply Keep.ite3 | intro _ | apply State.sfn_keep | apply KeepRan.ite | apply KeepRan.stall | apply KeepRan.fault | apply KeepRan.done | apply KeepRan.held | refine KeepRan.stall' (by assumption) ?_ | refine KeepRan.fault' (by assumption) ?_ | refine KeepRan.done' (by assumption) ?_ | refine KeepRan.held' (by assumption) ?_ | apply hk_run | apply Keep.foldl3 | apply Keep.foldl2 | apply Keep.foldl | (intro _ _ _) | (intro _ _)) | dsimp only | dsimp only [id] | simp only [Keep.mk_iff] | split | with_reducible refine Keep.of_eq2 (by assumption) ?_ | with_reducible refine Keep.of_eq3 (by assumption) ?_)

theorem execSfnReciprocal_keep (slot ctx stall t : Nat) (s : State) : ∃ q, execSfnReciprocal slot ctx stall t s = .next q ∧ Keep s q := by
  unfold execSfnReciprocal
  refine ⟨_, rfl, ?_⟩
  have hk := Keep.refl s
  repeat' (first | with_reducible (first | assumption | exact Keep.refl _ | apply Keep.ite | apply Keep.ite2 | apply Keep.ite3 | intro _ | apply State.sfn_keep | apply KeepRan.ite | apply KeepRan.stall | apply KeepRan.fault | apply KeepRan.done | apply KeepRan.held | refine KeepRan.stall' (by assumption) ?_ | refine KeepRan.fault' (by assumption) ?_ | refine KeepRan.done' (by assumption) ?_ | refine KeepRan.held' (by assumption) ?_ | apply hk_run | apply Keep.foldl3 | apply Keep.foldl2 | apply Keep.foldl | (intro _ _ _) | (intro _ _)) | dsimp only | dsimp only [id] | simp only [Keep.mk_iff] | split | with_reducible refine Keep.of_eq2 (by assumption) ?_ | with_reducible refine Keep.of_eq3 (by assumption) ?_)

theorem execSfnRsqrt_keep (slot ctx stall t : Nat) (s : State) : ∃ q, execSfnRsqrt slot ctx stall t s = .next q ∧ Keep s q := by
  unfold execSfnRsqrt
  refine ⟨_, rfl, ?_⟩
  have hk := Keep.refl s
  repeat' (first | with_reducible (first | assumption | exact Keep.refl _ | apply Keep.ite | apply Keep.ite2 | apply Keep.ite3 | intro _ | apply State.sfn_keep | apply KeepRan.ite | apply KeepRan.stall | apply KeepRan.fault | apply KeepRan.done | apply KeepRan.held | refine KeepRan.stall' (by assumption) ?_ | refine KeepRan.fault' (by assumption) ?_ | refine KeepRan.done' (by assumption) ?_ | refine KeepRan.held' (by assumption) ?_ | apply hk_run | apply Keep.foldl3 | apply Keep.foldl2 | apply Keep.foldl | (intro _ _ _) | (intro _ _)) | dsimp only | dsimp only [id] | simp only [Keep.mk_iff] | split | with_reducible refine Keep.of_eq2 (by assumption) ?_ | with_reducible refine Keep.of_eq3 (by assumption) ?_)

theorem execSfnTanh_keep (slot ctx stall t : Nat) (s : State) : ∃ q, execSfnTanh slot ctx stall t s = .next q ∧ Keep s q := by
  unfold execSfnTanh
  refine ⟨_, rfl, ?_⟩
  have hk := Keep.refl s
  repeat' (first | with_reducible (first | assumption | exact Keep.refl _ | apply Keep.ite | apply Keep.ite2 | apply Keep.ite3 | intro _ | apply State.sfn_keep | apply KeepRan.ite | apply KeepRan.stall | apply KeepRan.fault | apply KeepRan.done | apply KeepRan.held | refine KeepRan.stall' (by assumption) ?_ | refine KeepRan.fault' (by assumption) ?_ | refine KeepRan.done' (by assumption) ?_ | refine KeepRan.held' (by assumption) ?_ | apply hk_run | apply Keep.foldl3 | apply Keep.foldl2 | apply Keep.foldl | (intro _ _ _) | (intro _ _)) | dsimp only | dsimp only [id] | simp only [Keep.mk_iff] | split | with_reducible refine Keep.of_eq2 (by assumption) ?_ | with_reducible refine Keep.of_eq3 (by assumption) ?_)

theorem execVcvt_keep (slot ctx stall t : Nat) (s : State) : ∃ q, execVcvt slot ctx stall t s = .next q ∧ Keep s q := by
  unfold execVcvt
  refine ⟨_, rfl, ?_⟩
  have hk := Keep.refl s
  repeat' (first | with_reducible (first | assumption | exact Keep.refl _ | apply Keep.ite | apply Keep.ite2 | apply Keep.ite3 | intro _ | apply State.issueInstr_keep | apply State.setCtx_keep | apply State.tally_keep | apply KeepRan.ite | apply KeepRan.stall | apply KeepRan.fault | apply KeepRan.done | apply KeepRan.held | refine KeepRan.stall' (by assumption) ?_ | refine KeepRan.fault' (by assumption) ?_ | refine KeepRan.done' (by assumption) ?_ | refine KeepRan.held' (by assumption) ?_ | apply hk_run | apply Keep.foldl3 | apply Keep.foldl2 | apply Keep.foldl | (intro _ _ _) | (intro _ _)) | dsimp only | dsimp only [id] | simp only [Keep.mk_iff] | split | with_reducible refine Keep.of_eq2 (by assumption) ?_ | with_reducible refine Keep.of_eq3 (by assumption) ?_)

theorem execVqnt_keep (slot ctx stall t : Nat) (s : State) : ∃ q, execVqnt slot ctx stall t s = .next q ∧ Keep s q := by
  unfold execVqnt
  refine ⟨_, rfl, ?_⟩
  have hk := Keep.refl s
  repeat' (first | with_reducible (first | assumption | exact Keep.refl _ | apply Keep.ite | apply Keep.ite2 | apply Keep.ite3 | intro _ | apply State.issueInstr_keep | apply State.count_keep | apply State.setCtx_keep | apply State.tally_keep | apply KeepRan.ite | apply KeepRan.stall | apply KeepRan.fault | apply KeepRan.done | apply KeepRan.held | refine KeepRan.stall' (by assumption) ?_ | refine KeepRan.fault' (by assumption) ?_ | refine KeepRan.done' (by assumption) ?_ | refine KeepRan.held' (by assumption) ?_ | apply hk_run | apply Keep.foldl3 | apply Keep.foldl2 | apply Keep.foldl | (intro _ _ _) | (intro _ _)) | dsimp only | dsimp only [id] | simp only [Keep.mk_iff] | split | with_reducible refine Keep.of_eq2 (by assumption) ?_ | with_reducible refine Keep.of_eq3 (by assumption) ?_)

theorem execVdq_keep (slot ctx stall t : Nat) (s : State) : ∃ q, execVdq slot ctx stall t s = .next q ∧ Keep s q := by
  unfold execVdq
  refine ⟨_, rfl, ?_⟩
  have hk := Keep.refl s
  repeat' (first | with_reducible (first | assumption | exact Keep.refl _ | apply Keep.ite | apply Keep.ite2 | apply Keep.ite3 | intro _ | apply State.issueInstr_keep | apply State.count_keep | apply State.setCtx_keep | apply State.tally_keep | apply KeepRan.ite | apply KeepRan.stall | apply KeepRan.fault | apply KeepRan.done | apply KeepRan.held | refine KeepRan.stall' (by assumption) ?_ | refine KeepRan.fault' (by assumption) ?_ | refine KeepRan.done' (by assumption) ?_ | refine KeepRan.held' (by assumption) ?_ | apply hk_run | apply Keep.foldl3 | apply Keep.foldl2 | apply Keep.foldl | (intro _ _ _) | (intro _ _)) | dsimp only | dsimp only [id] | simp only [Keep.mk_iff] | split | with_reducible refine Keep.of_eq2 (by assumption) ?_ | with_reducible refine Keep.of_eq3 (by assumption) ?_)

theorem State.vred_keep {s0 : State} (s : State) (slot c stall t sel : Nat) (hk : Keep s0 s) : Keep s0 (State.vred s slot c stall t sel) := by
  unfold State.vred
  repeat' (first | with_reducible (first | assumption | exact Keep.refl _ | apply Keep.ite | apply Keep.ite2 | apply Keep.ite3 | intro _ | apply State.issueInstr_keep | apply State.setCtx_keep | apply State.tally_keep | apply KeepRan.ite | apply KeepRan.stall | apply KeepRan.fault | apply KeepRan.done | apply KeepRan.held | refine KeepRan.stall' (by assumption) ?_ | refine KeepRan.fault' (by assumption) ?_ | refine KeepRan.done' (by assumption) ?_ | refine KeepRan.held' (by assumption) ?_ | apply hk_run | apply Keep.foldl3 | apply Keep.foldl2 | apply Keep.foldl | (intro _ _ _) | (intro _ _)) | dsimp only | dsimp only [id] | simp only [Keep.mk_iff] | split | with_reducible refine Keep.of_eq2 (by assumption) ?_ | with_reducible refine Keep.of_eq3 (by assumption) ?_)

theorem execVredSum_keep (slot ctx stall t : Nat) (s : State) : ∃ q, execVredSum slot ctx stall t s = .next q ∧ Keep s q := by
  unfold execVredSum
  refine ⟨_, rfl, ?_⟩
  have hk := Keep.refl s
  repeat' (first | with_reducible (first | assumption | exact Keep.refl _ | apply Keep.ite | apply Keep.ite2 | apply Keep.ite3 | intro _ | apply State.vred_keep | apply KeepRan.ite | apply KeepRan.stall | apply KeepRan.fault | apply KeepRan.done | apply KeepRan.held | refine KeepRan.stall' (by assumption) ?_ | refine KeepRan.fault' (by assumption) ?_ | refine KeepRan.done' (by assumption) ?_ | refine KeepRan.held' (by assumption) ?_ | apply hk_run | apply Keep.foldl3 | apply Keep.foldl2 | apply Keep.foldl | (intro _ _ _) | (intro _ _)) | dsimp only | dsimp only [id] | simp only [Keep.mk_iff] | split | with_reducible refine Keep.of_eq2 (by assumption) ?_ | with_reducible refine Keep.of_eq3 (by assumption) ?_)

theorem execVredMin_keep (slot ctx stall t : Nat) (s : State) : ∃ q, execVredMin slot ctx stall t s = .next q ∧ Keep s q := by
  unfold execVredMin
  refine ⟨_, rfl, ?_⟩
  have hk := Keep.refl s
  repeat' (first | with_reducible (first | assumption | exact Keep.refl _ | apply Keep.ite | apply Keep.ite2 | apply Keep.ite3 | intro _ | apply State.vred_keep | apply KeepRan.ite | apply KeepRan.stall | apply KeepRan.fault | apply KeepRan.done | apply KeepRan.held | refine KeepRan.stall' (by assumption) ?_ | refine KeepRan.fault' (by assumption) ?_ | refine KeepRan.done' (by assumption) ?_ | refine KeepRan.held' (by assumption) ?_ | apply hk_run | apply Keep.foldl3 | apply Keep.foldl2 | apply Keep.foldl | (intro _ _ _) | (intro _ _)) | dsimp only | dsimp only [id] | simp only [Keep.mk_iff] | split | with_reducible refine Keep.of_eq2 (by assumption) ?_ | with_reducible refine Keep.of_eq3 (by assumption) ?_)

theorem execVredMax_keep (slot ctx stall t : Nat) (s : State) : ∃ q, execVredMax slot ctx stall t s = .next q ∧ Keep s q := by
  unfold execVredMax
  refine ⟨_, rfl, ?_⟩
  have hk := Keep.refl s
  repeat' (first | with_reducible (first | assumption | exact Keep.refl _ | apply Keep.ite | apply Keep.ite2 | apply Keep.ite3 | intro _ | apply State.vred_keep | apply KeepRan.ite | apply KeepRan.stall | apply KeepRan.fault | apply KeepRan.done | apply KeepRan.held | refine KeepRan.stall' (by assumption) ?_ | refine KeepRan.fault' (by assumption) ?_ | refine KeepRan.done' (by assumption) ?_ | refine KeepRan.held' (by assumption) ?_ | apply hk_run | apply Keep.foldl3 | apply Keep.foldl2 | apply Keep.foldl | (intro _ _ _) | (intro _ _)) | dsimp only | dsimp only [id] | simp only [Keep.mk_iff] | split | with_reducible refine Keep.of_eq2 (by assumption) ?_ | with_reducible refine Keep.of_eq3 (by assumption) ?_)

theorem execVredArgmax_keep (slot ctx stall t : Nat) (s : State) : ∃ q, execVredArgmax slot ctx stall t s = .next q ∧ Keep s q := by
  unfold execVredArgmax
  refine ⟨_, rfl, ?_⟩
  have hk := Keep.refl s
  repeat' (first | with_reducible (first | assumption | exact Keep.refl _ | apply Keep.ite | apply Keep.ite2 | apply Keep.ite3 | intro _ | apply State.vred_keep | apply KeepRan.ite | apply KeepRan.stall | apply KeepRan.fault | apply KeepRan.done | apply KeepRan.held | refine KeepRan.stall' (by assumption) ?_ | refine KeepRan.fault' (by assumption) ?_ | refine KeepRan.done' (by assumption) ?_ | refine KeepRan.held' (by assumption) ?_ | apply hk_run | apply Keep.foldl3 | apply Keep.foldl2 | apply Keep.foldl | (intro _ _ _) | (intro _ _)) | dsimp only | dsimp only [id] | simp only [Keep.mk_iff] | split | with_reducible refine Keep.of_eq2 (by assumption) ?_ | with_reducible refine Keep.of_eq3 (by assumption) ?_)

theorem execTopk_keep (slot ctx stall t : Nat) (s : State) : ∃ q, execTopk slot ctx stall t s = .next q ∧ Keep s q := by
  unfold execTopk
  refine ⟨_, rfl, ?_⟩
  have hk := Keep.refl s
  repeat' (first | with_reducible (first | assumption | exact Keep.refl _ | apply Keep.ite | apply Keep.ite2 | apply Keep.ite3 | intro _ | apply State.issueReg_keep | apply KeepRan.ite | apply KeepRan.stall | apply KeepRan.fault | apply KeepRan.done | apply KeepRan.held | refine KeepRan.stall' (by assumption) ?_ | refine KeepRan.fault' (by assumption) ?_ | refine KeepRan.done' (by assumption) ?_ | refine KeepRan.held' (by assumption) ?_ | apply hk_run | apply Keep.foldl3 | apply Keep.foldl2 | apply Keep.foldl | (intro _ _ _) | (intro _ _)) | dsimp only | dsimp only [id] | simp only [Keep.mk_iff] | split | with_reducible refine Keep.of_eq2 (by assumption) ?_ | with_reducible refine Keep.of_eq3 (by assumption) ?_)

theorem State.mfs_keep {s0 : State} (s : State) (slot c stall t rows : Nat) (trans : Bool) (hk : Keep s0 s) : Keep s0 (State.mfs s slot c stall t rows trans) := by
  unfold State.mfs
  repeat' (first | with_reducible (first | assumption | exact Keep.refl _ | apply Keep.ite | apply Keep.ite2 | apply Keep.ite3 | intro _ | apply State.issueInstr_keep | apply State.fetchElems_keep | apply State.consumed_keep | apply State.setCtx_keep | apply State.tally_keep | apply State.engineCount_keep | apply State.spend_keep | apply KeepRan.ite | apply KeepRan.stall | apply KeepRan.fault | apply KeepRan.done | apply KeepRan.held | refine KeepRan.stall' (by assumption) ?_ | refine KeepRan.fault' (by assumption) ?_ | refine KeepRan.done' (by assumption) ?_ | refine KeepRan.held' (by assumption) ?_ | apply hk_run | apply Keep.foldl3 | apply Keep.foldl2 | apply Keep.foldl | (intro _ _ _) | (intro _ _)) | dsimp only | dsimp only [id] | simp only [Keep.mk_iff] | split | with_reducible refine Keep.of_eq2 (by assumption) ?_ | with_reducible refine Keep.of_eq3 (by assumption) ?_)

theorem execMfs_keep (slot ctx stall rows t : Nat) (s : State) : ∃ q, execMfs slot ctx stall rows t s = .next q ∧ Keep s q := by
  unfold execMfs
  refine ⟨_, rfl, ?_⟩
  have hk := Keep.refl s
  repeat' (first | with_reducible (first | assumption | exact Keep.refl _ | apply Keep.ite | apply Keep.ite2 | apply Keep.ite3 | intro _ | apply State.mfs_keep | apply KeepRan.ite | apply KeepRan.stall | apply KeepRan.fault | apply KeepRan.done | apply KeepRan.held | refine KeepRan.stall' (by assumption) ?_ | refine KeepRan.fault' (by assumption) ?_ | refine KeepRan.done' (by assumption) ?_ | refine KeepRan.held' (by assumption) ?_ | apply hk_run | apply Keep.foldl3 | apply Keep.foldl2 | apply Keep.foldl | (intro _ _ _) | (intro _ _)) | dsimp only | dsimp only [id] | simp only [Keep.mk_iff] | split | with_reducible refine Keep.of_eq2 (by assumption) ?_ | with_reducible refine Keep.of_eq3 (by assumption) ?_)

theorem execMfsTransposed_keep (slot ctx stall rows t : Nat) (s : State) : ∃ q, execMfsTransposed slot ctx stall rows t s = .next q ∧ Keep s q := by
  unfold execMfsTransposed
  refine ⟨_, rfl, ?_⟩
  have hk := Keep.refl s
  repeat' (first | with_reducible (first | assumption | exact Keep.refl _ | apply Keep.ite | apply Keep.ite2 | apply Keep.ite3 | intro _ | apply State.mfs_keep | apply KeepRan.ite | apply KeepRan.stall | apply KeepRan.fault | apply KeepRan.done | apply KeepRan.held | refine KeepRan.stall' (by assumption) ?_ | refine KeepRan.fault' (by assumption) ?_ | refine KeepRan.done' (by assumption) ?_ | refine KeepRan.held' (by assumption) ?_ | apply hk_run | apply Keep.foldl3 | apply Keep.foldl2 | apply Keep.foldl | (intro _ _ _) | (intro _ _)) | dsimp only | dsimp only [id] | simp only [Keep.mk_iff] | split | with_reducible refine Keep.of_eq2 (by assumption) ?_ | with_reducible refine Keep.of_eq3 (by assumption) ?_)

end Sys2Proof.Machine
end

