-- ==== Sys2Proof/Laws/KeepPoolOps.lean ====
section
/-!
SUPPORT. The operations and meanings of Machine/PoolOps.lean keep the queue, the fuses and the form of memory.
-/

namespace Sys2Proof.Machine

theorem State.setJob_keep {s0 : State} (s : State) (j : PoolJob) (hk : Keep s0 s) : Keep s0 (State.setJob s j) := by
  unfold State.setJob
  repeat' (first | with_reducible (first | assumption | exact Keep.refl _ | apply Keep.ite | apply Keep.ite2 | apply Keep.ite3 | intro _ | apply KeepRan.ite | apply KeepRan.stall | apply KeepRan.fault | apply KeepRan.done | apply KeepRan.held | refine KeepRan.stall' (by assumption) ?_ | refine KeepRan.fault' (by assumption) ?_ | refine KeepRan.done' (by assumption) ?_ | refine KeepRan.held' (by assumption) ?_ | apply hk_run | apply Keep.foldl3 | apply Keep.foldl2 | apply Keep.foldl | (intro _ _ _) | (intro _ _)) | dsimp only | dsimp only [id] | simp only [Keep.mk_iff] | split | with_reducible refine Keep.of_eq2 (by assumption) ?_ | with_reducible refine Keep.of_eq3 (by assumption) ?_)

theorem State.dropJob_keep {s0 : State} (s : State) (j : PoolJob) (hk : Keep s0 s) : Keep s0 (State.dropJob s j) := by
  unfold State.dropJob
  repeat' (first | with_reducible (first | assumption | exact Keep.refl _ | apply Keep.ite | apply Keep.ite2 | apply Keep.ite3 | intro _ | apply KeepRan.ite | apply KeepRan.stall | apply KeepRan.fault | apply KeepRan.done | apply KeepRan.held | refine KeepRan.stall' (by assumption) ?_ | refine KeepRan.fault' (by assumption) ?_ | refine KeepRan.done' (by assumption) ?_ | refine KeepRan.held' (by assumption) ?_ | apply hk_run | apply Keep.foldl3 | apply Keep.foldl2 | apply Keep.foldl | (intro _ _ _) | (intro _ _)) | dsimp only | dsimp only [id] | simp only [Keep.mk_iff] | split | with_reducible refine Keep.of_eq2 (by assumption) ?_ | with_reducible refine Keep.of_eq3 (by assumption) ?_)

theorem State.grantStage_keep {s0 : State} (s : State) (slot : Nat) (hk : Keep s0 s) : Keep s0 (State.grantStage s slot) := by
  unfold State.grantStage
  repeat' (first | with_reducible (first | assumption | exact Keep.refl _ | apply Keep.ite | apply Keep.ite2 | apply Keep.ite3 | intro _ | apply State.setJob_keep | apply KeepRan.ite | apply KeepRan.stall | apply KeepRan.fault | apply KeepRan.done | apply KeepRan.held | refine KeepRan.stall' (by assumption) ?_ | refine KeepRan.fault' (by assumption) ?_ | refine KeepRan.done' (by assumption) ?_ | refine KeepRan.held' (by assumption) ?_ | apply hk_run | apply Keep.foldl3 | apply Keep.foldl2 | apply Keep.foldl | (intro _ _ _) | (intro _ _)) | dsimp only | dsimp only [id] | simp only [Keep.mk_iff] | split | with_reducible refine Keep.of_eq2 (by assumption) ?_ | with_reducible refine Keep.of_eq3 (by assumption) ?_)

theorem State.freshen_keep {s0 : State} (s : State) (p e va : Nat) (handle : Nat) (hk : Keep s0 s) : Keep s0 (State.freshen s p e va handle) := by
  unfold State.freshen
  repeat' (first | with_reducible (first | assumption | exact Keep.refl _ | apply Keep.ite | apply Keep.ite2 | apply Keep.ite3 | intro _ | apply State.pairForward_keep | apply State.count_keep | apply KeepRan.ite | apply KeepRan.stall | apply KeepRan.fault | apply KeepRan.done | apply KeepRan.held | refine KeepRan.stall' (by assumption) ?_ | refine KeepRan.fault' (by assumption) ?_ | refine KeepRan.done' (by assumption) ?_ | refine KeepRan.held' (by assumption) ?_ | apply hk_run | apply Keep.foldl3 | apply Keep.foldl2 | apply Keep.foldl | (intro _ _ _) | (intro _ _)) | dsimp only | dsimp only [id] | simp only [Keep.mk_iff] | split | with_reducible refine Keep.of_eq2 (by assumption) ?_ | with_reducible refine Keep.of_eq3 (by assumption) ?_)

theorem State.poolWaits_keep {s0 : State} (s : State) (handle : Nat) (l : List (Nat × Nat)) (wr : Bool) (hk : Keep s0 s) : Keep s0 (State.poolWaits s handle l wr).2 := by
  unfold State.poolWaits
  repeat' (first | with_reducible (first | assumption | exact Keep.refl _ | apply Keep.ite | apply Keep.ite2 | apply Keep.ite3 | intro _ | apply State.agentCheck_keep | apply State.wr_keep | apply KeepRan.ite | apply KeepRan.stall | apply KeepRan.fault | apply KeepRan.done | apply KeepRan.held | refine KeepRan.stall' (by assumption) ?_ | refine KeepRan.fault' (by assumption) ?_ | refine KeepRan.done' (by assumption) ?_ | refine KeepRan.held' (by assumption) ?_ | apply hk_run | apply Keep.foldl3 | apply Keep.foldl2 | apply Keep.foldl | (intro _ _ _) | (intro _ _)) | dsimp only | dsimp only [id] | simp only [Keep.mk_iff] | split | with_reducible refine Keep.of_eq2 (by assumption) ?_ | with_reducible refine Keep.of_eq3 (by assumption) ?_)

theorem State.fillPart_keep {s0 : State} (s : State) (j : PoolJob) (va n : Nat) (hk : Keep s0 s) : Keep s0 (State.fillPart s j va n).2 := by
  unfold State.fillPart
  repeat' (first | with_reducible (first | assumption | exact Keep.refl _ | apply Keep.ite | apply Keep.ite2 | apply Keep.ite3 | intro _ | apply State.agentCheck_keep | apply State.freshen_keep | apply State.agentWrite_keep | apply State.count_keep | apply State.noteFault_keep | apply KeepRan.ite | apply KeepRan.stall | apply KeepRan.fault | apply KeepRan.done | apply KeepRan.held | refine KeepRan.stall' (by assumption) ?_ | refine KeepRan.fault' (by assumption) ?_ | refine KeepRan.done' (by assumption) ?_ | refine KeepRan.held' (by assumption) ?_ | apply hk_run | apply Keep.foldl3 | apply Keep.foldl2 | apply Keep.foldl | (intro _ _ _) | (intro _ _)) | dsimp only | dsimp only [id] | simp only [Keep.mk_iff] | split | with_reducible refine Keep.of_eq2 (by assumption) ?_ | with_reducible refine Keep.of_eq3 (by assumption) ?_)

theorem State.reducePart_keep {s0 : State} (s : State) (j : PoolJob) (va n : Nat) (hk : Keep s0 s) : Keep s0 (State.reducePart s j va n).2 := by
  unfold State.reducePart
  repeat' (first | with_reducible (first | assumption | exact Keep.refl _ | apply Keep.ite | apply Keep.ite2 | apply Keep.ite3 | intro _ | apply State.agentCheck_keep | apply State.readFinal_keep | apply State.count_keep | apply KeepRan.ite | apply KeepRan.stall | apply KeepRan.fault | apply KeepRan.done | apply KeepRan.held | refine KeepRan.stall' (by assumption) ?_ | refine KeepRan.fault' (by assumption) ?_ | refine KeepRan.done' (by assumption) ?_ | refine KeepRan.held' (by assumption) ?_ | apply hk_run | apply Keep.foldl3 | apply Keep.foldl2 | apply Keep.foldl | (intro _ _ _) | (intro _ _)) | dsimp only | dsimp only [id] | simp only [Keep.mk_iff] | split | with_reducible refine Keep.of_eq2 (by assumption) ?_ | with_reducible refine Keep.of_eq3 (by assumption) ?_)

theorem State.startAt_keep {s0 : State} (s : State) (j : PoolJob) (slot : Nat) (hk : Keep s0 s) : Keep s0 (State.startAt s j slot).2 := by
  unfold State.startAt
  repeat' (first | with_reducible (first | assumption | exact Keep.refl _ | apply Keep.ite | apply Keep.ite2 | apply Keep.ite3 | intro _ | apply State.poolWaits_keep | apply State.fillPart_keep | apply State.reducePart_keep | apply State.setJob_keep | apply State.spend_keep | apply State.grantStage_keep | apply KeepRan.ite | apply KeepRan.stall | apply KeepRan.fault | apply KeepRan.done | apply KeepRan.held | refine KeepRan.stall' (by assumption) ?_ | refine KeepRan.fault' (by assumption) ?_ | refine KeepRan.done' (by assumption) ?_ | refine KeepRan.held' (by assumption) ?_ | apply hk_run | apply Keep.foldl3 | apply Keep.foldl2 | apply Keep.foldl | (intro _ _ _) | (intro _ _)) | dsimp only | dsimp only [id] | simp only [Keep.mk_iff] | split | with_reducible refine Keep.of_eq2 (by assumption) ?_ | with_reducible refine Keep.of_eq3 (by assumption) ?_)

theorem State.servePool_keep {s0 : State} (s : State) (r : Req) (hk : Keep s0 s) : Keep s0 (State.servePool s r) := by
  unfold State.servePool
  repeat' (first | with_reducible (first | assumption | exact Keep.refl _ | apply Keep.ite | apply Keep.ite2 | apply Keep.ite3 | intro _ | apply State.answerSt_keep | apply State.startAt_keep | apply KeepRan.ite | apply KeepRan.stall | apply KeepRan.fault | apply KeepRan.done | apply KeepRan.held | refine KeepRan.stall' (by assumption) ?_ | refine KeepRan.fault' (by assumption) ?_ | refine KeepRan.done' (by assumption) ?_ | refine KeepRan.held' (by assumption) ?_ | apply hk_run | apply Keep.foldl3 | apply Keep.foldl2 | apply Keep.foldl | (intro _ _ _) | (intro _ _)) | dsimp only | dsimp only [id] | simp only [Keep.mk_iff] | split | with_reducible refine Keep.of_eq2 (by assumption) ?_ | with_reducible refine Keep.of_eq3 (by assumption) ?_)

theorem execPoolOpDequeue_keep (slot p : Nat) (s : State) : ∃ q, execPoolOpDequeue slot p s = .next q ∧ Keep s q := by
  unfold execPoolOpDequeue
  refine ⟨_, rfl, ?_⟩
  have hk := Keep.refl s
  repeat' (first | with_reducible (first | assumption | exact Keep.refl _ | apply Keep.ite | apply Keep.ite2 | apply Keep.ite3 | intro _ | apply State.startAt_keep | apply KeepRan.ite | apply KeepRan.stall | apply KeepRan.fault | apply KeepRan.done | apply KeepRan.held | refine KeepRan.stall' (by assumption) ?_ | refine KeepRan.fault' (by assumption) ?_ | refine KeepRan.done' (by assumption) ?_ | refine KeepRan.held' (by assumption) ?_ | apply hk_run | apply Keep.foldl3 | apply Keep.foldl2 | apply Keep.foldl | (intro _ _ _) | (intro _ _)) | dsimp only | dsimp only [id] | simp only [Keep.mk_iff] | split | with_reducible refine Keep.of_eq2 (by assumption) ?_ | with_reducible refine Keep.of_eq3 (by assumption) ?_)

theorem execStagingBufferGrant_keep (slot : Nat) (s : State) : ∃ q, execStagingBufferGrant slot s = .next q ∧ Keep s q := by
  unfold execStagingBufferGrant
  refine ⟨_, rfl, ?_⟩
  have hk := Keep.refl s
  repeat' (first | with_reducible (first | assumption | exact Keep.refl _ | apply Keep.ite | apply Keep.ite2 | apply Keep.ite3 | intro _ | apply State.grantStage_keep | apply KeepRan.ite | apply KeepRan.stall | apply KeepRan.fault | apply KeepRan.done | apply KeepRan.held | refine KeepRan.stall' (by assumption) ?_ | refine KeepRan.fault' (by assumption) ?_ | refine KeepRan.done' (by assumption) ?_ | refine KeepRan.held' (by assumption) ?_ | apply hk_run | apply Keep.foldl3 | apply Keep.foldl2 | apply Keep.foldl | (intro _ _ _) | (intro _ _)) | dsimp only | dsimp only [id] | simp only [Keep.mk_iff] | split | with_reducible refine Keep.of_eq2 (by assumption) ?_ | with_reducible refine Keep.of_eq3 (by assumption) ?_)

theorem State.poolBytes_keep {s0 : State} (s : State) (e va n handle : Nat) (hk : Keep s0 s) : Keep s0 (State.poolBytes s e va n handle).2 := by
  unfold State.poolBytes
  repeat' (first | with_reducible (first | assumption | exact Keep.refl _ | apply Keep.ite | apply Keep.ite2 | apply Keep.ite3 | intro _ | apply State.agentLines_keep | apply KeepRan.ite | apply KeepRan.stall | apply KeepRan.fault | apply KeepRan.done | apply KeepRan.held | refine KeepRan.stall' (by assumption) ?_ | refine KeepRan.fault' (by assumption) ?_ | refine KeepRan.done' (by assumption) ?_ | refine KeepRan.held' (by assumption) ?_ | apply hk_run | apply Keep.foldl3 | apply Keep.foldl2 | apply Keep.foldl | (intro _ _ _) | (intro _ _)) | dsimp only | dsimp only [id] | simp only [Keep.mk_iff] | split | with_reducible refine Keep.of_eq2 (by assumption) ?_ | with_reducible refine Keep.of_eq3 (by assumption) ?_)

theorem State.poolSeen_keep {s0 : State} (s : State) (e va n handle base : Nat) (hk : Keep s0 s) : Keep s0 (State.poolSeen s e va n handle base).2.2 := by
  unfold State.poolSeen
  repeat' (first | with_reducible (first | assumption | exact Keep.refl _ | apply Keep.ite | apply Keep.ite2 | apply Keep.ite3 | intro _ | apply State.agentLines_keep | apply KeepRan.ite | apply KeepRan.stall | apply KeepRan.fault | apply KeepRan.done | apply KeepRan.held | refine KeepRan.stall' (by assumption) ?_ | refine KeepRan.fault' (by assumption) ?_ | refine KeepRan.done' (by assumption) ?_ | refine KeepRan.held' (by assumption) ?_ | apply hk_run | apply Keep.foldl3 | apply Keep.foldl2 | apply Keep.foldl | (intro _ _ _) | (intro _ _)) | dsimp only | dsimp only [id] | simp only [Keep.mk_iff] | split | with_reducible refine Keep.of_eq2 (by assumption) ?_ | with_reducible refine Keep.of_eq3 (by assumption) ?_)

theorem State.scanRead_keep {s0 : State} (s : State) (j : PoolJob) (ends : Option Nat) (hk : Keep s0 s) : Keep s0 (State.scanRead s j ends) := by
  unfold State.scanRead
  repeat' (first | with_reducible (first | assumption | exact Keep.refl _ | apply Keep.ite | apply Keep.ite2 | apply Keep.ite3 | intro _ | apply State.readFinal_keep | apply State.noteFault_keep | apply KeepRan.ite | apply KeepRan.stall | apply KeepRan.fault | apply KeepRan.done | apply KeepRan.held | refine KeepRan.stall' (by assumption) ?_ | refine KeepRan.fault' (by assumption) ?_ | refine KeepRan.done' (by assumption) ?_ | refine KeepRan.held' (by assumption) ?_ | apply hk_run | apply Keep.foldl3 | apply Keep.foldl2 | apply Keep.foldl | (intro _ _ _) | (intro _ _)) | dsimp only | dsimp only [id] | simp only [Keep.mk_iff] | split | with_reducible refine Keep.of_eq2 (by assumption) ?_ | with_reducible refine Keep.of_eq3 (by assumption) ?_)

theorem State.scanWindow_keep {s0 : State} (s : State) (j : PoolJob) (w : Nat) (hk : Keep s0 s) : Keep s0 (State.scanWindow s j w).2 := by
  unfold State.scanWindow
  repeat' (first | with_reducible (first | assumption | exact Keep.refl _ | apply Keep.ite | apply Keep.ite2 | apply Keep.ite3 | intro _ | apply State.scanRead_keep | apply KeepRan.ite | apply KeepRan.stall | apply KeepRan.fault | apply KeepRan.done | apply KeepRan.held | refine KeepRan.stall' (by assumption) ?_ | refine KeepRan.fault' (by assumption) ?_ | refine KeepRan.done' (by assumption) ?_ | refine KeepRan.held' (by assumption) ?_ | apply hk_run | apply Keep.foldl3 | apply Keep.foldl2 | apply Keep.foldl | (intro _ _ _) | (intro _ _)) | dsimp only | dsimp only [id] | simp only [Keep.mk_iff] | split | with_reducible refine Keep.of_eq2 (by assumption) ?_ | with_reducible refine Keep.of_eq3 (by assumption) ?_)

theorem State.poolCopyLine_keep {s0 : State} (s : State) (j : PoolJob) (va n : Nat) (hk : Keep s0 s) : Keep s0 (State.poolCopyLine s j va n).2 := by
  unfold State.poolCopyLine
  repeat' (first | with_reducible (first | assumption | exact Keep.refl _ | apply Keep.ite | apply Keep.ite2 | apply Keep.ite3 | intro _ | apply State.agentCheck_keep | apply State.poolBytes_keep | apply State.agentWrite_keep | apply State.noteFault_keep | apply State.poisonCopies_keep | apply State.pairForward_keep | apply KeepRan.ite | apply KeepRan.stall | apply KeepRan.fault | apply KeepRan.done | apply KeepRan.held | refine KeepRan.stall' (by assumption) ?_ | refine KeepRan.fault' (by assumption) ?_ | refine KeepRan.done' (by assumption) ?_ | refine KeepRan.held' (by assumption) ?_ | apply hk_run | apply Keep.foldl3 | apply Keep.foldl2 | apply Keep.foldl | (intro _ _ _) | (intro _ _)) | dsimp only | dsimp only [id] | simp only [Keep.mk_iff] | split | with_reducible refine Keep.of_eq2 (by assumption) ?_ | with_reducible refine Keep.of_eq3 (by assumption) ?_)

theorem State.windowWork_keep {s0 : State} (s : State) (j : PoolJob) (w slot : Nat) (hk : Keep s0 s) : Keep s0 (State.windowWork s j w slot).2 := by
  unfold State.windowWork
  repeat' (first | with_reducible (first | assumption | exact Keep.refl _ | apply Keep.ite | apply Keep.ite2 | apply Keep.ite3 | intro _ | apply State.freshen_keep | apply State.poolCopyLine_keep | apply State.agentCheck_keep | apply State.poolSeen_keep | apply KeepRan.ite | apply KeepRan.stall | apply KeepRan.fault | apply KeepRan.done | apply KeepRan.held | refine KeepRan.stall' (by assumption) ?_ | refine KeepRan.fault' (by assumption) ?_ | refine KeepRan.done' (by assumption) ?_ | refine KeepRan.held' (by assumption) ?_ | apply hk_run | apply Keep.foldl3 | apply Keep.foldl2 | apply Keep.foldl | (intro _ _ _) | (intro _ _)) | dsimp only | dsimp only [id] | simp only [Keep.mk_iff] | split | with_reducible refine Keep.of_eq2 (by assumption) ?_ | with_reducible refine Keep.of_eq3 (by assumption) ?_)

theorem State.windowDone_keep {s0 : State} (s : State) (j : PoolJob) (w slot m : Nat) (hk : Keep s0 s) : Keep s0 (State.windowDone s j w slot m) := by
  unfold State.windowDone
  repeat' (first | with_reducible (first | assumption | exact Keep.refl _ | apply Keep.ite | apply Keep.ite2 | apply Keep.ite3 | intro _ | apply State.scanWindow_keep | apply State.windowWork_keep | apply State.count_keep | apply State.spend_keep | apply State.setJob_keep | apply KeepRan.ite | apply KeepRan.stall | apply KeepRan.fault | apply KeepRan.done | apply KeepRan.held | refine KeepRan.stall' (by assumption) ?_ | refine KeepRan.fault' (by assumption) ?_ | refine KeepRan.done' (by assumption) ?_ | refine KeepRan.held' (by assumption) ?_ | apply hk_run | apply Keep.foldl3 | apply Keep.foldl2 | apply Keep.foldl | (intro _ _ _) | (intro _ _)) | dsimp only | dsimp only [id] | simp only [Keep.mk_iff] | split | with_reducible refine Keep.of_eq2 (by assumption) ?_ | with_reducible refine Keep.of_eq3 (by assumption) ?_)

theorem execPoolOpWindowComplete_keep (port id w slot : Nat) (s : State) : ∃ q, execPoolOpWindowComplete port id w slot s = .next q ∧ Keep s q := by
  unfold execPoolOpWindowComplete
  refine ⟨_, rfl, ?_⟩
  have hk := Keep.refl s
  repeat' (first | with_reducible (first | assumption | exact Keep.refl _ | apply Keep.ite | apply Keep.ite2 | apply Keep.ite3 | intro _ | apply State.noteHeld_keep | apply State.poolWaits_keep | apply State.windowDone_keep | apply KeepRan.ite | apply KeepRan.stall | apply KeepRan.fault | apply KeepRan.done | apply KeepRan.held | refine KeepRan.stall' (by assumption) ?_ | refine KeepRan.fault' (by assumption) ?_ | refine KeepRan.done' (by assumption) ?_ | refine KeepRan.held' (by assumption) ?_ | apply hk_run | apply Keep.foldl3 | apply Keep.foldl2 | apply Keep.foldl | (intro _ _ _) | (intro _ _)) | dsimp only | dsimp only [id] | simp only [Keep.mk_iff] | split | with_reducible refine Keep.of_eq2 (by assumption) ?_ | with_reducible refine Keep.of_eq3 (by assumption) ?_)

theorem execPoolOpComplete_keep (port id : Nat) (s : State) : ∃ q, execPoolOpComplete port id s = .next q ∧ Keep s q := by
  unfold execPoolOpComplete
  refine ⟨_, rfl, ?_⟩
  have hk := Keep.refl s
  repeat' (first | with_reducible (first | assumption | exact Keep.refl _ | apply Keep.ite | apply Keep.ite2 | apply Keep.ite3 | intro _ | apply State.noteFault_keep | apply State.dropJob_keep | apply State.engineCount_keep | apply State.answer_keep | apply KeepRan.ite | apply KeepRan.stall | apply KeepRan.fault | apply KeepRan.done | apply KeepRan.held | refine KeepRan.stall' (by assumption) ?_ | refine KeepRan.fault' (by assumption) ?_ | refine KeepRan.done' (by assumption) ?_ | refine KeepRan.held' (by assumption) ?_ | apply hk_run | apply Keep.foldl3 | apply Keep.foldl2 | apply Keep.foldl | (intro _ _ _) | (intro _ _)) | dsimp only | dsimp only [id] | simp only [Keep.mk_iff] | split | with_reducible refine Keep.of_eq2 (by assumption) ?_ | with_reducible refine Keep.of_eq3 (by assumption) ?_)

theorem State.poolEnd_keep {s0 : State} (s : State) (j : PoolJob) (st : Nat) (hk : Keep s0 s) : Keep s0 (State.poolEnd s j st) := by
  unfold State.poolEnd
  repeat' (first | with_reducible (first | assumption | exact Keep.refl _ | apply Keep.ite | apply Keep.ite2 | apply Keep.ite3 | intro _ | apply State.dropJob_keep | apply State.answer_keep | apply KeepRan.ite | apply KeepRan.stall | apply KeepRan.fault | apply KeepRan.done | apply KeepRan.held | refine KeepRan.stall' (by assumption) ?_ | refine KeepRan.fault' (by assumption) ?_ | refine KeepRan.done' (by assumption) ?_ | refine KeepRan.held' (by assumption) ?_ | apply hk_run | apply Keep.foldl3 | apply Keep.foldl2 | apply Keep.foldl | (intro _ _ _) | (intro _ _)) | dsimp only | dsimp only [id] | simp only [Keep.mk_iff] | split | with_reducible refine Keep.of_eq2 (by assumption) ?_ | with_reducible refine Keep.of_eq3 (by assumption) ?_)

end Sys2Proof.Machine
end

