-- ==== Sys2Proof/Laws/KeepCompositor.lean ====
section
/-!
SUPPORT. The operations and meanings of Machine/Compositor.lean keep the queue, the fuses and the form of memory.
-/

namespace Sys2Proof.Machine

theorem State.setComp_keep {s0 : State} (s : State) (n : Nat) (c : Comp) (hk : Keep s0 s) : Keep s0 (State.setComp s n c) := by
  unfold State.setComp
  repeat' (first | with_reducible (first | assumption | exact Keep.refl _ | apply Keep.ite | apply Keep.ite2 | apply Keep.ite3 | intro _ | apply KeepRan.ite | apply KeepRan.stall | apply KeepRan.fault | apply KeepRan.done | apply KeepRan.held | refine KeepRan.stall' (by assumption) ?_ | refine KeepRan.fault' (by assumption) ?_ | refine KeepRan.done' (by assumption) ?_ | refine KeepRan.held' (by assumption) ?_ | apply hk_run | apply Keep.foldl3 | apply Keep.foldl2 | apply Keep.foldl | (intro _ _ _) | (intro _ _)) | dsimp only | dsimp only [id] | simp only [Keep.mk_iff] | split | with_reducible refine Keep.of_eq2 (by assumption) ?_ | with_reducible refine Keep.of_eq3 (by assumption) ?_)

theorem State.compCount_keep {s0 : State} (s : State) (slot i n : Nat) (hk : Keep s0 s) : Keep s0 (State.compCount s slot i n) := by
  unfold State.compCount
  repeat' (first | with_reducible (first | assumption | exact Keep.refl _ | apply Keep.ite | apply Keep.ite2 | apply Keep.ite3 | intro _ | apply State.count_keep | apply KeepRan.ite | apply KeepRan.stall | apply KeepRan.fault | apply KeepRan.done | apply KeepRan.held | refine KeepRan.stall' (by assumption) ?_ | refine KeepRan.fault' (by assumption) ?_ | refine KeepRan.done' (by assumption) ?_ | refine KeepRan.held' (by assumption) ?_ | apply hk_run | apply Keep.foldl3 | apply Keep.foldl2 | apply Keep.foldl | (intro _ _ _) | (intro _ _)) | dsimp only | dsimp only [id] | simp only [Keep.mk_iff] | split | with_reducible refine Keep.of_eq2 (by assumption) ?_ | with_reducible refine Keep.of_eq3 (by assumption) ?_)

theorem State.compCreate_keep {s0 : State} (s : State) (b : Nat) (hk : Keep s0 s) : Keep s0 (State.compCreate s b).2 := by
  unfold State.compCreate
  repeat' (first | with_reducible (first | assumption | exact Keep.refl _ | apply Keep.ite | apply Keep.ite2 | apply Keep.ite3 | intro _ | apply State.setWindow_keep | apply State.setComp_keep | apply KeepRan.ite | apply KeepRan.stall | apply KeepRan.fault | apply KeepRan.done | apply KeepRan.held | refine KeepRan.stall' (by assumption) ?_ | refine KeepRan.fault' (by assumption) ?_ | refine KeepRan.done' (by assumption) ?_ | refine KeepRan.held' (by assumption) ?_ | apply hk_run | apply Keep.foldl3 | apply Keep.foldl2 | apply Keep.foldl | (intro _ _ _) | (intro _ _)) | dsimp only | dsimp only [id] | simp only [Keep.mk_iff] | split | with_reducible refine Keep.of_eq2 (by assumption) ?_ | with_reducible refine Keep.of_eq3 (by assumption) ?_)

theorem State.contribute_keep {s0 : State} (s : State) (p ident contributor offset fmt : Nat) (codes : List Nat) (hk : Keep s0 s) : Keep s0 (State.contribute s p ident contributor offset fmt codes).2 := by
  unfold State.contribute
  repeat' (first | with_reducible (first | assumption | exact Keep.refl _ | apply Keep.ite | apply Keep.ite2 | apply Keep.ite3 | intro _ | apply State.count_keep | apply State.compCount_keep | apply State.setComp_keep | apply State.meterAdd_keep | apply State.spend_keep | apply KeepRan.ite | apply KeepRan.stall | apply KeepRan.fault | apply KeepRan.done | apply KeepRan.held | refine KeepRan.stall' (by assumption) ?_ | refine KeepRan.fault' (by assumption) ?_ | refine KeepRan.done' (by assumption) ?_ | refine KeepRan.held' (by assumption) ?_ | apply hk_run | apply Keep.foldl3 | apply Keep.foldl2 | apply Keep.foldl | (intro _ _ _) | (intro _ _)) | dsimp only | dsimp only [id] | simp only [Keep.mk_iff] | split | with_reducible refine Keep.of_eq2 (by assumption) ?_ | with_reducible refine Keep.of_eq3 (by assumption) ?_)

theorem State.serveContrib_keep {s0 : State} (s : State) (r : Req) (hk : Keep s0 s) : Keep s0 (State.serveContrib s r) := by
  unfold State.serveContrib
  repeat' (first | with_reducible (first | assumption | exact Keep.refl _ | apply Keep.ite | apply Keep.ite2 | apply Keep.ite3 | intro _ | apply State.count_keep | apply State.answerSt_keep | apply State.noteHeld_keep | apply State.hold_keep | apply State.contribute_keep | apply State.answer_keep | apply KeepRan.ite | apply KeepRan.stall | apply KeepRan.fault | apply KeepRan.done | apply KeepRan.held | refine KeepRan.stall' (by assumption) ?_ | refine KeepRan.fault' (by assumption) ?_ | refine KeepRan.done' (by assumption) ?_ | refine KeepRan.held' (by assumption) ?_ | apply hk_run | apply Keep.foldl3 | apply Keep.foldl2 | apply Keep.foldl | (intro _ _ _) | (intro _ _)) | dsimp only | dsimp only [id] | simp only [Keep.mk_iff] | split | with_reducible refine Keep.of_eq2 (by assumption) ?_ | with_reducible refine Keep.of_eq3 (by assumption) ?_)

theorem execReelContrib_keep (slot ctx stall : Nat) (cut : Bool) (t : Nat) (s : State) : ∃ q, execReelContrib slot ctx stall cut t s = .next q ∧ Keep s q := by
  unfold execReelContrib
  refine ⟨_, rfl, ?_⟩
  have hk := Keep.refl s
  repeat' (first | with_reducible (first | assumption | exact Keep.refl _ | apply Keep.ite | apply Keep.ite2 | apply Keep.ite3 | intro _ | apply State.issueInstr_keep | apply State.count_keep | apply State.noteHeld_keep | apply State.contribute_keep | apply State.setCtx_keep | apply State.draw_keep | apply State.tally_keep | apply KeepRan.ite | apply KeepRan.stall | apply KeepRan.fault | apply KeepRan.done | apply KeepRan.held | refine KeepRan.stall' (by assumption) ?_ | refine KeepRan.fault' (by assumption) ?_ | refine KeepRan.done' (by assumption) ?_ | refine KeepRan.held' (by assumption) ?_ | apply hk_run | apply Keep.foldl3 | apply Keep.foldl2 | apply Keep.foldl | (intro _ _ _) | (intro _ _)) | dsimp only | dsimp only [id] | simp only [Keep.mk_iff] | split | with_reducible refine Keep.of_eq2 (by assumption) ?_ | with_reducible refine Keep.of_eq3 (by assumption) ?_)

theorem execChunkComplete_keep (n i : Nat) (s : State) : ∃ q, execChunkComplete n i s = .next q ∧ Keep s q := by
  unfold execChunkComplete
  refine ⟨_, rfl, ?_⟩
  have hk := Keep.refl s
  repeat' (first | with_reducible (first | assumption | exact Keep.refl _ | apply Keep.ite | apply Keep.ite2 | apply Keep.ite3 | intro _ | apply State.noteHeld_keep | apply State.finish_keep | apply State.poolWaits_keep | apply State.agentCheck_keep | apply State.agentWrite_keep | apply State.noteFault_keep | apply State.setComp_keep | apply State.compCount_keep | apply KeepRan.ite | apply KeepRan.stall | apply KeepRan.fault | apply KeepRan.done | apply KeepRan.held | refine KeepRan.stall' (by assumption) ?_ | refine KeepRan.fault' (by assumption) ?_ | refine KeepRan.done' (by assumption) ?_ | refine KeepRan.held' (by assumption) ?_ | apply hk_run | apply Keep.foldl3 | apply Keep.foldl2 | apply Keep.foldl | (intro _ _ _) | (intro _ _)) | dsimp only | dsimp only [id] | simp only [Keep.mk_iff] | split | with_reducible refine Keep.of_eq2 (by assumption) ?_ | with_reducible refine Keep.of_eq3 (by assumption) ?_)

theorem State.compNotify_keep {s0 : State} (s : State) (n : Nat) (c : Comp) (value st : Nat) (hk : Keep s0 s) : Keep s0 (State.compNotify s n c value st) := by
  unfold State.compNotify
  repeat' (first | with_reducible (first | assumption | exact Keep.refl _ | apply Keep.ite | apply Keep.ite2 | apply Keep.ite3 | intro _ | apply State.notify_keep | apply KeepRan.ite | apply KeepRan.stall | apply KeepRan.fault | apply KeepRan.done | apply KeepRan.held | refine KeepRan.stall' (by assumption) ?_ | refine KeepRan.fault' (by assumption) ?_ | refine KeepRan.done' (by assumption) ?_ | refine KeepRan.held' (by assumption) ?_ | apply hk_run | apply Keep.foldl3 | apply Keep.foldl2 | apply Keep.foldl | (intro _ _ _) | (intro _ _)) | dsimp only | dsimp only [id] | simp only [Keep.mk_iff] | split | with_reducible refine Keep.of_eq2 (by assumption) ?_ | with_reducible refine Keep.of_eq3 (by assumption) ?_)

theorem execCompositeComplete_keep (n : Nat) (s : State) : ∃ q, execCompositeComplete n s = .next q ∧ Keep s q := by
  unfold execCompositeComplete
  refine ⟨_, rfl, ?_⟩
  have hk := Keep.refl s
  repeat' (first | with_reducible (first | assumption | exact Keep.refl _ | apply Keep.ite | apply Keep.ite2 | apply Keep.ite3 | intro _ | apply State.setComp_keep | apply State.compNotify_keep | apply KeepRan.ite | apply KeepRan.stall | apply KeepRan.fault | apply KeepRan.done | apply KeepRan.held | refine KeepRan.stall' (by assumption) ?_ | refine KeepRan.fault' (by assumption) ?_ | refine KeepRan.done' (by assumption) ?_ | refine KeepRan.held' (by assumption) ?_ | apply hk_run | apply Keep.foldl3 | apply Keep.foldl2 | apply Keep.foldl | (intro _ _ _) | (intro _ _)) | dsimp only | dsimp only [id] | simp only [Keep.mk_iff] | split | with_reducible refine Keep.of_eq2 (by assumption) ?_ | with_reducible refine Keep.of_eq3 (by assumption) ?_)

theorem execCompositeStall_keep (n : Nat) (s : State) : ∃ q, execCompositeStall n s = .next q ∧ Keep s q := by
  unfold execCompositeStall
  refine ⟨_, rfl, ?_⟩
  have hk := Keep.refl s
  repeat' (first | with_reducible (first | assumption | exact Keep.refl _ | apply Keep.ite | apply Keep.ite2 | apply Keep.ite3 | intro _ | apply State.setComp_keep | apply State.compCount_keep | apply State.compNotify_keep | apply KeepRan.ite | apply KeepRan.stall | apply KeepRan.fault | apply KeepRan.done | apply KeepRan.held | refine KeepRan.stall' (by assumption) ?_ | refine KeepRan.fault' (by assumption) ?_ | refine KeepRan.done' (by assumption) ?_ | refine KeepRan.held' (by assumption) ?_ | apply hk_run | apply Keep.foldl3 | apply Keep.foldl2 | apply Keep.foldl | (intro _ _ _) | (intro _ _)) | dsimp only | dsimp only [id] | simp only [Keep.mk_iff] | split | with_reducible refine Keep.of_eq2 (by assumption) ?_ | with_reducible refine Keep.of_eq3 (by assumption) ?_)

theorem State.compExcuse_keep {s0 : State} (s : State) (p v : Nat) (hk : Keep s0 s) : Keep s0 (State.compExcuse s p v).2 := by
  unfold State.compExcuse
  repeat' (first | with_reducible (first | assumption | exact Keep.refl _ | apply Keep.ite | apply Keep.ite2 | apply Keep.ite3 | intro _ | apply State.setComp_keep | apply KeepRan.ite | apply KeepRan.stall | apply KeepRan.fault | apply KeepRan.done | apply KeepRan.held | refine KeepRan.stall' (by assumption) ?_ | refine KeepRan.fault' (by assumption) ?_ | refine KeepRan.done' (by assumption) ?_ | refine KeepRan.held' (by assumption) ?_ | apply hk_run | apply Keep.foldl3 | apply Keep.foldl2 | apply Keep.foldl | (intro _ _ _) | (intro _ _)) | dsimp only | dsimp only [id] | simp only [Keep.mk_iff] | split | with_reducible refine Keep.of_eq2 (by assumption) ?_ | with_reducible refine Keep.of_eq3 (by assumption) ?_)

theorem State.compAbort_keep {s0 : State} (s : State) (n st code : Nat) (tell : Bool) (hk : Keep s0 s) : Keep s0 (State.compAbort s n st code tell) := by
  unfold State.compAbort
  repeat' (first | with_reducible (first | assumption | exact Keep.refl _ | apply Keep.ite | apply Keep.ite2 | apply Keep.ite3 | intro _ | apply State.compCount_keep | apply State.setComp_keep | apply State.compNotify_keep | apply KeepRan.ite | apply KeepRan.stall | apply KeepRan.fault | apply KeepRan.done | apply KeepRan.held | refine KeepRan.stall' (by assumption) ?_ | refine KeepRan.fault' (by assumption) ?_ | refine KeepRan.done' (by assumption) ?_ | refine KeepRan.held' (by assumption) ?_ | apply hk_run | apply Keep.foldl3 | apply Keep.foldl2 | apply Keep.foldl | (intro _ _ _) | (intro _ _)) | dsimp only | dsimp only [id] | simp only [Keep.mk_iff] | split | with_reducible refine Keep.of_eq2 (by assumption) ?_ | with_reducible refine Keep.of_eq3 (by assumption) ?_)

theorem State.compClose_keep {s0 : State} (s : State) (p v : Nat) (hk : Keep s0 s) : Keep s0 (State.compClose s p v).2 := by
  unfold State.compClose
  repeat' (first | with_reducible (first | assumption | exact Keep.refl _ | apply Keep.ite | apply Keep.ite2 | apply Keep.ite3 | intro _ | apply State.compAbort_keep | apply KeepRan.ite | apply KeepRan.stall | apply KeepRan.fault | apply KeepRan.done | apply KeepRan.held | refine KeepRan.stall' (by assumption) ?_ | refine KeepRan.fault' (by assumption) ?_ | refine KeepRan.done' (by assumption) ?_ | refine KeepRan.held' (by assumption) ?_ | apply hk_run | apply Keep.foldl3 | apply Keep.foldl2 | apply Keep.foldl | (intro _ _ _) | (intro _ _)) | dsimp only | dsimp only [id] | simp only [Keep.mk_iff] | split | with_reducible refine Keep.of_eq2 (by assumption) ?_ | with_reducible refine Keep.of_eq3 (by assumption) ?_)

theorem State.shrinkComps_keep {s0 : State} (k p : Nat) (s : State) (hk : Keep s0 s) : Keep s0 (State.shrinkComps k p s) := by
  induction k generalizing s with
  | zero => exact hk
  | succ k ih =>
    unfold State.shrinkComps
    split
    · exact hk
    · split
      · exact hk
      · apply ih
        apply State.compAbort_keep
        exact hk

theorem State.compTake_keep {s0 : State} (s : State) (freed remapped : List Nat) (gone : List (Nat × Nat × Nat)) (hk : Keep s0 s) : Keep s0 (State.compTake s freed remapped gone) := by
  unfold State.compTake
  repeat' (first | with_reducible (first | assumption | exact Keep.refl _ | apply Keep.ite | apply Keep.ite2 | apply Keep.ite3 | intro _ | apply State.compAbort_keep | apply State.shrinkComps_keep | apply KeepRan.ite | apply KeepRan.stall | apply KeepRan.fault | apply KeepRan.done | apply KeepRan.held | refine KeepRan.stall' (by assumption) ?_ | refine KeepRan.fault' (by assumption) ?_ | refine KeepRan.done' (by assumption) ?_ | refine KeepRan.held' (by assumption) ?_ | apply hk_run | apply Keep.foldl3 | apply Keep.foldl2 | apply Keep.foldl | (intro _ _ _) | (intro _ _)) | dsimp only | dsimp only [id] | simp only [Keep.mk_iff] | split | with_reducible refine Keep.of_eq2 (by assumption) ?_ | with_reducible refine Keep.of_eq3 (by assumption) ?_)

theorem State.compSlate_keep {s0 : State} (s : State) (hk : Keep s0 s) : Keep s0 (State.compSlate s) := by
  unfold State.compSlate
  repeat' (first | with_reducible (first | assumption | exact Keep.refl _ | apply Keep.ite | apply Keep.ite2 | apply Keep.ite3 | intro _ | apply KeepRan.ite | apply KeepRan.stall | apply KeepRan.fault | apply KeepRan.done | apply KeepRan.held | refine KeepRan.stall' (by assumption) ?_ | refine KeepRan.fault' (by assumption) ?_ | refine KeepRan.done' (by assumption) ?_ | refine KeepRan.held' (by assumption) ?_ | apply hk_run | apply Keep.foldl3 | apply Keep.foldl2 | apply Keep.foldl | (intro _ _ _) | (intro _ _)) | dsimp only | dsimp only [id] | simp only [Keep.mk_iff] | split | with_reducible refine Keep.of_eq2 (by assumption) ?_ | with_reducible refine Keep.of_eq3 (by assumption) ?_)

end Sys2Proof.Machine
end

