-- ==== Sys2Proof/Laws/KeepPublish.lean ====
section
/-!
SUPPORT. The operations and meanings of Machine/Publish.lean keep the queue, the fuses and the form of memory.
-/

namespace Sys2Proof.Machine

theorem State.servePublish_keep {s0 : State} (s : State) (r : Req) (hk : Keep s0 s) : Keep s0 (State.servePublish s r) := by
  unfold State.servePublish
  repeat' (first | with_reducible (first | assumption | exact Keep.refl _ | apply Keep.ite | apply Keep.ite2 | apply Keep.ite3 | intro _ | apply State.hold_keep | apply State.answerSt_keep | apply State.answer_keep | apply State.count_keep | apply Keep.foldl3 | apply Keep.foldl2 | apply Keep.foldl | (intro _ _ _) | (intro _ _)) | dsimp only | dsimp only [id] | simp only [Keep.mk_iff] | split | with_reducible refine Keep.of_eq2 (by assumption) ?_ | with_reducible refine Keep.of_eq3 (by assumption) ?_)

theorem State.serveRegion_keep {s0 : State} (s : State) (p g : Nat) (hk : Keep s0 s) : Keep s0 (State.serveRegion s p g) := by
  unfold State.serveRegion
  repeat' (first | with_reducible (first | assumption | exact Keep.refl _ | apply Keep.ite | apply Keep.ite2 | apply Keep.ite3 | intro _ | apply State.release_keep | apply State.servePublish_keep | apply Keep.foldl3 | apply Keep.foldl2 | apply Keep.foldl | (intro _ _ _) | (intro _ _)) | dsimp only | dsimp only [id] | simp only [Keep.mk_iff] | split | with_reducible refine Keep.of_eq2 (by assumption) ?_ | with_reducible refine Keep.of_eq3 (by assumption) ?_)

theorem State.flipDone_keep {s0 : State} (s : State) (p g : Nat) (hk : Keep s0 s) : Keep s0 (State.flipDone s p g) := by
  unfold State.flipDone
  repeat' (first | with_reducible (first | assumption | exact Keep.refl _ | apply Keep.ite | apply Keep.ite2 | apply Keep.ite3 | intro _ | apply State.partMade_keep | apply State.wrs_keep | apply State.count_keep | apply State.answer_keep | apply State.serveRegion_keep | apply Keep.foldl3 | apply Keep.foldl2 | apply Keep.foldl | (intro _ _ _) | (intro _ _)) | dsimp only | dsimp only [id] | simp only [Keep.mk_iff] | split | with_reducible refine Keep.of_eq2 (by assumption) ?_ | with_reducible refine Keep.of_eq3 (by assumption) ?_)

end Sys2Proof.Machine
end

