-- ==== Sys2Proof/Laws/KeepLink.lean ====
section
/-!
SUPPORT. The operations and meanings of Machine/Link.lean keep the queue, the fuses and the form of memory.
-/

namespace Sys2Proof.Machine

theorem State.setLink_keep {s0 : State} (s : State) (p : Nat) (v : Link) (hk : Keep s0 s) : Keep s0 (State.setLink s p v) := by
  unfold State.setLink
  repeat' (first | with_reducible (first | assumption | exact Keep.refl _ | apply Keep.ite | apply Keep.ite2 | apply Keep.ite3 | intro _ | apply Keep.foldl3 | apply Keep.foldl2 | apply Keep.foldl | (intro _ _ _) | (intro _ _)) | dsimp only | dsimp only [id] | simp only [Keep.mk_iff] | split | with_reducible refine Keep.of_eq2 (by assumption) ?_ | with_reducible refine Keep.of_eq3 (by assumption) ?_)

theorem State.updLink_keep {s0 : State} (s : State) (p : Nat) (f : Link → Link) (hk : Keep s0 s) : Keep s0 (State.updLink s p f) := by
  unfold State.updLink
  repeat' (first | with_reducible (first | assumption | exact Keep.refl _ | apply Keep.ite | apply Keep.ite2 | apply Keep.ite3 | intro _ | apply State.setLink_keep | apply Keep.foldl3 | apply Keep.foldl2 | apply Keep.foldl | (intro _ _ _) | (intro _ _)) | dsimp only | dsimp only [id] | simp only [Keep.mk_iff] | split | with_reducible refine Keep.of_eq2 (by assumption) ?_ | with_reducible refine Keep.of_eq3 (by assumption) ?_)

theorem State.linkEvent_keep {s0 : State} (s : State) (p i : Nat) (hk : Keep s0 s) : Keep s0 (State.linkEvent s p i) := by
  unfold State.linkEvent
  repeat' (first | with_reducible (first | assumption | exact Keep.refl _ | apply Keep.ite | apply Keep.ite2 | apply Keep.ite3 | intro _ | apply State.count_keep | apply Keep.foldl3 | apply Keep.foldl2 | apply Keep.foldl | (intro _ _ _) | (intro _ _)) | dsimp only | dsimp only [id] | simp only [Keep.mk_iff] | split | with_reducible refine Keep.of_eq2 (by assumption) ?_ | with_reducible refine Keep.of_eq3 (by assumption) ?_)

theorem State.showCredit_keep {s0 : State} (s : State) (p : Nat) (hk : Keep s0 s) : Keep s0 (State.showCredit s p) := by
  unfold State.showCredit
  repeat' (first | with_reducible (first | assumption | exact Keep.refl _ | apply Keep.ite | apply Keep.ite2 | apply Keep.ite3 | intro _ | apply State.wrs_keep | apply Keep.foldl3 | apply Keep.foldl2 | apply Keep.foldl | (intro _ _ _) | (intro _ _)) | dsimp only | dsimp only [id] | simp only [Keep.mk_iff] | split | with_reducible refine Keep.of_eq2 (by assumption) ?_ | with_reducible refine Keep.of_eq3 (by assumption) ?_)

theorem State.showTrain_keep {s0 : State} (s : State) (p : Nat) (hk : Keep s0 s) : Keep s0 (State.showTrain s p) := by
  unfold State.showTrain
  repeat' (first | with_reducible (first | assumption | exact Keep.refl _ | apply Keep.ite | apply Keep.ite2 | apply Keep.ite3 | intro _ | apply State.updLink_keep | apply Keep.foldl3 | apply Keep.foldl2 | apply Keep.foldl | (intro _ _ _) | (intro _ _)) | dsimp only | dsimp only [id] | simp only [Keep.mk_iff] | split | with_reducible refine Keep.of_eq2 (by assumption) ?_ | with_reducible refine Keep.of_eq3 (by assumption) ?_)

theorem State.sessionEnd_keep {s0 : State} (s : State) (p : Nat) (hk : Keep s0 s) : Keep s0 (State.sessionEnd s p) := by
  unfold State.sessionEnd
  repeat' (first | with_reducible (first | assumption | exact Keep.refl _ | apply Keep.ite | apply Keep.ite2 | apply Keep.ite3 | intro _ | apply State.setLink_keep | apply State.setPort_keep | apply State.count_keep | apply State.linkEvent_keep | apply State.wr_keep | apply State.showTrain_keep | apply State.showCredit_keep | apply Keep.foldl3 | apply Keep.foldl2 | apply Keep.foldl | (intro _ _ _) | (intro _ _)) | dsimp only | dsimp only [id] | simp only [Keep.mk_iff] | split | with_reducible refine Keep.of_eq2 (by assumption) ?_ | with_reducible refine Keep.of_eq3 (by assumption) ?_)

theorem State.sendCtl_keep {s0 : State} (s : State) (p ctype : Nat) (body : List Byte) (hk : Keep s0 s) : Keep s0 (State.sendCtl s p ctype body) := by
  unfold State.sendCtl
  repeat' (first | with_reducible (first | assumption | exact Keep.refl _ | apply Keep.ite | apply Keep.ite2 | apply Keep.ite3 | intro _ | apply State.reserveOut_keep | apply State.count_keep | apply State.setLink_keep | apply Keep.foldl3 | apply Keep.foldl2 | apply Keep.foldl | (intro _ _ _) | (intro _ _)) | dsimp only | dsimp only [id] | simp only [Keep.mk_iff] | split | with_reducible refine Keep.of_eq2 (by assumption) ?_ | with_reducible refine Keep.of_eq3 (by assumption) ?_)

theorem State.replayReq_keep {s0 : State} (s : State) (p reason : Nat) (hk : Keep s0 s) : Keep s0 (State.replayReq s p reason) := by
  unfold State.replayReq
  repeat' (first | with_reducible (first | assumption | exact Keep.refl _ | apply Keep.ite | apply Keep.ite2 | apply Keep.ite3 | intro _ | apply State.sendCtl_keep | apply State.updLink_keep | apply State.linkEvent_keep | apply Keep.foldl3 | apply Keep.foldl2 | apply Keep.foldl | (intro _ _ _) | (intro _ _)) | dsimp only | dsimp only [id] | simp only [Keep.mk_iff] | split | with_reducible refine Keep.of_eq2 (by assumption) ?_ | with_reducible refine Keep.of_eq3 (by assumption) ?_)

theorem State.sendSeq_keep {s0 : State} (s : State) (p ctype vc : Nat) (d : List Byte) (hk : Keep s0 s) : Keep s0 (State.sendSeq s p ctype vc d) := by
  unfold State.sendSeq
  repeat' (first | with_reducible (first | assumption | exact Keep.refl _ | apply Keep.ite | apply Keep.ite2 | apply Keep.ite3 | intro _ | apply State.setLink_keep | apply State.showCredit_keep | apply Keep.foldl3 | apply Keep.foldl2 | apply Keep.foldl | (intro _ _ _) | (intro _ _)) | dsimp only | dsimp only [id] | simp only [Keep.mk_iff] | split | with_reducible refine Keep.of_eq2 (by assumption) ?_ | with_reducible refine Keep.of_eq3 (by assumption) ?_)

theorem State.resendCell_keep {s0 : State} (s : State) (p : Nat) (hk : Keep s0 s) : Keep s0 (State.resendCell s p) := by
  unfold State.resendCell
  repeat' (first | with_reducible (first | assumption | exact Keep.refl _ | apply Keep.ite | apply Keep.ite2 | apply Keep.ite3 | intro _ | apply State.count_keep | apply State.setLink_keep | apply State.reserveOut_keep | apply Keep.foldl3 | apply Keep.foldl2 | apply Keep.foldl | (intro _ _ _) | (intro _ _)) | dsimp only | dsimp only [id] | simp only [Keep.mk_iff] | split | with_reducible refine Keep.of_eq2 (by assumption) ?_ | with_reducible refine Keep.of_eq3 (by assumption) ?_)

theorem State.serialise_keep {s0 : State} (s : State) (p vc : Nat) (hk : Keep s0 s) : Keep s0 (State.serialise s p vc) := by
  unfold State.serialise
  repeat' (first | with_reducible (first | assumption | exact Keep.refl _ | apply Keep.ite | apply Keep.ite2 | apply Keep.ite3 | intro _ | apply State.setPort_keep | apply Keep.foldl3 | apply Keep.foldl2 | apply Keep.foldl | (intro _ _ _) | (intro _ _)) | dsimp only | dsimp only [id] | simp only [Keep.mk_iff] | split | with_reducible refine Keep.of_eq2 (by assumption) ?_ | with_reducible refine Keep.of_eq3 (by assumption) ?_)

theorem State.txSlot_keep {s0 : State} (s : State) (p vc : Nat) (hk : Keep s0 s) : Keep s0 (State.txSlot s p vc) := by
  unfold State.txSlot
  repeat' (first | with_reducible (first | assumption | exact Keep.refl _ | apply Keep.ite | apply Keep.ite2 | apply Keep.ite3 | intro _ | apply State.resendCell_keep | apply State.serialise_keep | apply State.updPort_keep | apply State.sendSeq_keep | apply State.sendCtl_keep | apply Keep.foldl3 | apply Keep.foldl2 | apply Keep.foldl | (intro _ _ _) | (intro _ _)) | dsimp only | dsimp only [id] | simp only [Keep.mk_iff] | split | with_reducible refine Keep.of_eq2 (by assumption) ?_ | with_reducible refine Keep.of_eq3 (by assumption) ?_)

theorem State.cellArrives_keep {s0 : State} (s : State) (p : Nat) (hk : Keep s0 s) : Keep s0 (State.cellArrives s p).2 := by
  unfold State.cellArrives
  repeat' (first | with_reducible (first | assumption | exact Keep.refl _ | apply Keep.ite | apply Keep.ite2 | apply Keep.ite3 | intro _ | apply State.setLink_keep | apply Keep.foldl3 | apply Keep.foldl2 | apply Keep.foldl | (intro _ _ _) | (intro _ _)) | dsimp only | dsimp only [id] | simp only [Keep.mk_iff] | split | with_reducible refine Keep.of_eq2 (by assumption) ?_ | with_reducible refine Keep.of_eq3 (by assumption) ?_)

theorem State.crcDrop_keep {s0 : State} (s : State) (p : Nat) (lost : Bool) (hk : Keep s0 s) : Keep s0 (State.crcDrop s p lost) := by
  unfold State.crcDrop
  repeat' (first | with_reducible (first | assumption | exact Keep.refl _ | apply Keep.ite | apply Keep.ite2 | apply Keep.ite3 | intro _ | apply State.updLink_keep | apply State.linkEvent_keep | apply Keep.foldl3 | apply Keep.foldl2 | apply Keep.foldl | (intro _ _ _) | (intro _ _)) | dsimp only | dsimp only [id] | simp only [Keep.mk_iff] | split | with_reducible refine Keep.of_eq2 (by assumption) ?_ | with_reducible refine Keep.of_eq3 (by assumption) ?_)

theorem State.flipPhase_keep {s0 : State} (s : State) (p : Nat) (hk : Keep s0 s) : Keep s0 (State.flipPhase s p) := by
  unfold State.flipPhase
  repeat' (first | with_reducible (first | assumption | exact Keep.refl _ | apply Keep.ite | apply Keep.ite2 | apply Keep.ite3 | intro _ | apply State.setLink_keep | apply State.wr_keep | apply Keep.foldl3 | apply Keep.foldl2 | apply Keep.foldl | (intro _ _ _) | (intro _ _)) | dsimp only | dsimp only [id] | simp only [Keep.mk_iff] | split | with_reducible refine Keep.of_eq2 (by assumption) ?_ | with_reducible refine Keep.of_eq3 (by assumption) ?_)

theorem State.ackIn_keep {s0 : State} (s : State) (p h : Nat) (hk : Keep s0 s) : Keep s0 (State.ackIn s p h) := by
  unfold State.ackIn
  repeat' (first | with_reducible (first | assumption | exact Keep.refl _ | apply Keep.ite | apply Keep.ite2 | apply Keep.ite3 | intro _ | apply State.count_keep | apply State.setLink_keep | apply State.showCredit_keep | apply State.flipPhase_keep | apply State.linkEvent_keep | apply Keep.foldl3 | apply Keep.foldl2 | apply Keep.foldl | (intro _ _ _) | (intro _ _)) | dsimp only | dsimp only [id] | simp only [Keep.mk_iff] | split | with_reducible refine Keep.of_eq2 (by assumption) ?_ | with_reducible refine Keep.of_eq3 (by assumption) ?_)

theorem State.creditIn_keep {s0 : State} (s : State) (p h : Nat) (hk : Keep s0 s) : Keep s0 (State.creditIn s p h) := by
  unfold State.creditIn
  repeat' (first | with_reducible (first | assumption | exact Keep.refl _ | apply Keep.ite | apply Keep.ite2 | apply Keep.ite3 | intro _ | apply State.setLink_keep | apply State.showCredit_keep | apply Keep.foldl3 | apply Keep.foldl2 | apply Keep.foldl | (intro _ _ _) | (intro _ _)) | dsimp only | dsimp only [id] | simp only [Keep.mk_iff] | split | with_reducible refine Keep.of_eq2 (by assumption) ?_ | with_reducible refine Keep.of_eq3 (by assumption) ?_)

theorem State.rxCtl_keep {s0 s : State} {p h : Nat} {payload : List Byte} {crcOk tagOk : Bool} {t : State}
    (e : State.rxCtl s p h payload crcOk tagOk = some t) (hk : Keep s0 s) : Keep s0 t := by
  unfold State.rxCtl at e
  dsimp only at e
  have k1 : Keep s0 (((s.setLink p { s.link p with lastCcount := some (leAt payload 0 8), crcRun := 0 }).ackIn p h).creditIn p h) :=
    State.creditIn_keep _ _ _ (State.ackIn_keep _ _ _ (State.setLink_keep _ _ _ hk))
  rw [Option.ite_none_left_eq_some, Option.ite_none_left_eq_some, Option.ite_none_left_eq_some] at e
  have e := e.2.2.2
  split at e
  · have e := Option.some.inj e
    subst e
    exact State.updLink_keep _ _ _ (State.replayReq_keep _ _ _ k1)
  · have e := Option.some.inj e
    subst e
    exact k1

theorem State.rxCtlDrop_keep {s0 : State} (s : State) (p h : Nat) (lost crcOk tagOk : Bool) (hk : Keep s0 s) : Keep s0 (State.rxCtlDrop s p h lost crcOk tagOk) := by
  unfold State.rxCtlDrop
  repeat' (first | with_reducible (first | assumption | exact Keep.refl _ | apply Keep.ite | apply Keep.ite2 | apply Keep.ite3 | intro _ | apply State.crcDrop_keep | apply State.linkEvent_keep | apply State.updLink_keep | apply Keep.foldl3 | apply Keep.foldl2 | apply Keep.foldl | (intro _ _ _) | (intro _ _)) | dsimp only | dsimp only [id] | simp only [Keep.mk_iff] | split | with_reducible refine Keep.of_eq2 (by assumption) ?_ | with_reducible refine Keep.of_eq3 (by assumption) ?_)

theorem State.onCtl_keep {s0 : State} (s : State) (p h : Nat) (payload : List Byte) (crcOk tagOk : Bool) (f : State → State) (hk : Keep s0 s) (hk_f : ∀ u, Keep s0 u → Keep s0 (f u)) : Keep s0 (State.onCtl s p h payload crcOk tagOk f) := by
  unfold State.onCtl
  repeat' (first | with_reducible (first | assumption | exact Keep.refl _ | apply Keep.ite | apply Keep.ite2 | apply Keep.ite3 | intro _ | apply hk_f | apply State.cellArrives_keep | apply State.reserveIn_keep | refine State.rxCtl_keep (by assumption) ?_ | apply State.rxCtlDrop_keep | apply Keep.foldl3 | apply Keep.foldl2 | apply Keep.foldl | (intro _ _ _) | (intro _ _)) | dsimp only | dsimp only [id] | simp only [Keep.mk_iff] | split | with_reducible refine Keep.of_eq2 (by assumption) ?_ | with_reducible refine Keep.of_eq3 (by assumption) ?_)

theorem State.creditBack_keep {s0 : State} (s : State) (p v : Nat) (hk : Keep s0 s) : Keep s0 (State.creditBack s p v) := by
  unfold State.creditBack
  repeat' (first | with_reducible (first | assumption | exact Keep.refl _ | apply Keep.ite | apply Keep.ite2 | apply Keep.ite3 | intro _ | apply State.updLink_keep | apply Keep.foldl3 | apply Keep.foldl2 | apply Keep.foldl | (intro _ _ _) | (intro _ _)) | dsimp only | dsimp only [id] | simp only [Keep.mk_iff] | split | with_reducible refine Keep.of_eq2 (by assumption) ?_ | with_reducible refine Keep.of_eq3 (by assumption) ?_)

theorem State.acceptSeq_keep {s0 : State} (s : State) (p h : Nat) (hk : Keep s0 s) : Keep s0 (State.acceptSeq s p h) := by
  unfold State.acceptSeq
  repeat' (first | with_reducible (first | assumption | exact Keep.refl _ | apply Keep.ite | apply Keep.ite2 | apply Keep.ite3 | intro _ | apply State.setLink_keep | apply State.wr_keep | apply State.ackIn_keep | apply State.creditIn_keep | apply Keep.foldl3 | apply Keep.foldl2 | apply Keep.foldl | (intro _ _ _) | (intro _ _)) | dsimp only | dsimp only [id] | simp only [Keep.mk_iff] | split | with_reducible refine Keep.of_eq2 (by assumption) ?_ | with_reducible refine Keep.of_eq3 (by assumption) ?_)

theorem State.rxSeq_keep {s0 : State} (s : State) (p h : Nat) (crcOk tagOk : Bool) (hk : Keep s0 s) : Keep s0 (State.rxSeq s p h crcOk tagOk).2 := by
  unfold State.rxSeq
  repeat' (first | with_reducible (first | assumption | exact Keep.refl _ | apply Keep.ite | apply Keep.ite2 | apply Keep.ite3 | intro _ | apply State.cellArrives_keep | apply State.crcDrop_keep | apply State.updLink_keep | apply State.linkEvent_keep | apply State.reserveIn_keep | apply State.replayReq_keep | apply State.acceptSeq_keep | apply Keep.foldl3 | apply Keep.foldl2 | apply Keep.foldl | (intro _ _ _) | (intro _ _)) | dsimp only | dsimp only [id] | simp only [Keep.mk_iff] | split | with_reducible refine Keep.of_eq2 (by assumption) ?_ | with_reducible refine Keep.of_eq3 (by assumption) ?_)

theorem State.replayAsked_keep {s0 : State} (s : State) (p req : Nat) (hk : Keep s0 s) : Keep s0 (State.replayAsked s p req) := by
  unfold State.replayAsked
  repeat' (first | with_reducible (first | assumption | exact Keep.refl _ | apply Keep.ite | apply Keep.ite2 | apply Keep.ite3 | intro _ | apply State.setLink_keep | apply State.linkEvent_keep | apply Keep.foldl3 | apply Keep.foldl2 | apply Keep.foldl | (intro _ _ _) | (intro _ _)) | dsimp only | dsimp only [id] | simp only [Keep.mk_iff] | split | with_reducible refine Keep.of_eq2 (by assumption) ?_ | with_reducible refine Keep.of_eq3 (by assumption) ?_)

theorem State.creditSync_keep {s0 : State} (s : State) (p : Nat) (payload : List Byte) (hk : Keep s0 s) : Keep s0 (State.creditSync s p payload) := by
  unfold State.creditSync
  repeat' (first | with_reducible (first | assumption | exact Keep.refl _ | apply Keep.ite | apply Keep.ite2 | apply Keep.ite3 | intro _ | apply State.linkEvent_keep | apply State.updLink_keep | apply State.showCredit_keep | apply Keep.foldl3 | apply Keep.foldl2 | apply Keep.foldl | (intro _ _ _) | (intro _ _)) | dsimp only | dsimp only [id] | simp only [Keep.mk_iff] | split | with_reducible refine Keep.of_eq2 (by assumption) ?_ | with_reducible refine Keep.of_eq3 (by assumption) ?_)

theorem State.sendCreditSync_keep {s0 : State} (s : State) (p : Nat) (hk : Keep s0 s) : Keep s0 (State.sendCreditSync s p) := by
  unfold State.sendCreditSync
  repeat' (first | with_reducible (first | assumption | exact Keep.refl _ | apply Keep.ite | apply Keep.ite2 | apply Keep.ite3 | intro _ | apply State.setLink_keep | apply State.sendCtl_keep | apply Keep.foldl3 | apply Keep.foldl2 | apply Keep.foldl | (intro _ _ _) | (intro _ _)) | dsimp only | dsimp only [id] | simp only [Keep.mk_iff] | split | with_reducible refine Keep.of_eq2 (by assumption) ?_ | with_reducible refine Keep.of_eq3 (by assumption) ?_)

theorem State.spliceResult_keep {s0 : State} (s : State) (p : Nat) (x : Splice) (result us : Nat) (hk : Keep s0 s) : Keep s0 (State.spliceResult s p x result us) := by
  unfold State.spliceResult
  repeat' (first | with_reducible (first | assumption | exact Keep.refl _ | apply Keep.ite | apply Keep.ite2 | apply Keep.ite3 | intro _ | apply State.wr_keep | apply Keep.foldl3 | apply Keep.foldl2 | apply Keep.foldl | (intro _ _ _) | (intro _ _)) | dsimp only | dsimp only [id] | simp only [Keep.mk_iff] | split | with_reducible refine Keep.of_eq2 (by assumption) ?_ | with_reducible refine Keep.of_eq3 (by assumption) ?_)

theorem State.beginSplice_keep {s0 : State} (s : State) (p kind width speed mask : Nat) (hk : Keep s0 s) : Keep s0 (State.beginSplice s p kind width speed mask).2 := by
  unfold State.beginSplice
  repeat' (first | with_reducible (first | assumption | exact Keep.refl _ | apply Keep.ite | apply Keep.ite2 | apply Keep.ite3 | intro _ | apply State.setLink_keep | apply State.sendCtl_keep | apply Keep.foldl3 | apply Keep.foldl2 | apply Keep.foldl | (intro _ _ _) | (intro _ _)) | dsimp only | dsimp only [id] | simp only [Keep.mk_iff] | split | with_reducible refine Keep.of_eq2 (by assumption) ?_ | with_reducible refine Keep.of_eq3 (by assumption) ?_)

theorem State.needSplice_keep {s0 : State} (s : State) (p kind width speed mask : Nat) (hk : Keep s0 s) : Keep s0 (State.needSplice s p kind width speed mask) := by
  unfold State.needSplice
  repeat' (first | with_reducible (first | assumption | exact Keep.refl _ | apply Keep.ite | apply Keep.ite2 | apply Keep.ite3 | intro _ | apply State.beginSplice_keep | apply State.updLink_keep | apply Keep.foldl3 | apply Keep.foldl2 | apply Keep.foldl | (intro _ _ _) | (intro _ _)) | dsimp only | dsimp only [id] | simp only [Keep.mk_iff] | split | with_reducible refine Keep.of_eq2 (by assumption) ?_ | with_reducible refine Keep.of_eq3 (by assumption) ?_)

theorem State.recalibrate_keep {s0 : State} (s : State) (p : Nat) (hk : Keep s0 s) : Keep s0 (State.recalibrate s p) := by
  unfold State.recalibrate
  repeat' (first | with_reducible (first | assumption | exact Keep.refl _ | apply Keep.ite | apply Keep.ite2 | apply Keep.ite3 | intro _ | apply State.needSplice_keep | apply Keep.foldl3 | apply Keep.foldl2 | apply Keep.foldl | (intro _ _ _) | (intro _ _)) | dsimp only | dsimp only [id] | simp only [Keep.mk_iff] | split | with_reducible refine Keep.of_eq2 (by assumption) ?_ | with_reducible refine Keep.of_eq3 (by assumption) ?_)

theorem State.degradeSplice_keep {s0 : State} (s : State) (p : Nat) (hk : Keep s0 s) : Keep s0 (State.degradeSplice s p) := by
  unfold State.degradeSplice
  repeat' (first | with_reducible (first | assumption | exact Keep.refl _ | apply Keep.ite | apply Keep.ite2 | apply Keep.ite3 | intro _ | apply State.needSplice_keep | apply Keep.foldl3 | apply Keep.foldl2 | apply Keep.foldl | (intro _ _ _) | (intro _ _)) | dsimp only | dsimp only [id] | simp only [Keep.mk_iff] | split | with_reducible refine Keep.of_eq2 (by assumption) ?_ | with_reducible refine Keep.of_eq3 (by assumption) ?_)

theorem State.dueSplice_keep {s0 : State} (s : State) (p : Nat) (hk : Keep s0 s) : Keep s0 (State.dueSplice s p) := by
  unfold State.dueSplice
  repeat' (first | with_reducible (first | assumption | exact Keep.refl _ | apply Keep.ite | apply Keep.ite2 | apply Keep.ite3 | intro _ | apply State.degradeSplice_keep | apply State.recalibrate_keep | apply State.needSplice_keep | apply Keep.foldl3 | apply Keep.foldl2 | apply Keep.foldl | (intro _ _ _) | (intro _ _)) | dsimp only | dsimp only [id] | simp only [Keep.mk_iff] | split | with_reducible refine Keep.of_eq2 (by assumption) ?_ | with_reducible refine Keep.of_eq3 (by assumption) ?_)

theorem State.pause_keep {s0 : State} (s : State) (p : Nat) (x : Splice) (hk : Keep s0 s) : Keep s0 (State.pause s p x) := by
  unfold State.pause
  repeat' (first | with_reducible (first | assumption | exact Keep.refl _ | apply Keep.ite | apply Keep.ite2 | apply Keep.ite3 | intro _ | apply State.setLink_keep | apply State.sendCtl_keep | apply State.wr_keep | apply State.showTrain_keep | apply Keep.foldl3 | apply Keep.foldl2 | apply Keep.foldl | (intro _ _ _) | (intro _ _)) | dsimp only | dsimp only [id] | simp only [Keep.mk_iff] | split | with_reducible refine Keep.of_eq2 (by assumption) ?_ | with_reducible refine Keep.of_eq3 (by assumption) ?_)

theorem State.spliceAsked_keep {s0 : State} (s : State) (p : Nat) (b : List Byte) (hk : Keep s0 s) : Keep s0 (State.spliceAsked s p b) := by
  unfold State.spliceAsked
  repeat' (first | with_reducible (first | assumption | exact Keep.refl _ | apply Keep.ite | apply Keep.ite2 | apply Keep.ite3 | intro _ | apply State.linkEvent_keep | apply State.wr_keep | apply State.updLink_keep | apply State.sendCtl_keep | apply State.pause_keep | apply Keep.foldl3 | apply Keep.foldl2 | apply Keep.foldl | (intro _ _ _) | (intro _ _)) | dsimp only | dsimp only [id] | simp only [Keep.mk_iff] | split | with_reducible refine Keep.of_eq2 (by assumption) ?_ | with_reducible refine Keep.of_eq3 (by assumption) ?_)

theorem State.spliceAgreed_keep {s0 : State} (s : State) (p : Nat) (b : List Byte) (hk : Keep s0 s) : Keep s0 (State.spliceAgreed s p b) := by
  unfold State.spliceAgreed
  repeat' (first | with_reducible (first | assumption | exact Keep.refl _ | apply Keep.ite | apply Keep.ite2 | apply Keep.ite3 | intro _ | apply State.linkEvent_keep | apply State.pause_keep | apply Keep.foldl3 | apply Keep.foldl2 | apply Keep.foldl | (intro _ _ _) | (intro _ _)) | dsimp only | dsimp only [id] | simp only [Keep.mk_iff] | split | with_reducible refine Keep.of_eq2 (by assumption) ?_ | with_reducible refine Keep.of_eq3 (by assumption) ?_)

theorem State.splicePaused_keep {s0 : State} (s : State) (p : Nat) (b : List Byte) (hk : Keep s0 s) : Keep s0 (State.splicePaused s p b) := by
  unfold State.splicePaused
  repeat' (first | with_reducible (first | assumption | exact Keep.refl _ | apply Keep.ite | apply Keep.ite2 | apply Keep.ite3 | intro _ | apply State.updLink_keep | apply Keep.foldl3 | apply Keep.foldl2 | apply Keep.foldl | (intro _ _ _) | (intro _ _)) | dsimp only | dsimp only [id] | simp only [Keep.mk_iff] | split | with_reducible refine Keep.of_eq2 (by assumption) ?_ | with_reducible refine Keep.of_eq3 (by assumption) ?_)

theorem State.fullLinkUp_keep {s0 : State} (s : State) (p : Nat) (hk : Keep s0 s) : Keep s0 (State.fullLinkUp s p) := by
  unfold State.fullLinkUp
  repeat' (first | with_reducible (first | assumption | exact Keep.refl _ | apply Keep.ite | apply Keep.ite2 | apply Keep.ite3 | intro _ | apply State.sessionEnd_keep | apply State.updLink_keep | apply State.wr_keep | apply State.showTrain_keep | apply Keep.foldl3 | apply Keep.foldl2 | apply Keep.foldl | (intro _ _ _) | (intro _ _)) | dsimp only | dsimp only [id] | simp only [Keep.mk_iff] | split | with_reducible refine Keep.of_eq2 (by assumption) ?_ | with_reducible refine Keep.of_eq3 (by assumption) ?_)

theorem State.spliceFails_keep {s0 : State} (s : State) (p result : Nat) (hk : Keep s0 s) : Keep s0 (State.spliceFails s p result) := by
  unfold State.spliceFails
  repeat' (first | with_reducible (first | assumption | exact Keep.refl _ | apply Keep.ite | apply Keep.ite2 | apply Keep.ite3 | intro _ | apply State.spliceResult_keep | apply State.fullLinkUp_keep | apply Keep.foldl3 | apply Keep.foldl2 | apply Keep.foldl | (intro _ _ _) | (intro _ _)) | dsimp only | dsimp only [id] | simp only [Keep.mk_iff] | split | with_reducible refine Keep.of_eq2 (by assumption) ?_ | with_reducible refine Keep.of_eq3 (by assumption) ?_)

theorem State.fastSplice_keep {s0 : State} (s : State) (p : Nat) (hk : Keep s0 s) : Keep s0 (State.fastSplice s p) := by
  unfold State.fastSplice
  repeat' (first | with_reducible (first | assumption | exact Keep.refl _ | apply Keep.ite | apply Keep.ite2 | apply Keep.ite3 | intro _ | apply State.sessionEnd_keep | apply State.setLink_keep | apply State.wr_keep | apply State.showTrain_keep | apply Keep.foldl3 | apply Keep.foldl2 | apply Keep.foldl | (intro _ _ _) | (intro _ _)) | dsimp only | dsimp only [id] | simp only [Keep.mk_iff] | split | with_reducible refine Keep.of_eq2 (by assumption) ?_ | with_reducible refine Keep.of_eq3 (by assumption) ?_)

theorem State.trained_keep {s0 : State} (s : State) (p : Nat) (words : List Nat) (ask : Bool) (hk : Keep s0 s) : Keep s0 (State.trained s p words ask) := by
  unfold State.trained
  repeat' (first | with_reducible (first | assumption | exact Keep.refl _ | apply Keep.ite | apply Keep.ite2 | apply Keep.ite3 | intro _ | apply State.sessionEnd_keep | apply State.spliceFails_keep | apply State.updLink_keep | apply State.showTrain_keep | apply Keep.foldl3 | apply Keep.foldl2 | apply Keep.foldl | (intro _ _ _) | (intro _ _)) | dsimp only | dsimp only [id] | simp only [Keep.mk_iff] | split | with_reducible refine Keep.of_eq2 (by assumption) ?_ | with_reducible refine Keep.of_eq3 (by assumption) ?_)

theorem State.linkUpFails_keep {s0 : State} (s : State) (p : Nat) (hk : Keep s0 s) : Keep s0 (State.linkUpFails s p) := by
  unfold State.linkUpFails
  repeat' (first | with_reducible (first | assumption | exact Keep.refl _ | apply Keep.ite | apply Keep.ite2 | apply Keep.ite3 | intro _ | apply State.setLink_keep | apply State.wr_keep | apply State.showTrain_keep | apply Keep.foldl3 | apply Keep.foldl2 | apply Keep.foldl | (intro _ _ _) | (intro _ _)) | dsimp only | dsimp only [id] | simp only [Keep.mk_iff] | split | with_reducible refine Keep.of_eq2 (by assumption) ?_ | with_reducible refine Keep.of_eq3 (by assumption) ?_)

theorem State.boundPassed_keep {s0 : State} (s : State) (p kind : Nat) (hk : Keep s0 s) : Keep s0 (State.boundPassed s p kind) := by
  unfold State.boundPassed
  repeat' (first | with_reducible (first | assumption | exact Keep.refl _ | apply Keep.ite | apply Keep.ite2 | apply Keep.ite3 | intro _ | apply State.linkUpFails_keep | apply State.spliceFails_keep | apply Keep.foldl3 | apply Keep.foldl2 | apply Keep.foldl | (intro _ _ _) | (intro _ _)) | dsimp only | dsimp only [id] | simp only [Keep.mk_iff] | split | with_reducible refine Keep.of_eq2 (by assumption) ?_ | with_reducible refine Keep.of_eq3 (by assumption) ?_)

theorem State.spliceEnds_keep {s0 : State} (s : State) (p : Nat) (x : Splice) (polarity us peer : Nat) (hk : Keep s0 s) : Keep s0 (State.spliceEnds s p x polarity us peer) := by
  unfold State.spliceEnds
  repeat' (first | with_reducible (first | assumption | exact Keep.refl _ | apply Keep.ite | apply Keep.ite2 | apply Keep.ite3 | intro _ | apply State.wr_keep | apply State.spliceResult_keep | apply State.linkEvent_keep | apply State.updLink_keep | apply State.sendCreditSync_keep | apply State.replayReq_keep | apply State.dueSplice_keep | apply Keep.foldl3 | apply Keep.foldl2 | apply Keep.foldl | (intro _ _ _) | (intro _ _)) | dsimp only | dsimp only [id] | simp only [Keep.mk_iff] | split | with_reducible refine Keep.of_eq2 (by assumption) ?_ | with_reducible refine Keep.of_eq3 (by assumption) ?_)

theorem State.spliceDone_keep {s0 : State} (s : State) (p word polarity us peer t : Nat) (hk : Keep s0 s) : Keep s0 (State.spliceDone s p word polarity us peer t) := by
  unfold State.spliceDone
  repeat' (first | with_reducible (first | assumption | exact Keep.refl _ | apply Keep.ite | apply Keep.ite2 | apply Keep.ite3 | intro _ | apply State.boundPassed_keep | apply State.pauseCells_keep | apply State.spliceEnds_keep | apply Keep.foldl3 | apply Keep.foldl2 | apply Keep.foldl | (intro _ _ _) | (intro _ _)) | dsimp only | dsimp only [id] | simp only [Keep.mk_iff] | split | with_reducible refine Keep.of_eq2 (by assumption) ?_ | with_reducible refine Keep.of_eq3 (by assumption) ?_)

theorem State.laneSlate_keep {s0 : State} (s : State) (p : Nat) (hk : Keep s0 s) : Keep s0 (State.laneSlate s p) := by
  unfold State.laneSlate
  repeat' (first | with_reducible (first | assumption | exact Keep.refl _ | apply Keep.ite | apply Keep.ite2 | apply Keep.ite3 | intro _ | apply State.wr_keep | apply State.setLink_keep | apply Keep.foldl3 | apply Keep.foldl2 | apply Keep.foldl | (intro _ _ _) | (intro _ _)) | dsimp only | dsimp only [id] | simp only [Keep.mk_iff] | split | with_reducible refine Keep.of_eq2 (by assumption) ?_ | with_reducible refine Keep.of_eq3 (by assumption) ?_)

end Sys2Proof.Machine
end

