-- ==== Sys2Proof/Laws/KeepTakeRules.lean ====
section
/-!
SUPPORT. The operations and meanings of Machine/TakeRules.lean keep the queue, the fuses and the form of memory.
-/

namespace Sys2Proof.Machine

theorem State.shadow_keep {s0 : State} (s : State) (hk : Keep s0 s) : Keep s0 (State.shadow s) := by
  unfold State.shadow
  repeat' (first | with_reducible (first | assumption | exact Keep.refl _ | apply Keep.ite | apply Keep.ite2 | apply Keep.ite3 | intro _ | apply Keep.foldl3 | apply Keep.foldl2 | apply Keep.foldl | (intro _ _ _) | (intro _ _)) | dsimp only | dsimp only [id] | simp only [Keep.mk_iff] | split | with_reducible refine Keep.of_eq2 (by assumption) ?_ | with_reducible refine Keep.of_eq3 (by assumption) ?_)

theorem execContinuityTakeCommit_keep (t : Nat) (s : State) : ∃ q, execContinuityTakeCommit t s = .next q ∧ Keep s q := by
  unfold execContinuityTakeCommit
  refine ⟨_, rfl, ?_⟩
  have hk := Keep.refl s
  repeat' (first | with_reducible (first | assumption | exact Keep.refl _ | apply Keep.ite | apply Keep.ite2 | apply Keep.ite3 | intro _ | apply State.at_keep | apply State.setCont_keep | apply State.continuityCommit_keep | apply State.continuityStage_keep | apply Keep.foldl3 | apply Keep.foldl2 | apply Keep.foldl | (intro _ _ _) | (intro _ _)) | dsimp only | dsimp only [id] | simp only [Keep.mk_iff] | split | with_reducible refine Keep.of_eq2 (by assumption) ?_ | with_reducible refine Keep.of_eq3 (by assumption) ?_)

theorem State.commit_keep {s0 : State} (s : State) (sess v : Nat) (hk : Keep s0 s) : Keep s0 (State.commit s sess v).2 := by
  unfold State.commit
  repeat' (first | with_reducible (first | assumption | exact Keep.refl _ | apply Keep.ite | apply Keep.ite2 | apply Keep.ite3 | intro _ | apply State.takeCommit_keep | apply State.tokenRefused_keep | apply Keep.foldl3 | apply Keep.foldl2 | apply Keep.foldl | (intro _ _ _) | (intro _ _)) | dsimp only | dsimp only [id] | simp only [Keep.mk_iff] | split | with_reducible refine Keep.of_eq2 (by assumption) ?_ | with_reducible refine Keep.of_eq3 (by assumption) ?_)

end Sys2Proof.Machine
end

