-- ==== Sys2Proof/Laws/KeepDictWrite.lean ====
section
/-!
SUPPORT. The operations and meanings of Machine/DictWrite.lean keep the queue, the fuses and the form of memory.
-/

namespace Sys2Proof.Machine

theorem State.dirProbe_keep {s0 : State} (s : State) (v : Nat) (hk : Keep s0 s) : Keep s0 (State.dirProbe s v) := by
  unfold State.dirProbe
  repeat' (first | with_reducible (first | assumption | exact Keep.refl _ | apply Keep.ite | apply Keep.ite2 | apply Keep.ite3 | intro _ | apply State.wr_keep | apply KeepRan.ite | apply KeepRan.stall | apply KeepRan.fault | apply KeepRan.done | apply KeepRan.held | refine KeepRan.stall' (by assumption) ?_ | refine KeepRan.fault' (by assumption) ?_ | refine KeepRan.done' (by assumption) ?_ | refine KeepRan.held' (by assumption) ?_ | apply hk_run | apply Keep.foldl3 | apply Keep.foldl2 | apply Keep.foldl | (intro _ _ _) | (intro _ _)) | dsimp only | dsimp only [id] | simp only [Keep.mk_iff] | split | with_reducible refine Keep.of_eq2 (by assumption) ?_ | with_reducible refine Keep.of_eq3 (by assumption) ?_)

theorem State.spliceCmd_keep {s0 : State} (s : State) (p v : Nat) (hk : Keep s0 s) : Keep s0 (State.spliceCmd s p v).2 := by
  unfold State.spliceCmd
  repeat' (first | with_reducible (first | assumption | exact Keep.refl _ | apply Keep.ite | apply Keep.ite2 | apply Keep.ite3 | intro _ | apply State.beginSplice_keep | apply KeepRan.ite | apply KeepRan.stall | apply KeepRan.fault | apply KeepRan.done | apply KeepRan.held | refine KeepRan.stall' (by assumption) ?_ | refine KeepRan.fault' (by assumption) ?_ | refine KeepRan.done' (by assumption) ?_ | refine KeepRan.held' (by assumption) ?_ | apply hk_run | apply Keep.foldl3 | apply Keep.foldl2 | apply Keep.foldl | (intro _ _ _) | (intro _ _)) | dsimp only | dsimp only [id] | simp only [Keep.mk_iff] | split | with_reducible refine Keep.of_eq2 (by assumption) ?_ | with_reducible refine Keep.of_eq3 (by assumption) ?_)

theorem State.lockFrom_keep {s0 : State} (s : State) (sess p : Nat) (b : List Byte) (hk : Keep s0 s) : Keep s0 (State.lockFrom s sess p b).2 := by
  unfold State.lockFrom
  repeat' (first | with_reducible (first | assumption | exact Keep.refl _ | apply Keep.ite | apply Keep.ite2 | apply Keep.ite3 | intro _ | apply State.lockWrite_keep | apply KeepRan.ite | apply KeepRan.stall | apply KeepRan.fault | apply KeepRan.done | apply KeepRan.held | refine KeepRan.stall' (by assumption) ?_ | refine KeepRan.fault' (by assumption) ?_ | refine KeepRan.done' (by assumption) ?_ | refine KeepRan.held' (by assumption) ?_ | apply hk_run | apply Keep.foldl3 | apply Keep.foldl2 | apply Keep.foldl | (intro _ _ _) | (intro _ _)) | dsimp only | dsimp only [id] | simp only [Keep.mk_iff] | split | with_reducible refine Keep.of_eq2 (by assumption) ?_ | with_reducible refine Keep.of_eq3 (by assumption) ?_)

theorem State.writeEffect_keep {s0 : State} (s : State) (sess : Nat) (d : Desc) (idx : Nat) (b : List Byte) (els : List (Nat × Nat)) (t : Nat) (hk : Keep s0 s) : Keep s0 (State.writeEffect s sess d idx b els t).2 := by
  unfold State.writeEffect
  repeat' (first | with_reducible (first | assumption | exact Keep.refl _ | apply Keep.ite | apply Keep.ite2 | apply Keep.ite3 | intro _ | apply State.setTake_keep | apply State.causeWrite_keep | apply State.warmResetReq_keep | apply State.partResetWrite_keep | apply State.sourceWrite_keep | apply State.frameLoad_keep | apply State.stageOpen_keep | apply State.stageClose_keep | apply State.targetWrite_keep | apply State.commit_keep | apply State.takeAbort_keep | apply State.spliceCmd_keep | apply State.tokenWrite_keep | apply State.lockFrom_keep | apply State.unlockWrite_keep | apply State.dirProbe_keep | apply State.retrainWrite_keep | apply State.trainCtrlWrite_keep | apply State.dqWrite_keep | apply State.dieRetireWrite_keep | apply State.testCtrlWrite_keep | apply State.relocWrite_keep | apply State.slabProbe_keep | apply State.sealWrite_keep | apply State.coolantWrite_keep | apply State.wrs_keep | apply State.reclass_keep | apply State.firmActivate_keep | apply State.debugWrite_keep | apply State.wrLag_keep | apply State.admissionChanged_keep | apply KeepRan.ite | apply KeepRan.stall | apply KeepRan.fault | apply KeepRan.done | apply KeepRan.held | refine KeepRan.stall' (by assumption) ?_ | refine KeepRan.fault' (by assumption) ?_ | refine KeepRan.done' (by assumption) ?_ | refine KeepRan.held' (by assumption) ?_ | apply hk_run | apply Keep.foldl3 | apply Keep.foldl2 | apply Keep.foldl | (intro _ _ _) | (intro _ _)) | dsimp only | dsimp only [id] | simp only [Keep.mk_iff] | split | with_reducible refine Keep.of_eq2 (by assumption) ?_ | with_reducible refine Keep.of_eq3 (by assumption) ?_)

theorem State.dictWrite_keep {s0 : State} (s : State) (sess idx sub off : Nat) (b : List Byte) (t : Nat) (hk : Keep s0 s) : Keep s0 (State.dictWrite s sess idx sub off b t).2 := by
  unfold State.dictWrite
  repeat' (first | with_reducible (first | assumption | exact Keep.refl _ | apply Keep.ite | apply Keep.ite2 | apply Keep.ite3 | intro _ | apply State.security_keep | apply State.writeEffect_keep | apply KeepRan.ite | apply KeepRan.stall | apply KeepRan.fault | apply KeepRan.done | apply KeepRan.held | refine KeepRan.stall' (by assumption) ?_ | refine KeepRan.fault' (by assumption) ?_ | refine KeepRan.done' (by assumption) ?_ | refine KeepRan.held' (by assumption) ?_ | apply hk_run | apply Keep.foldl3 | apply Keep.foldl2 | apply Keep.foldl | (intro _ _ _) | (intro _ _)) | dsimp only | dsimp only [id] | simp only [Keep.mk_iff] | split | with_reducible refine Keep.of_eq2 (by assumption) ?_ | with_reducible refine Keep.of_eq3 (by assumption) ?_)

end Sys2Proof.Machine
end

