-- ==== Sys2Proof/Laws/KeepMesh.lean ====
section
/-!
SUPPORT. The operations and meanings of Machine/Mesh.lean keep the queue, the fuses and the form of memory.
-/

namespace Sys2Proof.Machine

theorem State.meshArrive_keep {s0 : State} (s : State) (t : Nat) (k : MeshPkt) (c : Nat) (hk : Keep s0 s) : Keep s0 (State.meshArrive s t k c) := by
  unfold State.meshArrive
  repeat' (first | with_reducible (first | assumption | exact Keep.refl _ | apply Keep.ite | apply Keep.ite2 | apply Keep.ite3 | intro _ | apply State.count_keep | apply State.setRouter_keep | apply State.noteFault_keep | apply State.errEvent_keep | apply Keep.foldl3 | apply Keep.foldl2 | apply Keep.foldl | (intro _ _ _) | (intro _ _)) | dsimp only | dsimp only [id] | simp only [Keep.mk_iff] | split | with_reducible refine Keep.of_eq2 (by assumption) ?_ | with_reducible refine Keep.of_eq3 (by assumption) ?_)

theorem State.hop_keep {s0 : State} (s : State) (f : Flight) (next : Nat) (rest : List Nat) (hk : Keep s0 s) :
    Keep s0 (State.hop s f next rest).1 := by
  unfold State.hop
  repeat' (first | with_reducible (first | assumption | apply Keep.ite | intro _ | apply State.count_keep) | dsimp only | split)

theorem State.mcastMove_keep {s0 : State} {s : State} {f : Flight} {r : State × List Flight} (e : State.mcastMove s f = some r)
    (hk : Keep s0 s) : Keep s0 r.1 := by
  unfold State.mcastMove at e
  dsimp only at e
  have ha : Keep s0 (if (decide (f.inp ≠ .inject) && bit f.pkt.mask f.at_) = true then s.meshArrive f.at_ f.pkt f.cycle else s) := by
    split
    · exact State.meshArrive_keep _ _ _ _ hk
    · exact hk
  split at e
  · rw [Option.ite_none_right_eq_some] at e
    obtain ⟨_, e⟩ := e
    have e := Option.some.inj e
    subst e
    exact ha
  · rw [Option.ite_none_right_eq_some] at e
    obtain ⟨_, e⟩ := e
    have e := congrArg Prod.fst (Option.some.inj e)
    dsimp only at e
    rw [← e]
    exact State.hop_keep _ _ _ _ ha

theorem State.unicastMove_keep {s0 : State} {s : State} {f : Flight} {r : State × List Flight} (e : State.unicastMove s f = some r)
    (hk : Keep s0 s) : Keep s0 r.1 := by
  unfold State.unicastMove at e
  dsimp only at e
  split at e
  · split at e
    · have e := congrArg Prod.fst (Option.some.inj e)
      dsimp only at e
      rw [← e]
      exact State.hop_keep _ _ _ _ hk
    · cases e
  · split at e
    · cases e
      exact hk
    · split at e <;> cases e
      exact State.meshArrive_keep _ _ _ _ hk

theorem State.flyOne_keep {s0 : State} {s : State} {f : Flight} {r : State × List Flight} (e : State.flyOne s f = some r)
    (hk : Keep s0 s) : Keep s0 r.1 := by
  unfold State.flyOne at e
  split at e
  · cases e
  · split at e
    · exact State.mcastMove_keep e hk
    · exact State.unicastMove_keep e hk

theorem State.fly_keep {s0 : State} (n : Nat) (l : List Flight) (s : State) (hk : Keep s0 s) : Keep s0 (State.fly n l s) := by
  induction n generalizing l s with
  | zero => unfold State.fly; exact hk.upd rfl rfl rfl
  | succ n ih =>
    cases l with
    | nil => exact hk
    | cons f l =>
      unfold State.fly
      split
      · exact ih _ _ (hk.upd rfl rfl rfl)
      · rename_i h
        exact ih _ _ (State.flyOne_keep h hk)

theorem State.meshMoves_keep {s0 : State} (s : State) (hk : Keep s0 s) : Keep s0 (State.meshMoves s) := by
  unfold State.meshMoves
  repeat' (first | with_reducible (first | assumption | exact Keep.refl _ | apply Keep.ite | apply Keep.ite2 | apply Keep.ite3 | intro _ | apply State.fly_keep | apply Keep.foldl3 | apply Keep.foldl2 | apply Keep.foldl | (intro _ _ _) | (intro _ _)) | dsimp only | dsimp only [id] | simp only [Keep.mk_iff] | split | with_reducible refine Keep.of_eq2 (by assumption) ?_ | with_reducible refine Keep.of_eq3 (by assumption) ?_)

theorem State.depart_keep {s0 : State} (s : State) (k : MeshPkt) (hk : Keep s0 s) : Keep s0 (State.depart s k) := by
  unfold State.depart
  repeat' (first | with_reducible (first | assumption | exact Keep.refl _ | apply Keep.ite | apply Keep.ite2 | apply Keep.ite3 | intro _ | apply State.count_keep | apply State.slowUse_keep | apply State.meshArrive_keep | apply State.fly_keep | apply State.inject_keep | apply Keep.foldl3 | apply Keep.foldl2 | apply Keep.foldl | (intro _ _ _) | (intro _ _)) | dsimp only | dsimp only [id] | simp only [Keep.mk_iff] | split | with_reducible refine Keep.of_eq2 (by assumption) ?_ | with_reducible refine Keep.of_eq3 (by assumption) ?_)

theorem State.meshStarts_keep {s0 : State} (s : State) (hk : Keep s0 s) : Keep s0 (State.meshStarts s) := by
  unfold State.meshStarts
  repeat' (first | with_reducible (first | assumption | exact Keep.refl _ | apply Keep.ite | apply Keep.ite2 | apply Keep.ite3 | intro _ | apply State.depart_keep | apply Keep.foldl3 | apply Keep.foldl2 | apply Keep.foldl | (intro _ _ _) | (intro _ _)) | dsimp only | dsimp only [id] | simp only [Keep.mk_iff] | split | with_reducible refine Keep.of_eq2 (by assumption) ?_ | with_reducible refine Keep.of_eq3 (by assumption) ?_)

theorem State.meshUnbind_keep {s0 : State} (s : State) (p : Nat) (hk : Keep s0 s) : Keep s0 (State.meshUnbind s p) := by
  unfold State.meshUnbind
  repeat' (first | with_reducible (first | assumption | exact Keep.refl _ | apply Keep.ite | apply Keep.ite2 | apply Keep.ite3 | intro _ | apply Keep.foldl3 | apply Keep.foldl2 | apply Keep.foldl | (intro _ _ _) | (intro _ _)) | dsimp only | dsimp only [id] | simp only [Keep.mk_iff] | split | with_reducible refine Keep.of_eq2 (by assumption) ?_ | with_reducible refine Keep.of_eq3 (by assumption) ?_)

theorem State.injection_keep {s0 : State} (s : State) (t req rsp sreq srsp : Nat) (hk : Keep s0 s) : Keep s0 (State.injection s t req rsp sreq srsp) := by
  unfold State.injection
  repeat' (first | with_reducible (first | assumption | exact Keep.refl _ | apply Keep.ite | apply Keep.ite2 | apply Keep.ite3 | intro _ | apply State.setRouter_keep | apply State.wr_keep | apply Keep.foldl3 | apply Keep.foldl2 | apply Keep.foldl | (intro _ _ _) | (intro _ _)) | dsimp only | dsimp only [id] | simp only [Keep.mk_iff] | split | with_reducible refine Keep.of_eq2 (by assumption) ?_ | with_reducible refine Keep.of_eq3 (by assumption) ?_)

theorem execThrottleEnter_keep (tile req rsp sreq srsp t : Nat) (s : State) : ∃ q, execThrottleEnter tile req rsp sreq srsp t s = .next q ∧ Keep s q := by
  unfold execThrottleEnter
  refine ⟨_, rfl, ?_⟩
  have hk := Keep.refl s
  repeat' (first | with_reducible (first | assumption | exact Keep.refl _ | apply Keep.ite | apply Keep.ite2 | apply Keep.ite3 | intro _ | apply State.at_keep | apply State.injection_keep | apply State.setRouter_keep | apply State.count_keep | apply Keep.foldl3 | apply Keep.foldl2 | apply Keep.foldl | (intro _ _ _) | (intro _ _)) | dsimp only | dsimp only [id] | simp only [Keep.mk_iff] | split | with_reducible refine Keep.of_eq2 (by assumption) ?_ | with_reducible refine Keep.of_eq3 (by assumption) ?_)

theorem execThrottleLeave_keep (tile req rsp sreq srsp t : Nat) (s : State) : ∃ q, execThrottleLeave tile req rsp sreq srsp t s = .next q ∧ Keep s q := by
  unfold execThrottleLeave
  refine ⟨_, rfl, ?_⟩
  have hk := Keep.refl s
  repeat' (first | with_reducible (first | assumption | exact Keep.refl _ | apply Keep.ite | apply Keep.ite2 | apply Keep.ite3 | intro _ | apply State.at_keep | apply State.injection_keep | apply State.creditBack_keep | apply State.setRouter_keep | apply Keep.foldl3 | apply Keep.foldl2 | apply Keep.foldl | (intro _ _ _) | (intro _ _)) | dsimp only | dsimp only [id] | simp only [Keep.mk_iff] | split | with_reducible refine Keep.of_eq2 (by assumption) ?_ | with_reducible refine Keep.of_eq3 (by assumption) ?_)

theorem State.meshSlate_keep {s0 : State} (s : State) (t : Nat) (hk : Keep s0 s) : Keep s0 (State.meshSlate s t) := by
  unfold State.meshSlate
  repeat' (first | with_reducible (first | assumption | exact Keep.refl _ | apply Keep.ite | apply Keep.ite2 | apply Keep.ite3 | intro _ | apply State.setRouter_keep | apply State.count_keep | apply Keep.foldl3 | apply Keep.foldl2 | apply Keep.foldl | (intro _ _ _) | (intro _ _)) | dsimp only | dsimp only [id] | simp only [Keep.mk_iff] | split | with_reducible refine Keep.of_eq2 (by assumption) ?_ | with_reducible refine Keep.of_eq3 (by assumption) ?_)

theorem execMeshMessageComplete_keep (k : MeshPkt) (bufs : List (Nat × MeshBuf × Nat)) (t : Nat) (s : State) : ∃ q, execMeshMessageComplete k bufs t s = .next q ∧ Keep s q := by
  unfold execMeshMessageComplete
  refine ⟨_, rfl, ?_⟩
  have hk := Keep.refl s
  repeat' (first | with_reducible (first | assumption | exact Keep.refl _ | apply Keep.ite | apply Keep.ite2 | apply Keep.ite3 | intro _ | apply State.at_keep | apply State.setRouter_keep | apply State.meshMoves_keep | apply State.meshStarts_keep | apply State.depart_keep | apply State.injection_keep | apply Keep.foldl3 | apply Keep.foldl2 | apply Keep.foldl | (intro _ _ _) | (intro _ _)) | dsimp only | dsimp only [id] | simp only [Keep.mk_iff] | split | with_reducible refine Keep.of_eq2 (by assumption) ?_ | with_reducible refine Keep.of_eq3 (by assumption) ?_)

end Sys2Proof.Machine
end

