-- ==== Sys2Proof/Laws/KeepReceive.lean ====
section
/-!
SUPPORT. The operations and meanings of Machine/Receive.lean keep the queue, the fuses and the form of memory.
-/

namespace Sys2Proof.Machine

theorem State.handOver_keep {s0 : State} (s : State) (p op : Nat) (h : Hdr) (d b : List Byte) (hk : Keep s0 s) : Keep s0 (State.handOver s p op h d b) := by
  unfold State.handOver
  repeat' (first | with_reducible (first | assumption | exact Keep.refl _ | apply Keep.ite | apply Keep.ite2 | apply Keep.ite3 | intro _ | apply State.count_keep | apply State.refuse_keep | apply State.updPort_keep | apply KeepRan.ite | apply KeepRan.stall | apply KeepRan.fault | apply KeepRan.done | apply KeepRan.held | refine KeepRan.stall' (by assumption) ?_ | refine KeepRan.fault' (by assumption) ?_ | refine KeepRan.done' (by assumption) ?_ | refine KeepRan.held' (by assumption) ?_ | apply hk_run | apply Keep.foldl3 | apply Keep.foldl2 | apply Keep.foldl | (intro _ _ _) | (intro _ _)) | dsimp only | dsimp only [id] | simp only [Keep.mk_iff] | split | with_reducible refine Keep.of_eq2 (by assumption) ?_ | with_reducible refine Keep.of_eq3 (by assumption) ?_)

theorem State.message_keep {s0 : State} (s : State) (p : Nat) (b : List Byte) (noise : List (Nat × Nat)) (t : Nat) (hk : Keep s0 s) : Keep s0 (State.message s p b noise t) := by
  unfold State.message
  repeat' (first | with_reducible (first | assumption | exact Keep.refl _ | apply Keep.ite | apply Keep.ite2 | apply Keep.ite3 | intro _ | apply State.handOver_keep | apply State.updPort_keep | apply State.onResp_keep | apply State.protoError_keep | apply State.fwdAck_keep | apply State.backInvalAck_keep | apply State.translateResp_keep | apply State.pageResp_keep | apply State.moveResp_keep | apply State.pairResp_keep | apply State.plainResp_keep | apply State.recv_keep | apply State.unsupported_keep | apply KeepRan.ite | apply KeepRan.stall | apply KeepRan.fault | apply KeepRan.done | apply KeepRan.held | refine KeepRan.stall' (by assumption) ?_ | refine KeepRan.fault' (by assumption) ?_ | refine KeepRan.done' (by assumption) ?_ | refine KeepRan.held' (by assumption) ?_ | apply hk_run | apply Keep.foldl3 | apply Keep.foldl2 | apply Keep.foldl | (intro _ _ _) | (intro _ _)) | dsimp only | dsimp only [id] | simp only [Keep.mk_iff] | split | with_reducible refine Keep.of_eq2 (by assumption) ?_ | with_reducible refine Keep.of_eq3 (by assumption) ?_)

theorem State.drain_keep {s0 : State} (n : Nat) (s : State) (p vc : Nat) (noise : List (Nat × Nat)) (t : Nat) (hk : Keep s0 s) :
    Keep s0 (State.drain n s p vc noise t) := by
  induction n generalizing s with
  | zero => exact hk
  | succ n ih =>
    unfold State.drain
    dsimp only
    split
    · exact hk
    · split
      · apply State.loseSession_keep
        apply State.protoError_keep
        exact hk
      · split
        · exact hk
        · apply ih
          apply State.message_keep
          apply State.updPort_keep
          exact hk

theorem execRxTransportCell_keep (p hdr : Nat) (payload : List Byte) (crcOk tagOk : Bool) (noise : List (Nat × Nat)) (t : Nat) (s : State) : ∃ q, execRxTransportCell p hdr payload crcOk tagOk noise t s = .next q ∧ Keep s q := by
  unfold execRxTransportCell
  refine ⟨_, rfl, ?_⟩
  have hk := Keep.refl s
  repeat' (first | with_reducible (first | assumption | exact Keep.refl _ | apply Keep.ite | apply Keep.ite2 | apply Keep.ite3 | intro _ | apply State.at_keep | apply State.rxSeq_keep | apply State.updPort_keep | apply State.drain_keep | apply State.creditBack_keep | apply KeepRan.ite | apply KeepRan.stall | apply KeepRan.fault | apply KeepRan.done | apply KeepRan.held | refine KeepRan.stall' (by assumption) ?_ | refine KeepRan.fault' (by assumption) ?_ | refine KeepRan.done' (by assumption) ?_ | refine KeepRan.held' (by assumption) ?_ | apply hk_run | apply Keep.foldl3 | apply Keep.foldl2 | apply Keep.foldl | (intro _ _ _) | (intro _ _)) | dsimp only | dsimp only [id] | simp only [Keep.mk_iff] | split | with_reducible refine Keep.of_eq2 (by assumption) ?_ | with_reducible refine Keep.of_eq3 (by assumption) ?_)

theorem execHomeRecheck_keep (port id : Nat) (noise : List (Nat × Nat)) (t : Nat) (s : State) : ∃ q, execHomeRecheck port id noise t s = .next q ∧ Keep s q := by
  unfold execHomeRecheck
  refine ⟨_, rfl, ?_⟩
  have hk := Keep.refl s
  repeat' (first | with_reducible (first | assumption | exact Keep.refl _ | apply Keep.ite | apply Keep.ite2 | apply Keep.ite3 | intro _ | apply State.at_keep | apply State.takeWaiter_keep | apply State.serveData_keep | apply KeepRan.ite | apply KeepRan.stall | apply KeepRan.fault | apply KeepRan.done | apply KeepRan.held | refine KeepRan.stall' (by assumption) ?_ | refine KeepRan.fault' (by assumption) ?_ | refine KeepRan.done' (by assumption) ?_ | refine KeepRan.held' (by assumption) ?_ | apply hk_run | apply Keep.foldl3 | apply Keep.foldl2 | apply Keep.foldl | (intro _ _ _) | (intro _ _)) | dsimp only | dsimp only [id] | simp only [Keep.mk_iff] | split | with_reducible refine Keep.of_eq2 (by assumption) ?_ | with_reducible refine Keep.of_eq3 (by assumption) ?_)

theorem State.securedServe_keep {s0 : State} (s : State) (i : Nat) (app : App) (t : Nat) (fw : Bool × Bool) (hk : Keep s0 s) : Keep s0 (State.securedServe s i app t fw).2 := by
  unfold State.securedServe
  repeat' (first | with_reducible (first | assumption | exact Keep.refl _ | apply Keep.ite | apply Keep.ite2 | apply Keep.ite3 | intro _ | apply State.spdmInSession_keep | apply State.fligRecv_keep | apply KeepRan.ite | apply KeepRan.stall | apply KeepRan.fault | apply KeepRan.done | apply KeepRan.held | refine KeepRan.stall' (by assumption) ?_ | refine KeepRan.fault' (by assumption) ?_ | refine KeepRan.done' (by assumption) ?_ | refine KeepRan.held' (by assumption) ?_ | apply hk_run | apply Keep.foldl3 | apply Keep.foldl2 | apply Keep.foldl | (intro _ _ _) | (intro _ _)) | dsimp only | dsimp only [id] | simp only [Keep.mk_iff] | split | with_reducible refine Keep.of_eq2 (by assumption) ?_ | with_reducible refine Keep.of_eq3 (by assumption) ?_)

theorem State.mgmtAnswer_keep {s0 : State} (s : State) (q : Req) (b : List Byte) (hk : Keep s0 s) : Keep s0 (State.mgmtAnswer s q b) := by
  unfold State.mgmtAnswer
  repeat' (first | with_reducible (first | assumption | exact Keep.refl _ | apply Keep.ite | apply Keep.ite2 | apply Keep.ite3 | intro _ | apply State.carriedAnswer_keep | apply KeepRan.ite | apply KeepRan.stall | apply KeepRan.fault | apply KeepRan.done | apply KeepRan.held | refine KeepRan.stall' (by assumption) ?_ | refine KeepRan.fault' (by assumption) ?_ | refine KeepRan.done' (by assumption) ?_ | refine KeepRan.held' (by assumption) ?_ | apply hk_run | apply Keep.foldl3 | apply Keep.foldl2 | apply Keep.foldl | (intro _ _ _) | (intro _ _)) | dsimp only | dsimp only [id] | simp only [Keep.mk_iff] | split | with_reducible refine Keep.of_eq2 (by assumption) ?_ | with_reducible refine Keep.of_eq3 (by assumption) ?_)

theorem State.mgmtReply_keep {s0 : State} (s : State) (q : Req) (i kind : Nat) (l : List (List Byte)) (hk : Keep s0 s) : Keep s0 (State.mgmtReply s q i kind l) := by
  unfold State.mgmtReply
  repeat' (first | with_reducible (first | assumption | exact Keep.refl _ | apply Keep.ite | apply Keep.ite2 | apply Keep.ite3 | intro _ | apply State.fligPush_keep | apply State.fligSend_keep | apply State.mgmtAnswer_keep | apply KeepRan.ite | apply KeepRan.stall | apply KeepRan.fault | apply KeepRan.done | apply KeepRan.held | refine KeepRan.stall' (by assumption) ?_ | refine KeepRan.fault' (by assumption) ?_ | refine KeepRan.done' (by assumption) ?_ | refine KeepRan.held' (by assumption) ?_ | apply hk_run | apply Keep.foldl3 | apply Keep.foldl2 | apply Keep.foldl | (intro _ _ _) | (intro _ _)) | dsimp only | dsimp only [id] | simp only [Keep.mk_iff] | split | with_reducible refine Keep.of_eq2 (by assumption) ?_ | with_reducible refine Keep.of_eq3 (by assumption) ?_)

theorem State.mgmtSecured_keep {s0 : State} (s : State) (port : Nat) (q : Req) (i sq : Nat) (macOk : Bool) (app : App) (t : Nat) (fw : Bool × Bool) (hk : Keep s0 s) : Keep s0 (State.mgmtSecured s port q i sq macOk app t fw) := by
  unfold State.mgmtSecured
  repeat' (first | with_reducible (first | assumption | exact Keep.refl _ | apply Keep.ite | apply Keep.ite2 | apply Keep.ite3 | intro _ | refine State.secureIn_keep (by assumption) ?_ | apply State.count_keep | apply State.mgmtAnswer_keep | apply State.securedServe_keep | apply State.loseSession_keep | apply State.mgmtReply_keep | apply KeepRan.ite | apply KeepRan.stall | apply KeepRan.fault | apply KeepRan.done | apply KeepRan.held | refine KeepRan.stall' (by assumption) ?_ | refine KeepRan.fault' (by assumption) ?_ | refine KeepRan.done' (by assumption) ?_ | refine KeepRan.held' (by assumption) ?_ | apply hk_run | apply Keep.foldl3 | apply Keep.foldl2 | apply Keep.foldl | (intro _ _ _) | (intro _ _)) | dsimp only | dsimp only [id] | simp only [Keep.mk_iff] | split | with_reducible refine Keep.of_eq2 (by assumption) ?_ | with_reducible refine Keep.of_eq3 (by assumption) ?_)

theorem execMgmt_keep (port : Nat) (h : Hdr) (magic ver : Nat) (p : Payload) (ecdsaOk mldsaOk : Bool) (t : Nat) (s : State) : ∃ q, execMgmt port h magic ver p ecdsaOk mldsaOk t s = .next q ∧ Keep s q := by
  unfold execMgmt
  refine ⟨_, rfl, ?_⟩
  have hk := Keep.refl s
  repeat' (first | with_reducible (first | assumption | exact Keep.refl _ | apply Keep.ite | apply Keep.ite2 | apply Keep.ite3 | intro _ | apply State.at_keep | apply State.carried_keep | apply State.count_keep | apply State.mgmtAnswer_keep | apply State.mgmtSecured_keep | apply State.unsecured_keep | apply State.fligRecv_keep | apply State.mgmtReply_keep | apply KeepRan.ite | apply KeepRan.stall | apply KeepRan.fault | apply KeepRan.done | apply KeepRan.held | refine KeepRan.stall' (by assumption) ?_ | refine KeepRan.fault' (by assumption) ?_ | refine KeepRan.done' (by assumption) ?_ | refine KeepRan.held' (by assumption) ?_ | apply hk_run | apply Keep.foldl3 | apply Keep.foldl2 | apply Keep.foldl | (intro _ _ _) | (intro _ _)) | dsimp only | dsimp only [id] | simp only [Keep.mk_iff] | split | with_reducible refine Keep.of_eq2 (by assumption) ?_ | with_reducible refine Keep.of_eq3 (by assumption) ?_)

theorem State.portSecured_keep {s0 : State} (s : State) (n source i sq : Nat) (macOk : Bool) (app : App) (t : Nat) (fw : Bool × Bool) (hk : Keep s0 s) : Keep s0 (State.portSecured s n source i sq macOk app t fw) := by
  unfold State.portSecured
  repeat' (first | with_reducible (first | assumption | exact Keep.refl _ | apply Keep.ite | apply Keep.ite2 | apply Keep.ite3 | intro _ | refine State.secureIn_keep (by assumption) ?_ | apply State.count_keep | apply State.securedServe_keep | apply State.datagram_keep | apply State.fligSend_keep | apply KeepRan.ite | apply KeepRan.stall | apply KeepRan.fault | apply KeepRan.done | apply KeepRan.held | refine KeepRan.stall' (by assumption) ?_ | refine KeepRan.fault' (by assumption) ?_ | refine KeepRan.done' (by assumption) ?_ | refine KeepRan.held' (by assumption) ?_ | apply hk_run | apply Keep.foldl3 | apply Keep.foldl2 | apply Keep.foldl | (intro _ _ _) | (intro _ _)) | dsimp only | dsimp only [id] | simp only [Keep.mk_iff] | split | with_reducible refine Keep.of_eq2 (by assumption) ?_ | with_reducible refine Keep.of_eq3 (by assumption) ?_)

theorem execMgmtDatagram_keep (n source magic ver : Nat) (p : Payload) (ecdsaOk mldsaOk : Bool) (t : Nat) (s : State) : ∃ q, execMgmtDatagram n source magic ver p ecdsaOk mldsaOk t s = .next q ∧ Keep s q := by
  unfold execMgmtDatagram
  refine ⟨_, rfl, ?_⟩
  have hk := Keep.refl s
  repeat' (first | with_reducible (first | assumption | exact Keep.refl _ | apply Keep.ite | apply Keep.ite2 | apply Keep.ite3 | intro _ | apply State.at_keep | apply State.count_keep | apply State.spdmArrive_keep | apply State.portSecured_keep | apply State.unsecured_keep | apply State.fligDeliver_keep | apply KeepRan.ite | apply KeepRan.stall | apply KeepRan.fault | apply KeepRan.done | apply KeepRan.held | refine KeepRan.stall' (by assumption) ?_ | refine KeepRan.fault' (by assumption) ?_ | refine KeepRan.done' (by assumption) ?_ | refine KeepRan.held' (by assumption) ?_ | apply hk_run | apply Keep.foldl3 | apply Keep.foldl2 | apply Keep.foldl | (intro _ _ _) | (intro _ _)) | dsimp only | dsimp only [id] | simp only [Keep.mk_iff] | split | with_reducible refine Keep.of_eq2 (by assumption) ?_ | with_reducible refine Keep.of_eq3 (by assumption) ?_)

theorem execSecuredMessage_keep (via source : Nat) (h : Hdr) (sess sq : Nat) (macOk : Bool) (app : App) (ecdsaOk mldsaOk : Bool) (t : Nat) (s : State) : ∃ q, execSecuredMessage via source h sess sq macOk app ecdsaOk mldsaOk t s = .next q ∧ Keep s q := by
  unfold execSecuredMessage
  refine ⟨_, rfl, ?_⟩
  have hk := Keep.refl s
  repeat' (first | with_reducible (first | assumption | exact Keep.refl _ | apply Keep.ite | apply Keep.ite2 | apply Keep.ite3 | intro _ | apply State.at_keep | apply State.portSecured_keep | apply State.carried_keep | apply State.draw_keep | apply State.carriedAnswer_keep | refine State.secureIn_keep (by assumption) ?_ | apply State.count_keep | apply State.securedServe_keep | apply State.loseSession_keep | apply State.fligPush_keep | apply State.fligSend_keep | apply KeepRan.ite | apply KeepRan.stall | apply KeepRan.fault | apply KeepRan.done | apply KeepRan.held | refine KeepRan.stall' (by assumption) ?_ | refine KeepRan.fault' (by assumption) ?_ | refine KeepRan.done' (by assumption) ?_ | refine KeepRan.held' (by assumption) ?_ | apply hk_run | apply Keep.foldl3 | apply Keep.foldl2 | apply Keep.foldl | (intro _ _ _) | (intro _ _)) | dsimp only | dsimp only [id] | simp only [Keep.mk_iff] | split | with_reducible refine Keep.of_eq2 (by assumption) ?_ | with_reducible refine Keep.of_eq3 (by assumption) ?_)

theorem State.netPacket_keep {s0 : State} (s : State) (n kind target : Nat) (data : List Byte) (hk : Keep s0 s) : Keep s0 (State.netPacket s n kind target data) := by
  unfold State.netPacket
  repeat' (first | with_reducible (first | assumption | exact Keep.refl _ | apply Keep.ite | apply Keep.ite2 | apply Keep.ite3 | intro _ | apply State.updBoot_keep | apply KeepRan.ite | apply KeepRan.stall | apply KeepRan.fault | apply KeepRan.done | apply KeepRan.held | refine KeepRan.stall' (by assumption) ?_ | refine KeepRan.fault' (by assumption) ?_ | refine KeepRan.done' (by assumption) ?_ | refine KeepRan.held' (by assumption) ?_ | apply hk_run | apply Keep.foldl3 | apply Keep.foldl2 | apply Keep.foldl | (intro _ _ _) | (intro _ _)) | dsimp only | dsimp only [id] | simp only [Keep.mk_iff] | split | with_reducible refine Keep.of_eq2 (by assumption) ?_ | with_reducible refine Keep.of_eq3 (by assumption) ?_)

theorem execMgmtNetworkPacket_keep (n kind target : Nat) (data : List Byte) (s : State) : ∃ q, execMgmtNetworkPacket n kind target data s = .next q ∧ Keep s q := by
  unfold execMgmtNetworkPacket
  refine ⟨_, rfl, ?_⟩
  have hk := Keep.refl s
  repeat' (first | with_reducible (first | assumption | exact Keep.refl _ | apply Keep.ite | apply Keep.ite2 | apply Keep.ite3 | intro _ | apply State.netPacket_keep | apply KeepRan.ite | apply KeepRan.stall | apply KeepRan.fault | apply KeepRan.done | apply KeepRan.held | refine KeepRan.stall' (by assumption) ?_ | refine KeepRan.fault' (by assumption) ?_ | refine KeepRan.done' (by assumption) ?_ | refine KeepRan.held' (by assumption) ?_ | apply hk_run | apply Keep.foldl3 | apply Keep.foldl2 | apply Keep.foldl | (intro _ _ _) | (intro _ _)) | dsimp only | dsimp only [id] | simp only [Keep.mk_iff] | split | with_reducible refine Keep.of_eq2 (by assumption) ?_ | with_reducible refine Keep.of_eq3 (by assumption) ?_)

theorem execMgmtPortLinkChange_keep (n : Nat) (up : Bool) (s : State) : ∃ q, execMgmtPortLinkChange n up s = .next q ∧ Keep s q := by
  unfold execMgmtPortLinkChange
  refine ⟨_, rfl, ?_⟩
  have hk := Keep.refl s
  repeat' (first | with_reducible (first | assumption | exact Keep.refl _ | apply Keep.ite | apply Keep.ite2 | apply Keep.ite3 | intro _ | apply State.wr_keep | apply State.updBoot_keep | apply KeepRan.ite | apply KeepRan.stall | apply KeepRan.fault | apply KeepRan.done | apply KeepRan.held | refine KeepRan.stall' (by assumption) ?_ | refine KeepRan.fault' (by assumption) ?_ | refine KeepRan.done' (by assumption) ?_ | refine KeepRan.held' (by assumption) ?_ | apply hk_run | apply Keep.foldl3 | apply Keep.foldl2 | apply Keep.foldl | (intro _ _ _) | (intro _ _)) | dsimp only | dsimp only [id] | simp only [Keep.mk_iff] | split | with_reducible refine Keep.of_eq2 (by assumption) ?_ | with_reducible refine Keep.of_eq3 (by assumption) ?_)

end Sys2Proof.Machine
end

