-- ==== Sys2Proof/Laws/Reel.lean ====
section
/-!
SUPPORT. An instruction that `Issues` (13 R296, R306): what it comes to for each way in which it can end its turn.
-/

namespace Sys2Proof.Machine

@[simp] theorem State.ctx_setCtx (s : State) (slot c : Nat) (k : Ctx) : (s.setCtx slot c k).ctx slot c = k := by
  simp [State.setCtx, State.ctx]

@[simp] theorem State.setCtx_setCtx (s : State) (slot c : Nat) (k l : Ctx) : (s.setCtx slot c k).setCtx slot c l = s.setCtx slot c l := by
  simp [State.setCtx]

theorem wordOp_op {w : Nat} {op : Nat × Nat} (h : wordOp w = some op) : iOp w = op.1 := by
  unfold wordOp at h
  split at h
  · cases h; rfl
  · cases h

theorem onlyBits_eq (w : Nat) (l : List (Nat × Nat)) (h : onlyBits w l = true) :
    l.foldl (fun w p => setFld w p.1 p.2 0) w = iOp w * 2 ^ 56 := by
  unfold onlyBits at h
  exact of_decide_eq_true h

theorem setFld_zero (v hi lo : Nat) : setFld v hi lo 0 = v - fld v hi lo * 2 ^ lo := by
  unfold setFld
  rw [Nat.zero_mod, Nat.zero_mul, Nat.add_zero]

/-- Everything that an instruction that `Issues` can come to. -/
theorem State.issueInstr_ready (s : State) (slot c stall t : Nat) (op : Nat × Nat) (p w : Nat) (u : State) (k : Ctx)
    (run : State → Ctx → Nat → Ran) (H : Issues s slot c stall t op p w u k) :
    s.issueInstr slot c stall t op run = (match run u k w with
      | .stall s2 => s2
      | .fault s2 code detail => s2.reelFault slot c code detail
      | .held s2 => s2
      | .done s2 pc extra =>
        if pc < 0 ∨ 2 ^ 28 ≤ pc then u.reelFault slot c Code.fetchOutOfRange 0
        else (if extra = 0 then s2 else s2.chargeCycles p slot c extra).setCtx slot c
          { (if extra = 0 then s2 else s2.chargeCycles p slot c extra).ctx slot c with
            pc := pc.toNat, atCut := iOp w = 0x6C, resume := none }) := by
  obtain ⟨h1, h2, h3, h4, h5, h6, h7, h8, h9⟩ := H
  subst h7
  subst h8
  unfold State.issueInstr
  have hg : (governedOp op.1 && (s.at t).reached slot p) = false := by
    cases h : governedOp op.1
    · rfl
    · simp [h6 h]
  simp only [h1, h2, h3, h4, h5, hg, Bool.not_true, Bool.false_eq_true, if_false, ne_eq, not_true]
  all_goals (split <;> first | rfl | simp_all)

theorem State.issueInstr_done (s : State) (slot c stall t : Nat) (op : Nat × Nat) (p w : Nat) (u : State) (k : Ctx)
    (run : State → Ctx → Nat → Ran) (H : Issues s slot c stall t op p w u k) (hop : op.1 ≠ 0x6C) (v : State) (pc : Int)
    (extra n : Nat) (hr : run u k w = .done v pc extra) (hp : pc = n) (hn : n < 2 ^ 28) :
    s.issueInstr slot c stall t op run = (if extra = 0 then v else v.chargeCycles p slot c extra).goesOn slot c n := by
  rw [State.issueInstr_ready _ _ _ _ _ _ _ _ _ _ _ H, hr]
  subst hp
  have : ¬ ((n : Int) < 0 ∨ (2 : Int) ^ 28 ≤ (n : Int)) := by omega
  simp only []
  rw [if_neg this]
  unfold State.goesOn
  have h5 := wordOp_op H.2.2.2.2.1
  have hc : (decide (iOp w = 0x6C)) = false := by simp; omega
  rw [hc]
  rfl

theorem State.issueInstr_out (s : State) (slot c stall t : Nat) (op : Nat × Nat) (p w : Nat) (u : State) (k : Ctx)
    (run : State → Ctx → Nat → Ran) (H : Issues s slot c stall t op p w u k) (v : State) (pc : Int)
    (extra : Nat) (hr : run u k w = .done v pc extra) (hp : pc < 0 ∨ (2 : Int) ^ 28 ≤ pc) :
    s.issueInstr slot c stall t op run = u.reelFault slot c Code.fetchOutOfRange 0 := by
  rw [State.issueInstr_ready _ _ _ _ _ _ _ _ _ _ _ H, hr]
  simp only []
  rw [if_pos hp]

theorem State.issueInstr_fault (s : State) (slot c stall t : Nat) (op : Nat × Nat) (p w : Nat) (u : State) (k : Ctx)
    (run : State → Ctx → Nat → Ran) (H : Issues s slot c stall t op p w u k) (v : State) (code detail : Nat)
    (hr : run u k w = .fault v code detail) : s.issueInstr slot c stall t op run = v.reelFault slot c code detail := by
  rw [State.issueInstr_ready _ _ _ _ _ _ _ _ _ _ _ H, hr]

theorem State.issueInstr_held (s : State) (slot c stall t : Nat) (op : Nat × Nat) (p w : Nat) (u : State) (k : Ctx)
    (run : State → Ctx → Nat → Ran) (H : Issues s slot c stall t op p w u k) (v : State)
    (hr : run u k w = .held v) : s.issueInstr slot c stall t op run = v := by
  rw [State.issueInstr_ready _ _ _ _ _ _ _ _ _ _ _ H, hr]

/-- A `RegRule` holds of an instruction whose meaning is that of `issueReg`. -/
theorem RegRule.intro (i : Nat → Nat → Nat → Nat → Instr) (op : Nat × Nat) (f : Ctx → Nat → Ctx)
    (hop : op.1 ≠ 0x6C) (h : ∀ s slot c stall t, exec (i slot c stall t) s = .next (s.issueReg slot c stall t op f)) : RegRule i op f := by
  intro s slot c stall t p w u k H
  rw [h]
  unfold State.issueReg
  rw [State.issueInstr_done _ _ _ _ _ _ _ _ _ _ _ H hop _ _ _ (k.pc + 8) rfl (by omega) H.2.2.2.2.2.2.2.2]
  rfl

end Sys2Proof.Machine
end

