-- ==== Sys2Proof/WellFormed.lean ====
section
/-!
DEFINITION. Well-formed commands: every operand within the range that the part has for it. `exec` is total without this;
the check says which commands a sender can form.
-/

namespace Sys2Proof

/-- A header whose fields fit their widths (04 R94). -/
def Hdr.wf (h : Hdr) : Bool :=
  decide (h.flags < 256 ∧ h.len < 65536 ∧ h.src < 65536 ∧ h.dst < 65536 ∧ h.handle < 65536 ∧ h.tag < 65536 ∧ h.epoch < 4
    ∧ h.status < 65536)

/-- A time within a frame: at most the 500 us of a stretched one (02 R35). -/
def timeOk (t : Nat) : Bool := decide (t ≤ 500000)

/-- A packet of the mesh: up to 32 data flits, one destination or a multicast's mask, fields that fit their widths (05 R122, R123,
R129, R132). -/
def MeshPkt.wf (k : MeshPkt) : Bool :=
  decide (k.part < 64 ∧ k.src < 36 ∧ k.num < 4096 ∧ 0 < k.mask ∧ k.mask < 2 ^ 36 ∧ k.data.length ≤ 4096 ∧ 0 < k.count
    ∧ k.count ≤ k.total)
    && (decide (k.cls = .mcast) || (List.range 36).any (fun t => decide (k.mask = 2 ^ t)))
    && k.bad.all (fun j => decide (j * 128 < k.data.length)) && k.fixed.all (fun t => decide (t < 36))

/-- The operands of a command are in range. -/
def Instr.wf : Instr → Bool
  | .slate _ => true
  | .slateGuard _ => true
  | .slateTreeSilent => true
  | .slateInEdge _ _ => true
  | .slateInSourceLost => true
  | .slateInReacquire _ => true
  | .ptpSync port dom _ _ => decide (port < 2) && decide (dom < 256)
  | .ptpLocked => true
  | .ptpHoldover => true
  | .slateSourceWrite sess seq v t => decide (sess < 512) && decide (seq < 2 ^ 32) && decide (v < 2 ^ 64) && timeOk t
  | .frameNumberLoad sess seq v t => decide (sess < 512) && decide (seq < 2 ^ 32) && decide (v < 2 ^ 64) && timeOk t
  | .takeStageOpen sess seq v t => decide (sess < 512) && decide (seq < 2 ^ 32) && decide (v < 2 ^ 64) && timeOk t
  | .takeStageClose sess seq v t => decide (sess < 512) && decide (seq < 2 ^ 32) && decide (v < 2 ^ 64) && timeOk t
  | .takeCommit sess seq v t => decide (sess < 512) && decide (seq < 2 ^ 32) && decide (v < 2 ^ 64) && timeOk t
  | .takeAbort sess seq v t => decide (sess < 512) && decide (seq < 2 ^ 32) && decide (v < 2 ^ 64) && timeOk t
  | .takeArmPoint _ => true
  | .continuityTakeCommit t => timeOk t
  | .fecBlockDecode p _ => decide (p < 36)
  | .lossOfLock p => decide (p < 36)
  | .rxTransportCell p hdr payload _ _ _ t => decide (p < 36) && decide (hdr < 2 ^ 64) && decide (payload.length ≤ 232) && timeOk t
  | .rxKeyMark p hdr _ _ => decide (p < 36) && decide (hdr < 2 ^ 64)
  | .rxIdleCell p hdr payload _ _ => decide (p < 36) && decide (hdr < 2 ^ 64) && decide (payload.length ≤ 232)
  | .rxReplayReq p hdr payload _ _ => decide (p < 36) && decide (hdr < 2 ^ 64) && decide (payload.length ≤ 232)
  | .rxCreditSync p hdr payload _ _ => decide (p < 36) && decide (hdr < 2 ^ 64) && decide (payload.length ≤ 232)
  | .rxSpliceReq p hdr payload _ _ => decide (p < 36) && decide (hdr < 2 ^ 64) && decide (payload.length ≤ 232)
  | .rxSpliceAck p hdr payload _ _ => decide (p < 36) && decide (hdr < 2 ^ 64) && decide (payload.length ≤ 232)
  | .rxSplicePause p hdr payload _ _ => decide (p < 36) && decide (hdr < 2 ^ 64) && decide (payload.length ≤ 232)
  | .rxReservedCtype p hdr _ => decide (p < 36) && decide (hdr < 2 ^ 64)
  | .tagFailureLimit p => decide (p < 36)
  | .reservedCtypeLimit p => decide (p < 36)
  | .txSequencedCell p vc => decide (p < 36) && decide (vc < 4)
  | .replayTimeout p => decide (p < 36)
  | .replayResendLimit p => decide (p < 36)
  | .replayReqHoldoff p => decide (p < 36)
  | .creditRefresh p vc => decide (p < 36) && decide (vc < 4)
  | .keyPhaseFlip p => decide (p < 36)
  | .rekeyLimit p => decide (p < 36)
  | .laneMarkedBad p lane => decide (p < 36) && decide (lane < 8)
  | .uncorrLimitExceeded p => decide (p < 36)
  | .spliceCmdWidth sess seq p width speed mask t => decide (sess < 512) && decide (seq < 2 ^ 32) && decide (p < 36) && decide (width < 4) && decide (speed < 4) && decide (mask < 256) && timeOk t
  | .spliceCmdRecalibrate sess seq p width speed mask t => decide (sess < 512) && decide (seq < 2 ^ 32) && decide (p < 36) && decide (width < 4) && decide (speed < 4) && decide (mask < 256) && timeOk t
  | .spliceCmdSpeed sess seq p width speed mask t => decide (sess < 512) && decide (seq < 2 ^ 32) && decide (p < 36) && decide (width < 4) && decide (speed < 4) && decide (mask < 256) && timeOk t
  | .spliceCmdDegrade sess seq p width speed mask t => decide (sess < 512) && decide (seq < 2 ^ 32) && decide (p < 36) && decide (width < 4) && decide (speed < 4) && decide (mask < 256) && timeOk t
  | .trainingStateAdvance p words _ => decide (p < 36) && decide (words.length ≤ 8) && words.all (fun w => decide (w < 2 ^ 128))
  | .ts4CountdownEnd p word _ _ _ t => decide (p < 36) && decide (word < 2 ^ 128) && timeOk t
  | .spliceResponseTimeout p => decide (p < 36)
  | .spliceBoundExceeded p _ => decide (p < 36)
  | .lockHoldExpiry p => decide (p < 36)
  | .linkUpFailed p => decide (p < 36)
  | .failedPortRetry p => decide (p < 36)
  | .rxReservedOpcode port op h t => decide (port < 36) && decide (op < 256) && h.wf && timeOk t
  | .read port h addr len _ t => decide (port < 36) && h.wf && decide (addr < 2 ^ 64) && decide (len < 2 ^ 32) && timeOk t
  | .write port h addr data _ t => decide (port < 36) && h.wf && decide (addr < 2 ^ 64) && decide (data.length ≤ 8388736) && timeOk t
  | .atomic port h addr op size _ _ _ t => decide (port < 36) && h.wf && decide (addr < 2 ^ 64) && decide (op < 256) && decide (size < 2 ^ 32) && timeOk t
  | .fence port h t => decide (port < 36) && h.wf && timeOk t
  | .fenceRelease port _ _ t => decide (port < 36) && timeOk t
  | .heartbeat port h t => decide (port < 36) && h.wf && timeOk t
  | .poolOpFill port h addr len plen pat t => decide (port < 36) && h.wf && decide (addr < 2 ^ 64) && decide (len < 2 ^ 64) && decide (plen < 256) && decide (pat < 2 ^ 64) && timeOk t
  | .poolOpCopy port h dst src len t => decide (port < 36) && h.wf && decide (dst < 2 ^ 64) && decide (src < 2 ^ 64) && decide (len < 2 ^ 64) && timeOk t
  | .poolOpCompare port h a b len t => decide (port < 36) && h.wf && decide (a < 2 ^ 64) && decide (b < 2 ^ 64) && decide (len < 2 ^ 64) && timeOk t
  | .poolOpReduce port h fmt func addr len t => decide (port < 36) && h.wf && decide (fmt < 256) && decide (func < 256) && decide (addr < 2 ^ 64) && decide (len < 2 ^ 64) && timeOk t
  | .poolOpDequeue slot p => decide (slot < 32) && decide (p < 64)
  | .stagingBufferGrant slot => decide (slot < 32)
  | .poolOpWindowComplete port _ _ slot => decide (port < 36) && decide (slot < 32)
  | .poolOpComplete port _ => decide (port < 36)
  | .publish port h region staging _ t => decide (port < 36) && h.wf && decide (region < 65536) && decide (staging < 65536) && timeOk t
  | .publishDeferredStart p g t => decide (p < 64) && decide (g < 4096) && timeOk t
  | .publishFlipComplete p g => decide (p < 64) && decide (g < 4096)
  | .publishQuery port h region t => decide (port < 36) && h.wf && decide (region < 65536) && timeOk t
  | .contrib port h _ _ _ offset fmt data t => decide (port < 36) && h.wf && decide (offset < 2 ^ 64) && decide (fmt < 256) && decide (data.length ≤ 8388736) && timeOk t
  | .rdShared port h addr t => decide (port < 36) && h.wf && decide (addr < 2 ^ 64) && timeOk t
  | .rdOwn port h addr t => decide (port < 36) && h.wf && decide (addr < 2 ^ 64) && timeOk t
  | .upgrade port h addr t => decide (port < 36) && h.wf && decide (addr < 2 ^ 64) && timeOk t
  | .dirtyNotify port h addr t => decide (port < 36) && h.wf && decide (addr < 2 ^ 64) && timeOk t
  | .writeback port h addr line t => decide (port < 36) && h.wf && decide (addr < 2 ^ 64) && decide (line.length = 128) && timeOk t
  | .evictClean port h addr t => decide (port < 36) && h.wf && decide (addr < 2 ^ 64) && timeOk t
  | .fwdAck port h _ _ _ t => decide (port < 36) && h.wf && timeOk t
  | .backInvalAck port h _ t => decide (port < 36) && h.wf && timeOk t
  | .uncachedRecallComplete ln t => decide (ln < 36 * 2 ^ 30) && timeOk t
  | .dirEvictionComplete ln t => decide (ln < 36 * 2 ^ 30) && timeOk t
  | .cohGraceExpiry b => decide (b < 4096)
  | .awaitedWritebackTimeout ln => decide (ln < 36 * 2 ^ 30)
  | .invalidateReq port h ctx start len t => decide (port < 36) && h.wf && decide (ctx < 2 ^ 32) && decide (start < 2 ^ 64) && decide (len < 2 ^ 32) && timeOk t
  | .invalidateDrainComplete port _ => decide (port < 36)
  | .pairWrite port h _ offset data t => decide (port < 36) && h.wf && decide (offset < 2 ^ 64) && decide (data.length ≤ 8388736) && timeOk t
  | .pairWriteResp port h t => decide (port < 36) && h.wf && timeOk t
  | .pairResyncSend n tile t => decide (n < 1024) && decide (tile < 36) && timeOk t
  | .doorbell port h _ value t => decide (port < 36) && h.wf && decide (value < 2 ^ 64) && timeOk t
  | .doorbellResp port h t => decide (port < 36) && h.wf && timeOk t
  | .notifyAck port h t => decide (port < 36) && h.wf && timeOk t
  | .windowRead port h off len t => decide (port < 36) && h.wf && decide (off < 2 ^ 32) && decide (len < 2 ^ 32) && timeOk t
  | .windowWrite port h off data t => decide (port < 36) && h.wf && decide (off < 2 ^ 32) && decide (data.length ≤ 8388736) && timeOk t
  | .mgmt port h _ _ _ _ _ t => decide (port < 36) && h.wf && timeOk t
  | .mgmtResp port h t => decide (port < 36) && h.wf && timeOk t
  | .homeRecheck port _ _ t => decide (port < 36) && timeOk t
  | .inboundQueueDispatch port p t => decide (port < 36) && decide (p < 64) && timeOk t
  | .partReqTimeout port dst tag epoch t => decide (port < 36) && decide (dst < 65536) && decide (tag < 65536) && decide (epoch < 4) && timeOk t
  | .completionCacheExpiry port => decide (port < 36)
  | .meshMessageComplete k _ t => k.wf && timeOk t
  | .throttleEnter tile _ _ _ _ t => decide (tile < 36) && timeOk t
  | .throttleLeave tile _ _ _ _ t => decide (tile < 36) && timeOk t
  | .meshHeaderDoubleError tile => decide (tile < 36)
  | .cryptoErase dxn => decide (dxn < 16256)
  | .keyDraw dxn => decide (dxn < 16256)
  | .leaseLate b => decide (b < 4096)
  | .leaseExpiry b => decide (b < 4096)
  | .leaseReclaimComplete b => decide (b < 4096)
  | .deviceExtentQuarantineEnd dxn => decide (dxn < 16256)
  | .dirProbe sess seq part va t => decide (sess < 512) && decide (seq < 2 ^ 32) && decide (part < 64) && decide (va < 2 ^ 64) && timeOk t
  | .stackBurstPick tile pc k _ => decide (tile < 36) && decide (pc < 32) && decide (k < 125000)
  | .perBankRefresh tile pc bank t => decide (tile < 36) && decide (pc < 32) && decide (bank < 48) && timeOk t
  | .targetedRefresh tile pc bank t => decide (tile < 36) && decide (pc < 32) && decide (bank < 48) && timeOk t
  | .hammerThrottleStart tile p => decide (tile < 36) && decide (p < 64)
  | .hammerThrottleEnd tile p => decide (tile < 36) && decide (p < 64)
  | .powerDownEntry tile pc t => decide (tile < 36) && decide (pc < 32) && timeOk t
  | .trainReadEye sess seq tile v t => decide (sess < 512) && decide (seq < 2 ^ 32) && decide (tile < 36) && decide (v < 2 ^ 64) && timeOk t
  | .trainWriteEye sess seq tile v t => decide (sess < 512) && decide (seq < 2 ^ 32) && decide (tile < 36) && decide (v < 2 ^ 64) && timeOk t
  | .trainCommandAddress sess seq tile v t => decide (sess < 512) && decide (seq < 2 ^ 32) && decide (tile < 36) && decide (v < 2 ^ 64) && timeOk t
  | .trainVerify sess seq tile v t => decide (sess < 512) && decide (seq < 2 ^ 32) && decide (tile < 36) && decide (v < 2 ^ 64) && timeOk t
  | .trainStepComplete tile _ _ _ => decide (tile < 36)
  | .retrainReq sess seq tile v t => decide (sess < 512) && decide (seq < 2 ^ 32) && decide (tile < 36) && decide (v < 2 ^ 64) && timeOk t
  | .retrainStart tile t => decide (tile < 36) && timeOk t
  | .retrainComplete tile _ _ _ => decide (tile < 36)
  | .uncorrectableRetry ln _ t => decide (ln < 36 * 2 ^ 30) && timeOk t
  | .poisonSignatureWrite ln t => decide (ln < 36 * 2 ^ 30) && timeOk t
  | .scrubRead tile _ t => decide (tile < 36) && timeOk t
  | .scrubEnableWrite sess seq v t => decide (sess < 512) && decide (seq < 2 ^ 32) && decide (v < 2 ^ 64) && timeOk t
  | .dieRetireWrite sess seq tile v t => decide (sess < 512) && decide (seq < 2 ^ 32) && decide (tile < 36) && decide (v < 2 ^ 64) && timeOk t
  | .dieAlertCheck tile => decide (tile < 36)
  | .testWriteRaw sess seq v t => decide (sess < 512) && decide (seq < 2 ^ 32) && decide (v < 2 ^ 64) && timeOk t
  | .testWriteEncoded sess seq v t => decide (sess < 512) && decide (seq < 2 ^ 32) && decide (v < 2 ^ 64) && timeOk t
  | .testRead sess seq v t => decide (sess < 512) && decide (seq < 2 ^ 32) && decide (v < 2 ^ 64) && timeOk t
  | .testOpExecute _ t => timeOk t
  | .fillStart tile => decide (tile < 36)
  | .fillComplete tile _ => decide (tile < 36)
  | .fillTimeout => true
  | .relocRelocate sess seq v t => decide (sess < 512) && decide (seq < 2 ^ 32) && decide (v < 2 ^ 64) && timeOk t
  | .relocSelftest sess seq v t => decide (sess < 512) && decide (seq < 2 ^ 32) && decide (v < 2 ^ 64) && timeOk t
  | .relocReturn sess seq v t => decide (sess < 512) && decide (seq < 2 ^ 32) && decide (v < 2 ^ 64) && timeOk t
  | .relocAutoStart slot => decide (slot < 32)
  | .relocPrepareComplete _ => true
  | .relocCopyComplete => true
  | .relocDrainComplete => true
  | .selftestComplete code => decide (code < 2 ^ 30)
  | .stackLost tile => decide (tile < 36)
  | .ringDoorbell port h r v t => decide (port < 36) && h.wf && decide (r < 16) && decide (v < 2 ^ 64) && timeOk t
  | .descriptorFetch p r => decide (p < 64) && decide (r < 16)
  | .translateResp port h _ t => decide (port < 36) && h.wf && timeOk t
  | .pageResp port h t => decide (port < 36) && h.wf && timeOk t
  | .moverChunkStart slot engine t => decide (slot < 32) && decide (engine < 4) && timeOk t
  | .moveWriteResp port h t => decide (port < 36) && h.wf && timeOk t
  | .moveReadResp port h data t => decide (port < 36) && h.wf && decide (data.length ≤ 8388736) && timeOk t
  | .moverTaskComplete p r slab => decide (p < 64) && decide (r < 16) && decide (slab < 4)
  | .completionRecordAck p r slab => decide (p < 64) && decide (r < 16) && decide (slab < 4)
  | .ringHaltComplete p r => decide (p < 64) && decide (r < 16)
  | .ringRestart port h r v t => decide (port < 36) && h.wf && decide (r < 16) && decide (v < 2 ^ 64) && timeOk t
  | .slabProbe sess seq v t => decide (sess < 512) && decide (seq < 2 ^ 32) && decide (v < 2 ^ 64) && timeOk t
  | .go port h v t => decide (port < 36) && h.wf && decide (v < 2 ^ 64) && timeOk t
  | .cycleBudgetExhausted slot ctx t => decide (slot < 32) && decide (ctx < 16) && timeOk t
  | .barrierArrival slot ctx => decide (slot < 32) && decide (ctx < 16)
  | .barrierRelease slot ctx => decide (slot < 32) && decide (ctx < 16)
  | .postedStoreRefusal slot ctx => decide (slot < 32) && decide (ctx < 16)
  | .contextClear port h v t => decide (port < 36) && h.wf && decide (v < 2 ^ 64) && timeOk t
  | .eventConsumed port h v t => decide (port < 36) && h.wf && decide (v < 2 ^ 64) && timeOk t
  | .illegalInstruction slot ctx _ t => decide (slot < 32) && decide (ctx < 16) && timeOk t
  | .add slot ctx _ t => decide (slot < 32) && decide (ctx < 16) && timeOk t
  | .sub slot ctx _ t => decide (slot < 32) && decide (ctx < 16) && timeOk t
  | .mul slot ctx _ t => decide (slot < 32) && decide (ctx < 16) && timeOk t
  | .mulhu slot ctx _ t => decide (slot < 32) && decide (ctx < 16) && timeOk t
  | .and slot ctx _ t => decide (slot < 32) && decide (ctx < 16) && timeOk t
  | .or slot ctx _ t => decide (slot < 32) && decide (ctx < 16) && timeOk t
  | .xor slot ctx _ t => decide (slot < 32) && decide (ctx < 16) && timeOk t
  | .shl slot ctx _ t => decide (slot < 32) && decide (ctx < 16) && timeOk t
  | .shr slot ctx _ t => decide (slot < 32) && decide (ctx < 16) && timeOk t
  | .sar slot ctx _ t => decide (slot < 32) && decide (ctx < 16) && timeOk t
  | .slt slot ctx _ t => decide (slot < 32) && decide (ctx < 16) && timeOk t
  | .sltu slot ctx _ t => decide (slot < 32) && decide (ctx < 16) && timeOk t
  | .li slot ctx _ t => decide (slot < 32) && decide (ctx < 16) && timeOk t
  | .lih slot ctx _ t => decide (slot < 32) && decide (ctx < 16) && timeOk t
  | .br slot ctx _ t => decide (slot < 32) && decide (ctx < 16) && timeOk t
  | .jal slot ctx _ t => decide (slot < 32) && decide (ctx < 16) && timeOk t
  | .jr slot ctx _ t => decide (slot < 32) && decide (ctx < 16) && timeOk t
  | .sopen slot ctx _ t => decide (slot < 32) && decide (ctx < 16) && timeOk t
  | .sclose slot ctx _ t => decide (slot < 32) && decide (ctx < 16) && timeOk t
  | .spos slot ctx _ t => decide (slot < 32) && decide (ctx < 16) && timeOk t
  | .srd slot ctx _ t => decide (slot < 32) && decide (ctx < 16) && timeOk t
  | .srdx slot ctx _ t => decide (slot < 32) && decide (ctx < 16) && timeOk t
  | .tldg slot ctx _ _ t => decide (slot < 32) && decide (ctx < 16) && timeOk t
  | .tstg slot ctx _ t => decide (slot < 32) && decide (ctx < 16) && timeOk t
  | .tldv slot ctx _ _ t => decide (slot < 32) && decide (ctx < 16) && timeOk t
  | .tstv slot ctx _ t => decide (slot < 32) && decide (ctx < 16) && timeOk t
  | .tldq slot ctx _ _ t => decide (slot < 32) && decide (ctx < 16) && timeOk t
  | .tstq slot ctx _ t => decide (slot < 32) && decide (ctx < 16) && timeOk t
  | .tldm slot ctx _ _ t => decide (slot < 32) && decide (ctx < 16) && timeOk t
  | .tstm slot ctx _ t => decide (slot < 32) && decide (ctx < 16) && timeOk t
  | .pldg slot ctx _ t => decide (slot < 32) && decide (ctx < 16) && timeOk t
  | .pstg slot ctx _ t => decide (slot < 32) && decide (ctx < 16) && timeOk t
  | .pstv slot ctx _ t => decide (slot < 32) && decide (ctx < 16) && timeOk t
  | .vadd slot ctx _ t => decide (slot < 32) && decide (ctx < 16) && timeOk t
  | .vsub slot ctx _ t => decide (slot < 32) && decide (ctx < 16) && timeOk t
  | .vmul slot ctx _ t => decide (slot < 32) && decide (ctx < 16) && timeOk t
  | .vfma slot ctx _ t => decide (slot < 32) && decide (ctx < 16) && timeOk t
  | .vmin slot ctx _ t => decide (slot < 32) && decide (ctx < 16) && timeOk t
  | .vmax slot ctx _ t => decide (slot < 32) && decide (ctx < 16) && timeOk t
  | .vand slot ctx _ t => decide (slot < 32) && decide (ctx < 16) && timeOk t
  | .vor slot ctx _ t => decide (slot < 32) && decide (ctx < 16) && timeOk t
  | .vxor slot ctx _ t => decide (slot < 32) && decide (ctx < 16) && timeOk t
  | .vcmpEq slot ctx _ t => decide (slot < 32) && decide (ctx < 16) && timeOk t
  | .vcmpNe slot ctx _ t => decide (slot < 32) && decide (ctx < 16) && timeOk t
  | .vcmpLt slot ctx _ t => decide (slot < 32) && decide (ctx < 16) && timeOk t
  | .vcmpLe slot ctx _ t => decide (slot < 32) && decide (ctx < 16) && timeOk t
  | .vsel slot ctx _ t => decide (slot < 32) && decide (ctx < 16) && timeOk t
  | .vbcast slot ctx _ t => decide (slot < 32) && decide (ctx < 16) && timeOk t
  | .vmov slot ctx _ t => decide (slot < 32) && decide (ctx < 16) && timeOk t
  | .qrd slot ctx _ t => decide (slot < 32) && decide (ctx < 16) && timeOk t
  | .qwr slot ctx _ t => decide (slot < 32) && decide (ctx < 16) && timeOk t
  | .qzero slot ctx _ t => decide (slot < 32) && decide (ctx < 16) && timeOk t
  | .mopAnd slot ctx _ t => decide (slot < 32) && decide (ctx < 16) && timeOk t
  | .mopOr slot ctx _ t => decide (slot < 32) && decide (ctx < 16) && timeOk t
  | .mopXor slot ctx _ t => decide (slot < 32) && decide (ctx < 16) && timeOk t
  | .mopAndNot slot ctx _ t => decide (slot < 32) && decide (ctx < 16) && timeOk t
  | .mset slot ctx _ t => decide (slot < 32) && decide (ctx < 16) && timeOk t
  | .mfs slot ctx _ _ t => decide (slot < 32) && decide (ctx < 16) && timeOk t
  | .mfsTransposed slot ctx _ _ t => decide (slot < 32) && decide (ctx < 16) && timeOk t
  | .sfnExp2 slot ctx _ t => decide (slot < 32) && decide (ctx < 16) && timeOk t
  | .sfnLog2 slot ctx _ t => decide (slot < 32) && decide (ctx < 16) && timeOk t
  | .sfnReciprocal slot ctx _ t => decide (slot < 32) && decide (ctx < 16) && timeOk t
  | .sfnRsqrt slot ctx _ t => decide (slot < 32) && decide (ctx < 16) && timeOk t
  | .sfnTanh slot ctx _ t => decide (slot < 32) && decide (ctx < 16) && timeOk t
  | .vcvt slot ctx _ t => decide (slot < 32) && decide (ctx < 16) && timeOk t
  | .vqnt slot ctx _ t => decide (slot < 32) && decide (ctx < 16) && timeOk t
  | .vdq slot ctx _ t => decide (slot < 32) && decide (ctx < 16) && timeOk t
  | .vredSum slot ctx _ t => decide (slot < 32) && decide (ctx < 16) && timeOk t
  | .vredMin slot ctx _ t => decide (slot < 32) && decide (ctx < 16) && timeOk t
  | .vredMax slot ctx _ t => decide (slot < 32) && decide (ctx < 16) && timeOk t
  | .vredArgmax slot ctx _ t => decide (slot < 32) && decide (ctx < 16) && timeOk t
  | .topk slot ctx _ t => decide (slot < 32) && decide (ctx < 16) && timeOk t
  | .reelContrib slot ctx _ _ t => decide (slot < 32) && decide (ctx < 16) && timeOk t
  | .bar slot ctx _ t => decide (slot < 32) && decide (ctx < 16) && timeOk t
  | .cut slot ctx _ t => decide (slot < 32) && decide (ctx < 16) && timeOk t
  | .sysrFrame slot ctx _ t => decide (slot < 32) && decide (ctx < 16) && timeOk t
  | .sysrBudget slot ctx _ t => decide (slot < 32) && decide (ctx < 16) && timeOk t
  | .sysrGuardCycles slot ctx _ t => decide (slot < 32) && decide (ctx < 16) && timeOk t
  | .sysrFpFlags slot ctx _ t => decide (slot < 32) && decide (ctx < 16) && timeOk t
  | .sysrSlot slot ctx _ t => decide (slot < 32) && decide (ctx < 16) && timeOk t
  | .sysrContext slot ctx _ t => decide (slot < 32) && decide (ctx < 16) && timeOk t
  | .sysrSrCounter slot ctx _ t => decide (slot < 32) && decide (ctx < 16) && timeOk t
  | .sysrLaunchTag slot ctx _ t => decide (slot < 32) && decide (ctx < 16) && timeOk t
  | .sysrSplitMode slot ctx _ t => decide (slot < 32) && decide (ctx < 16) && timeOk t
  | .clrf slot ctx _ t => decide (slot < 32) && decide (ctx < 16) && timeOk t
  | .nop slot ctx _ t => decide (slot < 32) && decide (ctx < 16) && timeOk t
  | .dbell slot ctx _ t => decide (slot < 32) && decide (ctx < 16) && timeOk t
  | .mbxrecv slot ctx _ t => decide (slot < 32) && decide (ctx < 16) && timeOk t
  | .mbxack slot ctx _ t => decide (slot < 32) && decide (ctx < 16) && timeOk t
  | .mbxsend slot ctx _ t => decide (slot < 32) && decide (ctx < 16) && timeOk t
  | .endReel slot ctx _ t => decide (slot < 32) && decide (ctx < 16) && timeOk t
  | .compCreate port h v t => decide (port < 36) && h.wf && decide (v < 2 ^ 64) && timeOk t
  | .compExcuse port h v t => decide (port < 36) && h.wf && decide (v < 2 ^ 64) && timeOk t
  | .compClose port h v t => decide (port < 36) && h.wf && decide (v < 2 ^ 64) && timeOk t
  | .chunkComplete n _ => decide (n < 1024)
  | .compositeComplete n => decide (n < 1024)
  | .compositeStall n => decide (n < 1024)
  | .partitionQuarantineEnd p => decide (p < 64)
  | .lockRequest sess seq p _ _ t => decide (sess < 512) && decide (seq < 2 ^ 32) && decide (p < 64) && timeOk t
  | .unlockRequest sess seq p _ t => decide (sess < 512) && decide (seq < 2 ^ 32) && decide (p < 64) && timeOk t
  | .drbgReseed => true
  | .drbgHealthFailure tile => decide (tile < 36)
  | .spdmGetVersion via _ h t => decide (via < 66) && h.wf && timeOk t
  | .spdmGetCapabilities via _ h _ t => decide (via < 66) && h.wf && timeOk t
  | .spdmNegotiateAlgorithms via _ h _ t => decide (via < 66) && h.wf && timeOk t
  | .spdmGetDigests via _ h t => decide (via < 66) && h.wf && timeOk t
  | .spdmGetCertificate via _ h slot off len t => decide (via < 66) && h.wf && decide (slot < 256) && decide (off < 2 ^ 32) && decide (len < 2 ^ 32) && timeOk t
  | .spdmChallenge via _ h slot _ _ t => decide (via < 66) && h.wf && decide (slot < 256) && timeOk t
  | .spdmGetMeasurements via _ h _ _ slot _ t => decide (via < 66) && h.wf && decide (slot < 256) && timeOk t
  | .spdmKeyExchange via _ h _ _ _ _ _ t => decide (via < 66) && h.wf && timeOk t
  | .spdmFinish via _ h _ _ _ t => decide (via < 66) && h.wf && timeOk t
  | .spdmHeartbeat via _ h sess _ _ t => decide (via < 66) && h.wf && decide (sess < 548) && timeOk t
  | .spdmKeyUpdate via _ h sess _ _ op t => decide (via < 66) && h.wf && decide (sess < 548) && decide (op < 256) && timeOk t
  | .spdmEndSession via _ h sess _ _ t => decide (via < 66) && h.wf && decide (sess < 548) && timeOk t
  | .linkSpdmAttempt p t => decide (p < 36) && timeOk t
  | .spdmResponseReceived p h _ t => decide (p < 36) && h.wf && timeOk t
  | .spdmAttemptRetry p t => decide (p < 36) && timeOk t
  | .sealRequest sess seq p data t => decide (sess < 512) && decide (seq < 2 ^ 32) && decide (p < 64) && decide (data.length ≤ 8388736) && timeOk t
  | .sealHashComplete p => decide (p < 64)
  | .debugBscan sess seq v t => decide (sess < 512) && decide (seq < 2 ^ 32) && decide (v < 2 ^ 64) && timeOk t
  | .debugCoreDebug sess seq v t => decide (sess < 512) && decide (seq < 2 ^ 32) && decide (v < 2 ^ 64) && timeOk t
  | .debugInternalScan sess seq v t => decide (sess < 512) && decide (seq < 2 ^ 32) && decide (v < 2 ^ 64) && timeOk t
  | .mgmtDatagram n _ _ _ _ _ _ t => decide (n < 2) && timeOk t
  | .securedMessage via _ h sess _ _ _ _ _ t => decide (via < 66) && h.wf && decide (sess < 548) && timeOk t
  | .mgmtNetworkPacket n _ _ data => decide (n < 2) && decide (data.length ≤ 8388736)
  | .fligiferRead sess seq idx sb off _ _ t => decide (sess < 512) && decide (seq < 2 ^ 32) && decide (idx < 65536) && decide (sb < 256) && decide (off < 2 ^ 32) && timeOk t
  | .fligiferWrite sess seq idx sb off data t => decide (sess < 512) && decide (seq < 2 ^ 32) && decide (idx < 65536) && decide (sb < 256) && decide (off < 2 ^ 32) && decide (data.length ≤ 8388736) && timeOk t
  | .blockOpen sess seq idx sb off size _ t => decide (sess < 512) && decide (seq < 2 ^ 32) && decide (idx < 65536) && decide (sb < 256) && decide (off < 2 ^ 32) && decide (size < 2 ^ 32) && timeOk t
  | .blockData sess seq _ _ len data t => decide (sess < 512) && decide (seq < 2 ^ 32) && decide (len < 2 ^ 32) && decide (data.length ≤ 8388736) && timeOk t
  | .blockCommit sess seq _ _ _ _ t => decide (sess < 512) && decide (seq < 2 ^ 32) && timeOk t
  | .blockCancel sess seq _ t => decide (sess < 512) && decide (seq < 2 ^ 32) && timeOk t
  | .firmwareActivate sess seq v t => decide (sess < 512) && decide (seq < 2 ^ 32) && decide (v < 2 ^ 64) && timeOk t
  | .managerAnchorsWrite sess seq off data t => decide (sess < 512) && decide (seq < 2 ^ 32) && decide (off < 2 ^ 32) && decide (data.length ≤ 8388736) && timeOk t
  | .subscribe sess seq _ _ start t => decide (sess < 512) && decide (seq < 2 ^ 32) && decide (start < 2 ^ 64) && timeOk t
  | .unsubscribe sess seq _ t => decide (sess < 512) && decide (seq < 2 ^ 32) && timeOk t
  | .dailiesDataSend _ _ => true
  | .dailiesAck sess seq _ t => decide (sess < 512) && decide (seq < 2 ^ 32) && timeOk t
  | .dailiesResend _ => true
  | .sessionIdleTimeout sess => decide (sess < 512)
  | .sessionHeartbeatTimeout sess => decide (sess < 548)
  | .errClear port h v t => decide (port < 36) && h.wf && decide (v < 2 ^ 64) && timeOk t
  | .mgmtCmdPing b => decide (b < 4096)
  | .mgmtCmdLease b => decide (b < 4096)
  | .mgmtCmdTake b => decide (b < 4096)
  | .pubStateRead port h t => decide (port < 36) && h.wf && timeOk t
  | .mbxIn port h slot ctx v t => decide (port < 36) && h.wf && decide (slot < 32) && decide (ctx < 16) && decide (v < 2 ^ 64) && timeOk t
  | .mbxOutState port h slot ctx v t => decide (port < 36) && h.wf && decide (slot < 32) && decide (ctx < 16) && decide (v < 2 ^ 64) && timeOk t
  | .rollupSign _ => true
  | .sensorSample tile _ t => decide (tile < 36) && timeOk t
  | .allowanceReached slot p => decide (slot < 32) && decide (p < 64)
  | .sharedBudgetHalving => true
  | .peakWindowArm => true
  | .peakWindowExpiry => true
  | .coolantReport sess seq v t => decide (sess < 512) && decide (seq < 2 ^ 32) && decide (v < 2 ^ 64) && timeOk t
  | .coolantReportStale => true
  | .powerOn => true
  | .brownOut => true
  | .resetNAssert _ _ => true
  | .coldBoot => true
  | .fuseReadComplete => true
  | .pllLock => true
  | .pllLockTimeout => true
  | .refclkFailure => true
  | .pwrgdLow => true
  | .wresetN _ _ t => timeOk t
  | .watchdogExpiry t => timeOk t
  | .warmResetReq sess seq v t => decide (sess < 512) && decide (seq < 2 ^ 32) && decide (v < 2 ^ 64) && timeOk t
  | .tapWarmReset t => timeOk t
  | .coreLockup t => timeOk t
  | .leadHeartbeatMissing t => timeOk t
  | .tileReset tile _ => decide (tile < 36)
  | .resetNotice tile => decide (tile < 36)
  | .partitionReset sess seq p t => decide (sess < 512) && decide (seq < 2 ^ 32) && decide (p < 64) && timeOk t
  | .resetCauseWrite sess seq v t => decide (sess < 512) && decide (seq < 2 ^ 32) && decide (v < 2 ^ 64) && timeOk t
  | .smbusTransaction addr code _ data _ t => decide (addr < 128) && decide (code < 256) && decide (data.length ≤ 8388736) && timeOk t
  | .vauxLost => true
  | .mgmtPortLinkChange n _ => decide (n < 2)
  | .unmatchedResponse port op h t => decide (port < 36) && decide (op < 256) && h.wf && timeOk t
  | .unreceivableRequest port op h t => decide (port < 36) && decide (op < 256) && h.wf && timeOk t
  | .tileStoreMoveComplete t => timeOk t
  | .bootRomImageStart _ _ => true
  | .slateOutFall => true
  | .tapInstruction op => decide (op < 256)
  | .rebindScrubComplete kind _ _ t => decide (kind < 4) && timeOk t

end Sys2Proof
end

