-- ==== Sys2Proof/Tests/Slice0.lean ====
section
/-! SUPPORT. The author's own tests: an ill-formed operand for each check of WellFormed, worked examples of the manual, and for each
obligation with hypotheses a state and operands that meet them, clause by clause. -/

namespace Sys2Proof.Test

set_option Elab.async false

open Sys2Proof Sys2Proof.Machine

/-! ### Small states -/

/-- The state after power-on with some elements set. -/
def st (l : List (Nat × Nat)) : State := State.reset.wrs l

/-- FIRMWARE_STATUS of a part whose first image runs. -/
def runs : Nat × Nat := (K.firmwareStatus, 2 ^ 30)

/-- A binding descriptor of endpoint `eid` on port `port` to partition `p`, with every right. -/
def bd (port p eid : Nat) : Nat := 2 ^ 63 + port * 2 ^ 50 + p * 2 ^ 44 + 0xFFF * 2 ^ 32 + eid * 2 ^ 16 + 0xFFFF

/-- An extent map entry of kind `kind` with device extent `dxn`. -/
def ext (kind dxn : Nat) : Nat := 2 ^ 63 + kind * 2 ^ 60 + dxn * 2 ^ 36

/-- Port 7 is SECURE and admitted at full width; partition 9 is ACTIVE under incarnation 1; endpoint 0x213 is bound to it there as
binding 12, with a live lease; its extents 0 to 2 are plain, coherent and a publish extent. -/
def link9 : List (Nat × Nat) :=
  [runs, (K.portState 7, 3), (K.portEid 7, 0x100), (K.portAdmitted 7, 1), (K.trainedConfig 7, 0xFF000B), (K.partitionStatus 9, 1),
    (K.incarnation 9, 1), (K.bindings 12, bd 7 9 0x213), (K.leaseState 12, 1), (K.leaseExpiry 12, 400),
    (K.extentMap 9 0, ext 0 0), (K.extentMap 9 1, ext 1 1), (K.extentMap 9 2, ext 3 2), (K.keyState 0, 1), (K.keyState 1, 1)]

/-- That state, with more elements set, booted, its device extents tagged. -/
def host (l : List (Nat × Nat)) : State :=
  { st (link9 ++ l) with
    boot := { State.reset.boot with service := true, released := true, locked := true }
    tags := [(0, 0x2401), (1, 0x2401), (2, 0x2401)]
    keyIds := [(0, 1), (1, 2)] }

/-- A request header from endpoint 0x213 with message length `len`. -/
def hd (len : Nat) : Hdr := ⟨0, len, 0x213, 0x100, 0x2401, 1, 0, 0⟩

/-- The part's own firmware manages while it runs. -/
theorem own_manages (s : State) (seq : Nat) (h : s.firmwareRuns = true) : Manages s 256 seq := ⟨.inl ⟨rfl, h⟩, rfl⟩

/-- A MANAGER's session 0 that has sent nothing yet, beside the elements `l`. -/
def sess0 (l : List (Nat × Nat)) : State := { st (runs :: l) with sess := [(0, { cls := 2 })] }

/-- It manages. -/
theorem sess_manages (s : State) (seq : Nat) (x : Sess) (hs : s.session 0 = some x) (he : x.expect = none) (hc : x.cls = 2)
    (hq : seq < 2 ^ 32) (hf : s.firmState ≠ 0) : Manages s 0 seq :=
  ⟨.inr ⟨by decide, hq, hf, x, hs, .inl he⟩, by simp [State.classOf, hs, ownSession, hc]⟩

/-- `Starts` as a computation. -/
def startsOk (s : State) (port op : Nat) (h : Hdr) (b : List Byte) (bind t : Nat) : Bool :=
  (s.at t).portOpen port && decide ((s.at t).checkArrival port op h b = .accepted bind) &&
  ((!(decide (op = 0x04) || bit h.flags 6)) || !(s.accepted port op h b bind t).2.earlier (s.accepted port op h b bind t).1) &&
  (!needsService op || s.boot.service) &&
  (noBinding op || ((s.accepted port op h b bind t).2.mayInject port (handlePart h.handle) (msgCells h.len) &&
    ((s.accepted port op h b bind t).2.queued port (handlePart h.handle)).isEmpty))

/-- It says so. -/
theorem starts_of {s : State} {port op : Nat} {h : Hdr} {b : List Byte} {bind t : Nat} (ok : startsOk s port op h b bind t = true) :
    Starts s port op h b bind t := by
  simp only [startsOk, Bool.and_eq_true, decide_eq_true_eq, Bool.or_eq_true, Bool.not_eq_true', List.isEmpty_iff,
    Bool.or_eq_false_iff, decide_eq_false_iff_not] at ok
  obtain ⟨⟨⟨⟨a, b⟩, c⟩, e⟩, f⟩ := ok
  refine ⟨a, b, fun x => ?_, fun x => ?_, fun x => ?_⟩
  · rcases c with c | c
    · rcases x with x | x
      · exact absurd x c.1
      · rw [c.2] at x; exact absurd x (by decide)
    · exact c
  · rcases e with e | e
    · rw [e] at x; exact absurd x (by decide)
    · exact e
  · rcases f with f | f
    · rw [f] at x; exact absurd x (by decide)
    · exact f

/-- `WinStarts` as a computation. -/
def winOk (s : State) (port off v : Nat) (h : Hdr) (bind t : Nat) : Bool :=
  startsOk s port 0x63 h (winBody off v) bind t && ((s.began port 0x63 h (winBody off v) bind t).winWaits bind off v).isNone

/-- It says so. -/
theorem winStarts_of {s : State} {port off v : Nat} {h : Hdr} {bind t : Nat} (ok : winOk s port off v h bind t = true) :
    WinStarts s port off v h bind t := by
  simp only [winOk, Bool.and_eq_true, Option.isNone_iff_eq_none] at ok
  exact ⟨starts_of ok.1, ok.2⟩

/-- `Matches` as a computation. -/
def matchesOk (s : State) (port op : Nat) (h : Hdr) (t : Nat) (x : PartReq) : Bool :=
  (s.at t).portOpen port && decide (h.dst = s.rd (K.portEid port)) && (s.at t).passes port (op % 128) &&
  decide ((s.at t).matchResp port h = some x) && legalResp x.msg.op op

/-- It says so. -/
theorem matches_of {s : State} {port op : Nat} {h : Hdr} {t : Nat} {x : PartReq} (ok : matchesOk s port op h t x = true) :
    Matches s port op h t x := by
  simp only [matchesOk, Bool.and_eq_true, decide_eq_true_eq] at ok
  exact ⟨ok.1.1.1.1, ok.1.1.1.2, ok.1.1.2, ok.1.2, ok.2⟩

/-! ### Hypotheses of the statements that something meets: dictionary writes and Fligifer -/

/-- FrameAndTakeWrites: its modes, its load values, each state of a take, at the first and last value of the source. -/
theorem test_hyps_FrameAndTakeWrites :
    (Manages (st [runs]) 256 0 ∧ (st [runs]).takeState = 0 ∧ (0 : Nat) = (st [runs]).rd K.takeNumber ∧ (2 : Nat) ≤ 2 ∧
      2 ^ 64 - 1 < 2 ^ 64) ∧
    (∃ s : State, Manages s 256 0 ∧ s.takeState = 1 ∧ s.take.session = some 256) ∧
    (∃ s : State, Manages s 256 0 ∧ s.takeState = 2) ∧ (∃ s : State, Manages s 256 0 ∧ s.takeState = 3) ∧
    Manages (sess0 []) 0 (2 ^ 32 - 1) := by
  refine ⟨⟨own_manages _ _ (by decide +kernel), by decide +kernel⟩,
    ⟨{ st [runs, (K.takeState, 1)] with take := { State.reset.take with session := some 256 } }, own_manages _ _ (by decide +kernel),
      by decide +kernel⟩,
    ⟨st [runs, (K.takeState, 2)], own_manages _ _ (by decide +kernel), by decide +kernel⟩,
    ⟨st [runs, (K.takeState, 3)], own_manages _ _ (by decide +kernel), by decide +kernel⟩,
    sess_manages _ _ _ rfl rfl rfl (by decide) (by decide +kernel)⟩

/-- A state whose frame logic is `f`, with the elements `l` set. -/
def flst (l : List (Nat × Nat)) (f : FrameLogic) : State := { st l with fl := f }

/-- SlateSources: each source's mode, the window's last nanosecond and the first past it, a lost source, a source to be aligned. -/
theorem test_hyps_SlateSources :
    ((st [(K.slateSource, 2)]).rd K.slateSource = 2 ∧ (st [(K.slateSource, 2)]).sourceLost = false ∧
      (st [(K.slateSource, 2), (K.slateInWindow, 1000)]).rd K.slateInWindow = 1000 ∧ (-1000 : Int).natAbs ≤ 1000 ∧
      1000 < (1001 : Int).natAbs ∧ (st []).fl.aligning = false ∧
      (flst [(K.slateSource, 2)] { aligning := true }).fl.aligning = true) ∧
    (16 ≤ (flst [(K.slateSource, 2)] { missed := 16 }).fl.missed) ∧
    ((flst [(K.slateSource, 2), (K.frameStatus, 16)] { regained := 4 }).sourceLost = true ∧
      (flst [(K.slateSource, 2), (K.frameStatus, 16)] { regained := 4 }).rd K.slateSource = 2) ∧
    ((st [(K.slateSource, 1)]).rd K.slateSource = 1 ∧ 0 = (st [(K.slateSource, 1)]).rd K.ptpDomain ∧
      0 = (st [(K.slateSource, 1)]).rd K.ptpPort ∧ (st [(K.slateSource, 1), (K.ptpPort, 2)]).rd K.ptpPort = 2 ∧ bit ((st [(K.slateSource, 1)]).rd K.frameStatus) 5 = false) ∧
    (16 ≤ (flst [(K.slateSource, 1)] { ptpGood := 16, ptpTime := true }).fl.ptpGood) := by decide +kernel

/-- TakeCommitAndArm: a staging on the base in force whose shadow is valid, its target none, too near or too far, and the slate of a pending
take come to its arm point. -/
theorem test_hyps_TakeCommitAndArm_states :
    Manages { st [runs, (K.takeState, 1)] with take := { State.reset.take with session := some 256 } } 256 0 ∧
    ({ st [runs, (K.takeState, 1)] with take := { State.reset.take with session := some 256 } } : State).take.base =
      (st [runs]).rd K.takeNumber ∧
    (st [runs, (K.takeState, 1), (K.takeTargetFrame, 240001)]).frame + 240000 <
      (st [runs, (K.takeState, 1), (K.takeTargetFrame, 240001)]).rd K.takeTargetFrame ∧
    (st [runs, (K.takeState, 1), (K.takeTargetFrame, 1)]).rd K.takeTargetFrame <
      ((st [runs, (K.takeState, 1), (K.takeTargetFrame, 1)]).heard 256 240000).earliestTarget ∧
    (st [(K.takeState, 2)]).take.target ≤ ((st [(K.takeState, 2)]).at ((st [(K.takeState, 2)]).frameNs - 20000)).comingFrame :=
  ⟨own_manages _ _ (by decide +kernel), by decide +kernel⟩

/-- The call sheet after reset is valid. -/
theorem test_hyps_TakeCommitAndArm_valid :
    (({ st [runs, (K.takeState, 1)] with take := { State.reset.take with session := some 256 } } : State).heard 256 0).takeFault = none := by
  decide +kernel

/-- StackControlWrites: a stack that is up, one that is refreshing, the last die, the last pseudo-channel, each mode's word. -/
theorem test_hyps_StackControlWrites :
    Manages (st [runs, (K.stackState 35, 1)]) 256 0 ∧
    ((st [runs, (K.stackState 35, 1)]).rd (K.stackState 35) = 1 ∧ bit ((st [runs, (K.stackState 35, 1)]).rd (K.trainCtrl 35)) 31 = false ∧
      (st [runs, (K.stackState 35, 3)]).rd (K.stackState 35) = 3) ∧
    (fld 0x1F000004 3 2 < 2 ∧ bit 0x1F000004 0 = false) ∧
    (((st [runs]).stack 35).retrainAsk = none ∧ ((st [runs]).stack 35).retraining = none) ∧
    ((st [runs, (K.dieRetire 35, 0xFF)]).rd (K.dieRetire 35) = 0xFF ∧ (st [runs, (K.dieRetire 35, 17)]).rd (K.dieRetire 35) ≠ 0xFF) :=
  ⟨own_manages _ _ (by decide +kernel), by decide +kernel⟩

/-- TestRelocAndProbeWrites: a free test unit and a used one, a standby target and a return tile, a coherent line in the directory,
an address mapped and one not. -/
theorem test_hyps_TestRelocAndProbeWrites :
    Manages (st [runs]) 256 0 ∧
    (bit (17 * 2 ^ 22) 30 = false ∧ fld (17 * 2 ^ 22) 26 22 < 18 ∧ fld (17 * 2 ^ 22) 21 0 = 0 ∧ (st [runs]).test = none ∧
      (st [runs]).inService (fld ((st [runs]).rd K.testAddr) 42 37) = true ∧
      dpos (dpaLocal ((st [runs]).rd K.testAddr)) < 16256 ∧ (st [runs]).rd (K.dxnState (dpos (dpaLocal ((st [runs]).rd K.testAddr)))) = 0) ∧
    (fld (31 * 2 ^ 24 + 35 * 2 ^ 18) 17 0 = 0 ∧ fld (31 * 2 ^ 24 + 35 * 2 ^ 18) 28 24 = 31 ∧ fld (31 * 2 ^ 24 + 35 * 2 ^ 18) 23 18 = 35 ∧
      (st [runs, (K.tileState 35, 1)]).cont.reloc = none ∧ (st [runs, (K.tileState 35, 1)]).standby 35 = true ∧
      (st [runs, (K.tileState 35, 1)]).quadrantOk 31 35 = true) ∧
    (Tab.find ({ st [] with cont := { State.reset.cont with returnTile := [(31, 35)] } } : State).cont.returnTile 31 = some 35) ∧
    (((host []).heard 256 0).mapped 9 (2 ^ 28) = some (ext 1 1) ∧ eKind (ext 1 1) = 1 ∧ ((host []).heard 256 0).mapped 9 (2 ^ 47) = none) :=
  ⟨own_manages _ _ (by decide +kernel), by decide +kernel⟩

/-- Partition 5 with the key of a lock and nothing else. -/
def keyed (l : List (Nat × Nat)) : State := { st (runs :: l) with parts := [(5, { key := some (List.replicate 48 7#8) })] }

/-- LockAndSealRequests: a tenant whose root the partition's anchor names, a token that checks and one that does not, an extent to
seal. -/
theorem test_hyps_LockAndSealRequests :
    (∃ (s : State) (x : Sess), Manages s 0 (2 ^ 32 - 1) ∧ s.session 0 = some x ∧ x.mutualAuth = true ∧
      x.rootDigest = s.rd (K.lockTenantAnchor 63) ∧ s.active 63 = true ∧ s.rd (K.lockState 63) % 4 = 0 ∧ s.rd (K.lockEnable 63) = 1 ∧
      s.takeState ≠ 2 ∧ s.takeState ≠ 3 ∧ s.incarnation 63 < 2 ^ 16 ∧ (s.heard 0 0).measurement 63 < 2 ^ 384) ∧
    ((List.replicate 48 0#8).length = 48 ∧
      (keyed []).tokenOk 2 5 ((keyed []).rd K.takeNumber) (List.replicate 48 0#8) (List.replicate 48 0#8) = false) ∧
    (Manages (host []) 256 0 ∧ ((toLE 2 0 ++ List.replicate 50 0#8).length = 52) ∧ ((host []).part 9).sealJob = none ∧
      eValid ((host []).entry 9 0) = true ∧ eKind ((host []).entry 9 0) = 0 ∧ eSealed ((host []).entry 9 0) = false ∧
      eHeld ((host []).entry 9 0) = false ∧ (host []).rd (K.lockState 9) % 4 = 0) := by
  refine ⟨⟨{ st [runs, (K.partitionStatus 63, 1), (K.lockEnable 63, 1), (K.lockTenantAnchor 63, 77)] with
      sess := [(0, { cls := 2, mutualAuth := true, rootDigest := 77 })] }, _,
      sess_manages _ _ _ rfl rfl rfl (by decide) (by decide +kernel), rfl, by decide +kernel⟩, by decide +kernel,
    own_manages _ _ (by decide +kernel), by decide +kernel⟩

/-- LockAndSealRequests: a token that checks. -/
theorem test_hyps_LockAndSealRequests_token :
    (keyed []).tokenOk 2 5 ((keyed []).rd K.takeNumber) (List.replicate 48 0#8)
      (hmac384 (List.replicate 48 7#8) ((keyed []).tokenMsg 2 5 ((keyed []).rd K.takeNumber) (List.replicate 48 0#8))) = true := by
  decide +kernel

/-- DebugPolicyWrites: no bit set and no partition in use, a partition in use, a bit set without a lower one. -/
theorem test_hyps_DebugPolicyWrites :
    Manages (st [runs]) 256 0 ∧ ((st [runs]).rd K.debugPolicy = 0 ∧ ∀ p, p < 64 → (st [runs]).rd (K.partitionStatus p) = 0) ∧
    ((st [runs, (K.partitionStatus 63, 1)]).rd (K.partitionStatus 63) ≠ 0) ∧
    ((st [runs, (K.debugPolicy, 2)]).rd K.debugPolicy = 2 ∧ bit 2 1 = true ∧ bit 2 0 = false) ∧
    Tab.find (st [runs]).lag K.debugPolicy = none :=
  ⟨own_manages _ _ (by decide +kernel), by decide +kernel⟩

/-- ActingWrites: an active partition and a free one, an image pending and none, anchors that are not all zero. -/
theorem test_hyps_ActingWrites :
    Manages (st [runs, (K.partitionStatus 63, 1)]) 256 0 ∧
    ((st [runs, (K.partitionStatus 63, 1)]).active 63 = true ∧ 63 ∉ (st [runs]).boot.partResets ∧ (st [runs]).active 0 = false) ∧
    ((st [(K.firmwareStatus, 2 ^ 31)]).firmState = 2 ∧ (st [runs]).firmState = 1) ∧
    ((List.replicate 192 1#8).length = 192 ∧ (1#8 ∈ List.replicate 192 1#8 ∧ (1#8 : Byte) ≠ 0#8)) :=
  ⟨own_manages _ _ (by decide +kernel), by decide +kernel⟩

/-- FligiferReadsAndWrites: a session and the part's own firmware, with a staging open and closed, an index of no table. -/
theorem test_hyps_FligiferReadsAndWrites :
    Manages (sess0 [(K.takeState, 1)]) 0 (2 ^ 32 - 1) ∧ Manages (sess0 []) 0 0 ∧
    ((sess0 [(K.takeState, 1)]).takeState = 1 ∧ (sess0 []).takeState = 0) ∧
    ({ sess0 [(K.takeState, 1)] with take := { State.reset.take with session := some 0 } } : State).take.session = some 0 ∧
    Dict.find 0xFFFF 255 = none :=
  ⟨sess_manages _ _ _ rfl rfl rfl (by decide) (by decide +kernel), sess_manages _ _ _ rfl rfl rfl (by decide) (by decide +kernel),
    by decide +kernel⟩

/-- FligiferBlocks: a session without a block, one with a write block whose 64 bytes are all there, and its digest another one. -/
theorem test_hyps_FligiferBlocks :
    Manages (sess0 []) 0 0 ∧ (((sess0 []).heard 0 0).session 0).isSome = true ∧ ((sess0 []).heard 0 0).blockBytes + 8 ≤ 16777216 ∧
    (Block.full ⟨65535, false, 0x7810, 1, 0, 64, List.replicate 64 0#8, [(0, 64)]⟩ = true) ∧
    (0 : Nat) ≠ sha384n (padTo 64 (List.replicate 64 0#8)) :=
  ⟨sess_manages _ _ _ rfl rfl rfl (by decide) (by decide +kernel), by decide +kernel⟩

/-- DailiesSubscriptions: no subscription; one with nothing sent and one frame's record in the ring; one with a message unacknowledged. -/
theorem test_hyps_DailiesSubscriptions :
    Manages (sess0 []) 0 0 ∧ Tab.find (sess0 []).dailies.subs 3 = none ∧ (sess0 []).dailies.ring = [] ∧
    ((sess0 []).session 0).any (fun y => decide (y.carrier < 2)) = true ∧
    Tab.find ({ sess0 [] with dailies := { State.reset.dailies with subs := [(3, ⟨0, 1, 7, 0, 0, [], false, []⟩)] } } : State).dailies.subs 3 =
      some ⟨0, 1, 7, 0, 0, [], false, []⟩ ∧
    beAt (List.replicate 8 0#8 ++ [0xFF#8]) 8 1 = 0xFF :=
  ⟨sess_manages _ _ _ rfl rfl rfl (by decide) (by decide +kernel), by decide +kernel⟩

/-! ### Links and the mesh -/

/-- Port 35 in port state `x`, its link `k`, beside the elements `l`. -/
def lk (x : Nat) (k : Link) (l : List (Nat × Nat) := []) : State := { st ((K.portState 35, x) :: runs :: l) with links := [(35, k)] }

/-- A training word of number 7 for training state `ts`, rightly checked. -/
def tword (ts : Nat) (fresh : Bool := false) : Nat := trainingWord 0 (ts + if fresh then 128 else 0) 0 255 7 0

/-- A splice this end has asked for. -/
def asked (n : Nat) : Splice := ⟨7, 0, 3, 2, 255, true, false, false, n, none, 3⟩

/-- Port 35 with one byte to send on channel 3, one credit for it and one place in its replay buffer. -/
def sending : State := { lk 3 { sent := 2047, txL := [0, 0, 0, 1] } with ports := [(35, { txBytes := [(3, [1#8])] })] }

/-- LinkTransmits: bytes to send with one place left in the buffer, one credit, before and past the counters' wrap, and one cell left
under the key, a cell to resend, each counter at its bound. -/
theorem test_hyps_LinkTransmits :
    (Tab.getD (sending.port 35).txBytes 3 [] ≠ [] ∧ sending.rd (K.portState 35) = 3 ∧ (sending.link 35).splice = none ∧
      (sending.link 35).replaying = false ∧ (sending.link 35).sent - (sending.link 35).acked < 2048 ∧
      creditLeft (nth (sending.link 35).txL 3) (nth (sending.link 35).txS 3) ≠ 0 ∧ creditLeft 0 (2 ^ 32 - 1) ≠ 0 ∧
      (sending.link 35).txCells < sending.rd (K.rekeyCells 35) ∧
      ((lk 3 { txCells := 2 ^ 20 - 1 } [(K.rekeyCells 35, 2 ^ 20)]).link 35).txCells <
        (lk 3 { txCells := 2 ^ 20 - 1 } [(K.rekeyCells 35, 2 ^ 20)]).rd (K.rekeyCells 35) ∧
      (lk 3 { txCells := 2 ^ 20 } [(K.rekeyCells 35, 2 ^ 20)]).rd (K.rekeyCells 35) ≤
        ((lk 3 { txCells := 2 ^ 20 } [(K.rekeyCells 35, 2 ^ 20)]).link 35).txCells) ∧
    (((lk 3 { replaying := true, resend := 4, buffer := [⟨0, [], 4, 0⟩] }).link 35).buffer.find? (fun x => x.count = 4) =
      some ⟨0, [], 4, 0⟩) ∧
    (((lk 3 { acked := 4, sent := 5 }).link 35).acked < ((lk 3 { acked := 4, sent := 5 }).link 35).sent) ∧
    (((lk 3 {}).link 35).mode = 1 ∧ 3 ∉ ((lk 3 {}).link 35).refresh) ∧
    (16 ≤ ((lk 2 { oldestResends := 16 }).link 35).oldestResends ∧ (lk 2 { oldestResends := 16 }).rd (K.portState 35) = 2 ∧
      ((lk 2 { oldestResends := 16 }).link 35).splice = none ∧ ((lk 2 { oldestResends := 16, splice := some (asked 0) }).link 35).splice.isSome = true) ∧
    ((lk 3 { acked := 1 } [(K.rekeyCells 35, 2 ^ 20)]).rd (K.portState 35) = 3 ∧ ((lk 3 { acked := 1 } [(K.rekeyCells 35, 2 ^ 20)]).link 35).phaseStart < 1 ∧
      (lk 3 { acked := 1 } [(K.rekeyCells 35, 2 ^ 20)]).rd (K.rekeyCells 35) ≤
        ((lk 3 { acked := 1 } [(K.rekeyCells 35, 2 ^ 20)]).link 35).txCells + 2 ^ 20) := by
  decide +kernel

/-- LinkReceives: a TRANSPORT cell in order whose stream holds no whole message, a KEY_MARK in order, the first and last early one and
the latest duplicate, a link-control cell of each type that is accepted, a cell outside and one inside a block with an uncorrectable
codeword, and the tile's throttling both ways. -/
theorem test_hyps_LinkReceives :
    (cType (cellHdr 0 0 1 3 0 0 0 false 232) = 1 ∧ cPlen (cellHdr 0 0 1 3 0 0 0 false 232) = 232 ∧
      cSeq (cellHdr 0 0 1 3 0 0 0 false 232) = ((lk 2 {}).link 35).expect % 4096 ∧
      (let b := slice (padTo 232 [1#8, 0#8, 0x80#8, 0x10#8]) 0 232
       leAt b 2 2 = 4224 ∧ leAt b 2 2 % 8 = 0 ∧ b.length < leAt b 2 2)) ∧
    (cType (cellHdr 0 0 2 0 0 0 1 false 0) = 2 ∧ cSeq (cellHdr 1 0 2 0 0 0 0 false 0) = (0 + 1) % 4096 ∧
      cSeq (cellHdr 2047 0 2 0 0 0 0 false 0) = (0 + 2047) % 4096 ∧ (cSeq (cellHdr 2048 0 2 0 0 0 0 false 0) + 2048) % 4096 = 0 % 4096) ∧
    (((lk 4 {}).cellArrives 35).1 = false ∧ ((lk 4 { badBlocks := [0] }).cellArrives 35).1 = true) ∧
    (((lk 4 {}).router 35).throttled = false ∧ nth ((lk 4 {}).link 35).rxHeld 3 = 0 ∧
      (({ lk 4 {} with mesh := [(35, { throttled := true })] } : State).router 35).throttled = true) ∧
    (∀ ty : Fin 8, ((((lk 4 {}).cellArrives 35).2.reserveIn 35 false).rxCtl 35 (cellHdr 0 0 ty.val 0 0 0 0 false 232) (toLE 8 (2 ^ 63)) true true).isSome = true) ∧
    ((leAt (toLE 8 (2 ^ 63)) 0 8 / 2 ^ 63 = 1) ∧ ((lk 3 { gap := true }).link 35).gap = true) ∧
    (let u := (((lk 3 { sent := 5, acked := 2 }).cellArrives 35).2.reserveIn 35 false).rxCtl 35 (cellHdr 0 0 3 0 0 0 0 false 232) (toLE 8 (2 ^ 63) ++ toLE 2 4) true true
     u.any (fun u => (u.link 35).replaying = false ∧ (u.link 35).acked ≤ 4 ∧ 4 < (u.link 35).sent) = true) ∧
    (((lk 3 {}).link 35).gap = false ∧ ((lk 3 {}).link 35).txCells < (lk 3 {}).rd (K.rekeyCells 35)) ∧
    8 ≤ cType (cellHdr 0 0 8 0 0 0 0 false 0) := by decide +kernel

/-- LinkEndsAndDegradation: each count at its limit, the last codeword of a block uncorrectable, a cell after the block. -/
theorem test_hyps_LinkEndsAndDegradation :
    (4 ≤ ((lk 3 { tagFails := 4 }).link 35).tagFails ∧ 16 ≤ ((lk 3 { reserved := 16 }).link 35).reserved ∧
      (lk 3 { txCells := 2 ^ 30 } [(K.rekeyCells 35, 2 ^ 30)]).rd (K.rekeyCells 35) ≤
        ((lk 3 { txCells := 2 ^ 30 } [(K.rekeyCells 35, 2 ^ 30)]).link 35).txCells ∧
      ((lk 3 { txCells := 2 ^ 30 } [(K.rekeyCells 35, 2 ^ 30)]).link 35).mayFlip = false ∧
      (lk 3 {}).rd (K.portState 35) = 3) ∧
    (8 ≤ ((lk 3 { uncorrRun := 8 }).link 35).uncorrRun ∧ 4 ≤ ((lk 3 { crcRun := 4 }).link 35).crcRun) ∧
    (2 ≤ nth ((lk 3 { laneOver := [0, 0, 0, 0, 0, 0, 0, 2] }).link 35).laneOver 7 ∧ bit ((lk 3 {}).link 35).bad 7 = false ∧
      ((lk 3 {}).link 35).splice = none ∧ ((lk 4 { splice := some (asked 0) }).link 35).splice.isSome = true) ∧
    (uncorrectable (widthLanes (fld ((lk 3 {}).rd (K.trainedConfig 35)) 1 0)) ((List.range 16).map (fun j => 4 * j + 3)) 3 = true ∧
      ((lk 3 {}).link 35).rxCells ≤ blockLastCell ((lk 3 {}).link 35).rxBlocks) ∧
    ((lk 3 { uncorrLast := 2 ^ 30 } [(K.uncorrLimit 35, 5)]).rd (K.uncorrLimit 35) <
      ((lk 3 { uncorrLast := 2 ^ 30 }).link 35).uncorrLast) := by decide +kernel

/-- SpliceCommands: a port that is up and one in a splice. -/
theorem test_hyps_SpliceCommands :
    Manages (lk 2 {}) 256 0 ∧ (lk 2 {}).rd (K.portState 35) = 2 ∧ ((lk 2 {}).link 35).splice = none ∧
      ((lk 2 {}).link 35).txCells < (lk 2 {}).rd (K.rekeyCells 35) ∧
      ((lk 4 { splice := some (asked 0) }).link 35).splice.isSome = true :=
  ⟨own_manages _ _ (by decide +kernel), by decide +kernel⟩

/-- SpliceProcedure: a request, the acknowledgement and the pause of the splice asked for, training words of each state, with FRESH and
without, the end of TS4 at its bound, the last resend and the one after it, a bound passed. -/
theorem test_hyps_SpliceProcedure :
    (((lk 3 {}).cellArrives 35).1 = false ∧ ((((lk 3 {}).cellArrives 35).2.reserveIn 35 false).rxCtl 35 (cellHdr 0 0 5 0 0 0 0 false 24)
      (toLE 8 (2 ^ 63) ++ toLE 16 0) true true).any (fun u => (u.link 35).splice = none) = true ∧
      spliceReserved (toLE 8 (2 ^ 63) ++ toLE 16 0) = false ∧ spliceReserved (toLE 8 (2 ^ 63) ++ toLE 12 0 ++ toLE 2 7) = false) ∧
    ((((lk 3 { splice := some (asked 0) }).cellArrives 35).2.reserveIn 35 false).rxCtl 35 (cellHdr 0 0 6 0 0 0 0 false 24)
      (toLE 8 (2 ^ 63) ++ toLE 12 0 ++ toLE 2 7) true true).any (fun u => (u.link 35).splice = some (asked 0)) = true ∧
    leAt (toLE 8 (2 ^ 63) ++ toLE 12 0 ++ toLE 2 7) 20 2 = (asked 0).no ∧ leAt (toLE 8 (2 ^ 63) ++ toLE 2 0 ++ toLE 2 7) 10 2 = (asked 0).no ∧
    (∀ (ts : Fin 3) (fresh : Bool), wordsOk [tword (ts + 1) fresh] = true ∧ twFresh (tword (ts + 1) fresh) = fresh ∧
      twNo (tword (ts + 1) fresh) = (asked 0).no ∧ twState (tword (ts + 1) fresh) = ts + 1) ∧
    ((lk 4 { splice := some { asked 0 with agreed := true }, ts := 4 }).link 35).ts = 4 ∧ (asked 0).kind < 4 ∧ (asked 0).farLast = none ∧
    lastWordOk (asked 0) (tword 4) = true ∧ 20 ≤ spliceBound (asked 0).kind ∧ spliceBound (asked 0).kind < 21 ∧ (asked 0).kind ≠ 5 ∧
    ((lk 4 { splice := some { asked 0 with agreed := true }, ts := 4 }).link 35).due = none ∧ ((lk 3 {}).link 35).splice = none ∧
    (asked 2).resends < 3 ∧ ((lk 3 {}).link 35).txCells < (lk 3 {}).rd (K.rekeyCells 35) ∧
    3 ≤ (asked 3).resends ∧ (asked 3).mine = true ∧ (asked 3).agreed = false := by decide +kernel

/-- FullLinkUp: a lock hold, a FAILED port on the first frame of its retry, the second and the third failure, by the bound too. -/
theorem test_hyps_FullLinkUp :
    ((lk 4 { lockHold := true }).link 35).lockHold = true ∧ (lk 5 {}).rd (K.portState 35) = 5 ∧
      ((lk 5 { failedAt := some 3 } [(K.frameNumber, 4003)]).link 35).failedAt = some 3 ∧
      3 + 4000 ≤ (lk 5 { failedAt := some 3 } [(K.frameNumber, 4003)]).frame ∧
      ((lk 1 { splice := some { asked 0 with kind := 5, agreed := true }, ts := 4 }).link 35).ts = 4 ∧
      lastWordOk { asked 0 with kind := 5, agreed := true } (tword 4) = true ∧
      (lk 1 {}).rd (K.portState 35) = 1 ∧ ((lk 1 { upFails := 1 }).link 35).upFails < 2 ∧ 2 ≤ ((lk 1 { upFails := 2 }).link 35).upFails := by
  decide +kernel

/-- A read response of 8 bytes of 16 from tile 0 to the port engine of tile 35. -/
def mpkt (n : Nat) : MeshPkt :=
  ⟨.rsp, none, 9, 0, 2 ^ 35, .port, 7, 16, 8 * n, 8, true, List.replicate 8 1#8, none, [], []⟩

/-- MeshMessagesAndThrottle: an open packet through an empty mesh that opens a record, and one that closes it, the depths at the two
thresholds, a channel whose credits are held. -/
theorem test_hyps_MeshMessagesAndThrottle :
    ((st []).flights = [] ∧ (st []).meshWait = [] ∧ (∀ u, u < 36 → ((st []).router u).bufs = []) ∧ (st []).isSealed (mpkt 0).part = false ∧
      (st []).mayStart (mpkt 0) = true ∧ (mpkt 0).cls ≠ .mcast ∧ (mpkt 0).mask = 2 ^ 35 ∧ ((st []).router (mpkt 0).src).throttled = false) ∧
    (let s : State := { st [] with mesh := [(35, { records := [⟨.port, 7, 9, 16, 8, [(0, [])], []⟩] })] }
     s.mayStart (mpkt 1) = true ∧ (mpkt 1).id = 7 ∧ ((s.router 35).records.find? (fun r => decide (r.block = .port) && decide (r.id = 7))).any
      (fun r => decide (r.got + (mpkt 1).count = r.total)) = true) ∧
    ((st []).eff K.throttleHigh ≤ max ((st []).eff K.throttleHigh + (st []).waitFlits 35 false false) (0 + (st []).waitFlits 35 true false) ∧
      ((st []).router 35).throttled = false) ∧
    (max (0 + (st []).waitFlits 35 false false) ((st []).eff K.throttleLow + (st []).waitFlits 35 true false) ≤ (st []).eff K.throttleLow) ∧
    (0 < nth ((lk 3 { rxHeld := [0, 0, 0, 1] }).link 35).rxHeld 3 ∧ 3 < ((lk 3 {}).link 35).rxDone.length) := by decide +kernel

/-! ### Requests to the pool -/

/-- The first 16 bytes of a READ's or a WRITE's body. -/
def rw (addr len : Nat) : List Byte := toLE 8 addr ++ toLE 2 len ++ toLE 6 0

/-- The body of a coherence request without data. -/
def coh (addr : Nat) : List Byte := toLE 8 addr ++ toLE 8 0

/-- Those of a request `op` of endpoint 0x213 with body `b` in `s`. -/
def here (s : State) (op : Nat) (b : List Byte) : State := s.began 7 op (hd (16 + b.length)) b 12 0

/-- A line is read whole. -/
def whole : LineGot → Bool
  | .data _ => true
  | .bad _ => false

/-- ReadsFencesAndHeartbeats: the shortest READ of the last line of an extent, a FENCE, a HEARTBEAT. -/
theorem test_hyps_ReadsFencesAndHeartbeats :
    startsOk (host []) 7 0x01 (hd 32) (rw 0xFFFFFF8 8) 12 0 = true ∧ (here (host []) 0x01 (rw 0xFFFFFF8 8)).halts 0xFFFFFF8 = false ∧
    (here (host []) 0x01 (rw 0xFFFFFF8 8)).homeCheck 0x2401 12 0xFFFFFF8 false = .ok (ext 0 0) ∧
    (here (host []) 0x01 (rw 0xFFFFFF8 8)).toRecall (ext 0 0) 0xFFFFFF8 8 false = [] ∧
    (here (host []) 0x01 (rw 0xFFFFFF8 8)).retryDue (ext 0 0) 0xFFFFFF8 8 0x2401 [] [] = none ∧
    startsOk (host []) 7 0x04 (hd 16) [] 12 0 = true ∧ startsOk (host []) 7 0x05 (hd 16) [] 12 0 = true ∧
    (here (host []) 0x05 []).rd (K.leaseState 12) = 1 := by
  decide +kernel

/-- WritesAndAtomics: a WRITE of one byte at the end of a line and of two lines, stored, and an ATOMIC. -/
theorem test_hyps_WritesAndAtomics :
    startsOk (host []) 7 0x02 (hd 40) (rw 127 1 ++ padTo 8 [0xA5#8]) 12 0 = true ∧
    (here (host []) 0x02 (rw 127 1 ++ padTo 8 [0xA5#8])).halts 127 = false ∧
    (here (host []) 0x02 (rw 127 1 ++ padTo 8 [0xA5#8])).homeCheck 0x2401 12 127 true = .ok (ext 0 0) ∧
    (here (host []) 0x02 (rw 127 1 ++ padTo 8 [0xA5#8])).writeWaits (ext 0 0) 127 1
      ((host []).accepted 7 0x02 (hd 40) (rw 127 1 ++ padTo 8 [0xA5#8]) 12 0).1 = none ∧
    ((here (host []) 0x02 (rw 127 1 ++ padTo 8 [0xA5#8])).writeBytes (ext 0 0) 127 [0xA5#8] 0x2401 []).1.all id = true ∧
    (here (host []) 0x02 (rw 127 1 ++ padTo 8 [0xA5#8])).primaryPair 9 0 = none ∧
    (let b := toLE 8 120 ++ toLE 1 10 ++ toLE 1 4 ++ toLE 6 0 ++ toLE 16 0 ++ toLE 16 1
     startsOk (host []) 7 0x03 (hd 64) b 12 0 = true ∧ (here (host []) 0x03 b).halts 120 = false ∧ (here (host []) 0x03 b).homeCheck 0x2401 12 120 true = .ok (ext 0 0) ∧
     (here (host []) 0x03 b).writeWaits (ext 0 0) 120 4 ((host []).accepted 7 0x03 (hd 64) b 12 0).1 = none ∧
     (here (host []) 0x03 b).retryDue (ext 0 0) 120 4 0x2401 [] [] = none ∧
     whole ((here (host []) 0x03 b).readLine (ext 0 0) 0 0x2401 (noiseOf [] 0) false).1 = true) := by
  decide +kernel

/-- Extent 0 of partition 9 is the primary copy of a pair. -/
def paired : State := host [(K.pairs 0, 2 ^ 127 + 9 * 2 ^ 120 + 7 * 2 ^ 100 + 0x213 * 2 ^ 45)]

/-- WritesAndAtomics: a primary copy's pair. -/
theorem test_hyps_WritesAndAtomics_pair :
    (here paired 0x02 (rw 127 1 ++ padTo 8 [0xA5#8])).primaryPair 9 0 = some 0 ∧
    writtenRange 127 1 [true] = some (127, 1) ∧ writtenRange 127 2 [true, false] = some (127, 1) ∧ writtenRange 127 1 [false] = none ∧
    startsOk paired 7 0x02 (hd 40) (rw 127 1 ++ padTo 8 [0xA5#8]) 12 0 = true := by decide +kernel

/-- Extent 0, its first two granules written. -/
def plain : State := { host [] with written := (List.range 2).map (fun i => (host []).homeDpa (ext 0 0) (i * 4096) / 4096) }

/-- Its first line is poisoned. -/
def broken : State := plain.poisonLine (plain.homeDpa (ext 0 0) 0 / 128)

/-- A WRITE into a part of a bad line, and a READ and an ATOMIC of it, whose retry has nothing to do for a poisoned line. -/
theorem test_hyps_bad_line :
    ((here broken 0x02 (rw 127 1 ++ padTo 8 [0xA5#8])).writeBytes (ext 0 0) 127 [0xA5#8] 0x2401 []).1.all id = false ∧
    (here broken 0x01 (rw 0 8)).retryDue (ext 0 0) 0 8 0x2401 [] [] = none ∧
    whole ((here broken 0x01 (rw 0 8)).readLine (ext 0 0) 0 0x2401 (noiseOf [] 0) false).1 = false := by decide +kernel

/-- PlainMemory: a WRITE of the last byte of a line and the longest READ of a place that has been written once. -/
theorem test_hyps_PlainMemory :
    startsOk plain 7 0x02 (hd 40) (rw 127 1 ++ padTo 8 [0xA5#8]) 12 0 = true ∧ startsOk plain 7 0x01 (hd 32) (rw 0 4096) 12 0 = true ∧
    (here plain 0x02 (rw 127 1 ++ padTo 8 [0xA5#8])).halts 127 = false ∧ (here plain 0x01 (rw 0 4096)).halts 0 = false ∧
    (here plain 0x02 (rw 127 1 ++ padTo 8 [0xA5#8])).primaryPair 9 0 = none ∧
    eMirrored (ext 0 0) = false ∧ eKind (ext 0 0) ≠ 1 ∧ (here plain 0x01 (rw 0 4096)).homeTile 0 < 36 ∧
    ((here plain 0x01 (rw 0 4096)).stack ((here plain 0x01 (rw 0 4096)).homeTile 0)).lost = false ∧
    (here plain 0x01 (rw 0 4096)).isFresh ((here plain 0x01 (rw 0 4096)).homeDpa (ext 0 0) 0) = false ∧
    (here plain 0x01 (rw 0 4096)).keySt (eDxn (ext 0 0)) = 1 ∧ (here plain 0x01 (rw 0 4096)).cont.reloc = none ∧
    (∀ ln ∈ linesOf 0 4096, (here plain 0x01 (rw 0 4096)).errsOf ((here plain 0x01 (rw 0 4096)).homeDpa (ext 0 0) ln / 128) = []) ∧
    (here plain 0x02 (rw 127 1 ++ padTo 8 [0xA5#8])).homeCheck 0x2401 12 127 true = .ok (ext 0 0) ∧
    (here plain 0x01 (rw 0 4096)).homeCheck 0x2401 12 0 false = .ok (ext 0 0) := by
  decide +kernel

/-- The line at the last address of the coherent extent 1. -/
def cline : Nat := (host []).homeDpa (ext 1 1) 0x1FFFFF80 / 128

/-- Its directory entry is `x`, and binding 13 is another endpoint's on port 6. -/
def shared (x : DirEnt) : State :=
  { host [(K.bindings 13, bd 6 9 0x214), (K.leaseState 13, 1), (K.portState 6, 3), (K.portAdmitted 6, 1), (K.portEid 6, 0x100)] with
    dir := [(cline, x)] }

/-- DirectoryRequests: a line that nobody holds, one that binding 13 owns, one that the requester alone shares. -/
theorem test_hyps_DirectoryRequests :
    (∀ op : Fin 3, (host []).portOpen 7 = true ∧
      (host []).checkArrival 7 (0x30 + op) (hd 32) (coh 0x1FFFFF80) = .accepted 12) ∧
    startsOk (host []) 7 0x30 (hd 32) (coh 0x1FFFFF80) 12 0 = true ∧ startsOk (shared ⟨1, false, false, 0, [12], 0, 0⟩) 7 0x32 (hd 32) (coh 0x1FFFFF80) 12 0 = true ∧
    startsOk (shared ⟨3, false, false, 0, [13], 0, 0⟩) 7 0x31 (hd 32) (coh 0x1FFFFF80) 12 0 = true ∧
    lineTile cline < 36 ∧ (here (host []) 0x30 (coh 0x1FFFFF80)).halts 0x1FFFFF80 = false ∧
    (here (host []) 0x30 (coh 0x1FFFFF80)).bindingLives 12 = true ∧
    (here (host []) 0x30 (coh 0x1FFFFF80)).secure (bPort ((here (host []) 0x30 (coh 0x1FFFFF80)).binding 12)) = true ∧
    Tab.find (here (host []) 0x30 (coh 0x1FFFFF80)).evicts cline = none ∧ Tab.find (here (host []) 0x30 (coh 0x1FFFFF80)).pends cline = none ∧
    (here (host []) 0x30 (coh 0x1FFFFF80)).waitersOf (.line cline) = [] ∧
    (here (host []) 0x30 (coh 0x1FFFFF80)).cohCheck ((host []).accepted 7 0x30 (hd 32) (coh 0x1FFFFF80) 12 0).1 0x1FFFFF80 =
      .ok (ext 1 1) ∧
    (here (host []) 0x30 (coh 0x1FFFFF80)).homeDpa (ext 1 1) 0x1FFFFF80 / 128 = cline ∧
    (here (host []) 0x30 (coh 0x1FFFFF80)).dirEnt cline = none ∧
    whole (((here (host []) 0x30 (coh 0x1FFFFF80)).count (K.cohCounts (lineTile cline) 0) 1).cohRead cline 0x2401).1 = true ∧
    (here (shared ⟨3, false, false, 0, [13], 0, 0⟩) 0x31 (coh 0x1FFFFF80)).dirEnt cline = some ⟨3, false, false, 0, [13], 0, 0⟩ ∧
    DirEnt.owner ⟨3, false, false, 0, [13], 0, 0⟩ = some 13 ∧ DirEnt.records ⟨3, false, false, 0, [13], 0, 0⟩ 12 = false ∧
    (here (shared ⟨3, false, false, 0, [13], 0, 0⟩) 0x31 (coh 0x1FFFFF80)).bindingLives 13 = true ∧
    (here (shared ⟨1, false, false, 0, [12], 0, 0⟩) 0x32 (coh 0x1FFFFF80)).dirEnt cline = some ⟨1, false, false, 0, [12], 0, 0⟩ := by
  decide +kernel

/-- The part's own request to endpoint 0x213 for `p`, of OPCODE `op`. -/
def owed (op : Nat) (p : Purpose) : PartReq := ⟨7, ⟨2, op, 0, 0x100, 0x213, 0x2401, 5, 0, 0, []⟩, 0, p, false⟩

/-- A state in which it awaits its response. -/
def owes (l : List (Nat × Nat)) (x : PartReq) : State := { host l with ports := [(7, { outReq := [x] })] }

/-- The header of that response, with message length `len`. -/
def rhd (len : Nat) : Hdr := ⟨0, len, 0x213, 0x100, 0x2401, 5, 0, 0⟩

/-- A request that waits inside the part. -/
def held (op : Nat) : Req := ⟨3, 7, 0, 12, op, hd 32, coh 0x1FFFFF80, []⟩

/-- HoldersAnswer: what the owner and a sharer send, what acknowledges an eviction and a forward, a recall and an eviction complete. -/
theorem test_hyps_HoldersAnswer :
    startsOk (shared ⟨2, false, false, 0, [12], 0, 0⟩) 7 0x33 (hd 32) (coh 0x1FFFFF80) 12 0 = true ∧
    startsOk (shared ⟨2, false, false, 0, [12], 0, 0⟩) 7 0x34 (hd 160) (coh 0x1FFFFF80 ++ List.replicate 128 9#8) 12 0 = true ∧
    startsOk (shared ⟨1, false, false, 0, [12, 13], 0, 0⟩) 7 0x35 (hd 32) (coh 0x1FFFFF80) 12 0 = true ∧
    (here (shared ⟨2, false, false, 0, [12], 0, 0⟩) 0x34 (coh 0x1FFFFF80 ++ List.replicate 128 9#8)).cohCheck
      ((shared ⟨2, false, false, 0, [12], 0, 0⟩).accepted 7 0x34 (hd 160) (coh 0x1FFFFF80 ++ List.replicate 128 9#8) 12 0).1 0x1FFFFF80 =
        .ok (ext 1 1) ∧
    (here (shared ⟨2, false, false, 0, [12], 0, 0⟩) 0x34 (coh 0x1FFFFF80 ++ List.replicate 128 9#8)).waitLines = [] ∧
    (here (shared ⟨1, false, false, 0, [12, 13], 0, 0⟩) 0x35 (coh 0x1FFFFF80)).inRecall cline = false ∧
    DirEnt.owner ⟨2, false, false, 0, [12], 0, 0⟩ = some 12 ∧ DirEnt.records ⟨1, false, false, 0, [12, 13], 0, 0⟩ 12 = true ∧
    matchesOk (owes [] (owed 0x3A (.backInval cline 12))) 7 0xBA (rhd 16) 0 (owed 0x3A (.backInval cline 12)) = true ∧
    matchesOk (owes [] (owed 0x39 (.fwd cline 0 12))) 7 0xB9 (rhd 24) 0 (owed 0x39 (.fwd cline 0 12)) = true ∧
    Tab.find ({ host [] with evicts := [(cline, ⟨⟨1, false, false, 0, [12], 0, 0⟩, [12]⟩)] } : State).evicts cline =
      some ⟨⟨1, false, false, 0, [12], 0, 0⟩, [12]⟩ ∧
    ({ host [] with pends := [(cline, { collect := .recalling, sent := true })] } : State).recalled cline = true ∧
    (Pend.fwds { collect := .recalling, sent := true } = [] ∧ Pend.awaited { collect := .recalling, sent := true } = none ∧
      Pend.after { collect := .recalling, sent := true } = [] ∧ Pend.bars { collect := .recalling, sent := true } = [] ∧
      Pend.due { collect := .recalling, sent := true } = false) ∧
    (({ shared ⟨3, false, false, 0, [13], 0, 0⟩ with pends := [(cline, { fwds := [⟨0, 13, held 0x31, true, 4, none⟩], nextK := 1, transfer := some 12 })] } : State).pend
      cline = { fwds := [⟨0, 13, held 0x31, true, 4, none⟩], nextK := 0 + 1, transfer := some (held 0x31).bind }) := by
  decide +kernel

/-- A quiet state of frame 8000 beside the elements `l`. -/
def late (l : List (Nat × Nat)) : State := host ((K.frameNumber, 8000) :: l)

/-- A request waits for the key of device extent 16383, and only tile 34 draws. -/
def keyless : State := { host [(K.drbgStatus 34, 1)] with waiting := [(.key 16383, held 0x02)] }

/-- ExtentsAndLeases: an extent to erase, a key to draw, a quarantine that ends, a lease late, expired and reclaimed, a holder's grace
and an awaited WRITEBACK past their frames. -/
theorem test_hyps_ExtentsAndLeases :
    Tab.find ({ host [] with erasing := [(16383, 0x2401)] } : State).erasing 16383 = some 0x2401 ∧
    (keyless.rd (K.keyState 16383) = 0 ∧ keyless.waitersOf (.key 16383) ≠ [] ∧ keyless.keyDrawer 16383 = some 34) ∧
    (Tab.find ({ late [] with quarantine := [(16383, 8000)] } : State).quarantine 16383 = some 8000 ∧ 8000 ≤ (late []).frame ∧
      Tab.find (late []).erasing 16383 = none) ∧
    ((late []).lateDue 12 = true ∧ bPort ((late []).binding 12) = 7 ∧ (late []).expireDue 12 = true ∧ (late []).heldBy 9 12 = [] ∧
      (late []).waitLines = []) ∧
    (({ late [(K.leaseState 12, 3)] with lease := { reclaiming := [(12, bd 7 9 0x213, 1)] } } : State).lease.reclaiming.find?
      (fun x => x.1 = 12)).isSome = true ∧
    (late [(K.leaseState 12, 3)]).rd (K.leaseState 12) = 3 ∧
    Tab.find ({ late [] with lease := { grace := [(12, 8000)] } } : State).lease.grace 12 = some 8000 ∧
    (late []).eff K.cohGraceFrames ≤ (late []).frame := by decide +kernel

/-- The host's state with region 4095 of partition 9 valid and extent 2 staged for it by binding 12. -/
def staged : State := host [(K.extentMap 9 2, ext 3 2 + 2 ^ 12 + 12), (K.extentMap 9 3, ext 3 3), (K.publishRegions 9 4095, 2 ^ 15),
  (K.publishViews 9 4095, 3)]

/-- The body of a PUBLISH of extent 2 to region 4095 on version `v`. -/
def pubBody (v : Nat) : List Byte := toLE 2 4095 ++ toLE 2 2 ++ toLE 4 0 ++ toLE 8 v

/-- PublishRegions: a PUBLISH at the last moment before the guard on the current version and on another, a query, a flip complete. -/
theorem test_hyps_PublishRegions :
    startsOk staged 7 0x11 (hd 32) (pubBody 0) 12 246000 = true ∧ startsOk staged 7 0x11 (hd 32) (pubBody (2 ^ 64 - 1)) 12 0 = true ∧
    startsOk staged 7 0x12 (hd 24) (toLE 2 4095 ++ toLE 6 0) 12 0 = true ∧
    (staged.flips = [] ∧ 246000 + 2000 ≤ (staged.began 7 0x11 (hd 32) (pubBody 0) 12 246000).guardAt ∧ 246000 + 2000 ≤ staged.guardAt) ∧
    (let u := staged.began 7 0x11 (hd 32) (pubBody 0) 12 246000
     u.handleLive 0x2401 = true ∧ u.regionBusy 9 4095 = false ∧ u.fl.inGuard = false ∧ u.regionValid 9 4095 = true ∧
     eValid (u.entry 9 2) = true ∧ eKind (u.entry 9 2) = 3 ∧ u.isView 9 2 = false ∧ eHeld (u.entry 9 2) = true ∧
     eHolder (u.entry 9 2) = 12 ∧ 0 = u.rd (K.publishVersions 9 4095)) ∧
    (({ staged with flips := [⟨9, 4095, { held 0x11 with body := pubBody 0 }⟩] } : State).flips.find?
      (fun f => f.part = 9 && f.region = 4095)).isSome = true ∧
    leAt (pubBody 0) 2 2 = 2 ∧ staged.rd (K.publishViews 9 4095) = 3 := by
  decide +kernel

/-! ### Windows, composites and pool operations -/

/-- A launch block: context 15 of slot 31, of the code in extent 4. -/
def block31 : List Byte := toLE 4 (2 ^ 31) ++ toLE 1 15 ++ toLE 1 0 ++ toLE 2 4 ++ List.replicate 88 0#8

/-- The host's partition with a code extent, context 15 of slot 31, ring 15, and a window in state `w`. -/
def win (w : Window) (r : Reels := {}) : State :=
  { host [(K.extentMap 9 4, ext 2 4 + 2 ^ 59), (K.contextOwner (31 * 16 + 15), 9), (K.chunkQuotas 9 0, 1), (K.storeQuotas 9 0, 65535),
      (K.rings 9 15, 2 ^ 127 + 16 * 2 ^ 115)] with
    tags := (List.range 5).map (fun i => (i, 0x2401))
    reels := { r with windows := [(12, w)] } }

/-- WindowCommands: a launch block that passes every check, a context that has faulted, events to consume, a halted ring, a write and a read
of the longest window ranges. -/
theorem test_hyps_WindowCommands :
    winOk (win { block := block31 }) 7 0x860 1 (hd 32) 12 247000 = true ∧
    ((win { block := block31 }).winBegan 7 0x860 1 (hd 32) 12 247000).launchCheck 9 (padTo 96 block31) = none ∧
    (let s := win {} { ctxs := [(31 * 16 + 15, { st := 7 })] }
     winOk s 7 0xA00 (31 * 256 + 15) (hd 32) 12 0 = true ∧ (s.winBegan 7 0xA00 (31 * 256 + 15) (hd 32) 12 0).ctxOwner 31 15 = some 9 ∧
      ((s.winBegan 7 0xA00 (31 * 256 + 15) (hd 32) 12 0).ctx 31 15).st = 7) ∧
    (let s := win {} { events := [(9, { written := 2 ^ 32 - 1, consumed := 2 ^ 32 - 2, recs := [[]] })] }
     winOk s 7 0x908 (2 ^ 32 - 1) (hd 32) 12 0 = true ∧
      ((s.winBegan 7 0x908 (2 ^ 32 - 1) (hd 32) 12 0).events 9).consumed ≤ 2 ^ 32 - 1 ∧
      2 ^ 32 - 1 ≤ ((s.winBegan 7 0x908 (2 ^ 32 - 1) (hd 32) 12 0).events 9).written) ∧
    (let s := win {} { events := [(9, { written := 2 ^ 32 + 1, consumed := 2 ^ 32 - 1, recs := [[], []] })] }
     winOk s 7 0x908 0 (hd 32) 12 0 = true ∧ 0 = (((s.winBegan 7 0x908 0 (hd 32) 12 0).events 9).consumed + 1) % 2 ^ 32 ∧
      ((s.winBegan 7 0x908 0 (hd 32) 12 0).events 9).consumed + 1 ≤ ((s.winBegan 7 0x908 0 (hd 32) 12 0).events 9).written) ∧
    (let s := { win {} with mover := { State.reset.mover with rings := [(9 * 16 + 15, { state := 3, tail := 5, fetched := 5 })] } }
     winOk s 7 (0x408 + 16 * 15) 5 (hd 32) 12 0 = true ∧ rgValid ((s.winBegan 7 (0x408 + 16 * 15) 5 (hd 32) 12 0).ringDesc 9 15) = true ∧
      ((s.winBegan 7 (0x408 + 16 * 15) 5 (hd 32) 12 0).ring 9 15).state = 3 ∧
      fld 5 63 42 = ((s.winBegan 7 (0x408 + 16 * 15) 5 (hd 32) 12 0).ring 9 15).inc ∧ ahead32 (5 % 2 ^ 32) 5 ≤ ahead32 5 5) ∧
    winOk (win {}) 7 0x18 1 (hd 32) 12 0 = true := by
  dsimp only; decide +kernel

/-- WindowCommands: a WINDOW_WRITE of 256 bytes and a WINDOW_READ of 256. -/
theorem test_hyps_WindowCommands_ranges :
    startsOk (win {}) 7 0x63 (hd 280) (toLE 4 0x800 ++ toLE 2 256 ++ toLE 2 0 ++ List.replicate 256 0#8) 12 0 = true ∧
    (∀ q ∈ winParts (toLE 4 0x800 ++ toLE 2 256 ++ toLE 2 0 ++ List.replicate 256 0#8),
      ((win {}).began 7 0x63 (hd 280) (toLE 4 0x800 ++ toLE 2 256 ++ toLE 2 0 ++ List.replicate 256 0#8) 12 0).winWaits 12 q.1 q.2 = none) ∧
    startsOk (win {}) 7 0x62 (hd 24) (toLE 4 0x800 ++ toLE 2 256 ++ toLE 2 0) 12 0 = true ∧
    0xC08 ∉ (List.range (256 / 8)).map (fun i => 0x800 + 8 * i) ∧ 0xC10 ∉ (List.range (256 / 8)).map (fun i => 0x800 + 8 * i) := by
  decide +kernel

/-- MailboxesAndDoorbells: the last context's mailboxes, a ring's doorbell, the management doorbell, PUB_STATE, a command outstanding. -/
theorem test_hyps_MailboxesAndDoorbells :
    (winOk (win {}) 7 (0x8000 + 32 * (31 * 16 + 15)) (2 ^ 64 - 1) (hd 32) 12 0 = true ∧
      ((win {}).winBegan 7 (0x8000 + 32 * (31 * 16 + 15)) (2 ^ 64 - 1) (hd 32) 12 0).ctxOwner 31 15 = some 9 ∧
      (((win {}).winBegan 7 (0x8000 + 32 * (31 * 16 + 15)) (2 ^ 64 - 1) (hd 32) 12 0).ctx 31 15).st ≠ 7 ∧
      (((win {}).winBegan 7 (0x8000 + 32 * (31 * 16 + 15)) (2 ^ 64 - 1) (hd 32) 12 0).ctx 31 15).inbox.length < 8) ∧
    (let s := win {} { ctxs := [(31 * 16 + 15, { outbox := [7#64], sent := 1 })] }
     winOk s 7 (0x8018 + 32 * (31 * 16 + 15)) ((s.ctx 31 15).outSeq * 2 ^ 32) (hd 32) 12 0 = true ∧
      ((s.winBegan 7 (0x8018 + 32 * (31 * 16 + 15)) ((s.ctx 31 15).outSeq * 2 ^ 32) (hd 32) 12 0).ctx 31 15).outbox ≠ []) ∧
    (startsOk (win {}) 7 0x60 (hd 32) (toLE 2 15 ++ toLE 6 0 ++ toLE 8 4) 12 0 = true ∧
      rgValid (((win {}).began 7 0x60 (hd 32) (toLE 2 15 ++ toLE 6 0 ++ toLE 8 4) 12 0).ringDesc 9 15) = true ∧
      fld 4 63 42 = (((win {}).began 7 0x60 (hd 32) (toLE 2 15 ++ toLE 6 0 ++ toLE 8 4) 12 0).ring 9 15).inc ∧ ahead32 4 0 < 2 ^ 31 ∧
      ahead32 4 0 ≤ 2 ^ rgLog (((win {}).began 7 0x60 (hd 32) (toLE 2 15 ++ toLE 6 0 ++ toLE 8 4) 12 0).ringDesc 9 15)) ∧
    (startsOk (win {}) 7 0x60 (hd 32) (toLE 2 0x100 ++ toLE 6 0 ++ toLE 8 (3 * 2 ^ 48)) 12 0 = true ∧ (win {}).firmwareRuns = true ∧
      ((win {}).window 12).cmd = none) ∧
    (startsOk (win {}) 7 0x62 (hd 24) (toLE 4 0xC08 ++ toLE 2 16 ++ toLE 2 0) 12 0 = true ∧ (win {}).regionBusy 9 0 = false) ∧
    (((win { cmd := some (3 * 2 ^ 48) }).window 12).cmd = some (3 * 2 ^ 48) ∧ ((win { cmd := some (3 * 2 ^ 48) }).window 12).cmdLost = false) := by
  dsimp only; decide +kernel

/-- A descriptor of an exact SUM of 512 FP32 elements at address 0, from two contributors, that is told to have stalled after a frame. -/
def desc2 : List Byte :=
  toLE 8 0 ++ toLE 4 512 ++ toLE 2 2 ++ toLE 1 0 ++ toLE 1 0 ++ toLE 1 0 ++ toLE 1 0 ++ toLE 1 1 ++ toLE 1 0 ++ toLE 2 1 ++ toLE 2 0 ++
    toLE 16 0 ++ toLE 24 0

/-- Composite 1023 of it, open under incarnation 5. -/
def comp5 : Comp := { st := 1, part := 9, inc := 5, desc := desc2 }

/-- The host's partition with that composite. -/
def comps (c : Comp) : State := win { desc := desc2 } { comps := [(1023, c)] }

/-- The body of a CONTRIB of its 512 elements by contributor 1. -/
def contribBody : List Byte :=
  toLE 4 (5 * 1024 + 1023) ++ toLE 2 1 ++ toLE 2 512 ++ toLE 4 0 ++ toLE 1 0 ++ toLE 3 0 ++ List.replicate 2048 0#8

/-- Composites: creating, excusing the last contributor, closing. -/
theorem test_hyps_Composites_windows :
    (winOk (win { desc := desc2 }) 7 0xB40 1 (hd 32) 12 0 = true ∧
      ((win { desc := desc2 }).winBegan 7 0xB40 1 (hd 32) 12 0).compCheck 9 (padTo 64 desc2) = none ∧
      ((win { desc := desc2 }).winBegan 7 0xB40 1 (hd 32) 12 0).freeComp = some 0) ∧
    (winOk (comps comp5) 7 0xB50 (1 * 2 ^ 32 + (5 * 1024 + 1023)) (hd 32) 12 0 = true ∧ 1 < cdContribs comp5.desc ∧
      ((comps comp5).winBegan 7 0xB50 (1 * 2 ^ 32 + (5 * 1024 + 1023)) (hd 32) 12 0).namedComp 9 (5 * 1024 + 1023) =
        some (1023, comp5)) ∧
    winOk (comps comp5) 7 0xB58 (5 * 1024 + 1023) (hd 32) 12 0 = true := by
  decide +kernel

/-- Composites: a contribution, a full chunk, every chunk complete, a stall. -/
theorem test_hyps_Composites_chunks :
    (startsOk (comps comp5) 7 0x20 (hd 2080) contribBody 12 0 = true ∧
      ((comps comp5).began 7 0x20 (hd 2080) contribBody 12 0).handleLive 0x2401 = true ∧
      ((comps comp5).began 7 0x20 (hd 2080) contribBody 12 0).reached (cdHome desc2 0) 9 = false ∧
      ((comps comp5).began 7 0x20 (hd 2080) contribBody 12 0).comp 1023 = comp5 ∧ segRule desc2 1 0 512 = true ∧
      comp5.complete 0 = false ∧ comp5.isOpen 0 = true) ∧
    (Comp.full { comp5 with chunks := [(0, { took := [(0, 1), (1, 1)] })] } 0 = true) ∧
    ((comps { comp5 with base := 1 }).comp 1023).base = cdChunks desc2 ∧ cdStall desc2 ≠ 0 ∧ cdStall desc2 ≤ 1 := by
  decide +kernel

/-- Composites: the full chunk's target can be written. -/
theorem test_hyps_Composites_write :
    (let s := comps { comp5 with chunks := [(0, { took := [(0, 1), (1, 1)] })] }
     let ps := granulePieces (cdTarget desc2) (List.replicate 2048 0#8)
     (s.poolWaits (s.handleOf 9) (ps.map (fun q => (q.1, q.2.length))) true).1 = false ∧
     ∀ q ∈ ps, (s.agentCheck (s.handleOf 9) q.1 q.2.length true).1 = .ok (ext 0 0)) := by dsimp only; decide +kernel

/-- The job of a COPY of 4,096 bytes of extent 1's first granule. -/
def copyJob (sl : Tab Nat) : PoolJob :=
  { req := { held 0x10 with h := hd 80, body := poolBlock 2 0 0 0 0 (2 ^ 28) 4096 0 }, slots := sl }

/-- The host with that job. -/
def jobs (j : PoolJob) : State := win {} { jobs := [j] }

/-- PoolOperations: each form, a queued job with room, a window that waits, one that is read, and a job with no work left. -/
theorem test_hyps_PoolOperations :
    (startsOk (win {}) 7 0x10 (hd 80) (poolBlock 2 0 0 0 0 (2 ^ 28) 4096 0) 12 0 = true ∧
      ((win {}).began 7 0x10 (hd 80) (poolBlock 2 0 0 0 0 (2 ^ 28) 4096 0) 12 0).poolCheck
        ((win {}).accepted 7 0x10 (hd 80) (poolBlock 2 0 0 0 0 (2 ^ 28) 4096 0) 12 0).1 = none) ∧
    startsOk (win {}) 7 0x10 (hd 80) (poolBlock 1 0 0 8 0 0 1 255) 12 0 = true ∧ startsOk (win {}) 7 0x10 (hd 80) (poolBlock 3 0 0 0 0 4096 1 0) 12 0 = true ∧
    startsOk (win {}) 7 0x10 (hd 80) (poolBlock 4 0 3 0 0 0 4 0) 12 0 = true ∧
    (jobs (copyJob [])).reels.jobs.find? (fun j => j.part = 9 && j.at_ 31 = 0) = some (copyJob []) ∧ poTwo (copyJob []).cmd = true ∧
    (jobs (copyJob [])).poolActive 31 9 < 2 ∧ (jobs (copyJob [])).reached 31 9 = false ∧
    ((jobs { copyJob [(0, 1)] with wins := [(0, 1)] }).nextStage 0 = some ({ copyJob [(0, 1)] with wins := [(0, 1)] }, 0)) ∧
    (jobs (copyJob [])).isSealed 9 = false ∧ (jobs (copyJob [])).fl.inGuard = false ∧
    (copyJob ((List.range 32).map (fun i => (i, 2)))).bad = none ∧ ((win {}).began 7 0x10 (hd 80) (poolBlock 2 0 0 0 0 (2 ^ 28) 4096 0) 12 0).job 7
      ((win {}).accepted 7 0x10 (hd 80) (poolBlock 2 0 0 0 0 (2 ^ 28) 4096 0) 12 0).1.id = none ∧
    PoolJob.finished (copyJob ((List.range 32).map (fun i => (i, 2)))) = true ∧
    ((jobs (copyJob [])).poolOutcome (copyJob [])).1 = Code.ok := by
  decide +kernel

/-- PoolOperations: a window worked at a slot. -/
theorem test_hyps_PoolOperations_window :
    (let j := { copyJob [(0, 1)] with wins := [(0, 2)] }
     let gs := slotGranules (poA j.cmd + (j.winRange 0).1) (j.winRange 0).2 0
     (jobs j).job 7 3 = some j ∧ Tab.getD j.wins 0 0 = 2 ∧ 0 ≤ j.scanned ∧ (jobs j).reached 0 9 = false ∧ ((jobs j).poolWaits 0x2401 gs true).1 = false ∧
     (((jobs j).poolWaits 0x2401 gs true).2.poolWaits 0x2401 (gs.map (fun q => (poB j.cmd + (q.1 - poA j.cmd), 1))) false).1 = false) := by
  dsimp only; decide +kernel

/-! ### The mover, the part's own requests, waiting requests and pairs -/

/-- Agent 0 of partition 9: endpoint 0x213 on port 7, with every right. -/
def agent0 : Nat := 2 ^ 63 + 9 * 2 ^ 57 + 7 * 2 ^ 51 + 0x213 * 2 ^ 35 + 0x213 * 2 ^ 19 + 7 * 2 ^ 16

/-- The host's partition with that agent and the mover `m`; ring 15 lies at slot 0. -/
def mov (m : Mover) : State :=
  { win {} with
    regs := (win {}).regs ++ [(K.agents 0, agent0)]
    mover := m }

/-- A task of ring 15 that transfers `op` 4,096 bytes of extent 0 to or from remote page 0, which it has translated. -/
def task (op fin : Nat) (bursts : List MBurst) : MTask :=
  { id := 5, part := 9, ring := 15, slot := 0, engine := 0, slab := 3, count := 0, handle := 0x2401, addr := 0
    desc := toLE 1 op ++ toLE 7 0 ++ toLE 8 0 ++ toLE 8 0 ++ toLE 4 4096 ++ List.replicate 36 0#8, agent := agent0, detached := false
    state := 2, tries := 0, fault := none, absent := none, pages := [(0, 7 * 65536 + 2 ^ 15)], bytesDone := 0, bytesIssued := 0
    bursts := bursts, final := if fin = 1 then some Code.ok else none, written := fin = 1 }

/-- MoverTasks: a ring with a descriptor to fetch, a task that has finished, one whose record is written, a ring that halts. -/
theorem test_hyps_MoverTasks :
    (let s := mov { rings := [(9 * 16 + 15, { state := 1, tail := 1 })] }
     s.freeSlab 9 15 = some 0 ∧ s.fl.inGuard = false ∧ rgValid (s.ringDesc 9 15) = true ∧ (s.ring 9 15).state = 1 ∧ (s.ring 9 15).fetched ≠ (s.ring 9 15).tail ∧
     s.active 9 = true ∧ (s.readDesc 9 (s.handleOf 9) 0).1 = some (0, List.replicate 64 0#8) ∧
     (s.readDesc 9 (s.handleOf 9) 0).2.descFault 9 (List.replicate 64 0#8) = none) ∧
    (let tk := { task 2 0 [] with bytesDone := 4096 }
     let s := mov { tasks := [tk] }
     s.mover.tasks.find? (fun t => t.part = 9 ∧ t.ring = 15 ∧ t.slab = 3 ∧ !t.written) = some tk ∧ s.task tk.id = some tk ∧
     tk.finished = some Code.ok ∧ (∀ b ∈ tk.bursts, b.done = true) ∧ (s.putRecord tk.handle tk.addr (s.record Code.ok tk.bytesDone tk.uncertain)).1 = true) ∧
    (mov { tasks := [task 2 1 []] }).mover.tasks.find? (fun t => t.part = 9 ∧ t.ring = 15 ∧ t.slab = 3 ∧ t.written) = some (task 2 1 []) ∧
    (task 2 1 []).detached = false ∧ (task 2 1 []).final = some Code.ok ∧
    (((mov { rings := [(9 * 16 + 15, { state := 2 })] }).ring 9 15).state = 2 ∧
      (mov { rings := [(9 * 16 + 15, { state := 2 })] }).ringTasks 9 15 = []) := by dsimp only; decide +kernel

/-- MoverTasks: a chunk of one burst that its engine picks, at the last moment of a frame at which it fits. -/
theorem test_hyps_MoverTasks_chunk :
    ((mov { tasks := [task 2 0 []] }).at 247968).moverPick 0 0 247968 = some (task 2 0 []) ∧ (task 2 0 []).chunkBursts = [(0, 4096)] ∧
    (task 2 0 []).valid ((task 2 0 []).pageAt 0) = true ∧ (task 2 0 []).op = 2 ∧
    ((mov { tasks := [task 1 0 []] }).at 0).moverPick 0 0 0 = some (task 1 0 []) ∧ (task 1 0 []).op = 1 ∧
    goodPrefix 0 4096 (List.replicate 32 (.data (List.replicate 128 0#8))) = (4096, false) := by decide +kernel

/-- An access to a plain, unerased, tagged extent passes whatever the mover does. -/
theorem agentCheck_plain (s : State) (m : Mover) (h va len e : Nat) (h1 : s.mapped (handlePart h) va = some e)
    (h2 : (Tab.find s.erasing (eDxn e)).isSome = false) (h3 : s.tagOk e va h = true) (h4 : s.toRecall e va len false = [])
    (h5 : s.halts va = false) :
    ({ s with mover := m } : State).agentCheck h va len false = (.ok e, { s with mover := m }) := by
  have k1 : ({ s with mover := m } : State).mapped (handlePart h) va = some e := h1
  have k3 : ({ s with mover := m } : State).tagOk e va h = true := h3
  have k4 : ({ s with mover := m } : State).toRecall e va len false = [] := h4
  have k5 : ({ s with mover := m } : State).halts va = false := h5
  simp [State.agentCheck, k1, h2, k3, State.recallFor, k4, k5]

/-- MoverTasks: a PUSH's pool address may be read whatever the mover does. -/
theorem test_hyps_MoverTasks_push (m : Mover) :
    ({ (mov {}).at 0 with mover := m } : State).agentCheck 0x2401 0 4096 false = (.ok (ext 0 0), { (mov {}).at 0 with mover := m }) :=
  agentCheck_plain _ m _ _ _ _ (by decide +kernel) (by decide +kernel) (by decide +kernel) (by decide +kernel)
    (by decide +kernel)

/-- The lines of fresh granules are zeros, whatever the mover does. -/
theorem agentLines_fresh (e h : Nat) (ls : List Nat) (s : State) (acc : List LineGot) (hf : ∀ a ∈ ls, s.isFresh (s.homeDpa e a) = true) :
    ls.foldl (fun (r : List LineGot × State) a => let x := r.2.readFinal e a h []; (r.1 ++ [x.1], x.2)) (acc, s) =
      (acc ++ ls.map (fun _ => .data (List.replicate 128 0#8)), s) := by
  induction ls generalizing acc with
  | nil => simp
  | cons a l ih =>
    have h1 : s.readLine e a h [] false = (.data (List.replicate 128 0#8), s) := by
      simp [State.readLine, hf a (by simp)]
    have h2 : s.readFinal e a h [] = (.data (List.replicate 128 0#8), s) := by simp [State.readFinal, h1]
    rw [List.foldl_cons]
    simp only [h2]
    rw [ih _ (fun b hb => hf b (by simp [hb]))]
    simp

/-- So are those of a range. -/
theorem agentLines_zero (s : State) (m : Mover) (e va len h : Nat) (hf : ∀ a ∈ linesOf va len, s.isFresh (s.homeDpa e a) = true) :
    ({ s with mover := m } : State).agentLines e va len h =
      ((linesOf va len).map (fun _ => .data (List.replicate 128 0#8)), { s with mover := m }) :=
  agentLines_fresh e h (linesOf va len) { s with mover := m } [] (fun a ha => hf a ha)

/-- MoverTasks: its lines are good. -/
theorem test_hyps_MoverTasks_lines (m : Mover) :
    ({ (mov {}).at 0 with mover := m } : State).agentLines (ext 0 0) 0 4096 0x2401 =
      ((linesOf 0 4096).map (fun _ => .data (List.replicate 128 0#8)), { (mov {}).at 0 with mover := m }) :=
  agentLines_zero _ m _ _ _ _ (by decide +kernel)

/-- MoverAnswers: the answers to a translation, a page request, a MOVE_WRITE and a MOVE_READ; an invalidation, and its drain. -/
theorem test_hyps_MoverAnswers :
    (matchesOk (owes [] (owed 0x50 (.translate 5))) 7 0xD0 (rhd 16) 0 (owed 0x50 (.translate 5)) = true ∧
      matchesOk (owes [] (owed 0x52 (.page 0))) 7 0xD2 (rhd 16) 0 (owed 0x52 (.page 0)) = true ∧
      matchesOk (owes [] (owed 0x53 (.moveWrite 5 0 4096))) 7 0xD3 (rhd 16) 0 (owed 0x53 (.moveWrite 5 0 4096)) = true ∧
      matchesOk (owes [] (owed 0x54 (.moveRead 5 0 4096))) 7 0xD4 (rhd 4112) 0 (owed 0x54 (.moveRead 5 0 4096)) = true) ∧
    ((mov { tasks := [task 1 0 []] }).task 5 = some (task 1 0 []) ∧ (task 1 0 []).push = true ∧ (task 2 0 []).push = false) ∧
    (mov { faults := [⟨0, 0, 0x213, 7, 0, 0, 1, [5]⟩] }).mover.faults.find? (fun f => f.slot = 0 / 256 ∧ f.n = 0 % 256) =
      some ⟨0, 0, 0x213, 7, 0, 0, 1, [5]⟩ ∧
    startsOk (mov {}) 7 0x51 (hd 40) (toLE 4 (2 ^ 32 - 1) ++ toLE 4 0 ++ toLE 8 0 ++ toLE 8 (2 ^ 64 - 1)) 4096 0 = true ∧
    (({ mov {} with waiting := [(.invalDrain, held 0x51)] } : State).waiting.find?
      (fun w => w.1 = .invalDrain ∧ w.2.port = 7 ∧ w.2.id = 3) = some (.invalDrain, held 0x51)) := by decide +kernel

/-- ResponsesAndTimeouts: each response, one that matches nothing, a request with a resend left and one without, OPCODEs not served. -/
theorem test_hyps_ResponsesAndTimeouts :
    matchesOk (owes [] (owed 0x60 (.doorbell 9 0 16 0))) 7 0xE0 (rhd 16) 0 (owed 0x60 (.doorbell 9 0 16 0)) = true ∧
    matchesOk (owes [] (owed 0x40 .notify)) 7 0xC0 (rhd 16) 0 (owed 0x40 .notify) = true ∧
    matchesOk (owes [] (owed 0x71 (.mgmt 0))) 7 0xF1 (rhd 16) 0 (owed 0x71 (.mgmt 0)) = true ∧
    ((host []).portOpen 7 = true ∧ (rhd 16).dst = (host []).rd (K.portEid 7) ∧ (host []).passes 7 (0xC0 % 128) = true ∧
      (host []).matchResp 7 (rhd 16) = none) ∧
    legalResp (owed 0x60 .notify).msg.op 0xC0 = false ∧
    ((owes [] (owed 0x40 .notify)).passes 7 0x40 = true ∧ (owed 0x40 .notify).gone = false ∧ (owed 0x40 .notify).resends < (owes [] (owed 0x40 .notify)).eff (K.partReqRetries 7) ∧
      ((owes [(K.partReqRetries 7, 0)] (owed 0x40 .notify)).port 7).outReq = [owed 0x40 .notify] ∧
      (owes [(K.partReqRetries 7, 0)] (owed 0x40 .notify)).eff (K.partReqRetries 7) ≤ (owed 0x40 .notify).resends ∧
      leAt (owed 0x40 .notify).msg.body 0 2 ≠ 2) ∧
    (0x7F ∉ listedOps ∧ 0x40 ∈ listedOps ∧ 0x40 ∉ receivedOps ∧ 0xFF ∉ listedOps ∧ (host []).passes 7 0x7F = true ∧ (host []).passes 7 0x40 = true) := by
  decide +kernel

/-- The host's port with request `r` waiting for `x`. -/
def waits (x : Wait) (r : Req) : State := { host [] with waiting := [(x, r)] }

/-- WaitingRequests: a request behind a fence, one in the inbound queue, one on its way, a retry, a move of its slot. -/
theorem test_hyps_WaitingRequests :
    (((waits .fence (held 0x01)).waitersOf .fence).find? (fun r => r.port = 7 && r.id = 3) = some (held 0x01) ∧
      (waits .fence (held 0x01)).earlier (held 0x01) = false ∧
      (((waits .fence (held 0x01)).at 0).takeWaiter .fence (held 0x01)).mayInject 7 9 (msgCells 32) = true ∧
      (((waits .fence (held 0x01)).at 0).takeWaiter .fence (held 0x01)).queued 7 9 = [] ∧ noBinding 0x01 = false) ∧
    ((waits .share (held 0x01)).queued 7 9 = [held 0x01] ∧ ((waits .share (held 0x01)).at 0).mayInject 7 9 (msgCells 32) = true) ∧
    ((waits .home (held 0x01)).waitersOf .home).find? (fun r => r.port = 7 && r.id = 3) = some (held 0x01) ∧
    ({ waits (.slotMove 31) (held 0x01) with cont := { State.reset.cont with moving := some 31 } } : State).cont.moving = some 31 := by
  decide +kernel

/-- Extent 0 of partition 9 is the secondary copy of pair 1023, and the primary copy of pair 0 in `paired`. -/
def second : State := host [(K.pairs 1023, 2 ^ 127 + 2 ^ 126 + 9 * 2 ^ 120 + 7 * 2 ^ 100 + 3 * 2 ^ 71 + 0x213 * 2 ^ 45)]

/-- The primary copy's state while region 255 of tile 0 is to be sent again. -/
def resyncing : State :=
  { host [(K.pairs 0, 2 ^ 127 + 9 * 2 ^ 120 + 7 * 2 ^ 100 + 0x213 * 2 ^ 45), (K.pairState 0, 3)] with
    cont := { State.reset.cont with dirty := [(0, 2 ^ 255)] } }

/-- PairedExtents: a PAIR_WRITE of the secondary's last line, its answer at the primary, and a region to send again. -/
theorem test_hyps_PairedExtents :
    (let b := toLE 4 (3 * 1024 + 1023) ++ toLE 4 0 ++ toLE 8 (2 ^ 28 - 128) ++ toLE 2 128 ++ toLE 6 0 ++ List.replicate 128 9#8
     startsOk second 7 0x58 (hd 168) b 4096 0 = true ∧
     (let u := second.began 7 0x58 (hd 168) b 4096 0
      pdValid (u.pair 1023) = true ∧ pdInc (u.pair 1023) = 3 ∧ pdSecondary (u.pair 1023) = true ∧ eValid (u.entry 9 0) = true ∧
      Tab.find u.erasing 0 = none ∧ u.keySt 0 ≠ 0 ∧ u.tagOk (ext 0 0) (2 ^ 28 - 128) (u.handleOf 9) = true ∧ eTag (ext 0 0) = 0 ∧
      (u.writeBytes (ext 0 0) (2 ^ 28 - 128) (List.replicate 128 9#8) 0x2401 []).1.all id = true)) ∧
    matchesOk (owes [] (owed 0x58 (.pairWrite 0 7 3))) 7 0xD8 (rhd 16) 0 (owed 0x58 (.pairWrite 0 7 3)) = true ∧
    (waits (.pair 0 0 []) (held 0x02)).waiting = [(.pair 0 0 [], held 0x02)] ∧ (waits (.pair 0 0 []) (held 0x02)).cont.pairAgain = [] ∧
    Tab.find resyncing.cont.resync (0 * 64 + 0) = none ∧
    (pdValid (resyncing.pair 0) = true ∧ pdSecondary (resyncing.pair 0) = false ∧ resyncing.rd (K.pairState 0) = 3 ∧
      lowestBit (resyncing.dirtyAt 0 0) = some 255 ∧ resyncing.pairPort (resyncing.pair 0) = some 7 ∧
      (resyncing.resyncOffset (resyncing.pair 0) 0 255 0).any (fun off => !resyncing.pairClash 0 off 4096) = true) := by
  dsimp only; decide +kernel

/-! ### Stacks and relocation -/

/-- Tile 35's stack `k` beside the elements `l`; it is up unless they say otherwise. -/
def stk (k : Stack) (l : List (Nat × Nat) := []) : State := { st ((K.stackState 35, 3) :: l) with stackTab := [(35, k)], tags := [(0, 0x2401)] }

/-- StackCommands: a burst in the last slot's reserve, the last refresh of a pass, an aggressor, a partition at its limit, a throttle that
ends and one that goes on, an idle pseudo-channel, a stack at its limit of bad reads. -/
theorem test_hyps_StackCommands :
    (((stk { queue := [⟨0, 0, false⟩] }).followDrain 35 0).pick 35 0 0 ([0].filter (fun b =>
        ((stk { queue := [⟨0, 0, false⟩] }).bankOwner b).isSome || (stk { queue := [⟨0, 0, false⟩] }).refreshOwed 35 0 b (2 * 0) ≤ 16)) =
          some ⟨0, 0, false⟩ ∧ (stk { queue := [⟨0, 0, false⟩] }).rd (K.stackState 35) = 3) ∧
    ((stk {}).domainsOn 35 = true ∧ (stk {}).rd (K.stackState 35) ≠ 0 ∧ ((stk {}).stack 35).retraining ≠ some 31 ∧
      ((stk {}).at 500000).refreshMay 35 31 47 500000 = true ∧ ((stk { banks := [(31 * 48 + 47, { pass := 2751 })] }).bank 35 31 47).pass + 1 = 2752) ∧
    (((stk { banks := [(31 * 48 + 3, { targets := [15] })] }).bank 35 31 3).targets = [15] ∧
      (stk {}).systemMay 3 0 = true ∧ (stk {}).rowTag 3 15 ≠ 0) ∧
    ((stk { hammered := [(63, 100000)] }).eff (K.hammerEventLimit 35) ≤ Tab.getD ((stk { hammered := [(63, 100000)] }).stack 35).hammered 63 0 ∧
      (stk { hammered := [(63, 100000)] }).rd (K.throttled 35 63) ≠ 2) ∧
    (Tab.find ((stk { throttleEnd := [(63, 2)] } [(K.frameNumber, 2)]).stack 35).throttleEnd 63 = some 2 ∧
      2 ≤ (stk { throttleEnd := [(63, 2)] } [(K.frameNumber, 2)]).frame ∧ (stk { throttleEnd := [(63, 2)] }).frame < 2) ∧
    ((stk {}).anySealed = false ∧ 31 ∉ ((stk {}).stack 35).down ∧ (∀ b, b < 48 → ((stk {}).bank 35 31 b).row = none) ∧
      ((stk {}).stack 35).queue = [] ∧ (∀ b, b < 48 → (stk {}).refreshOwed 35 31 b (0 + (stk {}).eff (K.pdTimer 35)) ≤ 0)) ∧
    (64 ≤ ((stk { badReads := 64 }).stack 35).badReads ∧ (stk { badReads := 64 }).cont.reloc = none ∧
      (stk { badReads := 64 }).slotOfTile 35 = some 31) := by decide +kernel

/-- A training word of mode `m` for pseudo-channel 31. -/
def trains (m : Nat) : State := stk { trained := List.range 31 } [(K.trainCtrl 35, 2 ^ 31 + m * 2 ^ 29 + 31 * 2 ^ 24)]

/-- StackTraining: a step of each mode, a retraining that is due, one that ends, one in a sealed partition's maintenance phase. -/
theorem test_hyps_StackTraining :
    (∀ m : Fin 4, bit ((trains m).rd (K.trainCtrl 35)) 31 = true ∧ fld ((trains m).rd (K.trainCtrl 35)) 28 24 = 31 ∧
      (trains m).rd (K.trainCtrl 35) < 2 ^ 32 ∧ fld ((trains m).rd (K.trainCtrl 35)) 30 29 = m) ∧
    (((stk { retrainAsk := some (31, 0) } [(K.frameNumber, 1)]).stack 35).retrainAsk = some (31, 0) ∧
      (stk { retrainAsk := some (31, 0) } [(K.frameNumber, 1)]).anySealed = false ∧ 0 < (stk {} [(K.frameNumber, 1)]).frame) ∧
    (((stk { retraining := some 31 }).stack 35).retraining = some 31 ∧
      (stk { retraining := some 31 }).tapsNear 35 31 (List.replicate 144 ((stk {}).rd (K.dqDelays 35 (31 * 144)))) = true ∧
      Tab.getD ((stk { retraining := some 31 }).stack 35).retrainFails 31 0 = 0) := by decide +kernel

/-- The first line of tile 35. -/
def line35 : Nat := 35 * 2 ^ 30

/-- A scrub of it is due: its granule is written, its device extent is in use and its key is live. -/
def scrubbing (noisy : Bool) : State :=
  { stk { scrubLeft := 1 } [(K.scrubEnable, 1), (K.keyState 0, 1), (K.dxnState 0, 1)] with
    written := [35 * 2 ^ 25]
    errs := if noisy then [(line35 * 144, 1)] else [] }

/-- IntegrityCommands: a signature write that waits, a scrub read that is clean and one that is corrected, the line that a quota just
does not reach, a test operation of each kind and one whose extent is in use, the third check of an alert. -/
theorem test_hyps_IntegrityCommands :
    (line35 / 2 ^ 30 = 35 ∧ (stk {}).domainsOn 35 = true ∧ line35 ∈ ((stk { signWait := [line35] }).stack 35).signWait ∧ (stk {}).systemMay (bankOf (line35 * 128)) 0 = true) ∧
    ((scrubbing false).rd K.scrubEnable ≠ 0 ∧ (scrubbing false).inService 35 = true ∧ ((scrubbing false).stack 35).lost = false ∧
      (scrubbing false).rd (K.stackState 35) ≠ 5 ∧ (scrubbing false).nextScrub 35 ((scrubbing false).rd (K.scrubPosition 35) % 2 ^ 32) = 0 ∧
      0 - (scrubbing false).rd (K.scrubPosition 35) % 2 ^ 32 < ((scrubbing false).stack 35).scrubLeft ∧
      (scrubbing false).systemMay (bankOf 0) 0 = true ∧
      (((scrubbing false).at 0).scrubAdvance 35 1).decode line35 [] = .clean ∧
      (((scrubbing true).at 0).scrubAdvance 35 1).decode line35 [] = .corrected [(0, 1)]) ∧
    (let s : State := { scrubbing false with written := [35 * 2 ^ 25 + 1] }
     s.nextScrub 35 (s.rd (K.scrubPosition 35) % 2 ^ 32) = 32 ∧ (s.stack 35).scrubLeft ≤ 32 - s.rd (K.scrubPosition 35) % 2 ^ 32 ∧
      (s.stack 35).scrubLeft ≠ 0) ∧
    ((st []).rd (K.dxnState (dpos (dpaLocal 0))) = 0 ∧ (st [(K.dxnState 0, 1)]).rd (K.dxnState (dpos (dpaLocal 0))) ≠ 0 ∧
      (st []).systemMay (bankOf 0) 0 = true ∧ 0 < 36 * 2 ^ 37 ∧ ({ st [] with test := some ⟨0, 0, 0, 0⟩ } : State).test = some ⟨0, 0, 0, 0⟩ ∧ (∀ k : Fin 4, fld (k * 2 ^ 28) 29 28 = k)) ∧
    (let s := stk { alertChecked := some 4000, alertRun := [(17, 2)] } [(K.frameNumber, 8000), (K.dieAlert 35, 2 ^ 17)]
     s.frame % 4000 = 0 ∧ s.frame = 4000 + 4000 ∧ bit (s.rd (K.dieAlert 35)) 17 = true ∧
     (∀ e, e < 17 → bit (s.rd (K.dieAlert 35)) e = false ∧ dieRows (s.windowOf 35) e < 64) ∧
     Tab.getD (s.stack 35).alertRun 17 0 = 2 ∧ s.rd (K.dieRetire 35) = 0xFF) := by dsimp only; decide +kernel

/-- A relocation of slot 31 from tile 35 to the spare tile 21, at step `n`. -/
def move (kind n : Nat) : Reloc := { slot := 31, source := 35, target := 21, kind := kind, ret := false, step := n }

/-- A state in which it is in progress. -/
def moves (kind n : Nat) (l : List (Nat × Nat)) : State := { st l with cont := { State.reset.cont with reloc := some (move kind n) } }

/-- RelocationSteps: a trigger with a target, a target that is prepared, nothing and one granule left to copy, an idle take state. -/
theorem test_hyps_RelocationSteps :
    (let s := { st [(K.tileState 21, 1), (K.relocAuto, 1)] with cont := { State.reset.cont with triggers := [(31, 3)] } }
     s.cont.triggers.find? (fun x => x.1 = 31) = some (31, 3) ∧ s.relocTarget 31 0x3F = some 21 ∧ s.rd K.relocAuto = 1 ∧
     s.cont.reloc = none ∧ (s.stack (s.tileAt 31)).lost = false) ∧
    ((moves 0 1 [(K.fillStatus 21, 2), (K.stackState 21, 3)]).rd (K.fillStatus 21) = 2 ∧
      (moves 0 1 [(K.fillStatus 21, 2), (K.stackState 21, 3)]).rd (K.stackState 21) = 3) ∧
    ((moves 0 4 []).copyGranules (move 0 4) = []) ∧
    (({ moves 0 4 [(K.keyState 0, 1), (K.dxnState 0, 1)] with written := [35 * 2 ^ 25], tags := [(0, 0x2401)] } : State).copyGranules (move 0 4)).length = 1 ∧
    ((moves 0 4 []).stack 35).lost = false ∧ (35 * 2 ^ 25) % 2 ^ 25 < 16256 * 2 ^ 11 ∧ (moves 0 5 []).takeState = 0 ∧ ((moves 0 8 []).stack 35).lost = false := by dsimp only; decide +kernel

/-! ### SPDM, sessions, keys, power and slates -/

/-- The host once its boot ROM runs, connection `k` in state `x`. -/
def spd (k : Nat) (x : Spdm) : State := { host [] with boot := { (host []).boot with spdm := [(k, x)] } }

/-- A message on a management port, once the boot ROM runs, is carried. -/
theorem carried_mgmt (s : State) (via source : Nat) (h : Hdr) (kind t : Nat) (hr : s.boot.released = true) (hv : 64 ≤ via) :
    Carried s via source h kind t source (s.at t) (fun (v : State) m => v.datagram (via - 64) source (bindHdr kind ++ m)) :=
  ⟨hr, .inl ⟨hv, rfl, rfl, rfl⟩⟩

/-- So is one in a transport message that its port accepts. -/
theorem carried_band (s : State) (via source : Nat) (h : Hdr) (kind t : Nat) (hr : s.boot.released = true) (hv : via < 64)
    (ho : (s.at t).portOpen via = true) (he : (s.at t).earlyReq via 0x70 h = none)
    (ha : ((s.at t).arrive via 0x70 h (toLE 2 (h.len - 24) ++ toLE 6 0)).1.isSome = true) :
    ∃ u put, Carried s via source h kind t h.src u put := by
  obtain ⟨q, hq⟩ := Option.isSome_iff_exists.mp ha
  exact ⟨_, _, hr, .inr ⟨hv, rfl, ho, q, .inl ⟨he, Prod.ext hq rfl⟩, rfl⟩⟩

/-- The host with an SPDM request accepted on port 7 before the service ran. -/
def early : State :=
  { host [] with boot := { (host []).boot with early := [(7, 3)] }, ports := [(7, { pending := [held 0x70] })] }

/-- SpdmRequests: a request accepted before the service ran, brought again. -/
theorem test_hyps_SpdmRequests_early : ∃ u put, Carried early 7 0 (hd 32) 0 0 0x213 u put :=
  ⟨_, _, by decide +kernel, .inr ⟨by decide, rfl, by decide +kernel, held 0x70, .inr ⟨by decide +kernel, rfl⟩, rfl⟩⟩

/-- SpdmRequests: carried on both management ports and in band; every stage, both slots, a free session, an opening that FINISH ends. -/
theorem test_hyps_SpdmRequests :
    (∃ u put, Carried (host []) 64 77 (hd 24) 0 0 77 u put) ∧ (∃ u put, Carried (host []) 65 77 (hd 24) 0 0 77 u put) ∧
    (∃ u put, Carried (host []) 7 0 (hd 32) 0 0 0x213 u put) ∧
    (((host []).at 0).spdmKey 64 77 = 372 ∧ 3 ≤ (((spd 372 { stage := 3 }).at 0).spdmOf 372).stage ∧
      ((spd 372 { stage := 3 }).at 0).withheld 1 = false ∧ (((spd 372 { stage := 3 }).at 0).chainOf 1).isSome = true ∧
      ((spd 372 { stage := 3 }).at 0).spdmFree 372 = some 0 ∧
      (((spd 372 { stage := 3, opening := some 15 }).at 0).spdmOf 372).opening = some 15) ∧
    (((spd 372 { stage := 3 }).at 0).spdmBlocks 1).isSome = true :=
  ⟨⟨_, _, carried_mgmt _ 64 77 _ 0 0 (by decide +kernel) (by decide)⟩, ⟨_, _, carried_mgmt _ 65 77 _ 0 0 (by decide +kernel) (by decide)⟩,
    carried_band (host []) 7 0 (hd 32) 0 0 (by decide +kernel) (by decide) (by decide +kernel) (by decide +kernel) (by decide +kernel),
    by decide +kernel, by decide +kernel⟩

/-- The host with secured session 15, whose last number accepted was 9. -/
def secured : State := { host [] with sess := [(15, { hiSeq := some 9, seen := [9] })] }

/-- A link end that is the requester of the exchange on port 35, in state `x`. -/
def link35 (x : Spdm) : State :=
  { host [(K.portState 35, 2), (K.linkId 35, 1), (K.peerLinkId 35, 2)] with
    boot := { (host []).boot with spdm := [(35, x)] }
    ports := [(35, { outReq := [{ owed 0x70 .spdm with port := 35, msg := ⟨2, 0x70, 0, 0, 0xFFFF, 0, 5, 0, 0, []⟩ }] })] }

/-- SpdmSessions: a secured message with the next number; each step of the requester. -/
theorem test_hyps_SpdmSessions :
    Secures (secured.at 0) 15 10 (((secured.at 0).setSess 15 (Sess.accept { hiSeq := some 9, seen := [9] } 10)).sessTouch 15) ∧
    ((host []).boot.released = true ∧ (link35 {}).spdmRequester 35 = true ∧ ((link35 {}).spdmOf 35).asked = 0 ∧
      ((link35 {}).spdmOf 35).retry = false ∧ ((link35 { retry := true }).spdmOf 35).retry = true) ∧
    matchesOk (link35 { asked := 8 }) 35 0xF0 ⟨0, 24, 0xFFFF, 0xFFFF, 0, 5, 0, 0⟩ 0
      { owed 0x70 .spdm with port := 35, msg := ⟨2, 0x70, 0, 0, 0xFFFF, 0, 5, 0, 0, []⟩ } = true ∧
    ((link35 { asked := 8 }).spdmOf 35).asked = 8 :=
  ⟨⟨{ hiSeq := some 9, seen := [9] }, rfl, by decide, by decide +kernel, rfl⟩, by decide +kernel⟩

/-- MessagesAndSessions: a message in the clear and in band, packets to each kind of address, a MAC written, sessions just idle enough. -/
theorem test_hyps_MessagesAndSessions :
    (((host []).at 0).earlyReq 7 0x71 (hd 32) = none ∧ ((host []).at 0).earlyReq 7 0x70 (hd 32) = none) ∧
    (host []).boot.released = true ∧ (((host []).at 0).arrive 7 0x71 (hd 32) (toLE 2 8 ++ toLE 6 0)).1.isSome = true ∧
    (((host []).at 0).arrive 7 0x70 (hd 32) (toLE 2 8 ++ toLE 6 0)).1.isSome = true ∧
    ((host []).hasIpv6 1 ((host []).linkLocal 1) = true ∧ (host [(K.mgmtIpv4 1, 0xC0A80002 * 2 ^ 40 + 1)]).hasIpv4 1 0xC0A80002 = true) ∧
    Tab.find (host [(K.mgmtMac 1, 0x123456)]).regs (K.mgmtMac 1) = some 0x123456 ∧
    (0 + 240000 ≤ ({ host [(K.frameNumber, 240000)] with sess := [(31, {})] } : State).frame ∧
      ({ host [(K.frameNumber, 240000)] with sess := [(31, {})] } : State).session 31 = some {} ∧
      0 + 80000 ≤ (host [(K.frameNumber, 80000)]).frame ∧
      ({ host [(K.frameNumber, 80000)] with sess := [(515, {})] } : State).session 515 = some {}) := by decide +kernel

/-- A fold whose steps all go on ends so. -/
theorem fold_ok {α : Type} (f : Nat × List Byte × State → α → Nat × List Byte × State) (s : State)
    (h : ∀ b a, ∃ b', f (0, b, s) a = (0, b', s)) (l : List α) (b : List Byte) : ∃ b', l.foldl f (0, b, s) = (0, b', s) := by
  induction l generalizing b with
  | nil => exact ⟨b, rfl⟩
  | cons a l ih =>
    obtain ⟨c, hc⟩ := h b a
    rw [List.foldl_cons, hc]
    exact ih c

/-- A digest keeps the status. -/
theorem sealHash_fst (b : Byte) (r : Nat × List Byte × State) : (sealHash b r).1 = r.1 := rfl

/-- An extent that nothing has written, its tags right, has a seal digest. -/
theorem sealDigest_fresh (s : State) (p e idx : Nat) (hw : s.written = []) (ht : ∀ va, s.tagOk e va (s.handleOf p) = true) :
    (s.sealDigest p e idx).1 = 0 := by
  have hf : ∀ a, s.isFresh a = true := fun a => by simp [State.isFresh, hw]
  have hr : ∀ va h, s.readFinal e va h [] = (.data (List.replicate 128 0#8), s) := fun va h => by
    have : s.readLine e va h [] false = (.data (List.replicate 128 0#8), s) := by simp [State.readLine, hf]
    simp [State.readFinal, this]
  have h1 : ∀ va l, ∃ b, s.sealLines p e va l = (0, b, s) := fun va l =>
    fold_ok _ s (fun b a => ⟨_, by simp [hr]; rfl⟩) l []
  have h2 : ∀ va, ∃ b, s.sealGranule p e va = (0, b, s) := fun va => by
    obtain ⟨b, hb⟩ := h1 va (List.range 32)
    exact ⟨_, by simp [State.sealGranule, ht, hb, sealHash]; rfl⟩
  have h3 : ∀ base l, ∃ b, s.sealGranules p e base l = (0, b, s) := fun base l =>
    fold_ok _ s (fun b g => by obtain ⟨c, hc⟩ := h2 (base + g * 4096); exact ⟨_, by simp [hc, sealJoin]; rfl⟩) l []
  have h4 : ∀ base l, ∃ b, s.sealGroups p e base l = (0, b, s) := fun base l =>
    fold_ok _ s (fun b j => by
      obtain ⟨c, hc⟩ := h3 (base + j * 2048 * 4096) (List.range 2048)
      exact ⟨_, by simp [State.sealGroup, hc, sealHash, sealJoin]; rfl⟩) l []
  obtain ⟨b, hb⟩ := h4 (eTag e * 2 ^ 42 + idx * 2 ^ 28) (List.range 32)
  rw [State.sealDigest, sealHash_fst, hb]

/-- A fold that has ended stays so. -/
theorem fold_end {α : Type} (f : Nat × List Byte × State → α → Nat × List Byte × State) (hf : ∀ r a, r.1 ≠ 0 → f r a = r) (l : List α)
    (r : Nat × List Byte × State) (h : r.1 ≠ 0) : l.foldl f r = r := by
  induction l with
  | nil => rfl
  | cons a l ih => rw [List.foldl_cons, hf r a h, ih]

/-- A chain of digests that the first ends has none. -/
theorem fold_bad {α : Type} (g : State → α → Nat × List Byte × State) (s : State) (a : α) (l : List α) (h : (g s a).1 ≠ 0) :
    ((a :: l).foldl (fun (r : Nat × List Byte × State) j => if r.1 ≠ 0 then r else sealJoin r.2.1 (g r.2.2 j)) (0, [], s)).1 ≠ 0 := by
  rw [List.foldl_cons, fold_end _ (fun r a hr => by simp [hr])]
  · simpa [sealJoin] using h
  · simpa [sealJoin] using h

/-- The granules from a bad one on have no digest. -/
theorem sealGranules_bad (s : State) (p e base n : Nat) (h : (s.sealGranule p e (base + 0 * 4096)).1 ≠ 0) :
    (s.sealGranules p e base (List.range (n + 1))).1 ≠ 0 := by
  rw [State.sealGranules, List.range_succ_eq_map]
  exact fold_bad (fun u g => u.sealGranule p e (base + g * 4096)) s 0 _ h

/-- Nor have the groups from a bad one on. -/
theorem sealGroups_bad (s : State) (p e base n : Nat) (h : (s.sealGroup p e base 0).1 ≠ 0) :
    (s.sealGroups p e base (List.range (n + 1))).1 ≠ 0 := by
  rw [State.sealGroups, List.range_succ_eq_map]
  exact fold_bad (fun u j => u.sealGroup p e base j) s 0 _ h

/-- A group whose first granule ends it has no digest. -/
theorem sealGroup_bad (s : State) (p e base j : Nat) (h : (s.sealGranule p e (base + j * 2048 * 4096 + 0 * 4096)).1 ≠ 0) :
    (s.sealGroup p e base j).1 ≠ 0 := by
  rw [State.sealGroup, sealHash_fst]
  exact sealGranules_bad s p e (base + j * 2048 * 4096) 2047 h

/-- A seal whose first granule ends it has no digest. -/
theorem sealDigest_bad (s : State) (p e idx : Nat)
    (h : (s.sealGranule p e (eTag e * 2 ^ 42 + idx * 2 ^ 28 + 0 * 2048 * 4096 + 0 * 4096)).1 ≠ 0) : (s.sealDigest p e idx).1 ≠ 0 := by
  rw [State.sealDigest, sealHash_fst]
  exact sealGroups_bad s p e _ 31 (sealGroup_bad s p e _ 0 h)

/-- Partition 9 seals extent 0, whose first granule is fresh, or its first line bad. -/
def sealing (bad : Bool) : State :=
  { (if bad then broken else { host [] with tags := [(0, 0x2401)] }) with parts := [(9, { sealJob := some ⟨0, true, none, none⟩ })] }

/-- KeyAndPowerEvents: a seal with a digest. -/
theorem test_hyps_KeyAndPowerEvents_seal : ((sealing false).sealDigest 9 (ext 0 0) 0).1 = 0 :=
  sealDigest_fresh _ _ _ _ (by decide +kernel) (fun va => by
    have h : (sealing false).handleOf 9 = 0x2401 := by decide +kernel
    have hx : eDxn (ext 0 0) = 0 := by decide +kernel
    have hl : dpos (localOf va 0) = 0 := by
      simp only [dpos, localOf, vaRow, vaGranule, fld]
      omega
    rw [h, State.tagOk, hx, State.tagOf, hl]
    decide +kernel)

/-- KeyAndPowerEvents: a seal that a bad line ends; a quarantine at its frame, a minute just ended, an allowance reached, a halving,
a peak window armed and ended, a coolant report just too old. -/
theorem test_hyps_KeyAndPowerEvents :
    ((sealing true).sealGranule 9 (ext 0 0) (eTag (ext 0 0) * 2 ^ 42 + 0 * 2 ^ 28 + 0 * 2048 * 4096 + 0 * 4096)).1 ≠ 0 ∧ ((sealing true).part 9).sealJob = some ⟨0, true, none, none⟩ ∧
    (st [(K.partitionStatus 63, 2), (K.quarantineEnd 63, 8), (K.frameNumber, 8)]).rd (K.quarantineEnd 63) ≤
      (st [(K.partitionStatus 63, 2), (K.quarantineEnd 63, 8), (K.frameNumber, 8)]).frame ∧
    (st [(K.drbgStatus 35, 1)]).rd (K.drbgStatus 35) = 1 ∧
    ((st [(K.stackState 35, 5)]).boot.powered = true ∧ (st [(K.stackState 35, 5)]).domainsOn 35 = true ∧
      (st [(K.stackState 35, 5)]).rd (K.stackState 35) = 5) ∧
    240000 * (0 + 1) ≤ (st [(K.frameNumber, 240000)]).frame ∧
    ({ st [] with dailies := { State.reset.dailies with minutes := [(63, [1#8])] } } : State).dailies.minutes = [(0 * 65 + 63, [1#8])] ∧
    (st [(K.tileCut 35, 224)]).reached 31 63 = true := by decide +kernel

/-- The seal that a bad line ends. -/
theorem test_hyps_KeyAndPowerEvents_bad : ((sealing true).sealDigest 9 (ext 0 0) 0).1 ≠ 0 :=
  sealDigest_bad _ _ _ _ test_hyps_KeyAndPowerEvents.1

/-- The part after its boot, its clock free, nothing under way. -/
def calm (l : List (Nat × Nat)) (k : TakeCtl := {}) : State :=
  { st l with boot := { State.reset.boot with locked := true }, take := k }

/-- Slates: a quiet state, one with an armed take of one share, the guard at the end of a frame. -/
theorem test_hyps_Slates :
    (calm []).Quiet ∧ (calm []).takeState = 0 ∧
    (calm [(K.takeState, 3)] { staged := [(K.bwShares 63 31, 5)] }).Quiet ∧
    ((calm [(K.takeState, 3)] { staged := [(K.bwShares 63 31, 5)] }).takeState = 3 ∧
      (∀ q, q < 64 → ((calm [(K.takeState, 3)]).rd (K.partitionStatus q) = 1 ↔ (calm [(K.takeState, 3)]).rd (K.partitionState q) = 1))) ∧
    ((calm []).reels.ctxs = [] ∧ (calm []).fl.inGuard = false) :=
  ⟨by unfold State.Quiet; decide +kernel, by decide +kernel,
    by unfold State.Quiet; decide +kernel, by decide +kernel⟩

/-! ### Reels -/

/-- `Issues` as a computation. -/
def issuesOk (s : State) (slot c t : Nat) (op : Nat × Nat) (p w : Nat) : Bool :=
  (s.at t).mayIssue slot c t && decide (((s.at t).ctx slot c).refused = none) && decide ((s.at t).ctxOwner slot c = some p) &&
  decide (((s.at t).fetchWord p slot c).1 = .word w) && decide (wordOp w = some op) &&
  (!governedOp op.1 || !(s.at t).reached slot p)

/-- The state after its fetch and its turn. -/
def turned (s : State) (slot c stall t p : Nat) : State := ((s.at t).fetchWord p slot c).2.chargeCycles p slot c (1 + stall)

/-- It says so. -/
theorem issues_of {s : State} {slot c t p w : Nat} {op : Nat × Nat} (stall : Nat) (ok : issuesOk s slot c t op p w = true)
    (hp : ((turned s slot c stall t p).ctx slot c).pc + 8 < 2 ^ 28) :
    Issues s slot c stall t op p w (turned s slot c stall t p) ((turned s slot c stall t p).ctx slot c) := by
  simp only [issuesOk, Bool.and_eq_true, decide_eq_true_eq, Bool.or_eq_true, Bool.not_eq_true'] at ok
  obtain ⟨⟨⟨⟨⟨a, b⟩, c⟩, d⟩, e⟩, f⟩ := ok
  refine ⟨a, b, c, d, e, fun g => ?_, rfl, rfl, hp⟩
  rcases f with f | f
  · rw [f] at g; exact absurd g (by decide)
  · exact f

/-- An instruction word: operation, FUNC, D, A, B, and the bits below B. -/
def iw (op func d a b low : Nat) : Nat := op * 2 ^ 56 + func * 2 ^ 48 + d * 2 ^ 43 + a * 2 ^ 38 + b * 2 ^ 33 + low

/-- Context 15 of slot 31 runs code of partition 9 whose first word is `w`, in the state `k`. -/
def run (w : Nat) (k : Ctx := {}) (l : List (Nat × Nat) := []) (r : Reels := {}) : State :=
  { host ([(K.extentMap 9 4, ext 2 4 + 2 ^ 59), (K.contextOwner (31 * 16 + 15), 9)] ++ l) with
    tags := (List.range 5).map (fun i => (i, 0x2401))
    reels := { r with
      ctxs := [(31 * 16 + 15, { k with st := 3, launch := 1, budget := 4 })]
      launches := [⟨1, 9, 12, 1, block31, none, none, false, [], [], [], []⟩]
      icache := [(31 * 4 + 3, [(9 * 2 ^ 48 + 4 * 2 ^ 28, toLE 8 w)])] } }

/-- It issues `w` as operation `op` of selector `sel`. -/
def goes (op sel w : Nat) (k : Ctx := {}) (l : List (Nat × Nat) := []) (r : Reels := {}) : Bool :=
  issuesOk (run w k l r) 31 15 247999 (op, sel) 9 w

/-- The state in which it acts, and its context. -/
def acts (w : Nat) (k : Ctx := {}) (l : List (Nat × Nat) := []) (r : Reels := {}) : State := turned (run w k l r) 31 15 1 247999 9

/-- The scalar words, with the highest registers and both forms of the second operand. -/
theorem test_hyps_ReelScalars :
    (List.range 12).all (fun i => goes (i + 1) 0 (iw (i + 1) 0 31 30 29 0) && goes (i + 1) 0 (iw (i + 1) 1 0 31 0 0xFFFF)) = true ∧
    goes 0x0E 0 (iw 0x0E 0 31 0 0 0xFFFFFFFF) = true ∧ goes 0x0F 0 (iw 0x0F 0 31 30 0 0xFFFFFFFF) = true ∧
    goes 0x71 0 (iw 0x71 0 0 0 0 15) = true ∧ goes 0x7E 0 (iw 0x7E 0 0 0 0 0) = true ∧
    (List.range 4).all (fun i => goes 0x2E i (iw 0x2E i 7 6 5 0)) = true ∧ goes 0x2F 0 (iw 0x2F 0 7 31 0 0) = true ∧
    (List.range 9).all (fun i => goes 0x70 i (iw 0x70 0 31 0 0 i)) = true ∧
    ((acts 0).ctx 31 15).pc + 8 < 2 ^ 28 := by decide +kernel

/-- ReelScalars: every condition of BR; jumps to the first and the last word of the code and beyond either end. -/
theorem test_hyps_ReelScalars_jumps :
    (List.range 7).all (fun i => goes 0x10 0 (iw 0x10 i 31 30 0 (2 ^ 25 - 1))) = true ∧
    ((0 : Nat) : Int) = ((acts 0).ctx 31 15).pc + 8 * iOff (iw 0x10 6 31 30 0 0) ∧
    ((2 ^ 28 - 8 : Nat) : Int) = ((acts 0).ctx 31 15).pc + 8 * iOff (iw 0x10 6 31 30 0 (2 ^ 25 - 1)) ∧
    goes 0x10 0 (iw 0x10 6 0 0 0 0xFFFFFFFF) = true ∧ (((acts 0).ctx 31 15).pc + 8 * iOff (iw 0x10 6 0 0 0 0xFFFFFFFF) : Int) < 0 ∧
    goes 0x10 0 (iw 0x10 1 0 0 0 2) = true ∧
    goes 0x11 0 (iw 0x11 0 31 0 0 (2 ^ 25 - 1)) = true ∧ goes 0x11 0 (iw 0x11 0 31 0 0 (2 ^ 25)) = true ∧
    (2 : Int) ^ 28 ≤ ((acts 0).ctx 31 15).pc + 8 * iOff (iw 0x11 0 31 0 0 (2 ^ 25)) ∧
    goes 0x12 0 (iw 0x12 0 0 31 0 (2 ^ 28 - 8)) = true ∧ goes 0x12 0 (iw 0x12 0 0 31 0 (2 ^ 28)) = true ∧
    ((2 ^ 28 - 8 : Nat) : Int) = ((((acts 0).ctx 31 15).gr 31).toInt + iOff (iw 0x12 0 0 31 0 (2 ^ 28 - 8))) / 8 * 8 := by decide +kernel

/-- The vector words, under a mask; conversions, quantisation and dequantisation of blocks; reductions and TOPK. -/
theorem test_hyps_ReelVectors :
    [(0x30, 0), (0x31, 1), (0x32, 2), (0x30, 0xB), (0x31, 0x13)].all (fun (x : Nat × Nat) =>
      goes x.1 0 (iw x.1 0 31 30 29 (x.2 * 2 ^ 23 + 15 * 2 ^ 16))) = true ∧
    goes 0x33 0 (iw 0x33 0 31 30 29 (28 * 2 ^ 28 + 2 * 2 ^ 23 + 2 * 2 ^ 21)) = true ∧
    [0x34, 0x35, 0x36, 0x37, 0x38].all (fun o => goes o 0 (iw o 0 31 30 29 (15 * 2 ^ 16))) = true ∧
    [0x3B, 0x3C].all (fun o => goes o 0 (iw o 0 31 30 0 (0xB * 2 ^ 23))) = true ∧
    (List.range 4).all (fun i => goes 0x39 i (iw 0x39 i 7 30 29 (15 * 2 ^ 16))) = true ∧
    goes 0x3A 0 (iw 0x3A 0 31 30 29 (15 * 2 ^ 16)) = true ∧
    goes 0x3D 0 (iw 0x3D 0 31 7 0 3) = true ∧ goes 0x3E 0 (iw 0x3E 0 7 31 0 3) = true ∧ goes 0x3F 0 (iw 0x3F 0 7 0 0 0) = true ∧
    (List.range 5).all (fun i => goes 0x48 i (iw 0x48 i 31 30 0 (15 * 2 ^ 16))) = true := by decide +kernel

/-- ReelVectors: conversions, quantisation and dequantisation of blocks and groups; reductions and TOPK, of registers and of accumulators. -/
theorem test_hyps_ReelVectors_more :
    goes 0x50 0 (iw 0x50 0 31 30 0 (0 * 2 ^ 23 + 1 * 2 ^ 11 + 255)) = true ∧
    goes 0x50 0 (iw 0x50 1 28 7 0 (0 * 2 ^ 23 + 0 * 2 ^ 11 + 511)) = true ∧
    goes 0x51 0 (iw 0x51 0 31 30 29 (5 * 2 ^ 23 + 255)) = true ∧ goes 0x51 0 (iw 0x51 1 31 7 30 (0xD * 2 ^ 23 + 511)) = true ∧
    goes 0x52 0 (iw 0x52 0 30 29 28 (5 * 2 ^ 23 + 255)) = true ∧ goes 0x52 0 (iw 0x52 1 7 29 28 (0x12 * 2 ^ 23 + 511)) = true ∧
    (List.range 4).all (fun i => goes 0x58 i (iw 0x58 i 31 30 0 (15 * 2 ^ 16)) && goes 0x58 i (iw 0x58 (8 + i) 31 7 0 0)) = true ∧
    goes 0x59 0 (iw 0x59 0 30 31 29 63) = true ∧ goes 0x59 0 (iw 0x59 9 30 7 29 63) = true := by decide +kernel

/-- An open stream of `len` bytes of BF16 elements from the start of extent 0, in global order. -/
def strm2 (len : Nat) : Strm := { base := 0, len := len, fmt := 2, opened := true, global := true }

/-- Its context, with G1 = `n`. -/
def streams (len n : Nat) : Ctx := { strm := [(7, strm2 len)], g := [(1, BitVec.ofNat 64 n), (2, BitVec.ofNat 64 len)] }

/-- The fetch of stream elements succeeds. -/
def gotOk (x : Fetch) : Bool :=
  match x with
  | .ok _ => true
  | _ => false

/-- It faults. -/
def gotFault (x : Fetch) : Bool :=
  match x with
  | .fault _ _ => true
  | _ => false

/-- An MFS word: form `i`, Q7, ST7, V0 on, G1, BF16 activations, and IMM16. -/
def mfsWord (i imm : Nat) : Nat := iw 0x40 i 7 7 0 (1 * 2 ^ 28 + 2 * 2 ^ 23 + imm)

/-- MatrixFromStream: one row of 32 products with one activation vector, each form; too many rows. -/
theorem test_hyps_MatrixFromStream (i : Fin 2) :
    goes 0x40 i (mfsWord i 1) (streams 64 1) = true ∧ goes 0x40 i (mfsWord i 1) (streams 64 513) = true ∧
    ((acts (mfsWord i 1) (streams 64 1)).ctx 31 15).resume = none ∧
    mfsOk (mfsWord i 1) (decide (i.val = 1)) (((acts (mfsWord i 1) (streams 64 1)).ctx 31 15).st_ 7) 31 1 0 = true ∧
    mfsOk (mfsWord i 1) (decide (i.val = 1)) (((acts (mfsWord i 1) (streams 64 513)).ctx 31 15).st_ 7) 31 513 0 = false ∧
    gotOk ((acts (mfsWord i 1) (streams 64 1)).fetchElems 9 31 (((acts (mfsWord i 1) (streams 64 1)).ctx 31 15).st_ 7) 0
      (1 * mfsK (mfsWord i 1))).1 = true := by
  revert i; decide +kernel

/-- ReelStreamsAndMemory: SOPEN's two outcomes, the others, SRD and SRDX to the end of their range, into a poisoned line and on an
operand that is illegal. -/
theorem test_hyps_ReelStreamsAndMemory_streams :
    goes 0x18 0 (iw 0x18 1 7 0 2 (2 * 2 ^ 23)) (streams 64 1) = true ∧ sopenOk 2 0 64 0 = true ∧
    goes 0x18 0 (iw 0x18 1 7 1 2 (2 * 2 ^ 23)) (streams 64 1) = true ∧ sopenOk 2 1 64 0 = false ∧
    goes 0x19 0 (iw 0x19 0 7 0 0 0) = true ∧ goes 0x1A 0 (iw 0x1A 0 31 7 0 0) = true ∧
    (let w := iw 0x1B 0 31 7 0 (31 * 2 ^ 28 + 256)
     goes 0x1B 0 w (streams 64 1) = true ∧ gotOk ((acts w (streams 64 1)).fetchElems 9 31 (strm2 64) 0 32).1 = true ∧
      ((acts w (streams 64 1)).ctx 31 15).st_ 7 = strm2 64 ∧ (strm2 64).total 31 = 32 ∧ iImm16 w ≤ fmtCapacity 2) ∧
    (let w := iw 0x1C 0 31 7 0 (31 * 2 ^ 28 + 128)
     goes 0x1C 0 w (streams 64 1) = true ∧ gotOk ((acts w (streams 64 1)).fetchElems 9 31 (strm2 64) 0 32).1 = true) ∧
    (let w := iw 0x1B 0 31 7 0 1
     let k : Ctx := { strm := [(7, { strm2 64 with base := 2 ^ 47 })] }
     goes 0x1B 0 w k = true ∧ gotFault ((acts w k).fetchElems 9 31 { strm2 64 with base := 2 ^ 47 } 0 1).1 = true) ∧
    (let w := iw 0x1B 0 31 7 0 257
     goes 0x1B 0 w (streams 64 1) = true ∧ fmtCapacity (((acts w (streams 64 1)).ctx 31 15).st_ 7).fmt < iImm16 w) := by
  dsimp only; decide +kernel

/-- A line is delivered. -/
def gotLine (x : LineGet) : Bool :=
  match x with
  | .line (some _) => true
  | _ => false

/-- It is refused. -/
def gotRefused (x : LineGet) : Bool :=
  match x with
  | .refused => true
  | _ => false

/-- ReelStreamsAndMemory: every tile-store access at the end of a quota of 4 KiB and beyond it; pool accesses that reach memory, that reach
none, and a store to a read-only extent. -/
theorem test_hyps_ReelStreamsAndMemory_accesses :
    [(0x20, 8), (0x21, 8), (0x22, 512), (0x23, 512), (0x24, 2048), (0x25, 2048), (0x26, 128), (0x27, 128)].all (fun (x : Nat × Nat) =>
      let q := [(K.storeQuotas 9 31, 4)]
      let w := fun a => iw x.1 0 7 0 0 a
      goes x.1 0 (w (4096 - x.2)) {} q && goes x.1 0 (w 4096) {} q &&
      decide ((acts (w (4096 - x.2)) {} q).storeReach 9 31 = 4096) &&
      decide (reelAddr ((acts (w (4096 - x.2)) {} q).ctx 31 15) (w (4096 - x.2)) = 4096 - x.2) &&
      decide (reelAddr ((acts (w 4096) {} q).ctx 31 15) (w 4096) = 4096)) = true ∧
    goes 0x2A 0 (iw 0x2A 0 31 0 0 8) = true ∧ gotLine ((acts (iw 0x2A 0 31 0 0 8)).streamLine 9 0).1 = true ∧
    goes 0x2A 0 (iw 0x2A 0 31 0 0 (5 * 2 ^ 28)) = true ∧ gotRefused ((acts (iw 0x2A 0 31 0 0 (5 * 2 ^ 28))).streamLine 9 (5 * 2 ^ 28)).1 = true ∧
    goes 0x2B 0 (iw 0x2B 0 31 0 0 4088) = true ∧ goes 0x2C 0 (iw 0x2C 0 31 0 0 512) = true ∧ goes 0x2B 0 (iw 0x2B 0 31 0 0 (5 * 2 ^ 28)) = true ∧
    goes 0x2B 0 (iw 0x2B 0 31 0 0 (4 * 2 ^ 28)) = true ∧
    (acts 0).mapped 9 (5 * 2 ^ 28) = none ∧ (acts 0).mapped 9 (4 * 2 ^ 28) = some (ext 2 4 + 2 ^ 59) ∧
    (acts 0).readOnlyExt 9 4 (ext 2 4 + 2 ^ 59) = true ∧
    (acts 0).mapped 9 4088 = some (ext 0 0) ∧ (acts 0).readOnlyExt 9 0 (ext 0 0) = false ∧
    ((acts 0).agentCheck ((acts 0).handleOf 9) 4088 8 true).1 = .ok (ext 0 0) ∧
    ((acts 0).agentCheck ((acts 0).handleOf 9) 0 512 true).1 = .ok (ext 0 0) ∧
    (∀ b ∈ (((acts 0).agentCheck ((acts 0).handleOf 9) 0 512 true).2.agentWrite 9 (ext 0 0) 0 (List.replicate 512 7#8)
      ((acts 0).handleOf 9)).1, b = true) := by
  decide +kernel

/-- ReelStreamsAndMemory: a pool load of a poisoned line. -/
theorem test_hyps_ReelStreamsAndMemory_bad :
    (let s : State := { run (iw 0x2A 0 31 0 0 8) with written := broken.written, errs := broken.errs }
     issuesOk s 31 15 247999 (0x2A, 0) 9 (iw 0x2A 0 31 0 0 8) = true ∧
     (match ((turned s 31 15 1 247999 9).streamLine 9 0).1 with | .line none => true | _ => false) = true) := by
  dsimp only; decide +kernel

/-- The running context's launch `l`, in a state `k` of its context. -/
def launched (k : Ctx) (l : Launch) : State :=
  { run 0 with reels := { (run 0).reels with ctxs := [(31 * 16 + 15, { k with launch := 1 })], launches := [l] } }

/-- That launch, of the slots of `mask`. -/
def lone (mask : Nat) : Launch := { id := 1, part := 9, bind := 12, seq := 1, block := toLE 4 mask ++ block31.drop 4, due := none }

/-- ReelWaits: CUT, BAR and END; an arrival that is the last and one that is not, a release, a budget run out, a refused store, an
illegal word. -/
theorem test_hyps_ReelWaits :
    goes 0x6C 0 (iw 0x6C 0 0 0 0 (2 ^ 32 - 1)) = true ∧ goes 0x68 0 (iw 0x68 0 0 0 0 3) = true ∧
    (((acts (iw 0x68 0 0 0 0 3)).ctx 31 15).refusals = [] ∧ ((acts (iw 0x68 0 0 0 0 3)).launch 1).map (·.broken) = some false) ∧
    ((lone (2 ^ 31)).slots = [31] ∧ (lone (2 ^ 31 + 1)).slots = [0, 31]) ∧
    ((launched { st := 4, wait := .barrier 3 } { lone (2 ^ 31) with coming := [(3, 0, 65535)], gens := [(3, 65535)] }).launch 1).isSome = true ∧
    (({ lone (2 ^ 31) with coming := [(3, 0, 65535)], gens := [(3, 65535)] } : Launch).coming.find? (fun x => x.2.1 = 0) = some (3, 0, 65535)) ∧
    (3, 31) ∈ ({ lone (2 ^ 31) with releases := [(3, 31)] } : Launch).releases ∧
    ((launched { st := 3 } (lone (2 ^ 31))).ctx 31 15).budget = 0 ∧
    ((launched { st := 3, refusals := [0x102] } (lone (2 ^ 31))).ctx 31 15).refusals = 0x102 :: [] ∧
    (((run 0 { refused := some 0x102 }).at 0).mayIssue 31 15 0 = true ∧ ((run 0 { refused := some 0x102 }).at 0).ctxOwner 31 15 = some 9) ∧
    (((run (2 ^ 64 - 1)).at 0).mayIssue 31 15 0 = true ∧ (((run (2 ^ 64 - 1)).at 0).fetchWord 9 31 15).1 = .word (2 ^ 64 - 1) ∧
      legalWord (2 ^ 64 - 1) = false) ∧
    goes 0x77 0 (iw 0x77 0 0 0 0 0) { refusals := [0x102] } = true ∧ goes 0x77 0 (iw 0x77 0 0 0 0 0) = true := by decide +kernel

/-- The context's G1 = `a` and G2 = `b`. -/
def two (a b : Nat) : Ctx := { g := [(1, BitVec.ofNat 64 a), (2, BitVec.ofNat 64 b)] }

/-- A DBELL word. -/
def ringWord : Nat := iw 0x72 0 31 1 2 0

/-- ReelMessages: DBELL to a bound endpoint, to a port that is none and with reserved bits; MBXRECV in both forms, MBXACK, MBXSEND. -/
theorem test_hyps_ReelMessages :
    goes 0x72 0 ringWord (two (0xFFFF * 2 ^ 32 + 7 * 2 ^ 16 + 0x213) 5) = true ∧ ((acts ringWord).findBinding 7 9 0x213).isSome = true ∧
    goes 0x72 0 ringWord (two (63 * 2 ^ 16 + 0x213) 5) = true ∧ 36 ≤ fld (63 * 2 ^ 16 + 0x213) 21 16 ∧
    goes 0x72 0 ringWord (two (2 ^ 63) 5) = true ∧
    goes 0x73 0 (iw 0x73 1 31 0 0 (30 * 2 ^ 28)) = true ∧ goes 0x73 0 (iw 0x73 0 31 0 0 (30 * 2 ^ 28)) = true ∧
    goes 0x73 0 (iw 0x73 0 31 0 0 (30 * 2 ^ 28)) { inbox := [(12, some 1, 5#64)] } = true ∧
    goes 0x74 0 (iw 0x74 0 0 31 0 0) { taken := some (12, some 1) } = true ∧
    goes 0x75 0 (iw 0x75 0 31 30 0 0) = true ∧
    ((launched { st := 4, wait := .mailbox } (lone (2 ^ 31))).ctx 31 15).wait = .mailbox := by decide +kernel

/-- A CONTRIB word of registers from V0 on. -/
def giveWord : Nat := iw 0x60 0 31 1 2 0

/-- Composite 1023 of 512 elements, which it gives to. -/
def giveTo : Reels := { comps := [(1023, comp5)] }

/-- What G1 and G2 hold: composite, contributor 1 and `n` elements. -/
def gives (n : Nat) : Ctx := two (5 * 1024 + 1023) (n * 2 ^ 48 + 1 * 2 ^ 32)

/-- ReelMessages: CONTRIB with its operands within and beyond their limits, its home's allowance not reached. -/
theorem test_hyps_ReelMessages_contrib :
    goes 0x60 0 giveWord (gives 512) [] giveTo = true ∧ goes 0x60 0 (iw 0x60 1 31 1 2 (7 * 2 ^ 28)) (gives 512) [] giveTo = true ∧
    goes 0x60 0 giveWord (gives 4097) [] giveTo = true ∧
    (acts giveWord (gives 512) [] giveTo).reached ((acts giveWord (gives 512) [] giveTo).contribHome (5 * 1024 + 1023) 0) 9 = false := by
  decide +kernel

/-- ReelMessages: that contribution is taken. -/
theorem test_hyps_ReelMessages_taken :
    ((acts giveWord (gives 512) [] giveTo).contribute 9 (5 * 1024 + 1023) 1 0 0 (List.replicate 512 0)).1.st = Code.ok := by
  decide +kernel

/-! ### Resets, boot and side bands -/

/-- A part that has booted, with a warm reset's trigger `w` in its past. -/
def booted (w : Option (Nat × Nat) := none) : State := { host [] with boot := { (host []).boot with warmAt := w } }

/-- A part in cold reset. -/
def cold (b : Boot) (l : List (Nat × Nat) := []) : State := { st l with boot := b }

/-- ColdResets, ColdBootSteps, FillAndRelease: the steps of the boot, with an eligible lead tile and without, the last fill and one before. -/
theorem test_hyps_ColdBoot :
    (booted).boot.powered = true ∧ (st []).rd (K.resetCounts 1) + 1 < 2 ^ 32 ∧
    (cold { held := true }).eligibleLead = true ∧ ({ cold {} with fuses := { verified := 0 } } : State).eligibleLead = false ∧
    fld ((cold { held := false, fused := true }).rd K.bootStatus) 27 24 = 0 ∧ (cold { locked := true }).eligibleLead = true ∧
    (cold { locked := true }).cont.reloc = none ∧
    (cold { held := false, fused := true, locked := true }).rd (K.fillStatus 35) = 0 ∧ 35 ∈ defaultInService {} ∧ 14 ∉ defaultInService {} ∧
    (cold { locked := true } [(K.fillStatus 35, 1)]).rd (K.fillStatus 35) = 1 ∧
    (0 ∈ defaultInService {} ∧ (cold { locked := true } [(K.fillStatus 35, 1)]).rd (K.fillStatus 0) ≠ 2) ∧
    (∀ x, x ∈ defaultInService {} → x ≠ 35 →
      (cold { locked := true } ((K.fillStatus 35, 1) :: (List.range 35).map (fun t => (K.fillStatus t, 2)))).rd (K.fillStatus x) = 2) := by
  decide +kernel

/-- WarmResets and TakeoversAndWatchdog: a trigger in the last 10 us before a release and one after them; CORE_DEBUG; another
eligible lead tile; two watchdog resets. -/
theorem test_hyps_WarmResets :
    (booted).boot.released = true ∧ (booted).merges 0 = false ∧
    (booted (some (0, 0))).merges 9999 = true ∧ (booted (some (0, 0))).merges 10000 = false ∧
    bit ((st [(K.debugPolicy, 2)]).eff K.debugPolicy) 1 = true ∧
    (goodTiles {}).any (fun x => bit ({} : Fuses).verified x &&
      !bit ((booted).rd K.leadIneligible ||| 2 ^ (booted).rd K.leadTile) x) = true ∧
    (0 :: [3999].filter (fun f => decide (7999 < f + 4000))).length < 3 := by decide +kernel

/-- The smallest image that passes every check. -/
def image0 : List Byte :=
  (ascii "PYFW") ++ toBE 4 1 ++ toBE 4 0 ++ toBE 4 0 ++ toBE 4 (128 + 3405) ++ List.replicate 12 0#8 ++
    padTo 16 (ascii "PY-3640") ++ List.replicate 80 0#8 ++ List.replicate 3405 0#8

/-- TileResetsAndImageStart, SmbusAndTap: the conditions of their clauses. -/
theorem test_hyps_Resets :
    (booted).slotOfTile 14 = none ∧ (cold { held := false } [(K.portState 14, 1)]).rd (K.portState 14) = 1 ∧
    (cold { held := false } [(K.portState 14, 1)]).slotOfTile 14 = none ∧ (cold { held := false } [(K.portState 14, 1)]).boot.held = false ∧
    (cold { held := false } [(K.portState 14, 1)]).boot.checking = false ∧
    (booted).smbAddress = 0x58 ∧ ({ booted with fuses := { straps := 7 } } : State).smbAddress = 0x5B ∧ (booted).slotOfTile 35 ≠ none ∧
    (cold { checking := true, held := false }).boot.checking = true ∧
    (cold { images := [(0, image0), (1, image0)] }).imageReason ((cold { images := [(0, image0), (1, image0)] }).imageIn 0) true true = none ∧
    (cold { images := [(0, image0), (1, image0)] }).imageReason ((cold { images := [(0, image0), (1, image0)] }).imageIn 1) false false ≠ none ∧
    (List.range 8).all (fun c => ((booted).smbRead c).isSome) = true ∧ ((booted).smbRead 255).isSome = false ∧
    bit ((st []).eff K.debugPolicy) 1 = false := by decide +kernel

/-! ### Ill-formed commands, one for each check -/

/-- A header with one field too wide. -/
def wideHdr (i : Nat) : Hdr :=
  { hd 16 with
    flags := if i = 0 then 256 else 0, len := if i = 1 then 65536 else 16, src := if i = 2 then 65536 else 0
    dst := if i = 3 then 65536 else 0, handle := if i = 4 then 65536 else 0, tag := if i = 5 then 65536 else 0
    epoch := if i = 6 then 4 else 0, status := if i = 7 then 65536 else 0 }

/-- Each field of a header is checked; a header whose fields fit passes. -/
theorem test_wf_header :
    (∀ i : Fin 8, (wideHdr i).wf = false) ∧ (wideHdr 8).wf = true := by decide +kernel

/-- Sessions, sequence numbers, values, times, partitions and their kin. -/
theorem test_wf_sessions :
    Instr.wf (.takeCommit 511 (2 ^ 32 - 1) (2 ^ 64 - 1) 500000) = true ∧ Instr.wf (.takeCommit 512 0 0 0) = false ∧
    Instr.wf (.takeCommit 0 (2 ^ 32) 0 0) = false ∧ Instr.wf (.takeCommit 0 0 (2 ^ 64) 0) = false ∧
    Instr.wf (.takeCommit 0 0 0 500001) = false ∧ Instr.wf (.partitionReset 0 0 64 0) = false ∧
    Instr.wf (.fligiferWrite 0 0 65536 0 0 [] 0) = false ∧ Instr.wf (.fligiferWrite 0 0 0 256 0 [] 0) = false ∧
    Instr.wf (.fligiferWrite 0 0 0 0 (2 ^ 32) [] 0) = false ∧ Instr.wf (.blockData 0 0 0 0 (2 ^ 32) [] 0) = false ∧
    Instr.wf (.spliceCmdWidth 0 0 36 0 0 0 0) = false ∧ Instr.wf (.spliceCmdWidth 0 0 0 4 0 0 0) = false ∧
    Instr.wf (.spliceCmdWidth 0 0 0 0 4 0 0) = false ∧ Instr.wf (.spliceCmdWidth 0 0 0 0 0 256 0) = false := by decide +kernel

/-- Ports, cells, virtual channels, lanes and training words. -/
theorem test_wf_links :
    Instr.wf (.lossOfLock 35) = true ∧ Instr.wf (.lossOfLock 36) = false ∧ Instr.wf (.rxIdleCell 0 (2 ^ 64) [] true true) = false ∧
    Instr.wf (.rxIdleCell 0 0 (List.replicate 232 0#8) true true) = true ∧
    Instr.wf (.rxIdleCell 0 0 (List.replicate 233 0#8) true true) = false ∧
    Instr.wf (.txSequencedCell 0 4) = false ∧ Instr.wf (.laneMarkedBad 0 8) = false ∧ Instr.wf (.trainingStateAdvance 0 [2 ^ 128] true) = false ∧
    Instr.wf (.trainingStateAdvance 0 (List.replicate 9 0) true) = false ∧ Instr.wf (.ts4CountdownEnd 0 (2 ^ 128) 0 0 0 0) = false ∧
    Instr.wf (.ptpSync 2 0 true 0) = false ∧ Instr.wf (.ptpSync 0 256 true 0) = false ∧ Instr.wf (.mgmtPortLinkChange 2 true) = false := by decide +kernel

/-- Requests: addresses, lengths, small operands, lines. -/
theorem test_wf_requests :
    Instr.wf (.read 35 (hd 16) (2 ^ 64 - 1) (2 ^ 32 - 1) [] 0) = true ∧ Instr.wf (.read 36 (hd 16) 0 0 [] 0) = false ∧
    Instr.wf (.read 0 (wideHdr 0) 0 0 [] 0) = false ∧ Instr.wf (.read 0 (hd 16) (2 ^ 64) 0 [] 0) = false ∧
    Instr.wf (.read 0 (hd 16) 0 (2 ^ 32) [] 0) = false ∧ Instr.wf (.atomic 0 (hd 16) 0 256 0 0 0 [] 0) = false ∧
    Instr.wf (.rxReservedOpcode 0 256 (hd 16) 0) = false ∧ Instr.wf (.writeback 0 (hd 16) 0 (List.replicate 127 0#8) 0) = false ∧
    Instr.wf (.publish 0 (hd 16) 65536 0 0 0) = false ∧ Instr.wf (.publishFlipComplete 0 4096) = false ∧
    Instr.wf (.uncachedRecallComplete (36 * 2 ^ 30) 0) = false ∧ Instr.wf (.cohGraceExpiry 4096) = false ∧
    Instr.wf (.partReqTimeout 0 0 0 4 0) = false ∧ Instr.wf (.pairResyncSend 1024 0 0) = false ∧ Instr.wf (.chunkComplete 1024 0) = false ∧
    Instr.wf (.ringDoorbell 0 (hd 16) 16 0 0) = false ∧ Instr.wf (.moverTaskComplete 0 0 4) = false ∧
    Instr.wf (.moverChunkStart 0 4 0) = false := by decide +kernel

/-- Tiles, stacks, contexts, carriers of SPDM, side bands. -/
theorem test_wf_blocks :
    Instr.wf (.fillStart 35) = true ∧ Instr.wf (.fillStart 36) = false ∧ Instr.wf (.stackBurstPick 0 32 0 []) = false ∧
    Instr.wf (.stackBurstPick 0 0 125000 []) = false ∧ Instr.wf (.perBankRefresh 0 0 48 0) = false ∧ Instr.wf (.keyDraw 16256) = false ∧
    Instr.wf (.selftestComplete (2 ^ 30)) = false ∧ Instr.wf (.nop 31 15 0 0) = true ∧ Instr.wf (.nop 32 0 0 0) = false ∧
    Instr.wf (.nop 0 16 0 0) = false ∧ Instr.wf (.mfs 0 16 0 0 0) = false ∧
    Instr.wf (.spdmGetVersion 65 0 (hd 16) 0) = true ∧ Instr.wf (.spdmGetVersion 66 0 (hd 16) 0) = false ∧
    Instr.wf (.spdmGetCertificate 0 0 (hd 16) 256 0 0 0) = false ∧ Instr.wf (.smbusTransaction 127 256 false [] false 0) = false ∧
    Instr.wf (.smbusTransaction 128 0 false [] false 0) = false ∧
    Instr.wf (.tapInstruction 256) = false ∧ Instr.wf (.rebindScrubComplete 4 0 0 0) = false := by decide +kernel

/-- A packet of the mesh, with one part out of range. -/
def wideMesh (i : Nat) : MeshPkt :=
  { mpkt 0 with
    part := if i = 0 then 64 else 9, src := if i = 1 then 36 else 0, num := if i = 2 then 4096 else 7
    mask := if i = 3 then 0 else if i = 4 then 3 else if i = 5 then 2 ^ 36 else 1, count := if i = 6 then 0 else if i = 7 then 17 else 8
    data := if i = 8 then List.replicate 4097 0#8 else List.replicate 8 0#8, bad := if i = 9 then [1] else []
    fixed := if i = 10 then [36] else [] }

/-- Each part of it is checked; a packet whose parts fit passes. -/
theorem test_wf_mesh :
    (∀ i : Fin 11, Instr.wf (.meshMessageComplete (wideMesh i) [] 0) = false) ∧ Instr.wf (.meshMessageComplete (wideMesh 11) [] 0) = true := by
  decide +kernel

/-- POOL_OPs: the widths of their fields. -/
theorem test_wf_pool_ops :
    Instr.wf (.poolOpCopy 0 (hd 80) (2 ^ 64 - 1) (2 ^ 64 - 1) (2 ^ 64 - 1) 0) = true ∧ Instr.wf (.poolOpCopy 0 (hd 80) (2 ^ 64) 0 0 0) = false ∧
    Instr.wf (.poolOpCopy 0 (hd 80) 0 (2 ^ 64) 0 0) = false ∧ Instr.wf (.poolOpFill 0 (hd 80) 0 0 256 0 0) = false ∧
    Instr.wf (.poolOpReduce 0 (hd 80) 0 256 0 0 0) = false := by decide +kernel

/-! ### The manual's worked examples -/

/-- A value in a Fligifer write and in a descriptor (00, R4's example). -/
theorem test_byte_orders :
    toBE 4 100000 = [0x00#8, 0x01#8, 0x86#8, 0xA0#8] ∧ toLE 4 100000 = [0xA0#8, 0x86#8, 0x01#8, 0x00#8] := by decide

/-- Indices of families of entries (00, R11's example). -/
theorem test_dictionary_indices :
    (Dict.find 0x2411 1).map (fun d => famNo d 0x2411) = some 17 ∧ (Dict.find 0x4023 1).map (fun d => famNo d 0x4023) = some 35 ∧
    (Dict.find 0x2424 1).isNone = true := by decide +kernel

/-- The slot map of a part with T03 and T20 defective (01, R18's example). -/
theorem test_slot_map :
    [0, 3, 4, 5, 13, 14, 17, 18, 31].map (defaultSlotMap { defects := 2 ^ 3 + 2 ^ 20 }) = [0, 4, 5, 6, 14, 16, 19, 22, 35] := by
  decide +kernel

/-- Cumulative credit (03, R80's example). -/
theorem test_credit : extendLimit 0x1FFF0 0x0010 = 0x20010 ∧ extendLimit 0x20010 0xFFE0 = 0x20010 := by decide

/-- The home of a VA and the place of its line (06 R139 and 08 R184, the examples). -/
theorem test_addresses :
    slotOf 0x123456789ABC = 25 ∧ defaultSlotMap {} 25 = 29 ∧ vaIndex 0x123456789ABC = 0x2345 ∧ vaTag 0x123456789ABC = 4 ∧
    vaRow 0x123456789ABC = 828 ∧ dpaOf 0x123456789ABC 1280 29 = 0x3A28033CABC ∧
    vaOfSlot 0x12345 828 25 0xABC = 0x123456789ABC ∧
    pcOf 0x28033CABC = 28 ∧ colOf 0x28033CABC = 21 ∧ grpOf 0x28033CABC = 8 ∧ bankOf 0x28033CABC = 33 ∧ rowOf 0x28033CABC = 1702 := by
  decide +kernel

/-- A handle (04, the example). -/
theorem test_handle : (st [(K.incarnation 9, 3)]).handleOf 9 = 0x2403 := by decide +kernel

/-- MXFP4 quantisation of a block (12 R281's example). -/
theorem test_quantise :
    ((fun (x : Nat × List (Nat × Flags)) => (x.1, x.2.take 5)) (quantise 9 0 (fun _ => 0)
      ([.fin false 37 1, .fin true 11 1, .fin false 3 10, .fin false 44 1] ++ List.replicate 28 (.fin false 1 1)))) =
      (0x82, [(6, 0), (0xB, 0), (0, 8), (7, 0), (0, 8)]) := by decide +kernel

/-- The stochastic rounding of its first element (12 R279's example). -/
theorem test_stochastic :
    (fmtE2M1.round 2 11534335 true (.fin false 37 8)).1 = 6 ∧ (fmtE2M1.round 2 11534336 true (.fin false 37 8)).1 = 7 := by decide +kernel

/-- The word of an MFS (14 R331's example). -/
theorem test_mfs_word :
    wordOp 0x4000105051007008 = some (0x40, 0) ∧ iD 0x4000105051007008 = 2 ∧ iA 0x4000105051007008 = 1 ∧ iB 0x4000105051007008 = 8 ∧
    iC 0x4000105051007008 = 5 ∧ iFmt 0x4000105051007008 = 2 ∧ mfsB 0x4000105051007008 = 8 ∧ mfsK 0x4000105051007008 = 256 ∧
    toLE 8 0x4000105051007008 = [0x08#8, 0x70#8, 0x00#8, 0x51#8, 0x50#8, 0x10#8, 0x00#8, 0x40#8] := by decide +kernel

/-- A partition's budget at a slot (21, the example). -/
theorem test_slot_budget : slotBudget 2048 1200 = 3906 := by decide

/-- What a command leaves staged. -/
def stagedBy (o : Host.Outcome State Fault Refusal) : Tab Nat :=
  match o with
  | .next w => w.take.staged
  | _ => []

/-- The write of an extent map entry in a staging session (19, R415's example): element 0x2345 of partition 9's map is staged. -/
theorem test_fligifer_write :
    stagedBy (exec (.fligiferWrite 256 0x107 0x3409 1 0x11A28 (toBE 8 0x8010500000000000) 0)
      { host [(K.takeState, 1)] with take := { session := some 256 } }) = [(K.extentMap 9 0x2345, 0x8010500000000000)] := by
  decide +kernel

/-- Reset leaves memory empty and in its canonical form. -/
theorem test_reset_wf : Memory.wf State.reset.mem = true := by decide

/-- An operation that retires moves the program counter past its word and writes its register. -/
theorem test_li :
    ((match exec (.li 31 15 0 0) (run (iw 0x0E 0 31 0 0 0xFFFFFFFE)) with
      | .next w => some (w.ctx 31 15)
      | _ => none).map (fun (k : Ctx) => (k.pc, k.gr 31))) = some (8, 0xFFFFFFFFFFFFFFFE#64) := by decide +kernel

end Sys2Proof.Test
end

/-!
SUPPORT. The fetch of a word and the charge of its turns leave the frame logic as it is (02 R28, 13 R306), whatever recall, key or
correction the fetch begins on its way (R163, R209): the slate guard of a frame stays where it is while its instructions issue.
-/

namespace Sys2Proof.Machine

theorem foldl_fl {α : Type} (f : State → α → State) (hf : ∀ s x, (f s x).fl = s.fl) (l : List α) (s : State) :
    (l.foldl f s).fl = s.fl := by
  induction l generalizing s with
  | nil => rfl
  | cons x l ih => rw [List.foldl_cons, ih, hf]

@[simp] theorem State.updPort_fl (s : State) (p : Nat) (f : Port → Port) : (s.updPort p f).fl = s.fl := rfl
@[simp] theorem State.updStack_fl (s : State) (t : Nat) (f : Stack → Stack) : (s.updStack t f).fl = s.fl := rfl
@[simp] theorem State.meterAdd_fl (s : State) (p f n : Nat) : (s.meterAdd p f n).fl = s.fl := rfl
@[simp] theorem State.noteFault_fl (s : State) (p : Nat) : (s.noteFault p).fl = s.fl := rfl
@[simp] theorem State.takeWaiter_fl (s : State) (w : Wait) (r : Req) : (s.takeWaiter w r).fl = s.fl := rfl
@[simp] theorem State.wake_fl (s : State) (w : Wait) : (s.wake w).fl = s.fl := rfl
@[simp] theorem State.spend_fl (s : State) (slot p u n : Nat) : (s.spend slot p u n).fl = s.fl := rfl
@[simp] theorem State.clearFresh_fl (s : State) (a : Nat) : (s.clearFresh a).fl = s.fl := rfl
@[simp] theorem State.setErrs_fl (s : State) (ln : Nat) (e : List (Nat × Nat)) : (s.setErrs ln e).fl = s.fl := rfl
@[simp] theorem State.tagRefusal_fl (s : State) (e va h p : Nat) : (s.tagRefusal e va h p).fl = s.fl := rfl
@[simp] theorem State.setDir_fl (s : State) (d : Tab DirEnt) : (s.setDir d).fl = s.fl := rfl
@[simp] theorem State.finish_fl (s : State) (r : Req) : (s.finish r).fl = s.fl := rfl
@[simp] theorem State.collectAt_fl (s : State) (ln k : Nat) (r : Req) : (s.collectAt ln k r).fl = s.fl := rfl
@[simp] theorem State.nextTag_fl (s : State) (port dst : Nat) : (s.nextTag port dst).2.fl = s.fl := rfl
@[simp] theorem State.setCtx_fl (s : State) (slot c : Nat) (k : Ctx) : (s.setCtx slot c k).fl = s.fl := rfl
@[simp] theorem State.reelCount_fl (s : State) (p i n : Nat) : (s.reelCount p i n).fl = s.fl := rfl

/-! ### Memory lines -/

@[simp] theorem State.errEvent_fl (s : State) (kind ln : Nat) (fix : List (Nat × Nat)) : (s.errEvent kind ln fix).fl = s.fl := by
  simp [State.errEvent, apply_ite State.fl]

@[simp] theorem State.burst_fl (s : State) (ln h : Nat) (wr : Bool) : (s.burst ln h wr).fl = s.fl := by
  simp [State.burst, apply_ite State.fl]

@[simp] theorem State.overtake_fl (s : State) (ln : Nat) : (s.overtake ln).fl = s.fl := by
  simp [State.overtake, apply_ite State.fl]

@[simp] theorem State.putLine_fl (s : State) (ln : Nat) (d : List Byte) (key unit : Nat) : (s.putLine ln d key unit).fl = s.fl := by
  simp [State.putLine]

@[simp] theorem State.signLine_fl (s : State) (ln : Nat) : (s.signLine ln).fl = s.fl := by
  simp only [State.signLine, State.count_fl, State.setErrs_fl]

@[simp] theorem State.poisonLine_fl (s : State) (ln : Nat) : (s.poisonLine ln).fl = s.fl := by
  simp [State.poisonLine]

@[simp] theorem State.drawKey_fl (s : State) (d : Nat) : (s.drawKey d).fl = s.fl := by
  unfold State.drawKey
  split <;> rfl

@[simp] theorem State.demand_fl (s : State) (ln h : Nat) (noise : List (Nat × Nat)) (retry : Bool) :
    (s.demand ln h noise retry).2.fl = s.fl := by
  unfold State.demand
  dsimp only
  split <;> simp [apply_ite State.fl, apply_ite Prod.snd]

@[simp] theorem State.repairFrom_fl (s : State) (ln : Nat) (d : List Byte) (key unit : Nat) :
    (s.repairFrom ln d key unit).fl = s.fl := by
  simp [State.repairFrom]

@[simp] theorem State.readOther_fl (s : State) (m : Nat) : (s.readOther m).2.fl = s.fl := by
  unfold State.readOther
  dsimp only
  split
  · rfl
  · split <;> simp

@[simp] theorem State.readLine_fl (s : State) (e va h : Nat) (noise : List (Nat × Nat)) (retried : Bool) :
    (s.readLine e va h noise retried).2.fl = s.fl := by
  unfold State.readLine
  dsimp only
  split
  · rfl
  · split
    · simp [apply_ite State.fl, apply_ite Prod.snd]
    · split
      · split <;> simp [apply_ite State.fl, apply_ite Prod.snd]
      · simp [apply_ite State.fl, apply_ite Prod.snd]

@[simp] theorem State.readFinal_fl (s : State) (e va h : Nat) (noise : List (Nat × Nat)) :
    (s.readFinal e va h noise).2.fl = s.fl := by
  unfold State.readFinal
  dsimp only
  split <;> simp

@[simp] theorem State.firstWrite_fl (s : State) (dpa key dxn va h : Nat) (d : List Byte) :
    (s.firstWrite dpa key dxn va h d).fl = s.fl := by
  unfold State.firstWrite
  rw [State.clearFresh_fl]
  exact foldl_fl _ (fun s i => by simp) _ s

@[simp] theorem State.bothFresh_fl (s : State) (e va : Nat) : (s.bothFresh e va).fl = s.fl := by
  simp [State.bothFresh, apply_ite State.fl]

@[simp] theorem State.merged_fl (s : State) (e va : Nat) (d : List Byte) (h : Nat) (noise : List (Nat × Nat)) :
    (s.merged e va d h noise).2.fl = s.fl := by
  unfold State.merged
  dsimp only
  split
  · rfl
  · split <;> simp

@[simp] theorem State.putCopy_fl (s : State) (dpa va dxn h : Nat) (paid : List Nat) (d : List Byte) :
    (s.putCopy dpa va dxn h paid d).fl = s.fl := by
  simp [State.putCopy, apply_ite State.fl]

@[simp] theorem State.poisonCopy_fl (s : State) (dpa va dxn h : Nat) : (s.poisonCopy dpa va dxn h).fl = s.fl := by
  simp [State.poisonCopy, apply_ite State.fl]

@[simp] theorem State.poisonCopies_fl (s : State) (e va h : Nat) : (s.poisonCopies e va h).fl = s.fl := by
  unfold State.poisonCopies
  rw [State.bothFresh_fl]
  exact foldl_fl _ (fun s c => by simp [apply_ite State.fl]) _ s

@[simp] theorem State.lostPiece_fl (s : State) (e va : Nat) (d : List Byte) : (s.lostPiece e va d).2.fl = s.fl := by
  unfold State.lostPiece
  split
  · rfl
  · simp [apply_ite State.fl, apply_ite Prod.snd]

@[simp] theorem State.writePiece_fl (s : State) (e va : Nat) (d : List Byte) (h : Nat) (paid : List Nat) (noise : List (Nat × Nat)) :
    (s.writePiece e va d h paid noise).2.fl = s.fl := by
  unfold State.writePiece
  dsimp only
  split
  · simp
  · split
    · simp
    · rw [State.bothFresh_fl, foldl_fl _ (fun s c => by simp), State.merged_fl]

/-! ### Messages -/

@[simp] theorem State.send_fl (s : State) (port : Nat) (m : Msg) : (s.send port m).fl = s.fl := by
  simp [State.send, apply_ite State.fl]

@[simp] theorem State.sendResp_fl (s : State) (port : Nat) (m : Msg) : (s.sendResp port m).fl = s.fl := by
  simp [State.sendResp]

@[simp] theorem State.answer_fl (s : State) (r : Req) (op st : Nat) (body : List Byte) : (s.answer r op st body).fl = s.fl := by
  unfold State.answer
  extract_lets q m ent other cache s1 s2 twins
  have h2 : s2.fl = s.fl := by
    unfold s2
    split
    · rw [State.sendResp_fl, State.setPort_fl]
    · rw [State.count_fl, State.setPort_fl]
  split
  · rw [foldl_fl, h2]
    intro s x
    extract_lets a b
    have hb : b.fl = s.fl := rfl
    split
    · rw [State.count_fl, State.sendResp_fl, hb]
    · rw [State.count_fl, hb]
  · exact h2

@[simp] theorem State.sendOwn_fl (s : State) (port : Nat) (m : Msg) : (s.sendOwn port m).fl = s.fl := by
  simp [State.sendOwn, apply_ite State.fl]

@[simp] theorem State.originate_fl (s : State) (port dst op h : Nat) (body : List Byte) (why : Purpose) :
    (s.originate port dst op h body why).fl = s.fl := by
  simp [State.originate]

/-! ### Directory entries and the line's order -/

@[simp] theorem State.putEnt_fl (s : State) (ln : Nat) (e : DirEnt) : (s.putEnt ln e).fl = s.fl := by
  simp [State.putEnt, apply_ite State.fl]

@[simp] theorem State.dropEnt_fl (s : State) (ln : Nat) : (s.dropEnt ln).fl = s.fl := by
  simp [State.dropEnt, apply_ite State.fl]

@[simp] theorem State.putOpt_fl (s : State) (ln : Nat) (e : Option DirEnt) : (s.putOpt ln e).fl = s.fl := by
  cases e <;> simp [State.putOpt]

@[simp] theorem State.backInval_fl (s : State) (ln b : Nat) : (s.backInval ln b).fl = s.fl := by
  simp [State.backInval]

@[simp] theorem State.backInvals_fl (s : State) (ln : Nat) (l : List Nat) : (s.backInvals ln l).2.fl = s.fl :=
  foldl_fl _ (fun s b => State.backInval_fl s ln b) _ s

theorem State.makeRoom_fl {s t : State} {ln : Nat} (h : s.makeRoom ln = some t) : t.fl = s.fl := by
  unfold State.makeRoom at h
  dsimp only at h
  split at h
  · rw [← Option.some.inj h]
  · split at h
    · cases h
    · split at h
      · cases h
      · rw [← Option.some.inj h]
        simp

@[simp] theorem State.cohRead_fl (s : State) (ln h : Nat) : (s.cohRead ln h).2.fl = s.fl := by
  unfold State.cohRead
  dsimp only
  split
  · rfl
  · split <;> simp

@[simp] theorem State.cohWrite_fl (s : State) (ln : Nat) (d : List Byte) (h : Nat) : (s.cohWrite ln d h).fl = s.fl := by
  unfold State.cohWrite
  split
  · rfl
  · split
    · rfl
    · simp [apply_ite State.fl]

@[simp] theorem State.loseLine_fl (s : State) (ln b cause : Nat) : (s.loseLine ln b cause).fl = s.fl := by
  unfold State.loseLine
  dsimp only
  split
  · simp [apply_ite State.fl]
  · simp only [State.noteFault_fl, State.count_fl]
    split <;> simp [apply_ite State.fl]

@[simp] theorem State.loseHolding_fl (s : State) (ln b cause : Nat) : (s.loseHolding ln b cause).fl = s.fl := by
  unfold State.loseHolding
  split
  · rfl
  · simp [apply_ite State.fl]

@[simp] theorem State.startGrace_fl (s : State) (b : Nat) : (s.startGrace b).fl = s.fl := by
  simp [State.startGrace, apply_ite State.fl]

@[simp] theorem State.recorded_fl (s : State) (ln b : Nat) : (s.recorded ln b).fl = s.fl := by
  simp [State.recorded, apply_ite State.fl]

@[simp] theorem State.fromMemory_fl (s : State) (ln : Nat) (r : Req) (grant : Nat) : (s.fromMemory ln r grant).fl = s.fl := by
  unfold State.fromMemory
  dsimp only
  split
  · simp
  · split
    · simp
    next t h => simp [State.makeRoom_fl h]

@[simp] theorem State.putPend_fl (s : State) (ln : Nat) (q : Pend) : (s.putPend ln q).fl = s.fl := by
  simp [State.putPend, apply_ite State.fl]

@[simp] theorem State.sendFwd_fl (s : State) (ln k b : Nat) (r : Req) (own : Bool) (grant : Nat) :
    (s.sendFwd ln k b r own grant).fl = s.fl := by
  simp [State.sendFwd, apply_ite State.fl]

@[simp] theorem State.collectOn_fl (s : State) (ln : Nat) (r : Req) : (s.collectOn ln r).fl = s.fl := by
  unfold State.collectOn
  extract_lets q p e mine hs x q1 s1 q2 s2
  have h1 : s1.fl = s.fl := by
    unfold s1
    split <;> simp [x]
  have h2 : s2.fl = s.fl := h1
  split
  · exact h1
  · split
    · split <;> simp [h2]
    · split <;> simp [h2]

@[simp] theorem State.recallOn_fl (s : State) (ln : Nat) : (s.recallOn ln).fl = s.fl := by
  simp [State.recallOn]

@[simp] theorem State.ackEnt_fl (s : State) (ln : Nat) (e : DirEnt) : (s.ackEnt ln e).fl = s.fl := by
  unfold State.ackEnt
  rw [State.putEnt_fl]
  cases h : s.makeRoom ln with
  | none => rfl
  | some t => exact State.makeRoom_fl h

@[simp] theorem State.applyAck_fl (s : State) (ln : Nat) (f : Fwd) (out kept : Nat) (d : Option (List Byte)) :
    (s.applyAck ln f out kept d).fl = s.fl := by
  unfold State.applyAck
  extract_lets s1 ent s2 s3 again q
  have h1 : s1.fl = s.fl := by
    unfold s1
    split <;> simp
  clear_value ent
  have h3 : s3.fl = s.fl := by
    unfold s3
    split
    · simp [s2, h1]
    · cases ent <;> simp [s2, h1, apply_ite State.fl]
  split
  · rw [State.recorded_fl, h3]
  · cases ent <;> simp [again, h1, apply_ite State.fl]

@[simp] theorem State.repeated_fl (s : State) (ln k : Nat) (e : DirEnt) (r : Req) : (s.repeated ln k e r).fl = s.fl := by
  unfold State.repeated
  dsimp only
  split
  · simp
  · split
    · simp
    · split
      · split <;> simp
      · simp

theorem State.serveAt_fl {s t : State} {ln k : Nat} {r : Req} (h : s.serveAt ln k r = some t) : t.fl = s.fl := by
  unfold State.serveAt at h
  split at h
  · obtain ⟨u, hu, rfl⟩ := Option.map_eq_some_iff.1 h
    rw [State.fromMemory_fl, State.makeRoom_fl hu]
  · rw [← Option.some.inj h]
    split
    · simp
    · split
      · simp
      · split
        · simp
        · split <;> simp

@[simp] theorem State.awaitOver_fl (s : State) (ln : Nat) : (s.awaitOver ln).fl = s.fl := by
  unfold State.awaitOver
  dsimp only
  rw [foldl_fl _ (fun s x => by simp), State.setPend_fl]

@[simp] theorem State.takeAwaited_fl (s : State) (ln : Nat) (r : Req) : (s.takeAwaited ln r).fl = s.fl := by
  simp [State.takeAwaited]

theorem State.lineTurn_fl {s t : State} {ln : Nat} (h : s.lineTurn ln = some t) : t.fl = s.fl := by
  unfold State.lineTurn at h
  dsimp only at h
  split at h
  · obtain ⟨r, -, rfl⟩ := Option.map_eq_some_iff.1 h
    simp
  · split at h
    · obtain ⟨a, -, rfl⟩ := Option.map_eq_some_iff.1 h
      simp
    · split at h
      · cases h
      · rw [← Option.some.inj h, State.collectOn_fl]
    · cases h
    · rw [State.serveAt_fl h, State.setPend_fl]
    · split at h
      · rw [← Option.some.inj h, State.recallOn_fl]
      · cases h

@[simp] theorem State.lineTurns_fl (s : State) (ln n : Nat) : (s.lineTurns ln n).fl = s.fl := by
  induction n generalizing s with
  | zero => rfl
  | succ n ih =>
    rw [State.lineTurns]
    split
    · rfl
    next t h => rw [ih, State.lineTurn_fl h]

@[simp] theorem State.settleLine_fl (s : State) (ln : Nat) : (s.settleLine ln).fl = s.fl := by
  simp [State.settleLine]

@[simp] theorem State.beginRecall_fl (s : State) (ln : Nat) : (s.beginRecall ln).fl = s.fl := by
  simp [State.beginRecall, apply_ite State.fl]

@[simp] theorem State.endRecall_fl (s : State) (ln : Nat) : (s.endRecall ln).fl = s.fl := by
  simp [State.endRecall]

@[simp] theorem State.recallFor_fl (s : State) (e va len : Nat) (wr : Bool) : (s.recallFor e va len wr).2.fl = s.fl := by
  have hbegin : ((s.toRecall e va len wr).foldl (fun s ln => s.beginRecall ln) s).fl = s.fl :=
    foldl_fl _ (fun s ln => State.beginRecall_fl s ln) _ s
  unfold State.recallFor
  dsimp only
  split
  · rw [foldl_fl _ (fun s ln => by simp), hbegin]
  · exact hbegin

/-! ### The fetch and the charge of a turn -/

@[simp] theorem State.agentCheck_fl (s : State) (h va len : Nat) (wr : Bool) : (s.agentCheck h va len wr).2.fl = s.fl := by
  unfold State.agentCheck
  dsimp only
  split
  · rfl
  · simp [apply_ite State.fl, apply_ite Prod.snd]

@[simp] theorem State.fetchWord_fl (s : State) (p slot c : Nat) : (s.fetchWord p slot c).2.fl = s.fl := by
  unfold State.fetchWord
  dsimp only
  split
  · rfl
  · split
    · rfl
    · split
      · rfl
      · split
        · simp
        · simp
        · split <;> simp

@[simp] theorem State.chargeCycles_fl (s : State) (p slot c n : Nat) : (s.chargeCycles p slot c n).fl = s.fl := by
  simp [State.chargeCycles, apply_ite State.fl]

end Sys2Proof.Machine

/-!
SUPPORT. An instruction that `Issues` (13 R296, R306), for each way in which it ends its turn.
-/

namespace Sys2Proof.Machine

section
variable {s u v : State} {k : Ctx} {slot c stall t p w n code detail : Nat} {op : Nat × Nat} {pc : Int}
  {run : State → Ctx → Nat → Ran}

theorem Issues.ctx_eq (H : Issues s slot c stall t op p w u k) : k = u.ctx slot c := by
  obtain ⟨-, -, -, -, -, -, -, hk, -⟩ := H
  exact hk

theorem Issues.pc_lt (H : Issues s slot c stall t op p w u k) : k.pc + 8 < 2 ^ 28 := by
  obtain ⟨-, -, -, -, -, -, -, -, hpc⟩ := H
  exact hpc

theorem Issues.wordOp_eq (H : Issues s slot c stall t op p w u k) : wordOp w = some op := by
  obtain ⟨-, -, -, -, hop, -, -, -, -⟩ := H
  exact hop

theorem legalWord_of_wordOp (h : wordOp w = some op) : legalWord w = true := by
  unfold wordOp at h
  split at h
  next hl => exact hl
  next => cases h

theorem Issues.next (H : Issues s slot c stall t op p w u k) (hop : op.1 ≠ 0x6C) (hr : run u k w = .done v (k.pc + 8) 0) :
    s.issueInstr slot c stall t op run = v.goesOn slot c (k.pc + 8) :=
  State.issueInstr_done s slot c stall t op p w u k run H hop v _ 0 (k.pc + 8) hr rfl H.pc_lt

theorem Issues.jump (H : Issues s slot c stall t op p w u k) (hop : op.1 ≠ 0x6C) (hr : run u k w = .done v pc 2)
    (hp : (n : Int) = pc) (hn : n < 2 ^ 28) :
    s.issueInstr slot c stall t op run = (v.chargeCycles p slot c 2).goesOn slot c n :=
  State.issueInstr_done s slot c stall t op p w u k run H hop v pc 2 n hr hp.symm hn

theorem Issues.out (H : Issues s slot c stall t op p w u k) (hr : run u k w = .done v pc 2)
    (hp : pc < 0 ∨ (2 : Int) ^ 28 ≤ pc) : s.issueInstr slot c stall t op run = u.reelFault slot c Code.fetchOutOfRange 0 :=
  State.issueInstr_out s slot c stall t op p w u k run H v pc 2 hr hp

theorem Issues.fault (H : Issues s slot c stall t op p w u k) (hr : run u k w = .fault v code detail) :
    s.issueInstr slot c stall t op run = v.reelFault slot c code detail :=
  State.issueInstr_fault s slot c stall t op p w u k run H v code detail hr

theorem Issues.held (H : Issues s slot c stall t op p w u k) (hr : run u k w = .held v) :
    s.issueInstr slot c stall t op run = v :=
  State.issueInstr_held s slot c stall t op p w u k run H v hr

theorem Issues.stalls (H : Issues s slot c stall t op p w u k) (hr : run u k w = .stall v) :
    s.issueInstr slot c stall t op run = v := by
  rw [State.issueInstr_ready s slot c stall t op p w u k run H, hr]

/-- CUT is the one operation that leaves AT_CUT set (13 R308). -/
theorem Issues.cuts (H : Issues s slot c stall t (0x6C, 0) p w u k) (hr : run u k w = .done v (k.pc + 8) 0) :
    s.issueInstr slot c stall t (0x6C, 0) run = v.setCtx slot c { v.ctx slot c with
      pc := k.pc + 8
      atCut := true
      resume := none } := by
  have hin : ¬ ((k.pc + 8 : Int) < 0 ∨ (2 : Int) ^ 28 ≤ k.pc + 8) := by have := H.pc_lt; omega
  rw [State.issueInstr_ready s slot c stall t (0x6C, 0) p w u k run H, hr]
  simp only [if_neg hin, if_true, wordOp_op H.wordOp_eq, decide_true]
  rfl

end

@[simp] theorem State.guardAt_at (s : State) (t : Nat) : (s.at t).guardAt = s.guardAt := by
  unfold State.guardAt State.frameNs FrameLogic.ticks
  rfl

theorem State.guardAt_of_fl_eq {s u : State} (h : u.fl = s.fl) : u.guardAt = s.guardAt := by
  unfold State.guardAt State.frameNs
  rw [h]

theorem Issues.guardAt_eq {s u : State} {k : Ctx} {slot c stall t p w : Nat} {op : Nat × Nat}
    (H : Issues s slot c stall t op p w u k) : u.guardAt = s.guardAt := by
  obtain ⟨-, -, -, -, -, -, hu, -, -⟩ := H
  have hfl : u.fl = (s.at t).fl := by rw [hu, State.chargeCycles_fl, State.fetchWord_fl]
  exact (State.guardAt_of_fl_eq hfl).trans (State.guardAt_at s t)

end Sys2Proof.Machine

/-!
CERTIFICATE. Scalar instructions and control flow of reels (14 R316, R322, R323, R329, R341).
-/

namespace Sys2Proof.Machine

/-! ### Scalar instructions, masks and SYSR (14 R322, R329, R341) -/

theorem ScalarRule.intro (i : Nat → Nat → Nat → Nat → Instr) (op : Nat) (f : Word → Word → Word) (hop : op ≠ 0x6C)
    (h : ∀ s slot c stall t, exec (i slot c stall t) s = .next (s.scalar slot c stall t op f)) : ScalarRule i op f :=
  RegRule.intro i (op, 0) _ hop h

theorem MaskRule.intro (i : Nat → Nat → Nat → Nat → Instr) (sel : Nat) (f : BitVec 1024 → BitVec 1024 → BitVec 1024)
    (h : ∀ s slot c stall t, exec (i slot c stall t) s = .next (s.maskOp slot c stall t sel f)) : MaskRule i sel f :=
  RegRule.intro i (0x2E, sel) _ (by simp) h

theorem SysRule.intro (i : Nat → Nat → Nat → Nat → Instr) (sel : Nat) (f : State → Ctx → Nat → Nat → Nat → Nat)
    (h : ∀ s slot c stall t, exec (i slot c stall t) s = .next (s.sysr slot c stall t sel (fun u k => f u k slot c t))) :
    SysRule i sel f := by
  intro s slot c stall t p w u k H
  rw [h]
  exact congrArg Host.Outcome.next (H.next (by simp) rfl)

/-- SYSR 2 counts to the guard of the state in which the command is given, which is that of the state in which it acts. -/
theorem sysrGuardCycles_rule : SysRule .sysrGuardCycles 2 (fun u _ _ _ t => (u.guardAt - t) * 2) := by
  intro s slot c stall t p w u k H
  change execSysrGuardCycles slot c stall t s = _
  rw [execSysrGuardCycles, State.sysr, State.cyclesToGuard, H.next (by decide) rfl]
  simp only [H.guardAt_eq]

theorem bitVec_slt_toInt (a b : Word) : (if a.slt b then (1 : Word) else 0) = if a.toInt < b.toInt then 1 else 0 := by
  simp [BitVec.slt_iff_toInt_lt]

theorem bitVec_ult_toNat (a b : Word) : (if a.ult b then (1 : Word) else 0) = if a.toNat < b.toNat then 1 else 0 := by
  simp [BitVec.ult_iff_lt, BitVec.lt_def]

/-- LIH puts IMM32 above the low half of Ga, which it keeps. -/
theorem low_or_shifted (x : Word) (n : Nat) :
    (x &&& 0xFFFFFFFF#64) ||| (BitVec.ofNat 64 n <<< 32) = BitVec.ofNat 64 (x.toNat % 2 ^ 32 + n * 2 ^ 32) := by
  apply BitVec.eq_of_toNat_eq
  have hlow : (x &&& 0xFFFFFFFF#64).toNat = x.toNat % 2 ^ 32 := Nat.and_two_pow_sub_one_eq_mod x.toNat 32
  have hhigh : (BitVec.ofNat 64 n <<< 32).toNat = 2 ^ 32 * (n % 2 ^ 32) := by
    simp only [BitVec.toNat_shiftLeft, BitVec.toNat_ofNat, Nat.shiftLeft_eq]
    omega
  rw [BitVec.toNat_or, hlow, hhigh, Nat.or_comm, ← Nat.two_pow_add_eq_or_of_lt (Nat.mod_lt _ (by decide)), BitVec.toNat_ofNat]
  omega

theorem execLih_eq (s : State) (slot c stall t : Nat) :
    exec (.lih slot c stall t) s = .next (s.issueReg slot c stall t (0x0F, 0) (fun k w =>
      k.setG (iD w) (BitVec.ofNat 64 ((k.gr (iA w)).toNat % 2 ^ 32 + iImm32 w * 2 ^ 32)))) := by
  simp only [← low_or_shifted]
  rfl

theorem gr_zero_setG_zero (k : Ctx) (v : Word) : k.gr 0 = 0 ∧ k.setG 0 v = k := ⟨rfl, rfl⟩

/-! ### Branches (14 R323) -/

theorem condHolds_eq_getD (cond : Nat) (a b : Word) :
    condHolds cond a b = [decide (a = b), decide (a ≠ b), decide (a.toInt < b.toInt), decide (b.toInt ≤ a.toInt),
      decide (a.toNat < b.toNat), decide (b.toNat ≤ a.toNat), true].getD cond true := by
  match cond with
  | 0 | 1 | 2 | 4 | 6 => rfl
  | 3 => exact (decide_not (p := a.toInt < b.toInt)).symm.trans (decide_eq_decide.2 Int.not_lt)
  | 5 => exact (decide_not (p := a.toNat < b.toNat)).symm.trans (decide_eq_decide.2 Nat.not_lt)
  | n + 7 => simp [condHolds]

section
variable {s u : State} {k : Ctx} {slot c stall t p w n : Nat}

theorem execBr_not_taken (H : Issues s slot c stall t (0x10, 0) p w u k)
    (hc : condHolds (iFunc w) (k.gr (iBrA w)) (k.gr (iBrB w)) = false) :
    exec (.br slot c stall t) s = .next (u.goesOn slot c (k.pc + 8)) := by
  change execBr slot c stall t s = _
  rw [execBr, H.next (by decide) (if_neg (Bool.eq_false_iff.1 hc))]

theorem execBr_taken (H : Issues s slot c stall t (0x10, 0) p w u k)
    (hc : condHolds (iFunc w) (k.gr (iBrA w)) (k.gr (iBrB w)) = true) (hpc : (n : Int) = k.pc + 8 * iOff w) (hn : n < 2 ^ 28) :
    exec (.br slot c stall t) s = .next ((u.chargeCycles p slot c 2).goesOn slot c n) := by
  change execBr slot c stall t s = _
  rw [execBr, H.jump (by decide) (if_pos hc) hpc hn]

theorem execBr_out_of_range (H : Issues s slot c stall t (0x10, 0) p w u k)
    (hc : condHolds (iFunc w) (k.gr (iBrA w)) (k.gr (iBrB w)) = true)
    (hpc : (k.pc + 8 * iOff w : Int) < 0 ∨ (2 : Int) ^ 28 ≤ k.pc + 8 * iOff w) :
    exec (.br slot c stall t) s = .next (u.reelFault slot c Code.fetchOutOfRange 0) := by
  change execBr slot c stall t s = _
  rw [execBr, H.out (if_pos hc) hpc]

theorem execJal_jumps (H : Issues s slot c stall t (0x11, 0) p w u k) (hpc : (n : Int) = k.pc + 8 * iOff w) (hn : n < 2 ^ 28) :
    exec (.jal slot c stall t) s =
      .next (((u.setCtx slot c (k.setG (iD w) (BitVec.ofNat 64 (k.pc + 8)))).chargeCycles p slot c 2).goesOn slot c n) := by
  change execJal slot c stall t s = _
  rw [execJal, H.jump (by decide) rfl hpc hn]

theorem execJal_out_of_range (H : Issues s slot c stall t (0x11, 0) p w u k)
    (hpc : (k.pc + 8 * iOff w : Int) < 0 ∨ (2 : Int) ^ 28 ≤ k.pc + 8 * iOff w) :
    exec (.jal slot c stall t) s = .next (u.reelFault slot c Code.fetchOutOfRange 0) := by
  change execJal slot c stall t s = _
  rw [execJal, H.out rfl hpc]

theorem execJr_jumps (H : Issues s slot c stall t (0x12, 0) p w u k)
    (hpc : (n : Int) = ((k.gr (iA w)).toInt + iOff w) / 8 * 8) (hn : n < 2 ^ 28) :
    exec (.jr slot c stall t) s = .next ((u.chargeCycles p slot c 2).goesOn slot c n) := by
  change execJr slot c stall t s = _
  rw [execJr, H.jump (by decide) rfl hpc hn]

theorem execJr_out_of_range (H : Issues s slot c stall t (0x12, 0) p w u k)
    (hpc : ((k.gr (iA w)).toInt + iOff w) / 8 * 8 < 0 ∨ (2 : Int) ^ 28 ≤ ((k.gr (iA w)).toInt + iOff w) / 8 * 8) :
    exec (.jr slot c stall t) s = .next (u.reelFault slot c Code.fetchOutOfRange 0) := by
  change execJr slot c stall t s = _
  rw [execJr, H.out rfl hpc]

/-- Stated for fields that are variables: where they are numerals, the kernel would compute with `2 ^ 43` in unary. -/
theorem setFld_setFld_of_onlyBits (a b : Nat × Nat) (h : onlyBits w [a, b] = true) :
    setFld (setFld w a.1 a.2 0) b.1 b.2 0 = iOp w * 2 ^ 56 := onlyBits_eq w [a, b] h

/-- A legal JAL has no bit set in A. -/
theorem iA_eq_zero_of_jal (h : wordOp w = some (0x11, 0)) : iA w = 0 := by
  have hop : iOp w = 0x11 := wordOp_op h
  have hbits : onlyBits w [fD, fImm32] = true := by
    have hlegal := legalWord_of_wordOp h
    simpa [legalWord, hop] using hlegal
  have hclear : setFld (setFld w 47 43 0) 31 0 0 = iOp w * 2 ^ 56 := setFld_setFld_of_onlyBits fD fImm32 hbits
  rw [setFld_zero, setFld_zero] at hclear
  simp only [fld, iOp] at hclear
  simp only [fld, iA]
  omega

end

/-- Settles O48: each instruction is its rule over `issueReg` or `issueInstr`; the branches by whether COND holds and whether the
target is within the code. -/
theorem reelScalars : Obligations.ReelScalars := by
  refine ⟨gr_zero_setG_zero,
    ScalarRule.intro .add 0x01 _ (by decide) fun _ _ _ _ _ => rfl,
    ScalarRule.intro .sub 0x02 _ (by decide) fun _ _ _ _ _ => rfl,
    ScalarRule.intro .mul 0x03 _ (by decide) fun _ _ _ _ _ => rfl,
    ScalarRule.intro .mulhu 0x04 _ (by decide) fun _ _ _ _ _ => rfl,
    ScalarRule.intro .and 0x05 _ (by decide) fun _ _ _ _ _ => rfl,
    ScalarRule.intro .or 0x06 _ (by decide) fun _ _ _ _ _ => rfl,
    ScalarRule.intro .xor 0x07 _ (by decide) fun _ _ _ _ _ => rfl,
    ScalarRule.intro .shl 0x08 _ (by decide) fun _ _ _ _ _ => rfl,
    ScalarRule.intro .shr 0x09 _ (by decide) fun _ _ _ _ _ => rfl,
    ScalarRule.intro .sar 0x0A _ (by decide) fun _ _ _ _ _ => rfl,
    ScalarRule.intro .slt 0x0B _ (by decide) fun _ _ _ _ _ => by simp only [← bitVec_slt_toInt]; rfl,
    ScalarRule.intro .sltu 0x0C _ (by decide) fun _ _ _ _ _ => by simp only [← bitVec_ult_toNat]; rfl,
    RegRule.intro .li (0x0E, 0) _ (by decide) fun _ _ _ _ _ => rfl,
    RegRule.intro .lih (0x0F, 0) _ (by decide) execLih_eq,
    RegRule.intro .clrf (0x71, 0) _ (by decide) fun _ _ _ _ _ => rfl,
    RegRule.intro .nop (0x7E, 0) _ (by decide) fun _ _ _ _ _ => rfl,
    MaskRule.intro .mopAnd 0 _ fun _ _ _ _ _ => rfl,
    MaskRule.intro .mopOr 1 _ fun _ _ _ _ _ => rfl,
    MaskRule.intro .mopXor 2 _ fun _ _ _ _ _ => rfl,
    MaskRule.intro .mopAndNot 3 _ fun _ _ _ _ _ => rfl,
    RegRule.intro .mset (0x2F, 0) _ (by decide) fun _ _ _ _ _ => rfl,
    SysRule.intro .sysrFrame 0 _ fun _ _ _ _ _ => rfl,
    SysRule.intro .sysrBudget 1 _ fun _ _ _ _ _ => rfl,
    sysrGuardCycles_rule,
    SysRule.intro .sysrFpFlags 3 _ fun _ _ _ _ _ => rfl,
    SysRule.intro .sysrSlot 4 _ fun _ _ _ _ _ => rfl,
    SysRule.intro .sysrContext 5 _ fun _ _ _ _ _ => rfl,
    SysRule.intro .sysrSrCounter 6 _ fun _ _ _ _ _ => rfl,
    SysRule.intro .sysrLaunchTag 7 _ fun _ _ _ _ _ => rfl,
    SysRule.intro .sysrSplitMode 8 _ fun _ _ _ _ _ => rfl, ?br, ?jal, ?jr⟩
  case br =>
    intro s slot c stall t p w u k H a b holds v
    have hcond : condHolds (iFunc w) a b = holds := condHolds_eq_getD (iFunc w) a b
    exact ⟨fun h => execBr_not_taken H (hcond.trans h), fun n h => execBr_taken H (hcond.trans h),
      fun h => execBr_out_of_range H (hcond.trans h)⟩
  case jal =>
    intro s slot c stall t p w u k H pc
    exact ⟨fun n => execJal_jumps H, execJal_out_of_range H, iA_eq_zero_of_jal H.wordOp_eq⟩
  case jr =>
    intro s slot c stall t p w u k H pc
    exact ⟨fun n => execJr_jumps H, execJr_out_of_range H⟩

end Sys2Proof.Machine

/-!
CERTIFICATE. Waits and ends of reels (13 R306, R307, R310, R311, 14 R319, R327, R339, R340, R344).
-/

namespace Sys2Proof.Machine

/-! ### What dropping prefetched data leaves of a context (12 R287) -/

@[simp] theorem State.ctx_count (s : State) (key n slot c : Nat) : (s.count key n).ctx slot c = s.ctx slot c := by
  rw [State.ctx, State.count_reels, State.ctx]

@[simp] theorem State.ctx_setLaunch (s : State) (l : Launch) (slot c : Nat) : (s.setLaunch l).ctx slot c = s.ctx slot c := rfl

@[simp] theorem State.ctx_engineCount (s : State) (tile i n slot c : Nat) : (s.engineCount tile i n).ctx slot c = s.ctx slot c := by
  unfold State.engineCount
  split
  · rfl
  · rw [State.ctx_count]

@[simp] theorem State.engineCount_mem (s : State) (tile i n : Nat) : (s.engineCount tile i n).mem = s.mem := by
  unfold State.engineCount
  split
  · rfl
  · rw [State.count_mem]

theorem State.dropPrefetch_ctx (s : State) (slot c : Nat) : (s.dropPrefetch slot c).ctx slot c = { s.ctx slot c with
    strm := (s.ctx slot c).strm.map (fun e => (e.1, { e.2 with buf := [], marked := [] })) } := by
  rw [State.dropPrefetch, State.ctx_setCtx]

@[simp] theorem State.setCtx_mem (s : State) (slot c : Nat) (k : Ctx) : (s.setCtx slot c k).mem = s.mem := rfl

@[simp] theorem State.setLaunch_mem (s : State) (l : Launch) : (s.setLaunch l).mem = s.mem := rfl

@[simp] theorem State.dropPrefetch_mem (s : State) (slot c : Nat) : (s.dropPrefetch slot c).mem = s.mem := by
  rw [State.dropPrefetch, State.setCtx_mem, State.engineCount_mem]

/-! ### CUT, BAR and END (13 R307, R310, 14 R339, R340, R344) -/

section
variable {s u : State} {k : Ctx} {l : Launch} {slot c stall t p w b rank gen : Nat}

theorem execCut_issues (H : Issues s slot c stall t (0x6C, 0) p w u k) :
    exec (.cut slot c stall t) s = .next (u.setCtx slot c { k with
      st := if k.budget < iImm32 w ∨ (u.guardAt - t) * 2 < iImm32 w then 6 else k.st
      pc := k.pc + 8
      atCut := true
      resume := none }) := by
  change execCut slot c stall t s = _
  rw [execCut, H.cuts rfl]
  simp only [State.cyclesToGuard]
  by_cases hshort : k.budget < iImm32 w ∨ (u.guardAt - t) * 2 < iImm32 w
  · simp only [hshort, if_true, State.ctx_setCtx, State.setCtx_setCtx]
  · simp only [hshort, if_false, ← H.ctx_eq]

theorem execBar_broken (H : Issues s slot c stall t (0x68, 0) p w u k) (hr : k.refusals = []) (hl : u.launch k.launch = some l)
    (hb : l.broken = true) : exec (.bar slot c stall t) s = .next (u.reelFault slot c Code.barrierBroken (fld w 1 0)) := by
  change execBar slot c stall t s = _
  rw [execBar, H.fault]
  simp [hr, hl, hb]

theorem execBar_arrives (H : Issues s slot c stall t (0x68, 0) p w u k) (hr : k.refusals = []) (hl : u.launch k.launch = some l)
    (hb : l.broken = false) : exec (.bar slot c stall t) s = .next ((u.setLaunch { l with
      coming := l.coming ++ [(fld w 1 0, k.rank, Tab.getD k.gen (fld w 1 0) 0)] }).setCtx slot c { k with
        st := 4
        wait := .barrier (fld w 1 0) }) := by
  change execBar slot c stall t s = _
  rw [execBar, H.held]
  simp [hr, hl, hb]

theorem execEndReel_waits (H : Issues s slot c stall t (0x77, 0) p w u k) (hr : k.refusals ≠ []) :
    exec (.endReel slot c stall t) s = .next u := by
  change execEndReel slot c stall t s = _
  rw [execEndReel, H.stalls (if_pos hr)]

theorem execEndReel_ends (H : Issues s slot c stall t (0x77, 0) p w u k) (hr : k.refusals = []) :
    exec (.endReel slot c stall t) s = .next (((((u.dropPrefetch slot c).ackTaken slot c Code.ok).setCtx slot c
      (((u.dropPrefetch slot c).ackTaken slot c Code.ok).ctx slot c).wiped).breakBarriers k.launch).endIfDone k.launch) := by
  change execEndReel slot c stall t s = _
  rw [execEndReel, H.held (if_neg (not_not_intro hr))]

/-! ### Barriers (13 R310) -/

theorem execBarrierArrival_not_last (hl : s.launch (s.ctx slot c).launch = some l)
    (hf : l.coming.find? (fun x => x.2.1 = (s.ctx slot c).rank) = some (b, rank, gen)) (hg : gen = Tab.getD l.gens b 0)
    (hn : (((b, rank) :: l.arrived.filter (fun x => x ≠ (b, rank))).filter (fun x => x.1 = b)).length < l.slots.length) :
    exec (.barrierArrival slot c) s = .next (s.setLaunch { l with
      coming := l.coming.filter (fun x => x.2.1 ≠ rank)
      arrived := (b, rank) :: l.arrived.filter (fun x => x ≠ (b, rank)) }) := by
  change execBarrierArrival slot c s = _
  simp only [execBarrierArrival, hl, hf]
  rw [if_neg (not_not_intro hg), if_pos hn]

theorem execBarrierArrival_last (hl : s.launch (s.ctx slot c).launch = some l)
    (hf : l.coming.find? (fun x => x.2.1 = (s.ctx slot c).rank) = some (b, rank, gen)) (hg : gen = Tab.getD l.gens b 0)
    (hn : l.slots.length ≤ (((b, rank) :: l.arrived.filter (fun x => x ≠ (b, rank))).filter (fun x => x.1 = b)).length) :
    exec (.barrierArrival slot c) s = .next (s.setLaunch { l with
      coming := l.coming.filter (fun x => x.2.1 ≠ rank)
      arrived := ((b, rank) :: l.arrived.filter (fun x => x ≠ (b, rank))).filter (fun x => x.1 ≠ b)
      gens := Tab.set l.gens b ((gen + 1) % 65536)
      releases := l.releases ++ l.slots.map (fun i => (b, i)) }) := by
  change execBarrierArrival slot c s = _
  simp only [execBarrierArrival, hl, hf]
  rw [if_neg (not_not_intro hg), if_neg (Nat.not_lt.2 hn)]

/-- The context `k` as a release of barrier `b` that reaches it leaves it: past its BAR, with nothing prefetched. -/
def Ctx.released (k : Ctx) (b : Nat) : Ctx :=
  { k with
    strm := k.strm.map (fun e => (e.1, { e.2 with buf := [], marked := [] }))
    gen := Tab.set k.gen b ((Tab.getD k.gen b 0 + 1) % 65536)
    pc := k.pc + 8
    atCut := false
    st := 3
    wait := .none }

theorem execBarrierRelease_loaded (hl : s.launch (s.ctx slot c).launch = some l) (hw : (s.ctx slot c).wait = .barrier b)
    (hst : (s.ctx slot c).st = 4) (hmem : (b, slot) ∈ l.releases) (hs : (s.ctx slot c).saved = false) :
    exec (.barrierRelease slot c) s = .next (((s.setLaunch { l with releases := l.releases.erase (b, slot) }).dropPrefetch slot
      c).setCtx slot c ((s.ctx slot c).released b)) := by
  have hgo : (s.ctx slot c).st = 4 ∧ l.releases.contains (b, slot) = true := ⟨hst, List.contains_iff_mem.2 hmem⟩
  change execBarrierRelease slot c s = _
  simp only [execBarrierRelease, hl, hw]
  rw [if_pos hgo, State.dropPrefetch_ctx, State.ctx_setLaunch]
  simp only [hs, Ctx.released]
  rfl

theorem buf_eq_nil_of_mem_released_strm {e : Nat × Strm} (he : e ∈ (k.released b).strm) : e.2.buf = [] := by
  obtain ⟨x, -, rfl⟩ := List.mem_map.1 he
  rfl

/-! ### The other ends of a turn (13 R306, R311, 14 R319, R327) -/

theorem execCycleBudgetExhausted_stops (hst : (s.ctx slot c).st = 3) (hb : (s.ctx slot c).budget = 0)
    (hcut : (s.ctx slot c).atCut = false) :
    exec (.cycleBudgetExhausted slot c t) s = .next ((s.at t).setCtx slot c { s.ctx slot c with st := 5 }) := by
  have hgo : (s.ctx slot c).st = 3 ∧ (s.ctx slot c).budget = 0 ∧ (!(s.ctx slot c).atCut) = true := ⟨hst, hb, by rw [hcut]; rfl⟩
  exact congrArg Host.Outcome.next (if_pos hgo)

theorem execPostedStoreRefusal_first {st : Nat} {rest : List Nat} (hr : (s.ctx slot c).refusals = st :: rest)
    (hn : (s.ctx slot c).refused = none) :
    exec (.postedStoreRefusal slot c) s = .next (s.setCtx slot c { s.ctx slot c with
      refusals := rest
      refused := some st }) := by
  change execPostedStoreRefusal slot c s = _
  simp only [execPostedStoreRefusal, hr, hn, Option.getD_none]

theorem execIllegalInstruction_refused {st : Nat} (hmay : (s.at t).mayIssue slot c t = true) (hr : (s.ctx slot c).refused = some st) :
    exec (.illegalInstruction slot c stall t) s = .next ((s.at t).reelFault slot c Code.storeRefused st) := by
  have hr' : ((s.at t).ctx slot c).refused = some st := hr
  change execIllegalInstruction slot c stall t s = _
  simp only [execIllegalInstruction, hmay, hr', Bool.not_true, Bool.false_eq_true, if_false]

theorem execIllegalInstruction_illegal (hmay : (s.at t).mayIssue slot c t = true) (ho : (s.at t).ctxOwner slot c = some p)
    (hr : (s.ctx slot c).refused = none) (hf : ((s.at t).fetchWord p slot c).1 = .word w) (hw : legalWord w = false) :
    exec (.illegalInstruction slot c stall t) s = .next ((((s.at t).fetchWord p slot c).2.chargeCycles p slot c (1 + stall)).reelFault
      slot c Code.illegalInstruction (w % 2 ^ 32)) := by
  have hr' : ((s.at t).ctx slot c).refused = none := hr
  change execIllegalInstruction slot c stall t s = _
  simp only [execIllegalInstruction, hmay, hr', ho, hf, hw, Bool.not_true, Bool.false_eq_true, if_false]

end

/-- Settles O52, form by form: each wait and each end by the branch of its command that its hypotheses select. -/
theorem reelWaits : Obligations.ReelWaits := by
  refine ⟨?cut, ?bar, ?arrival, ?release, ?budget, ?refusal, ?illegal, ?ends⟩
  case cut => exact fun s slot c stall t p w u k H => execCut_issues H
  case bar => exact fun s slot c stall t p w u k l H hr hl => ⟨execBar_broken H hr hl, execBar_arrives H hr hl⟩
  case arrival =>
    exact fun s slot c b rank gen l hl hf hg => ⟨execBarrierArrival_not_last hl hf hg, execBarrierArrival_last hl hf hg⟩
  case release =>
    intro s slot c b l hl hw hst hmem hs
    refine ⟨_, execBarrierRelease_loaded hl hw hst hmem hs, ?_⟩
    rw [State.ctx_setCtx]
    exact ⟨rfl, rfl, Tab.getD_set_same .., fun e he => buf_eq_nil_of_mem_released_strm he, fun i => rfl,
      by rw [State.setCtx_mem, State.dropPrefetch_mem, State.setLaunch_mem]⟩
  case budget => exact fun s slot c t hst hb hcut => execCycleBudgetExhausted_stops hst hb hcut
  case refusal => exact fun s slot c st rest hr hn => execPostedStoreRefusal_first hr hn
  case illegal =>
    exact fun s slot c stall t p w st hmay ho => ⟨execIllegalInstruction_refused hmay, execIllegalInstruction_illegal hmay ho⟩
  case ends => exact fun s slot c stall t p w u k H => ⟨execEndReel_waits H, execEndReel_ends H⟩

end Sys2Proof.Machine

/-!
CERTIFICATE. Messages of reels (14 R338, R342, R343, 20 R442 to R444).
-/

namespace Sys2Proof.Machine

/-! ### Mailboxes and windows (20 R442, R444) -/

@[simp] theorem State.window_setCtx (s : State) (slot c b : Nat) (k : Ctx) : (s.setCtx slot c k).window b = s.window b := rfl

@[simp] theorem State.window_setWindow (s : State) (b : Nat) (v : Window) : (s.setWindow b v).window b = v := by
  simp [State.setWindow, State.window]

/-- An acknowledgement changes its context in TAKEN alone. -/
theorem State.ackTaken_ctx (s : State) (slot c ret : Nat) :
    (s.ackTaken slot c ret).ctx slot c = { s.ctx slot c with taken := none } := by
  unfold State.ackTaken
  split
  next h => rw [← h]
  next => rw [State.ctx_setCtx]

theorem State.ackTaken_of_taken {s : State} {slot c b n ret : Nat} (h : (s.ctx slot c).taken = some (b, some n)) :
    s.ackTaken slot c ret = (s.setWindow b { s.window b with
      posts := Tab.set (s.window b).posts (slot * 16 + c) { Tab.getD (s.window b).posts (slot * 16 + c) {} with
        ack := n
        ret := ret } }).setCtx slot c { s.ctx slot c with taken := none } := by
  simp only [State.ackTaken, State.ackPost, h]

theorem State.wakeMbx_loaded {s : State} {slot c : Nat} (hst : (s.ctx slot c).st = 4) (hw : (s.ctx slot c).wait = .mailbox)
    (hs : (s.ctx slot c).saved = false) : s.wakeMbx slot c = s.setCtx slot c { s.ctx slot c with
      st := 3
      wait := .none } := by
  simp [State.wakeMbx, hst, hw, hs]

/-! ### DBELL, MBXRECV and MBXACK (14 R342, R343) -/

section
variable {s u : State} {k : Ctx} {slot c stall t p w : Nat}

theorem execDbell_reserved {a : Nat} (H : Issues s slot c stall t (0x72, 0) p w u k) (ha : (k.gr (iA w)).toNat = a)
    (hz : fld a 31 22 ≠ 0 ∨ fld a 63 48 ≠ 0) :
    exec (.dbell slot c stall t) s = .next (u.reelFault slot c Code.illegalInstruction (w % 2 ^ 32)) := by
  subst ha
  change execDbell slot c stall t s = _
  rw [execDbell, H.fault (if_pos hz)]

theorem execDbell_rings {a : Nat} (H : Issues s slot c stall t (0x72, 0) p w u k) (ho : u.ctxOwner slot c = some p)
    (ha : (k.gr (iA w)).toNat = a) (hlo : fld a 31 22 = 0) (hhi : fld a 63 48 = 0) (hport : fld a 21 16 < 36)
    (hb : (u.findBinding (fld a 21 16) p (fld a 15 0)).isSome = true) :
    exec (.dbell slot c stall t) s = .next (((u.originate (fld a 21 16) (fld a 15 0) 0x60 (u.handleOf p)
      (toLE 2 (fld a 47 32) ++ toLE 6 0 ++ toLE 8 (k.gr (iB w)).toNat) (.doorbell p slot c (fld a 47 32))).setCtx slot c
        (k.setG (iD w) 0)).goesOn slot c (k.pc + 8)) := by
  change execDbell slot c stall t s = _
  rw [execDbell, H.next (by decide)]
  simp only [ha, hlo, hhi, ne_eq, not_true, or_self, if_false, ho, hport, hb, and_self, if_true]
  rfl

theorem execDbell_not_bound {a : Nat} (H : Issues s slot c stall t (0x72, 0) p w u k) (ho : u.ctxOwner slot c = some p)
    (ha : (k.gr (iA w)).toNat = a) (hlo : fld a 31 22 = 0) (hhi : fld a 63 48 = 0)
    (hn : 36 ≤ fld a 21 16 ∨ (u.findBinding (fld a 21 16) p (fld a 15 0)).isSome = false) :
    exec (.dbell slot c stall t) s =
      .next ((u.setCtx slot c (k.setG (iD w) (BitVec.ofNat 64 Code.notBound))).goesOn slot c (k.pc + 8)) := by
  have hno : ¬ (fld a 21 16 < 36 ∧ (u.findBinding (fld a 21 16) p (fld a 15 0)).isSome = true) := by
    rintro ⟨hlt, hsome⟩
    rcases hn with hge | hnone
    · omega
    · rw [hnone] at hsome; cases hsome
  change execDbell slot c stall t s = _
  rw [execDbell, H.next (by decide)]
  simp only [ha, hlo, hhi, ne_eq, not_true, or_self, if_false, ho, hno]

theorem execMbxrecv_polls (H : Issues s slot c stall t (0x73, 0) p w u k) (hi : k.inbox = []) (hf : iFunc w = 1) :
    exec (.mbxrecv slot c stall t) s =
      .next ((u.setCtx slot c ((k.setG (iD w) 0).setG (iC w) 0)).goesOn slot c (k.pc + 8)) := by
  change execMbxrecv slot c stall t s = _
  rw [execMbxrecv, H.next (by decide)]
  simp only [hi, hf, if_true]

theorem execMbxrecv_waits (H : Issues s slot c stall t (0x73, 0) p w u k) (hi : k.inbox = []) (hf : iFunc w = 0) :
    exec (.mbxrecv slot c stall t) s = .next (u.setCtx slot c { k with
      st := 4
      wait := .mailbox }) := by
  change execMbxrecv slot c stall t s = _
  rw [execMbxrecv, H.held]
  simp only [hi, hf, Nat.zero_ne_one, if_false]

theorem execMbxrecv_takes {m : Nat × Option Nat × Word} {rest : List (Nat × Option Nat × Word)}
    (H : Issues s slot c stall t (0x73, 0) p w u k) (hi : k.inbox = m :: rest) :
    exec (.mbxrecv slot c stall t) s = .next (((u.ackTaken slot c Code.ok).setCtx slot c ((({
      (u.ackTaken slot c Code.ok).ctx slot c with
        inbox := rest
        taken := some (m.1, m.2.1) } : Ctx).setG (iD w) m.2.2).setG (iC w) (BitVec.ofNat 64 (m.1 + 65536)))).goesOn slot c
          (k.pc + 8)) := by
  have hpc : ((u.ackTaken slot c Code.ok).ctx slot c).pc = k.pc := by rw [State.ackTaken_ctx, ← H.ctx_eq]
  change execMbxrecv slot c stall t s = _
  rw [execMbxrecv, H.next (by decide)]
  simp only [hi, hpc]

theorem execMbxack_acks (H : Issues s slot c stall t (0x74, 0) p w u k) :
    exec (.mbxack slot c stall t) s =
      .next ((u.ackTaken slot c ((k.gr (iA w)).toNat % 65536)).goesOn slot c (k.pc + 8)) := by
  change execMbxack slot c stall t s = _
  rw [execMbxack, H.next (by decide) rfl]

theorem execMbxack_answers {b n : Nat} (H : Issues s slot c stall t (0x74, 0) p w u k) (ht : k.taken = some (b, some n)) :
    ∃ x : State, exec (.mbxack slot c stall t) s = .next x ∧
      Tab.getD (x.window b).posts (slot * 16 + c) {} = { Tab.getD (u.window b).posts (slot * 16 + c) {} with
        ack := n
        ret := (k.gr (iA w)).toNat % 65536 } ∧ (x.ctx slot c).taken = none := by
  have hu : (u.ctx slot c).taken = some (b, some n) := H.ctx_eq ▸ ht
  refine ⟨_, execMbxack_acks H, ?_, ?_⟩
  · rw [State.ackTaken_of_taken hu, State.goesOn, State.window_setCtx, State.window_setCtx, State.window_setWindow]
    exact Tab.getD_set_same ..
  · rw [State.ackTaken_of_taken hu, State.goesOn, State.ctx_setCtx, State.ctx_setCtx]

end

/-! ### CONTRIB (14 R338) -/

section
variable {s u : State} {k : Ctx} {slot c stall t p w : Nat}

/-- The operands of a CONTRIB are beyond their limits (14 R338). -/
def contribBad (k : Ctx) (w : Nat) : Prop :=
  2 ^ 32 ≤ (k.gr (iA w)).toNat ∨ fld (k.gr (iB w)).toNat 63 48 = 0 ∨
    fld (k.gr (iB w)).toNat 31 0 / 4096 ≠ (fld (k.gr (iB w)).toNat 31 0 + fld (k.gr (iB w)).toNat 63 48 - 1) / 4096 ∨
    4096 < contribDataLen (iFmt w) (fld (k.gr (iB w)).toNat 63 48) ∨
    (iFunc w = 1 ∧ 512 < fld (k.gr (iB w)).toNat 63 48) ∨
    (iFunc w ≠ 1 ∧ 32 < iC w + spanRegs (fmtBits (iFmt w)) (fld (k.gr (iB w)).toNat 63 48))

theorem execReelContrib_bad (H : Issues s slot c stall t (0x60, 0) p w u k) (hb : contribBad k w) (cut : Bool) :
    exec (.reelContrib slot c stall cut t) s = .next (u.reelFault slot c Code.illegalInstruction (w % 2 ^ 32)) := by
  change execReelContrib slot c stall cut t s = _
  rw [execReelContrib, H.fault (if_pos hb)]

/-- The elements that a CONTRIB gives, with the flags of their conversion: those of an accumulator rounded to FMT, or those of
V registers as they are. -/
def contribElems (k : Ctx) (w : Nat) : List (Nat × Flags) :=
  (List.range (fld (k.gr (iB w)).toNat 63 48)).map (fun i =>
    if iFunc w = 1 then roundFmt (iFmt w) (iRm w) (laneBits k i) (iSat w) (fmt32.decode (elemOf 32 (k.qr (iC w)) i))
    else (elemOf (fmtBits (iFmt w)) (k.span (iC w) (spanRegs (fmtBits (iFmt w)) (fld (k.gr (iB w)).toNat 63 48))) i, 0))

/-- What the home of its chunk answers it. -/
def State.contribAnswer (u : State) (k : Ctx) (p w : Nat) (codes : List Nat) : Answer × State :=
  u.contribute p (k.gr (iA w)).toNat (fld (k.gr (iB w)).toNat 47 32) (fld (k.gr (iB w)).toNat 31 0) (iFmt w) codes

/-- The state after a contribution that the home has answered with `r`: Gd holds the status and the window. -/
def contribReported (r : Answer × State) (slot c w : Nat) : State :=
  r.2.setCtx slot c ((r.2.ctx slot c).setG (iD w) (BitVec.ofNat 64 (r.1.st + r.1.credits * 65536 + r.1.base * 2 ^ 32)))

theorem contribElems_codes_of_registers (hf : iFunc w = 0) : (contribElems k w).map (·.1) =
    (List.range (fld (k.gr (iB w)).toNat 63 48)).map (elemOf (fmtBits (iFmt w))
      (k.span (iC w) (spanRegs (fmtBits (iFmt w)) (fld (k.gr (iB w)).toNat 63 48)))) := by
  simp only [contribElems, hf, Nat.zero_ne_one, if_false, List.map_map]
  rfl

theorem contribElems_of_accumulator (hf : iFunc w = 1) : contribElems k w =
    (List.range (fld (k.gr (iB w)).toNat 63 48)).map (fun i =>
      roundFmt (iFmt w) (iRm w) (laneBits k i) (iSat w) (fmt32.decode (elemOf 32 (k.qr (iC w)) i))) := by
  simp only [contribElems, hf, if_true]

/-- The guard falls before the answer: the contribution stands, and RESUME says that it was made (14 R321). -/
theorem execReelContrib_cut (H : Issues s slot c stall t (0x60, 0) p w u k) (ho : u.ctxOwner slot c = some p) (hb : ¬ contribBad k w)
    (hh : u.reached (u.contribHome (k.gr (iA w)).toNat (fld (k.gr (iB w)).toNat 31 0)) p = false) :
    exec (.reelContrib slot c stall true t) s = .next ((u.contribAnswer k p w ((contribElems k w).map (·.1))).2.setCtx slot c
      { (u.contribAnswer k p w ((contribElems k w).map (·.1))).2.ctx slot c with resume := some (0x60, 2, 0) }) := by
  change execReelContrib slot c stall true t s = _
  rw [execReelContrib, H.held]
  refine (if_neg hb).trans ?_
  simp only [ho, hh, Bool.false_eq_true, if_false, if_true]
  rfl

theorem execReelContrib_answered (H : Issues s slot c stall t (0x60, 0) p w u k) (ho : u.ctxOwner slot c = some p)
    (hb : ¬ contribBad k w) (hn : k.resume = none)
    (hh : u.reached (u.contribHome (k.gr (iA w)).toNat (fld (k.gr (iB w)).toNat 31 0)) p = false)
    {r : Answer × State} (hr : u.contribAnswer k p w ((contribElems k w).map (·.1)) = r)
    (hst : r.1.st = Code.ok ∨ r.1.st = Code.windowClosed) :
    exec (.reelContrib slot c stall false t) s = .next ((if iFunc w = 1 then
        (contribReported r slot c w).tally slot c w ((contribElems k w).map (·.2)) true
      else contribReported r slot c w).goesOn slot c (k.pc + 8)) := by
  change execReelContrib slot c stall false t s = _
  rw [execReelContrib, H.next (by decide)]
  refine (if_neg hb).trans ?_
  unfold State.contribAnswer contribElems at hr
  simp only [ho, hh, hn, hr, hst, Bool.false_eq_true, if_false, false_and, if_true, contribReported, contribElems, Nat.add_assoc]

end

/-- Settles O53: each message by the branch of its instruction that its hypotheses select; the elements of a CONTRIB are those of its
form. -/
theorem reelMessages : Obligations.ReelMessages := by
  refine ⟨?dbell, ?recv, ?ack, fun s slot c => State.wakeMbx_loaded,
    RegRule.intro .mbxsend (0x75, 0) _ (by decide) fun _ _ _ _ _ => rfl, ?contrib⟩
  case dbell =>
    intro s slot c stall t p w u k H ho a port
    exact ⟨execDbell_reserved H rfl, execDbell_rings H ho rfl, execDbell_not_bound H ho rfl⟩
  case recv =>
    exact fun s slot c stall t p w u k H => ⟨execMbxrecv_polls H, execMbxrecv_waits H, fun m rest => execMbxrecv_takes H⟩
  case ack =>
    intro s slot c stall t p w u k H
    refine ⟨execMbxack_acks H, fun b n ret ht hret => ?_⟩
    subst hret
    exact execMbxack_answers H ht
  case contrib =>
    intro s slot c stall t p w u k H ho a b f n bad
    refine ⟨execReelContrib_bad H, fun hb hf hn hh => ?_, fun hb hf hn hh => ?_⟩
    · intro codes r
      have hr : u.contribAnswer k p w ((contribElems k w).map (·.1)) = r :=
        congrArg (u.contribAnswer k p w) (contribElems_codes_of_registers hf)
      refine ⟨fun hst => ?_, ?_⟩
      · rw [execReelContrib_answered H ho hb hn hh hr hst, if_neg (by omega), contribReported]
      · rw [execReelContrib_cut H ho hb hh, hr]
    · intro conv r hst
      have hconv : contribElems k w = conv := contribElems_of_accumulator hf
      have hr : u.contribAnswer k p w ((contribElems k w).map (·.1)) = r := by
        rw [hconv]
        rfl
      rw [execReelContrib_answered H ho hb hn hh hr hst, if_pos hf, hconv, contribReported]

end Sys2Proof.Machine

namespace Sys2Proof.Machine

/-- Every command completes and keeps the queue, the fuses and the canonical form of memory. -/
theorem exec_keep (c : Instr) (s : State) : ∃ t, exec c s = .next t ∧ Keep s t := by
  cases c with
  | slate ptp => exact execSlate_keep ptp s
  | slateGuard uj => exact execSlateGuard_keep uj s
  | slateTreeSilent => exact execSlateTreeSilent_keep s
  | slateInEdge off spacing => exact execSlateInEdge_keep off spacing s
  | slateInSourceLost => exact execSlateInSourceLost_keep s
  | slateInReacquire phase => exact execSlateInReacquire_keep phase s
  | ptpSync port dom best offset => exact execPtpSync_keep port dom best offset s
  | ptpLocked => exact execPtpLocked_keep s
  | ptpHoldover => exact execPtpHoldover_keep s
  | slateSourceWrite sess seq v t => exact execSlateSourceWrite_keep sess seq v t s
  | frameNumberLoad sess seq v t => exact execFrameNumberLoad_keep sess seq v t s
  | takeStageOpen sess seq v t => exact execTakeStageOpen_keep sess seq v t s
  | takeStageClose sess seq v t => exact execTakeStageClose_keep sess seq v t s
  | takeCommit sess seq v t => exact execTakeCommit_keep sess seq v t s
  | takeAbort sess seq v t => exact execTakeAbort_keep sess seq v t s
  | takeArmPoint acked => exact execTakeArmPoint_keep acked s
  | continuityTakeCommit t => exact execContinuityTakeCommit_keep t s
  | fecBlockDecode p bad => exact execFecBlockDecode_keep p bad s
  | lossOfLock p => exact execLossOfLock_keep p s
  | rxTransportCell p hdr payload crcOk tagOk noise t => exact execRxTransportCell_keep p hdr payload crcOk tagOk noise t s
  | rxKeyMark p hdr crcOk tagOk => exact execRxKeyMark_keep p hdr crcOk tagOk s
  | rxIdleCell p hdr payload crcOk tagOk => exact execRxIdleCell_keep p hdr payload crcOk tagOk s
  | rxReplayReq p hdr payload crcOk tagOk => exact execRxReplayReq_keep p hdr payload crcOk tagOk s
  | rxCreditSync p hdr payload crcOk tagOk => exact execRxCreditSync_keep p hdr payload crcOk tagOk s
  | rxSpliceReq p hdr payload crcOk tagOk => exact execRxSpliceReq_keep p hdr payload crcOk tagOk s
  | rxSpliceAck p hdr payload crcOk tagOk => exact execRxSpliceAck_keep p hdr payload crcOk tagOk s
  | rxSplicePause p hdr payload crcOk tagOk => exact execRxSplicePause_keep p hdr payload crcOk tagOk s
  | rxReservedCtype p hdr crcOk => exact execRxReservedCtype_keep p hdr crcOk s
  | tagFailureLimit p => exact execTagFailureLimit_keep p s
  | reservedCtypeLimit p => exact execReservedCtypeLimit_keep p s
  | txSequencedCell p vc => exact execTxSequencedCell_keep p vc s
  | replayTimeout p => exact execReplayTimeout_keep p s
  | replayResendLimit p => exact execReplayResendLimit_keep p s
  | replayReqHoldoff p => exact execReplayReqHoldoff_keep p s
  | creditRefresh p vc => exact execCreditRefresh_keep p vc s
  | keyPhaseFlip p => exact execKeyPhaseFlip_keep p s
  | rekeyLimit p => exact execRekeyLimit_keep p s
  | laneMarkedBad p lane => exact execLaneMarkedBad_keep p lane s
  | uncorrLimitExceeded p => exact execUncorrLimitExceeded_keep p s
  | spliceCmdWidth sess seq p width speed mask t => exact execSpliceCmdWidth_keep sess seq p width speed mask t s
  | spliceCmdRecalibrate sess seq p width speed mask t => exact execSpliceCmdRecalibrate_keep sess seq p width speed mask t s
  | spliceCmdSpeed sess seq p width speed mask t => exact execSpliceCmdSpeed_keep sess seq p width speed mask t s
  | spliceCmdDegrade sess seq p width speed mask t => exact execSpliceCmdDegrade_keep sess seq p width speed mask t s
  | trainingStateAdvance p words ask => exact execTrainingStateAdvance_keep p words ask s
  | ts4CountdownEnd p word polarity us peer t => exact execTs4CountdownEnd_keep p word polarity us peer t s
  | spliceResponseTimeout p => exact execSpliceResponseTimeout_keep p s
  | spliceBoundExceeded p us => exact execSpliceBoundExceeded_keep p us s
  | lockHoldExpiry p => exact execLockHoldExpiry_keep p s
  | linkUpFailed p => exact execLinkUpFailed_keep p s
  | failedPortRetry p => exact execFailedPortRetry_keep p s
  | rxReservedOpcode port op h t => exact execRxReservedOpcode_keep port op h t s
  | read port h addr len noise t => exact execRead_keep port h addr len noise t s
  | write port h addr data noise t => exact execWrite_keep port h addr data noise t s
  | atomic port h addr op size a b noise t => exact execAtomic_keep port h addr op size a b noise t s
  | fence port h t => exact execFence_keep port h t s
  | fenceRelease port id noise t => exact execFenceRelease_keep port id noise t s
  | heartbeat port h t => exact execHeartbeat_keep port h t s
  | poolOpFill port h addr len plen pat t => exact execPoolOpFill_keep port h addr len plen pat t s
  | poolOpCopy port h dst src len t => exact execPoolOpCopy_keep port h dst src len t s
  | poolOpCompare port h a b len t => exact execPoolOpCompare_keep port h a b len t s
  | poolOpReduce port h fmt func addr len t => exact execPoolOpReduce_keep port h fmt func addr len t s
  | poolOpDequeue slot p => exact execPoolOpDequeue_keep slot p s
  | stagingBufferGrant slot => exact execStagingBufferGrant_keep slot s
  | poolOpWindowComplete port id w slot => exact execPoolOpWindowComplete_keep port id w slot s
  | poolOpComplete port id => exact execPoolOpComplete_keep port id s
  | publish port h region staging base t => exact execPublish_keep port h region staging base t s
  | publishDeferredStart p g t => exact execPublishDeferredStart_keep p g t s
  | publishFlipComplete p g => exact execPublishFlipComplete_keep p g s
  | publishQuery port h region t => exact execPublishQuery_keep port h region t s
  | contrib port h comp contributor count offset fmt data t => exact execContrib_keep port h comp contributor count offset fmt data t s
  | rdShared port h addr t => exact execRdShared_keep port h addr t s
  | rdOwn port h addr t => exact execRdOwn_keep port h addr t s
  | upgrade port h addr t => exact execUpgrade_keep port h addr t s
  | dirtyNotify port h addr t => exact execDirtyNotify_keep port h addr t s
  | writeback port h addr line t => exact execWriteback_keep port h addr line t s
  | evictClean port h addr t => exact execEvictClean_keep port h addr t s
  | fwdAck port h outcome kept line t => exact execFwdAck_keep port h outcome kept line t s
  | backInvalAck port h line t => exact execBackInvalAck_keep port h line t s
  | uncachedRecallComplete ln t => exact execUncachedRecallComplete_keep ln t s
  | dirEvictionComplete ln t => exact execDirEvictionComplete_keep ln t s
  | cohGraceExpiry b => exact execCohGraceExpiry_keep b s
  | awaitedWritebackTimeout ln => exact execAwaitedWritebackTimeout_keep ln s
  | invalidateReq port h ctx start len t => exact execInvalidateReq_keep port h ctx start len t s
  | invalidateDrainComplete port id => exact execInvalidateDrainComplete_keep port id s
  | pairWrite port h pair offset data t => exact execPairWrite_keep port h pair offset data t s
  | pairWriteResp port h t => exact execPairWriteResp_keep port h t s
  | pairResyncSend n tile t => exact execPairResyncSend_keep n tile t s
  | doorbell port h index value t => exact execDoorbell_keep port h index value t s
  | doorbellResp port h t => exact execDoorbellResp_keep port h t s
  | notifyAck port h t => exact execNotifyAck_keep port h t s
  | windowRead port h off len t => exact execWindowRead_keep port h off len t s
  | windowWrite port h off data t => exact execWindowWrite_keep port h off data t s
  | mgmt port h magic ver p ecdsaOk mldsaOk t => exact execMgmt_keep port h magic ver p ecdsaOk mldsaOk t s
  | mgmtResp port h t => exact execMgmtResp_keep port h t s
  | homeRecheck port id noise t => exact execHomeRecheck_keep port id noise t s
  | inboundQueueDispatch port p t => exact execInboundQueueDispatch_keep port p t s
  | partReqTimeout port dst tag epoch t => exact execPartReqTimeout_keep port dst tag epoch t s
  | completionCacheExpiry port => exact execCompletionCacheExpiry_keep port s
  | meshMessageComplete k bufs t => exact execMeshMessageComplete_keep k bufs t s
  | throttleEnter tile req rsp sreq srsp t => exact execThrottleEnter_keep tile req rsp sreq srsp t s
  | throttleLeave tile req rsp sreq srsp t => exact execThrottleLeave_keep tile req rsp sreq srsp t s
  | meshHeaderDoubleError tile => exact execMeshHeaderDoubleError_keep tile s
  | cryptoErase dxn => exact execCryptoErase_keep dxn s
  | keyDraw dxn => exact execKeyDraw_keep dxn s
  | leaseLate b => exact execLeaseLate_keep b s
  | leaseExpiry b => exact execLeaseExpiry_keep b s
  | leaseReclaimComplete b => exact execLeaseReclaimComplete_keep b s
  | deviceExtentQuarantineEnd dxn => exact execDeviceExtentQuarantineEnd_keep dxn s
  | dirProbe sess seq part va t => exact execDirProbe_keep sess seq part va t s
  | stackBurstPick tile pc k ready => exact execStackBurstPick_keep tile pc k ready s
  | perBankRefresh tile pc bank t => exact execPerBankRefresh_keep tile pc bank t s
  | targetedRefresh tile pc bank t => exact execTargetedRefresh_keep tile pc bank t s
  | hammerThrottleStart tile p => exact execHammerThrottleStart_keep tile p s
  | hammerThrottleEnd tile p => exact execHammerThrottleEnd_keep tile p s
  | powerDownEntry tile pc t => exact execPowerDownEntry_keep tile pc t s
  | trainReadEye sess seq tile v t => exact execTrainReadEye_keep sess seq tile v t s
  | trainWriteEye sess seq tile v t => exact execTrainWriteEye_keep sess seq tile v t s
  | trainCommandAddress sess seq tile v t => exact execTrainCommandAddress_keep sess seq tile v t s
  | trainVerify sess seq tile v t => exact execTrainVerify_keep sess seq tile v t s
  | trainStepComplete tile errs mid dur => exact execTrainStepComplete_keep tile errs mid dur s
  | retrainReq sess seq tile v t => exact execRetrainReq_keep sess seq tile v t s
  | retrainStart tile t => exact execRetrainStart_keep tile t s
  | retrainComplete tile ok taps dur => exact execRetrainComplete_keep tile ok taps dur s
  | uncorrectableRetry ln noise t => exact execUncorrectableRetry_keep ln noise t s
  | poisonSignatureWrite ln t => exact execPoisonSignatureWrite_keep ln t s
  | scrubRead tile noise t => exact execScrubRead_keep tile noise t s
  | scrubEnableWrite sess seq v t => exact execScrubEnableWrite_keep sess seq v t s
  | dieRetireWrite sess seq tile v t => exact execDieRetireWrite_keep sess seq tile v t s
  | dieAlertCheck tile => exact execDieAlertCheck_keep tile s
  | testWriteRaw sess seq v t => exact execTestWriteRaw_keep sess seq v t s
  | testWriteEncoded sess seq v t => exact execTestWriteEncoded_keep sess seq v t s
  | testRead sess seq v t => exact execTestRead_keep sess seq v t s
  | testOpExecute noise t => exact execTestOpExecute_keep noise t s
  | fillStart tile => exact execFillStart_keep tile s
  | fillComplete tile ms => exact execFillComplete_keep tile ms s
  | fillTimeout => exact execFillTimeout_keep s
  | relocRelocate sess seq v t => exact execRelocRelocate_keep sess seq v t s
  | relocSelftest sess seq v t => exact execRelocSelftest_keep sess seq v t s
  | relocReturn sess seq v t => exact execRelocReturn_keep sess seq v t s
  | relocAutoStart slot => exact execRelocAutoStart_keep slot s
  | relocPrepareComplete ok => exact execRelocPrepareComplete_keep ok s
  | relocCopyComplete => exact execRelocCopyComplete_keep s
  | relocDrainComplete => exact execRelocDrainComplete_keep s
  | selftestComplete code => exact execSelftestComplete_keep code s
  | stackLost tile => exact execStackLost_keep tile s
  | ringDoorbell port h r v t => exact execRingDoorbell_keep port h r v t s
  | descriptorFetch p r => exact execDescriptorFetch_keep p r s
  | translateResp port h body t => exact execTranslateResp_keep port h body t s
  | pageResp port h t => exact execPageResp_keep port h t s
  | moverChunkStart slot engine t => exact execMoverChunkStart_keep slot engine t s
  | moveWriteResp port h t => exact execMoveWriteResp_keep port h t s
  | moveReadResp port h data t => exact execMoveReadResp_keep port h data t s
  | moverTaskComplete p r slab => exact execMoverTaskComplete_keep p r slab s
  | completionRecordAck p r slab => exact execCompletionRecordAck_keep p r slab s
  | ringHaltComplete p r => exact execRingHaltComplete_keep p r s
  | ringRestart port h r v t => exact execRingRestart_keep port h r v t s
  | slabProbe sess seq v t => exact execSlabProbe_keep sess seq v t s
  | go port h v t => exact execGo_keep port h v t s
  | cycleBudgetExhausted slot ctx t => exact execCycleBudgetExhausted_keep slot ctx t s
  | barrierArrival slot ctx => exact execBarrierArrival_keep slot ctx s
  | barrierRelease slot ctx => exact execBarrierRelease_keep slot ctx s
  | postedStoreRefusal slot ctx => exact execPostedStoreRefusal_keep slot ctx s
  | contextClear port h v t => exact execContextClear_keep port h v t s
  | eventConsumed port h v t => exact execEventConsumed_keep port h v t s
  | illegalInstruction slot ctx stall t => exact execIllegalInstruction_keep slot ctx stall t s
  | add slot ctx stall t => exact execAdd_keep slot ctx stall t s
  | sub slot ctx stall t => exact execSub_keep slot ctx stall t s
  | mul slot ctx stall t => exact execMul_keep slot ctx stall t s
  | mulhu slot ctx stall t => exact execMulhu_keep slot ctx stall t s
  | and slot ctx stall t => exact execAnd_keep slot ctx stall t s
  | or slot ctx stall t => exact execOr_keep slot ctx stall t s
  | xor slot ctx stall t => exact execXor_keep slot ctx stall t s
  | shl slot ctx stall t => exact execShl_keep slot ctx stall t s
  | shr slot ctx stall t => exact execShr_keep slot ctx stall t s
  | sar slot ctx stall t => exact execSar_keep slot ctx stall t s
  | slt slot ctx stall t => exact execSlt_keep slot ctx stall t s
  | sltu slot ctx stall t => exact execSltu_keep slot ctx stall t s
  | li slot ctx stall t => exact execLi_keep slot ctx stall t s
  | lih slot ctx stall t => exact execLih_keep slot ctx stall t s
  | br slot ctx stall t => exact execBr_keep slot ctx stall t s
  | jal slot ctx stall t => exact execJal_keep slot ctx stall t s
  | jr slot ctx stall t => exact execJr_keep slot ctx stall t s
  | sopen slot ctx stall t => exact execSopen_keep slot ctx stall t s
  | sclose slot ctx stall t => exact execSclose_keep slot ctx stall t s
  | spos slot ctx stall t => exact execSpos_keep slot ctx stall t s
  | srd slot ctx stall t => exact execSrd_keep slot ctx stall t s
  | srdx slot ctx stall t => exact execSrdx_keep slot ctx stall t s
  | tldg slot ctx stall dbl t => exact execTldg_keep slot ctx stall dbl t s
  | tstg slot ctx stall t => exact execTstg_keep slot ctx stall t s
  | tldv slot ctx stall dbl t => exact execTldv_keep slot ctx stall dbl t s
  | tstv slot ctx stall t => exact execTstv_keep slot ctx stall t s
  | tldq slot ctx stall dbl t => exact execTldq_keep slot ctx stall dbl t s
  | tstq slot ctx stall t => exact execTstq_keep slot ctx stall t s
  | tldm slot ctx stall dbl t => exact execTldm_keep slot ctx stall dbl t s
  | tstm slot ctx stall t => exact execTstm_keep slot ctx stall t s
  | pldg slot ctx stall t => exact execPldg_keep slot ctx stall t s
  | pstg slot ctx stall t => exact execPstg_keep slot ctx stall t s
  | pstv slot ctx stall t => exact execPstv_keep slot ctx stall t s
  | vadd slot ctx stall t => exact execVadd_keep slot ctx stall t s
  | vsub slot ctx stall t => exact execVsub_keep slot ctx stall t s
  | vmul slot ctx stall t => exact execVmul_keep slot ctx stall t s
  | vfma slot ctx stall t => exact execVfma_keep slot ctx stall t s
  | vmin slot ctx stall t => exact execVmin_keep slot ctx stall t s
  | vmax slot ctx stall t => exact execVmax_keep slot ctx stall t s
  | vand slot ctx stall t => exact execVand_keep slot ctx stall t s
  | vor slot ctx stall t => exact execVor_keep slot ctx stall t s
  | vxor slot ctx stall t => exact execVxor_keep slot ctx stall t s
  | vcmpEq slot ctx stall t => exact execVcmpEq_keep slot ctx stall t s
  | vcmpNe slot ctx stall t => exact execVcmpNe_keep slot ctx stall t s
  | vcmpLt slot ctx stall t => exact execVcmpLt_keep slot ctx stall t s
  | vcmpLe slot ctx stall t => exact execVcmpLe_keep slot ctx stall t s
  | vsel slot ctx stall t => exact execVsel_keep slot ctx stall t s
  | vbcast slot ctx stall t => exact execVbcast_keep slot ctx stall t s
  | vmov slot ctx stall t => exact execVmov_keep slot ctx stall t s
  | qrd slot ctx stall t => exact execQrd_keep slot ctx stall t s
  | qwr slot ctx stall t => exact execQwr_keep slot ctx stall t s
  | qzero slot ctx stall t => exact execQzero_keep slot ctx stall t s
  | mopAnd slot ctx stall t => exact execMopAnd_keep slot ctx stall t s
  | mopOr slot ctx stall t => exact execMopOr_keep slot ctx stall t s
  | mopXor slot ctx stall t => exact execMopXor_keep slot ctx stall t s
  | mopAndNot slot ctx stall t => exact execMopAndNot_keep slot ctx stall t s
  | mset slot ctx stall t => exact execMset_keep slot ctx stall t s
  | mfs slot ctx stall rows t => exact execMfs_keep slot ctx stall rows t s
  | mfsTransposed slot ctx stall rows t => exact execMfsTransposed_keep slot ctx stall rows t s
  | sfnExp2 slot ctx stall t => exact execSfnExp2_keep slot ctx stall t s
  | sfnLog2 slot ctx stall t => exact execSfnLog2_keep slot ctx stall t s
  | sfnReciprocal slot ctx stall t => exact execSfnReciprocal_keep slot ctx stall t s
  | sfnRsqrt slot ctx stall t => exact execSfnRsqrt_keep slot ctx stall t s
  | sfnTanh slot ctx stall t => exact execSfnTanh_keep slot ctx stall t s
  | vcvt slot ctx stall t => exact execVcvt_keep slot ctx stall t s
  | vqnt slot ctx stall t => exact execVqnt_keep slot ctx stall t s
  | vdq slot ctx stall t => exact execVdq_keep slot ctx stall t s
  | vredSum slot ctx stall t => exact execVredSum_keep slot ctx stall t s
  | vredMin slot ctx stall t => exact execVredMin_keep slot ctx stall t s
  | vredMax slot ctx stall t => exact execVredMax_keep slot ctx stall t s
  | vredArgmax slot ctx stall t => exact execVredArgmax_keep slot ctx stall t s
  | topk slot ctx stall t => exact execTopk_keep slot ctx stall t s
  | reelContrib slot ctx stall cut t => exact execReelContrib_keep slot ctx stall cut t s
  | bar slot ctx stall t => exact execBar_keep slot ctx stall t s
  | cut slot ctx stall t => exact execCut_keep slot ctx stall t s
  | sysrFrame slot ctx stall t => exact execSysrFrame_keep slot ctx stall t s
  | sysrBudget slot ctx stall t => exact execSysrBudget_keep slot ctx stall t s
  | sysrGuardCycles slot ctx stall t => exact execSysrGuardCycles_keep slot ctx stall t s
  | sysrFpFlags slot ctx stall t => exact execSysrFpFlags_keep slot ctx stall t s
  | sysrSlot slot ctx stall t => exact execSysrSlot_keep slot ctx stall t s
  | sysrContext slot ctx stall t => exact execSysrContext_keep slot ctx stall t s
  | sysrSrCounter slot ctx stall t => exact execSysrSrCounter_keep slot ctx stall t s
  | sysrLaunchTag slot ctx stall t => exact execSysrLaunchTag_keep slot ctx stall t s
  | sysrSplitMode slot ctx stall t => exact execSysrSplitMode_keep slot ctx stall t s
  | clrf slot ctx stall t => exact execClrf_keep slot ctx stall t s
  | nop slot ctx stall t => exact execNop_keep slot ctx stall t s
  | dbell slot ctx stall t => exact execDbell_keep slot ctx stall t s
  | mbxrecv slot ctx stall t => exact execMbxrecv_keep slot ctx stall t s
  | mbxack slot ctx stall t => exact execMbxack_keep slot ctx stall t s
  | mbxsend slot ctx stall t => exact execMbxsend_keep slot ctx stall t s
  | endReel slot ctx stall t => exact execEndReel_keep slot ctx stall t s
  | compCreate port h v t => exact execCompCreate_keep port h v t s
  | compExcuse port h v t => exact execCompExcuse_keep port h v t s
  | compClose port h v t => exact execCompClose_keep port h v t s
  | chunkComplete n chunk => exact execChunkComplete_keep n chunk s
  | compositeComplete n => exact execCompositeComplete_keep n s
  | compositeStall n => exact execCompositeStall_keep n s
  | partitionQuarantineEnd p => exact execPartitionQuarantineEnd_keep p s
  | lockRequest sess seq p inc digest t => exact execLockRequest_keep sess seq p inc digest t s
  | unlockRequest sess seq p token t => exact execUnlockRequest_keep sess seq p token t s
  | drbgReseed => exact execDrbgReseed_keep s
  | drbgHealthFailure tile => exact execDrbgHealthFailure_keep tile s
  | spdmGetVersion via source h t => exact execSpdmGetVersion_keep via source h t s
  | spdmGetCapabilities via source h mutAuth t => exact execSpdmGetCapabilities_keep via source h mutAuth t s
  | spdmNegotiateAlgorithms via source h offered t => exact execSpdmNegotiateAlgorithms_keep via source h offered t s
  | spdmGetDigests via source h t => exact execSpdmGetDigests_keep via source h t s
  | spdmGetCertificate via source h slot off len t => exact execSpdmGetCertificate_keep via source h slot off len t s
  | spdmChallenge via source h slot summary tr t => exact execSpdmChallenge_keep via source h slot summary tr t s
  | spdmGetMeasurements via source h index sign slot tr t => exact execSpdmGetMeasurements_keep via source h index sign slot tr t s
  | spdmKeyExchange via source h reqId summary pub ek tr t => exact execSpdmKeyExchange_keep via source h reqId summary pub ek tr t s
  | spdmFinish via source h ok chain root t => exact execSpdmFinish_keep via source h ok chain root t s
  | spdmHeartbeat via source h sess sq macOk t => exact execSpdmHeartbeat_keep via source h sess sq macOk t s
  | spdmKeyUpdate via source h sess sq macOk op t => exact execSpdmKeyUpdate_keep via source h sess sq macOk op t s
  | spdmEndSession via source h sess sq macOk t => exact execSpdmEndSession_keep via source h sess sq macOk t s
  | linkSpdmAttempt p t => exact execLinkSpdmAttempt_keep p t s
  | spdmResponseReceived p h r t => exact execSpdmResponseReceived_keep p h r t s
  | spdmAttemptRetry p t => exact execSpdmAttemptRetry_keep p t s
  | sealRequest sess seq p data t => exact execSealRequest_keep sess seq p data t s
  | sealHashComplete p => exact execSealHashComplete_keep p s
  | debugBscan sess seq v t => exact execDebugBscan_keep sess seq v t s
  | debugCoreDebug sess seq v t => exact execDebugCoreDebug_keep sess seq v t s
  | debugInternalScan sess seq v t => exact execDebugInternalScan_keep sess seq v t s
  | mgmtDatagram n source magic ver p ecdsaOk mldsaOk t => exact execMgmtDatagram_keep n source magic ver p ecdsaOk mldsaOk t s
  | securedMessage via source h sess sq macOk app ecdsaOk mldsaOk t => exact execSecuredMessage_keep via source h sess sq macOk app ecdsaOk mldsaOk t s
  | mgmtNetworkPacket n kind target data => exact execMgmtNetworkPacket_keep n kind target data s
  | fligiferRead sess seq idx sub off n shadow t => exact execFligiferRead_keep sess seq idx sub off n shadow t s
  | fligiferWrite sess seq idx sub off data t => exact execFligiferWrite_keep sess seq idx sub off data t s
  | blockOpen sess seq idx sub off size rd t => exact execBlockOpen_keep sess seq idx sub off size rd t s
  | blockData sess seq id pos len data t => exact execBlockData_keep sess seq id pos len data t s
  | blockCommit sess seq id digest ecdsaOk mldsaOk t => exact execBlockCommit_keep sess seq id digest ecdsaOk mldsaOk t s
  | blockCancel sess seq id t => exact execBlockCancel_keep sess seq id t s
  | firmwareActivate sess seq v t => exact execFirmwareActivate_keep sess seq v t s
  | managerAnchorsWrite sess seq off data t => exact execManagerAnchorsWrite_keep sess seq off data t s
  | subscribe sess seq id parts start t => exact execSubscribe_keep sess seq id parts start t s
  | unsubscribe sess seq id t => exact execUnsubscribe_keep sess seq id t s
  | dailiesDataSend id n => exact execDailiesDataSend_keep id n s
  | dailiesAck sess seq id t => exact execDailiesAck_keep sess seq id t s
  | dailiesResend id => exact execDailiesResend_keep id s
  | sessionIdleTimeout sess => exact execSessionIdleTimeout_keep sess s
  | sessionHeartbeatTimeout sess => exact execSessionHeartbeatTimeout_keep sess s
  | errClear port h v t => exact execErrClear_keep port h v t s
  | mgmtCmdPing b => exact execMgmtCmdPing_keep b s
  | mgmtCmdLease b => exact execMgmtCmdLease_keep b s
  | mgmtCmdTake b => exact execMgmtCmdTake_keep b s
  | pubStateRead port h t => exact execPubStateRead_keep port h t s
  | mbxIn port h slot ctx v t => exact execMbxIn_keep port h slot ctx v t s
  | mbxOutState port h slot ctx v t => exact execMbxOutState_keep port h slot ctx v t s
  | rollupSign m => exact execRollupSign_keep m s
  | sensorSample tile vals t => exact execSensorSample_keep tile vals t s
  | allowanceReached slot p => exact execAllowanceReached_keep slot p s
  | sharedBudgetHalving => exact execSharedBudgetHalving_keep s
  | peakWindowArm => exact execPeakWindowArm_keep s
  | peakWindowExpiry => exact execPeakWindowExpiry_keep s
  | coolantReport sess seq v t => exact execCoolantReport_keep sess seq v t s
  | coolantReportStale => exact execCoolantReportStale_keep s
  | powerOn => exact execPowerOn_keep s
  | brownOut => exact execBrownOut_keep s
  | resetNAssert ns seen => exact execResetNAssert_keep ns seen s
  | coldBoot => exact execColdBoot_keep s
  | fuseReadComplete => exact execFuseReadComplete_keep s
  | pllLock => exact execPllLock_keep s
  | pllLockTimeout => exact execPllLockTimeout_keep s
  | refclkFailure => exact execRefclkFailure_keep s
  | pwrgdLow => exact execPwrgdLow_keep s
  | wresetN ns seen t => exact execWresetN_keep ns seen t s
  | watchdogExpiry t => exact execWatchdogExpiry_keep t s
  | warmResetReq sess seq v t => exact execWarmResetReq_keep sess seq v t s
  | tapWarmReset t => exact execTapWarmReset_keep t s
  | coreLockup t => exact execCoreLockup_keep t s
  | leadHeartbeatMissing t => exact execLeadHeartbeatMissing_keep t s
  | tileReset tile cause => exact execTileReset_keep tile cause s
  | resetNotice tile => exact execResetNotice_keep tile s
  | partitionReset sess seq p t => exact execPartitionReset_keep sess seq p t s
  | resetCauseWrite sess seq v t => exact execResetCauseWrite_keep sess seq v t s
  | smbusTransaction addr code wr data pecOk t => exact execSmbusTransaction_keep addr code wr data pecOk t s
  | vauxLost => exact execVauxLost_keep s
  | mgmtPortLinkChange n up => exact execMgmtPortLinkChange_keep n up s
  | unmatchedResponse port op h t => exact execUnmatchedResponse_keep port op h t s
  | unreceivableRequest port op h t => exact execUnreceivableRequest_keep port op h t s
  | tileStoreMoveComplete t => exact execTileStoreMoveComplete_keep t s
  | bootRomImageStart okA okB => exact execBootRomImageStart_keep okA okB s
  | slateOutFall => exact execSlateOutFall_keep s
  | tapInstruction op => exact execTapInstruction_keep op s
  | rebindScrubComplete kind a b t => exact execRebindScrubComplete_keep kind a b t s

/-- Every step completes, and keeps the fuses and the form of memory; it takes the front command off the queue. -/
theorem step_completes (s : State) :
    ∃ t, step s = .next t ∧ t.pending = s.pending.tail ∧ t.fuses = s.fuses ∧ (s.Inv → t.Inv) := by
  unfold step
  split
  case h_1 hp => exact ⟨s, rfl, by simp [hp], rfl, id⟩
  case h_2 c rest hp =>
    obtain ⟨t, he, hk⟩ := exec_keep c { s with pending := rest }
    exact ⟨t, he, by rw [hk.pending, hp]; rfl, hk.fuses, hk.mem⟩

/-- Settles O3: every command keeps the form of memory (`exec_keep`), and an idle step changes nothing. -/
theorem stepKeepsInv : Obligations.StepKeepsInv := by
  intro s t hs ht
  obtain ⟨u, hu, -, -, hm⟩ := step_completes s
  obtain rfl : u = t := Host.Outcome.next.inj (hu.symm.trans ht)
  exact hm hs

/-- Settles O4: `exec_keep` of the command, and `step_completes` of the step. -/
theorem everyCommandCompletes : Obligations.EveryCommandCompletes := by
  refine ⟨fun c s => ?command, fun s => ?step⟩
  case command =>
    obtain ⟨t, he, hk⟩ := exec_keep c s
    exact ⟨t, he, hk.pending, hk.fuses⟩
  case step =>
    obtain ⟨t, ht, hp, hf, -⟩ := step_completes s
    exact ⟨t, ht, hp, hf⟩

/-- Settles O1: both by the two branches of `step`. -/
theorem stepRunsFrontCommand : Obligations.StepRunsFrontCommand := by
  constructor
  · intro s c rest h
    simp only [step, h]
  · intro s h
    simp only [step, h]

end Sys2Proof.Machine

namespace Sys2Proof.Machine

theorem State.rd_reset (k : Nat) : State.reset.rd k = regDefault {} k := rfl

/-- Settles O2: nothing is listed in the reset state, so each element reads as its default. -/
theorem resetState : Obligations.ResetState := by
  refine ⟨?inv, rfl, rfl, rfl, State.rd_reset, ?take, ?number, ?frame, ?parts, fun _ => rfl, ?image, fun _ => rfl⟩
  case inv => exact ⟨List.Pairwise.nil, fun c hc => absurd hc List.not_mem_nil⟩
  case take => decide
  case number => decide
  case frame => decide
  case parts => decide
  case image => decide

end Sys2Proof.Machine

namespace Sys2Proof.Machine

/-! ### What hearing a message leaves -/

@[simp] theorem State.heard_fl (s : State) (sess t : Nat) : (s.heard sess t).fl = { s.fl with now := t } := by
  rw [State.heard_only]

@[simp] theorem State.heard_regs (s : State) (sess t : Nat) : (s.heard sess t).regs = s.regs := by rw [State.heard_only]
@[simp] theorem State.heard_lag (s : State) (sess t : Nat) : (s.heard sess t).lag = s.lag := by rw [State.heard_only]
@[simp] theorem State.heard_fuses (s : State) (sess t : Nat) : (s.heard sess t).fuses = s.fuses := by rw [State.heard_only]
@[simp] theorem State.heard_take (s : State) (sess t : Nat) : (s.heard sess t).take = s.take := by rw [State.heard_only]
@[simp] theorem State.heard_stackTab (s : State) (sess t : Nat) : (s.heard sess t).stackTab = s.stackTab := by
  rw [State.heard_only]
@[simp] theorem State.heard_test (s : State) (sess t : Nat) : (s.heard sess t).test = s.test := by rw [State.heard_only]
@[simp] theorem State.heard_cont (s : State) (sess t : Nat) : (s.heard sess t).cont = s.cont := by rw [State.heard_only]
@[simp] theorem State.heard_mover (s : State) (sess t : Nat) : (s.heard sess t).mover = s.mover := by rw [State.heard_only]
@[simp] theorem State.heard_dir (s : State) (sess t : Nat) : (s.heard sess t).dir = s.dir := by rw [State.heard_only]
@[simp] theorem State.heard_evicts (s : State) (sess t : Nat) : (s.heard sess t).evicts = s.evicts := by rw [State.heard_only]
@[simp] theorem State.heard_parts (s : State) (sess t : Nat) : (s.heard sess t).parts = s.parts := by rw [State.heard_only]
@[simp] theorem State.heard_secLog (s : State) (sess t : Nat) : (s.heard sess t).secLog = s.secLog := by rw [State.heard_only]
@[simp] theorem State.heard_gaff (s : State) (sess t : Nat) : (s.heard sess t).gaff = s.gaff := by rw [State.heard_only]
@[simp] theorem State.heard_dailies (s : State) (sess t : Nat) : (s.heard sess t).dailies = s.dailies := by
  rw [State.heard_only]
@[simp] theorem State.heard_boot (s : State) (sess t : Nat) : (s.heard sess t).boot = s.boot := by rw [State.heard_only]
@[simp] theorem State.heard_links (s : State) (sess t : Nat) : (s.heard sess t).links = s.links := by rw [State.heard_only]
@[simp] theorem State.heard_free (s : State) (sess t : Nat) : (s.heard sess t).free = s.free := by rw [State.heard_only]

@[simp] theorem State.heard_frame (s : State) (sess t : Nat) : (s.heard sess t).frame = s.frame := State.heard_rd ..
@[simp] theorem State.heard_takeState (s : State) (sess t : Nat) : (s.heard sess t).takeState = s.takeState := State.heard_rd ..

@[simp] theorem State.heard_stack (s : State) (sess t i : Nat) : (s.heard sess t).stack i = s.stack i := by
  simp [State.stack]

/-! ### Live elements left alone -/

theorem State.RegsBut.refl (s : State) (ks : List Nat) : s.RegsBut s ks := fun _ _ => rfl

theorem State.RegsBut.trans {s t u : State} {ks : List Nat} (h : s.RegsBut t ks) (g : t.RegsBut u ks) : s.RegsBut u ks :=
  fun k hk => (g k hk).trans (h k hk)

theorem State.RegsBut.mono {s t : State} {ks ls : List Nat} (h : s.RegsBut t ks) (hs : ks ⊆ ls) : s.RegsBut t ls :=
  fun k hk => h k fun hm => hk (hs hm)

/-- Writing a listed element leaves the others. -/
theorem State.RegsBut.wr {s t : State} {ks : List Nat} {k v : Nat} (h : s.RegsBut t ks) (hk : k ∈ ks) : s.RegsBut (t.wr k v) ks := by
  intro j hj
  rw [State.rd_wr_other _ _ _ _ (by rintro rfl; exact hj hk), h j hj]

theorem State.RegsBut.wrs {ks : List Nat} (l : List (Nat × Nat)) {s t : State} (h : s.RegsBut t ks) (hl : ∀ e ∈ l, e.1 ∈ ks) :
    s.RegsBut (t.wrs l) ks := by
  intro j hj
  rw [State.rd_wrs_other l j (by rintro e he rfl; exact hj (hl e he)), h j hj]

theorem State.RegsBut.count {s t : State} {ks : List Nat} {k n : Nat} (h : s.RegsBut t ks) (hk : k ∈ ks) :
    s.RegsBut (t.count k n) ks := h.wr hk

/-- A state with the same elements and fuses reads as the other does. -/
theorem State.rd_congr {s t : State} (hr : t.regs = s.regs) (hf : t.fuses = s.fuses) (k : Nat) : t.rd k = s.rd k := by
  simp [State.rd, hr, hf]

theorem State.RegsBut.of_regs {s t : State} {ks : List Nat} (hr : t.regs = s.regs) (hf : t.fuses = s.fuses) : s.RegsBut t ks :=
  fun k _ => State.rd_congr hr hf k

/-! ### Writes of an entry of one element -/

/-- The entry `idx`:`sub` is the one-element entry `d` of `n` bytes, stored or acted on when it is written, with no check of its own
beside those of its reserved bits and range. -/
def OneElem (idx sub n : Nat) (d : Desc) : Prop :=
  Dict.find idx sub = some d ∧ idx < 65536 ∧ sub < 256 ∧ n ≤ 3976 ∧ 0 < n ∧ d.esz = n ∧ d.count = 1 ∧ d.lsb = false ∧
  (d.acc = 2 ∨ d.acc = 4) ∧ (d.base ≠ 0x2400 ∨ sub ≠ 0x0A) ∧ (idx ≠ 0x7801 ∨ sub ≠ 1)


/-- A MANAGER's write of such an entry has the effect and the status of `writeEffect`. -/
theorem State.regWrite_effect {s w : State} {sess seq idx sub n v t st : Nat} {d : Desc} (hM : Manages s sess seq)
    (hE : OneElem idx sub n d) (hv : v < 2 ^ (8 * n)) (hr : reservedIn d v = false) (hi : (s.heard sess t).inRange d idx v = true)
    (he : (s.heard sess t).writeEffect sess d idx (toBE n v) [(0, v)] t = (st, w)) :
    s.regWrite sess seq idx sub 0 (toBE n v) t = w.wrote sess seq st t := by
  obtain ⟨hd, h1, h2, h3, hn, hs, hc, hb, ha, hx, hy⟩ := hE
  rw [State.regWrite_one s sess seq idx sub n v t d hM hd h1 h2 h3 hn hs hc hb ha hv hr hi hx hy, he]


end Sys2Proof.Machine

namespace Sys2Proof.Machine

/-! ### The frame and take controls -/

section
variable {s : State} {sess seq v t : Nat}

theorem execSlateSourceWrite_effect (hM : Manages s sess seq) (hv : v ≤ 2) :
    exec (.slateSourceWrite sess seq v t) s = .next (((s.heard sess t).sourceWrite v).wrote sess seq Code.ok t) :=
  congrArg _ (State.regWrite_effect (d := ⟨0x2001, 1, 0x01, 2, 2, 1, 1, false, 0, 0, 0⟩) hM (by unfold OneElem; decide)
    (by omega) (by simp [reservedIn]; omega) rfl rfl)

theorem execFrameNumberLoad_effect (hM : Manages s sess seq) (hv : v < 2 ^ 64) :
    exec (.frameNumberLoad sess seq v t) s = .next (((s.heard sess t).frameLoad v).wrote sess seq Code.ok t) :=
  congrArg _ (State.regWrite_effect (d := ⟨0x2001, 1, 0x06, 5, 4, 1, 8, false, 0, 0, 0⟩) hM (by unfold OneElem; decide)
    hv rfl rfl rfl)

theorem execTakeStageOpen_effect (hM : Manages s sess seq) (hv : v < 2 ^ 32) {st : Nat} {w : State}
    (he : (s.heard sess t).stageOpen sess v = (st, w)) :
    exec (.takeStageOpen sess seq v t) s = .next (w.wrote sess seq st t) :=
  congrArg _ (State.regWrite_effect (d := ⟨0x2010, 1, 0x01, 4, 4, 1, 4, false, 0, 0, 0⟩) hM (by unfold OneElem; decide)
    hv rfl rfl he)

theorem execTakeStageClose_effect (hM : Manages s sess seq) {st : Nat} {w : State}
    (he : (s.heard sess t).stageClose sess 1 = (st, w)) :
    exec (.takeStageClose sess seq 1 t) s = .next (w.wrote sess seq st t) :=
  congrArg _ (State.regWrite_effect (v := 1) (t := t) (d := ⟨0x2010, 1, 0x02, 1, 4, 1, 1, false, 0, 0, 0⟩) hM (by unfold OneElem; decide)
    (by decide) rfl rfl he)

theorem execTakeCommit_effect (hM : Manages s sess seq) {st : Nat} {w : State}
    (he : (s.heard sess t).commit sess 1 = (st, w)) :
    exec (.takeCommit sess seq 1 t) s = .next (w.wrote sess seq st t) :=
  congrArg _ (State.regWrite_effect (d := ⟨0x2010, 1, 0x05, 1, 4, 1, 1, false, 0, 0, 0⟩) hM (by unfold OneElem; decide)
    (by decide) rfl rfl he)

theorem execTakeAbort_effect (hM : Manages s sess seq) {st : Nat} {w : State}
    (he : (s.heard sess t).takeAbort 1 = (st, w)) :
    exec (.takeAbort sess seq 1 t) s = .next (w.wrote sess seq st t) :=
  congrArg _ (State.regWrite_effect (v := 1) (t := t) (d := ⟨0x2010, 1, 0x06, 1, 4, 1, 1, false, 0, 0, 0⟩) hM (by unfold OneElem; decide)
    (by decide) rfl rfl he)

end

/-- A take that goes back to IDLE leaves everything but the take control and the two registers that show it. -/
theorem State.takeIdle_spec (s : State) :
    s.takeIdle.rd K.takeState = 0 ∧ s.takeIdle.rd K.takePendingFrame = 0 ∧
    s.takeIdle.take = { s.take with session := none, staged := [], stale := none, cont := none, tokens := [], target := 0 } ∧
    s.RegsBut s.takeIdle [K.takeState, K.takePendingFrame] ∧
    s.takeIdle = { s with regs := s.takeIdle.regs, take := s.takeIdle.take } := by
  refine ⟨?_, State.rd_wr_same .., rfl, ?_, rfl⟩
  · exact (State.rd_wr_other _ _ _ _ (by decide)).trans (State.rd_wr_same ..)
  · exact State.RegsBut.wrs _ (State.RegsBut.refl s _) (by simp)

/-- What TAKE_PENDING_FRAME shows follows the pending take; nothing else is touched. -/
theorem State.showPending_spec (s : State) :
    s.RegsBut s.showPending [K.takePendingFrame] ∧ s.showPending = { s with regs := s.showPending.regs } ∧
    (s.takeState ≠ 2 → s.takeState ≠ 3 → s.showPending = s) := by
  unfold State.showPending
  split
  case isTrue h => exact ⟨(State.RegsBut.refl s _).wr (by simp), rfl, fun h2 => absurd h h2⟩
  split
  case isTrue h => exact ⟨(State.RegsBut.refl s _).wr (by simp), rfl, fun _ h3 => absurd h h3⟩
  case isFalse => exact ⟨State.RegsBut.refl s _, rfl, fun _ _ => rfl⟩

theorem State.sourceWrite_eq (s : State) (v : Nat) : s.sourceWrite v =
    (({ s with fl := { s.fl with
        ptpGood := 0, ptpTime := false, edgeSeen := false, missed := 0, regained := 0, slew := 0, stretching := none
        aligning := decide (v ≠ 0) } } : State).wr K.slateSource v).wr K.frameStatus
      (setFld (setFld (s.rd K.frameStatus) 5 2 (if v = 0 then 0 else 1)) 1 0 v) := by
  have h : ((s.wr K.slateSource v).rd K.frameStatus) = s.rd K.frameStatus := State.rd_wr_other _ _ _ _ (by decide)
  unfold State.sourceWrite
  rw [← h]
  rfl

/-- Settles O5: each write's effect (`regWrite_effect`) is that of its control in Frames and Takes. -/
theorem frameAndTakeWrites : Obligations.FrameAndTakeWrites := by
  refine ⟨fun s sess seq v t hM => ⟨?source, ?load⟩, fun s sess seq v t hM => ⟨?openStage, ?close, ?abort, ?armed⟩⟩
  case source =>
    intro hv
    rw [execSlateSourceWrite_effect hM hv, State.sourceWrite_eq, State.heard_rd, State.heard_fl]
  case load =>
    intro hv
    obtain ⟨hregs, hrest, hidle⟩ := State.showPending_spec ((s.heard sess t).updFl (fun f => { f with loadPending := some v }))
    refine ⟨_, execFrameNumberLoad_effect hM hv, ?_, hregs, fun h2 h3 => ?_, hrest.trans ?_⟩
    · rw [State.frameLoad, hrest]
      simp [State.updFl]
    · rw [State.frameLoad, hidle]
      · simp [State.updFl]
      · exact fun h => h2 ((State.heard_takeState ..).symm.trans h)
      · exact fun h => h3 ((State.heard_takeState ..).symm.trans h)
    · rw [State.frameLoad]
      conv =>
        rhs
        rw [hrest]
      rfl
  case openStage =>
    intro hs hb hv
    refine execTakeStageOpen_effect hM hv ?_
    simp [State.stageOpen, hs, ← hb, State.setTake]
  case close =>
    intro hs ho
    have he : (s.heard sess t).stageClose sess 1 = (Code.ok, (s.heard sess t).takeIdle) := by
      simp [State.stageClose, State.stager, hs, ho]
    obtain ⟨h0, hp, ht, hr, hw⟩ := State.takeIdle_spec (s.heard sess t)
    exact ⟨_, execTakeStageClose_effect hM he, h0, hp, by rw [ht, State.heard_take], hr, hw⟩
  case abort =>
    intro hs
    have he : (s.heard sess t).takeAbort 1 = (Code.ok, (s.heard sess t).takeIdle) := by
      simp [State.takeAbort, hs]
    obtain ⟨h0, hp, ht, hr, hw⟩ := State.takeIdle_spec (s.heard sess t)
    exact ⟨_, execTakeAbort_effect hM he, h0, hp, by rw [ht, State.heard_take], hr, hw⟩
  case armed =>
    intro hs
    exact execTakeAbort_effect hM (by simp [State.takeAbort, hs])

end Sys2Proof.Machine

namespace Sys2Proof.Machine

/-! ### The slate sources (02 R33 to R35) -/

theorem State.updFl_updFl (s : State) (f g : FrameLogic → FrameLogic) : (s.updFl f).updFl g = s.updFl (fun x => g (f x)) := rfl

theorem State.updFl_setStatus (s : State) (f : FrameLogic → FrameLogic) (hi lo v : Nat) :
    (s.updFl f).setStatus hi lo v = (s.setStatus hi lo v).updFl f := rfl

theorem State.align_eq (s : State) (e : Int) : s.align e = s.updFl (fun f => f.aligned e) := by
  unfold State.align
  split
  case isTrue h => simp only [State.updFl, FrameLogic.aligned, if_pos h]
  case isFalse h => simp only [State.updFl, FrameLogic.aligned, if_neg h]

@[simp] theorem State.setStatus_rd (s : State) (hi lo v : Nat) :
    (s.setStatus hi lo v).rd K.frameStatus = setFld (s.rd K.frameStatus) hi lo v := State.rd_wr_same ..

/-- The phase after a Sync of the port and domain selected: aligned anew if `again`, else slewed. -/
def FrameLogic.synced (f : FrameLogic) (again : Bool) (off : Int) : FrameLogic :=
  { (if again = true then f.aligned off else if f.stretching.isSome then f else { f with slew := off } : FrameLogic) with
    ptpTime := true, ptpGood := if off.natAbs < 1000 then f.ptpGood + 1 else 0 }

theorem FrameLogic.ptpGood_correction (f : FrameLogic) (again : Bool) (off : Int) :
    (if again = true then f.aligned off else if f.stretching.isSome then f else { f with slew := off } : FrameLogic).ptpGood
      = f.ptpGood := by
  split
  · rfl
  · split <;> rfl

/-- A Sync that the part takes ends a holdover and corrects the phase; one of 1 us or more ends the lock. -/
theorem State.ptpSync_taken (s : State) (port dom : Nat) (best : Bool) (off : Int) (hm : s.rd K.slateSource = 1)
    (hd : dom = s.rd K.ptpDomain) (ht : s.ptpTakes port best = true) :
    s.ptpSync port dom best off =
      (if off.natAbs < 1000 then s.setStatus 5 5 0 else (s.setStatus 5 5 0).setStatus 3 2 1).updFl
        (fun f => f.synced (s.fl.aligning || bit (s.rd K.frameStatus) 5) off) := by
  have correct : ∀ (u : State) (again : Bool),
      (if again = true then u.align off else if u.fl.stretching.isSome then u else u.updFl (fun f => { f with slew := off })) =
        u.updFl (fun f => if again = true then f.aligned off else if f.stretching.isSome then f else { f with slew := off }) := by
    intro u again
    split
    · exact State.align_eq ..
    · split <;> simp_all [State.updFl]
  unfold State.ptpSync
  simp only [State.ptpMode, hm, hd, ht, decide_true, Bool.not_true, Bool.false_eq_true, ne_eq, not_true, or_false, if_false, correct,
    State.updFl_updFl, FrameLogic.ptpGood_correction, State.updFl_setStatus, decide_eq_true_eq]
  split
  case isTrue h => simp only [FrameLogic.synced, if_pos h]
  case isFalse h => simp only [FrameLogic.synced, if_neg h]

section
variable {s : State} {off : Int} {spacing : Nat}

theorem State.slateInMode_eq (hm : s.rd K.slateSource = 2) : s.slateInMode = true := decide_eq_true hm

theorem execSlateInEdge_aligns (hm : s.rd K.slateSource = 2) (hl : s.sourceLost = false) (ha : s.fl.aligning = true) :
    exec (.slateInEdge off spacing) s = .next { s with fl := { s.fl.aligned off with edgeSeen := true, missed := 0 } } := by
  change Host.Outcome.next (s.slateInEdge off spacing) = _
  rw [State.slateInEdge, if_neg (by simp [State.slateInMode_eq hm]), if_neg (by simp [hl]), if_pos ha, State.align_eq]
  rfl

theorem execSlateInEdge_within (hm : s.rd K.slateSource = 2) (hl : s.sourceLost = false) (ha : s.fl.aligning = false)
    (hw : off.natAbs ≤ s.rd K.slateInWindow) :
    exec (.slateInEdge off spacing) s = .next { s with fl := { s.fl with edgeSeen := true, slew := off, missed := 0 } } := by
  change Host.Outcome.next (s.slateInEdge off spacing) = _
  rw [State.slateInEdge, if_neg (by simp [State.slateInMode_eq hm]), if_neg (by simp [hl]), if_neg (by simp [ha]), if_pos hw]
  rfl

theorem execSlateInEdge_outside (hm : s.rd K.slateSource = 2) (hl : s.sourceLost = false) (ha : s.fl.aligning = false)
    (hw : s.rd K.slateInWindow < off.natAbs) : exec (.slateInEdge off spacing) s =
      .next { s.count K.missedSlateCount 1 with fl := { s.fl with edgeOut := true } } := by
  change Host.Outcome.next (s.slateInEdge off spacing) = _
  rw [State.slateInEdge, if_neg (by simp [State.slateInMode_eq hm]), if_neg (by simp [hl]), if_neg (by simp [ha]),
    if_neg (Nat.not_le.2 hw)]
  rfl

/-- While the source is lost an edge counts if it is spaced rightly, else the count begins again with it. -/
theorem execSlateInEdge_lost (hm : s.rd K.slateSource = 2) (hl : s.sourceLost = true) :
    exec (.slateInEdge off spacing) s = .next { s with fl := { s.fl with
      regained := if 250000 ≤ spacing + s.rd K.slateInWindow ∧ spacing ≤ 250000 + s.rd K.slateInWindow then s.fl.regained + 1 else 1 } } := by
  change Host.Outcome.next (s.slateInEdge off spacing) = _
  rw [State.slateInEdge, if_neg (by simp [State.slateInMode_eq hm]), if_pos hl]
  simp only [Bool.and_eq_true, decide_eq_true_eq]
  rfl

end

/-- Settles O6: each command's branch under its hypotheses; a Sync by `ptpSync_taken`. -/
theorem slateSources : Obligations.SlateSources := by
  intro s off spacing port dom best
  refine ⟨fun hm hl => ⟨execSlateInEdge_aligns hm hl, execSlateInEdge_within hm hl,
    execSlateInEdge_outside hm hl, ?lost⟩, fun hm hl => ⟨execSlateInEdge_lost hm hl, ?again⟩,
    ?sync, ?locked, ?holdover, rfl, rfl⟩
  case lost =>
    intro h16
    change Host.Outcome.next s.slateInLost = _
    rw [State.slateInLost, if_pos ⟨State.slateInMode_eq hm, by simp [hl], h16⟩]
    rfl
  case again =>
    intro h4
    change Host.Outcome.next (s.slateInAgain off) = _
    rw [State.slateInAgain, if_pos ⟨State.slateInMode_eq hm, hl, h4⟩, State.align_eq]
    rfl
  case sync =>
    intro hm hd hb hp
    have ht : s.ptpTakes port best = true := by
      unfold State.ptpTakes
      split
      case isTrue h => exact hb h
      case isFalse h => exact decide_eq_true (hp h)
    refine ⟨_, congrArg Host.Outcome.next (State.ptpSync_taken s port dom best off hm hd ht), ?_, ?_, ?_, ?_⟩
    · have hfl : (if off.natAbs < 1000 then s.setStatus 5 5 0 else (s.setStatus 5 5 0).setStatus 3 2 1).fl = s.fl := by
        split <;> rfl
      simp only [State.updFl, hfl, FrameLogic.synced, Bool.or_eq_true]
    · rw [State.updFl_rd]
      split <;> simp
    · intro k hk
      rw [State.updFl_rd]
      split
      · exact (State.RegsBut.refl s _).wr (by simp) k hk
      · exact ((State.RegsBut.refl s _).wr (by simp)).wr (by simp) k hk
    · split <;> rfl
  case locked =>
    intro hm h16
    change Host.Outcome.next s.ptpLocked = _
    rw [State.ptpLocked, if_pos ⟨by simp [State.ptpMode, hm], h16⟩]
    rfl
  case holdover =>
    intro hm hp
    have he : exec .ptpHoldover s =
        .next (((s.updFl (fun f => { f with ptpGood := 0, slew := 0 })).setStatus 5 5 1).setStatus 3 2 1) := by
      change Host.Outcome.next s.ptpHoldover = _
      rw [State.ptpHoldover, if_pos ⟨by simp [State.ptpMode, hm], hp⟩]
    refine ⟨_, he, by simp, rfl, ?_, rfl⟩
    exact ((State.RegsBut.of_regs rfl rfl).wr (by simp)).wr (by simp)

end Sys2Proof.Machine

namespace Sys2Proof.Machine

/-! ### TAKE_COMMIT and the arm point (02 R40 to R42) -/

theorem State.takeResult_spec (s : State) (st e : Nat) :
    (s.takeResult st e).rd K.takeLastResult = st ∧ (s.takeResult st e).rd K.takeRejectEntry = e ∧
    s.RegsBut (s.takeResult st e) [K.takeLastResult, K.takeRejectEntry] ∧
    s.takeResult st e = { s with regs := (s.takeResult st e).regs } := by
  refine ⟨?_, State.rd_wr_same .., State.RegsBut.wrs _ (State.RegsBut.refl s _) (by simp), rfl⟩
  exact (State.rd_wr_other _ _ _ _ (show K.takeLastResult ≠ K.takeRejectEntry by decide)).trans (State.rd_wr_same ..)

section
variable {s : State} {sess : Nat}

/-- A commit from the session that staged, on the base in force, of a valid shadow: what is left to check is its target. -/
theorem State.commit_staged (hs : s.takeState = 1) (ho : s.take.session = some sess) (hf : s.takeFault = none)
    (hb : s.take.base = s.rd K.takeNumber) (hn : s.take.stale = none) : s.commit sess 1 =
      (if s.rd K.takeTargetFrame ≠ 0 ∧ s.rd K.takeTargetFrame < s.earliestTarget then (Code.takeTooLate, s.takeResult Code.takeTooLate 0)
      else if s.frame + 240000 < s.rd K.takeTargetFrame then (Code.takeTooEarly, s.takeResult Code.takeTooEarly 0)
      else (Code.ok, (((s.setTake { s.take with
        target := if s.rd K.takeTargetFrame = 0 then s.earliestTarget else s.rd K.takeTargetFrame }).wr K.takeState 2).showPending).takeResult
          Code.ok 0)) := by
  have hc : s.takeCommit sess 1 s.takeFault = (if s.rd K.takeTargetFrame ≠ 0 ∧ s.rd K.takeTargetFrame < s.earliestTarget then
        (Code.takeTooLate, s.takeResult Code.takeTooLate 0)
      else if s.frame + 240000 < s.rd K.takeTargetFrame then (Code.takeTooEarly, s.takeResult Code.takeTooEarly 0)
      else (Code.ok, (((s.setTake { s.take with
        target := if s.rd K.takeTargetFrame = 0 then s.earliestTarget else s.rd K.takeTargetFrame }).wr K.takeState 2).showPending).takeResult
          Code.ok 0)) := by
    rw [State.takeCommit, hf, if_neg (by decide), if_neg (by simp [hs, State.stager, ho])]
    simp only [hb, hn, ne_eq, not_true, if_false]
  unfold State.commit
  rw [hc]
  split
  · rfl
  split <;> rfl

end

/-- Settles O7: `commit_staged` case by case of the target, and the two outcomes of the arm point. -/
theorem takeCommitAndArm : Obligations.TakeCommitAndArm := by
  intro s sess seq t
  constructor
  case left =>
    intro u hu hM hs ho hn hb hf
    subst hu
    have hc := State.commit_staged (s := s.heard sess t) (sess := sess) (by simpa using hs) (by simpa using ho) hf
      (by simpa using hb) (by simpa using hn)
    rw [State.heard_rd, State.heard_frame] at hc
    refine ⟨fun hlate hearly => ?accepted, fun hpos hlate => ?late, fun hlate hearly => ?early⟩
    case late =>
      rw [if_pos ⟨by omega, hlate⟩] at hc
      exact execTakeCommit_effect hM hc
    case early =>
      rw [if_neg (by omega), if_pos hearly] at hc
      exact execTakeCommit_effect hM hc
    case accepted =>
      rw [if_neg (by omega), if_neg (by omega)] at hc
      generalize hv : ((s.heard sess t).setTake { (s.heard sess t).take with
        target := if s.rd K.takeTargetFrame = 0 then (s.heard sess t).earliestTarget else s.rd K.takeTargetFrame }).wr K.takeState 2 = v at hc
      have hvs : v.takeState = 2 := by rw [← hv]; exact State.rd_wr_same ..
      have hp : v.showPending = v.wr K.takePendingFrame (v.pendingFrame v.take.target) := if_pos hvs
      have hvt : v.take = { s.take with
          target := if s.rd K.takeTargetFrame = 0 then (s.heard sess t).earliestTarget else s.rd K.takeTargetFrame } := by
        rw [← hv, ← State.heard_take s sess t]; rfl
      have hvr : s.RegsBut v [K.takeState, K.takePendingFrame, K.takeLastResult, K.takeRejectEntry] := by
        rw [← hv]
        exact State.RegsBut.wr (fun k _ => (State.setTake_rd ..).trans (State.heard_rd ..)) (by simp)
      have hpend : v.pendingFrame v.take.target = (s.heard sess t).pendingFrame v.take.target := by
        have hcf : v.comingFrame = (s.heard sess t).comingFrame := by
          unfold State.comingFrame State.frame
          rw [hvr _ (by decide), hvr _ (by decide), State.heard_rd, State.heard_rd, ← hv]
          rfl
        unfold State.pendingFrame
        rw [hcf, ← hv]
        rfl
      rw [hp] at hc
      obtain ⟨hl, hr, hk, hw⟩ := State.takeResult_spec (v.wr K.takePendingFrame (v.pendingFrame v.take.target)) Code.ok 0
      refine ⟨_, execTakeCommit_effect hM hc, ?_, hvt, ?_, hl, hr, ?_, ?_⟩
      · rw [hk _ (by decide), State.rd_wr_other _ _ _ _ (by decide)]
        exact hvs
      · rw [hk _ (by decide), State.rd_wr_same, hpend]
        rfl
      · exact (hvr.wr (by simp)).trans (hk.mono (by simp))
      · rw [hw, ← hv]
        rfl
  case right =>
    intro u hu hs ht
    have hfl : u = { s with fl := u.fl } := by rw [hu]; rfl
    have hrd : ∀ k, u.rd k = s.rd k := by intro k; rw [hfl]; rfl
    have hready : u.takeState = 2 ∧ u.take.target ≤ u.comingFrame := ⟨(hrd _).trans hs, by rw [show u.take = s.take by rw [hfl]]; exact ht⟩
    have harm : ∀ acked, exec (.takeArmPoint acked) s = .next (u.armPoint acked) := by intro acked; rw [hu]; rfl
    obtain ⟨h0, hp, hi, hr, hw⟩ := State.takeIdle_spec u
    obtain ⟨hl, he, hk, hv⟩ := State.takeResult_spec u.takeIdle Code.takeFailed 0
    have hfail : u.armPoint false = u.takeIdle.takeResult Code.takeFailed 0 := by
      rw [State.armPoint, if_pos hready, if_neg Bool.false_ne_true]
    refine ⟨?_, _, (harm false).trans (by rw [hfail]), ?_, hl, he, ?_, ?_, ?_, ?_⟩
    · rw [harm, State.armPoint, if_pos hready, if_pos rfl]
      rfl
    · exact (hk _ (by decide)).trans h0
    · exact (hk _ (by decide)).trans hp
    · exact hi.trans (by rw [show u.take = s.take by rw [hfl]])
    · intro k hmem
      rw [hk.mono (ls := [K.takeState, K.takePendingFrame, K.takeLastResult, K.takeRejectEntry]) (by simp) k hmem,
        hr.mono (ls := [K.takeState, K.takePendingFrame, K.takeLastResult, K.takeRejectEntry]) (by simp) k hmem, hrd]
    · exact hv

end Sys2Proof.Machine

namespace Sys2Proof.Machine

/-! ### The stack controllers' writes (08 R200, R201, 09 R207, R214) -/

theorem oneElem_trainCtrl : ∀ tile, tile < 36 →
    OneElem (0x4000 + tile) 0x0C 4 ⟨0x4000, 36, 0x0C, 4, 2, 1, 4, false, 0, 0, 0⟩ := by unfold OneElem; decide

theorem oneElem_retrainReq : ∀ tile, tile < 36 →
    OneElem (0x4000 + tile) 0x0B 1 ⟨0x4000, 36, 0x0B, 2, 4, 1, 1, false, 0, 0, 31⟩ := by unfold OneElem; decide

theorem oneElem_dieRetire : ∀ tile, tile < 36 →
    OneElem (0x4410 + tile) 0x02 1 ⟨0x4410, 36, 0x02, 2, 2, 1, 1, false, 255, 0, 0⟩ := by unfold OneElem; decide

/-- MODE and GO set in a TRAIN_CTRL value leave its lower fields, and GO reads 1. -/
theorem trainCtrl_fields {rest mode : Nat} (hr : rest < 2 ^ 32) (hm : mode < 4) :
    setFld rest 31 29 (4 + mode) < 2 ^ 32 ∧ fld (setFld rest 31 29 (4 + mode)) 3 2 = fld rest 3 2 ∧
    bit (setFld rest 31 29 (4 + mode)) 0 = bit rest 0 ∧ bit (setFld rest 31 29 (4 + mode)) 31 = true := by
  simp only [setFld, fld, bit, decide_eq_decide, Nat.reduceAdd, Nat.reduceSub, Nat.reducePow, Nat.pow_zero, Nat.div_one] at *
  exact ⟨by omega, by omega, by omega, decide_eq_true (by omega)⟩

section
variable {s w : State} {sess seq tile rest mode v t st : Nat}

theorem State.trainRow_effect (hM : Manages s sess seq) (ht : tile < 36) (hr : rest < 2 ^ 32) (hm : mode < 4)
    (hf : fld rest 3 2 < 2) (h0 : bit rest 0 = false)
    (he : (s.heard sess t).trainCtrlWrite tile (setFld rest 31 29 (4 + mode)) = (st, w)) :
    s.trainRow sess seq tile mode rest t = w.wrote sess seq st t := by
  obtain ⟨hv, h32, hb, -⟩ := trainCtrl_fields hr hm
  unfold State.trainRow
  rw [Nat.mod_eq_of_lt hr]
  refine State.regWrite_effect hM (oneElem_trainCtrl tile ht) hv ?_ rfl ?_
  · simp [reservedIn, h32, hb, h0]
    omega
  · simpa [State.writeEffect, famNo] using he

theorem execRetrainReq_effect (hM : Manages s sess seq) (ht : tile < 36) (hv : v < 32)
    (he : (s.heard sess t).retrainWrite tile v = (st, w)) :
    exec (.retrainReq sess seq tile v t) s = .next (w.wrote sess seq st t) := by
  refine congrArg _ (State.regWrite_effect hM (oneElem_retrainReq tile ht) (by omega) rfl ?_ ?_)
  · simp [State.inRange]
    omega
  · simpa [State.writeEffect, famNo] using he

theorem execDieRetireWrite_effect (hM : Manages s sess seq) (ht : tile < 36) (hv : v < 18)
    (he : (s.heard sess t).dieRetireWrite tile v = (st, w)) :
    exec (.dieRetireWrite sess seq tile v t) s = .next (w.wrote sess seq st t) := by
  refine congrArg _ (State.regWrite_effect hM (oneElem_dieRetire tile ht) (by omega) rfl ?_ ?_)
  · simp [State.inRange, hv]
  · simpa [State.writeEffect, famNo] using he

theorem execScrubEnableWrite_effect (hM : Manages s sess seq) (hv : v < 2) :
    exec (.scrubEnableWrite sess seq v t) s = .next (((s.heard sess t).wrLag K.scrubEnable v).wrote sess seq Code.ok t) := by
  refine congrArg _ (State.regWrite_effect (d := ⟨0x4401, 1, 0x02, 1, 2, 1, 1, false, 1, 0, 0⟩) hM (by unfold OneElem; decide)
    (by omega) ?_ rfl rfl)
  simpa [reservedIn] using hv

end

/-- Settles O8: `trainCtrlWrite`, `retrainWrite` and `dieRetireWrite` branch by branch; SCRUB_ENABLE is stored. -/
theorem stackControlWrites : Obligations.StackControlWrites := by
  intro s sess seq tile rest v mode t hM ht
  refine ⟨?train, ?ask, ?asked, ?retire, ?retired, execScrubEnableWrite_effect hM⟩
  case train =>
    intro c hc hr hf h0 hv
    have hm : mode < 4 := by rcases hc with ⟨-, h⟩ | ⟨-, h⟩ | ⟨-, h⟩ | ⟨-, h⟩ <;> omega
    have row : exec c s = .next (s.trainRow sess seq tile mode rest t) := by
      rcases hc with ⟨rfl, rfl⟩ | ⟨rfl, rfl⟩ | ⟨rfl, rfl⟩ | ⟨rfl, rfl⟩ <;> rfl
    have effect : ∀ {st w}, (s.heard sess t).trainCtrlWrite tile v = (st, w) → exec c s = .next (w.wrote sess seq st t) := by
      intro st w he
      rw [row, State.trainRow_effect hM ht hr hm hf h0 (hv ▸ he)]
    have hgo : bit v 31 = true := hv ▸ (trainCtrl_fields hr hm).2.2.2
    refine ⟨fun hs hb => effect ?_, fun h1 h2 => effect ?_, fun hb => effect ?_⟩
    · rw [State.trainCtrlWrite, State.heard_rd, State.heard_rd, if_neg (by omega), if_neg (by simp [hb])]
      simp only [hgo, if_true]
    · rw [State.trainCtrlWrite, State.heard_rd, if_pos ⟨h1, h2⟩]
    · rw [State.trainCtrlWrite, State.heard_rd, State.heard_rd, if_pos hb, ite_self]
  case ask =>
    intro hv ha hr
    refine execRetrainReq_effect hM ht hv ?_
    simp [State.retrainWrite, ha, hr]
  case asked =>
    intro hv ha
    refine execRetrainReq_effect hM ht hv ?_
    rw [State.retrainWrite, State.heard_stack, if_pos (by simpa using ha)]
  case retire =>
    intro hv hd
    refine execDieRetireWrite_effect hM ht hv ?_
    rw [State.dieRetireWrite, State.heard_rd, if_neg (by simp [hd]), if_neg (by omega), State.updStack, State.heard_stack]
  case retired =>
    intro hv hd
    refine execDieRetireWrite_effect hM ht hv ?_
    rw [State.dieRetireWrite, State.heard_rd, if_pos hd]

end Sys2Proof.Machine

namespace Sys2Proof.Machine

/-! ### The writes of TEST_CTRL, RELOC_CTRL and the two probes -/

/-- GO and OP set in a TEST_CTRL value leave the fields below OP. -/
theorem testCtrl_fields {rest op : Nat} (hr : rest < 2 ^ 32) (ho : op < 3) (h30 : bit rest 30 = false) :
    setFld (setFld rest 31 31 1) 29 28 op < 2 ^ 32 ∧ bit (setFld (setFld rest 31 31 1) 29 28 op) 30 = false ∧
    fld (setFld (setFld rest 31 31 1) 29 28 op) 29 28 = op ∧
    fld (setFld (setFld rest 31 31 1) 29 28 op) 26 22 = fld rest 26 22 ∧
    fld (setFld (setFld rest 31 31 1) 29 28 op) 21 0 = fld rest 21 0 ∧ bit (setFld (setFld rest 31 31 1) 29 28 op) 31 = true := by
  have h30' : fld rest 30 30 ≠ 1 := of_decide_eq_false h30
  simp only [setFld, fld, bit, Nat.reduceAdd, Nat.reduceSub, Nat.reducePow, Nat.pow_zero, Nat.div_one] at *
  exact ⟨by omega, decide_eq_false (by omega), by omega, by omega, by omega, decide_eq_true (by omega)⟩

/-- OP set in a RELOC_CTRL value leaves the fields below it. -/
theorem relocCtrl_fields {rest op : Nat} (hr : rest < 2 ^ 32) (ho : op < 3) :
    setFld rest 31 30 op < 2 ^ 32 ∧ fld (setFld rest 31 30 op) 31 30 = op ∧ bit (setFld rest 31 30 op) 29 = bit rest 29 ∧
    fld (setFld rest 31 30 op) 28 24 = fld rest 28 24 ∧ fld (setFld rest 31 30 op) 23 18 = fld rest 23 18 ∧
    fld (setFld rest 31 30 op) 17 0 = fld rest 17 0 := by
  simp only [setFld, fld, bit, Nat.reduceAdd, Nat.reduceSub, Nat.reducePow, Nat.pow_zero, Nat.div_one] at *
  exact ⟨by omega, by omega, decide_eq_decide.2 (by omega), by omega, by omega, by omega⟩

/-- A DIR_PROBE value holds the partition and the address. -/
theorem dirProbe_fields {part va : Nat} (hp : part < 64) (hv : va < 2 ^ 48) :
    part * 2 ^ 58 + va < 2 ^ 64 ∧ fld (part * 2 ^ 58 + va) 63 58 = part ∧ fld (part * 2 ^ 58 + va) 57 48 = 0 ∧
    fld (part * 2 ^ 58 + va) 47 0 = va := by
  simp only [fld, Nat.reduceAdd, Nat.reduceSub, Nat.reducePow, Nat.pow_zero, Nat.div_one] at *
  omega

section
variable {s w : State} {sess seq rest op v t st part va : Nat}

theorem State.testCtrl_effect (hM : Manages s sess seq) (hv : v < 2 ^ 32) (h30 : bit v 30 = false) (ho : fld v 29 28 ≠ 3)
    (hd : fld v 26 22 < 18) (h0 : fld v 21 0 = 0) (he : (s.heard sess t).testCtrlWrite v = (st, w)) :
    s.regWrite sess seq 0x4480 1 0 (toBE 4 v) t = w.wrote sess seq st t := by
  refine State.regWrite_effect (d := ⟨0x4480, 1, 0x01, 4, 2, 1, 4, false, 0, 0, 0⟩) hM (by unfold OneElem; decide) hv ?_ rfl he
  simp [reservedIn, h30, ho, hd, h0]

theorem State.testRow_effect (hM : Manages s sess seq) (hr : rest < 2 ^ 32) (ho : op < 3) (h30 : bit rest 30 = false)
    (hd : fld rest 26 22 < 18) (h0 : fld rest 21 0 = 0) (hv : v = setFld (setFld rest 31 31 1) 29 28 op)
    (he : (s.heard sess t).testCtrlWrite v = (st, w)) : s.testRow sess seq op rest t = w.wrote sess seq st t := by
  obtain ⟨hlt, hb, hop, hdie, hlow, -⟩ := testCtrl_fields hr ho h30
  unfold State.testRow
  rw [Nat.mod_eq_of_lt hr, ← hv]
  rw [← hv] at hlt hb hop hdie hlow
  exact State.testCtrl_effect hM hlt hb (by omega) (by omega) (by omega) he

theorem State.relocCtrl_effect (hM : Manages s sess seq) (hv : v < 2 ^ 32) (ho : fld v 31 30 ≠ 3) (h0 : fld v 17 0 = 0)
    (he : (s.heard sess t).relocWrite v = (st, w)) : s.regWrite sess seq 0x4601 1 0 (toBE 4 v) t = w.wrote sess seq st t := by
  refine State.regWrite_effect (d := ⟨0x4601, 1, 0x01, 4, 4, 1, 4, false, 0, 0, 0⟩) hM (by unfold OneElem; decide) hv ?_ rfl he
  simp [reservedIn, ho, h0]

theorem State.relocRow_effect (hM : Manages s sess seq) (hr : rest < 2 ^ 32) (ho : op < 3) (h0 : fld rest 17 0 = 0)
    (he : (s.heard sess t).relocWrite (setFld rest 31 30 op) = (st, w)) :
    s.relocRow sess seq op rest t = w.wrote sess seq st t := by
  obtain ⟨hlt, hop, -, -, -, hlow⟩ := relocCtrl_fields hr ho
  unfold State.relocRow
  rw [Nat.mod_eq_of_lt hr]
  exact State.relocCtrl_effect hM hlt (by omega) (by omega) he

theorem execSlabProbe_effect (hM : Manages s sess seq) (hr : rest < 2 ^ 32) (h0 : fld rest 19 0 = 0) :
    exec (.slabProbe sess seq rest t) s = .next (((s.heard sess t).slabProbe rest).2.wrote sess seq Code.ok t) := by
  refine congrArg _ (State.regWrite_effect (d := ⟨0x4801, 1, 0x01, 4, 4, 1, 4, false, 0, 0, 0⟩) hM (by unfold OneElem; decide)
    hr ?_ rfl rfl)
  simp [reservedIn, h0]

theorem State.dirProbe_effect (hM : Manages s sess seq) (hv : v < 2 ^ 64) (h57 : fld v 57 48 = 0) :
    s.regWrite sess seq 0x3801 1 0 (toBE 8 v) t = ((s.heard sess t).dirProbe v).wrote sess seq Code.ok t := by
  refine State.regWrite_effect (d := ⟨0x3801, 1, 0x01, 5, 4, 1, 8, false, 0, 0, 0⟩) hM (by unfold OneElem; decide) hv ?_ rfl rfl
  simp [reservedIn, h57]

theorem execDirProbe_effect (hM : Manages s sess seq) (hp : part < 64) (hv : va < 2 ^ 48) :
    exec (.dirProbe sess seq part va t) s =
      .next (((s.heard sess t).dirProbe (part * 2 ^ 58 + va)).wrote sess seq Code.ok t) := by
  obtain ⟨hlt, -, h57, -⟩ := dirProbe_fields hp hv
  exact congrArg _ (State.dirProbe_effect hM hlt h57)

end

@[simp] theorem State.heard_tileAt (s : State) (sess t slot : Nat) : (s.heard sess t).tileAt slot = s.tileAt slot :=
  State.heard_rd ..

theorem State.heard_relocTarget (s : State) (sess t slot n : Nat) :
    (s.heard sess t).relocTarget slot n = s.relocTarget slot n := by
  rw [State.heard_only]
  rfl

theorem State.heard_inService (s : State) (sess t n : Nat) : (s.heard sess t).inService n = s.inService n := by
  rw [State.heard_only]
  rfl

/-- What a DIR_PROBE of a line of partition `part` finds. -/
def State.probed (s : State) (part va : Nat) : Nat :=
  match s.mapped part va with
  | some e =>
    if eKind e = 1 then
      match Tab.find s.dir (dpaOf va (eDxn e) (s.homeTile va) / 128), Tab.find s.evicts (dpaOf va (eDxn e) (s.homeTile va) / 128) with
      | some d, _ => d.pack (dpaOf va (eDxn e) (s.homeTile va) / 128) false
      | none, some x => x.ent.pack (dpaOf va (eDxn e) (s.homeTile va) / 128) true
      | none, none => 0
    else 0
  | none => 0

theorem State.dirProbe_eq (s : State) {part va : Nat} (hp : part < 64) (hv : va < 2 ^ 48) :
    s.dirProbe (part * 2 ^ 58 + va) = s.wr K.dirProbeResult (s.probed part va) := by
  obtain ⟨-, h63, -, h47⟩ := dirProbe_fields hp hv
  unfold State.dirProbe State.probed
  rw [h63, h47]
  rfl

/-- The relocation that a RELOC_CTRL write starts or refuses. -/
theorem State.relocWrite_eq (s : State) {rest op : Nat} (hr : rest < 2 ^ 32) (ho : op < 3) :
    s.relocWrite (setFld rest 31 30 op) = if s.cont.reloc.isSome then (Code.busy, s)
      else match (if op = 2 then (Tab.find s.cont.returnTile (fld rest 28 24)).bind (s.relocTarget (fld rest 28 24))
          else s.relocTarget (fld rest 28 24) (fld rest 23 18)) with
        | none => (Code.busy, s)
        | some x => (Code.ok, s.relocStart (fld rest 28 24) x op (op = 1 && bit rest 29)) := by
  obtain ⟨-, h31, h29, h28, h23, -⟩ := relocCtrl_fields hr ho
  unfold State.relocWrite
  simp only [h31, h29, h28, h23]
  split
  · rfl
  by_cases h2 : op = 2
  · simp only [h2, if_true]
    cases Tab.find s.cont.returnTile (fld rest 28 24) <;> rfl
  · simp only [h2, if_false] <;> rfl

/-- What the start of a relocation writes. -/
theorem State.relocStart_eq (s : State) (slot target kind : Nat) (ret : Bool) : s.relocStart slot target kind ret =
    ({ s with cont := { s.cont with
        reloc := some { slot := slot, source := s.tileAt slot, target := target, kind := kind, ret := ret, step := 1 }
        returnTile := s.cont.returnTile.filter (fun e => e.2 ≠ target)
        triggers := s.cont.triggers.filter (fun x => x.1 ≠ slot) } } : State).wrs
      [(K.tileState target, 3), (K.fillStatus target, 0),
        (K.slotState slot, if kind = 4 || (s.stack (s.tileAt slot)).lost then 3 else 1),
        (K.relocStatus, relocStatus { slot := slot, source := s.tileAt slot, target := target, kind := kind, ret := ret, step := 1 } 1 0)] :=
  rfl

/-- Settles O9: `testCtrlWrite`, `relocWrite` and the probes branch by branch. -/
theorem testRelocAndProbeWrites : Obligations.TestRelocAndProbeWrites := by
  intro s sess seq rest v t op slot hM hr
  refine ⟨?test, ?reloc, ?slab, ?dir⟩
  case test =>
    intro c hc h30 hd h0 hv
    have ho : op < 3 := by rcases hc with ⟨-, h⟩ | ⟨-, h⟩ | ⟨-, h⟩ <;> omega
    have row : exec c s = .next (s.testRow sess seq op rest t) := by
      rcases hc with ⟨rfl, rfl⟩ | ⟨rfl, rfl⟩ | ⟨rfl, rfl⟩ <;> rfl
    have effect : ∀ {st w}, (s.heard sess t).testCtrlWrite v = (st, w) → exec c s = .next (w.wrote sess seq st t) := by
      intro st w he
      rw [row, State.testRow_effect hM hr ho h30 hd h0 hv he]
    have hgo : ¬ ((!bit v 31) = true) := by simp [hv, (testCtrl_fields hr ho h30).2.2.2.2.2]
    refine ⟨fun hn hi => ⟨fun hx hf => effect ?_, fun hx => effect ?_⟩, fun hn hi => effect ?_, fun hn => effect ?_⟩
    · rw [State.testCtrlWrite, if_neg hgo, State.heard_test, if_neg (by simp [hn])]
      simp only [State.heard_rd, State.heard_inService]
      rw [if_neg (by simp [hi]), if_neg (by omega)]
      rfl
    · rw [State.testCtrlWrite, if_neg hgo, State.heard_test, if_neg (by simp [hn])]
      simp only [State.heard_rd, State.heard_inService]
      rw [if_neg (by simp [hi]), if_pos hx]
    · rw [State.testCtrlWrite, if_neg hgo, State.heard_test, if_neg (by simp [hn])]
      simp only [State.heard_rd, State.heard_inService]
      rw [if_pos (by simp [hi])]
    · rw [State.testCtrlWrite, if_neg hgo, State.heard_test, if_pos hn]
  case reloc =>
    intro c target hc h0 hs ht
    have ho : op < 3 := by rcases hc with ⟨-, h⟩ | ⟨-, h⟩ | ⟨-, h⟩ <;> omega
    have row : exec c s = .next (s.relocRow sess seq op rest t) := by
      rcases hc with ⟨rfl, rfl⟩ | ⟨rfl, rfl⟩ | ⟨rfl, rfl⟩ <;> rfl
    have effect : ∀ {st w}, (s.heard sess t).relocWrite (setFld rest 31 30 op) = (st, w) →
        exec c s = .next (w.wrote sess seq st t) := by
      intro st w he
      rw [row, State.relocRow_effect hM hr ho h0 he]
    have hw := State.relocWrite_eq (s.heard sess t) hr ho
    have hfun : (s.heard sess t).relocTarget slot = s.relocTarget slot := funext (State.heard_relocTarget s sess t slot)
    rw [← hs, hfun, State.heard_cont, ← ht] at hw
    refine ⟨fun tile r hn htile hreloc => effect (hw.trans ?_), fun hbusy => effect (hw.trans ?_)⟩
    · rw [if_neg (by simp [hn]), htile]
      subst hreloc
      have h4 : ¬ op = 4 := by omega
      simp only [State.relocStart_eq, State.heard_cont, State.heard_stack, State.heard_tileAt, h4, decide_false, Bool.false_or]
    · rcases hbusy with h | h
      · rw [if_pos h]
      · rw [h]
        split <;> rfl
  case slab =>
    intro h0
    have heff := execSlabProbe_effect (t := t) hM hr h0
    rw [State.slabProbe, State.heard_mover] at heff
    exact heff
  case dir =>
    intro part va ln u hp hv hu
    subst hu
    refine ⟨_, execDirProbe_effect hM hp hv, ?_⟩
    rw [State.dirProbe_eq _ hp hv, State.rd_wr_same]
    unfold State.probed
    refine ⟨fun e he hk hl => ?_, fun hn => by rw [hn], fun e he hk => ?_, (State.RegsBut.refl _ _).wr (by simp), rfl⟩
    · subst hl
      simp only [he, hk, if_true, State.heard_dir, State.heard_evicts]
      refine ⟨fun d hd => by rw [hd], fun x hd hx => by rw [hd, hx], fun hd hx => by rw [hd, hx]⟩
    · simp only [he, hk, if_false]

end Sys2Proof.Machine

namespace Sys2Proof.Machine

/-! ### Byte strings and the numbers they spell -/

theorem toLE_ofLE (l : List Byte) : toLE l.length (ofLE l) = l := by
  induction l with
  | nil => rfl
  | cons b l ih =>
    have hb : b.toNat < 256 := b.isLt
    have hd : (b.toNat + 256 * ofLE l) / 256 = ofLE l := by omega
    simp only [List.length_cons, toLE, ofLE, hd, ih, List.cons.injEq, and_true]
    apply BitVec.eq_of_toNat_eq
    rw [BitVec.toNat_ofNat]
    omega

theorem toBE_ofBE (l : List Byte) : toBE l.length (ofBE l) = l := by
  rw [ofBE_eq_ofLE, toBE, ← List.length_reverse, toLE_ofLE, List.reverse_reverse]

theorem ofLE_lt (l : List Byte) : ofLE l < 2 ^ (8 * l.length) := by
  have h := ofLE_toLE l.length (ofLE l)
  rw [toLE_ofLE] at h
  rw [h]
  exact Nat.mod_lt _ (Nat.two_pow_pos _)

theorem ofBE_lt (l : List Byte) : ofBE l < 2 ^ (8 * l.length) := by
  rw [ofBE_eq_ofLE, ← List.length_reverse]
  exact ofLE_lt _

theorem ofLE_append (a b : List Byte) : ofLE (a ++ b) = ofLE a + 2 ^ (8 * a.length) * ofLE b := by
  induction a with
  | nil => simp [ofLE]
  | cons x a ih =>
    have hpow : 2 ^ (8 * (a.length + 1)) = 2 ^ (8 * a.length) * 256 := Nat.pow_add 2 (8 * a.length) 8
    have hswap : 2 ^ (8 * a.length) * 256 * ofLE b = 256 * (2 ^ (8 * a.length) * ofLE b) := by
      rw [Nat.mul_comm (2 ^ (8 * a.length)) 256, Nat.mul_assoc]
    simp only [List.cons_append, ofLE, ih, List.length_cons, hpow, hswap]
    omega

theorem ofBE_append (a b : List Byte) : ofBE (a ++ b) = ofBE a * 2 ^ (8 * b.length) + ofBE b := by
  rw [ofBE_eq_ofLE, List.reverse_append, ofLE_append, ← ofBE_eq_ofLE, ← ofBE_eq_ofLE, List.length_reverse, Nat.add_comm,
    Nat.mul_comm (2 ^ (8 * b.length))]

theorem ofLE_eq_zero {l : List Byte} : ofLE l = 0 ↔ ∀ b ∈ l, b = 0#8 := by
  induction l with
  | nil => simp [ofLE]
  | cons b l ih =>
    have hz : b = 0#8 ↔ b.toNat = 0 := ⟨fun h => by simp [h], fun h => BitVec.eq_of_toNat_eq (by simpa using h)⟩
    simp only [ofLE, List.forall_mem_cons, ← ih, hz]
    omega

theorem ofBE_eq_zero {l : List Byte} : ofBE l = 0 ↔ ∀ b ∈ l, b = 0#8 := by
  rw [ofBE_eq_ofLE, ofLE_eq_zero]
  simp

/-- The last field of a byte string. -/
theorem beAt_last (n v : Nat) : beAt (toBE n v) 0 n = v % 2 ^ (8 * n) := by simpa using beAt_toBE n v []

/-- A MANAGER's write of `n` bytes to an entry of one element has the effect and the status of `writeEffect`. -/
theorem State.regWrite_bytes {s w : State} {sess seq idx sub n t st : Nat} {b : List Byte} {d : Desc} (hM : Manages s sess seq)
    (hE : OneElem idx sub n d) (hb : b.length = n) (hr : reservedIn d (ofBE b) = false)
    (hi : (s.heard sess t).inRange d idx (ofBE b) = true)
    (he : (s.heard sess t).writeEffect sess d idx b [(0, ofBE b)] t = (st, w)) :
    s.regWrite sess seq idx sub 0 b t = w.wrote sess seq st t := by
  subst hb
  have h := toBE_ofBE b
  rw [← h]
  refine State.regWrite_effect hM hE (ofBE_lt b) hr hi ?_
  rw [h]
  exact he

/-! ### Lock, unlock and seal requests -/

theorem oneElem_lockRequest : ∀ p, p < 64 →
    OneElem (0x3000 + p) 0x0A 52 ⟨0x3000, 64, 0x0A, 8, 4, 1, 52, false, 0, 0, 0⟩ := by unfold OneElem; decide

theorem oneElem_unlockRequest : ∀ p, p < 64 →
    OneElem (0x3000 + p) 0x0B 48 ⟨0x3000, 64, 0x0B, 8, 4, 1, 48, false, 0, 0, 0⟩ := by unfold OneElem; decide

theorem oneElem_sealRequest : ∀ p, p < 64 →
    OneElem (0x6440 + p) 0x01 52 ⟨0x6440, 64, 0x01, 8, 4, 1, 52, false, 0, 0, 0⟩ := by unfold OneElem; decide

/-- The value of a LOCK_REQUEST. -/
def lockBytes (inc digest : Nat) : List Byte := toBE 2 inc ++ toBE 2 0 ++ toBE 48 digest

theorem lockBytes_fields {inc digest : Nat} (hi : inc < 2 ^ 16) (hd : digest < 2 ^ 384) :
    (lockBytes inc digest).length = 52 ∧ beAt (lockBytes inc digest) 0 2 = inc ∧ ofBE (slice (lockBytes inc digest) 4 48) = digest ∧
    fld (ofBE (lockBytes inc digest)) 399 384 = 0 := by
  unfold lockBytes
  refine ⟨by simp, ?_, ?_, ?_⟩
  · rw [List.append_assoc, beAt_toBE]
    exact Nat.mod_eq_of_lt hi
  · change beAt _ 4 48 = _
    rw [beAt_skip _ _ 4 4 48 (by simp) (by simp), Nat.sub_self, beAt_last]
    exact Nat.mod_eq_of_lt hd
  · have hv : ofBE (toBE 2 inc ++ toBE 2 0 ++ toBE 48 digest) = inc * 2 ^ 400 + digest := by
      simp only [ofBE_append, ofBE_toBE, length_toBE]
      rw [Nat.mod_eq_of_lt hi, Nat.mod_eq_of_lt hd, Nat.zero_mod, Nat.add_zero, Nat.mul_assoc, ← Nat.pow_add]
    rw [hv, fld, show inc * 2 ^ 400 + digest = digest + inc * 2 ^ 16 * 2 ^ 384 by rw [Nat.mul_assoc, ← Nat.pow_add, Nat.add_comm],
      Nat.add_mul_div_right _ _ (Nat.two_pow_pos _), Nat.div_eq_of_lt hd, Nat.zero_add]
    exact Nat.mul_mod_left _ _

section
variable {s w : State} {sess seq p inc digest t st : Nat} {token data : List Byte}

theorem execLockRequest_effect (hM : Manages s sess seq) (hp : p < 64) (hi : inc < 2 ^ 16) (hd : digest < 2 ^ 384)
    (he : (s.heard sess t).lockFrom sess p (lockBytes inc digest) = (st, w)) :
    exec (.lockRequest sess seq p inc digest t) s = .next (w.wrote sess seq st t) := by
  obtain ⟨hl, -, -, h0⟩ := lockBytes_fields hi hd
  change Host.Outcome.next (s.regWrite sess seq (0x3000 + p) 0x0A 0 (lockBytes inc digest) t) = _
  generalize lockBytes inc digest = b at *
  refine congrArg _ (State.regWrite_bytes hM (oneElem_lockRequest p hp) hl ?_ rfl ?_)
  · simp [reservedIn, h0]
  · simpa [State.writeEffect, famNo] using he

theorem execUnlockRequest_effect (hM : Manages s sess seq) (hp : p < 64) (hl : token.length = 48)
    (he : (s.heard sess t).unlockWrite p token = (st, w)) :
    exec (.unlockRequest sess seq p token t) s = .next (w.wrote sess seq st t) := by
  refine congrArg _ (State.regWrite_bytes hM (oneElem_unlockRequest p hp) hl rfl rfl ?_)
  simpa [State.writeEffect, famNo] using he

theorem execSealRequest_effect (hM : Manages s sess seq) (hp : p < 64) (hl : data.length = 52)
    (he : (s.heard sess t).sealWrite p data = (st, w)) :
    exec (.sealRequest sess seq p data t) s = .next (w.wrote sess seq st t) := by
  refine congrArg _ (State.regWrite_bytes hM (oneElem_sealRequest p hp) hl rfl rfl ?_)
  simpa [State.writeEffect, famNo] using he

/-- A secured session's own record is its record still once it is heard, but for when it was last active. -/
theorem State.heard_session {x : Sess} (hs : sess < 256) (hx : s.session sess = some x) :
    ∃ n, (s.heard sess t).session sess = some { x with stamp := n, lastFrame := s.frame } := by
  have ho : ownSession sess = false := by simp [ownSession]; omega
  unfold State.heard
  rw [ho]
  exact State.sessTouch_session (s.at t) sess x hx

/-- What LOCK_REQUEST does for a session that may lock the partition: all but the incarnation and the measurement is right. -/
theorem State.lockFrom_tenant {x : Sess} {b : List Byte} (hs : sess < 16) (hx : s.session sess = some x) (hm : x.mutualAuth = true)
    (hroot : x.rootDigest = s.rd (K.lockTenantAnchor p)) (ha : s.active p = true) (hmode : s.lockMode p = 0)
    (hen : s.rd (K.lockEnable p) = 1) (h2 : s.takeState ≠ 2) (h3 : s.takeState ≠ 3) (hinc : beAt b 0 2 = s.incarnation p) :
    s.lockFrom sess p b = if ofBE (slice b 4 48) ≠ s.measurement p then
        (Code.lockMismatch, s.security 9 (s.handleOf p) (s.partHome p) 0 0)
      else (Code.ok, ((s.setPart p { s.part p with
          key := some (kdf x.ems (ascii "PY PARTITION KEY") (toBE 1 p ++ toBE 4 ((s.lockSeq p + 1) % 2 ^ 32)) 384)
          unlocking := false }).wr (K.lockState p) ((s.lockSeq p + 1) % 2 ^ 32 * 2 ^ 32 + 1)).security 4 (s.handleOf p) (s.partHome p) 0 0) := by
  unfold State.lockFrom State.lockWrite
  simp [hx, hs, hm, hroot, ha, hmode, hen, h2, h3, hinc, State.updPart]

end

@[simp] theorem State.heard_part (s : State) (sess t p : Nat) : (s.heard sess t).part p = s.part p := by
  simp [State.part]

@[simp] theorem State.heard_partHome (s : State) (sess t p : Nat) : (s.heard sess t).partHome p = s.partHome p :=
  State.heard_rd ..

@[simp] theorem State.heard_handleOf (s : State) (sess t p : Nat) : (s.heard sess t).handleOf p = s.handleOf p := by
  rw [State.heard_only]
  rfl

@[simp] theorem State.heard_tokenOk (s : State) (sess t kind p take : Nat) (d b : List Byte) :
    (s.heard sess t).tokenOk kind p take d b = s.tokenOk kind p take d b := by
  rw [State.heard_only]
  rfl

theorem State.lockMode_eq (s : State) (p : Nat) : s.lockMode p = s.rd (K.lockState p) % 4 := by
  simp [State.lockMode, fld]

/-- Settles O10: the tenant's lock by `lockFrom_tenant`, the token's two outcomes, and the seal that passes every check. -/
theorem lockAndSealRequests : Obligations.LockAndSealRequests := by
  intro s sess seq p inc digest t n token data hM hp
  have hmode : (s.heard sess t).lockMode p = s.rd (K.lockState p) % 4 := by rw [State.lockMode_eq, State.heard_rd]
  refine ⟨?lock, ?mismatch, ?unlock, ?refused, ?sealing⟩
  case lock =>
    intro x hs hx hm hroot ha h0 hen h2 h3 hinc hi hd hlt hn
    obtain ⟨k, hk⟩ := State.heard_session (t := t) (by omega) hx
    obtain ⟨-, hbi, hbd, -⟩ := lockBytes_fields hi hlt
    refine execLockRequest_effect hM hp hi hlt ?_
    rw [State.lockFrom_tenant hs hk hm (by simpa using hroot) (by simpa [State.active] using ha) (hmode.trans h0) (by simpa using hen)
      (by simpa using h2) (by simpa using h3) (by simpa [State.incarnation, hbi] using hinc), if_neg (not_not_intro (hbd.trans hd))]
    simp [State.lockSeq, hn]
  case mismatch =>
    intro x hs hx hm hroot ha h0 hen h2 h3 hinc hi hlt hd
    obtain ⟨k, hk⟩ := State.heard_session (t := t) (by omega) hx
    obtain ⟨-, hbi, hbd, -⟩ := lockBytes_fields hi hlt
    refine execLockRequest_effect hM hp hi hlt ?_
    rw [State.lockFrom_tenant hs hk hm (by simpa using hroot) (by simpa [State.active] using ha) (hmode.trans h0) (by simpa using hen)
      (by simpa using h2) (by simpa using h3) (by simpa [State.incarnation, hbi] using hinc), if_pos (by rw [hbd]; exact hd)]
    simp
  case unlock =>
    intro hl hok
    refine execUnlockRequest_effect hM hp hl ?_
    rw [State.unlockWrite, State.heard_tokenOk, State.heard_rd, if_pos hok]
    simp [State.updPart]
  case refused =>
    intro hl hno
    refine execUnlockRequest_effect hM hp hl ?_
    rw [State.unlockWrite, State.heard_tokenOk, State.heard_rd, hno, if_neg Bool.false_ne_true]
  case sealing =>
    intro hl hj h2 hidx hv hkind hsealed hheld h0 hroom
    have he : (s.heard sess t).sealWrite p data = (Code.ok, ((s.heard sess t).updPart p (fun q => { q with
        sealJob := some ⟨leAt data 0 2, false, none, none⟩ })).sealShow p Code.ok 1 (leAt data 0 2)) := by
      have hkind' : ¬ ((!(decide (eKind (s.entry p (leAt data 0 2)) = 0) || decide (eKind (s.entry p (leAt data 0 2)) = 2)) ||
          eSealed (s.entry p (leAt data 0 2)) || eHeld (s.entry p (leAt data 0 2))) = true) := by
        rcases hkind with h | h <;> simp [h, hsealed, hheld]
      have hentry : (s.heard sess t).entry p (leAt data 0 2) = s.entry p (leAt data 0 2) := State.heard_rd ..
      rw [State.sealWrite, State.heard_part, hentry, if_neg (by simp [hj]), if_neg (by simp [h2]), if_neg (by simp [hv]; omega),
        if_neg hkind', if_neg (by simp [hmode, h0]), if_neg (by omega)]
    refine ⟨_, execSealRequest_effect hM hp hl he, ?_, ?_, ?_, ?_, rfl⟩
    · change ((s.heard sess t).setPart p _).part p = _
      rw [State.part_setPart, State.heard_part]
    · simp [State.sealShow, State.frame, State.updPart]
    · intro q hq
      change ((s.heard sess t).setPart p _).part q = _
      rw [State.part_setPart_other _ _ _ _ hq, State.heard_part]
    · exact (State.RegsBut.of_regs rfl rfl).wr (by simp)

end Sys2Proof.Machine

namespace Sys2Proof.Machine

/-! ### DEBUG_POLICY (18 R411) -/

section
variable {s w : State} {sess seq v t st old : Nat}

theorem State.debugRow_effect (hM : Manages s sess seq) (hv : v < 8) (he : (s.heard sess t).debugWrite v = (st, w)) :
    s.debugRow sess seq v t = w.wrote sess seq st t := by
  refine State.regWrite_effect (d := ⟨0x7C00, 1, 0x01, 4, 2, 1, 4, false, 0, 0, 0⟩) hM (by unfold OneElem; decide)
    (by omega) ?_ rfl he
  simp [reservedIn, hv]

/-- The entry that an accepted change of the policy adds to SECURITY_LOG; the manual leaves its KIND open. -/
def State.policyEntry (s : State) : Nat :=
  (s.draw 16).1 * 2 ^ 124 + s.rd K.leadTile * 2 ^ 102 + s.frame % 2 ^ 64

theorem State.policyEntry_frame (s : State) : s.policyEntry % 2 ^ 64 = s.frame % 2 ^ 64 := by
  unfold State.policyEntry
  generalize (s.draw 16).1 = a
  omega

/-- A write that only gains bits, and INTERNAL_SCAN only while every partition is FREE, is logged and stored for the next slate. -/
theorem State.debugWrite_gains (s : State) (hg : s.rd K.debugPolicy &&& v = s.rd K.debugPolicy) (hne : v ≠ s.rd K.debugPolicy)
    (hb : bit v 2 = bit (s.rd K.debugPolicy) 2 ∨ ∀ p, p < 64 → s.rd (K.partitionStatus p) = 0) :
    s.debugWrite v = (Code.ok, ({ s with free := s.free + 1, secLog := keepLast 64 (s.secLog ++ [s.policyEntry]) } : State).wrLag
      K.debugPolicy v) := by
  have hfree : ¬ ((bit v 2 && !bit (s.rd K.debugPolicy) 2 && (List.range 64).any (fun p => s.rd (K.partitionStatus p) ≠ 0)) = true) := by
    rcases hb with h | h
    · simp [h]
    · simpa using fun _ _ => h
  rw [State.debugWrite, if_neg (not_not_intro hg), if_neg hfree, if_neg hne]
  rfl

end

/-- Settles O11: a write that gains a bit by `debugWrite_gains`; the two refusals by their branches. -/
theorem debugPolicyWrites : Obligations.DebugPolicyWrites := by
  intro s sess seq t v old c hM hold h8
  have hpol : (s.heard sess t).rd K.debugPolicy = old := by rw [State.heard_rd, hold]
  refine ⟨fun hc => ?gains, fun h2 hp => ?busy, fun h1 h0 => ?clears⟩
  case gains =>
    have hrow : exec c s = .next (s.debugRow sess seq v t) ∧ v < 8 ∧ old &&& v = old ∧ v ≠ old ∧
        (bit v 2 = bit old 2 ∨ ∀ p, p < 64 → s.rd (K.partitionStatus p) = 0) := by
      rcases hc with ⟨rfl, hb, hv⟩ | ⟨rfl, hb, hv⟩ | ⟨rfl, hb, hv, hfree⟩
      · have h : ∀ old, old < 8 → bit old 0 = false → setFld old 0 0 1 = old + 1 ∧ old + 1 < 8 ∧ old &&& (old + 1) = old ∧
            bit (old + 1) 2 = bit old 2 := by decide
        obtain ⟨hs, hlt, hand, hbit⟩ := h old h8 hb
        subst hv
        exact ⟨congrArg (fun x => Host.Outcome.next (s.debugRow sess seq x t)) hs, hlt, hand, by omega, .inl hbit⟩
      · have h : ∀ old, old < 8 → bit old 1 = false → setFld old 1 1 1 = old + 2 ∧ old + 2 < 8 ∧ old &&& (old + 2) = old ∧
            bit (old + 2) 2 = bit old 2 := by decide
        obtain ⟨hs, hlt, hand, hbit⟩ := h old h8 hb
        subst hv
        exact ⟨congrArg (fun x => Host.Outcome.next (s.debugRow sess seq x t)) hs, hlt, hand, by omega, .inl hbit⟩
      · have h : ∀ old, old < 8 → bit old 2 = false → setFld old 2 2 1 = old + 4 ∧ old + 4 < 8 ∧ old &&& (old + 4) = old := by
          decide
        obtain ⟨hs, hlt, hand⟩ := h old h8 hb
        subst hv
        exact ⟨congrArg (fun x => Host.Outcome.next (s.debugRow sess seq x t)) hs, hlt, hand, by omega, .inr hfree⟩
    obtain ⟨hexec, hlt, hand, hne, hfree⟩ := hrow
    have he := State.debugWrite_gains (v := v) (s.heard sess t) (by rw [hpol, hand]) (by rw [hpol]; exact hne) (by simpa [hpol] using hfree)
    refine ⟨_, (s.heard sess t).policyEntry, hexec.trans (congrArg _ (State.debugRow_effect hM hlt he)), ?_, fun hlag => ?_, ?_, ?_, ?_, rfl⟩
    · exact State.rd_wr_same (s.heard sess t) K.debugPolicy v
    · simp only [State.wrLag, State.eff, State.heard_lag, hlag, Option.isSome_none, Bool.false_eq_true, if_false, Tab.find_set_same,
        Option.getD_some]
      exact hpol
    · simp [State.wrLag]
    · rw [State.policyEntry_frame, State.heard_frame]
    · exact State.RegsBut.wr (t := s.heard sess t) (State.RegsBut.refl _ _) (by simp)
  case busy =>
    have h : ∀ old, old < 8 → bit old 2 = false → setFld old 2 2 1 < 8 ∧ old &&& setFld old 2 2 1 = old ∧
        bit (setFld old 2 2 1) 2 = true := by decide
    obtain ⟨hlt, hand, hbit⟩ := h old h8 h2
    refine congrArg _ (State.debugRow_effect hM hlt ?_)
    rw [State.debugWrite, hpol, if_neg (not_not_intro hand), if_pos (by simpa [hbit, h2] using hp)]
  case clears =>
    have h : ∀ old, old < 8 → bit old 1 = true → old &&& setFld 0 0 0 1 ≠ old := by decide
    refine congrArg _ (State.debugRow_effect hM (by decide) ?_)
    rw [State.debugWrite, hpol, if_pos (h old h8 h1)]

end Sys2Proof.Machine

namespace Sys2Proof.Machine

/-! ### The writes that act (19 R421, R431, 21 R458, 22 R465, R468, R474) -/

section
variable {s w : State} {sess seq v p t st : Nat}

theorem execCoolantReport_effect (hM : Manages s sess seq) (hv : v < 2 ^ 32) :
    exec (.coolantReport sess seq v t) s = .next (((s.heard sess t).coolantWrite v).wrote sess seq Code.ok t) :=
  congrArg _ (State.regWrite_effect (d := ⟨0x7400, 1, 0x06, 4, 2, 1, 4, false, 0, 0, 0⟩) hM (by unfold OneElem; decide)
    hv rfl rfl rfl)

theorem execResetCauseWrite_effect (hM : Manages s sess seq) (hv : v < 2 ^ 11) :
    exec (.resetCauseWrite sess seq v t) s = .next (((s.heard sess t).causeWrite v).wrote sess seq Code.ok t) := by
  refine congrArg _ (State.regWrite_effect (d := ⟨0x1800, 1, 0x01, 4, 2, 1, 4, false, 1, 0, 0⟩) hM (by unfold OneElem; decide)
    (by omega) ?_ rfl rfl)
  simpa [reservedIn] using hv

theorem execPartitionReset_effect (hM : Manages s sess seq) (hp : p < 64) (he : (s.heard sess t).partResetWrite p = (st, w)) :
    exec (.partitionReset sess seq p t) s = .next (w.wrote sess seq st t) := by
  refine congrArg _ (State.regWrite_effect (d := ⟨0x1801, 1, 0x01, 2, 4, 1, 1, false, 0, 0, 63⟩) hM (by unfold OneElem; decide)
    (by omega) rfl ?_ he)
  simp [State.inRange]
  omega

theorem execWarmResetReq_effect (hM : Manages s sess seq) (he : (s.heard sess t).warmResetReq 1 t = (st, w)) :
    exec (.warmResetReq sess seq 1 t) s = .next (w.wrote sess seq st t) :=
  congrArg _ (State.regWrite_effect (v := 1) (t := t) (d := ⟨0x1800, 1, 0x07, 1, 4, 1, 1, false, 0, 0, 0⟩) hM
    (by unfold OneElem; decide) (by decide) rfl rfl he)

theorem execFirmwareActivate_effect (hM : Manages s sess seq) (he : (s.heard sess t).firmActivate 1 t = (st, w)) :
    exec (.firmwareActivate sess seq 1 t) s = .next (w.wrote sess seq st t) :=
  congrArg _ (State.regWrite_effect (v := 1) (t := t) (d := ⟨0x7810, 1, 0x03, 1, 4, 1, 1, false, 0, 0, 0⟩) hM
    (by unfold OneElem; decide) (by decide) rfl rfl he)

end

/-! ### MANAGER_ANCHORS (19 R421) -/

/-- The four anchors of a whole write. -/
def anchorElems (data : List Byte) : List (Nat × Nat) := (List.range 4).map (fun i => (i, beAt data (i * 48) 48))

/-- A byte string of four anchors, one of whose bytes is not zero, has an anchor that is not zero. -/
theorem anchor_ne_zero {data : List Byte} (hl : data.length = 192) (hb : ∃ b, b ∈ data ∧ b ≠ 0#8) :
    ¬ (beAt data 0 48 = 0 ∧ beAt data 48 48 = 0 ∧ beAt data 96 48 = 0 ∧ beAt data 144 48 = 0) := by
  rintro ⟨h0, h1, h2, h3⟩
  obtain ⟨b, hm, hne⟩ := hb
  have field : ∀ i, i + 48 ≤ 192 → beAt data i 48 = 0 → ∀ c ∈ (data.drop i).take 48, c = 0#8 := by
    intro i hi h
    rw [beAt, slice_of_le _ _ _ (by omega)] at h
    exact ofBE_eq_zero.1 h
  have hdata : data = (data.drop 0).take 48 ++ ((data.drop 48).take 48 ++ ((data.drop 96).take 48 ++ (data.drop 144).take 48)) := by
    have h144 : (data.drop 144).take 48 = data.drop 144 := List.take_of_length_le (by simp [hl])
    have step : ∀ i, (data.drop i).take 48 ++ data.drop (i + 48) = data.drop i := by
      intro i
      rw [← List.drop_drop, List.take_append_drop]
    rw [h144, step 96, step 48, step 0, List.drop_zero]
  rw [hdata] at hm
  rcases List.mem_append.1 hm with h | h
  · exact hne (field 0 (by omega) h0 b h)
  rcases List.mem_append.1 h with h | h
  · exact hne (field 48 (by omega) h1 b h)
  rcases List.mem_append.1 h with h | h
  · exact hne (field 96 (by omega) h2 b h)
  · exact hne (field 144 (by omega) h3 b h)

/-- A MANAGER's write of all four anchors stores them, and re-evaluates every session's class. -/
theorem State.dictWrite_anchors (s : State) {sess t : Nat} {data : List Byte} (hc : s.classOf sess = 2) (hl : data.length = 192)
    (hb : ∃ b, b ∈ data ∧ b ≠ 0#8) : s.dictWrite sess 0x7801 1 0 data t =
      (Code.ok, (s.wrs ((anchorElems data).map (fun e => (ek 0x7801 1 e.1, e.2)))).reclass) := by
  have hd : Dict.find 0x7801 1 = some ⟨0x7801, 1, 0x01, 9, 2, 4, 48, false, 0, 0, 0⟩ := by decide
  have hel : s.elemsOfWrite ⟨0x7801, 1, 0x01, 9, 2, 4, 48, false, 0, 0, 0⟩ 0x7801 0 data = anchorElems data := by
    simp [State.elemsOfWrite, writtenElems, hl, anchorElems]
  have hz : ¬ ((List.range 4).all (fun i => (Tab.find (anchorElems data) i).getD (s.rd (K.managerAnchors i)) = 0) = true) := by
    intro h
    refine anchor_ne_zero hl hb ?_
    simpa [anchorElems, List.range_succ, Tab.find] using h
  have hck : s.writeCheck sess 0x7801 1 0 data = none := by
    simp only [State.writeCheck, hd, hel]
    rw [if_neg (by simp [State.mayWrite, hc]), if_neg (by decide), if_neg (by simp [rangeFits, hl]), if_neg (by simp [reservedIn]),
      if_neg (by simp [State.inRange]), if_neg (by simp), if_neg (fun h => hz h.2.2), if_neg (by simp)]
  unfold State.dictWrite
  simp only [hd, hck, hel]
  rfl

/-- The anchors read as they were written. -/
theorem State.rd_anchors (s : State) (data : List Byte) : ∀ i, i < 4 →
    (s.wrs ((anchorElems data).map (fun e => (ek 0x7801 1 e.1, e.2)))).rd (K.managerAnchors i) = beAt data (48 * i) 48 := by
  intro i hi
  have hne : ∀ i j, i < 4 → j < 4 → i ≠ j → ek 0x7801 1 i ≠ ek 0x7801 1 j := by
    intro i j _ _ h
    unfold ek
    omega
  have hcases : i = 0 ∨ i = 1 ∨ i = 2 ∨ i = 3 := by omega
  rcases hcases with rfl | rfl | rfl | rfl <;> simp [anchorElems, List.range_succ, State.rd_wr, hne]

/-- Settles O12: each write's effect is that of its own entry; the anchors by `dictWrite_anchors`. -/
theorem actingWrites : Obligations.ActingWrites := by
  intro s sess seq v p t data hM
  refine ⟨fun hv => ?coolant, fun hv => ?cause, fun hp ha hn => ?reset, fun hp hr => ?busy, execWarmResetReq_effect hM (by rw [State.warmResetReq, if_pos rfl]),
    fun hf => ?activate, fun hf => ?none, fun hl hb => ?anchors⟩
  case coolant =>
    refine ⟨_, execCoolantReport_effect hM hv, State.rd_wr_same (s.heard sess t) K.coolantReport v, ?_, ?_, rfl⟩
    · simp [State.coolantWrite, State.setGaff]
    · exact State.RegsBut.wr (t := s.heard sess t) (State.RegsBut.refl _ _) (by simp)
  case cause =>
    rw [execResetCauseWrite_effect hM hv, State.causeWrite, State.heard_rd]
  case reset =>
    refine execPartitionReset_effect hM hp ?_
    have ha' : (s.heard sess t).active p = true := by simpa [State.active] using ha
    rw [State.partResetWrite, if_neg (by simp [ha', hn])]
    simp [State.updBoot]
  case busy =>
    refine execPartitionReset_effect hM hp ?_
    rw [State.partResetWrite, if_pos (by simpa [State.active] using hr)]
  case activate =>
    refine execFirmwareActivate_effect hM ?_
    rw [State.firmActivate, State.firmState_heard, if_neg (by decide), if_neg (by simp [hf])]
    simp [State.updBoot]
  case none =>
    refine execFirmwareActivate_effect hM ?_
    rw [State.firmActivate, State.firmState_heard, if_neg (by decide), if_pos (by simp [hf])]
  case anchors =>
    have he : exec (.managerAnchorsWrite sess seq 0 data t) s = .next
        ((((s.heard sess t).wrs ((anchorElems data).map (fun e => (ek 0x7801 1 e.1, e.2)))).reclass).wrote sess seq Code.ok t) := by
      refine congrArg _ ((State.regWrite_eq s sess seq 0x7801 1 0 data t hM.1 (by decide) (by decide) (by decide) (by omega)).trans ?_)
      rw [State.dictWrite_anchors _ ((State.classOf_heard ..).trans hM.2) hl hb]
    refine ⟨_, he, ?_, State.rd_anchors _ data, ?_, ?_⟩
    · rw [State.wrs_only]
      refine List.map_congr_left fun e _ => ?_
      split <;> rfl
    · refine State.RegsBut.wrs _ (State.RegsBut.refl _ _) ?_
      simp [anchorElems, List.range_succ]
    · rw [State.wrs_only]
      rfl

end Sys2Proof.Machine

namespace Sys2Proof.Machine

/-! ### Fields of messages -/

/-- A field that begins after the first number of a byte string. -/
theorem beAt_toBE_skip (k v : Nat) (c : List Byte) (i n : Nat) (h : k ≤ i) : beAt (toBE k v ++ c) i n = beAt c (i - k) n :=
  beAt_skip _ _ _ _ _ (length_toBE ..) h

/-! ### Executing the requests of a session -/

theorem ownSession_eq_false {sess : Nat} (h : sess < 32) : ownSession sess = false := by
  simp [ownSession]
  omega

/-- A part that executes a requester's message runs its image. -/
theorem Executes.firmState_ne {s : State} {sess seq : Nat} (h : Executes s sess seq) (hs : sess < 32) : s.firmState ≠ 0 := by
  rcases h with ⟨ho, -⟩ | ⟨-, -, hf, -⟩
  · rw [ownSession_eq_false hs] at ho
    cases ho
  · exact hf

theorem Executes.seq_lt {s : State} {sess seq : Nat} (h : Executes s sess seq) (hs : sess < 32) : seq < 2 ^ 32 := by
  rcases h with ⟨ho, -⟩ | ⟨-, hq, -, -⟩
  · rw [ownSession_eq_false hs] at ho
    cases ho
  · exact hq

/-- The operation that a request of a known type asks for. -/
def State.fligOperation (s : State) (sess : Nat) (m : List Byte) (t : Nat) (fw : Bool × Bool) : (Nat × List Byte) × State :=
  let done := fun (r : Nat × State) => (((r.1, []) : Nat × List Byte), r.2)
  if fmType m = 0x01 then s.fligRead sess m
  else if fmType m = 0x02 then done (s.dictWrite sess (beAt m 12 2) (beAt m 14 1) (beAt m 16 4) (m.drop 24) t)
  else if fmType m = 0x04 then s.blockOpen sess m
  else if fmType m = 0x05 then s.blockData sess m
  else if fmType m = 0x06 then done (s.blockEnd sess m t fw)
  else if fmType m = 0x10 then s.subscribe sess m
  else done (s.unsubscribe sess m)

/-- A well-formed request in order, with no reserved bit set, is carried out and answered. -/
theorem State.fligDeliver_known {s v : State} {sess seq ty st t : Nat} {m body : List Byte} {fw : Bool × Bool}
    (hE : Executes s sess seq) (hs : sess < 32) (hty : fmType m = ty) (hseq : fmSeq m = seq) (hl : 12 ≤ m.length)
    (hk : fmKnown ty = true) (hf : fmFits m = true) (hr : fmReserved m = false)
    (he : (s.heard sess t).fligOperation sess m t fw = ((st, body), v)) :
    s.fligDeliver sess m t fw = v.answered sess ty seq st body t fw := by
  subst hty hseq
  have h13 : fmType m ≠ 0x13 ∧ fmType m < 128 := by
    simp only [fmKnown, List.contains_eq_mem, List.mem_cons, List.not_mem_nil, or_false, decide_eq_true_eq] at hk
    omega
  have hexec : (s.heard sess t).fligExec sess m t fw = ((st, body), v) := by
    have hrom : ¬ ((decide ((s.heard sess t).firmState = 0) && !(s.heard sess t).romServes sess m) = true) := by
      simp [State.firmState_heard, hE.firmState_ne hs]
    rw [State.fligExec, if_neg hrom, if_neg (by simp [hk]), if_neg (by simp [hf]), if_neg (by simp [hr])]
    exact he
  rw [State.fligDeliver_eq s sess m t fw (ownSession_eq_false hs) hE hl h13.1 h13.2 hr, hexec]

/-! ### WRITE of a staged entry -/

theorem State.writeEffect_staged (s : State) (sess : Nat) (d : Desc) (idx : Nat) (b : List Byte) (els : List (Nat × Nat)) (t : Nat)
    (h : d.acc = 3) : s.writeEffect sess d idx b els t = (Code.ok, s.setTake { s.take with
      staged := els.foldl (fun (m : Tab Nat) e => Tab.set m (ek idx d.sub e.1) e.2) s.take.staged }) := if_pos h

/-- A MANAGER's write of PARTITION_STATE (0x3000 + p:01) in its own open staging is staged, and refused where none is open. -/
theorem State.dictWrite_partitionState (s : State) {sess p v t : Nat} (hp : p < 64) (hv : v < 2) (hc : s.classOf sess = 2) :
    s.dictWrite sess (0x3000 + p) 1 0 (toBE 1 v) t =
      if s.takeState = 1 ∧ s.take.session = some sess then
        (Code.ok, s.setTake { s.take with staged := Tab.set s.take.staged (K.partitionState p) v })
      else (Code.busy, s) := by
  have hd : Dict.find (0x3000 + p) 1 = some ⟨0x3000, 64, 0x01, 2, 3, 1, 1, false, 0, 0, 0⟩ := by
    have h : ∀ p, p < 64 → Dict.find (0x3000 + p) 1 = some ⟨0x3000, 64, 0x01, 2, 3, 1, 1, false, 0, 0, 0⟩ := by decide
    exact h p hp
  have hel : s.elemsOfWrite ⟨0x3000, 64, 0x01, 2, 3, 1, 1, false, 0, 0, 0⟩ (0x3000 + p) 0 (toBE 1 v) = [(0, v)] := by
    unfold State.elemsOfWrite
    rw [if_neg (by decide), if_neg (by simp), writtenElems_one _ 1 v (by decide) rfl rfl, Nat.mod_eq_of_lt (by omega)]
  have hck : s.writeCheck sess (0x3000 + p) 1 0 (toBE 1 v) =
      if s.takeState = 1 ∧ s.take.session = some sess then none else some Code.busy := by
    simp only [State.writeCheck, hd, hel]
    rw [if_neg (by simp [State.mayWrite, hc]), if_neg (by decide), if_neg (by simp [rangeFits]), if_neg (by simp [reservedIn]; omega),
      if_neg (by simp [State.inRange]), if_neg (by simp), if_neg (by rintro ⟨h, -⟩; omega)]
    by_cases h : s.takeState = 1 ∧ s.take.session = some sess
    · rw [if_pos h, if_neg (by simp [h.1, State.stager, h.2])]
    · rw [if_neg h, if_pos (by simp [State.stager]; exact Decidable.not_and_iff_or_not.1 h)]
  unfold State.dictWrite
  simp only [hd, hck, hel]
  by_cases h : s.takeState = 1 ∧ s.take.session = some sess
  · simp only [if_pos h, State.writeEffect_staged _ _ _ _ _ _ _ (rfl : Desc.acc ⟨0x3000, 64, 0x01, 2, 3, 1, 1, false, 0, 0, 0⟩ = 3),
      List.foldl_cons, List.foldl_nil]
  · simp [if_neg h]

/-- The part's own firmware runs and has a staging open. -/
def ownStaging : State :=
  { regs := [(K.takeState, 1), (K.firmwareStatus, 2 ^ 30)], take := { session := some 256 } }

theorem ownStaging_manages : Manages ownStaging 256 0 := ⟨.inl ⟨rfl, by decide⟩, rfl⟩

/-- Its WRITE of 1 to 0x3000:01 stages PARTITION_STATE of partition 0. -/
theorem exec_ownStaging : exec (.fligiferWrite 256 0 (0x3000 + 0) 1 0 (toBE 1 1) 0) ownStaging = .next
    ((ownStaging.heard 256 0).setTake { (ownStaging.heard 256 0).take with
      staged := Tab.set (ownStaging.heard 256 0).take.staged (K.partitionState 0) 1 }) := by
  have hw := State.dictWrite_partitionState (t := 0) (ownStaging.heard 256 0) (p := 0) (v := 1) (sess := 256) (by decide) (by decide) rfl
  rw [if_pos ⟨rfl, rfl⟩] at hw
  refine congrArg _ ((State.regWrite_eq ownStaging 256 0 (0x3000 + 0) 1 0 (toBE 1 1) 0 ownStaging_manages.1 (by decide) (by decide)
    (by decide) (by decide)).trans ?_)
  rw [hw]
  rfl

/-- Refutes O13: a WRITE of 0x3000 + p:01 stages PARTITION_STATE of `p`, and not PARTITION_CLASS, which stands at 0x2100 + p:01
(02 R55, 17 R392); in `ownStaging` the shadow of PARTITION_CLASS still reads 0 where the statement has the 1 written. -/
theorem not_fligiferReadsAndWrites : ¬ Obligations.FligiferReadsAndWrites := by
  rintro ⟨-, hwrite⟩
  obtain ⟨-, hstaged, -⟩ := hwrite ownStaging 256 0 0 1 ownStaging_manages
  obtain ⟨w, he, hv, -⟩ := hstaged 0 (by decide) (by decide) rfl rfl
  have hw : (ownStaging.heard 256 0).setTake _ = w := Host.Outcome.next.inj (exec_ownStaging.symm.trans he)
  rw [← hw] at hv
  exact absurd hv (by decide)

end Sys2Proof.Machine

namespace Sys2Proof.Machine

/-- A MANAGER session whose record the table lists out of order, behind that of session 18, with one open block that all but four bytes
of the block buffer belong to. -/
def unsortedSessions : State :=
  { regs := [(K.firmwareStatus, 2 ^ 30)],
    sess := [(18, {}), (17, { cls := 2, blocks := [⟨0, false, 0x4401, 1, 0, 16777212, [], []⟩] })] }

theorem unsortedSessions_manages : Manages unsortedSessions 17 0 :=
  ⟨.inr ⟨by decide, by decide, by decide, _, rfl, .inl rfl⟩, rfl⟩

/-- Session 17 as the part hears it: its record now stands before that of session 18, and once more behind it. -/
def heardSession : Sess :=
  { cls := 2, stamp := 1, blocks := [⟨0, false, 0x4401, 1, 0, 16777212, [], []⟩] }

/-- The part counts the session's block twice, and refuses the four bytes with QUOTA_EXCEEDED: no block is opened. -/
theorem exec_unsortedSessions : ∃ v, exec (.blockOpen 17 0 0x4401 1 0 4 false 0) unsortedSessions = .next v ∧ v.boot.nextBlock = 0 :=
  ⟨_, rfl, by decide⟩

/-- Refutes O14: the block buffer's use is that of the table as it stands once the session is heard. In `unsortedSessions` the four
bytes of the open fit beside `s.blockBytes`, and the statement has the block opened; but hearing a session whose record stands out
of order lists it twice, and the open is refused. -/
theorem not_fligiferBlocks : ¬ Obligations.FligiferBlocks := by
  intro h
  obtain ⟨hopen, -⟩ := h unsortedSessions (unsortedSessions.heard 17 0) 17 0 0 0 heardSession ⟨0, false, 0, 0, 0, 0, [], []⟩
    unsortedSessions_manages (by decide) (by decide) rfl (by decide)
  obtain ⟨hwrite, -⟩ := hopen 0x4401 1 0 4 ⟨0x4401, 1, 0x01, 4, 2, 1, 4, false, 86400, 3600, 604800⟩ (by decide) (by decide) (by decide)
    (by decide) (by decide) (by decide) (by decide)
  obtain ⟨v, hv, h0⟩ := exec_unsortedSessions
  have he := Host.Outcome.next.inj (hv.symm.trans (hwrite (by decide)))
  rw [he] at h0
  exact absurd h0 (by decide)

end Sys2Proof.Machine

namespace Sys2Proof.Machine

/-! ### The records that a subscription has still to send (19 R432) -/

/-- The records of frames from `a` on, each with its frame, without the first `p` of frame `a`. -/
def dueFrom (ring : List (Nat × List (List Byte))) (a p : Nat) : List (Nat × List Byte) :=
  ((ring.filter (fun e => a ≤ e.1)).map (fun e => (if e.1 = a then e.2.drop p else e.2).map (fun r => (e.1, r)))).flatten

/-- The ring with the records of the partitions asked for alone. -/
def asked (parts : Nat) (ring : List (Nat × List (List Byte))) : List (Nat × List (List Byte)) :=
  ring.map (fun e => (e.1, e.2.filter (fun r => let p := beAt r 8 1; p = 0xFF || bit parts p)))

theorem State.recordsDue_eq (s : State) (x : Sub) : s.recordsDue x = dueFrom (asked x.parts s.dailies.ring) x.next x.pos := by
  unfold State.recordsDue dueFrom asked
  rw [List.filter_map, List.map_map]
  rfl

section
variable {r : Nat × List (List Byte)} {R : List (Nat × List (List Byte))} {a p : Nat}

theorem dueFrom_cons_before (h : r.1 < a) : dueFrom (r :: R) a p = dueFrom R a p := by
  simp [dueFrom, Nat.not_le.2 h]

/-- From frame `a` on, where the ring begins with a frame not before it: that frame's records, then those of the later frames. -/
theorem dueFrom_cons_from (h : a ≤ r.1) (hR : ∀ e ∈ R, r.1 < e.1) : dueFrom (r :: R) a p =
    (r.2.drop (if r.1 = a then p else 0)).map (fun x => (r.1, x)) ++ dueFrom R (r.1 + 1) 0 := by
  have hall : ∀ b, b ≤ r.1 + 1 → R.filter (fun e => b ≤ e.1) = R := fun b hb => by
    rw [List.filter_eq_self]
    intro e he
    have := hR e he
    simp
    omega
  have hrest : R.map (fun e => (if e.1 = a then e.2.drop p else e.2).map (fun x => (e.1, x))) =
      R.map (fun e => (if e.1 = r.1 + 1 then e.2.drop 0 else e.2).map (fun x => (e.1, x))) := by
    refine List.map_congr_left fun e he => ?_
    have := hR e he
    rw [if_neg (show ¬ e.1 = a by omega), List.drop_zero, ite_self]
  unfold dueFrom
  rw [List.filter_cons, if_pos (by simpa using h), hall a (by omega), hall (r.1 + 1) (Nat.le_refl _), List.map_cons, List.flatten_cons, hrest]
  congr 2
  split <;> simp

end

theorem le_of_mem_dueFrom {R : List (Nat × List (List Byte))} {a p : Nat} {e : Nat × List Byte} (h : e ∈ dueFrom R a p) : a ≤ e.1 := by
  simp only [dueFrom, List.mem_flatten, List.mem_map, List.mem_filter, decide_eq_true_eq] at h
  obtain ⟨l, ⟨x, ⟨-, hx⟩, rfl⟩, he⟩ := h
  obtain ⟨y, -, rfl⟩ := List.mem_map.1 he
  exact hx

/-- Once `l` has gone out, what is left is due from its own first frame, after as many of that frame's records as have gone. -/
theorem dueFrom_rest : ∀ {R : List (Nat × List (List Byte))} {a p : Nat} {l rest : List (Nat × List Byte)} {e : Nat × List Byte},
    (R.map Prod.fst).Pairwise (· < ·) → dueFrom R a p = l ++ e :: rest →
    dueFrom R e.1 ((if e.1 = a then p else 0) + (l.filter (fun y => y.1 = e.1)).length) = e :: rest := by
  intro R
  induction R with
  | nil => intro a p l rest e _ h; simp [dueFrom] at h
  | cons r R ih =>
    intro a p l rest e hs h
    rw [List.map_cons] at hs
    obtain ⟨hlt, hs⟩ := List.pairwise_cons.1 hs
    have hR : ∀ x ∈ R, r.1 < x.1 := fun x hx => hlt _ (List.mem_map_of_mem hx)
    have hae : a ≤ e.1 := le_of_mem_dueFrom (R := r :: R) (p := p) (by rw [h]; simp)
    by_cases ha : a ≤ r.1
    case neg =>
      rw [dueFrom_cons_before (by omega)] at h ⊢
      exact ih hs h
    rw [dueFrom_cons_from ha hR] at h
    obtain ⟨l', hl, h'⟩ | ⟨b, hb, h'⟩ := List.append_eq_append_iff.1 h
    · -- `l` reaches into the later frames
      have hre : r.1 + 1 ≤ e.1 := le_of_mem_dueFrom (R := R) (p := 0) (by rw [h']; simp)
      have hnone : ((r.2.drop (if r.1 = a then p else 0)).map (fun x => (r.1, x))).filter (fun y => y.1 = e.1) = [] := by
        rw [List.filter_eq_nil_iff]
        intro y hy
        obtain ⟨x, -, rfl⟩ := List.mem_map.1 hy
        simp
        omega
      have := ih hs h'
      rw [ite_self, Nat.zero_add] at this
      rw [dueFrom_cons_before (by omega), hl, List.filter_append, hnone, List.nil_append, if_neg (by omega), Nat.zero_add, this]
    · cases b with
      | nil =>
        have hre : r.1 + 1 ≤ e.1 := le_of_mem_dueFrom (R := R) (p := 0) (by rw [← List.nil_append (dueFrom _ _ _), ← h']; simp)
        have hnone : l.filter (fun y => y.1 = e.1) = [] := by
          rw [List.append_nil] at hb
          rw [← hb, List.filter_eq_nil_iff]
          intro y hy
          obtain ⟨x, -, rfl⟩ := List.mem_map.1 hy
          simp
          omega
        have := ih (l := []) hs h'.symm
        rw [ite_self] at this
        rw [dueFrom_cons_before (by omega), hnone, if_neg (by omega)]
        exact this
      | cons c b =>
        -- `l` ends within the records of frame `r.1`
        simp only [List.cons_append, List.cons.injEq] at h'
        obtain ⟨rfl, h'⟩ := h'
        have hfr : ∀ y ∈ l ++ e :: b, y.1 = r.1 := by
          rw [← hb]
          intro y hy
          obtain ⟨x, -, rfl⟩ := List.mem_map.1 hy
          rfl
        have her : e.1 = r.1 := hfr e (by simp)
        have hall : l.filter (fun y => y.1 = e.1) = l := by
          rw [List.filter_eq_self]
          intro y hy
          simp [hfr y (by simp [hy]), her]
        have htail : (r.2.drop ((if r.1 = a then p else 0) + l.length)).map (fun x => (r.1, x)) = e :: b := by
          have := congrArg (List.drop l.length) hb
          rw [← List.map_drop, List.drop_drop] at this
          simpa using this
        rw [her] at hall ⊢
        rw [hall, dueFrom_cons_from (Nat.le_refl _) hR, if_pos rfl, htail, h']
        simp

/-- Once everything due has gone out, nothing is due from the frame after the last. -/
theorem dueFrom_all_sent : ∀ {R : List (Nat × List (List Byte))} {a p : Nat} {l : List (Nat × List Byte)} {e : Nat × List Byte},
    (R.map Prod.fst).Pairwise (· < ·) → dueFrom R a p = l ++ [e] → dueFrom R (e.1 + 1) 0 = [] := by
  intro R
  induction R with
  | nil => intro a p l e _ h; simp [dueFrom] at h
  | cons r R ih =>
    intro a p l e hs h
    rw [List.map_cons] at hs
    obtain ⟨hlt, hs⟩ := List.pairwise_cons.1 hs
    have hR : ∀ x ∈ R, r.1 < x.1 := fun x hx => hlt _ (List.mem_map_of_mem hx)
    have hae : a ≤ e.1 := le_of_mem_dueFrom (R := r :: R) (p := p) (by rw [h]; simp)
    by_cases ha : a ≤ r.1
    case neg =>
      rw [dueFrom_cons_before (by omega)] at h ⊢
      exact ih hs h
    rw [dueFrom_cons_from ha hR] at h
    rcases List.eq_nil_or_concat (dueFrom R (r.1 + 1) 0) with hnil | ⟨l', e', hl'⟩
    · rw [hnil, List.append_nil] at h
      have her : e.1 = r.1 := by
        have hm : e ∈ (r.2.drop (if r.1 = a then p else 0)).map (fun x => (r.1, x)) := by rw [h]; simp
        obtain ⟨x, -, rfl⟩ := List.mem_map.1 hm
        rfl
      rw [dueFrom_cons_before (by omega), her, hnil]
    · rw [List.concat_eq_append] at hl'
      have hee : e' = e := by
        have := congrArg List.getLast? h
        simpa [hl', ← List.append_assoc] using this
      subst hee
      have hre : r.1 + 1 ≤ e'.1 := le_of_mem_dueFrom (R := R) (p := 0) (by rw [hl']; simp)
      rw [dueFrom_cons_before (by omega)]
      exact ih hs hl'

end Sys2Proof.Machine

namespace Sys2Proof.Machine

/-! ### Dailies subscriptions (19 R432, R433) -/

/-- Where a subscription goes on once `l` of what was due has gone out and `rest` has not. -/
def Sub.goesOn (x : Sub) (l rest : List (Nat × List Byte)) : Nat × Nat :=
  match rest with
  | e :: _ => (e.1, (if e.1 = x.next then x.pos else 0) + (l.filter (fun (y : Nat × List Byte) => y.1 = e.1)).length)
  | [] => if l.isEmpty then (x.next, x.pos) else ((l.getLast?.map (fun e => e.1)).getD x.next + 1, 0)

/-- What is due of a subscription that has gone on is the rest. -/
theorem State.recordsDue_goesOn (s : State) {x z : Sub} {l rest : List (Nat × List Byte)}
    (hr : (s.dailies.ring.map (fun (e : Nat × List (List Byte)) => e.1)).Pairwise (· < ·)) (hd : s.recordsDue x = l ++ rest)
    (hp : z.parts = x.parts) (hz : (z.next, z.pos) = x.goesOn l rest) : s.recordsDue z = rest := by
  have hs : ((asked x.parts s.dailies.ring).map Prod.fst).Pairwise (· < ·) := by
    simpa [asked, Function.comp_def] using hr
  rw [State.recordsDue_eq] at hd
  rw [State.recordsDue_eq, hp]
  cases rest with
  | cons e rest =>
    obtain ⟨h1, h2⟩ := Prod.mk.inj hz
    rw [h1, h2]
    exact dueFrom_rest hs hd
  | nil =>
    rcases List.eq_nil_or_concat l with rfl | ⟨l', e, rfl⟩
    · obtain ⟨h1, h2⟩ := Prod.mk.inj hz
      rw [h1, h2]
      exact hd
    · rw [List.append_nil, List.concat_eq_append] at hd
      have hgo : x.goesOn (l'.concat e) [] = (e.1 + 1, 0) := by simp [Sub.goesOn]
      obtain ⟨h1, h2⟩ := Prod.mk.inj (hz.trans hgo)
      rw [h1, h2]
      exact dueFrom_all_sent hs hd

/-- The DAILIES_DATA of what is due of `y`, `l` of its records and the first of its roll-ups. -/
def Sub.dataMsg (y : Sub) (id : Nat) (l : List (Nat × List Byte)) : List Byte :=
  fmMsg 0x12 y.seq 0 (toBE 1 id ++ toBE 1 (b2n y.gap) ++ toBE 2 l.length ++
    toBE 8 ((l.head?.map (fun (e : Nat × List Byte) => e.1)).getD y.next) ++ (l.map (fun (e : Nat × List Byte) => e.2)).flatten ++ y.rolls.headD [])

/-- The subscription once it has gone out. -/
def Sub.advanced (y : Sub) (id : Nat) (l rest : List (Nat × List Byte)) : Sub :=
  { y with next := (y.goesOn l rest).1, pos := (y.goesOn l rest).2, seq := (y.seq + 1) % 2 ^ 32,
           sent := y.sent ++ [(y.seq, y.dataMsg id l)], gap := false, rolls := y.rolls.drop 1 }

/-- The subscription where the ring no longer holds what is due next. -/
def Sub.caughtUp (x : Sub) (old : Nat) : Sub := if x.next < old then { x with next := old, pos := 0, gap := true } else x

theorem Sub.caughtUp_kept (x : Sub) (old : Nat) : (x.caughtUp old).sess = x.sess ∧ (x.caughtUp old).parts = x.parts ∧
    (x.caughtUp old).seq = x.seq ∧ (x.caughtUp old).sent = x.sent ∧ (x.caughtUp old).rolls = x.rolls := by
  unfold Sub.caughtUp
  split <;> exact ⟨rfl, rfl, rfl, rfl, rfl⟩

/-- The next message of a subscription that has something due and room for one more. -/
theorem State.dailiesNext_due (s : State) {id n k old : Nat} {x : Sub} {l : List (Nat × List Byte)} (hx : Tab.find s.dailies.subs id = some x)
    (hsent : x.sent.length < 32) (hold : old = s.ringOldest.getD x.next) (hk : k = min n (if x.rolls.isEmpty then 41 else 4))
    (hl : l = (s.recordsDue (x.caughtUp old)).take k) (hdue : l ≠ [] ∨ x.rolls ≠ []) :
    s.dailiesNext id n = (some (x.sess, (x.caughtUp old).dataMsg id l),
      { (if x.next < old then s.count (K.fligiferCounts 9) (old - x.next) else s) with dailies := { s.dailies with
        subs := Tab.set s.dailies.subs id ((x.caughtUp old).advanced id l ((s.recordsDue (x.caughtUp old)).drop k)) } }) := by
  subst hold hk
  have hfull : ¬ 32 ≤ x.sent.length := by omega
  by_cases hskip : x.next < s.ringOldest.getD x.next
  · have hy : x.caughtUp (s.ringOldest.getD x.next) = { x with next := s.ringOldest.getD x.next, pos := 0, gap := true } := if_pos hskip
    rw [hy] at hl ⊢
    subst hl
    have hc : ∀ y, (s.count (K.fligiferCounts 9) (s.ringOldest.getD x.next - x.next)).recordsDue y = s.recordsDue y := fun y => rfl
    have hd : ¬ ((s.recordsDue { x with next := s.ringOldest.getD x.next, pos := 0, gap := true }).take
        (min n (if x.rolls.isEmpty then 41 else 4))).isEmpty = true ∨ ¬ x.rolls.isEmpty = true := by
      simpa only [List.isEmpty_iff] using hdue
    unfold State.dailiesNext
    simp only [hx, if_neg hfull, hskip, decide_true, if_true, hc, if_neg (not_and_of_not_or_not hd)]
    rfl
  · have hy : x.caughtUp (s.ringOldest.getD x.next) = x := if_neg hskip
    rw [hy] at hl ⊢
    subst hl
    have hd : ¬ ((s.recordsDue x).take (min n (if x.rolls.isEmpty then 41 else 4))).isEmpty = true ∨ ¬ x.rolls.isEmpty = true := by
      simpa only [List.isEmpty_iff] using hdue
    unfold State.dailiesNext
    simp only [hx, if_neg hfull, hskip, decide_false, Bool.false_eq_true, if_false, if_neg (not_and_of_not_or_not hd)]
    rfl

/-! ### The requests of a subscription -/

/-- A SUBSCRIBE as bytes. -/
def subscribeMsg (seq id parts start : Nat) : List Byte := fmMsg 0x10 seq 0 (toBE 1 id ++ toBE 3 0 ++ toBE 8 parts ++ toBE 8 start)

section
variable {s : State} {sess seq id parts start t : Nat}

theorem subscribeMsg_fields (hi : id < 4) (hp : parts < 2 ^ 64) (hs : start < 2 ^ 64) :
    fmType (subscribeMsg seq id parts start) = 0x10 ∧ fmFits (subscribeMsg seq id parts start) = true ∧
    fmReserved (subscribeMsg seq id parts start) = false ∧ beAt (subscribeMsg seq id parts start) 12 1 = id ∧
    beAt (subscribeMsg seq id parts start) 16 8 = parts ∧ beAt (subscribeMsg seq id parts start) 24 8 = start := by
  have hty : fmType (subscribeMsg seq id parts start) = 0x10 := fmType_msg ..
  have hfl : fmFlags (subscribeMsg seq id parts start) = 0 := fmFlags_msg ..
  have hr : beAt (subscribeMsg seq id parts start) 10 2 = 0 := fmRsvd_msg ..
  have hn : fmLen (subscribeMsg seq id parts start) = 32 := by simp [subscribeMsg, fmLen_msg]
  have hlen : (subscribeMsg seq id parts start).length = 32 := by simp [subscribeMsg]
  have h13 : beAt (subscribeMsg seq id parts start) 13 3 = 0 := by
    rw [subscribeMsg, beAt_body _ _ _ _ _ _ (by decide)]
    simp only [List.append_assoc, beAt_toBE_skip, beAt_toBE, Nat.reduceSub, Nat.reduceLeDiff] <;> rfl
  refine ⟨hty, ?_, ?_, ?_, ?_, ?_⟩
  · simp [fmFits, hty, hlen, hn]
  · simp [fmReserved, hty, hfl, hr, h13]
  all_goals
    rw [subscribeMsg, beAt_body _ _ _ _ _ _ (by decide)]
    simp only [List.append_assoc, beAt_toBE_skip, beAt_toBE, beAt_last, Nat.reduceSub, Nat.reduceLeDiff]
  · exact Nat.mod_eq_of_lt (by omega)
  · exact Nat.mod_eq_of_lt hp
  · exact Nat.mod_eq_of_lt hs

/-- A request of the one byte SUB_ID. -/
theorem idMsg_fields {ty : Nat} (hty : ty = 0x11 ∨ ty = 0x13) (hi : id < 4) :
    fmType (fmMsg ty seq 0 (toBE 1 id)) = ty ∧ fmFits (fmMsg ty seq 0 (toBE 1 id)) = true ∧
    fmReserved (fmMsg ty seq 0 (toBE 1 id)) = false ∧ beAt (fmMsg ty seq 0 (toBE 1 id)) 12 1 = id := by
  have h1 : fmType (fmMsg ty seq 0 (toBE 1 id)) = ty := by
    rw [fmType_msg]
    omega
  have hfl : fmFlags (fmMsg ty seq 0 (toBE 1 id)) = 0 := fmFlags_msg ..
  have hr : beAt (fmMsg ty seq 0 (toBE 1 id)) 10 2 = 0 := fmRsvd_msg ..
  have hn : fmLen (fmMsg ty seq 0 (toBE 1 id)) = 13 := by simp [fmLen_msg]
  refine ⟨h1, ?_, ?_, ?_⟩
  · rcases hty with rfl | rfl <;> simp [fmFits, h1, hn]
  · rcases hty with rfl | rfl <;> simp [fmReserved, h1, hfl, hr]
  · rw [beAt_body _ _ _ _ _ _ (by decide), Nat.sub_self, beAt_last]
    exact Nat.mod_eq_of_lt (by omega)

theorem execSubscribe_effect (hM : Manages s sess seq) (hs : sess < 32) (hi : id < 4) (hp : parts < 2 ^ 64) (hst : start < 2 ^ 64)
    (ho : ∀ x, Tab.find s.dailies.subs id = some x → x.sess = sess) {f : Nat}
    (hf : f = if start = 0 then s.frame + 1 else match s.dailies.ring with
      | e :: _ => max e.1 start
      | [] => max s.frame start) :
    exec (.subscribe sess seq id parts start t) s = .next
      (({ s.heard sess t with dailies := { s.dailies with subs := Tab.set s.dailies.subs id ⟨sess, parts, f, 0, 0, [], false, []⟩ } }
        : State).answered sess 0x10 seq Code.ok (toBE 8 f) t (true, true)) := by
  obtain ⟨hty, hfit, hres, h12, h16, h24⟩ := subscribeMsg_fields (seq := seq) hi hp hst
  change Host.Outcome.next (s.fligDeliver sess (subscribeMsg seq id parts start) t (true, true)) = _
  refine congrArg _ (State.fligDeliver_known hM.1 hs hty ?_ (by simp [subscribeMsg]) (by decide) hfit hres ?_)
  · rw [subscribeMsg, fmSeq_msg]
    exact Nat.mod_eq_of_lt (hM.1.seq_lt hs)
  unfold State.fligOperation
  rw [hty]
  simp only [State.subscribe, h12, h16, h24, State.heard_dailies, State.heard_frame, State.ringOldest,
    (State.classOf_heard s sess t).trans hM.2, Nat.reduceEqDiff, if_false, if_true, ne_eq, not_true,
    Nat.not_lt.2 (show id ≤ 3 by omega), State.setSubs]
  cases hfind : Tab.find s.dailies.subs id with
  | none => cases hring : s.dailies.ring <;> rw [hring] at hf <;> subst hf <;> rfl
  | some x =>
    simp only [ho x hfind, not_true, decide_false, Bool.false_eq_true, if_false]
    cases hring : s.dailies.ring <;> rw [hring] at hf <;> subst hf <;> rfl

theorem execUnsubscribe_effect {x : Sub} (hM : Manages s sess seq) (hs : sess < 32) (hi : id < 4) (hx : Tab.find s.dailies.subs id = some x)
    (ho : x.sess = sess) : exec (.unsubscribe sess seq id t) s = .next
      (({ s.heard sess t with dailies := { s.dailies with subs := Tab.erase s.dailies.subs id } } : State).answered sess 0x11 seq
        Code.ok [] t (true, true)) := by
  obtain ⟨hty, hfit, hres, h12⟩ := idMsg_fields (seq := seq) (.inl rfl) hi
  refine congrArg _ (State.fligDeliver_known hM.1 hs hty ?_ (by simp) (by decide) hfit hres ?_)
  · rw [fmSeq_msg]
    exact Nat.mod_eq_of_lt (hM.1.seq_lt hs)
  unfold State.fligOperation
  rw [hty]
  simp only [State.unsubscribe, h12, State.heard_dailies, hx, ho, Nat.reduceEqDiff, if_false, if_true, State.setSubs]

/-- An acknowledgement is taken from any open session, in no order. -/
theorem execDailiesAck_effect {x : Sub} {y : Sess} (hs : sess < 32) (hy : s.session sess = some y) (hq : seq < 2 ^ 32) (hi : id < 4)
    (hx : Tab.find s.dailies.subs id = some x) (ho : x.sess = sess) :
    exec (.dailiesAck sess seq id t) s = .next { s.heard sess t with dailies := { s.dailies with
      subs := Tab.set s.dailies.subs id { x with sent := x.sent.filter (fun e => seqAfter seq e.1) } } } := by
  obtain ⟨hty, hfit, -, h12⟩ := idMsg_fields (seq := seq) (.inr rfl) hi
  have hseq : fmSeq (fmMsg 0x13 seq 0 (toBE 1 id)) = seq := by
    rw [fmSeq_msg]
    exact Nat.mod_eq_of_lt hq
  have hh : (s.at t).sessTouch sess = s.heard sess t := by simp [State.heard, ownSession_eq_false hs]
  obtain ⟨n, hn⟩ := State.heard_session (t := t) (by omega) hy
  change Host.Outcome.next (s.fligDeliver sess (fmMsg 0x13 seq 0 (toBE 1 id)) t (true, true)) = _
  unfold State.fligDeliver State.fligRecv
  rw [hh]
  simp only [hn, hty, hfit, Nat.not_le.2 hs, State.dailiesAck, h12, hseq, State.heard_dailies, hx, ho, length_fmMsg, length_toBE,
    Nat.reduceAdd, Nat.reduceLT, if_false, if_true, List.foldl_nil, State.setSubs]

end

/-- Settles O15: the requests by their fields, what a message leaves due by `recordsDue_goesOn`. -/
theorem dailiesSubscriptions : Obligations.DailiesSubscriptions := by
  intro s sess seq id t hi
  refine ⟨fun parts start hM hs hp hst ho => ⟨_, rfl, execSubscribe_effect hM hs hi hp hst ho rfl⟩,
    fun x hM hs hx ho => execUnsubscribe_effect hM hs hi hx ho, fun x y hs hy hq hx ho => execDailiesAck_effect hs hy hq hi hx ho,
    ?data, ?resend⟩
  case data =>
    intro x y v n l m old hx ho hsent hring hold hy hv hl hdue hm
    have hy' : y = x.caughtUp old := hy
    obtain ⟨-, hparts, hseq, hsent', hrolls⟩ := x.caughtUp_kept old
    have hold' : old = s.ringOldest.getD x.next := by
      rw [hold, State.ringOldest, List.head?_map]
    have hk : min n (if x.rolls = [] then 41 else 4) = min n (if x.rolls.isEmpty then 41 else 4) := by
      simp only [List.isEmpty_iff]
    have hm' : (x.caughtUp old).dataMsg id l = m := by
      rw [hm, hy', Sub.dataMsg, hseq, hrolls]
    rw [hk, hy'] at hl
    refine ⟨(x.caughtUp old).advanced id l ((s.recordsDue (x.caughtUp old)).drop (min n (if x.rolls.isEmpty then 41 else 4))), ?_, ?_, ?_⟩
    · have hnext := State.dailiesNext_due s hx hsent hold' rfl hl hdue
      change Host.Outcome.next (match s.dailiesNext id n with | (some x, s) => s.fligPush x.1 x.2 | (none, s) => s) = _
      rw [hnext, ho, hm', ← hv]
    · rw [hy', Sub.advanced, hm', hseq, hsent', hrolls]
    · have hsplit : s.recordsDue (x.caughtUp old) = l ++ (s.recordsDue (x.caughtUp old)).drop (min n (if x.rolls.isEmpty then 41 else 4)) := by
        rw [hl, List.take_append_drop]
      have hz := State.recordsDue_goesOn (z := (x.caughtUp old).advanced id l
        ((s.recordsDue (x.caughtUp old)).drop (min n (if x.rolls.isEmpty then 41 else 4)))) s hring hsplit rfl rfl
      rw [hz, hy']
      conv =>
        rhs
        rw [hsplit, List.drop_left]
  case resend =>
    intro x n m l hx ho hsent
    change Host.Outcome.next (match Tab.find s.dailies.subs id with
      | some x => (match x.sent with
        | m :: _ => (s.fligPush x.sess m.2).count (K.fligiferCounts 8) 1
        | [] => s)
      | none => s) = _
    rw [hx]
    simp only [hsent, ho]

end Sys2Proof.Machine

namespace Sys2Proof.Machine

/-! ### What serving and answering a request leave -/

/-- `t` is `s` with other ports, routers, waiting requests, counts and meters: what messages change. -/
def State.Talked (s t : State) : Prop :=
  ∃ ports mesh waiting regs meter, t = { s with ports := ports, mesh := mesh, waiting := waiting, regs := regs, meter := meter }

namespace State.Talked

theorem refl (s : State) : s.Talked s := ⟨_, _, _, _, _, rfl⟩

theorem trans {s t u : State} : s.Talked t → t.Talked u → s.Talked u := by
  rintro ⟨_, _, _, _, _, rfl⟩ ⟨_, _, _, _, _, rfl⟩
  exact ⟨_, _, _, _, _, rfl⟩

theorem foldl {α : Type} {f : State → α → State} (hf : ∀ (s : State) x, s.Talked (f s x)) : ∀ (l : List α) (s : State), s.Talked (l.foldl f s) := by
  intro l
  induction l with
  | nil => exact refl
  | cons x l ih => exact fun s => (hf s x).trans (ih _)

variable {s t : State}

theorem mem (h : s.Talked t) : t.mem = s.mem := by obtain ⟨_, _, _, _, _, rfl⟩ := h; rfl
theorem errs (h : s.Talked t) : t.errs = s.errs := by obtain ⟨_, _, _, _, _, rfl⟩ := h; rfl
theorem written (h : s.Talked t) : t.written = s.written := by obtain ⟨_, _, _, _, _, rfl⟩ := h; rfl
theorem tags (h : s.Talked t) : t.tags = s.tags := by obtain ⟨_, _, _, _, _, rfl⟩ := h; rfl
theorem byteAt (h : s.Talked t) (a : Nat) : t.byteAt a = s.byteAt a := by rw [State.byteAt, h.mem]; rfl

end State.Talked

theorem State.count_talked (s : State) (k n : Nat) : s.Talked (s.count k n) := ⟨_, _, _, _, _, rfl⟩

theorem State.sendResp_talked (s : State) (p : Nat) (m : Msg) : s.Talked (s.sendResp p m) := by
  unfold State.sendResp State.send
  simp only []
  split <;> exact ⟨_, _, _, _, _, rfl⟩

theorem State.answer_talked (s : State) (r : Req) (op st : Nat) (body : List Byte) : s.Talked (s.answer r op st body) := by
  have hone : ∀ (u : State) (p q k : Nat) (m : Msg) (b : Prop) [Decidable b], u.Talked (if b then u.sendResp p m else u.count k 1) := by
    intro u p q k m b _
    split
    · exact u.sendResp_talked p m
    · exact u.count_talked k 1
  have hfirst : ∀ p q m k (b : Prop) [Decidable b], s.Talked (if b then (s.setPort p q).sendResp p m else (s.setPort p q).count k 1) :=
    fun p q m k b _ => State.Talked.trans (t := s.setPort p q) ⟨_, _, _, _, _, rfl⟩ (hone _ p 0 k m b)
  unfold State.answer
  simp only []
  by_cases hc : classC r.op = true
  · rw [if_pos hc]
    refine (hfirst _ _ _ _ _).trans (State.Talked.foldl (fun u x => ?_) _ _)

    split
    · refine State.Talked.trans ?_ ((State.sendResp_talked _ _ _).trans (State.count_talked _ _ _))
      exact ⟨_, _, _, _, _, rfl⟩
    · exact ⟨_, _, _, _, _, rfl⟩
  · rw [if_neg hc]
    exact hfirst ..

theorem State.accepted_talked (s : State) (port op : Nat) (h : Hdr) (b : List Byte) (n t : Nat) :
    (s.at t).Talked (s.accepted port op h b n t).2 := by
  unfold State.accepted State.accept
  simp only []
  split <;> exact ⟨_, _, _, _, _, rfl⟩

theorem State.useCells_talked (s : State) (port p len : Nat) : s.Talked (s.useCells port p len) := by
  unfold State.useCells State.slowUse
  simp only []
  split
  · exact ⟨_, _, _, _, _, rfl⟩
  · split <;> exact ⟨_, _, _, _, _, rfl⟩

theorem State.began_talked (s : State) (port op : Nat) (h : Hdr) (b : List Byte) (n t : Nat) : (s.at t).Talked (s.began port op h b n t) := by
  unfold State.began
  split
  · exact s.accepted_talked ..
  · exact (s.accepted_talked ..).trans (State.useCells_talked ..)

end Sys2Proof.Machine

namespace Sys2Proof.Machine

/-! ### Bytes of memory -/

/-- The byte that a memory holds at an address. -/
def memAt (m : List Host.Cell) (a : Nat) : Byte := (Tab.find m a).getD 0#8

theorem State.byteAt_eq (s : State) (a : Nat) : s.byteAt a = memAt s.mem a := rfl

theorem memAt_memPut (m : List Host.Cell) (a x : Nat) (b : Byte) : memAt (memPut m a b) x = if x = a then b else memAt m x := by
  unfold memPut memAt
  by_cases hx : x = a
  · subst hx
    split <;> simp_all
  · rw [if_neg hx]
    split
    · rw [Tab.find_erase_other _ _ _ hx]
    · rw [Tab.find_set_other _ _ _ _ hx]

theorem memAt_memPuts (x : Nat) : ∀ (l : List Byte) (m : List Host.Cell) (a : Nat),
    memAt (memPuts m a l) x = if a ≤ x ∧ x < a + l.length then l.getD (x - a) 0#8 else memAt m x := by
  intro l
  induction l with
  | nil => intro m a; rw [if_neg (by simp)]; rfl
  | cons b l ih =>
    intro m a
    rw [memPuts, ih, memAt_memPut, List.length_cons]
    by_cases hx : x = a
    · subst hx
      rw [if_neg (by omega), if_pos rfl, if_pos (by omega), Nat.sub_self]
      rfl
    · rw [if_neg hx]
      by_cases hin : a + 1 ≤ x ∧ x < a + 1 + l.length
      · rw [if_pos hin, if_pos (by omega), show x - a = x - (a + 1) + 1 by omega]
        rfl
      · rw [if_neg hin, if_neg (by omega)]

/-! ### What accesses to memory leave -/

theorem slotOf_lt (va : Nat) : slotOf va < 32 :=
  Nat.xor_lt_two_pow (n := 5) (Nat.mod_lt _ (by decide)) (Nat.mod_lt _ (by decide))


/-- Granules, tags, relocation, slots, keys and the stacks in use are the same in both states. -/
structure State.SamePlaces (s w : State) : Prop where
  written : w.written = s.written
  tags : w.tags = s.tags
  cont : w.cont = s.cont
  tile : ∀ i, i < 32 → w.tileAt i = s.tileAt i
  key : ∀ d, d < 2 ^ 14 → w.keySt d = s.keySt d
  lost : ∀ i, (w.stack i).lost = (s.stack i).lost

/-- And memory and its errors are. -/
structure State.SameMemory (s w : State) : Prop extends State.SamePlaces s w where
  mem : w.mem = s.mem
  errs : w.errs = s.errs

namespace State.SamePlaces

variable {s w v : State}

theorem trans (h : s.SamePlaces w) (g : w.SamePlaces v) : s.SamePlaces v :=
  ⟨g.written.trans h.written, g.tags.trans h.tags, g.cont.trans h.cont, fun i hi => (g.tile i hi).trans (h.tile i hi),
    fun d hd => (g.key d hd).trans (h.key d hd), fun i => (g.lost i).trans (h.lost i)⟩

theorem homeDpa (h : s.SamePlaces w) (e va : Nat) : w.homeDpa e va = s.homeDpa e va := by
  rw [State.homeDpa, State.homeTile, h.tile _ (slotOf_lt va)]
  rfl

theorem isFresh (h : s.SamePlaces w) (a : Nat) : w.isFresh a = s.isFresh a := by simp [State.isFresh, h.written]

end State.SamePlaces

theorem State.SameMemory.refl (s : State) : s.SameMemory s := ⟨⟨rfl, rfl, rfl, fun _ _ => rfl, fun _ _ => rfl, fun _ => rfl⟩, rfl, rfl⟩

theorem State.SameMemory.trans {s w v : State} (h : s.SameMemory w) (g : w.SameMemory v) : s.SameMemory v :=
  ⟨h.toSamePlaces.trans g.toSamePlaces, g.mem.trans h.mem, g.errs.trans h.errs⟩

/-- Counting in an element that is neither a slot's tile nor a key's state. -/
theorem State.count_sameMemory (s : State) (k n : Nat) (h1 : ∀ i, i < 32 → K.slotMap i ≠ k) (h2 : ∀ d, d < 2 ^ 14 → K.keyState d ≠ k) :
    s.SameMemory (s.count k n) :=
  ⟨⟨rfl, rfl, rfl, fun i hi => State.rd_wr_other _ _ _ _ (h1 i hi), fun d hd => State.rd_wr_other _ _ _ _ (h2 d hd), fun _ => rfl⟩, rfl, rfl⟩

theorem State.count_integrity_sameMemory (s : State) {t el : Nat} (n : Nat) (_ : t < 36) (_ : el < 256) :
    s.SameMemory (s.count (K.integrityCounts t el) n) := by
  refine s.count_sameMemory _ n (fun i hi => ?_) (fun d hd => ?_) <;> simp only [ek, ne_eq] <;> omega

theorem State.count_stack_sameMemory (s : State) {t el : Nat} (n : Nat) (_ : t < 36) (_ : el < 256) :
    s.SameMemory (s.count (K.stackCounts t el) n) := by
  refine s.count_sameMemory _ n (fun i hi => ?_) (fun d hd => ?_) <;> simp only [ek, ne_eq] <;> omega

theorem State.setStack_sameMemory (s : State) (t : Nat) (k : Stack) (h : k.lost = (s.stack t).lost) : s.SameMemory (s.setStack t k) := by
  refine ⟨⟨rfl, rfl, rfl, fun _ _ => rfl, fun _ _ => rfl, fun i => ?_⟩, rfl, rfl⟩
  by_cases hi : i = t
  · subst hi
    simpa using h
  · rw [State.stack_setStack_other _ _ _ _ hi]

theorem State.meterAdd_sameMemory (s : State) (p f n : Nat) : s.SameMemory (s.meterAdd p f n) :=
  ⟨⟨rfl, rfl, rfl, fun _ _ => rfl, fun _ _ => rfl, fun _ => rfl⟩, rfl, rfl⟩

theorem State.burst_sameMemory (s : State) {ln : Nat} (handle : Nat) (wr : Bool) (ht : ln / 2 ^ 30 < 36) : s.SameMemory (s.burst ln handle wr) := by
  have h1 : s.SameMemory (if (s.stack (ln / 2 ^ 30)).lost then s else s.setStack (ln / 2 ^ 30) { s.stack (ln / 2 ^ 30) with
      queue := (s.stack (ln / 2 ^ 30)).queue ++ [⟨ln % 2 ^ 30, handle, wr⟩] }) := by
    split
    · exact State.SameMemory.refl s
    · exact s.setStack_sameMemory _ _ rfl
  have h2 := h1.trans (State.meterAdd_sameMemory _ (if handle = 0 then 64 else handlePart handle) (if wr then Mt.writes else Mt.reads) 1)
  unfold State.burst
  simp only []
  split
  · exact h2.trans (State.count_stack_sameMemory _ 1 ht (by decide))
  · exact h2

theorem State.overtake_sameMemory (s : State) {ln : Nat} (ht : ln / 2 ^ 30 < 36) : s.SameMemory (s.overtake ln) := by
  unfold State.overtake
  simp only []
  split
  · exact State.SameMemory.refl s
  · refine State.SameMemory.trans ?_ (State.count_integrity_sameMemory _ _ ht (by decide))
    exact s.setStack_sameMemory _ _ rfl

/-! ### A read of a line without error -/

/-- A pattern without errors decodes as clean, whichever die is retired. -/
theorem classify_nil (d : Option Nat) : classify d [] = .clean := by
  have h : (syndromes []).all (· = 0) = true := by decide
  unfold classify
  simp only [h, if_true]

/-- A line of a stack in use, of a device extent whose key is not lost, stored without error, decodes as clean. -/
theorem State.decode_clean (s : State) {ln : Nat} (hlost : (s.stack (ln / 2 ^ 30)).lost = false)
    (hkey : s.keySt (dpos (dpaLocal (ln * 128))) ≠ 3) (herr : s.errsOf ln = []) : s.decode ln [] = .clean := by
  unfold State.decode
  simp only [hlost, Bool.false_eq_true, if_false, hkey, and_false, herr]
  exact classify_nil _

theorem State.demand_clean (s : State) {ln : Nat} (handle : Nat) (ht : ln / 2 ^ 30 < 36) (hlost : (s.stack (ln / 2 ^ 30)).lost = false)
    (hkey : s.keySt (dpos (dpaLocal (ln * 128))) ≠ 3) (herr : s.errsOf ln = []) :
    ∃ w, s.demand ln handle [] false = (.data (s.bytesAt (ln * 128) 128), w) ∧ s.SameMemory w := by
  have hd : s.decode ln (readNoise [] false) = .clean := s.decode_clean hlost hkey herr
  refine ⟨(s.burst ln handle false).count (K.integrityCounts (ln / 2 ^ 30) 0) 1, ?_,
    (s.burst_sameMemory handle false ht).trans (State.count_integrity_sameMemory _ 1 ht (by decide))⟩
  unfold State.demand
  simp only [hd, Bool.false_eq_true, if_false]
  unfold State.lineData
  simp only [herr]
  rfl

end Sys2Proof.Machine

namespace Sys2Proof.Machine

/-! ### Where an address is stored (06 R139) -/

theorem vaRow_lt (va : Nat) : vaRow va < 2 ^ 11 := by
  simp only [vaRow, vaGranule, fld, Nat.reduceAdd, Nat.reduceSub]
  omega

theorem eDxn_lt (e : Nat) : eDxn e < 2 ^ 14 := by
  simp only [eDxn, fld, Nat.reduceAdd, Nat.reduceSub]
  omega

/-- Addresses of one granule have one slot and one row. -/
theorem slotOf_granule {a b : Nat} (h : a / 4096 = b / 4096) : slotOf a = slotOf b ∧ vaRow a = vaRow b := by
  have hg : vaGranule a = vaGranule b := by
    simp only [vaGranule, fld, Nat.reduceAdd, Nat.reduceSub]
    rw [show a / 2 ^ 12 = b / 2 ^ 12 from h]
  have he : fld a 47 28 = fld b 47 28 := by
    simp only [fld, Nat.reduceAdd, Nat.reduceSub]
    omega
  exact ⟨by simp only [slotOf, vaRow, hg, he], by simp only [vaRow, hg]⟩

section
variable {s w : State} {e a b va : Nat}

theorem State.homeDpa_eq (s : State) (e va : Nat) :
    s.homeDpa e va = s.homeTile va * 2 ^ 37 + (eDxn e * 2 ^ 23 + vaRow va * 2 ^ 12 + va % 2 ^ 12) := rfl

theorem State.homeDpa_tile (s : State) (e va : Nat) : s.homeDpa e va / 2 ^ 37 = s.homeTile va := by
  have := vaRow_lt va
  have := eDxn_lt e
  rw [State.homeDpa_eq]
  omega

theorem State.homeDpa_line_tile (s : State) (e va : Nat) : s.homeDpa e va / 128 / 2 ^ 30 = s.homeTile va := by
  rw [Nat.div_div_eq_div_mul]
  exact s.homeDpa_tile e va

theorem State.homeDpa_dpos (s : State) (e va : Nat) : dpos (dpaLocal (s.homeDpa e va / 128 * 128)) = eDxn e := by
  have := vaRow_lt va
  have := eDxn_lt e
  rw [State.homeDpa_eq, dpos, dpaLocal]
  omega

theorem State.homeDpa_granule (s : State) (e : Nat) (h : a / 4096 = b / 4096) : s.homeDpa e a + b % 4096 = s.homeDpa e b + a % 4096 := by
  obtain ⟨h1, h2⟩ := slotOf_granule h
  rw [State.homeDpa_eq, State.homeDpa_eq, State.homeTile, State.homeTile, h1, h2]
  omega

theorem State.homeDpa_line (s : State) (e va : Nat) : s.homeDpa e (va / 128 * 128) = s.homeDpa e va / 128 * 128 := by
  have h := s.homeDpa_granule (a := va / 128 * 128) (b := va) e (by omega)
  have h2 := s.homeDpa_eq e va
  omega

/-! ### Plain places -/

/-- The granule of a mapped address is stored on a stack in use, with a live key, and has one copy. -/
structure State.Plain (s : State) (e va : Nat) : Prop where
  fresh : s.isFresh (s.homeDpa e va) = false
  tile : s.homeTile va < 36
  lost : (s.stack (s.homeTile va)).lost = false
  key : s.keySt (eDxn e) = 1
  mirror : eMirrored e = false
  reloc : s.cont.reloc = none

theorem State.Plain.of_granule (h : s.Plain e a) (hg : b / 4096 = a / 4096) : s.Plain e b := by
  have ht : s.homeTile b = s.homeTile a := by rw [State.homeTile, State.homeTile, (slotOf_granule hg).1]
  refine ⟨?_, ht ▸ h.tile, ht ▸ h.lost, h.key, h.mirror, h.reloc⟩
  have hd : s.homeDpa e b / 4096 = s.homeDpa e a / 4096 := by
    have := s.homeDpa_granule e hg
    have := s.homeDpa_eq e a
    have := s.homeDpa_eq e b
    omega
  rw [State.isFresh, hd]
  exact h.fresh

theorem State.Plain.same (h : s.Plain e va) (g : s.SamePlaces w) : w.Plain e va := by
  have ht : w.homeTile va = s.homeTile va := g.tile _ (slotOf_lt va)
  refine ⟨?_, ?_, ?_, (g.key _ (eDxn_lt e)).trans h.key, h.mirror, ?_⟩
  · rw [g.homeDpa, g.isFresh, h.fresh]
  · rw [ht]; exact h.tile
  · rw [ht, g.lost, h.lost]
  · rw [g.cont, h.reloc]

/-- A read of a plain line stored without error gives its bytes. -/
theorem State.readLine_plain (h : s.Plain e va) (handle : Nat) (herr : s.errsOf (s.homeDpa e va / 128) = []) :
    ∃ w, s.readLine e va handle [] false = (.data (s.bytesAt (s.homeDpa e va / 128 * 128) 128), w) ∧ s.SameMemory w := by
  obtain ⟨w, hw, hs⟩ := s.demand_clean (ln := s.homeDpa e va / 128) handle (by rw [s.homeDpa_line_tile]; exact h.tile)
    (by rw [s.homeDpa_line_tile]; exact h.lost) (by rw [s.homeDpa_dpos, h.key]; decide) herr
  refine ⟨w, ?_, hs⟩
  unfold State.readLine
  simp only [h.fresh, h.mirror, Bool.and_false, Bool.false_eq_true, if_false, hw]

theorem length_bytesAt (s : State) (a n : Nat) : (s.bytesAt a n).length = n := by simp [State.bytesAt]

theorem getD_bytesAt (s : State) (a : Nat) {n i : Nat} (h : i < n) : (s.bytesAt a n).getD i 0#8 = s.byteAt (a + i) := by
  simp [State.bytesAt, h]

theorem getD_splice {l d : List Byte} {i k : Nat} (h : k + d.length ≤ l.length) :
    (splice l k d).length = l.length ∧
    (splice l k d).getD i 0#8 = if k ≤ i ∧ i < k + d.length then d.getD (i - k) 0#8 else l.getD i 0#8 := by
  have hd : d.take (l.length - k) = d := List.take_of_length_le (by omega)
  have hk : (l.take k).length = k := by simp; omega
  refine ⟨by simp [splice]; omega, ?_⟩
  unfold splice
  rw [hd, List.append_assoc]
  simp only [List.getD_eq_getElem?_getD]
  by_cases h1 : i < k
  · rw [if_neg (by omega), List.getElem?_append_left (by omega), List.getElem?_take_of_lt h1]
  · by_cases h2 : i < k + d.length
    · rw [if_pos (by omega), List.getElem?_append_right (by omega), hk, List.getElem?_append_left (by omega)]
    · rw [if_neg (by omega), List.getElem?_append_right (by omega), hk, List.getElem?_append_right (by omega), List.getElem?_drop]
      congr 2
      omega

/-- The whole line that a piece of a plain line makes: its bytes in place, the others as stored. -/
theorem State.merged_plain (h : s.Plain e va) {d : List Byte} (hd : va % 128 + d.length ≤ 128) (handle : Nat)
    (herr : s.errsOf (s.homeDpa e va / 128) = []) : ∃ l w, s.merged e va d handle [] = (.data l, w) ∧ s.SameMemory w ∧ l.length = 128 ∧
      ∀ i, i < 128 → l.getD i 0#8 = if va % 128 ≤ i ∧ i < va % 128 + d.length then d.getD (i - va % 128) 0#8
        else s.byteAt (s.homeDpa e va / 128 * 128 + i) := by
  by_cases hfull : d.length = 128
  · refine ⟨d, s, if_pos hfull, .refl s, hfull, fun i hi => ?_⟩
    rw [if_pos (by omega), show va % 128 = 0 by omega, Nat.sub_zero]
  · have hline := s.homeDpa_line e va
    have hdiv : s.homeDpa e va / 128 * 128 / 128 = s.homeDpa e va / 128 := Nat.mul_div_cancel _ (by decide)
    obtain ⟨w, hw, hs⟩ := State.readLine_plain (h.of_granule (b := va / 128 * 128) (by omega)) handle (by rw [hline, hdiv]; exact herr)
    rw [hline, hdiv] at hw
    have hlen := length_bytesAt s (s.homeDpa e va / 128 * 128) 128
    have hsp := fun i => getD_splice (l := s.bytesAt (s.homeDpa e va / 128 * 128) 128) (d := d) (i := i) (k := va % 128) (by omega)
    refine ⟨splice (s.bytesAt (s.homeDpa e va / 128 * 128) 128) (va % 128) d, w, ?_, hs, (hsp 0).1.trans hlen, fun i hi => ?_⟩
    · unfold State.merged State.readFinal
      simp only [hfull, if_false, hw]
    · rw [(hsp i).2, getD_bytesAt s _ hi]

end

end Sys2Proof.Machine

namespace Sys2Proof.Machine

/-! ### Writes to plain lines -/

section
variable {s w : State} {e va : Nat}

/-- The bytes of line `ln` are those of `l`, every other byte and the errors of no other line change, and the line has none. -/
theorem State.putLine_plain (s : State) {ln : Nat} {l : List Byte} (key unit : Nat) (ht : ln / 2 ^ 30 < 36) (hl : l.length = 128) :
    s.SamePlaces (s.putLine ln l key unit) ∧
    (∀ x, (s.putLine ln l key unit).byteAt x = if ln * 128 ≤ x ∧ x < ln * 128 + 128 then l.getD (x - ln * 128) 0#8 else s.byteAt x) ∧
    ∀ m, s.errsOf m = [] → (s.putLine ln l key unit).errsOf m = [] := by
  have hsl : slice l 0 128 = l := by
    rw [slice_of_le _ _ _ (by omega), List.drop_zero, List.take_of_length_le (by omega)]
  have ho := State.overtake_sameMemory (State.setErrs { s with
    mem := memPuts s.mem (ln * 128) (slice l 0 128)
    lineKey := if key = 0 then Tab.erase s.lineKey ln else Tab.set s.lineKey ln (key * 2 ^ 35 + unit) } ln []) ht
  refine ⟨State.SamePlaces.trans ?_ ho.toSamePlaces, fun x => ?_, fun m hm => ?_⟩
  · exact ⟨rfl, rfl, rfl, fun _ _ => rfl, fun _ _ => rfl, fun _ => rfl⟩
  · rw [State.byteAt_eq, show (s.putLine ln l key unit).mem = memPuts s.mem (ln * 128) l from ho.mem.trans (congrArg _ hsl), memAt_memPuts, hl]
    rfl
  · rw [State.errsOf, show (s.putLine ln l key unit).errs = Tab.eraseIf s.errs (fun k => k / 144 = ln) from ho.errs]
    rw [State.errsOf, List.map_eq_nil_iff, List.filter_eq_nil_iff] at hm
    rw [List.map_eq_nil_iff, List.filter_eq_nil_iff]
    exact fun x hx => hm x (List.mem_filter.mp hx).1

/-- What writing bytes `d` at `va` of a plain place does: they stand at their addresses, and all else is as it was. -/
structure State.Stored (s w : State) (home : Nat) (d : List Byte) : Prop where
  places : s.SamePlaces w
  bytes : ∀ x, w.byteAt x = if home ≤ x ∧ x < home + d.length then d.getD (x - home) 0#8 else s.byteAt x
  errs : ∀ m, s.errsOf m = [] → w.errsOf m = []

theorem State.writePiece_plain (h : s.Plain e va) {d : List Byte} (hd : va % 128 + d.length ≤ 128) (handle : Nat) (paid : List Nat)
    (herr : s.errsOf (s.homeDpa e va / 128) = []) :
    ∃ w, s.writePiece e va d handle paid [] = (true, w) ∧ s.Stored w (s.homeDpa e va) d := by
  obtain ⟨l, v, hm, hs, hl, hb⟩ := State.merged_plain h hd handle herr
  have hv := h.same hs.toSamePlaces
  have hhome : v.homeDpa e va = s.homeDpa e va := hs.homeDpa e va
  have hline : s.homeDpa e va / 128 / 2 ^ 30 < 36 := by rw [s.homeDpa_line_tile]; exact h.tile
  obtain ⟨hp, hbytes, herrs⟩ := v.putLine_plain (v.keyOf (eDxn e)) (dataUnit (eDxn e) (va / 128 * 128)) hline hl
  have hput : v.SamePlaces (v.putCopy (s.homeDpa e va) (va / 128 * 128) (eDxn e) handle paid l) ∧
      (v.putCopy (s.homeDpa e va) (va / 128 * 128) (eDxn e) handle paid l).mem =
        (v.putLine (s.homeDpa e va / 128) l (v.keyOf (eDxn e)) (dataUnit (eDxn e) (va / 128 * 128))).mem ∧
      (v.putCopy (s.homeDpa e va) (va / 128 * 128) (eDxn e) handle paid l).errs =
        (v.putLine (s.homeDpa e va / 128) l (v.keyOf (eDxn e)) (dataUnit (eDxn e) (va / 128 * 128))).errs := by
    have hf : v.isFresh (s.homeDpa e va) = false := by rw [← hhome]; exact hv.fresh
    unfold State.putCopy
    simp only [hf, Bool.false_eq_true, if_false]
    split
    · exact ⟨hp, rfl, rfl⟩
    · have hbu := State.burst_sameMemory (v.putLine (s.homeDpa e va / 128) l (v.keyOf (eDxn e)) (dataUnit (eDxn e) (va / 128 * 128)))
        handle true hline
      exact ⟨hp.trans hbu.toSamePlaces, hbu.mem, hbu.errs⟩
  obtain ⟨hp1, hp2, hp3⟩ := hput
  refine ⟨_, ?_, hs.toSamePlaces.trans hp1, fun x => ?_, fun m he => ?_⟩
  · unfold State.writePiece
    simp only [h.lost, Bool.false_and, Bool.false_eq_true, if_false, hm]
    have hc : s.copies e va handle = [(s.homeDpa e va, eDxn e, handle)] := by
      unfold State.copies
      simp [h.mirror, h.reloc]
    rw [hc]
    simp only [List.foldl_cons, List.foldl_nil, State.bothFresh, h.mirror, Bool.false_eq_true, if_false]
  · have hva := s.homeDpa_eq e va
    have hd' : s.homeDpa e va % 128 = va % 128 := by omega
    rw [State.byteAt_eq, hp2, ← State.byteAt_eq, hbytes]
    by_cases hin : s.homeDpa e va / 128 * 128 ≤ x ∧ x < s.homeDpa e va / 128 * 128 + 128
    · rw [if_pos hin, hb _ (by omega)]
      by_cases hpiece : s.homeDpa e va ≤ x ∧ x < s.homeDpa e va + d.length
      · rw [if_pos hpiece, if_pos (by omega)]
        congr 1
        omega
      · rw [if_neg hpiece, if_neg (by omega)]
        congr 1
        omega
    · rw [if_neg hin, if_neg (by omega), State.byteAt_eq, hs.mem]
      rfl
  · rw [State.errsOf, hp3]
    exact herrs m (by rw [State.errsOf, hs.errs]; exact he)

/-- A piece of an access to bytes `d` at `va`, within one line. -/
structure PieceOf (va : Nat) (d : List Byte) (q : Nat × List Byte) : Prop where
  granule : q.1 / 4096 = va / 4096
  from_le : va ≤ q.1
  line : q.1 % 128 + q.2.length ≤ 128
  bytes : ∀ i, i < q.2.length → q.2.getD i 0#8 = d.getD (q.1 - va + i) 0#8

/-- A piece covers the byte at `x`. -/
def PieceAt (va home : Nat) (q : Nat × List Byte) (x : Nat) : Prop := home + (q.1 - va) ≤ x ∧ x < home + (q.1 - va) + q.2.length

/-- The pieces of an access in order: each is written, the bytes that they cover are the access's, and all else is as it was. -/
theorem State.pieces_plain {h home : Nat} {paid : List Nat} {d : List Byte} : ∀ (ps : List (Nat × List Byte)) (s : State) (oks : List Bool),
    (∀ q ∈ ps, PieceOf va d q ∧ s.errsOf (s.homeDpa e q.1 / 128) = []) → s.Plain e va → home = s.homeDpa e va → oks.all id = true →
    ∃ oks' w, ps.foldl (fun (r : List Bool × State) q =>
        let w := r.2.writePiece e q.1 q.2 h paid (noiseOf [] (q.1 / 128 - va / 128))
        (r.1 ++ [w.1], w.2)) (oks, s) = (oks', w) ∧ oks'.all id = true ∧ s.SamePlaces w ∧
      (∀ x, (∃ q ∈ ps, PieceAt va home q x) → w.byteAt x = d.getD (x - home) 0#8) ∧
      ∀ x, (∀ q ∈ ps, ¬ PieceAt va home q x) → w.byteAt x = s.byteAt x := by
  intro ps
  induction ps with
  | nil => exact fun s oks _ _ _ ho => ⟨oks, s, rfl, ho, (State.SameMemory.refl s).toSamePlaces, fun x hx => by simp at hx, fun x _ => rfl⟩
  | cons q ps ih =>
    intro s oks hq hp hh ho
    obtain ⟨hq1, herr⟩ := hq q (by simp)
    obtain ⟨v, hv, hst⟩ := State.writePiece_plain (hp.of_granule hq1.granule) hq1.line h paid herr
    have hhome : s.homeDpa e q.1 = home + (q.1 - va) := by
      have h1 := s.homeDpa_granule e hq1.granule
      have h2 := hq1.granule
      have h3 := hq1.from_le
      omega
    obtain ⟨oks', w, hf, ho', hs, hin, hout⟩ := ih v (oks ++ [true]) (fun r hr => ⟨(hq r (by simp [hr])).1, by
      rw [hst.places.homeDpa]
      exact hst.errs _ (hq r (by simp [hr])).2⟩) (hp.same hst.places) (by rw [hst.places.homeDpa, hh]) (by simpa using ho)
    refine ⟨oks', w, ?_, ho', hst.places.trans hs, fun x hx => ?_, fun x hx => ?_⟩
    · rw [List.foldl_cons]
      simp only [show noiseOf [] (q.1 / 128 - va / 128) = [] from rfl, hv]
      exact hf
    · by_cases hlater : ∃ r ∈ ps, PieceAt va home r x
      · exact hin x hlater
      · obtain ⟨r, hr, hx⟩ := hx
        rcases List.mem_cons.1 hr with rfl | hr
        · obtain ⟨hx1, hx2⟩ := hx
          rw [hout x fun r hr hx => hlater ⟨r, hr, hx⟩, hst.bytes, hhome, if_pos ⟨hx1, hx2⟩, hq1.bytes _ (by omega)]
          congr 1
          omega
        · exact absurd ⟨r, hr, hx⟩ hlater
    · rw [hout x fun r hr => hx r (by simp [hr]), hst.bytes, hhome]
      exact if_neg (hx q (by simp))

theorem mem_linesOf {len l : Nat} : l ∈ linesOf va len ↔ 0 < len ∧ va / 128 ≤ l / 128 ∧ l / 128 ≤ (va + len - 1) / 128 ∧ l % 128 = 0 := by
  unfold linesOf
  split
  · simp
    omega
  · simp only [List.mem_map, List.mem_range]
    constructor
    · rintro ⟨i, hi, rfl⟩
      omega
    · rintro ⟨h1, h2, h3, h4⟩
      exact ⟨l / 128 - va / 128, by omega, by omega⟩

/-- The pieces of an access within one granule. -/
theorem pieces_pieceOf {d : List Byte} (hg : va / 4096 = (va + d.length - 1) / 4096) : ∀ q ∈ pieces va d, PieceOf va d q := by
  intro q hq
  obtain ⟨l, hl, rfl⟩ := List.mem_map.1 hq
  obtain ⟨h0, h1, h2, h3⟩ := mem_linesOf.1 hl
  refine ⟨?_, ?_, ?_, fun i hi => ?_⟩
  · simp only []
    omega
  · simp only []
    omega
  · simp only [List.length_take, List.length_drop]
    omega
  · simp only [List.length_take, List.length_drop] at hi ⊢
    rw [List.getD_eq_getElem?_getD, List.getElem?_take_of_lt (by omega), List.getElem?_drop, List.getD_eq_getElem?_getD]

/-- They cover it. -/
theorem pieces_cover {d : List Byte} {home x : Nat} : (∃ q ∈ pieces va d, PieceAt va home q x) ↔ home ≤ x ∧ x < home + d.length := by
  constructor
  · rintro ⟨q, hq, h1, h2⟩
    obtain ⟨l, hl, rfl⟩ := List.mem_map.1 hq
    obtain ⟨h3, h4, h5, h6⟩ := mem_linesOf.1 hl
    simp only [List.length_take, List.length_drop] at h1 h2
    omega
  · rintro ⟨h1, h2⟩
    refine ⟨_, List.mem_map_of_mem ((mem_linesOf (l := (va + (x - home)) / 128 * 128)).2 ⟨?_, ?_, ?_, ?_⟩), ?_, ?_⟩
    any_goals simp only [List.length_take, List.length_drop]
    all_goals omega

/-- A write of one granule of a plain place. -/
theorem State.writeBytes_plain (h : s.Plain e va) {d : List Byte} (handle : Nat) (hg : va / 4096 = (va + d.length - 1) / 4096)
    (herr : ∀ l ∈ linesOf va d.length, s.errsOf (s.homeDpa e l / 128) = []) :
    (s.writeBytes e va d handle []).1.all id = true ∧ s.SamePlaces (s.writeBytes e va d handle []).2 ∧
    ∀ x, (s.writeBytes e va d handle []).2.byteAt x =
      if s.homeDpa e va ≤ x ∧ x < s.homeDpa e va + d.length then d.getD (x - s.homeDpa e va) 0#8 else s.byteAt x := by
  have hlines : ∀ q ∈ pieces va d, PieceOf va d q ∧ s.errsOf (s.homeDpa e q.1 / 128) = [] := by
    intro q hq
    refine ⟨pieces_pieceOf hg q hq, ?_⟩
    obtain ⟨l, hl, rfl⟩ := List.mem_map.1 hq
    have hl' := herr l hl
    obtain ⟨h3, h4, h5, h6⟩ := mem_linesOf.1 hl
    have hsame : s.homeDpa e (max l va) / 128 = s.homeDpa e l / 128 := by
      have := s.homeDpa_line e (max l va)
      rw [show max l va / 128 * 128 = l by omega] at this
      omega
    rw [hsame]
    exact hl'
  obtain ⟨oks, w, hf, ho, hp, hin, hout⟩ := State.pieces_plain (home := s.homeDpa e va) (h := handle)
    (paid := ((s.copies e va handle).map (fun c => c.1)).filter s.isFresh |>.map (· / 4096)) (pieces va d) s [] hlines h rfl rfl
  have hw : s.writeBytes e va d handle [] = (oks, w) := hf
  rw [hw]
  refine ⟨ho, hp, fun x => ?_⟩
  split
  next hx => exact hin x (pieces_cover.2 hx)
  next hx => exact hout x fun q hq hx' => hx (pieces_cover.1 ⟨q, hq, hx'⟩)

end

end Sys2Proof.Machine

namespace Sys2Proof.Machine

/-! ### READ of a plain place -/

section
variable {s : State} {e va : Nat}

/-- The lines of an access in order are read without a change of memory. -/
theorem State.lines_plain {h : Nat} : ∀ (ls : List Nat) (k : Nat) (s : State) (acc : List LineGot),
    (∀ l ∈ ls, l / 4096 = va / 4096 ∧ s.errsOf (s.homeDpa e l / 128) = []) → s.Plain e va →
    ∃ w, (ls.zipIdx k).foldl (fun (r : List LineGot × State) q =>
        let x := r.2.readLine e q.1 h (noiseOf [] q.2) (([] : List Nat).contains (r.2.homeDpa e q.1 / 128))
        (r.1 ++ [x.1], x.2)) (acc, s) =
      (acc ++ ls.map (fun l => .data (s.bytesAt (s.homeDpa e l / 128 * 128) 128)), w) ∧ s.SameMemory w := by
  intro ls
  induction ls with
  | nil => exact fun k s acc _ _ => ⟨s, by simp, .refl s⟩
  | cons l ls ih =>
    intro k s acc hl hp
    obtain ⟨v, hv, hs⟩ := State.readLine_plain (hp.of_granule (hl l (by simp)).1) h (hl l (by simp)).2
    obtain ⟨w, hf, hw⟩ := ih (k + 1) v (acc ++ [.data (s.bytesAt (s.homeDpa e l / 128 * 128) 128)]) (fun m hm => by
      rw [hs.homeDpa, State.errsOf, hs.errs]
      exact hl m (by simp [hm])) (hp.same hs.toSamePlaces)
    refine ⟨w, ?_, hs.trans hw⟩
    rw [List.zipIdx_cons, List.foldl_cons]
    simp only [show noiseOf [] k = [] from rfl, List.contains_nil, hv]
    simp only [List.contains_nil] at hf
    rw [hf, List.map_cons, List.append_assoc, List.singleton_append]
    simp only [State.bytesAt, State.byteAt, hs.mem, hs.homeDpa]

/-- A line of a plain place has no retry due. -/
theorem State.retryDue_plain {len h : Nat} (hp : s.Plain e va)
    (hl : ∀ l ∈ linesOf va len, l / 4096 = va / 4096 ∧ s.errsOf (s.homeDpa e l / 128) = []) : s.retryDue e va len h [] [] = none := by
  unfold State.retryDue
  rw [Option.map_eq_none_iff, List.find?_eq_none]
  rintro ⟨l, i⟩ hq
  have hmem : l ∈ linesOf va len := by
    obtain ⟨-, -, hq⟩ := List.mem_zipIdx hq
    exact hq ▸ List.getElem_mem _
  obtain ⟨v, hv, -⟩ := State.readLine_plain (hp.of_granule (hl l hmem).1) h (hl l hmem).2
  simp only [show noiseOf [] i = [] from rfl, hv]
  simp

theorem State.bytesAt_add (s : State) (a m n : Nat) : s.bytesAt a (m + n) = s.bytesAt a m ++ s.bytesAt (a + m) n := by
  unfold State.bytesAt
  rw [List.range_add, List.map_append, List.map_map]
  simp [Function.comp_def, Nat.add_assoc]

theorem State.flatten_bytesAt (s : State) (a : Nat) : ∀ n, ((List.range n).map (fun i => s.bytesAt (a + 128 * i) 128)).flatten = s.bytesAt a (128 * n) := by
  intro n
  induction n with
  | zero => rfl
  | succ n ih =>
    rw [List.range_succ, List.map_append, List.flatten_append, ih, Nat.mul_succ, State.bytesAt_add]
    simp

theorem State.slice_bytesAt (s : State) (a : Nat) {n i k : Nat} (h : i + k ≤ n) : slice (s.bytesAt a n) i k = s.bytesAt (a + i) k := by
  obtain ⟨m, rfl⟩ : ∃ m, n = i + (k + m) := ⟨n - i - k, by omega⟩
  have hlen := fun a n => length_bytesAt s a n
  rw [slice_of_le _ _ _ (by rw [hlen]; omega), State.bytesAt_add, List.drop_left' (hlen a i), State.bytesAt_add,
    List.take_left' (hlen (a + i) k)]

/-- The lines' bytes from the access's first byte on are the bytes stored at its addresses. -/
theorem State.slice_lines_plain (s : State) {len : Nat} (h0 : 1 ≤ len) (hg : va / 4096 = (va + len - 1) / 4096) :
    slice (lineBytes ((linesOf va len).map (fun l => .data (s.bytesAt (s.homeDpa e l / 128 * 128) 128)))) (va % 128) len =
    s.bytesAt (s.homeDpa e va) len := by
  have hva := s.homeDpa_eq e va
  have hlines : lineBytes ((linesOf va len).map (fun l => .data (s.bytesAt (s.homeDpa e l / 128 * 128) 128))) =
      s.bytesAt (s.homeDpa e va / 128 * 128) (128 * ((va + len - 1) / 128 + 1 - va / 128)) := by
    rw [← State.flatten_bytesAt, linesOf, if_neg (by omega), lineBytes, List.map_map, List.map_map]
    refine congrArg _ (List.map_congr_left fun i hi => ?_)
    have hi := List.mem_range.1 hi
    have h1 := s.homeDpa_granule (a := (va / 128 + i) * 128) (b := va) e (by omega)
    have h2 : s.homeDpa e ((va / 128 + i) * 128) / 128 * 128 = s.homeDpa e va / 128 * 128 + 128 * i := by omega
    simp only [Function.comp_apply, h2]
  rw [hlines, State.slice_bytesAt _ _ (by omega)]
  congr 1
  omega

theorem lineErr_data {α : Type} (f : α → List Byte) (l : List α) : lineErr (l.map (fun a => .data (f a))) = 0 := by
  have h : ∀ (l : List α) (k : Nat), ((l.map (fun a => LineGot.data (f a))).zipIdx k).foldl
      (fun a q => match q.1 with | .bad _ => a + 2 ^ q.2 | .data _ => a) 0 = 0 := by
    intro l
    induction l with
    | nil => exact fun _ => rfl
    | cons b l ih =>
      intro k
      rw [List.map_cons, List.zipIdx_cons, List.foldl_cons]
      exact ih (k + 1)
  exact h l 0

end

/-! ### Requests at their home -/

section
variable {s : State} {port n t : Nat} {h : Hdr} {addr : Nat} {noise : List (Nat × Nat)}

/-- What the arrival of an access says of its range (04 R98). -/
theorem Starts.formOk {op : Nat} {b : List Byte} (H : Starts s port op h b n t) : formOk op h.len b = true := by
  obtain ⟨-, hc, -⟩ := H
  unfold State.checkArrival at hc
  refine Classical.byContradiction fun hf => ?_
  rw [Bool.not_eq_true] at hf
  simp only [hf, Bool.not_false, Bool.true_or, if_true] at hc
  split at hc
  · cases hc
  · split at hc
    · cases hc
    · split at hc <;> cases hc

/-- What the home does with a request that nothing makes wait: by its OPCODE. -/
def State.serveOp (s : State) (r : Req) (noise : List (Nat × Nat)) (t : Nat) : State :=
  if r.op = 0x01 then s.serveRead r noise
  else if r.op = 0x02 then s.serveWrite r noise
  else if r.op = 0x03 then s.serveAtomic r noise
  else if r.op = 0x04 then s.answerSt r Code.ok
  else if r.op = 0x05 then s.serveHeartbeat r
  else if r.op = 0x10 then s.servePool r
  else if r.op = 0x11 ∨ r.op = 0x12 then s.servePublish r
  else if r.op = 0x20 then s.serveContrib r
  else if r.op = 0x34 then (s.serveCoherence r).linesGo
  else if 0x30 ≤ r.op ∧ r.op ≤ 0x35 then s.serveCoherence r
  else if r.op = 0x51 then s.serveInvalidate r
  else if r.op = 0x58 then s.servePairWrite r
  else if r.op = 0x60 then s.serveDoorbell r t
  else if r.op = 0x62 then s.serveWindowRead r
  else s.serveWindowWrite r t

/-- A request that its port starts, of an address whose stack holds nothing back, is served at once. -/
theorem State.recv_serveOp {op : Nat} {b : List Byte} (H : Starts s port op h b n t)
    (hh : readsPool op = true → (s.began port op h b n t).halts (leAt b 0 8) = false) :
    s.recv port op h b noise t = (s.began port op h b n t).serveOp (s.accepted port op h b n t).1 noise t := by
  rw [State.recv_starts _ _ _ _ _ _ _ _ H]
  have hhalts : (readsPool op && (s.began port op h b n t).halts (leAt b 0 8)) = false := by
    cases hr : readsPool op
    · rfl
    · exact hh hr
  unfold State.serveData
  have e1 : (s.accepted port op h b n t).1.op = op := rfl
  have e2 : (s.accepted port op h b n t).1.body = b := rfl
  rw [e1, e2, State.began_service _ _ _ _ _ _ _ H, hhalts]
  rfl

/-! ### The fields of accesses -/

theorem leAt_addr {addr : Nat} (ha : addr < 2 ^ 48) (c : List Byte) : leAt (toLE 8 addr ++ c) 0 8 = addr := by
  rw [leAt_head]
  omega

/-- Bodies of READ and WRITE: an address and a length. -/
theorem rangeBody_fields {len : Nat} (ha : addr < 2 ^ 48) (hl : len ≤ 4096) (c : List Byte) :
    leAt (toLE 8 addr ++ toLE 2 len ++ toLE 6 0 ++ c) 0 8 = addr ∧ leAt (toLE 8 addr ++ toLE 2 len ++ toLE 6 0 ++ c) 8 2 = len := by
  refine ⟨by simp only [List.append_assoc, leAt_addr ha], ?_⟩
  simp only [List.append_assoc]
  rw [leAt_skip (k := 8) _ _ _ _ (length_toLE ..) (by decide), leAt_head]
  omega

theorem execRead_starts {len : Nat} (H : Starts s port 0x01 h (toLE 8 addr ++ toLE 2 len ++ toLE 6 0) n t) (ha : addr < 2 ^ 48)
    (hh : (s.began port 0x01 h (toLE 8 addr ++ toLE 2 len ++ toLE 6 0) n t).halts addr = false) :
    exec (.read port h addr len noise t) s = .next ((s.began port 0x01 h (toLE 8 addr ++ toLE 2 len ++ toLE 6 0) n t).serveRead
      (s.accepted port 0x01 h (toLE 8 addr ++ toLE 2 len ++ toLE 6 0) n t).1 noise) :=
  congrArg _ (State.recv_serveOp H fun _ => by rw [List.append_assoc, leAt_addr ha, ← List.append_assoc]; exact hh)

theorem execWrite_starts {data : List Byte}
    (H : Starts s port 0x02 h (toLE 8 addr ++ toLE 2 data.length ++ toLE 6 0 ++ padTo (pad8 data.length) data) n t) (ha : addr < 2 ^ 48)
    (hh : (s.began port 0x02 h (toLE 8 addr ++ toLE 2 data.length ++ toLE 6 0 ++ padTo (pad8 data.length) data) n t).halts addr = false) :
    exec (.write port h addr data noise t) s = .next
      ((s.began port 0x02 h (toLE 8 addr ++ toLE 2 data.length ++ toLE 6 0 ++ padTo (pad8 data.length) data) n t).serveWrite
        (s.accepted port 0x02 h (toLE 8 addr ++ toLE 2 data.length ++ toLE 6 0 ++ padTo (pad8 data.length) data) n t).1 noise) :=
  congrArg _ (State.recv_serveOp H fun _ => by simpa only [List.append_assoc, leAt_addr ha] using hh)

/-- The data of a WRITE's body. -/
theorem writeBody_data {len : Nat} {data : List Byte} (hd : data.length = len) :
    slice (toLE 8 addr ++ toLE 2 len ++ toLE 6 0 ++ padTo (pad8 len) data) 16 len = data := by
  subst hd
  have hpre : (toLE 8 addr ++ toLE 2 data.length ++ toLE 6 0).length = 16 := by simp
  have hle : data.length ≤ pad8 data.length := by
    unfold pad8
    omega
  have htake : ((data ++ List.replicate (pad8 data.length - data.length) 0#8).take (pad8 data.length)).take data.length = data := by
    rw [List.take_take, Nat.min_eq_left hle, List.take_left' rfl]
  rw [slice_of_le _ _ _ (by simp [padTo]; omega), List.drop_left' hpre, padTo, htake]

/-- The range of an access lies in one granule (04 R98). -/
theorem rangeOk_granule {a len : Nat} (h : rangeOk a len = true) : 1 ≤ len ∧ a / 4096 = (a + len - 1) / 4096 := by
  simp only [rangeOk, Bool.and_eq_true, decide_eq_true_eq] at h
  exact ⟨h.1.1.2, h.2⟩

/-- A READ at its home that passes every check and waits for nothing (04 R98, R99, 09 R212). -/
theorem State.serveRead_ok {u : State} {r : Req} {e va len : Nat} (hva : leAt r.body 0 8 = va) (hlen : leAt r.body 8 2 = len)
    (hr : r.retried = []) (hc : u.homeCheck r.h.handle r.bind va false = .ok e) (hrec : u.toRecall e va len false = [])
    (hretry : u.retryDue e va len r.h.handle [] noise = none) {g : List LineGot × State} (hg : g = u.readLines e va len r.h.handle [] noise) :
    u.serveRead r noise =
      if lineErr g.1 = 0 then g.2.answer r 0x81 Code.ok (toLE 8 0 ++ slice (lineBytes g.1) (va % 128) len)
      else if u.poisonMode (handlePart r.h.handle) then
        (g.2.answer r 0x81 Code.poisoned (toLE 8 (lineErr g.1) ++ slice (lineBytes g.1) (va % 128) len)).noteFault (handlePart r.h.handle)
      else (g.2.answer r 0x81 Code.dataError (toLE 8 (lineErr g.1))).noteFault (handlePart r.h.handle) := by
  subst hg
  unfold State.serveRead
  simp only [hva, hlen, hc, hrec, hr, hretry]
  split
  next h0 => rw [h0]
  next => rfl

section
variable {u : State} {r : Req} {e va len handle p : Nat} {d : List Byte} {w : List Bool × State} (hva : leAt r.body 0 8 = va)
  (hlen : leAt r.body 8 2 = len) (hd : slice r.body 16 len = d) (hh : r.h.handle = handle) (hp : p = handlePart handle)
  (hc : u.homeCheck handle r.bind va true = .ok e) (hw : u.writeWaits e va len r = none) (hwr : w = u.writeBytes e va d handle noise)
include hva hlen hd hh hp hc hw hwr

/-- A WRITE at its home that passes every check and waits for nothing, of an extent without a pair or of no line at all (04 R98, R106). -/
theorem State.serveWrite_ok (hpair : u.primaryPair p (vaIndex va) = none ∨ writtenRange va len w.1 = none) : u.serveWrite r noise =
    (if w.1.all id then w.2 else w.2.noteFault p).answerSt r (if w.1.all id then Code.ok else u.badStatus p) := by
  subst hva hlen hd hh hp hwr
  unfold State.serveWrite
  simp only [hc, hw]
  split
  next m a l h1 h2 =>
    rw [h1, h2] at hpair
    simp at hpair
  next => rfl

/-- The same with a pair: the range written is forwarded (10 R236). -/
theorem State.serveWrite_pair {m a l : Nat} (h1 : u.primaryPair p (vaIndex va) = some m) (h2 : writtenRange va len w.1 = some (a, l)) :
    u.serveWrite r noise = (if w.1.all id then w.2 else w.2.noteFault p).pairAnswer m e a l r
      (if w.1.all id then Code.ok else u.badStatus p) [] := by
  subst hva hlen hd hh hp hwr
  unfold State.serveWrite
  simp only [hc, hw, h1, h2]

end

/-- A plain place holds up no write: its key is there, no copy of it is cached and it has no pair. -/
theorem State.writeWaits_plain {u : State} {r : Req} {e va len : Nat} (hp : u.Plain e va) (hk : eKind e ≠ 1)
    (hpair : u.primaryPair (handlePart r.h.handle) (vaIndex va) = none) : u.writeWaits e va len r = none := by
  unfold State.writeWaits State.toRecall
  simp only [hp.key, hk, hpair, ne_eq, not_false_eq_true, if_true, Nat.one_ne_zero, if_false]

end

/-- Settles O25: of a granule at a plain place, a write stores its pieces (`writeBytes_plain`) and a read gives its lines as they are. -/
theorem plainMemory : Obligations.PlainMemory := by
  intro s port n t h addr e op b len ha hlen hhandle u home H hhalt hmir hkind htile hlost hfresh hkey hreloc herr
  have hp : u.Plain e addr := ⟨hfresh, htile, hlost, hkey, hmir, hreloc⟩
  have htalk : (s.at t).Talked u := s.began_talked port op h b n t
  have hbyte : ∀ x, u.byteAt x = s.byteAt x := fun x => htalk.byteAt x
  constructor
  · rintro data hdata rfl rfl hc hpair
    subst hdata
    have hform := H.formOk
    obtain ⟨h0, h8⟩ := rangeBody_fields ha hlen (padTo (pad8 data.length) data)
    have hg : addr / 4096 = (addr + data.length - 1) / 4096 := by
      have hr := (Bool.and_eq_true_iff.1 hform).2
      rw [h0, h8] at hr
      exact (rangeOk_granule hr).2
    obtain ⟨hok, hpl, hbytes⟩ := State.writeBytes_plain (d := data) hp h.handle hg herr
    have hexec := execWrite_starts (noise := []) H ha hhalt
    have hd := writeBody_data (addr := addr) (data := data) rfl
    have hserve := State.serveWrite_ok (handle := h.handle) (p := handlePart h.handle) (noise := []) (r := (s.accepted port 2 h (toLE 8 addr ++ toLE 2 data.length ++ toLE 6 0 ++
      padTo (pad8 data.length) data) n t).1) h0 h8 hd rfl rfl hc (State.writeWaits_plain hp hkind hpair) rfl (.inl hpair)
    rw [if_pos hok, if_pos hok] at hserve
    have hans := State.answer_talked (u.writeBytes e addr data h.handle []).2 (s.accepted port 2 h (toLE 8 addr ++ toLE 2 data.length ++
      toLE 6 0 ++ padTo (pad8 data.length) data) n t).1 0x82 Code.ok []
    refine ⟨_, hexec.trans (congrArg _ hserve), fun i hi => ?_, fun a hx => ?_, ?_, ?_⟩
    · refine (hans.byteAt _).trans ((hbytes _).trans ?_)
      rw [if_pos (by omega), Nat.add_sub_cancel_left]
    · refine (hans.byteAt _).trans ((hbytes _).trans ?_)
      rw [if_neg (by omega), hbyte]
    · exact hans.written.trans (hpl.written.trans htalk.written)
    · exact hans.tags.trans (hpl.tags.trans htalk.tags)
  · rintro rfl rfl hc
    have hform := H.formOk
    obtain ⟨h0, h8⟩ := rangeBody_fields ha hlen []
    rw [List.append_nil] at h0 h8
    have hr := (Bool.and_eq_true_iff.1 hform).2
    rw [h0, h8] at hr
    obtain ⟨hpos, hg⟩ := rangeOk_granule hr
    have hl : ∀ l ∈ linesOf addr len, l / 4096 = addr / 4096 ∧ u.errsOf (u.homeDpa e l / 128) = [] := fun l hl =>
      ⟨by have := mem_linesOf.1 hl; omega, herr l hl⟩
    obtain ⟨v, hv, hs⟩ := State.lines_plain (h := h.handle) (linesOf addr len) 0 u [] hl hp
    have hrec : u.toRecall e addr len false = [] := if_pos hkind
    have hserve := State.serveRead_ok (noise := []) (g := ([] ++ (linesOf addr len).map fun l => .data (u.bytesAt (u.homeDpa e l / 128 * 128) 128), v))
      (r := (s.accepted port 1 h (toLE 8 addr ++ toLE 2 len ++ toLE 6 0) n t).1) h0 h8 rfl hc hrec (State.retryDue_plain hp hl) hv.symm
    simp only [List.nil_append] at hserve
    rw [lineErr_data, if_pos rfl, State.slice_lines_plain u hpos hg] at hserve
    refine ⟨v, _, (execRead_starts H ha hhalt).trans (congrArg _ hserve), ?_, ?_, ?_⟩
    · rw [State.bytesAt]
      simp only [hbyte]
      rfl
    · exact (State.answer_talked ..).mem.trans (hs.mem.trans htalk.mem)
    · exact (State.answer_talked ..).written.trans (hs.written.trans htalk.written)

end Sys2Proof.Machine

namespace Sys2Proof.Machine

/-! ### READ, FENCE and HEARTBEAT at their home -/

/-- A HEARTBEAT of a live lease at the lease table (06 R150). -/
theorem State.serveHeartbeat_live {u : State} {r : Req} {n : Nat} (hn : r.bind = n) (hl : u.rd (K.leaseState n) = 1 ∨ u.rd (K.leaseState n) = 2) :
    u.serveHeartbeat r = ((State.wrs { u with lease := { u.lease with lastBeat := Tab.set u.lease.lastBeat n u.frame } }
      [(K.leaseState n, 1), (K.leaseExpiry n, u.frame + u.leaseE n)]).answer r 0x85 Code.ok (toLE 8 (u.frame + u.leaseE n))) := by
  subst hn
  unfold State.serveHeartbeat
  simp only []
  rw [if_neg (by omega)]

theorem leaseState_ne_leaseExpiry (n : Nat) : K.leaseState n ≠ K.leaseExpiry n := by
  simp only [ek, ne_eq]
  omega

/-- Settles O23: each is served as `serveOp` says, its body's fields read back. -/
theorem readsFencesAndHeartbeats : Obligations.ReadsFencesAndHeartbeats := by
  intro s port n t h
  refine ⟨?read, ?fence, ?beat⟩
  case read =>
    intro addr len e noise ha hlen b u r g H hhalt hc hrec hretry
    obtain ⟨h0, h8⟩ := rangeBody_fields ha hlen []
    rw [List.append_nil] at h0 h8
    exact (execRead_starts H ha hhalt).trans (congrArg _ (State.serveRead_ok (r := r) h0 h8 rfl hc hrec hretry rfl))
  case fence =>
    intro H
    exact congrArg _ (State.recv_serveOp H fun hr => by cases hr)
  case beat =>
    intro u H hl
    have hserve := State.serveHeartbeat_live (r := (s.accepted port 5 h [] n t).1) (n := n) rfl hl
    refine ⟨_, congrArg _ ((State.recv_serveOp H fun hr => by cases hr).trans hserve), ?_, ?_, ?_, ?_, rfl⟩
    · exact (State.rd_wr_other _ _ _ _ (leaseState_ne_leaseExpiry n)).trans (State.rd_wr_same ..)
    · exact State.rd_wr_same ..
    · simp [Tab.getD]
    · exact State.RegsBut.wrs _ (State.RegsBut.of_regs rfl rfl) (by simp)

end Sys2Proof.Machine

namespace Sys2Proof.Machine

/-! ### WRITE and ATOMIC at their home -/

theorem take_toLE : ∀ (k n v : Nat), k ≤ n → (toLE n v).take k = toLE k v := by
  intro k
  induction k with
  | zero => intro n v _; rfl
  | succ k ih =>
    intro n v h
    obtain ⟨n, rfl⟩ : ∃ m, n = m + 1 := ⟨n - 1, by omega⟩
    simp only [toLE, List.take_succ_cons, ih n _ (by omega)]

/-- The low bytes of a number that a byte string begins with. -/
theorem leAt_low {n k : Nat} (v : Nat) (c : List Byte) (h : k ≤ n) : leAt (toLE n v ++ c) 0 k = v % 2 ^ (8 * k) := by
  unfold leAt
  rw [slice_of_le _ _ _ (by simp; omega), List.drop_zero, List.take_append_of_le_length (by simpa using h), take_toLE _ _ _ h, ofLE_toLE]

/-- The body of an ATOMIC (04 R100). -/
def atomicBody (addr op size x y : Nat) : List Byte :=
  toLE 8 addr ++ toLE 1 op ++ toLE 1 size ++ toLE 6 0 ++ toLE 16 x ++ toLE 16 y

theorem atomicBody_fields {addr op size x y : Nat} (ha : addr < 2 ^ 48) (ho : op ≤ 10) (hs : size ≤ 16) :
    leAt (atomicBody addr op size x y) 0 8 = addr ∧ leAt (atomicBody addr op size x y) 8 1 = op ∧
    leAt (atomicBody addr op size x y) 9 1 = size ∧ leAt (atomicBody addr op size x y) 16 size = x % 2 ^ (8 * size) ∧
    leAt (atomicBody addr op size x y) 32 size = y % 2 ^ (8 * size) := by
  have hskip : ∀ (k m v i : Nat) (c : List Byte), m ≤ i → leAt (toLE m v ++ c) i k = leAt c (i - m) k :=
    fun k m v i c hi => leAt_skip _ _ _ _ _ (length_toLE ..) hi
  simp only [atomicBody, List.append_assoc]
  refine ⟨leAt_addr ha _, ?_, ?_, ?_, ?_⟩
  · rw [hskip _ _ _ _ _ (by decide), leAt_head]
    omega
  · rw [hskip _ _ _ _ _ (by decide), hskip _ _ _ _ _ (by decide), leAt_head]
    omega
  · rw [hskip _ _ _ _ _ (by decide), hskip _ _ _ _ _ (by decide), hskip _ _ _ _ _ (by decide), hskip _ _ _ _ _ (by decide)]
    exact leAt_low _ _ hs
  · rw [hskip _ _ _ _ _ (by decide), hskip _ _ _ _ _ (by decide), hskip _ _ _ _ _ (by decide), hskip _ _ _ _ _ (by decide),
      hskip _ _ _ _ _ (by decide)]
    simpa using leAt_low (n := 16) y [] hs

theorem State.serveOp_atomic {u : State} {r : Req} {noise : List (Nat × Nat)} {t : Nat} (h : r.op = 3) :
    u.serveOp r noise t = u.serveAtomic r noise := by
  simp only [State.serveOp, h, Nat.reduceEqDiff, if_false, if_true]

section
variable {u : State} {r : Req} {e va op size x y handle p : Nat} {noise : List (Nat × Nat)} {g : LineGot × State}
  (hva : leAt r.body 0 8 = va) (hsize : leAt r.body 9 1 = size) (hx : leAt r.body 16 size = x)
  (hy : leAt r.body 32 size = y) (hr : r.retried = []) (hh : r.h.handle = handle) (hp : p = handlePart handle)
  (hc : u.homeCheck handle r.bind va true = .ok e) (hw : u.writeWaits e va size r = none)
  (hretry : u.retryDue e va size handle [] noise = none) (hg : g = u.readLine e (va / 128 * 128) handle (noiseOf noise 0) false)
include hva hsize hx hy hr hh hp hc hw hretry hg

/-- An ATOMIC at its home of a bad line (09 R212). -/
theorem State.serveAtomic_bad {f : Bool} (hf : g.1 = .bad f) : u.serveAtomic r noise =
    if u.poisonMode p then (g.2.answer r 0x83 Code.poisoned (List.replicate 16 0#8)).noteFault p
    else (g.2.answerSt r Code.dataError).noteFault p := by
  subst hva hsize hh hp hg
  unfold State.serveAtomic
  simp only [hc, hw, hr, hretry, List.contains_nil, hf]

/-- An ATOMIC at its home of a good line (04 R100). -/
theorem State.serveAtomic_data (hop : leAt r.body 8 1 = op) {l : List Byte} (hl : g.1 = .data l) {w : Bool × State}
    (hwr : w = g.2.writePiece e (va / 128 * 128) (splice l (va % 128) (toLE size (atomicResult op size (leAt l (va % 128) size) x y)))
      handle [] []) :
    (u.primaryPair p (vaIndex va) = none →
      u.serveAtomic r noise = w.2.answer r 0x83 Code.ok (padTo 16 (toLE size (leAt l (va % 128) size)))) ∧
    ∀ m, u.primaryPair p (vaIndex va) = some m →
      u.serveAtomic r noise = w.2.pairAnswer m e va size r Code.ok (padTo 16 (toLE size (leAt l (va % 128) size))) := by
  subst hva hop hsize hx hy hh hp hg hwr
  constructor
  · intro hpair
    unfold State.serveAtomic
    simp only [hc, hw, hr, hretry, List.contains_nil, hl, hpair]
  · intro m hpair
    unfold State.serveAtomic
    simp only [hc, hw, hr, hretry, List.contains_nil, hl, hpair]

end

/-- Settles O24: `serveWrite_ok` and `serveWrite_pair` by whether a pair is to follow, `serveAtomic_data` and `serveAtomic_bad` by the line. -/
theorem writesAndAtomics : Obligations.WritesAndAtomics := by
  intro s port n t h addr e noise ha
  constructor
  · intro data hpos hlen b u r p w H hhalt hc hw
    obtain ⟨h0, h8⟩ := rangeBody_fields ha hlen (padTo (pad8 data.length) data)
    have hd := writeBody_data (addr := addr) (data := data) rfl
    have hexec := execWrite_starts (noise := noise) H ha hhalt
    have hone := fun hp => hexec.trans (congrArg Host.Outcome.next
      (State.serveWrite_ok (handle := h.handle) (p := p) (w := w) (r := r) h0 h8 hd rfl rfl hc hw rfl hp))
    have hpair := fun m a l h1 h2 => hexec.trans (congrArg Host.Outcome.next
      (State.serveWrite_pair (handle := h.handle) (p := p) (w := w) (r := r) (m := m) (a := a) (l := l) h0 h8 hd rfl rfl hc hw rfl h1 h2))
    refine ⟨fun hok hp => ?_, fun hok hp => ?_, fun m a l hok h1 h2 => ?_, fun m a l hok h1 h2 => ?_⟩
    · have := hone (.inl hp)
      rw [if_pos hok, if_pos hok] at this
      exact this
    · have := hone hp
      rw [hok] at this
      exact this
    · have := hpair m a l h1 h2
      rw [if_pos hok, if_pos hok] at this
      exact this
    · have := hpair m a l h1 h2
      rw [hok] at this
      exact this
  · intro op size x y ho hs hx hy b u r p g H hhalt hc hw hretry
    obtain ⟨h0, h8, h9, h16, h32⟩ := atomicBody_fields (x := x) (y := y) ha ho hs
    have hserve := State.recv_serveOp (noise := noise) H fun _ => by rw [show leAt b 0 8 = addr from h0]; exact hhalt
    rw [State.serveOp_atomic rfl] at hserve
    have hexec : exec (.atomic port h addr op size x y noise t) s = .next (u.serveAtomic r noise) := congrArg Host.Outcome.next hserve
    refine ⟨fun l hl => ?_, fun f hf => ?_⟩
    · obtain ⟨hnone, hsome⟩ := State.serveAtomic_data (handle := h.handle) (p := p) (r := r) h0 h9 h16 h32 rfl rfl rfl hc hw hretry
        (g := g) rfl h8 hl rfl
      exact ⟨fun hp => hexec.trans (congrArg _ (hnone hp)), fun m hp => hexec.trans (congrArg _ (hsome m hp))⟩
    · exact hexec.trans (congrArg _ (State.serveAtomic_bad (handle := h.handle) (p := p) (r := r) h0 h9 h16 h32 rfl rfl rfl hc hw hretry
        (g := g) rfl hf))

end Sys2Proof.Machine

namespace Sys2Proof.Machine

/-! ### Tables -/

theorem Tab.erase_of_find_none {α : Type} {t : Tab α} {k : Nat} (h : Tab.find t k = none) : Tab.erase t k = t := by
  induction t with
  | nil => rfl
  | cons e t ih =>
    obtain ⟨a, x⟩ := e
    rw [Tab.find] at h
    by_cases ha : a = k
    · rw [if_pos ha] at h
      cases h
    · rw [if_neg ha] at h
      have := ih h
      unfold Tab.erase at this ⊢
      rw [List.filter_cons_of_pos (by simpa using ha), this]

/-! ### Ports after counts, meters and updates -/

@[simp] theorem State.port_count (s : State) (k n q : Nat) : (s.count k n).port q = s.port q := rfl
@[simp] theorem State.port_meterAdd (s : State) (p f n q : Nat) : (s.meterAdd p f n).port q = s.port q := rfl

@[simp] theorem State.port_updPort (s : State) (p : Nat) (f : Port → Port) : (s.updPort p f).port p = f (s.port p) := by
  simp [State.updPort]

@[simp] theorem State.port_setRouter (s : State) (p q : Nat) (v : MeshTile) : (s.setRouter p v).port q = s.port q := rfl

theorem State.port_updPort_other (s : State) (p : Nat) (f : Port → Port) {q : Nat} (h : q ≠ p) : (s.updPort p f).port q = s.port q := by
  rw [State.updPort, State.port_setPort_other _ _ _ _ h]

/-! ### Bindings and links left alone -/

/-- Bindings, their leases and the links are the same in both states. -/
structure State.Linked (s w : State) : Prop where
  links : w.links = s.links
  binding : ∀ b, b < 4096 → w.binding b = s.binding b
  lease : ∀ b, b < 4096 → w.rd (K.leaseState b) = s.rd (K.leaseState b)
  port : ∀ p, p < 64 → w.rd (K.portState p) = s.rd (K.portState p)

namespace State.Linked

variable {s w v : State}

theorem refl (s : State) : s.Linked s := ⟨rfl, fun _ _ => rfl, fun _ _ => rfl, fun _ _ => rfl⟩

theorem trans (h : s.Linked w) (g : w.Linked v) : s.Linked v :=
  ⟨g.links.trans h.links, fun b hb => (g.binding b hb).trans (h.binding b hb), fun b hb => (g.lease b hb).trans (h.lease b hb),
    fun p hp => (g.port p hp).trans (h.port p hp)⟩

/-- A state with the same elements and links. -/
theorem of_eq (hr : w.regs = s.regs) (hf : w.fuses = s.fuses) (hl : w.links = s.links) : s.Linked w :=
  ⟨hl, fun _ _ => State.rd_congr hr hf _, fun _ _ => State.rd_congr hr hf _, fun _ _ => State.rd_congr hr hf _⟩

/-- A write of an element that is none of them: by its sub-index, or in an object past the extents and bindings. -/
theorem wr (h : s.Linked w) {idx sub el : Nat} (v : Nat) (hk : (sub ≠ 1 ∧ sub ≠ 4) ∨ 0x3700 ≤ idx) (hs : sub < 256) (he : el < 2 ^ 24) :
    s.Linked (w.wr (ek idx sub el) v) := by
  refine h.trans ⟨rfl, fun b hb => State.rd_wr_other _ _ _ _ ?_, fun b hb => State.rd_wr_other _ _ _ _ ?_,
    fun p hp => State.rd_wr_other _ _ _ _ ?_⟩ <;> simp only [ek, ne_eq] <;> omega

theorem count (h : s.Linked w) {idx sub el : Nat} (n : Nat) (hk : (sub ≠ 1 ∧ sub ≠ 4) ∨ 0x3700 ≤ idx) (hs : sub < 256) (he : el < 2 ^ 24) :
    s.Linked (w.count (ek idx sub el) n) := h.wr _ hk hs he

theorem lives (h : s.Linked w) {b : Nat} (hb : b < 4096) : w.bindingLives b = s.bindingLives b := by
  rw [State.bindingLives, h.binding b hb, h.lease b hb]
  rfl

theorem linkState (h : s.Linked w) {p : Nat} (hp : p < 64) : w.linkState p = s.linkState p := by
  unfold State.linkState
  rw [h.port p hp, h.links]

theorem secure (h : s.Linked w) {p : Nat} (hp : p < 64) : w.secure p = s.secure p := by
  rw [State.secure, h.linkState hp]
  rfl

end State.Linked

theorem State.sendResp_linked (s : State) (p : Nat) (m : Msg) : s.Linked (s.sendResp p m) := by
  refine State.Linked.count (w := s.send p m) ?_ 1 (.inl (by decide)) (by decide) (by decide)
  unfold State.send
  simp only []
  split <;> exact .of_eq rfl rfl rfl

/-- Answering a request leaves bindings, leases and links. -/
theorem State.answer_linked (s : State) (r : Req) (op st : Nat) (body : List Byte) : s.Linked (s.answer r op st body) := by
  have hone : ∀ (u : State) (p q el : Nat) (m : Msg) (b : Prop) [Decidable b], s.Linked u → el < 2 ^ 24 →
      s.Linked (if b then u.sendResp p m else u.count (K.transportCounts q el) 1) := by
    intro u p q el m b _ h he
    split
    · exact h.trans (u.sendResp_linked p m)
    · exact h.count 1 (.inl (by decide)) (by decide) he
  have hfold : ∀ (l : List Req) (f : State → Req → State), (∀ u x, s.Linked u → s.Linked (f u x)) → ∀ u, s.Linked u → s.Linked (l.foldl f u) := by
    intro l f hf
    induction l with
    | nil => exact fun u h => h
    | cons x l ih => exact fun u h => ih _ (hf u x h)
  unfold State.answer
  simp only []
  by_cases hc : classC r.op = true
  · rw [if_pos hc]
    refine hfold _ _ (fun u x hu => ?_) _ (hone _ _ _ _ _ _ (.of_eq rfl rfl rfl) (by decide))
    have hu' := hu.trans (.of_eq (w := (State.updPort { u with waiting := u.waiting.filter fun e =>
      !(e.1 = Wait.firstResp ∧ e.2.id = x.id ∧ e.2.port = x.port) } r.port
      (fun q => { q with pending := q.pending.filter (fun y => y.id ≠ x.id) }))) rfl rfl rfl)
    split
    · exact State.Linked.count (hu'.trans (State.sendResp_linked _ _ _)) 1 (.inl (by decide)) (by decide) (by decide)
    · exact hu'.count 1 (.inl (by decide)) (by decide) (by decide)
  · rw [if_neg hc]
    exact hone _ _ _ _ _ _ (.of_eq rfl rfl rfl) (by decide)

/-! ### What a read of a line leaves -/

/-- `w` is `s` with other stacks, counts and meters: what a read of memory changes. -/
structure State.ReadOnly (s w : State) : Prop where
  only : ∃ stackTab regs meter, w = { s with stackTab := stackTab, regs := regs, meter := meter }
  linked : s.Linked w

namespace State.ReadOnly

variable {s w v : State}

theorem refl (s : State) : s.ReadOnly s := ⟨⟨_, _, _, rfl⟩, .refl s⟩

theorem trans (h : s.ReadOnly w) (g : w.ReadOnly v) : s.ReadOnly v := by
  obtain ⟨⟨_, _, _, rfl⟩, hl⟩ := h
  obtain ⟨⟨_, _, _, rfl⟩, gl⟩ := g
  exact ⟨⟨_, _, _, rfl⟩, hl.trans gl⟩

theorem count (h : s.ReadOnly w) {idx sub el : Nat} (n : Nat) (hk : 0x3700 ≤ idx) (hs : sub < 256) (he : el < 2 ^ 24) :
    s.ReadOnly (w.count (ek idx sub el) n) := by
  obtain ⟨⟨_, _, _, rfl⟩, hl⟩ := h
  exact ⟨⟨_, _, _, rfl⟩, hl.count n (.inr hk) hs he⟩

theorem updStack (h : s.ReadOnly w) (t : Nat) (f : Stack → Stack) : s.ReadOnly (w.updStack t f) := by
  obtain ⟨⟨_, _, _, rfl⟩, hl⟩ := h
  exact ⟨⟨_, _, _, rfl⟩, hl.trans (.of_eq rfl rfl rfl)⟩

end State.ReadOnly

theorem State.burst_readOnly (s : State) (ln handle : Nat) (wr : Bool) : s.ReadOnly (s.burst ln handle wr) := by
  have h : ∀ b : Prop, ∀ [Decidable b], ∀ k p f, s.ReadOnly (State.meterAdd (if b then s else s.setStack (ln / 2 ^ 30) k) p f 1) := by
    intro b _ k p f
    split <;> exact ⟨⟨_, _, _, rfl⟩, .of_eq rfl rfl rfl⟩
  unfold State.burst
  simp only []
  split
  · exact (h ..).count 1 (by omega) (by decide) (by decide)
  · exact h ..

theorem State.errEvent_readOnly (s : State) (kind ln : Nat) (fix : List (Nat × Nat)) : s.ReadOnly (s.errEvent kind ln fix) := by
  unfold State.errEvent
  simp only []
  split
  next h => exact ((State.ReadOnly.refl s).updStack _ _).count 1 (by omega) (by decide) (by omega)
  next => exact (State.ReadOnly.refl s).updStack _ _

theorem State.demand_readOnly (s : State) (ln handle : Nat) (noise : List (Nat × Nat)) (retry : Bool) :
    s.ReadOnly (s.demand ln handle noise retry).2 := by
  have hc : ∀ {w : State} (el : Nat), el < 256 → s.ReadOnly w → s.ReadOnly (w.count (K.integrityCounts (ln / 2 ^ 30) el) 1) :=
    fun el he h => h.count 1 (by omega) (by decide) (by omega)
  have h1 := hc 0 (by decide) (s.burst_readOnly ln handle false)
  have hev : ∀ {w : State} (kind : Nat) (fix : List (Nat × Nat)), s.ReadOnly w → s.ReadOnly (w.errEvent kind ln fix) :=
    fun kind fix h => h.trans (State.errEvent_readOnly ..)
  unfold State.demand
  simp only []
  split
  · simp only []
    split
    · exact hev _ _ (hc 2 (by decide) h1)
    · exact h1
  · simp only []
    split
    · exact hev _ _ (hc 2 (by decide) h1)
    · exact hev _ _ (hc 1 (by decide) h1)
  · exact hev _ _ h1
  · split
    · simp only []
      split
      · exact hev _ _ (hc 3 (by decide) h1)
      · exact (hev _ _ (hc 3 (by decide) h1)).updStack _ _
    · exact h1

theorem State.cohRead_readOnly (s : State) (ln handle : Nat) : s.ReadOnly (s.cohRead ln handle).2 := by
  unfold State.cohRead
  split
  · exact .refl s
  · simp only []
    split
    · exact (s.demand_readOnly ..).trans (State.demand_readOnly ..)
    · exact s.demand_readOnly ..

theorem State.specUnused_readOnly (s : State) (ln : Nat) (r : Req) : s.ReadOnly (s.specUnused ln r) := by
  unfold State.specUnused
  simp only []
  split
  · exact .refl s
  · have h1 : s.ReadOnly (((s.count (K.cohCounts (lineTile ln) 5) 1).burst ln r.h.handle false).count (K.integrityCounts (lineTile ln) 0) 1) :=
      ((((State.ReadOnly.refl s).count 1 (by omega) (by decide) (by decide))).trans (State.burst_readOnly ..)).count 1 (by omega) (by decide)
        (by decide)
    split
    · exact (h1.count 1 (by omega) (by decide) (by decide)).trans (State.errEvent_readOnly ..)
    · exact h1

end Sys2Proof.Machine

namespace Sys2Proof.Machine

/-! ### Answers that go out at once -/

/-- The response to a request of a link session that still runs, of no class C, is the last message of its port. -/
theorem State.answer_out (s : State) {r : Req} (op st : Nat) (body : List Byte) (hc : classC r.op = false) (hl : r.link = (s.port r.port).linkNo) :
    ((s.answer r op st body).port r.port).out = (s.port r.port).out ++ [r.reply op st body] := by
  unfold State.answer
  simp only [hc, hl, Bool.false_eq_true, false_and, if_false, if_true]
  have h : ∀ (u : State) (m : Msg), ((u.sendResp r.port m).port r.port).out = (u.port r.port).out ++ [m] := by
    intro u m
    unfold State.sendResp State.send
    simp only []
    split
    · simp
    · simp
  rw [h]
  simp [Req.reply]

/-- A request that has begun is of its port's link session. -/
theorem State.began_linkNo (s : State) (port op : Nat) (h : Hdr) (b : List Byte) (n t : Nat) :
    ((s.began port op h b n t).port port).linkNo = (s.accepted port op h b n t).1.link := by
  have h1 : ((s.accepted port op h b n t).2.port port).linkNo = (s.accepted port op h b n t).1.link := by
    unfold State.accepted State.accept
    simp only []
    split <;> simp
  unfold State.began
  split
  · exact h1
  · unfold State.useCells State.slowUse
    simp only []
    split
    · simpa using h1
    · split <;> simpa using h1

/-- The binding of an accepted request is one of the 4,096. -/
theorem Starts.bind_lt {s : State} {port op : Nat} {h : Hdr} {b : List Byte} {n t : Nat} (H : Starts s port op h b n t)
    (hb : noBinding op = false) : n < 4096 := by
  obtain ⟨-, hc, -⟩ := H
  have htag : ∀ m, (s.at t).tagChecks port op m h = .accepted n → m = n := by
    intro m hm
    unfold State.tagChecks at hm
    simp only [] at hm
    split at hm
    · split at hm <;> cases hm
    · split at hm
      · cases hm
      · split at hm
        · cases hm
        · split at hm
          · cases hm
          · split at hm
            · cases hm
            · exact Arrival.accepted.inj hm
  unfold State.checkArrival at hc
  simp only [hb, Bool.false_eq_true, if_false] at hc
  split at hc
  · cases hc
  split at hc
  · cases hc
  split at hc
  · cases hc
  split at hc
  · cases hc
  split at hc
  · cases hc
  split at hc
  · cases hc
  split at hc
  · cases hc
  next m hm =>
    have hmem := List.mem_of_find?_eq_some hm
    split at hc
    · cases hc
    split at hc
    · cases hc
    · exact htag m hc ▸ List.mem_range.1 hmem

/-! ### A line with nothing pending -/

/-- Nothing is pending on a line. -/
def Pend.Idle (q : Pend) : Prop := q.fwds = [] ∧ q.collect = .none ∧ q.awaited = none ∧ q.after = [] ∧ q.bars = [] ∧ q.due = false

theorem State.pend_of_none {s : State} {ln : Nat} (h : Tab.find s.pends ln = none) : s.pend ln = {} := by
  rw [State.pend, Tab.getD, h]
  rfl

@[simp] theorem State.pend_setPend (s : State) (ln : Nat) (q : Pend) : (s.setPend ln q).pend ln = q := by
  rw [State.pend, Tab.getD, State.setPend, Tab.find_set_same]
  rfl

theorem Pend.idle_default : Pend.Idle {} := ⟨rfl, rfl, rfl, rfl, rfl, rfl⟩

section
variable {s : State} {ln : Nat}

theorem State.lineTurn_idle (h : (s.pend ln).Idle) : s.lineTurn ln = none := by
  obtain ⟨h1, h2, h3, -, h5, h6⟩ := h
  unfold State.lineTurn
  simp only [h1, h2, h3, h5, h6, List.find?_nil, Bool.false_eq_true, if_false]

theorem State.lineTurns_of_none (h : s.lineTurn ln = none) (n : Nat) : s.lineTurns ln n = s := by
  cases n with
  | zero => rfl
  | succ n => simp only [State.lineTurns, h]

/-- Settling a line on which nothing is pending drops its record. -/
theorem State.settleLine_idle (h : (s.pend ln).Idle) : s.settleLine ln = { s with pends := Tab.erase s.pends ln } := by
  unfold State.settleLine
  simp only []
  rw [State.lineTurns_of_none (State.lineTurn_idle h)]
  obtain ⟨h1, h2, h3, h4, h5, h6⟩ := h
  unfold State.putPend
  simp only [h1, h2, h3, h4, h5, h6]
  rfl

/-- A binding that lives and whose port is SECURE stays recorded (07 R178). -/
theorem State.recorded_live {b : Nat} (hl : s.bindingLives b = true) (hs : s.secure (bPort (s.binding b)) = true) : s.recorded ln b = s := by
  unfold State.recorded
  simp only [hl, hs, Bool.not_true, Bool.false_eq_true, if_false, if_true]

theorem bPort_lt (d : Nat) : bPort d < 64 := by
  simp only [bPort, fld, Nat.reduceAdd, Nat.reduceSub]
  omega

theorem State.Linked.recorded {w : State} (h : s.Linked w) {b : Nat} (hb : b < 4096) (hl : s.bindingLives b = true)
    (hs : s.secure (bPort (s.binding b)) = true) : w.recorded ln b = w := by
  refine State.recorded_live ((h.lives hb).trans hl) ?_
  rw [h.binding b hb, h.secure (bPort_lt _), hs]

/-! ### Entries put into the directory -/

theorem State.putEnt_linked (s : State) (ln : Nat) (x : DirEnt) : s.Linked (s.putEnt ln x) := by
  unfold State.putEnt
  simp only []
  split
  · refine State.Linked.wr (idx := 0x3810 + lineTile ln) (sub := 2) (el := 0) ?_ _ (.inl (by decide)) (by decide) (by decide)
    exact .of_eq rfl rfl rfl
  · exact .of_eq rfl rfl rfl

theorem State.putEnt_only (s : State) (ln : Nat) (x : DirEnt) : ∃ regs, s.putEnt ln x = { s with
    dir := Tab.set s.dir ln { x with stamp := s.dirClock + 1 }, dirClock := s.dirClock + 1, regs := regs } := by
  unfold State.putEnt
  simp only []
  split <;> exact ⟨_, rfl⟩

/-- An entry put in is the line's, and the other lines' stay. -/
theorem State.dirEnt_putEnt (s : State) (ln l : Nat) (x : DirEnt) :
    (s.putEnt ln x).dirEnt l = if l = ln then some { x with stamp := s.dirClock + 1 } else s.dirEnt l := by
  obtain ⟨regs, h⟩ := s.putEnt_only ln x
  rw [h]
  split
  next hl => rw [hl]; exact Tab.find_set_same ..
  next hl => exact Tab.find_set_other _ _ _ _ hl

end

/-! ### Requests at the directory -/

section
variable {u v : State} {ln n grant k : Nat} {r : Req} {d : List Byte}

/-- A line of a set with room needs no victim (07 R169). -/
theorem State.makeRoom_room (h : (v.dir.filter (fun q => lineTile q.1 = lineTile ln ∧ lineSet q.1 = lineSet ln)).length < 16) :
    v.makeRoom ln = some v := by
  unfold State.makeRoom
  simp only []
  rw [if_pos (.inr h)]

/-- A line that nobody holds is granted from memory to its one new holder (07 R173). -/
theorem State.fromMemory_uncached (hd : (v.cohRead ln r.h.handle).1 = .data d)
    (hroom : (v.dir.filter (fun q => lineTile q.1 = lineTile ln ∧ lineSet q.1 = lineSet ln)).length < 16) (hg : grant = 3 ∨ grant = 4)
    (hb : r.bind < 4096) (hl : v.bindingLives r.bind = true) (hs : v.secure (bPort (v.binding r.bind)) = true) :
    v.fromMemory ln r grant = ((v.cohRead ln r.h.handle).2.putEnt ln (mkEnt (grant - 1) r.bind false)).answer r 0xB0 Code.ok (toLE 8 grant ++ d) := by
  have hro := v.cohRead_readOnly ln r.h.handle
  have hroom' : (v.cohRead ln r.h.handle).2.makeRoom ln = some (v.cohRead ln r.h.handle).2 := by
    refine State.makeRoom_room ?_
    obtain ⟨_, _, _, h⟩ := hro.only
    rw [h]
    exact hroom
  unfold State.fromMemory
  simp only [hd, hroom']
  rw [(hro.linked.trans ((State.putEnt_linked ..).trans (State.answer_linked ..))).recorded hb hl hs]
  rcases hg with rfl | rfl <;> rfl

section
variable (hev : Tab.find u.evicts ln = none) (hp : Tab.find u.pends ln = none) (hw : u.waitersOf (.line ln) = [])
  (hroom : (u.pends.filter (fun q => lineTile q.1 = lineTile ln)).length < 4096) (hv : v = u.count (K.cohCounts (lineTile ln) 0) 1)
include hev hp hw hroom hv

/-- What the directory looks at of a line with nothing pending. -/
theorem State.cohRequest_looks : Tab.find v.evicts ln = none ∧ v.inRecall ln = false ∧ v.waitersOf (.line ln) = [] ∧ v.pend ln = {} ∧
    v.pending? ln = false ∧ v.pendRoom ln = true ∧ v.dirEnt ln = u.dirEnt ln := by
  subst hv
  have hpend : (u.count (K.cohCounts (lineTile ln) 0) 1).pend ln = {} := State.pend_of_none hp
  refine ⟨hev, by rw [State.inRecall, hpend]; rfl, hw, hpend, congrArg Option.isSome hp, ?_, rfl⟩
  exact Bool.or_eq_true_iff.2 (.inr (decide_eq_true hroom))

/-- A line that nobody holds is served from memory. -/
theorem State.cohRequest_uncached (hent : u.dirEnt ln = none)
    (hmates : (u.dir.filter (fun q => lineTile q.1 = lineTile ln ∧ lineSet q.1 = lineSet ln)).length < 16) :
    u.cohRequest ln r = (v.fromMemory ln r (if r.op = 0x30 then 3 else 4)).settleLine ln := by
  obtain ⟨h1, h2, h3, h4, -, h6, h7⟩ := State.cohRequest_looks hev hp hw hroom hv
  have hresp : v.responder ln = none := by
    unfold State.responder
    simp only [h4, h7, hent]
  have hserve : v.serveAt ln 0 r = some (v.fromMemory ln r (if r.op = 0x30 then 3 else 4)) := by
    unfold State.serveAt
    rw [h7, hent]
    simp only [State.makeRoom_room (v := v) (ln := ln) (by rw [hv]; exact hmates), Option.map_some]
  subst hv
  unfold State.cohRequest
  simp only [h1, h2, h3, h4, h6, hresp, hserve, Option.isSome_none, Bool.false_eq_true, ne_eq, not_true_eq_false, or_self, if_false,
    Bool.not_true, and_false]

/-- The owner of a line is sent a forward for a request of another binding. -/
theorem State.cohRequest_owned {x : DirEnt} {m : Nat} (hent : u.dirEnt ln = some x) (ho : x.owner = some m) (hm : m ≠ r.bind)
    (hrec : x.records r.bind = false) :
    u.cohRequest ln r = ((v.specUnused ln r).sendFwd ln 0 m r (decide (r.op ≠ 0x30)) (if r.op = 0x30 then 1 else 4)).settleLine ln := by
  obtain ⟨h1, h2, h3, h4, h5, h6, h7⟩ := State.cohRequest_looks hev hp hw hroom hv
  have hst : x.st ≠ 1 := by
    intro h
    rw [DirEnt.owner, if_pos h] at ho
    cases ho
  have hresp : v.responder ln = some m := by
    unfold State.responder
    simp only [h4, h7, hent, ho]
  subst hv
  unfold State.cohRequest
  simp only [h1, h2, h3, h4, h5, h6, h7, hent, hresp, hm, hrec, hst, Option.isSome_none, Bool.false_eq_true, ne_eq, not_true_eq_false, or_self,
    if_false, Bool.not_true, and_false, decide_false, List.length_nil, Nat.reduceLeDiff, decide_eq_true_eq, decide_not]

/-- The only sharer of a line is to be granted ownership without data (07 R172). -/
theorem State.cohRequest_sharer {x : DirEnt} (hop : r.op = 0x32) (hent : u.dirEnt ln = some x) (hst : x.st = 1) (hx : x.ptrs = [r.bind])
    (hcoarse : x.coarse = false) : u.cohRequest ln r = (v.collectAt ln 0 r).settleLine ln := by
  obtain ⟨h1, h2, h3, h4, h5, h6, h7⟩ := State.cohRequest_looks hev hp hw hroom hv
  have hrec : x.records r.bind = true := by simp [DirEnt.records, hx]
  have hserve : v.serveAt ln 0 r = some (v.collectAt ln 0 r) := by
    unfold State.serveAt State.repeated
    simp only [h7, hent, hrec, hst, hop, if_true, Nat.reduceEqDiff, if_false]
  have hspec : v.specUnused ln r = v := if_pos (.inl hop)
  have hresp : v.responder ln = none ∨ v.responder ln = some r.bind := by
    have : v.responder ln = x.designated := by
      unfold State.responder
      simp only [h4, h7, hent, DirEnt.owner, hst, if_true]
    rw [this, DirEnt.designated]
    split
    · rw [if_neg (by simp [hcoarse]), hx]
      rcases Nat.eq_zero_or_pos x.dsg with hd | hd
      · right
        rw [hd]
        rfl
      · left
        exact List.getElem?_eq_none (by simp; omega)
    · exact .inl rfl
  subst hv
  unfold State.cohRequest
  rcases hresp with hresp | hresp
  · simp only [h1, h2, h3, h4, h6, hresp, hserve, Option.isSome_none, Bool.false_eq_true, ne_eq, not_true_eq_false, or_self, if_false,
      Bool.not_true, and_false]
  · simp only [h1, h2, h3, h4, h5, h6, h7, hent, hrec, hresp, hspec, hserve, Option.isSome_none, Bool.false_eq_true, ne_eq,
      not_true_eq_false, or_self, if_false, if_true, Bool.not_true, and_false, List.length_nil, Nat.reduceLeDiff, true_or, true_and]

end

/-- Its turn come, it is: no other holder is to be back-invalidated. -/
theorem State.collectOn_sharer {w : State} {x : DirEnt} (hop : r.op = 0x32) (hent : w.dirEnt ln = some x) (hst : x.st = 1)
    (hx : x.ptrs = [r.bind]) (hcoarse : x.coarse = false) (hb : r.bind < 4096) (hl : w.bindingLives r.bind = true)
    (hs : w.secure (bPort (w.binding r.bind)) = true) (hw : w.pend ln = { collect := .own r, nextK := k }) :
    ∃ v : State, (v.pend ln).Idle ∧ v = { w with pends := v.pends } ∧
      w.collectOn ln r = (v.putEnt ln (mkEnt 3 r.bind false)).answer r 0xB1 Code.ok (toLE 8 4) := by
  have hrec : x.records r.bind = true := by simp [DirEnt.records, hx]
  have hhs : ∀ p, (w.holdersOf x p).filter (fun b => b ≠ r.bind && (true || decide (some b ≠ x.designated))) = [] := by
    intro p
    simp [State.holdersOf, hcoarse, hx]
  have hkeep : ∀ v : State, v = { w with pends := v.pends } → ((v.putEnt ln (mkEnt 3 r.bind false)).answer r 0xB1 Code.ok (toLE 8 4)).recorded
      ln r.bind = (v.putEnt ln (mkEnt 3 r.bind false)).answer r 0xB1 Code.ok (toLE 8 4) := by
    intro v hv
    have hlink : w.Linked v := by
      rw [hv]
      exact .of_eq rfl rfl rfl
    exact (hlink.trans ((State.putEnt_linked ..).trans (State.answer_linked ..))).recorded hb hl hs
  refine ⟨(w.setPend ln { collect := .own r, nextK := k, sent := true }).setPend ln { nextK := k }, ?_, rfl, ?_⟩
  · rw [State.pend_setPend]
    exact ⟨rfl, rfl, rfl, rfl, rfl, rfl⟩
  · unfold State.collectOn
    simp only [hw, hent, Option.getD_some, hrec, hst, decide_true, Bool.and_true, Bool.false_eq_true, if_false, hhs, State.backInvals, List.filter_nil,
      List.foldl_nil, State.pend_setPend, List.isEmpty_nil, Bool.not_true, if_true, hop]
    exact hkeep _ rfl

/-- Settling the line then drops its record. -/
theorem State.settleLine_sharer {w v : State} (hw : w.pend ln = { collect := .own r, nextK := k }) (hc : w.collectOn ln r = v)
    (hv : (v.pend ln).Idle) : w.settleLine ln = { v with pends := Tab.erase v.pends ln } := by
  have hturn : w.lineTurn ln = some v := by
    unfold State.lineTurn
    simp only [hw, List.find?_nil, Bool.false_and, Bool.false_eq_true, if_false, hc]
  have hturns : w.lineTurns ln 8 = v := by
    rw [State.lineTurns, hturn]
    exact State.lineTurns_of_none (State.lineTurn_idle hv) 7
  rw [← State.settleLine_idle hv]
  unfold State.settleLine
  simp only [hw, List.length_nil, Nat.add_zero, Nat.mul_zero, Nat.zero_add, hturns]
  rw [State.lineTurns_of_none (State.lineTurn_idle hv)]

end

/-! ### Requests that the part originates -/

section
variable (s : State) (port dst op handle : Nat) (body : List Byte) (why : Purpose)

theorem State.originate_only : ∃ ports meter, s.originate port dst op handle body why = { s with ports := ports, meter := meter } := by
  unfold State.originate State.sendOwn State.send
  simp only []
  split
  · split <;> exact ⟨_, _, rfl⟩
  · exact ⟨_, _, rfl⟩

/-- A request of the part's own is awaited at its port. -/
theorem State.originate_outReq : ∃ m : Msg, m.op = op ∧ m.dst = dst ∧ m.handle = handle ∧ m.body = body ∧
    ((s.originate port dst op handle body why).port port).outReq = (s.port port).outReq ++ [⟨port, m, 0, why, false⟩] := by
  refine ⟨⟨vcOf op, op, 0, s.rd (K.portEid port), dst, handle, (s.nextTag port dst).1.1, (s.nextTag port dst).1.2, 0, body⟩, rfl, rfl, rfl, rfl, ?_⟩
  unfold State.originate
  simp only [State.port_updPort]
  congr 1
  unfold State.sendOwn State.send State.nextTag
  simp only []
  split
  · split <;> simp
  · simp

end

section
variable {u w : State} {ln m k grant : Nat} {r : Req} {own : Bool}

/-- A forward that goes to a living holder of a line with nothing pending: it is all that is pending, and the line waits for its answer. -/
theorem State.sendFwd_settles (hp : u.pend ln = {}) (hl : u.bindingLives m = true)
    (hw : w = (u.sendFwd ln 0 m r own grant).settleLine ln) :
    w.pend ln = { fwds := [⟨0, m, r, own, grant, none⟩], nextK := 1, transfer := if own then some r.bind else none } ∧
    (∃ y ∈ (w.port (bPort (u.binding m))).outReq, y.purpose = .fwd ln 0 m ∧ y.msg.op = (if own then 0x39 else 0x38) ∧
      y.msg.dst = bEid (u.binding m)) ∧ w.dir = u.dir ∧ w.evicts = u.evicts ∧ w.mem = u.mem := by
  obtain ⟨B, body, hsend, hB1, hB2, hB3, hB4⟩ : ∃ (B : State) (body : List Byte), u.sendFwd ln 0 m r own grant =
      B.originate (bPort (u.binding m)) (bEid (u.binding m)) (if own then 0x39 else 0x38) r.h.handle body (.fwd ln 0 m) ∧
      B.pend ln = { fwds := [⟨0, m, r, own, grant, none⟩], nextK := 1 } ∧ B.dir = u.dir ∧ B.evicts = u.evicts ∧ B.mem = u.mem := by
    refine ⟨(u.setPend ln { fwds := [⟨0, m, r, own, grant, none⟩], nextK := 1 }).count (K.cohCounts (lineTile ln) 1) 1,
      slice r.body 0 8 ++ toLE 2 r.h.src ++ toLE 2 r.h.tag ++ toLE 1 (r.h.epoch % 4) ++ toLE 1 grant ++ toLE 2 0, ?_,
      State.pend_setPend .., rfl, rfl, rfl⟩
    unfold State.sendFwd
    simp only [hp, hl, if_true]
    rfl
  obtain ⟨v, hv, hpend, hout, hdir, hev, hmem⟩ : ∃ v, u.sendFwd ln 0 m r own grant = v ∧
      v.pend ln = { fwds := [⟨0, m, r, own, grant, none⟩], nextK := 1 } ∧
      (∃ y ∈ (v.port (bPort (u.binding m))).outReq, y.purpose = .fwd ln 0 m ∧ y.msg.op = (if own then 0x39 else 0x38) ∧
        y.msg.dst = bEid (u.binding m)) ∧ v.dir = u.dir ∧ v.evicts = u.evicts ∧ v.mem = u.mem := by
    obtain ⟨_, _, honly⟩ := B.originate_only (bPort (u.binding m)) (bEid (u.binding m)) (if own then 0x39 else 0x38) r.h.handle body
      (.fwd ln 0 m)
    obtain ⟨msg, h1, h2, -, -, h5⟩ := B.originate_outReq (bPort (u.binding m)) (bEid (u.binding m)) (if own then 0x39 else 0x38) r.h.handle
      body (.fwd ln 0 m)
    refine ⟨_, hsend, ?_, ⟨⟨bPort (u.binding m), msg, 0, .fwd ln 0 m, false⟩, ?_, rfl, h1, h2⟩, ?_, ?_, ?_⟩
    · rw [honly]
      exact hB1
    · rw [h5]
      simp
    · rw [honly]
      exact hB2
    · rw [honly]
      exact hB3
    · rw [honly]
      exact hB4
  have hturn : v.lineTurn ln = none := by
    unfold State.lineTurn
    simp only [hpend]
    rfl
  have hw' : w = v.setPend ln { fwds := [⟨0, m, r, own, grant, none⟩], nextK := 1, transfer := if own then some r.bind else none } := by
    rw [hw, hv]
    unfold State.settleLine
    simp only []
    rw [State.lineTurns_of_none hturn, hpend]
    cases own <;> rfl
  subst hw'
  exact ⟨State.pend_setPend .., hout, hdir, hev, hmem⟩

end

/-! ### The three requests -/

/-- A coherence request at its home, once it is mapped and checked. -/
theorem State.serveOp_cohRequest {u : State} {r : Req} {noise : List (Nat × Nat)} {t e addr : Nat}
    (hop : r.op = 0x30 ∨ r.op = 0x31 ∨ r.op = 0x32) (ha : leAt r.body 0 8 = addr) (hc : u.cohCheck r addr = .ok e) :
    u.serveOp r noise t = u.cohRequest (u.homeDpa e addr / 128) r := by
  have h : u.serveOp r noise t = u.serveCoherence r := by
    unfold State.serveOp
    rcases hop with h | h | h <;>
      simp only [h, Nat.reduceEqDiff, Nat.reduceLeDiff, or_self, and_self, if_true, if_false]
  rw [h]
  unfold State.serveCoherence
  simp only [ha, hc]
  rcases hop with h | h | h <;> simp only [h, Nat.reduceEqDiff, if_false]

theorem exec_cohRequest {s : State} {port n t addr e op : Nat} {h : Hdr} {c : Instr} (ha : addr < 2 ^ 48)
    (hc : (op = 0x30 ∧ c = .rdShared port h addr t) ∨ (op = 0x31 ∧ c = .rdOwn port h addr t) ∨ (op = 0x32 ∧ c = .upgrade port h addr t))
    (H : Starts s port op h (toLE 8 addr ++ toLE 8 0) n t) (hh : (s.began port op h (toLE 8 addr ++ toLE 8 0) n t).halts addr = false)
    (hk : (s.began port op h (toLE 8 addr ++ toLE 8 0) n t).cohCheck (s.accepted port op h (toLE 8 addr ++ toLE 8 0) n t).1 addr = .ok e) :
    exec c s = .next ((s.began port op h (toLE 8 addr ++ toLE 8 0) n t).cohRequest
      ((s.began port op h (toLE 8 addr ++ toLE 8 0) n t).homeDpa e addr / 128) (s.accepted port op h (toLE 8 addr ++ toLE 8 0) n t).1) := by
  have hva : leAt (toLE 8 addr ++ toLE 8 0) 0 8 = addr := leAt_addr ha _
  have hrecv := State.recv_serveOp (noise := []) H fun _ => by rw [hva]; exact hh
  rw [State.serveOp_cohRequest (r := (s.accepted port op h (toLE 8 addr ++ toLE 8 0) n t).1)
    (hc.imp And.left (Or.imp And.left And.left)) hva hk] at hrecv
  rw [← hrecv]
  rcases hc with ⟨rfl, rfl⟩ | ⟨rfl, rfl⟩ | ⟨rfl, rfl⟩ <;> rfl

/-- What a request that is granted a line leaves: the line's entry, its response, and nothing else of the directory or of memory. -/
theorem State.grant_leaves {y z : State} {r : Req} {ln op st : Nat} {x : DirEnt} {body : List Byte} (hc : classC r.op = false)
    (hl : r.link = (z.port r.port).linkNo) (hy : y = (z.putEnt ln x).answer r op st body) :
    (∀ l, y.dirEnt l = if l = ln then some { x with stamp := z.dirClock + 1 } else z.dirEnt l) ∧
    (y.port r.port).out = (z.port r.port).out ++ [r.reply op st body] ∧ y.pends = z.pends ∧ y.evicts = z.evicts ∧ y.mem = z.mem := by
  obtain ⟨_, _, _, _, _, ht⟩ := State.answer_talked (z.putEnt ln x) r op st body
  have hent := fun l => z.dirEnt_putEnt ln l x
  obtain ⟨_, hput⟩ := z.putEnt_only ln x
  have hout := State.answer_out (z.putEnt ln x) op st body hc (by rw [hput]; exact hl)
  subst hy
  refine ⟨fun l => ?_, hout.trans (by rw [hput]; rfl), ?_, ?_, ?_⟩
  · rw [← hent l, ht]
    rfl
  · rw [ht, hput]
  · rw [ht, hput]
  · rw [ht, hput]

/-- Settles O26: what the directory decides of a line with nothing pending, by who holds it. -/
theorem directoryRequests : Obligations.DirectoryRequests := by
  intro s port n t addr e op h c ha hc b u r ln hln H hh hlive hsec hk hev hp hw hroom
  have hop : op = 0x30 ∨ op = 0x31 ∨ op = 0x32 := hc.imp And.left (Or.imp And.left And.left)
  have hexec := exec_cohRequest ha hc H hh hk
  have hn : n < 4096 := H.bind_lt (by rcases hop with rfl | rfl | rfl <;> rfl)
  have hclass : classC r.op = false := by
    change classC op = false
    rcases hop with rfl | rfl | rfl <;> rfl
  obtain ⟨v, hv⟩ : ∃ v, v = u.count (K.cohCounts (lineTile ln) 0) 1 := ⟨_, rfl⟩
  have huv : u.ReadOnly v := hv ▸ (State.ReadOnly.refl u).count 1 (by omega) (by decide) (by decide)
  have hlive' : v.bindingLives r.bind = true := (huv.linked.lives hn).trans hlive
  have hsec' : v.secure (bPort (v.binding r.bind)) = true := by
    have hbind : v.binding r.bind = u.binding r.bind := huv.linked.binding _ hn
    rw [hbind, huv.linked.secure (bPort_lt _)]
    exact hsec
  have hlink : (u.port r.port).linkNo = r.link := s.began_linkNo port op h b n t
  refine ⟨fun hent hmates d hd => ?free, fun x m hent ho hm hrec hm4 hml => ?owned, fun x hop2 hent hst hx hco => ?sharer⟩
  case free =>
    have hcr := v.cohRead_readOnly ln r.h.handle
    have huc := huv.trans hcr
    obtain ⟨_, _, _, honly⟩ := huc.only
    rw [State.cohRequest_uncached hev hp hw hroom hv hent hmates, State.fromMemory_uncached (by rw [hv]; exact hd) (by rw [hv]; exact hmates)
      (by split <;> simp) hn hlive' hsec'] at hexec
    obtain ⟨y, hy⟩ : ∃ y, y = ((v.cohRead ln r.h.handle).2.putEnt ln (mkEnt ((if r.op = 0x30 then 3 else 4) - 1) r.bind false)).answer r 0xB0
      Code.ok (toLE 8 (if r.op = 0x30 then 3 else 4) ++ d) := ⟨_, rfl⟩
    rw [← hy] at hexec
    obtain ⟨h1, h2, h3, h4, h5⟩ := State.grant_leaves hclass (by rw [honly]; exact hlink.symm) hy
    rw [honly] at h2 h3 h4 h5
    have hfind : Tab.find y.pends ln = none := by rw [h3]; exact hp
    rw [State.settleLine_idle (by rw [State.pend_of_none hfind]; exact Pend.idle_default), Tab.erase_of_find_none hfind] at hexec
    refine ⟨_, _, hexec, (h1 ln).trans (if_pos rfl), rfl, ?_, h2, fun l hl => ?_, h3, h4, h5⟩
    · change (if op = 0x30 then 3 else 4) - 1 = _
      split <;> rfl
    · refine (h1 l).trans ?_
      rw [if_neg hl, honly]
      rfl
  case owned =>
    have hsu := huv.trans (v.specUnused_readOnly ln r)
    obtain ⟨_, _, _, honly⟩ := hsu.only
    rw [State.cohRequest_owned hev hp hw hroom hv hent ho hm hrec] at hexec
    obtain ⟨h1, ⟨y, hy, h2, h3, h4⟩, h5, h6, h7⟩ := State.sendFwd_settles (u := v.specUnused ln r) (m := m) (r := r) (ln := ln)
      (own := decide (r.op ≠ 0x30)) (grant := if r.op = 0x30 then 1 else 4)
      (by rw [honly]; exact State.pend_of_none hp) ((hsu.linked.lives hm4).trans hml) rfl
    rw [hsu.linked.binding _ hm4] at hy h4
    have hdir : (v.specUnused ln r).dir = u.dir := by rw [honly]
    refine ⟨_, hexec, ?_, ?_, ?_, ⟨y, hy, h2, ?_, h4⟩, h5.trans hdir, h6.trans (by rw [honly]), h7.trans (by rw [honly])⟩
    · rw [State.dirEnt, h5, hdir]
      exact hent
    · rw [h1]
      rfl
    · rw [h1]
      change (if decide (op ≠ 0x30) = true then some n else none) = _
      by_cases h30 : op = 0x30 <;> simp [h30]
    · rw [h3]
      change (if decide (op ≠ 0x30) = true then 0x39 else 0x38) = _
      by_cases h30 : op = 0x30 <;> simp [h30]
  case sharer =>
    obtain ⟨_, _, _, honly⟩ := huv.only
    rw [State.cohRequest_sharer hev hp hw hroom hv hop2 hent hst hx hco] at hexec
    have hvp : v.pend ln = {} := by rw [honly]; exact State.pend_of_none hp
    have hw1 : (v.collectAt ln 0 r).pend ln = { collect := .own r, nextK := 1 } := by
      unfold State.collectAt
      rw [State.pend_setPend, hvp]
      rfl
    have hcl : v.Linked (v.collectAt ln 0 r) := .of_eq rfl rfl rfl
    obtain ⟨z, hz, hzo, hzc⟩ := State.collectOn_sharer (w := v.collectAt ln 0 r) (x := x) hop2 (by rw [← hent, hv]; rfl) hst hx hco hn
      ((hcl.lives hn).trans hlive') ((hcl.secure (bPort_lt _)).trans hsec') hw1
    obtain ⟨y, hy⟩ : ∃ y, y = (z.putEnt ln (mkEnt 3 r.bind false)).answer r 0xB1 Code.ok (toLE 8 4) := ⟨_, rfl⟩
    rw [← hy] at hzc
    obtain ⟨h1, h2, h3, h4, h5⟩ := State.grant_leaves hclass (by rw [hzo, honly]; exact hlink.symm) hy
    rw [State.settleLine_sharer hw1 hzc (by rw [State.pend, h3]; exact hz)] at hexec
    refine ⟨_, _, hexec, (h1 ln).trans (if_pos rfl), rfl, rfl, ?_, fun l hl => ?_, Tab.find_erase_same .., ?_, ?_⟩
    · refine h2.trans ?_
      rw [hzo, honly]
      rfl
    · refine (h1 l).trans ?_
      rw [if_neg hl, hzo, honly]
      rfl
    · refine h4.trans ?_
      rw [hzo, honly]
      rfl
    · refine h5.trans ?_
      rw [hzo, honly]
      rfl

end Sys2Proof.Machine

namespace Sys2Proof.Machine

/-! ### A binding number beyond the 4,096 -/

/-- A binding number whose element BINDINGS is the element of COH_HOLDER_STATE of binding 12. -/
def strayBinding : Nat := K.cohHolderState 12 - K.bindings 0

/-- An RD_OWN of that binding. -/
def strayRequest : Req := ⟨3, 7, 0, strayBinding, 0x31, ⟨0, 32, 0x213, 0x100, 0x2401, 1, 0, 0⟩, [], []⟩

/-- The ownership forward to binding 12 for it. -/
def strayForward : PartReq := ⟨7, ⟨2, 0x39, 0, 0x100, 0x213, 0x2401, 5, 0, 0, []⟩, 0, .fwd 0 0 12, false⟩

/-- Port 7 is SECURE and admitted; line 0 is owned by binding 12, whose answer to that forward is awaited, and which has been silent. -/
def strayState : State :=
  { regs := [(K.portState 7, 3), (K.portEid 7, 0x100), (K.portAdmitted 7, 1), (K.bindings strayBinding, 2 ^ 63 + 7 * 2 ^ 50),
      (K.leaseState strayBinding, 1)]
    ports := [(7, { outReq := [strayForward] })]
    dir := [(0, ⟨3, false, false, 0, [12], 0, 0⟩)]
    pends := [(0, { fwds := [⟨0, 12, strayRequest, true, 4, none⟩], nextK := 1, transfer := some strayBinding })]
    lease := { silent := [(12, 0)] } }

/-- The FWD_ACK that answers it. -/
def strayAck : Hdr := ⟨0, 24, 0x213, 0x100, 0x2401, 5, 0, 0⟩

theorem strayState_matches : Matches strayState 7 0xB9 strayAck 0 strayForward :=
  ⟨by decide, by decide, by decide, by decide, by decide⟩

/-- The end of binding 12's silence writes 0 over that binding: it has ended, and the line that it was to own is lost. -/
theorem exec_strayState : ∃ w, exec (.fwdAck 7 strayAck 0 0 none 0) strayState = .next w ∧ w.dirEnt 0 = none := ⟨_, rfl, by decide⟩

/-- Refutes O27: the clause of FWD_ACK holds of every binding number. In `strayState` the requester's number lies beyond the 4,096
bindings, at the element of COH_HOLDER_STATE of the holder that answers; the end of that holder's silence overwrites it, and the line is
left with no entry. -/
theorem not_holdersAnswer : ¬ Obligations.HoldersAnswer := by
  intro h
  obtain ⟨-, -, hfwd, -⟩ := h strayState 7 0 0 0 0 strayAck (by decide)
  obtain ⟨w, x, hw, hx, -⟩ := hfwd strayForward 0 0 12 0 strayRequest strayState_matches rfl rfl (by decide) (by decide) (by decide)
    (by decide) (by decide) (by decide)
  obtain ⟨v, hv, h0⟩ := exec_strayState
  rw [Host.Outcome.next.inj (hw.symm.trans hv), h0] at hx
  cases hx

end Sys2Proof.Machine

namespace Sys2Proof.Machine

@[simp] theorem State.port_wr (s : State) (k v q : Nat) : (s.wr k v).port q = s.port q := rfl

/-! ### Erasing a device extent, drawing its key -/

/-- `w` is `s` with other stacks, counts, meters and stored errors: what issuing a burst changes. -/
def State.Issued (s w : State) : Prop := ∃ stackTab regs meter errs, w = { s with stackTab := stackTab, regs := regs, meter := meter, errs := errs }

theorem State.Issued.trans {s w v : State} : s.Issued w → w.Issued v → s.Issued v := by
  rintro ⟨_, _, _, _, rfl⟩ ⟨_, _, _, _, rfl⟩
  exact ⟨_, _, _, _, rfl⟩

theorem State.Issued.foldl {α : Type} {f : State → α → State} (hf : ∀ (s : State) x, s.Issued (f s x)) :
    ∀ (l : List α) (s : State), s.Issued (l.foldl f s) := by
  intro l
  induction l with
  | nil => exact fun s => ⟨_, _, _, _, rfl⟩
  | cons x l ih => exact fun s => (hf s x).trans (ih _)

theorem State.chargeBurst_issued (s : State) (t : Nat) (b : Burst) (act : Bool) : s.Issued (s.chargeBurst t b act) := by
  unfold State.chargeBurst
  split
  · split <;> exact ⟨_, _, _, _, rfl⟩
  · simp only []
    split <;> exact ⟨_, _, _, _, rfl⟩

theorem State.fixDone_issued (s : State) (t : Nat) (b : Burst) : s.Issued (s.fixDone t b) := by
  unfold State.fixDone
  simp only []
  split <;> exact ⟨_, _, _, _, rfl⟩

theorem State.issue_issued (s : State) (t : Nat) (b : Burst) (rotate : Bool) : s.Issued (s.issue t b rotate) := by
  unfold State.issue
  simp only []
  refine State.Issued.trans ?_ (State.fixDone_issued ..)
  have hq : ∀ f, s.Issued ((s.updStack t f).chargeBurst t b (s.needsAct t b)) := fun f =>
    State.Issued.trans (w := s.updStack t f) ⟨_, _, _, _, rfl⟩ (State.chargeBurst_issued ..)
  split <;> exact (hq _).trans ⟨_, _, _, _, rfl⟩

theorem State.drainWrites_issued (s : State) (d : Nat) : s.Issued (s.drainWrites d) := by
  unfold State.drainWrites
  refine State.Issued.foldl (fun u e => ?_) _ s
  exact State.Issued.foldl (fun v b => v.issue_issued e.1 b false) _ u

/-- The element of a device extent's state is not that of its key. -/
theorem keyState_ne_dxnState (d : Nat) : K.keyState d ≠ K.dxnState d := by
  simp only [ek, ne_eq]
  omega

theorem State.waitersOf_wake (s : State) {w : Wait} (h : w ≠ .home) : (s.wake w).waitersOf w = [] := by
  unfold State.waitersOf State.wake
  rw [List.map_eq_nil_iff, List.filter_eq_nil_iff]
  intro e he
  obtain ⟨x, -, rfl⟩ := List.mem_map.1 he
  by_cases hx : x.1 = w
  · simp [hx, Ne.symm h]
  · simp [hx]

section
variable {s : State} {d b : Nat}

/-- What the erasure of a device extent leaves (06 R144). -/
theorem State.eraseExtent_effect {v : State} {own : Nat} (h : Tab.find v.erasing d = some own) : ∃ w, v.eraseExtent d = w ∧
    w.written = v.written.filter (fun g => !granuleIn d g) ∧ w.rd (K.keyState d) = 0 ∧ Tab.find w.keyIds d = none ∧ Tab.getD w.tags d 0 = own ∧
    Tab.find w.erasing d = none ∧ w.waitersOf (.erase d) = [] ∧ v.RegsBut w [K.keyState d, K.dxnState d] ∧
    w = { v with written := w.written, keyIds := w.keyIds, erasing := w.erasing, regs := w.regs, tags := w.tags, waiting := w.waiting } := by
  refine ⟨_, rfl, ?_⟩
  unfold State.eraseExtent
  simp only [h]
  refine ⟨rfl, ?_, Tab.find_erase_same .., ?_, Tab.find_erase_same .., State.waitersOf_wake _ (by simp), ?_, rfl⟩
  · refine (State.rd_wr_other _ _ _ _ (keyState_ne_dxnState d)).trans ?_
    exact State.rd_wr_same ..
  · change Tab.getD (if own = 0 then Tab.erase v.tags d else Tab.set v.tags d own) d 0 = own
    split
    next h0 => rw [Tab.getD, Tab.find_erase_same, h0]; rfl
    next => rw [Tab.getD, Tab.find_set_same]; rfl
  · exact State.RegsBut.wr (k := K.dxnState d) (State.RegsBut.wr (k := K.keyState d) (.of_regs rfl rfl) (by simp)) (by simp)

theorem State.keyDraw_effect {k : Nat} (hk : s.rd (K.keyState d) = 0) (hw : s.waitersOf (.key d) ≠ []) (hd : s.keyDrawer d = some k) :
    s.keyDraw d = ((({ s with keysDrawn := s.keysDrawn + 1, keyIds := Tab.set s.keyIds d (s.keysDrawn + 1) } : State).wr (K.keyState d) 1).wake
      (.key d)) := by
  unfold State.keyDraw State.drawKey
  rw [if_pos ⟨hk, hw, by rw [hd]; rfl⟩, hd]

end

/-- A NOTIFY is awaited at its port, and only the port and the meters change. -/
theorem State.notify_effect (s : State) (port dst handle kind obj value st : Nat) : ∃ m : Msg, m.op = 0x40 ∧ m.dst = dst ∧ m.handle = handle ∧
    m.body = toLE 2 kind ++ toLE 2 0 ++ toLE 4 obj ++ toLE 8 value ∧
    ((s.notify port dst handle kind obj value st).port port).outReq = (s.port port).outReq ++ [⟨port, m, 0, .notify, false⟩] ∧
    ∃ ports meter, s.notify port dst handle kind obj value st = { s with ports := ports, meter := meter } := by
  refine ⟨⟨0, 0x40, 0, s.rd (K.portEid port), dst, handle, (s.nextTag port dst).1.1, (s.nextTag port dst).1.2, st,
    toLE 2 kind ++ toLE 2 0 ++ toLE 4 obj ++ toLE 8 value⟩, rfl, rfl, rfl, rfl, ?_, ?_⟩
  · unfold State.notify
    simp only [State.port_updPort]
    congr 1
    unfold State.sendOwn State.send State.nextTag
    simp only []
    split
    · split <;> simp
    · simp
  · unfold State.notify State.sendOwn State.send
    simp only []
    split
    · split <;> exact ⟨_, _, rfl⟩
    · exact ⟨_, _, rfl⟩

/-! ### The loss of a holder that holds nothing -/

/-- A request that goes to its home again waits at no line. -/
theorem State.rejudge_only (s : State) (p id : Nat) : ∃ waiting, s.rejudge p id = { s with waiting := waiting } ∧
    (s.rejudge p id).waitLines = s.waitLines := by
  unfold State.rejudge
  split
  · refine ⟨_, rfl, ?_⟩
    simp [State.waitLines, State.hold, List.filterMap_append]
  · exact ⟨_, rfl, rfl⟩

theorem State.foldl_waiting {f : State → PartReq → State}
    (hf : ∀ u x, ∃ waiting, f u x = { u with waiting := waiting } ∧ (f u x).waitLines = u.waitLines) :
    ∀ (l : List PartReq) (u : State), ∃ waiting, l.foldl f u = { u with waiting := waiting } ∧ (l.foldl f u).waitLines = u.waitLines := by
  intro l
  induction l with
  | nil => exact fun u => ⟨_, rfl, rfl⟩
  | cons x l ih =>
    intro u
    obtain ⟨_, h1, h2⟩ := hf u x
    obtain ⟨w, h3, h4⟩ := ih (f u x)
    refine ⟨w, ?_, h4.trans h2⟩
    rw [List.foldl_cons, h3, h1]

/-- A holder of no line, that owes nothing, is lost at once (07 R179). -/
theorem State.holderLost_alone {s : State} (b cause : Nat) (h1 : s.dir = []) (h2 : s.evicts = []) (h3 : s.pends = []) :
    s.holderLost b cause = State.wr { s with ports := (s.holderLost b cause).ports, waiting := (s.holderLost b cause).waiting }
      (K.cohHolderState b) 2 ∧ (s.holderLost b cause).waitLines = s.waitLines := by
  unfold State.holderLost
  simp only [h1, h2, h3, List.foldl_nil]
  generalize hv : List.foldl _ s (s.ports.map (fun (q : Nat × Port) => q.2.outReq)).flatten = v
  obtain ⟨w, rfl, hl⟩ : ∃ waiting, v = { s with waiting := waiting } ∧ v.waitLines = s.waitLines := by
    rw [← hv]
    refine State.foldl_waiting (fun u x => ?_) _ s
    split
    · split
      · exact u.rejudge_only _ _
      · exact ⟨_, rfl, rfl⟩
    · exact ⟨_, rfl, rfl⟩
  refine ⟨?_, hl⟩
  unfold State.wr
  congr 1

/-- Settles O28: each event by its own operation; a holder that holds nothing is lost at once (`leaseExpire_alone`). -/
theorem extentsAndLeases : Obligations.ExtentsAndLeases := by
  intro s d b hd hb
  refine ⟨?erase, ?draw, ?quarantine, ?late, ?expire, ?expireAlone, ?reclaimed, ?grace, ?awaited⟩
  case erase =>
    intro own ho
    obtain ⟨_, _, _, _, hv⟩ := s.drainWrites_issued d
    have hev : Tab.find (s.drainWrites d).erasing d = some own := by rw [hv]; exact ho
    obtain ⟨w, hw, h1, h2, h3, h4, h5, h6, h7, h8⟩ := State.eraseExtent_effect hev
    have hmem : ∀ g, g ∈ w.written ↔ g ∈ s.written ∧ granuleIn d g = false := by
      intro g
      rw [h1, hv, List.mem_filter, Bool.not_eq_true']
    refine ⟨_, w, rfl, ?_, fun g hg => ((hmem g).1 hg).symm, fun g hg hn => (hmem g).2 ⟨hg, hn⟩, h2, h3, h4, h5, h6, h7, h8⟩
    rw [← hw]
    refine congrArg Host.Outcome.next ?_
    rw [ho]
    rfl
  case draw =>
    intro k hk hw hdr
    refine ⟨_, congrArg Host.Outcome.next (State.keyDraw_effect hk hw hdr), State.rd_wr_same .., rfl, ?_, State.waitersOf_wake _ (by simp), ?_, rfl⟩
    · exact congrArg (fun x => Option.getD x 0) (Tab.find_set_same ..)
    · exact State.RegsBut.wr (k := K.keyState d) (.of_regs rfl rfl) (by simp)
  case quarantine =>
    intro f hf hle he
    refine congrArg Host.Outcome.next ?_
    unfold State.quarantineEnd
    simp only [hf, hle, if_true, he, Option.isSome_none, Bool.false_eq_true, if_false]
  case late =>
    intro hl hp
    obtain ⟨msg, h1, h2, h3, h4, h5, h6⟩ := State.notify_effect (s.wr (K.leaseState b) 2) (bPort (s.binding b)) (bEid (s.binding b))
      (s.handleOf (bPart (s.binding b))) 4 b (s.rd (K.leaseExpiry b)) Code.ok
    have hw : s.leaseLate b = (s.wr (K.leaseState b) 2).notify (bPort (s.binding b)) (bEid (s.binding b))
      (s.handleOf (bPart (s.binding b))) 4 b (s.rd (K.leaseExpiry b)) Code.ok := by
      unfold State.leaseLate
      rw [if_pos hl]
    obtain ⟨_, _, h7⟩ := h6
    refine ⟨_, _, congrArg Host.Outcome.next hw, ?_, ?_, h5, rfl, h1, h2, h3, h4, ?_⟩
    · rw [h7]
      exact State.rd_wr_same ..
    · rw [h7]
      exact State.RegsBut.wr (k := K.leaseState b) (.refl s _) (by simp)
    · rw [h7]
      rfl
  case expire =>
    intro he
    refine congrArg Host.Outcome.next (congrArg State.linesGo ?_)
    unfold State.leaseExpire
    simp only [he, if_true]
  case expireAlone =>
    intro he hh h1 h2 h3 hw hc
    obtain ⟨hlost, hlines⟩ := State.holderLost_alone (s := (s.wr (K.leaseState b) 3).count (K.reclaimCounts 0) 1) b 1 h1 h2 h3
    have hexp : s.leaseExpire b = ((s.wr (K.leaseState b) 3).count (K.reclaimCounts 0) 1).reclaim b (s.binding b) 1 [] := by
      unfold State.leaseExpire
      simp only [he, if_true, hh]
    have hgo : (s.leaseExpire b).linesGo = s.leaseExpire b := by
      have hnil : (s.leaseExpire b).waitLines = [] := by
        rw [hexp]
        exact hlines.trans hw
      rw [State.linesGo, hnil]
      rfl
    have hkeys : K.leaseState b ≠ K.reclaimCounts 0 ∧ K.leaseState b ≠ K.cohHolderState b ∧ K.reclaimCounts 0 ≠ K.cohHolderState b := by
      simp only [ek, ne_eq]
      omega
    obtain ⟨hk1, hk2, hk3⟩ := hkeys
    refine ⟨_, congrArg Host.Outcome.next hgo, ?_⟩
    rw [hexp, State.reclaim, hlost]
    refine ⟨?_, ?_, State.rd_wr_same .., rfl, Tab.find_erase_same .., Tab.find_erase_same .., ?_, rfl⟩
    · refine (State.rd_wr_other _ _ _ _ hk2).trans ((State.rd_wr_other _ _ _ _ hk1).trans ?_)
      exact State.rd_wr_same ..
    · refine (State.rd_wr_other _ _ _ _ hk3).trans ?_
      have hold : (s.wr (K.leaseState b) 3).rd (K.reclaimCounts 0) = s.rd (K.reclaimCounts 0) := State.rd_wr_other _ _ _ _ hk1.symm
      refine (State.rd_wr_same ..).trans ?_
      rw [hold]
      exact if_pos hc
    · exact State.RegsBut.wr (k := K.cohHolderState b) (State.RegsBut.wr (k := K.reclaimCounts 0)
        (State.RegsBut.wr (k := K.leaseState b) (.refl s _) (by simp)) (by simp)) (by simp)
  case reclaimed =>
    intro x hx h3
    have hw : s.reclaimDone b = ((State.updPort { s with lease := { s.lease with
        reclaiming := s.lease.reclaiming.filter (fun y => y.1 ≠ b) } } (bPort x.2.1)
        (fun q => { q with cache := q.cache.filter (fun c => c.bind ≠ b) })).wr (K.leaseState b) 4) := by
      unfold State.reclaimDone
      have h3' : State.rd { s with lease := { s.lease with reclaiming := s.lease.reclaiming.filter (fun y => y.1 ≠ b) } } (K.leaseState b) = 3 := h3
      simp only [hx, h3', Nat.reduceEqDiff, or_self, if_false, if_true]
    refine ⟨_, congrArg Host.Outcome.next hw, State.rd_wr_same .., ?_, ?_, ?_, rfl⟩
    · intro y hy
      simpa using (List.mem_filter.1 hy).2
    · intro y hy
      rw [State.port_wr, State.port_updPort] at hy
      simpa using (List.mem_filter.1 hy).2
    · exact State.RegsBut.wr (k := K.leaseState b) (.of_regs rfl rfl) (by simp)
  case grace =>
    intro f hf hle
    refine congrArg Host.Outcome.next (congrArg State.linesGo ?_)
    unfold State.graceExpire
    rcases hf with hf | hf <;> simp only [hf, hle, decide_true, Bool.true_or, Bool.or_true, if_true]
  case awaited =>
    intro ln f ha hle
    refine congrArg Host.Outcome.next (congrArg State.linesGo ?_)
    unfold State.awaitedTimeout
    simp only [ha, hle, if_true]

end Sys2Proof.Machine

namespace Sys2Proof.Machine

/-! ### PUBLISH and PUBLISH_QUERY -/

theorem State.serveOp_publish {u : State} {r : Req} {noise : List (Nat × Nat)} {t : Nat} (h : r.op = 0x11 ∨ r.op = 0x12) :
    u.serveOp r noise t = u.servePublish r := by
  unfold State.serveOp
  rcases h with h | h <;> simp only [h, Nat.reduceEqDiff, if_false, if_true, or_true, true_or]

/-- The bodies of PUBLISH. -/
theorem publish_fields {region staging base : Nat} (hr : region < 4096) (hs : staging < 16384) (hb : base < 2 ^ 64) :
    leAt (toLE 2 region ++ toLE 2 staging ++ toLE 4 0 ++ toLE 8 base) 0 2 = region ∧
    leAt (toLE 2 region ++ toLE 2 staging ++ toLE 4 0 ++ toLE 8 base) 2 2 = staging ∧
    leAt (toLE 2 region ++ toLE 2 staging ++ toLE 4 0 ++ toLE 8 base) 8 8 = base := by
  have hskip : ∀ (k m v i : Nat) (c : List Byte), m ≤ i → leAt (toLE m v ++ c) i k = leAt c (i - m) k :=
    fun k m v i c hi => leAt_skip _ _ _ _ _ (length_toLE ..) hi
  simp only [List.append_assoc]
  refine ⟨?_, ?_, ?_⟩
  · rw [leAt_head]
    omega
  · rw [hskip _ _ _ _ _ (by decide), leAt_head]
    omega
  · rw [hskip _ _ _ _ _ (by decide), hskip _ _ _ _ _ (by decide), hskip _ _ _ _ _ (by decide), leAt_last]
    omega

theorem State.began_now (s : State) (port op : Nat) (h : Hdr) (b : List Byte) (n t : Nat) : (s.began port op h b n t).fl.now = t := by
  obtain ⟨_, _, _, _, _, he⟩ := s.began_talked port op h b n t
  rw [he]
  rfl

section
variable {u : State} {r : Req} {region staging base p : Nat} (hop : r.op = 0x11) (h0 : leAt r.body 0 2 = region)
  (h2 : leAt r.body 2 2 = staging) (h8 : leAt r.body 8 8 = base) (hp : p = handlePart r.h.handle) (hlive : u.handleLive r.h.handle = true)
  (hbusy : u.regionBusy p region = false) (hg : u.fl.inGuard = false) (ht : u.fl.now + 2000 ≤ u.guardAt)
  (hv : u.regionValid p region = true) (hs : staging < 16384) (he : eValid (u.entry p staging) = true) (hk : eKind (u.entry p staging) = 3)
  (hview : u.isView p staging = false) (hheld : eHeld (u.entry p staging) = true) (hholder : eHolder (u.entry p staging) = r.bind)
include hop h0 h2 h8 hp hlive hbusy hg ht hv hs he hk hview hheld hholder

/-- A PUBLISH that passes every check starts its flip if it names the current version (06 R155, R156). -/
theorem State.servePublish_checked : u.servePublish r = if base ≠ u.rd (K.publishVersions p region) then
      (u.count (K.reclaimCounts 5) 1).answer r 0x91 Code.publishConflict
        (publishBody (u.rd (K.publishVersions p region)) 0 (u.winner p region))
    else { u with flips := u.flips ++ [⟨p, region, r⟩] } := by
  subst hp
  have ht' : ¬ u.guardAt < u.fl.now + 2000 := by omega
  have hs' : ¬ 16384 ≤ staging := by omega
  unfold State.servePublish
  simp only [hop, h0, h2, h8, hlive, hbusy, hg, ht', hv, hs', he, hk, hview, hheld, hholder, Nat.reduceEqDiff, Bool.not_true,
    Bool.false_eq_true, if_false, or_self, not_true_eq_false, ne_eq]

end

/-! ### The end of a flip -/

/-- An element that the part's own event changes, past the take's own: it reads its value, and the others past them as before. -/
theorem State.partMade_effect (s : State) (k v : Nat) :
    (∀ j, ek 0x3000 0 0 ≤ j → (s.partMade k v).rd j = if j = k then v else s.rd j) ∧
    ∃ regs take, s.partMade k v = { s with regs := regs, take := take } := by
  have hwr : ∀ (u : State) x, ek 0x3000 0 0 ≤ x → u.takeIdle.rd x = u.rd x := by
    intro u x hx
    obtain ⟨-, -, -, hr, -⟩ := u.takeIdle_spec
    refine hr x ?_
    simp only [ek, List.mem_cons, List.not_mem_nil, or_false] at hx ⊢
    omega
  have hres : ∀ (u : State) st e x, ek 0x3000 0 0 ≤ x → (u.takeResult st e).rd x = u.rd x := by
    intro u st e x hx
    refine State.rd_wrs_other _ x ?_ u
    simp only [ek, List.mem_cons, List.not_mem_nil, or_false, forall_eq_or_imp, forall_eq] at hx ⊢
    omega
  unfold State.partMade
  simp only []
  split
  · exact ⟨fun j _ => State.rd_wr .., _, _, rfl⟩
  · split
    · exact ⟨fun j _ => State.rd_wr .., _, _, rfl⟩
    · refine ⟨fun j hj => ?_, ?_⟩
      · rw [hres _ _ _ _ hj, hwr _ _ hj]
        exact State.rd_wr ..
      · obtain ⟨-, -, -, -, ho⟩ := State.takeIdle_spec ((s.wr k v).setTake { s.take with digestDue := true })
        rw [State.takeResult, ho]
        exact ⟨_, _, rfl⟩

theorem State.flipDone_effect {s : State} {p region staging : Nat} {f : Flip} (hr : region < 4096) (hs : staging < 16384) (hp : p < 64)
    (hf : s.flips.find? (fun f => f.part = p && f.region = region) = some f) (hb : leAt f.req.body 2 2 = staging)
    (hold : s.rd (K.publishViews p region) < 16384) (hne : staging ≠ s.rd (K.publishViews p region)) :
      ∃ v : State, s.flipDone p region =
          ((v.answer f.req 0x91 Code.ok (publishBody (s.rd (K.publishVersions p region) + 1) (s.rd (K.publishViews p region))
            f.req.h.src)).serveRegion p region) ∧
        v.rd (K.publishViews p region) = staging ∧ v.rd (K.publishVersions p region) = s.rd (K.publishVersions p region) + 1 ∧
        v.winner p region = f.req.h.src ∧ v.entry p staging = setFld (s.entry p staging) 12 12 0 ∧
        v.entry p (s.rd (K.publishViews p region)) =
          setFld (setFld (s.entry p (s.rd (K.publishViews p region))) 12 12 1) 11 0 f.req.bind ∧
        (∀ x ∈ v.flips, ¬ (x.part = p ∧ x.region = region)) ∧
        v = { s with flips := v.flips, pubBy := v.pubBy, regs := v.regs, take := v.take } := by
  generalize hview : s.rd (K.publishViews p region) = view at *
  generalize hver : s.rd (K.publishVersions p region) = ver at *
  generalize hes : setFld (s.entry p staging) 12 12 0 = eStg
  generalize heo : setFld (setFld (s.entry p view) 12 12 1) 11 0 f.req.bind = eOld
  obtain ⟨A, hA⟩ : ∃ A, A = State.partMade { s with
    flips := s.flips.filter (fun x => !(x.part = p && x.region = region)),
    pubBy := Tab.set s.pubBy (p * 4096 + region) f.req.h.src } (K.extentMap p staging) eStg := ⟨_, rfl⟩
  obtain ⟨B, hB⟩ : ∃ B, B = A.partMade (K.extentMap p view) eOld := ⟨_, rfl⟩
  obtain ⟨hA1, hA2⟩ := State.partMade_effect { s with
    flips := s.flips.filter (fun x => !(x.part = p && x.region = region)),
    pubBy := Tab.set s.pubBy (p * 4096 + region) f.req.h.src } (K.extentMap p staging) eStg
  obtain ⟨hB1, hB2⟩ := A.partMade_effect (K.extentMap p view) eOld
  rw [← hA] at hA1 hA2
  rw [← hB] at hB1 hB2
  have hdone : s.flipDone p region = ((((B.wrs [(K.publishViews p region, staging), (K.publishVersions p region, ver + 1)]).count
      (K.reclaimCounts 4) 1).answer f.req 0x91 Code.ok (publishBody (ver + 1) view f.req.h.src)).serveRegion p region) := by
    unfold State.flipDone
    simp only [hf, hb, hview, hver, hes, heo, ← hA, ← hB]
  have hkey : ∀ i, i < 16384 → K.extentMap p i ≠ K.reclaimCounts 4 ∧ K.extentMap p i ≠ K.publishVersions p region ∧
      K.extentMap p i ≠ K.publishViews p region ∧ ek 0x3000 0 0 ≤ K.extentMap p i := by
    intro i hi
    simp only [ek, ne_eq]
    omega
  have hpub : K.publishViews p region ≠ K.reclaimCounts 4 ∧ K.publishVersions p region ≠ K.reclaimCounts 4 ∧
      K.publishViews p region ≠ K.publishVersions p region := by
    simp only [ek, ne_eq]
    omega
  have hkeys : K.extentMap p staging ≠ K.extentMap p view := by
    simp only [ek, ne_eq]
    omega
  have hrd : ∀ i, i < 16384 → ((B.wrs [(K.publishViews p region, staging), (K.publishVersions p region, ver + 1)]).count
      (K.reclaimCounts 4) 1).rd (K.extentMap p i) = B.rd (K.extentMap p i) := by
    intro i hi
    obtain ⟨h1, h2, h3, -⟩ := hkey i hi
    exact (State.rd_wr_other _ _ _ _ h1).trans ((State.rd_wr_other _ _ _ _ h2).trans (State.rd_wr_other _ _ _ _ h3))
  refine ⟨_, hdone, ?_, ?_, ?_, ?_, ?_, ?_, ?_⟩
  · exact (State.rd_wr_other _ _ _ _ hpub.1).trans ((State.rd_wr_other _ _ _ _ hpub.2.2).trans (State.rd_wr_same ..))
  · exact (State.rd_wr_other _ _ _ _ hpub.2.1).trans (State.rd_wr_same ..)
  · have hpb : B.pubBy = Tab.set s.pubBy (p * 4096 + region) f.req.h.src := by
      obtain ⟨_, _, hA3⟩ := hA2
      obtain ⟨_, _, hB3⟩ := hB2
      rw [hB3, hA3]
    change Tab.getD B.pubBy _ 0 = _
    rw [hpb, Tab.getD, Tab.find_set_same]
    rfl
  · refine (hrd _ hs).trans ?_
    rw [hB1 _ (hkey _ hs).2.2.2, if_neg hkeys, hA1 _ (hkey _ hs).2.2.2, if_pos rfl]
  · refine (hrd _ hold).trans ?_
    rw [hB1 _ (hkey _ hold).2.2.2, if_pos rfl]
  · have hfl : B.flips = s.flips.filter (fun x => !(x.part = p && x.region = region)) := by
      obtain ⟨_, _, hA3⟩ := hA2
      obtain ⟨_, _, hB3⟩ := hB2
      rw [hB3, hA3]
    intro x hx
    change x ∈ B.flips at hx
    rw [hfl] at hx
    rintro ⟨rfl, rfl⟩
    simpa using (List.mem_filter.1 hx).2
  · obtain ⟨_, _, hA3⟩ := hA2
    obtain ⟨_, _, hB3⟩ := hB2
    rw [hB3, hA3]
    rfl

/-- Settles O29: what a PUBLISH finds is checked in order, and the end of a flip writes five elements that differ. -/
theorem publishRegions : Obligations.PublishRegions := by
  intro s port n t region staging base h hr hs hb
  refine ⟨?publish, ?query, ?deferred, ?done⟩
  case publish =>
    intro b u r p H hlive hbusy hg ht hv he hk hview hheld hholder
    obtain ⟨h0, h2, h8⟩ := publish_fields hr hs hb
    have hrecv := State.recv_serveOp (noise := []) H fun hx => by cases hx
    rw [State.serveOp_publish (.inl rfl), State.servePublish_checked (r := r) (p := p) rfl h0 h2 h8 rfl hlive hbusy hg
      (by rw [s.began_now]; exact ht) hv hs he hk hview hheld hholder] at hrecv
    constructor
    · intro hbase
      rw [if_neg (by simpa using hbase)] at hrecv
      exact congrArg Host.Outcome.next hrecv
    · intro hbase
      rw [if_pos hbase] at hrecv
      exact congrArg Host.Outcome.next hrecv
  case query =>
    intro b u p H hlive hbusy hv
    have h0 : leAt b 0 2 = region := by
      refine (leAt_head ..).trans ?_
      omega
    have hrecv := State.recv_serveOp (noise := []) H fun hx => by cases hx
    rw [State.serveOp_publish (.inr rfl)] at hrecv
    refine congrArg Host.Outcome.next (hrecv.trans ?_)
    have e1 : (s.accepted port 0x12 h b n t).1.op = 0x12 := rfl
    have e2 : (s.accepted port 0x12 h b n t).1.h = h := rfl
    have e3 : leAt (s.accepted port 0x12 h b n t).1.body 0 2 = region := h0
    unfold State.servePublish
    simp only [e1, e2, e3, Nat.reduceEqDiff, if_false, if_true]
    rw [if_neg (by rw [show (s.began port 0x12 h b n t).handleLive h.handle = true from hlive]; decide),
      if_neg (by rw [show (s.began port 0x12 h b n t).regionBusy (handlePart h.handle) region = false from hbusy]; decide),
      if_pos hv]
  case deferred =>
    intro p hg ht hf
    have hany : (s.at t).flips.any (fun f => f.part = p && f.region = region) = false := by
      rw [List.any_eq_false]
      intro f hm
      simpa using hf f hm
    refine congrArg Host.Outcome.next (if_neg ?_)
    rw [hany, State.guardAt_at]
    rintro (h | h | h)
    · exact absurd (hg.symm.trans h) (by decide)
    · omega
    · cases h
  case done =>
    intro p f hp hf hbody hold hne
    obtain ⟨v, hv, hrest⟩ := State.flipDone_effect hr hs hp hf hbody hold hne
    exact ⟨v, congrArg Host.Outcome.next hv, hrest⟩

end Sys2Proof.Machine


/-! The SMBus target and the TAP (23 R489, 18 R411). -/

namespace Sys2Proof.Machine

/-- What a transaction with the part's own address at a listed code does: the code and the block read are kept, and a checked
write of four bytes to RESET_CAUSE or COOLANT_REPORT takes effect. -/
theorem execSmbus_listed {s : State} {code : Nat} {wr pec : Bool} {data b : List Byte} {t : Nat} (hp : s.boot.powered = true)
    (hb : s.smbRead code = some b) :
    execSmbusTransaction s.smbAddress code wr data pec t s = .next (
      let u := (s.at t).updBoot (fun x => { x with smb := some (if wr then [] else b), smbCode := code })
      if !wr || !pec || data.length ≠ 4 then u
      else if code = 1 then u.causeWrite (ofLE data)
      else if code = 6 then u.coolantWrite (ofLE data)
      else u) := by
  have hb' : (s.at t).smbRead code = some b := hb
  simp only [execSmbusTransaction, hp, Bool.not_true, Bool.false_eq_true, ne_eq, not_true_eq_false, or_self, if_false, hb']

/-- Settles O60: each transaction is a read or a checked write of one code; each TAP instruction acts as its debug policy lets it. -/
theorem smbusAndTap : Obligations.SmbusAndTap := by
  unfold Obligations.SmbusAndTap
  intro s data t hp
  refine ⟨fun code b pec hb => execSmbus_listed hp hb, fun hd => ⟨?cause, ?coolant, ?badPec⟩, ?other, fun hh => ?tap⟩
  case cause =>
    refine ⟨_, (execSmbus_listed hp (code := 1) rfl).trans (by simp only [hd]; rfl), ?_, ?_, rfl⟩
    · exact State.rd_wr_same ..
    · exact fun k hk => State.rd_wr_other _ _ _ _ (by simpa using hk)
  case coolant =>
    refine ⟨_, (execSmbus_listed hp (code := 6) rfl).trans (by simp only [hd]; rfl), ?_, rfl, ?_, rfl⟩
    · exact State.rd_wr_same ..
    · exact fun k hk => State.rd_wr_other _ _ _ _ (by simpa using hk)
  case badPec => exact execSmbus_listed hp (code := 1) rfl
  case other =>
    intro addr code wr pec ha
    exact congrArg Host.Outcome.next (if_pos (.inr ha))
  case tap =>
    have hon : ¬ (s.boot.held = true ∨ (!s.boot.powered) = true) := by simp [hh, hp]
    have run (op : Nat) : exec (.tapInstruction op) s = execTapInstruction op s := rfl
    refine ⟨?_, fun hc => ⟨?_, ?_⟩, fun hc => ?_⟩ <;> simp only [run, execTapInstruction, if_neg hon]
    · rfl
    · simp only [hc]; rfl
    · simp only [hc]; rfl
    · simp only [hc]; rfl

end Sys2Proof.Machine


/-! The splice procedure (03 R85): where a receiver asks for precoding. -/

namespace Sys2Proof.Machine

/-- A splice that both ends have agreed on. -/
def agreedSplice : Splice := ⟨1, 0, 0, 0, 1, true, false, true, 0, none, 3⟩

/-- Port 0 in TS1 of that splice, asking for no precoding. -/
def inTs1 : State := { regs := [(K.portState 0, 4)], links := [(0, { splice := some agreedSplice, ts := 1 })] }

/-- The far end's training word of TS1 for that splice. -/
def ts1Word : Nat := trainingWord 0 1 0 1 1 0

/-- In TS1 the words make a receiver that needs precoding ask for it from TS2 on. -/
theorem trained_inTs1 : ((inTs1.trained 0 [ts1Word] true).link 0).askPrecode = true ∧
    ((inTs1.trained 0 [ts1Word] true).port 0).linkNo = (inTs1.port 0).linkNo := by decide +kernel

/-- Refutes O20: training words taken in TS1 with `ask` set leave this end asking for precoding from TS2 on (03 R62), and the
statement has them leave its asking as it was. -/
theorem not_spliceProcedure : ¬ Obligations.SpliceProcedure := by
  unfold Obligations.SpliceProcedure
  intro h
  obtain ⟨_, htrain, _⟩ := h inTs1 0 0 [] (by decide)
  obtain ⟨u, hu, hex⟩ := htrain agreedSplice [ts1Word] true (by decide) rfl rfl (by decide +kernel) (by decide) (by decide +kernel)
    (by decide +kernel) (by decide) inTs1 (.inl ⟨by decide +kernel, rfl⟩)
  obtain ⟨hask, hno⟩ := trained_inTs1
  have hrun : exec (.trainingStateAdvance 0 [ts1Word] true) inTs1 = .next (inTs1.trained 0 [ts1Word] true) :=
    congrArg Host.Outcome.next (if_pos hno)
  have heq := Host.Outcome.next.inj (hrun.symm.trans hex)
  rw [if_neg (by decide +kernel), hu] at heq
  rw [heq] at hask
  exact absurd hask (by decide +kernel)

end Sys2Proof.Machine


/-! Cold resets (22 R465 to R471). -/

namespace Sys2Proof.Machine

theorem Tab.find_filter {α : Type} (f : Nat → Bool) (t : Tab α) (k : Nat) :
    Tab.find (t.filter (fun e => f e.1)) k = if f k then Tab.find t k else none := by
  induction t with
  | nil => simp [Tab.find]
  | cons x t ih =>
    obtain ⟨a, y⟩ := x
    by_cases hk : a = k
    · subst hk
      by_cases hf : f a = true <;> simp [hf, Tab.find, ih]
    · by_cases hf : f a = true <;> simp [hf, Tab.find, ih, hk]

/-- An element in the VAUX domain that a cold reset leaves (R468). -/
def vauxKept (k : Nat) : Bool := k / 16777216 = 0x180001 || k / 16777216 = 0x180002 || k / 16777216 = 0x180003

theorem vauxKept_iff {k : Nat} :
    vauxKept k = true ↔ k / 2 ^ 24 = 0x180001 ∨ k / 2 ^ 24 = 0x180002 ∨ k / 2 ^ 24 = 0x180003 := by
  simp [vauxKept, or_assoc]

/-- A state whose registers alone outlast a cold reset, as far as they are kept. -/
def State.afterCold (s : State) : State := { s.cleared with regs := s.regs.filter (fun e => vauxKept e.1) }

theorem State.rd_afterCold (s : State) (k : Nat) : s.afterCold.rd k = if vauxKept k then s.rd k else regDefault s.fuses k := by
  unfold State.rd State.afterCold
  simp only [Tab.find_filter]
  by_cases hk : vauxKept k = true
  · simp [hk, State.cleared]
  · simp [hk, State.cleared]

theorem State.rd_afterCold_kept (s : State) {k : Nat} (hk : vauxKept k = true) : s.afterCold.rd k = s.rd k := by
  rw [s.rd_afterCold, if_pos hk]

theorem State.rd_afterCold_default (s : State) {k : Nat} (h1 : k / 2 ^ 24 ≠ 0x180001) (h2 : k / 2 ^ 24 ≠ 0x180002)
    (h3 : k / 2 ^ 24 ≠ 0x180003) : s.afterCold.rd k = regDefault s.fuses k := by
  rw [s.rd_afterCold, if_neg]
  intro h
  rcases vauxKept_iff.mp h with h | h | h
  · exact h1 h
  · exact h2 h
  · exact h3 h

theorem State.coldReset_powered {s : State} (hp : s.boot.powered = true) (b : Nat) :
    s.coldReset (some b) = (s.cause b).afterCold := by simp [State.coldReset, hp]; rfl

theorem State.coldReset_none {s : State} (hp : s.boot.powered = true) : s.coldReset none = s.afterCold := by
  simp [State.coldReset, hp]; rfl

theorem vauxKept_resetCounts : ∀ i, i < 11 → vauxKept (K.resetCounts i) = true ∧ K.resetCounts i ≠ K.resetCause ∧
    keyBytes (K.resetCounts i) = 4 := by decide

/-- What the source of bit `b` leaves of a powered part: its bit and its count. -/
theorem State.coldReset_effect {s : State} {b : Nat} (hb : b < 11) (hp : s.boot.powered = true) :
    ∃ w : State, s.coldReset (some b) = w ∧ w.rd K.resetCause = s.rd K.resetCause ||| 2 ^ b ∧
      (s.rd (K.resetCounts b) + 1 < 2 ^ 32 → w.rd (K.resetCounts b) = s.rd (K.resetCounts b) + 1) ∧
      (∀ i, i < 11 → i ≠ b → w.rd (K.resetCounts i) = s.rd (K.resetCounts i)) ∧ w.rd K.lastResetFrame = s.rd K.lastResetFrame ∧
      (∀ k, k / 2 ^ 24 ≠ 0x180001 → k / 2 ^ 24 ≠ 0x180002 → k / 2 ^ 24 ≠ 0x180003 → w.rd k = regDefault s.fuses k) ∧
      w = { ({} : State) with pending := s.pending, fuses := s.fuses, regs := w.regs, keysDrawn := s.keysDrawn, free := s.free } := by
  obtain ⟨hkept, hne, hbytes⟩ := vauxKept_resetCounts b hb
  refine ⟨_, State.coldReset_powered hp b, ?_, fun hc => ?_, fun i hi hib => ?_, ?_, fun k h1 h2 h3 => ?_, rfl⟩
  · rw [State.rd_afterCold_kept _ (by decide), State.cause, State.rd_count_other _ _ _ _ (Ne.symm hne), State.rd_wr_same]
  · have hrd : (s.wr K.resetCause (s.rd K.resetCause ||| 2 ^ b)).rd (K.resetCounts b) = s.rd (K.resetCounts b) :=
      State.rd_wr_other _ _ _ _ hne
    rw [State.rd_afterCold_kept _ hkept, State.cause, State.rd_count _ _ _ (by rw [hbytes, hrd]; omega), hrd]
  · obtain ⟨hkept', hne', _⟩ := vauxKept_resetCounts i hi
    rw [State.rd_afterCold_kept _ hkept', State.cause, State.rd_count_other _ _ _ _ (by simp only [ek, ne_eq]; omega),
      State.rd_wr_other _ _ _ _ hne']
  · rw [State.rd_afterCold_kept _ (by decide), State.cause, State.rd_count_other _ _ _ _ (by simp only [ek, ne_eq]; omega),
      State.rd_wr_other _ _ _ _ (by decide)]
  · exact State.rd_afterCold_default _ h1 h2 h3

/-- Settles O54: what is left is filtered out of the live elements, after the source's bit and count. -/
theorem coldResets : Obligations.ColdResets := by
  unfold Obligations.ColdResets
  intro s hp
  refine ⟨?source, ⟨_, congrArg Host.Outcome.next (State.coldReset_none hp), ?kept, ?default, rfl⟩, ?pulse, rfl, rfl⟩
  case source =>
    intro c b hc
    have hb : b < 11 ∧ exec c s = .next (s.coldReset (some b)) := by
      rcases hc with ⟨rfl, rfl⟩ | ⟨ns, seen, rfl, hns, rfl⟩ | ⟨rfl, rfl⟩
      · exact ⟨by decide, rfl⟩
      · exact ⟨by decide, congrArg Host.Outcome.next (if_pos (.inl hns))⟩
      · exact ⟨by decide, rfl⟩
    obtain ⟨w, hw, hrest⟩ := State.coldReset_effect hb.1 hp
    exact ⟨w, hb.2.trans (congrArg Host.Outcome.next hw), hrest⟩
  case kept => exact fun k hk => s.rd_afterCold_kept (vauxKept_iff.mpr hk)
  case default => exact fun k h1 h2 h3 => s.rd_afterCold_default h1 h2 h3
  case pulse =>
    intro ns hns seen
    exact congrArg Host.Outcome.next (if_neg (by omega))

end Sys2Proof.Machine


/-! What the link layer's operations do to their port (03 R66 to R89), and what they leave. -/

namespace Sys2Proof.Machine

/-! ### Bit fields -/

theorem fld_setFld_same (v hi lo x : Nat) : fld (setFld v hi lo x) hi lo = x % 2 ^ (hi + 1 - lo) := by
  have hpos : 0 < 2 ^ lo := Nat.two_pow_pos lo
  have hsplit : v - fld v hi lo * 2 ^ lo = (v / 2 ^ lo - fld v hi lo) * 2 ^ lo + v % 2 ^ lo := by
    have := Nat.div_add_mod v (2 ^ lo)
    have hle : fld v hi lo ≤ v / 2 ^ lo := Nat.mod_le _ _
    rw [Nat.sub_mul]
    have := Nat.mul_le_mul_right (2 ^ lo) hle
    have := Nat.mul_comm (v / 2 ^ lo) (2 ^ lo)
    omega
  have hdiv : setFld v hi lo x / 2 ^ lo = v / 2 ^ lo - fld v hi lo + x % 2 ^ (hi + 1 - lo) := by
    rw [setFld, hsplit, Nat.add_right_comm, ← Nat.add_mul, Nat.add_comm, Nat.add_mul_div_right _ _ hpos,
      Nat.div_eq_of_lt (Nat.mod_lt _ hpos), Nat.zero_add]
  have hdvd : (v / 2 ^ lo - fld v hi lo) % 2 ^ (hi + 1 - lo) = 0 := Nat.sub_mod_eq_zero_of_mod_eq (Nat.mod_mod _ _).symm
  rw [fld, hdiv, Nat.add_mod, hdvd, Nat.zero_add, Nat.mod_mod, Nat.mod_mod]

theorem cellHdr_lt_fields (seq ack ctype pvc cvc credit kph plen : Nat) (av : Bool) :
    cSeq (cellHdr seq ack ctype pvc cvc credit kph av plen) = seq % 4096 ∧
    cType (cellHdr seq ack ctype pvc cvc credit kph av plen) = ctype % 16 ∧
    cPvc (cellHdr seq ack ctype pvc cvc credit kph av plen) = pvc % 4 := by
  have hav : b2n av ≤ 1 := by cases av <;> decide
  simp only [cSeq, cType, cPvc, fld, cellHdr, Nat.reducePow, Nat.reduceAdd, Nat.reduceSub]
  refine ⟨?_, ?_, ?_⟩ <;> omega

/-! ### Links, ports and live elements apart -/

@[simp] theorem State.link_wr (s : State) (k v p : Nat) : (s.wr k v).link p = s.link p := rfl
@[simp] theorem State.link_count (s : State) (k n p : Nat) : (s.count k n).link p = s.link p := rfl
@[simp] theorem State.link_updPort (s : State) (q : Nat) (f : Port → Port) (p : Nat) : (s.updPort q f).link p = s.link p := rfl
@[simp] theorem State.link_setPort (s : State) (q : Nat) (x : Port) (p : Nat) : (s.setPort q x).link p = s.link p := rfl
@[simp] theorem State.link_at (s : State) (t p : Nat) : (s.at t).link p = s.link p := rfl
@[simp] theorem State.link_updLink (s : State) (p : Nat) (f : Link → Link) : (s.updLink p f).link p = f (s.link p) := State.link_setLink ..
theorem State.link_updLink_other (s : State) (p : Nat) (f : Link → Link) {q : Nat} (h : q ≠ p) : (s.updLink p f).link q = s.link q :=
  State.link_setLink_other _ _ _ _ h
@[simp] theorem State.port_setLink (s : State) (p : Nat) (v : Link) (q : Nat) : (s.setLink p v).port q = s.port q := rfl
@[simp] theorem State.port_updLink (s : State) (p : Nat) (f : Link → Link) (q : Nat) : (s.updLink p f).port q = s.port q := rfl
@[simp] theorem State.port_at (s : State) (t p : Nat) : (s.at t).port p = s.port p := rfl
@[simp] theorem State.rd_setLink (s : State) (p : Nat) (v : Link) (k : Nat) : (s.setLink p v).rd k = s.rd k := rfl
@[simp] theorem State.rd_updLink (s : State) (p : Nat) (f : Link → Link) (k : Nat) : (s.updLink p f).rd k = s.rd k := rfl
@[simp] theorem State.rd_setPort (s : State) (p : Nat) (v : Port) (k : Nat) : (s.setPort p v).rd k = s.rd k := rfl
@[simp] theorem State.rd_updPort (s : State) (p : Nat) (f : Port → Port) (k : Nat) : (s.updPort p f).rd k = s.rd k := rfl

theorem State.setLink_setLink (s : State) (p : Nat) (a b : Link) : (s.setLink p a).setLink p b = s.setLink p b := by
  simp [State.setLink]

theorem State.updLink_setLink (s : State) (p : Nat) (a : Link) (f : Link → Link) : (s.setLink p a).updLink p f = s.setLink p (f a) := by
  rw [State.updLink, State.link_setLink, State.setLink_setLink]

/-- `w` differs from `s` in the link and the port of `p`, and in the live elements of `ks`, at most. -/
structure State.AtPort (s w : State) (p : Nat) (ks : List Nat) : Prop where
  only : ∃ links ports regs, w = { s with links := links, ports := ports, regs := regs }
  others : ∀ q, q ≠ p → w.link q = s.link q ∧ w.port q = s.port q
  regs : s.RegsBut w ks

namespace State.AtPort

variable {s w v : State} {p : Nat} {ks : List Nat}

theorem refl (s : State) (p : Nat) (ks : List Nat) : s.AtPort s p ks := ⟨⟨_, _, _, rfl⟩, fun _ _ => ⟨rfl, rfl⟩, State.RegsBut.refl _ _⟩

theorem trans (h : s.AtPort w p ks) (g : w.AtPort v p ks) : s.AtPort v p ks := by
  obtain ⟨⟨_, _, _, hw⟩, ho, hr⟩ := h
  obtain ⟨⟨_, _, _, gw⟩, go, gr⟩ := g
  refine ⟨⟨_, _, _, by rw [gw, hw]⟩, fun q hq => ⟨(go q hq).1.trans (ho q hq).1, (go q hq).2.trans (ho q hq).2⟩, hr.trans gr⟩

theorem mono {ls : List Nat} (h : s.AtPort w p ks) (hs : ks ⊆ ls) : s.AtPort w p ls := ⟨h.only, h.others, h.regs.mono hs⟩

theorem setLink (h : s.AtPort w p ks) (x : Link) : s.AtPort (w.setLink p x) p ks :=
  h.trans ⟨⟨_, _, _, rfl⟩, fun _ hq => ⟨State.link_setLink_other _ _ _ _ hq, rfl⟩, fun _ _ => rfl⟩

theorem updLink (h : s.AtPort w p ks) (f : Link → Link) : s.AtPort (w.updLink p f) p ks := h.setLink _

theorem setPort (h : s.AtPort w p ks) (x : Port) : s.AtPort (w.setPort p x) p ks :=
  h.trans ⟨⟨_, _, _, rfl⟩, fun _ hq => ⟨rfl, State.port_setPort_other _ _ _ _ hq⟩, fun _ _ => rfl⟩

theorem updPort (h : s.AtPort w p ks) (f : Port → Port) : s.AtPort (w.updPort p f) p ks := h.setPort _

theorem wr (h : s.AtPort w p ks) {k : Nat} (v : Nat) (hk : k ∈ ks) : s.AtPort (w.wr k v) p ks :=
  h.trans ⟨⟨_, _, _, rfl⟩, fun _ _ => ⟨rfl, rfl⟩, (State.RegsBut.refl _ _).wr hk⟩

theorem count (h : s.AtPort w p ks) {k : Nat} (n : Nat) (hk : k ∈ ks) : s.AtPort (w.count k n) p ks := h.wr _ hk

/-- Where nothing but live elements moved, links and ports are as they were. -/
theorem eq (h : s.AtPort w p ks) : w = { s with links := w.links, ports := w.ports, regs := w.regs } := by
  obtain ⟨⟨_, _, _, hw⟩, _, _⟩ := h
  rw [hw]

end State.AtPort

/-! ### Credit shown -/

/-- The elements that show the credit of port `p`. -/
def creditShown (p : Nat) : List Nat := (List.range 8).map (K.creditState p)

theorem mem_creditShown {p i : Nat} (h : i < 8) : K.creditState p i ∈ creditShown p := List.mem_map_of_mem (List.mem_range.mpr h)

theorem not_mem_creditShown {p k : Nat} (h : k / 2 ^ 24 ≠ (0x2400 + p) * 256 + 0x17) : k ∉ creditShown p := by
  intro hk
  obtain ⟨i, hi, rfl⟩ := List.mem_map.mp hk
  have hi := List.mem_range.mp hi
  simp only [ek] at h
  omega

/-- Showing the credit writes live elements alone. -/
theorem State.showCredit_regs (s : State) (p : Nat) : (∃ regs, s.showCredit p = { s with regs := regs }) ∧
    s.RegsBut (s.showCredit p) (creditShown p) := by
  unfold State.showCredit
  generalize s.link p = k
  have step (l : List Nat) (hl : ∀ v ∈ l, v < 4) : ∀ w : State, (∃ regs, w = { s with regs := regs }) ∧ s.RegsBut w (creditShown p) →
      (∃ regs, l.foldl (fun s v => s.wrs [(K.creditState p v, creditLeft (nth k.txL v) (nth k.txS v)),
        (K.creditState p (4 + v), (k.buffer.filter (fun c => cType c.hdr = 1 ∧ cPvc c.hdr = v)).length)]) w = { s with regs := regs }) ∧
      s.RegsBut (l.foldl (fun s v => s.wrs [(K.creditState p v, creditLeft (nth k.txL v) (nth k.txS v)),
        (K.creditState p (4 + v), (k.buffer.filter (fun c => cType c.hdr = 1 ∧ cPvc c.hdr = v)).length)]) w) (creditShown p) := by
    induction l with
    | nil => exact fun w h => h
    | cons v l ih =>
      rintro _ ⟨⟨_, rfl⟩, hr⟩
      have hv := hl v List.mem_cons_self
      refine ih (fun x hx => hl x (List.mem_cons_of_mem _ hx)) _
        ⟨⟨_, rfl⟩, (hr.wr (mem_creditShown (by omega))).wr (mem_creditShown (by omega))⟩
  exact step _ (fun v hv => List.mem_range.mp hv) s ⟨⟨_, rfl⟩, State.RegsBut.refl _ _⟩

theorem State.showCredit_atPort (s : State) (p : Nat) : s.AtPort (s.showCredit p) p (creditShown p) := by
  obtain ⟨⟨_, h⟩, hr⟩ := s.showCredit_regs p
  refine ⟨⟨_, _, _, h⟩, fun q _ => ?_, hr⟩
  rw [h]
  exact ⟨rfl, rfl⟩

@[simp] theorem State.link_showCredit (s : State) (p q : Nat) : (s.showCredit p).link q = s.link q := by
  obtain ⟨⟨_, h⟩, _⟩ := s.showCredit_regs p
  rw [h]
  rfl

@[simp] theorem State.port_showCredit (s : State) (p q : Nat) : (s.showCredit p).port q = s.port q := by
  obtain ⟨⟨_, h⟩, _⟩ := s.showCredit_regs p
  rw [h]
  rfl

/-! ### Training words sent -/

@[simp] theorem State.link_showTrain (s : State) (p : Nat) : (s.showTrain p).link p = { s.link p with train := (s.link p).trainWords } :=
  State.link_updLink ..
@[simp] theorem State.port_showTrain (s : State) (p q : Nat) : (s.showTrain p).port q = s.port q := rfl
@[simp] theorem State.rd_showTrain (s : State) (p k : Nat) : (s.showTrain p).rd k = s.rd k := rfl

/-! ### Cells sent -/

/-- The link-control cell that a link sends next (R67, R69, R70). -/
def Link.ctlCell (k : Link) (ctype : Nat) (body : List Byte) : Cell :=
  ⟨cellHdr k.sent k.ackField.1 ctype 0 k.credit.1.1 k.credit.1.2 k.txPhase k.ackField.2 0, padTo 232 (toLE 8 (2 ^ 63 + k.ctlSent) ++ body),
    2 ^ 63 + k.ctlSent, k.txPhase⟩

/-- The link after sending it. -/
def Link.sentCtl (k : Link) (ctype : Nat) (body : List Byte) : Link :=
  { k.credit.2 with ctlSent := k.ctlSent + 1, txCells := k.txCells + 1, wire := k.wire ++ [k.ctlCell ctype body] }

theorem Link.ctlCell_cType (k : Link) {ctype : Nat} (h : ctype < 16) (body : List Byte) : cType (k.ctlCell ctype body).hdr = ctype :=
  (cellHdr_lt_fields ..).2.1.trans (Nat.mod_eq_of_lt h)

theorem State.keySpent_iff (s : State) (p : Nat) : s.keySpent p = true ↔ s.rd (K.rekeyCells p) ≤ (s.link p).txCells := decide_eq_true_iff

theorem State.sendCtl_spent {s : State} {p : Nat} (h : s.keySpent p = true) (ctype : Nat) (body : List Byte) :
    s.sendCtl p ctype body = s := if_pos h

theorem State.sendCtl_eq {s : State} {p ctype : Nat} (h : s.keySpent p = false) (hc : ctype ≠ 0) (body : List Byte) :
    s.sendCtl p ctype body = (s.reserveOut p false).setLink p ((s.link p).sentCtl ctype body) := by
  unfold State.sendCtl
  simp only [h, hc, Bool.false_eq_true, if_false]
  rfl

theorem Link.credit_rest (k : Link) : ∃ cvc refresh carried rxOwed, k.credit.2 =
    { k with cvc := cvc, refresh := refresh, carried := carried, rxOwed := rxOwed } := by
  unfold Link.credit
  by_cases hm : k.mode = 1
  · simp only [hm, if_true]; exact ⟨_, _, _, _, rfl⟩
  · simp only [hm, if_false]; exact ⟨_, _, _, _, rfl⟩

/-- A link-control cell leaves a link's splice, session and training as they are. -/
theorem Link.sentCtl_rest (k : Link) (ctype : Nat) (body : List Byte) : ∃ cvc refresh carried rxOwed, k.sentCtl ctype body =
    { k with cvc := cvc, refresh := refresh, carried := carried, rxOwed := rxOwed, ctlSent := k.ctlSent + 1, txCells := k.txCells + 1,
             wire := k.wire ++ [k.ctlCell ctype body] } := by
  obtain ⟨cvc, refresh, carried, rxOwed, h⟩ := k.credit_rest
  exact ⟨cvc, refresh, carried, rxOwed, by rw [Link.sentCtl, h]⟩

theorem State.reserveOut_atPort (s : State) (p : Nat) (replay : Bool) (ks : List Nat) : s.AtPort (s.reserveOut p replay) p ks :=
  (State.AtPort.refl ..).updPort _

theorem State.sendCtl_atPort (s : State) (p : Nat) {ctype : Nat} (hc : ctype ≠ 0) (body : List Byte) (ks : List Nat) :
    s.AtPort (s.sendCtl p ctype body) p ks := by
  by_cases h : s.keySpent p = true
  · rw [State.sendCtl_spent h]
    exact .refl ..
  · rw [State.sendCtl_eq (by simpa using h) hc]
    exact (s.reserveOut_atPort ..).setLink _

/-- Link-control cells move no live element. -/
theorem State.sendCtl_regs (s : State) (p : Nat) {ctype : Nat} (hc : ctype ≠ 0) (body : List Byte) : 
    s.sendCtl p ctype body = { s with links := (s.sendCtl p ctype body).links, ports := (s.sendCtl p ctype body).ports } := by
  by_cases h : s.keySpent p = true
  · rw [State.sendCtl_spent h]
  · rw [State.sendCtl_eq (by simpa using h) hc]
    rfl

end Sys2Proof.Machine


/-! SPLICE_CMD (03 R85, R90). -/

namespace Sys2Proof.Machine

/-! ### A splice of this end's own (R85 step 1) -/

/-- The splice that this end asks for. -/
def State.ownSplice (s : State) (p kind width speed mask : Nat) : Splice :=
  let m := mask &&& s.goodLanes p
  ⟨((s.link p).spliceNo + 1) % 65536, kind, min (min width (s.rd (K.maxWidth p))) (widthFor (laneCount m)), min speed (s.rd (K.maxSpeed p)), m,
    true, false, false, 0, none, s.rd (K.portState p)⟩

/-- The link that asks for it, before its SPLICE_REQ. -/
def State.asking (s : State) (p kind width speed mask : Nat) : Link :=
  { s.link p with
    splice := some (s.ownSplice p kind width speed mask), spliceNo := ((s.link p).spliceNo + 1) % 65536, due := none }

section
variable {s : State} {p kind width speed mask : Nat}

theorem State.beginSplice_up (hst : s.rd (K.portState p) = 2 ∨ s.rd (K.portState p) = 3) (hn : (s.link p).splice = none) :
    s.beginSplice p kind width speed mask = (true, (s.setLink p (s.asking p kind width speed mask)).sendCtl p 5
      (spliceBody (s.rd (K.linkId p)) (s.ownSplice p kind width speed mask))) := by
  unfold State.beginSplice
  simp only [hn, Option.isSome_none, Bool.false_eq_true, or_false]
  rw [if_neg (by omega)]
  rfl

theorem State.beginSplice_busy (hn : (s.link p).splice.isSome = true) : s.beginSplice p kind width speed mask = (false, s) := by
  unfold State.beginSplice
  simp only [hn, or_true, if_true]

/-- What asking for a splice does to the port: the splice stands in its link, and SPLICE_REQ goes out unless the key is spent. -/
theorem State.beginSplice_effect (hst : s.rd (K.portState p) = 2 ∨ s.rd (K.portState p) = 3) (hn : (s.link p).splice = none) :
    ∃ w : State, s.beginSplice p kind width speed mask = (true, w) ∧ (w.link p).splice = some (s.ownSplice p kind width speed mask) ∧
      (w.link p).oldestResends = (s.link p).oldestResends ∧ (w.link p).bad = (s.link p).bad ∧ (w.link p).uncorrLast = (s.link p).uncorrLast ∧
      s.AtPort w p [] ∧ w = { s with links := w.links, ports := w.ports } ∧
      ((s.link p).txCells < s.rd (K.rekeyCells p) → ∃ cell, (w.link p).wire = (s.link p).wire ++ [cell] ∧ cType cell.hdr = 5) := by
  refine ⟨_, State.beginSplice_up hst hn, ?_⟩
  have hregs := (s.setLink p (s.asking p kind width speed mask)).sendCtl_regs p (ctype := 5) (by decide)
    (spliceBody (s.rd (K.linkId p)) (s.ownSplice p kind width speed mask))
  have hat := ((State.AtPort.refl s p []).setLink (s.asking p kind width speed mask)).trans
    ((s.setLink p (s.asking p kind width speed mask)).sendCtl_atPort p (ctype := 5) (by decide)
      (spliceBody (s.rd (K.linkId p)) (s.ownSplice p kind width speed mask)) [])
  by_cases hk : (s.setLink p (s.asking p kind width speed mask)).keySpent p = true
  · have hle := (State.keySpent_iff ..).mp hk
    rw [State.link_setLink] at hle
    rw [State.sendCtl_spent hk] at hat ⊢
    rw [State.link_setLink]
    exact ⟨rfl, rfl, rfl, rfl, hat, rfl, fun hlt => absurd hle (Nat.not_le.mpr hlt)⟩
  · rw [State.sendCtl_eq (by simpa using hk) (by decide)] at hat hregs ⊢
    rw [s.link_setLink p (s.asking p kind width speed mask)] at hat hregs ⊢
    rw [State.link_setLink]
    obtain ⟨cvc, refresh, carried, rxOwed, hrest⟩ :=
      (s.asking p kind width speed mask).sentCtl_rest 5 (spliceBody (s.rd (K.linkId p)) (s.ownSplice p kind width speed mask))
    refine ⟨by rw [hrest]; rfl, by rw [hrest]; rfl, by rw [hrest]; rfl, by rw [hrest]; rfl, hat, hregs, fun _ => ⟨_, rfl, ?_⟩⟩
    exact Link.ctlCell_cType _ (by decide) _

end

/-! ### The write -/

theorem oneElem_spliceCmd : ∀ p, p < 36 →
    OneElem (0x2400 + p) 0x12 4 ⟨0x2400, 36, 0x12, 4, 4, 1, 4, false, 0, 0, 0⟩ := by unfold OneElem; decide

theorem spliceCmd_fields {kind width speed mask : Nat} (hk : kind < 4) (hw : width < 4) (hs : speed < 3) :
    let v := mask % 256 * 256 + kind * 64 + speed % 4 * 4 + width % 4
    v < 2 ^ 32 ∧ fld v 31 16 = 0 ∧ fld v 5 4 = 0 ∧ fld v 3 2 ≠ 3 ∧ fld v 7 6 = kind := by
  simp only [fld, Nat.reduceAdd, Nat.reduceSub, Nat.reducePow]
  omega

theorem State.spliceRow_effect {s w : State} {sess seq p kind width speed mask t st : Nat} (hM : Manages s sess seq) (hp : p < 36)
    (hk : kind < 4) (hw : width < 4) (hs : speed < 3)
    (he : (s.heard sess t).spliceCmd p (mask % 256 * 256 + kind * 64 + speed % 4 * 4 + width % 4) = (st, w)) :
    s.spliceRow sess seq p kind width speed mask t = w.wrote sess seq st t := by
  obtain ⟨hv, h16, h4, h2, -⟩ := spliceCmd_fields hk hw hs
  refine State.regWrite_effect hM (oneElem_spliceCmd p hp) hv ?_ rfl ?_
  · simp [reservedIn, h16, h4, h2]
  · simpa [State.writeEffect, famNo] using he

theorem State.spliceCmd_eq (s : State) (p v : Nat) : ∃ width speed mask, s.spliceCmd p v =
    ((if (s.beginSplice p (fld v 7 6) width speed mask).1 then Code.ok else Code.busy),
      (s.beginSplice p (fld v 7 6) width speed mask).2) := by
  unfold State.spliceCmd
  by_cases hk : fld v 7 6 = 1
  · simp only [hk, if_true]
    exact ⟨_, _, _, rfl⟩
  · simp only [hk, if_false]
    exact ⟨_, _, _, rfl⟩

/-- Settles O19: the write begins a splice where the port is up and has none, and begins none where it has one. -/
theorem spliceCommands : Obligations.SpliceCommands := by
  unfold Obligations.SpliceCommands
  intro s sess seq p width speed mask t kind c hM hp hw hs _ hc
  have hrow : kind < 4 ∧ exec c s = .next (s.spliceRow sess seq p kind width speed mask t) := by
    rcases hc with ⟨rfl, rfl⟩ | ⟨rfl, rfl⟩ | ⟨rfl, rfl⟩ | ⟨rfl, rfl⟩ <;> exact ⟨by decide, rfl⟩
  obtain ⟨hk, hex⟩ := hrow
  obtain ⟨-, -, -, -, hkind⟩ := spliceCmd_fields hk hw hs
  obtain ⟨wd, sp, mk, hcmd⟩ := (s.heard sess t).spliceCmd_eq p (mask % 256 * 256 + kind * 64 + speed % 4 * 4 + width % 4)
  rw [hkind] at hcmd
  have hrd (k : Nat) : (s.heard sess t).rd k = s.rd k := State.rd_congr (s.heard_regs ..) (s.heard_fuses ..) k
  have hlink (q : Nat) : (s.heard sess t).link q = s.link q := by rw [State.heard_only]; rfl
  have hport (q : Nat) : (s.heard sess t).port q = s.port q := by rw [State.heard_only]; rfl
  constructor
  · intro hst hn htx
    obtain ⟨w, hw', hsp, -, -, -, hat, hregs, hcell⟩ :=
      (s.heard sess t).beginSplice_effect (p := p) (kind := kind) (width := wd) (speed := sp) (mask := mk)
        (by rw [hrd]; exact hst) (by rw [hlink]; exact hn)
    obtain ⟨cell, hwire, hty⟩ := hcell (by rw [hlink, hrd]; exact htx)
    rw [hw'] at hcmd
    rw [hlink] at hwire
    refine ⟨w, _, cell, hex.trans (congrArg Host.Outcome.next (State.spliceRow_effect hM hp hk hw hs hcmd)), hsp, rfl, rfl, rfl, ?_, ?_, ?_,
      hwire, hty, fun q hq => ?_, hregs⟩
    · simp only [State.ownSplice, hlink]
    · rw [← hrd]
      exact Nat.le_trans (Nat.min_le_left ..) (Nat.min_le_right ..)
    · rw [← hrd]
      exact Nat.min_le_right ..
    · rw [← hlink, ← hport]
      exact hat.others q hq
  · intro hn
    rw [State.beginSplice_busy (by rw [hlink]; exact hn)] at hcmd
    exact hex.trans (congrArg Host.Outcome.next (State.spliceRow_effect hM hp hk hw hs hcmd))

end Sys2Proof.Machine


/-! What a port's transmitter does (03 R72 to R79). -/

namespace Sys2Proof.Machine

/-! ### New sequenced cells -/

/-- The sequenced cell that a link sends next (R67). -/
def Link.seqCell (k : Link) (ctype vc : Nat) (d : List Byte) : Cell :=
  ⟨cellHdr k.sent k.ackField.1 ctype vc k.credit.1.1 k.credit.1.2 k.txPhase k.ackField.2 d.length, padTo 232 d, k.sent, k.txPhase⟩

/-- The link after sending it: it is kept for replay (R75). -/
def Link.sentSeq (k : Link) (ctype vc : Nat) (d : List Byte) : Link :=
  { k.credit.2 with
    sent := k.sent + 1, buffer := k.buffer ++ [k.seqCell ctype vc d], txCells := k.txCells + 1, flipDue := false
    wire := k.wire ++ [k.seqCell ctype vc d], txS := if ctype = 1 then bump32 k.txS vc else k.txS }

theorem State.sendSeq_eq {s : State} {p : Nat} (h : s.keySpent p = false) (ctype vc : Nat) (d : List Byte) :
    s.sendSeq p ctype vc d = (s.setLink p ((s.link p).sentSeq ctype vc d)).showCredit p := by
  unfold State.sendSeq
  simp only [h, Bool.false_eq_true, if_false]
  rfl

/-! ### A cell slot -/

/-- What a slot sends where no cell is to be resent (R72). -/
def State.slotNew (s : State) (p vc : Nat) : State :=
  let b := Tab.getD (s.port p).txBytes vc []
  let k := s.link p
  let room := k.sent - k.acked < 2048
  if s.keySpent p then s
  else if room && !b.isEmpty && creditLeft (nth k.txL vc) (nth k.txS vc) ≠ 0 then
    (s.updPort p (fun q => { q with txBytes := Tab.set q.txBytes vc (b.drop 232) })).sendSeq p 1 vc (b.take 232)
  else if room && k.flipDue && !(List.range 4).any (s.cellWaits p) then s.sendSeq p 2 0 []
  else s.sendCtl p 0 []

/-- A splice in progress has been agreed. -/
def Link.inAgreed (k : Link) : Bool := k.splice.any (fun x => x.agreed)

theorem State.txSlot_eq (s : State) (p vc : Nat) : s.txSlot p vc =
    if s.rd (K.portState p) ≠ 2 ∧ s.rd (K.portState p) ≠ 3 then s
    else if (s.link p).inAgreed then s
    else if (s.link p).replaying then s.resendCell p
    else State.slotNew (if (Tab.getD (s.port p).txBytes vc []).isEmpty then s.serialise p vc else s) p vc := by
  unfold State.txSlot Link.inAgreed
  dsimp only
  cases (s.link p).splice <;> rfl

section
variable {s : State} {p vc : Nat}

theorem Link.inAgreed_false {k : Link} (h : ∀ x, k.splice = some x → x.agreed = false) : k.inAgreed = false := by
  unfold Link.inAgreed
  cases hk : k.splice with
  | none => rfl
  | some x => exact h x hk

/-- A port that is up, with no splice agreed, uses its slot. -/
theorem State.txSlot_up (hst : s.rd (K.portState p) = 2 ∨ s.rd (K.portState p) = 3)
    (ha : ∀ x, (s.link p).splice = some x → x.agreed = false) : s.txSlot p vc =
    if (s.link p).replaying then s.resendCell p
    else State.slotNew (if (Tab.getD (s.port p).txBytes vc []).isEmpty then s.serialise p vc else s) p vc := by
  rw [State.txSlot_eq, if_neg (by omega), Link.inAgreed_false ha, if_neg (by decide)]

theorem State.slotNew_transport (hk : s.keySpent p = false) (hb : Tab.getD (s.port p).txBytes vc [] ≠ [])
    (hroom : (s.link p).sent - (s.link p).acked < 2048) (hc : creditLeft (nth (s.link p).txL vc) (nth (s.link p).txS vc) ≠ 0) :
    s.slotNew p vc = (s.updPort p (fun q => { q with txBytes := Tab.set q.txBytes vc ((Tab.getD (s.port p).txBytes vc []).drop 232) })).sendSeq
      p 1 vc ((Tab.getD (s.port p).txBytes vc []).take 232) := by
  unfold State.slotNew
  simp only [hk, Bool.false_eq_true, if_false]
  rw [if_pos (by simp [hb, hroom, hc])]

theorem State.resendCell_found {c : Cell} (hk : s.keySpent p = false)
    (hc : (s.link p).buffer.find? (fun x => x.count = (s.link p).resend) = some c) :
    s.resendCell p = (s.reserveOut p true).setLink p { s.link p with
      wire := (s.link p).wire ++ [c]
      txCells := (s.link p).txCells + 1
      resend := (s.link p).resend + 1
      oldestResends := if (s.link p).resend = (s.link p).acked then (s.link p).oldestResends + 1 else (s.link p).oldestResends
      replaying := decide ((s.link p).resend + 1 < (s.link p).sent) } := by
  unfold State.resendCell
  simp only [hk, Bool.false_eq_true, if_false, hc]

theorem State.resendCell_spent (hk : s.keySpent p = true) : s.resendCell p = s := if_pos hk

theorem State.serialise_ports (s : State) (p vc : Nat) : ∃ ports, s.serialise p vc = { s with ports := ports } := by
  unfold State.serialise
  dsimp only
  split
  · exact ⟨_, rfl⟩
  · split
    · exact ⟨_, rfl⟩
    · exact ⟨_, rfl⟩

/-- Under a spent key a slot sends nothing. -/
theorem State.txSlot_spent (hk : s.keySpent p = true) : ∃ ports, s.txSlot p vc = { s with ports := ports } := by
  have hnew (w : State) (hw : w.keySpent p = true) : w.slotNew p vc = w := if_pos hw
  rw [State.txSlot_eq, State.resendCell_spent hk]
  obtain ⟨_, hser⟩ := s.serialise_ports p vc
  have hfill : ∃ ports, (if (Tab.getD (s.port p).txBytes vc []).isEmpty then s.serialise p vc else s) = { s with ports := ports } := by
    by_cases hb : (Tab.getD (s.port p).txBytes vc []).isEmpty = true
    · exact ⟨_, (if_pos hb).trans hser⟩
    · exact ⟨_, if_neg hb⟩
  obtain ⟨ports, hfill⟩ := hfill
  rw [hfill, hnew { s with ports := ports } hk]
  by_cases h1 : s.rd (K.portState p) ≠ 2 ∧ s.rd (K.portState p) ≠ 3
  · exact ⟨_, if_pos h1⟩
  rw [if_neg h1]
  by_cases h2 : (s.link p).inAgreed = true
  · exact ⟨_, if_pos h2⟩
  rw [if_neg h2]
  by_cases h3 : (s.link p).replaying = true
  · exact ⟨_, if_pos h3⟩
  · exact ⟨_, if_neg h3⟩

/-- A slot with bytes, credit and room sends them in a TRANSPORT cell. -/
theorem State.txSlot_transport (hv : vc < 4) (hst : s.rd (K.portState p) = 2 ∨ s.rd (K.portState p) = 3)
    (ha : ∀ x, (s.link p).splice = some x → x.agreed = false) (hr : (s.link p).replaying = false) (hk : s.keySpent p = false)
    (hb : Tab.getD (s.port p).txBytes vc [] ≠ []) (hroom : (s.link p).sent - (s.link p).acked < 2048)
    (hc : creditLeft (nth (s.link p).txL vc) (nth (s.link p).txS vc) ≠ 0) :
    ∃ (w : State) (c : Cell), s.txSlot p vc = w ∧
      c.count = (s.link p).sent ∧ cType c.hdr = 1 ∧ cPvc c.hdr = vc ∧ cSeq c.hdr = (s.link p).sent % 4096 ∧
      c.payload = padTo 232 ((Tab.getD (s.port p).txBytes vc []).take 232) ∧
      (w.link p).sent = (s.link p).sent + 1 ∧ (w.link p).buffer = (s.link p).buffer ++ [c] ∧
      (w.link p).txCells = (s.link p).txCells + 1 ∧
      (w.link p).txS = bump32 (s.link p).txS vc ∧ (w.link p).wire = (s.link p).wire ++ [c] ∧
      Tab.getD (w.port p).txBytes vc [] = (Tab.getD (s.port p).txBytes vc []).drop 232 ∧ s.AtPort w p (creditShown p) := by
  rw [State.txSlot_up hst ha, hr, if_neg (by decide), if_neg (by simpa using hb), State.slotNew_transport hk hb hroom hc]
  generalize Tab.getD (s.port p).txBytes vc [] = b
  have hk' : (s.updPort p (fun q => { q with txBytes := Tab.set q.txBytes vc (b.drop 232) })).keySpent p = false := hk
  rw [State.sendSeq_eq hk']
  obtain ⟨hseq, hty, hpvc⟩ := cellHdr_lt_fields (s.link p).sent (s.link p).ackField.1 1 vc (s.link p).credit.1.1 (s.link p).credit.1.2
    (s.link p).txPhase (b.take 232).length (s.link p).ackField.2
  refine ⟨_, (s.link p).seqCell 1 vc (b.take 232), rfl, rfl, hty, hpvc.trans (Nat.mod_eq_of_lt hv), hseq, rfl, ?_, ?_, ?_, ?_, ?_, ?_,
    (((State.AtPort.refl ..).updPort _).setLink _).trans (State.showCredit_atPort ..)⟩
  all_goals simp only [State.link_showCredit, State.link_setLink, State.link_updPort, State.port_showCredit, State.port_setLink,
    State.port_updPort, Tab.getD_set_same, Link.sentSeq, if_true]

end

/-! ### Key phases and recalibration -/

theorem State.needSplice_up {s : State} {p kind width speed mask : Nat} {w : State} (h : s.beginSplice p kind width speed mask = (true, w)) :
    s.needSplice p kind width speed mask = w := by
  simp [State.needSplice, h]

theorem State.needSplice_busy {s : State} {p kind width speed mask : Nat} (h : (s.link p).splice.isSome = true) :
    s.needSplice p kind width speed mask = s.updLink p (fun k => { k with due := some (kind, width, speed, mask) }) := by
  simp [State.needSplice, State.beginSplice_busy h, h]

/-- Settles O16: a cell slot by what it finds; timers and limits by their own conditions. -/
theorem linkTransmits : Obligations.LinkTransmits := by
  unfold Obligations.LinkTransmits
  intro s p vc _ hv
  have spent : s.rd (K.rekeyCells p) ≤ (s.link p).txCells → s.keySpent p = true := (s.keySpent_iff p).mpr
  have unspent : (s.link p).txCells < s.rd (K.rekeyCells p) → s.keySpent p = false := fun h => decide_eq_false (by omega)
  refine ⟨?transport, ?resend, ?spent, ?timeout, rfl, ?refresh, ?recalibrate, ?due, ?flip⟩
  case transport =>
    intro hst ha hr htx hb hroom hc
    obtain ⟨w, c, hw, h1, h2, h3, h4, h5, h6, h7, h8, h9, h10, h11, hat⟩ := State.txSlot_transport hv hst ha hr (unspent htx) hb hroom hc
    exact ⟨w, c, congrArg Host.Outcome.next hw, h1, h2, h3, h4, h5, h6, h7, h8, h9, h10, h11, hat.others, hat.regs, hat.eq⟩
  case resend =>
    intro c hst ha hr htx hc
    refine congrArg Host.Outcome.next ?_
    rw [State.txSlot_up hst ha, hr, if_pos rfl, State.resendCell_found (unspent htx) hc]
  case spent =>
    intro hle
    obtain ⟨ports, hw⟩ := State.txSlot_spent (vc := vc) (spent hle)
    exact ⟨_, congrArg Host.Outcome.next hw, rfl, rfl⟩
  case timeout =>
    intro hlt hr
    exact congrArg Host.Outcome.next (if_pos ⟨hlt, by rw [hr]; rfl⟩)
  case refresh =>
    intro hm hv
    refine congrArg Host.Outcome.next (congrArg (s.setLink p) (if_pos ⟨hm, ?_⟩))
    simpa using hv
  case recalibrate =>
    intro hlim hst hn htx
    obtain ⟨w, hw, hsp, hold, -, -, -, hregs, hcell⟩ :=
      (s.setLink p { s.link p with oldestResends := 0 }).beginSplice_effect (p := p) (kind := 1)
        (width := fld (s.rd (K.trainedConfig p)) 1 0) (speed := fld (s.rd (K.trainedConfig p)) 3 2)
        (mask := fld (s.rd (K.trainedConfig p)) 23 16) hst (by rw [State.link_setLink]; exact hn)
    obtain ⟨cell, hwire, hty⟩ := hcell (by rw [State.link_setLink]; exact htx)
    rw [State.link_setLink] at hold hwire
    refine ⟨w, _, cell, congrArg Host.Outcome.next ((if_pos hlim).trans (State.needSplice_up hw)), hsp, rfl, rfl, rfl, ?_, hold, hwire, hty,
      hregs⟩
    simp only [State.ownSplice, State.link_setLink]
  case due =>
    intro hlim hsp
    have hsp' : ((s.setLink p { s.link p with oldestResends := 0 }).link p).splice.isSome = true := by
      rw [State.link_setLink]
      exact hsp
    refine congrArg Host.Outcome.next ((if_pos hlim).trans ((State.needSplice_busy hsp').trans ?_))
    rw [State.updLink_setLink]
    rfl
  case flip =>
    intro hst hf hps hle
    have hsec : s.secure p = true := by
      have : s.linkState p = 3 := by
        unfold State.linkState
        simp [hst]
      simp [State.secure, this]
    refine congrArg Host.Outcome.next (if_pos ?_)
    simpa [hsec, Link.mayFlip, hf, hps] using hle

end Sys2Proof.Machine


/-! The end of a link session (03 R71), and what follows it. -/

namespace Sys2Proof.Machine

/-- What the end of its session leaves of a link, but for the training words. -/
def Link.ended (k : Link) : Link :=
  { ({} : Link) with
    uncorrRun := k.uncorrRun, crcRun := k.crcRun, laneErr := k.laneErr, laneOver := k.laneOver, bad := k.bad
    uncorr := k.uncorr, uncorrLast := k.uncorrLast, spliceNo := k.spliceNo, ts := k.ts, farCfg := k.farCfg
    splice := k.splice.map (fun x => { x with back := 2, farLast := none })
    farPrecode := k.farPrecode, askPrecode := k.askPrecode, laneOrder := k.laneOrder, train := k.train
    start := k.start, rxBlocks := k.rxBlocks, rxCells := k.rxCells, badBlocks := k.badBlocks, due := k.due, failedAt := k.failedAt
    lockHold := k.lockHold, upFails := k.upFails, mode := k.mode, sentMode := k.sentMode, farMode := k.farMode, fresh := true
    wire := k.wire, win := k.win, rxL := k.win }

/-- What it leaves of the port. -/
def Port.ended (q : Port) : Port := { q with out := [], txBytes := [], rxPart := [], linkNo := q.linkNo + 1 }

/-- The live elements that the end of a session moves. -/
def sessionShown (p : Nat) : List Nat :=
  [K.transportCounts p 7, K.linkEvents p 9, K.portKeyState p, K.portState p] ++ creditShown p

/-- The part with its SPDM session of link `p` gone. -/
def State.unspdm (s : State) (p : Nat) : State :=
  { s with boot := { s.boot with spdm := Tab.erase s.boot.spdm p }, sess := Tab.erase s.sess (512 + p) }

theorem State.unspdm_wrs (s : State) (p : Nat) (l : List (Nat × Nat)) : (s.unspdm p).wrs l = (s.wrs l).unspdm p :=
  List.foldl_hom (fun w : State => w.unspdm p) (fun _ _ => rfl)

theorem State.unspdm_showCredit (s : State) (p : Nat) : (s.unspdm p).showCredit p = (s.showCredit p).unspdm p := by
  have hlink : (s.unspdm p).link p = s.link p := rfl
  unfold State.showCredit
  rw [hlink]
  generalize s.link p = k
  exact List.foldl_hom (fun w : State => w.unspdm p) (fun w _ => w.unspdm_wrs p _)

theorem State.unspdm_showTrain (s : State) (p : Nat) : (s.showTrain p).unspdm p = (s.unspdm p).showTrain p := rfl

/-- The port was SECURE, at the end of a splice if there is one. -/
def State.wasSecure (s : State) (p : Nat) : Bool :=
  s.rd (K.portState p) = 3 || (match (s.link p).splice with | some x => decide (x.back = 3) | none => false)

/-- The part while link `p`'s session ends, before its state is shown. -/
def State.ending (s : State) (p : Nat) : State :=
  let u := ((s.setLink p (s.link p).ended).setPort p (s.port p).ended).count (K.transportCounts p 7)
    (((s.port p).out.filter (fun m => 128 ≤ m.op)).length)
  (if s.wasSecure p then u.linkEvent p 9 else u).wr (K.portKeyState p) 0

/-- A SECURE port is BOOTSTRAP. -/
def State.insecure (s : State) (p : Nat) : State := if s.rd (K.portState p) = 3 then s.wr (K.portState p) 2 else s

theorem State.sessionEnd_eq (s : State) (p : Nat) :
    s.sessionEnd p = ((((s.ending p).unspdm p).insecure p).showTrain p).showCredit p := rfl

theorem State.unspdm_insecure (s : State) (p : Nat) : (s.unspdm p).insecure p = (s.insecure p).unspdm p := by
  unfold State.insecure
  have hrd : (s.unspdm p).rd (K.portState p) = s.rd (K.portState p) := rfl
  rw [hrd]
  by_cases h : s.rd (K.portState p) = 3
  · rw [if_pos h, if_pos h]
    rfl
  · rw [if_neg h, if_neg h]

theorem State.ending_effect (s : State) (p : Nat) : s.AtPort (s.ending p) p (sessionShown p) ∧ (s.ending p).link p = (s.link p).ended ∧
    (s.ending p).port p = (s.port p).ended ∧ (s.ending p).rd (K.portState p) = s.rd (K.portState p) ∧
    (s.ending p).rd (K.portKeyState p) = 0 := by
  have hne : K.portState p ≠ K.portKeyState p := by simp only [ek, ne_eq]; omega
  have h7 : K.portState p ≠ K.transportCounts p 7 := by simp only [ek, ne_eq]; omega
  have h9 : K.portState p ≠ K.linkEvents p 9 := by simp only [ek, ne_eq]; omega
  have m7 : K.transportCounts p 7 ∈ sessionShown p := by simp [sessionShown]
  have m9 : K.linkEvents p 9 ∈ sessionShown p := by simp [sessionShown]
  have mk : K.portKeyState p ∈ sessionShown p := by simp [sessionShown]
  unfold State.ending
  generalize (List.filter (fun m => decide (128 ≤ m.op)) (s.port p).out).length = n
  dsimp only
  split
  · refine ⟨(((((State.AtPort.refl ..).setLink _).setPort _).count n m7).count 1 m9).wr 0 mk, ?_, ?_, ?_, State.rd_wr_same ..⟩
    · rw [State.link_wr, State.linkEvent, State.link_count, State.link_count, State.link_setPort, State.link_setLink]
    · rw [State.port_wr, State.linkEvent, State.port_count, State.port_count, State.port_setPort]
    · rw [State.rd_wr_other _ _ _ _ hne, State.linkEvent, State.rd_count_other _ _ _ _ h9, State.rd_count_other _ _ _ _ h7,
        State.rd_setPort, State.rd_setLink]
  · refine ⟨((((State.AtPort.refl ..).setLink _).setPort _).count n m7).wr 0 mk, ?_, ?_, ?_, State.rd_wr_same ..⟩
    · rw [State.link_wr, State.link_count, State.link_setPort, State.link_setLink]
    · rw [State.port_wr, State.port_count, State.port_setPort]
    · rw [State.rd_wr_other _ _ _ _ hne, State.rd_count_other _ _ _ _ h7, State.rd_setPort, State.rd_setLink]

theorem State.insecure_effect (s : State) (p : Nat) : s.AtPort (s.insecure p) p (sessionShown p) ∧ (s.insecure p).link p = s.link p ∧
    (s.insecure p).port p = s.port p ∧ (s.insecure p).rd (K.portKeyState p) = s.rd (K.portKeyState p) ∧
    (s.insecure p).rd (K.portState p) = if s.rd (K.portState p) = 3 then 2 else s.rd (K.portState p) := by
  unfold State.insecure
  by_cases h : s.rd (K.portState p) = 3
  · rw [if_pos h, if_pos h]
    exact ⟨(State.AtPort.refl ..).wr _ (by simp [sessionShown]), rfl, rfl, State.rd_wr_other _ _ _ _ (by simp only [ek, ne_eq]; omega),
      State.rd_wr_same ..⟩
  · rw [if_neg h, if_neg h]
    exact ⟨.refl .., rfl, rfl, rfl, rfl⟩

/-- The end of a session: the port's link and streams start anew, and its key state and state show it; the SPDM session goes. -/
theorem State.sessionEnd_effect (s : State) (p : Nat) : ∃ v : State, s.sessionEnd p = v.unspdm p ∧ s.AtPort v p (sessionShown p) ∧
    v.link p = { (s.link p).ended with train := (s.link p).ended.trainWords } ∧ v.port p = (s.port p).ended ∧
    v.rd (K.portKeyState p) = 0 ∧ v.rd (K.portState p) = if s.rd (K.portState p) = 3 then 2 else s.rd (K.portState p) := by
  obtain ⟨hat, hl, hp, hst, hk⟩ := s.ending_effect p
  obtain ⟨hat', hl', hp', hk', hst'⟩ := (s.ending p).insecure_effect p
  have hshown (k : Nat) (h : k / 2 ^ 24 ≠ (0x2400 + p) * 256 + 0x17) :
      (((((s.ending p).insecure p).showTrain p).showCredit p)).rd k = ((s.ending p).insecure p).rd k :=
    (State.showCredit_regs ..).2 k (not_mem_creditShown h)
  refine ⟨(((s.ending p).insecure p).showTrain p).showCredit p, ?_, ?_, ?_, ?_, ?_, ?_⟩
  · rw [State.sessionEnd_eq, State.unspdm_insecure, ← State.unspdm_showTrain, State.unspdm_showCredit]
  · exact ((hat.trans hat').updLink _).trans ((State.showCredit_atPort ..).mono (fun k hk => by simp [sessionShown, hk]))
  · rw [State.link_showCredit, State.link_showTrain, hl', hl]
  · rw [State.port_showCredit, State.port_showTrain, hp', hp]
  · rw [hshown _ (by simp only [ek]; omega), hk', hk]
  · rw [hshown _ (by simp only [ek]; omega), hst', hst]

end Sys2Proof.Machine


/-! Where a link session ends, and where lanes are counted (03 R64 to R74). -/

namespace Sys2Proof.Machine

/-- `w` differs from `s` in links and live elements at most. -/
def State.Relinked (s w : State) : Prop := ∃ links regs, w = { s with links := links, regs := regs }

namespace State.Relinked

variable {s w : State}

theorem refl (s : State) : s.Relinked s := ⟨_, _, rfl⟩
theorem setLink (h : s.Relinked w) (p : Nat) (k : Link) : s.Relinked (w.setLink p k) := by
  obtain ⟨_, _, rfl⟩ := h
  exact ⟨_, _, rfl⟩
theorem wr (h : s.Relinked w) (k v : Nat) : s.Relinked (w.wr k v) := by
  obtain ⟨_, _, rfl⟩ := h
  exact ⟨_, _, rfl⟩
theorem count (h : s.Relinked w) (k n : Nat) : s.Relinked (w.count k n) := h.wr ..
theorem eq (h : s.Relinked w) : w = { s with links := w.links, regs := w.regs } := by
  obtain ⟨_, _, rfl⟩ := h
  rfl

end State.Relinked

section
variable {s : State} {p : Nat}

/-- The end of a SECURE port's session. -/
theorem State.sessionEnd_secure (hst : s.rd (K.portState p) = 3) :
    (s.sessionEnd p).rd (K.portState p) = 2 ∧ (s.sessionEnd p).rd (K.portKeyState p) = 0 ∧
    ((s.sessionEnd p).link p).buffer = [] ∧ ((s.sessionEnd p).link p).txPhase = 0 ∧ ((s.sessionEnd p).link p).rxPhase = 0 ∧
    ((s.sessionEnd p).link p).tagFails = 0 ∧ ((s.sessionEnd p).port p).out = [] ∧ ((s.sessionEnd p).port p).txBytes = [] ∧
    ((s.sessionEnd p).port p).linkNo = (s.port p).linkNo + 1 ∧
    (∀ q, q ≠ p → (s.sessionEnd p).link q = s.link q ∧ (s.sessionEnd p).port q = s.port q) ∧
    ∃ regs links ports boot sess, s.sessionEnd p = { s with regs := regs, links := links, ports := ports, boot := boot, sess := sess } := by
  obtain ⟨v, hv, ⟨⟨links, ports, regs, honly⟩, hother, -⟩, hl, hp, hk, hs⟩ := s.sessionEnd_effect p
  have hl' : (v.unspdm p).link p = { (s.link p).ended with train := (s.link p).ended.trainWords } := hl
  have hp' : (v.unspdm p).port p = (s.port p).ended := hp
  rw [if_pos hst] at hs
  rw [hv, hl', hp']
  refine ⟨hs, hk, rfl, rfl, rfl, rfl, rfl, rfl, rfl, hother, ?_⟩
  rw [honly]
  exact ⟨_, _, _, _, _, rfl⟩

/-- What a loss of lock does before holders and pairs follow: the session ends and a fast splice is tried (R64, R89). -/
theorem State.fastSplice_effect (s : State) (p : Nat) : ∃ x : Splice, (s.fastSplice p).rd (K.portState p) = 4 ∧
    ((s.fastSplice p).link p).splice = some x ∧ x.kind = 4 ∧ x.back = 2 ∧ ((s.fastSplice p).link p).ts = 2 ∧
    ((s.fastSplice p).link p).lockHold = true ∧ ((s.fastSplice p).link p).buffer = [] ∧ ((s.fastSplice p).port p).out = [] ∧
    ∃ regs links ports boot sess, s.fastSplice p = { s with regs := regs, links := links, ports := ports, boot := boot, sess := sess } := by
  obtain ⟨v, hv, ⟨⟨links, ports, regs, honly⟩, -, -⟩, hl, hp, -, -⟩ := s.sessionEnd_effect p
  have hl' : (v.unspdm p).link p = { (s.link p).ended with train := (s.link p).ended.trainWords } := hl
  have hp' : (v.unspdm p).port p = (s.port p).ended := hp
  unfold State.fastSplice
  rw [hv]
  simp only [State.link_showTrain, State.link_wr, State.link_setLink, State.rd_showTrain, State.rd_wr_same, State.port_showTrain,
    State.port_wr, State.port_setLink, hl', hp']
  refine ⟨_, trivial, rfl, rfl, rfl, trivial, trivial, rfl, rfl, ?_⟩
  rw [honly]
  exact ⟨_, _, _, _, _, rfl⟩

/-! ### FEC blocks (R60, R64) -/

/-- The live elements that an FEC block counts in. -/
def fecShown (p : Nat) : List Nat := [K.fecCounts p 0, K.fecCounts p 1, K.fecCounts p 2]

/-- The uncorrectable codewords of a block. -/
def uncorrOf (s : State) (p : Nat) (bad : List Nat) : Nat :=
  ((List.range 4).filter (uncorrectable (widthLanes (fld (s.rd (K.trainedConfig p)) 1 0)) bad)).length

theorem State.fecBlock_effect (s : State) (p : Nat) (bad : List Nat) : ∃ (w : State) (lanes : List Nat), s.fecBlock p bad = w ∧
    (bad = [] → lanes = (s.link p).laneErr) ∧
    w.link p = { s.link p with
      laneErr := lanes, uncorr := (s.link p).uncorr + uncorrOf s p bad
      uncorrRun := if uncorrOf s p bad = 0 then 0 else (s.link p).uncorrRun + 1
      crcRun := if uncorrOf s p bad = 0 then (s.link p).crcRun else 0, rxBlocks := (s.link p).rxBlocks + 1
      badBlocks := if uncorrOf s p bad = 0 || blockLastCell (s.link p).rxBlocks < (s.link p).rxCells then (s.link p).badBlocks
        else (s.link p).badBlocks ++ [(s.link p).rxBlocks] } ∧
    (s.rd (K.fecCounts p 0) + 4 < 2 ^ (8 * keyBytes (K.fecCounts p 0)) → w.rd (K.fecCounts p 0) = s.rd (K.fecCounts p 0) + 4) ∧
    s.RegsBut w (fecShown p) ∧ w = { s with links := w.links, regs := w.regs } := by
  unfold State.fecBlock
  extract_lets c w mask un fixed k lanes u
  refine ⟨_, lanes, rfl, ?_, ?_, fun hc => ?_, ?_, ?_⟩
  · rintro rfl
    have hnone (i : Nat) : wrongIn w [] i = [] := rfl
    have hfix : fixed = [] := by
      refine List.flatten_eq_nil_iff.mpr fun l hl => ?_
      obtain ⟨i, -, rfl⟩ := List.mem_map.mp hl
      exact hnone i
    simp only [lanes, hfix, List.foldl_nil, k]
  · rw [State.link_count, State.link_count, State.link_count, State.link_setLink]
    rfl
  · rw [State.rd_count_other _ _ _ _ (by simp only [ek, ne_eq]; omega), State.rd_count_other _ _ _ _ (by simp only [ek, ne_eq]; omega)]
    rw [State.rd_count _ _ _ (by rw [State.rd_setLink]; exact hc), State.rd_setLink]
  · exact (((State.RegsBut.of_regs rfl rfl).count (by simp [fecShown])).count (by simp [fecShown])).count (by simp [fecShown])
  · exact (((((State.Relinked.refl s).setLink _ _).count _ _).count _ _).count _ _).eq

theorem uncorrOf_nil (s : State) (p : Nat) : uncorrOf s p [] = 0 := rfl

theorem uncorrOf_pos {bad : List Nat} {i : Nat} (hi : i < 4)
    (hu : uncorrectable (widthLanes (fld (s.rd (K.trainedConfig p)) 1 0)) bad i = true) : 0 < uncorrOf s p bad :=
  List.length_pos_of_mem (List.mem_filter.mpr ⟨List.mem_range.mpr hi, hu⟩)

theorem keyBytes_fecCounts : ∀ p, p < 36 → keyBytes (K.fecCounts p 0) = 8 := by decide

/-! ### Lanes (R65) -/

/-- Where the port is up with no splice, a splice that it needs is begun. -/
theorem State.needSplice_effect {kind width speed mask : Nat} (hst : s.rd (K.portState p) = 2 ∨ s.rd (K.portState p) = 3)
    (hn : (s.link p).splice = none) :
    ∃ (w : State) (x : Splice), s.needSplice p kind width speed mask = w ∧ (w.link p).splice = some x ∧ x.kind = kind ∧ x.mine = true ∧
      x.agreed = false ∧ (w.link p).bad = (s.link p).bad ∧ (w.link p).uncorrLast = (s.link p).uncorrLast ∧
      w = { s with links := w.links, ports := w.ports } := by
  obtain ⟨w, hw, hsp, -, hbad, hun, -, hregs, -⟩ := s.beginSplice_effect (kind := kind) (width := width) (speed := speed) (mask := mask) hst hn
  exact ⟨w, _, State.needSplice_up hw, hsp, rfl, rfl, rfl, hbad, hun, hregs⟩

end

/-- Settles O18: each limit ends the session; an FEC block is counted; a splice that a lane or a frame's errors need is begun or due. -/
theorem linkEndsAndDegradation : Obligations.LinkEndsAndDegradation := by
  unfold Obligations.LinkEndsAndDegradation
  refine ⟨fun s p hp => ⟨?ends, ?lock, ?good, ?bad⟩, fun s p lane _ hlane => ⟨?up, ?busy⟩⟩
  case ends =>
    intro c hc hst
    rcases hc with ⟨rfl, h4⟩ | ⟨rfl, h16⟩ | ⟨rfl, hle, hflip⟩
    · have hst' : (s.security 2 0 p p 0).rd (K.portState p) = 3 :=
        (State.rd_count_other _ _ _ _ (by simp only [ek, ne_eq]; omega)).trans hst
      obtain ⟨h1, h2, h3, h5, h6, h7, h8, h9, h10, h11, _, _, _, _, _, honly⟩ := State.sessionEnd_secure hst'
      refine ⟨_, congrArg Host.Outcome.next (if_pos h4), h1, h2, h3, h5, h6, h7, h8, h9, h10, h11, ?_, ?_⟩
      · rw [if_pos rfl, honly]
      · rw [honly]
        rfl
    · obtain ⟨h1, h2, h3, h5, h6, h7, h8, h9, h10, h11, _, _, _, _, _, honly⟩ := State.sessionEnd_secure hst
      refine ⟨_, congrArg Host.Outcome.next (if_pos h16), h1, h2, h3, h5, h6, h7, h8, h9, h10, h11, ?_, ?_⟩
      · rw [if_neg (by simp), honly]
      · rw [honly]
    · obtain ⟨h1, h2, h3, h5, h6, h7, h8, h9, h10, h11, _, _, _, _, _, honly⟩ := State.sessionEnd_secure hst
      have hcond : (s.secure p && decide (s.rd (K.rekeyCells p) ≤ (s.link p).txCells) && !(s.link p).mayFlip) = true := by
        simp [State.secure, State.linkState, hst, hle, hflip]
      refine ⟨_, congrArg Host.Outcome.next (if_pos hcond), h1, h2, h3, h5, h6, h7, h8, h9, h10, h11, ?_, ?_⟩
      · rw [if_neg (by simp), honly]
      · rw [honly]
  case lock =>
    intro hl hst
    obtain ⟨x, h1, h2, h3, h4, h5, h6, h7, h8, _, _, _, _, _, honly⟩ := s.fastSplice_effect p
    refine ⟨_, x, congrArg Host.Outcome.next (if_pos ⟨hl, .inr (.inl hst)⟩), h1, h2, h3, h4, h5, h6, h7, h8, ?_⟩
    rw [honly]
  case good =>
    obtain ⟨w, lanes, hw, hlanes, hlink, hcount, hregs, honly⟩ := s.fecBlock_effect p []
    rw [uncorrOf_nil, hlanes rfl] at hlink
    rw [keyBytes_fecCounts p hp] at hcount
    exact ⟨w, congrArg Host.Outcome.next hw, hlink, hcount, hregs, honly⟩
  case bad =>
    intro bad i hi hu
    obtain ⟨w, lanes, hw, -, hlink, -, hregs, honly⟩ := s.fecBlock_effect p bad
    have hpos := uncorrOf_pos hi hu
    have hne : uncorrOf s p bad ≠ 0 := by omega
    refine ⟨w, congrArg Host.Outcome.next hw, ?_, ?_, ?_, ?_, fun hle => ?_, hregs, honly⟩ <;> rw [hlink]
    · exact if_neg hne
    · exact if_neg hne
    · exact Nat.add_le_add_left hpos _
    · exact if_neg (by simp [hne, hle])
  case up =>
    intro hst hn
    constructor
    · intro hover hbad
      have hcond : 2 ≤ nth (s.link p).laneOver lane ∧ (!bit (s.link p).bad lane) = true := ⟨hover, by rw [hbad]; rfl⟩
      let u := (s.setLink p { s.link p with bad := (s.link p).bad + 2 ^ lane }).linkEvent p 7
      have hu : u.link p = { s.link p with bad := (s.link p).bad + 2 ^ lane } := State.link_setLink ..
      have hst' : u.rd (K.portState p) = s.rd (K.portState p) := State.rd_count_other _ _ _ _ (by simp only [ek, ne_eq]; omega)
      obtain ⟨w, x, hw, hsp, hk, hm, ha, hb, -, honly⟩ := u.needSplice_effect (p := p) (kind := 3) (width := widthFor (laneCount (u.goodLanes p)))
        (speed := fld (u.rd (K.trainedConfig p)) 3 2) (mask := u.goodLanes p) (by rw [hst']; exact hst) (by rw [hu]; exact hn)
      rw [hu] at hb
      refine ⟨w, x, congrArg Host.Outcome.next ((if_pos hcond).trans hw), hb, hsp, hk, hm, ha, ?_, ?_⟩
      · rw [honly]
        exact (State.RegsBut.of_regs (s := s) (t := s.setLink p _) rfl rfl).count (by simp)
      · rw [honly]
        rfl
    · intro hlim
      obtain ⟨w, x, hw, hsp, hk, hm, -, -, hun, honly⟩ := (s.setLink p { s.link p with uncorrLast := 0 }).needSplice_effect (p := p) (kind := 1)
        (width := fld (s.rd (K.trainedConfig p)) 1 0) (speed := fld (s.rd (K.trainedConfig p)) 3 2)
        (mask := fld (s.rd (K.trainedConfig p)) 23 16) hst (by rw [State.link_setLink]; exact hn)
      rw [State.link_setLink] at hun
      exact ⟨w, x, congrArg Host.Outcome.next ((if_pos hlim).trans hw), hsp, hk, hm, hun, honly⟩
  case busy =>
    intro hsp
    constructor
    · intro hover hbad
      have hcond : 2 ≤ nth (s.link p).laneOver lane ∧ (!bit (s.link p).bad lane) = true := ⟨hover, by rw [hbad]; rfl⟩
      let u := (s.setLink p { s.link p with bad := (s.link p).bad + 2 ^ lane }).linkEvent p 7
      have hu : u.link p = { s.link p with bad := (s.link p).bad + 2 ^ lane } := State.link_setLink ..
      obtain ⟨width, speed, mask, hneed⟩ : ∃ width speed mask,
          u.degradeSplice p = u.updLink p (fun k => { k with due := some (3, width, speed, mask) }) :=
        ⟨_, _, _, State.needSplice_busy (by rw [hu]; exact hsp)⟩
      refine ⟨u.updLink p (fun k => { k with due := some (3, width, speed, mask) }), width, speed, mask,
        congrArg Host.Outcome.next ((if_pos hcond).trans hneed), ?_, ?_, ?_, ?_, ?_⟩
      · rw [State.link_updLink, hu]
      · rw [State.link_updLink]
      · rw [State.link_updLink, hu]
      · exact (State.RegsBut.of_regs (s := s) (t := s.setLink p _) rfl rfl).count (by simp)
      · exact ((((State.Relinked.refl s).setLink _ _).count _ _).setLink _ _).eq
    · intro hlim
      have hneed := (s.setLink p { s.link p with uncorrLast := 0 }).needSplice_busy (p := p) (kind := 1)
        (width := fld (s.rd (K.trainedConfig p)) 1 0) (speed := fld (s.rd (K.trainedConfig p)) 3 2)
        (mask := fld (s.rd (K.trainedConfig p)) 23 16) (by rw [State.link_setLink]; exact hsp)
      rw [State.updLink_setLink] at hneed
      exact congrArg Host.Outcome.next ((if_pos hlim).trans hneed)

end Sys2Proof.Machine


/-! Full link-up (03 R83, R84, R89). -/

namespace Sys2Proof.Machine

section
variable {s : State} {p : Nat}

/-- A full link-up begins with no link session, in TS1. -/
theorem State.fullLinkUp_effect (s : State) (p : Nat) : ∃ y : Splice, (s.fullLinkUp p).rd (K.portState p) = 1 ∧
    ((s.fullLinkUp p).link p).splice = some y ∧ y.kind = 5 ∧ y.back = 2 ∧ ((s.fullLinkUp p).link p).ts = 1 ∧
    ((s.fullLinkUp p).link p).lockHold = false ∧ ((s.fullLinkUp p).link p).buffer = [] ∧
    ((s.fullLinkUp p).link p).train = ((s.fullLinkUp p).link p).trainWords ∧ ((s.fullLinkUp p).port p).out = [] ∧
    s.fullLinkUp p = { s with regs := (s.fullLinkUp p).regs, links := (s.fullLinkUp p).links, ports := (s.fullLinkUp p).ports,
                              boot := (s.fullLinkUp p).boot, sess := (s.fullLinkUp p).sess } := by
  obtain ⟨v, hv, ⟨⟨links, ports, regs, honly⟩, -, -⟩, hl, hp, -, -⟩ := s.sessionEnd_effect p
  have hl' : (v.unspdm p).link p = { (s.link p).ended with train := (s.link p).ended.trainWords } := hl
  have hp' : (v.unspdm p).port p = (s.port p).ended := hp
  unfold State.fullLinkUp
  rw [hv]
  simp only [State.link_showTrain, State.link_wr, State.link_updLink, State.rd_showTrain, State.rd_wr_same, State.port_showTrain,
    State.port_wr, State.port_updLink, hl', hp']
  refine ⟨_, trivial, rfl, rfl, rfl, trivial, trivial, rfl, rfl, rfl, ?_⟩
  rw [honly]
  rfl

theorem State.linkUpFails_again (h : (s.link p).upFails < 2) :
    s.linkUpFails p = (s.setLink p { s.link p with upFails := (s.link p).upFails + 1, ts := 1 }).showTrain p := by
  have hl : decide (2 ≤ (s.link p).upFails) = false := decide_eq_false (by omega)
  unfold State.linkUpFails
  simp only [hl, Bool.false_eq_true, if_false]

theorem State.linkUpFails_last (h : 2 ≤ (s.link p).upFails) :
    s.linkUpFails p = ((s.setLink p { s.link p with
      upFails := (s.link p).upFails + 1, ts := 1, splice := none, failedAt := some s.frame }).wr (K.portState p) 5).showTrain p := by
  have hl : decide (2 ≤ (s.link p).upFails) = true := decide_eq_true h
  unfold State.linkUpFails
  simp only [hl, if_true]

/-! ### The end of TS4 (R85) -/

theorem State.pauseCells_atPort (s : State) (p ns : Nat) (ks : List Nat) : s.AtPort (s.pauseCells p ns) p ks := by
  unfold State.pauseCells
  exact (State.AtPort.refl ..).updPort _

theorem State.reserveOut_linkNo (s : State) (p : Nat) (replay : Bool) : ((s.reserveOut p replay).port p).linkNo = (s.port p).linkNo := by
  unfold State.reserveOut
  rw [State.port_updPort]
  split <;> rfl

theorem State.sendCtl_linkNo (s : State) (p : Nat) {ctype : Nat} (hc : ctype ≠ 0) (body : List Byte) :
    ((s.sendCtl p ctype body).port p).linkNo = (s.port p).linkNo := by
  by_cases hk : s.keySpent p = true
  · rw [State.sendCtl_spent hk]
  · rw [State.sendCtl_eq (by simpa using hk) hc, State.port_setLink, State.reserveOut_linkNo]

/-- CREDIT_SYNC at the end of a splice leaves splices and failures as they are. -/
theorem State.sendCreditSync_effect (s : State) (p : Nat) (ks : List Nat) : s.AtPort (s.sendCreditSync p) p ks ∧
    ((s.sendCreditSync p).link p).splice = (s.link p).splice ∧ ((s.sendCreditSync p).link p).due = (s.link p).due ∧
    ((s.sendCreditSync p).link p).upFails = (s.link p).upFails ∧ (∀ k, (s.sendCreditSync p).rd k = s.rd k) ∧
    ((s.sendCreditSync p).port p).linkNo = (s.port p).linkNo := by
  unfold State.sendCreditSync
  extract_lets k w l m
  generalize toLE 2 m ++ toLE 2 0 ++ (l.map (toLE 4)).flatten ++ (w.map (toLE 2)).flatten = body
  let u := s.setLink p { k with win := w, rxL := l, carried := l, rxOwed := [0, 0, 0, 0], sentMode := m, mode := agreedMode m k.farMode }
  have hu : u.link p = { k with win := w, rxL := l, carried := l, rxOwed := [0, 0, 0, 0], sentMode := m, mode := agreedMode m k.farMode } :=
    State.link_setLink ..
  have hat : s.AtPort (u.sendCtl p 4 body) p ks := ((State.AtPort.refl ..).setLink _).trans (u.sendCtl_atPort p (by decide) body ks)
  have hregs : u.sendCtl p 4 body = { u with links := (u.sendCtl p 4 body).links, ports := (u.sendCtl p 4 body).ports } :=
    u.sendCtl_regs p (by decide) body
  have hlink : ((u.sendCtl p 4 body).link p).splice = (s.link p).splice ∧ ((u.sendCtl p 4 body).link p).due = (s.link p).due ∧
      ((u.sendCtl p 4 body).link p).upFails = (s.link p).upFails := by
    by_cases hk : u.keySpent p = true
    · rw [State.sendCtl_spent hk, hu]
      exact ⟨rfl, rfl, rfl⟩
    · rw [State.sendCtl_eq (by simpa using hk) (by decide), State.link_setLink, hu]
      obtain ⟨cvc, refresh, carried, rxOwed, hrest⟩ := Link.sentCtl_rest { k with
        win := w, rxL := l, carried := l, rxOwed := [0, 0, 0, 0], sentMode := m, mode := agreedMode m k.farMode } 4 body
      rw [hrest]
      exact ⟨rfl, rfl, rfl⟩
  obtain ⟨h1, h2, h3⟩ := hlink
  exact ⟨hat, h1, h2, h3, fun j => State.rd_congr (s := s) (by rw [hregs]; rfl) (by rw [hregs]; rfl) j, u.sendCtl_linkNo p (by decide) body⟩

/-- The live elements that the end of a link-up writes. -/
def upShown (p : Nat) : List Nat := [K.portState p, K.peerLinkId p, K.trainedConfig p]

/-- A link-up completes: the port has the far end's identity and the agreed configuration. -/
theorem State.spliceEnds_linkUp (s : State) (p polarity us peer : Nat) {x : Splice} (hk : x.kind = 5) (hf : x.farLast = none)
    (hd : (s.link p).due = none) : ∃ w : State, s.spliceEnds p x polarity us peer = w ∧ s.AtPort w p (upShown p) ∧
      w.rd (K.portState p) = x.back ∧ w.rd (K.peerLinkId p) = peer ∧ w.rd (K.trainedConfig p) = s.trainedValue p polarity (s.upConfig p x) ∧
      (w.link p).splice = none ∧ (w.link p).upFails = 0 ∧ (w.port p).linkNo = (s.port p).linkNo := by
  let u := ((s.wr (K.trainedConfig p) (s.trainedValue p polarity (s.upConfig p x))).wr (K.portState p) x.back).wr (K.peerLinkId p) peer
  let v := u.updLink p (fun k => { k with
    splice := none, lockHold := false, upFails := 0, fresh := false, ts := 1, train := [], start := k.wire.length
    rxBlocks := 0, rxCells := 0, badBlocks := [], uncorrRun := 0, crcRun := 0 })
  obtain ⟨hat, hsp, hdue, hup, hrd, hno⟩ := v.sendCreditSync_effect p (upShown p)
  have hv : (v.link p).splice = none ∧ (v.link p).due = (s.link p).due ∧ (v.link p).upFails = 0 := by
    rw [State.link_updLink]
    exact ⟨rfl, rfl, rfl⟩
  obtain ⟨hv1, hv2, hv3⟩ := hv
  have hends : s.spliceEnds p x polarity us peer = (v.sendCreditSync p).dueSplice p := by
    unfold State.spliceEnds
    simp only [hk, hf, if_true, Nat.reduceLT, if_false]
    rfl
  have hdueNone : (v.sendCreditSync p).dueSplice p = v.sendCreditSync p := by
    unfold State.dueSplice
    rw [hdue, hv2, hd]
  have hatAll : s.AtPort (v.sendCreditSync p) p (upShown p) :=
    (((((State.AtPort.refl ..).wr _ (by simp [upShown])).wr _ (by simp [upShown])).wr _ (by simp [upShown])).updLink _).trans hat
  refine ⟨_, hends.trans hdueNone, hatAll, ?_, ?_, ?_, hsp.trans hv1, hup.trans hv3, ?_⟩
  · rw [hrd, State.rd_updLink, State.rd_wr_other _ _ _ _ (by simp only [ek, ne_eq]; omega), State.rd_wr_same]
  · rw [hrd, State.rd_updLink, State.rd_wr_same]
  · rw [hrd, State.rd_updLink, State.rd_wr_other _ _ _ _ (by simp only [ek, ne_eq]; omega),
      State.rd_wr_other _ _ _ _ (by simp only [ek, ne_eq]; omega), State.rd_wr_same]
  · exact hno

end

/-- Settles O21: a link-up begins without a session, fails or completes by its branch of `boundPassed` and `spliceEnds`. -/
theorem fullLinkUp : Obligations.FullLinkUp := by
  unfold Obligations.FullLinkUp
  intro s p c hp
  refine ⟨?begins, ?fails, ?completes⟩
  case begins =>
    intro hc
    have hex : exec c s = .next (s.fullLinkUp p) := by
      rcases hc with ⟨rfl, hl⟩ | ⟨rfl, hst, hf⟩
      · exact congrArg Host.Outcome.next (if_pos hl)
      · refine congrArg Host.Outcome.next (if_pos ?_)
        cases hfa : (s.link p).failedAt with
        | none => simp [hst]
        | some f => simp [hst, hf f hfa]
    obtain ⟨y, hrest⟩ := s.fullLinkUp_effect p
    exact ⟨_, y, hex, hrest⟩
  case fails =>
    intro hst hc
    have hex : exec c s = .next (s.linkUpFails p) := by
      rcases hc with rfl | ⟨x, us, rfl, hsp, ha, hk, hus⟩
      · exact congrArg Host.Outcome.next (if_pos hst)
      · refine congrArg Host.Outcome.next ?_
        rw [hsp]
        dsimp only
        rw [if_pos (by simp [ha, hst, hk, spliceBound, hus]), if_pos hk]
    exact ⟨fun h => hex.trans (congrArg Host.Outcome.next (State.linkUpFails_again h)),
      fun h => hex.trans (congrArg Host.Outcome.next (State.linkUpFails_last h))⟩
  case completes =>
    intro x word polarity us peer t hst hsp hts hk hw hus hf hd
    let u := (s.at t).pauseCells p (min (us * 1000) t)
    have hu : u.link p = s.link p := rfl
    obtain ⟨w, hends, hat, h1, h2, h3, h4, h5, hno⟩ := u.spliceEnds_linkUp p polarity us peer hk hf (by rw [hu]; exact hd)
    have hdone : (s.at t).spliceDone p word polarity us peer t = w := by
      have hlink : ((s.at t).link p).splice = some x := hsp
      have hts' : ((s.at t).link p).ts = 4 := hts
      have hst' : (s.at t).rd (K.portState p) = 1 := hst
      unfold State.spliceDone
      simp only [hlink, hts', hst', hw, hk]
      rw [if_neg (by decide), if_neg (by simpa [spliceBound] using hus)]
      exact hends
    have huNo : (u.port p).linkNo = (s.port p).linkNo := by
      rw [show u.port p = _ from State.port_updPort ..]
      rfl
    refine ⟨w, congrArg Host.Outcome.next ?_, h1, h2, h3, h4, h5, hat.regs, ?_⟩
    · rw [hdone]
      exact if_pos (hno.trans huNo)
    · have hpause : (s.at t).AtPort u p (upShown p) := State.pauseCells_atPort ..
      exact (hpause.trans hat).eq

end Sys2Proof.Machine


/-! The cold boot, the fill and the release of the lead core (09 R217, 22 R473, R475). -/

namespace Sys2Proof.Machine

/-! ### Live elements written over every tile -/

theorem State.rd_wrs_const (f : Nat → Nat) (hf : Function.Injective f) (c : Nat) {l : List Nat} {x : Nat} (hx : x ∈ l) :
    ∀ s : State, (s.wrs (l.map (fun t => (f t, c)))).rd (f x) = c := by
  induction l with
  | nil => cases hx
  | cons y l ih =>
    intro s
    rw [List.map_cons, State.wrs_cons]
    by_cases hl : x ∈ l
    · exact ih hl _
    · have hxy : x = y := (List.mem_cons.mp hx).resolve_right hl
      subst hxy
      rw [State.rd_wrs_other]
      · exact State.rd_wr_same ..
      · intro e he
        obtain ⟨z, hz, rfl⟩ := List.mem_map.mp he
        exact fun h => hl (hf h ▸ hz)

theorem drbgStatus_injective : Function.Injective K.drbgStatus := fun a b h => by
  simp only [ek] at h
  omega

/-! ### BOOT_STATUS (R479) -/

theorem State.eligibleLead_congr {s w : State} (hf : w.fuses = s.fuses) (hr : w.rd K.leadIneligible = s.rd K.leadIneligible) :
    w.eligibleLead = s.eligibleLead := by
  unfold State.eligibleLead
  rw [hf, hr]

/-! ### The fuse read (R475) -/

/-- The part once the option bytes are read and the DRBGs of the tiles `l` instantiated, before the lead is elected. -/
def State.fuseRead (s : State) (l : List Nat) : State :=
  let s := s.updBoot (fun b => { b with fused := true })
  let s := s.wrs (l.map (fun t => (K.drbgStatus t, 1)))
  let s := s.setCont { s.cont with dups := duplicates (defaultInService s.fuses) }
  s.wr K.attestStatus (3 - s.fuses.certsOk % 4)

theorem State.fuseRead_only (s : State) (l : List Nat) : s.fuseRead l =
    { s with boot := { s.boot with fused := true }, cont := { s.cont with dups := duplicates (defaultInService s.fuses) }
             regs := (s.fuseRead l).regs } := by
  obtain ⟨regs, h⟩ : ∃ regs, (s.updBoot (fun b => { b with fused := true })).wrs (l.map (fun t => (K.drbgStatus t, 1))) =
      { s.updBoot (fun b => { b with fused := true }) with regs := regs } := ⟨_, State.wrs_only ..⟩
  unfold State.fuseRead
  dsimp only
  rw [h]
  rfl

theorem State.fuseRead_attest (s : State) (l : List Nat) : (s.fuseRead l).rd K.attestStatus = 3 - s.fuses.certsOk % 4 := by
  have hf : (s.fuseRead l).fuses = s.fuses := by rw [s.fuseRead_only l]
  rw [← hf]
  exact State.rd_wr_same ..

theorem State.fuseRead_drbg (s : State) {l : List Nat} {t : Nat} (_ : t < 36) (ht : t ∈ l) : (s.fuseRead l).rd (K.drbgStatus t) = 1 := by
  unfold State.fuseRead
  dsimp only
  rw [State.rd_wr_other _ _ _ _ (by simp only [ek, ne_eq]; omega)]
  exact State.rd_wrs_const K.drbgStatus drbgStatus_injective 1 ht _

theorem State.fuseRead_regs (s : State) (l : List Nat) : s.RegsBut (s.fuseRead l) (K.attestStatus :: l.map K.drbgStatus) := by
  unfold State.fuseRead
  have h0 : s.RegsBut (s.updBoot (fun b => { b with fused := true })) (K.attestStatus :: l.map K.drbgStatus) := .of_regs rfl rfl
  have h1 := h0.wrs (l.map (fun t => (K.drbgStatus t, 1))) (fun e he => by
    obtain ⟨t, ht, rfl⟩ := List.mem_map.mp he
    exact List.mem_cons_of_mem _ (List.mem_map_of_mem ht))
  exact State.RegsBut.wr (t := State.setCont _ _) (fun k hk => h1 k hk) List.mem_cons_self

/-- FUSE_READ_COMPLETE of a part that has not read its fuses. -/
theorem execFuseReadComplete_eq {s : State} (hp : s.boot.powered = true) (hh : s.boot.held = false) (hf : s.boot.fused = false) :
    execFuseReadComplete s = .next (if (s.fuseRead (List.range 36)).eligibleLead then (s.fuseRead (List.range 36)).setBoot 31 28 1
      else ((s.fuseRead (List.range 36)).setBoot 31 28 2).bootFault 1) := by
  unfold execFuseReadComplete
  rw [if_neg (by simp [hp, hh, hf])]
  unfold State.fuseRead
  generalize List.range 36 = l
  rfl

/-! ### The PLLs (R473) -/

/-- Full link-up at a port leaves the other ports' states and links, BOOT_STATUS, and pool memory. -/
theorem State.fullLinkUp_rest (s : State) {p : Nat} (hp : p < 36) :
    (s.fullLinkUp p).rd K.bootStatus = s.rd K.bootStatus ∧ (s.fullLinkUp p).mem = s.mem ∧ (s.fullLinkUp p).boot.locked = s.boot.locked ∧
    ∀ q, q < 36 → q ≠ p → (s.fullLinkUp p).rd (K.portState q) = s.rd (K.portState q) ∧ (s.fullLinkUp p).link q = s.link q := by
  obtain ⟨v, hv, ⟨⟨links, ports, regs, honly⟩, hother, hregs⟩, -, -, -, -⟩ := s.sessionEnd_effect p
  have hrd (k : Nat) (h : k ∉ sessionShown p) : (v.unspdm p).rd k = s.rd k := hregs k h
  have hout (k : Nat) (h1 : k / 2 ^ 24 ≠ (0x2400 + p) * 256 + 0x17) (h2 : ∀ j ∈ [K.transportCounts p 7, K.linkEvents p 9, K.portKeyState p, K.portState p], k ≠ j) :
      k ∉ sessionShown p := by
    intro hk
    rcases List.mem_append.mp hk with hk | hk
    · exact h2 k hk rfl
    · exact not_mem_creditShown h1 hk
  unfold State.fullLinkUp
  rw [hv]
  refine ⟨?_, ?_, ?_, fun q hq hqp => ⟨?_, ?_⟩⟩
  · rw [State.rd_showTrain, State.rd_wr_other _ _ _ _ (by simp only [ek, ne_eq]; omega), State.rd_updLink]
    refine hrd _ (hout _ (by simp only [ek]; omega) ?_)
    simp only [List.mem_cons, List.not_mem_nil, or_false, ek]
    omega
  · rw [honly]
    rfl
  · rw [honly]
    rfl
  · rw [State.rd_showTrain, State.rd_wr_other _ _ _ _ (by simp only [ek, ne_eq]; omega), State.rd_updLink]
    refine hrd _ (hout _ (by simp only [ek]; omega) ?_)
    simp only [List.mem_cons, List.not_mem_nil, or_false, ek]
    omega
  · rw [State.showTrain, State.link_updLink_other _ _ _ hqp, State.link_wr, State.link_updLink_other _ _ _ hqp]
    exact (hother q hqp).1

/-- Port `p` has begun full link-up. -/
def State.linkingUp (s : State) (p : Nat) : Prop := s.rd (K.portState p) = 1 ∧ (s.link p).ts = 1

theorem State.fullLinkUp_linkingUp (s : State) (p : Nat) : (s.fullLinkUp p).linkingUp p := by
  obtain ⟨y, hst, -, -, -, hts, -⟩ := s.fullLinkUp_effect p
  exact ⟨hst, hts⟩

/-- Full link-up at every port of a list. -/
theorem State.linkUpAll (l : List Nat) (hl : ∀ p ∈ l, p < 36) : ∀ s : State,
    (l.foldl (fun s p => s.fullLinkUp p) s).rd K.bootStatus = s.rd K.bootStatus ∧
    (l.foldl (fun s p => s.fullLinkUp p) s).mem = s.mem ∧ (l.foldl (fun s p => s.fullLinkUp p) s).boot.locked = s.boot.locked ∧
    ∀ q, q < 36 → s.linkingUp q ∨ q ∈ l → (l.foldl (fun s p => s.fullLinkUp p) s).linkingUp q := by
  induction l with
  | nil => exact fun s => ⟨rfl, rfl, rfl, fun q _ h => h.resolve_right List.not_mem_nil⟩
  | cons p l ih =>
    intro s
    obtain ⟨h1, h2, h3, h4⟩ := ih (fun q hq => hl q (List.mem_cons_of_mem _ hq)) (s.fullLinkUp p)
    obtain ⟨g1, g2, g3, g4⟩ := s.fullLinkUp_rest (hl p List.mem_cons_self)
    refine ⟨h1.trans g1, h2.trans g2, h3.trans g3, fun q hq hor => h4 q hq ?_⟩
    by_cases hqp : q = p
    · subst hqp
      exact .inl (s.fullLinkUp_linkingUp q)
    · rcases hor with hup | hmem
      · obtain ⟨e1, e2⟩ := g4 q hq hqp
        exact .inl ⟨e1.trans hup.1, by rw [e2]; exact hup.2⟩
      · exact .inr ((List.mem_cons.mp hmem).resolve_left hqp)

/-- No fault shown: the fault bit of BOOT_STATUS is clear. -/
theorem bit_of_fld_zero {v : Nat} (h : fld v 27 24 = 0) : bit v 27 = false := by
  simp only [fld, bit, Nat.reduceAdd, Nat.reduceSub, Nat.reducePow] at *
  exact decide_eq_false (by omega)

/-- Settles O55: each command of the boot in the state that the one before it leaves. -/
theorem coldBootSteps : Obligations.ColdBootSteps := by
  unfold Obligations.ColdBootSteps
  intro s hp
  refine ⟨?release, ?fuses, fun hf hl h0 => ⟨?lock, ?timeout⟩⟩
  case release =>
    intro hh
    exact congrArg Host.Outcome.next (if_pos ⟨hp, hh⟩)
  case fuses =>
    intro hh hf
    have hex : exec .fuseReadComplete s = _ := execFuseReadComplete_eq hp hh hf
    generalize hl : List.range 36 = l at hex
    have honly := s.fuseRead_only l
    have hat := s.fuseRead_attest l
    have hdrbg (t : Nat) (ht : t < 36) : (s.fuseRead l).rd (K.drbgStatus t) = 1 :=
      s.fuseRead_drbg ht (by rw [← hl]; exact List.mem_range.mpr ht)
    have hregs := s.fuseRead_regs l
    have hout (k : Nat) (h1 : k ≠ K.attestStatus) (h2 : ∀ t, t < 36 → k ≠ K.drbgStatus t) : (s.fuseRead l).rd k = s.rd k := by
      refine hregs k fun hk => ?_
      rcases List.mem_cons.mp hk with rfl | hk
      · exact h1 rfl
      · obtain ⟨t, ht, rfl⟩ := List.mem_map.mp hk
        exact h2 t (List.mem_range.mp (hl ▸ ht)) rfl
    have hboot : (s.fuseRead l).rd K.bootStatus = s.rd K.bootStatus :=
      hout _ (by decide) (fun t _ => by simp only [ek, ne_eq]; omega)
    have hlead : (s.fuseRead l).eligibleLead = s.eligibleLead :=
      State.eligibleLead_congr (by rw [honly]) (hout _ (by decide) (fun t _ => by simp only [ek, ne_eq]; omega))
    rw [hlead] at hex
    obtain ⟨v, hv, hv1, hv0⟩ : ∃ v, exec .fuseReadComplete s = .next ((s.fuseRead l).wr K.bootStatus v) ∧
        (s.eligibleLead = true → v = setFld (s.rd K.bootStatus) 31 28 1) ∧ (s.eligibleLead = false → fld v 27 24 = 9) := by
      by_cases he : s.eligibleLead = true
      · rw [if_pos he] at hex
        refine ⟨_, hex, fun _ => ?_, fun h => absurd (he.symm.trans h) (by decide)⟩
        rw [hboot]
      · rw [if_neg he] at hex
        refine ⟨setFld (setFld (s.rd K.bootStatus) 31 28 2) 27 24 9, hex.trans (congrArg Host.Outcome.next ?_), fun h => absurd h he, fun _ =>
          fld_setFld_same ..⟩
        unfold State.bootFault State.setBoot
        rw [State.rd_wr_same, hboot]
        simp only [State.wr, Tab.set_set]
    have hrd (k : Nat) (h : k ≠ K.bootStatus) : ((s.fuseRead l).wr K.bootStatus v).rd k = (s.fuseRead l).rd k := State.rd_wr_other _ _ _ _ h
    refine ⟨_, hv, ?_, ?_, ?_, fun t ht => ?_, fun he => ?_, fun he => ?_, ?_, ?_⟩
    · rw [State.wr_boot, honly]
    · rw [State.wr_cont, honly]
    · rw [hrd _ (by decide), hat]
    · rw [hrd _ (by simp only [ek, ne_eq]; omega), hdrbg t ht]
    · rw [State.rd_wr_same, hv1 he]
    · rw [State.rd_wr_same, hv0 he]
    · exact State.RegsBut.wr (fun k hk => hregs k (fun h => hk (List.mem_cons_of_mem _ h))) List.mem_cons_self
    · rw [honly]
      rfl
  case lock =>
    have hb := bit_of_fld_zero h0
    let u := (s.updBoot (fun b => { b with locked := true })).setBoot 31 28 3
    have hex : exec .pllLock s = .next ((List.range 36).foldl (fun s p => s.fullLinkUp p) u) := by
      have hb' : bit ((s.updBoot (fun b => { b with locked := true })).rd K.bootStatus) 27 = false := hb
      refine congrArg Host.Outcome.next ((if_neg (by simp [hf, hl, h0])).trans ?_)
      dsimp only
      rw [hb', if_neg (by decide)]
    obtain ⟨h1, h2, h3, h4⟩ := State.linkUpAll (List.range 36) (fun p h => List.mem_range.mp h) u
    refine ⟨_, hex, h3, ?_, fun p hp => h4 p hp (.inr (List.mem_range.mpr hp)), h2⟩
    rw [h1]
    exact (congrArg (fld · 31 28) (State.rd_wr_same ..)).trans (fld_setFld_same ..)
  case timeout =>
    have hb := bit_of_fld_zero h0
    refine congrArg Host.Outcome.next ((if_pos ⟨hf, by simp [hl], by simp [hb]⟩).trans ?_)
    unfold State.bootFault State.setBoot
    rw [State.rd_wr_same]
    simp only [State.wr, Tab.set_set]

end Sys2Proof.Machine


/-! The fill of a cold boot and the release of the lead core (09 R217, 22 R475). -/

namespace Sys2Proof.Machine

/-! ### Fields of BOOT_STATUS -/

theorem fld_low_setFld_step (v x : Nat) : fld (setFld v 31 28 x) 15 0 = fld v 15 0 := by
  simp only [fld, setFld, Nat.reduceAdd, Nat.reduceSub, Nat.reducePow]
  omega

theorem fld_step_fault (v x y : Nat) (hx : x < 16) (hy : y < 16) : fld (setFld (setFld v 31 28 x) 27 24 y) 31 24 = x * 16 + y := by
  simp only [fld, setFld, Nat.reduceAdd, Nat.reduceSub, Nat.reducePow]
  omega

/-! ### The zeros of a filled stack -/

theorem memAt_filter (f : Nat → Bool) (m : List Host.Cell) (a : Nat) :
    memAt (m.filter (fun c => f c.1)) a = if f a then memAt m a else 0#8 := by
  unfold memAt
  rw [Tab.find_filter]
  by_cases h : f a = true
  · rw [if_pos h, if_pos h]
  · rw [if_neg h, if_neg h]
    rfl

section
variable {s : State} {tile ms : Nat}

theorem State.byteAt_zeroStack (s : State) (tile a : Nat) :
    (s.zeroStack tile).byteAt a = if a / 2 ^ 37 ≠ tile then s.byteAt a else 0#8 := by
  rw [State.byteAt_eq, State.byteAt_eq]
  refine (memAt_filter (fun k => decide (k / 2 ^ 37 ≠ tile)) s.mem a).trans ?_
  by_cases h : a / 2 ^ 37 ≠ tile
  · rw [if_pos h, if_pos (decide_eq_true h)]
  · rw [if_neg h, if_neg (by simpa using h)]

theorem State.not_mem_written_zeroStack {g : Nat} (hg : g / 2 ^ 25 = tile) : g ∉ (s.zeroStack tile).written := by
  intro h
  have := (List.mem_filter.mp h).2
  exact absurd hg (of_decide_eq_true this)

/-- The part once a stack is filled. -/
def State.filled (s : State) (tile ms : Nat) : State :=
  ((s.zeroStack tile).wrs [(K.fillStatus tile, 2), (K.stackState tile, 2)]).setBoot 15 0 (min ms 65535)

theorem State.filled_only (s : State) (tile ms : Nat) : ∃ v, s.filled tile ms =
    (((s.zeroStack tile).wr (K.fillStatus tile) 2).wr (K.stackState tile) 2).wr K.bootStatus v ∧ v = setFld (s.rd K.bootStatus) 15 0 (min ms 65535) := by
  refine ⟨_, rfl, ?_⟩
  rw [State.wrs_cons, State.wrs_cons, State.wrs_nil, State.rd_wr_other _ _ _ _ (by simp only [ek, ne_eq]; omega),
    State.rd_wr_other _ _ _ _ (by simp only [ek, ne_eq]; omega)]
  rfl

theorem State.filled_regs (s : State) (tile ms : Nat) (_ : tile < 36) :
    (s.filled tile ms).rd (K.fillStatus tile) = 2 ∧ (s.filled tile ms).rd (K.stackState tile) = 2 ∧
    (s.filled tile ms).rd K.bootStatus = setFld (s.rd K.bootStatus) 15 0 (min ms 65535) ∧
    s.RegsBut (s.filled tile ms) [K.fillStatus tile, K.stackState tile, K.bootStatus] := by
  obtain ⟨v, hv, hval⟩ := s.filled_only tile ms
  rw [hv]
  refine ⟨?_, ?_, ?_, ?_⟩
  · rw [State.rd_wr_other _ _ _ _ (by simp only [ek, ne_eq]; omega), State.rd_wr_other _ _ _ _ (by simp only [ek, ne_eq]; omega), State.rd_wr_same]
  · rw [State.rd_wr_other _ _ _ _ (by simp only [ek, ne_eq]; omega), State.rd_wr_same]
  · rw [State.rd_wr_same, hval]
  · exact (((State.RegsBut.of_regs rfl rfl).wr (by simp)).wr (by simp)).wr (by simp)

theorem State.filled_byteAt (s : State) (tile ms a : Nat) : (s.filled tile ms).byteAt a = (s.zeroStack tile).byteAt a := rfl

theorem mem_defaultInService {f : Fuses} {x : Nat} (h : x ∈ defaultInService f) : x < 36 :=
  List.mem_range.mp (List.mem_filter.mp h).1

/-- The other tiles' fills, and the tiles barred from leading, are as they were. -/
theorem State.filled_fillStatus (s : State) (ms : Nat) {tile x : Nat} (ht : tile < 36) (_ : x < 36) (hne : x ≠ tile) :
    (s.filled tile ms).rd (K.fillStatus x) = s.rd (K.fillStatus x) :=
  (s.filled_regs tile ms ht).2.2.2 _ (by simp only [List.mem_cons, List.not_mem_nil, or_false, ek]; omega)

theorem State.filled_eligible (s : State) (tile ms : Nat) (ht : tile < 36) : (s.filled tile ms).eligibleLead = s.eligibleLead := by
  refine State.eligibleLead_congr rfl ((s.filled_regs tile ms ht).2.2.2 _ ?_)
  simp only [List.mem_cons, List.not_mem_nil, or_false, ek]
  omega

/-- FILL_COMPLETE at a boot: the core is released when it is the last fill. -/
theorem execFillComplete_boot (hr : s.boot.released = false) (hf : s.rd (K.fillStatus tile) = 1) : execFillComplete tile ms s = .next
    (if (s.filled tile ms).allFilled && (s.filled tile ms).eligibleLead then (s.filled tile ms).releaseCore else s.filled tile ms) := by
  refine congrArg Host.Outcome.next ((if_pos (by simp [hf, hr])).trans ?_)
  have hb : (s.filled tile ms).boot.released = false := hr
  exact if_neg fun h => absurd (hb.symm.trans h) (by decide)

end

/-! ### Stacks lost at the release (R475) -/

/-- `w` is `s` after losses of stacks while no relocation runs. -/
structure State.Losing (s w : State) : Prop where
  only : ∃ stackTab regs cont, w = { s with stackTab := stackTab, regs := regs, cont := cont }
  noReloc : w.cont.reloc = none
  lost : ∀ t, (s.stack t).lost = true → (w.stack t).lost = true
  boot : w.rd K.bootStatus = s.rd K.bootStatus

namespace State.Losing

variable {s w v : State}

theorem trans (h : s.Losing w) (g : w.Losing v) : s.Losing v := by
  obtain ⟨⟨_, _, _, hw⟩, _, hl, hb⟩ := h
  obtain ⟨⟨_, _, _, gw⟩, gn, gl, gb⟩ := g
  exact ⟨⟨_, _, _, by rw [gw, hw]⟩, gn, fun t ht => gl t (hl t ht), gb.trans hb⟩

theorem wr (h : s.Losing w) {k : Nat} (v : Nat) (hk : K.bootStatus ≠ k) : s.Losing (w.wr k v) := by
  obtain ⟨⟨_, _, _, hw⟩, hn, hl, hb⟩ := h
  exact ⟨⟨_, _, _, by rw [hw]; rfl⟩, hn, hl, (State.rd_wr_other _ _ _ _ hk).trans hb⟩

theorem trigger (h : s.Losing w) (slot kind : Nat) : s.Losing (w.trigger slot kind) := by
  unfold State.trigger
  obtain ⟨⟨_, _, _, hw⟩, hn, hl, hb⟩ := h
  split
  · exact ⟨⟨_, _, _, hw⟩, hn, hl, hb⟩
  · exact ⟨⟨_, _, _, by rw [hw]; rfl⟩, hn, hl, hb⟩

theorem showDegraded (h : s.Losing w) : s.Losing w.showDegraded := by
  unfold State.showDegraded
  extract_lets lost
  generalize List.range 64 = l
  have step (l : List Nat) : ∀ w, s.Losing w → s.Losing (l.foldl (fun s p => s.wr (K.continuityState p) (if lost then s.mirroredOf p else 0)) w) := by
    induction l with
    | nil => exact fun w h => h
    | cons p l ih => exact fun w h => ih _ (h.wr _ (by simp only [ek, ne_eq]; omega))
  exact step l w h

end State.Losing

theorem State.stackLost_losing {s : State} (hn : s.cont.reloc = none) (t : Nat) :
    s.Losing (s.stackLost t) ∧ ((s.stackLost t).stack t).lost = true := by
  let u := (s.updStack t (fun k => { k with lost := true, queue := [] })).count (K.continuityCounts 3) 1
  have hu : s.Losing u ∧ (u.stack t).lost = true := by
    have hself : (u.stack t).lost = true := congrArg Stack.lost (State.stack_setStack ..)
    refine ⟨⟨⟨_, _, _, rfl⟩, hn, fun x hx => ?_, State.rd_count_other _ _ _ _ (by decide)⟩, hself⟩
    by_cases hxt : x = t
    · subst hxt
      exact hself
    · exact (congrArg Stack.lost (State.stack_setStack_other _ _ _ _ hxt)).trans hx
  obtain ⟨hat, hself⟩ := hu
  have hshown (slot : Nat) : u.Losing (((u.wr (K.slotState slot) 2).trigger slot 4).showDegraded) := by
    have h0 : u.Losing u := ⟨⟨_, _, _, rfl⟩, hat.noReloc, fun _ h => h, rfl⟩
    exact ((h0.wr 2 (by simp only [ek, ne_eq]; omega)).trigger slot 4).showDegraded
  have hnu : u.cont.reloc = none := hn
  have heq : s.stackLost t = u ∨ ∃ slot, s.stackLost t = ((u.wr (K.slotState slot) 2).trigger slot 4).showDegraded := by
    unfold State.stackLost
    dsimp only
    split
    · next h => exact absurd (hnu.symm.trans h) (by simp)
    · split
      · exact .inr ⟨_, rfl⟩
      · exact .inl rfl
  rcases heq with h | ⟨slot, h⟩
  · rw [h]
    exact ⟨hat, hself⟩
  · rw [h]
    exact ⟨hat.trans (hshown slot), (hshown slot).lost t hself⟩

theorem State.stacksLost {t : Nat} (l : List Nat) : ∀ s : State, s.cont.reloc = none →
    s.Losing (l.foldl (fun s t => s.stackLost t) s) ∧ (t ∈ l → ((l.foldl (fun s t => s.stackLost t) s).stack t).lost = true) := by
  induction l with
  | nil => exact fun s hn => ⟨⟨⟨_, _, _, rfl⟩, hn, fun _ h => h, rfl⟩, fun h => absurd h List.not_mem_nil⟩
  | cons x l ih =>
    intro s hn
    obtain ⟨hx, hself⟩ := State.stackLost_losing hn x
    obtain ⟨hl, hmem⟩ := ih (s.stackLost x) hx.noReloc
    refine ⟨hx.trans hl, fun ht => ?_⟩
    rcases List.mem_cons.mp ht with rfl | ht
    · exact hl.lost t hself
    · exact hmem ht

/-- Settles O56: a fill's own effect, then the release as `allFilled` decides, or the losses that the timeout finds. -/
theorem fillAndRelease : Obligations.FillAndRelease := by
  unfold Obligations.FillAndRelease
  intro s tile ms ht hl hr
  refine ⟨?start, ?one, ?last, ?timeout⟩
  case start =>
    intro h0 hmem
    have hmay : s.mayFill tile = true := by
      unfold State.mayFill
      simp [h0, hl, hr, hmem]
    refine congrArg Host.Outcome.next ((if_pos hmay).trans ?_)
    have hb : ((s.freshStack tile).wrs [(K.stackState tile, 1), (K.fillStatus tile, 1)]).boot.released = false := hr
    refine (if_neg fun h => absurd (hb.symm.trans h) (by decide)).trans ?_
    unfold State.setBoot
    rw [State.wrs_cons, State.wrs_cons, State.wrs_nil]
    have hb : (((s.freshStack tile).wr (K.stackState tile) 1).wr (K.fillStatus tile) 1).rd K.bootStatus = s.rd K.bootStatus := by
      rw [State.rd_wr_other _ _ _ _ (by simp only [ek, ne_eq]; omega), State.rd_wr_other _ _ _ _ (by simp only [ek, ne_eq]; omega)]
      rfl
    dsimp only
    rw [hb]
  case one =>
    intro h1 ⟨x, hx, hne, h2⟩
    obtain ⟨hfill, hstack, -, hregs⟩ := s.filled_regs tile ms ht
    have hall : (s.filled tile ms).allFilled = false := by
      refine List.all_eq_false.mpr ⟨x, hx, ?_⟩
      rw [s.filled_fillStatus ms ht (mem_defaultInService hx) hne]
      simpa using h2
    have hex := execFillComplete_boot (ms := ms) hr h1
    rw [hall, Bool.false_and, if_neg (by decide)] at hex
    refine ⟨_, hex, hfill, hstack, fun a ha => ?_, fun a ha => ?_, fun g hg => State.not_mem_written_zeroStack hg, rfl, hregs⟩
    · rw [s.filled_byteAt, s.byteAt_zeroStack, if_neg (by simpa using ha)]
    · rw [s.filled_byteAt, s.byteAt_zeroStack, if_pos ha]
  case last =>
    intro h1 he hothers
    obtain ⟨hfill, -, hboot, -⟩ := s.filled_regs tile ms ht
    have hall : (s.filled tile ms).allFilled = true := by
      refine List.all_eq_true.mpr fun x hx => decide_eq_true ?_
      by_cases hxt : x = tile
      · rw [hxt]
        exact hfill
      · exact (s.filled_fillStatus ms ht (mem_defaultInService hx) hxt).trans (hothers x hx hxt)
    have hex := execFillComplete_boot (ms := ms) hr h1
    rw [hall, s.filled_eligible tile ms ht, he, Bool.true_and, if_pos rfl] at hex
    have hstatus : (s.filled tile ms).releaseCore.rd K.bootStatus = setFld (setFld (s.rd K.bootStatus) 15 0 (min ms 65535)) 31 28 5 := by
      rw [← hboot]
      exact State.rd_wr_same ..
    refine ⟨_, hex, rfl, ?_, ?_, fun a ha => ?_⟩
    · rw [hstatus]
      exact fld_setFld_same ..
    · rw [hstatus, fld_low_setFld_step, fld_setFld_same]
      exact Nat.mod_eq_of_lt (by omega)
    · exact (s.byteAt_zeroStack tile a).trans (if_neg (by simpa using ha))
  case timeout =>
    intro he hn hmem h2
    have hall : s.allFilled = false := List.all_eq_false.mpr ⟨tile, hmem, by simpa using h2⟩
    let u := s.releaseCore.bootFault 3
    have hu : u.rd K.bootStatus = setFld (setFld (s.rd K.bootStatus) 31 28 5) 27 24 11 := by
      refine (State.rd_wr_same ..).trans ?_
      exact congrArg (setFld · 27 24 11) (State.rd_wr_same ..)
    obtain ⟨hlose, hlost⟩ := State.stacksLost (t := tile) ((defaultInService s.fuses).filter (fun t => s.rd (K.fillStatus t) ≠ 2)) u hn
    obtain ⟨⟨_, _, _, honly⟩, -, -, hboot⟩ := hlose
    refine ⟨_, congrArg Host.Outcome.next (if_pos ⟨hl, by simp [hr], he, by simp [hall]⟩), ?_, ?_, hlost ?_, ?_⟩
    · rw [honly]
      rfl
    · rw [hboot, hu]
      exact fld_step_fault _ _ _ (by decide) (by decide)
    · exact List.mem_filter.mpr ⟨hmem, decide_eq_true h2⟩
    · rw [honly]
      rfl

end Sys2Proof.Machine


/-! Stack controllers: bursts, refresh, throttles, power-down, loss (08 R191 to R199, 10 R234). -/

namespace Sys2Proof.Machine

/-! ### The record of a stack under the state's updates -/

@[simp] theorem State.stack_updStack (s : State) (t : Nat) (f : Stack → Stack) : (s.updStack t f).stack t = f (s.stack t) :=
  State.stack_setStack ..
@[simp] theorem State.stack_wr (s : State) (k v t : Nat) : (s.wr k v).stack t = s.stack t := rfl
@[simp] theorem State.stack_count (s : State) (k n t : Nat) : (s.count k n).stack t = s.stack t := rfl
@[simp] theorem State.stack_meterAdd (s : State) (p f n t : Nat) : (s.meterAdd p f n).stack t = s.stack t := rfl
@[simp] theorem State.stack_at (s : State) (x t : Nat) : (s.at x).stack t = s.stack t := rfl
@[simp] theorem State.rd_updStack (s : State) (t : Nat) (f : Stack → Stack) (k : Nat) : (s.updStack t f).rd k = s.rd k := rfl
@[simp] theorem State.rd_setStack (s : State) (t : Nat) (v : Stack) (k : Nat) : (s.setStack t v).rd k = s.rd k := rfl

@[simp] theorem State.rd_meterAdd (s : State) (p f n k : Nat) : (s.meterAdd p f n).rd k = s.rd k := rfl

/-- `w` differs from `s` in stacks, live elements and meters at most. -/
def State.Restacked (s w : State) : Prop := ∃ stackTab regs meter, w = { s with stackTab := stackTab, regs := regs, meter := meter }

namespace State.Restacked

variable {s w : State}

theorem refl (s : State) : s.Restacked s := ⟨_, _, _, rfl⟩
theorem setStack (h : s.Restacked w) (t : Nat) (k : Stack) : s.Restacked (w.setStack t k) := by
  obtain ⟨_, _, _, rfl⟩ := h
  exact ⟨_, _, _, rfl⟩
theorem updStack (h : s.Restacked w) (t : Nat) (f : Stack → Stack) : s.Restacked (w.updStack t f) := h.setStack ..
theorem wr (h : s.Restacked w) (k v : Nat) : s.Restacked (w.wr k v) := by
  obtain ⟨_, _, _, rfl⟩ := h
  exact ⟨_, _, _, rfl⟩
theorem count (h : s.Restacked w) (k n : Nat) : s.Restacked (w.count k n) := h.wr ..
theorem meterAdd (h : s.Restacked w) (p f n : Nat) : s.Restacked (w.meterAdd p f n) := by
  obtain ⟨_, _, _, rfl⟩ := h
  exact ⟨_, _, _, rfl⟩
theorem eq (h : s.Restacked w) : w = { s with stackTab := w.stackTab, regs := w.regs, meter := w.meter } := by
  obtain ⟨_, _, _, rfl⟩ := h
  rfl

end State.Restacked

section
variable {s : State} {tile pc bank t : Nat}

/-! ### Bursts (R191) -/

theorem State.chargeBurst_queue (s : State) (t : Nat) (b : Burst) (act : Bool) : ((s.chargeBurst t b act).stack t).queue = (s.stack t).queue := by
  unfold State.chargeBurst
  cases b.part with
  | none => cases act <;> rfl
  | some p => cases act <;> simp only [Bool.false_eq_true, if_false, if_true, State.stack_meterAdd, State.stack_updStack]

theorem State.fixDone_queue (s : State) (t : Nat) (b : Burst) : ((s.fixDone t b).stack t).queue = (s.stack t).queue := by
  unfold State.fixDone
  dsimp only
  split
  · exact (congrArg Stack.queue (State.stack_updStack ..)).trans rfl
  · rfl

/-- An issued burst leaves the queue, and nothing else does. -/
theorem State.issue_queue (s : State) (t : Nat) (b : Burst) (rotate : Bool) :
    ((s.issue t b rotate).stack t).queue = (s.stack t).queue.erase b := by
  unfold State.issue
  dsimp only
  rw [State.fixDone_queue]
  split <;> simp only [State.stack_count, State.setBank, State.stack_updStack, State.chargeBurst_queue, dropBurst]

theorem State.followDrain_queue (s : State) (t pc : Nat) : ((s.followDrain t pc).stack t).queue = (s.stack t).queue :=
  (congrArg Stack.queue (State.stack_updStack ..)).trans rfl

theorem State.byteAt_of_issued {w : State} (h : s.Issued w) (a : Nat) : w.byteAt a = s.byteAt a := by
  obtain ⟨_, _, _, _, rfl⟩ := h
  rfl

theorem State.followDrain_issued (s : State) (t pc : Nat) : s.Issued (s.followDrain t pc) := ⟨_, _, _, _, rfl⟩

/-! ### Targeted refreshes (R197) -/

/-- The entry of the hammer log for row `x`. -/
def State.hammerEntry (s : State) (pc bank x : Nat) : Nat :=
  s.rowTag bank x * 2 ^ 48 + pc * 2 ^ 43 + bank * 2 ^ 37 + x % 2 ^ 15 * 2 ^ 22 + s.frame % 2 ^ 22

/-- The part after the targeted refresh of row `x`, which belongs to partition `p`. -/
def State.refreshed (s : State) (tile pc bank x p : Nat) (rest : List Nat) : State :=
  ((((((s.setBank tile pc bank { s.bank tile pc bank with targets := rest, row := none, hits := 0 }).updStack tile (fun q => { q with
    down := q.down.filter (· ≠ pc) })).updStack tile (fun q => { q with hammerLog := keepLast 64 (q.hammerLog ++ [s.hammerEntry pc bank x]) })).count
    (K.stackCounts tile 4) 1).updStack tile (fun q => { q with hammered := Tab.set q.hammered p (Tab.getD q.hammered p 0 + 1) })).meterAdd p
    Mt.hammer 1)

theorem State.refreshed_stack (s : State) (tile pc bank x p : Nat) (rest : List Nat) : (s.refreshed tile pc bank x p rest).stack tile =
    { s.stack tile with
      banks := Tab.set (s.stack tile).banks (pc * 48 + bank) { s.bank tile pc bank with targets := rest, row := none, hits := 0 }
      down := (s.stack tile).down.filter (· ≠ pc), hammerLog := keepLast 64 ((s.stack tile).hammerLog ++ [s.hammerEntry pc bank x])
      hammered := Tab.set (s.stack tile).hammered p (Tab.getD (s.stack tile).hammered p 0 + 1) } := by
  unfold State.refreshed
  rw [State.stack_meterAdd, State.stack_updStack, State.stack_count, State.stack_updStack, State.stack_updStack, State.setBank,
    State.stack_updStack]

theorem execTargetedRefresh_effect {x : Nat} {rest : List Nat} (hx : (s.bank tile pc bank).targets = x :: rest) (hd : s.domainsOn tile = true)
    (hmay : s.systemMay bank t = true) (htag : s.rowTag bank x ≠ 0) :
    ∃ w : State, exec (.targetedRefresh tile pc bank t) s = .next w ∧
      w.bank tile pc bank = { s.bank tile pc bank with targets := rest, row := none, hits := 0 } ∧
      Tab.getD (w.stack tile).hammered (handlePart (s.rowTag bank x)) 0 = Tab.getD (s.stack tile).hammered (handlePart (s.rowTag bank x)) 0 + 1 ∧
      (w.stack tile).hammerLog = keepLast 64 ((s.stack tile).hammerLog ++ [s.hammerEntry pc bank x]) ∧
      w.meterOf (handlePart (s.rowTag bank x)) Mt.hammer = s.meterOf (handlePart (s.rowTag bank x)) Mt.hammer + 1 ∧
      s.RegsBut w [K.stackCounts tile 4] ∧ w = { s.at t with stackTab := w.stackTab, regs := w.regs, meter := w.meter } := by
  have hex : exec (.targetedRefresh tile pc bank t) s = .next ((s.at t).refreshed tile pc bank x (handlePart (s.rowTag bank x)) rest) := by
    have hx' : ((s.at t).bank tile pc bank).targets = x :: rest := hx
    have hd' : ((s.at t).domainsOn tile && (s.at t).systemMay bank t) = true := by
      rw [show (s.at t).domainsOn tile = true from hd, show (s.at t).systemMay bank t = true from hmay]
      rfl
    refine congrArg Host.Outcome.next ?_
    rw [hx']
    dsimp only
    rw [if_pos hd', if_neg (show (s.at t).rowTag bank x ≠ 0 from htag)]
    rfl
  have hst := (s.at t).refreshed_stack tile pc bank x (handlePart (s.rowTag bank x)) rest
  refine ⟨_, hex, ?_, ?_, ?_, ?_, ?_, ?_⟩
  · rw [State.bank, hst]
    exact Tab.getD_set_same ..
  · rw [hst]
    exact Tab.getD_set_same ..
  · rw [hst]
    rfl
  · exact Tab.getD_set_same ..
  · intro k hk
    unfold State.refreshed
    rw [State.rd_meterAdd, State.rd_updStack, State.rd_count_other _ _ _ _ (by simpa using hk), State.rd_updStack, State.rd_updStack]
    rfl
  · exact ((((((State.Restacked.refl (s.at t)).updStack _ _).updStack _ _).updStack _ _).count _ _).updStack _ _ |>.meterAdd _ _ _).eq

/-! ### Throttles (R198) -/

/-- The activations of a partition after its cut in the pseudo-channels of a list. -/
def cutActs (p : Nat) (new : Nat → Nat) (l : List Nat) (a : Tab Nat) : Tab Nat := l.foldl (fun a c => Tab.set a (p * 32 + c) (new c)) a

theorem cutActs_getD (p : Nat) (new : Nat → Nat) {c : Nat} {l : List Nat} (h : c ∈ l) : ∀ a : Tab Nat,
    Tab.getD (cutActs p new l a) (p * 32 + c) 0 = new c := by
  have keeps (l : List Nat) : ∀ a : Tab Nat, Tab.getD a (p * 32 + c) 0 = new c → Tab.getD (cutActs p new l a) (p * 32 + c) 0 = new c := by
    induction l with
    | nil => exact fun a h => h
    | cons x l ih =>
      intro a ha
      refine ih _ ?_
      rw [Tab.getD_set]
      split
      · next hx => rw [show c = x by omega]
      · exact ha
  induction l with
  | nil => cases h
  | cons x l ih =>
    intro a
    rcases List.mem_cons.mp h with rfl | h
    · exact keeps l _ (Tab.getD_set_same ..)
    · exact ih h _

/-- HAMMER_THROTTLE_START: the activations left are scaled by the throttle. -/
theorem execHammerThrottleStart_effect {p : Nat} (hp : p < 64) (hd : s.domainsOn tile = true)
    (hl : s.eff (K.hammerEventLimit tile) ≤ Tab.getD (s.stack tile).hammered p 0) (hth : s.rd (K.throttled tile p) ≠ 2) :
    execHammerThrottleStart tile p s = .next (((s.setStack tile { s.stack tile with
      actUsed := cutActs p (fun c => (s.stack tile).acts p c + ((s.pcBudget tile c p).2 - (s.stack tile).acts p c -
        ((s.pcBudget tile c p).2 - (s.stack tile).acts p c) * s.eff (K.hammerThrottle tile) / 256)) (List.range 32) (s.stack tile).actUsed
      throttleEnd := Tab.set (s.stack tile).throttleEnd p (s.frame + 2) }).wr (K.throttled tile p) 2).count (K.stackCounts tile 5) 1) :=
  congrArg Host.Outcome.next (if_pos ⟨hd, hl, hth, hp⟩)

/-! ### Losses (10 R234) -/

theorem State.slotOfTile_lt {slot : Nat} (h : s.slotOfTile tile = some slot) : slot < 32 :=
  List.mem_range.mp (List.mem_of_find?_eq_some h)

theorem find?_congr_mem {α : Type} {p q : α → Bool} {l : List α} (h : ∀ x ∈ l, p x = q x) : l.find? p = l.find? q := by
  induction l with
  | nil => rfl
  | cons x l ih =>
    rw [List.find?_cons, List.find?_cons, h x List.mem_cons_self, ih (fun y hy => h y (List.mem_cons_of_mem _ hy))]

theorem State.slotOfTile_congr {w : State} (h : ∀ i, i < 32 → w.rd (K.slotMap i) = s.rd (K.slotMap i)) (t : Nat) :
    w.slotOfTile t = s.slotOfTile t := by
  unfold State.slotOfTile
  refine find?_congr_mem fun i hi => ?_
  rw [State.tileAt, State.tileAt, h i (List.mem_range.mp hi)]

theorem State.trigger_effect (s : State) (slot kind : Nat) : ∃ cont, s.trigger slot kind = { s with cont := cont } ∧ (slot, kind) ∈ cont.triggers := by
  unfold State.trigger
  by_cases h : s.cont.triggers.contains (slot, kind) = true
  · rw [if_pos h]
    exact ⟨s.cont, rfl, by simpa using h⟩
  · rw [if_neg h]
    exact ⟨_, rfl, List.mem_append_right _ List.mem_cons_self⟩

/-- Degradation is shown in CONTINUITY_STATE alone. -/
theorem State.showDegraded_effect (s : State) : (∃ regs, s.showDegraded = { s with regs := regs }) ∧
    s.RegsBut s.showDegraded ((List.range 64).map K.continuityState) := by
  unfold State.showDegraded
  extract_lets lost
  have step (l : List Nat) (hl : ∀ p ∈ l, p < 64) : ∀ w : State, (∃ regs, w = { s with regs := regs }) ∧
      s.RegsBut w ((List.range 64).map K.continuityState) →
      (∃ regs, l.foldl (fun s p => s.wr (K.continuityState p) (if lost then s.mirroredOf p else 0)) w = { s with regs := regs }) ∧
      s.RegsBut (l.foldl (fun s p => s.wr (K.continuityState p) (if lost then s.mirroredOf p else 0)) w)
        ((List.range 64).map K.continuityState) := by
    induction l with
    | nil => exact fun w h => h
    | cons p l ih =>
      rintro _ ⟨⟨_, rfl⟩, hr⟩
      exact ih (fun x hx => hl x (List.mem_cons_of_mem _ hx)) _
        ⟨⟨_, rfl⟩, hr.wr (List.mem_map_of_mem (List.mem_range.mpr (hl p List.mem_cons_self)))⟩
  exact step _ (fun p hp => List.mem_range.mp hp) s ⟨⟨_, rfl⟩, State.RegsBut.refl _ _⟩

/-- A stack in service is lost while no relocation runs. -/
theorem State.stackLost_noReloc {slot : Nat} (hn : s.cont.reloc = none) (hs : s.slotOfTile tile = some slot) :
    ((s.stackLost tile).stack tile).lost = true ∧ ((s.stackLost tile).stack tile).queue = [] ∧ (s.stackLost tile).rd (K.slotState slot) = 2 ∧
    (slot, 4) ∈ (s.stackLost tile).cont.triggers ∧
    s.stackLost tile = { s with stackTab := (s.stackLost tile).stackTab, regs := (s.stackLost tile).regs, cont := (s.stackLost tile).cont } := by
  let u := (s.updStack tile (fun k => { k with lost := true, queue := [] })).count (K.continuityCounts 3) 1
  have hslot : u.slotOfTile tile = some slot := by
    refine (State.slotOfTile_congr (fun i hi => ?_) tile).trans hs
    exact State.rd_count_other _ _ _ _ (by simp only [ek, ne_eq]; omega)
  have hnu : u.cont.reloc = none := hn
  have heq : s.stackLost tile = ((u.wr (K.slotState slot) 2).trigger slot 4).showDegraded := by
    unfold State.stackLost
    dsimp only
    split
    · next h => exact absurd (hnu.symm.trans h) (by simp)
    · split
      · next h =>
        obtain rfl := Option.some.inj (hslot.symm.trans h)
        rfl
      · next h => exact absurd (hslot.symm.trans h) (by simp)
  have hstack : u.stack tile = { s.stack tile with lost := true, queue := [] } := State.stack_setStack ..
  obtain ⟨cont, htrig, hmem⟩ := (u.wr (K.slotState slot) 2).trigger_effect slot 4
  obtain ⟨⟨regs, hshow⟩, hregs⟩ := ((u.wr (K.slotState slot) 2).trigger slot 4).showDegraded_effect
  have hst : (((u.wr (K.slotState slot) 2).trigger slot 4).showDegraded).rd (K.slotState slot) = 2 := by
    refine (hregs _ ?_).trans ?_
    · intro h
      obtain ⟨p, hp, he⟩ := List.mem_map.mp h
      have := s.slotOfTile_lt hs
      have := List.mem_range.mp hp
      simp only [ek] at he
      omega
    · rw [htrig]
      exact State.rd_wr_same ..
  rw [heq]
  refine ⟨?_, ?_, hst, ?_, ?_⟩
  · rw [hshow, htrig]
    exact congrArg Stack.lost hstack
  · rw [hshow, htrig]
    exact congrArg Stack.queue hstack
  · rw [hshow, htrig]
    exact hmem
  · rw [hshow, htrig]
    rfl

end

/-- Settles O39: each command in the branch that its conditions choose. -/
theorem stackCommands : Obligations.StackCommands := by
  unfold Obligations.StackCommands
  intro s tile pc bank t ht hpc hbank
  refine ⟨?pick, ?refresh, ?targeted, ?throttle, ?throttleEnd, ?down, ?lost⟩
  case pick =>
    intro k ready b hst hk hre hb
    refine ⟨_, congrArg Host.Outcome.next ((if_pos ⟨hst, hk, hre⟩).trans ?_), ?_, rfl, State.byteAt_of_issued ?_⟩
    · dsimp only
      rw [hb]
      rfl
    · rw [State.followDrain_queue, State.issue_queue, State.followDrain_queue]
    · exact ((s.followDrain_issued tile pc).trans (State.issue_issued ..)).trans (State.followDrain_issued ..)
  case refresh =>
    intro hd hst hre hmay b
    refine congrArg Host.Outcome.next ((if_pos ⟨hd, hst, hbank, hre, hmay⟩).trans ?_)
    by_cases hp : b.pass + 1 = 2752
    · rw [if_pos hp]
      exact congrArg (fun k : Bank => (((s.at t).setBank tile pc bank k).updStack tile (fun x => { x with
        down := x.down.filter (· ≠ pc) })).count (K.stackCounts tile 3) 1) (if_pos hp)
    · rw [if_neg hp]
      exact congrArg (fun k : Bank => (((s.at t).setBank tile pc bank k).updStack tile (fun x => { x with
        down := x.down.filter (· ≠ pc) })).count (K.stackCounts tile 3) 1) (if_neg hp)
  case targeted =>
    intro x rest hx hd hmay htag p
    obtain ⟨w, hw, hbank, hham, hlog, hmeter, hregs, honly⟩ := execTargetedRefresh_effect (t := t) hx hd hmay htag
    exact ⟨w, hw, hbank, hham, hmeter, hlog, hregs, honly⟩
  case throttle =>
    intro p hp hd hl hth
    refine ⟨_, execHammerThrottleStart_effect hp hd hl hth, ?_, ?_, fun c hc hle hcut => ?_, ?_, ?_⟩
    · rw [State.rd_count_other _ _ _ _ (by simp only [ek, ne_eq]; omega), State.rd_wr_same]
    · rw [State.stack_count, State.stack_wr, State.stack_setStack]
      exact Tab.find_set_same ..
    · rw [State.stack_count, State.stack_wr, State.stack_setStack, Stack.acts, cutActs_getD p _ (List.mem_range.mpr hc)]
      have hle' : ((s.pcBudget tile c p).2 - (s.stack tile).acts p c) * s.eff (K.hammerThrottle tile) / 256 ≤
          (s.pcBudget tile c p).2 - (s.stack tile).acts p c := by
        refine Nat.div_le_of_le_mul ?_
        rw [Nat.mul_comm]
        exact Nat.mul_le_mul_right _ hcut
      omega
    · exact ((State.RegsBut.of_regs rfl rfl).wr (by simp)).count (by simp)
    · rw [(((((State.Restacked.refl s).setStack _ _).wr _ _).count _ _)).eq]
      rfl
  case throttleEnd =>
    intro p f hf
    have hex : exec (.hammerThrottleEnd tile p) s = .next (s.throttleEnds tile p) := rfl
    rw [hex]
    unfold State.throttleEnds
    rw [hf]
    exact ⟨fun hle => congrArg Host.Outcome.next (if_pos hle), fun hlt => congrArg Host.Outcome.next (if_neg (by omega))⟩
  case down =>
    intro hd hst hns hdown hq hrow howed
    refine congrArg Host.Outcome.next (if_pos ⟨hd, hst, ?_, ?_, ?_, ?_, ?_⟩)
    · exact List.all_eq_true.mpr fun b hb => decide_eq_true (howed b (List.mem_range.mp hb))
    · have : (s.at t).anySealed = false := hns
      rw [this]
      rfl
    · simpa using hdown
    · simpa using hq
    · exact List.all_eq_true.mpr fun b hb => decide_eq_true (hrow b (List.mem_range.mp hb))
  case lost =>
    intro slot hbad hl hn hslot
    exact ⟨_, congrArg Host.Outcome.next (if_pos ⟨hbad, by rw [hl]; rfl⟩), State.stackLost_noReloc hn hslot⟩

end Sys2Proof.Machine


/-! Training and retraining of a stack (08 R200, R201). -/

namespace Sys2Proof.Machine

/-! ### Elements written from a list -/

theorem getD_of_lt {α : Type} (l : List α) (d : α) {i : Nat} (h : i < l.length) : l.getD i d = l[i] := by
  rw [List.getD_eq_getElem?_getD, List.getElem?_eq_getElem h]
  rfl

/-- Writes of one value per element: an element that one of them names, or that had its value, has it. -/
theorem State.rd_wrs_map {α : Type} (f g : α → Nat) (x : α) (l : List α) (hf : ∀ y ∈ l, f y = f x → g y = g x) : ∀ s : State,
    s.rd (f x) = g x ∨ x ∈ l → (s.wrs (l.map (fun y => (f y, g y)))).rd (f x) = g x := by
  induction l with
  | nil => exact fun s h => h.resolve_right List.not_mem_nil
  | cons y l ih =>
    intro s h
    rw [List.map_cons, State.wrs_cons]
    refine ih (fun z hz => hf z (List.mem_cons_of_mem _ hz)) _ ?_
    by_cases hxy : f x = f y
    · left
      rw [hxy, State.rd_wr_same]
      exact hf y List.mem_cons_self hxy.symm
    · rcases h with h | h
      · left
        rw [State.rd_wr_other _ _ _ _ hxy]
        exact h
      · right
        exact (List.mem_cons.mp h).resolve_left fun e => hxy (congrArg f e)

section
variable {s : State} {tile pc dur : Nat} {errs : List Nat} {mid : Option Nat}

/-! ### A training step ends (R200) -/

/-- The part once a training step has shown its status and errors. -/
def State.stepShown (s : State) (tile : Nat) (errs : List Nat) (status : Nat) : State :=
  ((s.wr (K.trainCtrl tile) (s.rd (K.trainCtrl tile) - 2 ^ 31)).wr (K.trainStatus tile) status).wrs
    ((List.range 72).map (fun i => (K.trainErrors tile i, errs.getD i 0 % 2 ^ 32)))

/-- The elements that show a training step. -/
def stepElements (tile : Nat) : List Nat := [K.trainCtrl tile, K.trainStatus tile] ++ (List.range 72).map (K.trainErrors tile)

theorem State.stepShown_effect (s : State) (tile : Nat) (errs : List Nat) (status : Nat) :
    (s.stepShown tile errs status).rd (K.trainCtrl tile) = s.rd (K.trainCtrl tile) - 2 ^ 31 ∧
    (s.stepShown tile errs status).rd (K.trainStatus tile) = status ∧
    (∀ i, i < 72 → (s.stepShown tile errs status).rd (K.trainErrors tile i) = errs.getD i 0 % 2 ^ 32) ∧
    s.RegsBut (s.stepShown tile errs status) (stepElements tile) ∧ ∃ regs, s.stepShown tile errs status = { s with regs := regs } := by
  unfold State.stepShown
  refine ⟨?_, ?_, fun i hi => ?_, ?_, ?_⟩
  · rw [State.rd_wrs_other, State.rd_wr_other _ _ _ _ (by simp only [ek, ne_eq]; omega), State.rd_wr_same]
    intro e he
    obtain ⟨i, hi, rfl⟩ := List.mem_map.mp he
    have := List.mem_range.mp hi
    simp only [ek, ne_eq]
    omega
  · rw [State.rd_wrs_other, State.rd_wr_same]
    intro e he
    obtain ⟨i, hi, rfl⟩ := List.mem_map.mp he
    have := List.mem_range.mp hi
    simp only [ek, ne_eq]
    omega
  · refine State.rd_wrs_map (K.trainErrors tile) (fun i => errs.getD i 0 % 2 ^ 32) i (List.range 72) (fun j _ h => ?_) _
      (.inr (List.mem_range.mpr hi))
    rw [show j = i by simp only [ek] at h; omega]
  · refine State.RegsBut.wrs _ (((State.RegsBut.refl s _).wr (by simp [stepElements])).wr (by simp [stepElements])) fun e he => ?_
    obtain ⟨i, hi, rfl⟩ := List.mem_map.mp he
    exact List.mem_append_right _ (List.mem_map_of_mem hi)
  · generalize (List.range 72).map (fun i => (K.trainErrors tile i, errs.getD i 0 % 2 ^ 32)) = l
    rw [State.wrs_only l]
    exact ⟨_, rfl⟩

/-- A pseudo-channel has completed its training. -/
theorem State.trainedPc_effect (s : State) (tile pc : Nat) : pc ∈ ((s.trainedPc tile pc).stack tile).trained ∧
    (((s.trainedPc tile pc).stack tile).trained.length = 32 → (s.trainedPc tile pc).rd (K.stackState tile) = 3) ∧
    s.RegsBut (s.trainedPc tile pc) [K.stackState tile, K.bootStatus] ∧
    ∃ regs stackTab, s.trainedPc tile pc = { s with regs := regs, stackTab := stackTab } := by
  have hready (u : State) : u.RegsBut u.bootReady [K.bootStatus] ∧ ∃ regs, u.bootReady = { u with regs := regs } := by
    unfold State.bootReady
    dsimp only
    split
    · exact ⟨(State.RegsBut.refl u _).wr (by simp), _, rfl⟩
    · exact ⟨State.RegsBut.refl u _, _, rfl⟩
  let u := s.updStack tile (fun k => { k with trained := (k.trained.filter (· ≠ pc)) ++ [pc] })
  let v := if (u.stack tile).trained.length = 32 then u.wr (K.stackState tile) 3 else u
  have hv : s.RegsBut v [K.stackState tile, K.bootStatus] ∧ v.stack tile = u.stack tile ∧
      ((u.stack tile).trained.length = 32 → v.rd (K.stackState tile) = 3) ∧ ∃ regs stackTab, v = { s with regs := regs, stackTab := stackTab } := by
    by_cases h : (u.stack tile).trained.length = 32
    · rw [show v = u.wr (K.stackState tile) 3 from if_pos h]
      exact ⟨(State.RegsBut.of_regs rfl rfl).wr (by simp), rfl, fun _ => State.rd_wr_same .., _, _, rfl⟩
    · rw [show v = u from if_neg h]
      exact ⟨State.RegsBut.of_regs rfl rfl, rfl, fun h' => absurd h' h, _, _, rfl⟩
  obtain ⟨hregs, hstack, h32, regs, stackTab, honly⟩ := hv
  obtain ⟨hbut, regs', hboot⟩ := hready v
  have heq : s.trainedPc tile pc = v.bootReady := rfl
  have hstack' : (s.trainedPc tile pc).stack tile = u.stack tile := by
    rw [heq, hboot]
    exact hstack
  have hu : (u.stack tile).trained = (s.stack tile).trained.filter (· ≠ pc) ++ [pc] := congrArg Stack.trained (State.stack_updStack ..)
  refine ⟨?_, fun h => ?_, ?_, ?_⟩
  · rw [hstack', hu]
    exact List.mem_append_right _ List.mem_cons_self
  · rw [hstack'] at h
    rw [heq]
    refine (hbut _ ?_).trans (h32 h)
    simp only [List.mem_cons, List.not_mem_nil, or_false, ek]
    omega
  · rw [heq]
    exact hregs.trans (hbut.mono (by simp))
  · rw [heq, hboot, honly]
    exact ⟨_, _, rfl⟩

/-- The step's mode (R200). -/
def State.stepMode (s : State) (tile : Nat) : Nat := fld (s.rd (K.trainCtrl tile)) 30 29

theorem execTrainStep_sweep (hgo : bit (s.rd (K.trainCtrl tile)) 31 = true) (hpc : fld (s.rd (K.trainCtrl tile)) 28 24 = pc)
    (hm : s.stepMode tile < 2) : execTrainStepComplete tile errs mid dur s = .next (s.stepShown tile errs (trainStatus 2 pc 0 dur)) := by
  unfold execTrainStepComplete
  change s.stepMode tile < 2 at hm
  have hmode : fld (s.rd (K.trainCtrl tile)) 30 29 = 0 ∨ fld (s.rd (K.trainCtrl tile)) 30 29 = 1 := by
    unfold State.stepMode at hm
    omega
  rcases hmode with h | h <;> simp only [hgo, hpc, h, if_true] <;> rfl

theorem execTrainStep_ca {m : Nat} (hgo : bit (s.rd (K.trainCtrl tile)) 31 = true) (hpc : fld (s.rd (K.trainCtrl tile)) 28 24 = pc)
    (hm : s.stepMode tile = 2) : execTrainStepComplete tile errs (some m) dur s =
    .next ((s.stepShown tile errs (trainStatus 2 pc 0 dur)).updStack tile (fun k => { k with caDelay := Tab.set k.caDelay pc m })) := by
  unfold execTrainStepComplete
  unfold State.stepMode at hm
  simp only [hgo, hpc, hm, if_true]
  rfl

theorem execTrainStep_verify (hgo : bit (s.rd (K.trainCtrl tile)) 31 = true) (hpc : fld (s.rd (K.trainCtrl tile)) 28 24 = pc)
    (hm : s.stepMode tile = 3) (he : ∀ e ∈ errs, e = 0) : execTrainStepComplete tile errs mid dur s =
    .next ((s.stepShown tile errs (trainStatus 2 pc 0 dur)).trainedPc tile pc) := by
  have hany : errs.any (fun x => decide (x ≠ 0)) = false := List.any_eq_false.mpr fun e hmem => by simp [he e hmem]
  unfold execTrainStepComplete
  unfold State.stepMode at hm
  simp only [hgo, hpc, hm, if_true, hany]
  rfl

/-! ### Retraining (R201) -/

/-- A retrained pseudo-channel's banks are precharged. -/
theorem precharged_getD (banks : Tab Bank) {b : Nat} (_ : b < 48) :
    (Tab.getD (banks.map (fun (e : Nat × Bank) => if e.1 / 48 = pc then (e.1, { e.2 with row := none, hits := 0 }) else e))
      (pc * 48 + b) {}).row = none := by
  unfold Tab.getD
  induction banks with
  | nil => rfl
  | cons e l ih =>
    obtain ⟨i, k⟩ := e
    rw [List.map_cons]
    by_cases hi : i = pc * 48 + b
    · subst hi
      rw [if_pos (show (pc * 48 + b) / 48 = pc by omega)]
      simp [Tab.find]
    · by_cases hp : i / 48 = pc
      · rw [if_pos hp]
        simpa [Tab.find, hi] using ih
      · rw [if_neg hp]
        simpa [Tab.find, hi] using ih

/-- A retraining that found new taps puts them in force. -/
theorem execRetrainComplete_good {taps : List Nat} (_ : pc < 32) (hd : s.domainsOn tile = true) (hre : (s.stack tile).retraining = some pc)
    (hnear : s.tapsNear tile pc taps = true) : ∃ w : State, exec (.retrainComplete tile true taps dur) s = .next w ∧
      (w.stack tile).retraining = none ∧ w.rd (K.trainStatus tile) = trainStatus 2 pc 1 dur ∧
      (∀ i, i < 144 → w.rd (K.dqDelays tile (pc * 144 + i)) = taps.getD i 0) ∧ w = { s with stackTab := w.stackTab, regs := w.regs } := by
  have hlen : taps.length = 144 := of_decide_eq_true (Bool.and_eq_true_iff.mp hnear).1
  let u := ((s.setStack tile { s.stack tile with retraining := none, retrainFails := Tab.set (s.stack tile).retrainFails pc 0 }).wr
    (K.trainStatus tile) (trainStatus 2 pc 1 dur)).count (K.stackCounts tile 8) 1
  have hex : exec (.retrainComplete tile true taps dur) s =
      .next (u.wrs (taps.zipIdx.map (fun x => (K.dqDelays tile (pc * 144 + x.2), x.1)))) := by
    refine congrArg Host.Outcome.next ?_
    rw [if_pos hd, hre]
    dsimp only
    rw [hnear, Bool.true_and, if_pos rfl, if_pos rfl, if_pos rfl]
  obtain ⟨regs, honly⟩ : ∃ regs, u.wrs (taps.zipIdx.map (fun x => (K.dqDelays tile (pc * 144 + x.2), x.1))) = { u with regs := regs } :=
    ⟨_, State.wrs_only ..⟩
  obtain ⟨regs', hureg⟩ : ∃ regs', u = { s.setStack tile { s.stack tile with
      retraining := none, retrainFails := Tab.set (s.stack tile).retrainFails pc 0 } with regs := regs' } := ⟨_, rfl⟩
  have hstack : (u.wrs (taps.zipIdx.map (fun x => (K.dqDelays tile (pc * 144 + x.2), x.1)))).stack tile = u.stack tile := by
    rw [honly, hureg]
    rfl
  have hu : u.stack tile = { s.stack tile with retraining := none, retrainFails := Tab.set (s.stack tile).retrainFails pc 0 } := by
    rw [show u.stack tile = _ from State.stack_count .., State.stack_wr, State.stack_setStack]
  refine ⟨_, hex, ?_, ?_, fun i hi => ?_, ?_⟩
  · rw [hstack, hu]
  · rw [State.rd_wrs_other]
    · rw [show u.rd (K.trainStatus tile) = _ from State.rd_count_other _ _ _ _ (by simp only [ek, ne_eq]; omega), State.rd_wr_same]
    · intro e he
      obtain ⟨⟨v, i⟩, hmem, rfl⟩ := List.mem_map.mp he
      have hi : i < taps.length := (List.getElem?_eq_some_iff.mp (List.mem_zipIdx_iff_getElem?.mp hmem)).1
      simp only [ek, ne_eq]
      omega
  · have hi' : i < taps.length := by omega
    rw [getD_of_lt _ _ hi']
    refine State.rd_wrs_map (fun x : Nat × Nat => K.dqDelays tile (pc * 144 + x.2)) Prod.fst (taps[i], i) taps.zipIdx ?_ u
      (.inr (List.mem_zipIdx_iff_getElem?.mpr (List.getElem?_eq_getElem hi')))
    rintro ⟨v, j⟩ hmem hkey
    have hij : j = i := by
      simp only [ek] at hkey
      omega
    have hget := List.mem_zipIdx_iff_getElem?.mp hmem
    subst hij
    exact Option.some.inj (hget.symm.trans (List.getElem?_eq_getElem hi'))
  · rw [honly, hureg]
    rfl

end

/-- Settles O40: each step's own branch of the command that ends it. -/
theorem stackTraining : Obligations.StackTraining := by
  unfold Obligations.StackTraining
  intro s tile pc t dur ht hpc
  refine ⟨fun errs mid hgo hfld _ => ⟨fun hm => ?sweep, fun m hm hmid => ?ca, fun hm he => ?verify⟩, ?start, fun taps hd hre => ⟨?good, ?bad⟩⟩
  case sweep =>
    obtain ⟨h1, h2, h3, h4, regs, h5⟩ := s.stepShown_effect tile errs (trainStatus 2 pc 0 dur)
    have hex : exec (.trainStepComplete tile errs mid dur) s = .next (s.stepShown tile errs (trainStatus 2 pc 0 dur)) :=
      execTrainStep_sweep hgo hfld hm
    exact ⟨_, hex, h1, h2, h3, h4, by rw [h5]⟩
  case ca =>
    subst hmid
    obtain ⟨-, h2, -, -, regs, h5⟩ := s.stepShown_effect tile errs (trainStatus 2 pc 0 dur)
    have hex : exec (.trainStepComplete tile errs (some m) dur) s = _ := execTrainStep_ca hgo hfld hm
    refine ⟨_, hex, (State.rd_updStack ..).trans h2, ?_, ?_⟩
    · rw [State.stack_updStack]
      exact Tab.getD_set_same ..
    · rw [h5]
      rfl
  case verify =>
    obtain ⟨-, h2, -, -, regs, h5⟩ := s.stepShown_effect tile errs (trainStatus 2 pc 0 dur)
    obtain ⟨g1, g2, g3, regs', stackTab, g4⟩ := (s.stepShown tile errs (trainStatus 2 pc 0 dur)).trainedPc_effect tile pc
    have hex : exec (.trainStepComplete tile errs mid dur) s = _ := execTrainStep_verify hgo hfld hm he
    refine ⟨_, hex, ?_, g1, g2, ?_⟩
    · refine (g3 _ ?_).trans h2
      simp only [List.mem_cons, List.not_mem_nil, or_false, ek]
      omega
    · rw [g4, h5]
  case start =>
    intro f hask hst hwhen
    let w := ((s.at t).setStack tile { s.stack tile with
      retrainAsk := none
      retraining := some pc
      retrained := some (pc, s.frame)
      banks := (s.stack tile).banks.map (fun (b : Nat × Bank) => if b.1 / 48 = pc then (b.1, { b.2 with row := none, hits := 0 }) else b) }).wr
        (K.trainStatus tile) (trainStatus 1 pc 1 0)
    have hwstack : w.stack tile = _ := (State.stack_wr ..).trans (State.stack_setStack ..)
    have hcond : (s.rd (K.stackState tile) = 3 ∨ s.rd (K.stackState tile) = 4) ∧
        (if (s.at t).anySealed then (s.at t).maintenance tile pc && decide (t < 20000) else decide (f < (s.at t).frame)) = true := by
      refine ⟨hst, ?_⟩
      have hsealed : (s.at t).anySealed = s.anySealed := rfl
      rw [hsealed]
      cases hs : s.anySealed with
      | true =>
        rw [hs, if_pos rfl] at hwhen
        rw [if_pos rfl, show (s.at t).maintenance tile pc = true from hwhen.1]
        simpa using hwhen.2
      | false =>
        rw [hs, if_neg (by decide)] at hwhen
        rw [if_neg (by decide)]
        exact decide_eq_true hwhen
    refine ⟨w, congrArg Host.Outcome.next ?_, ?_, ?_, ?_, fun b hb => ?_, State.rd_wr_same .., ?_, rfl⟩
    · have hask' : ((s.at t).stack tile).retrainAsk = some (pc, f) := hask
      rw [hask']
      exact if_pos hcond
    · rw [hwstack]
    · rw [hwstack]
    · rw [hwstack]
    · rw [State.bank, hwstack]
      exact precharged_getD _ hb
    · exact (State.RegsBut.of_regs rfl rfl).wr (by simp)
  case good =>
    intro hnear
    obtain ⟨w, hw, h1, h2, h3, h4⟩ := execRetrainComplete_good (dur := dur) hpc hd hre hnear
    exact ⟨w, hw, h1, h2, h3, h4⟩
  case bad =>
    intro hfail
    refine congrArg Host.Outcome.next ?_
    rw [if_pos hd, hre]
    dsimp only
    simp only [hfail, Bool.false_and, Bool.false_eq_true, if_false]
    rw [if_neg (fun h => absurd h.1 (by decide))]

end Sys2Proof.Machine


/-! Window reads and writes at the port engine (20 R436 to R438). -/

namespace Sys2Proof.Machine

section
variable {u : State} {r : Req} {noise : List (Nat × Nat)} {t : Nat}

theorem State.serveOp_windowWrite (h : r.op = 0x63) : u.serveOp r noise t = u.serveWindowWrite r t := by
  unfold State.serveOp
  simp only [h, Nat.reduceEqDiff, if_false, Nat.reduceLeDiff, or_self, and_false]

theorem State.serveOp_windowRead (h : r.op = 0x62) : u.serveOp r noise t = u.serveWindowRead r := by
  unfold State.serveOp
  simp only [h, Nat.reduceEqDiff, if_false, if_true, Nat.reduceLeDiff, or_self, and_false]

theorem State.serveOp_doorbell (h : r.op = 0x60) : u.serveOp r noise t = u.serveDoorbell r t := by
  unfold State.serveOp
  simp only [h, Nat.reduceEqDiff, if_false, if_true, Nat.reduceLeDiff, or_self, and_false]

end

/-- The fields of a window request's body. -/
theorem winBody_fields {off len : Nat} (ho : off < 2 ^ 32) (hl : len < 2 ^ 16) (data : List Byte) :
    leAt (toLE 4 off ++ toLE 2 len ++ toLE 2 0 ++ data) 0 4 = off ∧ leAt (toLE 4 off ++ toLE 2 len ++ toLE 2 0 ++ data) 4 2 = len := by
  simp only [List.append_assoc]
  constructor
  · rw [leAt_head]
    omega
  · rw [leAt_skip (k := 4) _ _ _ _ (length_toLE ..) (by decide), leAt_head]
    omega

theorem winParts_one {off v : Nat} (ho : off < 2 ^ 32) (hv : v < 2 ^ 64) : winParts (winBody off v) = [(off, v)] := by
  obtain ⟨h0, h4⟩ := winBody_fields (len := 8) ho (by decide) (toLE 8 v)
  have h8 : leAt (winBody off v) 8 8 = v := by
    unfold winBody
    simp only [List.append_assoc]
    rw [leAt_skip (k := 4) _ _ _ _ (length_toLE ..) (by decide), leAt_skip (k := 2) _ _ _ _ (length_toLE ..) (by decide),
      leAt_skip (k := 2) _ _ _ _ (length_toLE ..) (by decide), leAt_last]
    omega
  unfold winParts
  rw [show leAt (winBody off v) 4 2 = 8 from h4, show leAt (winBody off v) 0 4 = off from h0]
  simp only [Nat.reduceDiv, List.range_one, List.map_cons, List.map_nil, Nat.mul_zero, Nat.add_zero, h8]

section
variable {s : State} {port off v n t : Nat} {h : Hdr}

/-- A write of one register takes the effect and the status of `winWrite`. -/
theorem State.windowWrite_one (H : WinStarts s port off v h n t) (ho : off < 2 ^ 32) (hv : v < 2 ^ 64) :
    s.windowWrite port h off (toLE 8 v) t = ((s.winBegan port off v h n t).winWrite n off v t).2.answer
      (s.accepted port 0x63 h (winBody off v) n t).1 0xE3 ((s.winBegan port off v h n t).winWrite n off v t).1 [] := by
  obtain ⟨hstarts, hwait⟩ := H
  have hbody : toLE 4 off ++ toLE 2 (toLE 8 v).length ++ toLE 2 0 ++ toLE 8 v = winBody off v := by
    rw [length_toLE]
    rfl
  have hrecv := State.recv_serveOp (noise := []) hstarts fun hx => by cases hx
  rw [State.serveOp_windowWrite rfl] at hrecv
  unfold State.windowWrite
  rw [hbody, hrecv]
  unfold State.serveWindowWrite
  rw [show (s.accepted port 0x63 h (winBody off v) n t).1.body = winBody off v from rfl,
    show (s.accepted port 0x63 h (winBody off v) n t).1.bind = n from rfl, winParts_one ho hv]
  simp only [List.findSome?_cons, List.findSome?_nil, hwait, List.foldl_cons, List.foldl_nil, if_true]
  rfl

/-- A write of one register that it carries out with OK. -/
theorem State.windowWrite_ok {x : State} (H : WinStarts s port off v h n t) (ho : off < 2 ^ 32) (hv : v < 2 ^ 64)
    (hw : (s.winBegan port off v h n t).winWrite n off v t = (Code.ok, x)) :
    s.windowWrite port h off (toLE 8 v) t = x.winOk s port off v h n t := by
  rw [State.windowWrite_one H ho hv, hw]
  rfl

end

/-- The value of a register that takes it: its access is not read-only and its reserved bits are zero. -/
theorem State.winWrite_applies {u x : State} {b off v t acc : Nat} (ha : regAccess off = some acc) (h0 : acc ≠ 0) (hr : reservedOk off v = true)
    (hx : u.winApply b off v t = (Code.ok, x)) : u.winWrite b off v t = (Code.ok, x) := by
  unfold State.winWrite
  rw [ha, hr, hx]
  cases acc with
  | zero => exact absurd rfl h0
  | succ acc => simp

end Sys2Proof.Machine


/-! Window writes that launch, clear and consume; window reads (11 R264, 13 R303 to R311, 20 R436 to R438). -/

namespace Sys2Proof.Machine

section
variable {s u : State} {port n t v : Nat} {h : Hdr}

/-! ### GO (R303, R304) -/

/-- Contexts set to LAUNCHING by a launch. -/
def State.launching (s : State) (c id : Nat) (l : List Nat) : State :=
  l.foldl (fun s i => s.setCtx i c { s.ctx i c with st := 2, launch := id }) s

theorem State.ctx_setCtx_key (s : State) {i j c : Nat} (k : Ctx) : (s.setCtx i c k).ctx j c = if j = i then k else s.ctx j c := by
  unfold State.ctx State.setCtx
  rw [Tab.getD_set]
  by_cases hij : j = i
  · rw [if_pos (by rw [hij]), if_pos hij]
  · rw [if_neg (by omega), if_neg hij]

theorem State.launching_effect (c id : Nat) (l : List Nat) : ∀ s : State, (∃ ctxs, s.launching c id l =
      { s with reels := { s.reels with ctxs := ctxs } }) ∧
    ∀ i, (i ∈ l ∨ ((s.ctx i c).st = 2 ∧ (s.ctx i c).launch = id)) →
      ((s.launching c id l).ctx i c).st = 2 ∧ ((s.launching c id l).ctx i c).launch = id := by
  induction l with
  | nil => exact fun s => ⟨⟨_, rfl⟩, fun i h => h.resolve_left List.not_mem_nil⟩
  | cons j l ih =>
    intro s
    obtain ⟨⟨ctxs, honly⟩, hst⟩ := ih (s.setCtx j c { s.ctx j c with st := 2, launch := id })
    refine ⟨⟨ctxs, honly⟩, fun i hi => hst i ?_⟩
    rw [State.ctx_setCtx_key]
    by_cases hij : i = j
    · rw [if_pos hij]
      exact .inr ⟨rfl, rfl⟩
    · rw [if_neg hij]
      rcases hi with hi | hi
      · exact .inl ((List.mem_cons.mp hi).resolve_left hij)
      · exact .inr hi

/-- The launch that a GO makes. -/
def State.goLaunch (s : State) (b t : Nat) : Launch :=
  { id := s.reels.nextLaunch, part := bPart (s.binding b), bind := b, seq := ((s.window b).seq + 1) % 65536
    block := padTo 96 (s.window b).block, due := some (if t + 2000 ≤ s.guardAt then 0 else 1) }

/-- The part with that launch made and its window showing it. -/
def State.goShown (s : State) (b t : Nat) : State :=
  let s' := (s.setWindow b { s.window b with result := Code.ok, seq := ((s.window b).seq + 1) % 65536, state := 3 }).reelCount
    (bPart (s.binding b)) 0 1
  { s' with reels := { s'.reels with launches := s'.reels.launches ++ [s.goLaunch b t], nextLaunch := s'.reels.nextLaunch + 1 } }

theorem State.go_launches {b t : Nat} (hc : s.launchCheck (bPart (s.binding b)) (padTo 96 (s.window b).block) = none) :
    s.go b t = (Code.ok, (s.goShown b t).launching (s.goLaunch b t).ctx (s.goLaunch b t).id (s.goLaunch b t).slots) := by
  unfold State.go
  dsimp only
  rw [hc]
  rfl

theorem State.goShown_effect (s : State) (b t : Nat) : s.goLaunch b t ∈ (s.goShown b t).reels.launches ∧
    (s.goShown b t).window b = { s.window b with result := Code.ok, seq := ((s.window b).seq + 1) % 65536, state := 3 } ∧
    ∃ reels regs, s.goShown b t = { s with reels := reels, regs := regs } := by
  refine ⟨List.mem_append_right _ List.mem_cons_self, Tab.getD_set_same .., ?_⟩
  unfold State.goShown
  exact ⟨_, _, rfl⟩

theorem State.go_effect {b t : Nat} (hc : s.launchCheck (bPart (s.binding b)) (padTo 96 (s.window b).block) = none) :
    ∃ (x : State) (l : Launch), s.go b t = (Code.ok, x) ∧ l ∈ x.reels.launches ∧ l.part = bPart (s.binding b) ∧ l.bind = b ∧
      l.block = padTo 96 (s.window b).block ∧ l.seq = ((s.window b).seq + 1) % 65536 ∧
      l.due = some (if t + 2000 ≤ s.guardAt then 0 else 1) ∧
      (x.window b).state = 3 ∧ (x.window b).result = Code.ok ∧ (x.window b).seq = l.seq ∧
      (∀ i ∈ l.slots, (x.ctx i l.ctx).st = 2 ∧ (x.ctx i l.ctx).launch = l.id) ∧ x = { s with reels := x.reels, regs := x.regs } := by
  obtain ⟨hmem, hwin, reels, regs, honly⟩ := s.goShown_effect b t
  obtain ⟨⟨ctxs, hlaunch⟩, hst⟩ := State.launching_effect (s.goLaunch b t).ctx (s.goLaunch b t).id (s.goLaunch b t).slots (s.goShown b t)
  have hreels : ((s.goShown b t).launching (s.goLaunch b t).ctx (s.goLaunch b t).id (s.goLaunch b t).slots).reels =
      { (s.goShown b t).reels with ctxs := ctxs } := by rw [hlaunch]
  have hwindow : ((s.goShown b t).launching (s.goLaunch b t).ctx (s.goLaunch b t).id (s.goLaunch b t).slots).window b =
      (s.goShown b t).window b := by
    unfold State.window
    rw [hreels]
  refine ⟨_, s.goLaunch b t, State.go_launches hc, by rw [hreels]; exact hmem, rfl, rfl, rfl, rfl, rfl, ?_, ?_, ?_,
    fun i hi => hst i (.inl hi), ?_⟩
  · rw [hwindow, hwin]
  · rw [hwindow, hwin]
  · rw [hwindow, hwin]
    rfl
  · rw [hlaunch, honly]

/-! ### CONTEXT_CLEAR (R311) -/

theorem State.ackPost_reels (s : State) (slot c : Nat) (m : Nat × Option Nat) (ret : Nat) :
    ∃ windows, s.ackPost slot c m ret = { s with reels := { s.reels with windows := windows } } := by
  unfold State.ackPost
  split <;> exact ⟨_, rfl⟩

theorem State.emptyMailboxes_effect (s : State) (slot c ret : Nat) : ∃ windows, s.emptyMailboxes slot c ret =
    State.setCtx { s with reels := { s.reels with windows := windows } } slot c { s.ctx slot c with inbox := [], outbox := [] } := by
  have step (l : List (Nat × Option Nat × Word)) : ∀ w : State, (∃ windows, w = { s with reels := { s.reels with windows := windows } }) →
      ∃ windows, l.foldl (fun s m => s.ackPost slot c (m.1, m.2.1) ret) w = { s with reels := { s.reels with windows := windows } } := by
    induction l with
    | nil => exact fun w h => h
    | cons m l ih =>
      rintro _ ⟨_, rfl⟩
      obtain ⟨_, h⟩ := State.ackPost_reels { s with reels := { s.reels with windows := _ } } slot c (m.1, m.2.1) ret
      exact ih _ ⟨_, h⟩
  obtain ⟨windows, h⟩ := step (s.ctx slot c).inbox s ⟨_, rfl⟩
  refine ⟨windows, ?_⟩
  unfold State.emptyMailboxes
  dsimp only
  rw [h]

theorem Ctx.vr_of_nil {k : Ctx} (hk : k.v = []) (i : Nat) : k.vr i = 0 := by
  unfold Ctx.vr
  rw [hk]
  exact BitVec.toNat_zero

theorem State.contextClear_effect {p slot c : Nat} (ho : s.ctxOwner slot c = some p) (hf : (s.ctx slot c).st = 7) :
    ∃ x : State, s.contextClear p slot c = (Code.ok, x) ∧ (x.ctx slot c).st = 1 ∧ (∀ i, (x.ctx slot c).gr i = 0) ∧
      (∀ i, (x.ctx slot c).vr i = 0) ∧ (x.ctx slot c).pc = 0 ∧ (x.ctx slot c).inbox = [] ∧ (x.ctx slot c).outbox = [] ∧
      x = { s with reels := x.reels } := by
  obtain ⟨windows, h⟩ := s.emptyMailboxes_effect slot c Code.offline
  have hctx : (s.emptyMailboxes slot c Code.offline).ctx slot c = { s.ctx slot c with inbox := [], outbox := [] } := by
    rw [h]
    exact State.ctx_setCtx ..
  have hx : s.contextClear p slot c = (Code.ok, (s.emptyMailboxes slot c Code.offline).setCtx slot c
      { ({ s.ctx slot c with inbox := [], outbox := [] } : Ctx).wiped with st := 1 }) := by
    unfold State.contextClear
    rw [if_neg (by simp [ho]), if_neg (by simp [hf])]
    dsimp only
    rw [hctx]
  refine ⟨_, hx, ?_⟩
  rw [State.ctx_setCtx]
  refine ⟨rfl, fun i => ?_, Ctx.vr_of_nil rfl, rfl, rfl, rfl, ?_⟩
  · unfold Ctx.gr
    split <;> rfl
  · rw [h]
    rfl

theorem reservedOk_consumed (hv : v < 2 ^ 32) : reservedOk 0x908 v = true := by
  simpa [reservedOk, isRing] using hv

theorem ringReg_access {r : Nat} (hr : r < 16) : regAccess (0x408 + 16 * r) = some 2 ∧ isRing (0x408 + 16 * r) = true := by
  have hring : isRing (0x408 + 16 * r) = true := by
    simp only [isRing, Bool.and_eq_true, decide_eq_true_eq]
    omega
  refine ⟨?_, hring⟩
  unfold regAccess
  rw [if_neg (by omega), if_pos (.inr (.inr (.inl hring)))]

theorem reservedOk_restart {r : Nat} (hr : r < 16) (hv : fld v 41 32 = 0) : reservedOk (0x408 + 16 * r) v = true := by
  unfold reservedOk
  rw [if_neg (by omega), if_pos (ringReg_access hr).2, hv]
  rfl

theorem State.winApply_restart {r b : Nat} (hr : r < 16) : u.winApply b (0x408 + 16 * r) v t =
    ((u.ringRestart (bPart (u.binding b)) r v).1.getD Code.ok, (u.ringRestart (bPart (u.binding b)) r v).2) := by
  have hslot : (0x408 + 16 * r - 0x400) / 16 = r := by omega
  unfold State.winApply
  dsimp only
  rw [if_neg (by omega), if_neg (by omega), if_pos (ringReg_access hr).2, if_neg (by omega), hslot]

theorem State.winApply_go {b : Nat} : u.winApply b 0x860 1 t = u.go b t := by
  unfold State.winApply
  dsimp only
  rw [if_neg (by decide), if_neg (by decide), if_neg (by decide), if_neg (by decide), if_pos rfl, if_pos rfl]

theorem State.winApply_clear {b : Nat} : u.winApply b 0xA00 v t = u.contextClear (bPart (u.binding b)) (fld v 12 8) (fld v 3 0) := by
  unfold State.winApply
  dsimp only
  rw [if_neg (by decide), if_neg (by decide), if_neg (by decide), if_neg (by decide), if_neg (by decide), if_neg (by decide), if_pos rfl]

theorem State.winApply_consumed {b k : Nat} (hk : k < 2 ^ 32)
    (hv : v = ((u.events (bPart (u.binding b))).consumed + k) % 2 ^ 32)
    (hle : (u.events (bPart (u.binding b))).consumed + k ≤ (u.events (bPart (u.binding b))).written) :
    u.winApply b 0x908 v t = (Code.ok, u.setEvents (bPart (u.binding b)) { u.events (bPart (u.binding b)) with
      consumed := (u.events (bPart (u.binding b))).consumed + k
      recs := (u.events (bPart (u.binding b))).recs.drop k }) := by
  have hn : (v + 2 ^ 32 - (u.events (bPart (u.binding b))).consumed % 2 ^ 32) % 2 ^ 32 = k := by omega
  have hval : u.winApply b 0x908 v t = u.eventConsumed (bPart (u.binding b)) v := by
    unfold State.winApply
    dsimp only
    rw [if_neg (by decide), if_neg (by decide), if_neg (by decide), if_neg (by decide), if_neg (by decide), if_pos rfl]
  rw [hval]
  unfold State.eventConsumed
  dsimp only
  rw [hn, if_neg (by omega)]

/-- A read of registers that show no publish region waits for none. -/
theorem State.serveWindowRead_plain {r : Req} {off len : Nat} (h0 : leAt r.body 0 4 = off) (h4 : leAt r.body 4 2 = len)
    (h8 : 0xC08 ∉ (List.range (len / 8)).map (fun i => off + 8 * i)) (h10 : 0xC10 ∉ (List.range (len / 8)).map (fun i => off + 8 * i)) :
    u.serveWindowRead r = u.answer r 0xE2 Code.ok ((((List.range (len / 8)).map (fun i => off + 8 * i)).map (u.winRead r.bind)).flatten) := by
  unfold State.serveWindowRead
  dsimp only
  rw [h0, h4, if_neg]
  simp only [Bool.and_eq_true, Bool.or_eq_true, List.contains_iff_mem]
  exact fun hc => hc.1.1.elim h8 h10

theorem clear_fields {slot c : Nat} (hs : slot < 32) (hc : c < 16) :
    reservedOk 0xA00 (slot * 256 + c) = true ∧ fld (slot * 256 + c) 12 8 = slot ∧ fld (slot * 256 + c) 3 0 = c := by
  refine ⟨?_, ?_, ?_⟩
  · have h63 : fld (slot * 256 + c) 63 13 = 0 := by
      simp only [fld, Nat.reduceAdd, Nat.reduceSub, Nat.reducePow]
      omega
    have h7 : fld (slot * 256 + c) 7 4 = 0 := by
      simp only [fld, Nat.reduceAdd, Nat.reduceSub, Nat.reducePow]
      omega
    simp [reservedOk, isRing, h63, h7]
  · simp only [fld, Nat.reduceAdd, Nat.reduceSub, Nat.reducePow]
    omega
  · simp only [fld, Nat.reduceAdd, Nat.reduceSub, Nat.reducePow]
    omega

end

/-- Settles O30: each register's own effect, in the part that the write begins. -/
theorem windowCommands : Obligations.WindowCommands := by
  unfold Obligations.WindowCommands
  intro s port n t v h hv
  refine ⟨?go, ?clear, ?consumed, ?restart, ?err, ?write, ?read⟩
  case go =>
    intro H u hcheck
    obtain ⟨x, l, hgo, hrest⟩ := State.go_effect (t := t) hcheck
    have hw := State.winWrite_applies (acc := 2) (by decide) (by decide) (by decide) (State.winApply_go.trans hgo)
    exact ⟨x, l, congrArg Host.Outcome.next (State.windowWrite_ok H (by decide) (by decide) hw), hrest⟩
  case clear =>
    intro slot c hs hc hvs H u ho hf
    obtain ⟨hres, h8, h0⟩ := clear_fields hs hc
    obtain ⟨x, hx, hrest⟩ := State.contextClear_effect ho hf
    have happly : u.winApply n 0xA00 v t = (Code.ok, x) := by
      rw [State.winApply_clear, ← hx, hvs, h8, h0]
    have hw := State.winWrite_applies (acc := 2) (by decide) (by decide) (by rw [hvs]; exact hres) happly
    exact ⟨x, congrArg Host.Outcome.next (State.windowWrite_ok H (by decide) hv hw), hrest⟩
  case consumed =>
    intro hv32 H u p k hk hvk hle
    have hw : u.winWrite n 0x908 v t = _ :=
      State.winWrite_applies (acc := 1) (by decide) (by decide) (reservedOk_consumed hv32) (State.winApply_consumed hk hvk hle)
    exact congrArg Host.Outcome.next (State.windowWrite_ok H (by decide) hv hw)
  case restart =>
    intro r hr H u p hvalid hinc hres hst hle
    have hring : u.ringRestart p r v = (none, u.setRing p r { u.ring p r with
        state := 1, fetched := v % 2 ^ 32, completed := v % 2 ^ 32, recorded := [], haltStatus := 0, haltIndex := 0 }) := by
      unfold State.ringRestart
      dsimp only
      rw [if_neg (by simp [hvalid, hinc]), if_neg (Nat.not_lt.mpr hle), if_neg (by simp [hst])]
    have happly := State.winApply_restart (u := u) (b := n) (v := v) (t := t) hr
    rw [hring] at happly
    have hw : u.winWrite n (0x408 + 16 * r) v t = _ :=
      State.winWrite_applies (ringReg_access hr).1 (by decide) (reservedOk_restart hr hres) happly
    exact congrArg Host.Outcome.next ((if_pos hr).trans (State.windowWrite_ok H (by omega) hv hw))
  case err =>
    intro H
    exact congrArg Host.Outcome.next (State.windowWrite_ok H (by decide) (by decide)
      (State.winWrite_applies (acc := 2) (by decide) (by decide) (by decide) rfl))
  case write =>
    intro off data hoff hlen b u x H hwait
    have hrecv := State.recv_serveOp (noise := []) H fun hx => by cases hx
    rw [State.serveOp_windowWrite rfl] at hrecv
    refine congrArg Host.Outcome.next (hrecv.trans ?_)
    unfold State.serveWindowWrite
    have hnone : (winParts b).findSome? (fun q => u.winWaits n q.1 q.2) = none := List.findSome?_eq_none_iff.mpr hwait
    rw [show (s.accepted port 0x63 h b n t).1.body = b from rfl, show (s.accepted port 0x63 h b n t).1.bind = n from rfl]
    dsimp only
    rw [hnone]
  case read =>
    intro off len hoff hlen b u offs H h8 h10
    have hrecv := State.recv_serveOp (noise := []) H fun hx => by cases hx
    rw [State.serveOp_windowRead rfl] at hrecv
    refine congrArg Host.Outcome.next (hrecv.trans ?_)
    obtain ⟨e0, e4⟩ := winBody_fields (off := off) (len := len) (by omega) (by omega) []
    rw [List.append_nil] at e0 e4
    have hbody : (s.accepted port 0x62 h b n t).1.body = b := rfl
    have hbind : (s.accepted port 0x62 h b n t).1.bind = n := rfl
    rw [State.serveWindowRead_plain (hbody ▸ e0) (hbody ▸ e4) h8 h10, hbind]

end Sys2Proof.Machine


/-! Mailboxes, doorbells, management commands and PUB_STATE (11 R250, 20 R439 to R446). -/

namespace Sys2Proof.Machine

section
variable {u : State} {b slot c v t : Nat}

/-! ### Context mailboxes (R443, R445) -/

theorem mbx_place (hc : c < 16) {k : Nat} (hk : k < 32) :
    mbxSlot (0x8000 + k + 32 * (slot * 16 + c)) = slot ∧ mbxCtx (0x8000 + k + 32 * (slot * 16 + c)) = c := by
  simp only [mbxSlot, mbxCtx]
  omega

theorem regAccess_mbx {off : Nat} (h : isMbx off = true) :
    regAccess off = if off % 32 = 0 then some 2 else if off % 32 = 24 then some 1 else some 0 := by
  have hb : 0x8000 ≤ off ∧ off < 0xC000 := by simpa [isMbx] using h
  have hring : isRing off = false := by
    simp only [isRing, Bool.and_eq_false_iff, decide_eq_false_iff_not]
    omega
  unfold regAccess
  rw [if_neg (by omega), if_neg (by simp [hring]; omega), if_neg (by omega), if_pos h]

theorem State.winApply_mbx {off : Nat} (h : isMbx off = true) : u.winApply b off v t =
    if off % 32 = 0 then u.mbxIn b (bPart (u.binding b)) (mbxSlot off) (mbxCtx off) v
    else u.mbxOut b (bPart (u.binding b)) off (mbxSlot off) (mbxCtx off) v := by
  have hb : 0x8000 ≤ off ∧ off < 0xC000 := by simpa [isMbx] using h
  have hring : isRing off = false := by
    simp only [isRing, Bool.and_eq_false_iff, decide_eq_false_iff_not]
    omega
  unfold State.winApply
  dsimp only
  rw [if_neg (by omega), if_neg (by omega), hring, if_neg Bool.false_ne_true, if_neg (by omega), if_neg (by omega),
    if_neg (by omega), if_neg (by omega), if_neg (by omega), if_neg (by omega), if_neg (by omega), if_neg (by omega),
    if_neg (by omega)]

theorem reservedOk_mbx {off : Nat} (h : isMbx off = true) (hr : off % 32 = 24 → fld v 63 48 = 0 ∧ fld v 31 0 = 0) :
    reservedOk off v = true := by
  have hb : 0x8000 ≤ off ∧ off < 0xC000 := by simpa [isMbx] using h
  have hring : isRing off = false := by
    simp only [isRing, Bool.and_eq_false_iff, decide_eq_false_iff_not]
    omega
  unfold reservedOk
  rw [if_neg (by omega), hring, if_neg Bool.false_ne_true, if_neg (by omega), if_neg (by omega), if_neg (by omega),
    if_neg (by omega), if_neg (by omega)]
  by_cases h24 : off % 32 = 24
  · rw [if_pos ⟨h, h24⟩]
    simp [hr h24]
  · rw [if_neg fun hc => h24 hc.2, if_neg (by omega), if_neg (by omega)]

theorem isMbx_of {k : Nat} (hs : slot < 32) (hc : c < 16) (hk : k < 32) : isMbx (0x8000 + k + 32 * (slot * 16 + c)) = true := by
  simp only [isMbx, Bool.and_eq_true, decide_eq_true_eq]
  omega

theorem State.mbxIn_joins {p : Nat} (ho : u.ctxOwner slot c = some p) (hst : (u.ctx slot c).st ≠ 7) (hroom : (u.ctx slot c).inbox.length < 8) :
    u.mbxIn b p slot c v = (Code.ok, ((u.setWindow b { u.window b with
        posts := Tab.set (u.window b).posts (slot * 16 + c) { Tab.getD (u.window b).posts (slot * 16 + c) {} with
          post := ((Tab.getD (u.window b).posts (slot * 16 + c) {}).post + 1) % 65536 } }).setCtx slot c { u.ctx slot c with
      inbox := (u.ctx slot c).inbox ++
        [(b, some (((Tab.getD (u.window b).posts (slot * 16 + c) {}).post + 1) % 65536), BitVec.ofNat 64 v)] }).wakeMbx slot c) := by
  unfold State.mbxIn
  rw [if_neg (not_not_intro ho)]
  dsimp only
  rw [if_neg hst, if_neg (by omega)]

theorem State.mbxOut_goes {p off : Nat} (ho : u.ctxOwner slot c = some p) (hout : (u.ctx slot c).outbox ≠ [])
    (hseq : fld v 47 32 = (u.ctx slot c).outSeq) :
    u.mbxOut b p off slot c v = (Code.ok, u.setCtx slot c { u.ctx slot c with outbox := (u.ctx slot c).outbox.tail }) := by
  unfold State.mbxOut
  rw [if_neg (not_not_intro ho)]
  dsimp only
  rw [if_pos ⟨hout, hseq⟩]

theorem outSeq_fields (k : Ctx) : fld (k.outSeq * 2 ^ 32) 63 48 = 0 ∧ fld (k.outSeq * 2 ^ 32) 31 0 = 0 ∧
    fld (k.outSeq * 2 ^ 32) 47 32 = k.outSeq := by
  have hlt : k.outSeq < 65536 := Nat.mod_lt _ (by decide)
  simp only [fld, Nat.reduceAdd, Nat.reduceSub, Nat.reducePow]
  omega

/-! ### Doorbells (R439, R440, 11 R250) -/

theorem leAt_bell {idx : Nat} (hi : idx < 65536) (hv : v < 2 ^ 64) :
    leAt (toLE 2 idx ++ toLE 6 0 ++ toLE 8 v) 0 2 = idx ∧ leAt (toLE 2 idx ++ toLE 6 0 ++ toLE 8 v) 8 8 = v := by
  simp only [List.append_assoc]
  constructor
  · rw [leAt_head]
    omega
  · rw [leAt_skip (k := 2) _ _ _ _ (length_toLE ..) (by decide), leAt_skip (k := 6) _ _ _ _ (length_toLE ..) (by decide), leAt_last]
    omega

/-- A doorbell that waits for no move of a slot takes the effect and the status of its register's write. -/
theorem State.serveDoorbell_rings {r : Req} {off : Nat} (hoff : bellOffset (leAt r.body 0 2) = some off)
    (hwait : u.winWaits r.bind off (leAt r.body 8 8) = none) : u.serveDoorbell r t =
      (u.winWrite r.bind off (leAt r.body 8 8) t).2.answerSt r (u.winWrite r.bind off (leAt r.body 8 8) t).1 := by
  unfold State.serveDoorbell
  rw [hoff]
  dsimp only
  rw [hwait]

theorem State.winWaits_plain {off : Nat} (hm : isMbx off = false) (hgo : off ≠ 0x860) : u.winWaits b off v = none := by
  unfold State.winWaits
  rw [if_neg (by simp [hm]), if_neg fun hc => hgo hc.1]

theorem ringBell_access {r : Nat} (hr : r < 16) : regAccess (0x400 + 16 * r) = some 2 ∧ isRing (0x400 + 16 * r) = true := by
  have hring : isRing (0x400 + 16 * r) = true := by
    simp only [isRing, Bool.and_eq_true, decide_eq_true_eq]
    omega
  refine ⟨?_, hring⟩
  unfold regAccess
  rw [if_neg (by omega), if_pos (.inr (.inr (.inl hring)))]

theorem State.winApply_ringBell {r : Nat} (hr : r < 16) : u.winApply b (0x400 + 16 * r) v t = u.ringBell (bPart (u.binding b)) r v := by
  have hslot : (0x400 + 16 * r - 0x400) / 16 = r := by omega
  unfold State.winApply
  dsimp only
  rw [if_neg (by omega), if_neg (by omega), if_pos (ringBell_access hr).2, if_pos (by omega), hslot]

theorem reservedOk_ringBell {r : Nat} (hr : r < 16) (hv : fld v 41 32 = 0) : reservedOk (0x400 + 16 * r) v = true := by
  unfold reservedOk
  rw [if_neg (by omega), if_pos (ringBell_access hr).2, hv]
  rfl

theorem State.ringBell_rings {p r : Nat} (hd : rgValid (u.ringDesc p r) = true) (hi : fld v 63 42 = (u.ring p r).inc)
    (hfwd : ahead32 (v % 2 ^ 32) (u.ring p r).tail < 2 ^ 31)
    (hroom : ahead32 (v % 2 ^ 32) (u.ring p r).completed ≤ 2 ^ rgLog (u.ringDesc p r)) :
    u.ringBell p r v = (Code.ok, u.setRing p r { u.ring p r with tail := v % 2 ^ 32 }) := by
  unfold State.ringBell
  dsimp only
  rw [if_neg (by simp [hd, hi]), if_neg (by omega)]

theorem State.mgmtPost_takes (hf : u.firmwareRuns = true) (hc : (u.window b).cmd = none) :
    u.mgmtPost b v = (Code.ok, u.setWindow b { u.window b with
      cmd := some v, mgmt := { (u.window b).mgmt with post := ((u.window b).mgmt.post + 1) % 65536 } }) := by
  unfold State.mgmtPost
  dsimp only
  rw [if_neg (by simp [hf, hc])]

theorem reservedOk_mgmt (h1 : 1 ≤ v / 2 ^ 48) (h3 : v / 2 ^ 48 ≤ 3) : reservedOk 0x100 v = true := by
  have hc : fld v 63 48 = v / 2 ^ 48 := by
    simp only [fld, Nat.reduceAdd, Nat.reduceSub, Nat.reducePow] at *
    omega
  have hcase : v / 2 ^ 48 = 1 ∨ v / 2 ^ 48 = 2 ∨ v / 2 ^ 48 = 3 := by omega
  unfold reservedOk
  rw [if_neg (by decide), if_neg (by decide), if_neg (by decide), if_neg (by decide), if_neg (by decide), if_neg (by decide),
    if_pos rfl]
  dsimp only
  rw [hc]
  simpa [or_assoc] using hcase

/-! ### Management commands and PUB_STATE (R442, R446) -/

theorem State.mgmtServe_ok {cmd arg : Nat} (hf : u.firmwareRuns = true) (hl : (u.window b).cmdLost = false)
    (hc : (u.window b).cmd = some (cmd * 2 ^ 48 + arg)) (ha : arg < 2 ^ 48) (harg : cmd ≠ 1 → arg = 0) :
    u.mgmtServe b cmd = u.mgmtAck b Code.ok (if cmd = 1 then u.frame
      else if cmd = 2 then u.rd (K.leaseState b) * 2 ^ 56 + u.rd (K.leaseExpiry b) % 2 ^ 56
      else u.rd K.takeNumber) := by
  unfold State.mgmtServe
  rw [hc]
  dsimp only
  rw [if_neg (by simp only [hf, hl]; simp; omega), if_neg (by omega)]

/-- A read of PUB_STATE whose region no flip holds. -/
theorem State.serveWindowRead_pubState {r : Req} (hbody : r.body = toLE 4 0xC08 ++ toLE 2 16 ++ toLE 2 0)
    (hbusy : u.regionBusy (bPart (u.binding r.bind)) (u.window r.bind).pubSel = false) :
    u.serveWindowRead r = u.answer r 0xE2 Code.ok (u.pubState r.bind (bPart (u.binding r.bind))) := by
  have h8 : u.winRead r.bind 0xC08 = (u.pubState r.bind (bPart (u.binding r.bind))).take 8 := by
    unfold State.winRead
    simp
  have h10 : u.winRead r.bind 0xC10 = (u.pubState r.bind (bPart (u.binding r.bind))).drop 8 := by
    unfold State.winRead
    simp
  have hoffs : (List.range (leAt r.body 4 2 / 8)).map (fun i => leAt r.body 0 4 + 8 * i) = [0xC08, 0xC10] := by
    rw [hbody]
    decide
  unfold State.serveWindowRead
  dsimp only
  rw [hoffs, if_neg (by simp [hbusy])]
  simp only [List.map_cons, List.map_nil, List.flatten_cons, List.flatten_nil, List.append_nil, h8, h10, List.take_append_drop]

end

/-- Settles O31: each register's own effect, in the part that the message begins. -/
theorem mailboxesAndDoorbells : Obligations.MailboxesAndDoorbells := by
  unfold Obligations.MailboxesAndDoorbells
  intro s port n t v h hv
  refine ⟨?mbxIn, ?mbxOut, ?bells, ?pubState, ?commands⟩
  case mbxIn =>
    intro slot c hs hc H u k q ho hst hroom
    obtain ⟨hslot, hctx⟩ := mbx_place (slot := slot) hc (k := 0) (by decide)
    have hm : isMbx (0x8000 + 32 * (slot * 16 + c)) = true := isMbx_of (k := 0) hs hc (by decide)
    have h32 : (0x8000 + 32 * (slot * 16 + c)) % 32 = 0 := by omega
    have happly := State.winApply_mbx (u := u) (b := n) (v := v) (t := t) hm
    rw [if_pos h32, show mbxSlot (0x8000 + 32 * (slot * 16 + c)) = slot from hslot,
      show mbxCtx (0x8000 + 32 * (slot * 16 + c)) = c from hctx, State.mbxIn_joins ho hst hroom] at happly
    have hw : u.winWrite n (0x8000 + 32 * (slot * 16 + c)) v t = _ :=
      State.winWrite_applies ((regAccess_mbx hm).trans (if_pos h32)) (by decide) (reservedOk_mbx hm (by omega)) happly
    exact congrArg Host.Outcome.next ((if_pos ⟨hs, hc⟩).trans (State.windowWrite_ok H (by omega) hv hw))
  case mbxOut =>
    intro slot c hs hc H u k ho hout hvk
    obtain ⟨hslot, hctx⟩ := mbx_place (slot := slot) hc (k := 0x18) (by decide)
    have hm : isMbx (0x8018 + 32 * (slot * 16 + c)) = true := isMbx_of (k := 0x18) hs hc (by decide)
    have h32 : (0x8018 + 32 * (slot * 16 + c)) % 32 = 24 := by omega
    obtain ⟨h63, h31, hseq⟩ := outSeq_fields k
    have happly := State.winApply_mbx (u := u) (b := n) (v := v) (t := t) hm
    rw [if_neg (by omega), show mbxSlot (0x8018 + 32 * (slot * 16 + c)) = slot from hslot,
      show mbxCtx (0x8018 + 32 * (slot * 16 + c)) = c from hctx, State.mbxOut_goes ho hout (hvk ▸ hseq)] at happly
    have hacc : regAccess (0x8018 + 32 * (slot * 16 + c)) = some 1 := by
      rw [regAccess_mbx hm, if_neg (by omega), if_pos h32]
    have hw : u.winWrite n (0x8018 + 32 * (slot * 16 + c)) v t = _ :=
      State.winWrite_applies hacc (by decide) (reservedOk_mbx hm fun _ => hvk ▸ ⟨h63, h31⟩) happly
    exact congrArg Host.Outcome.next ((if_pos ⟨hs, hc⟩).trans (State.windowWrite_ok H (by omega) hv hw))
  case bells =>
    intro idx hidx b u r p H
    obtain ⟨e0, e8⟩ := leAt_bell hidx hv
    have hrecv := State.recv_serveOp (noise := []) H fun hx => by cases hx
    rw [State.serveOp_doorbell rfl] at hrecv
    have hrings {off : Nat} {x : State} (hoff : bellOffset idx = some off) (hm : isMbx off = false) (hgo : off ≠ 0x860)
        (hw : u.winWrite n off v t = (Code.ok, x)) : s.recv port 0x60 h b [] t = x.answer r 0xE0 Code.ok [] := by
      have h0 : leAt r.body 0 2 = idx := e0
      have h8 : leAt r.body 8 8 = v := e8
      have hb : r.bind = n := rfl
      rw [hrecv, State.serveDoorbell_rings (r := r) (h0.symm ▸ hoff) (State.winWaits_plain hm hgo), h8, hb, hw]
      rfl
    constructor
    · intro hi hd hinc hres hfwd hroom
      have happly := State.winApply_ringBell (u := u) (b := n) (v := v) (t := t) hi
      rw [State.ringBell_rings hd hinc hfwd hroom] at happly
      have hw := State.winWrite_applies (ringBell_access hi).1 (by decide) (reservedOk_ringBell hi hres) happly
      have hm : isMbx (0x400 + 16 * idx) = false := by
        simp only [isMbx, Bool.and_eq_false_iff, decide_eq_false_iff_not]
        omega
      have hring : exec (.ringDoorbell port h idx v t) s = .next (s.recv port 0x60 h b [] t) := congrArg Host.Outcome.next (if_pos hi)
      exact ⟨hring.trans (congrArg Host.Outcome.next (hrings (if_pos hi) hm (by omega) hw)), hring.symm⟩
    · rintro rfl h1 h3 hfw hcmd
      have happly : u.winApply n 0x100 v t = _ := State.mgmtPost_takes hfw hcmd
      exact congrArg Host.Outcome.next (hrings rfl (by decide) (by decide)
        (State.winWrite_applies (acc := 2) (by decide) (by decide) (reservedOk_mgmt h1 h3) happly))
  case pubState =>
    intro b u H hbusy
    have hrecv := State.recv_serveOp (noise := []) H fun hx => by cases hx
    rw [State.serveOp_windowRead rfl] at hrecv
    exact congrArg Host.Outcome.next (hrecv.trans (State.serveWindowRead_pubState (r := (s.accepted port 0x62 h b n t).1) rfl hbusy))
  case commands =>
    intro k result c hf hl hcmd arg hpend ha harg
    have hserve := State.mgmtServe_ok hf hl hpend ha harg
    rcases hcmd with ⟨rfl, rfl, rfl⟩ | ⟨rfl, rfl, rfl⟩ | ⟨rfl, rfl, rfl⟩ <;> exact congrArg Host.Outcome.next hserve

end Sys2Proof.Machine


/-! Composites (15 R345 to R360, 14 R348). -/

namespace Sys2Proof.Machine

section
variable {s u : State} {b m v t : Nat} {c : Comp}

theorem State.comp_setComp (s : State) (m i : Nat) (c : Comp) : (s.setComp m c).comp i = if i = m then c else s.comp i := by
  unfold State.comp State.setComp
  rw [Tab.getD_set]

theorem State.comp_compCount (s : State) (slot i n m : Nat) : (s.compCount slot i n).comp m = s.comp m := by
  unfold State.compCount
  split <;> rfl

theorem State.compCount_effect (s : State) (slot i n : Nat) : ∃ regs, s.compCount slot i n = { s with regs := regs } := by
  unfold State.compCount
  split <;> exact ⟨_, rfl⟩

/-! ### Creating, excusing and closing (R345 to R347, R359, R360) -/

/-- The part with composite `m` created from the descriptor of binding `b`. -/
def State.created (u : State) (b m : Nat) : State :=
  let inc := ((u.comp m).inc + 1) % 2 ^ 22
  let x := (u.setWindow b { u.window b with comp := compResultWord Code.ok inc m }).setComp m
    { st := 1, part := bPart (u.binding b), inc := inc, desc := padTo 64 (u.window b).desc, order := u.reels.compOrder }
  { x with reels := { x.reels with lastComp := m, compOrder := u.reels.compOrder + 1 } }

theorem State.compCreate_opens (hc : u.compCheck (bPart (u.binding b)) (padTo 64 (u.window b).desc) = none) (hm : u.freeComp = some m) :
    u.compCreate b = (Code.ok, u.created b m) := by
  unfold State.compCreate
  dsimp only
  rw [hc, hm]
  rfl

theorem State.created_effect (u : State) (b m : Nat) : (u.created b m).comp m =
      { st := 1, part := bPart (u.binding b), inc := ((u.comp m).inc + 1) % 2 ^ 22
        desc := padTo 64 (u.window b).desc, order := u.reels.compOrder } ∧
    (∀ i, i ≠ m → (u.created b m).comp i = u.comp i) ∧
    ((u.created b m).window b).comp = Code.ok * 2 ^ 48 + 2 ^ 32 + ((u.comp m).inc + 1) % 2 ^ 22 * 2 ^ 10 + m ∧
    u.created b m = { u with reels := (u.created b m).reels } :=
  ⟨(State.comp_setComp ..).trans (if_pos rfl), fun _ hi => (State.comp_setComp ..).trans (if_neg hi),
    congrArg Window.comp (Tab.getD_set_same ..), rfl⟩

theorem compExcuse_fields {j ident : Nat} (hj : j < 4096) (hi : ident < 2 ^ 32) : reservedOk 0xB50 (j * 2 ^ 32 + ident) = true ∧
    fld (j * 2 ^ 32 + ident) 43 32 = j ∧ fld (j * 2 ^ 32 + ident) 31 0 = ident := by
  have h44 : j * 2 ^ 32 + ident < 2 ^ 44 := by omega
  refine ⟨?_, ?_, ?_⟩
  · simpa [reservedOk, isRing] using h44
  · simp only [fld, Nat.reduceAdd, Nat.reduceSub, Nat.reducePow]
    omega
  · simp only [fld, Nat.reduceAdd, Nat.reduceSub, Nat.reducePow]
    omega

theorem State.compExcuse_adds {p j ident : Nat} (hj : fld v 43 32 = j) (hi : fld v 31 0 = ident) (hn : u.namedComp p ident = some (m, c))
    (hlt : j < cdContribs c.desc) (hex : j ∉ c.excused) (hroom : c.excused.length < 16) :
    u.compExcuse p v = (Code.ok, u.setComp m { c with excused := c.excused ++ [j] }) := by
  unfold State.compExcuse
  dsimp only
  rw [hj, hi, hn]
  dsimp only
  rw [if_neg (by omega), if_neg (by simpa using hex), if_neg (by omega)]

theorem State.namedComp_some {p ident : Nat} (h : u.namedComp p ident = some (m, c)) :
    m = ident % 1024 ∧ c = u.comp m ∧ c.st = 1 ∧ c.part = p ∧ c.inc = ident / 1024 := by
  unfold State.namedComp at h
  dsimp only at h
  split at h
  next hc =>
    obtain ⟨rfl, rfl⟩ := Prod.mk.inj (Option.some.inj h)
    exact ⟨rfl, rfl, hc⟩
  next => cases h

theorem State.compClose_closes {p : Nat} (hn : u.namedComp p (fld v 31 0) = some (m, c)) : u.compClose p v =
    (Code.ok, ((((List.range (cdChunks c.desc)).filter c.isOpen).foldl (fun (x : State) i => x.compCount (cdHome c.desc i) 6 1) u).setComp m
      { c with st := 4, chunks := [] }).compNotify m c c.doneCount Code.closedByHost) := by
  obtain ⟨-, hc, hst, -⟩ := State.namedComp_some hn
  unfold State.compClose
  rw [hn]
  dsimp only
  unfold State.compAbort
  dsimp only
  rw [← hc, if_neg (not_not_intro hst), if_pos rfl]

/-! ### Contributions (R348, R351, R352) -/

theorem slice_padTo {n : Nat} (l : List Byte) (hn : l.length ≤ n) (k : Nat) : slice (padTo n l) 0 k = slice l 0 k := by
  have hpad : padTo n l = l ++ List.replicate (n - l.length) 0#8 := by
    unfold padTo
    exact List.take_of_length_le (by simp; omega)
  unfold slice
  dsimp only
  rw [hpad, List.drop_zero, List.drop_zero, List.take_append, List.take_replicate, List.append_assoc, List.replicate_append_replicate]
  congr 2
  simp only [List.length_append, List.length_take, List.length_replicate]
  omega

/-- The fields of a CONTRIB's body. -/
theorem contribBody_fields {ident contributor count offset fmt : Nat} (hi : ident < 2 ^ 32) (hj : contributor < 2 ^ 16) (hn : count < 2 ^ 16)
    (ho : offset < 2 ^ 32) (hf : fmt < 256) (data : List Byte) :
    let b := toLE 4 ident ++ toLE 2 contributor ++ toLE 2 count ++ toLE 4 offset ++ toLE 1 fmt ++ toLE 3 0 ++
      padTo (pad8 data.length) data
    leAt b 0 4 = ident ∧ leAt b 4 2 = contributor ∧ leAt b 6 2 = count ∧ leAt b 8 4 = offset ∧ leAt b 12 1 = fmt ∧
      ∀ k, slice b 16 k = slice data 0 k := by
  have hskip : ∀ (k m v i : Nat) (c : List Byte), k ≤ i → leAt (toLE k v ++ c) i m = leAt c (i - k) m :=
    fun k m v i c h => leAt_skip _ _ _ _ _ (length_toLE ..) h
  intro b
  refine ⟨?_, ?_, ?_, ?_, ?_, fun k => ?_⟩
  · simp only [b, List.append_assoc]
    rw [leAt_head]
    omega
  · simp only [b, List.append_assoc]
    rw [hskip _ _ _ _ _ (by decide), leAt_head]
    omega
  · simp only [b, List.append_assoc]
    rw [hskip _ _ _ _ _ (by decide), hskip _ _ _ _ _ (by decide), leAt_head]
    omega
  · simp only [b, List.append_assoc]
    rw [hskip _ _ _ _ _ (by decide), hskip _ _ _ _ _ (by decide), hskip _ _ _ _ _ (by decide), leAt_head]
    omega
  · simp only [b, List.append_assoc]
    rw [hskip _ _ _ _ _ (by decide), hskip _ _ _ _ _ (by decide), hskip _ _ _ _ _ (by decide), hskip _ _ _ _ _ (by decide), leAt_head]
    omega
  · have hlen : (toLE 4 ident ++ toLE 2 contributor ++ toLE 2 count ++ toLE 4 offset ++ toLE 1 fmt ++ toLE 3 0).length = 16 := by
      simp only [List.length_append, length_toLE]
    have hdrop : slice b 16 k = slice (padTo (pad8 data.length) data) 0 k := by
      unfold slice
      rw [List.drop_left' hlen, List.drop_zero]
    rw [hdrop, slice_padTo _ (by unfold pad8; omega)]

/-- The part after a contribution has been added to its chunk. -/
def State.contributed (s : State) (p ident contributor offset : Nat) (codes : List Nat) : State :=
  let c := s.comp (ident % 1024)
  let k := Tab.getD c.chunks (offset / 4096) {}
  let mask := (2 ^ ceilDiv codes.length 512 - 1) * 2 ^ (offset % 4096 / 512)
  let home := cdHome c.desc (offset / 4096)
  ((((s.setComp (ident % 1024) { c with chunks := Tab.set c.chunks (offset / 4096) (codes.zipIdx.foldl
      (fun (k : Chunk) e => k.add c.desc (offset % 4096 + e.2) e.1)
      { k with took := Tab.set k.took contributor (Tab.getD k.took contributor 0 ||| mask) }) }).compCount home 0 1).compCount home 1
        codes.length).meterAdd p Mt.elements codes.length).spend home p (if cdExact c.desc then 10 else 11) codes.length

theorem State.contributed_effect (s : State) (p ident contributor offset : Nat) (codes : List Nat) :
    (s.contributed p ident contributor offset codes).comp (ident % 1024) = { s.comp (ident % 1024) with
      chunks := Tab.set (s.comp (ident % 1024)).chunks (offset / 4096) (codes.zipIdx.foldl
        (fun (k : Chunk) e => k.add (s.comp (ident % 1024)).desc (offset % 4096 + e.2) e.1)
        { Tab.getD (s.comp (ident % 1024)).chunks (offset / 4096) {} with
          took := Tab.set (Tab.getD (s.comp (ident % 1024)).chunks (offset / 4096) {}).took contributor
            (Tab.getD (Tab.getD (s.comp (ident % 1024)).chunks (offset / 4096) {}).took contributor 0 |||
              (2 ^ ceilDiv codes.length 512 - 1) * 2 ^ (offset % 4096 / 512)) }) } ∧
    (∀ j, j ≠ ident % 1024 → (s.contributed p ident contributor offset codes).comp j = s.comp j) ∧
    ∃ reels regs meter gaff, s.contributed p ident contributor offset codes =
      { s with reels := reels, regs := regs, meter := meter, gaff := gaff } := by
  have hcomp (j : Nat) : (s.contributed p ident contributor offset codes).comp j = State.comp _ j :=
    (State.comp_compCount _ _ 1 codes.length j).trans (State.comp_compCount _ _ 0 1 j)
  refine ⟨(hcomp _).trans ((State.comp_setComp ..).trans (if_pos rfl)), fun j hj =>
    (hcomp j).trans ((State.comp_setComp ..).trans (if_neg hj)), ?_⟩
  unfold State.contributed
  dsimp only
  obtain ⟨_, h0⟩ := State.compCount_effect (s.setComp (ident % 1024) _) (cdHome (s.comp (ident % 1024)).desc (offset / 4096)) 0 1
  rw [h0]
  obtain ⟨_, h1⟩ := State.compCount_effect { s.setComp (ident % 1024) _ with regs := _ } (cdHome (s.comp (ident % 1024)).desc (offset / 4096)) 1
    codes.length
  rw [h1]
  exact ⟨_, _, _, _, rfl⟩

theorem State.contribute_adds {p ident contributor offset : Nat} {codes : List Nat} (hc : s.comp (ident % 1024) = c) (hst : c.st = 1)
    (hp : c.part = p) (hinc : c.inc = ident / 1024) (hseg : segRule c.desc contributor offset codes.length = true)
    (hex : contributor ∉ c.excused) (hcomp : c.complete (offset / 4096) = false) (hopen : c.isOpen (offset / 4096) = true)
    (htook : Tab.getD (Tab.getD c.chunks (offset / 4096) {}).took contributor 0 &&&
      (2 ^ ceilDiv codes.length 512 - 1) * 2 ^ (offset % 4096 / 512) = 0) :
    s.contribute p ident contributor offset (cdFmt c.desc) codes =
      (⟨Code.ok, c.base, c.credits⟩, s.contributed p ident contributor offset codes) := by
  unfold State.contribute State.contributed
  dsimp only
  rw [hc, if_neg (by simp [hst, hp, hinc]), if_neg (by simp [hseg]), if_neg (by omega), if_neg (not_not_intro hst),
    if_neg (by simpa using hex), if_neg (by simp [hcomp]), if_neg (by simp [hopen]), if_neg (not_not_intro htook)]

theorem State.serveOp_contrib {r : Req} {noise : List (Nat × Nat)} (h : r.op = 0x20) : u.serveOp r noise t = u.serveContrib r := by
  unfold State.serveOp
  simp only [h, Nat.reduceEqDiff, if_false, if_true, or_self]

theorem State.serveContrib_adds {r : Req} {w : State} {ident contributor count offset fmt base credits : Nat} {data : List Byte}
    (h0 : leAt r.body 0 4 = ident) (h4 : leAt r.body 4 2 = contributor) (h6 : leAt r.body 6 2 = count) (h8 : leAt r.body 8 4 = offset)
    (h12 : leAt r.body 12 1 = fmt) (hdata : slice r.body 16 (contribDataLen fmt count) = slice data 0 (contribDataLen fmt count))
    (hlive : u.handleLive r.h.handle = true)
    (hreach : u.reached (cdHome (u.comp (ident % 1024)).desc (offset / 4096)) (handlePart r.h.handle) = false)
    (hadd : u.contribute (handlePart r.h.handle) ident contributor offset fmt
      (elemsOf (fmtBits fmt) count (ofLE (slice data 0 (contribDataLen fmt count)))) = (⟨Code.ok, base, credits⟩, w)) :
    u.serveContrib r = w.answer r 0xA0 Code.ok (toLE 4 base ++ toLE 2 credits ++ toLE 2 0) := by
  unfold State.serveContrib State.contribHome
  dsimp only
  rw [h0, h4, h6, h8, h12, hdata, hlive, hreach, hadd]
  rfl

/-! ### Chunk results (R355, R357) -/

/-- BASE moves only over chunks that have completed. -/
theorem advanceBase_complete (k : Nat) {i : Nat} : ∀ (b : Nat) (l : List Nat), i < b ∨ i ∈ l →
    i < (advanceBase k b l).1 ∨ i ∈ (advanceBase k b l).2 := by
  induction k with
  | zero => exact fun b l h => h
  | succ k ih =>
    intro b l h
    unfold advanceBase
    split
    · refine ih _ _ ?_
      by_cases hib : i = b
      · exact .inl (by omega)
      · exact h.elim (fun h => .inl (by omega)) fun h => .inr (List.mem_filter.mpr ⟨h, by simpa using hib⟩)
    · exact h

end

/-- Settles O32: each register's and each command's own effect. -/
theorem composites : Obligations.Composites := by
  unfold Obligations.Composites
  intro s port n t m h c
  refine ⟨?create, ?excuse, ?close, ?contrib, ?chunk, ?complete, ?stall⟩
  case create =>
    intro H u p d inc hcheck hfree
    have happly : u.winApply n 0xB40 1 t = (Code.ok, u.created n m) := State.compCreate_opens hcheck hfree
    have hw := State.winWrite_applies (acc := 2) (by decide) (by decide) (by decide) happly
    exact ⟨u.created n m, congrArg Host.Outcome.next (State.windowWrite_ok H (by decide) (by decide) hw), u.created_effect n m⟩
  case excuse =>
    intro j ident hident hj hj4 H u hn hex hroom
    obtain ⟨hres, h43, h31⟩ := compExcuse_fields hj4 hident
    have happly : u.winApply n 0xB50 (j * 2 ^ 32 + ident) t = _ := State.compExcuse_adds h43 h31 hn hj hex hroom
    have hw := State.winWrite_applies (acc := 2) (by decide) (by decide) hres happly
    exact congrArg Host.Outcome.next (State.windowWrite_ok H (by decide) (by omega) hw)
  case close =>
    intro ident hident H u hn
    have h31 : fld ident 31 0 = ident := by
      simp only [fld, Nat.reduceAdd, Nat.reduceSub, Nat.reducePow]
      omega
    have happly : u.winApply n 0xB58 ident t = _ := State.compClose_closes (by rw [h31]; exact hn)
    have hres : reservedOk 0xB58 ident = true := by simpa [reservedOk, isRing] using hident
    have hw := State.winWrite_applies (acc := 2) (by decide) (by decide) hres happly
    exact congrArg Host.Outcome.next (State.windowWrite_ok H (by decide) (by omega) hw)
  case contrib =>
    intro ident contributor count offset fmt data hident hj hcount hoff hfmt b u p i mask k codes H hlive hreach hc hst hp hinc hf
      hseg hex hcomp hopen htook
    have hlen : codes.length = count := by simp only [codes, elemsOf, List.length_map, List.length_range]
    obtain ⟨h0, h4, h6, h8, h12, hdata⟩ := contribBody_fields hident hj hcount hoff hfmt data
    subst hf
    have hadd := State.contribute_adds (s := u) (codes := codes) hc hst hp hinc (hlen ▸ hseg) hex hcomp hopen (hlen ▸ htook)
    have hrecv := State.recv_serveOp (noise := []) H fun hx => by cases hx
    rw [State.serveOp_contrib rfl] at hrecv
    obtain ⟨hself, hother, reels, regs, meter, gaff, honly⟩ := u.contributed_effect p ident contributor offset codes
    rw [hc, hlen] at hself
    refine ⟨u.contributed p ident contributor offset codes, congrArg Host.Outcome.next (hrecv.trans
      (State.serveContrib_adds (r := (s.accepted port 0x20 h b n t).1) h0 h4 h6 h8 h12 (hdata _) hlive (hc.symm ▸ hreach) hadd)),
      hself, hother, ?_⟩
    rw [honly]
  case chunk =>
    intro i hc hst hopen hfull hreach res a ps w r excess b hw hr
    refine ⟨congrArg Host.Outcome.next ?_, ?_⟩
    · have hr' : (!r.1) = false := by rw [hr, Bool.not_true]
      subst hc
      refine (if_neg (by simp [hst, hopen, hfull])).trans ((if_neg (by simp [hreach])).trans ?_)
      exact (if_neg (Bool.eq_false_iff.mp hw)).trans (if_neg (Bool.eq_false_iff.mp hr'))
    · have hb : i < b.1 ∨ i ∈ b.2 := advanceBase_complete _ _ _ (.inr List.mem_cons_self)
      simpa [Comp.complete] using hb
  case complete =>
    rintro rfl hst hbase
    exact congrArg Host.Outcome.next (if_pos ⟨hst, hbase⟩)
  case stall =>
    rintro rfl hst h0 hidle
    exact congrArg Host.Outcome.next (if_pos ⟨hst, h0, hidle⟩)

end Sys2Proof.Machine


/-! Requests that wait go on (04 R107, R111, R115, 09 R209, 10 R229). -/

namespace Sys2Proof.Machine

/-- The only request that waits, for what has come, is served alone. -/
theorem State.release_single {s : State} {w : Wait} {r : Req} (f : State → Req → State) (h : s.waiting = [(w, r)]) :
    s.release w f = f { s with waiting := [] } r := by
  unfold State.release State.waitersOf State.dropWaiters
  rw [h]
  simp

/-- Settles O37: each command finds its request and serves it as the model says. -/
theorem waitingRequests : Obligations.WaitingRequests := by
  unfold Obligations.WaitingRequests
  rintro s port id t noise r rfl hid
  refine ⟨?fence, ?dispatch, ?recheck, ?retry, ?move, ?expiry⟩
  case fence =>
    rintro hf he hb u rfl hm hq
    have hinject : ((s.at t).takeWaiter .fence r).inject r noise t = (((s.at t).takeWaiter .fence r).useCells r.port (handlePart r.h.handle)
        r.h.len).serveData r noise t := by
      unfold State.inject
      rw [if_neg (by simp [hb])]
      dsimp only
      rw [hm, hq]
      rfl
    refine congrArg Host.Outcome.next ?_
    rw [show (s.at t).waitersOf .fence = s.waitersOf .fence from rfl, hf]
    dsimp only
    rw [show (s.at t).earlier r = s.earlier r from rfl, he, if_neg Bool.false_ne_true, hinject]
  case dispatch =>
    intro p rest hq hm
    refine congrArg Host.Outcome.next ?_
    rw [show (s.at t).queued r.port p = s.queued r.port p from rfl, hq]
    exact if_pos hm
  case recheck =>
    intro hf
    refine congrArg Host.Outcome.next ?_
    rw [show (s.at t).waitersOf .home = s.waitersOf .home from rfl, hf]
  case retry =>
    intro ln hw
    exact congrArg Host.Outcome.next (State.release_single (s := s.at t) _ hw)
  case move =>
    intro slot hmv hw
    refine congrArg Host.Outcome.next ?_
    dsimp only
    rw [show (s.at t).cont.moving = s.cont.moving from rfl, hmv]
    exact State.release_single (s := (s.at t).setCont { (s.at t).cont with moving := none }) _ hw
  case expiry =>
    refine ⟨_, rfl, fun c => ?_, fun q hq => State.port_updPort_other _ _ _ hq, rfl⟩
    rw [State.port_updPort, List.mem_filter, decide_eq_true_eq]

end Sys2Proof.Machine


/-! Responses to the part's own requests (04 R108, R116), and paired extents (10 R236 to R239). -/

namespace Sys2Proof.Machine

/-! ### A write received for a secondary part (R103, R236) -/

theorem State.serveOp_pairWrite {u : State} {r : Req} {noise : List (Nat × Nat)} {t : Nat} (h : r.op = 0x58) :
    u.serveOp r noise t = u.servePairWrite r := by
  unfold State.serveOp
  simp only [h, Nat.reduceEqDiff, if_false, if_true, Nat.reduceLeDiff, or_self, and_false]

/-- The fields of a PAIR_WRITE's body. -/
theorem pairBody_fields {pr off : Nat} {data : List Byte} (hp : pr < 2 ^ 32) (ho : off < 2 ^ 64) (hd : data.length ≤ 4096) :
    let b := toLE 4 pr ++ toLE 4 0 ++ toLE 8 off ++ toLE 2 data.length ++ toLE 6 0 ++ data
    leAt b 0 4 = pr ∧ leAt b 8 8 = off ∧ leAt b 16 2 = data.length ∧ slice b 24 data.length = data := by
  have hskip : ∀ (k m v i : Nat) (c : List Byte), k ≤ i → leAt (toLE k v ++ c) i m = leAt c (i - k) m :=
    fun k m v i c h => leAt_skip _ _ _ _ _ (length_toLE ..) h
  intro b
  refine ⟨?_, ?_, ?_, ?_⟩
  · simp only [b, List.append_assoc]
    rw [leAt_head]
    omega
  · simp only [b, List.append_assoc]
    rw [hskip _ _ _ _ _ (by decide), hskip _ _ _ _ _ (by decide), leAt_head]
    omega
  · simp only [b, List.append_assoc]
    rw [hskip _ _ _ _ _ (by decide), hskip _ _ _ _ _ (by decide), hskip _ _ _ _ _ (by decide), leAt_head]
    omega
  · have hlen : (toLE 4 pr ++ toLE 4 0 ++ toLE 8 off ++ toLE 2 data.length ++ toLE 6 0).length = 24 := by
      simp only [List.length_append, length_toLE]
    rw [slice_of_le _ _ _ (Nat.le_of_eq (by rw [List.length_append, hlen])), List.drop_left' hlen, List.take_length]

section
variable {u : State} {r : Req} {pr off : Nat} {data : List Byte}

theorem State.servePairWrite_stores (h0 : leAt r.body 0 4 = pr) (h8 : leAt r.body 8 8 = off) (h16 : leAt r.body 16 2 = data.length)
    (hdata : slice r.body 24 data.length = data) (hvalid : pdValid (u.pair (pr % 1024)) = true)
    (hinc : pdInc (u.pair (pr % 1024)) = pr / 1024) (hsec : pdSecondary (u.pair (pr % 1024)) = true) (hal : off % 128 = 0)
    (hfit : off + data.length ≤ 2 ^ 28) :
    let d := u.pair (pr % 1024)
    let e := u.entry (pdPart d) (pdExtent d)
    let va := eTag e * 2 ^ 42 + pdExtent d * 2 ^ 28 + off
    let w := u.writeBytes e va data (u.handleOf (pdPart d)) []
    eValid e = true → Tab.find u.erasing (eDxn e) = none → u.keySt (eDxn e) ≠ 0 → u.tagOk e va (u.handleOf (pdPart d)) = true →
      w.1.all id = true → u.servePairWrite r = w.2.answerSt r Code.ok := by
  intro d e va w he hera hkey htag hall
  have htag' : ¬ (!u.tagOk e va (u.handleOf (pdPart d))) = true := by rw [htag]; exact Bool.false_ne_true
  unfold State.servePairWrite
  dsimp only
  rw [h0, h8, h16, hdata, if_neg (by simp [hvalid, hinc]), if_neg (by simp [hsec]), if_neg (by omega)]
  refine (if_neg (by rw [he]; exact Bool.false_ne_true)).trans ((if_neg (by rw [hera]; exact Bool.false_ne_true)).trans ?_)
  exact (if_neg htag').trans ((if_neg hkey).trans (congrArg _ (if_pos hall)))

end

/-! ### What the peer answers (R236, R238) -/

/-- An answer leaves an empty list of waiting requests empty, and the continuity state as it is. -/
theorem State.answer_idle {s : State} (r : Req) (op st : Nat) (body : List Byte) (hw : s.waiting = []) :
    (s.answer r op st body).waiting = [] ∧ (s.answer r op st body).cont = s.cont := by
  have h2 (s : State) (port : Nat) (m : Msg) : (s.sendResp port m).waiting = s.waiting ∧ (s.sendResp port m).cont = s.cont := by
    unfold State.sendResp State.send
    dsimp only
    split <;> exact ⟨rfl, rfl⟩
  have hs2 (c : Prop) [Decidable c] (x : State) (p k : Nat) (m : Msg) :
      (if c then x.sendResp p m else x.count k 1).waiting = x.waiting ∧ (if c then x.sendResp p m else x.count k 1).cont = x.cont := by
    split
    · exact h2 _ _ _
    · exact ⟨rfl, rfl⟩
  have hport (p : Nat) (q : Port) : (s.setPort p q).waiting = [] := hw
  unfold State.answer
  dsimp only
  split
  · have hnil : ∀ x : State, x.waiting = [] → x.waitersOf .firstResp = [] := by
      intro x hx
      unfold State.waitersOf
      rw [hx]
      rfl
    rw [hnil _ ((hs2 ..).1.trans (hport _ _))]
    exact ⟨(hs2 ..).1.trans (hport _ _), (hs2 ..).2⟩
  · exact ⟨(hs2 ..).1.trans (hport _ _), (hs2 ..).2⟩

theorem State.wake_idle {s : State} (w : Wait) (h : s.waiting = []) : s.wake w = s := by
  unfold State.wake
  rw [h]
  exact congrArg (fun l => { s with waiting := l }) h.symm

theorem State.sendAgain_idle {s : State} (n : Nat) (h : s.cont.pairAgain = []) : s.sendAgain n = s := by
  unfold State.sendAgain
  dsimp only
  rw [h]
  rfl

theorem State.pairDone_single {s : State} {n st : Nat} {body : List Byte} {r : Req} (h : s.waiting = [(.pair n st body, r)]) :
    s.pairDone n r.port r.id = ({ s with waiting := [] } : State).answer r (respOp r.op) st body := by
  unfold State.pairDone
  rw [h]
  simp [isPairWait]

theorem bit_or_two_pow (a i : Nat) : bit (a ||| 2 ^ i) i = true := by
  have h : (a ||| 2 ^ i).testBit i = true := by simp [Nat.testBit_or]
  rw [Nat.testBit_eq_decide_div_mod_eq] at h
  simpa [bit, fld] using h

theorem State.dirtyAt_markDirty (s : State) (n t off : Nat) : bit ((s.markDirty n t off).dirtyAt n t) (off / 2 ^ 20) = true := by
  have hbit := bit_or_two_pow (s.dirtyAt n t) (off / 2 ^ 20)
  have hne : s.dirtyAt n t ||| 2 ^ (off / 2 ^ 20) ≠ 0 := by
    intro h0
    rw [h0] at hbit
    simp [bit, fld] at hbit
  have hval : (s.markDirty n t off).dirtyAt n t = s.dirtyAt n t ||| 2 ^ (off / 2 ^ 20) := by
    unfold State.markDirty State.setDirty
    dsimp only
    rw [if_neg hne]
    exact Tab.getD_set_same ..
  rw [hval, hbit]

/-! ### Resync (R239) -/

theorem State.resyncSend_first {s : State} {n tile q off reg : Nat} (hv : pdValid (s.pair n) = true) (hs : pdSecondary (s.pair n) = false)
    (hst : s.rd (K.pairState n) = 3) (hnone : Tab.find s.cont.resync (n * 64 + tile) = none)
    (hreg : lowestBit (s.dirtyAt n tile) = some reg) (hport : s.pairPort (s.pair n) = some q)
    (hoff : s.resyncOffset (s.pair n) tile reg 0 = some off) (hclash : s.pairClash n off 4096 = false) {g : List Byte × State}
    (hg : s.resyncRead (s.entry (pdPart (s.pair n)) (pdExtent (s.pair n)))
      (eTag (s.entry (pdPart (s.pair n)) (pdExtent (s.pair n))) * 2 ^ 42 + pdExtent (s.pair n) * 2 ^ 28 + off) 4096 = g) :
    s.resyncSend n tile = (g.2.setCont { g.2.cont with resync := Tab.set g.2.cont.resync (n * 64 + tile) (reg, 1) }).sendPair n q off g.1
      (.pairResync n tile (off / 4096)) := by
  unfold State.resyncSend
  dsimp only
  rw [if_neg (by simp [hv, hs, hst]), hnone]
  dsimp only
  rw [hreg, hport]
  dsimp only [Option.map_some]
  rw [hoff]
  dsimp only
  rw [if_neg (by simp [hclash]), hg]

/-- Settles O38: the part that receives stores the bytes, the part that sent lets its writes go on or degrades the pair. -/
theorem pairedExtents : Obligations.PairedExtents := by
  unfold Obligations.PairedExtents
  intro s port t n h
  refine ⟨?write, ?ok, ?other, ?resync⟩
  case write =>
    intro pr off data hpr hoff hlen hal hfit b u d e w H hvalid hinc hsec he hera hkey htag hall
    obtain ⟨h0, h8, h16, hdata⟩ := pairBody_fields hpr hoff hlen
    have hrecv := State.recv_serveOp (noise := []) H fun hx => by cases hx
    rw [State.serveOp_pairWrite rfl, State.servePairWrite_stores (r := (s.accepted port 0x58 h b 4096 t).1) h0 h8 h16 hdata hvalid hinc hsec
      hal hfit he hera hkey htag hall] at hrecv
    exact congrArg Host.Outcome.next hrecv
  case ok =>
    rintro x q r st body H rfl hp rfl hst hw hagain
    have hans := State.answer_idle (s := { (s.at t).settle x with waiting := [] }) r (respOp r.op) st body rfl
    have hdone : ((s.at t).settle x).pairDone n r.port r.id = ({ (s.at t).settle x with waiting := [] } : State).answer r (respOp r.op) st body :=
      State.pairDone_single hw
    refine congrArg Host.Outcome.next ((State.onResp_matches _ _ _ _ _ _ _ H).trans ?_)
    unfold State.pairAnswered
    dsimp only
    rw [hp]
    dsimp only
    rw [if_pos hst, hdone, State.sendAgain_idle n (by rw [hans.2]; exact hagain), State.wake_idle _ hans.1]
  case other =>
    rintro x q i H rfl hp hst - off
    refine ⟨((s.at t).settle x).markDirty n (s.pairTile n off) off, congrArg Host.Outcome.next ((State.onResp_matches _ _ _ _ _ _ _ H).trans ?_), rfl,
      State.dirtyAt_markDirty ..⟩
    unfold State.pairAnswered
    dsimp only
    rw [hp]
    exact if_neg hst
  case resync =>
    intro tile q off reg hv hs hst hnone hreg hport hoff hclash e g
    exact congrArg Host.Outcome.next (State.resyncSend_first (s := s.at t) hv hs hst hnone hreg hport hoff hclash rfl)

end Sys2Proof.Machine


/-! Responses, timeouts, and requests with no home (04 R93 to R96, R108, R116). -/

namespace Sys2Proof.Machine

section
variable {s : State} {port op t dst tag epoch : Nat} {h : Hdr} {x : PartReq}

theorem State.port_settle (s : State) (x : PartReq) : ((s.settle x).port x.port).outReq = (s.port x.port).outReq.filter (fun y =>
      !(y.msg.dst = x.msg.dst ∧ y.msg.tag = x.msg.tag ∧ y.msg.epoch = x.msg.epoch)) ∧
    ((s.settle x).port x.port).out = (s.port x.port).out := by
  unfold State.settle
  rw [State.port_updPort]
  exact ⟨rfl, rfl⟩

/-- The effect of a response that only settles its request. -/
theorem State.plainResp_settles (H : Matches s port op h t x) : s.plainResp port op h t =
    if h.status ∈ plainOutcomes op then (s.at t).settle x else ((s.at t).settle x).count (K.transportCounts port 9) 1 := by
  unfold State.plainResp
  rw [State.onResp_matches _ _ _ _ _ _ _ H]
  unfold State.outcome
  by_cases hc : h.status ∈ plainOutcomes op
  · rw [if_pos (by simpa using hc), if_pos hc]
  · rw [if_neg (by simpa using hc), if_neg hc]
    rfl

/-! ### Resends (R116) -/

/-- The part with its one outstanding request `x` replaced. -/
theorem State.partReqTimeout_single (hout : (s.port port).outReq = [x]) (hd : x.msg.dst = dst) (ht : x.msg.tag = tag) (he : x.msg.epoch = epoch)
    (hgone : x.gone = false) :
    ∃ u : State, u = { s.at t with ports := u.ports } ∧ u.port port = { s.port port with outReq := [{ x with
        resends := if x.resends < s.eff (K.partReqRetries port) then x.resends + 1 else x.resends
        gone := !decide (x.resends < s.eff (K.partReqRetries port)) }] } ∧
      exec (.partReqTimeout port dst tag epoch t) s = .next (if x.resends < s.eff (K.partReqRetries port) then
        u.sendOwn port { x.msg with flags := 128 } else u.givenUp x) := by
  refine ⟨(s.at t).updPort port (fun q => { q with outReq := q.outReq.map (fun y =>
    if y.msg.dst = dst ∧ y.msg.tag = tag ∧ y.msg.epoch = epoch then
      { y with resends := if decide (x.resends < s.eff (K.partReqRetries port)) then y.resends + 1 else y.resends
               gone := !decide (x.resends < s.eff (K.partReqRetries port)) }
    else y) }), rfl, ?_, ?_⟩
  · have hout' : ((s.at t).port port).outReq = [x] := hout
    rw [State.port_updPort, hout']
    simp only [List.map_cons, List.map_nil, hd, ht, he, and_self, if_true, decide_eq_true_eq]
    rfl
  · refine congrArg Host.Outcome.next ?_
    have hfind : ((s.at t).port port).outReq.find? (fun x => x.msg.dst = dst && x.msg.tag = tag && x.msg.epoch = epoch) = some x := by
      rw [show ((s.at t).port port).outReq = [x] from hout]
      simp [hd, ht, he]
    rw [hfind]
    dsimp only
    rw [hgone]
    simp only [Bool.false_eq_true, if_false, decide_eq_true_eq]
    rfl

theorem State.sendOwn_passes {u : State} {m : Msg} (hp : u.passes port m.op = true) :
    ((u.sendOwn port m).port port) = { u.port port with out := (u.port port).out ++ [m] } ∧
      ∃ ports meter, u.sendOwn port m = { u with ports := ports, meter := meter } := by
  unfold State.sendOwn
  rw [if_pos hp]
  have hput := State.port_updPort u port (fun q => { q with out := q.out ++ [m] })
  unfold State.send
  dsimp only
  split
  · exact ⟨hput, _, _, rfl⟩
  · exact ⟨hput, _, _, rfl⟩

theorem State.givenUp_notify (hp : x.purpose = .notify) (hb : leAt x.msg.body 0 2 ≠ 2) :
    s.givenUp x = (s.count (K.transportCounts x.port 8) 1).settle x := by
  unfold State.givenUp
  dsimp only
  rw [hp]
  dsimp only
  unfold State.moverGivenUp
  rw [hp]
  exact if_neg hb

/-! ### Requests with no home (R93, R96) -/

theorem State.unsupported_refused (hop : op < 128) (hopen : (s.at t).portOpen port = true) (hdst : h.dst = s.rd (K.portEid port))
    (hpass : (s.at t).passes port op = true) (hnot : op ∉ receivedOps) :
    s.unsupported port op h t = (s.at t).refuse port op h Code.unsupported := by
  have harr : (s.at t).checkArrival port op h [] = .refused Code.unsupported := by
    unfold State.checkArrival
    dsimp only
    rw [if_neg fun hc => hc.1 hdst, if_neg (by simp [hpass]), if_pos (by simpa using hnot)]
  unfold State.unsupported
  dsimp only
  rw [if_neg (by simp [hopen]), if_pos hop, harr]

theorem listedOps_of_received (h : op ∉ listedOps) : op ∉ receivedOps :=
  fun hc => h (List.mem_append_left _ (List.mem_append_left _ hc))

end

/-- Settles O36: by the purpose of the request that a response matches, and by the OPCODE where none does. -/
theorem responsesAndTimeouts : Obligations.ResponsesAndTimeouts := by
  unfold Obligations.ResponsesAndTimeouts
  rintro s port t op h x rfl
  refine ⟨?plain, ?unmatched, ?resent, ?givenUp, ?request, ?response⟩
  case plain =>
    intro c hc H
    have hex : exec c s = .next (s.plainResp x.port op h t) := by
      rcases hc with ⟨rfl, rfl⟩ | ⟨rfl, rfl⟩ | ⟨rfl, rfl⟩ <;> rfl
    obtain ⟨hout, hkeep⟩ := (s.at t).port_settle x
    refine ⟨(s.at t).settle x, by rw [hex, State.plainResp_settles H], fun y hy hsame => ?_, hkeep, rfl⟩
    rw [hout] at hy
    obtain ⟨-, hne⟩ := List.mem_filter.mp hy
    simp [hsame] at hne
  case unmatched =>
    intro hop hopen hdst hpass hno
    have hdst' : h.dst = (s.at t).rd (K.portEid x.port) := hdst
    refine congrArg Host.Outcome.next ((if_neg (by omega)).trans ?_)
    unfold State.onResp
    dsimp only
    rw [if_neg (by simp [hopen]), if_neg fun hc => hc.1 hdst', if_neg (by simp [hpass])]
    rcases hno with hno | ⟨y, hy, hlegal⟩
    · rw [hno]
      rfl
    · rw [hy]
      exact if_neg (by rw [hlegal]; exact Bool.false_ne_true)
  case resent =>
    intro dst tag epoch hout hd ht he hpass hgone hlt
    obtain ⟨u, hu, hport, hex⟩ := State.partReqTimeout_single (t := t) hout hd ht he hgone
    have hpass' : u.passes x.port x.msg.op = true := by
      rw [hu]
      exact hpass
    obtain ⟨hsent, ports, meter, honly⟩ := State.sendOwn_passes (m := { x.msg with flags := 128 }) hpass'
    rw [if_pos hlt] at hex
    refine ⟨_, hex, ?_, ?_, ?_⟩
    · rw [hsent, hport]
      simp [hlt, hgone]
    · rw [hsent, hport]
    · rw [honly, hu]
  case givenUp =>
    intro dst tag epoch hout hd ht he hp hb hgone hle
    obtain ⟨u, hu, hport, hex⟩ := State.partReqTimeout_single (t := t) hout hd ht he hgone
    obtain ⟨hfilter, hkeep⟩ := (u.count (K.transportCounts x.port 8) 1).port_settle x
    have hcount : (u.count (K.transportCounts x.port 8) 1).port x.port = u.port x.port := rfl
    rw [if_neg (by omega), State.givenUp_notify hp hb] at hex
    refine ⟨_, hex, ?_, ?_, fun k hk => ?_, ?_⟩
    · rw [hfilter, hcount, hport]
      simp
    · rw [hkeep, hcount, hport]
    · have hrd : u.rd k = s.rd k := by
        rw [hu]
        rfl
      exact (State.rd_wr_other _ _ _ _ (fun hc => hk (by simp [hc]))).trans hrd
    · rw [hu]
      rfl
  case request =>
    intro c hop hc hopen hdst hpass
    rcases hc with ⟨hnot, rfl⟩ | ⟨hin, hnot, rfl⟩
    · exact congrArg Host.Outcome.next ((if_neg (by simpa using hnot)).trans
        (State.unsupported_refused hop hopen hdst hpass (listedOps_of_received hnot)))
    · exact congrArg Host.Outcome.next ((if_pos (by simp [hin, hnot, hop])).trans
        (State.unsupported_refused hop hopen hdst hpass hnot))
  case response =>
    intro hop hnot hopen
    refine congrArg Host.Outcome.next ((if_neg (by simpa using hnot)).trans ?_)
    unfold State.unsupported
    dsimp only
    rw [if_neg (by simp [hopen]), if_neg (by omega), show (s.at t).rd (K.portEid x.port) = s.rd (K.portEid x.port) from rfl]
    by_cases hd : h.dst = s.rd (K.portEid x.port)
    · rw [if_neg (not_not_intro hd), if_pos hd]
      rfl
    · rw [if_neg hd]
      exact if_pos hd

end Sys2Proof.Machine


/-! The mover: descriptors, bursts, completion records, halts (11 R251 to R264). -/

namespace Sys2Proof.Machine

/-! ### Descriptors (R251 to R254) -/

/-- The task of a descriptor `b` that ring `r` of partition `p` of `s` fetches; `v` is the part once it has been read. -/
def State.fetchedTask (s v : State) (p r slab : Nat) (b : List Byte) : MTask :=
  { id := v.mover.nextId, part := p, ring := r, slot := rgSlot (s.ringDesc p r), engine := rgEngine (s.ringDesc p r), slab := slab
    count := (s.ring p r).fetched, handle := s.handleOf p
    addr := rgBase (s.ringDesc p r) + 64 * ((s.ring p r).fetched % 2 ^ rgLog (s.ringDesc p r)), desc := b
    agent := v.rd (K.agents (leAt b 2 2)), detached := false, state := if leAt b 0 1 = 0 then 5 else 1, tries := 0, fault := none
    absent := none, pages := [], bytesDone := 0, bytesIssued := 0, bursts := []
    final := if leAt b 0 1 = 0 then some Code.ok else none, written := false }

/-- That task held, and the ring's FETCHED one further. -/
def State.taskAdded (s v : State) (p r : Nat) (tk : MTask) : State :=
  ({ v with mover := { v.mover with tasks := v.mover.tasks ++ [tk], nextId := v.mover.nextId + 1 } } : State).setRing p r
    { s.ring p r with fetched := ((s.ring p r).fetched + 1) % 2 ^ 32 }

section
variable {s v : State} {p r slab : Nat} {b : List Byte}

theorem execDescriptorFetch_task (hslab : s.freeSlab p r = some slab) (hguard : s.fl.inGuard = false) (hvalid : rgValid (s.ringDesc p r) = true)
    (hst : (s.ring p r).state = 1) (htail : (s.ring p r).fetched ≠ (s.ring p r).tail) (hact : s.active p = true)
    (hread : s.readDesc p (s.handleOf p) (rgBase (s.ringDesc p r) + 64 * ((s.ring p r).fetched % 2 ^ rgLog (s.ringDesc p r))) =
      (some (0, b), v))
    (hfence : bit (leAt b 1 1) 7 = true → (s.ring p r).completed = (s.ring p r).fetched) (hok : v.descFault p b = none) :
    exec (.descriptorFetch p r) s = .next (if leAt b 0 1 = 0 then s.taskAdded v p r (s.fetchedTask v p r slab b)
      else (s.taskAdded v p r (s.fetchedTask v p r slab b)).translate (s.fetchedTask v p r slab b)
        (pageChunks 0 (s.fetchedTask v p r slab b).pageCount)) := by
  refine congrArg Host.Outcome.next ?_
  rw [hslab]
  dsimp only
  rw [if_neg (by simp [hguard, hvalid, hst, htail, hact]), hread]
  dsimp only
  rw [if_neg fun hc => hc.2 (hfence hc.1), hok]
  by_cases h0 : leAt b 0 1 = 0
  · simp only [ne_eq, not_true_eq_false, if_false, Option.isSome_none, Bool.false_eq_true, MTask.op, h0, if_true, Option.isSome_some]
    unfold State.taskAdded State.fetchedTask
    simp only [h0, if_true]
  · simp only [ne_eq, not_true_eq_false, if_false, Option.isSome_none, Bool.false_eq_true, MTask.op, h0]
    unfold State.taskAdded State.fetchedTask
    simp only [h0, if_false]

end

/-! ### Completion records and halts (R262 to R264) -/

section
variable {s : State} {tk : MTask}

/-- A task whose bursts are all done has nothing to commit. -/
theorem State.commitPull_done (hself : s.task tk.id = some tk) (hdone : ∀ b ∈ tk.bursts, b.done = true) (k : Nat) :
    s.commitPull tk.id (k + 1) = s := by
  have hnone : tk.bursts.find? (fun b => !b.done) = none := List.find?_eq_none.mpr fun b hb => by simp [hdone b hb]
  unfold State.commitPull
  rw [hself]
  dsimp only
  rw [hnone]

theorem execMoverTaskComplete_ok {p r slab : Nat} {v : State}
    (hfind : s.mover.tasks.find? (fun t => t.part = p ∧ t.ring = r ∧ t.slab = slab ∧ !t.written) = some tk)
    (hself : s.task tk.id = some tk) (hdone : ∀ b ∈ tk.bursts, b.done = true) (hfin : tk.finished = some Code.ok)
    (hrec : s.putRecord tk.handle tk.addr (s.record Code.ok tk.bytesDone tk.uncertain) = (some true, v)) :
    exec (.moverTaskComplete p r slab) s = .next ((v.setTask { tk with state := 6, final := some Code.ok, written := true }).moverCount
      tk.slot 0 1) := by
  refine congrArg Host.Outcome.next ?_
  rw [hfind]
  dsimp only
  rw [State.commitPull_done hself hdone, hself]
  dsimp only
  rw [hfin]
  dsimp only
  rw [if_neg (by decide), hrec]
  rfl

theorem execRingHaltComplete_drained {p r : Nat} (hst : (s.ring p r).state = 2) (hnone : s.ringTasks p r = []) :
    ∃ v : Nat, v < 2 ^ 64 ∧ exec (.ringHaltComplete p r) s = .next ((((s.setRing p r { s.ring p r with
        state := 3, completed := (s.ring p r).fetched, recorded := [] }).moverCount (rgSlot (s.ringDesc p r)) 9 1).draw (2 ^ 64)).2.ringNotify
          p r (s.ring p r).inc (v / 2 ^ 32) (v % 2 ^ 32) (s.ring p r).haltStatus) :=
  ⟨_, Nat.mod_lt _ (by decide), congrArg Host.Outcome.next (if_pos ⟨hst, by rw [hnone]; rfl⟩)⟩

end

/-! ### Bursts (R255, R256) -/

/-- The mover with the rotation moved on to task `tk`. -/
def State.picked (s : State) (slot engine : Nat) (tk : MTask) : Mover :=
  { s.mover with
    lastPart := Tab.set s.mover.lastPart (slot * 4 + engine) tk.part
    lastRing := Tab.set s.mover.lastRing ((slot * 4 + engine) * 64 + tk.part) tk.ring }

/-- A task of which the burst of `k` bytes at `pos` is out. -/
def MTask.issued (tk : MTask) (pos k : Nat) : MTask :=
  { tk with bytesIssued := tk.bytesIssued + k, state := 3, bursts := tk.bursts ++ [⟨pos, k, none, [], false, []⟩] }

/-- The cycles of `k` bytes charged to the task's partition. -/
def State.moverCharged (s : State) (tk : MTask) (k : Nat) : State :=
  { s with mover := { s.mover with
    used := Tab.set s.mover.used (tk.slot * 64 + tk.part) (s.moverUsed tk.slot tk.part + ceilDiv k 64) } }

/-- The chunk counted where the task has issued more. -/
def State.chunkCounted (s : State) (slot : Nat) (tk : MTask) : State :=
  match s.task tk.id with
  | some y => if tk.bytesIssued < y.bytesIssued then s.moverCount slot 2 1 else s
  | none => s

section
variable {s : State} {slot engine t pos k : Nat} {tk : MTask}

theorem State.chunkCounted_cases (s : State) (slot : Nat) (tk : MTask) :
    s.chunkCounted slot tk = s ∨ s.chunkCounted slot tk = s.moverCount slot 2 1 := by
  unfold State.chunkCounted
  split
  · split
    · exact .inr rfl
    · exact .inl rfl
  · exact .inl rfl

theorem State.task_single (h : s.mover.tasks = [tk]) : s.task tk.id = some tk := by
  unfold State.task
  rw [h]
  simp

/-- An engine whose one task is picked issues its one burst. -/
theorem execMoverChunkStart_single (htasks : s.mover.tasks = [tk]) (hslot : tk.slot = slot) (heng : tk.engine = engine)
    (hpick : (s.at t).moverPick slot engine t = some tk) (hchunk : tk.chunkBursts = [(pos, k)]) (hpos : pos = tk.bytesIssued)
    (hbursts : tk.bursts = []) (hvalid : tk.valid (tk.pageAt pos) = true) :
    ∃ x : State, x = ({ s.at t with mover := s.picked slot engine tk } : State).issueBurst tk.id pos k ∧
      ∃ w : State, exec (.moverChunkStart slot engine t) s = .next w ∧ (w = x ∨ w = x.moverCount slot 2 1) := by
  have hself : (s.at t).task tk.id = some tk := State.task_single htasks
  have hmine : (s.at t).mover.tasks.filter (fun x => x.slot = slot && x.engine = engine) = [tk] := by
    rw [show (s.at t).mover.tasks = [tk] from htasks]
    simp [hslot, heng]
  have hcommit : (s.at t).commitPull tk.id 64 = s.at t := State.commitPull_done hself (by simp [hbursts]) 63
  have hneed : (s.at t).needPage tk = s.at t := by
    unfold State.needPage
    dsimp only
    rw [if_pos (by rw [← hpos, hvalid]; simp)]
  have hself' : ({ s.at t with mover := s.picked slot engine tk } : State).task tk.id = some tk := State.task_single htasks
  refine ⟨_, rfl, State.chunkCounted (({ s.at t with mover := s.picked slot engine tk } : State).issueBurst tk.id pos k) slot tk,
    congrArg Host.Outcome.next ?_, State.chunkCounted_cases ..⟩
  · rw [hmine]
    simp only [List.foldl_cons, List.foldl_nil]
    rw [hcommit, hself]
    dsimp only
    rw [hneed, hpick]
    dsimp only
    rw [hchunk]
    simp only [List.foldl_cons, List.foldl_nil]
    rw [show ({ s.at t with mover := { (s.at t).mover with
      lastPart := Tab.set (s.at t).mover.lastPart (slot * 4 + engine) tk.part
      lastRing := Tab.set (s.at t).mover.lastRing ((slot * 4 + engine) * 64 + tk.part) tk.ring } } : State) =
        { s.at t with mover := s.picked slot engine tk } from rfl, hself']
    dsimp only
    rw [if_pos hpos.symm]
    rfl

end

section
variable {u v w : State} {pos k e : Nat} {tk : MTask}

/-- A burst of a PULL goes out as MOVE_READ. -/
theorem State.issueBurst_pull (hself : u.task tk.id = some tk) (hfin : tk.final = none) (hpush : tk.push = false) :
    u.issueBurst tk.id pos k = ((u.moverCharged tk k).setTask (tk.issued pos k)).originate (agPort tk.agent) (agEnd tk.agent) 0x54 tk.handle
      (toLE 8 (tk.remotePa pos) ++ toLE 2 k ++ toLE 6 0) (.moveRead tk.id pos k) := by
  unfold State.issueBurst
  rw [hself]
  dsimp only
  rw [if_neg (by simp [hfin]), if_pos (by simp [hpush])]
  rfl

/-- A burst of a PUSH whose lines are good goes out as MOVE_WRITE, with their bytes. -/
theorem State.issueBurst_push {l : List LineGot} (hself : u.task tk.id = some tk) (hfin : tk.final = none) (hpush : tk.push = true)
    (hcheck : u.agentCheck tk.handle (tk.poolVa + pos) k false = (.ok e, v)) (hlines : v.agentLines e (tk.poolVa + pos) k tk.handle = (l, w))
    (hk : 0 < k) (hgood : goodPrefix (tk.poolVa + pos) k l = (k, false)) :
    u.issueBurst tk.id pos k = ((w.moverCharged tk k).setTask (tk.issued pos k)).originate (agPort tk.agent) (agEnd tk.agent) 0x53 tk.handle
      (toLE 8 (tk.remotePa pos) ++ toLE 2 k ++ toLE 6 0 ++ slice (lineBytes l) ((tk.poolVa + pos) % 128) k) (.moveWrite tk.id pos k) := by
  unfold State.issueBurst
  rw [hself]
  dsimp only
  rw [if_neg (by simp [hfin]), if_neg (by simp [hpush]), hcheck]
  dsimp only
  rw [hlines]
  dsimp only
  rw [hgood]
  dsimp only
  rw [if_neg Bool.false_ne_true, if_neg (by omega)]
  rfl

/-- What the burst of a mover's only task leaves. -/
theorem State.issued_originates (htasks : u.mover.tasks = [tk]) (port dst op handle : Nat) (body : List Byte) (why : Purpose) :
    let x := ((u.moverCharged tk k).setTask (tk.issued pos k)).originate port dst op handle body why
    x.mover.tasks = [tk.issued pos k] ∧ x.mem = u.mem ∧ ∃ m : Msg, m.op = op ∧ m.dst = dst ∧ m.body = body ∧
      (x.port port).outReq = (u.port port).outReq ++ [⟨port, m, 0, why, false⟩] := by
  intro x
  obtain ⟨ports, meter, honly⟩ := State.originate_only ((u.moverCharged tk k).setTask (tk.issued pos k)) port dst op handle body why
  obtain ⟨m, hop, hdst, -, hbody, hout⟩ := State.originate_outReq ((u.moverCharged tk k).setTask (tk.issued pos k)) port dst op handle body why
  have hmap : ((u.moverCharged tk k).setTask (tk.issued pos k)).mover.tasks = [tk.issued pos k] := by
    change u.mover.tasks.map _ = _
    rw [htasks]
    exact congrArg (fun y => [y]) (if_pos rfl)
  refine ⟨?_, ?_, m, hop, hdst, hbody, hout⟩
  · change (State.originate ..).mover.tasks = _
    rw [honly]
    exact hmap
  · change (State.originate ..).mem = _
    rw [honly]
    rfl

end

/-- Settles O34: each command on the task or ring that it names. -/
theorem moverTasks : Obligations.MoverTasks := by
  unfold Obligations.MoverTasks
  intro s p r slab t
  refine ⟨?fetch, ?complete, ?ack, ?halt, ?chunk⟩
  case fetch =>
    intro b v g d tk w hslab hguard hvalid hst htail hact hread hfence hok
    exact execDescriptorFetch_task hslab hguard hvalid hst htail hact hread hfence hok
  case complete =>
    intro tk hfind hself hdone hfin v hrec
    exact execMoverTaskComplete_ok hfind hself hdone hfin hrec
  case ack =>
    intro tk hfind hdet hfin g u v
    refine congrArg Host.Outcome.next ?_
    rw [hfind]
    dsimp only
    rw [hdet, if_neg Bool.false_ne_true, hfin]
    simp only [Option.getD_some, Bool.and_eq_true]
    rfl
  case halt => exact fun hst hnone => execRingHaltComplete_drained hst hnone
  case chunk =>
    intro slot engine tk pos k htasks hslot heng hpick hchunk hpos hbursts hfin hvalid
    obtain ⟨x, hx, w, hex, hw⟩ := execMoverChunkStart_single htasks hslot heng hpick hchunk hpos hbursts hvalid
    have htasks' : ({ s.at t with mover := s.picked slot engine tk } : State).mover.tasks = [tk] := htasks
    have hissued : tk.issued pos k = { tk with bytesIssued := pos + k, state := 3, bursts := [⟨pos, k, none, [], false, []⟩] } := by
      unfold MTask.issued
      rw [hbursts, hpos]
      rfl
    constructor
    · intro hop
      rw [State.issueBurst_pull (State.task_single htasks') hfin (by unfold MTask.push; rw [hop]; rfl)] at hx
      obtain ⟨htk, hmem, m, hmop, hdst, hbody, hout⟩ := State.issued_originates (k := k) (pos := pos) htasks' (agPort tk.agent) (agEnd tk.agent)
        0x54 tk.handle (toLE 8 (tk.remotePa pos) ++ toLE 2 k ++ toLE 6 0) (.moveRead tk.id pos k)
      rw [← hx] at htk hmem hout
      refine ⟨w, tk.issued pos k, ⟨agPort tk.agent, m, 0, .moveRead tk.id pos k, false⟩, hex, ?_, hissued, ?_, rfl, hmop, hdst, hbody, ?_⟩
      · rcases hw with rfl | rfl <;> exact htk
      · rcases hw with rfl | rfl <;> exact hout
      · rcases hw with rfl | rfl <;> exact hmem
    · intro e v y l hop hcheck hlines hk hgood
      rw [State.issueBurst_push (State.task_single htasks') hfin (by unfold MTask.push; rw [hop]; rfl) (hcheck _) (hlines _) hk hgood] at hx
      obtain ⟨htk, hmem, m, hmop, hdst, hbody, hout⟩ := State.issued_originates (u := { y with mover := s.picked slot engine tk }) (k := k)
        (pos := pos) htasks' (agPort tk.agent) (agEnd tk.agent) 0x53 tk.handle
        (toLE 8 (tk.remotePa pos) ++ toLE 2 k ++ toLE 6 0 ++ slice (lineBytes l) ((tk.poolVa + pos) % 128) k) (.moveWrite tk.id pos k)
      rw [← hx] at htk hmem hout
      have hin : (⟨agPort tk.agent, m, 0, .moveWrite tk.id pos k, false⟩ : PartReq) ∈ (x.port (agPort tk.agent)).outReq := by
        rw [hout]
        exact List.mem_append_right _ List.mem_cons_self
      refine ⟨w, tk.issued pos k, ⟨agPort tk.agent, m, 0, .moveWrite tk.id pos k, false⟩, hex, ?_, hissued, ?_, rfl, hmop, hdst, hbody, ?_⟩
      · rcases hw with rfl | rfl <;> exact htk
      · rcases hw with rfl | rfl <;> exact hin
      · rcases hw with rfl | rfl <;> exact hmem

end Sys2Proof.Machine


/-! What endpoints answer the mover (11 R254, R255, R258 to R260). -/

namespace Sys2Proof.Machine

/-! ### Slab entries -/

theorem getD_foldl_set {α : Type} (val : Nat → α) (d : α) (j : Nat) : ∀ (l : List Nat) (g : Tab α),
    Tab.getD (l.foldl (fun g i => Tab.set g i (val i)) g) j d = if j ∈ l then val j else Tab.getD g j d := by
  intro l
  induction l with
  | nil => exact fun g => (if_neg List.not_mem_nil).symm
  | cons i l ih =>
    intro g
    rw [List.foldl_cons, ih, Tab.getD_set]
    by_cases hl : j ∈ l
    · rw [if_pos hl, if_pos (List.mem_cons_of_mem _ hl)]
    · by_cases hi : j = i
      · subst hi
        rw [if_neg hl, if_pos rfl, if_pos List.mem_cons_self]
      · rw [if_neg hl, if_neg hi, if_neg fun hc => (List.mem_cons.mp hc).elim hi hl]

/-- The pages of a task with `n` of them from `i` on PENDING. -/
def MTask.asking (tk : MTask) (i n : Nat) : Tab Nat := (List.range n).foldl (fun g k => Tab.set g (i + k) (2 ^ 14)) tk.pages

theorem MTask.getD_asking (tk : MTask) (i n j : Nat) :
    Tab.getD (tk.asking i n) j 0 = if i ≤ j ∧ j < i + n then 2 ^ 14 else tk.entry j := by
  have hmap : tk.asking i n = ((List.range n).map (fun k => i + k)).foldl (fun g k => Tab.set g k (2 ^ 14)) tk.pages := by
    rw [List.foldl_map]
    rfl
  have hmem : j ∈ (List.range n).map (fun k => i + k) ↔ i ≤ j ∧ j < i + n := by
    simp only [List.mem_map, List.mem_range]
    constructor
    · rintro ⟨k, hk, rfl⟩
      omega
    · rintro ⟨h1, h2⟩
      exact ⟨j - i, by omega, by omega⟩
  rw [hmap, getD_foldl_set]
  by_cases h : i ≤ j ∧ j < i + n
  · rw [if_pos (hmem.mpr h), if_pos h]
  · rw [if_neg fun hc => h (hmem.mp hc), if_neg h]
    rfl

/-! ### Tasks that keep their translations -/

/-- Task `y` is `tk` with its VALID pages, its bursts and the bytes done as they were. -/
def MTask.Keeps (tk y : MTask) : Prop :=
  y.id = tk.id ∧ (∀ i, tk.valid i = true → y.entry i = tk.entry i) ∧ y.bursts = tk.bursts ∧ y.bytesDone = tk.bytesDone

theorem MTask.Keeps.trans {a b c : MTask} (h : a.Keeps b) (g : b.Keeps c) : a.Keeps c := by
  obtain ⟨h1, h2, h3, h4⟩ := h
  obtain ⟨g1, g2, g3, g4⟩ := g
  refine ⟨g1.trans h1, fun i hi => ?_, g3.trans h3, g4.trans h4⟩
  have hb : b.valid i = true := by
    unfold MTask.valid
    rw [h2 i hi]
    exact hi
  rw [g2 i hb, h2 i hi]

/-- Pool memory is as it was, and task `id` keeps what it had. -/
def State.TaskKept (s w : State) (id : Nat) : Prop :=
  w.mem = s.mem ∧ ∀ tk, s.task id = some tk → ∃ y, w.task id = some y ∧ tk.Keeps y

section
variable {s v w : State} {id : Nat} {tk : MTask}

theorem State.TaskKept.trans (h : s.TaskKept v id) (g : v.TaskKept w id) : s.TaskKept w id := by
  refine ⟨g.1.trans h.1, fun tk htk => ?_⟩
  obtain ⟨y, hy, hk⟩ := h.2 tk htk
  obtain ⟨z, hz, hk'⟩ := g.2 y hy
  exact ⟨z, hz, hk.trans hk'⟩

/-- The same tasks and the same pool memory. -/
theorem State.TaskKept.of_eq (ht : w.mover.tasks = s.mover.tasks) (hm : w.mem = s.mem) : s.TaskKept w id :=
  ⟨hm, fun tk htk => ⟨tk, by unfold State.task; rw [ht]; exact htk, rfl, fun _ _ => rfl, rfl, rfl⟩⟩

theorem State.TaskKept.originate (h : s.TaskKept w id) (port dst op handle : Nat) (body : List Byte) (why : Purpose) :
    s.TaskKept (w.originate port dst op handle body why) id := by
  obtain ⟨_, _, ho⟩ := State.originate_only w port dst op handle body why
  exact h.trans (.of_eq (by rw [ho]) (by rw [ho]))

theorem State.id_of_task (h : s.task id = some tk) : tk.id = id := by
  simpa using List.find?_some h

theorem State.task_setTask (s : State) (t : MTask) : (s.setTask t).task t.id = (s.task t.id).map (fun _ => t) := by
  unfold State.task State.setTask
  dsimp only
  generalize s.mover.tasks = l
  induction l with
  | nil => rfl
  | cons x l ih =>
    rw [List.map_cons]
    by_cases hx : x.id = t.id
    · rw [if_pos hx, List.find?_cons_of_pos (by simp), List.find?_cons_of_pos (by simpa using hx)]
      rfl
    · rw [if_neg hx, List.find?_cons_of_neg (by simpa using hx), List.find?_cons_of_neg (by simpa using hx), ih]

theorem State.task_setTask_some {t : MTask} (h : s.task id = some tk) (ht : t.id = tk.id) : (s.setTask t).task id = some t := by
  have hid : t.id = id := ht.trans (State.id_of_task h)
  subst hid
  rw [State.task_setTask, h]
  rfl

theorem State.TaskKept.setTask {t : MTask} (h : s.task id = some tk) (ht : tk.Keeps t) : s.TaskKept (s.setTask t) id := by
  refine ⟨rfl, fun tk' htk' => ⟨t, State.task_setTask_some h ht.1, ?_⟩⟩
  rw [Option.some.inj (htk'.symm.trans h)]
  exact ht

/-- A task of `s` replaced, and nothing else of the mover's tasks or of pool memory. -/
theorem State.TaskKept.replaced {t : MTask} (h : s.task id = some tk)
    (hw : w.mover.tasks = s.mover.tasks.map (fun x => if x.id = t.id then t else x)) (hm : w.mem = s.mem) (ht : tk.Keeps t) :
    s.TaskKept w id :=
  (State.TaskKept.setTask h ht).trans (.of_eq hw hm)

/-! ### Asking for translations and for pages (R254, R260) -/

theorem State.TaskKept.translate (t : MTask) : ∀ (l : List (Nat × Nat)) (s : State),
    (∀ tk, s.task t.id = some tk → ∀ x ∈ l, ∀ i, x.1 ≤ i → i < x.1 + x.2 → tk.valid i = false) → s.TaskKept (s.translate t l) t.id := by
  intro l
  induction l with
  | nil => exact fun s _ => .of_eq rfl rfl
  | cons x l ih =>
    intro s hfree
    unfold State.translate
    rw [List.foldl_cons]
    cases htk : s.task t.id with
    | none =>
      refine ih s fun tk h => ?_
      rw [htk] at h
      cases h
    | some tk =>
      dsimp only
      have hx := hfree tk htk x List.mem_cons_self
      have hentry (i : Nat) : MTask.entry { tk with pages := tk.asking x.1 x.2 } i =
          if x.1 ≤ i ∧ i < x.1 + x.2 then 2 ^ 14 else tk.entry i := tk.getD_asking x.1 x.2 i
      have hkeeps : tk.Keeps { tk with pages := tk.asking x.1 x.2 } := by
        refine ⟨rfl, fun i hi => ?_, rfl, rfl⟩
        rw [hentry, if_neg]
        rintro ⟨h1, h2⟩
        rw [hx i h1 h2] at hi
        cases hi
      have hset := State.task_setTask_some (t := { tk with pages := tk.asking x.1 x.2 }) htk rfl
      have hfirst := ((State.TaskKept.setTask htk hkeeps).originate (agPort tk.agent) (agEid tk.agent) 0x50 tk.handle
        (toLE 4 tk.ctx ++ toLE 2 x.2 ++ toLE 1 tk.access ++ toLE 1 0 ++
          toLE 8 (tk.remoteVa / 65536 * 65536 + x.1 * 65536)) (.translate tk.id)).trans
        (.of_eq (w := State.moverCount _ tk.slot 3 1) rfl rfl)
      refine hfirst.trans (ih _ fun tk' htk' y hy i h1 h2 => ?_)
      have hsame : tk' = { tk with pages := tk.asking x.1 x.2 } := by
        obtain ⟨_, _, ho⟩ := State.originate_only (s.setTask { tk with pages := tk.asking x.1 x.2 }) (agPort tk.agent) (agEid tk.agent) 0x50
          tk.handle (toLE 4 tk.ctx ++ toLE 2 x.2 ++ toLE 1 tk.access ++ toLE 1 0 ++
            toLE 8 (tk.remoteVa / 65536 * 65536 + x.1 * 65536)) (.translate tk.id)
        rw [show (List.range x.2).foldl (fun (g : Tab Nat) k => Tab.set g (x.1 + k) (2 ^ 14)) tk.pages = tk.asking x.1 x.2 from rfl, ho] at htk'
        exact (Option.some.inj (hset.symm.trans htk')).symm
      rw [hsame, MTask.valid, hentry]
      split
      · decide
      · exact hfree tk htk y (List.mem_cons_of_mem _ hy) i h1 h2

/-- A task that ends keeps its pages. -/
theorem State.TaskKept.endTask (s : State) (id st : Nat) : s.TaskKept (s.endTask id st) id := by
  unfold State.endTask
  cases htk : s.task id with
  | none => exact .of_eq rfl rfl
  | some tk =>
    dsimp only
    split
    · exact .of_eq rfl rfl
    · exact .replaced htk rfl rfl ⟨rfl, fun _ _ => rfl, rfl, rfl⟩

theorem State.faultPeak_mover (s : State) (slot : Nat) : (s.faultPeak slot).mover = s.mover ∧ (s.faultPeak slot).mem = s.mem := by
  unfold State.faultPeak
  dsimp only
  split <;> exact ⟨rfl, rfl⟩

/-- A task that faults keeps its pages. -/
theorem State.TaskKept.pageFault {t : MTask} (h : s.task t.id = some t) (i : Nat) : s.TaskKept (s.pageFault t i) t.id := by
  unfold State.pageFault
  dsimp only
  split
  · exact .endTask ..
  · split
    · exact .replaced h rfl rfl ⟨rfl, fun _ _ => rfl, rfl, rfl⟩
    · split
      · exact .replaced h rfl rfl ⟨rfl, fun _ _ => rfl, rfl, rfl⟩
      · rename_i n _
        obtain ⟨hmover, hmem⟩ := State.faultPeak_mover ({ s with mover := { s.mover with faults := s.mover.faults ++
          [⟨t.slot, n, agEid t.agent, agPort t.agent, t.ctx, t.remoteVa / 65536 + i, t.access, [t.id]⟩] } } : State) t.slot
        have hput : s.TaskKept ((State.faultPeak ({ s with mover := { s.mover with faults := s.mover.faults ++
            [⟨t.slot, n, agEid t.agent, agPort t.agent, t.ctx, t.remoteVa / 65536 + i, t.access, [t.id]⟩] } } : State) t.slot).setTask
            { t with state := 4, fault := some n, tries := t.tries + 1 }) t.id := by
          refine .replaced (t := { t with state := 4, fault := some n, tries := t.tries + 1 }) h ?_ hmem ⟨rfl, fun _ _ => rfl, rfl, rfl⟩
          unfold State.setTask
          dsimp only
          rw [hmover]
        exact (hput.originate (agPort t.agent) (agEid t.agent) 0x52 t.handle _ (.page (t.slot * 256 + n))).trans (.of_eq rfl rfl)

theorem of_lt_takeWhile_range {p : Nat → Bool} {n k : Nat} (h : k < ((List.range n).takeWhile p).length) : p k = true := by
  have hpre := List.prefix_iff_eq_take.mp (List.takeWhile_prefix (l := List.range n) p)
  have hmem : k ∈ (List.range n).takeWhile p := by
    rw [hpre, List.take_range, List.mem_range]
    exact Nat.lt_min.mpr ⟨h, Nat.lt_of_lt_of_le h (by simpa using (List.takeWhile_prefix (l := List.range n) p).length_le)⟩
  exact List.all_eq_true.mp List.all_takeWhile k hmem

theorem mem_pageChunks {i n j : Nat} {x : Nat × Nat} (hx : x ∈ pageChunks i n) (h1 : x.1 ≤ j) (h2 : j < x.1 + x.2) : i ≤ j ∧ j < i + n := by
  obtain ⟨k, -, rfl⟩ := List.mem_map.mp hx
  dsimp only at h1 h2
  omega

/-- A task that asks for the pages it needs keeps those it has. -/
theorem State.TaskKept.needPage {t : MTask} (h : s.task t.id = some t) : s.TaskKept (s.needPage t) t.id := by
  unfold State.needPage
  dsimp only
  split
  · exact .of_eq rfl rfl
  · split
    · exact .pageFault h _
    · have hset : (s.setTask { t with state := 1 }).task t.id = some { t with state := 1 } := State.task_setTask_some h rfl
      refine (State.TaskKept.setTask (t := { t with state := 1 }) h ⟨rfl, fun _ _ => rfl, rfl, rfl⟩).trans
        (.translate t _ _ fun tk htk x hx j h1 h2 => ?_)
      obtain ⟨hlo, hhi⟩ := mem_pageChunks hx h1 h2
      have hfree := of_lt_takeWhile_range (Nat.sub_lt_left_of_lt_add hlo hhi)
      rw [Option.some.inj (htk.symm.trans hset)]
      rw [Nat.add_sub_cancel' hlo, Bool.and_eq_true] at hfree
      exact (Bool.not_eq_true' _).mp hfree.1

/-! ### The answer of a translation (R254) -/

theorem mem_of_pageRuns : ∀ {l : List Nat} {x : Nat × Nat} {j : Nat}, x ∈ pageRuns l → x.1 ≤ j → j < x.1 + x.2 → j ∈ l := by
  intro l
  induction l with
  | nil => intro x j hx; cases hx
  | cons i t ih =>
    intro x j hx h1 h2
    have hself (n : Nat) : x = (i, 1) → j ∈ i :: t := by
      rintro rfl
      dsimp only at h1 h2
      exact List.mem_cons.mpr (.inl (by omega))
    unfold pageRuns at hx
    split at hx
    · rename_i k n r hruns
      split at hx
      · rename_i hk
        rcases List.mem_cons.mp hx with rfl | hx
        · dsimp only at h1 h2
          by_cases hj : j = i
          · exact List.mem_cons.mpr (.inl hj)
          · exact List.mem_cons_of_mem _ (ih (x := (k, n)) (by rw [hruns]; exact List.mem_cons_self) (by dsimp only; omega) (by dsimp only; omega))
        · exact List.mem_cons_of_mem _ (ih (by rw [hruns]; exact List.mem_cons_of_mem _ hx) h1 h2)
      · rcases List.mem_cons.mp hx with hx | hx
        · exact hself 0 hx
        · exact List.mem_cons_of_mem _ (ih (by rw [hruns]; exact hx) h1 h2)
    · exact hself 0 (List.mem_singleton.mp hx)

/-- The slab entry of page `i` once an answer that begins at page `first` has come: 0 for a tainted page and one that is absent. -/
def MTask.answered (tk : MTask) (b : List Byte) (va first : Nat) (mine : List Nat) (i : Nat) : Nat :=
  if (mine.filter (fun i => bit (tk.entry i) 13)).contains i then 0
  else match translated b va (va + (i - first) * 65536) with
    | some (pa, large) => pa / 65536 % 2 ^ 48 * 65536 + 2 ^ 15 + b2n large * 2 ^ 12
    | none => 0

/-- The task with the pages `mine` filled from an answer of status OK. -/
def MTask.refilled (tk : MTask) (b : List Byte) (va first : Nat) (mine : List Nat) : MTask :=
  let taint := mine.filter (fun i => bit (tk.entry i) 13)
  let pages := mine.foldl (fun (g : Tab Nat) i =>
    if taint.contains i then Tab.set g i 0
    else match translated b va (va + (i - first) * 65536) with
      | some (pa, large) => Tab.set g i (pa / 65536 % 2 ^ 48 * 65536 + 2 ^ 15 + b2n large * 2 ^ 12)
      | none => Tab.set g i 0) tk.pages
  { tk with
    pages := pages
    absent := lowestAbsent none (tk.absent.filter (fun i => !mine.contains i))
    state := if tk.state = 1 then 2 else tk.state
    tries := if bit (Tab.getD pages (tk.pageAt tk.bytesIssued) 0) 15 then 0 else tk.tries }

/-- A task whose pages an answer has filled, and which has otherwise what it had. -/
def MTask.Filled (tk y : MTask) (b : List Byte) (va first : Nat) (mine : List Nat) : Prop :=
  y.id = tk.id ∧ (∀ i, y.entry i = if i ∈ mine then tk.answered b va first mine i else tk.entry i) ∧ y.bursts = tk.bursts ∧
    y.bytesDone = tk.bytesDone

theorem MTask.foldl_answered (tk : MTask) (b : List Byte) (va first : Nat) (mine : List Nat) (i : Nat) :
    Tab.getD (mine.foldl (fun (g : Tab Nat) i =>
      if (mine.filter (fun i => bit (tk.entry i) 13)).contains i then Tab.set g i 0
      else match translated b va (va + (i - first) * 65536) with
        | some (pa, large) => Tab.set g i (pa / 65536 % 2 ^ 48 * 65536 + 2 ^ 15 + b2n large * 2 ^ 12)
        | none => Tab.set g i 0) tk.pages) i 0 = if i ∈ mine then tk.answered b va first mine i else tk.entry i := by
  have hf : (fun (g : Tab Nat) i =>
      if (mine.filter (fun i => bit (tk.entry i) 13)).contains i then Tab.set g i 0
      else match translated b va (va + (i - first) * 65536) with
        | some (pa, large) => Tab.set g i (pa / 65536 % 2 ^ 48 * 65536 + 2 ^ 15 + b2n large * 2 ^ 12)
        | none => Tab.set g i 0) = fun g i => Tab.set g i (tk.answered b va first mine i) := by
    funext g i
    unfold MTask.answered
    split
    · rfl
    · split <;> rfl
  rw [hf, getD_foldl_set]
  rfl

/-- What follows the filling of a task `t`, of which the pages `taint` are asked for again. -/
def State.afterFilling (s : State) (t : MTask) (taint : List Nat) : State :=
  let s := (s.setTask t).moverCount t.slot 4 taint.length
  if t.final.isSome then s
  else
    let s := s.translate t (pageRuns taint)
    match s.task t.id with
    | some t =>
      let i := t.pageAt t.bytesIssued
      if t.absent = some i ∧ t.inFlight = 0 then s.needPage t
      else if !t.valid i ∧ !t.pendingPage i ∧ t.absent.isNone ∧ t.bytesIssued < t.length ∧ Code.ok = Code.ok then s.needPage t
      else s
    | none => s

theorem State.translateDone_ok {x : PartReq} {b : List Byte} (htk : (s.settle x).task id = some tk) :
    s.translateDone x id Code.ok b =
      let first := leAt x.msg.body 8 8 / 65536 - tk.remoteVa / 65536
      let mine := (List.range (leAt x.msg.body 4 2)).map (· + first)
      (s.settle x).afterFilling (tk.refilled b (leAt x.msg.body 8 8) first mine) (mine.filter (fun i => bit (tk.entry i) 13)) := by
  have hid := State.id_of_task htk
  subst hid
  unfold State.translateDone
  dsimp only
  rw [htk]
  dsimp only
  rw [if_neg (by decide)]
  rfl

theorem State.TaskKept.afterFilling {t : MTask} {taint : List Nat} (h : s.task t.id = some tk) (ht : ∀ i ∈ taint, t.valid i = false) :
    (s.setTask t).TaskKept (s.afterFilling t taint) t.id := by
  have hset : ((s.setTask t).moverCount t.slot 4 taint.length).task t.id = some t := by
    change (s.setTask t).task t.id = some t
    rw [State.task_setTask, h]
    rfl
  have hcount : (s.setTask t).TaskKept ((s.setTask t).moverCount t.slot 4 taint.length) t.id := .of_eq rfl rfl
  have hasked := hcount.trans (.translate t (pageRuns taint) _ fun tk' htk' x hx i h1 h2 => by
    rw [Option.some.inj (htk'.symm.trans hset)]
    exact ht i (mem_of_pageRuns hx h1 h2))
  have hneed {y : MTask} (hy : State.task (((s.setTask t).moverCount t.slot 4 taint.length).translate t (pageRuns taint)) t.id = some y) :
      (s.setTask t).TaskKept ((((s.setTask t).moverCount t.slot 4 taint.length).translate t (pageRuns taint)).needPage y) t.id := by
    have hid := State.id_of_task hy
    refine hasked.trans ?_
    rw [← hid] at hy ⊢
    exact .needPage hy
  unfold State.afterFilling
  dsimp only
  split
  · exact hcount
  · split
    · rename_i y hy
      split
      · exact hneed hy
      · split
        · exact hneed hy
        · exact hasked
    · exact hasked

theorem MTask.refilled_filled (tk : MTask) (b : List Byte) (va first : Nat) (mine : List Nat) :
    tk.Filled (tk.refilled b va first mine) b va first mine :=
  ⟨rfl, fun i => tk.foldl_answered b va first mine i, rfl, rfl⟩

/-- A tainted page is not VALID once the answer has come. -/
theorem MTask.Filled.tainted {y : MTask} {b : List Byte} {va first : Nat} {mine : List Nat} (h : tk.Filled y b va first mine) :
    ∀ i ∈ mine.filter (fun i => bit (tk.entry i) 13), y.valid i = false := by
  intro i hi
  obtain ⟨-, hentry, -⟩ := h
  have h0 : y.entry i = 0 := by
    rw [hentry, if_pos (List.mem_filter.mp hi).1, MTask.answered, if_pos (List.contains_iff_mem.mpr hi)]
  unfold MTask.valid
  rw [h0]
  decide

theorem bit_filled (a : Nat) (large : Bool) : bit (a * 65536 + 2 ^ 15 + b2n large * 2 ^ 12) 15 = true := by
  have hb : b2n large ≤ 1 := by cases large <;> decide
  have hbit : (a * 65536 + 2 ^ 15 + b2n large * 2 ^ 12) / 2 ^ 15 % 2 = 1 := by omega
  exact decide_eq_true hbit

/-- An untainted page whose address the answer gives is VALID, with that address. -/
theorem MTask.Filled.page {y : MTask} {b : List Byte} {va first n i pa : Nat} {large : Bool}
    (h : tk.Filled y b va first ((List.range n).map (· + first))) (hi : i < n) (ht : bit (tk.entry (first + i)) 13 = false)
    (hpa : translated b va (va + i * 65536) = some (pa, large)) :
    y.entry (first + i) = pa / 65536 % 2 ^ 48 * 65536 + 2 ^ 15 + b2n large * 2 ^ 12 ∧ y.valid (first + i) = true := by
  obtain ⟨-, hentry, -⟩ := h
  have hmem : first + i ∈ (List.range n).map (· + first) := List.mem_map.mpr ⟨i, List.mem_range.mpr hi, Nat.add_comm ..⟩
  have heq : y.entry (first + i) = pa / 65536 % 2 ^ 48 * 65536 + 2 ^ 15 + b2n large * 2 ^ 12 := by
    rw [hentry, if_pos hmem, MTask.answered, if_neg (by rw [List.contains_iff_mem, List.mem_filter, ht]; simp), Nat.add_sub_cancel_left, hpa]
  exact ⟨heq, by rw [MTask.valid, heq]; exact bit_filled _ _⟩

/-! ### The answer of a page request (R259, R260) -/

theorem State.translate_tableWait (t : MTask) : ∀ (l : List (Nat × Nat)) (s : State),
    (s.translate t l).mover.tableWait = s.mover.tableWait := by
  intro l
  induction l with
  | nil => exact fun s => rfl
  | cons x l ih =>
    intro s
    unfold State.translate
    rw [List.foldl_cons]
    cases s.task t.id with
    | none => exact ih s
    | some tk =>
      refine (ih _).trans ?_
      dsimp only
      obtain ⟨_, _, ho⟩ := State.originate_only (s.setTask { tk with pages := tk.asking x.1 x.2 }) (agPort tk.agent) (agEid tk.agent) 0x50
        tk.handle (toLE 4 tk.ctx ++ toLE 2 x.2 ++ toLE 1 tk.access ++ toLE 1 0 ++
          toLE 8 (tk.remoteVa / 65536 * 65536 + x.1 * 65536)) (.translate tk.id)
      rw [show (List.range x.2).foldl (fun (g : Tab Nat) k => Tab.set g (x.1 + k) (2 ^ 14)) tk.pages = tk.asking x.1 x.2 from rfl, ho]
      rfl

theorem State.retryTable_idle (slot : Nat) (h : s.mover.tableWait = []) : s.retryTable slot = s := by
  unfold State.retryTable
  dsimp only
  rw [h]
  rfl

/-- The one task that waits for the page asks for its translations again. -/
theorem State.pageDone_single {slot n : Nat} {f : FaultEnt} (hf : s.mover.faults.find? (fun f => f.slot = slot ∧ f.n = n) = some f)
    (hw : f.waiters = [id]) (htable : s.mover.tableWait = []) (htk : s.task id = some tk) :
    s.pageDone slot n Code.ok = ((({ s with mover := { s.mover with
      faults := s.mover.faults.filter (fun g => !(g.slot = slot ∧ g.n = n)) } } : State).setTask
        { tk with state := 1, fault := none, absent := none }).translate { tk with state := 1, fault := none, absent := none }
        (pageChunks (tk.pageAt tk.bytesIssued) (tk.pageCount - tk.pageAt tk.bytesIssued))) := by
  have htk' : ({ s with mover := { s.mover with
      faults := s.mover.faults.filter (fun g => !(g.slot = slot ∧ g.n = n)) } } : State).task id = some tk := htk
  unfold State.pageDone
  rw [hf]
  dsimp only
  rw [hw, List.foldl_cons, List.foldl_nil, htk']
  dsimp only
  rw [if_pos rfl]
  exact State.retryTable_idle _ ((State.translate_tableWait _ _ _).trans htable)

/-! ### Invalidation (R258) -/

theorem bit_setFld_other (v : Nat) : bit (setFld v 13 13 1) 14 = bit v 14 ∧ bit (setFld v 15 15 0) 15 = false := by
  have h14 : setFld v 13 13 1 / 2 ^ 14 % 2 = v / 2 ^ 14 % 2 := by
    simp only [setFld, fld, Nat.reduceAdd, Nat.reduceSub, Nat.reducePow]
    omega
  have h15 : ¬ setFld v 15 15 0 / 2 ^ 15 % 2 = 1 := by
    simp only [setFld, fld, Nat.reduceAdd, Nat.reduceSub, Nat.reducePow]
    omega
  exact ⟨congrArg (fun k => decide (k = 1)) h14, decide_eq_false h15⟩

theorem State.mem_foldl_moverCount (i n : Nat) (l : List Nat) : ∀ s : State,
    (l.foldl (fun s slot => s.moverCount slot i n) s).mem = s.mem ∧ (l.foldl (fun s slot => s.moverCount slot i n) s).mover = s.mover := by
  induction l with
  | nil => exact fun s => ⟨rfl, rfl⟩
  | cons x l ih => exact fun s => ih _

/-- A page that an invalidation reaches is VALID afterwards only where it is PENDING. -/
theorem State.invalidate_pages (s : State) (r : Req) : (s.invalidate r).mem = s.mem ∧
    ∀ y ∈ (s.invalidate r).mover.tasks, agEid y.agent = r.h.src → agPort y.agent = r.port → y.ctx = leAt r.body 0 4 →
      ∀ i v, (i, v) ∈ y.pages → y.overlaps i (leAt r.body 8 8) (leAt r.body 16 8) = true → bit v 15 = true → bit v 14 = true := by
  unfold State.invalidate
  dsimp only
  refine ⟨(State.mem_foldl_moverCount 7 1 (List.range 32) _).1, ?_⟩
  rw [(State.mem_foldl_moverCount 7 1 (List.range 32) _).2]
  intro y hy heid hport hctx i v hv hover h15
  obtain ⟨tk, -, rfl⟩ := List.mem_map.mp hy
  revert heid hport hctx hv hover
  split
  · rename_i hmiss
    intro heid hport hctx
    simp [heid, hport, hctx] at hmiss
  · intro _ _ _ hv hover
    obtain ⟨e, -, he⟩ := List.mem_map.mp hv
    revert he
    split
    · rename_i hno
      rintro rfl
      have hno' : tk.overlaps i (leAt r.body 8 8) (leAt r.body 16 8) = false := by simpa using hno
      exact absurd (hno'.symm.trans hover) Bool.false_ne_true
    · split
      · rename_i h14
        intro he
        obtain ⟨-, rfl⟩ := Prod.mk.inj he
        exact (bit_setFld_other _).1.trans h14
      · intro he
        obtain ⟨-, rfl⟩ := Prod.mk.inj he
        exact absurd ((bit_setFld_other _).2.symm.trans h15) Bool.false_ne_true

end

/-- The fields of an INVALIDATE_REQ's body. -/
theorem invalBody_fields {ctx start len : Nat} (hc : ctx < 2 ^ 32) (hs : start < 2 ^ 64) (hl : len < 2 ^ 64) :
    let b := toLE 4 ctx ++ toLE 4 0 ++ toLE 8 start ++ toLE 8 len
    leAt b 0 4 = ctx ∧ leAt b 8 8 = start ∧ leAt b 16 8 = len := by
  have hskip : ∀ (k m v i : Nat) (c : List Byte), k ≤ i → leAt (toLE k v ++ c) i m = leAt c (i - k) m :=
    fun k m v i c h => leAt_skip _ _ _ _ _ (length_toLE ..) h
  intro b
  simp only [b, List.append_assoc]
  refine ⟨?_, ?_, ?_⟩
  · rw [leAt_head]
    omega
  · rw [hskip _ _ _ _ _ (by decide), hskip _ _ _ _ _ (by decide), leAt_head]
    omega
  · rw [hskip _ _ _ _ _ (by decide), hskip _ _ _ _ _ (by decide), hskip _ _ _ _ _ (by decide), leAt_last]
    omega

theorem State.serveOp_invalidate {u : State} {r : Req} {noise : List (Nat × Nat)} {t : Nat} (h : r.op = 0x51) :
    u.serveOp r noise t = u.serveInvalidate r := by
  unfold State.serveOp
  simp only [h, Nat.reduceEqDiff, if_false, if_true, Nat.reduceLeDiff, or_self, and_false]

/-- Settles O35: each answer on the task that its request was for. -/
theorem moverAnswers : Obligations.MoverAnswers := by
  unfold Obligations.MoverAnswers
  rintro s port t h x id tk rfl
  refine ⟨?translate, ?page, ?write, ?read, ?invalidate, ?drained⟩
  case translate =>
    intro body H hp hst hsize htk va first
    have htk' : ((s.at t).settle x).task id = some tk := htk
    have hid := State.id_of_task htk
    have hfilled := tk.refilled_filled body va first ((List.range (leAt x.msg.body 4 2)).map (· + first))
    have hkept := State.TaskKept.afterFilling (t := tk.refilled body va first ((List.range (leAt x.msg.body 4 2)).map (· + first)))
      (by rw [hfilled.1, hid]; exact htk') hfilled.tainted
    obtain ⟨hmem, hkept⟩ := hkept
    rw [hfilled.1, hid] at hkept
    obtain ⟨y, hy, -, hvalid, hbursts, hdone⟩ := hkept _ (State.task_setTask_some htk' hfilled.1)
    have hex : exec (.translateResp x.port h body t) s = .next ((s.at t).translateDone x id Code.ok body) := by
      refine congrArg Host.Outcome.next ((State.onResp_matches _ _ _ _ _ _ _ H).trans ?_)
      dsimp only
      rw [hp]
      dsimp only
      rw [if_neg (by omega), hst]
      rfl
    refine ⟨_, y, hex, ?_, fun i pa large hi ht hpa => ?_, hbursts, hdone, ?_⟩
    · rw [State.translateDone_ok htk']
      exact hy
    · obtain ⟨hval, hv⟩ := hfilled.page hi ht hpa
      rw [hvalid _ hv, hval]
    · rw [State.translateDone_ok htk']
      exact hmem
  case page =>
    intro k f H hp hst hf hw htable htk u y
    refine congrArg Host.Outcome.next ((State.onResp_matches _ _ _ _ _ _ _ H).trans ?_)
    dsimp only
    rw [hp]
    dsimp only
    rw [if_pos hst]
    exact State.pageDone_single (s := u) hf hw htable htk
  case write =>
    intro pos n H hp hst htk hpush y
    refine congrArg Host.Outcome.next ((State.onResp_matches _ _ _ _ _ _ _ H).trans ?_)
    have hs : (s.at t).outcome x.port h.status [Code.ok] = (Code.ok, s.at t) := by rw [hst]; rfl
    have htk' : ((s.at t).settle x).task id = some tk := htk
    dsimp only
    rw [hp, hs]
    dsimp only
    unfold State.burstDone
    dsimp only
    rw [htk']
    dsimp only
    rw [hpush]
    exact (if_neg (by decide)).trans (if_pos hpush)
  case read =>
    intro pos n data H hp hst htk hpull
    refine congrArg Host.Outcome.next ((State.onResp_matches _ _ _ _ _ _ _ H).trans ?_)
    have hs : (s.at t).outcome x.port h.status [Code.ok] = (Code.ok, s.at t) := by rw [hst]; rfl
    have htk' : (((s.at t).chargeOut x.port (handlePart x.msg.handle) (msgCells data.length)).settle x).task id = some tk := htk
    dsimp only
    rw [hp, hs]
    dsimp only
    unfold State.burstDone
    dsimp only
    rw [htk']
    dsimp only
    rw [hpull]
    exact (if_neg (by decide)).trans (if_neg (by rw [MTask.push] at hpull ⊢; exact Bool.eq_false_iff.mp hpull))
  case invalidate =>
    intro ctx start len hc hs hl b r H
    obtain ⟨h0, h8, h16⟩ := invalBody_fields hc hs hl
    have hrecv := State.recv_serveOp (noise := []) H fun hx => by cases hx
    rw [State.serveOp_invalidate rfl] at hrecv
    obtain ⟨hmem, hpages⟩ := (s.began x.port 0x51 h b 4096 t).invalidate_pages r
    have hbody : r.body = b := rfl
    rw [hbody, h0, h8, h16] at hpages
    exact ⟨_, congrArg Host.Outcome.next hrecv, hmem.trans (State.began_talked ..).mem, hpages⟩
  case drained =>
    intro n r hout hf
    refine congrArg Host.Outcome.next ((if_neg ?_).trans ?_)
    · simp only [List.any_eq_true, Bool.and_eq_true, List.contains_iff_mem, not_exists, not_and]
      exact fun y hy b hb hbo => hout y hy b hb hbo
    · rw [hf]

end Sys2Proof.Machine


/-! The steps of a relocation (10 R224 to R231, 02 R44). -/

namespace Sys2Proof.Machine

section
variable {s w : State} {tile : Nat} {r : Reloc}

/-! ### A tile that loses power -/

/-- Part `w` is `s` but for its continuity state and what tile `tile` held. -/
def State.Emptied (s w : State) (tile : Nat) : Prop :=
  ∃ cont regs errs lineKey written stackTab, w = { s with
    cont := cont, regs := regs, mem := s.mem.filter (fun c => c.1 / 2 ^ 37 ≠ tile), errs := errs, lineKey := lineKey, written := written
    stackTab := stackTab }

theorem State.Emptied.wr (h : s.Emptied w tile) (k v : Nat) : s.Emptied (w.wr k v) tile := by
  obtain ⟨_, _, _, _, _, _, rfl⟩ := h
  exact ⟨_, _, _, _, _, _, rfl⟩

theorem State.Emptied.count (h : s.Emptied w tile) (k n : Nat) : s.Emptied (w.count k n) tile := h.wr ..

theorem State.Emptied.setCont (h : s.Emptied w tile) (c : Continuity) : s.Emptied (w.setCont c) tile := by
  obtain ⟨_, _, _, _, _, _, rfl⟩ := h
  exact ⟨_, _, _, _, _, _, rfl⟩

theorem State.Emptied.showDegraded (h : s.Emptied w tile) : s.Emptied w.showDegraded tile := by
  obtain ⟨⟨_, hd⟩, -⟩ := w.showDegraded_effect
  rw [hd]
  obtain ⟨_, _, _, _, _, _, rfl⟩ := h
  exact ⟨_, _, _, _, _, _, rfl⟩

theorem State.Emptied.only (h : s.Emptied w tile) : w = { s with
    cont := w.cont
    regs := w.regs
    mem := w.mem
    errs := w.errs
    lineKey := w.lineKey
    written := w.written
    stackTab := w.stackTab } := by
  obtain ⟨_, _, _, _, _, _, rfl⟩ := h
  rfl

theorem State.Emptied.bytes (h : s.Emptied w tile) :
    (∀ a, a / 2 ^ 37 ≠ tile → w.byteAt a = s.byteAt a) ∧ (∀ a, a / 2 ^ 37 = tile → w.byteAt a = 0#8) := by
  have hw (a : Nat) : w.byteAt a = (s.zeroStack tile).byteAt a := by
    obtain ⟨_, _, _, _, _, _, rfl⟩ := h
    rfl
  refine ⟨fun a ha => ?_, fun a ha => ?_⟩
  · rw [hw, State.byteAt_zeroStack, if_pos ha]
  · rw [hw, State.byteAt_zeroStack, if_neg (not_not_intro ha)]

theorem State.powerOff_eq (s : State) (t : Nat) :
    s.powerOff t = (((s.zeroStack t).freshStack t).wr (K.stackState t) 0).wr (K.fillStatus t) 0 := rfl

theorem State.powerOff_emptied (s : State) (c : Continuity) (tile : Nat) : s.Emptied ((s.setCont c).powerOff tile) tile := by
  rw [State.powerOff_eq]
  exact State.Emptied.wr (.wr ⟨_, _, _, _, _, _, rfl⟩ _ _) _ _

theorem State.powerOff_rd (s : State) {tile : Nat} : (s.powerOff tile).rd (K.stackState tile) = 0 ∧ (s.powerOff tile).cont = s.cont := by
  rw [State.powerOff_eq]
  exact ⟨(State.rd_wr_other _ _ _ _ (by simp only [ek, ne_eq]; omega)).trans (State.rd_wr_same ..), rfl⟩

theorem State.rd_showDegraded (s : State) {k : Nat} (hk : ∀ p, p < 64 → k ≠ K.continuityState p) : s.showDegraded.rd k = s.rd k := by
  refine s.showDegraded_effect.2 k fun h => ?_
  obtain ⟨p, hp, rfl⟩ := List.mem_map.mp h
  exact hk p (List.mem_range.mp hp) rfl

theorem State.showDegraded_cont (s : State) : s.showDegraded.cont = s.cont := by
  obtain ⟨⟨_, hd⟩, -⟩ := s.showDegraded_effect
  rw [hd]

/-! ### Failure, drain and self-test (R226, R230, R231) -/

theorem State.relocFails_effect (h : s.cont.reloc = some r) (goal : Nat) (ht : r.target < 36) (hs : r.slot < 32) :
    s.Emptied (s.relocFails goal) r.target ∧ (s.relocFails goal).cont = { s.cont with reloc := none, dupsNext := [] } ∧
    (s.relocFails goal).rd (K.tileState r.target) = goal ∧
    (s.relocFails goal).rd (K.slotState r.slot) = (if (s.stack r.source).lost then 2 else 0) ∧
    (s.relocFails goal).rd K.relocStatus = relocStatus r 9 0 ∧ (s.relocFails goal).rd (K.stackState r.target) = 0 := by
  have heq : s.relocFails goal = (((((s.setCont { s.cont with reloc := none, dupsNext := [] }).powerOff r.target).wr (K.tileState r.target)
      goal).wr (K.slotState r.slot) (if (s.stack r.source).lost then 2 else 0)).wr K.relocStatus (relocStatus r 9 0)).count
        (K.continuityCounts 1) 1 := by
    unfold State.relocFails
    rw [h]
    rfl
  have hoff := ((s.setCont { s.cont with reloc := none, dupsNext := [] }).powerOff_rd (tile := r.target))
  rw [heq]
  refine ⟨((((s.powerOff_emptied _ _).wr _ _).wr _ _).wr _ _).count _ _, hoff.2, ?_, ?_, ?_, ?_⟩
  · rw [State.rd_count_other _ _ _ _ (by simp only [ek, ne_eq]; omega), State.rd_wr_other _ _ _ _ (by simp only [ek, ne_eq]; omega),
      State.rd_wr_other _ _ _ _ (by simp only [ek, ne_eq]; omega), State.rd_wr_same]
  · rw [State.rd_count_other _ _ _ _ (by simp only [ek, ne_eq]; omega), State.rd_wr_other _ _ _ _ (by simp only [ek, ne_eq]; omega),
      State.rd_wr_same]
  · rw [State.rd_count_other _ _ _ _ (by simp only [ek, ne_eq]; omega), State.rd_wr_same]
  · rw [State.rd_count_other _ _ _ _ (by simp only [ek, ne_eq]; omega), State.rd_wr_other _ _ _ _ (by simp only [ek, ne_eq]; omega),
      State.rd_wr_other _ _ _ _ (by simp only [ek, ne_eq]; omega), State.rd_wr_other _ _ _ _ (by simp only [ek, ne_eq]; omega), hoff.1]

theorem State.relocDrained_standby (h : s.cont.reloc = some r) (h8 : r.step = 8) (hk : r.kind = 0 ∨ r.kind = 2)
    (hlost : (s.stack r.source).lost = false) (hs : r.source < 36) :
    s.Emptied s.relocDrained r.source ∧ s.relocDrained.cont.reloc = none ∧ s.relocDrained.rd (K.tileState r.source) = 1 ∧
    s.relocDrained.rd (K.stackState r.source) = 0 ∧ s.relocDrained.rd K.relocStatus = relocStatus r 8 2047 := by
  have heq : s.relocDrained = ((((((s.count (K.continuityCounts 0) 1).setCont { s.cont with reloc := none }).powerOff r.source).wr
      (K.tileState r.source) 1).wr K.relocStatus (relocStatus r 8 2047))).showDegraded := by
    have h4 : (decide (r.kind = 4) || false) = false := by
      rcases hk with hk | hk <;> simp [hk]
    have h5 : (decide (r.kind = 3) || decide (r.kind = 4) || false) = false := by
      rcases hk with hk | hk <;> simp [hk]
    unfold State.relocDrained
    rw [h]
    dsimp only
    rw [if_neg (not_not_intro h8), hlost, h4, h5, if_neg (by omega)]
    rfl
  have hoff := (((s.count (K.continuityCounts 0) 1).setCont { s.cont with reloc := none }).powerOff_rd (tile := r.source))
  have hempty : s.Emptied (((s.count (K.continuityCounts 0) 1).setCont { s.cont with reloc := none }).powerOff r.source) r.source := by
    obtain ⟨_, _, _, _, _, _, he⟩ := (s.count (K.continuityCounts 0) 1).powerOff_emptied { s.cont with reloc := none } r.source
    rw [he]
    exact ⟨_, _, _, _, _, _, rfl⟩
  rw [heq]
  refine ⟨((hempty.wr _ _).wr _ _).showDegraded, ?_, ?_, ?_, ?_⟩
  · rw [State.showDegraded_cont]
    exact congrArg Continuity.reloc hoff.2
  · rw [State.rd_showDegraded _ (fun p _ => by simp only [ek, ne_eq]; omega), State.rd_wr_other _ _ _ _ (by simp only [ek, ne_eq]; omega),
      State.rd_wr_same]
  · rw [State.rd_showDegraded _ (fun p _ => by simp only [ek, ne_eq]; omega), State.rd_wr_other _ _ _ _ (by simp only [ek, ne_eq]; omega),
      State.rd_wr_other _ _ _ _ (by simp only [ek, ne_eq]; omega), hoff.1]
  · rw [State.rd_showDegraded _ (fun p _ => by simp only [ek, ne_eq]; omega), State.rd_wr_same]

theorem State.relocDrained_testing (h : s.cont.reloc = some r) (h8 : r.step = 8) (hk : r.kind = 1) :
    ∃ k, s.relocDrained = (((s.count k 1).setCont { s.cont with reloc := some { r with step := 9 } }).wr (K.tileState r.source) 4).wr
      K.relocStatus (relocStatus r 7 2047) := by
  refine ⟨K.continuityCounts (if r.kind = 4 || (s.stack r.source).lost then 4 else 0), ?_⟩
  unfold State.relocDrained
  rw [h]
  dsimp only
  rw [if_neg (not_not_intro h8), if_pos hk]
  rfl

/-- The part once the self-test of the source has ended, before its result is shown. -/
def State.tested (s : State) (r : Reloc) : State :=
  (((s.count (K.continuityCounts 2) 1).setCont { s.cont with reloc := none }).powerOff r.source).wr K.relocStatus (relocStatus r 8 2047)

theorem State.tested_emptied (s : State) (r : Reloc) : s.Emptied (s.tested r) r.source := by
  obtain ⟨_, _, _, _, _, _, he⟩ := (s.count (K.continuityCounts 2) 1).powerOff_emptied { s.cont with reloc := none } r.source
  unfold State.tested
  rw [he]
  exact ⟨_, _, _, _, _, _, rfl⟩

theorem State.tested_cont (s : State) (r : Reloc) : (s.tested r).cont = { s.cont with reloc := none } :=
  (((s.count (K.continuityCounts 2) 1).setCont { s.cont with reloc := none }).powerOff_rd (tile := r.source)).2

theorem execSelftestComplete_ends {code : Nat} (h : s.cont.reloc = some r) (h9 : r.step = 9) (hret : r.ret = false) :
    exec (.selftestComplete code) s = .next (if code % 2 ^ 30 = 0 then
        (((s.tested r).wr (K.selftestResult r.source) (2 ^ 30)).wr (K.tileState r.source) 1).setCont
          { (s.tested r).cont with returnTile := Tab.set (s.tested r).cont.returnTile r.slot r.source }
      else ((s.tested r).wr (K.selftestResult r.source) (2 ^ 31 + code % 2 ^ 30)).wr (K.tileState r.source) 5) := by
  refine congrArg Host.Outcome.next ?_
  rw [h]
  dsimp only
  rw [if_neg (not_not_intro h9), hret]
  rfl

/-! ### The copy of a granule (R227) -/

@[simp] theorem State.setErrs_tags (s : State) (ln : Nat) (e : List (Nat × Nat)) : (s.setErrs ln e).tags = s.tags := rfl

@[simp] theorem State.burst_tags (s : State) (ln h : Nat) (wr : Bool) : (s.burst ln h wr).tags = s.tags := by
  unfold State.burst
  dsimp only
  split <;> split <;> rfl

@[simp] theorem State.errEvent_tags (s : State) (kind ln : Nat) (fix : List (Nat × Nat)) : (s.errEvent kind ln fix).tags = s.tags := by
  unfold State.errEvent
  dsimp only
  split <;> rfl

@[simp] theorem State.overtake_tags (s : State) (ln : Nat) : (s.overtake ln).tags = s.tags := by
  unfold State.overtake
  dsimp only
  split <;> rfl

@[simp] theorem State.putLine_tags (s : State) (ln : Nat) (d : List Byte) (key unit : Nat) : (s.putLine ln d key unit).tags = s.tags := by
  unfold State.putLine
  exact State.overtake_tags ..

@[simp] theorem State.poisonLine_tags (s : State) (ln : Nat) : (s.poisonLine ln).tags = s.tags := by
  unfold State.poisonLine
  simp only [State.burst_tags, State.signLine, State.count_tags, State.setErrs_tags]

@[simp] theorem State.repairFrom_tags (s : State) (ln : Nat) (d : List Byte) (key unit : Nat) : (s.repairFrom ln d key unit).tags = s.tags := by
  simp [State.repairFrom]

@[simp] theorem State.placeLine_tags (s : State) (ln : Nat) (d : List Byte) (key : Option Nat) (e : List (Nat × Nat)) :
    (s.placeLine ln d key e).tags = s.tags := by
  unfold State.placeLine
  cases key <;> exact State.putLine_tags ..

@[simp] theorem State.fromOther_tags (s : State) (ln : Nat) : (s.fromOther ln).2.tags = s.tags := by
  unfold State.fromOther
  split
  · rfl
  · unfold State.readOther
    dsimp only
    split
    · rfl
    · split <;> simp

theorem State.copyLine_tags (s : State) (r : Reloc) (l : Nat) : (s.copyLine r l).tags = s.tags := by
  have hlost (u v : State) (c : Bool) (hu : u.tags = s.tags) (hv : v.tags = s.tags) : (if c then u else v).tags = s.tags := by
    cases c
    · exact hv
    · exact hu
  have hread := hlost s ((s.burst (r.source * 2 ^ 30 + l) 0 false).count (K.integrityCounts r.source 0) 1) (s.stack r.source).lost rfl
    (by rw [State.count_tags, State.burst_tags])
  unfold State.copyLine
  dsimp only
  generalize (if (s.stack r.source).lost then s else (s.burst (r.source * 2 ^ 30 + l) 0 false).count (K.integrityCounts r.source 0) 1) = w
    at hread ⊢
  split
  · rfl
  · cases s.decode (r.source * 2 ^ 30 + l) [] with
    | clean => simp only [State.burst_tags, State.placeLine_tags, hread]
    | corrected f => simp only [State.burst_tags, State.placeLine_tags, State.errEvent_tags, State.count_tags, hread]
    | poisoned f => simp only [State.poisonLine_tags, hread]
    | uncorrectable =>
      dsimp only
      have hother : (w.fromOther (r.source * 2 ^ 30 + l)).2.tags = s.tags := (State.fromOther_tags ..).trans hread
      split
      · simp only [State.burst_tags, State.putLine_tags]
        exact hlost _ _ _ hother ((State.repairFrom_tags ..).trans hother)
      · have hpoison := hlost (w.fromOther (r.source * 2 ^ 30 + l)).2 (((w.fromOther (r.source * 2 ^ 30 + l)).2.count
          (K.integrityCounts r.source 3) 1).errEvent 3 (r.source * 2 ^ 30 + l) []) (s.stack r.source).lost hother
          (by rw [State.errEvent_tags, State.count_tags, hother])
        refine hlost _ _ _ ?_ ?_
        · rw [State.count_tags, State.poisonLine_tags, hpoison]
        · rw [State.poisonLine_tags, hpoison]

theorem mem_insertRising (x : Nat) : ∀ l : List Nat, x ∈ insertRising l x := by
  intro l
  induction l with
  | nil => exact List.mem_singleton_self x
  | cons a l ih =>
    unfold insertRising
    split
    · exact List.mem_cons_self
    · split
      · rename_i h
        exact h ▸ List.mem_cons_self
      · exact List.mem_cons_of_mem _ ih

theorem State.copyGranule_effect {g : Nat} (h : s.cont.reloc = some r) (hg : g < 16256 * 2 ^ 11) :
    (s.copyGranule g).tags = s.tags ∧ (s.copyGranule g).cont.reloc = some { r with cursor := g + 1 } ∧
    r.target * 2 ^ 25 + g ∈ (s.copyGranule g).written := by
  have htags (l : List Nat) : ∀ w : State, (l.foldl (fun (s : State) i => s.copyLine r (g * 32 + i)) w).tags = w.tags := by
    induction l with
    | nil => exact fun w => rfl
    | cons i l ih => exact fun w => (ih _).trans (w.copyLine_tags r _)
  unfold State.copyGranule
  rw [h]
  dsimp only
  rw [if_pos hg]
  refine ⟨htags _ s, rfl, ?_⟩
  unfold State.clearFresh State.setCont
  dsimp only
  rw [Nat.mul_div_cancel _ (by decide)]
  exact mem_insertRising _ _

end

/-- Settles O42: each step from the relocation in progress. -/
theorem relocationSteps : Obligations.RelocationSteps := by
  unfold Obligations.RelocationSteps
  intro s slot target t r hsrc htgt hslot
  refine ⟨?auto, ?prepared, ?failed, ?copied, ?copying, ?commit, ?standby, ?testing, ?tested⟩
  case auto =>
    intro kind hf htarget hauto hnone hlost
    refine congrArg Host.Outcome.next ?_
    rw [hf, htarget]
    dsimp only
    rw [if_pos ⟨hauto, by rw [hnone]; rfl⟩, hlost]
    rfl
  case prepared =>
    intro h h1 hfill hst
    refine congrArg Host.Outcome.next ?_
    rw [h]
    dsimp only
    rw [if_neg (not_not_intro h1), if_neg (by decide), if_pos ⟨hfill, hst⟩]
    rfl
  case failed =>
    intro h h1
    obtain ⟨hempty, hcont, htile, hslot', hstatus, hstack⟩ := State.relocFails_effect h 5 htgt hslot
    obtain ⟨hother, hown⟩ := hempty.bytes
    refine ⟨s.relocFails 5, congrArg Host.Outcome.next ?_, by rw [hcont], htile, hslot', hstatus, hstack, by rw [hcont], hother, hown,
      hempty.only⟩
    rw [h]
    exact (if_neg (not_not_intro h1)).trans (if_pos rfl)
  case copied =>
    intro h h4 hnone
    refine congrArg Host.Outcome.next ?_
    rw [h]
    dsimp only
    rw [if_neg (not_not_intro h4), hnone, List.foldl_nil, h]
    rfl
  case copying =>
    intro g h h4 hone hg
    obtain ⟨htags, hreloc, hwritten⟩ := State.copyGranule_effect h hg
    refine ⟨((s.copyGranule g).setCont { (s.copyGranule g).cont with reloc := some { r with step := 5, cursor := g + 1 } }).wr K.relocStatus
      (relocStatus r 5 2047), congrArg Host.Outcome.next ?_, rfl, State.rd_wr_same .., ?_, htags⟩
    · rw [h]
      dsimp only
      rw [if_neg (not_not_intro h4), hone, List.foldl_cons, List.foldl_nil, hreloc]
      rfl
    · have hdiv : (r.target * 2 ^ 25 + g) * 4096 / 4096 = r.target * 2 ^ 25 + g := Nat.mul_div_cancel _ (by decide)
      unfold State.isFresh
      rw [hdiv, Bool.not_eq_false']
      exact List.contains_iff_mem.mpr hwritten
  case commit =>
    intro h hstep htake
    refine congrArg Host.Outcome.next ?_
    rw [show (s.at t).cont.reloc = s.cont.reloc from rfl, h]
    exact if_pos ⟨hstep, htake⟩
  case standby =>
    intro h h8 hk hlost
    obtain ⟨hempty, hcont, htile, hstack, hstatus⟩ := State.relocDrained_standby h h8 hk hlost hsrc
    exact ⟨s.relocDrained, rfl, hcont, htile, hstack, hstatus, hempty.bytes.1, hempty.only⟩
  case testing =>
    intro h h8 hk
    obtain ⟨k, heq⟩ := State.relocDrained_testing h h8 hk
    refine ⟨_, congrArg Host.Outcome.next heq, rfl, ?_, State.rd_wr_same .., rfl⟩
    rw [State.rd_wr_other _ _ _ _ (by simp only [ek, ne_eq]; omega), State.rd_wr_same]
  case tested =>
    intro code h h9 hret
    have hstatus : (s.tested r).rd K.relocStatus = relocStatus r 8 2047 := State.rd_wr_same ..
    have hex := execSelftestComplete_ends (code := code) h h9 hret
    by_cases h0 : code % 2 ^ 30 = 0
    · rw [if_pos h0] at hex
      have hempty := (((s.tested_emptied r).wr (K.selftestResult r.source) (2 ^ 30)).wr (K.tileState r.source) 1).setCont
        { (s.tested r).cont with returnTile := Tab.set (s.tested r).cont.returnTile r.slot r.source }
      refine ⟨_, hex, congrArg Continuity.reloc (s.tested_cont r), ?_, ?_, fun _ => Tab.find_set_same .., ?_, hempty.bytes.1, hempty.only⟩
      · rw [if_pos h0]
        exact State.rd_wr_same ..
      · rw [if_pos h0]
        exact (State.rd_wr_other _ _ _ _ (by simp only [ek, ne_eq]; omega)).trans (State.rd_wr_same ..)
      · exact (State.rd_wr_other _ _ _ _ (by simp only [ek, ne_eq]; omega)).trans
          ((State.rd_wr_other _ _ _ _ (by simp only [ek, ne_eq]; omega)).trans hstatus)
    · rw [if_neg h0] at hex
      have hempty := ((s.tested_emptied r).wr (K.selftestResult r.source) (2 ^ 31 + code % 2 ^ 30)).wr (K.tileState r.source) 5
      refine ⟨_, hex, congrArg Continuity.reloc (s.tested_cont r), ?_, ?_, fun hc => absurd hc h0, ?_, hempty.bytes.1, hempty.only⟩
      · rw [if_neg h0]
        exact State.rd_wr_same ..
      · rw [if_neg h0]
        exact (State.rd_wr_other _ _ _ _ (by simp only [ek, ne_eq]; omega)).trans (State.rd_wr_same ..)
      · exact (State.rd_wr_other _ _ _ _ (by simp only [ek, ne_eq]; omega)).trans
          ((State.rd_wr_other _ _ _ _ (by simp only [ek, ne_eq]; omega)).trans hstatus)

end Sys2Proof.Machine

namespace Sys2Proof.Machine

/-! ### A port comes up: its link state stays -/

/-- A write of an element past the bindings leaves bindings and links. -/
theorem State.Linked.wr_past {s w : State} (h : s.Linked w) {k : Nat} (v : Nat) (hk : ek 0x3700 0 0 ≤ k) : s.Linked (w.wr k v) := by
  simp only [ek] at hk
  refine h.trans ⟨rfl, fun b hb => State.rd_wr_other _ _ _ _ ?_, fun b hb => State.rd_wr_other _ _ _ _ ?_,
    fun p hp => State.rd_wr_other _ _ _ _ ?_⟩ <;> simp only [ek, ne_eq] <;> omega

theorem State.Linked.foldl {α : Type} {f : State → α → State} (hf : ∀ (s : State) x, s.Linked (f s x)) :
    ∀ (l : List α) (s : State), s.Linked (l.foldl f s)
  | [], s => .refl s
  | x :: l, s => (hf s x).trans (State.Linked.foldl hf l (f s x))

theorem State.markDirty_linked (s : State) (n t off : Nat) : s.Linked (s.markDirty n t off) := by
  unfold State.markDirty State.setDirty
  dsimp only
  refine State.Linked.wr_past (k := K.pairDirty n) ?_ _ (by simp only [ek]; omega)
  exact .of_eq rfl rfl rfl

theorem State.pairDone_linked (s : State) (n port id : Nat) : s.Linked (s.pairDone n port id) := by
  unfold State.pairDone
  split
  · refine State.Linked.trans ?_ (State.answer_linked _ _ _ _ _)
    exact .of_eq rfl rfl rfl
  · exact .refl s

theorem State.pairDoneAll_linked (s : State) (n : Nat) : s.Linked (s.pairDoneAll n) := by
  unfold State.pairDoneAll
  exact State.Linked.foldl (fun (u : State) (r : Req) => u.pairDone_linked n r.port r.id) _ _

theorem State.degrade_linked (s : State) (n : Nat) : s.Linked (s.degrade n) := by
  unfold State.degrade
  have hcount : s.Linked ((s.wr (K.pairState n) 2).count (K.continuityCounts 6) 1) :=
    (State.Linked.wr_past (k := K.pairState n) (.refl s) 2 (by simp only [ek]; omega)).wr_past (k := K.continuityCounts 6) _
      (by simp only [ek]; omega)
  dsimp only
  refine State.Linked.trans (w := State.pairDoneAll _ n) ?_ (.of_eq rfl rfl rfl)
  refine State.Linked.trans ?_ (State.pairDoneAll_linked _ n)
  generalize (s.pairInFlight n).map (·.1) ++ (s.cont.pairAgain.filter (fun x => x.1 = n)).map (fun x => x.2 * 128) = l
  have hdirty := State.Linked.foldl (fun (v : State) off => v.markDirty_linked n (v.pairTile n off) off) l
    ((s.wr (K.pairState n) 2).count (K.continuityCounts 6) 1)
  exact (hcount.trans hdirty).trans (.of_eq rfl rfl rfl)

theorem State.followPairPorts_linked (s : State) (up : List Nat) : s.Linked (s.followPairPorts up) := by
  unfold State.followPairPorts
  refine State.Linked.foldl (fun u n => ?_) _ _
  dsimp only
  split
  · exact .refl u
  · split
    · split
      · exact u.degrade_linked n
      · exact .refl u
    · split
      · have h3 : u.Linked (u.wr (K.pairState n) 3) := .wr_past (k := K.pairState n) (.refl u) 3 (by simp only [ek]; omega)
        unfold State.resyncEnd
        split
        · exact h3.wr_past (k := K.pairState n) 1 (by simp only [ek]; omega)
        · exact h3
      · exact .refl u

theorem State.endGrace_linked (s : State) (b : Nat) : s.Linked (s.endGrace b) := by
  unfold State.endGrace
  split
  · exact .refl s
  · refine State.Linked.wr_past (k := K.cohHolderState b) ?_ _ (by simp only [ek]; omega)
    exact .of_eq rfl rfl rfl

theorem State.portUp_linked (s : State) (p : Nat) : s.Linked (s.portUp p) := by
  unfold State.portUp
  refine State.Linked.trans ?_ (State.followPairPorts_linked _ _)
  refine State.Linked.trans ?_ (State.Linked.foldl (fun u g => ?_) _ _)
  · exact .of_eq rfl rfl rfl
  split
  · exact u.endGrace_linked g.1
  · exact .refl u

/-! ### A link becomes SECURE -/

theorem State.linkState_of_splice {s : State} {p : Nat} {x : Splice} (h4 : s.rd (K.portState p) = 4)
    (hx : (s.link p).splice = some x) : s.linkState p = if x.kind < 4 then x.back else 4 := by
  unfold State.linkState
  dsimp only
  rw [if_pos h4, show (Tab.getD s.links p {}).splice = some x from hx]

/-- The flip of the key phase leaves the port's state and its splice. -/
theorem State.linkSecure_flip (s : State) (p : Nat) :
    let w := if (s.link p).mayFlip then s.flipPhase p else s.setLink p { s.link p with flipWait := true }
    w.rd (K.portState p) = s.rd (K.portState p) ∧ (w.link p).splice = (s.link p).splice := by
  dsimp only
  split
  · exact ⟨State.rd_wr_other _ _ _ _ (by simp only [ek, ne_eq]; omega), by simp [State.flipPhase]⟩
  · exact ⟨rfl, by simp⟩

/-- A port in BOOTSTRAP, or in a splice that goes back to it, is SECURE once its key phase flips. -/
theorem State.linkSecure_secure {s : State} {p : Nat} (hp : p < 64) (h2 : s.linkState p = 2) : (s.linkSecure p).secure p = true := by
  obtain ⟨hst, hsp⟩ := s.linkSecure_flip p
  unfold State.linkSecure
  dsimp only at hst hsp ⊢
  generalize (if (s.link p).mayFlip then s.flipPhase p else s.setLink p { s.link p with flipWait := true }) = w at hst hsp ⊢
  rw [(State.portUp_linked _ p).secure hp, State.secure, decide_eq_true_eq]
  by_cases h4 : w.rd (K.portState p) = 4
  · rw [if_pos h4]
    cases hx : (s.link p).splice with
    | none =>
      unfold State.linkState at h2
      dsimp only at h2
      rw [if_pos (hst ▸ h4), show (Tab.getD s.links p {}).splice = none from hx] at h2
      exact absurd h2 (by decide)
    | some x =>
      rw [State.linkState_of_splice (hst ▸ h4) hx] at h2
      have hk : x.kind < 4 := by
        refine Classical.byContradiction fun hk => ?_
        rw [if_neg hk] at h2
        exact absurd h2 (by decide)
      have hback : ((w.updLink p fun k => { k with splice := k.splice.map (fun x => { x with back := 3 }) }).link p).splice =
          some { x with back := 3 } := by simp [State.updLink, hsp, hx]
      rw [State.linkState_of_splice (s := w.updLink p _) h4 hback]
      exact if_pos hk
  · rw [if_neg h4]
    unfold State.linkState
    dsimp only
    rw [State.rd_wr_same]
    rfl

theorem State.arrive_boot {s u : State} {port op : Nat} {h : Hdr} {b : List Byte} {q : Req}
    (hq : s.arrive port op h b = (some q, u)) : u.boot = s.boot := by
  unfold State.arrive at hq
  cases hc : s.checkArrival port op h b <;> rw [hc] at hq <;> dsimp only at hq <;> injection hq with h1 h2
  case accepted n =>
    subst h2
    unfold State.accept
    dsimp only
    split <;> rfl
  all_goals cases h1

/-- In band, a carried request is served in the state it names, by what follows the port engine's checks. -/
theorem Carried.inBand {s u : State} {via source kind t src : Nat} {h : Hdr} {put : State → List Byte → State}
    (H : Carried s via source h kind t src u put) (hv : via < 64) :
    src = h.src ∧ ∃ q : Req, (put = fun v m => v.carriedAnswer q m) ∧
      ∀ f : State → Req → State, (s.at t).carried via 0x70 h f = f u q := by
  obtain ⟨hrel, ⟨h64, -⟩ | ⟨-, hsrc, hopen, q, hq, hput⟩⟩ := H
  · omega
  refine ⟨hsrc, q, hput, fun f => ?_⟩
  unfold State.carried
  rw [if_neg (by simp [hopen])]
  obtain ⟨hnone, harr⟩ | ⟨hsome, rfl⟩ := hq
  · rw [hnone, harr]
    have hup : u.spdmUp = true := (congrArg (fun b => b.released) (State.arrive_boot harr)).trans hrel
    exact if_pos hup
  · rw [hsome]
    exact if_pos hrel

/-- A secured message that authenticates is served in its session, and the response goes back the way the message came. -/
theorem Carried.spdmSessArrive {s u v : State} {via source t src i sq : Nat} {h : Hdr} {put : State → List Byte → State}
    (H : Carried s via source h 1 t src u put) (hs : Secures u i sq v) (hi : i < 512) (m : SessReq) :
    s.spdmSessArrive via source h i sq true m t = put (v.spdmInSession i m).2 (v.spdmInSession i m).1 := by
  have hin : u.secureIn i sq true = some v := by
    obtain ⟨x, hx, hidx, hfresh, rfl⟩ := hs
    unfold State.secureIn
    rw [hx]
    exact if_pos ⟨hidx, rfl, hfresh⟩
  unfold State.spdmSessArrive
  by_cases hv : 64 ≤ via
  · obtain ⟨hrel, ⟨-, -, rfl, rfl⟩ | ⟨hlt, -⟩⟩ := H
    · dsimp only
      rw [if_pos (by simpa [viaMgmt] using hv), if_neg (by simp [State.spdmUp, State.at, hrel]), hin]
    · omega
  · obtain ⟨-, q, rfl, hcar⟩ := H.inBand (by omega)
    dsimp only
    rw [if_neg (by simpa [viaMgmt] using hv), hcar, hin]
    dsimp only
    refine if_neg ?_
    cases m <;> simp [hi]

/-! ### The port as requester -/

@[simp] theorem State.spdmOf_setSpdm (s : State) (k : Nat) (x : Spdm) : (s.setSpdm k x).spdmOf k = x := by
  simp [State.spdmOf, State.setSpdm, State.updBoot]

theorem State.spdmOf_spdmAsk (s : State) (p asked : Nat) (m : List Byte) : (s.spdmAsk p asked m).spdmOf p = { s.spdmOf p with asked := asked } := by
  unfold State.spdmAsk
  dsimp only
  obtain ⟨ports, meter, he⟩ := State.originate_only (s := s.setSpdm p { s.spdmOf p with asked := asked }) (port := p) (dst := 0xFFFF)
    (op := 0x70) (handle := 0) (body := mgmtBody m) (why := .spdm)
  rw [he]
  exact State.spdmOf_setSpdm ..

/-- An SPDM_RESP that answers the requester's request advances its sequence. -/
theorem execSpdmResponseReceived_advances {s : State} {p t : Nat} {h : Hdr} {x : PartReq} (H : Matches s p 0xF0 h t x)
    (hwhy : x.purpose = .spdm) (hok : h.status = Code.ok) (hreq : s.spdmRequester p = true) (hask : (s.spdmOf p).asked ≠ 0) (r : SpdmResp) :
    exec (.spdmResponseReceived p h r t) s = .next (((s.at t).settle x).spdmAdvance p r) := by
  refine congrArg Host.Outcome.next ?_
  rw [State.onResp_matches _ _ _ _ _ _ _ H, hwhy]
  dsimp only
  have hgo : (((s.at t).settle x).spdmRequester p && decide ((((s.at t).settle x).spdmOf p).asked ≠ 0)) = true := by
    rw [Bool.and_eq_true, decide_eq_true_eq]
    exact ⟨hreq, hask⟩
  rw [if_pos hgo, if_pos hok]

theorem State.linkState_spdmOpen (s : State) (k i via source : Nat) (auth : Bool) (root p : Nat) :
    (s.spdmOpen k i via source auth root).linkState p = s.linkState p := by
  have hset : ∀ (u : State) (j : Nat), (u.sessTouch j).linkState p = u.linkState p := by
    intro u j
    unfold State.sessTouch
    dsimp only
    split <;> rfl
  have hcount : ∀ u : State, (u.count (K.attestCounts 0) 1).linkState p = u.linkState p := by
    intro u
    unfold State.linkState
    dsimp only
    rw [State.rd_count_other _ _ _ _ (by simp only [ek, ne_eq]; omega)]
    rfl
  unfold State.spdmOpen
  dsimp only
  rw [hcount, hset]
  rfl

theorem linkState_of_spdmRequester {s : State} {p : Nat} (h : s.spdmRequester p = true) : s.linkState p = 2 := by
  unfold State.spdmRequester at h
  rw [Bool.and_eq_true, decide_eq_true_eq] at h
  exact h.1

/-- A response within an open session takes the session's next number. -/
theorem State.sessReply_open {s : State} {i : Nat} {y : Sess} (hy : s.session i = some y) (m : List Byte) :
    s.sessReply i m = (y.record (toBE 1 0x05 ++ m), s.setSess i { y with txSeq := y.txSeq + 1 }) := by
  unfold State.sessReply
  rw [hy]

/-- The first two bytes of an SPDM message: its version and its code. -/
theorem spdmMsg_take (code p1 p2 : Nat) (body : List Byte) : (spdmMsg code p1 p2 body).take 2 = toLE 1 0x13 ++ toLE 1 code := rfl

/-- Settles O44, one clause at a time: within a session by what its message is served as, on a link by the step of the sequence. -/
theorem spdmSessions : Obligations.SpdmSessions := by
  intro s via source t src i sq h u v put
  refine ⟨fun hc hs hi y hy => ⟨?_, fun op h1 h3 => ?_, ?_⟩, fun p hp hrel hreq hask hretry => ⟨?_, ?_⟩, fun p hp hrel hreq hretry => ?_,
    fun p x hp H hport hwhy hok hreq => ?_⟩
  · refine congrArg Host.Outcome.next ((hc.spdmSessArrive hs hi .heartbeat).trans ?_)
    rw [State.spdmInSession, State.sessReply_open hy]
  · refine congrArg Host.Outcome.next ((hc.spdmSessArrive hs hi (.keyUpdate op)).trans ?_)
    unfold State.spdmInSession
    dsimp only
    rw [if_pos ⟨h1, h3⟩, hy]
    by_cases h2 : op = 2
    · rw [if_pos h2, if_pos h2, if_pos h2]
      dsimp only
      rw [State.sessReply_open (State.session_setSess v i _)]
      unfold State.setSess
      dsimp only
      rw [Tab.set_set]
    · rw [if_neg h2, if_neg h2, if_neg h2, State.sessReply_open hy]
  · refine congrArg Host.Outcome.next ((hc.spdmSessArrive hs hi .endSession).trans ?_)
    rw [State.spdmInSession, State.sessReply_open hy]
    dsimp only
    rw [if_pos hi]
  · refine congrArg Host.Outcome.next (if_pos ?_)
    show (s.boot.released && s.spdmRequester p && decide ((s.spdmOf p).asked = 0) && !(s.spdmOf p).retry) = true
    rw [hrel, hreq, hask, hretry]
    rfl
  · unfold State.spdmStart
    dsimp only
    rw [State.spdmOf_spdmAsk]
  · refine congrArg Host.Outcome.next ((if_pos ?_).trans ?_)
    · show (s.boot.released && s.spdmRequester p && ((s.spdmOf p).retry || decide ((s.spdmOf p).asked ≠ 0))) = true
      rw [hrel, hreq, hretry]
      rfl
    · exact congrArg (State.spdmStart · p) (if_pos hretry)
  · have hadv := fun hask => execSpdmResponseReceived_advances H hwhy hok hreq hask
    have hof : (((s.at t).settle x).spdmOf p) = s.spdmOf p := rfl
    dsimp only
    have hlink : ((s.at t).settle x).linkState p = 2 := linkState_of_spdmRequester hreq
    have hfree : ((s.at t).settle x).free = s.free := rfl
    generalize (s.at t).settle x = w at hadv hof hlink hfree
    refine ⟨fun h1 => ?_, fun h2 => ?_, fun h3 => ?_, fun h4 => ?_, fun d h5 => ?_, fun h8 => ⟨?_, ?_⟩, fun hask => hadv hask .error⟩
    · rw [hadv (by omega), State.spdmAdvance, hof]
      dsimp only
      rw [if_pos ⟨h1, rfl⟩]
      rw [← hfree]
      exact ⟨_, _, rfl, rfl, spdmMsg_take ..⟩
    · rw [hadv (by omega), State.spdmAdvance, hof]
      rw [if_pos h2]
      exact ⟨_, rfl, spdmMsg_take ..⟩
    · rw [hadv (by omega), State.spdmAdvance, hof]
      rw [if_pos ⟨h3, rfl⟩]
    · rw [hadv (by omega), State.spdmAdvance, hof]
      rw [if_pos ⟨h4, rfl⟩]
    · rw [hadv (by omega), State.spdmAdvance, hof]
      rw [if_neg (by omega), if_pos rfl]
    · rw [hadv (by omega), State.spdmAdvance, hof]
      dsimp only
      rw [if_neg (by simp [h8])]
    · refine State.linkSecure_secure (by omega) ?_
      rw [State.linkState_spdmOpen]
      exact hlink

end Sys2Proof.Machine

namespace Sys2Proof.Machine

/-! ### What a port that goes down leaves -/

/-- `t` is `s` but for ports, waiting requests, elements, meters, pairs and leases: what a port that goes down changes. -/
def State.Followed (s t : State) : Prop :=
  ∃ ports mesh waiting regs meter cont lease, t = { s with
    ports := ports, mesh := mesh, waiting := waiting, regs := regs, meter := meter, cont := cont, lease := lease }

namespace State.Followed

theorem refl (s : State) : s.Followed s := ⟨_, _, _, _, _, _, _, rfl⟩

theorem trans {s t u : State} : s.Followed t → t.Followed u → s.Followed u := by
  rintro ⟨_, _, _, _, _, _, _, rfl⟩ ⟨_, _, _, _, _, _, _, rfl⟩
  exact ⟨_, _, _, _, _, _, _, rfl⟩

theorem of_talked {s t : State} : s.Talked t → s.Followed t := by
  rintro ⟨_, _, _, _, _, rfl⟩
  exact ⟨_, _, _, _, _, _, _, rfl⟩

theorem foldl {α : Type} {f : State → α → State} (hf : ∀ (s : State) x, s.Followed (f s x)) :
    ∀ (l : List α) (s : State), s.Followed (l.foldl f s)
  | [], s => refl s
  | x :: l, s => (hf s x).trans (foldl hf l (f s x))

theorem sess {s t : State} (h : s.Followed t) : t.sess = s.sess := by obtain ⟨_, _, _, _, _, _, _, rfl⟩ := h; rfl

end State.Followed

theorem State.wr_followed (s : State) (k v : Nat) : s.Followed (s.wr k v) := ⟨_, _, _, _, _, _, _, rfl⟩

theorem State.pairDone_followed (s : State) (n port id : Nat) : s.Followed (s.pairDone n port id) := by
  unfold State.pairDone
  split
  · refine State.Followed.trans ?_ (.of_talked (State.answer_talked _ _ _ _ _))
    exact ⟨_, _, _, _, _, _, _, rfl⟩
  · exact .refl s

theorem State.degrade_followed (s : State) (n : Nat) : s.Followed (s.degrade n) := by
  have hdone : ∀ u : State, u.Followed (u.pairDoneAll n) := fun u => by
    unfold State.pairDoneAll
    exact State.Followed.foldl (fun (v : State) (r : Req) => v.pairDone_followed n r.port r.id) _ _
  unfold State.degrade
  dsimp only
  refine State.Followed.trans (t := State.pairDoneAll _ n) ?_ ⟨_, _, _, _, _, _, _, rfl⟩
  refine State.Followed.trans ?_ (hdone _)
  generalize (s.pairInFlight n).map (·.1) ++ (s.cont.pairAgain.filter (fun x => x.1 = n)).map (fun x => x.2 * 128) = l
  have hcount : s.Followed ((s.wr (K.pairState n) 2).count (K.continuityCounts 6) 1) := ⟨_, _, _, _, _, _, _, rfl⟩
  have hdirty := State.Followed.foldl (f := fun (v : State) off => v.markDirty n (v.pairTile n off) off)
    (fun v off => ⟨_, _, _, _, _, _, _, rfl⟩) l ((s.wr (K.pairState n) 2).count (K.continuityCounts 6) 1)
  exact (hcount.trans hdirty).trans ⟨_, _, _, _, _, _, _, rfl⟩

theorem State.followPairPorts_followed (s : State) (up : List Nat) : s.Followed (s.followPairPorts up) := by
  unfold State.followPairPorts
  refine State.Followed.foldl (fun u n => ?_) _ _
  dsimp only
  split
  · exact .refl u
  · split
    · split
      · exact u.degrade_followed n
      · exact .refl u
    · split
      · unfold State.resyncEnd
        split
        · exact (u.wr_followed ..).trans (State.wr_followed ..)
        · exact u.wr_followed ..
      · exact .refl u

theorem State.portDown_followed (s : State) (p : Nat) : s.Followed (s.portDown p) := by
  unfold State.portDown
  dsimp only
  refine State.Followed.trans (State.Followed.trans ?_ (State.Followed.foldl (fun u b => ?_) _ _)) (State.followPairPorts_followed _ _)
  · split
    · exact .refl s
    · exact ⟨_, _, _, _, _, _, _, rfl⟩
  · split
    · unfold State.startGrace
      split
      · exact .refl u
      · exact ⟨_, _, _, _, _, _, _, rfl⟩
    · exact .refl u

/-! ### Sessions end -/

theorem State.loseSession_session (s : State) (p : Nat) : (s.loseSession p).session (512 + p) = none := by
  obtain ⟨v, hv, -⟩ := s.sessionEnd_effect p
  unfold State.loseSession State.session
  rw [(State.portDown_followed _ p).sess, hv]
  exact Tab.find_erase_same ..

/-- A staging that its session's end discards leaves sessions and dailies. -/
theorem State.stagingSessionEnds_keeps (s : State) (i : Nat) :
    (s.stagingSessionEnds i).sess = s.sess ∧ (s.stagingSessionEnds i).dailies = s.dailies := by
  unfold State.stagingSessionEnds
  split
  · exact ⟨rfl, rfl⟩
  · exact ⟨rfl, rfl⟩

theorem State.sessEnd_session (s : State) (i : Nat) : (s.sessEnd i).session i = none := by
  unfold State.sessEnd State.session
  rw [(State.stagingSessionEnds_keeps _ i).1]
  exact Tab.find_erase_same ..

theorem State.sessEnd_session_other (s : State) {i j : Nat} (h : j ≠ i) : (s.sessEnd i).session j = s.session j := by
  unfold State.sessEnd State.session
  rw [(State.stagingSessionEnds_keeps _ i).1]
  exact Tab.find_erase_other _ _ _ h

theorem State.sessEnd_subs (s : State) (i : Nat) : ∀ y ∈ (s.sessEnd i).dailies.subs, y.2.sess ≠ i := by
  unfold State.sessEnd
  rw [(State.stagingSessionEnds_keeps _ i).2]
  intro y hy
  simpa using (List.mem_filter.mp hy).2

/-! ### Payloads on their way in -/

/-- A secured message that authenticates is accepted. -/
theorem Secures.secureIn {u v : State} {i sq : Nat} (H : Secures u i sq v) : u.secureIn i sq true = some v := by
  obtain ⟨x, hx, hidx, hfresh, rfl⟩ := H
  unfold State.secureIn
  rw [hx]
  exact if_pos ⟨hidx, rfl, hfresh⟩

/-- A Fligifer message in a secured message on a management port is executed in that session, whose responses go out. -/
theorem State.portSecured_flig {u v : State} {i sq : Nat} (H : Secures u i sq v) (n source : Nat) (m : List Byte) (t : Nat) (fw : Bool × Bool) :
    u.portSecured n source i sq true (.flig m) t fw =
      (v.fligRecv i m t fw).1.foldl (fun (s : State) x => s.fligSend i x) (v.fligRecv i m t fw).2 := by
  unfold State.portSecured
  rw [H.secureIn]
  rfl

/-- In an MGMT request its first response goes out in the MGMT_RESP. -/
theorem State.mgmtSecured_flig {u v : State} {i sq : Nat} (H : Secures u i sq v) (port : Nat) (q : Req) (m : List Byte) (t : Nat) (fw : Bool × Bool) :
    u.mgmtSecured port q i sq true (.flig m) t fw = (v.fligRecv i m t fw).2.mgmtReply q i 1 (v.fligRecv i m t fw).1 := by
  unfold State.mgmtSecured
  rw [H.secureIn]
  rfl

/-- An SPDM or MGMT request that its port accepts, with the service running, is served by what follows the port engine's checks. -/
theorem State.carried_accepted {s u : State} {port op : Nat} {h : Hdr} {q : Req} (hrel : s.boot.released = true)
    (hopen : s.portOpen port = true) (hnone : s.earlyReq port op h = none)
    (harr : s.arrive port op h (toLE 2 (h.len - 24) ++ toLE 6 0) = (some q, u)) (f : State → Req → State) :
    s.carried port op h f = f u q := by
  unfold State.carried
  rw [if_neg (by simp [hopen]), hnone, harr]
  exact if_pos ((congrArg (fun b => b.released) (State.arrive_boot harr)).trans hrel)

/-- A Fligifer message in an SPDM transport message: its one response is the answer. -/
theorem exec_securedMessage_inBand {s u v : State} {port source t i sq : Nat} {h : Hdr} {q : Req} {m a : List Byte} {x : Sess} {e1 e2 : Bool}
    (hrel : s.boot.released = true) (hp : port < 64) (hopen : (s.at t).portOpen port = true) (hnone : (s.at t).earlyReq port 0x70 h = none)
    (harr : (s.at t).arrive port 0x70 h (toLE 2 (h.len - 24) ++ toLE 6 0) = (some q, u)) (hs : Secures u i sq v)
    (ha : (v.fligRecv i m t (e1, e2)).1 = [a]) (hx : (v.fligRecv i m t (e1, e2)).2.session i = some x) :
    exec (.securedMessage port source h i sq true (.flig m) e1 e2 t) s = .next
      (((v.fligRecv i m t (e1, e2)).2.fligSend i a).carriedAnswer q (x.record (toBE 1 0x46 ++ a))) := by
  refine congrArg Host.Outcome.next ((if_neg (by simpa [viaMgmt] using hp)).trans ?_)
  rw [State.carried_accepted (s := s.at t) hrel hopen hnone harr]
  dsimp only
  rw [hs.secureIn]
  dsimp only [State.securedServe]
  rw [ha, hx]
  rfl

/-! ### Management ports -/

/-- A packet that the management core answers. -/
theorem State.netPacket_answered {s : State} {n kind target : Nat} {data : List Byte} (hrel : s.boot.released = true)
    (hto : ((kind = 0 ∨ kind = 3) ∧ s.hasIpv6 n target = true) ∨ ((kind = 1 ∨ kind = 2) ∧ s.hasIpv4 n target = true)) :
    s.netPacket n kind target data = { s with boot := { s.boot with
      netOut := s.boot.netOut ++ [(n, kind, if kind = 0 then toBE 16 target ++ toBE 6 (s.macOf n)
        else if kind = 1 then toBE 4 target ++ toBE 6 (s.macOf n) else data)] } } := by
  unfold State.netPacket
  have hup : ¬ (!s.spdmUp) = true := by simp [State.spdmUp, hrel]
  rw [if_neg hup]
  obtain ⟨rfl | rfl, h6⟩ | ⟨rfl | rfl, h4⟩ := hto
  · rw [if_pos rfl, if_pos h6]
    rfl
  · rw [if_neg (by decide), if_neg (by decide), if_neg (by decide), if_pos rfl, if_pos h6]
    rfl
  · rw [if_neg (by decide), if_pos rfl, if_pos h4]
    rfl
  · rw [if_neg (by decide), if_neg (by decide), if_pos rfl, if_pos h4]
    rfl

/-- The link of a management port comes up under the MAC address written. -/
theorem exec_mgmtPortLinkChange_up {s : State} {n m : Nat} (hn : n < 2) (hm : Tab.find s.regs (K.mgmtMac n) = some m) :
    exec (.mgmtPortLinkChange n true) s = .next { s.wr (K.mgmtLink n) 1 with
      boot := { s.boot with macs := Tab.set s.boot.macs n m } } := by
  refine congrArg Host.Outcome.next ((if_neg (by omega)).trans ?_)
  have hfind : Tab.find (s.wr (K.mgmtLink n) 1).regs (K.mgmtMac n) = some m :=
    (Tab.find_set_other _ _ _ _ (by simp only [ek, ne_eq]; omega)).trans hm
  show (match Tab.find (s.wr (K.mgmtLink n) 1).regs (K.mgmtMac n) with
    | some m => (s.wr (K.mgmtLink n) 1).updBoot (fun b => { b with macs := Tab.set b.macs n m })
    | none => s.wr (K.mgmtLink n) 1) = _
  rw [hfind]
  rfl

/-- Settles O45: each way in comes to the session's execution, and each end of a session erases it. -/
theorem messagesAndSessions : Obligations.MessagesAndSessions := by
  intro s n source t e1 e2
  refine ⟨fun m hrel => ?_, fun m i sq v via h hrel hs hi hv => ⟨?_, ?_⟩, fun magic ver p hrel hbad => ?_,
    fun port h q u hrel hopen hnone harr => ⟨fun m => ?_, fun m i sq v hs hi => ?_⟩,
    fun port h q u v m i sq hrel hp hopen hnone harr hs _ a x ha hx => exec_securedMessage_inBand hrel hp hopen hnone harr hs ha hx,
    fun kind target data hrel hto => congrArg Host.Outcome.next (State.netPacket_answered hrel hto),
    fun hn => congrArg Host.Outcome.next (if_neg (by omega)),
    fun m hn hm => exec_mgmtPortLinkChange_up hn hm,
    fun i x hx => ⟨fun h16 h32 hage => ⟨?_, s.sessEnd_session i, fun j hj => s.sessEnd_session_other hj⟩,
      fun h16 hage => ⟨?_, s.sessEnd_session i, s.sessEnd_subs i⟩, fun h512 hage => ⟨?_, ?_⟩⟩⟩
  · exact congrArg Host.Outcome.next ((if_neg (by simp [State.spdmUp, State.at, hrel])).trans (if_neg (by decide)))
  · refine congrArg Host.Outcome.next ((if_neg (by simp [State.spdmUp, State.at, hrel])).trans ((if_neg (by decide)).trans ?_))
    exact State.portSecured_flig hs ..
  · refine congrArg Host.Outcome.next ((if_pos (by simpa [viaMgmt] using hv)).trans
      ((if_neg (by simp [State.spdmUp, State.at, hrel])).trans ?_))
    exact State.portSecured_flig hs ..
  · exact congrArg Host.Outcome.next ((if_neg (by simp [State.spdmUp, State.at, hrel])).trans (if_pos hbad))
  · refine congrArg Host.Outcome.next ((State.carried_accepted (s := s.at t) hrel hopen hnone harr _).trans ?_)
    exact if_neg (by decide)
  · refine congrArg Host.Outcome.next ((State.carried_accepted (s := s.at t) hrel hopen hnone harr _).trans ((if_neg (by decide)).trans ?_))
    exact State.mgmtSecured_flig hs ..
  · refine congrArg Host.Outcome.next ?_
    rw [hx]
    exact if_pos ⟨h16, h32, hage⟩
  · refine congrArg Host.Outcome.next ?_
    rw [hx]
    exact (if_pos hage).trans (if_pos h16)
  · refine congrArg Host.Outcome.next ?_
    rw [hx]
    exact (if_pos hage).trans ((if_neg (by omega)).trans (if_pos h512))
  · have h := s.loseSession_session (i - 512)
    rwa [Nat.add_sub_cancel' h512] at h

end Sys2Proof.Machine

namespace Sys2Proof.Machine

/-! ### A tile's readings (21 R454) -/

/-- `w` is `s` but for the sensors of tile `t`, their marks and the count of those marked. -/
structure State.Sensed (s w : State) (t : Nat) : Prop where
  only : ∃ regs sensors, w = { s with regs := regs, gaff := { s.gaff with sensors := sensors } }
  regs : s.RegsBut w [K.sensorStatus t, K.gafferCounts 6]
  marks : ∀ i, bit (s.rd (K.sensorStatus t)) i = true → bit (w.rd (K.sensorStatus t)) i = true

theorem State.Sensed.refl (s : State) (t : Nat) : s.Sensed s t := ⟨⟨_, _, rfl⟩, fun _ _ => rfl, fun _ h => h⟩

theorem State.Sensed.trans {s u w : State} {t : Nat} (h : s.Sensed u t) (g : u.Sensed w t) : s.Sensed w t := by
  obtain ⟨⟨_, _, rfl⟩, hr, hm⟩ := h
  obtain ⟨⟨_, _, rfl⟩, hr', hm'⟩ := g
  exact ⟨⟨_, _, rfl⟩, hr.trans hr', fun i hi => hm' i (hm i hi)⟩

/-- Sensor `i` of a tile takes its reading of `vals`. -/
def State.takeReading (s : State) (t : Nat) (vals : List Int) (i : Nat) : State :=
  let v := vals.getD i 0
  let nbrs := ((sensorKind i).filter (· ≠ i)).map (fun j => vals.getD j 0)
  let n := nbrs.foldl max (nbrs.headD 0)
  let k := (s.sensor t i).take (Tab.find s.gaff.sensors (t * 8 + i)).isSome v n s.frame
  let s := s.setGaff { s.gaff with sensors := Tab.set s.gaff.sensors (t * 8 + i) k }
  if k.bad s.frame && !s.sensorFailed t i then
    (s.wr (K.sensorStatus t) (s.rd (K.sensorStatus t) + 2 ^ i)).count (K.gafferCounts 6) 1
  else s

theorem Sensor.last_take (k : Sensor) (seen : Bool) (v n : Int) (f : Nat) : (k.take seen v n f).last = v := by
  unfold Sensor.take
  dsimp only
  split
  · rename_i h
    exact h.1.symm
  · rfl

theorem Sensor.bad_of_last {k : Sensor} (f : Nat) (h : k.last < -160 ∨ 1200 < k.last) : k.bad f = true := by
  unfold Sensor.bad
  obtain h | h := h <;> simp [h]

theorem bit_eq_testBit (x i : Nat) : bit x i = x.testBit i := by
  rw [Nat.testBit_eq_decide_div_mod_eq]
  simp [bit, fld]

/-- Adding a bit that is clear sets it. -/
theorem bit_add_two_pow_same {x i : Nat} (h : bit x i = false) : bit (x + 2 ^ i) i = true := by
  rw [bit_eq_testBit] at h ⊢
  rw [Nat.add_comm, Nat.testBit_two_pow_add_eq, h]
  rfl

/-- It leaves every other bit. -/
theorem bit_add_two_pow_other {x i j : Nat} (h : bit x i = false) (hj : j ≠ i) : bit (x + 2 ^ i) j = bit x j := by
  obtain hlt | hgt := Nat.lt_or_gt_of_ne hj
  · rw [bit_eq_testBit, bit_eq_testBit, Nat.add_comm, Nat.testBit_two_pow_add_gt hlt]
  · have heven : x / 2 ^ i % 2 = 0 := by
      have h1 : ¬ x / 2 ^ i % 2 = 1 := by simpa [bit, fld] using h
      omega
    have hhalf : (x + 2 ^ i) / 2 ^ (i + 1) = x / 2 ^ (i + 1) := by
      rw [Nat.pow_succ, ← Nat.div_div_eq_div_mul, ← Nat.div_div_eq_div_mul, Nat.add_div_right _ (Nat.two_pow_pos i)]
      omega
    obtain ⟨d, rfl⟩ : ∃ d, j = i + 1 + d := ⟨j - (i + 1), by omega⟩
    rw [bit_eq_testBit, bit_eq_testBit, Nat.add_comm (i + 1) d, ← Nat.testBit_div_two_pow, hhalf, Nat.testBit_div_two_pow]

/-- It shows its reading, and one outside the range marks it failed. -/
theorem State.takeReading_effect (s : State) (t : Nat) (vals : List Int) (i : Nat) :
    s.Sensed (s.takeReading t vals i) t ∧ ((s.takeReading t vals i).sensor t i).last = vals.getD i 0 ∧
      (∀ j, j ≠ i → (s.takeReading t vals i).sensor t j = s.sensor t j) ∧
      (vals.getD i 0 < -160 ∨ 1200 < vals.getD i 0 → bit ((s.takeReading t vals i).rd (K.sensorStatus t)) i = true) := by
  unfold State.takeReading
  dsimp only
  generalize hk : (s.sensor t i).take (Tab.find s.gaff.sensors (t * 8 + i)).isSome (vals.getD i 0)
    ((((sensorKind i).filter (· ≠ i)).map (fun j => vals.getD j 0)).foldl max
      ((((sensorKind i).filter (· ≠ i)).map (fun j => vals.getD j 0)).headD 0)) s.frame = k
  have hlast : k.last = vals.getD i 0 := hk ▸ Sensor.last_take ..
  have hself : ∀ (w : State), w.gaff.sensors = Tab.set s.gaff.sensors (t * 8 + i) k → (w.sensor t i).last = vals.getD i 0 := by
    intro w hw
    unfold State.sensor
    rw [hw, Tab.getD_set_same, hlast]
  have hother : ∀ (w : State), w.gaff.sensors = Tab.set s.gaff.sensors (t * 8 + i) k → ∀ j, j ≠ i → w.sensor t j = s.sensor t j := by
    intro w hw j hj
    unfold State.sensor
    rw [hw, Tab.getD_set_other _ _ _ _ _ (by omega)]
  generalize hu : s.setGaff { s.gaff with sensors := Tab.set s.gaff.sensors (t * 8 + i) k } = u
  have hst : u.rd (K.sensorStatus t) = s.rd (K.sensorStatus t) := by rw [← hu]; rfl
  have hsens : u.gaff.sensors = Tab.set s.gaff.sensors (t * 8 + i) k := by rw [← hu]; rfl
  have hfr : u.frame = s.frame := by rw [← hu]; rfl
  split
  · rename_i hbad
    rw [Bool.and_eq_true, Bool.not_eq_true'] at hbad
    have hclear : bit (s.rd (K.sensorStatus t)) i = false := hst ▸ hbad.2
    have hnow : ((u.wr (K.sensorStatus t) (u.rd (K.sensorStatus t) + 2 ^ i)).count (K.gafferCounts 6) 1).rd (K.sensorStatus t) =
        s.rd (K.sensorStatus t) + 2 ^ i := by
      rw [State.rd_count_other _ _ _ _ (by simp only [ek, ne_eq]; omega), State.rd_wr_same, hst]
    refine ⟨⟨?_, ?_, fun j hj => ?_⟩, hself _ hsens, hother _ hsens, fun _ => by rw [hnow, bit_add_two_pow_same hclear]⟩
    · rw [← hu]
      exact ⟨_, _, rfl⟩
    · rw [← hu]
      exact State.RegsBut.count (State.RegsBut.wr (State.RegsBut.of_regs rfl rfl) (by simp)) (by simp)
    · rw [hnow]
      by_cases hji : j = i
      · rw [hji, bit_add_two_pow_same hclear]
      · rw [bit_add_two_pow_other hclear hji, hj]
  · rename_i hbad
    refine ⟨⟨?_, ?_, fun j hj => ?_⟩, hself _ hsens, hother _ hsens, fun hv => ?_⟩
    · rw [← hu]
      exact ⟨_, _, rfl⟩
    · rw [← hu]
      exact fun _ _ => rfl
    · rw [hst, hj]
    · rw [Sensor.bad_of_last _ (hlast ▸ hv), Bool.true_and, Bool.not_eq_true', Bool.not_eq_false] at hbad
      exact hbad

/-- All six: each shows its reading, and those outside the range are marked. -/
theorem State.takeReadings_effect (s : State) (t : Nat) (vals : List Int) :
    s.Sensed (s.takeReadings t vals) t ∧ ∀ i, i < 6 → ((s.takeReadings t vals).sensor t i).last = vals.getD i 0 ∧
      (vals.getD i 0 < -160 ∨ 1200 < vals.getD i 0 → bit ((s.takeReadings t vals).rd (K.sensorStatus t)) i = true) := by
  have hprefix : ∀ n, n ≤ 6 → s.Sensed ((List.range n).foldl (fun w i => w.takeReading t vals i) s) t ∧ ∀ i, i < n →
      (((List.range n).foldl (fun w i => w.takeReading t vals i) s).sensor t i).last = vals.getD i 0 ∧
      (vals.getD i 0 < -160 ∨ 1200 < vals.getD i 0 →
        bit (((List.range n).foldl (fun w i => w.takeReading t vals i) s).rd (K.sensorStatus t)) i = true) := by
    intro n
    induction n with
    | zero => exact fun _ => ⟨.refl .., fun i hi => absurd hi (by omega)⟩
    | succ n ih =>
      intro hn
      obtain ⟨hsensed, hall⟩ := ih (by omega)
      rw [List.range_succ, List.foldl_append]
      generalize (List.range n).foldl (fun w i => w.takeReading t vals i) s = u at hsensed hall
      obtain ⟨hstep, hself, hother, hmark⟩ := u.takeReading_effect t vals n
      refine ⟨hsensed.trans hstep, fun i hi => ?_⟩
      by_cases hin : i = n
      · subst hin
        exact ⟨hself, hmark⟩
      · obtain ⟨hl, hm⟩ := hall i (by omega)
        exact ⟨(congrArg Sensor.last (hother i hin)).trans hl, fun hv => hstep.marks i (hm hv)⟩
  exact hprefix 6 (by omega)

/-! ### The actions on a stack (08 R195, R196) -/

theorem State.halveBudgets_only (s : State) (t : Nat) : ∃ stk mtr, s.halveBudgets t = { s with stackTab := stk, meter := mtr } := by
  have hfold : ∀ (f : State → Nat × Nat × Nat → State), (∀ u e, ∃ stk mtr, f u e = { u with stackTab := stk, meter := mtr }) →
      ∀ (l : List (Nat × Nat × Nat)) (u : State), ∃ stk mtr, l.foldl f u = { u with stackTab := stk, meter := mtr } := by
    intro f hf l
    induction l with
    | nil => exact fun u => ⟨_, _, rfl⟩
    | cons e l ih =>
      intro u
      obtain ⟨_, _, h1⟩ := hf u e
      obtain ⟨_, _, h2⟩ := ih (f u e)
      rw [h1] at h2
      exact ⟨_, _, (congrArg (l.foldl f) h1).trans h2⟩
  unfold State.halveBudgets
  refine hfold _ (fun u e => ?_) _ _
  exact ⟨_, _, rfl⟩

/-- The state that a stack in service shows at a temperature. -/
def shownAt (v : Int) (k : Stack) : Nat :=
  if (if 840 < v then true else if v ≤ 800 then false else k.halted) then 5
  else if (if 760 < v then true else if v ≤ 736 then false else k.protective) then 4 else 3

/-- Throttling and halt show in the stack's state while it is in service, and touch no other element. -/
theorem State.protectStep_effect (s : State) (t : Nat) (v : Int) :
    (∃ stk mtr wtg rgs, s.protectStep t v = { s with stackTab := stk, meter := mtr, waiting := wtg, regs := rgs }) ∧
      s.RegsBut (s.protectStep t v) [K.stackState t] ∧ (3 ≤ s.rd (K.stackState t) → s.rd (K.stackState t) ≤ 5 →
        (s.protectStep t v).rd (K.stackState t) = shownAt v (s.stack t)) := by
  unfold State.protectStep shownAt
  dsimp only
  generalize (if 760 < v then true else if v ≤ 736 then false else (s.stack t).protective) = prot
  generalize (if 840 < v then true else if v ≤ 800 then false else (s.stack t).halted) = halt
  obtain ⟨stk, mtr, h2⟩ : ∃ stk mtr, (if prot && !(s.stack t).protective then
      (s.setStack t { s.stack t with protective := prot, halted := halt }).halveBudgets t
      else s.setStack t { s.stack t with protective := prot, halted := halt }) = { s with stackTab := stk, meter := mtr } := by
    split
    · obtain ⟨_, _, h⟩ := (s.setStack t { s.stack t with protective := prot, halted := halt }).halveBudgets_only t
      exact ⟨_, _, h⟩
    · exact ⟨_, _, rfl⟩
  rw [h2]
  have hrest : ∀ w : State, (∃ regs, w = { s with stackTab := stk, meter := mtr, regs := regs }) → s.RegsBut w [K.stackState t] →
      (∃ stk mtr wtg rgs, (if halt then w else w.wake (.halted t)) = { s with
        stackTab := stk, meter := mtr, waiting := wtg, regs := rgs }) ∧
      s.RegsBut (if halt then w else w.wake (.halted t)) [K.stackState t] ∧
      (if halt then w else w.wake (.halted t)).rd (K.stackState t) = w.rd (K.stackState t) := by
    rintro w ⟨regs, rfl⟩ hw
    split
    · exact ⟨⟨_, _, _, _, rfl⟩, hw, rfl⟩
    · exact ⟨⟨_, _, _, _, rfl⟩, hw, rfl⟩
  by_cases hst : 3 ≤ s.rd (K.stackState t) ∧ s.rd (K.stackState t) ≤ 5
  · rw [if_pos hst]
    obtain ⟨honly, hregs, hrd⟩ := hrest (State.wr { s with stackTab := stk, meter := mtr } (K.stackState t)
      (if halt then 5 else if prot then 4 else 3)) ⟨_, rfl⟩ (State.RegsBut.wr (State.RegsBut.of_regs rfl rfl) (by simp))
    exact ⟨honly, hregs, fun _ _ => hrd.trans (State.rd_wr_same ..)⟩
  · rw [if_neg hst]
    obtain ⟨honly, hregs, -⟩ := hrest { s with stackTab := stk, meter := mtr } ⟨_, rfl⟩ (State.RegsBut.of_regs rfl rfl)
    exact ⟨honly, hregs, fun h3 h5 => absurd ⟨h3, h5⟩ hst⟩

/-- The retention period alone moves; at 93 C it is the shortest. -/
theorem State.retentionStep_effect (s : State) (t : Nat) (v : Int) :
    (∃ stk rgs, s.retentionStep t v = { s with stackTab := stk, regs := rgs }) ∧ s.RegsBut (s.retentionStep t v) [K.retention t] ∧
      (744 ≤ v → s.rd (K.retention t) ≤ 2 → (s.retentionStep t v).rd (K.retention t) = 2) := by
  have hset : ∀ k : Stack, (∃ stk rgs, s.setStack t k = { s with stackTab := stk, regs := rgs }) ∧
      s.RegsBut (s.setStack t k) [K.retention t] := fun k => ⟨⟨_, _, rfl⟩, State.RegsBut.of_regs rfl rfl⟩
  have hwr : ∀ (k : Stack) (r : Nat), (∃ stk rgs, (s.setStack t k).wr (K.retention t) r = { s with stackTab := stk, regs := rgs }) ∧
      s.RegsBut ((s.setStack t k).wr (K.retention t) r) [K.retention t] := fun k r =>
    ⟨⟨_, _, rfl⟩, State.RegsBut.wr (State.RegsBut.of_regs rfl rfl) (by simp)⟩
  unfold State.retentionStep
  dsimp only
  by_cases hv : 744 ≤ v
  · rw [if_pos (Or.inl hv)]
    by_cases hr : s.rd (K.retention t) < 2
    · rw [if_pos hr]
      exact ⟨(hwr _ 2).1, (hwr _ 2).2, fun _ _ => State.rd_wr_same ..⟩
    · rw [if_neg hr]
      have hlow : s.rd (K.retention t) = 0 ∨ (if s.rd (K.retention t) = 2 then (720 : Int) else 640) < v ∨ (s.stack t).protective = true := by
        refine .inr (.inl ?_)
        split <;> omega
      rw [if_pos hlow]
      refine ⟨(hset _).1, (hset _).2, fun _ h2 => ?_⟩
      have heq : s.rd (K.retention t) = 2 := by omega
      exact heq
  · have hleft : ∀ w : State, (∃ stk rgs, w = { s with stackTab := stk, regs := rgs }) ∧ s.RegsBut w [K.retention t] →
        (∃ stk rgs, w = { s with stackTab := stk, regs := rgs }) ∧ s.RegsBut w [K.retention t] ∧
        (744 ≤ v → s.rd (K.retention t) ≤ 2 → w.rd (K.retention t) = 2) := fun w hw => ⟨hw.1, hw.2, fun h => absurd h hv⟩
    refine hleft _ ?_
    generalize (if 744 ≤ v ∨ (s.stack t).protective = true then 2
      else if 664 ≤ v then max (s.rd (K.retention t)) 1 else s.rd (K.retention t)) = up
    generalize (if s.rd (K.retention t) = 2 then (720 : Int) else 640) = low
    generalize (if s.rd (K.retention t) = 2 then 32 else 64) = pass
    split
    · exact hwr _ _
    · split
      · exact hset _
      · split
        · exact hset _
        · split
          · exact hwr _ _
          · exact ⟨⟨_, _, rfl⟩, fun _ _ => rfl⟩

/-! ### The actions on the part (21 R462) -/

theorem State.kindTemp_congr {s w : State} {t : Nat} (hs : w.gaff.sensors = s.gaff.sensors)
    (hr : w.rd (K.sensorStatus t) = s.rd (K.sensorStatus t)) :
    w.stackTemp t = s.stackTemp t ∧ w.dieTemp t = s.dieTemp t := by
  have hfail : w.sensorFailed t = s.sensorFailed t := by
    funext i
    unfold State.sensorFailed
    rw [hr]
  unfold State.stackTemp State.dieTemp State.kindTemp
  rw [hs, hfail]
  exact ⟨rfl, rfl⟩

/-- A temperature that is past `c`. -/
def pastTemp (x : Option Int) (c : Int) : Bool := match x with | some v => decide (c < v) | none => false

/-- The alerts once tile `t` has been read. -/
def State.alerted (s : State) (die stack : Option Int) : Gaffer :=
  { s.gaff with
    thermStack := pastTemp stack 760 || (s.gaff.thermStack && (List.range 36).any (fun i => pastTemp (s.stackTemp i) 736))
    thermDie := pastTemp die 840 || (s.gaff.thermDie && (List.range 36).any (fun i => pastTemp (s.dieTemp i) 800))
    critical := s.gaff.critical || pastTemp die 919 || pastTemp stack 879 }

/-- The part with the alerts `g`: a critical one stops service. -/
def State.withAlerts (s : State) (g : Gaffer) : State :=
  if g.critical then { s.setGaff g with boot := { s.boot with service := false } } else s.setGaff g

theorem State.withAlerts_only (s : State) (g : Gaffer) : ∃ boot, s.withAlerts g = { s with gaff := g, boot := boot } := by
  unfold State.withAlerts
  split
  · exact ⟨_, rfl⟩
  · exact ⟨_, rfl⟩

theorem State.withAlerts_critical (s : State) {g : Gaffer} (h : g.critical = true) :
    s.withAlerts g = { s with gaff := g, boot := { s.boot with service := false } } := if_pos h

theorem State.thermStep_eq (s : State) (t : Nat) (die stack : Option Int) : s.thermStep t die stack =
    (if (s.alerted die stack).therm && !s.gaff.therm then
      (if pastTemp die 840 then (s.withAlerts (s.alerted die stack)).wr (K.tileCut t) 224 else s.withAlerts (s.alerted die stack)).count
        (K.gafferCounts 7) 1
      else if pastTemp die 840 then (s.withAlerts (s.alerted die stack)).wr (K.tileCut t) 224 else s.withAlerts (s.alerted die stack)) := rfl

/-- A die past 105 C has its tile's cut at its most; past 115 C the part stops service. Sensors and their marks stay. -/
theorem State.thermStep_effect (s : State) (t : Nat) (die stack : Option Int) :
    (∃ gaff boot regs, s.thermStep t die stack = { s with gaff := gaff, boot := boot, regs := regs }) ∧
      s.RegsBut (s.thermStep t die stack) [K.tileCut t, K.gafferCounts 7] ∧
      (s.thermStep t die stack).gaff.sensors = s.gaff.sensors ∧
      (∀ v, die = some v → 840 < v → (s.thermStep t die stack).rd (K.tileCut t) = 224) ∧
      (∀ v, die = some v → 919 < v → (s.thermStep t die stack).gaff.critical = true ∧ (s.thermStep t die stack).boot.service = false) := by
  rw [State.thermStep_eq]
  have hsens : (s.alerted die stack).sensors = s.gaff.sensors := rfl
  have hcrit : ∀ v, die = some v → 919 < v → (s.alerted die stack).critical = true := by
    rintro v rfl hv
    simp [State.alerted, pastTemp, hv]
  generalize s.alerted die stack = g at hsens hcrit
  have hu : ∃ regs, (if pastTemp die 840 then (s.withAlerts g).wr (K.tileCut t) 224 else s.withAlerts g) = { s.withAlerts g with regs := regs } := by
    split
    · exact ⟨_, rfl⟩
    · exact ⟨_, rfl⟩
  have hbut : s.RegsBut (if pastTemp die 840 then (s.withAlerts g).wr (K.tileCut t) 224 else s.withAlerts g) [K.tileCut t, K.gafferCounts 7] := by
    obtain ⟨boot, h⟩ := s.withAlerts_only g
    rw [h]
    split
    · exact State.RegsBut.wr (State.RegsBut.of_regs rfl rfl) (by simp)
    · exact State.RegsBut.of_regs rfl rfl
  have hcut : ∀ v, die = some v → 840 < v →
      (if pastTemp die 840 then (s.withAlerts g).wr (K.tileCut t) 224 else s.withAlerts g).rd (K.tileCut t) = 224 := by
    rintro v rfl hv
    rw [if_pos (by simp [pastTemp, hv])]
    exact State.rd_wr_same ..
  generalize (if pastTemp die 840 then (s.withAlerts g).wr (K.tileCut t) 224 else s.withAlerts g) = u at hu hbut hcut
  obtain ⟨regs, hu⟩ := hu
  have hstop : ∀ w : State, w.gaff = u.gaff → w.boot = u.boot → ∀ v, die = some v → 919 < v → w.gaff.critical = true ∧ w.boot.service = false := by
    intro w hg hb v hd hv
    rw [hg, hb, hu, s.withAlerts_critical (hcrit v hd hv)]
    exact ⟨hcrit v hd hv, rfl⟩
  obtain ⟨boot, hal⟩ := s.withAlerts_only g
  rw [hal] at hu
  split
  · refine ⟨⟨g, boot, (u.count (K.gafferCounts 7) 1).regs, ?_⟩, hbut.count (by simp), ?_, fun v hd hv => ?_, hstop _ rfl rfl⟩
    · rw [hu]
      rfl
    · rw [hu]
      exact hsens
    · rw [State.rd_count_other _ _ _ _ (by simp only [ek, ne_eq]; omega)]
      exact hcut v hd hv
  · refine ⟨⟨g, boot, regs, hu⟩, hbut, ?_, hcut, hstop _ rfl rfl⟩
    rw [hu]
    exact hsens

/-! ### A sample (21 R454, R462) -/

/-- What tile `t`'s stack does at the temperature that its sensors show, in a state whose readings are taken. -/
def State.stackActs (s : State) (t : Nat) : State :=
  match s.stackTemp t with
  | some v => if s.rd (K.stackState t) = 0 ∨ !s.domainsOn t then s else (s.protectStep t v).retentionStep t v
  | none => s

theorem State.stackActs_effect (s : State) (t : Nat) :
    (∃ stk mtr wtg rgs, s.stackActs t = { s with stackTab := stk, meter := mtr, waiting := wtg, regs := rgs }) ∧
      s.RegsBut (s.stackActs t) [K.stackState t, K.retention t] ∧
      ∀ v, s.stackTemp t = some v → s.domainsOn t = true → 3 ≤ s.rd (K.stackState t) → s.rd (K.stackState t) ≤ 5 →
        (s.stackActs t).rd (K.stackState t) = shownAt v (s.stack t) ∧
        (744 ≤ v → s.rd (K.retention t) ≤ 2 → (s.stackActs t).rd (K.retention t) = 2) := by
  unfold State.stackActs
  cases hst : s.stackTemp t with
  | none => exact ⟨⟨_, _, _, _, rfl⟩, State.RegsBut.of_regs rfl rfl, fun v hv => by cases hv⟩
  | some v =>
    dsimp only
    by_cases hoff : s.rd (K.stackState t) = 0 ∨ (!s.domainsOn t) = true
    · rw [if_pos hoff]
      refine ⟨⟨_, _, _, _, rfl⟩, State.RegsBut.of_regs rfl rfl, fun v hv hon h3 => ?_⟩
      obtain h0 | hno := hoff
      · omega
      · simp [hon] at hno
    · rw [if_neg hoff]
      obtain ⟨⟨stk, mtr, wtg, rgs, honly⟩, hbut, hshow⟩ := s.protectStep_effect t v
      obtain ⟨⟨stk', rgs', honly'⟩, hbut', hret⟩ := (s.protectStep t v).retentionStep_effect t v
      refine ⟨⟨stk', mtr, wtg, rgs', ?_⟩, (hbut.mono (by simp)).trans (hbut'.mono (by simp)), fun v' hv' _ h3 h5 => ?_⟩
      · rw [honly', honly]
      · cases hv'
        refine ⟨(hbut' _ (by simp only [List.mem_singleton, ek]; omega)).trans (hshow h3 h5), fun hv hr => hret hv ?_⟩
        rwa [hbut _ (by simp only [List.mem_singleton, ek]; omega)]

/-- The settled part of a sample: the readings stand, and the actions on the stack and on the part follow them. -/
theorem exec_sensorSample {s : State} (tile : Nat) (vals : List Int) (t : Nat) (hp : s.boot.powered = true) :
    exec (.sensorSample tile vals t) s = .next ((((s.at t).takeReadings tile vals).stackActs tile).thermStep tile
      ((((s.at t).takeReadings tile vals).stackActs tile).dieTemp tile) (((s.at t).takeReadings tile vals).stackTemp tile)) :=
  congrArg Host.Outcome.next (if_neg (by simp [hp]))

theorem shownAt_eq {v : Int} {k : Stack} : (840 < v → shownAt v k = 5) ∧ (760 < v → v ≤ 800 → shownAt v k = 4) ∧ (v ≤ 736 → shownAt v k = 3) := by
  unfold shownAt
  refine ⟨fun h => ?_, fun h h' => ?_, fun h => ?_⟩
  · rw [if_pos h, if_pos rfl]
  · rw [if_neg (show ¬ 840 < v by omega), if_pos h', if_neg (by decide), if_pos h, if_pos rfl]
  · rw [if_neg (show ¬ 840 < v by omega), if_pos (show v ≤ 800 by omega), if_neg (by decide), if_neg (show ¬ 760 < v by omega),
      if_pos h, if_neg (by decide)]

theorem sensorSample_effect {s : State} {tile : Nat} (vals : List Int) (t : Nat) (htile : tile < 36) (hp : s.boot.powered = true) :
    ∃ w : State, exec (.sensorSample tile vals t) s = .next w ∧
      (∀ i, i < 6 → (w.sensor tile i).last = vals.getD i 0 ∧
        (vals.getD i 0 < -160 ∨ 1200 < vals.getD i 0 → bit (w.rd (K.sensorStatus tile)) i = true)) ∧
      (∀ v, w.dieTemp tile = some v → (840 < v → w.rd (K.tileCut tile) = 224) ∧
        (919 < v → w.gaff.critical = true ∧ w.boot.service = false)) ∧
      (∀ v, w.stackTemp tile = some v → s.domainsOn tile = true → 3 ≤ s.rd (K.stackState tile) → s.rd (K.stackState tile) ≤ 5 →
        (840 < v → w.rd (K.stackState tile) = 5) ∧ (760 < v → v ≤ 800 → w.rd (K.stackState tile) = 4) ∧
        (v ≤ 736 → w.rd (K.stackState tile) = 3) ∧ (744 ≤ v → s.rd (K.retention tile) ≤ 2 → w.rd (K.retention tile) = 2)) ∧
      w.mem = s.mem := by
  refine ⟨_, exec_sensorSample tile vals t hp, ?_⟩
  obtain ⟨⟨⟨rgs, sens, hu⟩, hub, -⟩, hread⟩ := (s.at t).takeReadings_effect tile vals
  generalize (s.at t).takeReadings tile vals = u at hu hub hread
  obtain ⟨⟨stk, mtr, wtg, rgs', ha⟩, hab, hact⟩ := u.stackActs_effect tile
  generalize u.stackActs tile = a at ha hab hact
  obtain ⟨⟨gaff, boot, rgs'', hw⟩, hwb, hwsens, hcut, hcrit⟩ := a.thermStep_effect tile (a.dieTemp tile) (u.stackTemp tile)
  generalize a.thermStep tile (a.dieTemp tile) (u.stackTemp tile) = w at hw hwb hwsens hcut hcrit
  have hasens : a.gaff.sensors = u.gaff.sensors := by rw [ha]
  have hamark : a.rd (K.sensorStatus tile) = u.rd (K.sensorStatus tile) := hab _ (by simp only [List.mem_cons, List.not_mem_nil, or_false, ek]; omega)
  have hwmark : w.rd (K.sensorStatus tile) = a.rd (K.sensorStatus tile) := hwb _ (by simp only [List.mem_cons, List.not_mem_nil, or_false, ek]; omega)
  obtain ⟨hwa, hda⟩ := State.kindTemp_congr (t := tile) hwsens hwmark
  obtain ⟨hau, -⟩ := State.kindTemp_congr (t := tile) hasens hamark
  have hson : s.domainsOn tile = true → u.domainsOn tile = true := by
    intro hon
    unfold State.domainsOn at hon ⊢
    rw [hub _ (by simp only [List.mem_cons, List.not_mem_nil, or_false, ek]; omega), hu]
    exact hon
  have hus : u.rd (K.stackState tile) = s.rd (K.stackState tile) := hub _ (by simp only [List.mem_cons, List.not_mem_nil, or_false, ek]; omega)
  have hur : u.rd (K.retention tile) = s.rd (K.retention tile) := hub _ (by simp only [List.mem_cons, List.not_mem_nil, or_false, ek]; omega)
  have hws : w.rd (K.stackState tile) = a.rd (K.stackState tile) := hwb _ (by simp only [List.mem_cons, List.not_mem_nil, or_false, ek]; omega)
  have hwr : w.rd (K.retention tile) = a.rd (K.retention tile) := hwb _ (by simp only [List.mem_cons, List.not_mem_nil, or_false, ek]; omega)
  refine ⟨fun i hi => ?_, fun v hv => ⟨hcut v (hda ▸ hv), hcrit v (hda ▸ hv)⟩, fun v hv hon h3 h5 => ?_, ?_⟩
  · unfold State.sensor at hread ⊢
    rw [hwsens, hasens, hwmark, hamark]
    exact hread i hi
  · obtain ⟨hshow, hret⟩ := hact v ((hwa.trans hau).symm.trans hv) (hson hon) (hus ▸ h3) (hus ▸ h5)
    rw [hws, hwr, hshow]
    obtain ⟨h1, h2, h4⟩ := shownAt_eq (v := v) (k := u.stack tile)
    exact ⟨h1, h2, h4, fun hv hr => hret hv (hur ▸ hr)⟩
  · rw [hw, ha, hu]
    rfl

/-! ### Keys (17 R389) -/

/-- The reseed counts at every tile below `n` whose DRBG is healthy. -/
theorem reseeds_count (s : State) (tile : Nat) (r : Tab Nat) : ∀ n, Tab.getD ((List.range n).foldl (fun (r : Tab Nat) t =>
      if s.rd (K.drbgStatus t) = 1 then Tab.set r t (Tab.getD r t 0 + 1) else r) r) tile 0 =
    if tile < n ∧ s.rd (K.drbgStatus tile) = 1 then Tab.getD r tile 0 + 1 else Tab.getD r tile 0 := by
  intro n
  induction n with
  | zero => simp
  | succ n ih =>
    rw [List.range_succ, List.foldl_append]
    dsimp only [List.foldl]
    by_cases hn : tile = n
    · subst hn
      rw [if_neg (by omega)] at ih
      split
      · rename_i h1
        rw [Tab.getD_set_same, ih, if_pos ⟨by omega, h1⟩]
      · rename_i h1
        rw [ih, if_neg (by simp [h1])]
    · have hlt : (tile < n + 1 ∧ s.rd (K.drbgStatus tile) = 1) ↔ (tile < n ∧ s.rd (K.drbgStatus tile) = 1) :=
        and_congr_left' (by omega)
      rw [ite_congr (propext hlt) (fun _ => rfl) (fun _ => rfl), ← ih]
      split
      · exact Tab.getD_set_other _ _ _ _ _ hn
      · rfl

/-- An event of a tile alone, as it is logged. -/
theorem tileEvent_eq (a b c d e f : Nat) : a + 0 * b + c + 0 * d + 0 * e + f = a + c + f := by
  simp only [Nat.zero_mul, Nat.add_zero]

theorem State.security_tile (s : State) (kind tile : Nat) : s.security kind 0 tile 0 0 = ({ s with
    secLog := keepLast 64 (s.secLog ++ [kind * 2 ^ 124 + tile * 2 ^ 102 + s.frame % 2 ^ 64]) } : State).count (K.securityCounts (kind - 1)) 1 := by
  unfold State.security
  dsimp only
  rw [tileEvent_eq]

theorem exec_drbgHealthFailure {s : State} {tile : Nat} (htile : tile < 36) (h1 : s.rd (K.drbgStatus tile) = 1) :
    ∃ w : State, exec (.drbgHealthFailure tile) s = .next w ∧ w.rd (K.drbgStatus tile) = 2 ∧
      w.secLog = keepLast 64 (s.secLog ++ [8 * 2 ^ 124 + tile * 2 ^ 102 + s.frame % 2 ^ 64]) ∧
      s.RegsBut w [K.drbgStatus tile, K.securityCounts 7] ∧ w = { s with regs := w.regs, secLog := w.secLog } := by
  have hex : exec (.drbgHealthFailure tile) s = .next ((s.wr (K.drbgStatus tile) 2).security 8 0 tile 0 0) :=
    congrArg Host.Outcome.next (if_pos h1)
  have hframe : (s.wr (K.drbgStatus tile) 2).frame = s.frame := State.rd_wr_other _ _ _ _ (by simp only [ek, ne_eq]; omega)
  rw [State.security_tile, hframe] at hex
  generalize hlog : keepLast 64 ((s.wr (K.drbgStatus tile) 2).secLog ++ [8 * 2 ^ 124 + tile * 2 ^ 102 + s.frame % 2 ^ 64]) = log at hex
  have hlog' : keepLast 64 (s.secLog ++ [8 * 2 ^ 124 + tile * 2 ^ 102 + s.frame % 2 ^ 64]) = log := hlog
  rw [hlog']
  refine ⟨_, hex, ?_, rfl, ?_, rfl⟩
  · rw [State.rd_count_other _ _ _ _ (by simp only [ek, ne_eq]; omega)]
    exact State.rd_wr_same ..
  · refine State.RegsBut.count (State.RegsBut.trans (t := s.wr (K.drbgStatus tile) 2) ?_ ?_) (by simp)
    · exact State.RegsBut.wr (State.RegsBut.of_regs rfl rfl) (by simp)
    · exact State.RegsBut.of_regs rfl rfl

/-! ### Roll-ups (21 R452) -/

/-- The one string of records that a minute holds is signed and shown, and the minute is gone. -/
theorem exec_rollupSign {s : State} {m p : Nat} {b : List Byte} (hp : p < 64) (hm : 240000 * (m + 1) ≤ s.frame)
    (hone : s.dailies.minutes = [(m * 65 + p, b)]) :
    ∃ (w : State) (x : Nat), exec (.rollupSign m) s = .next w ∧ w.dailies.minutes = [] ∧
      w.rd (K.rollupLast p) = ofBE (s.rollBody m p b ++ Config.ecdsaSign s.ecdsaKey (sha384 (s.rollBody m p b)) ++
        Config.mldsaSign s.mldsaKey (sha384 (s.rollBody m p b)) x) ∧ w.dailies.ring = s.dailies.ring := by
  have hdiv : (m * 65 + p) / 65 = m := by omega
  have hmod : (m * 65 + p) % 65 = p := by omega
  have hex : exec (.rollupSign m) s = .next _ := congrArg Host.Outcome.next (if_neg (by omega))
  rw [hone, List.filter_cons_of_pos (by simp [hdiv])] at hex
  dsimp only [List.filter, List.foldl] at hex
  rw [hmod, if_neg (show ¬ p = 64 by omega)] at hex
  suffices h : ∃ w : State, exec (.rollupSign m) s = .next w ∧ w.dailies.minutes = [] ∧
      w.rd (K.rollupLast p) = ofBE (s.rollBody m p b ++ Config.ecdsaSign s.ecdsaKey (sha384 (s.rollBody m p b)) ++
        Config.mldsaSign s.mldsaKey (sha384 (s.rollBody m p b)) (s.draw 0).1) ∧ w.dailies.ring = s.dailies.ring by
    obtain ⟨w, hw⟩ := h
    exact ⟨w, _, hw⟩
  have hroll : s.rollBody m p b ++ (s.sign (s.rollBody m p b)).1 = s.rollBody m p b ++ Config.ecdsaSign s.ecdsaKey (sha384 (s.rollBody m p b)) ++
      Config.mldsaSign s.mldsaKey (sha384 (s.rollBody m p b)) (s.draw 0).1 := (List.append_assoc ..).symm
  rw [hroll] at hex
  generalize s.rollBody m p b = body at hex hroll ⊢
  generalize body ++ Config.ecdsaSign s.ecdsaKey (sha384 body) ++ Config.mldsaSign s.mldsaKey (sha384 body) (s.draw 0).1 = roll at hex ⊢
  generalize hv : ((s.sign body).2.wr (K.rollupLast p) (ofBE roll)).count (K.dailiesCounts 3) 1 = v at hex
  have hdl : v.dailies = s.dailies := by rw [← hv]; rfl
  have hrd : v.rd (K.rollupLast p) = ofBE roll := by
    rw [← hv, State.rd_count_other _ _ _ _ (by simp only [ek, ne_eq]; omega), State.rd_wr_same]
  have hring : v.dailies.ring = s.dailies.ring := by rw [hdl]
  have hone' : Tab.erase v.dailies.minutes (m * 65 + p) = [] := by
    rw [hdl, hone]
    simp [Tab.erase]
  cases hc : bit (leAt body 6 1) 0 with
  | false =>
    rw [hc, if_neg (by decide)] at hex
    exact ⟨_, hex, hone', hrd, hring⟩
  | true =>
    rw [hc, if_pos rfl] at hex
    exact ⟨_, hex, hone', (State.rd_count_other _ _ _ _ (by simp only [ek, ne_eq]; omega)).trans hrd, hring⟩

/-! ### Seals, allowances and conditions that hold -/

theorem State.noteHeld_effect (s : State) (slot p : Nat) : ∃ held, s.noteHeld slot p = { s with gaff := { s.gaff with held := held } } ∧
    slot * 64 + p ∈ held := by
  unfold State.noteHeld
  dsimp only
  split
  · rename_i h
    exact ⟨s.gaff.held, rfl, by simpa using h⟩
  · exact ⟨s.gaff.held ++ [slot * 64 + p], rfl, by simp⟩

theorem State.halvingStep_halves (s : State) (h : 4 ≤ s.gaff.cutRun) : s.halvingStep = { s with gaff := { s.gaff with halved := true } } := by
  unfold State.halvingStep
  cases hh : s.gaff.halved with
  | false => exact if_pos ⟨h, rfl⟩
  | true =>
    rw [if_neg (by simp)]
    conv =>
      rhs
      rw [← hh]

theorem coolantReportStale_ages {s : State} {f : Nat} (hf : s.gaff.coolant = some f) (hs : s.gaff.stale = false) :
    (f + 400 < s.frame → exec .coolantReportStale s =
        .next (({ s with gaff := { s.gaff with stale := true } } : State).count (K.gafferCounts 5) 1)) ∧
      (s.frame ≤ f + 400 → exec .coolantReportStale s = .next s) := by
  have hfresh : s.coolantFresh = decide (s.frame ≤ f + 400) := by
    unfold State.coolantFresh
    rw [hf]
  refine ⟨fun h => congrArg Host.Outcome.next (if_pos ?_), fun h => congrArg Host.Outcome.next (if_neg ?_)⟩
  · simp [hf, hs, hfresh, h]
  · simp [hfresh, h]

/-- Settles O46: each event acts as its condition says; a sample is the composition of its readings and of the actions on the stack and
on the part. -/
theorem keyAndPowerEvents : Obligations.KeyAndPowerEvents := by
  intro s tile p slot m t htile hp hslot
  refine ⟨fun h2 => ⟨fun h => ?_, fun h => ?_⟩, ⟨_, rfl, rfl, ?_⟩, fun h1 => exec_drbgHealthFailure htile h1,
    fun x st d v hx hstart hdig hfail hseal => ⟨fun h => ?_, fun h => ?_⟩, fun h => ?_, fun b hm hone => exec_rollupSign hp hm hone,
    fun vals hpow => sensorSample_effect vals t htile hpow, fun hr => ?_, fun h => congrArg Host.Outcome.next (s.halvingStep_halves h),
    fun h => congrArg Host.Outcome.next (if_neg (by omega)), fun h0 h => congrArg Host.Outcome.next (if_pos ⟨h0, h⟩), fun h2 h => ?_,
    fun f hf hs => coolantReportStale_ages hf hs⟩
  · exact congrArg Host.Outcome.next (if_pos ⟨h2, h⟩)
  · exact congrArg Host.Outcome.next (if_neg (by omega))
  · rw [reseeds_count]
    simp only [htile, true_and]
  · refine congrArg Host.Outcome.next ?_
    rw [hx]
    dsimp only
    rw [if_neg (by simp [hstart, hdig, hfail]), hseal]
    exact if_pos h
  · refine congrArg Host.Outcome.next ?_
    rw [hx]
    dsimp only
    rw [if_neg (by simp [hstart, hdig, hfail]), hseal]
    exact if_neg h
  · exact congrArg Host.Outcome.next (if_pos h)
  · obtain ⟨held, hw, hin⟩ := s.noteHeld_effect slot p
    exact ⟨_, congrArg Host.Outcome.next ((if_pos ⟨hslot, hp, hr⟩).trans hw), hin, rfl⟩
  · refine congrArg Host.Outcome.next (if_pos ?_)
    obtain h0 | hoff := h
    · simp [h2, h0]
    · simp [h2, State.peakAllowed, hoff]

end Sys2Proof.Machine

namespace Sys2Proof.Machine

/-! ### The slate, up to its call sheet and after it -/

/-- A slate through its call sheet (02 R46 steps 1 to 3). -/
def State.openSlate (s : State) (ptp : Nat) : State :=
  let armed : Bool := s.takeState = 3
  let s := s.flips.foldl (fun (s : State) f => s.flipDone f.part f.region) s
  let s := ((s.lostRecords.clockSlate).nextNumber ptp).moveEnds.copySlate.drainSlate
  let s := if armed then s.applyTake
    else if s.take.digestDue then s.setTake { s.take with digestDue := false, digested := s.regs } else s
  let s := s.endingsDue
  let s := s.boot.partResets.foldl (fun (s : State) p => s.partReset p) s
  let s := { s with boot := { s.boot with partResets := [] } }
  let s := (List.range 64).foldl (fun (s : State) p => (s.lockSlate p).sealSlate p) s
  let s := s.lagSlate
  let s := s.serviceTiles.foldl (fun (s : State) t => s.dieAlerts t) s
  let s := s.showPending
  let s := ((List.range 64).foldl (fun (s : State) p => s.remeasure p) s).measureSlate
  let s := (s.links.map (fun (e : Nat × Link) => e.1)).foldl (fun (s : State) p => s.laneSlate p) s
  let s := (s.mesh.map (fun (e : Nat × MeshTile) => e.1)).foldl (fun (s : State) t => s.meshSlate t) s
  s.callSheet

/-- What follows the call sheet. -/
def State.shutSlate (s : State) : State :=
  let s := s.reelSlate
  let s := (((s.lease.grace ++ s.lease.silent).map (fun (e : Nat × Nat) => e.1)).eraseDups).foldl (fun (s : State) b => s.resendOwed b) s
  s.allowanceGo

theorem State.slate_eq (s : State) (ptp : Nat) : s.slate ptp = (s.openSlate ptp).shutSlate := by
  unfold State.slate State.openSlate State.shutSlate
  with_reducible rfl

theorem foldl_fixed_mem {α β : Type} {f : α → β → α} {a : α} : ∀ {l : List β}, (∀ b ∈ l, f a b = a) → l.foldl f a = a := by
  intro l
  induction l with
  | nil => exact fun _ => rfl
  | cons b l ih =>
    intro h
    rw [List.foldl_cons, h b List.mem_cons_self, ih (fun b hb => h b (List.mem_cons_of_mem _ hb))]

theorem State.unsealCheck_idle {s : State} (h : s.reels.launches = []) (slot c : Nat) : s.unsealCheck slot c = s := by
  have hnone : ∀ id, s.launch id = none := fun id => by rw [State.launch, h]; rfl
  unfold State.unsealCheck
  rw [hnone]
  cases s.ctxOwner slot c <;> rfl

/-- With no launch and no context in use a slate leaves all but the reels' own state. -/
theorem State.reelSlate_idle {s : State} (hl : s.reels.launches = []) (hc : s.reels.ctxs = []) : ∃ reels, s.reelSlate = { s with reels := reels } := by
  unfold State.reelSlate
  generalize List.range 512 = l
  have hfold : l.foldl (fun (s : State) k => s.unsealCheck (k / 16) (k % 16)) s = s :=
    foldl_fixed_mem (fun k _ => State.unsealCheck_idle hl (k / 16) (k % 16))
  dsimp only
  rw [hfold, hl, List.map_nil, List.foldl_nil, hc]
  exact ⟨_, rfl⟩

theorem State.allowanceGo_idle {s : State} (h : s.waiting = []) : s.allowanceGo = s := by
  unfold State.allowanceGo
  refine foldl_fixed_mem (fun slot _ => ?_)
  unfold State.release State.waitersOf State.dropWaiters
  rw [h]
  dsimp only [List.filter, List.map, List.foldl]
  rw [← h]

/-- What follows the call sheet of an idle part leaves its stacks. -/
theorem State.shutSlate_stack {s : State} (hl : s.reels.launches = []) (hc : s.reels.ctxs = []) (hg : s.lease.grace = [])
    (hs : s.lease.silent = []) (hw : s.waiting = []) (t : Nat) : s.shutSlate.stack t = s.stack t := by
  obtain ⟨reels, h⟩ := State.reelSlate_idle hl hc
  have hnone : ((s.lease.grace ++ s.lease.silent).map (fun (e : Nat × Nat) => e.1)).eraseDups = [] := by
    rw [hg, hs]
    rfl
  have hshut : s.shutSlate = ({ s with reels := reels } : State).allowanceGo := by
    unfold State.shutSlate
    rw [h]
    dsimp only
    rw [hnone, List.foldl_nil]
  rw [hshut, State.allowanceGo_idle (s := { s with reels := reels }) hw]
  rfl

/-! ### A router beyond the 36 tiles -/

/-- The router whose count of throttled frames is element 4 of SLOT_MAP: slot 4 moves from tile 4 to tile 5 as its frame is counted. -/
def strayRouter : Nat := 0x4600 - 0x2840

/-- A locked part whose stray router was throttled in the frame that ends, and whose stack 4 has used of its burst budget. -/
def strayMesh : State :=
  { mesh := [(strayRouter, { throttledFrame := true })]
    stackTab := [(4, { burstUsed := [(0, 1)] })]
    parts := (List.range 64).map (fun p => (p, { records := [0#8] }))
    boot := { locked := true } }

theorem strayMesh_quiet : strayMesh.Quiet :=
  ⟨by decide, by decide, by decide, by decide, by decide, by decide, by decide, by decide, by decide, by decide, by decide, by decide,
    by decide, by decide +kernel, by decide +kernel⟩

theorem strayMesh_tileAt : strayMesh.tileAt 4 = 4 := by decide

/-- Its slate leaves what stack 4 has used: the call sheet reads the map when slot 4 is at tile 5. Nothing is left for the reels, the leases
and the requests that wait. -/
theorem strayMesh_openSlate : ((strayMesh.openSlate 0).stack 4).burstUsed ≠ [] ∧ (strayMesh.openSlate 0).reels.launches = [] ∧
    (strayMesh.openSlate 0).reels.ctxs = [] ∧ (strayMesh.openSlate 0).lease.grace = [] ∧ (strayMesh.openSlate 0).lease.silent = [] ∧
    (strayMesh.openSlate 0).waiting = [] := by decide +kernel

/-- Refutes O47: the clause of a quiet slate holds of every state. In `strayMesh` the mesh's table lists a router past the 36 tiles, at
whose element of MESH_COUNTS the map of slot 4 lies; its count moves the slot within the slate, and the stack that was in slot 4 keeps
what it has used of its budget. -/
theorem not_slates : ¬ Obligations.Slates := by
  intro h
  obtain ⟨hquiet, -⟩ := h strayMesh 0 0 rfl
  obtain ⟨w, hw, -, -, -, -, -, -, -, -, -, -, hburst, -⟩ := hquiet strayMesh_quiet (by decide) (by decide)
  obtain ⟨hleft, hl, hc, hg, hs, hwait⟩ := strayMesh_openSlate
  have hslate : exec (.slate 0) strayMesh = .next (strayMesh.slate 0) := congrArg Host.Outcome.next (if_pos rfl)
  have hused := hburst 4 (by decide)
  rw [← Host.Outcome.next.inj (hslate.symm.trans hw), strayMesh_tileAt, State.slate_eq, State.shutSlate_stack hl hc hg hs hwait] at hused
  exact hleft hused

end Sys2Proof.Machine

namespace Sys2Proof.Machine

/-! ### Elements of a packed string (14 R317) -/

/-- Element `i` of a packed list is its `i`-th number, cut to the element's bits. -/
theorem elemOf_packElems (bits : Nat) : ∀ (l : List Nat) (i : Nat), elemOf bits (packElems bits l) i = l.getD i 0 % 2 ^ bits
  | [], i => by simp [elemOf, packElems]
  | a :: l, 0 => by simp [elemOf, packElems]
  | a :: l, i + 1 => by
    have hstep : elemOf bits (packElems bits (a :: l)) (i + 1) = elemOf bits (packElems bits l) i := by
      have hdiv : (a % 2 ^ bits + 2 ^ bits * packElems bits l) / 2 ^ bits = packElems bits l := by
        rw [Nat.add_mul_div_left _ _ (Nat.two_pow_pos bits), Nat.div_eq_of_lt (Nat.mod_lt _ (Nat.two_pow_pos bits)), Nat.zero_add]
      unfold elemOf
      rw [packElems, Nat.mul_add, Nat.mul_one, Nat.add_comm (bits * i), Nat.pow_add, ← Nat.div_div_eq_div_mul, hdiv]
    rw [hstep, elemOf_packElems bits l i]
    rfl

theorem elemOf_mod (bits x i : Nat) : elemOf bits x i % 2 ^ bits = elemOf bits x i := Nat.mod_mod _ _

/-- An element that the mask lets be computed is its result; another one keeps its value. -/
theorem elemOf_lanes (k : Ctx) (w bits n old : Nat) (g : Nat → Nat × Flags) {i : Nat} (hi : i < n) :
    elemOf bits (lanes k w bits n old g).value i = if lane k w i then (g i).1 % 2 ^ bits else elemOf bits old i := by
  unfold lanes
  rw [elemOf_packElems, getD_of_lt _ _ (by simpa using hi)]
  simp only [List.getElem_map, List.getElem_range]
  split
  · rfl
  · exact elemOf_mod ..

/-! ### Rules of the vector instructions -/

theorem VecRule.intro (i : Nat → Nat → Nat → Nat → Instr) (op : Nat) (g : Ctx → Nat → Nat → Nat × Flags) (hop : op ≠ 0x6C)
    (h : ∀ s slot c stall t, exec (i slot c stall t) s = .next (s.vector slot c stall t op g)) : VecRule i op g := by
  intro s slot c stall t p w u k H
  rw [h]
  exact ⟨_, rfl, congrArg Host.Outcome.next (H.next hop rfl)⟩

theorem vcmp_rule {i : Nat → Nat → Nat → Nat → Instr} {sel : Nat}
    (h : (i, sel) ∈ [(Instr.vcmpEq, 0), (Instr.vcmpNe, 1), (Instr.vcmpLt, 2), (Instr.vcmpLe, 3)]) :
    RegRule i (0x39, sel) (fun k w => k.setM (iD w) (packElems 1 ((List.range (fmtCapacity (iFmt w))).map (fun i =>
      if lane k w i then b2n (compareCodes (iFmt w) sel (vA k w i) (vB k w i)) else b2n (bit (k.mr (iD w)) i))))) := by
  simp only [List.mem_cons, Prod.mk.injEq, List.not_mem_nil, or_false] at h
  obtain ⟨rfl, rfl⟩ | ⟨rfl, rfl⟩ | ⟨rfl, rfl⟩ | ⟨rfl, rfl⟩ := h
  · exact RegRule.intro .vcmpEq (0x39, 0) _ (by simp) fun _ _ _ _ _ => rfl
  · exact RegRule.intro .vcmpNe (0x39, 1) _ (by simp) fun _ _ _ _ _ => rfl
  · exact RegRule.intro .vcmpLt (0x39, 2) _ (by simp) fun _ _ _ _ _ => rfl
  · exact RegRule.intro .vcmpLe (0x39, 3) _ (by simp) fun _ _ _ _ _ => rfl

/-- A write of a quarter of an accumulator: the 128 elements of quarter `j` that the mask permits. -/
theorem qwr_rule : RegRule .qwr (0x3E, 0) (fun k w => k.setQ (iD w) (packElems 32 ((List.range 512).map (fun i =>
    if 128 * (iImm16 w % 4) ≤ i ∧ i < 128 * (iImm16 w % 4) + 128 ∧ lane k w (i - 128 * (iImm16 w % 4)) = true then
      elemOf 32 (k.vr (iA w)) (i - 128 * (iImm16 w % 4)) else elemOf 32 (k.qr (iD w)) i)))) := by
  refine RegRule.intro .qwr (0x3E, 0) _ (by simp) fun s slot c stall t => congrArg Host.Outcome.next ?_
  refine congrArg (s.issueReg slot c stall t (0x3E, 0)) (funext fun k => funext fun w => ?_)
  simp only [Bool.and_eq_true, decide_eq_true_eq, and_assoc]

theorem sfn_rule {i : Nat → Nat → Nat → Nat → Instr} {sel : Nat}
    (h : (i, sel) ∈ [(Instr.sfnExp2, 0), (Instr.sfnLog2, 1), (Instr.sfnReciprocal, 2), (Instr.sfnRsqrt, 3), (Instr.sfnTanh, 4)])
    (s : State) (slot c stall t : Nat) : exec (i slot c stall t) s = .next (s.sfn slot c stall t sel) := by
  simp only [List.mem_cons, Prod.mk.injEq, List.not_mem_nil, or_false] at h
  obtain ⟨rfl, rfl⟩ | ⟨rfl, rfl⟩ | ⟨rfl, rfl⟩ | ⟨rfl, rfl⟩ | ⟨rfl, rfl⟩ := h <;> rfl

theorem vred_rule {i : Nat → Nat → Nat → Nat → Instr} {sel : Nat}
    (h : (i, sel) ∈ [(Instr.vredSum, 0), (Instr.vredMin, 1), (Instr.vredMax, 2), (Instr.vredArgmax, 3)])
    (s : State) (slot c stall t : Nat) : exec (i slot c stall t) s = .next (s.vred slot c stall t sel) := by
  simp only [List.mem_cons, Prod.mk.injEq, List.not_mem_nil, or_false] at h
  obtain ⟨rfl, rfl⟩ | ⟨rfl, rfl⟩ | ⟨rfl, rfl⟩ | ⟨rfl, rfl⟩ := h <;> rfl

/-- The result of a reduction of the source elements `l` (14 R336). -/
def reduced (sel f : Nat) (l : List (Nat × Nat)) : Nat × Flags :=
  if sel = 0 then redSum f l
  else match choose f (sel ≠ 1) l with
    | none => (if sel = 3 then 0xFFFFFFFF else redNan, 0)
    | some e => (if sel = 3 then e.1 else redValue f e.2, 0)

theorem reduced_chosen {sel : Nat} (h : sel = 1 ∨ sel = 2) (f : Nat) (l : List (Nat × Nat)) :
    reduced sel f l = match choose f (sel = 2) l with | none => (0x7FC00000, 0) | some e => (redValue f e.2, 0) := by
  obtain rfl | rfl := h
  · unfold reduced
    rw [if_neg (by decide)]
    show (match choose f false l with | none => _ | some e => _) = match choose f false l with | none => _ | some e => _
    cases choose f false l <;> rfl
  · unfold reduced
    rw [if_neg (by decide)]
    show (match choose f true l with | none => _ | some e => _) = match choose f true l with | none => _ | some e => _
    cases choose f true l <;> rfl

theorem reduced_argmax (f : Nat) (l : List (Nat × Nat)) :
    reduced 3 f l = match choose f true l with | none => (0xFFFFFFFF, 0) | some e => (e.1, 0) := by
  unfold reduced
  rw [if_neg (by decide)]
  show (match choose f true l with | none => _ | some e => _) = match choose f true l with | none => _ | some e => _
  cases choose f true l <;> rfl

/-- Settles O49: each instruction is the run of its case, whose turn ends at the next word. -/
theorem reelVectors : Obligations.ReelVectors := by
  refine ⟨fun k w bits n old g i hi => elemOf_lanes k w bits n old g hi,
    VecRule.intro _ _ _ (by decide) fun _ _ _ _ _ => rfl, VecRule.intro _ _ _ (by decide) fun _ _ _ _ _ => rfl,
    VecRule.intro _ _ _ (by decide) fun _ _ _ _ _ => rfl, VecRule.intro _ _ _ (by decide) fun _ _ _ _ _ => rfl,
    VecRule.intro _ _ _ (by decide) fun _ _ _ _ _ => rfl, VecRule.intro _ _ _ (by decide) fun _ _ _ _ _ => rfl,
    VecRule.intro _ _ _ (by decide) fun _ _ _ _ _ => rfl, VecRule.intro _ _ _ (by decide) fun _ _ _ _ _ => rfl,
    VecRule.intro _ _ _ (by decide) fun _ _ _ _ _ => rfl, VecRule.intro _ _ _ (by decide) fun _ _ _ _ _ => rfl,
    VecRule.intro _ _ _ (by decide) fun _ _ _ _ _ => rfl, fun i sel h => vcmp_rule h,
    RegRule.intro _ _ _ (by simp) fun _ _ _ _ _ => rfl, RegRule.intro _ _ _ (by simp) fun _ _ _ _ _ => rfl, qwr_rule,
    RegRule.intro _ _ _ (by simp) fun _ _ _ _ _ => rfl, fun i sel h s slot c stall t p w u k H => ⟨_, rfl, ?_⟩,
    fun s slot c stall t p w u k H => ⟨_, _, rfl, rfl, ?_⟩, fun s slot c stall t p w u k H => ⟨_, _, rfl, rfl, ?_⟩,
    fun s slot c stall t p w u k H => ⟨_, rfl, ?_⟩, fun i sel s slot c stall t p w u k r h H h0 h12 h3 => ?_,
    RegRule.intro _ _ _ (by simp) fun _ _ _ _ _ => rfl⟩
  · rw [sfn_rule h]
    exact congrArg Host.Outcome.next (H.next (by simp) rfl)
  · exact congrArg Host.Outcome.next (H.next (by simp) rfl)
  · exact congrArg Host.Outcome.next (H.next (by simp) rfl)
  · exact congrArg Host.Outcome.next (H.next (by simp) rfl)
  · have hr : r = reduced sel (iFmt w) (redSource k w (iFmt w)) := by
      have hsel : sel = 0 ∨ (sel = 1 ∨ sel = 2) ∨ sel = 3 := by
        simp only [List.mem_cons, Prod.mk.injEq, List.not_mem_nil, or_false] at h
        omega
      obtain hsel | hsel | hsel := hsel
      · exact (h0 hsel).trans (if_pos hsel).symm
      · exact (h12 hsel).trans (reduced_chosen hsel ..).symm
      · subst hsel
        exact (h3 rfl).trans (reduced_argmax ..).symm
    rw [vred_rule h, hr]
    exact congrArg Host.Outcome.next (H.next (by simp) rfl)

end Sys2Proof.Machine

namespace Sys2Proof.Machine

/-! ### Accesses to pool memory leave the reels' state

The layer that an earlier part proves of the frame logic, for contexts, jobs and composites: a recall, a key or a correction that an
access begins on its way (R163, R209) is no business of theirs. -/

theorem foldl_reels {α : Type} (f : State → α → State) (hf : ∀ s x, (f s x).reels = s.reels) (l : List α) (s : State) :
    (l.foldl f s).reels = s.reels := by
  induction l generalizing s with
  | nil => rfl
  | cons x l ih => rw [List.foldl_cons, ih, hf]

@[simp] theorem State.updPort_reels (s : State) (p : Nat) (f : Port → Port) : (s.updPort p f).reels = s.reels := rfl
@[simp] theorem State.updStack_reels (s : State) (t : Nat) (f : Stack → Stack) : (s.updStack t f).reels = s.reels := rfl
@[simp] theorem State.meterAdd_reels (s : State) (p f n : Nat) : (s.meterAdd p f n).reels = s.reels := rfl
@[simp] theorem State.noteFault_reels (s : State) (p : Nat) : (s.noteFault p).reels = s.reels := rfl
@[simp] theorem State.takeWaiter_reels (s : State) (w : Wait) (r : Req) : (s.takeWaiter w r).reels = s.reels := rfl
@[simp] theorem State.wake_reels (s : State) (w : Wait) : (s.wake w).reels = s.reels := rfl
@[simp] theorem State.spend_reels (s : State) (slot p u n : Nat) : (s.spend slot p u n).reels = s.reels := rfl
@[simp] theorem State.clearFresh_reels (s : State) (a : Nat) : (s.clearFresh a).reels = s.reels := rfl
@[simp] theorem State.setErrs_reels (s : State) (ln : Nat) (e : List (Nat × Nat)) : (s.setErrs ln e).reels = s.reels := rfl
@[simp] theorem State.tagRefusal_reels (s : State) (e va h p : Nat) : (s.tagRefusal e va h p).reels = s.reels := rfl
@[simp] theorem State.setDir_reels (s : State) (d : Tab DirEnt) : (s.setDir d).reels = s.reels := rfl
@[simp] theorem State.finish_reels (s : State) (r : Req) : (s.finish r).reels = s.reels := rfl
@[simp] theorem State.collectAt_reels (s : State) (ln k : Nat) (r : Req) : (s.collectAt ln k r).reels = s.reels := rfl
@[simp] theorem State.nextTag_reels (s : State) (port dst : Nat) : (s.nextTag port dst).2.reels = s.reels := rfl
@[simp] theorem State.reelCount_reels (s : State) (p i n : Nat) : (s.reelCount p i n).reels = s.reels := rfl

/-! ### Memory lines -/

@[simp] theorem State.errEvent_reels (s : State) (kind ln : Nat) (fix : List (Nat × Nat)) : (s.errEvent kind ln fix).reels = s.reels := by
  simp [State.errEvent, apply_ite State.reels]

@[simp] theorem State.burst_reels (s : State) (ln h : Nat) (wr : Bool) : (s.burst ln h wr).reels = s.reels := by
  simp [State.burst, apply_ite State.reels]

@[simp] theorem State.overtake_reels (s : State) (ln : Nat) : (s.overtake ln).reels = s.reels := by
  simp [State.overtake, apply_ite State.reels]

@[simp] theorem State.putLine_reels (s : State) (ln : Nat) (d : List Byte) (key unit : Nat) : (s.putLine ln d key unit).reels = s.reels := by
  simp [State.putLine]

@[simp] theorem State.signLine_reels (s : State) (ln : Nat) : (s.signLine ln).reels = s.reels := by
  simp only [State.signLine, State.count_reels, State.setErrs_reels]

@[simp] theorem State.poisonLine_reels (s : State) (ln : Nat) : (s.poisonLine ln).reels = s.reels := by
  simp [State.poisonLine]

@[simp] theorem State.drawKey_reels (s : State) (d : Nat) : (s.drawKey d).reels = s.reels := by
  unfold State.drawKey
  split <;> rfl

@[simp] theorem State.demand_reels (s : State) (ln h : Nat) (noise : List (Nat × Nat)) (retry : Bool) :
    (s.demand ln h noise retry).2.reels = s.reels := by
  unfold State.demand
  dsimp only
  split <;> simp [apply_ite State.reels, apply_ite Prod.snd]

@[simp] theorem State.repairFrom_reels (s : State) (ln : Nat) (d : List Byte) (key unit : Nat) :
    (s.repairFrom ln d key unit).reels = s.reels := by
  simp [State.repairFrom]

@[simp] theorem State.readOther_reels (s : State) (m : Nat) : (s.readOther m).2.reels = s.reels := by
  unfold State.readOther
  dsimp only
  split
  · rfl
  · split <;> simp

@[simp] theorem State.readLine_reels (s : State) (e va h : Nat) (noise : List (Nat × Nat)) (retried : Bool) :
    (s.readLine e va h noise retried).2.reels = s.reels := by
  unfold State.readLine
  dsimp only
  split
  · rfl
  · split
    · simp [apply_ite State.reels, apply_ite Prod.snd]
    · split
      · split <;> simp [apply_ite State.reels, apply_ite Prod.snd]
      · simp [apply_ite State.reels, apply_ite Prod.snd]

@[simp] theorem State.readFinal_reels (s : State) (e va h : Nat) (noise : List (Nat × Nat)) :
    (s.readFinal e va h noise).2.reels = s.reels := by
  unfold State.readFinal
  dsimp only
  split <;> simp

@[simp] theorem State.firstWrite_reels (s : State) (dpa key dxn va h : Nat) (d : List Byte) :
    (s.firstWrite dpa key dxn va h d).reels = s.reels := by
  unfold State.firstWrite
  rw [State.clearFresh_reels]
  exact foldl_reels _ (fun s i => by simp) _ s

@[simp] theorem State.bothFresh_reels (s : State) (e va : Nat) : (s.bothFresh e va).reels = s.reels := by
  simp [State.bothFresh, apply_ite State.reels]

@[simp] theorem State.merged_reels (s : State) (e va : Nat) (d : List Byte) (h : Nat) (noise : List (Nat × Nat)) :
    (s.merged e va d h noise).2.reels = s.reels := by
  unfold State.merged
  dsimp only
  split
  · rfl
  · split <;> simp

@[simp] theorem State.putCopy_reels (s : State) (dpa va dxn h : Nat) (paid : List Nat) (d : List Byte) :
    (s.putCopy dpa va dxn h paid d).reels = s.reels := by
  simp [State.putCopy, apply_ite State.reels]

@[simp] theorem State.poisonCopy_reels (s : State) (dpa va dxn h : Nat) : (s.poisonCopy dpa va dxn h).reels = s.reels := by
  simp [State.poisonCopy, apply_ite State.reels]

@[simp] theorem State.poisonCopies_reels (s : State) (e va h : Nat) : (s.poisonCopies e va h).reels = s.reels := by
  unfold State.poisonCopies
  rw [State.bothFresh_reels]
  exact foldl_reels _ (fun s c => by simp [apply_ite State.reels]) _ s

@[simp] theorem State.lostPiece_reels (s : State) (e va : Nat) (d : List Byte) : (s.lostPiece e va d).2.reels = s.reels := by
  unfold State.lostPiece
  split
  · rfl
  · simp [apply_ite State.reels, apply_ite Prod.snd]

@[simp] theorem State.writePiece_reels (s : State) (e va : Nat) (d : List Byte) (h : Nat) (paid : List Nat) (noise : List (Nat × Nat)) :
    (s.writePiece e va d h paid noise).2.reels = s.reels := by
  unfold State.writePiece
  dsimp only
  split
  · simp
  · split
    · simp
    · rw [State.bothFresh_reels, foldl_reels _ (fun s c => by simp), State.merged_reels]

/-! ### Messages -/

@[simp] theorem State.send_reels (s : State) (port : Nat) (m : Msg) : (s.send port m).reels = s.reels := by
  simp [State.send, apply_ite State.reels]

@[simp] theorem State.sendResp_reels (s : State) (port : Nat) (m : Msg) : (s.sendResp port m).reels = s.reels := by
  simp [State.sendResp]

@[simp] theorem State.answer_reels (s : State) (r : Req) (op st : Nat) (body : List Byte) : (s.answer r op st body).reels = s.reels := by
  unfold State.answer
  extract_lets q m ent other cache s1 s2 twins
  have h2 : s2.reels = s.reels := by
    unfold s2
    split
    · rw [State.sendResp_reels, State.setPort_reels]
    · rw [State.count_reels, State.setPort_reels]
  split
  · rw [foldl_reels, h2]
    intro s x
    extract_lets a b
    have hb : b.reels = s.reels := rfl
    split
    · rw [State.count_reels, State.sendResp_reels, hb]
    · rw [State.count_reels, hb]
  · exact h2

@[simp] theorem State.sendOwn_reels (s : State) (port : Nat) (m : Msg) : (s.sendOwn port m).reels = s.reels := by
  simp [State.sendOwn, apply_ite State.reels]

@[simp] theorem State.originate_reels (s : State) (port dst op h : Nat) (body : List Byte) (why : Purpose) :
    (s.originate port dst op h body why).reels = s.reels := by
  simp [State.originate]

/-! ### Directory entries and the line's order -/

@[simp] theorem State.putEnt_reels (s : State) (ln : Nat) (e : DirEnt) : (s.putEnt ln e).reels = s.reels := by
  simp [State.putEnt, apply_ite State.reels]

@[simp] theorem State.dropEnt_reels (s : State) (ln : Nat) : (s.dropEnt ln).reels = s.reels := by
  simp [State.dropEnt, apply_ite State.reels]

@[simp] theorem State.putOpt_reels (s : State) (ln : Nat) (e : Option DirEnt) : (s.putOpt ln e).reels = s.reels := by
  cases e <;> simp [State.putOpt]

@[simp] theorem State.backInval_reels (s : State) (ln b : Nat) : (s.backInval ln b).reels = s.reels := by
  simp [State.backInval]

@[simp] theorem State.backInvals_reels (s : State) (ln : Nat) (l : List Nat) : (s.backInvals ln l).2.reels = s.reels :=
  foldl_reels _ (fun s b => State.backInval_reels s ln b) _ s

theorem State.makeRoom_reels {s t : State} {ln : Nat} (h : s.makeRoom ln = some t) : t.reels = s.reels := by
  unfold State.makeRoom at h
  dsimp only at h
  split at h
  · rw [← Option.some.inj h]
  · split at h
    · cases h
    · split at h
      · cases h
      · rw [← Option.some.inj h]
        simp

@[simp] theorem State.cohRead_reels (s : State) (ln h : Nat) : (s.cohRead ln h).2.reels = s.reels := by
  unfold State.cohRead
  dsimp only
  split
  · rfl
  · split <;> simp

@[simp] theorem State.cohWrite_reels (s : State) (ln : Nat) (d : List Byte) (h : Nat) : (s.cohWrite ln d h).reels = s.reels := by
  unfold State.cohWrite
  split
  · rfl
  · split
    · rfl
    · simp [apply_ite State.reels]

@[simp] theorem State.loseLine_reels (s : State) (ln b cause : Nat) : (s.loseLine ln b cause).reels = s.reels := by
  unfold State.loseLine
  dsimp only
  split
  · simp [apply_ite State.reels]
  · simp only [State.noteFault_reels, State.count_reels]
    split <;> simp [apply_ite State.reels]

@[simp] theorem State.loseHolding_reels (s : State) (ln b cause : Nat) : (s.loseHolding ln b cause).reels = s.reels := by
  unfold State.loseHolding
  split
  · rfl
  · simp [apply_ite State.reels]

@[simp] theorem State.startGrace_reels (s : State) (b : Nat) : (s.startGrace b).reels = s.reels := by
  simp [State.startGrace, apply_ite State.reels]

@[simp] theorem State.recorded_reels (s : State) (ln b : Nat) : (s.recorded ln b).reels = s.reels := by
  simp [State.recorded, apply_ite State.reels]

@[simp] theorem State.fromMemory_reels (s : State) (ln : Nat) (r : Req) (grant : Nat) : (s.fromMemory ln r grant).reels = s.reels := by
  unfold State.fromMemory
  dsimp only
  split
  · simp
  · split
    · simp
    next t h => simp [State.makeRoom_reels h]

@[simp] theorem State.putPend_reels (s : State) (ln : Nat) (q : Pend) : (s.putPend ln q).reels = s.reels := by
  simp [State.putPend, apply_ite State.reels]

@[simp] theorem State.sendFwd_reels (s : State) (ln k b : Nat) (r : Req) (own : Bool) (grant : Nat) :
    (s.sendFwd ln k b r own grant).reels = s.reels := by
  simp [State.sendFwd, apply_ite State.reels]

@[simp] theorem State.collectOn_reels (s : State) (ln : Nat) (r : Req) : (s.collectOn ln r).reels = s.reels := by
  unfold State.collectOn
  extract_lets q p e mine hs x q1 s1 q2 s2
  have h1 : s1.reels = s.reels := by
    unfold s1
    split <;> simp [x]
  have h2 : s2.reels = s.reels := h1
  split
  · exact h1
  · split
    · split <;> simp [h2]
    · split <;> simp [h2]

@[simp] theorem State.recallOn_reels (s : State) (ln : Nat) : (s.recallOn ln).reels = s.reels := by
  simp [State.recallOn]

@[simp] theorem State.ackEnt_reels (s : State) (ln : Nat) (e : DirEnt) : (s.ackEnt ln e).reels = s.reels := by
  unfold State.ackEnt
  rw [State.putEnt_reels]
  cases h : s.makeRoom ln with
  | none => rfl
  | some t => exact State.makeRoom_reels h

@[simp] theorem State.applyAck_reels (s : State) (ln : Nat) (f : Fwd) (out kept : Nat) (d : Option (List Byte)) :
    (s.applyAck ln f out kept d).reels = s.reels := by
  unfold State.applyAck
  extract_lets s1 ent s2 s3 again q
  have h1 : s1.reels = s.reels := by
    unfold s1
    split <;> simp
  clear_value ent
  have h3 : s3.reels = s.reels := by
    unfold s3
    split
    · simp [s2, h1]
    · cases ent <;> simp [s2, h1, apply_ite State.reels]
  split
  · rw [State.recorded_reels, h3]
  · cases ent <;> simp [again, h1, apply_ite State.reels]

@[simp] theorem State.repeated_reels (s : State) (ln k : Nat) (e : DirEnt) (r : Req) : (s.repeated ln k e r).reels = s.reels := by
  unfold State.repeated
  dsimp only
  split
  · simp
  · split
    · simp
    · split
      · split <;> simp
      · simp

theorem State.serveAt_reels {s t : State} {ln k : Nat} {r : Req} (h : s.serveAt ln k r = some t) : t.reels = s.reels := by
  unfold State.serveAt at h
  split at h
  · obtain ⟨u, hu, rfl⟩ := Option.map_eq_some_iff.1 h
    rw [State.fromMemory_reels, State.makeRoom_reels hu]
  · rw [← Option.some.inj h]
    split
    · simp
    · split
      · simp
      · split
        · simp
        · split <;> simp

@[simp] theorem State.awaitOver_reels (s : State) (ln : Nat) : (s.awaitOver ln).reels = s.reels := by
  unfold State.awaitOver
  dsimp only
  rw [foldl_reels _ (fun s x => by simp), State.setPend_reels]

@[simp] theorem State.takeAwaited_reels (s : State) (ln : Nat) (r : Req) : (s.takeAwaited ln r).reels = s.reels := by
  simp [State.takeAwaited]

theorem State.lineTurn_reels {s t : State} {ln : Nat} (h : s.lineTurn ln = some t) : t.reels = s.reels := by
  unfold State.lineTurn at h
  dsimp only at h
  split at h
  · obtain ⟨r, -, rfl⟩ := Option.map_eq_some_iff.1 h
    simp
  · split at h
    · obtain ⟨a, -, rfl⟩ := Option.map_eq_some_iff.1 h
      simp
    · split at h
      · cases h
      · rw [← Option.some.inj h, State.collectOn_reels]
    · cases h
    · rw [State.serveAt_reels h, State.setPend_reels]
    · split at h
      · rw [← Option.some.inj h, State.recallOn_reels]
      · cases h

@[simp] theorem State.lineTurns_reels (s : State) (ln n : Nat) : (s.lineTurns ln n).reels = s.reels := by
  induction n generalizing s with
  | zero => rfl
  | succ n ih =>
    rw [State.lineTurns]
    split
    · rfl
    next t h => rw [ih, State.lineTurn_reels h]

@[simp] theorem State.settleLine_reels (s : State) (ln : Nat) : (s.settleLine ln).reels = s.reels := by
  simp [State.settleLine]

@[simp] theorem State.beginRecall_reels (s : State) (ln : Nat) : (s.beginRecall ln).reels = s.reels := by
  simp [State.beginRecall, apply_ite State.reels]

@[simp] theorem State.endRecall_reels (s : State) (ln : Nat) : (s.endRecall ln).reels = s.reels := by
  simp [State.endRecall]

@[simp] theorem State.recallFor_reels (s : State) (e va len : Nat) (wr : Bool) : (s.recallFor e va len wr).2.reels = s.reels := by
  have hbegin : ((s.toRecall e va len wr).foldl (fun s ln => s.beginRecall ln) s).reels = s.reels :=
    foldl_reels _ (fun s ln => State.beginRecall_reels s ln) _ s
  unfold State.recallFor
  dsimp only
  split
  · rw [foldl_reels _ (fun s ln => by simp), hbegin]
  · exact hbegin

@[simp] theorem State.agentCheck_reels (s : State) (h va len : Nat) (wr : Bool) : (s.agentCheck h va len wr).2.reels = s.reels := by
  unfold State.agentCheck
  dsimp only
  split
  · rfl
  · simp [apply_ite State.reels, apply_ite Prod.snd]

end Sys2Proof.Machine

namespace Sys2Proof.Machine

/-! ### What a stream's lines and an instruction's flags leave of the contexts -/

@[simp] theorem State.draw_reels (s : State) (n : Nat) : (s.draw n).2.reels = s.reels := rfl

@[simp] theorem State.engineCount_reels (s : State) (slot i n : Nat) : (s.engineCount slot i n).reels = s.reels := by
  simp [State.engineCount, apply_ite State.reels]

@[simp] theorem State.streamLine_reels (s : State) (p va : Nat) : (s.streamLine p va).2.reels = s.reels := by
  unfold State.streamLine
  dsimp only
  split
  · simp
  · simp
  · split <;> simp

theorem State.ctx_of_reels {s w : State} (h : w.reels = s.reels) (slot c : Nat) : w.ctx slot c = s.ctx slot c := by
  rw [State.ctx, h]
  rfl

/-- A fold over a stream and a state keeps what each step keeps. -/
theorem foldl_strm_keeps {α : Type} {f : Strm × State → α → Strm × State}
    (hf : ∀ r x, (f r x).1.consumed = r.1.consumed ∧ (f r x).2.reels = r.2.reels) :
    ∀ (l : List α) (r : Strm × State), (l.foldl f r).1.consumed = r.1.consumed ∧ (l.foldl f r).2.reels = r.2.reels
  | [], _ => ⟨rfl, rfl⟩
  | x :: l, r => by
    obtain ⟨h1, h2⟩ := foldl_strm_keeps hf l (f r x)
    exact ⟨h1.trans (hf r x).1, h2.trans (hf r x).2⟩

/-- What runs ahead of a stream is buffered: its position stays, and so do the reels. -/
theorem State.prefetch_keeps (s : State) (p slot : Nat) (m : Strm) :
    (s.prefetch p slot m).1.consumed = m.consumed ∧ (s.prefetch p slot m).2.reels = s.reels := by
  unfold State.prefetch
  dsimp only
  refine foldl_strm_keeps (fun r k => ?_) _ (m, (s.draw (s.runahead + 1)).2)
  split
  · refine foldl_strm_keeps (fun r ln => ?_) _ r
    -- each branch keeps what it has, or takes what one more line gives
    repeat' split
    all_goals exact ⟨rfl, by simp⟩
  · exact ⟨rfl, rfl⟩

theorem Strm.advance_consumed (m : Strm) (slot n : Nat) : (m.advance slot n).consumed = m.consumed + n := by
  unfold Strm.advance
  dsimp only
  split <;> rfl

/-- Consumed elements move the stream's position in its context. -/
theorem State.consumed_ctx (s : State) (p slot c i : Nat) (m : Strm) (n : Nat) :
    ∃ y : Strm, y.consumed = m.consumed + n ∧ (s.consumed p slot c i m n).ctx slot c = (s.ctx slot c).setSt i y := by
  obtain ⟨hc, hr⟩ := s.prefetch_keeps p slot (m.advance slot n)
  refine ⟨_, hc.trans (Strm.advance_consumed ..), ?_⟩
  unfold State.consumed
  dsimp only
  rw [State.ctx_of_reels (State.engineCount_reels ..), State.ctx_setCtx, State.ctx_of_reels hr]

/-- The context once the flags `l` are raised: SR_COUNTER moves on if the instruction rounds stochastically. -/
def Ctx.tallied (k : Ctx) (w : Nat) (l : List Flags) : Ctx :=
  if iRm w = 2 then { k.raise (orFlags l) with ctr := (k.raise (orFlags l)).ctr + 1 } else k.raise (orFlags l)

theorem State.tally_ctx (s : State) (slot c w : Nat) (l : List Flags) (conv : Bool) :
    (s.tally slot c w l conv).ctx slot c = (s.ctx slot c).tallied w l := by
  unfold State.tally
  dsimp only
  rw [State.ctx_of_reels (State.engineCount_reels ..), State.ctx_of_reels (State.engineCount_reels ..),
    State.ctx_of_reels (State.engineCount_reels ..), State.ctx_setCtx]
  rfl

/-- It keeps the registers, the streams and the program counter. -/
theorem Ctx.tallied_keeps (k : Ctx) (w : Nat) (l : List Flags) :
    (k.tallied w l).q = k.q ∧ (k.tallied w l).strm = k.strm ∧ (k.tallied w l).pc = k.pc := by
  unfold Ctx.tallied
  split <;> exact ⟨rfl, rfl, rfl⟩

/-! ### Packed accumulators -/

theorem packElems_lt (bits : Nat) : ∀ l : List Nat, packElems bits l < 2 ^ (bits * l.length)
  | [] => by simp [packElems]
  | a :: l => by
    have hl := packElems_lt bits l
    have ha : a % 2 ^ bits < 2 ^ bits := Nat.mod_lt _ (Nat.two_pow_pos bits)
    rw [packElems, List.length_cons, Nat.mul_add, Nat.mul_one, Nat.add_comm (bits * l.length), Nat.pow_add]
    calc a % 2 ^ bits + 2 ^ bits * packElems bits l < 2 ^ bits * 1 + 2 ^ bits * packElems bits l := by omega
      _ = 2 ^ bits * (packElems bits l + 1) := by rw [← Nat.mul_add, Nat.add_comm]
      _ ≤ 2 ^ bits * 2 ^ (bits * l.length) := Nat.mul_le_mul_left _ hl

/-- A register as wide as what is packed into it holds its elements. -/
theorem elemOf_ofNat_packElems {bits n : Nat} {l : List Nat} (h : bits * l.length = n) (e : Nat) :
    elemOf bits (BitVec.ofNat n (packElems bits l)).toNat e = l.getD e 0 % 2 ^ bits := by
  rw [BitVec.toNat_ofNat, Nat.mod_eq_of_lt (h ▸ packElems_lt bits l), elemOf_packElems]

/-- An accumulator holds the 512 elements that are packed into it. -/
theorem Ctx.elemOf_setQ (k : Ctx) (i e : Nat) {l : List Nat} (hl : l.length = 512) :
    elemOf 32 ((k.setQ i (packElems 32 l)).qr i) e = l.getD e 0 % 2 ^ 32 := by
  unfold Ctx.qr Ctx.setQ
  dsimp only
  rw [Tab.getD_set_same, elemOf_ofNat_packElems (by omega)]

theorem Ctx.qr_congr {k k' : Ctx} (h : k'.q = k.q) (i : Nat) : k'.qr i = k.qr i := by
  unfold Ctx.qr
  rw [h]

/-! ### MFS (14 R331 to R333) -/

theorem mfs_rule {i : Nat → Nat → Nat → Nat → Nat → Instr} {trans : Bool} (h : (i, trans) ∈ [(Instr.mfs, false), (Instr.mfsTransposed, true)])
    (s : State) (slot c stall rows t : Nat) : exec (i slot c stall rows t) s = .next (s.mfs slot c stall t rows trans) := by
  simp only [List.mem_cons, Prod.mk.injEq, List.not_mem_nil, or_false] at h
  obtain ⟨rfl, rfl⟩ | ⟨rfl, rfl⟩ := h <;> rfl

/-- The part once an MFS that has read its elements up to row `upto` has left the accumulators `res`. -/
def State.mfsLeft (v : State) (p slot c w : Nat) (k : Ctx) (m : Strm) (res : List (Nat × Flags)) (elems busy unit work : Nat) : State :=
  (((((v.setCtx slot c (k.setQ (iD w) (packElems 32 (res.map (·.1))))).tally slot c w (res.map (·.2)) false).consumed p slot c (iA w) m
    elems).engineCount slot 0 busy).spend slot p unit work)

theorem State.mfsLeft_ctx (v : State) (p slot c w : Nat) (k : Ctx) (m : Strm) (res : List (Nat × Flags)) (elems busy unit work : Nat) :
    ∃ z : Strm, z.consumed = m.consumed + elems ∧ (v.mfsLeft p slot c w k m res elems busy unit work).ctx slot c =
      ((k.setQ (iD w) (packElems 32 (res.map (·.1)))).tallied w (res.map (·.2))).setSt (iA w) z := by
  obtain ⟨z, hz, hctx⟩ := ((v.setCtx slot c (k.setQ (iD w) (packElems 32 (res.map (·.1))))).tally slot c w (res.map (·.2)) false).consumed_ctx
    p slot c (iA w) m elems
  refine ⟨z, hz, ?_⟩
  unfold State.mfsLeft
  rw [State.ctx_of_reels (State.spend_reels ..), State.ctx_of_reels (State.engineCount_reels ..), hctx, State.tally_ctx, State.ctx_setCtx]

/-- What such a context shows: the accumulators, the stream's position, and the program counter it had. -/
theorem State.mfsLeft_shows (v : State) (p slot c w : Nat) (k : Ctx) (m : Strm) (res : List (Nat × Flags)) (hres : res.length = 512)
    (elems busy unit work : Nat) :
    (∀ e, elemOf 32 (((v.mfsLeft p slot c w k m res elems busy unit work).ctx slot c).qr (iD w)) e = (res.map (·.1)).getD e 0 % 2 ^ 32) ∧
      (((v.mfsLeft p slot c w k m res elems busy unit work).ctx slot c).st_ (iA w)).consumed = m.consumed + elems ∧
      ((v.mfsLeft p slot c w k m res elems busy unit work).ctx slot c).pc = k.pc := by
  obtain ⟨z, hz, hctx⟩ := v.mfsLeft_ctx p slot c w k m res elems busy unit work
  obtain ⟨hq, -, hpc⟩ := (k.setQ (iD w) (packElems 32 (res.map (·.1)))).tallied_keeps w (res.map (·.2))
  rw [hctx]
  refine ⟨fun e => ?_, ?_, hpc⟩
  · have hset : ∀ k' : Ctx, (k'.setSt (iA w) z).q = k'.q := fun _ => rfl
    rw [Ctx.qr_congr ((hset _).trans hq), Ctx.elemOf_setQ _ _ _ (by simpa using hres)]
  · rw [Ctx.st_, Ctx.setSt]
    dsimp only
    rw [Tab.getD_set_same, hz]

/-- The accumulators that an MFS over rows 0 to `upto` leaves, with their flags; `q0` holds what they start from. -/
def mfsResults (w : Nat) (trans : Bool) (mat : Mfs) (q0 upto : Nat) : List (Nat × Flags) :=
  (List.range 512).map (fun e =>
    let acc := elemOf 32 q0 e
    if trans then (if e < mfsK w * mfsB w then mfsTrans mat 0 upto (e / mfsB w) (e % mfsB w) acc else (acc, 0))
    else (if 0 * mfsB w ≤ e && e < upto * mfsB w then mfsPlain mat (mfsK w) (e / mfsB w) (e % mfsB w) acc else (acc, 0)))

theorem length_mfsResults (w : Nat) (trans : Bool) (mat : Mfs) (q0 upto : Nat) : (mfsResults w trans mat q0 upto).length = 512 := by
  simp [mfsResults]

theorem getD_mfsResults (w : Nat) (trans : Bool) (mat : Mfs) (q0 upto : Nat) {e : Nat} (he : e < 512) :
    ((mfsResults w trans mat q0 upto).map (·.1)).getD e 0 % 2 ^ 32 =
      (if trans then (if e < mfsK w * mfsB w then (mfsTrans mat 0 upto (e / mfsB w) (e % mfsB w) (elemOf 32 q0 e)).1 % 2 ^ 32 else elemOf 32 q0 e)
       else (if e < upto * mfsB w then (mfsPlain mat (mfsK w) (e / mfsB w) (e % mfsB w) (elemOf 32 q0 e)).1 % 2 ^ 32 else elemOf 32 q0 e)) := by
  have hacc : elemOf 32 q0 e % 2 ^ 32 = elemOf 32 q0 e := elemOf_mod ..
  unfold mfsResults
  rw [List.map_map, getD_of_lt _ _ (by simpa using he)]
  simp only [List.getElem_map, List.getElem_range, Function.comp_apply, Nat.zero_mul, Nat.zero_le, decide_true, Bool.true_and,
    decide_eq_true_eq]
  cases trans with
  | true =>
    simp only [if_true]
    split
    · rfl
    · exact hacc
  | false =>
    simp only [Bool.false_eq_true, if_false]
    split
    · rfl
    · exact hacc

/-- The streamed matrix as an MFS of word `w` over `n` rows sees it, its elements at `m`. -/
def mfsSeen (w : Nat) (trans : Bool) (k : Ctx) (m : Strm) (slot n : Nat) : Mfs :=
  let len := if trans then n else mfsK w
  let regs := spanRegs (fmtBits (iFmt w)) (mfsB w * len)
  let idx := fun (r i : Nat) => m.elemAt slot (m.consumed + r * mfsK w + i)
  { wt := fun r i => fmtValue m.fmt (m.code (idx r i))
    wscale := fun r j => scaleValue m.fmt (m.scaleCode (idx r j))
    act := fun v i => fmtValue (iFmt w) (elemOf (fmtBits (iFmt w)) (k.span (iB w) regs) (v * len + i))
    xscale := fun v j => scaleValue (iFmt w) (elemOf (8 * fmtScaleBytes (iFmt w)) (k.vr (iB w + regs)) ((v * len + j) / fmtGroup (iFmt w))) }

/-- An MFS whose elements are there: the state that it leaves, and how its turn ends. -/
theorem Issues.mfs {s u v : State} {k : Ctx} {slot c stall t p w rows upto n : Nat} {trans : Bool} {m' : Strm}
    (H : Issues s slot c stall t (0x40, b2n trans) p w u k) (hres : k.resume = none) (hn : (k.gr (iC w)).toNat = n)
    (hok : mfsOk w trans (k.st_ (iA w)) slot n 0 = true) (hown : u.ctxOwner slot c = some p)
    (hupto : upto = (if n ≤ rows then n else if trans then rows / 32 * 32 else rows)) (hgo : upto ≠ 0 ∨ n ≤ upto)
    (hfetch : u.fetchElems p slot (k.st_ (iA w)) (k.st_ (iA w)).consumed (upto * mfsK w) = (.ok m', v)) :
    ∃ busy unit work y, y = v.mfsLeft p slot c w k m'
        (mfsResults w trans (mfsSeen w trans k m' slot n) (if bit (iFunc w) 1 then 0 else k.qr (iD w)) upto) (upto * mfsK w) busy unit work ∧
      s.mfs slot c stall t rows trans = if upto = n then y.goesOn slot c (k.pc + 8)
        else y.setCtx slot c { y.ctx slot c with resume := some (0x40, 1, upto) } := by
  have hfrom : (if n ≤ 0 + rows then n else if trans then (0 + rows) / 32 * 32 else 0 + rows) = upto := by rw [hupto, Nat.zero_add]
  have hclear : (if bit (iFunc w) 1 = true ∧ (0 : Nat) = 0 then 0 else k.qr (iD w)) = if bit (iFunc w) 1 then 0 else k.qr (iD w) :=
    ite_congr (by simp) (fun _ => rfl) (fun _ => rfl)
  refine ⟨ceilDiv (upto * mfsK w * mfsB w) (max 1 (fmtRate m'.fmt / (if u.rd (K.splitMode slot) = 1 then 4 else 1))),
    if fmtBits m'.fmt = 16 ∨ fmtBits (iFmt w) = 16 then 5 else if fmtBits m'.fmt = 8 then 6 else 7, upto * mfsK w * mfsB w, _, rfl, ?_⟩
  by_cases hend : upto = n
  · rw [if_pos hend]
    refine H.next (by simp) ?_
    dsimp only
    rw [hres, hn]
    dsimp only
    rw [hok, if_neg (by decide), hown]
    dsimp only
    rw [hfrom, if_neg (by omega), Nat.sub_zero, hfetch]
    dsimp only
    rw [hclear, if_pos hend]
    rfl
  · rw [if_neg hend]
    refine H.held ?_
    dsimp only
    rw [hres, hn]
    dsimp only
    rw [hok, if_neg (by decide), hown]
    dsimp only
    rw [hfrom, if_neg (by omega), Nat.sub_zero, hfetch]
    dsimp only
    rw [hclear, if_neg hend]
    rfl

/-- Operands outside the limits raise ILLEGAL_INSTRUCTION. -/
theorem Issues.mfs_illegal {s u : State} {k : Ctx} {slot c stall t p w : Nat} {trans : Bool} (rows : Nat)
    (H : Issues s slot c stall t (0x40, b2n trans) p w u k) (hres : k.resume = none)
    (hbad : mfsOk w trans (k.st_ (iA w)) slot (k.gr (iC w)).toNat 0 = false) :
    s.mfs slot c stall t rows trans = u.reelFault slot c Code.illegalInstruction (w % 2 ^ 32) := by
  refine H.fault ?_
  dsimp only
  rw [hres]
  dsimp only
  rw [hbad]
  exact if_pos rfl

/-- How the turn of an MFS ends shows in its context: the registers and the stream stay as the run left them. -/
theorem mfs_ends {y : State} {slot c upto n pc : Nat} {k' : Ctx} (hk : y.ctx slot c = k') (hpc : k'.pc = pc) {x : State}
    (hx : x = if upto = n then y.goesOn slot c (pc + 8) else y.setCtx slot c { y.ctx slot c with resume := some (0x40, 1, upto) }) :
    (x.ctx slot c).q = k'.q ∧ (x.ctx slot c).strm = k'.strm ∧
      (upto = n → (x.ctx slot c).pc = pc + 8 ∧ (x.ctx slot c).resume = none) ∧
      (upto < n → (x.ctx slot c).pc = pc ∧ (x.ctx slot c).resume = some (0x40, 1, upto)) := by
  by_cases hend : upto = n
  · rw [if_pos hend, State.goesOn, hk] at hx
    rw [hx, State.ctx_setCtx]
    exact ⟨rfl, rfl, fun _ => ⟨rfl, rfl⟩, fun h => absurd hend (Nat.ne_of_lt h)⟩
  · rw [if_neg hend, hk] at hx
    rw [hx, State.ctx_setCtx]
    exact ⟨rfl, rfl, fun h => absurd h hend, fun _ => ⟨hpc, rfl⟩⟩

/-- Settles O50: the run reads its elements, leaves the accumulators, and ends its turn at the next word or in RESUME. -/
theorem matrixFromStream : Obligations.MatrixFromStream := by
  intro i trans s slot c stall rows t p w u k hi H hres
  dsimp only
  refine ⟨fun hbad => ?_, fun m' v upto hok hown hupto hgo hfetch => ?_⟩
  · rw [mfs_rule hi, H.mfs_illegal rows hres hbad]
  · obtain ⟨busy, unit, work, y, hy, hx⟩ := H.mfs hres rfl hok hown hupto hgo hfetch
    obtain ⟨hacc, hpos, hpc⟩ := v.mfsLeft_shows p slot c w k m' _ (length_mfsResults w trans (mfsSeen w trans k m' slot (k.gr (iC w)).toNat)
      (if bit (iFunc w) 1 then 0 else k.qr (iD w)) upto) (upto * mfsK w) busy unit work
    rw [← hy] at hacc hpos hpc
    obtain ⟨hq, hst, hdone, hcut⟩ := mfs_ends rfl hpc hx
    refine ⟨_, mfs_rule hi .., fun e he => ?_, ?_, hdone, hcut⟩
    · rw [Ctx.qr_congr hq, hacc, getD_mfsResults _ _ _ _ _ he]
      have hzero : elemOf 32 (if bit (iFunc w) 1 then 0 else k.qr (iD w)) e = if bit (iFunc w) 1 then 0 else elemOf 32 (k.qr (iD w)) e := by
        split
        · simp [elemOf]
        · rfl
      rw [hzero]
      rfl
    · rw [Ctx.st_, hst]
      exact hpos

end Sys2Proof.Machine

namespace Sys2Proof.Machine

/-! ### A stream opened in a slot past the 32 -/

/-- A slot past the 32, the owner of whose context 3 is element 3 of ENGINE_COUNTS of tile 0. -/
def straySlot : Nat := 0x3F * 2 ^ 28

/-- SOPEN of stream register 0, of a range of no bytes. -/
def sopenWord : Nat := 0x18 * 2 ^ 56 + 2 * 2 ^ 23

/-- Context 3 of the stray slot runs `sopenWord` from code extent 0 of partition 9, one line prefetched in its stream register 0. -/
def straySopen : State :=
  { regs := [(K.contextOwner (straySlot * 16 + 3), 9), (K.extentMap 9 0, 2 ^ 63 + 2 * 2 ^ 60 + 2 ^ 59)]
    boot := { service := true, locked := true }
    reels :=
      { ctxs := [(straySlot * 16 + 3, { st := 3, launch := 1, budget := 4, strm := [(0, { buf := [(0, none)] })] })]
        launches := [{ id := 1, part := 9, bind := 0, seq := 0, block := [], due := none }]
        icache := [(straySlot * 4, [(9 * 2 ^ 48, toLE 8 sopenWord)])] } }

/-- The state in which the SOPEN acts. -/
def straySopenActs : State := ((straySopen.at 0).fetchWord 9 straySlot 3).2.chargeCycles 9 straySlot 3 1

theorem straySopen_issues :
    Issues straySopen straySlot 3 0 0 (0x18, 0) 9 sopenWord straySopenActs (straySopenActs.ctx straySlot 3) := by
  have hfetch : ((straySopen.at 0).fetchWord 9 straySlot 3).1 = .word sopenWord := by decide +kernel
  exact ⟨by decide +kernel, by decide +kernel, by decide +kernel, hfetch, by decide +kernel, fun h => absurd h (by decide), rfl, rfl,
    by decide +kernel⟩

/-- The SOPEN is well formed, and gives up one line. The count of that line is written where the owner stands, and leaves the PC. -/
theorem straySopen_acts :
    sopenOk (iFmt sopenWord) ((straySopenActs.ctx straySlot 3).gr (iA sopenWord)).toNat
      ((straySopenActs.ctx straySlot 3).gr (iB sopenWord)).toNat
      (if fmtScaled (iFmt sopenWord) then ((straySopenActs.ctx straySlot 3).gr (iC sopenWord)).toNat else 0) = true ∧
    ((straySopenActs.ctx straySlot 3).st_ (iD sopenWord)).buf.length * 128 = 128 ∧ straySopenActs.ctxOwner straySlot 3 = some 9 ∧
    (straySopenActs.engineCount straySlot 3 128).ctxOwner straySlot 3 = none ∧
    ((straySopenActs.engineCount straySlot 3 128).ctx straySlot 3).pc ≠ (straySopenActs.ctx straySlot 3).pc + 8 := by decide +kernel

/-- With its context owned by nobody the SOPEN stalls. -/
theorem exec_straySopen : exec (.sopen straySlot 3 0 0) straySopen = .next (straySopenActs.engineCount straySlot 3 128) := by
  obtain ⟨hok, hbuf, -, hnone, -⟩ := straySopen_acts
  refine congrArg Host.Outcome.next (straySopen_issues.stalls ?_)
  dsimp only
  rw [hok, hbuf, hnone]
  rfl

/-- Refutes O51: the clause of SOPEN holds of every slot. In slot `straySlot` the count of the line that the opened stream gives up is
added to the element that names the context's owner; the SOPEN then finds no owner, stalls, and leaves its PC. -/
theorem not_reelStreamsAndMemory : ¬ Obligations.ReelStreamsAndMemory := by
  intro h
  obtain ⟨-, hopens⟩ := h.1 straySopen straySlot 3 0 0 9 sopenWord _ _ straySopen_issues
  obtain ⟨hok, -, howner, -, hstays⟩ := straySopen_acts
  obtain ⟨x, hx, -, hpc, -⟩ := hopens hok howner
  rw [exec_straySopen] at hx
  rw [← Host.Outcome.next.inj hx] at hpc
  exact hstays hpc

end Sys2Proof.Machine

namespace Sys2Proof.Machine

/-! ### Paths through the mesh (05 R121, R125) -/

/-- The sign `plus` takes the shorter way along dimension `x` from tile `t` to tile `d`, or either of two. -/
def shortWay (x plus : Bool) (t d : Nat) : Bool :=
  decide ((ringCoord x d + 6 - ringCoord x t) % 6 = 3) || decide (plus = decide ((ringCoord x d + 6 - ringCoord x t) % 6 < 3))

theorem State.ringDir_short (s : State) (k : MeshPkt) (yx x : Bool) (t d : Nat) :
    ∃ plus, s.ringDir k yx x t d = dirOf x plus ∧ shortWay x plus t d = true := by
  refine ⟨_, rfl, ?_⟩
  unfold shortWay
  split <;> simp_all

theorem ringX_lt (t : Nat) : ringX t < 6 := by
  have h : ∀ i < 6, [0, 5, 3, 1, 4, 2].getD i 0 < 6 := by decide
  exact h _ (Nat.mod_lt _ (by decide))

theorem ringY_lt {t : Nat} (ht : t < 36) : ringY t < 6 := by
  have h : ∀ i < 6, [0, 1, 5, 2, 4, 3].getD i 0 < 6 := by decide
  exact h _ (by omega)

/-- Every place on the rings is one tile's. -/
theorem ringTile_place : ∀ x < 6, ∀ y < 6, ringX (ringTile x y) = x ∧ ringY (ringTile x y) = y ∧ ringTile x y < 36 := by decide

theorem ringTile_ringX_ringY : ∀ t < 36, ringTile (ringX t) (ringY t) = t := by decide

/-- The next place on a ring. -/
def ringNext (plus : Bool) (c : Nat) : Nat := if plus then (c + 1) % 6 else (c + 5) % 6

theorem ringNext_lt (plus : Bool) (c : Nat) : ringNext plus c < 6 := by
  unfold ringNext
  split
  · exact Nat.mod_lt _ (by decide)
  · exact Nat.mod_lt _ (by decide)

/-- The tile at place `c` of tile `t`'s ring of dimension `x`. -/
def ringAt (x : Bool) (t c : Nat) : Nat := if x then ringTile c (ringY t) else ringTile (ringX t) c

theorem ringAt_ringCoord (x : Bool) {t : Nat} (ht : t < 36) : ringAt x t (ringCoord x t) = t := by
  cases x
  · exact ringTile_ringX_ringY t ht
  · exact ringTile_ringX_ringY t ht

theorem ringCoord_lt (x : Bool) {t : Nat} (ht : t < 36) : ringCoord x t < 6 := by
  cases x
  · exact ringY_lt ht
  · exact ringX_lt t

/-- A ring keeps the other coordinate. -/
theorem ringAt_place (x : Bool) {t c : Nat} (ht : t < 36) (hc : c < 6) :
    ringCoord x (ringAt x t c) = c ∧ ringCoord (!x) (ringAt x t c) = ringCoord (!x) t ∧ ringAt x t c < 36 := by
  cases x
  · obtain ⟨hx, hy, hlt⟩ := ringTile_place _ (ringX_lt t) _ hc
    exact ⟨hy, hx, hlt⟩
  · obtain ⟨hx, hy, hlt⟩ := ringTile_place _ hc _ (ringY_lt ht)
    exact ⟨hx, hy, hlt⟩

theorem neighbour_dirOf (x plus : Bool) (t : Nat) : neighbour (dirOf x plus) t = ringAt x t (ringNext plus (ringCoord x t)) := by
  cases x
  · cases plus
    · rfl
    · rfl
  · cases plus
    · rfl
    · rfl

theorem ringAt_ringAt (x : Bool) {t c : Nat} (ht : t < 36) (hc : c < 6) (d : Nat) : ringAt x (ringAt x t c) d = ringAt x t d := by
  obtain ⟨-, hother, -⟩ := ringAt_place x ht hc
  cases x
  · exact congrArg (fun a => ringTile a d) hother
  · exact congrArg (ringTile d) hother

/-- The tile `n` hops on from tile `t`. -/
def ringGo (d : MeshDir) : Nat → Nat → Nat
  | 0, t => t
  | n + 1, t => ringGo d n (neighbour d t)

/-- The place `n` places on from place `c`. -/
def ringPlaces (plus : Bool) : Nat → Nat → Nat
  | 0, c => c
  | n + 1, c => ringPlaces plus n (ringNext plus c)

/-- A run along a ring. -/
theorem ringGo_dirOf (x plus : Bool) (n : Nat) : ∀ {t : Nat}, t < 36 →
    ringGo (dirOf x plus) n t = ringAt x t (ringPlaces plus n (ringCoord x t)) := by
  induction n with
  | zero => exact fun ht => (ringAt_ringCoord x ht).symm
  | succ n ih =>
    intro t ht
    obtain ⟨hplace, -, hlt⟩ := ringAt_place x ht (ringNext_lt plus (ringCoord x t))
    rw [ringGo, neighbour_dirOf, ih hlt, hplace, ringAt_ringAt x ht (ringNext_lt plus _)]
    rfl

/-- The shorter way round a ring ends at its aim. -/
theorem ringPlaces_shortWay : ∀ plus : Bool, ∀ a < 6, ∀ c < 6,
    (decide ((c + 6 - a) % 6 = 3) || decide (plus = decide ((c + 6 - a) % 6 < 3))) = true → ringPlaces plus (ringDist a c) a = c := by decide

/-- The tile at which a packet from tile `t` to tile `d` has left dimension `x` behind it. -/
def ringMeet (x : Bool) (t d : Nat) : Nat := ringAt x t (ringCoord x d)

/-- The short way ends where the dimension is done. -/
theorem ringGo_shortWay {x plus : Bool} {t d : Nat} (ht : t < 36) (hd : d < 36) (h : shortWay x plus t d = true) :
    ringGo (dirOf x plus) (ringDist (ringCoord x t) (ringCoord x d)) t = ringMeet x t d := by
  rw [ringGo_dirOf x plus _ ht, ringPlaces_shortWay plus _ (ringCoord_lt x ht) _ (ringCoord_lt x hd) h]
  rfl

theorem ringMeet_lt (x : Bool) {t d : Nat} (ht : t < 36) (hd : d < 36) : ringMeet x t d < 36 := (ringAt_place x ht (ringCoord_lt x hd)).2.2

theorem ringCoord_ringMeet (x : Bool) {t d : Nat} (ht : t < 36) (hd : d < 36) : ringCoord (!x) (ringMeet x t d) = ringCoord (!x) t :=
  (ringAt_place x ht (ringCoord_lt x hd)).2.1

theorem ringMeet_ringMeet (x : Bool) {t d : Nat} (ht : t < 36) (hd : d < 36) : ringMeet (!x) (ringMeet x t d) d = d := by
  have hx := (ringAt_place x ht (ringCoord_lt x hd)).1
  cases x
  · exact (congrArg (ringTile (ringX d)) hx).trans (ringTile_ringX_ringY d hd)
  · exact (congrArg (fun a => ringTile a (ringY d)) hx).trans (ringTile_ringX_ringY d hd)

theorem ringDist_self (a : Nat) : ringDist a a = 0 := by
  unfold ringDist
  dsimp only
  omega

/-- Where the first dimension leads to the aim the other one is done. -/
theorem ringDist_of_ringMeet (x : Bool) {t d : Nat} (ht : t < 36) (hd : d < 36) (h : ringMeet x t d = d) :
    ringDist (ringCoord (!x) t) (ringCoord (!x) d) = 0 := by
  rw [← ringCoord_ringMeet x ht hd, h, ringDist_self]

theorem neighbour_lt (d : MeshDir) {t : Nat} (ht : t < 36) : neighbour d t < 36 := by
  have h : ∀ x plus, neighbour (dirOf x plus) t < 36 := fun x plus => by
    rw [neighbour_dirOf]
    exact (ringAt_place x ht (ringNext_lt plus _)).2.2
  cases d with
  | xPlus => exact h true true
  | xMinus => exact h true false
  | yPlus => exact h false true
  | yMinus => exact h false false
  | inject => exact h false false
  | eject => exact h false false

theorem ringDist_le (a b : Nat) : ringDist a b ≤ 6 := by
  unfold ringDist
  dsimp only
  omega

theorem meshHops_eq (x : Bool) (a b : Nat) :
    meshHops a b = ringDist (ringCoord x a) (ringCoord x b) + ringDist (ringCoord (!x) a) (ringCoord (!x) b) := by
  cases x
  · exact Nat.add_comm ..
  · rfl

/-! ### A mesh that holds nothing else -/

/-- The routers of the 36 tiles hold no packet, and none waits to start. -/
def State.MeshFree (s : State) : Prop := s.flights = [] ∧ s.meshWait = [] ∧ ∀ u, u < 36 → (s.router u).bufs = []

/-- `w` is `s` with some of MESH_COUNTS moved. -/
def State.MeshCounted (s w : State) : Prop := (∀ key, (∀ u i, key ≠ K.meshCounts u i) → w.rd key = s.rd key) ∧ w = { s with regs := w.regs }

theorem State.MeshCounted.refl (s : State) : s.MeshCounted s := ⟨fun _ _ => rfl, rfl⟩

theorem State.MeshCounted.trans {s v w : State} (h : s.MeshCounted v) (g : v.MeshCounted w) : s.MeshCounted w := by
  obtain ⟨hrd, hv⟩ := h
  obtain ⟨grd, gw⟩ := g
  refine ⟨fun key hkey => (grd key hkey).trans (hrd key hkey), ?_⟩
  rw [hv] at gw
  exact gw

theorem State.meshCounted_count (s : State) (u i n : Nat) : s.MeshCounted (s.count (K.meshCounts u i) n) :=
  ⟨fun key hkey => s.rd_count_other _ n key (hkey u i), rfl⟩

theorem State.MeshCounted.mesh {s w : State} (h : s.MeshCounted w) : w.mesh = s.mesh := by rw [h.2]

theorem State.MeshCounted.router {s w : State} (h : s.MeshCounted w) (u : Nat) : w.router u = s.router u := by
  rw [State.router, State.router, h.mesh]

theorem State.MeshFree.counted {s w : State} (h : s.MeshFree) (g : s.MeshCounted w) : w.MeshFree := by
  obtain ⟨hf, hw, hb⟩ := h
  refine ⟨?_, ?_, fun u hu => ?_⟩
  · rw [g.2]; exact hf
  · rw [g.2]; exact hw
  · rw [g.router]; exact hb u hu

theorem State.MeshFree.at {s : State} (h : s.MeshFree) (t : Nat) : (s.at t).MeshFree := h

theorem depth_pos (v : MeshVC) : 0 < v.depth := by
  cases v
  · exact Nat.zero_lt_succ _
  · exact Nat.zero_lt_succ _

theorem State.MeshFree.bufFree_pos {s : State} (h : s.MeshFree) {t : Nat} (ht : t < 36) (b : MeshBuf) : 0 < s.bufFree t b := by
  obtain ⟨hf, -, hb⟩ := h
  rw [State.bufFree, State.bufFlits, hb t ht, hf]
  exact depth_pos b.vc

theorem State.MeshFree.ejects {s : State} (h : s.MeshFree) {t : Nat} (ht : t < 36) (c : MeshClass) (vc : MeshVC) : s.ejects t c vc = true := by
  rw [State.ejects, Bool.or_eq_true]
  exact Or.inr (decide_eq_true (h.bufFree_pos ht _))

theorem State.MeshFree.flyOne {s : State} (h : s.MeshFree) {f : Flight} (hf : f.pkt.cls ≠ .mcast) : s.flyOne f = s.unicastMove f := by
  obtain ⟨hfl, -, -⟩ := h
  have hbehind : s.behind f = false := by rw [State.behind, hfl]; rfl
  rw [State.flyOne, hbehind, if_neg Bool.false_ne_true, if_neg hf]

theorem State.fly_nil (n : Nat) (s : State) : State.fly n [] s = s := by
  cases n
  · exact congrArg (fun l => { s with flights := l }) (List.append_nil _)
  · rfl

/-- In a free mesh a packet moves on by its one movement. -/
theorem State.MeshFree.fly_move {s w : State} (h : s.MeshFree) {f : Flight} (hf : f.pkt.cls ≠ .mcast) {l : List Flight}
    (hm : s.unicastMove f = some (w, l)) (n : Nat) : State.fly (n + 1) [f] s = State.fly n l w := by
  rw [State.fly, h.flyOne hf, hm]
  exact congrArg (fun l => State.fly n l w) (List.append_nil l)

/-- It takes a hop. -/
theorem State.MeshFree.unicastMove_hop {s : State} (h : s.MeshFree) {f : Flight} (hat : f.at_ < 36) {rest : List Nat}
    (hl : f.left = neighbour f.out f.at_ :: rest) :
    s.unicastMove f = some ((s.hop f (neighbour f.out f.at_) rest).1, [(s.hop f (neighbour f.out f.at_) rest).2]) := by
  rw [State.unicastMove, hl]
  exact if_pos (h.bufFree_pos (neighbour_lt f.out hat) _)

theorem State.hop_counted (s : State) (f : Flight) (next : Nat) (rest : List Nat) : s.MeshCounted (s.hop f next rest).1 := by
  unfold State.hop
  dsimp only
  split
  · exact s.meshCounted_count ..
  · exact (s.meshCounted_count ..).trans (State.meshCounted_count ..)

/-- The flight is in order `yx` of open traffic. -/
def InOrder (f : Flight) (yx : Bool) : Prop := ∃ dl, f.vc = .open_ yx dl

theorem InOrder.next {f : Flight} {yx : Bool} (h : InOrder f yx) : ∃ dl, f.nextVc = .open_ yx dl := by
  obtain ⟨dl, hvc⟩ := h
  rw [Flight.nextVc, hvc]
  exact ⟨_, rfl⟩

/-- The rest of its way along one ring: 10 mesh cycles a hop. -/
theorem State.MeshFree.fly_run {yx : Bool} (n : Nat) : ∀ {s : State} {f : Flight} (m : Nat), s.MeshFree → f.pkt.cls ≠ .mcast → f.at_ < 36 →
    InOrder f yx → f.left = ringRun f.out n f.at_ → n ≤ m →
    ∃ (w : State) (inp : MeshDir) (vc : MeshVC), s.MeshCounted w ∧
      InOrder { f with at_ := ringGo f.out n f.at_, inp := inp, vc := vc, left := [], cycle := f.cycle + 10 * n } yx ∧
      State.fly m [f] s = State.fly (m - n)
        [{ f with at_ := ringGo f.out n f.at_, inp := inp, vc := vc, left := [], cycle := f.cycle + 10 * n }] w := by
  induction n with
  | zero =>
    intro s f m _ _ _ hord hl _
    refine ⟨s, f.inp, f.vc, .refl s, hord, ?_⟩
    rw [← show f.left = [] from hl]
    rfl
  | succ n ih =>
    intro s f m h hcls hat hord hl hm
    obtain ⟨m, rfl⟩ : ∃ j, m = j + 1 := ⟨m - 1, by omega⟩
    obtain ⟨w, inp, vc, hw, hvc, hfly⟩ := ih (s := (s.hop f (neighbour f.out f.at_) (ringRun f.out n (neighbour f.out f.at_))).1)
      (f := (s.hop f (neighbour f.out f.at_) (ringRun f.out n (neighbour f.out f.at_))).2) m
      (h.counted (s.hop_counted ..)) hcls (neighbour_lt _ hat) hord.next rfl (by omega)
    refine ⟨w, inp, vc, (s.hop_counted ..).trans hw, hvc, ?_⟩
    rw [h.fly_move hcls (h.unicastMove_hop hat hl), hfly, Nat.add_sub_add_right]
    have hcycle : f.cycle + 10 + 10 * n = f.cycle + 10 * (n + 1) := by omega
    rw [← hcycle]
    rfl

end Sys2Proof.Machine

namespace Sys2Proof.Machine

/-! ### A packet through a free mesh -/

theorem dst_of_mask {k : MeshPkt} {d : Nat} (hd : d < 36) (hm : k.mask = 2 ^ d) : k.dst = d := by
  have h : ∀ d : Fin 36, ((List.range 36).find? (fun t => bit (2 ^ d.1) t)).getD 0 = d := by decide +kernel
  rw [MeshPkt.dst, hm]
  exact h ⟨d, hd⟩

theorem unicastMove_arrive {s : State} {f : Flight} (h : s.MeshFree) (hd : f.pkt.dst < 36) (hl : f.left = []) (hat : f.at_ = f.pkt.dst) :
    s.unicastMove f = some (s.meshArrive f.pkt.dst f.pkt f.cycle, []) := by
  rw [State.unicastMove, hl]
  dsimp only
  rw [if_neg (not_not_intro hat), h.ejects hd, if_pos rfl]

theorem unicastMove_turn {s : State} {f : Flight} {yx dl : Bool} (hl : f.left = []) (hat : f.at_ ≠ f.pkt.dst) (hvc : f.vc = .open_ yx dl)
    (hfirst : f.first = true) :
    s.unicastMove f = some (s, [{ f with
      vc := .open_ yx false
      out := s.ringDir f.pkt yx yx f.at_ f.pkt.dst
      left := ringRun (s.ringDir f.pkt yx yx f.at_ f.pkt.dst) (ringDist (ringCoord yx f.at_) (ringCoord yx f.pkt.dst)) f.at_
      first := false }]) := by
  rw [State.unicastMove, hl]
  dsimp only
  rw [if_pos hat, hvc, hfirst]
  cases yx <;> rfl

theorem State.MeshFree.fly_arrive {s : State} {f : Flight} (h : s.MeshFree) (hcls : f.pkt.cls ≠ .mcast) (hd : f.pkt.dst < 36) (hl : f.left = [])
    (hat : f.at_ = f.pkt.dst) (n : Nat) : State.fly (n + 1) [f] s = s.meshArrive f.pkt.dst f.pkt f.cycle := by
  rw [h.fly_move hcls (unicastMove_arrive h hd hl hat), State.fly_nil]

/-- A packet whose way along its last ring is ahead is delivered. -/
theorem State.MeshFree.fly_last {s : State} {f : Flight} {yx plus : Bool} {m : Nat} (h : s.MeshFree) (hcls : f.pkt.cls ≠ .mcast)
    (hat : f.at_ < 36) (hd : f.pkt.dst < 36) (hord : InOrder f yx) (hout : f.out = dirOf yx plus)
    (hway : shortWay yx plus f.at_ f.pkt.dst = true) (hmeet : ringMeet yx f.at_ f.pkt.dst = f.pkt.dst)
    (hl : f.left = ringRun f.out (ringDist (ringCoord yx f.at_) (ringCoord yx f.pkt.dst)) f.at_) (hm : 7 ≤ m) :
    ∃ w : State, s.MeshCounted w ∧ State.fly m [f] s =
      w.meshArrive f.pkt.dst f.pkt (f.cycle + 10 * ringDist (ringCoord yx f.at_) (ringCoord yx f.pkt.dst)) := by
  have hle := ringDist_le (ringCoord yx f.at_) (ringCoord yx f.pkt.dst)
  obtain ⟨w, inp, vc, hw, -, hfly⟩ := h.fly_run _ m hcls hat hord hl (by omega)
  refine ⟨w, hw, ?_⟩
  have hend : ringGo f.out (ringDist (ringCoord yx f.at_) (ringCoord yx f.pkt.dst)) f.at_ = f.pkt.dst := by
    rw [hout, ringGo_shortWay hat hd hway, hmeet]
  obtain ⟨j, hj⟩ : ∃ j, m - ringDist (ringCoord yx f.at_) (ringCoord yx f.pkt.dst) = j + 1 := ⟨_, (Nat.succ_pred_eq_of_pos (by omega)).symm⟩
  rw [hj] at hfly
  refine hfly.trans ((h.counted hw).fly_arrive ?_ ?_ ?_ ?_ j)
  · exact hcls
  · exact hd
  · rfl
  · exact hend

/-- A packet that leaves its source is delivered, 10 mesh cycles a hop later. -/
theorem State.MeshFree.fly_unicast {s : State} {f : Flight} {yx plus : Bool} (h : s.MeshFree) (hcls : f.pkt.cls ≠ .mcast) (hat : f.at_ < 36)
    (hd : f.pkt.dst < 36) (hord : InOrder f yx) (hout : f.out = dirOf (!yx) plus) (hway : shortWay (!yx) plus f.at_ f.pkt.dst = true)
    (hl : f.left = ringRun f.out (ringDist (ringCoord (!yx) f.at_) (ringCoord (!yx) f.pkt.dst)) f.at_) (hfirst : f.first = true) :
    ∃ w : State, s.MeshCounted w ∧ State.fly (flyFuel 1) [f] s =
      w.meshArrive f.pkt.dst f.pkt (f.cycle + 10 * meshHops f.at_ f.pkt.dst) := by
  have hle := ringDist_le (ringCoord (!yx) f.at_) (ringCoord (!yx) f.pkt.dst)
  obtain ⟨w, inp, vc, hw, ⟨dl, hvc⟩, hfly⟩ := h.fly_run _ (flyFuel 1) hcls hat hord hl (by rw [flyFuel]; omega)
  rw [hout, ringGo_shortWay hat hd hway] at hfly
  have hmid := ringMeet_lt (!yx) hat hd
  have hcoord := ringCoord_ringMeet (!yx) hat hd
  have hmeet := ringMeet_ringMeet (!yx) hat hd
  have hnone := ringDist_of_ringMeet (!yx) hat hd
  rw [Bool.not_not] at hcoord hmeet hnone
  obtain ⟨j, hj⟩ : ∃ j, flyFuel 1 - ringDist (ringCoord (!yx) f.at_) (ringCoord (!yx) f.pkt.dst) = j + 8 := ⟨_, (Nat.sub_add_cancel (by rw [flyFuel]; omega)).symm⟩
  rw [hj] at hfly
  rw [meshHops_eq (!yx), Bool.not_not, Nat.mul_add, ← Nat.add_assoc]
  by_cases hturn : ringMeet (!yx) f.at_ f.pkt.dst = f.pkt.dst
  · refine ⟨w, hw, ?_⟩
    rw [hnone hturn]
    refine hfly.trans ((h.counted hw).fly_arrive ?_ ?_ ?_ ?_ _)
    · exact hcls
    · exact hd
    · rfl
    · exact hturn
  · obtain ⟨plus', hdir, hway'⟩ := w.ringDir_short f.pkt yx yx (ringMeet (!yx) f.at_ f.pkt.dst) f.pkt.dst
    obtain ⟨v, hv, hlast⟩ := (h.counted hw).fly_last (m := j + 7) (f := { f with
        at_ := ringMeet (!yx) f.at_ f.pkt.dst
        inp := inp
        vc := .open_ yx false
        out := w.ringDir f.pkt yx yx (ringMeet (!yx) f.at_ f.pkt.dst) f.pkt.dst
        left := ringRun (w.ringDir f.pkt yx yx (ringMeet (!yx) f.at_ f.pkt.dst) f.pkt.dst)
          (ringDist (ringCoord yx (ringMeet (!yx) f.at_ f.pkt.dst)) (ringCoord yx f.pkt.dst)) (ringMeet (!yx) f.at_ f.pkt.dst)
        first := false
        cycle := f.cycle + 10 * ringDist (ringCoord (!yx) f.at_) (ringCoord (!yx) f.pkt.dst) })
      hcls hmid hd ⟨false, rfl⟩ hdir hway' hmeet rfl (Nat.le_add_left _ _)
    refine ⟨v, hw.trans hv, hfly.trans (((h.counted hw).fly_move ?_ (unicastMove_turn (dl := dl) ?_ ?_ ?_ ?_) _).trans (hlast.trans ?_))⟩
    case refine_6 =>
      dsimp only
      rw [hcoord]
    · exact hcls
    · rfl
    · exact hturn
    · exact hvc
    · exact hfirst

/-! ### The start of a packet -/

/-- In a free mesh a flit of an open packet may leave in every cycle. -/
theorem State.MeshFree.flitMay {s : State} (h : s.MeshFree) {t p : Nat} (ht : t < 36) (hp : s.isSealed p = false) (rsp : Bool) (c : Nat) :
    s.flitMay t p rsp c = true := by
  obtain ⟨hf, -, hb⟩ := h
  have hready : s.phaseReady t (c % 10) rsp = false := by
    rw [State.phaseReady, hb t ht, hf]
    rfl
  rw [State.flitMay, hp, hready]
  split <;> rfl

theorem flitCycles_free {s : State} {t p : Nat} {rsp : Bool} (h : ∀ c, s.flitMay t p rsp c = true) (n : Nat) :
    ∀ i c, s.flitCycles t p rsp (fun _ => 0) n i c = List.range' c n := by
  induction n with
  | zero => exact fun _ _ => rfl
  | succ n ih =>
    intro i c
    have hfind : ((List.range 10).map (fun j => max c 0 + j)).find? (s.flitMay t p rsp) = some c := by
      rw [List.find?_eq_some_iff_append]
      exact ⟨h c, [], (List.range' 1 9).map (fun j => max c 0 + j), by simp [List.range, List.range.loop, List.range'], by simp⟩
    rw [State.flitCycles, hfind]
    dsimp only
    rw [ih, List.range'_succ]

theorem State.MeshFree.injects {s : State} {k : MeshPkt} (h : s.MeshFree) (hsrc : k.src < 36) (hp : s.isSealed k.part = false)
    (ht : (s.router k.src).throttled = false) : s.injects k = List.range' s.meshNow k.flits := by
  unfold State.injects
  rw [ht]
  exact flitCycles_free (fun c => h.flitMay hsrc hp _ c) _ _ _

theorem flits_pos (k : MeshPkt) : 0 < k.flits := by
  rw [MeshPkt.flits, meshFlits]
  omega

theorem foldl_meshCounted (l : List Nat) : ∀ s : State,
    s.MeshCounted (l.foldl (fun (s : State) t => s.count (K.meshCounts t 5) 1) s) := by
  induction l with
  | nil => exact fun s => .refl s
  | cons t l ih => exact fun s => (s.meshCounted_count t 5 1).trans (ih _)

/-- An open unicast packet that may start comes to its tile. -/
theorem State.MeshFree.depart {s : State} {k : MeshPkt} (h : s.MeshFree) (hsrc : k.src < 36) (hdst : k.dst < 36) (hcls : k.cls ≠ .mcast)
    (hp : s.isSealed k.part = false) (hmay : s.mayStart k = true) (ht : (s.router k.src).throttled = false) :
    ∃ w : State, s.MeshCounted w ∧ s.depart k = w.meshArrive k.dst k (s.meshNow + 10 * meshHops k.src k.dst) := by
  obtain ⟨n, hn⟩ : ∃ n, k.flits = n + 1 := ⟨_, (Nat.succ_pred_eq_of_pos (flits_pos k)).symm⟩
  have hfixed := foldl_meshCounted k.fixed s
  unfold State.depart
  rw [h.injects hsrc hp ht, hn, List.range'_succ]
  dsimp only [List.head?]
  rw [← List.range'_succ, List.length_range', hmay, hp, if_neg (by simp)]
  generalize k.fixed.foldl (fun (s : State) t => s.count (K.meshCounts t 5) 1) s = u at hfixed ⊢
  have hslow : (if (false || k.cls.onRsp) = true then u else u.slowUse k.src (n + 1)) = u := by
    split
    · rfl
    · rw [State.slowUse, hfixed.router, ht]
      rfl
  rw [hslow, if_neg hcls]
  obtain ⟨plus, hdir, hway⟩ := u.ringDir_short k (u.orderYX k k.src) (!u.orderYX k k.src) k.src k.dst
  obtain ⟨w, hw, hfly⟩ := (h.counted hfixed).fly_unicast (yx := u.orderYX k k.src) (plus := plus) (f := {
      pkt := k
      at_ := k.src
      inp := .inject
      vc := .open_ (u.orderYX k k.src) false
      out := u.ringDir k (u.orderYX k k.src) (!u.orderYX k k.src) k.src k.dst
      left := ringRun (u.ringDir k (u.orderYX k k.src) (!u.orderYX k k.src) k.src k.dst)
        (ringDist (ringCoord (!u.orderYX k k.src) k.src) (ringCoord (!u.orderYX k k.src) k.dst)) k.src
      first := true
      cycle := s.meshNow
      idle := ((List.range' s.meshNow (n + 1)).filter (fun d => (s.phaseOwner (d % 10)).isSome)).length }) hcls hsrc hdst ⟨false, rfl⟩ hdir hway rfl rfl
  exact ⟨w, hfixed.trans hw, hfly⟩

/-! ### Arrival, and the queues at the source -/

/-- The record of the message of packet `k` at its tile, or a new one. -/
def MeshTile.recordOf (m : MeshTile) (k : MeshPkt) : MeshRec :=
  (m.records.find? (fun r => decide (r.block = k.block) && decide (r.id = k.id))).getD ⟨k.block, k.id, k.part, k.total, 0, [], []⟩

/-- A tile's router when packet `k` has come in mesh cycle `c`, with `old` the record of its message. -/
def MeshTile.took (m : MeshTile) (k : MeshPkt) (old : MeshRec) (c : Nat) : MeshTile :=
  let others := m.records.filter (fun x => !(decide (x.block = k.block) && decide (x.id = k.id)))
  if old.got + k.count = old.total then { m with
    records := others
    handed := m.handed.filter (fun e => decide (e.1 ≠ k.block)) ++
      [(k.block, ⟨old.id, old.part, ((Tab.set old.content k.offset k.data).map (fun (e : Nat × List Byte) => e.2)).flatten, old.bad, c⟩)] }
  else { m with records := others ++ [{ old with got := old.got + k.count, content := Tab.set old.content k.offset k.data }] }

/-- A packet without an uncorrectable flit changes the router of its tile alone. -/
theorem State.meshArrive_good (s : State) (t : Nat) (k : MeshPkt) (c : Nat) (h : k.bad = []) :
    s.meshArrive t k c = s.setRouter t (MeshTile.took (s.router t) k (MeshTile.recordOf (s.router t) k) c) := by
  unfold State.meshArrive
  rw [h]
  simp only [List.map_nil, List.append_nil, List.isEmpty_nil, if_true, List.foldl_nil]
  cases k.line
  · rfl
  · rfl

theorem State.router_setRouter_eq (s : State) (t u : Nat) (v : MeshTile) : (s.setRouter t v).router u = if u = t then v else s.router u :=
  Tab.getD_set ..

/-- What the injection queues hold leaves the records and what was handed. -/
theorem State.injection_router (s : State) (t req rsp sreq srsp u : Nat) : (s.injection t req rsp sreq srsp).router u =
    if u = t then { s.router t with injReq := req, injRsp := rsp, injSealed := (sreq, srsp) } else s.router u :=
  s.router_setRouter_eq t u _

theorem State.injection_keeps (s : State) (t req rsp sreq srsp u : Nat) :
    ((s.injection t req rsp sreq srsp).router u).records = (s.router u).records ∧
      ((s.injection t req rsp sreq srsp).router u).handed = (s.router u).handed := by
  rw [s.injection_router]
  by_cases h : u = t
  · rw [if_pos h, h]
    exact ⟨rfl, rfl⟩
  · rw [if_neg h]
    exact ⟨rfl, rfl⟩

theorem State.injection_regsBut (s : State) (t req rsp sreq srsp : Nat) : s.RegsBut (s.injection t req rsp sreq srsp) [K.injectPeak t] :=
  State.RegsBut.wr (State.RegsBut.of_regs rfl rfl) (by simp)

theorem State.injection_frame (s : State) (t req rsp sreq srsp : Nat) :
    s.injection t req rsp sreq srsp =
      { s with mesh := (s.injection t req rsp sreq srsp).mesh, regs := (s.injection t req rsp sreq srsp).regs } := rfl

theorem State.MeshFree.meshMoves {s : State} (h : s.MeshFree) : s.meshMoves = s := by
  obtain ⟨hf, -, -⟩ := h
  rw [State.meshMoves, hf, State.fly_nil, ← hf]

theorem State.MeshFree.meshStarts {s : State} (h : s.MeshFree) : s.meshStarts = s := by
  obtain ⟨-, hw, -⟩ := h
  rw [State.meshStarts, hw, List.foldl_nil, ← hw]

/-- In a free mesh a message's packet departs, and INJECT_PEAK follows. -/
theorem State.MeshFree.exec_message {s : State} (h : s.MeshFree) (k : MeshPkt) (t : Nat) :
    exec (.meshMessageComplete k [] t) s = .next (let u := (s.at t).depart k
      u.injection k.src (u.router k.src).injReq (u.router k.src).injRsp (u.router k.src).injSealed.1 (u.router k.src).injSealed.2) := by
  have hbufs : (List.range 36).foldl (fun (s : State) u =>
      let l := (([] : List (Nat × MeshBuf × Nat)).filter (fun e => e.1 = u)).map (fun e => e.2)
      if decide (l = (s.router u).bufs) then s else s.setRouter u { s.router u with bufs := l }) (s.at t) = s.at t :=
    foldl_fixed_mem (fun u hu => if_pos (decide_eq_true ((h.at t).2.2 u (List.mem_range.mp hu)).symm))
  refine congrArg Host.Outcome.next ?_
  dsimp only [execMeshMessageComplete]
  rw [hbufs, (h.at t).meshMoves, (h.at t).meshStarts]

/-- An open unicast packet that may start, through a free mesh: its tile's router takes it, and INJECT_PEAK follows at its source. -/
theorem State.MeshFree.message {s : State} {k : MeshPkt} {d : Nat} (h : s.MeshFree) (t : Nat) (hsrc : k.src < 36) (hd : d < 36)
    (hmask : k.mask = 2 ^ d) (hcls : k.cls ≠ .mcast) (hbad : k.bad = []) (hp : s.isSealed k.part = false) (hmay : s.mayStart k = true)
    (ht : (s.router k.src).throttled = false) :
    ∃ (u : State) (req rsp sreq srsp : Nat), (s.at t).MeshCounted u ∧ exec (.meshMessageComplete k [] t) s = .next
      ((u.setRouter d (MeshTile.took (s.router d) k (MeshTile.recordOf (s.router d) k) ((s.at t).meshNow + 10 * meshHops k.src d))).injection
        k.src req rsp sreq srsp) := by
  have hdst := dst_of_mask hd hmask
  obtain ⟨u, hu, hdep⟩ := (h.at t).depart hsrc (hdst ▸ hd) hcls hp hmay ht
  rw [u.meshArrive_good _ _ _ hbad, hu.router, hdst] at hdep
  have hx := h.exec_message k t
  dsimp only at hx
  rw [hdep] at hx
  exact ⟨u, _, _, _, _, hu, hx⟩

/-- What the records and the hand-over of a tile are when it took a packet. -/
theorem took_records (m : MeshTile) (k : MeshPkt) (old : MeshRec) (c : Nat) :
    (old.got + k.count = old.total → (m.took k old c).records = m.records.filter (fun r => !(decide (r.block = k.block) && decide (r.id = k.id))) ∧
      (k.block, (⟨old.id, old.part, ((Tab.set old.content k.offset k.data).map (fun (e : Nat × List Byte) => e.2)).flatten, old.bad, c⟩ : MeshMsg))
        ∈ (m.took k old c).handed) ∧
    (old.got + k.count ≠ old.total → (m.took k old c).records = m.records.filter (fun r => !(decide (r.block = k.block) && decide (r.id = k.id)))
        ++ [{ old with got := old.got + k.count, content := Tab.set old.content k.offset k.data }] ∧
      (m.took k old c).handed = m.handed) := by
  unfold MeshTile.took
  constructor
  · intro h
    rw [if_pos h]
    exact ⟨rfl, List.mem_append_right _ List.mem_cons_self⟩
  · intro h
    rw [if_neg h]
    exact ⟨rfl, rfl⟩

/-- What the message's packet leaves, at its tile and elsewhere. -/
theorem State.MeshCounted.message {s u : State} (h : s.MeshCounted u) (hf : s.flights = []) (hw : s.meshWait = []) (k : MeshPkt)
    (d req rsp sreq srsp : Nat) (m : MeshTile) {w : State} (hx : w = (u.setRouter d m).injection k.src req rsp sreq srsp) :
    w.flights = [] ∧ w.meshWait = [] ∧ (w.router d).records = m.records ∧ (w.router d).handed = m.handed ∧
      (∀ v, v ≠ d → (w.router v).records = (s.router v).records ∧ (w.router v).handed = (s.router v).handed) ∧
      (∀ key, key ≠ K.injectPeak k.src → (∀ v i, key ≠ K.meshCounts v i) → w.rd key = s.rd key) ∧
      w = { s with mesh := w.mesh, regs := w.regs } := by
  have hkeeps := fun v => (u.setRouter d m).injection_keeps k.src req rsp sreq srsp v
  have hregs := (u.setRouter d m).injection_regsBut k.src req rsp sreq srsp
  have hframe : w = { s with mesh := w.mesh, regs := w.regs } := by
    rw [hx, State.injection_frame, State.setRouter, h.2]
  rw [← hx] at hkeeps hregs
  refine ⟨?_, ?_, ?_, ?_, fun v hv => ?_, fun key hpeak hcounts => ?_, hframe⟩
  · rw [hframe]; exact hf
  · rw [hframe]; exact hw
  · rw [(hkeeps d).1, State.router_setRouter]
  · rw [(hkeeps d).2, State.router_setRouter]
  · rw [(hkeeps v).1, (hkeeps v).2, State.router_setRouter_eq, if_neg hv, h.router]
    exact ⟨rfl, rfl⟩
  · rw [hregs key (by rwa [List.mem_singleton])]
    exact h.1 key hcounts

/-! ### The injection throttle (05 R131) -/

/-- Neither the class nor the status of a partition is an INJECT_PEAK. -/
theorem State.isSealed_injection (s : State) {tile : Nat} (h : tile < 36) (req rsp sreq srsp p : Nat) :
    (s.injection tile req rsp sreq srsp).isSealed p = s.isSealed p := by
  have hregs := s.injection_regsBut tile req rsp sreq srsp
  rw [State.isSealed, State.active, hregs _ (by simp only [List.mem_singleton, ek]; omega), hregs _ (by simp only [List.mem_singleton, ek]; omega)]
  rfl

theorem State.waitFlits_injection (s : State) {tile : Nat} (h : tile < 36) (req rsp sreq srsp v : Nat) (plane sealed_ : Bool) :
    (s.injection tile req rsp sreq srsp).waitFlits v plane sealed_ = s.waitFlits v plane sealed_ := by
  unfold State.waitFlits
  simp only [s.isSealed_injection h]
  rfl

theorem State.openFlits_injection (s : State) {tile : Nat} (h : tile < 36) (req rsp sreq srsp : Nat) :
    (s.injection tile req rsp sreq srsp).openFlits tile = max (req + s.waitFlits tile false false) (rsp + s.waitFlits tile true false) := by
  rw [State.openFlits, s.injection_router, if_pos rfl, s.waitFlits_injection h, s.waitFlits_injection h]

theorem State.eff_injection (s : State) {tile k : Nat} (req rsp sreq srsp : Nat) (hk : k ≠ K.injectPeak tile) :
    (s.injection tile req rsp sreq srsp).eff k = s.eff k := by
  rw [State.eff, s.injection_regsBut tile req rsp sreq srsp k (by rwa [List.mem_singleton])]
  rfl

theorem State.injection_peak {s : State} (h : s.meshWait = []) (tile req rsp sreq srsp : Nat) :
    (s.injection tile req rsp sreq srsp).rd (K.injectPeak tile) =
      max (s.rd (K.injectPeak tile)) (max (min 256 (req + sreq)) (min 256 (rsp + srsp))) := by
  rw [State.injection]
  dsimp only
  rw [State.rd_wr_same]
  simp only [State.waitFlits, State.setRouter, h, List.filter_nil, List.map_nil, List.sum_nil, Nat.add_zero]
  rfl

/-- THROTTLE_ENTER at its threshold. -/
theorem exec_throttleEnter {s : State} {tile req rsp sreq srsp t : Nat} (h : tile < 36)
    (hhigh : s.eff K.throttleHigh ≤ max (req + s.waitFlits tile false false) (rsp + s.waitFlits tile true false))
    (ht : (s.router tile).throttled = false) :
    exec (.throttleEnter tile req rsp sreq srsp t) s = .next ((((s.at t).injection tile req rsp sreq srsp).setRouter tile { s.router tile with
      injReq := req, injRsp := rsp, injSealed := (sreq, srsp), throttled := true, throttledFrame := true
      since := (s.at t).meshNow, slow := 0 }).count (K.meshCounts tile 3) 1) := by
  have hgo : ((s.at t).injection tile req rsp sreq srsp).eff K.throttleHigh ≤ ((s.at t).injection tile req rsp sreq srsp).openFlits tile ∧
      (!(((s.at t).injection tile req rsp sreq srsp).router tile).throttled) = true := by
    rw [State.openFlits_injection _ h, State.eff_injection _ _ _ _ _ (by simp only [ek, ne_eq]; omega), State.injection_router, if_pos rfl]
    exact ⟨hhigh, congrArg (!·) ht⟩
  refine congrArg Host.Outcome.next ?_
  dsimp only [execThrottleEnter]
  rw [if_pos hgo, State.injection_router, if_pos rfl]
  rfl

/-- A port's link when the credits held of virtual channel `v` go back. -/
def Link.givesBack (k : Link) (v : Nat) : Link :=
  if nth k.rxHeld v = 0 then k else ({ k with rxHeld := setAt k.rxHeld v 0 } : Link).giveCredit v (nth k.rxHeld v)

/-- Where nothing is throttled the credits held go back, channel by channel. -/
theorem State.foldl_creditBack (tile : Nat) (l : List Nat) : ∀ s : State, (s.router tile).throttled = false →
    ∃ links, l.foldl (fun (s : State) v => s.creditBack tile v) s = { s with links := links } ∧
      ({ s with links := links } : State).link tile = l.foldl Link.givesBack (s.link tile) ∧
      ∀ q, q ≠ tile → ({ s with links := links } : State).link q = s.link q := by
  induction l with
  | nil => exact fun s _ => ⟨s.links, rfl, rfl, fun _ _ => rfl⟩
  | cons v l ih =>
    intro s ht
    by_cases hn : nth (s.link tile).rxHeld v = 0
    · obtain ⟨links, hl, hlink, hother⟩ := ih s ht
      refine ⟨links, ?_, ?_, hother⟩
      · rw [List.foldl_cons, State.creditBack]
        rw [if_pos (Or.inl hn), hl]
      · rw [List.foldl_cons, Link.givesBack, if_pos hn, hlink]
    · obtain ⟨links, hl, hlink, hother⟩ := ih (s.setLink tile ((s.link tile).givesBack v)) ht
      refine ⟨links, ?_, ?_, fun q hq => (hother q hq).trans (s.link_setLink_other _ _ _ hq)⟩
      · rw [List.foldl_cons, State.creditBack]
        rw [if_neg (not_or.mpr ⟨hn, fun g => absurd (ht.symm.trans g.1) Bool.false_ne_true⟩), State.updLink]
        rw [Link.givesBack, if_neg hn] at hl
        exact hl
      · rw [State.link_setLink] at hlink
        exact hlink

theorem nth_modifyAt (l : List Nat) (i j : Nat) (f : Nat → Nat) (hj : j < l.length) :
    nth (modifyAt l i f) j = if i = j then f (nth l j) else nth l j := by
  simp only [nth, modifyAt, List.getD_eq_getElem?_getD, List.getElem?_modify, List.getElem?_eq_getElem hj]
  split <;> rfl

theorem nth_setAt_self (l : List Nat) (v : Nat) : nth (setAt l v 0) v = 0 := by
  by_cases h : v < l.length
  · rw [setAt, nth_modifyAt _ _ _ _ h, if_pos rfl]
  · have hlen : (setAt l v 0).length ≤ v := by
      rw [setAt, modifyAt, List.length_modify]
      omega
    rw [nth, List.getD_eq_getElem?_getD, List.getElem?_eq_none hlen]
    rfl

theorem nth_modifyAt_other (l : List Nat) {i j : Nat} (f : Nat → Nat) (h : i ≠ j) : nth (modifyAt l i f) j = nth l j := by
  simp only [nth, modifyAt, List.getD_eq_getElem?_getD, List.getElem?_modify, if_neg h, Option.map_eq_map, Option.map_id']

/-- What one channel gives back leaves the other channels. -/
theorem Link.givesBack_other (k : Link) {i v : Nat} (h : i ≠ v) : nth (k.givesBack i).rxHeld v = nth k.rxHeld v ∧
    nth (k.givesBack i).rxDone v = nth k.rxDone v ∧ (k.givesBack i).rxDone.length = k.rxDone.length := by
  unfold Link.givesBack
  split
  · exact ⟨rfl, rfl, rfl⟩
  · exact ⟨nth_modifyAt_other _ _ h, nth_modifyAt_other _ _ h, List.length_modify ..⟩

theorem Link.foldl_givesBack_other {v : Nat} {l : List Nat} : ∀ k : Link, v ∉ l → nth (l.foldl Link.givesBack k).rxHeld v = nth k.rxHeld v ∧
    nth (l.foldl Link.givesBack k).rxDone v = nth k.rxDone v := by
  induction l with
  | nil => exact fun _ _ => ⟨rfl, rfl⟩
  | cons i l ih =>
    intro k hv
    obtain ⟨hne, hv⟩ := List.ne_and_not_mem_of_not_mem_cons hv
    obtain ⟨hheld, hdone, -⟩ := k.givesBack_other (Ne.symm hne)
    exact ⟨(ih _ hv).1.trans hheld, (ih _ hv).2.trans hdone⟩

/-- What a channel holds is given back once. -/
theorem Link.foldl_givesBack {v : Nat} {l : List Nat} : ∀ k : Link, l.Nodup → v ∈ l → 0 < nth k.rxHeld v → v < k.rxDone.length →
    nth (l.foldl Link.givesBack k).rxHeld v = 0 ∧
      nth (l.foldl Link.givesBack k).rxDone v = (nth k.rxDone v + nth k.rxHeld v) % 2 ^ 32 := by
  induction l with
  | nil => exact fun _ _ hv => absurd hv List.not_mem_nil
  | cons i l ih =>
    intro k hnd hv hheld hlen
    obtain ⟨hi, hnd⟩ := List.nodup_cons.mp hnd
    rw [List.foldl_cons]
    by_cases heq : i = v
    · rw [heq] at hi ⊢
      obtain ⟨hh, hd⟩ := Link.foldl_givesBack_other (k.givesBack v) hi
      rw [hh, hd, Link.givesBack, if_neg (Nat.ne_of_gt hheld)]
      refine ⟨nth_setAt_self _ _, ?_⟩
      exact (nth_modifyAt _ _ _ _ hlen).trans (if_pos rfl)
    · obtain ⟨hh, hd, hl⟩ := k.givesBack_other heq
      have hmem : v ∈ l := (List.mem_cons.mp hv).resolve_left (Ne.symm heq)
      obtain ⟨g, gd⟩ := ih (k.givesBack i) hnd hmem (hh ▸ hheld) (hl ▸ hlen)
      rw [hh, hd] at gd
      exact ⟨g, gd⟩

/-- THROTTLE_LEAVE at its threshold. -/
theorem exec_throttleLeave {s : State} {tile req rsp sreq srsp : Nat} (t : Nat) (h : tile < 36)
    (hlow : max (req + s.waitFlits tile false false) (rsp + s.waitFlits tile true false) ≤ s.eff K.throttleLow) :
    exec (.throttleLeave tile req rsp sreq srsp t) s = .next ((List.range 4).foldl (fun (s : State) v => s.creditBack tile v)
      (((s.at t).injection tile req rsp sreq srsp).setRouter tile { s.router tile with
        injReq := req, injRsp := rsp, injSealed := (sreq, srsp), throttled := false })) := by
  have hgo : ((s.at t).injection tile req rsp sreq srsp).openFlits tile ≤ ((s.at t).injection tile req rsp sreq srsp).eff K.throttleLow := by
    rw [State.openFlits_injection _ h, State.eff_injection _ _ _ _ _ (by simp only [ek, ne_eq]; omega)]
    exact hlow
  refine congrArg Host.Outcome.next ?_
  dsimp only [execThrottleLeave]
  rw [if_pos hgo, State.injection_router, if_pos rfl]
  rfl

/-- THROTTLE_ENTER at its threshold: the tile's router, and what moves of the registers. -/
theorem State.throttleEnter_leaves (s : State) {tile : Nat} (req rsp sreq srsp : Nat) (m : MeshTile) {w : State}
    (hw : w = ((s.injection tile req rsp sreq srsp).setRouter tile m).count (K.meshCounts tile 3) 1) :
    w.router tile = m ∧ w.rd (K.injectPeak tile) = (s.injection tile req rsp sreq srsp).rd (K.injectPeak tile) ∧
      s.RegsBut w [K.injectPeak tile, K.meshCounts tile 3] ∧ w = { s with mesh := w.mesh, regs := w.regs } := by
  rw [hw]
  refine ⟨?_, ?_, fun key hkey => ?_, ?_⟩
  · rw [State.router, State.count_mesh]
    exact Tab.getD_set_same ..
  · rw [State.rd_count_other _ _ _ _ (by simp only [ek, ne_eq]; omega)]
    rfl
  · rw [List.mem_cons, List.mem_singleton, not_or] at hkey
    rw [State.rd_count_other _ _ _ _ hkey.2]
    exact s.injection_regsBut tile req rsp sreq srsp key (by rw [List.mem_singleton]; exact hkey.1)
  · rw [State.count_only, State.injection_frame, State.setRouter]

/-- THROTTLE_LEAVE at its threshold: the tile's router, the credits that go back, and what moves of the registers. -/
theorem State.throttleLeave_leaves (s : State) {tile : Nat} (req rsp sreq srsp : Nat) (m : MeshTile) (hm : m.throttled = false) {w : State}
    (hw : w = (List.range 4).foldl (fun (s : State) v => s.creditBack tile v) ((s.injection tile req rsp sreq srsp).setRouter tile m)) :
    w.router tile = m ∧ (∀ v, v < 4 → 0 < nth (s.link tile).rxHeld v → v < (s.link tile).rxDone.length → nth (w.link tile).rxHeld v = 0 ∧
        nth (w.link tile).rxDone v = (nth (s.link tile).rxDone v + nth (s.link tile).rxHeld v) % 2 ^ 32) ∧
      (∀ q, q ≠ tile → w.link q = s.link q) ∧ s.RegsBut w [K.injectPeak tile] ∧ w = { s with mesh := w.mesh, links := w.links, regs := w.regs } := by
  obtain ⟨links, hl, hlink, hother⟩ := State.foldl_creditBack tile (List.range 4) ((s.injection tile req rsp sreq srsp).setRouter tile m)
    (by rw [State.router_setRouter, hm])
  rw [← hw] at hl
  rw [← hl] at hlink hother
  refine ⟨?_, fun v hv hheld hlen => ?_, hother, ?_, ?_⟩
  · rw [hl]
    exact State.router_setRouter ..
  · rw [hlink]
    exact Link.foldl_givesBack _ List.nodup_range (List.mem_range.mpr hv) hheld hlen
  · rw [hl]
    exact s.injection_regsBut tile req rsp sreq srsp
  · rw [hl]
    rfl

/-- Settles O22: a free mesh lets a packet fly its shortest way; the throttle turns on the depth of its tile's queues. -/
theorem meshMessagesAndThrottle : Obligations.MeshMessagesAndThrottle := by
  refine ⟨fun s k d t old hf hw hb hsrc hd hmask hcls hbad hp hmay ht hold => ?_, fun s tile req rsp sreq srsp t high htile hhigh => ⟨?_, ?_⟩⟩
  · obtain ⟨u, req, rsp, sreq, srsp, hu, hx⟩ := State.MeshFree.message ⟨hf, hw, hb⟩ t hsrc hd hmask hcls hbad hp hmay ht
    have hold' : MeshTile.recordOf (s.router d) k = old := hold.symm
    rw [hold'] at hx
    obtain ⟨hflights, hwait, hrec, hhand, hother, hregs, hframe⟩ := hu.message hf hw k d req rsp sreq srsp _ rfl
    obtain ⟨hfull, hmore⟩ := took_records (s.router d) k old ((s.at t).meshNow + 10 * meshHops k.src d)
    refine ⟨_, hx, hflights, hwait, fun h => ?_, fun h => ?_, hother, hregs, hframe⟩
    · rw [hrec, hhand]
      exact hfull h
    · rw [hrec, hhand]
      exact hmore h
  · intro hgo ht
    rw [hhigh] at hgo
    obtain ⟨hm, hpeak, hregs, hframe⟩ := (s.at t).throttleEnter_leaves req rsp sreq srsp _ rfl
    exact ⟨_, exec_throttleEnter htile hgo ht, hm, fun hwait => hpeak.trans (State.injection_peak hwait ..), hregs, hframe⟩
  · intro hgo
    rw [hhigh] at hgo
    obtain ⟨hm, hheld, hother, hregs, hframe⟩ := (s.at t).throttleLeave_leaves req rsp sreq srsp (tile := tile) { s.router tile with
      injReq := req, injRsp := rsp, injSealed := (sreq, srsp), throttled := false } rfl rfl
    exact ⟨_, exec_throttleLeave t htile hgo, hm, hheld, hother, hregs, hframe⟩

end Sys2Proof.Machine

namespace Sys2Proof.Machine

/-! ### What writes and forwards to a pair leave to the reels -/

/-- A fold whose every step keeps a part of the state keeps it. -/
theorem foldl_keeps {α β γ : Type} (g : β → γ) (f : β → α → β) (hf : ∀ b x, g (f b x) = g b) (l : List α) : ∀ b, g (l.foldl f b) = g b := by
  induction l with
  | nil => exact fun _ => rfl
  | cons x l ih => exact fun b => (ih _).trans (hf b x)

@[simp] theorem State.writeBytes_reels (s : State) (e va : Nat) (d : List Byte) (h : Nat) (noise : List (Nat × Nat)) :
    (s.writeBytes e va d h noise).2.reels = s.reels :=
  foldl_keeps (fun r : List Bool × State => r.2.reels) _ (fun _ _ => State.writePiece_reels ..) _ _

@[simp] theorem State.markDirty_reels (s : State) (n t off : Nat) : (s.markDirty n t off).reels = s.reels := rfl

@[simp] theorem State.sendPair_reels (s : State) (n port off : Nat) (d : List Byte) (why : Purpose) :
    (s.sendPair n port off d why).reels = s.reels :=
  State.originate_reels ..

@[simp] theorem State.pairDone_reels (s : State) (n port id : Nat) : (s.pairDone n port id).reels = s.reels := by
  unfold State.pairDone
  split
  · exact State.answer_reels ..
  · rfl

@[simp] theorem State.pairDoneAll_reels (s : State) (n : Nat) : (s.pairDoneAll n).reels = s.reels :=
  foldl_reels _ (fun s _ => State.pairDone_reels s ..) _ s

@[simp] theorem State.degrade_reels (s : State) (n : Nat) : (s.degrade n).reels = s.reels := by
  unfold State.degrade
  dsimp only
  rw [State.wake_reels, State.pairDoneAll_reels]
  exact (foldl_reels _ (fun s _ => State.markDirty_reels s ..) _ _).trans (State.count_reels ..)

@[simp] theorem State.pairForward_reels (s : State) (p e va len : Nat) : (s.pairForward p e va len).reels = s.reels := by
  unfold State.pairForward
  dsimp only
  split
  · rfl
  · split
    · rfl
    · split
      · split
        · rfl
        · split
          · simp
          · simp
      · simp

@[simp] theorem State.needKey_reels (s : State) (d : Nat) : (s.needKey d).reels = s.reels := by
  simp [State.needKey, apply_ite State.reels]

@[simp] theorem State.agentWrite_reels (s : State) (p e va : Nat) (d : List Byte) (h : Nat) : (s.agentWrite p e va d h).2.reels = s.reels := by
  unfold State.agentWrite
  dsimp only
  split <;> simp

@[simp] theorem State.freshen_reels (s : State) (p e va h : Nat) : (s.freshen p e va h).reels = s.reels := by
  unfold State.freshen
  dsimp only
  rw [State.count_reels, State.pairForward_reels]
  refine foldl_reels _ ?_ _ s
  exact fun _ _ => rfl

/-! ### The work of a slot -/

@[simp] theorem State.poolWaits_reels (s : State) (h : Nat) (l : List (Nat × Nat)) (wr : Bool) : (s.poolWaits h l wr).2.reels = s.reels := by
  refine foldl_keeps (fun r : Bool × State => r.2.reels) _ (fun r q => ?_) _ _
  dsimp only
  split <;> simp

/-- `k` is a later state of the job `j`, at the same slots. -/
def PoolJob.Kin (j k : PoolJob) : Prop := k.req = j.req ∧ k.slots = j.slots

theorem PoolJob.Kin.refl (j : PoolJob) : j.Kin j := ⟨rfl, rfl⟩

theorem PoolJob.Kin.trans {j k l : PoolJob} (h : j.Kin k) (g : k.Kin l) : j.Kin l := ⟨g.1.trans h.1, g.2.trans h.2⟩

theorem PoolJob.kin_fail (j : PoolJob) (off : Nat) : j.Kin (j.fail off) := ⟨rfl, rfl⟩

theorem PoolJob.kin_refused (j : PoolJob) (off : Nat) : j.Kin (j.refused off) := ⟨rfl, rfl⟩

theorem PoolJob.kin_reduce (j : PoolJob) (l : List (Nat × Nat)) : j.Kin (j.reduce l) := by
  unfold PoolJob.reduce
  dsimp only
  split
  · split
    · exact ⟨rfl, rfl⟩
    · exact ⟨rfl, rfl⟩
  · exact ⟨rfl, rfl⟩

/-- A step of a slot's work: the job goes on and the reels stay. -/
def Works (r w : PoolJob × State) : Prop := r.1.Kin w.1 ∧ w.2.reels = r.2.reels

theorem Works.trans {a b c : PoolJob × State} (h : Works a b) (g : Works b c) : Works a c := ⟨h.1.trans g.1, g.2.trans h.2⟩

theorem foldl_works {α : Type} (f : PoolJob × State → α → PoolJob × State) (hf : ∀ r x, Works r (f r x)) (l : List α) :
    ∀ r, Works r (l.foldl f r) := by
  induction l with
  | nil => exact fun r => ⟨.refl _, rfl⟩
  | cons x l ih => exact fun r => (hf r x).trans (ih _)

theorem State.fillPart_works (s : State) (j : PoolJob) (va n : Nat) : Works (j, s) (s.fillPart j va n) := by
  unfold State.fillPart
  dsimp only
  split
  · split
    · exact ⟨.refl _, by simp⟩
    · split
      · exact ⟨j.kin_fail _, by simp⟩
      · exact ⟨.refl _, by simp⟩
  · exact ⟨j.kin_refused _, by simp⟩

theorem State.reducePart_works (s : State) (j : PoolJob) (va n : Nat) : Works (j, s) (s.reducePart j va n) := by
  unfold State.reducePart
  dsimp only
  split
  · obtain ⟨hkin, hreels⟩ := foldl_works (fun (r : PoolJob × State) ln =>
      let g := r.2.readFinal _ ln j.req.h.handle []
      let lo := max ln va
      match g.1 with
      | .data d => (r.1.reduce (lineElems (poFmt j.cmd) j.cmd (slice d (lo - ln) (min (ln + 128) (va + n) - lo)) lo), g.2)
      | .bad _ => (r.1.fail (lo - poA j.cmd), g.2)) (fun r ln => by
        dsimp only
        split
        · exact ⟨r.1.kin_reduce _, by simp⟩
        · exact ⟨r.1.kin_fail _, by simp⟩) (linesOf va n) (j, (s.agentCheck j.req.h.handle va n false).2)
    exact ⟨hkin, by rw [State.count_reels]; exact hreels.trans (by simp)⟩
  · exact ⟨j.kin_refused _, by simp⟩

theorem State.kin_askStages (s : State) (j : PoolJob) : j.Kin (s.askStages j) := by
  refine ⟨?_, ?_⟩
  · exact foldl_keeps PoolJob.req _ (fun j w => foldl_keeps PoolJob.req _ (fun j i => by split <;> rfl) _ j) _ j
  · exact foldl_keeps PoolJob.slots _ (fun j w => foldl_keeps PoolJob.slots _ (fun j i => by split <;> rfl) _ j) _ j

/-! ### A job that has not finished anywhere -/

/-- The job of request `r`, queued or in progress at every slot. -/
def PoolJob.Young (j : PoolJob) (r : Req) : Prop := j.req = r ∧ ∀ i, j.at_ i = 0 ∨ j.at_ i = 1

theorem PoolJob.Young.kin {j k : PoolJob} {r : Req} (h : j.Young r) (g : j.Kin k) : k.Young r :=
  ⟨g.1.trans h.1, fun i => by rw [PoolJob.at_, g.2]; exact h.2 i⟩

theorem PoolJob.Young.started {j : PoolJob} {r : Req} (h : j.Young r) (slot : Nat) :
    ({ j with slots := Tab.set j.slots slot 1 } : PoolJob).Young r := by
  refine ⟨h.1, fun i => ?_⟩
  rw [PoolJob.at_, Tab.getD_set]
  split
  · exact Or.inr rfl
  · exact h.2 i

/-- Request `r` has a job, and each job that its number names is its own and young. -/
def State.HasYoung (s : State) (r : Req) : Prop :=
  (∃ j ∈ s.reels.jobs, j.Young r) ∧ ∀ j ∈ s.reels.jobs, j.req.port = r.port → j.req.id = r.id → j.Young r

theorem State.HasYoung.of_reels {s w : State} {r : Req} (h : s.HasYoung r) (e : w.reels = s.reels) : w.HasYoung r := by
  unfold State.HasYoung
  rw [e]
  exact h

theorem State.HasYoung.job {s : State} {r : Req} (h : s.HasYoung r) : ∃ j, s.job r.port r.id = some j ∧ j.Young r := by
  obtain ⟨⟨j, hj, hyoung⟩, hall⟩ := h
  have hsome : (s.job r.port r.id).isSome = true := by
    rw [State.job, List.find?_isSome]
    exact ⟨j, hj, by rw [hyoung.1]; simp⟩
  obtain ⟨k, hk⟩ := Option.isSome_iff_exists.mp hsome
  have hkey := List.find?_some hk
  rw [Bool.and_eq_true, decide_eq_true_eq, decide_eq_true_eq] at hkey
  exact ⟨k, hk, hall k (List.mem_of_find?_eq_some hk) hkey.1 hkey.2⟩

theorem State.HasYoung.setJob {s : State} {r : Req} (h : s.HasYoung r) {j : PoolJob}
    (hj : j.req.port = r.port → j.req.id = r.id → j.Young r) : (s.setJob j).HasYoung r := by
  obtain ⟨⟨k, hk, hyoung⟩, hall⟩ := h
  refine ⟨⟨if k.req.port = j.req.port ∧ k.req.id = j.req.id then j else k, List.mem_map_of_mem hk, ?_⟩, fun x hx hport hid => ?_⟩
  · split
    next hkey => exact hj (hkey.1.symm.trans (by rw [hyoung.1])) (hkey.2.symm.trans (by rw [hyoung.1]))
    · exact hyoung
  · obtain ⟨y, hy, rfl⟩ := List.mem_map.mp hx
    by_cases hkey : y.req.port = j.req.port ∧ y.req.id = j.req.id
    · rw [if_pos hkey] at hport hid ⊢
      exact hj hport hid
    · rw [if_neg hkey] at hport hid ⊢
      exact hall y hy hport hid

/-- The window that a buffer goes to is of a job. -/
theorem State.nextStage_mem {s : State} {slot w : Nat} {j : PoolJob} (h : s.nextStage slot = some (j, w)) : j ∈ s.reels.jobs := by
  unfold State.nextStage at h
  dsimp only at h
  split at h
  next x hx =>
    obtain ⟨k, hk, hsome⟩ := List.exists_of_findSome?_eq_some hx
    split at hsome
    · obtain ⟨v, -, hv⟩ := Option.map_eq_some_iff.mp hsome
      rw [← hv] at h
      rw [← (Prod.mk.inj (Option.some.inj h)).1]
      exact hk
    · exact absurd hsome (by simp)
  · split at h
    · exact absurd h (by simp)
    · obtain ⟨p, -, hsome⟩ := List.exists_of_findSome?_eq_some h
      obtain ⟨k, hk, hv⟩ := Option.bind_eq_some_iff.mp hsome
      obtain ⟨v, -, hv⟩ := Option.map_eq_some_iff.mp hv
      rw [← (Prod.mk.inj hv).1]
      exact List.mem_of_find?_eq_some hk

theorem State.HasYoung.grantStage {s : State} {r : Req} (h : s.HasYoung r) (slot : Nat) : (s.grantStage slot).HasYoung r := by
  unfold State.grantStage
  split
  · exact h
  next j w hnext =>
    exact h.setJob (j := { j with wins := Tab.set j.wins (w * 32 + slot) 2 }) (fun hport hid => h.2 j (State.nextStage_mem hnext) hport hid)

/-- A young job's start at a slot leaves it young. -/
theorem State.HasYoung.startAt {s : State} {r : Req} (h : s.HasYoung r) {j : PoolJob} (hj : j.Young r) (slot : Nat) :
    (s.startAt j slot).2.HasYoung r := by
  unfold State.startAt
  extract_lets oldest
  split
  · exact h
  · split
    · split
      · exact h.of_reels (State.poolWaits_reels ..)
      · obtain ⟨hkin, hreels⟩ := foldl_works (fun (r : PoolJob × State) (q : Nat × Nat) =>
            if poOp j.cmd = 1 then r.2.fillPart r.1 q.1 q.2 else r.2.reducePart r.1 q.1 q.2) (fun r q => by
          split
          · exact State.fillPart_works ..
          · exact State.reducePart_works ..)
          (slotGranules (poA j.cmd) (poLen j.cmd) slot)
          (j, (s.poolWaits j.req.h.handle (slotGranules (poA j.cmd) (poLen j.cmd) slot) (poOp j.cmd = 1)).2)
        refine (State.HasYoung.setJob (h.of_reels (hreels.trans (by simp))) (fun _ _ => (hj.kin hkin).started slot)).of_reels ?_
        exact State.spend_reels ..
    · exact (h.setJob (fun _ _ => (hj.started slot).kin (s.kin_askStages _))).grantStage slot

/-- A POOL_OP that passes its checks has a young job. -/
theorem State.servePool_young {u : State} {r : Req} (hcheck : u.poolCheck r = none) (hnew : u.job r.port r.id = none) :
    (u.servePool r).HasYoung r := by
  have hfirst : ({ u with reels := { u.reels with jobs := u.reels.jobs ++ [{ req := r }] } } : State).HasYoung r := by
    refine ⟨⟨{ req := r }, List.mem_append_right _ List.mem_cons_self, rfl, fun _ => Or.inl rfl⟩, fun j hj hport hid => ?_⟩
    rcases List.mem_append.mp hj with hold | hlast
    · refine absurd (List.find?_eq_none.mp hnew j hold) (not_not_intro ?_)
      rw [Bool.and_eq_true, decide_eq_true_eq, decide_eq_true_eq]
      exact ⟨hport, hid⟩
    · rw [List.mem_singleton.mp hlast]
      exact ⟨rfl, fun _ => Or.inl rfl⟩
  have hfold : ∀ (l : List Nat) (x : PoolJob × State), x.2.HasYoung r → (l.foldl (fun (x : PoolJob × State) slot =>
      match x.2.job r.port r.id with
      | some j => x.2.startAt j slot
      | none => x) x).2.HasYoung r := by
    intro l
    induction l with
    | nil => exact fun _ h => h
    | cons slot l ih =>
      intro x h
      refine ih _ ?_
      obtain ⟨j, hj, hyoung⟩ := h.job
      dsimp only
      rw [hj]
      exact h.startAt hyoung slot
  unfold State.servePool
  rw [hcheck]
  exact hfold _ _ hfirst

/-! ### What an accepted operation becomes -/

/-- A POOL_OP at the home of its range. -/
theorem recv_pool_young {s : State} {port n t : Nat} {h : Hdr} {b : List Byte} {noise : List (Nat × Nat)} (H : Starts s port 0x10 h b n t)
    (hcheck : (s.began port 0x10 h b n t).poolCheck (s.accepted port 0x10 h b n t).1 = none)
    (hnew : (s.began port 0x10 h b n t).job port (s.accepted port 0x10 h b n t).1.id = none) :
    (s.recv port 0x10 h b noise t).HasYoung (s.accepted port 0x10 h b n t).1 := by
  rw [State.recv_serveOp H (fun h => absurd h (by decide))]
  exact State.servePool_young hcheck hnew

/-- The job of an accepted operation is found by its request. -/
theorem State.HasYoung.shown {w : State} {r : Req} (h : w.HasYoung r) {x : Out} (hx : x = .next w) :
    ∃ (w : State) (j : PoolJob), x = .next w ∧ w.job r.port r.id = some j ∧ j.req = r ∧ ∀ i, j.at_ i = 0 ∨ j.at_ i = 1 := by
  obtain ⟨j, hj, hreq, hat⟩ := h.job
  exact ⟨w, j, hx, hj, hreq, hat⟩

/-- The oldest queued COPY or COMPARE of a partition starts at a slot with room. -/
theorem State.startAt_staged {s : State} {slot p : Nat} {j : PoolJob}
    (hj : s.reels.jobs.find? (fun j => j.part = p && j.at_ slot = 0) = some j) (htwo : poTwo j.cmd = true) (hroom : s.poolActive slot p < 2)
    (hreached : s.reached slot p = false) :
    (s.startAt j slot).2 = (s.setJob (s.askStages { j with slots := Tab.set j.slots slot 1 })).grantStage slot := by
  have hfound := List.find?_some hj
  rw [Bool.and_eq_true, decide_eq_true_eq, decide_eq_true_eq] at hfound
  obtain ⟨hpart, -⟩ := hfound
  rw [poTwo, Bool.or_eq_true, decide_eq_true_eq, decide_eq_true_eq] at htwo
  unfold State.startAt
  rw [hpart, hj]
  dsimp only
  have hgo : ¬ ((!decide (j.req.port = j.req.port ∧ j.req.id = j.req.id)) = true ∨ 2 ≤ s.poolActive slot p ∨ s.reached slot p = true) := by
    rw [decide_eq_true ⟨rfl, rfl⟩, hreached]
    simp only [Bool.not_true, Bool.false_eq_true, or_false, false_or]
    exact Nat.not_le_of_lt hroom
  rw [if_neg hgo, if_neg (by omega)]

theorem exec_poolOpDequeue {s : State} {slot p : Nat} {j : PoolJob}
    (hj : s.reels.jobs.find? (fun j => j.part = p && j.at_ slot = 0) = some j) (hguard : s.fl.inGuard = false) :
    exec (.poolOpDequeue slot p) s = .next (s.startAt j slot).2 := by
  refine congrArg Host.Outcome.next ?_
  rw [hguard, hj]
  rfl

theorem exec_stagingBufferGrant {s : State} {slot w : Nat} {j : PoolJob} (hnext : s.nextStage slot = some (j, w))
    (hsealed : s.isSealed j.part = false) (hguard : s.fl.inGuard = false) :
    exec (.stagingBufferGrant slot) s = .next ({ s.setJob { j with wins := Tab.set j.wins (w * 32 + slot) 2 } with
      reels := { (s.setJob { j with wins := Tab.set j.wins (w * 32 + slot) 2 }).reels with
        lastStage := Tab.set s.reels.lastStage slot j.part } }) := by
  have hsealed' : (s.setJob { j with wins := Tab.set j.wins (w * 32 + slot) 2 }).isSealed j.part = false := hsealed
  refine congrArg Host.Outcome.next ?_
  rw [hguard, if_neg Bool.false_ne_true, State.grantStage, hnext]
  dsimp only
  rw [hsealed', if_neg Bool.false_ne_true]
  rfl

theorem pair_of_fst {α β : Type} {x : α × β} {a : α} (h : x.1 = a) : x = (a, x.2) := by rw [← h]

theorem exec_poolOpWindowComplete {s u v : State} {port id w slot : Nat} {j : PoolJob} {gs : List (Nat × Nat)} (hjob : s.job port id = some j)
    (hwin : Tab.getD j.wins (w * 32 + slot) 0 = 2) (hscan : w ≤ j.scanned) (hreached : s.reached slot j.part = false)
    (hguard : s.fl.inGuard = false) (hgs : slotGranules (poA j.cmd + (j.winRange w).1) (j.winRange w).2 slot = gs)
    (hdst : s.poolWaits j.req.h.handle gs (poOp j.cmd = 2) = (false, u))
    (hsrc : u.poolWaits j.req.h.handle (gs.map (fun q => (poB j.cmd + (q.1 - poA j.cmd), 1))) false = (false, v)) :
    exec (.poolOpWindowComplete port id w slot) s = .next (v.windowDone j w slot ((gs.map (·.2)).sum)) := by
  have hgo : ¬ (s.fl.inGuard = true ∨ Tab.getD j.wins (w * 32 + slot) 0 ≠ 2 ∨ j.scanned < w) := by
    rw [hguard, hwin]
    simp only [Bool.false_eq_true, ne_eq, not_true_eq_false, false_or, Nat.not_lt]
    exact hscan
  refine congrArg Host.Outcome.next ?_
  rw [hjob]
  dsimp only
  rw [if_neg hgo, hreached, if_neg Bool.false_ne_true, hgs, hdst]
  dsimp only
  rw [hsrc, if_neg (by simp)]

theorem exec_poolOpComplete {s : State} {port id : Nat} {j : PoolJob} (hjob : s.job port id = some j) (hfin : j.finished = true)
    (hbad : j.bad = none) (hok : (s.poolOutcome j).1 = Code.ok) :
    exec (.poolOpComplete port id) s = .next (((s.dropJob j).engineCount j.coord 5 1).answer j.req 0x90 Code.ok (s.poolOutcome j).2) := by
  refine congrArg Host.Outcome.next ?_
  rw [hjob]
  dsimp only
  rw [hfin, if_neg (by decide), hbad, hok, if_neg (by simp)]

/-- Settles O33: an accepted operation has a young job; the other commands act as their definitions say. -/
theorem poolOperations : Obligations.PoolOperations := by
  intro s port n t a x len pat plen fmt func h
  refine ⟨fun b c hbc => ?_, fun slot p j hj htwo hroom hreached hguard => ?_, fun slot j w hnext hsealed hguard => ?_,
    fun id w slot j hjob hwin hscan hreached hguard => ?_, fun id j hjob hfin hbad hok => ?_⟩
  · intro u r H hcheck hnew
    have hyoung := recv_pool_young (noise := []) H hcheck hnew
    rcases hbc with ⟨rfl, rfl⟩ | ⟨rfl, rfl⟩ | ⟨rfl, rfl⟩ | ⟨rfl, rfl⟩
    · exact hyoung.shown rfl
    · exact hyoung.shown rfl
    · exact hyoung.shown rfl
    · exact hyoung.shown rfl
  · rw [exec_poolOpDequeue hj hguard, State.startAt_staged hj htwo hroom hreached]
  · exact exec_stagingBufferGrant hnext hsealed hguard
  · dsimp only
    generalize hgs : slotGranules (poA j.cmd + (j.winRange w).1) (j.winRange w).2 slot = gs
    generalize hdst : s.poolWaits j.req.h.handle gs (poOp j.cmd = 2) = y
    generalize hsrc : y.2.poolWaits j.req.h.handle (gs.map (fun q => (poB j.cmd + (q.1 - poA j.cmd), 1))) false = z
    intro hy hz
    rw [exec_poolOpWindowComplete hjob hwin hscan hreached hguard hgs (hdst.trans (pair_of_fst hy)) (hsrc.trans (pair_of_fst hz)),
      State.windowDone]
  · exact exec_poolOpComplete hjob hfin hbad hok

end Sys2Proof.Machine
